-- ==== Sys2Proof/Word.lean ====
section
/-! DEFINITION. The words the part moves: 32-bit register words, bytes, and the sparse store type in which
registers, tables, counters, contexts and buffers are held. -/

namespace Sys2Proof

/-- A register or table word (R379: every legal access is one or two of these). -/
abbrev Word := BitVec 32

/-- One byte of a frame, a descriptor or host memory. -/
abbrev Byte := BitVec 8

/-- A sparse store: pairs of key and value with keys strictly rising and no value equal to what an unlisted
key reads as.  The operations `sget` and `sset` in `Machine/Ops.lean` carry that default as an argument. -/
abbrev SMap (α : Type) := List (Nat × α)

end Sys2Proof
end

