-- ==== Sys2Proof/Syntax.lean ====
section
/-! DEFINITION. The commands the part takes: one constructor of `Instr` for each row of the table of operations and
events, with what the sender names or observes when it issues the command as operands. -/

namespace Sys2Proof

/-- The two requesters of the registers (R378). -/
inductive Req where
  | pcie | mgt
  deriving DecidableEq, Repr

/-- The four views of BAR0 (R378), by offset bits [21:20]. -/
inductive View where
  | normal | set | clear | toggle
  deriving DecidableEq, Repr

/-- A 32-bit write of one named register through a view. -/
structure RegWrite where
  req : Req
  view : View
  data : Word
  deriving DecidableEq, Repr

/-- What an access addresses (R198): the registers of BAR0, the doorbells of BAR2, the MSI-X table and PBA of BAR4, or the
function's configuration space. -/
inductive Bar where
  | regs | doorbells | msix | config
  deriving DecidableEq, Repr

/-- An access as it reaches the part: an offset, in BAR0 with its alias bits, length in bytes, one byte enable per byte named, the
data of a write with the lower dword first (R379), and what the offset lies in. -/
structure Access where
  req : Req
  off : BitVec 22
  len : Nat
  enables : List Bool
  lo : Word
  hi : Word
  bar : Bar := .regs
  deriving DecidableEq, Repr

/-- The instant of an event within the running tick: grains since its boundary and, for each PTP instance,
nanoseconds since its boundary. -/
structure Instant where
  grains : Nat
  ns0 : Nat
  ns1 : Nat
  deriving DecidableEq, Repr

/-- One fragment of a preempted frame as it arrives (R99): whether it starts a frame, the count a continuation carries, and
whether its mCRC is good. -/
structure RxFrag where
  start : Bool
  count : Nat
  crcOk : Bool
  deriving DecidableEq, Repr

/-- A frame as a port receives it: its octets with the FCS, whether the FCS is good, the fragments a preempted frame came in
(none for a frame sent whole), whether it is a verify mPacket, whether its reception began before the port's latest adoption,
the words trimmed where the receive siding lacked room, the 64-bit words read poisoned, a word read whose two end marks disagree,
the T-space words that fail parity, the instant and the port's own time in ns, and whether the arrival record read fails ECC (R97,
R99, R105, R189, R190, R241). -/
structure RxFrame where
  bytes : List Byte
  fcsOk : Bool
  frags : List RxFrag
  verify : Bool
  early : Bool
  trimmed : Option Nat
  poison : List Nat
  split : Option Nat
  badTable : List Nat
  inst : Instant
  ns : Nat
  eccRec : Bool
  deriving DecidableEq, Repr

/-- What the power die measures over a tick: PVDD in mV, die temperatures in °C, the 16-bit voltage and current sense
samples of A and B as they come to the house rate (R324), whether the RMS current of each channel reached ITHR (R339),
modulation words delivered poisoned and audio transfers that failed their CRC-8 by channel and sample (R323), sense words
delivered poisoned by source and sample, and the limited cycles of each channel short of 16 in a row (R331). -/
structure PowerIn where
  pvdd : Nat
  tempA : Int
  tempB : Int
  senseVA : List Word
  senseIA : List Word
  senseVB : List Word
  senseIB : List Word
  rmsA : Bool
  rmsB : Bool
  poison : List (Nat × Nat)
  linkBad : List (Nat × Nat)
  sensePoison : List (Nat × Nat)
  limitedA : Nat
  limitedB : Nat
  deriving DecidableEq, Repr

-- DESIGN CHOICE, log 94: safe.
/-- What the outside gives a tick as its boundary comes.  `ns0`, `ns1` and `ns` are the nanoseconds each PTP instance and
xo have passed since the boundary before, `clock` the ports' time at this one.  `sapFrames` holds the frames each serial
port took in, wire slot by wire slot, and `fill` the fill errors seen (R304).  The poison lists name words delivered with
a poison tag (R190): context, channel and sample for SRX and STX, ring, channel and sample for the feed and the draw, port,
frame and slot for the SAPs, engine, X port and sample for ENG, channel and sample for ASRC.  `full` names the lanes of the
transmit sidings, by port and queue, whose full flag lags by three words (R186), and `octets` the octet times each port has run
since its credits were last brought up to date (R94).  `badTable` lists T-space words that fail parity (R241), `engBad` engine words by engine, MEM code and
address (R286), `poolBad` pool words that have become uncorrectable, `storeBad` words of the fabric tick buffers read uncorrectable, by kind (0 a
source, 1 a sink), code and sample, `storeCe` how many reads of the sample store met a single-bit error (R413), and `mirBad` blocks of the mirror set read poisoned. -/
structure TickIn where
  ns0 : Nat
  ns1 : Nat
  ns : Nat
  clock : Nat
  sapFrames : List (Nat × List (List Word))
  fill : List (Nat × Int)
  srxPoison : List (Nat × Nat × Nat)
  stxPoison : List (Nat × Nat × Nat)
  feedPoison : List (Nat × Nat × Nat)
  drawPoison : List (Nat × Nat × Nat)
  sapiPoison : List (Nat × Nat × Nat)
  sapoPoison : List (Nat × Nat × Nat)
  engPoison : List (Nat × Nat × Nat)
  asrcPoison : List (Nat × Nat)
  full : List (Nat × Nat)
  octets : List Nat
  power : PowerIn
  badTable : List Nat
  engBad : List (Nat × Nat × Nat)
  poolBad : List Nat
  storeBad : List (Nat × Nat × Nat)
  storeCe : Nat
  mirBad : List Nat
  deriving DecidableEq, Repr

/-- What a start of the die samples and finds: BOOT[2:0] and PAIR_ID (R420), whether the SRAM BIST passes (R422), and
the level of each VIO bank, 1 for 1.8 V. -/
structure Straps where
  boot : Nat
  pairId : Bool
  bist : Bool
  vioA18 : Bool
  vioB18 : Bool
  deriving DecidableEq, Repr

/-- What the boot loader finds (R425): whether the flash image checks, the version and CRC the firmware reports, and the
PCI_SUBID and PID the image holds. -/
structure FwImage where
  valid : Bool
  version : Word
  crc : Word
  subid : Option Word
  pid : Option Nat
  deriving DecidableEq, Repr

/-- What wakes the part (R431). -/
inductive WakeBy where
  | port (p : Nat)
  | gpio (pin : Nat)
  deriving DecidableEq, Repr

/-- An event of R200. -/
inductive HostLoss where
  | link | flr | perst | d3hot
  deriving DecidableEq, Repr

/-- What the BMCA decides for an instance (R49): its port states, the grandmaster's identity and whether that is itself. -/
structure Bmca where
  stateA : Nat
  stateB : Nat
  gmId : Nat
  gmSelf : Bool
  deriving DecidableEq, Repr

/-- What a PTP message a port receives carries (R45), times in units of 1/4 ns: a one-step Sync with its origin time and the
rate ratio, or a two-step Sync and the Follow_Up that completes it; an Announce with what the BMCA makes of it; the response
to a path-delay request, with the responder's turnaround or the master's receipt time; a path-delay request; or a message
that is received and dropped. -/
inductive PtpMsgRx where
  | sync (origin : Option Int) (ratio : Int)
  | followUp (origin ratio : Int)
  | announce (x : Bmca)
  | pdelayResp (turn : Int) (capable : Bool)
  | delayResp (receipt : Int)
  | delayReq
  | other
  deriving DecidableEq, Repr

/-- A PTP message as a port receives it: its transport and domain, what it carries, the instant of its timestamp point, and the
words of it read poisoned from TIMRX (R46, R47, R414). -/
structure PtpRx where
  transport : Nat
  domain : Nat
  msg : PtpMsgRx
  inst : Instant
  poison : Nat
  deriving DecidableEq, Repr

/-- Kinds of PTP message the part sends (R45, R49). -/
inductive PtpKind where
  | sync | followUp | announce (priority1 priority2 clockClass gmId : Nat)
  | pdelayReq | delayReq | pdelayResp | pdelayRespFollowUp | delayResp
  deriving DecidableEq, Repr

/-- A PTP message the part sends: what it announces or answers, the timestamp it carries or was sent with and the receipt
time it returns (units of 1/4 ns), one-step or two-step, domain, transport (0 Ethernet, 1 IPv4, 2 IPv6), and for the UDP
transports its source addresses and whether its checksum is sent as zero (R45 to R48). -/
structure PtpMsg where
  inst : Nat
  port : Nat
  kind : PtpKind
  stamp : Int
  receipt : Int
  oneStep : Bool
  domain : Nat
  transport : Nat
  srcMac : Nat
  srcIp : Word
  csumZero : Bool
  deriving DecidableEq, Repr

/-- An instant within the running tick with the xo time since its boundary, in ns. -/
structure XoInstant where
  inst : Instant
  ns : Nat
  deriving DecidableEq, Repr

/-- Who reads a mailbox word, and whether it fails parity or its two end marks disagree (R190, R192). -/
structure MboxRead where
  req : Req
  parity : Bool
  marks : Bool
  deriving DecidableEq, Repr

/-- The cause of a failed descriptor fetch and the words of the return read poisoned (R232). -/
structure FetchErr where
  cause : Nat
  words : Nat
  deriving DecidableEq, Repr

/-- Where within a descriptor's data a read failed, and the cause (R232). -/
structure ReadErr where
  off : Nat
  cause : Nat
  deriving DecidableEq, Repr

/-- A mirror block to be sent again and the words of it read poisoned (R356, R414). -/
structure BlockSend where
  block : Nat
  poison : Nat
  deriving DecidableEq, Repr

/-- The port on which a frame ends and the octet times since the last command that brought its credits (R94). -/
structure PortTime where
  port : Nat
  octets : Nat
  deriving DecidableEq, Repr

/-- What a reference gives the servo (R53, R56): the oldest update of a Sync or a packet that waits, or an edge of WCLK_IN or
of a serial port's frame sync at an instant, with the rate of such edges in units of 1 mHz as the loop measures it; and with
either, for the first, the frequency offset the reference needs in units of 2^-40 (R59). -/
inductive RefIn where
  | waiting (need : Int)
  | edge (i : Instant) (rate : Nat)
  deriving DecidableEq, Repr

/-- A command of the block: a register access, an observed event or an operation of the table. -/
inductive Instr where
  /-- A write to a register with no row of its own, through the normal view or an alias, applied according to the
  access kind of each field (R383). -/
  | registerWrite (x : Access)
  /-- A normal-view read of an RC field or counter returns the value and clears exactly the bits returned (R386). -/
  | clearOnRead (x : Access) (i : Instant)
  /-- A read of a latching register copies its partner words into the requester's shadow (R387). -/
  | latchingRead (x : Access) (i : Instant)
  /-- A write of a group mask takes snapshots of the staged values, which apply at the next tick boundary (R13). -/
  | rcuStrobe (x : RegWrite)
  /-- A write to RCU_GRPMAP moves blocks between strobe groups at once, keeping their staged values (R11). -/
  | grpmapWrite (n : Nat) (x : RegWrite)
  /-- A write to RCU_LOCK sets the locks written as 1 until device reset (R392). -/
  | rcuLockWrite (x : RegWrite)
  /-- A write to RCU_CRC_REF arms comparison, lifts any mismatch and its mute, and restarts the comparison (R397). -/
  | crcRefWrite (x : RegWrite)
  /-- A write of RCU_IND_DATA writes the T-space word at RCU_IND_ADDR and optionally advances the address (R394). -/
  | indDataWrite (x : RegWrite)
  /-- A read of RCU_IND_DATA returns the T-space word at RCU_IND_ADDR once available and optionally advances the
  address (R394). -/
  | indDataRead (q : Req) (i : Instant)
  /-- The single permitted write of PAIR_ROLE sets UNIT and PID and locks the register (R346). -/
  | pairRoleWrite (x : RegWrite)
  /-- The single permitted write of PCI_SUBID sets the subsystem IDs and locks the register (R197). -/
  | pciSubidWrite (x : RegWrite)
  /-- A write naming a unit in hard stop requests its reset at the next tick boundary (R240). -/
  | rcuBrst (x : RegWrite)
  /-- At the tick boundary after RCU_BRST the unit's sidings are emptied, its state cleared and its hard-stop bit
  cleared (R240). -/
  | blockReset
  /-- A complete configuration CRC pass writes RCU_CRC_LAST and updates MATCH (R396). -/
  | crcPassEnd (parity : Bool)
  /-- Media position reaches a multiple of T, and the data plane advances one tick (R31). -/
  | tickBoundary (x : TickIn)
  /-- A serial port adopts its applied values at the first frame sync after the boundary (R296). -/
  | sapAdopt (p : Nat)
  /-- The power die adopts values at the first PWM cycle at least 2 µs after the boundary once they have crossed the
  link (R15). -/
  | pwrAdopt
  /-- A tick-length change is adopted at the first boundary that is a multiple of 32 samples (R32). -/
  | tickLengthAdopt
  /-- A write to a departure register applies at once, or is discarded with WHILE_ARMED if armed (R35). -/
  | departureWrite (d n : Nat) (x : RegWrite)
  /-- A write of TT_DCTL.ARM = 1 checks and arms a departure or refuses it with a cause (R37). -/
  | arm (d : Nat) (q : Req)
  /-- A write of TT_DCTL.ARM = 0 disarms a departure (R37). -/
  | disarm (d : Nat) (q : Req)
  /-- A write of TT_CTL.DISARM_ALL disarms every departure at once (R35). -/
  | disarmAll (q : Req)
  /-- A PTP message classified to TIM is processed by its instance (R45). -/
  | ptpFrameRx (p i : Nat) (x : PtpRx)
  /-- At each Sync interval a master port of an instance sends Sync (R45). -/
  | syncTx (i p : Nat)
  /-- At each Announce interval an instance sends Announce with its grandmaster values (R49). -/
  | announceTx (i p : Nat)
  /-- No Sync for three intervals takes the instance out of SYNCED (R60). -/
  | syncReceiptTimeout (i : Nat)
  /-- No Announce for three intervals takes the instance out of SYNCED and reruns the BMCA (R60). -/
  | announceReceiptTimeout (i : Nat) (x : Bmca)
  /-- TIM_CTL.SET loads the set registers into an instance's time, or is refused with SET_REFUSED (R51). -/
  | timeSet (i : Nat) (q : Req)
  /-- A PPS_IN rising edge is timestamped and raises TIM_PPS_IN (R49). -/
  | ppsInEdge (x : XoInstant)
  /-- PPS_OUT rises at each whole second of its source, shifted by TIM_PPS_ADJ (R52). -/
  | ppsOut
  /-- A Sync-derived time, CRF or stream packet, or WCLK or SAP frame-sync edge gives the servo a phase error (R56). -/
  | referenceUpdate (edge : Option Instant) (rate : Nat) (need : Int)
  /-- At the next boundary after first qualification media position is set to the phase target and RATE_OK becomes 1
  (R57). -/
  | mediaPositionSet (pos : Nat)
  /-- At the first boundary after MODE 5 is adopted MCR enters LOCKED and sets media position if RATE_OK is 0 (R58). -/
  | masterModeEntry
  /-- After 1 s in ACQUIRE with small phase MCR enters LOCKED (R56). -/
  | mcrLock
  /-- After 100 ms with phase above four times the threshold MCR returns to ACQUIRE (R56). -/
  | lockLost
  /-- No valid update for MCR_LOSS ms, or the instance leaving SYNCED, loses the reference (R60). -/
  | referenceLoss
  /-- At the next boundary after loss MCR switches to the other SYNCED instance (R60). -/
  | failover
  /-- A needed frequency outside the window for 100 ms requests a fenced relock with a new centre (R59). -/
  | windowMove (centre : Int)
  /-- The slew or correction reaches 0 and MCR enters LOCKED (R63). -/
  | slewComplete
  /-- At the next boundary after a declared discontinuity every sink starts its mute ramp (R65). -/
  | stepRampDown
  /-- At the end of the ramp media position steps by the rounded jump, and the sinks ramp up (R65). -/
  | mcrStep
  /-- No xo edge for four aon periods: outputs Hi-Z, ports stop, and the device restarts from POR (R71). -/
  | xoLoss
  /-- A SerDes or PCIe PLL is within ±100 ppm for two 1 ms windows and declares lock (R70). -/
  | serdesPllLock (lane : Nat)
  /-- A SerDes PLL loses lock, its port or link goes down and SERDES_UNLOCK is set (R70). -/
  | serdesUnlock (lane : Nat)
  /-- A media PLL loses lock outside RELOCK; a fenced relock follows at the next boundary (R80). -/
  | synUnlock
  /-- A write of SYN_CTL.RELOCK requests a fenced relock (R76). -/
  | relock (q : Req)
  /-- At a boundary a fenced relock begins: the fence moves to holdover and sinks ramp to mute (R76). -/
  | synRelock
  /-- The relock mute ramp ends and step 3 begins: PLL reloaded, detector discharged (R77). -/
  | relockRampDownEnd
  /-- The media PLL lock detector declares lock and the counter check starts (R74). -/
  | mpllLock
  /-- The 25 000-cycle counter check ends, passing or failing, with its count in SYN_MCNT (R77). -/
  | counterCheckEnd (n : Nat)
  /-- Step 3 exceeds TIMEOUT and is retried or abandoned (R79). -/
  | relockTimeout
  /-- At the next boundary after a passed check the fence switches back to the PLL and the ramp up starts (R77). -/
  | fenceSwitchBack
  /-- The ramp up ends and MCR leaves RELOCK (R77). -/
  | relockEnd (pos : Nat)
  /-- A write of PMU_MDIO_CMD queues a software MDIO transaction or is discarded with COLLIDE (R85). -/
  | mdioCommand (x : RegWrite)
  /-- An MDIO transaction ends; for software DONE is set and MDIO_DONE raised (R85). -/
  | mdioDone (v : Nat)
  /-- Every INTERVAL ms the port reads the PHY link bit into PHY_LINK (R86). -/
  | phyPoll (p ms : Nat)
  /-- MAC_CTL.RETRAIN runs the script for the running rung and relinks (R87). -/
  | retrain (p : Nat) (q : Req)
  /-- MAC_CTL.REVERIFY restarts preemption verification (R97). -/
  | reverify (p : Nat) (q : Req)
  /-- MAC_CTL.HOLD_END ends the pause watchdog hold (R103). -/
  | holdEnd (p : Nat) (q : Req)
  /-- A script write not issued within 10 ms sets MDIO_ERR and RETRAIN_FAIL and the port stays down (R87). -/
  | retrainFail (p : Nat)
  /-- EN, lane lock and PHY link all hold: LINK rises and MAC_LINK is raised (R88). -/
  | linkUp (p : Nat)
  /-- The port goes down: queued frames discarded, frame in flight cut off, pause and verification reset (R91). -/
  | linkDown (p : Nat)
  /-- Every VERIFY_TIME ms a verify mPacket is sent, up to three times (R97). -/
  | verifySend (p : Nat)
  /-- A verify response activates preemption (R97). -/
  | verifyResponse (p : Nat)
  /-- At a start point the port starts the first eligible frame in queue order (R92). -/
  | frameTxStart (p octets bad : Nat) (i : Instant)
  /-- A host fragment is closed with its mCRC once the limits allow, so an eligible express frame can go (R98). -/
  | preemption (p octets sent : Nat)
  /-- A frame finishes on the wire; counters update and a host frame completes OK (R210). -/
  | frameTxEnd (x : PortTime)
  /-- A received frame is checked, committed or rewound in the receive siding, and classified (R105). -/
  | frameRx (p : Nat) (x : RxFrame)
  /-- A received PAUSE stops the host queues, or all queues in strict mode (R100). -/
  | pauseRx (p quanta : Nat)
  /-- A received PFC frame stops the queues matching the named priorities (R100). -/
  | pfcRx (p enables : Nat) (times : List Nat)
  /-- A queue's pause time runs out and the queue restarts (R102). -/
  | pauseExpiry (p k : Nat) (pfc : Bool)
  /-- A queue stopped for MAC_PAUSE_WD µs makes the watchdog end every stop and start a hold (R103). -/
  | pauseBroken (p : Nat)
  /-- The watchdog hold of MAC_PAUSE_HOLD ms ends (R103). -/
  | pauseHoldExpiry (p : Nat)
  /-- STX_CTL.STOP_ALL stops every transmit context at the next boundary (R133). -/
  | stxStopAll (q : Req)
  /-- After WAIT ticks a waiting group starts anyway and members without data enter underrun (R156). -/
  | groupTimeout (g : Nat)
  /-- SRX_CTL.STOP_ALL stops every receive context at the next boundary (R161). -/
  | srxStopAll (q : Req)
  /-- After the 32-sample stop fade the context stops and its jitter sidings empty (R161). -/
  | srxStopEnd (c : Nat)
  /-- No accepted copy for RESET ms resets the recovery window (R169). -/
  | windowReset (c : Nat)
  /-- No copy on a path for LOSS ms makes the path DOWN (R173). -/
  | pathLoss (c p : Nat)
  /-- An impaired path with no miss for HEALTH × 10 ms becomes HEALTHY (R173). -/
  | pathHealthy (c p : Nat)
  /-- Each second DPC measures utilisations and updates eligibility and hold counts (R176). -/
  | utilisationSecond
  /-- A hold count reaching HOLD orders a one-rung downshift at the next boundary (R176). -/
  | downshift
  /-- DPC_CTL.DS_NOW_A or DS_NOW_B orders a downshift or is refused with DS_REFUSED (R176). -/
  | dsNow (p : Nat) (q : Req)
  /-- DPC_CTL.CLR_HOLD sets the hold counts to 0 (R176). -/
  | clrHold (q : Req)
  /-- An upshift required by reservations begins at the first boundary with no change on the other port (R179). -/
  | reservationUpshift (p : Nat)
  /-- A write of SDG_NDATA appends a word to the open mailbox item (R192). -/
  | mailboxAppend (n : Nat) (x : RegWrite)
  /-- A write of SDG_NDATAEND appends the last word with its end mark and makes the item visible (R192). -/
  | mailboxAppendEnd (n : Nat) (x : RegWrite)
  /-- A read of SDG_NDATA takes one word, or sets UNDERRUN when empty (R192). -/
  | mailboxTake (n : Nat) (x : MboxRead)
  /-- SDG_NCTL.FLUSH empties a mailbox at the consumer side at once (R194). -/
  | flush (n : Nat) (q : Req)
  /-- The flush reaches the producer's domain and discards its partial packet (R194). -/
  | flushProducer (n : Nat)
  /-- A doorbell write of PI is accepted, or discarded with DB_ERR (R203). -/
  | doorbellPi (p : Nat) (w : Word)
  /-- A doorbell write of CCI releases completion slots, or is discarded with DB_ERR (R203). -/
  | doorbellCci (p : Nat) (w : Word)
  /-- RNG_PCFG.EN = 1 on a disabled ring zeroes its indices and starts it (R202). -/
  | ringEnable (p size : Nat) (q : Req)
  /-- RNG_PCFG.EN = 0 stops fetching and completes outstanding descriptors ABANDONED (R202). -/
  | ringDisable (p : Nat) (q : Req)
  /-- RNG_PCTL.RESTART resumes a halted ring at CI (R235). -/
  | restart (p : Nat) (q : Req)
  /-- A descriptor read from host memory returns and is acted on by its ring (R206). -/
  | descriptorFetch (p : Nat) (dw : List Word)
  /-- A failed descriptor fetch halts the ring and completes the descriptor DESC_ERR (R232). -/
  | descErr (p : Nat) (x : FetchErr)
  /-- A failed host data read halts the ring and completes the descriptor DMA_ERR (R232). -/
  | dmaErr (p slot : Nat) (x : ReadErr)
  /-- A completion entry is written once the completion slot is released (R205). -/
  | completionWrite (p : Nat) (poison : Bool)
  /-- TIMER µs after the first unsignalled completion the ring signals (R225). -/
  | ringIrqTimer (p : Nat)
  /-- Command that does nothing and completes OK (R209). -/
  | nop
  /-- Command that starts a range of transmit contexts at POS or the next boundary (R209). -/
  | cmdStxStart
  /-- Command that stops a range of transmit contexts (R209). -/
  | cmdStxStop
  /-- Command that starts a range of receive contexts (R209). -/
  | cmdSrxStart
  /-- Command that stops a range of receive contexts (R209). -/
  | cmdSrxStop
  /-- Command that starts a feed or draw ring after its checks (R216). -/
  | audStart
  /-- Command that stops a feed or draw ring at its boundary (R224). -/
  | audStop
  /-- Command that fires strobe groups at once or at its POS boundary (R209). -/
  | strobe
  /-- Command that writes a departure and optionally arms it (R209). -/
  | ttLoad
  /-- Command that copies words from host memory into staged T-space (R209). -/
  | tblWrite
  /-- Command that copies staged or applied T-space words to host memory (R209). -/
  | tblRead
  /-- Command that holds the ring until its POS boundary (R208). -/
  | waitPos
  /-- Command that starts a self-test or calibration on an idle unit (R243). -/
  | selftest
  /-- A reserved opcode completes BADCMD (R209). -/
  | badcmd
  /-- A command with a non-zero POS acts at that boundary and then completes (R208). -/
  | commandAtPos
  /-- A self-test finishes and its command completes with the result (R243). -/
  | selftestEnd (fail : Bool) (detail : Nat)
  /-- A whole host-bound frame is written into posted FRX buffers once they exist (R213). -/
  | hostFrameWrite
  /-- A frame without buffers for RNG_RXWAIT µs is dropped whole (R213). -/
  | rngRxdrop
  /-- A feed block is read once its POS is within AHEAD ticks and the FEED siding has room (R217). -/
  | feedBlockRead (p : Nat)
  /-- Link loss, FLR, PERST_N fall or D3hot with a ring enabled resets PCI and RNG alone (R200). -/
  | hostReset (e : HostLoss)
  /-- MSI-X Enable going to 1 issues one message per vector with a pending source (R406). -/
  | msixEnable (b : Bool)
  /-- A change of Interrupt Disable gates or re-asserts INTA (R407). -/
  | interruptDisable (b : Bool)
  /-- A write of EVT_MASK applies at once and unmasked raised sources become pending (R405). -/
  | maskWrite (k : Nat) (x : RegWrite)
  /-- Die above 115 °C sets PMU_FLAGS.THERMAL and raises THERMAL (R231). -/
  | thermal (t : Int)
  /-- Die above 135 °C mutes every sink over 1 ms and holds the die in reset (R231). -/
  | overtemp (t : Int)
  /-- Die below 110 °C releases the reset and the part starts as from POR (R231). -/
  | overtempRelease (t : Int) (x : Straps)
  /-- The 100 ms watchdog restarts the management core from flash and flushes the mailboxes (R231). -/
  | mgtWatchdog
  /-- After 1 s of running following a restart an engine's recovery window ends (R231). -/
  | engineWindowEnd (e : Nat)
  /-- MIX_CTL.COPY starts copying the active bank of every mode-1 region into the inactive bank (R264). -/
  | mixCopy (q : Req)
  /-- The bank copy completes and held T-space writes are applied (R264). -/
  | mixCopyEnd
  /-- MIX_CTL.SL_GO captures up to 16 safe-load pairs, or is refused or discarded (R265). -/
  | slGo (count : Nat) (q : Req)
  /-- At the next boundary the captured safe-load set applies and ramps (R265). -/
  | safeLoadApply
  /-- A deferred crossfade begins at the first boundary with a free slot (R250). -/
  | deferredCrossfadeStart (j : Nat)
  /-- A running crossfade ends and the pending change begins (R248). -/
  | crossfadeEnd (j : Nat)
  /-- ENG_CTL.CLEAR zeroes accumulators, conditions, Y ports and local memory at the next boundary (R283). -/
  | engClear (e : Nat) (q : Req)
  /-- ENG_CTL.DCLR zeroes the engine's delay window from the next boundary (R281). -/
  | dclr (e : Nat) (q : Req)
  /-- Zeroing and its Z samples finish and DCLEARING clears (R281). -/
  | windowZeroEnd (e : Nat)
  /-- ENG_CTL.SL_GO captures a coefficient safe-load set for the next boundary (R285). -/
  | engSlGo (e count : Nat) (q : Req)
  /-- ENG_CTL.COPY copies active coefficient banks into inactive ones (R285). -/
  | engCopy (e : Nat) (q : Req)
  /-- A write of the ENG_LMDATA registers writes local memory while not RUNNING (R289). -/
  | lmDataWrite (e : Nat) (hi : Bool) (x : RegWrite)
  /-- A read of ENG_LMDATA_HI completes a local memory read and advances the address (R289). -/
  | lmDataRead (e : Nat) (q : Req)
  /-- The data of a DRD or DRI reaches its destination at the sixth cycle after issue (R272). -/
  | poolDataArrival (e : Nat)
  /-- SAP_CTL.START starts the port at the next boundary as a SAP_START would (R301). -/
  | sapCtlStart (p : Nat) (q : Req)
  /-- SAP_CTL.STOP begins the port's stop ramp at the next boundary (R300). -/
  | sapCtlStop (p : Nat) (q : Req)
  /-- SAP_CTL.RESTART fades, flushes and resumes the port from its next boundary (R306). -/
  | sapCtlRestart (p : Nat) (q : Req)
  /-- Every 64 frames the port classifies its rate and adopts a new class on two agreements (R298). -/
  | sapRatechg (p cls : Nat)
  /-- Once a second SAP_RATE is updated from frames timed on xo (R299). -/
  | sapRateUpdate (p rate : Nat)
  /-- A slave's missing bit clock or frame sync, or wrong class, mutes the port and opens its window (R302). -/
  | sapClkloss (p cause : Nat)
  /-- A lost clock agreeing again on its rate triggers a restart (R303). -/
  | sapClockReturn (p : Nat)
  /-- A frame sync at a wrong bit count realigns the shift logic and counts as a slip (R304). -/
  | framingError (p : Nat)
  /-- After its fade a restarting port or alignment group resumes at the next boundary and ramps up (R306). -/
  | sapResume (p : Nat)
  /-- A port's stop ramp ends and the port stops (R300). -/
  | sapStopEnd (p : Nat)
  /-- The ramp up after a restart ends and closes the port's recovery window (R308). -/
  | sapRampUpEnd (p : Nat)
  /-- A rate tracker reaches LOCKED after settling (R313). -/
  | trackerLock (p ratio : Nat)
  /-- A tracker falls from LOCKED to ACQUIRE and raises ASRC_UNLOCK (R313). -/
  | asrcUnlock (p : Nat)
  /-- A tracker enters RANGE and raises ASRC_RANGE (R313). -/
  | asrcRange (p : Nat)
  /-- A channel with a locked tracker and a full filter fades in over 32 samples (R314). -/
  | asrcFadeIn (n : Nat)
  /-- PWR_WCTL.ARM_A or ARM_B arms a power channel at the next boundary (R327). -/
  | pwrWctlArm (c : Nat) (q : Req)
  /-- PWR_WCTL.STOP_A or STOP_B stops a power channel at the next boundary (R328). -/
  | pwrWctlStop (c : Nat) (q : Req)
  /-- PWR_WCTL.RETRY_NOW brings a pending retry forward to the next boundary (R332). -/
  | retryNow (c : Nat) (q : Req)
  /-- A 40 ms diagnostic run ends and passes to CM_UP or faults with cause DIAG (R330). -/
  | diagEnd (c res r : Nat)
  /-- The common-mode ramp up reaches PVDD/2 (R327). -/
  | cmRampEnd (c : Nat)
  /-- At the first boundary after the ramp the channel enters RUN and its mute stage ramps up (R327). -/
  | runEntry (c : Nat)
  /-- A stopping channel's audio ramp ends and the common-mode ramp down begins (R328). -/
  | audioRampDownEnd (c : Nat)
  /-- The common mode reaches 0 V and the channel enters OFF (R328). -/
  | cmRampDownEnd (c : Nat)
  /-- Sixteen consecutive limited cycles take the channel to Hi-Z in FAULT with cause OC (R331). -/
  | pwrOc (c : Nat)
  /-- INTERVAL ms after a fault the channel retries with diagnostics (R332). -/
  | pwrRetry (c : Nat)
  /-- A channel running 1 s without fault clears its retry count (R332). -/
  | retrySuccess (c : Nat)
  /-- Die at 140 °C takes the channel to Hi-Z in FAULT with cause THERMAL (R334). -/
  | pwrTherm (c : Nat) (t : Int)
  /-- PVDD out of range takes active channels to Hi-Z in FAULT with cause PVDD (R336). -/
  | pwrPvdd (mv : Nat)
  /-- PVDD in range for 100 ms restarts the channel from diagnostics (R336). -/
  | pvddRestore (mv : Nat)
  /-- PVDD below PVDD_MIN ramps the mute stage down and raises PWR_BATT (R337). -/
  | battMute (c mv : Nat)
  /-- PVDD at or above PVDD_MIN + 0.5 V for 100 ms ramps the mute stage up (R337). -/
  | battUnmute (c mv : Nat)
  /-- Signal below −90 dBFS for 100 ms enters idle modulation (R322). -/
  | idleEntry (c : Nat)
  /-- An estimate held at a bound for 10 s sets AT_BOUND and raises PWR_MODEL (R339). -/
  | pwrModel (c k : Nat)
  /-- A power-die register transfer failing CRC or unacknowledged in 2 µs is retried; 16 failures hard-stop the link
  (R343). -/
  | linkTransferFail
  /-- No valid link frame for 100 µs makes the power die take both channels to Hi-Z (R342). -/
  | powerDieSelfProtect
  /-- A power-die register word failing parity takes its channels to Hi-Z and is reloaded (R345). -/
  | regpar (o : Nat)
  /-- PAIR_CTL.ENTER requests pair mode at the next boundary (R347). -/
  | enter (q : Req)
  /-- At the next boundary the unit enters pair mode or refuses with a cause (R347). -/
  | pairModeEntry
  /-- PAIR_CTL.RELEASE makes the holder stop driving and send RELEASE (R368). -/
  | release (q : Req)
  /-- PAIR_CTL.REPORT sends a STANDBY_REPORT (R360). -/
  | report (q : Req)
  /-- PAIR_CTL.REFRESH makes the holder begin a refresh (R359). -/
  | refresh (q : Req)
  /-- PAIR_CTL.UNDARK lets a dark unit accept newer grants again (R370). -/
  | undark (q : Req)
  /-- A MIRROR block arrives and is kept or rewound on a bad CRC (R352). -/
  | mirrorBlockRx (bytes : List Byte) (oversize : Option Nat) (poison : Nat)
  /-- A STATUS block from the peer updates acknowledgements, link and peer state (R353). -/
  | statusBlockRx (bytes : List Byte) (oversize : Option Nat) (poison : Nat)
  /-- A MIRROR block unacknowledged 2 µs after its end is repeated (R356). -/
  | blockRepeat (x : BlockSend)
  /-- The standby applies a complete mirror set at the first boundary after its last block (R357). -/
  | mirrorSetApply
  /-- No good block for HBLOSS ticks takes the Imluind link down (R353). -/
  | heartbeatLoss
  /-- A received GRANT is accepted, adopted as the other unit's, or rejected (R361). -/
  | grant (bytes : List Byte) (poison : Bool) (grains : Nat)
  /-- At the first boundary after acceptance the unit adopts the tablet and enters TAKEOVER (R362). -/
  | grantAdopt
  /-- One tick after adoption the unit begins to drive and its outputs ramp up (R349). -/
  | driveStart
  /-- Media position reaching E − T without renewal stops driving and enters STANDBY (R364). -/
  | selfFence
  /-- A RELEASE from the signal box with DARK = 1 makes the unit DARK (R370). -/
  | releaseRx (bytes : List Byte) (poison : Bool)
  /-- VIN valid runs the power-on sequence through xo, PLL, SRAM BIST and firmware load (R418). -/
  | powerOn (x : Straps)
  /-- The management core finishes loading firmware from flash or ROM and sets READY (R425). -/
  | firmwareReady (x : FwImage)
  /-- A RESET_N low of at least 10 µs resets the device (R419). -/
  | resetN (us : Nat) (seen : Bool)
  /-- PERST_N rising lets the endpoint answer configuration and start link training (R421). -/
  | perstNRelease
  /-- A fall of VIO_A or VIO_B sets SUPPLY and raises THERMAL with no reset (R423). -/
  | vioFall (b : Nat)
  /-- PMU_SLEEP.ENTER starts the sleep entry at the next boundary (R430). -/
  | sleepEnter (q : Req)
  /-- A wake match, GPIO edge, RESET_N or POR wakes the part as a device reset (R431). -/
  | wake (w : WakeBy) (x : Straps)
  /-- A write of MGT_DBELL tells the core an item waits in MB0 or MB2 (R428). -/
  | mgtDbell (x : RegWrite)
  /-- Mailbox request returning the firmware version and image CRC (R428). -/
  | getVersion
  /-- Mailbox request returning flash words in MB1 (R428). -/
  | flashRead (fail : Bool)
  /-- Mailbox request writing flash from an MB2 item (R428). -/
  | flashWrite (busy fail : Bool)
  /-- Mailbox request erasing flash sectors (R428). -/
  | flashErase (busy fail : Bool)
  /-- Mailbox request setting the firmware role (R428). -/
  | role
  /-- Mailbox request that restarts the core from flash after replying (R428). -/
  | reboot
  /-- An SPI slave write frame reaches a mailbox or a translated GT20 register (R427). -/
  | msWrite (a : Nat) (d : Word) (gt20 : List (Nat × Word))
  /-- An SPI slave read frame returns a mailbox word, status or GT20 register (R427). -/
  | msRead (a : Nat) (gt20 : Option Nat)
  /-- The scrub finds an ECC error, corrects and writes back or records it (R413). -/
  | scrubError (fixable : Bool) (a : Nat)
  /-- Once xo has run for 5 ms after a loss, the digital die leaves reset and starts as from POR (R71). -/
  | xoReturn (x : Straps)
  /-- An engine's coefficient bank copy completes, COPYING clears and held T-space writes are applied (R285). -/
  | engCopyEnd (e : Nat)
  /-- A channel's die temperature rising above FOLD lowers its thermal gain, setting FOLD and raising PWR_THERM on
  the first reduction (R334). -/
  | thermalFoldback (c : Nat) (t : Int)
  /-- PVDD falling below KNEE lowers the battery gain, setting BATT on the first reduction (R337). -/
  | batteryLimit (c mv : Nat)
  /-- WIDTH µs after PPS_OUT rises, the pulse ends and the pin returns to its idle level (R52). -/
  | ppsOutPulseEnd
  /-- At its interval a PTP port sends a Pdelay_Req (peer-to-peer) or Delay_Req (delay request-response) to measure
  path delay (R45). -/
  | pathDelayReqTx (i p : Nat)
  /-- A fallen VIO bank recovers, its level is sampled again and its pins become defined (R435). -/
  | vioRecovery (b : Nat) (v18 : Bool)
  /-- VIN, VCORE or VSERDES falling below its limit puts the device into power-on reset (R423). -/
  | vinInvalid (k : Nat)
  /-- RESET_N rising releases a recognised device reset, the straps are sampled and the start sequence runs (R419). -/
  | resetNRelease (x : Straps)
  /-- Read data for an FTX buffer, feed block or TBL_WRITE source returns from host memory and is used (R232). -/
  | dataReadReturn (p slot : Nat) (bytes : List Byte)
  /-- PCIe link training completes and PCI_LINK.UP becomes 1 (R421). -/
  | pcieLinkUp (speed width : Nat)
  /-- A received TLP failing ECRC is dropped, PCI_FLAGS.ECRC_ERR set and PCI_ERR raised (R412). -/
  | ecrcErr
  /-- The Imluind lane loses block lock, taking PAIR_STAT.LINK down at once (R353). -/
  | pairBlockLockLoss
  deriving DecidableEq, Repr

end Sys2Proof
end

