-- ==== Sys2Proof/Decode.lean ====
section
/-! DEFINITION. Words of the command table.  The table of operations and events gives its rows no bits: a command is
named, and what it carries is its sender's, so no word spells one. -/

namespace Sys2Proof

-- DESIGN CHOICE, log 6: safe.
/-- The command a table word spells: none. -/
def decodeTableWord (_nbits _w : Nat) : Option Instr := none

end Sys2Proof
end

