-- ==== Sys2Proof/Config.lean ====
section
/-! DEFINITION. What a device fixes and what the spec leaves open: constants with no body, so that nothing proved
about the part rests on a value the spec does not give.  Each is named in a row of the assumption log. -/

namespace Sys2Proof.Config

-- DESIGN CHOICE, log 8: safe.
/-- GEN_ID.REV: the silicon revision of this device. -/
opaque revision : BitVec 8

-- DESIGN CHOICE, log 8: safe.
/-- The unique device number of GEN_UID_LO and GEN_UID_HI. -/
opaque uid : BitVec 64

-- DESIGN CHOICE, log 11: safe.
/-- A fresh natural number for a value the spec leaves open. -/
opaque freeNat : Nat → Nat

-- DESIGN CHOICE, log 19: safe.
/-- Which words a bank copy had copied when a swap ended it (R264): free-value index and word address. -/
opaque freePick : Nat → Nat → Bool

-- DESIGN CHOICE, log 12: safe.
/-- Junction output at sample `n` of a crossfade of `len` samples, before its last sample (R247 holds the cosine and
sine weights to 24 bits and does not say how weights and products are rounded).  Arguments: old, new, n, len. -/
opaque xfade : Int → Int → Nat → Nat → Int

-- DESIGN CHOICE, log 13: safe.
/-- Gain of a standard-path limiter at a sample, in units of 2^-24: R258 gives the bound and the law in dB, not the
arithmetic.  Arguments: gain before, gain needed now, least gain needed in the lookahead, RELEASE in ms, rate code. -/
opaque limGain : Nat → Nat → Nat → Nat → Nat → Nat

-- DESIGN CHOICE, log 13: safe.
/-- Gain of a low-delay limiter at a sample (R259), same units.  Arguments: gain before, gain needed, LD_ATTACK,
RELEASE in ms, rate code. -/
opaque limGainLow : Nat → Nat → Nat → Nat → Nat → Nat

-- DESIGN CHOICE, log 14: safe.
/-- Oscillator offset the servo of MCR sets at a reference update, in units of 2^-40 (the loop's gains are not
given).  Arguments: offset before, phase error in grains, loop bandwidth code, 1 in ACQUIRE. -/
opaque servo : Int → Int → Nat → Nat → Int

-- DESIGN CHOICE, log 15: safe.
/-- Triangular dither added to a 16-bit stream sample, in output LSB times 2^10 (R128's conversion table gives its
shape and peak, not its values): context, label, channel. -/
opaque dither : Nat → Nat → Nat → Int

-- PRESUMED, log 20: safe.
/-- Octets of a PTP message the part sends, from all the message is made of (IEEE 802.1AS and IEEE 1588 lay the octets down,
not this spec). -/
opaque ptpFrame : PtpMsg → List Byte

-- PRESUMED, log 43: safe.
/-- The mCRC of a fragment, from the octets of its frame up to the fragment's end (IEEE 802.3br, R98). -/
opaque mcrc : List Byte → BitVec 32

-- PRESUMED, log 43: safe.
/-- The bounds of a stream class's credit, in kb/s times octet times (R94 names what they follow from, not their values): class,
MAC_MAXLEN, and the two idle slopes in force with the line rate. -/
opaque creditHigh : Nat → Nat → Nat → Nat → Nat → Nat
-- PRESUMED, log 43: safe.
opaque creditLow : Nat → Nat → Nat → Nat → Nat → Nat

-- DESIGN CHOICE, log 16: safe.
/-- A sample of a rate converter channel: R315 fixes its delay and the bounds of its filter, not its arithmetic.
Arguments: channel, label or frame, index in the block, and the words the channel took in. -/
opaque asrcSample : Nat → Nat → Nat → List Int → Int

-- DESIGN CHOICE, log 17: safe.
/-- A channel's sample after its power limiters while one of them reduces (R319, R334, R337, R340 give targets and time
constants, not arithmetic).  Arguments: channel, label, the three reductions in 0.25 dB, and the sample. -/
opaque powerSample : Nat → Nat → Nat → Nat → Nat → Int → Int

-- DESIGN CHOICE, log 18: safe.
/-- Full scale in force during a ramp from one to the other (R321): old, new, sample, length, in 0.1 V. -/
opaque fullScale : Int → Int → Nat → Nat → Int

-- DESIGN CHOICE, log 17: safe.
/-- A driver estimate after a tick of adaptation (R339): channel, parameter and free-value index. -/
opaque estimate : Nat → Nat → Nat → Nat

-- DESIGN CHOICE, log 17: safe.
/-- Coil temperature in 0.1 °C where the quotient of R338 has no value, its ALPHA or Re NOM being 0: estimate, NOM and
PWR_COIL. -/
opaque coilTemp : Nat → Nat → BitVec 32 → Int

-- PRESUMED, log 46: unsafe.
/-- A dword of the function's configuration space other than those of R197, by offset (the PCI Express Base Specification lays the
space down, not this spec). -/
opaque pciConfig : Nat → BitVec 32

-- DESIGN CHOICE, log 105: safe.
/-- Byte address in the sample store of a word (R24 gives the regions' sizes, not their layout): 0 jitter sidings, 1 merge windows,
2 delay pool, 3 fabric tick buffers; the unit; and the word's index in it. -/
opaque storeAddr : Nat → Nat → Nat → Nat

-- DESIGN CHOICE, log 21: safe.
/-- The word at a word index of the SPI flash as the board carries it (its contents are the integrator's, R425). -/
opaque flashImage : Nat → BitVec 32

-- DESIGN CHOICE, log 102: safe.
/-- The sample that a sink moving to the low-delay path leaves out of a stream or draw ring which reads both paths (R256 skips it,
R117 and R220 keep the grid): context, or 128 and the ring pair; sink; label. -/
opaque skipped : Nat → Nat → Nat → Int

end Sys2Proof.Config
end

