-- ==== Sys2Proof/Machine/State.lean ====
section
/-! DEFINITION. The state of the AL880: every register store, table, counter, siding, context and engine the
spec gives the part, as plain data, and the state right after a device reset. -/

namespace Sys2Proof.Machine

/-- Why a run stops.  No command of this model raises a fault: the spec gives every one of its steps an effect. -/
inductive Fault where
  /-- Raised by nobody (safe): kept so that a later repair has a named stop for a step the spec gives no effect. -/
  | noEffectGiven (what : String)
  deriving DecidableEq, Repr

/-- Why a command has no meaning. -/
inductive Refusal where
  /-- Raised by a dispatch arm whose command has no meaning yet (safe: the run stops). -/
  | notModelled (mnemonic : String)
  deriving DecidableEq, Repr

/-- The family members (R1, R399, R401). -/
inductive Member where
  | al880 | al660 | al440 | al220 | al110
  deriving DecidableEq, Repr

/-! ### Register stores -/

/-- What the RCU holds for one requester: RCU_VIEW.APPLIED (R389), RCU_IND_ADDR and RCU_IND_CTL.INC (R394), and
the shadow of the partner words its latching reads took (R387). -/
structure Requester where
  viewApplied : Bool
  indAddr : Word
  indInc : Bool
  shadow : SMap Word
  deriving DecidableEq, Repr

/-- A snapshot of one strobe group taken by RCU_STROBE and waiting for its boundary (R13). -/
structure Snapshot where
  group : Nat
  blocks : List Nat
  words : SMap Word
  deriving DecidableEq, Repr

/-- The running configuration CRC (R395 to R397). -/
structure Crc where
  passOn : Bool      -- a pass is running
  rest : Bool        -- a pass was discarded at this boundary: a new one begins at the next
  passCounts : Bool  -- the running pass began after the first write to RCU_CRC_REF
  commit : Bool      -- RCU_CRC_REF has been written since reset
  armed : Bool
  matched : Bool
  fresh : Bool       -- the next mismatching pass is reported (after a match or a commit)
  held : Bool        -- a reported mismatch is in force
  last : Word
  restarts : Nat
  passes : Nat
  deriving DecidableEq, Repr

/-- The stores of the RCU.  A key is a normal-view BAR0 offset (below 0x10_0000) or a T-space byte address (at or
above 0x0100_0000); a key without an entry reads as its reset word. -/
structure Regs where
  staged : SMap Word           -- staged value of an RS register or table word (R388)
  applied : SMap Word          -- applied value (R13)
  inForce : SMap Word          -- value adopted by a SAP or the power die, whose adoption lags the boundary (R15)
  rw : SMap Word               -- RW and LK fields
  rc : SMap Word               -- RC fields
  count : SMap Nat             -- statistics counters by LO address (R113)
  bankA : SMap Word            -- bank A of the mode-1 regions of MIX and ENG (R263, R285)
  bankB : SMap Word
  held : List (Nat × Word)     -- T-space writes held during a bank copy (R264)
  snaps : List Snapshot
  waiting : List (Nat × Nat)   -- (group, block) pairs whose applied values are not yet adopted (R16)
  stagedBits : BitVec 16       -- RCU_STAGED (R388)
  lock : BitVec 18             -- RCU_LOCK (R392)
  subidDone : Bool             -- PCI_SUBID has taken its single write (R391)
  roleDone : Bool              -- PAIR_ROLE has taken its single write
  berrAddr : Word
  pcie : Requester
  mgt : Requester
  crc : Crc
  hstop : BitVec 24            -- RCU_HSTOP (R239)
  brst : List Nat              -- unit resets requested for the next boundary (R240)
  deriving DecidableEq, Repr

/-! ### Mute stages and ramps -/

/-- A linear-in-dB ramp under R253.  Codes are gain codes times 65 536; sample `m` of the ramp carries
`start + (m + 1) * (target - start) / len`.  At rest `pos = len`. -/
structure Ramp where
  start : Int
  target : Int
  mute : Bool        -- the ramp ends at (or rests at) mute
  len : Nat
  pos : Nat
  deriving DecidableEq, Repr

/-- The causes that hold a sink muted (R230, R261 and the rules named). -/
inductive MuteCause where
  | step        -- R65
  | relock      -- R77
  | crc         -- R397
  | overtemp    -- R231
  | sleep       -- R430
  | fence       -- output fencing of a pair (R349, R350)
  | port        -- SAP start, stop and restart (R300 to R308)
  | channel     -- power channel not in RUN (R327, R328)
  | battery     -- R337
  deriving DecidableEq, Repr

/-- The mute stage of one sink class (R261). -/
structure Mute where
  causes : List MuteCause
  ramp : Ramp
  deriving DecidableEq, Repr

/-! ### Timetable, time and clocks -/

/-- TT beyond its registers. -/
structure Tt where
  now : Nat                 -- media position of the latest tick boundary, in samples (R43)
  rateOk : Bool
  armed : BitVec 64
  tick : Nat                -- tick length code in force (R31)
  tickNext : Option Nat     -- code adopted at the next multiple of 32 samples (R32)
  lastTaken : Nat           -- boundary at which a departure was last taken (R354)
  deriving DecidableEq, Repr

/-- One PTP instance. -/
structure PtpInst where
  time : Nat                -- PTP time in ns since the epoch
  stateA : Nat              -- TIM_ISTAT.STATE_A coding
  stateB : Nat
  asCapA : Bool
  asCapB : Bool
  synced : Bool
  gmSelf : Bool
  offset : Int              -- ns
  delayA : Nat              -- ns
  delayB : Nat
  gmId : Nat                -- 64 bits, 0 for none
  ratio : Int               -- units of 2^-40
  reqA : Option Int         -- timestamp of the last path-delay request each port sent, 1/4 ns
  reqB : Option Int
  syncIn : Option Int       -- timestamp of a two-step Sync received whose Follow_Up has not come, 1/4 ns
  syncGap : Int             -- receipt less origin of the last Sync, 1/4 ns (delay request-response)
  deriving DecidableEq, Repr

/-- The time engine. -/
structure Tim where
  inst0 : PtpInst
  inst1 : PtpInst
  ppsIn : Nat               -- time of the last PPS_IN edge, ns
  ppsAgo : Option Int       -- xo time from the last PPS_IN edge to the latest boundary, ns
  ppsUsed : Bool            -- the last edge served as a TSRC = 1 reference (R51)
  ppsOut : Option Int       -- PPS_OUT pulse in progress: xo time from its rise to the latest boundary, ns
  ppsCfg : Word             -- TIM_PPS_CFG as in force for the current second (R52)
  ppsAdj : Word
  deriving DecidableEq, Repr

/-- MCR states (R56). -/
inductive McrState where
  | idle | acquire | locked | coast | slew | step | relock
  deriving DecidableEq, Repr

/-- A reference update that waits for the servo (R56): the instance or receive context it comes from, and its phase
error in grains, target less media position. -/
structure RefUpd where
  src : Nat
  phase : Int
  deriving DecidableEq, Repr

/-- Media clock recovery. -/
structure Mcr where
  state : McrState
  cfg : Word                -- MCR_CFG as last adopted, to tell an adopted change (R62)
  everLocked : Bool
  refOk : Bool
  qual : Nat                -- consecutive valid updates
  inst : Nat                -- PTP instance followed
  failedOver : Bool
  updates : List RefUpd     -- reference updates of the selected source not yet taken, oldest first
  phase : Int               -- grains
  freq : Int                -- oscillator offset without the slew, units of 2^-40
  freqTick : Int            -- the same at the latest boundary (R59)
  favg : Int
  mean : Int                -- mean of MCR_FREQ over the second that ended with the last valid update (R61)
  hist : List (Int × Nat)   -- oscillator offsets of the loop's last second and how long each held, ns, newest first
  corr : Int                -- correction c in units of 1/10 000 grain (R64)
  resid : Int               -- phase still to be slewed, in units of 1/10 000 grain (R63)
  jump : Int                -- jump to be stepped, in units of 1/10 000 grain (R65)
  stepDue : Bool            -- STEP declared, ramp not started
  ramping : Bool            -- step ramp down running
  setDue : Bool             -- qualified with RATE_OK 0: MEDIA_POSITION_SET is due (R57)
  masterDue : Bool          -- MODE 5 adopted, entry at the next boundary (R58)
  failDue : Bool            -- failover at the next boundary (R60)
  late : Bool               -- qualified during STEP: the jump is measured after the ramp up (R66)
  lossPend : Bool           -- a loss met during STEP, taken when it ends (R66)
  upLeft : Nat              -- samples left of the ramp up after a step (R65, R66)
  timeStep : Bool           -- the followed instance's time was stepped and the jump is not measured yet (R446)
  unusable : Bool           -- the selected reference was not usable at the latest look (R55)
  quiet : Nat               -- xo time since the last valid update, ns (R60)
  afterRelock : Bool        -- the jump after a fenced relock is still to be measured (R67)
  relJump : Option Int      -- phase error of an update met in step 5 of a relock, grains (R67)
  coastNs : Nat
  centre : Int
  deriving DecidableEq, Repr

/-- Clock synthesis. -/
structure Syn where
  xoOk : Bool
  spll : Bool
  mpllA : Bool
  mpllB : Bool
  fence : Bool
  serA : Bool
  serB : Bool
  pairPll : Bool
  pciePll : Bool
  failed : Bool
  rstep : Nat               -- RSTEP (R77)
  req : Bool                -- relock requested for the next boundary (R76)
  unlockReq : Bool          -- the request is a loss of lock (R80)
  tries : Nat               -- repeats of step 3 already made (R79)
  mcnt : Nat
  counting : Bool           -- counter check running
  ramp : Nat                -- samples of the ramp down of the running relock, which its ramp up takes too (R77)
  again : Bool              -- a trigger merged into step 3, which restarts with the newest targets (R81)
  rate : Nat                -- house rate code in effect
  refmode : Nat
  refHz : Nat               -- reference frequency of the running media PLL, Hz (R72)
  fbN : Nat                 -- feedback division N
  icp : Nat                 -- charge-pump current, uA
  rateChg : Bool            -- the relock carries a house-rate change
  newCentre : Option Int    -- centre asked for by a window move (R59)
  mclkFrom : SMap Nat       -- boundary at which each MCLK_OUT divider last restarted (R83)
  deriving DecidableEq, Repr

/-! ### Mix fabric -/

/-- A running crossfade (R247). -/
structure Xfade where
  old : Nat
  new : Nat
  len : Nat
  pos : Nat
  deriving DecidableEq, Repr

/-- A junction beyond its words: the source in effect, a running crossfade and the newest change waiting. -/
structure Junction where
  cur : Nat
  fade : Option Xfade
  pend : Option Nat           -- newest change waiting for the running crossfade, or for a slot (R248, R250)
  deriving DecidableEq, Repr

/-- A final limiter: its gain with 24 fraction bits (R260). -/
structure Limiter where
  gain : Nat
  deriving DecidableEq, Repr

/-- The mix fabric beyond its registers and tables. -/
structure Mix where
  junc : SMap Junction         -- by sink index
  deferred : List Nat          -- bus-input sinks whose crossfade waits for a slot (R250), ascending
  xp : SMap Ramp               -- crosspoint gain in effect, by crosspoint index
  lim : SMap Limiter           -- by external sink
  mute : SMap Mute             -- by sink class: 0 network, 1 draw, 2 + p SAP p, 10 + c power channel c
  low : List Nat               -- external sinks on the low-delay path, ascending (R255)
  toStd : List Nat             -- sinks that moved to the standard path at this boundary (R256)
  toLow : List Nat             -- sinks that moved to the low-delay path at this boundary
  regionMode : SMap Nat        -- mode in force per region (R262)
  select : BitVec 8            -- applied bank per region (R263)
  slPend : Option (List (Nat × Word))
  copying : Bool
  badSrc : Word
  ldDeny : Word
  src : SMap (List Int)        -- ingress block last gathered, by source code
  prev : SMap (List Int)       -- previous block of bus and engine outputs, by source code
  std : SMap (List Int)        -- standard-path sinks' block before the limiter, by sink index
  stdLim : SMap Word           -- limiter profiles that go with `std` (R258)
  egress : SMap (List Int)     -- limited and muted blocks delivered at this tick, by sink index
  lowHold : SMap (List Int)    -- low-delay sinks' blocks of the previous tick (R118)
  lab1 : Nat                   -- first label of the block gathered last
  lab2 : Nat                   -- first label of the block before it
  deriving DecidableEq, Repr

/-! ### Effect engines -/

/-- Engine states (R288). -/
inductive EngState where
  | stopped | running | halted | check | hardstop
  deriving DecidableEq, Repr

/-- A pool read in flight: destination accumulator, value, and the cycle at which it arrives (R272). -/
structure PoolRead where
  dest : Nat
  value : Int
  due : Nat
  deriving DecidableEq, Repr

/-- One effect engine beyond its registers and tables.  Accumulators, Y ports and local memory hold Q8.40 values. -/
structure Eng where
  st : EngState
  cause : Nat
  acc : SMap Int
  cond : BitVec 4
  idx : SMap Nat
  x : SMap Int                 -- latched X ports, Q7.25
  xLast : SMap Int             -- last good value of each X port (R287)
  y : SMap Int
  lmem : SMap Int
  wp : Nat
  flight : List PoolRead
  cyc : Nat                    -- cycle within the sample being run
  zLeft : Nat                  -- samples left of the Z of R281
  zeroing : Bool
  dclrReq : Bool
  clearReq : Bool
  clearing : Bool              -- the block being processed offers zero (R283)
  slPend : Option (List (Nat × Word))
  copying : Bool
  regionMode : SMap Nat
  select : BitVec 8
  dwin : Word                  -- ENG_DWIN as last adopted
  chain : Nat
  fault : Word                 -- ENG_FAULT
  window : Bool                -- recovery window open (R231)
  wiped : Bool                 -- accumulators and local memory are to be cleared on the next run (R288)
  testing : Bool               -- a self-test runs (R243)
  deriving DecidableEq, Repr

/-! ### Ethernet ports -/

/-- A frame waiting to be sent: its octets from the destination address without FCS, whether a word was read
poisoned from its siding (R139), and for a host frame its ring pair and descriptor slots. -/
structure TxFrame where
  body : List Byte
  poison : Bool
  ring : Nat
  slots : List Nat
  ctx : Option Nat           -- the transmit context it belongs to (R135)
  ptp : Option PtpMsg        -- the PTP message it carries (R48)
  deriving DecidableEq, Repr

/-- The frame a port is sending: its queue, the fragments begun and the data octets of the fragments ended (R98). -/
structure TxCur where
  q : Nat
  frame : TxFrame
  frags : Nat
  sent : Nat
  deriving DecidableEq, Repr

/-- A port beyond its registers.  Queues are numbered in selection order: 0 QP, 1 QT, 2 QA, 3 QB, 4 QH3, 5 QH2, 6 QH1,
7 QH0 (R92). -/
structure Mac where
  up : Bool                 -- MAC_STAT.LINK
  rung : Nat                -- running rung
  target : Option Nat       -- rung the lane is set to once the retrain script is written (R87)
  lane : Bool
  phy : Bool
  verify : Nat              -- MAC_STAT.VERIFY
  verifyTries : Nat
  hold : Bool
  retrain : Bool
  overbook : Bool
  sleep : Bool
  queues : SMap (List TxFrame)
  cur : Option TxCur
  rem : Option TxCur        -- a preempted host frame's remainder (R98)
  pauseQ : BitVec 8         -- queues stopped by PAUSE
  pfcQ : BitVec 8           -- queues stopped by PFC
  pausePend : BitVec 8      -- stops that take effect when the frame in transmission ends (R102)
  pfcPend : BitVec 8
  window : Bool             -- recovery window open (R231)
  dpcOrder : Bool           -- the running rung change was ordered by DPC (R177)
  dpcPrev : Nat             -- rung before it (R178)
  upshift : Option Nat      -- rung an upshift is to reach (R96, R179)
  creditA : Int             -- credit of the stream classes, kb/s times octet times (R94)
  creditB : Int
  prev : SMap Word          -- the port's words before its latest adoption (R15, R105)
  deriving DecidableEq, Repr

/-- A request of the MDIO master (R85): software, a port's link poll, or an entry of a port's retrain script. -/
inductive MdioReq where
  | software (cmd : Word) (data : Nat)
  | poll (port : Nat)
  | script (port dev reg data : Nat)
  deriving DecidableEq, Repr

/-! ### Streams -/

/-- What a packet's stamp is made from, taken when its first label is gathered (R121 to R124, R128). -/
structure Stamp where
  label : Nat
  corr : Int                -- MCR_CORR in grains
  offs : Nat
  clkofs : Word
  tu : Bool
  mr : Bool
  deriving DecidableEq, Repr

/-- A transmit context beyond its registers. -/
structure StxCtx where
  run : Bool
  stopping : Bool
  start : Nat
  words : List Word         -- latched registers +0x00 to +0x34 (R131)
  srcA : Nat                -- latched MAC_ADDR0 of each port
  srcB : Nat
  ipA : Word
  ipB : Word
  path : Nat                -- path offset a (R118)
  seq : Nat
  ran : Bool                -- the context has run since reset (R129)
  mr : Bool
  mrDue : Bool              -- a step or the end of a relock: the next packet toggles mr (R128)
  stamps : List Stamp
  rate : Nat                -- house rate code at the start
  grid : Nat                -- samples of the grid stamped so far
  skip : Nat                -- samples of the two newest gathered blocks that are packed or precede the start
  drain : Nat               -- samples of whole packets still to be sent after a rate stop (R134)
  buf : List (List Int)     -- samples of the packet in progress, by sample and channel
  last : SMap Int           -- last good sample of each channel (R138)
  deriving DecidableEq, Repr

/-- STX beyond its contexts. -/
structure Stx where
  ctx : SMap StxCtx
  stopAll : Bool
  deriving DecidableEq, Repr

/-! ### Host rings -/

/-- Ring states (RNG_PSTAT.STATE). -/
inductive RingSt where
  | disabled | running | halted | hardstop
  deriving DecidableEq, Repr

/-- A descriptor a ring has fetched: its slot and its eight dwords. -/
structure Desc where
  slot : Nat
  dw : List Word
  deriving DecidableEq, Repr

/-- A completion waiting for its turn: status, detail, TAG, the two result dwords and the flags of dword 3. -/
structure Cpl where
  tag : Nat
  status : Nat
  detail : Nat
  r0 : Word
  r1 : Word
  flags : Nat
  deriving DecidableEq, Repr

/-- A descriptor in the ring's order: fetched, perhaps acting, perhaps with its outcome known. -/
structure Slot where
  desc : Desc
  done : Option Cpl
  data : List Byte          -- data returned for it so far (R210, R217, TBL_WRITE)
  reading : Bool            -- its data read has been issued
  deriving DecidableEq, Repr

/-- One slice of a started audio ring: the block in progress and what R221 still owes it. -/
structure Slice where
  next : Nat                -- feed: end of the last accepted block; draw: first label of the block in progress
  anchored : Bool
  step : Bool               -- the next draw block carries STEP (R223)
  lostPos : Nat             -- first lost label
  lost : Nat                -- lost block periods since
  lostStep : Bool
  older : List (Nat × Nat × Bool)  -- earlier void runs closed by a step: first label, periods, STEP (R236)
  samples : List Word       -- words of the draw block in progress
  poisoned : Bool
  deriving DecidableEq, Repr

/-- A feed block whole in the FEED siding. -/
structure FeedBlock where
  slice : Nat
  pos : Nat
  words : List Word
  slot : Nat
  upto : Nat                -- labels from its first that have been presented or passed over
  played : Nat              -- samples per channel played
  deriving DecidableEq, Repr

/-- A ring fault that is not yet completed (R232): its slot, status and DETAIL, and the byte of the slot's data at which the part
that failed begins. -/
structure RingFault where
  slot : Nat
  status : Nat
  detail : Nat
  off : Nat
  deriving DecidableEq, Repr

/-- One ring pair. -/
structure Ring where
  st : RingSt
  pi : Nat
  ci : Nat
  cpi : Nat
  cci : Nat
  phase : Bool
  fetched : Nat             -- next slot to fetch
  slots : List Slot         -- fetched and not completed, in ring order
  fault : Option RingFault
  pfault : Word             -- RNG_PFAULT
  window : Bool             -- recovery window open
  abandonTo : Option Nat    -- end of the ABANDONED run (R233)
  restart : Bool            -- RESTART written during the run (R235)
  disabling : Bool          -- EN written 0 (R202)
  started : Bool
  skip : Nat                -- feed: samples of the tick before the start; draw: samples of the two newest gathered blocks that
                            -- are packed or precede the start
  stopReq : Bool
  slices : SMap Slice
  feed : List FeedBlock
  unsig : Nat               -- completions since the last signal (R225)
  waiting : Bool            -- the completion ring is full and the wait is counted (R205)
  lastGood : SMap Word      -- last good host word by channel (R222)
  deriving DecidableEq, Repr

/-- A command of the CMD ring that waits for its boundary, or for its self-test (R208, R243). -/
structure CmdWait where
  pos : Option Nat          -- none: the next boundary
  late : Bool               -- POS had passed when the command began
  acted : Option (Nat × Nat × Word × Word)  -- status, DETAIL and results of a POS command that has acted (R208)
  testing : Bool            -- a self-test runs (R243)
  deriving DecidableEq, Repr

/-! ### Stream reception and the dual-path combiner -/

/-- The samples stored at one presentation position, with the correction and adjustment they were stored under (R149,
R150). -/
structure SrxRow where
  cs : Int
  adj : Int
  xs : List Int
  deriving DecidableEq, Repr

/-- A receive context beyond its registers.  The jitter sidings are held by presentation position. -/
structure SrxCtx where
  run : Bool
  presenting : Bool
  gwait : Bool              -- waiting for its group (R156)
  stopLeft : Option Nat     -- samples left of the stop fade (R161)
  start : Nat
  fresh : Bool              -- no label presented since the start: HARD_START acts on the first (R158)
  words : List Word         -- latched registers +0x00 to +0x14 (R159)
  gain : Nat                -- g in units of 1/32 (R154)
  under : Bool
  expect : Option Nat       -- next expected sequence number (R153)
  mr : Bool                 -- mr of the previous AAF packet
  rows : SMap SrxRow
  prevEnd : Option Nat      -- label after the packet stored last
  prevCs : Int
  prevAdj : Int
  last : SMap Int           -- last presented sample of each channel, before scaling
  margin : Int              -- SRX_CMARGIN, ns
  seenA : Option Nat        -- arrival of the last frame from each port, ns (R175 code 7)
  seenB : Option Nat
  deriving DecidableEq, Repr

/-- A presentation group (R156, R157). -/
structure SrxGroup where
  presenting : Bool
  ticks : Nat               -- ticks since its first member started
  deriving DecidableEq, Repr

structure Srx where
  ctx : SMap SrxCtx
  grp : SMap SrxGroup       -- by group number 1 to 16
  stopAll : Bool
  deriving DecidableEq, Repr

/-- An arrival record of R171. -/
structure DpcRec where
  num : Nat
  a : Option Nat
  b : Option Nat
  deriving DecidableEq, Repr

/-- The combiner's part of a receive context: the recovery window (R168) and the path states (R173). -/
structure DpcCtx where
  dual : Bool
  reset : Bool
  h : Nat
  mapA : BitVec 64
  mapB : BitVec 64
  stA : Nat                 -- 0 IDLE, 1 HEALTHY, 2 IMPAIRED, 3 DOWN
  stB : Nat
  recs : SMap DpcRec
  skew : Int
  skewPkt : Nat
  deriving DecidableEq, Repr

/-- What DPC keeps of a port (R175 to R180). -/
structure DpcPort where
  hold : Nat
  broken : Bool             -- a code of 1 to 9 failed within the current second
  due : Bool                -- a downshift is ordered for the next boundary
  utilTx : Nat              -- Mb/s over the last whole second
  utilRx : Nat
  srate : Nat
  octTx : Nat               -- wire octets of the current second
  octRx : Nat
  octStr : Nat
  deriving DecidableEq, Repr

structure Dpc where
  ctx : SMap DpcCtx
  a : DpcPort
  b : DpcPort
  shifting : Bool
  shiftPort : Nat
  back : Bool               -- the change in progress is the one back of R178
  clock : Nat               -- latest arrival time seen, ns
  deriving DecidableEq, Repr

/-! ### Sidings with direct access, and frames for the host -/

/-- A mailbox: visible items, the item being written, and what R192 to R195 keep. -/
structure Mailbox where
  items : List (List Word)
  begun : Bool              -- the consumer has taken a word of the first item
  writing : List Word
  trim : Nat                -- 0 no, 1 the rest of an item is discarded after OVERFLOW, 2 after a flush
  flushing : Bool
  last : Word
  lastEnd : Bool
  deriving DecidableEq, Repr

/-- A frame in the HRX siding: octets with or without FCS, the words that carry a poison tag, and the ring it is for. -/
structure HostFrame where
  port : Nat
  body : List Byte
  poison : List Nat         -- indices of poisoned 64-bit words
  tagged : Bool
  pcp : Nat
  vid : Nat
  deriving DecidableEq, Repr

/-! ### Serial ports and rate conversion -/

/-- A serial port beyond its registers. -/
structure Sap where
  st : Nat                  -- SAP_STAT.STATE
  fmt : Word                -- SAP_CFG with the format fields in force
  clkOk : Bool
  rclass : Nat
  rate : Nat                -- frame rate in 0.01 Hz
  loss : Nat                -- SAP_CAUSE fields
  slip : Nat
  refuse : Nat
  aligned : Bool
  badcfg : Bool
  reqStart : Bool           -- SAP_CTL requests for the next boundary
  reqStop : Bool
  reqRestart : Bool
  teamDue : Bool            -- a slip or a clock return restarts it, with its alignment group (R306, R307)
  startAt : Nat             -- label from which it runs
  starting : Bool           -- a port that is not media-locked waits for its first frame sync
  wasStarted : Bool         -- it was started when its clock was lost
  resumeDue : Bool          -- a restart waits for the next boundary (R306)
  outDue : Option (Nat × Bool)  -- output ramp still to reach the mute stage: first label, and whether it rises
  outDone : Bool            -- the output has delivered a block with its mute stage at rest
  window : Bool
  winRamp : Bool            -- the ramp up that ends the window runs
  drift : Int               -- frames transferred less labels passed
  inRamp : Ramp             -- ramp of the input slots (R300)
  inLast : SMap Int         -- last good sample of each fabric input slot
  inBlk : SMap (List Int)   -- what each fabric input slot brought in the tick that ended, ramped
  outLast : SMap Int        -- last good sample of each wire slot
  testing : Bool
  deriving DecidableEq, Repr

/-- A rate converter channel. -/
structure AsrcCh where
  admitted : Bool
  overcap : Bool
  st : Nat                  -- ASRC_CST.STATE
  cfg : Word                -- ASRC_CH as last adopted
  last : Int                -- last good sample it took in
  fade : Nat                -- fade gain in 1/32
  deriving DecidableEq, Repr

/-- A rate tracker. -/
structure Tracker where
  st : Nat                  -- 0 IDLE, 1 ACQUIRE, 2 LOCKED, 3 RANGE
  ratio : Nat               -- Q4.28
  deriving DecidableEq, Repr

structure Asrc where
  ch : SMap AsrcCh
  trk : SMap Tracker
  units : Nat
  deriving DecidableEq, Repr

/-! ### Power stage -/

/-- A power channel. -/
structure PwrCh where
  st : Nat                  -- R325
  fault : Nat
  refuse : Nat
  fails : Nat               -- consecutive failed retries
  retrying : Bool           -- the sequence running is a retry, until it succeeds or fails
  reqArm : Bool
  reqStop : Bool
  reqRetry : Bool
  cmDone : Bool             -- the common-mode ramp up has ended: RUN from the next boundary
  stopCm : Bool             -- STOPPING: the common mode is falling
  idle : Bool
  est : List Nat            -- Re, Bl, fs, Qts
  atBound : BitVec 4
  diagRes : Nat
  diagR : Nat
  cal : Int
  dieTemp : Int
  coilT : Int               -- 0.1 °C
  battMute : Bool
  grBatt : Nat              -- largest reductions of the last tick, 0.25 dB
  grTherm : Nat
  grExc : Nat
  xpred : Nat
  lastGood : Int
  sense : List Int          -- last good voltage and current sense words (R414)
  testing : Nat             -- 0 none, 1 load diagnostics, 2 offset calibration
  faultAt : Nat             -- media position of the fault (R42, R332)
  rampOut : Bool            -- STOPPING: the last sample of the audio ramp has been put out (R328)
  vfs : Ramp                -- full scale in force, 0.1 V times 65 536 (R321)
  deriving DecidableEq, Repr

structure Pwr where
  a : PwrCh
  b : PwrCh
  pvdd : Nat                -- mV, as measured last
  pvddMean : Nat            -- PWR_PVDD: mean over the last tick
  wstA : Nat                -- PWR_WSTAT: the states as mirrored at the last tick
  wstB : Nat
  link : Bool
  linkHstop : Bool
  linkFails : Nat           -- consecutive failures of one register transfer
  badWords : List Nat       -- power-die words that failed parity and are not yet reloaded (R345)
  pbtl : Bool
  pbtlPend : Bool
  linkWindow : Bool
  deriving DecidableEq, Repr

/-! ### Paired operation -/

/-- A change record of the mirror (R355). -/
structure MirRec where
  typ : Nat
  label : Nat
  addr : Nat
  rseq : Nat
  data : List Word
  deriving DecidableEq, Repr

structure Pair where
  st : Nat                  -- 0 OFF, 1 STANDBY, 2 STALE, 3 TAKEOVER, 4 ACTIVE, 5 DARK
  driving : Bool
  link : Bool
  blockLock : Bool
  quiet : Nat               -- ticks since a good block
  refuse : Nat
  why : Nat
  reqEnter : Bool
  reqRelease : Bool
  gen : Nat
  lease : Nat               -- E
  grant : Bool              -- an accepted GRANT waits for its boundary
  adoptAt : Nat             -- boundary of the adoption
  tookStale : Bool          -- the takeover under way began STALE
  stopDue : Bool            -- a grant to the peer or a dark RELEASE stops driving at the next boundary
  renewIn : Nat             -- ticks to the next RENEW or STANDBY_REPORT
  recs : List MirRec        -- records waiting, oldest first
  refresh : List MirRec     -- records of a refresh still to be sent
  sent : List (Nat × MirRec) -- block number and record of the set being sent
  rseq : Nat
  blocks : List (List Byte) -- payloads of the set being sent
  acked : BitVec 12
  setPos : Nat              -- first label of the tick that set describes
  rxSet : Nat               -- set being received
  rx : SMap (List Byte)     -- payloads received good, by block number
  rxDone : Bool             -- that set has been applied, or none has begun
  mpoint : Option Nat       -- first label of the tick of the mirror point; none: the unit's own state
  applied : List Nat        -- RSEQ of records applied, newest first
  fired : List (Nat × Nat)  -- crossfade sets fired and the block label at which, newest first
  refreshOut : Bool         -- a refresh is outstanding
  marks : List (Nat × List Nat × List Nat)   -- boundary, expected numbers and H of every context then, newest first
  fixed : List Byte         -- fixed part of the set applied last
  peerCrc : Word
  peerSt : Nat
  peerStale : Bool
  crcDiff : Nat             -- consecutive passes at which the peer's result differed
  crcSeen : Nat             -- own passes at the latest comparison
  cfgDiff : Bool
  lapsed : Bool             -- the unit gave up its tablet and no new holder's set has arrived (R364)
  deriving DecidableEq, Repr

/-! ### Supplies, boot and the management core -/

structure Pmu where
  supply : BitVec 10        -- PMU_STAT
  temp : Int
  hot : Bool                -- above 115 °C and not yet below 110 °C
  overheat : Bool           -- above 135 °C: muting, then held in reset until below 110 °C (R231)
  xoLost : Bool             -- held in reset until xo has run again for 5 ms (R71)
  por : Bool                -- in power-on reset until the supplies are valid again (R423)
  gpioIn : BitVec 16
  resetLow : Bool           -- RESET_N low
  up : Bool                 -- step 7 of R418 has ended
  bistFail : Bool
  sleepReq : Bool
  asleep : Nat              -- 0 awake, 1 muting, 3 stopping, 2 asleep
  wakePend : Option Straps  -- a GPIO wake edge met entry (R432), with the straps its restart samples
  boot : Nat
  pairId : Bool
  perstLow : Bool
  irqFail : Bool            -- IRQ_N driven low by R422 or R425
  deriving DecidableEq, Repr

structure Mgt where
  ready : Bool
  fwver : Word
  imageCrc : Word
  flash : SMap Word         -- words written since the device was made; others read as the image
  sigbox : Bool
  wdogWin : Bool
  rebooting : Bool
  dbell : BitVec 2          -- mailboxes MGT_DBELL has announced and the core has not emptied (MB0, MB2)
  deriving DecidableEq, Repr

/-- PCI: link and function state (R197, R200). -/
structure Pci where
  up : Bool
  speed : Nat
  width : Nat
  table : List Word         -- MSI-X table, four words for each of 32 vectors (R198, R406)
  deriving DecidableEq, Repr

/-- SST beyond its registers. -/
structure Sst where
  passes : Nat
  ueAddr : Word
  scrubNs : Nat             -- xo time of the scrub pass in progress, ns
  pool : List Nat           -- delay pool words that are uncorrectable until they are written (R413)
  deriving DecidableEq, Repr

/-- The part's replies to the last read (R381, R383). -/
inductive Reply where
  | none
  | value (lo hi : Word)
  | abort
  deriving DecidableEq, Repr

/-- What an MCLK_OUT pin carries (R82): its source, the division of it, the source cycles high in each period where R82 gives
them, and whether it is inverted.  Its first rising edge falls on the boundary at which it starts (R83). -/
structure MclkWave where
  src : Nat
  div : Nat
  high : Option Nat
  inv : Bool
  deriving DecidableEq, Repr

-- PRESUMED, log 46: unsafe.
/-- What the part puts out, in the order it does so: writes to host memory (with the EP bit), MSI-X messages and
frames on the wire. -/
inductive OutItem where
  | host (addr : Nat) (bytes : List Byte) (ep : Bool)
  | msix (vec : Nat) (addr : Nat) (data : Word)                   -- to the address and with the data of its table entry
  | frame (port : Nat) (bytes : List Byte) (badFcs : Bool)         -- with its FCS
  | fragment (port count : Nat) (bytes : List Byte)                -- with its mCRC, or the frame's FCS on the last (R98)
  | an37 (port : Nat) (fullDuplex pause : Bool)                    -- what Clause 37 auto-negotiation advertises (R84)
  | ptp (m : PtpMsg)                                       -- a PTP message whose transmission starts, with its timestamp
  | pps (level : Bool)
  | verify (port : Nat)                                    -- a verify mPacket (R97)
  | respond (port : Nat)                                   -- the response to one
  | mdio (phyad dev reg data : Nat)                        -- a Clause 45 write on MDIO
  | mdioRead (phyad dev reg : Nat)                         -- a Clause 45 read on MDIO
  | mclk (pin start : Nat) (x : Option MclkWave)           -- an MCLK_OUT pin from a boundary on; none is low
  | sap (port label : Nat) (slots : List (Option Word))    -- one output frame; none is Hi-Z
  | drive (ch : Nat) (sample volts : Int)                  -- a power channel's sample and demand (R319)
  | imluind (bytes : List Byte)                            -- a block on the Imluind link
  | idle                                                   -- a device reset: every pin as R419 lists it until step 7 ends
  deriving DecidableEq, Repr

/-- The whole part. -/
structure State where
  member : Member
  reg : Regs
  due : List Nat               -- MSI-X vectors that fell due in the running command (R406)
  pba : BitVec 32              -- MSI-X pending bits, a vector each (R406)
  tt : Tt
  tim : Tim
  mcr : Mcr
  syn : Syn
  mix : Mix
  macA : Mac
  macB : Mac
  mdio : List MdioReq
  stx : Stx
  eng : SMap Eng
  pool : SMap Int              -- the delay pool, 1 Mi words (R279)
  srx : Srx
  dpc : Dpc
  mbox : SMap Mailbox          -- by siding 28 to 31
  hrx : List HostFrame         -- frames for the host, oldest first
  ring : SMap Ring
  ftxTurn : SMap Nat           -- ring served last, by port * 4 + host queue (R211)
  cmd : Option CmdWait
  sap : SMap Sap
  asrc : Asrc
  pwr : Pwr
  pair : Pair
  pmu : Pmu
  mgt : Mgt
  pci : Pci
  sst : Sst
  msixEn : Bool
  intDis : Bool
  reply : Reply
  free : Nat                   -- the model's own: free values drawn so far
  out : List OutItem
  pending : List Instr
  deriving DecidableEq, Repr

/-! ### The state right after a device reset (R411, R419) -/

def requesterReset : Requester := { viewApplied := false, indAddr := 0, indInc := true, shadow := [] }

def crcReset : Crc :=
  { passOn := false, rest := false, passCounts := false, commit := false, armed := false, matched := false, fresh := true, held := false,
    last := 0, restarts := 0, passes := 0 }

def regsReset : Regs :=
  { staged := [], applied := [], inForce := [], rw := [], rc := [], count := [], bankA := [], bankB := [], held := [],
    snaps := [], waiting := [], stagedBits := 0, lock := 0, subidDone := false, roleDone := false, berrAddr := 0,
    pcie := requesterReset, mgt := requesterReset, crc := crcReset, hstop := 0, brst := [] }

def ptpReset : PtpInst :=
  { time := 0, stateA := 0, stateB := 0, asCapA := false, asCapB := false, synced := false, gmSelf := false, offset := 0,
    delayA := 0, delayB := 0, gmId := 0, ratio := 0, reqA := none, reqB := none, syncIn := none, syncGap := 0 }

def timReset : Tim :=
  { inst0 := ptpReset, inst1 := ptpReset, ppsIn := 0, ppsAgo := none, ppsUsed := false, ppsOut := none,
    ppsCfg := 0x6400, ppsAdj := 0 }

def ttReset : Tt :=
  { now := 0, rateOk := false, armed := 0, tick := 1, tickNext := none, lastTaken := 0 }

def mcrReset : Mcr :=
  { state := .idle, cfg := 0x00810000, everLocked := false, refOk := false, qual := 0, inst := 0, failedOver := false,
    updates := [], phase := 0, freq := 0, freqTick := 0, favg := 0, mean := 0, hist := [], corr := 0, resid := 0, jump := 0,
    stepDue := false, ramping := false, setDue := false, masterDue := false, failDue := false, late := false,
    lossPend := false, upLeft := 0, timeStep := false, unusable := false, quiet := 0, afterRelock := false, relJump := none,
    coastNs := 0, centre := 0 }

-- DESIGN CHOICE, log 4: unsafe.
-- DESIGN CHOICE, log 23: unsafe.
def synReset : Syn :=
  { xoOk := false, spll := false, mpllA := false, mpllB := false, fence := false, serA := false, serB := false,
    pairPll := false, pciePll := false, failed := false, rstep := 0, req := false, unlockReq := false, tries := 0,
    mcnt := 0, counting := false, ramp := 0, again := false, rate := 1, refmode := 1, refHz := 6144000, fbN := 480, icp := 400,
    rateChg := false, newCentre := none, mclkFrom := [] }

def mixReset : Mix :=
  { junc := [], deferred := [], xp := [], lim := [], mute := [], low := [], toStd := [], toLow := [], regionMode := [],
    select := 0, slPend := none, copying := false, badSrc := 0, ldDeny := 0, src := [], prev := [], std := [],
    stdLim := [], egress := [], lowHold := [], lab1 := 0, lab2 := 0 }

-- DESIGN CHOICE, log 23: unsafe.
/-- The running rung at reset is the member's ceiling (R89). -/
def rungReset (m : Member) : Nat :=
  match m with | .al880 => 0 | .al660 => 0 | .al440 => 2 | .al220 => 3 | .al110 => 3

def macReset (m : Member) : Mac :=
  { up := false, rung := rungReset m, target := none, lane := false, phy := false, verify := 0, verifyTries := 0, hold := false,
    retrain := false, overbook := false, sleep := false, queues := [], cur := none, rem := none, pauseQ := 0, pfcQ := 0,
    pausePend := 0, pfcPend := 0, window := false, dpcOrder := false, dpcPrev := 0, upshift := none,
    creditA := 0, creditB := 0, prev := [] }

def dpcPortReset : DpcPort :=
  { hold := 0, broken := false, due := false, utilTx := 0, utilRx := 0, srate := 0, octTx := 0, octRx := 0, octStr := 0 }

/-- A power channel at reset; full scale as the reset value of its VFS field asks (R321). -/
def pwrChReset : PwrCh :=
  { st := 0, fault := 0, refuse := 0, fails := 0, retrying := false, reqArm := false, reqStop := false, reqRetry := false,
    cmDone := false, stopCm := false, idle := false, est := [], atBound := 0, diagRes := 0, diagR := 0, cal := 0,
    dieTemp := 0, coilT := 0, battMute := false, grBatt := 0, grTherm := 0, grExc := 0, xpred := 0, lastGood := 0, sense := [],
    testing := 0, faultAt := 0, rampOut := false, vfs := { start := 200, target := 200, mute := false, len := 0, pos := 0 } }

def pwrReset : Pwr :=
  { a := pwrChReset, b := pwrChReset, pvdd := 0, pvddMean := 0, wstA := 0, wstB := 0, link := false, linkHstop := false, linkFails := 0, badWords := [],
    pbtl := false, pbtlPend := false, linkWindow := false }

def pairReset : Pair :=
  { st := 0, driving := false, link := false, blockLock := false, quiet := 0, refuse := 0, why := 0, reqEnter := false,
    reqRelease := false, gen := 0, lease := 0, grant := false, adoptAt := 0, tookStale := false, stopDue := false,
    renewIn := 0, recs := [], refresh := [], sent := [], rseq := 0, blocks := [], acked := 0, setPos := 0, rxSet := 0,
    rx := [], rxDone := true, mpoint := none, applied := [], fired := [], refreshOut := false, marks := [], fixed := [],
    peerCrc := 0, peerSt := 0, peerStale := false, crcDiff := 0, crcSeen := 0, cfgDiff := false, lapsed := false }

-- DESIGN CHOICE, log 4: unsafe.
def pmuReset : Pmu :=
  { supply := 0, temp := 0, hot := false, overheat := false, xoLost := false, por := false, gpioIn := 0, resetLow := false, up := false,
    bistFail := false, sleepReq := false, asleep := 0, wakePend := none, boot := 0, pairId := false, perstLow := false,
    irqFail := false }

def mgtReset : Mgt :=
  { ready := false, fwver := 0, imageCrc := 0, flash := [], sigbox := false, wdogWin := false, rebooting := false, dbell := 0 }

-- PRESUMED, log 46: unsafe.
/-- The MSI-X table at reset: every vector masked. -/
def msixReset : List Word := (List.replicate 32 [0, 0, 0, 1]).flatten

def pciReset : Pci := { up := false, speed := 0, width := 0, table := msixReset }

-- DESIGN CHOICE, log 3: safe.
/-- A member right after a device reset. -/
def State.resetOf (m : Member) : State :=
  { member := m, reg := regsReset, due := [], pba := 0, tt := ttReset, tim := timReset, mcr := mcrReset, syn := synReset,
    mix := mixReset, macA := macReset m, macB := macReset m, mdio := [], stx := { ctx := [], stopAll := false },
    eng := [], pool := [], srx := { ctx := [], grp := [], stopAll := false },
    dpc := { ctx := [], a := dpcPortReset, b := dpcPortReset, shifting := false, shiftPort := 0, back := false, clock := 0 },
    mbox := [], hrx := [], ring := [], ftxTurn := [], cmd := none, sap := [], asrc := { ch := [], trk := [], units := 0 },
    pwr := pwrReset, pair := pairReset, pmu := pmuReset, mgt := mgtReset, pci := pciReset,
    sst := { passes := 0, ueAddr := 0, scrubNs := 0, pool := [] }, msixEn := false, intDis := false, reply := .none, free := 0, out := [], pending := [] }

-- DESIGN CHOICE, log 3: safe.
-- DESIGN CHOICE, log 4: unsafe.
-- DESIGN CHOICE, log 11: safe.
-- DESIGN CHOICE, log 23: unsafe.
/-- The machine right after reset: an AL880. -/
def State.reset : State := State.resetOf .al880

end Sys2Proof.Machine
end

