-- ==== Sys2Proof/Machine/Operands.lean ====
section
/-! DEFINITION. Operand forms: bit fields of words, signed readings, the byte orders of host memory and of the wire,
rounding and saturation, and the fixed-point conversions the chapters share. -/

namespace Sys2Proof.Machine

/-- Field `[lo + n - 1 : lo]` of a word, as a number. -/
def fld (w : Word) (lo n : Nat) : Nat := (w.toNat / 2 ^ lo) % 2 ^ n

/-- Bit `i` of a word. -/
def bitAt (w : Word) (i : Nat) : Bool := w.getLsbD i

/-- A number read as a two's complement integer of `n` bits. -/
def signed (n v : Nat) : Int :=
  if v % 2 ^ n < 2 ^ (n - 1) then Int.ofNat (v % 2 ^ n) else Int.ofNat (v % 2 ^ n) - Int.ofNat (2 ^ n)

/-- Field `[lo + n - 1 : lo]` as a signed number. -/
def sfld (w : Word) (lo n : Nat) : Int := signed n (fld w lo n)

/-- A field's value put at bit `lo`. -/
def put (lo v : Nat) : Nat := v * 2 ^ lo

/-- A flag put at bit `lo`. -/
def putb (lo : Nat) (b : Bool) : Nat := if b then 2 ^ lo else 0

def toWord (v : Nat) : Word := BitVec.ofNat 32 v

/-- The 32 bits of an integer, wrapping. -/
def intWord (v : Int) : Word := BitVec.ofInt 32 v

/-- `w` with the bits of `m` replaced by those of `v`. -/
def merge (w m v : Word) : Word := (w &&& ~~~m) ||| (v &&& m)

/-- `v` bounded to `lo … hi`. -/
def clampI (lo hi v : Int) : Int := if v < lo then lo else if hi < v then hi else v

def clampN (lo hi v : Nat) : Nat := if v < lo then lo else if hi < v then hi else v

/-- Saturation to `n` signed bits. -/
def satTo (n : Nat) (v : Int) : Int := clampI (-(2 ^ (n - 1) : Int)) (2 ^ (n - 1) - 1) v

/-- An integer shown in a 32-bit register that saturates. -/
def satWord (v : Int) : Word := intWord (satTo 32 v)

/-- Division by `2 ^ n` rounded to nearest with halves toward plus infinity. -/
def roundShift (n : Nat) (v : Int) : Int := if n = 0 then v else (v + 2 ^ (n - 1)) / 2 ^ n

/-- Arithmetic right shift. -/
def asr (n : Nat) (v : Int) : Int := v / 2 ^ n

/-- Truncation of `v / d` toward zero. -/
def truncDiv (v : Int) (d : Nat) : Int := Int.tdiv v (Int.ofNat d)

/-- The four bytes of a dword, least significant first (R7, host memory). -/
def bytesLE (w : Word) : List Byte :=
  [w.extractLsb' 0 8, w.extractLsb' 8 8, w.extractLsb' 16 8, w.extractLsb' 24 8]

/-- The low `n` bytes of a number, most significant first (R7, the wire). -/
def bytesBE : Nat → Nat → List Byte
  | 0, _ => []
  | n + 1, v => BitVec.ofNat 8 (v / 2 ^ (8 * n)) :: bytesBE n v

/-- A number read from bytes, most significant first. -/
def natBE (bs : List Byte) : Nat := bs.foldl (fun a b => a * 256 + b.toNat) 0

/-- A number read from bytes, least significant first. -/
def natLE (bs : List Byte) : Nat := bs.foldr (fun b a => a * 256 + b.toNat) 0

/-- The bytes of `bs` from `o`, `n` of them. -/
def slice (bs : List Byte) (o n : Nat) : List Byte := (bs.drop o).take n

def b2n (b : Bool) : Nat := if b then 1 else 0

/-- The positions of the set bits of `v` below `n`, ascending. -/
def bitsOf (n v : Nat) : List Nat := (List.range n).filter (fun i => v.testBit i)

/-- The number whose bit `i` is set for every `i` of the list. -/
def maskOf (l : List Nat) : Nat := l.foldl (fun m i => m ||| 2 ^ i) 0

/-- One bit of the CRC-32 of IEEE 802.3, least significant bit first. -/
def crcBit (c : Nat) : Nat := if c % 2 = 1 then (c / 2) ^^^ 0xEDB88320 else c / 2

def crcByte (c : Nat) (b : Byte) : Nat := (List.range 8).foldl (fun a _ => crcBit a) (c ^^^ b.toNat)

/-- CRC-32 with the conventions of the Ethernet FCS. -/
def crc32 (bs : List Byte) : Nat := (bs.foldl crcByte 0xFFFFFFFF) ^^^ 0xFFFFFFFF

-- DEDUCED, log 84: unsafe.
/-- The four octets of an FCS as they go on the wire, least significant first. -/
def fcsBytes (bs : List Byte) : List Byte := bytesLE (toWord (crc32 bs))

end Sys2Proof.Machine
end

