-- ==== Sys2Proof/Machine/RegMap.lean ====
section
/-! DEFINITION. The register map: the span of every block (R398), the registers each block's tables name with the
access kind of every bit, their reset words, and the T-space extents (R393). -/

namespace Sys2Proof.Machine

/-- One row of a register table, repeated `cnt` times `stride` bytes apart.  The masks give the bits of each access
kind (R5); a bit in none of them is reserved (R6).  `port` marks the port registers of R383, `ctr` the LO word of a
statistics counter (R113). -/
structure RegRow where
  off : Nat
  cnt : Nat
  stride : Nat
  reset : Nat
  rw : Nat
  rs : Nat
  ro : Nat
  rc : Nat
  wo : Nat
  lk : Nat
  port : Bool
  ctr : Bool
  deriving DecidableEq, Repr

def rowBase (off : Nat) : RegRow :=
  { off := off, cnt := 1, stride := 0, reset := 0, rw := 0, rs := 0, ro := 0, rc := 0, wo := 0, lk := 0,
    port := false, ctr := false }

def rowRO (off mask : Nat) (reset : Nat := 0) : RegRow := { rowBase off with ro := mask, reset := reset }
def rowRC (off mask : Nat) (reset : Nat := 0) : RegRow := { rowBase off with rc := mask, reset := reset }
def rowRW (off mask : Nat) (reset : Nat := 0) : RegRow := { rowBase off with rw := mask, reset := reset }
def rowRS (off mask : Nat) (reset : Nat := 0) : RegRow := { rowBase off with rs := mask, reset := reset }
def rowWO (off mask : Nat) : RegRow := { rowBase off with wo := mask }
def rowLK (off mask : Nat) (reset : Nat := 0) : RegRow := { rowBase off with lk := mask, reset := reset }
def rowPort (off : Nat) : RegRow := { rowBase off with port := true }

/-- `r` repeated `n` times, `d` bytes apart. -/
def RegRow.times (r : RegRow) (n d : Nat) : RegRow := { r with cnt := n, stride := d }

/-- The two words of counters `0` to `n - 1` at `off + 8 c` (R113). -/
def rowsCounter (off n : Nat) : List RegRow :=
  [{ (rowRC off 0xFFFFFFFF).times n 8 with ctr := true }, (rowRO (off + 4) 0xFFFF).times n 8]

/-! ### Blocks, numbered as RCU_GRPMAP numbers them (R390); RCU itself is 38 -/

abbrev bGEN : Nat := 0
abbrev bEVT : Nat := 1
abbrev bPMU : Nat := 2
abbrev bMGT : Nat := 3
abbrev bPCI : Nat := 4
abbrev bRNG : Nat := 5
abbrev bSST : Nat := 6
abbrev bSDG : Nat := 7
abbrev bMACA : Nat := 8
abbrev bMACB : Nat := 9
abbrev bCLS : Nat := 10
abbrev bTIM : Nat := 11
abbrev bMCR : Nat := 12
abbrev bSYN : Nat := 13
abbrev bTT : Nat := 14
abbrev bSTX : Nat := 15
abbrev bSRX : Nat := 16
abbrev bDPC : Nat := 17
abbrev bMIX : Nat := 18
abbrev bASRC : Nat := 19
abbrev bPWR : Nat := 20
abbrev bPAIR : Nat := 21
abbrev bENG (e : Nat) : Nat := 22 + e
abbrev bSAP (n : Nat) : Nat := 30 + n
abbrev bRCU : Nat := 38

/-- The base of a block's span (R398). -/
def blockBase (b : Nat) : Nat :=
  if b < 4 then [0x0, 0x2000, 0x3000, 0x4000].getD b 0
  else if b < 8 then [0x7000, 0x8000, 0x3C000, 0x40000].getD (b - 4) 0
  else if b < 15 then [0x10000, 0x14000, 0x18000, 0x20000, 0x24000, 0x28000, 0x2C000].getD (b - 8) 0
  else if b < 22 then [0x30000, 0x34000, 0x38000, 0x50000, 0x74000, 0x80000, 0x88000].getD (b - 15) 0
  else if b < 30 then 0x60000 + (b - 22) * 0x1000
  else if b < 38 then 0x70000 + (b - 30) * 0x400
  else 0x1000

/-- The block whose span holds a normal-view offset (R398); none for reserved space. -/
def blockAt (a : Nat) : Option Nat :=
  if a < 0x10000 then
    if a < 0x1000 then some bGEN
    else if a < 0x2000 then some bRCU
    else if a < 0x3000 then some bEVT
    else if a < 0x4000 then some bPMU
    else if a < 0x7000 then some bMGT
    else if a < 0x8000 then some bPCI
    else some bRNG
  else if a < 0x40000 then
    if a < 0x14000 then some bMACA
    else if a < 0x18000 then some bMACB
    else if a < 0x1C000 then some bCLS
    else if a < 0x20000 then none
    else if a < 0x24000 then some bTIM
    else if a < 0x28000 then some bMCR
    else if a < 0x2C000 then some bSYN
    else if a < 0x30000 then some bTT
    else if a < 0x34000 then some bSTX
    else if a < 0x38000 then some bSRX
    else if a < 0x3C000 then some bDPC
    else some bSST
  else if a < 0x42000 then some bSDG
  else if 0x50000 ≤ a ∧ a < 0x51000 then some bMIX
  else if 0x60000 ≤ a ∧ a < 0x68000 then some (bENG ((a - 0x60000) / 0x1000))
  else if 0x70000 ≤ a ∧ a < 0x72000 then some (bSAP ((a - 0x70000) / 0x400))
  else if 0x74000 ≤ a ∧ a < 0x75000 then some bASRC
  else if 0x80000 ≤ a ∧ a < 0x88000 then some bPWR
  else if 0x88000 ≤ a ∧ a < 0x8C000 then some bPAIR
  else none

/-! ### Register tables, block by block -/

def mapGEN : List RegRow :=
  [rowRO 0x000 0xFFFFFFFF, rowRO 0x010 0x3FF, rowRO 0x014 0xFFFF, rowRO 0x018 0xFFFF7FFF, rowRO 0x01C 0xFFFF,
   rowRO 0x020 0xFFFFFFFF, rowRO 0x024 0xFFFFFFFF]

def mapRCU : List RegRow :=
  [rowRW 0x000 0x1, rowWO 0x004 0xFFFF, rowRO 0x008 0xFFFF, rowRC 0x00C 0x3FF, rowRO 0x010 0xFFFFFFFF,
   rowRO 0x014 0xFFFF, rowRW 0x018 0x1,
   rowRW 0x020 0xFFFFFFFF 0x00000000, rowRW 0x024 0xFFFFFFFF 0x65444321, rowRW 0x028 0xFFFFFFFF 0xAAFED987,
   rowRW 0x02C 0xFFFFFFFF 0xCCBBBBAA, rowRW 0x030 0x00FFFFFF 0x00CCCCCC,
   rowLK 0x040 0x3FFFF, rowRW 0x050 0xFFFFFFFF, rowPort 0x054, rowRW 0x058 0x1 0x1, rowRW 0x060 0xFFFFFFFF,
   rowRO 0x064 0xFFFFFFFF, { rowRO 0x068 0xFFFFFFF3 with rc := 0xC }, rowRO 0x0C0 0xFFFF7F, rowWO 0x0C4 0x1F]

def mapEVT : List RegRow :=
  [(rowRC 0x000 0xFFFFFFFF).times 3 4, (rowRW 0x010 0xFFFFFFFF).times 3 4, rowRW 0x020 0x1,
   (rowRW 0x040 0x1F1F1F1F).times 24 4]

def mapPMU : List RegRow :=
  [rowRO 0x000 0x33F, rowRC 0x004 0x3, rowRO 0x008 0xFF, rowRC 0x00C 0x1F, rowWO 0x010 0x1, rowRW 0x014 0x7 0x3,
   rowRO 0x040 0xFFFF, rowRW 0x044 0xFFFF, rowRW 0x048 0xFFFF, rowRW 0x04C 0xFFFF,
   rowRW 0x100 0x3, rowWO 0x104 0xFFFF07FF, rowRW 0x108 0xFFFF, { rowRO 0x10C 0x1 with rc := 0x6 }]

def mapMGT : List RegRow :=
  [rowRO 0x000 0x1F, rowRC 0x004 0x3, rowRO 0x008 0xFFFFFFFF, rowWO 0x00C 0x3]

def mapPCI : List RegRow :=
  [rowLK 0x000 0xFFFFFFFF 0x08801F5C, rowRO 0x004 0x7F, rowRC 0x008 0xF]

def mapRNG : List RegRow :=
  [rowRS 0x000 0xFF01 0x1000, rowRS 0x004 0xFFFF 0xC8, rowRS 0x008 0xFFFFFFFF, rowRS 0x00C 0xFFFFFFFF,
   rowRC 0x010 0xFFFFFFFF, rowRC 0x014 0x1FFFF, rowRC 0x018 0xFFFFFFFF, rowRC 0x01C 0x1FFFF,
   (rowRW 0x100 0xFFFFF000).times 49 0x40, (rowRW 0x104 0xFFFFFFFF).times 49 0x40,
   (rowRW 0x108 0xFFFFF000).times 49 0x40, (rowRW 0x10C 0xFFFFFFFF).times 49 0x40,
   (rowRW 0x110 0x11F 0x4).times 49 0x40, (rowRW 0x114 0x1FF07FF).times 49 0x40,
   (rowRW 0x118 0x3FF 0x1).times 49 0x40, (rowRW 0x11C 0xFFFFFF9F).times 49 0x40,
   (rowWO 0x120 0x1).times 49 0x40, ({ rowRO 0x124 0x7 with rc := 0x1F8 } : RegRow).times 49 0x40,
   (rowRO 0x128 0xFFFFFFFF).times 49 0x40, (rowRO 0x12C 0xFFFFFFFF).times 49 0x40,
   (rowRO 0x130 0xFFFFFF).times 49 0x40]
  ++ rowsCounter 0x1000 (49 * 4) ++ rowsCounter 0x1800 49

def mapTIM : List RegRow :=
  [rowRS 0x000 0xFFFF 0x3E8, rowWO 0x004 0x3, rowRC 0x008 0x7, rowRO 0x010 0xFFFF, rowRO 0x014 0xFFFFFFFF,
   rowRO 0x018 0xFFFFFFFF, rowRW 0x020 0xFFFFFFFF, rowRW 0x024 0xFFFFFFFF, rowRW 0x028 0xFFFF,
   rowRW 0x030 0xFFFFFFFF, rowRW 0x034 0xFFFFFFFF, rowRS 0x040 0x0FFFFF07 0x6400, rowRS 0x044 0xFFFFFFFF,
   rowRO 0x048 0xFFFFFFFF, rowRO 0x04C 0xFFFFFFFF, rowRO 0x050 0xFFFF, rowRO 0x060 0xFFFFFFFF,
   rowRS 0x100 0x0FF3FFFF 0x00D00061, rowRS 0x180 0x0FF3FFFF 0x00D00000,
   (rowRS 0x104 0x07FFFFFF 0x00F8F8F6).times 2 0x80, (rowRO 0x108 0x3FF).times 2 0x80,
   (rowRO 0x10C 0xFFFFFFFF).times 2 0x80, (rowRO 0x110 0xFFFFFFFF).times 2 0x80,
   (rowRO 0x114 0xFFFFFFFF).times 2 0x80, (rowRO 0x118 0xFFFFFFFF).times 2 0x80,
   (rowRO 0x11C 0xFFFFFFFF).times 2 0x80, (rowRO 0x120 0xFFFFFFFF).times 2 0x80,
   (rowRO 0x124 0xFFFFFFFF).times 2 0x80, (rowRO 0x128 0xFFFF).times 2 0x80, (rowRC 0x12C 0xFFFF).times 2 0x80,
   (rowRO 0x130 0xFFFFFFFF).times 2 0x80, (rowRS 0x134 0xFFFFFFFF).times 2 0x80]

def mapMCR : List RegRow :=
  [rowRS 0x000 0x03F3FF07 0x00810000, rowRW 0x004 0xFFFFFF03 0x00404002, rowRO 0x008 0xF7, rowRC 0x00C 0x1F,
   rowRO 0x010 0xFFFFFFFF, rowRO 0x014 0xFFFFFFFF, rowRO 0x018 0xFFFFFFFF, rowRO 0x01C 0xFFFFFFFF,
   rowRO 0x020 0xFFFFFFFF, rowRO 0x024 0xFFFFFFFF, rowRO 0x028 0xFFFFFFFF, rowRW 0x02C 0xFFFF 0x100,
   rowRS 0x030 0xFF 0xA, rowRW 0x034 0xFFFFFFFF, rowRO 0x038 0xFFFFFFFF]

def mapSYN : List RegRow :=
  [rowRS 0x000 0x37 0x11, rowWO 0x004 0x1, rowRO 0x008 0x1FFF, rowRC 0x00C 0x3F, rowRW 0x010 0xFFF 0x314,
   rowRO 0x014 0x1FFFF, rowRC 0x018 0xFFFF, (rowRS 0x020 0xFFFF).times 4 4]

def mapTT : List RegRow :=
  [rowRS 0x000 0x7 0x1, rowWO 0x004 0x1, { rowRO 0x008 0x1 with rc := 0x6 }, rowRO 0x010 0xFFFFFFFF,
   rowRO 0x014 0xFFFFFFFF, rowRO 0x020 0xFFFFFFFF, rowRO 0x024 0xFFFFFFFF, rowRC 0x028 0xFFFFFFFF,
   rowRC 0x02C 0xFFFFFFFF,
   (rowRW 0x100 0xFFFFFFFF).times 64 0x20, (rowRW 0x104 0xFFFFFFFF).times 64 0x20,
   (rowRW 0x108 0x1FF).times 64 0x20, (rowRW 0x10C 0xFFFFFFFF).times 64 0x20,
   (rowRW 0x110 0xFFFFFFFF).times 64 0x20, (rowRW 0x114 0xFFFF).times 64 0x20,
   (rowRW 0x118 0x1).times 64 0x20, (rowRC 0x11C 0xFF7F).times 64 0x20]

def mapSST : List RegRow :=
  [rowRS 0x000 0xFF01 0x0A01, rowRO 0x004 0xFFFF0001, rowRC 0x008 0x3, rowRO 0x00C 0x80FFFFFC]
  ++ rowsCounter 0x100 3

def mapMIX : List RegRow :=
  [rowWO 0x000 0x1F0003, rowRO 0x004 0xFF03, rowRC 0x008 0x1FF, rowRS 0x00C 0xFFFF, rowRS 0x010 0xFF,
   rowRO 0x014 0x8000FFFF, rowRO 0x018 0x8000FFFF, rowRO 0x01C 0xFFFF7FFF,
   rowRS 0x040 0x7FFFF 0, rowRS 0x044 0x7FFFF 32, rowRS 0x048 0x7FFFF 480, rowRS 0x04C 0x7FFFF 4800,
   (rowRS 0x050 0x7FFFF).times 12 4, (rowRS 0x100 0xFFFFFFFF 0x20320000).times 8 4,
   (rowRW 0x200 0x7FFF).times 16 4, (rowRW 0x240 0xFFFFF 0x8000).times 16 4,
   (rowRC 0x300 0xFFFFFFFF).times 8 4]
  ++ rowsCounter 0x400 4

def mapENG : List RegRow :=
  [rowRS 0x000 0x1FFF, rowWO 0x004 0x1F000F, rowRO 0x008 0xFF0FF7, rowRC 0x00C 0x1FF, rowRS 0x010 0xFFFF,
   rowRS 0x014 0xFF, rowRS 0x018 0x07FF03FF, rowRO 0x01C 0xFFFFFFFF, rowRO 0x020 0xFFFFFFFF,
   rowRO 0x024 0x80033FFF, rowRO 0x028 0xFFFFF, (rowRS 0x040 0xFFFFFF).times 8 4, rowRW 0x080 0x3FFF,
   rowPort 0x084, rowPort 0x088, (rowRW 0x100 0xFFF).times 16 4, (rowRW 0x140 0xFFFFFFFF).times 16 4]
  ++ rowsCounter 0x200 4

def mapMAC : List RegRow :=
  [rowRS 0x000 0x1FFF 0x1C, rowWO 0x004 0x7, rowRO 0x008 0xFF0FFF, rowRC 0x00C 0xFF, rowRS 0x010 0x3FFF 0x5F2,
   rowRS 0x014 0x7707 0x6703, rowRS 0x018 0xFFFF 0x3E8, rowRS 0x01C 0xFFFF 0xA, rowRS 0x020 0x7F03 0xA01,
   rowRS 0x024 0xF 0x1, rowRS 0x028 0x7777 0x5410, rowRS 0x030 0x07FFFFFF 0x03000000,
   rowRS 0x034 0x07FFFFFF 0x02000000, rowRS 0x040 0xFFF3F 0x20A03, rowRS 0x044 0xFFFF 0x1, rowRC 0x048 0x107,
   (rowRS 0x080 0x800F001F).times 8 8, (rowRS 0x084 0xFFFFFFFF).times 8 8, (rowRS 0x100 0xFFFFFFFF).times 16 8,
   (rowRS 0x104 0x8000FFFF).times 16 8,
   (rowRS 0x200 0xFFFFFFFF).times 8 0x20, (rowRS 0x204 0xFFFFFFFF).times 8 0x20,
   (rowRS 0x208 0xFFFFFFFF).times 8 0x20, (rowRS 0x20C 0xFFFFFFFF).times 8 0x20,
   (rowRS 0x210 0x8000FFFF).times 8 0x20] ++ rowsCounter 0x400 16

def mapCLS : List RegRow :=
  [rowRS 0x000 0x1FFFF 0x188B5, rowRO 0x004 0x1FF, rowRC 0x008 0x1] ++ rowsCounter 0x100 5 ++ rowsCounter 0x140 5

def mapSTX : List RegRow :=
  [rowWO 0x000 0x1, rowRO 0x004 0x1FF, rowRC 0x008 0x1F, rowRS 0x010 0xFFFFFFFF, rowRS 0x014 0xFFFFFFFF,
   (rowRO 0x020 0xFFFFFF).times 4 4, (rowRO 0x030 0x7FFFFF).times 2 4, (rowRO 0x040 0xFFFFFFFF).times 4 4,
   (rowRS 0x100 0x3FFFFFF7 0x00020191).times 128 0x40, (rowRS 0x104 0x7F0FFF).times 128 0x40,
   (rowRS 0x108 0xFFFFFFFF 0x001E8480).times 128 0x40, (rowRS 0x10C 0xFFFFFFFF).times 128 0x40,
   (rowRS 0x110 0xFFFFFFFF).times 128 0x40, (rowRS 0x114 0xFFFFFFFF).times 128 0x40,
   (rowRS 0x118 0xFFFF).times 128 0x40, (rowRS 0x11C 0xFFFFFFFF).times 128 0x40,
   (rowRS 0x120 0xFFFF).times 128 0x40, (rowRS 0x124 0x3FFF7F 0x00224060).times 128 0x40,
   (rowRS 0x128 0xFFFFFFFF).times 128 0x40, (rowRS 0x12C 0xFFFFFFFF).times 128 0x40,
   (rowRS 0x130 0xFFFFFFFF 0x138C).times 128 0x40, (rowRS 0x134 0xFFFFFFFF).times 128 0x40,
   (rowRO 0x138 0xFFFFFF).times 128 0x40, ({ rowRO 0x13C 0xFFFF200F with rc := 0x1FF0 } : RegRow).times 128 0x40]
  ++ rowsCounter 0x2200 (128 * 4)
def mapSRX : List RegRow :=
  [rowWO 0x000 0x1, rowRO 0x004 0xFF, rowRC 0x008 0x7F, (rowRO 0x040 0xFFFFFFFF).times 4 4,
   (rowRO 0x050 0xFFFFFFFF).times 4 4, (rowRS 0x080 0xFF 0x10).times 16 4, (rowRO 0x0C0 0xFF03).times 16 4,
   (rowRS 0x100 0x1F7F77 0x4001).times 128 0x40, (rowRS 0x104 0x3F7F0FFF).times 128 0x40,
   (rowRS 0x108 0xFFFF).times 128 0x40, (rowRS 0x10C 0xFFFFFFFF).times 128 0x40,
   (rowRS 0x110 0x7F 0x60).times 128 0x40, (rowRS 0x114 0xFFFFFFFF).times 128 0x40,
   ({ rowRO 0x118 0xC00F with rc := 0x3FF0 } : RegRow).times 128 0x40, (rowRO 0x11C 0xFFFFFFFF).times 128 0x40,
   (rowRC 0x120 0xFFFFFFFF 0x7FFFFFFF).times 128 0x40, (rowRO 0x124 0x1FF).times 128 0x40,
   (rowRO 0x128 0xFFFF).times 128 0x40, (rowRC 0x12C 0xFFFFFFFF).times 128 0x40]
  ++ (List.range 7).flatMap (fun c => rowsCounter (0x2200 + 0x400 * c) 128)

def mapDPC : List RegRow :=
  [rowRS 0x000 0x1FFFFFF 0x000A0A05, rowWO 0x004 0x7, rowRO 0x008 0xFFFFFFFF, rowRC 0x00C 0x3F,
   rowRS 0x010 0xFFFF7F7F 0x003C5032, rowRO 0x014 0x3FF, rowRS 0x018 0xFFFF 0x1F4, (rowRS 0x020 0xFFFFFFFF).times 4 4,
   (rowRO 0x040 0xFFFFFFFF).times 2 4, (rowRO 0x048 0xFFFF).times 2 4, (rowRW 0x080 0xFFFFFFFF).times 8 4,
   ({ rowRO 0x100 0xFFFF000F with rc := 0x30 } : RegRow).times 128 0x10, (rowRO 0x104 0xFFFFFFFF).times 128 0x10,
   (rowRC 0x108 0xFFFFFFFF).times 128 0x10, (rowRO 0x10C 0x3F).times 128 0x10]
  ++ (List.range 9).flatMap (fun c => rowsCounter (0x1000 + 0x400 * c) 128)

/-- Lanes of a siding (R184). -/
def sdgLanes (n : Nat) : Nat := if n = 2 ∨ n = 3 then 8 else if n = 7 then 2 else if n = 11 then 4 else 1

/-- SDG_NINFO of each siding (R184). -/
def sdgInfo (n : Nat) : Nat :=
  if n < 12 then
    [0x01000011, 0x01000011, 0x02000080, 0x02000080, 0x00C00010, 0x01000010, 0x01000010, 0x00800020, 0x00200010,
     0x00400011, 0x00400011, 0x00100040].getD n 0
  else if n < 28 then 0x00200010 else 0x00040012

def mapSDG : List RegRow :=
  [(rowRC 0x000 0xFFFFFFFF).times 2 4, (rowRO 0x100 0xFFFF00F3).times 32 0x40, (rowWO 0x104 0x1).times 32 0x40,
   ({ rowRO 0x108 0x41 with rc := 0xFF3E } : RegRow).times 32 0x40, (rowRO (0x10C + 28 * 0x40) 0x3 0x1).times 4 0x40,
   (rowPort (0x130 + 28 * 0x40)).times 4 0x40, (rowPort (0x134 + 28 * 0x40)).times 4 0x40]
  ++ (List.range 32).map (fun n =>
      if sdgLanes n = 1 then rowRO (0x110 + 0x40 * n) 0xFFFFFFFF
      else (rowRO (0x110 + 0x40 * n) 0xFFFFFFFF).times (sdgLanes n) 4)
  ++ rowsCounter 0x1000 (32 * 4)

def mapSAP : List RegRow :=
  [rowRS 0x000 0xFFFFFFFF 0x450042A0, rowWO 0x004 0x7, rowRO 0x008 0x1FFF, rowRC 0x00C 0xFF, rowRO 0x010 0x1FFFFFF,
   rowRO 0x014 0x733, rowRS 0x018 0xFFFFFFFF 0x3, rowRS 0x01C 0xFFFFFFFF 0x3] ++ rowsCounter 0x100 4

def mapASRC : List RegRow :=
  [rowRO 0x000 0x1FF01FF 0x01000000, rowRC 0x004 0xF, (rowRO 0x040 0xFFFFFFFF).times 8 8, (rowRO 0x044 0x3).times 8 8,
   (rowRS 0x100 0x1F77).times 256 8, (rowRO 0x104 0xF).times 256 8] ++ rowsCounter 0xA00 2

def mapPWR : List RegRow :=
  [rowWO 0x000 0x3F, rowRO 0x004 0x777, rowRC 0x008 0x7, rowRO 0x00C 0xFFFF, rowRO 0x010 0xFFFF] ++ rowsCounter 0x100 11

def mapPAIR : List RegRow :=
  [rowLK 0x000 0xFFFF0001, rowRS 0x004 0xFFF1FFFF 0x08300410, rowWO 0x008 0x1F, rowRO 0x00C 0x1FFF, rowRC 0x010 0x7FF,
   rowRS 0x014 0x0FFF003F 0x00020037, rowRS 0x018 0xFFFFFFFF, rowRS 0x01C 0xFFFF, rowRO 0x020 0xFFFFFFFF,
   rowRO 0x024 0xFFFFFFFF, rowRO 0x028 0xFFFFFFFF, rowRO 0x02C 0xFFFFFFFF, rowRO 0x030 0xFFFFFFFF,
   rowRS 0x034 0xFFFF 0x20] ++ rowsCounter 0x100 8

/-- The power-die registers, by offset in T-space 0x07. -/
def mapPD : List RegRow :=
  [rowRS 0x000 0xFFFF7F01 0x01E02800, rowRO 0x008 0x037777FF, rowRC 0x00C 0x7FFFF, rowRO 0x010 0xFF, rowRO 0x014 0xFFFF,
   rowRO 0x018 0xFFFF, rowRO 0x01C 0xFFFFFFFF, rowRS 0x020 0xFF07FF 0xC8, rowRS 0x024 0x1F 0x12,
   rowRS 0x028 0x1FF01FF 0x00B400D2, rowRS 0x02C 0xFFFFFFFF 0x01F40208, rowRS 0x030 0xFFFFFF 0x000C046E,
   (rowRS 0x100 0x2DFF 0xCC8).times 2 0x80, (rowRS 0x104 0xFFFFFFFF 0x145A0FA0).times 2 0x80,
   (rowRS 0x108 0xFFFF 0xFA).times 2 0x80, (rowRS 0x10C 0xFFFF 0x7D0).times 2 0x80,
   (rowRS 0x110 0xFFFF 3200).times 2 0x80, (rowRS 0x114 0xFFFFFFFF (6400 * 65536 + 2400)).times 2 0x80,
   (rowRS 0x118 0xFFFF 7000).times 2 0x80, (rowRS 0x11C 0xFFFFFFFF (9000 * 65536 + 5000)).times 2 0x80,
   (rowRS 0x120 0xFFFF 8000).times 2 0x80, (rowRS 0x124 0xFFFFFFFF (12000 * 65536 + 5000)).times 2 0x80,
   (rowRS 0x128 0xFFFF 450).times 2 0x80, (rowRS 0x12C 0xFFFFFFFF (900 * 65536 + 250)).times 2 0x80,
   (rowRO 0x130 0x8000FFFF).times 4 4, (rowRO 0x1B0 0x8000FFFF).times 4 4, (rowRO 0x140 0xFFFF).times 2 0x80,
   (rowRS 0x144 0xFFFFFFFF 0x55190F5A).times 2 0x80, (rowRO 0x148 0xFFFF).times 2 0x80,
   (rowRO 0x14C 0xFFFFFF).times 2 0x80, (rowRS 0x150 0xFF01 0x3201).times 2 0x80]

/-- Fields of a stream-ID table word. -/
def cidMask (o : Nat) : Nat := if o < 8 then 0xFFFFFFFF else if o < 12 then 0x0FFF7F3F else 0

/-- Fields of a slot-map word: WIRE and EN (R295). -/
def slotMask : Nat := 0x11F

/-- A slot-map word at reset: EN 1 and WIRE equal to the slot. -/
def slotReset (a : Nat) : Nat := 0x100 + a % 0x80 / 4

/-- The register table of a block. -/
def mapOf (b : Nat) : List RegRow :=
  if b = bSRX then mapSRX else if b = bDPC then mapDPC else if b = bSDG then mapSDG else if b = bASRC then mapASRC
  else if b = bPWR then mapPWR else if b = bPAIR then mapPAIR
  else if b = bGEN then mapGEN else if b = bEVT then mapEVT else if b = bPMU then mapPMU else if b = bMGT then mapMGT
  else if b = bPCI then mapPCI else if b = bRNG then mapRNG else if b = bSST then mapSST
  else if b = bTIM then mapTIM
  else if b = bMCR then mapMCR else if b = bSYN then mapSYN else if b = bTT then mapTT
  else if b = bMIX then mapMIX else if b = bMACA ∨ b = bMACB then mapMAC else if b = bCLS then mapCLS
  else if b = bSTX then mapSTX
  else if b = bRCU then mapRCU else if b < 30 then mapENG else if b < 38 then mapSAP else []

/-- Whether offset `o` of a block is a register of the row. -/
def RegRow.holds (r : RegRow) (o : Nat) : Bool :=
  if o < r.off then false
  else if r.cnt ≤ 1 then o == r.off
  else (o - r.off) % r.stride == 0 && decide ((o - r.off) / r.stride < r.cnt)

/-- The row of the register at a normal-view offset; none where the offset is reserved (R398). -/
def rowAt (a : Nat) : Option RegRow :=
  match blockAt a with
  | none => none
  | some b => (mapOf b).find? (fun r => r.holds (a - blockBase b))

/-! ### T-space (R393) -/

/-- The extent of a table, in bytes from its base at `top * 0x100_0000`, for one engine where the table is by engine. -/
def tableExtent (a : Nat) : Bool :=
  let top := a / 0x1000000
  let o := a % 0x1000000
  if top = 1 then decide (o < 0x50000)
  else if top = 2 then decide (o < 0x20000)
  else if top = 3 then decide (o < 0x80000 ∧ o % 0x10000 < 0x8000)
  else if top = 4 then decide (o < 0x80000 ∧ o % 0x10000 < 0x4000)
  else if top = 5 then decide (o < 0x1000)
  else if top = 6 then decide (o < 0x800)
  else if top = 7 then decide (o < 0x200)
  else if top = 8 then decide (o < 0x800)
  else false

/-- The block that stages a T-space word (R393). -/
def tableBlock (a : Nat) : Nat :=
  let top := a / 0x1000000
  if top = 1 ∨ top = 2 then bMIX
  else if top = 3 ∨ top = 4 then bENG (a % 0x1000000 / 0x10000)
  else if top = 5 then bCLS
  else if top = 6 then bSAP (a % 0x1000000 / 0x100)
  else if top = 7 then bPWR
  else bTT

/-- The register offset a table 0x08 word shares (departures, R35). -/
def ttAlias (a : Nat) : Nat := 0x2C100 + a % 0x1000000

/-- The row of a power-die register. -/
def rowPD (o : Nat) : Option RegRow := mapPD.find? (fun r => r.holds o)

/-- The access kinds of a T-space word, for the extents of R393. -/
def rowT (a : Nat) : Option RegRow :=
  if tableExtent a && a % 4 == 0 then
    let top := a / 0x1000000
    if top = 1 then some (if a % 8 = 0 then { rowRS 0 0x0F1FFFFF with ro := 0x80000000 } else rowRS 0 0x007FFFFF)
    else if top = 2 then some (rowRS 0 0x000FFFFF 0x8000)
    else if top = 3 then some (rowRS 0 (if a % 8 = 0 then 0xFFFFFFFF else 0xFF))
    else if top = 4 then some (rowRS 0 0xFFFFFFFF)
    else if top = 5 then some (rowRS 0 (cidMask (a % 16)))
    else if top = 6 then some (rowRS 0 slotMask (slotReset a))
    else if top = 7 then rowPD (a % 0x1000000)
    else rowAt (ttAlias a)
  else none

/-- Reset word of a T-space word. -/
def tableReset (a : Nat) : Word :=
  match rowT a with
  | some r => BitVec.ofNat 32 r.reset
  | none => 0

end Sys2Proof.Machine
end

