-- ==== Sys2Proof/Machine/Ops.lean ====
section
/-! DEFINITION. Named operations over the stores: sparse maps, presence of units, register words in each of their
stores, counters, event sources with their messages, free values, replies and the output log. -/

namespace Sys2Proof.Machine

/-! ### Sparse stores -/

/-- What a store holds at a key, `d` giving what an unlisted key reads as. -/
def sget {α : Type} (d : Nat → α) : SMap α → Nat → α
  | [], k => d k
  | (a, v) :: t, k => if a = k then v else sget d t k

-- DESIGN CHOICE, log 95: safe.
/-- The store with `v` at `k`; a value equal to the default leaves no entry. -/
def sset {α : Type} [DecidableEq α] (d : Nat → α) : SMap α → Nat → α → SMap α
  | [], k, v => if v = d k then [] else [(k, v)]
  | (a, w) :: t, k, v =>
    if k < a then (if v = d k then (a, w) :: t else (k, v) :: (a, w) :: t)
    else if k = a then (if v = d k then t else (k, v) :: t)
    else (a, w) :: sset d t k v

/-- The store with the value at `k` changed by `f`. -/
def smod {α : Type} [DecidableEq α] (d : Nat → α) (m : SMap α) (k : Nat) (f : α → α) : SMap α :=
  sset d m k (f (sget d m k))

/-- Every entry of `n` written over `m`. -/
def smerge {α : Type} [DecidableEq α] (d : Nat → α) (m n : SMap α) : SMap α :=
  n.foldl (fun acc p => sset d acc p.1 p.2) m

-- DESIGN CHOICE, log 95: safe.
/-- The canonical form: keys strictly rising, no value equal to the default. -/
def swf {α : Type} [DecidableEq α] (d : Nat → α) : SMap α → Bool
  | [] => true
  | [(a, v)] => decide (v ≠ d a)
  | (a, v) :: (b, w) :: t => decide (v ≠ d a) && decide (a < b) && swf d ((b, w) :: t)

/-! ### Family members -/

/-- GEN_CAP0 to GEN_CAP3 of a member (R401). -/
def capWords (m : Member) : List Nat :=
  match m with
  | .al880 => [0x000002E2, 0x00001088, 0x80800020, 0x00004080]
  | .al660 => [0x000001C2, 0x00000884, 0x40400010, 0x00002040]
  | .al440 => [0x0000019A, 0x00000442, 0x20200004, 0x00000820]
  | .al220 => [0x0000000D, 0x00000121, 0x10100001, 0x00000210]
  | .al110 => [0x0000000D, 0x00000010, 0x04041000, 0x00000108]

def capWord (m : Member) (n : Nat) : Word := toWord ((capWords m).getD n 0)

/-- GEN_ID.PART (R399). -/
def partNo (m : Member) : Nat :=
  match m with
  | .al880 => 0x0880 | .al660 => 0x0660 | .al440 => 0x0440 | .al220 => 0x0220 | .al110 => 0x0110

def numPorts (m : Member) : Nat := fld (capWord m 0) 0 2
def hasPower (m : Member) : Bool := decide (fld (capWord m 0) 4 2 ≠ 0)
def hasPair (m : Member) : Bool := bitAt (capWord m 0) 6
def hasDpc (m : Member) : Bool := bitAt (capWord m 0) 7
def numEng (m : Member) : Nat := fld (capWord m 1) 0 4
def numSap (m : Member) : Nat := fld (capWord m 1) 4 4
def numAsrc (m : Member) : Nat := 16 * fld (capWord m 1) 8 8
def numStx (m : Member) : Nat := fld (capWord m 2) 16 8
def numSrx (m : Member) : Nat := fld (capWord m 2) 24 8

-- DEDUCED, log 51: safe.
/-- Rate trackers present: one per port of a member with a rate-converter bank (R402). -/
def numTracker (m : Member) : Nat := if numAsrc m = 0 then 0 else min 8 (numSap m)

/-- A count stated at 96 kHz, scaled to the house rate code (R400). -/
def scaleRate (rate n96 : Nat) : Nat :=
  if rate % 3 = 0 then 2 * n96 else if rate % 3 = 1 then n96 else n96 / 2

/-- Network channels each way at 96 kHz (GEN_CAP2). -/
def chan96 (m : Member) : Nat :=
  if fld (capWord m 2) 0 8 = 0 then fld (capWord m 2) 8 7 else 64 * fld (capWord m 2) 0 8

/-- Counts N, H and B of R400 at a house rate. -/
def numChan (m : Member) (rate : Nat) : Nat := scaleRate rate (chan96 m)
def numHost (m : Member) (rate : Nat) : Nat := scaleRate rate (16 * fld (capWord m 3) 8 8)
def numBus (m : Member) (rate : Nat) : Nat := scaleRate rate (fld (capWord m 3) 0 8)

/-- Whether a member has a block (R2, R402). -/
def blockPresent (m : Member) (b : Nat) : Bool :=
  if b = bMACB then decide (2 ≤ numPorts m)
  else if b = bDPC then hasDpc m
  else if b = bASRC then decide (0 < numAsrc m)
  else if b = bPWR then hasPower m
  else if b = bPAIR then hasPair m
  else if 22 ≤ b ∧ b < 30 then decide (b - 22 < numEng m)
  else if 30 ≤ b ∧ b < 38 then decide (b - 30 < numSap m)
  else true

/-- Whether an event source belongs to a unit the member has (R4, R403). -/
def srcPresent (m : Member) (n : Nat) : Bool :=
  if n = 17 ∨ n = 19 ∨ n = 21 ∨ n = 23 ∨ n = 26 then decide (2 ≤ numPorts m)
  else if 49 ≤ n ∧ n ≤ 51 then hasDpc m
  else if n = 58 ∨ n = 59 then decide (0 < numEng m)
  else if 69 ≤ n ∧ n ≤ 71 then decide (0 < numAsrc m)
  else if 76 ≤ n ∧ n ≤ 85 then hasPower m
  else if 86 ≤ n ∧ n ≤ 91 then hasPair m
  else decide (n < 96)

/-! ### Register words -/

-- DEDUCED, log 22: safe.
/-- Reset word of a register or table word. -/
def resetWord (a : Nat) : Word :=
  if a < 0x1000000 then (match rowAt a with | some r => toWord r.reset | none => 0)
  else tableReset a

/-- Staged, applied, RW and RC values. -/
def State.stagedW (s : State) (a : Nat) : Word := sget resetWord s.reg.staged a
def State.appliedW (s : State) (a : Nat) : Word := sget resetWord s.reg.applied a
def State.inForceW (s : State) (a : Nat) : Word := sget resetWord s.reg.inForce a
def State.rwW (s : State) (a : Nat) : Word := sget resetWord s.reg.rw a
def State.rcW (s : State) (a : Nat) : Word := sget resetWord s.reg.rc a
def State.counter (s : State) (a : Nat) : Nat := sget (fun _ => 0) s.reg.count a

def State.setStaged (s : State) (a : Nat) (w : Word) : State :=
  { s with reg := { s.reg with staged := sset resetWord s.reg.staged a w } }

def State.setApplied (s : State) (a : Nat) (w : Word) : State :=
  { s with reg := { s.reg with applied := sset resetWord s.reg.applied a w } }

def State.setInForce (s : State) (a : Nat) (w : Word) : State :=
  { s with reg := { s.reg with inForce := sset resetWord s.reg.inForce a w } }

def State.setRw (s : State) (a : Nat) (w : Word) : State :=
  { s with reg := { s.reg with rw := sset resetWord s.reg.rw a w } }

def State.setRc (s : State) (a : Nat) (w : Word) : State :=
  { s with reg := { s.reg with rc := sset resetWord s.reg.rc a w } }

def State.setCounter (s : State) (a n : Nat) : State :=
  { s with reg := { s.reg with count := sset (fun _ => 0) s.reg.count a n } }

/-! ### Outputs and free values -/

-- DESIGN CHOICE, log 10: unsafe.
/-- The output log with one more item. -/
def State.emit (s : State) (x : OutItem) : State := { s with out := s.out ++ [x] }

-- DESIGN CHOICE, log 11: safe.
/-- A free value's index and the state that has drawn it. -/
def State.fresh (s : State) : Nat × State := (s.free, { s with free := s.free + 1 })

/-! ### Events (R403 to R406) -/

def evtStat (n : Nat) : Nat := 0x2000 + 4 * (n / 32)
def evtMask (n : Nat) : Nat := 0x2010 + 4 * (n / 32)

/-- The MSI-X vector EVT_ROUTE names for a source. -/
def State.route (s : State) (n : Nat) : Nat := fld (s.rwW (0x2040 + 4 * (n / 4))) (8 * (n % 4)) 5

-- DEDUCED, log 9: unsafe.
-- PRESUMED, log 46: unsafe.
/-- A message of a vector falls due: one per vector and command (R406). -/
def State.msgDue (s : State) (v : Nat) : State :=
  if s.msixEn then (if s.due.contains v then s else { s with due := s.due ++ [v] }) else s

/-- Raise source `n` (R404): set its status bit; where that makes it pending with MSI-X enabled, its message is due. -/
def State.raise (s : State) (n : Nat) : State :=
  if srcPresent s.member n then
    (if (s.rcW (evtStat n)).getLsbD (n % 32) then s
     else
       let t := s.setRc (evtStat n) (s.rcW (evtStat n) ||| toWord (2 ^ (n % 32)))
       if (s.rwW (evtMask n)).getLsbD (n % 32) then t.msgDue (s.route n) else t)
  else s

/-- Whether a source is pending (R405). -/
def State.isPending (s : State) (n : Nat) : Bool :=
  (s.rcW (evtStat n)).getLsbD (n % 32) && (s.rwW (evtMask n)).getLsbD (n % 32)

def State.anyPending (s : State) : Bool :=
  decide (s.rcW 0x2000 &&& s.rwW 0x2010 ≠ 0) || decide (s.rcW 0x2004 &&& s.rwW 0x2014 ≠ 0)
    || decide (s.rcW 0x2008 &&& s.rwW 0x2018 ≠ 0)

/-- Set bits of an RC word. -/
def State.flag (s : State) (a : Nat) (mask : Nat) : State := s.setRc a (s.rcW a ||| toWord mask)

/-- Set bits of an RC word and raise a source, the flag first (R404). -/
def State.flagRaise (s : State) (a mask n : Nat) : State := (s.flag a mask).raise n

/-- A word of an MSI-X table entry: 0 and 1 the address, 2 the data, 3 vector control. -/
def Pci.entry (p : Pci) (v i : Nat) : Word := p.table.getD (4 * v + i) 0

/-- Whether a vector is masked. -/
def Pci.masked (p : Pci) (v : Nat) : Bool := bitAt (p.entry v 3) 0

-- PRESUMED, log 46: unsafe.
/-- The message of a vector: the data of its table entry written to its address. -/
def Pci.message (p : Pci) (v : Nat) : OutItem :=
  .msix v ((p.entry v 0).toNat + (p.entry v 1).toNat * 2 ^ 32) (p.entry v 2)

-- DEDUCED, log 9: unsafe.
-- PRESUMED, log 46: unsafe.
/-- The messages that fell due in a command are issued after its other effects; a masked vector's stays pending (R406). -/
def settle (s : State) : State :=
  { s with
    due := [], out := s.out ++ (s.due.filter (fun v => !s.pci.masked v)).map s.pci.message,
    pba := (s.due.filter s.pci.masked).foldl (fun b v => b ||| BitVec.ofNat 32 (2 ^ v)) s.pba }

-- DEDUCED, log 9: unsafe.
/-- The outcome of a command whose next state is `s` before its messages go out. -/
def done (s : State) : Host.Outcome State Fault Refusal := .next (settle s)

-- DESIGN CHOICE, log 5: unsafe.
/-- Whether the die is held in reset: xo lost (R71), over temperature past its mute (R231), RESET_N low (R419), a supply below its
limit (R423), or a start that its BIST has stopped (R422). -/
def State.held (s : State) : Bool :=
  s.pmu.bistFail || s.pmu.xoLost || s.pmu.por || s.pmu.resetLow || (s.pmu.overheat && !s.pmu.up)

-- DESIGN CHOICE, log 5: unsafe.
/-- Whether all but aon, PMU and the wake ports is without power: held in reset, or asleep (R430). -/
def State.down (s : State) : Bool := s.held || decide (s.pmu.asleep = 2)

-- DESIGN CHOICE, log 5: unsafe.
/-- The outcome of a command that a die held in reset or asleep does not see: `t` is what it makes of `s`. -/
def run (s t : State) : Host.Outcome State Fault Refusal := done (if s.down then s else t)

-- DESIGN CHOICE, log 5: unsafe.
/-- The outcome of a command to a part that stays powered in sleep. -/
def runPowered (s t : State) : Host.Outcome State Fault Refusal := done (if s.held then s else t)

/-! ### Statistics counters (R113) -/

def ctrMax : Nat := 2 ^ 48 - 1

/-- Count `n` events on the counter whose LO word is at `a`; reaching the maximum raises STAT_SAT. -/
def State.countBy (s : State) (a n : Nat) : State :=
  if s.counter a = ctrMax ∨ n = 0 then s
  else if s.counter a + n < ctrMax then s.setCounter a (s.counter a + n)
  else (s.setCounter a ctrMax).raise 13

def State.bump (s : State) (a : Nat) : State := s.countBy a 1

/-! ### The sample store (R413) -/

/-- An uncorrectable word at byte address `a` was read. -/
def State.storeUe (s : State) (a : Nat) : State :=
  let t := { s with sst := { s.sst with ueAddr := toWord (a % 2 ^ 24 / 4 * 4 + 2 ^ 31) } }
  (t.bump 0x3C108).flagRaise 0x3C008 0x2 61

/-- Uncorrectable words of a region and unit were read, by their indices. -/
def State.storeBad (s : State) (region unit_ : Nat) (idx : List Nat) : State :=
  idx.foldl (fun t i => t.storeUe (Config.storeAddr region unit_ i)) s

/-- `n` single-bit errors were corrected. -/
def State.storeCe (s : State) (n : Nat) : State :=
  if n = 0 then s else (s.countBy 0x3C100 n).flag 0x3C008 0x1

/-! ### Replies and requesters -/

def State.answer (s : State) (lo hi : Word) : State := { s with reply := .value lo hi }

def State.requester (s : State) (r : Req) : Requester :=
  match r with | .pcie => s.reg.pcie | .mgt => s.reg.mgt

def State.setRequester (s : State) (r : Req) (q : Requester) : State :=
  match r with
  | .pcie => { s with reg := { s.reg with pcie := q } }
  | .mgt => { s with reg := { s.reg with mgt := q } }

/-- INTA (R407): something pending and Interrupt Disable 0, while MSI-X is disabled. -/
def State.inta (s : State) : Bool :=
  !s.msixEn && !s.intDis && (s.anyPending || decide (s.rcW 0x8010 ≠ 0) || decide (s.rcW 0x8014 ≠ 0))

/-! ### Ticks and rates -/

/-- Tick length T in samples of the code in force (R31). -/
def tickLen (code : Nat) : Nat := 2 ^ code

def State.T (s : State) : Nat := tickLen s.tt.tick

/-- House rate in Hz of a rate code (SYN_CFG.RATE). -/
def rateHz (code : Nat) : Nat := [48000, 96000, 192000, 44100, 88200, 176400].getD code 96000

def State.rateHz (s : State) : Nat := Sys2Proof.Machine.rateHz s.syn.rate

-- DESIGN CHOICE, log 115: unsafe.
/-- The nominal length of the running tick in ns, rounded up: what falls due before it has passed is due within the tick. -/
def State.tickNs (s : State) : Nat := (s.T * 1000000000 + s.rateHz - 1) / s.rateHz

-- DESIGN CHOICE, log 115: unsafe.
/-- What happens at the boundary a command names by its media position: nothing at another. -/
def State.atBoundary (s : State) (pos : Nat) (t : State) : State := if pos = s.tt.now then t else s

/-- Media position in grains that R27 gives for a PTP time in ns. -/
def posOfTime (hz ns : Nat) : Nat := ns * hz * 65536 / 1000000000

-- DEDUCED, log 98: unsafe.
/-- The multiple of `t` nearest to `v`, halves upward. -/
def nearestMul (t : Nat) (v : Int) : Int := (2 * v + Int.ofNat t) / (2 * Int.ofNat t) * Int.ofNat t

/-- The least multiple of `t` that is at least `v`. -/
def ceilMul (t v : Nat) : Nat := (v + t - 1) / t * t

end Sys2Proof.Machine
end

