-- ==== Sys2Proof/Machine/Dsp.lean ====
section
/-! DEFINITION. The instruction set of the effect engines: encoding (R275, R276), operations (R270, R271, R277 to
R280), cycle cost (R272) and the run of one program for one sample (R268, R282, R286). -/

namespace Sys2Proof.Machine

/-! ### Encoding -/

/-- Operand of a K address (R275): direct, or an index register and a signed offset. -/
inductive KAddr where
  | direct (a : Nat)
  | indexed (i : Nat) (o : Int)
  deriving DecidableEq, Repr

/-- An engine instruction (R277). -/
inductive EInst where
  | nop
  | mul (d src : Nat) (ka : KAddr) (pi : Bool)
  | mac (d src : Nat) (ka : KAddr) (pi : Bool)
  | msu (d src : Nat) (ka : KAddr) (pi : Bool)
  | mula (d src t : Nat)
  | maca (d src t : Nat)
  | add (d src t : Nat)
  | sub (d src t : Nat)
  | abs (d src : Nat)
  | neg (d src : Nat)
  | mov (d src : Nat)
  | ldk (d : Nat) (ka : KAddr) (pi : Bool)
  | ldi (d imm : Nat)
  | sat (d src l : Nat)
  | shift (d src : Nat) (rnd : Bool) (n : Int)
  | cmp (src t c cond : Nat)
  | sel (d src t c : Nat) (inv : Bool)
  | biq (d src : Nat) (ka : KAddr) (i : Nat) (pi : Bool)
  | env (d src : Nat) (ka : KAddr) (i : Nat) (pi mode : Bool)
  | lut (d src base n : Nat) (interp : Bool)
  | ld (d : Nat) (la : KAddr) (pi : Bool)
  | st (src : Nat) (la : KAddr) (pi : Bool)
  | dwr (src addr : Nat)
  | drd (d addr : Nat)
  | dri (d m t addr : Nat)
  | out (src y : Nat)
  | seti (n imm : Nat)
  | addi (n imm : Nat)
  | rep (count len : Nat)
  deriving DecidableEq, Repr

/-- Bits `[lo + n - 1 : lo]` of an instruction. -/
def ebits (w lo n : Nat) : Nat := (w / 2 ^ lo) % 2 ^ n

def kaOf (v : Nat) : KAddr :=
  if v / 4096 % 2 = 0 then .direct (v % 4096) else .indexed (v / 512 % 8) (signed 9 v)

def laOf (v : Nat) : KAddr :=
  if v / 16384 % 2 = 0 then .direct (v % 16384) else .indexed (v / 2048 % 8) (signed 11 v)

/-- The bits a format uses below OP (R276), as a mask of [33:0]. -/
def usedMask (op : Nat) : Nat :=
  let d := 0x1F * 2 ^ 29
  let src := 0x3F * 2 ^ 23
  let t := 0x1F * 2 ^ 18
  let ka := 0x1FFF * 2 ^ 10
  if op = 0 then 0
  else if op ≤ 3 then d + src + ka + 2 ^ 9
  else if op ≤ 7 then d + src + t
  else if op ≤ 0xA then d + src
  else if op = 0xB then d + ka + 2 ^ 9
  else if op = 0xC then d + 0xFFFFFF
  else if op = 0xD then d + src + 0x1F
  else if op = 0xE then d + src + 0x7F
  else if op = 0xF then src + t + 3 * 2 ^ 16 + 7 * 2 ^ 12
  else if op = 0x10 then d + src + t + 3 * 2 ^ 16 + 2 ^ 15
  else if op = 0x11 then d + src + ka + 7 * 2 ^ 7 + 2 ^ 6
  else if op = 0x12 then d + src + ka + 7 * 2 ^ 7 + 2 ^ 6 + 2 ^ 5
  else if op = 0x13 then d + src + 0xFFF * 2 ^ 11 + 0xF * 2 ^ 7 + 2 ^ 6
  else if op = 0x14 then d + 0x7FFF * 2 ^ 8 + 2 ^ 7
  else if op = 0x15 then src + 0x7FFF * 2 ^ 8 + 2 ^ 7
  else if op = 0x16 then src + 0xFFFFF
  else if op = 0x17 then d + 0xFFFFF
  else if op = 0x18 then d + 0xF * 2 ^ 25 + 0x1F * 2 ^ 20 + 0xFFFFF
  else if op = 0x19 then src + 0x1F
  else if op ≤ 0x1B then 7 * 2 ^ 31 + 0xFFFF
  else 0xFFF * 2 ^ 10 + 0x3F

/-- The instruction a 40-bit word encodes; none where R274 calls it an ENCODING failure (a reserved opcode, a
non-zero unused bit or a reserved field value). -/
def edecode (w : Nat) : Option EInst :=
  let op := ebits w 34 6
  let d := ebits w 29 5
  let src := ebits w 23 6
  let t := ebits w 18 5
  let ka := kaOf (ebits w 10 13)
  let pi9 := w.testBit 9
  if 0x1C < op ∨ (w % 2 ^ 34) &&& usedMask op ≠ w % 2 ^ 34 then none
  else
    match op with
    | 0x00 => some .nop
    | 0x01 => some (.mul d src ka pi9)
    | 0x02 => some (.mac d src ka pi9)
    | 0x03 => some (.msu d src ka pi9)
    | 0x04 => some (.mula d src t)
    | 0x05 => some (.maca d src t)
    | 0x06 => some (.add d src t)
    | 0x07 => some (.sub d src t)
    | 0x08 => some (.abs d src)
    | 0x09 => some (.neg d src)
    | 0x0A => some (.mov d src)
    | 0x0B => some (.ldk d ka pi9)
    | 0x0C => some (.ldi d (ebits w 0 24))
    | 0x0D => some (.sat d src (ebits w 0 5))
    | 0x0E => some (.shift d src (w.testBit 6) (signed 6 (ebits w 0 6)))
    | 0x0F => if ebits w 12 3 < 6 then some (.cmp src t (ebits w 16 2) (ebits w 12 3)) else none
    | 0x10 => some (.sel d src t (ebits w 16 2) (w.testBit 15))
    | 0x11 => some (.biq d src ka (ebits w 7 3) (w.testBit 6))
    | 0x12 => some (.env d src ka (ebits w 7 3) (w.testBit 6) (w.testBit 5))
    | 0x13 =>
      if 1 ≤ ebits w 7 4 ∧ ebits w 7 4 ≤ 11 ∧ ebits w 11 12 + 2 ^ ebits w 7 4 ≤ 4095 then
        some (.lut d src (ebits w 11 12) (ebits w 7 4) (w.testBit 6))
      else none
    | 0x14 => some (.ld d (laOf (ebits w 8 15)) (w.testBit 7))
    | 0x15 => some (.st src (laOf (ebits w 8 15)) (w.testBit 7))
    | 0x16 => some (.dwr src (ebits w 0 20))
    | 0x17 => some (.drd d (ebits w 0 20))
    | 0x18 => some (.dri d (ebits w 25 4) (ebits w 20 5) (ebits w 0 20))
    | 0x19 => some (.out src (ebits w 0 5))
    | 0x1A => some (.seti (ebits w 31 3) (ebits w 0 16))
    | 0x1B => some (.addi (ebits w 31 3) (ebits w 0 16))
    | _ => some (.rep (ebits w 10 12) (ebits w 0 6))

/-! ### Cost (R272) -/

-- DEDUCED, log 69: unsafe.
/-- Cycles of one instruction, a REPEAT counted without its body. -/
def EInst.cycles : EInst → Nat
  | .biq .. => 3
  | _ => 1

/-- Pool words one instruction accesses. -/
def EInst.poolWords : EInst → Nat
  | .drd .. => 1
  | .dwr .. => 1
  | .dri .. => 2
  | _ => 0

def EInst.isPoolRead : EInst → Bool
  | .drd .. => true
  | .dri .. => true
  | _ => false

/-- Cycles, issue cycle of the last pool read, and pool words, accumulated along a program. -/
structure Cost where
  n : Nat
  last : Option Nat
  p : Nat
  deriving DecidableEq, Repr

def Cost.one (c : Cost) (i : EInst) : Cost :=
  { n := c.n + i.cycles, last := if i.isPoolRead then some c.n else c.last, p := c.p + i.poolWords }

/-- A REPEAT block run `count` times. -/
def Cost.loop (c : Cost) (count : Nat) (body : List EInst) : Cost :=
  let b := body.foldl Cost.one { n := 0, last := none, p := 0 }
  { n := c.n + 1 + count * b.n,
    last := match b.last with | some x => some (c.n + 1 + (count - 1) * b.n + x) | none => c.last,
    p := c.p + count * b.p }

/-- The cost of a program; the first argument bounds the recursion by its length. -/
def costFrom : Nat → List EInst → Cost → Cost
  | 0, _, c => c
  | _, [], c => c
  | f + 1, .rep count len :: t, c => costFrom f (t.drop len) (c.loop count (t.take len))
  | f + 1, i :: t, c => costFrom f t (c.one i)

def costOf (p : List EInst) : Cost := costFrom p.length p { n := 0, last := none, p := 0 }

/-- The cycle count C: the instruction cycles and the drain. -/
def Cost.total (c : Cost) : Nat := match c.last with | some i => max c.n (i + 6) | none => c.n

/-- Whether every REPEAT of a program is well formed (R282); `i` instructions remain a loop's body. -/
def repeatsOk : Nat → List EInst → Bool
  | _, [] => true
  | body, .rep count len :: t =>
    decide (body = 0 ∧ count ≠ 0 ∧ len ≠ 0 ∧ len ≤ t.length) && repeatsOk len t
  | body, _ :: t => repeatsOk (body - 1) t

/-! ### Running one sample -/

/-- What a run of a program reads and does not change. -/
structure EngEnv where
  k : Nat → Word               -- K word in effect
  kBank : Nat → Nat            -- ENG_FAULT.MEM of a K word: 1 bank A, 2 bank B
  step : Nat → Int             -- ENG_IINITn.STEP
  base : Nat                   -- window base and length in words
  len : Nat
  bad : List (Nat × Nat)       -- words failing parity: MEM code and address

/-- A run: the engine, the pool with its uncorrectable words, the ones read, what has been counted, and the failing word once one
has halted it. -/
structure EngRun where
  e : Eng
  pool : SMap Int
  bad : List Nat
  hits : List Nat
  accSat : Nat
  outSat : Nat
  par : Option (Nat × Nat)
  deriving DecidableEq, Repr

-- DESIGN CHOICE, log 23: unsafe.
def izero (_ : Nat) : Int := 0

/-- Q8.40 bounds. -/
def q840 (v : Int) : Int := satTo 48 v

def EngRun.acc (r : EngRun) (n : Nat) : Int := sget izero r.e.acc n

/-- Source operand S: an accumulator, or an X port read as Q8.40 (R270). -/
def EngRun.src (r : EngRun) (n : Nat) : Int :=
  if n < 32 then r.acc n else sget izero r.e.x (n - 32) * 2 ^ 15

def EngRun.idx (r : EngRun) (n : Nat) : Nat := sget (fun _ => 0) r.e.idx n

def KAddr.eval (a : KAddr) (r : EngRun) (m : Nat) : Nat :=
  match a with
  | .direct v => v
  | .indexed i o => ((Int.ofNat (r.idx i) + o) % Int.ofNat m).toNat

/-- A K word as Q3.29. -/
def kval (v : EngEnv) (a : Nat) : Int := signed 32 (v.k (a % 4096)).toNat

/-- Write an accumulator with a result that is saturated to Q8.40; `more` says that an inner sum saturated. -/
def EngRun.wr (r : EngRun) (d : Nat) (v : Int) (more : Bool := false) : EngRun :=
  { r with e := { r.e with acc := sset izero r.e.acc d (q840 v) },
           accSat := r.accSat + b2n (more || decide (q840 v ≠ v)) }

/-- Advance the index registers an instruction names, each once (PI of R275). -/
def EngRun.post (r : EngRun) (v : EngEnv) (pi : Bool) (regs : List Nat) : EngRun :=
  if pi then
    { r with e := { r.e with idx := regs.eraseDups.foldl (fun m n =>
        sset (fun _ => 0) m n ((Int.ofNat (sget (fun _ => 0) m n) + v.step n) % 65536).toNat) r.e.idx } }
  else r

def KAddr.regs : KAddr → List Nat
  | .direct _ => []
  | .indexed i _ => [i]

/-- Halt on a failing word (R286). -/
def EngRun.halt (r : EngRun) (mem a : Nat) : EngRun := { r with par := some (mem, a) }

/-- The first K word of a list that fails parity. -/
def badK (v : EngEnv) (as : List Nat) : Option Nat :=
  as.find? (fun a => v.bad.contains (v.kBank (a % 4096), a % 4096))

def badL (v : EngEnv) (as : List Nat) : Option Nat := as.find? (fun a => v.bad.contains (3, a % 16384))

/-- `f`, unless a K or L word it reads fails parity. -/
def EngRun.guarded (r : EngRun) (v : EngEnv) (ks ls : List Nat) (f : EngRun) : EngRun :=
  match badK v ks with
  | some a => r.halt (v.kBank (a % 4096)) (a % 4096)
  | none => match badL v ls with
    | some a => r.halt 3 (a % 16384)
    | none => f

/-- Exact product of a Q8.40 value and a K word, rounded to Q8.40 (R271). -/
def mulK (x k : Int) : Int := roundShift 29 (x * k)

def EngRun.lget (r : EngRun) (a : Nat) : Int := sget izero r.e.lmem (a % 16384)

def EngRun.lset (r : EngRun) (a : Nat) (v : Int) : EngRun :=
  { r with e := { r.e with lmem := sset izero r.e.lmem (a % 16384) v } }

/-- Pool word of window address `a` (R279). -/
def poolAddr (v : EngEnv) (r : EngRun) (a : Nat) : Nat := v.base + (r.e.wp + a) % (max 1 v.len)

/-- A pool word read: 0 while zeroing (R281) and where the word is poisoned, which counts. -/
def EngRun.poolGet (r : EngRun) (v : EngEnv) (a : Nat) : Int × List Nat :=
  let k := poolAddr v r a
  if r.e.zLeft ≠ 0 then (0, [])
  else if r.bad.contains k then (0, [k])
  else (sget izero r.pool k, [])

/-- A pool word written, which ends an error of it (R413); ignored while zeroing (R281). -/
def EngRun.poolSet (r : EngRun) (v : EngEnv) (a : Nat) (w : Int) : EngRun :=
  let k := poolAddr v r a
  if r.e.zLeft ≠ 0 then r
  else { r with pool := sset izero r.pool k w, bad := r.bad.filter (fun b => b ≠ k) }

-- DEDUCED, log 70: unsafe.
/-- Deliver the pool reads due by the start of the running cycle (R272). -/
def EngRun.deliver (r : EngRun) : EngRun :=
  { r with e := { r.e with
      acc := (r.e.flight.filter (fun f => decide (f.due ≤ r.e.cyc))).foldl
        (fun m f => sset izero m f.dest f.value) r.e.acc,
      flight := r.e.flight.filter (fun f => decide (r.e.cyc < f.due)) } }

-- DEDUCED, log 70: unsafe.
def EngRun.issue (r : EngRun) (d : Nat) (v : Int) (hits : List Nat) : EngRun :=
  { r with e := { r.e with flight := r.e.flight ++ [{ dest := d, value := v, due := r.e.cyc + 6 }] },
           hits := r.hits ++ hits }

/-- CMP's comparison (R277). -/
def condHolds (c : Nat) (a b : Int) : Bool :=
  if c = 0 then decide (a < b) else if c = 1 then decide (a ≤ b) else if c = 2 then decide (a = b)
  else if c = 3 then decide (a ≠ b) else if c = 4 then decide (b ≤ a) else decide (b < a)

/-- SHIFT (R277). -/
def shiftVal (s : Int) (n : Int) (rnd : Bool) : Int :=
  if 0 ≤ n then s * 2 ^ n.toNat else if rnd then roundShift (-n).toNat s else asr (-n).toNat s

/-- One biquad section (R278): result and new state, with whether a sum saturated. -/
def biquad (x s1 s2 b0 b1 b2 a1 a2 : Int) : Int × Int × Int × Bool :=
  let y0 := mulK x b0 + s1
  let y := q840 y0
  let u := mulK x b1 - mulK y a1
  let t := q840 u + s2
  let w := mulK x b2 - mulK y a2
  (y, q840 t, q840 w,
    decide (q840 y0 ≠ y0) || decide (q840 u ≠ u) || decide (q840 t ≠ t) || decide (q840 w ≠ w))

/-- The effect of one instruction other than REPEAT, K, L and pool words read as R277 to R280 say. -/
def EngRun.inst (r : EngRun) (v : EngEnv) (i : EInst) : EngRun :=
  match i with
  | .nop => r
  | .rep .. => r
  | .mul d s ka p =>
    let a := ka.eval r 4096
    r.guarded v [a] [] ((r.wr d (mulK (r.src s) (kval v a))).post v p ka.regs)
  | .mac d s ka p =>
    let a := ka.eval r 4096
    r.guarded v [a] [] ((r.wr d (r.acc d + mulK (r.src s) (kval v a))).post v p ka.regs)
  | .msu d s ka p =>
    let a := ka.eval r 4096
    r.guarded v [a] [] ((r.wr d (r.acc d - mulK (r.src s) (kval v a))).post v p ka.regs)
  | .mula d s t => r.wr d (roundShift 24 (r.src s * roundShift 16 (r.acc t)))
  | .maca d s t => r.wr d (r.acc d + roundShift 24 (r.src s * roundShift 16 (r.acc t)))
  | .add d s t => r.wr d (r.src s + r.acc t)
  | .sub d s t => r.wr d (r.src s - r.acc t)
  | .abs d s => r.wr d (Int.ofNat (r.src s).natAbs)
  | .neg d s => r.wr d (-(r.src s))
  | .mov d s => r.wr d (r.src s)
  | .ldk d ka p =>
    let a := ka.eval r 4096
    r.guarded v [a] [] ((r.wr d (kval v a * 2 ^ 11)).post v p ka.regs)
  | .ldi d imm => r.wr d (signed 24 imm * 2 ^ 24)
  | .sat d s l =>
    { r with e := { r.e with acc := sset izero r.e.acc d (clampI (-(2 ^ (47 - l) : Int)) (2 ^ (47 - l) - 1) (r.src s)) } }
  | .shift d s rnd n => r.wr d (shiftVal (r.src s) n rnd)
  | .cmp s t c k =>
    { r with e := { r.e with cond := BitVec.ofNat 4 ((r.e.cond.toNat &&& (15 - 2 ^ c))
        ||| (if condHolds k (r.src s) (r.acc t) then 2 ^ c else 0)) } }
  | .sel d s t c inv => r.wr d (if (r.e.cond.getLsbD c) != inv then r.src s else r.acc t)
  | .biq d s ka i p =>
    let a := ka.eval r 4096
    let l := r.idx i
    let q := biquad (r.src s) (r.lget l) (r.lget (l + 1)) (kval v a) (kval v (a + 1)) (kval v (a + 2))
      (kval v (a + 3)) (kval v (a + 4))
    r.guarded v [a, a + 1, a + 2, a + 3, a + 4] [l, l + 1]
      ((((r.lset l q.2.1).lset (l + 1) q.2.2.1).wr d q.1 q.2.2.2).post v p (ka.regs ++ [i]))
  | .env d s ka i p mode =>
    let a := ka.eval r 4096
    let l := r.idx i
    let e0 := if mode then roundShift 40 (r.src s * r.src s) else Int.ofNat (r.src s).natAbs
    let e := q840 e0
    let st := r.lget l
    let c := if st < e then a else a + 1
    let df := e - st
    let n0 := st + mulK (q840 df) (kval v c)
    r.guarded v [c] [l] (((r.lset l (q840 n0)).wr d n0 (decide (e ≠ e0) || decide (q840 df ≠ df))).post v p
      (ka.regs ++ [i]))
  | .lut d s base n interp =>
    let u := clampI (-(2 ^ 40 : Int)) (2 ^ 40 - 1) (r.src s)
    let p := ((u + 2 ^ 40) * 2 ^ (n - 1)) / 2 ^ 24
    let a := base + (p / 65536).toNat
    let k0 := kval v a * 2 ^ 11
    let k1 := kval v (a + 1) * 2 ^ 11
    r.guarded v (if interp then [a, a + 1] else [a]) []
      (r.wr d (if interp then k0 + roundShift 16 (p % 65536 * (k1 - k0)) else k0))
  | .ld d la p =>
    let a := la.eval r 16384
    r.guarded v [] [a] ((r.wr d (r.lget a)).post v p la.regs)
  | .st s la p => (r.lset (la.eval r 16384) (r.src s)).post v p la.regs
  | .dwr s a =>
    let w0 := roundShift 15 (r.src s)
    { r.poolSet v a (satTo 32 w0) with outSat := r.outSat + b2n (decide (satTo 32 w0 ≠ w0)) }
  | .drd d a => r.issue d ((r.poolGet v a).1 * 2 ^ 15) (r.poolGet v a).2
  | .dri d m t a =>
    let tau := clampI 0 (Int.ofNat (v.len - 2) * 65536) (Int.ofNat a * 65536 + (r.acc t * 2 ^ m) / 2 ^ 24)
    let n := (tau / 65536).toNat
    let w0 := r.poolGet v n
    let w1 := r.poolGet v (n + 1)
    r.issue d (w0.1 * 2 ^ 15 + roundShift 16 (tau % 65536 * (w1.1 * 2 ^ 15 - w0.1 * 2 ^ 15))) (w0.2 ++ w1.2)
  | .out s y => { r with e := { r.e with y := sset izero r.e.y y (r.src s) } }
  | .seti n imm => { r with e := { r.e with idx := sset (fun _ => 0) r.e.idx n imm } }
  | .addi n imm =>
    let i := ((Int.ofNat (r.idx n) + signed 16 imm) % 65536).toNat
    { r with e := { r.e with idx := sset (fun _ => 0) r.e.idx n i } }

/-- Fetch, deliver what is due, act and charge the cycles; nothing once the run has halted. -/
def EngRun.one (v : EngEnv) (r : EngRun) (ai : Nat × EInst) : EngRun :=
  if r.par.isSome then r
  else if v.bad.contains (0, ai.1) then r.halt 0 ai.1
  else
    let q := (r.deliver).inst v ai.2
    { q with e := { q.e with cyc := q.e.cyc + ai.2.cycles } }

/-- `n` passes over a loop's body. -/
def EngRun.loop (v : EngEnv) (body : List (Nat × EInst)) : Nat → EngRun → EngRun
  | 0, r => r
  | n + 1, r => EngRun.loop v body n (body.foldl (EngRun.one v) r)

/-- The program in address order with REPEAT blocks expanded (R268, R282). -/
def runFrom (v : EngEnv) : Nat → List (Nat × EInst) → EngRun → EngRun
  | 0, _, r => r
  | _, [], r => r
  | f + 1, (a, .rep count len) :: t, r =>
    runFrom v f (t.drop len) (EngRun.loop v (t.take len) count (r.one v (a, .rep count len)))
  | f + 1, i :: t, r => runFrom v f t (r.one v i)

/-- Everything in flight arrives in the drain. -/
def EngRun.drain (r : EngRun) : EngRun :=
  { r with e := { r.e with
      acc := r.e.flight.foldl (fun m f => sset izero m f.dest f.value) r.e.acc, flight := [] } }

/-- A Y port as a fabric word, and whether it saturated (R270). -/
def yWord (a : Int) : Int × Bool := (satTo 32 (roundShift 15 a), decide (satTo 32 (roundShift 15 a) ≠ roundShift 15 a))

/-- One sample of a running engine (R268): X latched, index registers loaded, the write pointer stepped back, the
program run and the reads in flight drained.  `x` gives the junction outputs and `init` the INIT fields. -/
def runSample (v : EngEnv) (prog : List (Nat × EInst)) (x : SMap Int) (init : Nat → Nat) (r : EngRun) : EngRun :=
  let e1 := { r.e with
    x := x, idx := (List.range 8).foldl (fun m n => sset (fun _ => 0) m n (init n)) [],
    wp := if v.len = 0 then 0 else (r.e.wp + v.len - 1) % v.len, cyc := 0, flight := [] }
  let q := runFrom v prog.length prog { r with e := e1 }
  let d := if q.par.isSome then q else q.drain
  { d with e := { d.e with zLeft := d.e.zLeft - 1 } }

end Sys2Proof.Machine
end

