-- ==== Sys2Proof/Machine/Mute.lean ====
section
/-! DEFINITION. Gains and their ramps (R251, R253) and the sink mute stages (R230, R261). -/

namespace Sys2Proof.Machine

/-- `10 ^ (2 ^ j / (1280 * 65536))` in units of 2^-128, for j = 0 to 26: the gain of 2^-16 of a code, doubled in dB at
each step. -/
def gainRoots : List Nat :=
  [340282376261333392328927516225802260974,
   340282385601728577578548211428103318590,
   340282404282519717230021110955306877275,
   340282441644105073142089995795540296146,
   340282516367288091404296503144940479600,
   340282665813703353693595627320722479837,
   340282964706730781432627625529783280910,
   340283562493573250359541781608254877741,
   340284758070408648465702648404788909408,
   340287149236681337342980075489662426467,
   340291931619634699005083869086444633819,
   340301496587176663984854867967709767485,
   340320627328828009466540211002522616303,
   340358892038611964869263170996924450063,
   340435434365797930680478157661362587750,
   340588570664188915884533362473589573061,
   340895049945467474162398302628145861083,
   341508836114105721742903399503909594059,
   342739725832189975909543487591743970958,
   345214830631579471819916083944471078794,
   350218791429997711767863729169909045999,
   360445364773149127229337289808714240256,
   381803095358844947590808146154431702289,
   428390118902236357715399458008612005262,
   539311206847550161157777344718058257008,
   854750660350669702495489405608583046340,
   2147036586058700863912725458676901527179]

/-- The product of the roots named by the bits of `r`. -/
def rootProduct : List Nat → Nat → Nat → Nat
  | [], _, acc => acc
  | t :: ts, r, acc => rootProduct ts (r / 2) (if r % 2 = 1 then acc * t / 2 ^ 128 else acc)

/-- `unit * 10 ^ (c / (1280 * 65536) + 7)` in units of 2^-128, for `c` from -2^29 up. -/
def scaleGain (unit : Nat) (c : Int) : Nat :=
  let u := (c + 587202560).toNat
  rootProduct gainRoots (u % 83886080) (2 ^ 128) * 10 ^ (u / 83886080) * unit

/-- Linear factor of a gain code held to 2^-16 of a code, in units of 2^-28, rounded to the nearest (R251). -/
def factor16 (c : Int) : Nat :=
  if c = 0 then 2 ^ 28 else (scaleGain (2 ^ 29) c + 10 ^ 7 * 2 ^ 128) / (10 ^ 7 * 2 ^ 129)

/-- `2 ^ 25 * 10 ^ (c / 1280)` truncated, the ceiling of R260, for a gain code `c` up to 0. -/
def ceilingOf (c : Int) : Nat :=
  if c = 0 then 2 ^ 25 else scaleGain (2 ^ 25) (c * 65536) / (10 ^ 7 * 2 ^ 128)

/-- Gain code of mute, times 65 536: mute counts as -128 dB in a ramp (R253). -/
def muteCode : Int := -8192 * 65536

/-- A 16-bit gain code as adopted (R251): the code times 65 536, and whether it is mute. -/
def adoptGain (g : Nat) : Int × Bool :=
  if g = 0x8000 then (muteCode, true)
  else (clampI (-8192) 1536 (signed 16 g) * 65536, false)

/-- A gain at rest. -/
def restRamp (c : Int × Bool) : Ramp := { start := c.1, target := c.1, mute := c.2, len := 0, pos := 0 }

def Ramp.atRest (r : Ramp) : Bool := decide (r.len ≤ r.pos)

-- DEDUCED, log 71: unsafe.
/-- Gain code at sample `m` of a ramp, counted from its first: the movement per sample is held to 2^-16 of a code, and the
last sample holds the target (R253). -/
def Ramp.codeAt (r : Ramp) (m : Nat) : Int :=
  if r.len ≤ m + 1 then r.target
  else r.start + Int.ofNat (m + 1) * truncDiv (r.target - r.start) r.len

/-- Gain code last applied. -/
def Ramp.now (r : Ramp) : Int :=
  if r.atRest then r.target else if r.pos = 0 then r.start else r.codeAt (r.pos - 1)

/-- Linear factor applied to the `i`-th sample from now, in units of 2^-28: mute is the factor 0 at rest and at the
last sample of a ramp that ends there. -/
def Ramp.factorAt (r : Ramp) (i : Nat) : Nat :=
  if r.mute ∧ r.len ≤ r.pos + i + 1 then 0
  else if r.len ≤ r.pos then factor16 r.target
  else factor16 (r.codeAt (r.pos + i))

-- DEDUCED, log 71: unsafe.
/-- Run a ramp for `n` samples. -/
def Ramp.run (r : Ramp) (n : Nat) : Ramp :=
  if r.len ≤ r.pos + n then restRamp (r.target, r.mute) else { r with pos := r.pos + n }

/-- A new target adopted at the next sample (R253). -/
def Ramp.toward (r : Ramp) (c : Int × Bool) (len : Nat) : Ramp :=
  if len = 0 then restRamp c else { start := r.now, target := c.1, mute := c.2, len := len, pos := 0 }

/-! ### Mute stages -/

abbrev mkNet : Nat := 0
abbrev mkDraw : Nat := 1
abbrev mkSap (p : Nat) : Nat := 2 + p
abbrev mkPwr (c : Nat) : Nat := 10 + c

/-- The sink classes that have a mute stage of their own. -/
def sinkClasses : List Nat := List.range 12

/-- Mute stages at reset: SAP ports are not started and power channels not in RUN, so both are muted. -/
def muteReset (k : Nat) : Mute :=
  if 2 ≤ k ∧ k < 10 then { causes := [.port], ramp := restRamp (muteCode, true) }
  else if 10 ≤ k then { causes := [.channel], ramp := restRamp (muteCode, true) }
  else { causes := [], ramp := restRamp (0, false) }

def State.muteOf (s : State) (k : Nat) : Mute := sget muteReset s.mix.mute k

def State.setMute (s : State) (k : Nat) (m : Mute) : State :=
  { s with mix := { s.mix with mute := sset muteReset s.mix.mute k m } }

/-- A cause begins: the stage ramps to mute over `len` samples unless another cause already holds it (R230). -/
def Mute.on (m : Mute) (c : MuteCause) (len : Nat) : Mute :=
  if m.causes.contains c then m
  else if m.causes = [] then { causes := [c], ramp := m.ramp.toward (muteCode, true) len }
  else { m with causes := m.causes ++ [c] }

/-- A cause ends: when it was the last, the stage ramps up once from the gain it holds (R230). -/
def Mute.off (m : Mute) (c : MuteCause) (len : Nat) : Mute :=
  if m.causes.contains c then
    (if m.causes.filter (· ≠ c) = [] then { causes := [], ramp := m.ramp.toward (0, false) len }
     else { m with causes := m.causes.filter (· ≠ c) })
  else m

def State.muteOn (s : State) (k : Nat) (c : MuteCause) (len : Nat) : State := s.setMute k ((s.muteOf k).on c len)

def State.muteOff (s : State) (k : Nat) (c : MuteCause) (len : Nat) : State := s.setMute k ((s.muteOf k).off c len)

/-- Every sink at once. -/
def State.muteAll (s : State) (c : MuteCause) (len : Nat) : State :=
  sinkClasses.foldl (fun t k => t.muteOn k c len) s

def State.unmuteAll (s : State) (c : MuteCause) (len : Nat) : State :=
  sinkClasses.foldl (fun t k => t.muteOff k c len) s

-- DEDUCED, log 34: unsafe.
/-- The MCR_CTL.RAMP length in samples, rounded up to whole ticks (R65, R77). -/
def State.rampLen (s : State) : Nat := ceilMul s.T (max 1 (fld (s.rwW 0x24004) 16 16))

-- DEDUCED, log 71: unsafe.
/-- A sample through the mute stage at the `i`-th sample of the tick. -/
def Mute.apply (m : Mute) (i : Nat) (x : Int) : Int :=
  if m.ramp.factorAt i = 2 ^ 28 then x else roundShift 28 (x * Int.ofNat (m.ramp.factorAt i))

end Sys2Proof.Machine
end

