-- ==== Sys2Proof/Machine/Bank.lean ====
section
/-! DEFINITION. Parameter regions of MIX and of the engines: update modes, double banks, copies and safe-load sets
(R262 to R265, R285).  An owner is the block number of MIX or of an engine. -/

namespace Sys2Proof.Machine

-- DESIGN CHOICE, log 23: unsafe.
def engReset (_ : Nat) : Eng :=
  { st := .stopped, cause := 0, acc := [], cond := 0, idx := [], x := [], xLast := [], y := [], lmem := [], wp := 0,
    flight := [], cyc := 0, zLeft := 0, zeroing := false, dclrReq := false, clearReq := false, clearing := false,
    slPend := none, copying := false, regionMode := [], select := 0, dwin := 0, chain := 0, fault := 0,
    window := false, wiped := false, testing := false }

def State.engOf (s : State) (e : Nat) : Eng := sget engReset s.eng e

def State.setEng (s : State) (e : Nat) (v : Eng) : State := { s with eng := sset engReset s.eng e v }

def State.modEng (s : State) (e : Nat) (f : Eng → Eng) : State := s.setEng e (f (s.engOf e))

def engBase (e : Nat) : Nat := 0x60000 + e * 0x1000

/-- What MIX and an engine hold alike about their regions. -/
structure BankCtl where
  modes : SMap Nat
  select : BitVec 8
  copying : Bool
  slPend : Option (List (Nat × Word))
  deriving DecidableEq, Repr

def State.bankCtl (s : State) (o : Nat) : BankCtl :=
  if o = bMIX then { modes := s.mix.regionMode, select := s.mix.select, copying := s.mix.copying, slPend := s.mix.slPend }
  else
    let e := s.engOf (o - 22)
    { modes := e.regionMode, select := e.select, copying := e.copying, slPend := e.slPend }

def State.setBankCtl (s : State) (o : Nat) (c : BankCtl) : State :=
  if o = bMIX then
    { s with mix := { s.mix with regionMode := c.modes, select := c.select, copying := c.copying, slPend := c.slPend } }
  else s.modEng (o - 22) (fun e =>
    { e with regionMode := c.modes, select := c.select, copying := c.copying, slPend := c.slPend })

/-- The owner of a parameter word, by T-space address; none for a word of no region. -/
def ownerOf (a : Nat) : Option Nat :=
  if a / 0x1000000 = 2 then some bMIX
  else if a / 0x1000000 = 4 then some (bENG (a % 0x1000000 / 0x10000))
  else none

/-- The region of a parameter word at the current bus count (R262); 8 and above for a crosspoint beyond it. -/
def State.regionOf (s : State) (a : Nat) : Nat :=
  if a / 0x1000000 = 2 then (a % 0x1000000 / 4 / 128) / max 1 (numBus s.member s.syn.rate / 8)
  else a % 0x10000 / 4 / 512

def State.modeOf (s : State) (o r : Nat) : Nat := sget (fun _ => 0) (s.bankCtl o).modes r

/-- Whether a T-space word lies in a region in mode 1. -/
def State.inMode1 (s : State) (a : Nat) : Bool :=
  match ownerOf a with
  | some o => decide (s.regionOf a < 8) && decide (s.modeOf o (s.regionOf a) = 1)
  | none => false

def State.inMode2 (s : State) (a : Nat) : Bool :=
  match ownerOf a with
  | some o => decide (s.regionOf a < 8) && decide (s.modeOf o (s.regionOf a) = 2)
  | none => false

/-- Whether the active bank of a word's region is B. -/
def State.activeB (s : State) (a : Nat) : Bool :=
  match ownerOf a with
  | some o => (s.bankCtl o).select.getLsbD (s.regionOf a)
  | none => false

def State.bankW (s : State) (b : Bool) (a : Nat) : Word := sget resetWord (if b then s.reg.bankB else s.reg.bankA) a

def State.setBank (s : State) (b : Bool) (a : Nat) (w : Word) : State :=
  if b then { s with reg := { s.reg with bankB := sset resetWord s.reg.bankB a w } }
  else { s with reg := { s.reg with bankA := sset resetWord s.reg.bankA a w } }

/-- The word a parameter has in effect: its active bank in mode 1, its applied value otherwise (R262). -/
def State.effW (s : State) (a : Nat) : Word :=
  if s.inMode1 a then s.bankW (s.activeB a) a else s.appliedW a

/-- The word a T-space write changes and a staged read returns: the inactive bank in mode 1 (R262). -/
def State.stageViewW (s : State) (a : Nat) : Word :=
  if s.inMode1 a then s.bankW (!s.activeB a) a else s.stagedW a

/-- A T-space write of a mode-1 word: to the inactive bank, or held while a copy runs (R264). -/
def State.bankWrite (s : State) (a : Nat) (w : Word) : State :=
  match ownerOf a with
  | some o =>
    if (s.bankCtl o).copying then { s with reg := { s.reg with held := s.reg.held ++ [(a, w)] } }
    else s.setBank (!s.activeB a) a w
  | none => s

/-- Entries of a store whose keys satisfy `p`, put in place of those of another store. -/
def replaceWhere (p : Nat → Bool) (m n : SMap Word) : SMap Word :=
  smerge resetWord (m.filter (fun x => !p x.1)) (n.filter (fun x => p x.1))

/-- Keys of a region of an owner. -/
def State.inRegion (s : State) (o r a : Nat) : Bool := decide (ownerOf a = some o) && decide (s.regionOf a = r)

/-- A region enters mode 1: both banks take its applied values (R262). -/
def State.enterMode1 (s : State) (o r : Nat) : State :=
  { s with reg := { s.reg with
      bankA := replaceWhere (s.inRegion o r) s.reg.bankA s.reg.applied,
      bankB := replaceWhere (s.inRegion o r) s.reg.bankB s.reg.applied } }

/-- A region leaves mode 1: the active bank becomes applied and staged (R262). -/
def State.leaveMode1 (s : State) (o r : Nat) : State :=
  let b := if (s.bankCtl o).select.getLsbD r then s.reg.bankB else s.reg.bankA
  { s with reg := { s.reg with
      applied := replaceWhere (s.inRegion o r) s.reg.applied b,
      staged := replaceWhere (s.inRegion o r) s.reg.staged b } }

/-- Mode of region `r` in a PARAM_MODE word; code 3 is adopted as 0. -/
def modeField (w : Word) (r : Nat) : Nat := if fld w (2 * r) 2 = 3 then 0 else fld w (2 * r) 2

/-- One region takes the mode of an adopted PARAM_MODE word. -/
def State.adoptMode (s : State) (o : Nat) (w : Word) (r : Nat) : State :=
  let old := s.modeOf o r
  let new := modeField w r
  if old = new then s
  else
    let t := if old = 1 then s.leaveMode1 o r else if new = 1 then s.enterMode1 o r else s
    let c := t.bankCtl o
    t.setBankCtl o { c with modes := sset (fun _ => 0) c.modes r new }

def State.adoptModes (s : State) (o : Nat) (w : Word) : State :=
  (List.range 8).foldl (fun t r => t.adoptMode o w r) s

/-- The copy of the active banks into the inactive ones, for the words `pick` says (R264). -/
def State.copyBanks (s : State) (o : Nat) (pick : Nat → Bool) : State :=
  let mine (b : Bool) (a : Nat) : Bool :=
    decide (ownerOf a = some o) && s.inMode1 a && (s.activeB a == b) && pick a
  { s with reg := { s.reg with
      bankB := replaceWhere (mine false) s.reg.bankB s.reg.bankA,
      bankA := replaceWhere (mine true) s.reg.bankA s.reg.bankB } }

/-- Writes held during the copy go to the inactive bank after it. -/
def State.releaseHeld (s : State) (o : Nat) : State :=
  let t := { s with reg := { s.reg with held := s.reg.held.filter (fun p => ownerOf p.1 ≠ some o) } }
  (s.reg.held.filter (fun p => ownerOf p.1 = some o)).foldl (fun u p => u.setBank (!u.activeB p.1) p.1 p.2) t

def State.setCopying (s : State) (o : Nat) (b : Bool) : State := s.setBankCtl o { s.bankCtl o with copying := b }

/-- The copy completes. -/
def State.copyEnd (s : State) (o : Nat) : State :=
  if (s.bankCtl o).copying then (((s.copyBanks o (fun _ => true)).setCopying o false).releaseHeld o) else s

def ctlFlags (o : Nat) : Nat := if o = bMIX then 0x50008 else engBase (o - 22) + 0x00C

-- DESIGN CHOICE, log 19: safe.
/-- A swap ends a running copy with the banks partly copied, and flags it (R264). -/
def State.copyAbort (s : State) (o : Nat) : State :=
  if (s.bankCtl o).copying then
    let (f, t) := s.fresh
    ((((t.copyBanks o (Config.freePick f)).setCopying o false).releaseHeld o).flag (ctlFlags o)
      (if o = bMIX then 0x10 else 0x80))
  else s

/-- The banks of an owner switch to `sel`, for the regions in mode 1. -/
def State.swapTo (s : State) (o : Nat) (sel : BitVec 8) : State :=
  let m1 := maskOf ((List.range 8).filter (fun r => decide (s.modeOf o r = 1)))
  let c := s.bankCtl o
  if (c.select ^^^ sel) &&& BitVec.ofNat 8 m1 = 0 then s.setBankCtl o { c with select := sel }
  else
    let t := s.copyAbort o
    t.setBankCtl o { t.bankCtl o with select := sel }

def bankReg (o : Nat) : Nat := if o = bMIX then 0x50010 else engBase (o - 22) + 0x014

/-- A BANK departure for one owner (R263): every region in mode 1 toggles or selects A or B, and the applied and
staged SELECT bits follow. -/
def State.bankDeparture (s : State) (o arg : Nat) : State :=
  let m1 := maskOf ((List.range 8).filter (fun r => decide (s.modeOf o r = 1)))
  let cur := (s.bankCtl o).select.toNat
  let new := if arg % 4 = 0 then cur ^^^ m1 else if arg % 4 = 1 then cur &&& (255 - m1) else cur ||| m1
  let w := toWord new
  let m := toWord m1
  ((s.swapTo o (BitVec.ofNat 8 new)).setApplied (bankReg o) (merge (s.appliedW (bankReg o)) m w)).setStaged (bankReg o)
    (merge (s.stagedW (bankReg o)) m w)

/-- Safe-load registers of an owner. -/
def slaReg (o m : Nat) : Nat := (if o = bMIX then 0x50200 else engBase (o - 22) + 0x100) + 4 * m
def sldReg (o m : Nat) : Nat := (if o = bMIX then 0x50240 else engBase (o - 22) + 0x140) + 4 * m

def paramAddr (o i : Nat) : Nat :=
  if o = bMIX then 0x2000000 + 4 * i else 0x4000000 + (o - 22) * 0x10000 + 4 * i

/-- Whether an index lies in the owner's current count and in a region in mode 2 (R265). -/
def State.slIndexOk (s : State) (o i : Nat) : Bool :=
  (if o = bMIX then decide (i < 128 * numBus s.member s.syn.rate) else decide (i < 4096))
    && s.inMode2 (paramAddr o i)

/-- SL_GO with count `c` (R265, R285): captured, refused whole, or discarded while a set waits. -/
def State.slGo (s : State) (o c : Nat) : State :=
  let b := s.bankCtl o
  let pairs := (List.range c).map (fun m => ((s.rwW (slaReg o m)).toNat, s.rwW (sldReg o m)))
  if b.slPend.isSome then s.flag (ctlFlags o) (if o = bMIX then 0x4 else 0x40)
  else if c = 0 ∨ 16 < c ∨ pairs.any (fun p => !s.slIndexOk o p.1) then
    (if o = bMIX then s.flagRaise 0x50008 0x8 56 else s.flag (ctlFlags o) 0x20)
  else s.setBankCtl o { b with slPend := some pairs }

/-- The captured set applies: each word becomes the applied and the staged value, later pairs winning (R265). -/
def State.slApply (s : State) (o : Nat) : State :=
  match (s.bankCtl o).slPend with
  | none => s
  | some ps =>
    ps.foldl (fun t p => (t.setApplied (paramAddr o p.1) p.2).setStaged (paramAddr o p.1) p.2)
      (s.setBankCtl o { s.bankCtl o with slPend := none })

/-- COPY (R264): starts unless one runs. -/
def State.copyGo (s : State) (o : Nat) : State := if (s.bankCtl o).copying then s else s.setCopying o true

end Sys2Proof.Machine
end

