-- ==== Sys2Proof/Machine/Mix.lean ====
section
/-! DEFINITION. The mix fabric: source and sink codes (R244), junctions and crossfades (R245 to R250), buses and their
gains (R251 to R253), path decisions (R255, R256), final limiters (R258 to R260) and the boundary order of R266. -/

namespace Sys2Proof.Machine

/-! ### Codes -/

/-- Whether a source code names a source at the current house rate of this member (R244, R245). -/
def State.sourceOk (s : State) (c : Nat) : Bool :=
  if c = 0 then true
  else if 0x1000 ≤ c ∧ c < 0x2000 then decide (c - 0x1000 < numChan s.member s.syn.rate)
  else if 0x2000 ≤ c ∧ c < 0x2800 then decide (c - 0x2000 < numHost s.member s.syn.rate)
  else if 0x2800 ≤ c ∧ c < 0x2900 then decide ((c - 0x2800) / 32 < numSap s.member)
  else if 0x2900 ≤ c ∧ c < 0x2A00 then decide (c - 0x2900 < numAsrc s.member)
  else if 0x2A00 ≤ c ∧ c < 0x2B00 then decide ((c - 0x2A00) / 32 < numEng s.member)
  else if 0x2B00 ≤ c ∧ c < 0x2C00 then decide (c - 0x2B00 < numBus s.member s.syn.rate)
  else if 0x2C00 ≤ c ∧ c < 0x2C04 then hasPower s.member
  else false

def isBusSrc (c : Nat) : Bool := decide (0x2B00 ≤ c ∧ c < 0x2C00)

/-- ASRC and engine outputs are never synchronous (R23, R244). -/
def isAsyncSrc (c : Nat) : Bool := decide (0x2900 ≤ c ∧ c < 0x2B00)

def isBusSink (j : Nat) : Bool := decide (0x2000 ≤ j ∧ j < 0xA000)
def isEngSink (j : Nat) : Bool := decide (0x1900 ≤ j ∧ j < 0x1A00)

/-- External sinks within the counts of the current house rate (R244). -/
def State.extSink (s : State) (j : Nat) : Bool :=
  if j < 0x1000 then decide (j < numChan s.member s.syn.rate)
  else if j < 0x1800 then decide (j - 0x1000 < numHost s.member s.syn.rate)
  else if j < 0x1900 then decide ((j - 0x1800) / 32 < numSap s.member)
  else if j = 0x1A00 ∨ j = 0x1A01 then hasPower s.member
  else false

/-- Mute stage of an external sink. -/
def muteKeyOf (j : Nat) : Nat :=
  if j < 0x1000 then mkNet else if j < 0x1800 then mkDraw else if j < 0x1900 then mkSap ((j - 0x1800) / 32)
  else mkPwr (j - 0x1A00)

def jw0 (j : Nat) : Nat := 0x1000000 + 8 * j
def jw1 (j : Nat) : Nat := 0x1000004 + 8 * j

def srcF (w : Word) : Nat := fld w 0 16
def altF (w : Word) : Nat := fld w 0 16
def xsetF (w : Word) : Nat := fld w 16 6
def xenF (w : Word) : Bool := bitAt w 22

/-- Sinks within the counts of the current house rate of this member; words of others are kept and ignored (R244, R246). -/
def State.sinkOk (s : State) (j : Nat) : Bool :=
  if isBusSink j then decide ((j - 0x2000) / 128 < numBus s.member s.syn.rate)
  else if isEngSink j then decide ((j - 0x1900) / 32 < numEng s.member)
  else s.extSink j

/-- Sinks that exist and whose junction words, applied, are not at their reset value. -/
def State.wordSinks (s : State) : List Nat :=
  (((s.reg.applied.filter (fun p => p.1 / 0x1000000 = 1)).map (fun p => (p.1 % 0x1000000) / 8)).dedup).filter s.sinkOk

/-- The source a junction is to carry: its SOURCE, or silence where R245 or R241 puts silence. -/
def State.wanted (s : State) (bad : List Nat) (j : Nat) : Nat :=
  if bad.contains (jw0 j) || bad.contains (jw1 j) || !s.sinkOk j then 0
  else if s.sourceOk (srcF (s.appliedW (jw0 j))) then srcF (s.appliedW (jw0 j)) else 0

/-- Length in samples of preset `n` (MIX_LENn, larger values adopted as 262 144). -/
def State.lenPreset (s : State) (n : Nat) : Nat := min 262144 (s.appliedW (0x50040 + 4 * n)).toNat

def State.xlenOf (s : State) (j : Nat) : Nat := s.lenPreset (fld (s.appliedW (jw0 j)) 24 4)

/-! ### Junctions -/

def juncReset (_ : Nat) : Junction := { cur := 0, fade := none, pend := none }

def State.juncOf (s : State) (j : Nat) : Junction := sget juncReset s.mix.junc j

def State.setJunc (s : State) (j : Nat) (v : Junction) : State :=
  { s with mix := { s.mix with junc := sset juncReset s.mix.junc j v } }

/-- The source a junction is heading for. -/
def Junction.heading (j : Junction) : Nat :=
  match j.pend with
  | some p => p
  | none => match j.fade with | some f => f.new | none => j.cur

/-- The waiting change begins (R247): a hard switch with length 0, otherwise a crossfade. -/
def Junction.begin (j : Junction) (len : Nat) : Junction :=
  match j.pend with
  | none => j
  | some p =>
    if len = 0 then { cur := p, fade := none, pend := none }
    else { j with fade := some { old := j.cur, new := p, len := len, pos := 0 }, pend := none }

/-- The running crossfade ends and the pending change begins with the length `len` in force then (R248). -/
def Junction.fadeEnd (j : Junction) (len : Nat) : Junction :=
  match j.fade with
  | none => j
  | some f => ({ cur := f.new, fade := none, pend := j.pend } : Junction).begin len

/-- A junction hears what it is to carry: nothing new, a change kept behind a running crossfade, a switch at once for
a word that fails parity or a preset of length 0, or a change that is due. -/
def Junction.hear (j : Junction) (target len : Nat) (hard : Bool) : Junction :=
  if hard then { cur := target, fade := none, pend := none }
  else if j.heading = target then j
  else match j.fade with
    | some f => { j with pend := if f.new = target then none else some target }
    | none =>
      if j.cur = target then { j with pend := none }
      else if len = 0 then { cur := target, fade := none, pend := none }
      else { j with pend := some target }

/-- XF_MAX (R250). -/
def xfMax (m : Member) (rate : Nat) : Nat := numBus m rate * 128 / 4

/-- Bus-input crossfades running. -/
def State.busFades (s : State) : Nat :=
  (s.mix.junc.filter (fun p => isBusSink p.1 && p.2.fade.isSome)).length

/-- Due junctions: a change that waits for nothing but a slot. -/
def State.dueSinks (s : State) : List Nat :=
  (s.mix.junc.filter (fun p => p.2.fade.isNone && p.2.pend.isSome)).map (fun p => p.1)

/-- Begin one due junction, bus inputs only while a slot is free (R250). -/
def State.beginOne (s : State) (j : Nat) : State :=
  if isBusSink j && decide (xfMax s.member s.syn.rate ≤ s.busFades) then s
  else s.setJunc j ((s.juncOf j).begin (s.xlenOf j))

-- DESIGN CHOICE, log 108: unsafe.
/-- Begin what is due: junctions deferred earlier first, then the others, each in ascending sink index; the newly
deferred count once and are reported (R250). -/
def State.beginDue (s : State) : State :=
  let old := s.mix.deferred.filter (fun j => s.dueSinks.contains j)
  let new := s.dueSinks.filter (fun j => !old.contains j)
  let t := new.foldl State.beginOne (old.foldl State.beginOne s)
  let left := t.dueSinks
  let late := left.filter (fun j => !old.contains j)
  let u := { t with mix := { t.mix with deferred := left } }
  if late = [] then u else (u.countBy 0x50410 late.length).flagRaise 0x50008 0x80 56

-- DESIGN CHOICE, log 108: unsafe.
/-- Every junction hears its words as applied now; one beyond the counts of the house rate carries silence at once. -/
def State.hearAll (s : State) (bad : List Nat) : State :=
  ((s.wordSinks ++ s.mix.junc.map (fun p => p.1)).dedup).foldl (fun t j =>
    t.setJunc j ((t.juncOf j).hear (t.wanted bad j) (t.xlenOf j)
      (bad.contains (jw0 j) || bad.contains (jw1 j) || !t.sinkOk j))) s

/-- Exchange SOURCE and ALT of two junction words. -/
def exchange (w0 w1 : Word) : Word × Word := (merge w0 0xFFFF (w1 &&& 0xFFFF), merge w1 0xFFFF (w0 &&& 0xFFFF))

/-- An XFADE departure: every junction of the set exchanges SOURCE and ALT, applied and staged (R249). -/
def State.fireSet (s : State) (n : Nat) : State :=
  (s.wordSinks.filter (fun j => xenF (s.appliedW (jw1 j)) && decide (xsetF (s.appliedW (jw1 j)) = n))).foldl
    (fun t j =>
      let a := exchange (t.appliedW (jw0 j)) (t.appliedW (jw1 j))
      let g := exchange (t.stagedW (jw0 j)) (t.stagedW (jw1 j))
      ((((t.setApplied (jw0 j) a.1).setApplied (jw1 j) a.2).setStaged (jw0 j) g.1).setStaged (jw1 j) g.2)) s

/-- The evaluation of R245: the lowest sink whose SOURCE, or ALT with XEN, names no source. -/
def State.badSink (s : State) : Option Nat :=
  (s.wordSinks.filter (fun j => !s.sourceOk (srcF (s.appliedW (jw0 j)))
    || (xenF (s.appliedW (jw1 j)) && !s.sourceOk (altF (s.appliedW (jw1 j)))))).min?

def State.junctionEval (s : State) : State :=
  match s.badSink with
  | none => s
  | some j => { s with mix := { s.mix with badSrc := toWord (j + 2 ^ 31) } }.flagRaise 0x50008 0x1 56

/-! ### Paths (R255, R256) -/

/-- The codes a junction may read: SOURCE and, with XEN, ALT; codes that name no source count as silence. -/
def State.codesOf (s : State) (j : Nat) : List Nat :=
  ((if xenF (s.appliedW (jw1 j)) then [srcF (s.appliedW (jw0 j)), altF (s.appliedW (jw1 j))]
    else [srcF (s.appliedW (jw0 j))])).filter (fun c => s.sourceOk c)

/-- Buses into which an asynchronous source or a bus of `bs` leads. -/
def State.asyncStep (s : State) (bs : List Nat) : List Nat :=
  ((s.wordSinks.filter (fun j => isBusSink j && (s.codesOf j).any (fun c =>
    isAsyncSrc c || (isBusSrc c && bs.contains (c - 0x2B00))))).map (fun j => (j - 0x2000) / 128)).dedup

def asyncFix (step : List Nat → List Nat) : Nat → List Nat → List Nat
  | 0, bs => bs
  | n + 1, bs => asyncFix step n (step bs)

/-- Buses that an asynchronous source reaches, across any number of buses and loops. -/
def State.asyncBuses (s : State) : List Nat := asyncFix s.asyncStep (numBus s.member s.syn.rate) []

def synchronous (ab : List Nat) (c : Nat) : Bool :=
  !(isAsyncSrc c) && !(isBusSrc c && ab.contains (c - 0x2B00))

/-- Decide the path of every external sink from the applied words, and report the lowest denied. -/
def State.pathDecide (s : State) : State :=
  let ab := s.asyncBuses
  let asked := (s.wordSinks.filter (fun j => s.extSink j && bitAt (s.appliedW (jw0 j)) 19))
  let low := asked.filter (fun j => (s.codesOf j).all (synchronous ab))
  let denied := asked.filter (fun j => !(s.codesOf j).all (synchronous ab))
  let toStd := s.mix.low.filter (fun j => !low.contains j)
  let toLow := low.filter (fun j => !s.mix.low.contains j)
  let t := { s with mix := { s.mix with low := low, toStd := s.mix.toStd ++ toStd, toLow := s.mix.toLow ++ toLow } }
  let u := if toStd = [] ∧ toLow = [] then t
    else (t.countBy 0x50418 (toStd.length + toLow.length)).flag 0x50008 0x100
  match denied.min? with
  | none => u
  | some j => { u with mix := { u.mix with ldDeny := toWord (j + 2 ^ 31) } }.flagRaise 0x50008 0x2 56

/-! ### Crosspoints -/

def xpAddr (x : Nat) : Nat := 0x2000000 + 4 * x

def xpReset (_ : Nat) : Ramp := restRamp (muteCode, true)

def State.xpRamp (s : State) (x : Nat) : Ramp := sget xpReset s.mix.xp x

/-- Crosspoints that any store or ramp lists. -/
def State.xpListed (s : State) : List Nat :=
  let words : List (Nat × Word) := s.reg.applied ++ s.reg.bankA ++ s.reg.bankB
  let listed : List Nat := (words.filter (fun p => p.1 / 0x1000000 = 2)).map (fun p => (p.1 % 0x1000000) / 4)
  let ramping : List Nat := s.mix.xp.map (fun p => p.1)
  (listed ++ ramping).dedup

/-- The gain a crosspoint is to have: mute where its word fails parity (R241). -/
def State.xpWanted (s : State) (bad : List Nat) (x : Nat) : Int × Bool :=
  if bad.contains (xpAddr x) then (muteCode, true) else adoptGain (fld (s.effW (xpAddr x)) 0 16)

/-- Every crosspoint whose target changed starts a ramp from the gain in effect (R253). -/
def State.retarget (s : State) (bad : List Nat) : State :=
  s.xpListed.foldl (fun t x =>
    let r := t.xpRamp x
    let w := t.xpWanted bad x
    let len := t.lenPreset (fld (t.effW (xpAddr x)) 16 4)
    if (r.target, r.mute) = w then t
    else { t with mix := { t.mix with xp := sset xpReset t.mix.xp x (r.toward w len) } }) s

/-! ### Boundary work -/

/-- Step 1 of R266 after the snapshots' words have applied: mode changes, then bank swaps. -/
def State.mixModes (s : State) : State :=
  (s.adoptModes bMIX (s.appliedW 0x5000C)).swapTo bMIX (BitVec.ofNat 8 (fld ((s.appliedW 0x50010)) 0 8))

/-- The evaluations made at each G9 adoption (R245, R255). -/
def State.mixAdopt (s : State) : State := s.mixModes.junctionEval.pathDecide

-- DEDUCED, log 72: unsafe.
/-- House-rate change: regions re-form with the value each crosspoint had in effect (R262). -/
def State.reformRegions (s : State) (rate : Nat) : State :=
  let xs := s.xpListed
  let eff : SMap Word := xs.foldl (fun m x => sset resetWord m (xpAddr x) (s.effW (xpAddr x))) []
  let t := { s with syn := { s.syn with rate := rate } }
  let in1 (a : Nat) : Bool := decide (a / 0x1000000 = 2) && t.inMode1 a
  let in0 (a : Nat) : Bool := decide (a / 0x1000000 = 2) && !t.inMode1 a
  { t with reg := { t.reg with
      bankA := replaceWhere in1 t.reg.bankA eff, bankB := replaceWhere in1 t.reg.bankB eff,
      applied := replaceWhere in0 t.reg.applied eff, staged := replaceWhere in0 t.reg.staged eff } }

/-! ### Samples through junctions and buses -/

/-- Negation with -2^31 saturated (INVERT, R246). -/
def negSat (x : Int) : Int := satTo 32 (-x)

-- DESIGN CHOICE, log 12: safe.
/-- One sample of a junction: `val` reads the source words at that sample. -/
def Junction.sample (len : Nat) (val : Nat → Int) (j : Junction) : Junction × Int :=
  match j.fade with
  | none => (j, val j.cur)
  | some f =>
    if f.len ≤ f.pos + 1 then (j.fadeEnd len, val f.new)
    else ({ j with fade := some { f with pos := f.pos + 1 } }, Config.xfade (val f.old) (val f.new) f.pos f.len)

/-- A block through a junction: source `c` reads as `rd c`, sample by sample. -/
def Junction.block (len : Nat) (inv : Bool) (rd : Nat → List Int) (t : Nat) (j : Junction) : Junction × List Int :=
  (List.range t).foldl (fun a n =>
    let r := a.1.sample len (fun c => if inv then negSat ((rd c).getD n 0) else (rd c).getD n 0)
    (r.1, a.2 ++ [r.2])) (j, [])

def State.invOf (s : State) (j : Nat) : Bool := bitAt (s.appliedW (jw0 j)) 20

/-- Blocks by source code; an unlisted source is silent. -/
def blockOf (m : SMap (List Int)) (c : Nat) : List Int := sget (fun _ => []) m c

/-- A block whose samples in `bad` are replaced by the last good sample of their channel, or by 0 (R414). -/
def holdGood (last : Int) (bad : List Nat) (xs : List Int) : List Int :=
  (xs.zipIdx.foldl (fun (a : Int × List Int) x =>
    if bad.contains x.2 then (a.1, a.2 ++ [a.1]) else (x.1, a.2 ++ [x.1])) (last, [])).2

/-- Words of the fabric tick buffers read uncorrectable, by code and sample: each is counted in UNCORRECTABLE alone (R413, R414).
`old` holds the blocks before. -/
def State.tickBuffer (s : State) (hits : List (Nat × Nat)) (old new : SMap (List Int)) : State × SMap (List Int) :=
  (hits.map (fun h => h.1)).dedup.foldl (fun a c =>
    let xs := blockOf a.2 c
    let bad := ((hits.filter (fun h => h.1 = c)).map (fun h => h.2)).dedup.filter (fun i => decide (i < xs.length))
    if bad = [] then a
    else (a.1.storeBad 3 c bad, sset (fun _ => []) a.2 c (holdGood ((blockOf old c).getLastD 0) bad xs))) (s, new)

/-- Run junction `j` for the block being processed. -/
def State.runJunction (s : State) (rd : Nat → List Int) (j : Nat) : State × List Int :=
  let r := (s.juncOf j).block (s.xlenOf j) (s.invOf j) rd s.T
  (s.setJunc j r.1, r.2)

/-- A crosspoint product, rounded to 2^-30 (R252). -/
def xpProduct (x : Int) (f : Nat) : Int := roundShift 23 (x * Int.ofNat f)

/-- Bus output sample: the exact sum rounded to Q7.25 and saturated, and whether it saturated. -/
def busOut (sum : Int) : Int × Bool := (satTo 32 (roundShift 5 sum), decide (satTo 32 (roundShift 5 sum) ≠ roundShift 5 sum))

/-- What a reader of the fabric sees of source `c`: the same block where it is computed before its reader, the
previous block otherwise (R254).  `lim` is the number of the reading bus, or the bus count for every later reader. -/
def readSrc (have_ prev : SMap (List Int)) (lim : Nat) (c : Nat) : List Int :=
  if isBusSrc c then (if c - 0x2B00 < lim then blockOf have_ c else blockOf prev c)
  else if 0x2A00 ≤ c ∧ c < 0x2B00 then blockOf prev c
  else blockOf have_ c

/-- Saturated bus samples: counter, bit map, flag, and the event at the first setting after a read (R252). -/
def State.busSat (s : State) (b n : Nat) : State :=
  if n = 0 then s
  else
    let first := !(bitAt (s.rcW 0x50008) 5)
    let t := ((s.countBy 0x50400 n).flag (0x50300 + 4 * (b / 32)) (2 ^ (b % 32))).flag 0x50008 0x20
    if first then t.raise 57 else t

/-- One bus for one block: its active inputs in order, their products summed, rounded and saturated. -/
def State.runBus (s : State) (have_ prev : SMap (List Int)) (b : Nat) : State × List Int :=
  let ins := (s.mix.junc.filter (fun p => decide (0x2000 + 128 * b ≤ p.1 ∧ p.1 < 0x2000 + 128 * (b + 1)))).map (fun p => p.1)
  let go := ins.foldl (fun (a : State × List Int) j =>
    let r := a.1.runJunction (readSrc have_ prev b) j
    let g := a.1.xpRamp (j - 0x2000)
    (r.1, (List.range s.T).map (fun n => a.2.getD n 0 + xpProduct (r.2.getD n 0) (g.factorAt n)))) (s, [])
  let outs := ((List.range s.T).map (fun n => busOut (go.2.getD n 0)))
  (go.1.busSat b (outs.filter (fun o => o.2)).length, outs.map (fun o => o.1))

/-- Buses with a junction that is not silent and at rest, ascending. -/
def State.activeBuses (s : State) : List Nat :=
  (((s.mix.junc.filter (fun p => isBusSink p.1)).map (fun p => (p.1 - 0x2000) / 128)).dedup).filter
    (fun b => decide (b < numBus s.member s.syn.rate))

/-- All buses for one block: the state and the blocks computed, added to `have_`. -/
def State.runBuses (s : State) (have_ prev : SMap (List Int)) : State × SMap (List Int) :=
  s.activeBuses.foldl (fun a b =>
    let r := a.1.runBus a.2 prev b
    (r.1, sset (fun _ => []) a.2 (0x2B00 + b) r.2)) (s, have_)

/-- Crosspoint ramps run on by a block. -/
def State.advanceXp (s : State) : State :=
  let xp := s.mix.xp.foldl (fun m p => sset xpReset m p.1 (p.2.run s.T)) s.mix.xp
  { s with mix := { s.mix with xp := xp } }

/-! ### Final limiters -/

/-- CEIL, RELEASE and LD_ATTACK of a profile word as adopted (R260). -/
def ceilF (w : Word) : Int := clampI (-1536) 0 (sfld w 0 16)
def releaseF (w : Word) : Nat := clampN 1 2000 (fld w 16 11)
def attackF (w : Word) : Nat := if fld w 27 5 = 0 then 1 else fld w 27 5

def unity : Nat := 2 ^ 24

/-- The gain a sample needs, truncated to 24 fraction bits. -/
def needGain (c : Nat) (x : Int) : Nat := if x.natAbs ≤ c then unity else c * unity / x.natAbs

/-- Gain times sample truncated toward zero, then the safe clip of R260; whether the clip changed it. -/
def limitSample (c g : Nat) (x : Int) : Int × Bool :=
  let y := if g = unity then x else truncDiv (x * Int.ofNat g) unity
  let z := satTo 26 (clampI (-(Int.ofNat c)) (Int.ofNat c) y)
  (z, decide (z ≠ y))

-- DESIGN CHOICE, log 13: safe.
/-- One sample of a standard-path limiter: `m` is the least gain needed in the lookahead. -/
def stdGain (g now m release rate : Nat) : Nat :=
  if g = unity ∧ m = unity then unity else min unity (Config.limGain g now m release rate)

-- DESIGN CHOICE, log 13: safe.
/-- One sample of a low-delay limiter (R259). -/
def lowGain (g now attack release rate : Nat) : Nat :=
  if g = unity ∧ now = unity then unity
  else if now < g ∧ attack = 1 then now
  else min unity (Config.limGainLow g now attack release rate)

/-- A block through the limiter of a standard sink, with the following block as lookahead (R258). -/
def limitStd (w : Word) (rate t g : Nat) (xs next : List Int) : Nat × List Int × Nat :=
  let c := ceilingOf (ceilF w)
  let all := (List.range t).map (fun n => xs.getD n 0) ++ next
  (List.range t).foldl (fun a n =>
    let win := (all.drop n).take (min 8 t + 1)
    let m := win.foldl (fun k x => min k (needGain c x)) unity
    let g' := stdGain a.1 (needGain c (all.getD n 0)) m (releaseF w) rate
    let y := limitSample c g' (all.getD n 0)
    (g', a.2.1 ++ [y.1], a.2.2 + b2n y.2)) (g, [], 0)

def limitLow (w : Word) (rate t g : Nat) (xs : List Int) : Nat × List Int × Nat :=
  let c := ceilingOf (ceilF w)
  (List.range t).foldl (fun a n =>
    let x := xs.getD n 0
    let g' := lowGain a.1 (needGain c x) (attackF w) (releaseF w) rate
    let y := limitSample c g' x
    (g', a.2.1 ++ [y.1], a.2.2 + b2n y.2)) (g, [], 0)

def limReset (_ : Nat) : Limiter := { gain := unity }

def State.profileOf (s : State) (j : Nat) : Word := s.appliedW (0x50100 + 4 * fld (s.appliedW (jw0 j)) 16 3)

/-- Clipped samples: counter, flag, and the event at the first setting after a read (R260). -/
def State.clipped (s : State) (n : Nat) : State :=
  if n = 0 then s
  else
    let first := !(bitAt (s.rcW 0x50008) 6)
    let t := (s.countBy 0x50408 n).flag 0x50008 0x40
    if first then t.raise 57 else t

/-- Deliver a limited block at sink `j` through its mute stage (R261). -/
def State.deliver (s : State) (j : Nat) (xs : List Int) : State :=
  let m := s.muteOf (muteKeyOf j)
  let ys := (List.range s.T).map (fun n => m.apply n (xs.getD n 0))
  { s with mix := { s.mix with egress := sset (fun _ => []) s.mix.egress j ys } }

def State.setLim (s : State) (j g : Nat) : State :=
  { s with mix := { s.mix with lim := sset limReset s.mix.lim j { gain := g } } }

/-- A low-delay sink: junction, limiter and egress of the block the tick processes. -/
def State.runLowSink (s : State) (rd : Nat → List Int) (j : Nat) : State :=
  let r := s.runJunction rd j
  let l := limitLow (s.profileOf j) s.syn.rate s.T (sget limReset s.mix.lim j).gain r.2
  let t := ((r.1.setLim j l.1).clipped l.2.2).deliver j l.2.1
  { t with mix := { t.mix with std := sset (fun _ => []) t.mix.std j [] } }

/-- A standard sink: the previous block through its limiter with this block as lookahead, then this block kept. -/
def State.runStdSink (s : State) (rd : Nat → List Int) (j : Nat) : State :=
  let r := s.runJunction rd j
  let old := blockOf s.mix.std j
  let w := sget (fun _ => toWord 0x20320000) s.mix.stdLim j
  let l := limitStd w s.syn.rate s.T (sget limReset s.mix.lim j).gain old r.2
  let t := ((r.1.setLim j l.1).clipped l.2.2).deliver j (if s.mix.toStd.contains j then [] else l.2.1)
  let std := sset (fun _ => []) t.mix.std j r.2
  let lim := sset (fun _ => toWord 0x20320000) t.mix.stdLim j (s.profileOf j)
  { t with mix := { t.mix with std := std, stdLim := lim } }

/-- Sinks that carry something: an active junction, or a block still to be delivered. -/
def State.activeSinks (s : State) : List Nat :=
  (((s.mix.junc.map (fun p => p.1)) ++ s.mix.std.map (fun p => p.1)).dedup).filter s.extSink

/-- Low-delay sinks first, then the standard sinks (the order of R255 within a tick). -/
def State.runSinks (s : State) (rd : Nat → List Int) : State :=
  let low := s.activeSinks.filter (fun j => s.mix.low.contains j)
  let std := s.activeSinks.filter (fun j => !s.mix.low.contains j)
  std.foldl (fun t j => t.runStdSink rd j) (low.foldl (fun t j => t.runLowSink rd j) s)

/-- Mute stages run on by a block. -/
def State.advanceMutes (s : State) : State :=
  s.mix.mute.foldl (fun t p => t.setMute p.1 { p.2 with ramp := p.2.ramp.run s.T }) s

end Sys2Proof.Machine
end

