-- ==== Sys2Proof/Machine/Eng.lean ====
section
/-! DEFINITION. The effect engines around their programs: the adoption check (R272 to R274), windows (R279, R281),
states (R283, R284, R288), faults (R286, R287), local memory (R289), and a block of engine work. -/

namespace Sys2Proof.Machine

/-- A unit enters hard stop: its RCU_HSTOP bit, and BLK_HSTOP once (R239). -/
def State.enterHstop (s : State) (bit : Nat) : State :=
  if s.reg.hstop.getLsbD bit then s
  else { s with reg := { s.reg with hstop := s.reg.hstop ||| BitVec.ofNat 24 (2 ^ bit) } }.raise 10

def State.clearHstop (s : State) (bit : Nat) : State :=
  { s with reg := { s.reg with hstop := s.reg.hstop &&& ~~~(BitVec.ofNat 24 (2 ^ bit)) } }

/-- Cycles per sample, budget and pool limit by rate code (R273). -/
def engCyc (rate : Nat) : Nat := [12500, 6250, 3125, 13605, 6802, 3401].getD rate 6250
def engBudget (rate : Nat) : Nat := [12288, 6144, 3072].getD (rate % 3) 6144
def engPool (rate : Nat) : Nat := [3072, 1536, 768].getD (rate % 3) 1536

/-- PLEN as adopted (R284). -/
def plenOf (w : Word) : Nat := min 4096 (fld w 0 13)

def progAddr (e i : Nat) : Nat := 0x3000000 + e * 0x10000 + 8 * i

/-- The 40-bit instruction words below PLEN, read through `rd`. -/
def progWords (rd : Nat → Word) (e plen : Nat) : List Nat :=
  (List.range plen).map (fun i => (rd (progAddr e i)).toNat + (rd (progAddr e i + 4)).toNat % 256 * 2 ^ 32)

def State.plen (s : State) (e : Nat) : Nat := plenOf (s.appliedW (engBase e))

/-- The applied program, or none where a word is an ENCODING failure. -/
def State.program (s : State) (e : Nat) : Option (List EInst) := (progWords s.appliedW e (s.plen e)).mapM edecode

def dwinBase (w : Word) : Nat := fld w 0 10
def dwinLen (w : Word) : Nat := fld w 16 11

def State.dwinOf (s : State) (e : Nat) : Word := s.appliedW (engBase e + 0x018)

/-- Whether two windows share a pool word; a window of LEN 0 shares none (R274). -/
def overlaps (a b : Word) : Bool :=
  decide (dwinLen a ≠ 0 ∧ dwinLen b ≠ 0 ∧ dwinBase a < dwinBase b + dwinLen b ∧ dwinBase b < dwinBase a + dwinLen a)

/-- Lower-numbered running engines whose outputs engine `e` reads through its X junctions. -/
def State.lowerRead (s : State) (e : Nat) : List Nat :=
  ((List.range 32).map (fun x => s.wanted [] (0x1900 + 32 * e + x))).filterMap (fun c =>
    if 0x2A00 ≤ c ∧ c < 0x2A00 + 32 * e ∧ (s.engOf ((c - 0x2A00) / 32)).st = .running then some ((c - 0x2A00) / 32)
    else none)

-- DEDUCED, log 69: unsafe.
/-- C_e plus the largest chain cost among the engines it reads (R272). -/
def State.chainCost (s : State) (e c : Nat) : Nat :=
  c + (s.lowerRead e).foldl (fun m i => max m (s.engOf i).chain) 0

/-- The lowest failing check of R274, with the chain cost; 0 when all pass. -/
def State.engCause (s : State) (e : Nat) : Nat × Nat :=
  match s.program e with
  | none => (1, 0)
  | some p =>
    let c := costOf p
    let ch := s.chainCost e c.total
    let w := s.dwinOf e
    let rate := s.syn.rate
    let cause :=
      if !repeatsOk 0 p then 1
      else if engBudget rate < c.total then 2
      else if engBudget rate < ch then 3
      else if engPool rate < c.p then 4
      else if (decide (0 < c.p) && decide (dwinLen w = 0)) || decide (1024 < dwinBase w + dwinLen w)
        || (List.range e).any (fun i => decide (1 ≤ s.plen i) && overlaps w (s.dwinOf i)) then 5
      else 0
    (cause, ch)

/-- An engine starts to run: what R288 clears after a reset is cleared, and no X port has had a good value yet. -/
def Eng.start (v : Eng) (ch : Nat) : Eng :=
  if v.st = .running then { v with cause := 0, chain := ch }
  else
    let w := if v.wiped then { v with acc := [], lmem := [], wiped := false } else v
    { w with st := .running, cause := 0, chain := ch, xLast := [] }

/-- The check of one engine (R274); `back` says that it returns from HALTED. -/
def State.engCheckOne (s : State) (back : List Nat) (e : Nat) : State :=
  let v := s.engOf e
  if v.st = .hardstop ∨ (v.st = .halted ∧ !back.contains e) then s
  else if s.plen e = 0 then s.setEng e { v with st := .stopped, cause := 0 }
  else
    let c := s.engCause e
    if c.1 = 0 then s.setEng e (v.start c.2)
    else ((s.setEng e { v with st := .check, cause := c.1, chain := c.2 }).flag (engBase e + 0x00C) 0x2).raise 59

-- DEDUCED, log 78: unsafe.
/-- Every engine the member has, in ascending number. -/
def State.engCheckAll (s : State) (back : List Nat) : State :=
  (List.range (numEng s.member)).foldl (fun t e => t.engCheckOne back e) s

/-! ### Windows (R281) -/

/-- Z of R281. -/
def zSamples (rate len : Nat) : Nat := (len * 32 + engCyc rate - 1) / engCyc rate

/-- Pool words outside a window. -/
def poolOutside (w : Word) (p : SMap Int) : SMap Int :=
  p.filter (fun x => !(decide (dwinBase w * 1024 ≤ x.1 ∧ x.1 < (dwinBase w + dwinLen w) * 1024)))

/-- Zeroing of the current window begins at a boundary. -/
def State.zeroWindow (s : State) (e : Nat) : State :=
  let w := s.dwinOf e
  let inside (k : Nat) : Bool := decide (dwinBase w * 1024 ≤ k ∧ k < (dwinBase w + dwinLen w) * 1024)
  let t := { s with pool := poolOutside w s.pool, sst := { s.sst with pool := s.sst.pool.filter (fun k => !inside k) } }
  t.modEng e (fun v => { v with zLeft := zSamples s.syn.rate (dwinLen w), zeroing := true })

/-- An adoption of an engine's group: modes, banks and window (R281, R285). -/
def State.engAdopt (s : State) (e : Nat) : State :=
  let b := engBase e
  let t := (s.adoptModes (bENG e) (s.appliedW (b + 0x010))).swapTo (bENG e)
    (BitVec.ofNat 8 (fld (s.appliedW (b + 0x014)) 0 8))
  if (t.engOf e).dwin = t.dwinOf e then t
  else (t.modEng e (fun v => { v with dwin := s.dwinOf e, wp := 0 })).zeroWindow e

/-- Boundary requests of one engine: CLEAR zeroes it (R283), DCLR zeroes its window (R281). -/
def State.engRequests (s : State) (e : Nat) : State :=
  let v := s.engOf e
  let t := if v.clearReq then
    s.setEng e { v with acc := [], cond := 0, y := [], lmem := [], clearReq := false, clearing := true } else s
  if v.dclrReq then (t.modEng e (fun u => { u with dclrReq := false })).zeroWindow e else t

/-- The end of zeroing: both the zeroing and its Z samples are done. -/
def State.zeroEnd (s : State) (e : Nat) : State :=
  if (s.engOf e).zeroing ∧ (s.engOf e).zLeft = 0 then s.modEng e (fun v => { v with zeroing := false }) else s

/-! ### A block of engine work -/

-- DESIGN CHOICE, log 94: safe.
/-- Parity hits of a tick: engine, MEM code, address. -/
abbrev ParityHits := List (Nat × Nat × Nat)

def State.engEnv (s : State) (e : Nat) (bad : ParityHits) : EngEnv :=
  { k := fun a => s.effW (0x4000000 + e * 0x10000 + 4 * a),
    kBank := fun a =>
      if s.inMode1 (0x4000000 + e * 0x10000 + 4 * a) && s.activeB (0x4000000 + e * 0x10000 + 4 * a) then 2 else 1,
    step := fun n => sfld (s.appliedW (engBase e + 0x040 + 4 * n)) 16 8,
    base := dwinBase (s.dwinOf e) * 1024,
    len := dwinLen (s.dwinOf e) * 1024,
    bad := (bad.filter (fun h => h.1 = e)).map (fun h => h.2) }

/-- Latch X for one sample: poisoned words take the last good value of their port (R287). -/
def latchX (poison : List Nat) (last xs : SMap Int) : SMap Int :=
  (List.range 32).foldl (fun m x => sset izero m x
    (if poison.contains x then sget izero last x else sget izero xs x)) []

/-- A parity fault (R286, R288): the fault is recorded; a second one in the window is a hard stop. -/
def State.engFault (s : State) (e mem a : Nat) : State :=
  let v := s.engOf e
  let w := toWord (a + mem * 2 ^ 16 + 2 ^ 31)
  let v' := { v with st := if v.window then EngState.hardstop else .halted, fault := w, window := true, flight := [] }
  let t := ((s.setEng e v').bump (engBase e + 0x218)).flagRaise (engBase e + 0x00C) 0x1 58
  if v.window then t.enterHstop (8 + e) else t

-- DEDUCED, log 69: unsafe.
/-- Counts of one sample: ACC_SAT, OUT_SAT and POISON with their flags. -/
def State.engCount (s : State) (e acc out poison : Nat) : State :=
  let b := engBase e
  (((s.countBy (b + 0x200) acc).countBy (b + 0x208) out).countBy (b + 0x210) poison).flag (b + 0x00C)
    (putb 2 (decide (0 < acc)) + putb 3 (decide (0 < out)) + putb 4 (decide (0 < poison)))

/-- One sample of engine `e`: the Y words offered, after the faults and counts it causes. -/
def State.engSample (s : State) (e : Nat) (v : EngEnv) (prog : List (Nat × EInst)) (xs : SMap Int)
    (poison : List Nat) : State × SMap Int :=
  let g := s.engOf e
  if g.st ≠ .running ∨ g.clearing then (s, [])
  else
    let lx := latchX poison g.xLast xs
    let r := runSample v prog lx (fun n => fld (s.appliedW (engBase e + 0x040 + 4 * n)) 0 16)
      { e := { g with xLast := lx }, pool := s.pool, bad := s.sst.pool, hits := [], accSat := 0, outSat := 0, par := none }
    let t := ({ s with pool := r.pool, sst := { s.sst with pool := r.bad } }.setEng e r.e).storeBad 2 0 r.hits
    let ys : SMap Int := r.e.y.map (fun p => (p.1, (yWord p.2).1))
    let sats := (r.e.y.filter (fun p => (yWord p.2).2)).length
    let u := t.engCount e r.accSat (r.outSat + sats) (r.hits.length + poison.length)
    match r.par with
    | none => (u, ys)
    | some f => (u.engFault e f.1 f.2, ys)

/-- What engine `e` reads of source `c`: lower-numbered engines and every bus of the same block (R254). -/
def readEng (have_ prev : SMap (List Int)) (e c : Nat) : List Int :=
  if 0x2A00 ≤ c ∧ c < 0x2B00 then (if (c - 0x2A00) / 32 < e then blockOf have_ c else blockOf prev c)
  else blockOf have_ c

/-- The X blocks of engine `e`, by port. -/
def State.engInputs (s : State) (e : Nat) (have_ prev : SMap (List Int)) : State × SMap (List Int) :=
  let ins := (s.mix.junc.map (fun p => p.1)).filter (fun j =>
    decide (0x1900 + 32 * e ≤ j ∧ j < 0x1900 + 32 * (e + 1)))
  ins.foldl (fun a j =>
    let r := a.1.runJunction (readEng have_ prev e) j
    (r.1, sset (fun _ => []) a.2 (j - 0x1900 - 32 * e) r.2)) (s, [])

/-- One engine for one block. -/
def State.engBlock (s : State) (e : Nat) (have_ prev : SMap (List Int)) (bad : ParityHits)
    (poison : List (Nat × Nat × Nat)) : State × SMap (List Int) :=
  let i := s.engInputs e have_ prev
  let v := i.1.engEnv e bad
  let prog := ((i.1.program e).getD []).zipIdx.map (fun p => (p.2, p.1))
  let go := (List.range s.T).foldl (fun (a : State × List (SMap Int)) n =>
    let xs : SMap Int := i.2.map (fun p => (p.1, p.2.getD n 0))
    let ps := (poison.filter (fun h => decide (h.1 = e ∧ h.2.2 = n))).map (fun h => h.2.1)
    let r := a.1.engSample e v prog xs ps
    (r.1, a.2 ++ [r.2])) (i.1, [])
  let ports := (go.2.flatMap (fun m => m.map (fun p => p.1))).dedup
  let out := ports.foldl (fun m y => sset (fun _ => []) m (0x2A00 + 32 * e + y)
    (go.2.map (fun q => sget izero q y))) have_
  (go.1.modEng e (fun g => { g with clearing := false }), out)

/-- Every engine for one block, in ascending number. -/
def State.runEngines (s : State) (have_ prev : SMap (List Int)) (bad : ParityHits)
    (poison : List (Nat × Nat × Nat)) : State × SMap (List Int) :=
  (List.range (numEng s.member)).foldl (fun a e => a.1.engBlock e a.2 prev bad poison) (s, have_)

/-! ### Control and local memory -/

/-- A write of ENG_CTL: each bit written as 1 acts. -/
def State.engCtl (s : State) (e : Nat) (d : Word) : State :=
  let a := if bitAt d 0 then s.modEng e (fun v => { v with clearReq := true }) else s
  let b := if bitAt d 1 then a.modEng e (fun v => { v with dclrReq := true }) else a
  let c := if bitAt d 2 then b.slGo (bENG e) (fld d 16 5) else b
  if bitAt d 3 then c.copyGo (bENG e) else c

def lmAddr (e : Nat) : Nat := engBase e + 0x080

/-- A write of ENG_LMDATA_LO or _HI (R289): the low half is kept, the high half completes the access. -/
def State.lmWrite (s : State) (e : Nat) (hi : Bool) (d : Word) : State :=
  if (s.engOf e).st = .running then s.flag (engBase e + 0x00C) 0x100
  else if hi then
    let a := (s.rwW (lmAddr e)).toNat
    let w := signed 48 (fld d 0 16 * 2 ^ 32 + (s.rwW (lmAddr e + 4)).toNat)
    (s.modEng e (fun v => { v with lmem := sset izero v.lmem a w })).setRw (lmAddr e) (toWord ((a + 1) % 16384))
  else s.setRw (lmAddr e + 4) d

/-- The 48 bits of a local memory word. -/
def lmBits (v : Int) : Nat := (v % (2 ^ 48 : Int)).toNat

/-- A read of ENG_LMDATA_LO or _HI (R289): the high half completes the access. -/
def State.lmRead (s : State) (e : Nat) (hi : Bool) : Word × State :=
  if (s.engOf e).st = .running then (0, s.flag (engBase e + 0x00C) 0x100)
  else
    let a := (s.rwW (lmAddr e)).toNat
    let v := lmBits (sget izero (s.engOf e).lmem a)
    if hi then (toWord (v / 2 ^ 32), s.setRw (lmAddr e) (toWord ((a + 1) % 16384))) else (toWord v, s)

/-- The oldest pool read in flight reaches its destination (R272). -/
def State.poolArrive (s : State) (e : Nat) : State :=
  match (s.engOf e).flight with
  | [] => s
  | f :: t => s.modEng e (fun v => { v with acc := sset izero v.acc f.dest f.value, flight := t, cyc := max v.cyc f.due })

/-- The reset of an engine under R240: halted, its state cleared, tables and configuration kept. -/
def State.engUnitReset (s : State) (e : Nat) : State :=
  let v := s.engOf e
  let v' := { v with
    st := EngState.halted, cause := 0, acc := [], cond := 0, idx := [], x := [], xLast := [],
    y := [], lmem := [], flight := [], zLeft := 0, zeroing := false, dclrReq := false, clearReq := false,
    clearing := false, slPend := none, fault := 0, window := false, wiped := true, testing := false }
  (s.setEng e v').setRc (engBase e + 0x00C) 0

end Sys2Proof.Machine
end

