-- ==== Sys2Proof/Machine/Syn.lean ====
section
/-! DEFINITION. Clock synthesis: the relock sequence (R76 to R81), lock bits (R70, R74) and the clock outputs (R83). -/

namespace Sys2Proof.Machine

/-- The house rate a SYN_CFG word asks for; codes 6 and 7 are adopted as unchanged. -/
def rateField (w : Word) (cur : Nat) : Nat := if 5 < fld w 0 3 then cur else fld w 0 3

/-- REFMODE as adopted: 3 is adopted as 1. -/
def refmodeField (w : Word) : Nat := if fld w 4 2 = 3 then 1 else fld w 4 2

/-- True for the 48 kHz family, whose PLL is A (R19). -/
def isFamA (rate : Nat) : Bool := decide (rate < 3)

/-- The reference frequency in Hz of a house rate and REFMODE (R72). -/
def pllRef (rate refmode : Nat) : Nat :=
  let base := if isFamA rate then 3072000 else 2822400
  if refmode = 0 then base else if refmode = 1 then 2 * base else base / 2

/-- Feedback division N of a REFMODE (R72). -/
def pllN (refmode : Nat) : Nat := if refmode = 0 then 960 else if refmode = 1 then 480 else 1920

/-- Charge-pump current of a REFMODE in uA (R72). -/
def pllIcp (refmode : Nat) : Nat := if refmode = 0 then 800 else if refmode = 1 then 400 else 1600

def State.modSyn (s : State) (f : Syn → Syn) : State := { s with syn := f s.syn }

def State.modMcr (s : State) (f : Mcr → Mcr) : State := { s with mcr := f s.mcr }

/-- The rate the running relock leads to: the applied one. -/
def State.targetRate (s : State) : Nat := rateField (s.appliedW 0x28000) s.syn.rate

/-- Add to a saturating field held in the low `n` bits of an RC word. -/
def State.satAdd (s : State) (a n k : Nat) : State :=
  s.setRc a (toWord (min (2 ^ n - 1) ((s.rcW a).toNat + k)))

/-- What a relock leaves of a jump: nothing declared, due or under way of it goes on (R76). -/
def Mcr.toRelock (m : Mcr) : Mcr :=
  { m with state := .relock, qual := 0, stepDue := false, ramping := false, jump := 0, timeStep := false, late := false,
           lossPend := false, upLeft := 0, setDue := false, hist := [], relJump := none }

/-- A loss of lock waiting for the boundary sets its flag and raises its event there (R80). -/
def State.unlockMark (s : State) : State :=
  if s.syn.unlockReq then s.flagRaise 0x2800C (if isFamA s.syn.rate then 1 else 2) 42 else s

/-- A trigger of R76 takes effect at a boundary: a new relock at step 1 with its ramp, or a merge into one in step 2
or 3, which restarts step 3 with the newest targets and a fresh retry count (R81). -/
def State.relockBegin (s : State) : State :=
  let t := s.unlockMark.modSyn (fun y => { y with
    req := false, unlockReq := false, tries := 0, counting := false, again := decide (y.rstep = 3) })
  if s.syn.rstep = 2 ∨ s.syn.rstep = 3 then t
  else
    let u := (t.modSyn (fun y => { y with fence := true, rstep := 2, failed := false, ramp := s.rampLen })).clearHstop 2
    let v := ((u.modMcr Mcr.toRelock).muteAll .relock s.rampLen).unmuteAll .step s.rampLen
    (v.satAdd 0x28018 16 1).raise 40

/-- What RCU_PEND bit 4 waits for: the relock ends (R81). -/
def State.synAdopted (s : State) : State :=
  { s with reg := { s.reg with waiting := s.reg.waiting.filter (fun p => p.2 ≠ bSYN) } }

-- DEDUCED, log 78: unsafe.
/-- Step 3 begins: rate and family change, PLL loaded with the newest targets, detector discharged (R77). -/
def State.relockStep3 (s : State) : State :=
  let r := s.targetRate
  let t := if r = s.syn.rate then s else s.reformRegions r
  let k := refmodeField (s.appliedW 0x28000)
  let u := t.modSyn (fun y => { y with
    rstep := 3, counting := false, again := false, mpllA := false, mpllB := false, refmode := k, refHz := pllRef r k,
    fbN := pllN k, icp := pllIcp k, newCentre := none })
  u.modMcr (fun m => { m with centre := s.syn.newCentre.getD m.centre })

/-- The lock bit of the running family's PLL. -/
def State.setMpll (s : State) (b : Bool) : State :=
  s.modSyn (fun y => if isFamA s.syn.rate then { y with mpllA := b } else { y with mpllB := b })

/-- Whether a count lies within 5 of 98 304 or 90 317, scaled by the offset MCR commands (R77). -/
def countOk (famA : Bool) (freq : Int) (n : Nat) : Bool :=
  let base : Int := if famA then 98304 else 90317
  decide ((Int.ofNat n * 2 ^ 40 - base * (2 ^ 40 + freq)).natAbs ≤ 5 * 2 ^ 40)

/-- SYN_RELOCK.RETRIES. -/
def State.retries (s : State) : Nat := fld (s.rwW 0x28010) 8 4

/-- Step 3 failed: another attempt, or the relock is abandoned with SYN in hard stop (R79, R231). -/
def State.relockRetry (s : State) : State :=
  if s.syn.tries < s.retries then
    s.modSyn (fun y => { y with tries := y.tries + 1, counting := false, mpllA := false, mpllB := false })
  else
    let t := s.modSyn (fun y => { y with failed := true, rstep := 0, counting := false })
    (t.flagRaise 0x2800C 0x8 41).enterHstop 2

/-- The counter check ends with a count. -/
def State.counterEnd (s : State) (n : Nat) : State :=
  if s.syn.rstep = 3 ∧ s.syn.counting then
    let t := s.modSyn (fun y => { y with mcnt := n % 2 ^ 17, counting := false })
    if countOk (isFamA s.syn.rate) s.mcr.freq n then t.modSyn (fun y => { y with rstep := 4 })
    else (t.flag 0x2800C 0x4).relockRetry
  else s

-- DEDUCED, log 78: unsafe.
/-- Step 3 exceeds TIMEOUT: the attempt is retried or abandoned.  SYN_MCNT takes a free value where a check runs, or 0
where none has begun (R79). -/
def State.step3Timeout (s : State) : State :=
  if s.syn.rstep = 3 then
    let (f, t) := s.fresh
    (t.modSyn (fun y => { y with mcnt := if y.counting then Config.freeNat f % 2 ^ 17 else 0 })).relockRetry
  else s

/-- Step 4 ends at a boundary: the fence returns to the PLL and the sinks ramp up over the length they ramped down. -/
def State.fenceBack (s : State) : State :=
  if s.syn.rstep = 4 then (s.modSyn (fun y => { y with fence := false, rstep := 5 })).unmuteAll .relock s.syn.ramp else s

/-- What SYN_MCLKOUTn puts on its pin (R82): low while disabled; SRC 2 ignores DIV, and 0 counts as 1. -/
def mclkWave (w : Word) : Option MclkWave :=
  let src := fld w 1 2
  let div := if src = 2 then 1 else max 1 (fld w 4 12)
  if bitAt w 0 then
    some { src := src, div := div, high := if src = 0 ∧ 1 < div then some ((div + 1) / 2) else none, inv := bitAt w 3 }
  else none

/-- An adopted change of an MCLK_OUT register restarts its divider at the boundary, and the pin carries it from there (R83). -/
def State.mclkAdopt (s old : State) : State :=
  (List.range 4).foldl (fun t n =>
    if s.appliedW (0x28020 + 4 * n) = old.appliedW (0x28020 + 4 * n) then t
    else
      let m := sset (fun _ => 0) t.syn.mclkFrom n t.tt.now
      (t.modSyn (fun y => { y with mclkFrom := m })).emit (.mclk n t.tt.now (mclkWave (s.appliedW (0x28020 + 4 * n))))) s

/-- Disarm every armed departure and mark it CANCELLED (R30). -/
def State.cancelAll (s : State) : State :=
  (bitsOf 64 s.tt.armed.toNat).foldl (fun t d => t.flag (0x2C100 + 0x20 * d + 0x1C) 0x4)
    { s with tt := { s.tt with armed := 0, rateOk := false }, mcr := { s.mcr with setDue := false } }

/-- SYN's adoption at a boundary: a changed RATE or REFMODE begins a fenced relock, a changed RATE after R30. -/
def State.synAdopt (s old : State) : State :=
  let w := s.appliedW 0x28000
  let r0 := rateField (old.appliedW 0x28000) s.syn.rate
  let t := s.mclkAdopt old
  if rateField w r0 ≠ r0 then
    ((t.cancelAll).modSyn (fun y => { y with rateChg := true })).relockBegin
  else if refmodeField w ≠ refmodeField (old.appliedW 0x28000) then t.relockBegin
  else t.synAdopted

/-- A SerDes or PCIe PLL lock bit: 0 port A, 1 port B, 2 Imluind, 3 PCIe (R70). -/
def State.setSerdes (s : State) (lane : Nat) (b : Bool) : State :=
  s.modSyn (fun y =>
    if lane = 0 then { y with serA := b } else if lane = 1 then { y with serB := b }
    else if lane = 2 then { y with pairPll := b } else { y with pciePll := b })

end Sys2Proof.Machine
end

