-- ==== Sys2Proof/Machine/Tt.lean ====
section
/-! DEFINITION. The timetable: writing, arming and disarming departures (R35, R37) and taking those that are due
(R38 to R41). -/

namespace Sys2Proof.Machine

def depBase (d : Nat) : Nat := 0x2C100 + 0x20 * d

/-- Position of a departure. -/
def State.depPos (s : State) (d : Nat) : Nat :=
  (s.rwW (depBase d)).toNat + (s.rwW (depBase d + 4)).toNat * 2 ^ 32

def State.depAct (s : State) (d : Nat) : Nat := fld (s.rwW (depBase d + 8)) 0 8
def State.depIrq (s : State) (d : Nat) : Bool := bitAt (s.rwW (depBase d + 8)) 8
def State.depArg0 (s : State) (d : Nat) : Word := s.rwW (depBase d + 0x0C)
def State.depArg1 (s : State) (d : Nat) : Word := s.rwW (depBase d + 0x10)
def State.depInterval (s : State) (d : Nat) : Nat := fld (s.rwW (depBase d + 0x14)) 0 16
def State.isArmed (s : State) (d : Nat) : Bool := s.tt.armed.getLsbD d

def State.setArmed (s : State) (d : Nat) (b : Bool) : State :=
  { s with tt := { s.tt with armed :=
    if b then s.tt.armed ||| BitVec.ofNat 64 (2 ^ d) else s.tt.armed &&& ~~~(BitVec.ofNat 64 (2 ^ d)) } }

/-- Sample-accurate actions (kind S of R36). -/
def kindS (act : Nat) : Bool := decide (act = 2 ∨ act = 4 ∨ act = 6)

/-- A range of contexts: first and last (R36). -/
def rangeOf (w : Word) : Nat × Nat := (fld w 0 7, fld w 8 7)

/-- Whether an action's argument names an absent context, SAP, engine or power channel (R37). -/
def namesAbsent (m : Member) (act : Nat) (w : Word) : Bool :=
  if act = 2 ∨ act = 3 then decide (numStx m ≤ max (rangeOf w).1 (rangeOf w).2)
  else if act = 4 ∨ act = 5 then decide (numSrx m ≤ max (rangeOf w).1 (rangeOf w).2)
  else if act = 6 ∨ act = 7 then decide (2 ^ numSap m ≤ fld w 0 8)
  else if act = 8 ∨ act = 9 then !hasPower m && decide (fld w 0 2 ≠ 0)
  else if act = 0x0A then decide (2 ^ numEng m ≤ fld w 8 8)
  else false

/-- The cause for which an arm is refused, the lowest that holds; 0 when it is accepted (R37). -/
def State.armCause (s : State) (d : Nat) : Nat :=
  let act := s.depAct d
  let w := s.depArg0 d
  if 0x0E ≤ act then 1
  else if !kindS act && decide (s.depPos d % s.T ≠ 0) then 2
  else if namesAbsent s.member act w then 3
  else if !s.tt.rateOk then 4
  else if s.depInterval d = 1 then 5
  else if decide (2 ≤ act ∧ act ≤ 5) && decide ((rangeOf w).2 < (rangeOf w).1) then 6
  else if act = 0x0A ∧ fld (s.depArg1 d) 0 2 = 3 then 7
  else 0

/-- Set TT_DSTAT.REFUSE. -/
def State.setRefuse (s : State) (d c : Nat) : State :=
  s.setRc (depBase d + 0x1C) (merge (s.rcW (depBase d + 0x1C)) 0x70 (toWord (put 4 c)))

/-- A write of ARM = 1 (R37): no effect while armed, otherwise checked and accepted or refused. -/
def State.arm (s : State) (d : Nat) : State :=
  if s.isArmed d then s
  else if s.armCause d = 0 then s.setArmed d true
  else s.setRefuse d (s.armCause d)

def State.disarm (s : State) (d : Nat) : State := s.setArmed d false

def State.disarmAll (s : State) : State := { s with tt := { s.tt with armed := 0 } }

/-- A write to TT_DPOS_LO … TT_DREP (`o` is 0 to 0x14): discarded with WHILE_ARMED while armed (R35). -/
def State.depWrite (s : State) (d o : Nat) (w : Word) : State :=
  if s.isArmed d then s.flag (depBase d + 0x1C) 0x8 else s.setRw (depBase d + o) w

/-! ### Taking departures -/

/-- A departure taken: its number, action, arguments, position, and whether it was LATE. -/
structure Taken where
  dep : Nat
  act : Nat
  arg0 : Word
  arg1 : Word
  pos : Nat
  late : Bool
  deriving DecidableEq, Repr

/-- The word of table 0x08 that holds a departure fails parity: it is disarmed and not taken (R241). -/
def depBad (bad : List Nat) (d : Nat) : Bool :=
  bad.any (fun a => decide (a / 0x1000000 = 8 ∧ (a % 0x1000000) / 0x20 = d))

/-- Armed departures due at the boundary, ascending (R38). -/
def State.dueDeps (s : State) : List Nat :=
  (bitsOf 64 s.tt.armed.toNat).filter (fun d => decide (s.depPos d / s.T ≤ s.tt.now / s.T))

/-- Re-arming of a repeating departure (R40): whole intervals until its tick starts after the boundary. -/
def State.rearm (s : State) (d : Nat) : State :=
  let i := s.depInterval d
  let m := max 1 ((s.tt.now / s.T - s.depPos d / s.T) / i + 1)
  let p := s.depPos d + m * i * s.T
  let st := depBase d + 0x1C
  let sk := min 255 (fld (s.rcW st) 8 8 + (m - 1))
  ((s.setRw (depBase d) (toWord (p % 2 ^ 32))).setRw (depBase d + 4) (toWord (p / 2 ^ 32))).setRc st
    (merge (s.rcW st) 0xFF00 (toWord (put 8 sk)))

/-- Take one due departure: its outcome bits and events, then disarmed or re-armed. -/
def State.takeOne (s : State) (d : Nat) : State :=
  let late := decide (s.depPos d / s.T < s.tt.now / s.T)
  let a := s.flag (depBase d + 0x1C) (1 + putb 1 late)
  let b := if late then ((a.flag (0x2C028 + 4 * (d / 32)) (2 ^ (d % 32))).flag 0x2C008 0x4).raise 43 else a
  let c := if s.depIrq d then b.raise 14 else b
  if s.depInterval d = 0 then c.setArmed d false else c.rearm d

def State.takenOf (s : State) (d : Nat) : Taken :=
  { dep := d, act := s.depAct d, arg0 := s.depArg0 d, arg1 := s.depArg1 d, pos := s.depPos d,
    late := decide (s.depPos d / s.T < s.tt.now / s.T) }

-- DEDUCED, log 73: unsafe.
/-- Disarm the departures whose table words fail parity, then take every other that is due. -/
def State.takeAll (s : State) (bad : List Nat) : State × List Taken :=
  let t := ((List.range 64).filter (depBad bad)).foldl (fun u d => u.setArmed d false) s
  let u := t.dueDeps.foldl State.takeOne t
  (if t.dueDeps = [] then u else { u with tt := { u.tt with lastTaken := u.tt.now } }, t.dueDeps.map t.takenOf)

/-- The label from which a kind S action acts (R38): its position, or the first label of the tick when late. -/
def Taken.from (k : Taken) (now : Nat) : Nat := if k.late then now else k.pos

end Sys2Proof.Machine
end

