-- ==== Sys2Proof/Machine/Tim.lean ====
section
/-! DEFINITION. The time engine: instances, their binding (R44), time setting (R51), time steps (R446), PTP messages
(R45 to R49) and the pulses (R51, R52). -/

namespace Sys2Proof.Machine

def State.inst (s : State) (i : Nat) : PtpInst := if i = 0 then s.tim.inst0 else s.tim.inst1

def State.setInst (s : State) (i : Nat) (v : PtpInst) : State :=
  if i = 0 then { s with tim := { s.tim with inst0 := v } } else { s with tim := { s.tim with inst1 := v } }

def icfgAddr (i : Nat) : Nat := 0x20100 + 0x80 * i

/-- TIM_ICFG of an instance, as applied. -/
def State.icfg (s : State) (i : Nat) : Word := s.appliedW (icfgAddr i)

def instEnabled (w : Word) : Bool := bitAt w 0

/-- Port bindings; PORTB reads 0 on single-port members (R402). -/
def State.bound (s : State) (i p : Nat) : Bool :=
  bitAt (s.icfg i) (5 + p) && (p == 0 || decide (2 ≤ numPorts s.member))

/-- PROFILE and TRANSPORT as adopted: 3 is adopted as 0; gPTP uses Ethernet (R46). -/
def profileF (w : Word) : Nat := if fld w 1 2 = 3 then 0 else fld w 1 2
def transportF (w : Word) : Nat := if profileF w = 0 ∨ fld w 3 2 = 3 then 0 else fld w 3 2

/-- One-step transmit where R46 and the transport allow it: never over IPv6. -/
def oneStepF (w : Word) : Bool := bitAt w 7 && decide (transportF w ≠ 2)

/-- Domain number; values above 127 are adopted as 0. -/
def domainF (w : Word) : Nat := if 127 < fld w 8 8 then 0 else fld w 8 8

/-- The instance time base of R27 in modes 1 to 5. -/
def State.tinst (s : State) : Nat := fld (s.appliedW 0x24000) 15 1

/-- Media position in grains R27 gives on the time of instance `i`. -/
def State.r27 (s : State) (i : Nat) : Nat := posOfTime s.rateHz (s.inst i).time

/-- TSRC of an instance, whose codes 3 to 7 count as 0 (R49). -/
def State.tsrc (s : State) (i : Nat) : Nat :=
  if 2 < fld (s.appliedW (icfgAddr i + 4)) 24 3 then 0 else fld (s.appliedW (icfgAddr i + 4)) 24 3

def gmCapable (w : Word) : Bool := bitAt w 17
def slaveOnly (w : Word) : Bool := bitAt w 16

/-- Adoption of a G4 snapshot: a port bound to both instances stays with instance 0 (R44). -/
def State.timAdopt (s : State) : State :=
  let both := s.icfg 0 &&& s.icfg 1 &&& 0x60
  if both = 0 then s else (s.setApplied (icfgAddr 1) (s.icfg 1 &&& ~~~both)).flag 0x20008 0x1

/-- TSRC = 2 outside modes 3 to 5 is ignored and flagged, whichever of TIM and MCR the boundary adopts (R50). -/
def State.tsrcCheck (s : State) : State :=
  if (s.tsrc 0 = 2 ∨ s.tsrc 1 = 2) ∧ fld (s.appliedW 0x24000) 0 3 < 3 then s.flag 0x20008 0x2 else s

/-- TIM_CTL.SET (R51): accepted while the instance is grandmaster or has no port bound. -/
def State.timeSet (s : State) (i : Nat) : State :=
  if (s.inst i).gmSelf ∨ (!s.bound i 0 && !s.bound i 1) then
    let sec := (s.rwW 0x20024).toNat + (s.rwW 0x20028).toNat * 2 ^ 32
    s.setInst i { s.inst i with time := sec * 1000000000 + (s.rwW 0x20020).toNat }
  else s.flag 0x20008 0x4

/-! ### The time bases -/

/-- The least time in ns whose R27 position is media position `pos`. -/
def timeOfPos (hz pos : Nat) : Nat := (pos * 1000000000 + hz - 1) / hz

/-- The time of an instance at the next boundary: a grandmaster runs on xo, on its PPS_IN source between the edges, or, in the
modes that let it, is steered so that R27 holds for media position `pos` (R49, R50); an instance with no port bound counts
on xo; every other is held to its master. `ns` is what the instance itself has passed, `xo` what xo has. -/
def State.timeAfter (s : State) (i ns xo pos : Nat) : Nat :=
  let v := s.inst i
  if v.gmSelf then
    (if s.tsrc i = 2 ∧ 3 ≤ fld (s.appliedW 0x24000) 0 3 ∧ s.tt.rateOk then timeOfPos s.rateHz pos
     else if s.tsrc i = 1 then v.time + ns
     else v.time + xo)
  else if instEnabled (s.icfg i) && (s.bound i 0 || s.bound i 1) then v.time + ns
  else v.time + xo

/-- What TIM holds once both instances have reached the boundary. -/
def State.timRun (s : State) (ns0 ns1 xo pos : Nat) : Tim :=
  { s.tim with
    inst0 := { s.tim.inst0 with time := s.timeAfter 0 ns0 xo pos },
    inst1 := { s.tim.inst1 with time := s.timeAfter 1 ns1 xo pos },
    ppsAgo := s.tim.ppsAgo.map (fun a => a + Int.ofNat xo),
    ppsOut := s.tim.ppsOut.map (fun a => a + Int.ofNat xo) }

/-- Both instances and the pulses reach the next boundary, `pos` in samples. -/
def State.timeTick (s : State) (ns0 ns1 xo pos : Nat) : State := { s with tim := s.timRun ns0 ns1 xo pos }

/-! ### Synchronisation -/

/-- The grandmaster of an instance changes (event 33 where its identity does). -/
def State.setGm (s : State) (i g : Nat) (self : Bool) : State :=
  let t := s.setInst i { s.inst i with gmId := g, gmSelf := self }
  if (s.inst i).gmId = g then t else t.raise 33

-- DEDUCED, log 75: unsafe.
/-- An instance leaves SYNCED: TIM_SYNC_LOSS once. -/
def State.unsync (s : State) (i : Nat) : State :=
  if (s.inst i).synced then (s.setInst i { s.inst i with synced := false, syncIn := none }).raise 32 else s

/-- Nanoseconds of an instance since the boundary. -/
def nsOf (x : Instant) (i : Nat) : Nat := if i = 0 then x.ns0 else x.ns1

/-- External latency of a port, transmit or receive, in units of 1/4 ns (R47). -/
def State.latency (s : State) (p : Nat) (rx : Bool) : Nat := fld (s.rwW (0x20030 + 4 * p)) (if rx then 16 else 0) 16

/-- The timestamp an instance takes of an event message on a port, in units of 1/4 ns: its time at the message timestamp
point, the part's own latency removed and the external one added (R47). -/
def State.stampAt (s : State) (i p : Nat) (rx : Bool) (x : Instant) : Int :=
  Int.ofNat (4 * ((s.inst i).time + nsOf x i) + s.latency p rx)

/-- Whether MCR follows an instance in PTP mode in a state that measures a time step at the next update (R446). -/
def State.followsStep (s : State) (i : Nat) : Bool :=
  decide (fld (s.appliedW 0x24000) 0 3 = 0 ∧ s.mcr.inst = i)
    && decide (s.mcr.state = .acquire ∨ s.mcr.state = .locked ∨ s.mcr.state = .slew) && s.mcr.refOk

/-- An update of PTP mode waits for the servo (R56): the phase error is R27 on the instance's time less media position. -/
def State.ptpUpdate (s : State) (i : Nat) (x : Instant) : State :=
  if fld (s.appliedW 0x24000) 0 3 = 0 ∧ s.mcr.inst = i then
    let d := Int.ofNat (posOfTime s.rateHz ((s.inst i).time + nsOf x i)) - Int.ofNat (s.tt.now * 65536 + x.grains)
    { s with mcr := { s.mcr with updates := s.mcr.updates ++ [{ src := i, phase := d }] } }
  else s

/-- A Sync gives an offset from the master in ns: beyond STEP_THR the time is stepped (R446), within it the instance is
SYNCED, having a slave port. -/
def State.syncOffset (s : State) (i : Nat) (offset ratio : Int) (x : Instant) : State :=
  let v := s.inst i
  if fld (s.appliedW 0x20000) 0 16 < offset.natAbs then
    let t := s.setInst i { v with time := (Int.ofNat v.time - offset).toNat, offset := 0, ratio := ratio, synced := true }
    let u := (t.satAdd (icfgAddr i + 0x2C) 16 1).raise 34
    let w := if s.followsStep i then { u with mcr := { u.mcr with timeStep := true } } else u
    w.ptpUpdate i x
  else (s.setInst i { v with offset := offset, ratio := ratio, synced := true }).ptpUpdate i x

def State.pathDelay (s : State) (i p : Nat) : Nat := if p = 0 then (s.inst i).delayA else (s.inst i).delayB

-- PRESUMED, log 20: unsafe.
/-- A Sync received at `t2` from a master that sent it at `t1` (units of 1/4 ns): the offset from the master is their
difference less the mean path delay. -/
def State.syncTimes (s : State) (i p : Nat) (t1 t2 ratio : Int) (x : Instant) : State :=
  (s.setInst i { s.inst i with syncIn := none, syncGap := t2 - t1 }).syncOffset i
    ((t2 - t1) / 4 - Int.ofNat (s.pathDelay i p)) ratio x

-- DESIGN CHOICE, log 44: safe.
/-- The port states and grandmaster the BMCA gives (R49): with GM_CAPABLE 0 the instance is never grandmaster, and with
SLAVE_ONLY a port it would make master listens. A grandmaster is SYNCED. -/
def State.bmca (s : State) (i stA stB g : Nat) (self : Bool) : State :=
  let w := s.icfg i
  let st (n : Nat) : Nat := if slaveOnly w ∧ n = 2 then 1 else n
  let me := self && gmCapable w
  let t := s.setInst i { s.inst i with stateA := st stA, stateB := st stB, synced := (s.inst i).synced || me }
  t.setGm i (if self && !me then 0 else g) me

def State.portState (s : State) (i p : Nat) : Nat := if p = 0 then (s.inst i).stateA else (s.inst i).stateB

/-- Whether an instance sends on a port as a master. -/
def State.isMaster (s : State) (i p : Nat) : Bool :=
  instEnabled (s.icfg i) && s.bound i p && decide (s.portState i p = 2)

/-- A measured path delay in ns; asCapable is set only under gPTP. -/
def State.delayRx (s : State) (i p delay : Nat) (cap : Bool) : State :=
  let v := s.inst i
  let c := cap && decide (profileF (s.icfg i) = 0)
  if p = 0 then s.setInst i { v with delayA := delay, asCapA := c } else s.setInst i { v with delayB := delay, asCapB := c }

/-- The timestamp of the path-delay request that a port waits to have answered. -/
def State.reqStamp (s : State) (i p : Nat) : Option Int := if p = 0 then (s.inst i).reqA else (s.inst i).reqB

def State.setReq (s : State) (i p : Nat) (t : Option Int) : State :=
  if p = 0 then s.setInst i { s.inst i with reqA := t } else s.setInst i { s.inst i with reqB := t }

-- PRESUMED, log 20: unsafe.
/-- The mean path delay in ns, from a round trip in units of 1/4 ns. -/
def meanDelay (trip : Int) : Nat := (trip / 8).toNat

/-- A Pdelay_Resp at `t4`: half of the round trip less the responder's turnaround. -/
def State.pdelayDone (s : State) (i p : Nat) (turn t4 : Int) (cap : Bool) : State :=
  match s.reqStamp i p with
  | some t1 => (s.setReq i p none).delayRx i p (meanDelay (t4 - t1 - turn)) cap
  | none => s

/-- A Delay_Resp with the master's receipt time: half of the sum of the two one-way differences. -/
def State.delayDone (s : State) (i p : Nat) (t4 : Int) : State :=
  match s.reqStamp i p with
  | some t3 => (s.setReq i p none).delayRx i p (meanDelay ((s.inst i).syncGap + (t4 - t3))) false
  | none => s

/-! ### Pulses (R49, R51, R52) -/

-- DESIGN CHOICE, log 96: unsafe.
/-- The instance MCR follows, in PTP mode; in the modes that follow none, TINST. -/
def State.followed (s : State) : Nat := if fld (s.appliedW 0x24000) 0 3 = 0 then s.mcr.inst else s.tinst

-- DEDUCED, log 74: unsafe.
/-- A TSRC = 1 grandmaster takes the nearest whole second at a PPS_IN edge. -/
def State.ppsSteer (s : State) (i : Nat) (x : Instant) : State :=
  if (s.inst i).gmSelf ∧ s.tsrc i = 1 then
    s.setInst i { s.inst i with
      time := ((s.inst i).time + nsOf x i + 500000000) / 1000000000 * 1000000000 - nsOf x i }
  else s

-- DEDUCED, log 74: unsafe.
/-- A PPS_IN edge `ns` of xo after the boundary (R49, R51): timestamped in the time of the followed instance, and used as a
TSRC = 1 reference when at least 0.5 s after the edge before. -/
def State.ppsEdge (s : State) (ns : Nat) (x : Instant) : State :=
  let far := match s.tim.ppsAgo with
    | none => true
    | some a => decide (500000000 ≤ a + Int.ofNat ns)
  let t := { s with tim := { s.tim with
    ppsIn := (s.inst s.followed).time + nsOf x s.followed, ppsAgo := some (-(Int.ofNat ns)), ppsUsed := far } }.raise 35
  if far then (t.ppsSteer 0 x).ppsSteer 1 x else t

-- DESIGN CHOICE, log 115: unsafe.
/-- How far in ns after the boundary the source of PPS_OUT, less its shift, next stands at a whole second (R52): the time of the
followed instance, or media position at a whole multiple of the house rate. -/
def State.toSecond (s : State) (w adj : Word) : Nat :=
  if bitAt w 1 then
    let p := Int.ofNat (posOfTime s.rateHz (adj.toInt % 1000000000).toNat) - Int.ofNat (s.tt.now * 65536)
    (p % Int.ofNat (s.rateHz * 65536)).toNat * 1000000000 / (s.rateHz * 65536)
  else ((adj.toInt - Int.ofNat (s.inst s.followed).time) % 1000000000).toNat

-- DESIGN CHOICE, log 115: unsafe.
/-- A whole second of the chosen source falls within the running tick (R52): the applied configuration is taken up, unless a
pulse is in progress, and the next pulse begins. -/
def State.ppsRise (s : State) : State :=
  let w := s.appliedW 0x20040
  let d := s.toSecond w (s.appliedW 0x20044)
  if s.tim.ppsOut.isSome ∨ s.tickNs ≤ d then s
  else
    let t := { s with tim := { s.tim with ppsCfg := w, ppsAdj := s.appliedW 0x20044 } }
    if bitAt w 0 then { t with tim := { t.tim with ppsOut := some (-(Int.ofNat d)) } }.emit (.pps (!bitAt w 2)) else t

-- DESIGN CHOICE, log 115: unsafe.
/-- WIDTH µs after its rise, within the running tick, the pulse ends and the pin returns to its idle level. -/
def State.ppsFall (s : State) : State :=
  match s.tim.ppsOut with
  | some a =>
    if Int.ofNat (1000 * fld s.tim.ppsCfg 8 20) ≤ a + Int.ofNat s.tickNs then
      { s with tim := { s.tim with ppsOut := none } }.emit (.pps (bitAt s.tim.ppsCfg 2))
    else s
  | none => s

end Sys2Proof.Machine
end

