-- ==== Sys2Proof/Machine/Mcr.lean ====
section
/-! DEFINITION. Media clock recovery: phase errors (R53, R54), qualification (R57), the servo's bounds (R59), loss and coasting
(R60, R61), jumps (R62 to R67, R446) and the state changes of R56. -/

namespace Sys2Proof.Machine

/-- Parts per million in units of 2^-40, truncated. -/
def ppm (n : Nat) : Int := Int.ofNat (n * 2 ^ 40 / 1000000)

def State.mcrMode (s : State) : Nat := if 5 < fld (s.appliedW 0x24000) 0 3 then 5 else fld (s.appliedW 0x24000) 0 3

def State.trim (s : State) : Int := (s.rwW 0x24034).toInt

/-- QUAL, with 0 adopted as 1. -/
def State.qualN (s : State) : Nat := max 1 (fld (s.appliedW 0x24000) 20 4)

def State.mcrJump (s : State) : Bool := bitAt (s.rwW 0x24004) 0
def State.mcrFailover (s : State) : Bool := bitAt (s.rwW 0x24004) 1
def State.slewMax (s : State) : Nat := fld (s.rwW 0x24004) 8 8
def State.lockThr (s : State) : Nat := fld (s.rwW 0x2402C) 0 16

/-! ### The oscillator -/

/-- What the slew of a jump or of a residue adds to the oscillator: 50 ppm toward the target (R57, R63 to R65). -/
def State.slewTerm (s : State) : Int :=
  if s.mcr.state ≠ .slew ∧ s.mcr.state ≠ .acquire then 0
  else if 0 < s.mcr.resid then ppm 50 else if s.mcr.resid < 0 then -(ppm 50) else 0

/-- Oscillator offset from nominal, which MCR_FREQ reports. -/
def State.oscFreq (s : State) : Int := s.mcr.freq + s.slewTerm

/-- Mean of MCR_FREQ over what a history holds (R61). -/
def meanFreq (h : List (Int × Nat)) (cur : Int) : Int :=
  let d := h.foldl (fun a p => a + p.2) 0
  if d = 0 then cur else (h.foldl (fun a p => a + p.1 * Int.ofNat p.2) 0) / Int.ofNat d

/-- The oscillator's history over the last second. -/
def trimHist : Nat → List (Int × Nat) → List (Int × Nat)
  | _, [] => []
  | budget, (f, d) :: t => if budget ≤ d then [(f, budget)] else (f, d) :: trimHist (budget - d) t

/-- States in which the loop runs on a reference. -/
def loopRuns (m : McrState) : Bool := decide (m = .acquire ∨ m = .locked ∨ m = .slew ∨ m = .step)

/-- MCR enters LOCKED. -/
def State.mcrLock (s : State) : State :=
  (s.modMcr (fun m => { m with state := .locked, everLocked := true, resid := 0, corr := 0 })).raise 36

/-- What a loss takes away whatever the state: the count of valid updates and what waits of them. -/
def Mcr.lost (m : Mcr) : Mcr := { m with refOk := false, qual := 0, updates := [], timeStep := false, afterRelock := false }

/-- MCR coasts at frequency `f` (R60, R61): a loss during STEP waits for its end, a relock and a coast keep their state, and
IDLE runs at nominal plus MCR_TRIM. -/
def State.coastAt (s : State) (f : Int) : State :=
  match s.mcr.state with
  | .step => s.modMcr (fun m => { m.lost with lossPend := true, late := false })
  | .relock => s.modMcr Mcr.lost
  | .coast => s.modMcr Mcr.lost
  | .idle => s.modMcr (fun m => { m.lost with freq := s.trim })
  | .acquire | .locked | .slew =>
    let t := s.modMcr (fun m => { m.lost with
      state := .coast, favg := f, freq := f, coastNs := 0, hist := [], setDue := false, late := false, failDue := false })
    (t.flag 0x2400C 0x4).raise 37

/-- Loss of a reference: the mean over the second that ended with the last valid update (R61). -/
def State.mcrCoast (s : State) : State := s.coastAt s.mcr.mean

/-! ### Jumps (R62 to R67) -/

/-- The policy of R63 to R66 on a jump of `d`, in units of 1/10 000 grain, measured against media position plus the
correction in force. -/
def State.decideJump (s : State) (d : Int) : State :=
  let c := s.mcr.corr
  let t := s.modMcr (fun m => { m with phase := d / 10000, late := false, timeStep := false })
  let slew (corr : Int) : State :=
    t.modMcr (fun m => { m with
      state := if c + d ≠ 0 then .slew else if m.state = .coast then .acquire else m.state
      resid := c + d, corr := corr })
  if d.natAbs < 655360000 then slew (if c = 0 then 0 else c + d)
  else if s.mcrJump ∧ d.natAbs ≤ s.slewMax * 655360000 then slew (c + d)
  else t.modMcr (fun m => { m with state := .step, jump := c + d, stepDue := true, resid := 0 })

/-- The jump of a phase error of `d` grains, measured against media position plus the correction in force (R66). -/
def State.measureJump (s : State) (d : Int) : State := s.decideJump (d * 10000 - s.mcr.corr)

/-- After a fenced relock, whose sinks are muted already: one sample or more is stepped without a further ramp down, less is
slewed, and a correction from before the relock ends (R67). -/
def State.decideRelock (s : State) (d : Int) : State :=
  let t := s.modMcr (fun m => { m with phase := d, afterRelock := false, relJump := none, corr := 0, timeStep := false })
  if d.natAbs < 65536 then
    t.modMcr (fun m => { m with state := if d = 0 then m.state else .slew, resid := d * 10000 })
  else t.modMcr (fun m => { m with state := .step, jump := d * 10000, stepDue := false, ramping := true, resid := 0 })

/-- The reference qualifies (R57): with RATE_OK 0 media position is to be set, else the jump is measured. -/
def State.qualify (s : State) (d : Int) : State :=
  let t := s.modMcr (fun m => { m with refOk := true, qual := 0, phase := d })
  if !s.tt.rateOk then
    t.modMcr (fun m => { m with state := .acquire, setDue := true, afterRelock := false })
  else if s.mcr.state = .idle then t.modMcr (fun m => { m with state := .acquire })
  else if s.mcr.afterRelock then t.decideRelock d
  else t.measureJump d

-- DESIGN CHOICE, log 14: safe.
/-- The servo's new oscillator offset: at most 20 ppm from that of the tick's beginning, within 500 ppm of the centre (R59). -/
def State.servo (s : State) (d : Int) : State :=
  let f := Config.servo s.mcr.freq d (fld (s.appliedW 0x24000) 16 2) (if s.mcr.state = .acquire then 1 else 0)
  let g := clampI (s.mcr.freqTick - ppm 20) (s.mcr.freqTick + ppm 20) f
  s.modMcr (fun m => { m with freq := clampI (m.centre - ppm 500) (m.centre + ppm 500) g, phase := d })

/-- A valid update while the loop does not follow: it counts toward qualification. -/
def State.countUpdate (s : State) (d : Int) : State :=
  let t := s.modMcr (fun m => { m with qual := m.qual + 1, phase := d })
  if t.mcr.qual < s.qualN then t else t.qualify d

/-- A valid reference update with phase error `d` grains (R56, R57, R63 to R67, R446). -/
def State.refValid (s : State) (d : Int) : State :=
  let s := s.modMcr (fun m => { m with quiet := 0, mean := if loopRuns m.state then meanFreq m.hist m.freq else m.mean })
  match s.mcr.state with
  | .relock => s.modMcr (fun m => { m with phase := d, relJump := if s.syn.rstep = 5 then some d else m.relJump })
  | .step =>
    if s.mcr.refOk then s
    else if s.mcr.qual + 1 < s.qualN then s.modMcr (fun m => { m with qual := m.qual + 1 })
    else s.modMcr (fun m => { m with qual := 0, refOk := true, late := true, lossPend := false })
  | .idle | .coast => s.countUpdate d
  | .slew | .acquire | .locked =>
    if !s.mcr.refOk then s.countUpdate d
    else if s.mcr.late then (if s.mcr.upLeft = 0 then s.measureJump d else s.modMcr (fun m => { m with phase := d }))
    else if s.mcr.afterRelock then s.decideRelock d
    else if s.mcr.timeStep then s.measureJump d
    else if s.mcr.state = .slew then s.modMcr (fun m => { m with phase := d })
    else s.servo d

/-! ### Usability and loss (R55, R59, R60) -/

/-- Whether the selected reference is usable, as far as MCR_CFG, the instances, the contexts and the ports say (R55). -/
def State.refUsable (s : State) (ctxOk sapSlave : Bool) : Bool :=
  let m := s.mcrMode
  if m = 0 then instEnabled (s.icfg s.mcr.inst)
  else if m = 1 ∨ m = 2 then ctxOk
  else if m = 4 then sapSlave
  else true

/-- A reference that is no longer usable is flagged once and MCR coasts, or runs at nominal if it has never locked (R55). -/
def State.usableCheck (s : State) (ok : Bool) : State :=
  if s.mcrMode = 5 ∨ ok then s.modMcr (fun m => { m with unusable := false })
  else if s.mcr.unusable then s
  else
    let t := (s.modMcr (fun m => { m with unusable := true })).flag 0x2400C 0x10
    t.coastAt (if s.mcr.everLocked then s.mcr.mean else 0)

/-- A reference that needs more than 1000 ppm from nominal is rejected (R59). -/
def State.mcrRange (s : State) : State := ((s.flag 0x2400C 0x2).raise 39).mcrCoast

-- DEDUCED, log 97: unsafe.
/-- The phase error of an edge (R54): the edge marks a sample boundary, so its phase is 0, and the error is that less the
grain fraction of media position, modulo one sample. -/
def edgePhase (x : Instant) : Int := signed 16 ((65536 - x.grains % 65536) % 65536)

/-- The frequency offset edges at `rate` mHz ask for, in units of 2^-40: WCLK_IN runs at the house rate divided by 2^WDIV, a
frame sync at the house rate (R53, R59). -/
def State.edgeNeed (s : State) (rate : Nat) : Int :=
  let k := if s.mcrMode = 3 then 2 ^ min 2 (fld (s.appliedW 0x24000) 24 2) else 1
  let hz := Int.ofNat (s.rateHz * 1000)
  (Int.ofNat (rate * k) - hz) * 2 ^ 40 / hz

/-- What a reference gives: an edge at its instant, or the update that waits. -/
def refIn (edge : Option Instant) (rate : Nat) (need : Int) : RefIn :=
  match edge with
  | some i => .edge i rate
  | none => .waiting need

/-- A reference update (R56): the oldest that waits, or an edge in the modes that follow edges. -/
def State.refUpdate (s : State) (x : RefIn) (ctxOk sapSlave : Bool) : State :=
  if s.mcrMode = 5 then s
  else if !s.refUsable ctxOk sapSlave then s.usableCheck false
  else
    match x with
    | .waiting need =>
      (match s.mcr.updates with
       | [] => s
       | u :: us =>
         let t := s.modMcr (fun m => { m with updates := us })
         if ppm 1000 < need.natAbs then t.mcrRange
         else if s.mcrMode = 0 ∧ !(s.inst s.mcr.inst).synced then t.modMcr (fun m => { m with qual := 0 })
         else t.refValid u.phase)
    | .edge i rate =>
      if s.mcrMode < 3 then s
      else if ppm 1000 < (s.edgeNeed rate).natAbs then s.mcrRange
      else s.refValid (edgePhase i)

/-- MCR_LOSS in ns; 0 is adopted as 1 ms. -/
def State.lossNs (s : State) : Nat := 1000000 * max 1 (fld (s.appliedW 0x24030) 0 8)

-- DEDUCED, log 75: unsafe.
/-- Loss of the reference: failover to the other SYNCED instance at the next boundary, or coasting (R60). -/
def State.refLoss (s : State) : State :=
  if s.mcrMode = 5 then s
  else if s.mcrMode = 0 ∧ s.mcrFailover ∧ (s.inst (1 - s.mcr.inst)).synced then
    s.modMcr (fun m => { m with failDue := true, updates := [] })
  else s.mcrCoast

-- DESIGN CHOICE, log 115: unsafe.
/-- The reference is found lost: in PTP mode where the instance is not SYNCED, in the other modes where MCR_LOSS ms without a valid
update end within the running tick (R60). -/
def State.refLossDue (s : State) : State :=
  if s.mcrMode = 0 then (if (s.inst s.mcr.inst).synced then s else s.refLoss)
  else if s.mcr.refOk ∧ s.lossNs ≤ s.mcr.quiet + s.tickNs then s.refLoss
  else s

-- DEDUCED, log 75: unsafe.
-- DEDUCED, log 98: unsafe.
/-- The boundary after a loss: MCR follows the other instance (R60). The offset between the two is a jump against media
position plus the correction in force, decided at once where the loop runs; in STEP after the ramp up (R66). -/
def State.failover (s : State) : State :=
  if s.mcr.failDue ∧ s.mcr.state ≠ .step ∧ s.mcr.upLeft = 0 then
    let o := 1 - s.mcr.inst
    let dns : Int := Int.ofNat (s.inst o).time - Int.ofNat (s.inst s.mcr.inst).time
    let d := (dns * Int.ofNat s.rateHz * 655360000) / 1000000000
    let t := s.modMcr (fun m => { m with failDue := false, failedOver := true, inst := o, updates := [], timeStep := false })
    if s.tt.rateOk ∧ s.mcr.refOk ∧ loopRuns s.mcr.state then t.decideJump d else t
  else s

/-! ### Setting media position (R57, R58) -/

/-- The position of R54: the one nearest `base` whose grain fraction is that of `d`, all in grains. -/
def nearestFraction (base : Nat) (d : Int) : Int :=
  Int.ofNat base + signed 16 ((d - Int.ofNat base) % 65536).toNat

/-- The phase target at this boundary, in grains (R57): R27 in PTP mode, the position the stamps carry in CRF and STREAM
modes, and in WCLK and SAPFS modes that of R54 against R27. -/
def State.phaseTarget (s : State) : Int :=
  if s.mcrMode = 0 then Int.ofNat (s.r27 s.mcr.inst)
  else if s.mcrMode < 3 then Int.ofNat (s.tt.now * 65536) + s.mcr.phase
  else nearestFraction (s.r27 s.tinst) s.mcr.phase

/-- Media position takes the multiple of T nearest a target in grains, and RATE_OK becomes 1; the residue is what is left. -/
def State.setPosition (s : State) (target : Int) : State × Int :=
  let v := (nearestMul (s.T * 65536) target / 65536).toNat
  ({ s with tt := { s.tt with now := v, rateOk := true } }, target - Int.ofNat v * 65536)

/-- Media position set after qualification (R57), the residue left to the loop as its first phase error. -/
def State.positionSet (s : State) : State :=
  if s.mcr.setDue ∧ s.mcr.state = .acquire then
    let r := s.setPosition s.phaseTarget
    r.1.modMcr (fun m => { m with setDue := false, resid := r.2 * 10000, phase := r.2, updates := [] })
  else s

/-- MODE 5 (R58): LOCKED at the first boundary after its adoption at nominal plus MCR_TRIM, nothing of a jump left, media
position set from R27 if RATE_OK is 0. -/
def State.masterEntry (s : State) : State :=
  if s.mcr.masterDue ∧ s.mcr.state ≠ .relock then
    let t := if s.mcr.ramping then s.unmuteAll .step s.rampLen else s
    let u := (t.modMcr (fun m => { m.lost with
      masterDue := false, freq := s.trim, stepDue := false, ramping := false, jump := 0, late := false, lossPend := false,
      failDue := false, setDue := false })).mcrLock
    if s.tt.rateOk then u else (u.setPosition (Int.ofNat (s.r27 s.tinst))).1
  else s

/-! ### The declared discontinuity (R65) -/

/-- STEP begins at a boundary: every sink ramps to mute (R65 step 1). -/
def State.stepRamp (s : State) : State :=
  if s.mcr.stepDue ∧ s.mcr.state = .step then
    (s.modMcr (fun m => { m with stepDue := false, ramping := true })).muteAll .step s.rampLen
  else s

/-- The step itself (R65 steps 2 to 4): position, correction, residue, event, and the sinks' ramp up. -/
def State.mcrStep (s : State) : State :=
  if s.mcr.ramping ∧ s.mcr.state = .step then
    let n := nearestMul (s.T * 655360000) s.mcr.jump
    let rest := s.mcr.jump - n
    let t := { s with tt := { s.tt with now := (Int.ofNat s.tt.now + n / 655360000).toNat } }
    let u := t.modMcr (fun m => { m with
      ramping := false, jump := 0, corr := 0, resid := rest, state := .slew, phase := rest / 10000, upLeft := s.rampLen })
    let v := ((u.flag 0x2400C 0x1).raise 38).unmuteAll .step s.rampLen
    if rest = 0 then v.mcrLock else v
  else s

-- DEDUCED, log 76: unsafe.
/-- The slew of one tick: 50 ppm of T samples toward zero (R63, R64). -/
def slewBy (t : Nat) (r : Int) : Int :=
  let q : Int := Int.ofNat (t * 32768)
  if r.natAbs ≤ t * 32768 then 0 else if 0 < r then r - q else r + q

/-- A tick of the slew, in the states that slew; a frozen correction stays (R66). -/
def State.slewTick (s : State) : State :=
  if s.mcr.state = .slew ∨ s.mcr.state = .acquire then
    s.modMcr (fun m => { m with resid := slewBy s.T m.resid, corr := slewBy s.T m.corr })
  else s

-- DEDUCED, log 98: unsafe.
/-- A tick of the ramp up after a step; a loss met during STEP is taken at its end (R66). -/
def State.stepUpTick (s : State) : State :=
  let left := s.mcr.upLeft - s.T
  let t := s.modMcr (fun m => { m with upLeft := left })
  if left = 0 ∧ s.mcr.lossPend ∧ s.mcr.state ≠ .step then (t.modMcr (fun m => { m with lossPend := false })).mcrCoast else t

/-- The correction reaches 0: LOCKED (R56). -/
def State.slewEnd (s : State) : State :=
  if s.mcr.state = .slew ∧ s.mcr.resid = 0 then s.mcrLock else s

/-- MCR_CORR as R64 reports it, in whole grains. -/
def State.corrGrains (s : State) : Int := s.mcr.corr / 10000

/-- The correction in whole samples, rounded (R64). -/
def State.corrSamples (s : State) : Int := roundShift 16 s.corrGrains

/-! ### Relock and adoption -/

/-- The relock ends (R77 step 5): MODE 5 returns to LOCKED at its own frequency (R58), the others to ACQUIRE with the jump to
be measured, or at once to what R67 makes of one already measured. -/
def State.relockEnd (s : State) : State :=
  if s.syn.rstep = 5 then
    let t := (s.modSyn (fun y => { y with rstep := 0, rateChg := false })).synAdopted
    if s.mcrMode = 5 then
      (t.modMcr (fun m => { m.lost with masterDue := !s.tt.rateOk, freq := s.trim })).mcrLock
    else
      let u := t.modMcr (fun m => { m with
        state := .acquire, refOk := m.refOk && s.tt.rateOk, afterRelock := s.tt.rateOk, qual := 0, hist := [], relJump := none })
      match s.mcr.relJump with
      | some d => if s.tt.rateOk then u.decideRelock d else u
      | none => u
  else s

-- DESIGN CHOICE, log 96: unsafe.
/-- An adopted change of MCR_CFG (R53, R62): MODE 5 follows R58; any other change of MODE or SRC is a loss, from MODE 5 at the
frequency it ran at. A change of neither ends a failover: MCR follows SRC's instance again at once. -/
def State.mcrAdopt (s : State) : State :=
  let w := s.appliedW 0x24000
  if w = s.mcr.cfg then s
  else
    let modeOrSrc := decide ((w ^^^ s.mcr.cfg) &&& 0x7F07 ≠ 0)
    let was5 := decide (5 ≤ fld s.mcr.cfg 0 3)
    let t := s.modMcr (fun m => { m with cfg := w, failedOver := false, inst := fld w 8 1 })
    if !modeOrSrc then t
    else
      let u := t.modMcr (fun m => { m with failDue := false, setDue := false, unusable := false, updates := [] })
      if s.mcrMode = 5 then u.modMcr (fun m => { m with masterDue := true })
      else
        let v := u.modMcr (fun m => { m with masterDue := false })
        if was5 then v.coastAt s.mcr.freq else v.mcrCoast

/-- A tick of the loop: its history while it runs (R61), the servo's step (R59) and the times of R60 and R61. -/
def State.histTick (s : State) (ns : Nat) : State :=
  s.modMcr (fun m => { m with
    hist := if loopRuns m.state then trimHist 1000000000 ((s.oscFreq, ns) :: m.hist) else []
    freqTick := m.freq
    quiet := m.quiet + ns
    coastNs := if m.state = .coast then m.coastNs + ns else m.coastNs })

/-- Media position minus R27 (MCR_DEV), in grains, at the latest boundary. -/
def State.mcrDev (s : State) : Int := Int.ofNat (s.tt.now * 65536) - Int.ofNat (s.r27 s.followed)

end Sys2Proof.Machine
end

