-- ==== Sys2Proof/Machine/Mac.lean ====
section
/-! DEFINITION. The Ethernet ports: rungs and link (R86 to R91), the reservation limit (R95, R96), transmit queues and
selection (R92 to R94), preemption (R97, R98), PAUSE and PFC (R100 to R104), MDIO (R85, R87) and wake patterns. -/

namespace Sys2Proof.Machine

def State.mac (s : State) (p : Nat) : Mac := if p = 0 then s.macA else s.macB

def State.setMac (s : State) (p : Nat) (v : Mac) : State := if p = 0 then { s with macA := v } else { s with macB := v }

def State.modMac (s : State) (p : Nat) (f : Mac → Mac) : State := s.setMac p (f (s.mac p))

def macBase (p : Nat) : Nat := 0x10000 + 0x4000 * p

def State.macW (s : State) (p o : Nat) : Word := s.appliedW (macBase p + o)

/-- A register of a port as it applies to a frame: to one whose reception began before the latest adoption, as it was before
(R15, R105). -/
def State.macWAt (s : State) (p : Nat) (early : Bool) (o : Nat) : Word :=
  if early then sget resetWord (s.mac p).prev (macBase p + o) else s.macW p o

/-- Counter `c` of a port. -/
def macCtr (p c : Nat) : Nat := macBase p + 0x400 + 8 * c

/-- Whether the member has the port. -/
def portPresent (m : Member) (p : Nat) : Bool := decide (p < numPorts m)

/-! ### Rungs and rates -/

/-- Ceiling and floor as adopted (R89): never faster than the member allows, the floor never faster than the ceiling. -/
def ceilRung (m : Member) (w : Word) : Nat := max (fld w 0 2) (fld (capWord m 0) 2 2)
def floorRung (m : Member) (w : Word) : Nat := max (fld w 2 2) (ceilRung m w)

def mediaPhy (w : Word) : Bool := bitAt w 4
def macEn (w : Word) : Bool := bitAt w 6

/-- Whether automatic downshift and upshift move the running rung. -/
def dsAllowed (w : Word) : Bool := bitAt w 7 && mediaPhy w

/-- Line rate of a rung in kb/s. -/
def lineRate (rung : Nat) : Nat := [10000000, 5000000, 2500000, 1000000].getD rung 1000000

def slopeOf (w : Word) : Nat := fld w 0 24

/-- Sum of the two idle slopes in kb/s. -/
def slopeSum (a b : Word) : Nat := slopeOf a + slopeOf b

/-- R95: the slopes fit 75 % of the line rate of a rung. -/
def slopesFit (sum rung : Nat) : Bool := decide (sum * 4 ≤ lineRate rung * 3)

def State.portSlopes (s : State) (p : Nat) : Nat := slopeSum (s.macW p 0x30) (s.macW p 0x34)

/-- The slowest rung from the ceiling down that carries the slopes: the lowest rung an upshift needs (R96). -/
def carryRung (ceil floor sum : Nat) : Nat :=
  ((List.range 4).reverse.filter (fun r => decide (ceil ≤ r ∧ r ≤ floor) && slopesFit sum r)).headD ceil

/-- Whether a G1 or G2 snapshot breaks R95, judged on the values it would apply. -/
def macRefused (m : Member) (cfg qa qb : Word) : Bool := !slopesFit (slopeSum qa qb) (ceilRung m cfg)

/-! ### MDIO (R85, R87) -/

/-- Valid script entries for a rung, ascending: device, register and data. -/
def State.scriptOf (s : State) (p rung : Nat) : List (Nat × Nat × Nat) :=
  ((List.range 8).filter (fun e => bitAt (s.macW p (0x80 + 8 * e)) 31 && bitAt (s.macW p (0x80 + 8 * e)) (16 + rung))).map
    (fun e => (fld (s.macW p (0x80 + 8 * e)) 0 5, fld (s.macW p (0x84 + 8 * e)) 0 16, fld (s.macW p (0x84 + 8 * e)) 16 16))

/-- The rung a port runs at, or is changing to. -/
def Mac.goal (m : Mac) : Nat := m.target.getD m.rung

def an37 (w : Word) : Bool := bitAt w 5

/-- The lane is set to the target rung; Clause 37 auto-negotiation at 1G advertises full duplex and the PAUSE of MAC_FC
(R84, R87). -/
def State.laneSet (s : State) (p : Nat) : State :=
  let t := s.modMac p (fun m => { m with rung := m.goal, target := none })
  if (s.mac p).goal = 3 ∧ an37 (s.macW p 0) then t.emit (.an37 p true (bitAt (s.macW p 0x14) 0)) else t

/-- Queue the retrain script of a port for its target rung, after which the lane is set to it; only an external PHY has a
script (R87). -/
def State.runScript (s : State) (p : Nat) : State :=
  if mediaPhy (s.macW p 0) && decide (s.scriptOf p (s.mac p).goal ≠ []) then
    { s with mdio := s.mdio ++ (s.scriptOf p (s.mac p).goal).map (fun e => .script p e.1 e.2.1 e.2.2) }
  else s.laneSet p

/-- Entries of a port's retrain script that wait at the master. -/
def scripting (p : Nat) (q : List MdioReq) : Bool := q.any (fun r => match r with | .script a .. => decide (a = p) | _ => false)

/-- Entries of a port's script are withdrawn. -/
def dropScript (p : Nat) (q : List MdioReq) : List MdioReq :=
  q.filter (fun r => match r with | .script a .. => decide (a ≠ p) | _ => true)

def softwareBusy (q : List MdioReq) : Bool := q.any (fun r => match r with | .software .. => true | _ => false)

-- DESIGN CHOICE, log 115: unsafe.
/-- A link poll falls due INTERVAL ms after the one before (R86), 0 adopted as 1: it joins the master's queue, but for a port whose
retrain script runs. -/
def State.phyPoll (s : State) (p ms : Nat) : State :=
  if mediaPhy (s.macW p 0) && bitAt (s.macW p 0x40) 0 && decide (max 1 (fld (s.macW p 0x40) 8 8) ≤ ms) && !scripting p s.mdio then { s with mdio := s.mdio ++ [.poll p] } else s

-- DESIGN CHOICE, log 100: unsafe.
/-- A write of PMU_MDIO_CMD: one software slot, COLLIDE while it is busy.  The data of a write is that of PMU_MDIO_DATA at the
command. -/
def State.mdioCommand (s : State) (w : Word) : State :=
  if softwareBusy s.mdio then s.flag 0x310C 0x4
  else { s with mdio := s.mdio ++ [.software w (s.rwW 0x3108).toNat] }

/-- A software transaction ends; `v` is what a read returned. -/
def State.mdioSoftware (s : State) (c : Word) (d v : Nat) : State :=
  let t := if bitAt c 10 then (s.setRw 0x3108 (toWord (v % 65536))).emit (.mdioRead (fld c 0 5) (fld c 5 5) (fld c 16 16))
    else s.emit (.mdio (fld c 0 5) (fld c 5 5) (fld c 16 16) d)
  t.flagRaise 0x310C 0x2 24

/-- A script write ends; the lane is set after the last (R87). -/
def State.mdioScript (s : State) (p dev reg d : Nat) : State :=
  let t := s.emit (.mdio (fld (s.macW p 0) 8 5) dev reg d)
  if scripting p s.mdio then t else t.laneSet p

/-! ### Queues -/

def State.queue (s : State) (p q : Nat) : List TxFrame := sget (fun _ => []) (s.mac p).queues q

def State.setQueue (s : State) (p q : Nat) (l : List TxFrame) : State :=
  s.modMac p (fun m => { m with queues := sset (fun _ => []) m.queues q l })

/-- The transmit queue of host queue `h`: QH3 to QH0 are 4 to 7. -/
def hostQueue (h : Nat) : Nat := 7 - h

def isHostQ (q : Nat) : Bool := decide (4 ≤ q)

/-- Bytes a packet takes in a lane, in whole 64-bit words. -/
def laneRoom (n : Nat) : Nat := (n + 7) / 8 * 8

/-- Bytes of the frames waiting in a lane of a transmit siding. -/
def State.laneHeld (s : State) (p q : Nat) : Nat := (s.queue p q).foldl (fun n f => n + laneRoom f.body.length) 0

/-- Sizes of the lanes of TXQ_A and TXQ_B in bytes (R184). -/
def laneSize (q : Nat) : Nat := if q < 2 then 16384 else if q = 2 then 196608 else if q = 3 then 98304 else 49152

-- DESIGN CHOICE, log 101: unsafe.
/-- A producer begins a packet only when the free space it sees holds the whole of it (R187); a full flag that lags hides up to
three words (R186). -/
def State.laneFits (s : State) (p q n : Nat) (lags : Bool) : Bool :=
  decide (s.laneHeld p q + laneRoom n + (if lags then 24 else 0) ≤ laneSize q)

-- DESIGN CHOICE, log 101: unsafe.
/-- Hand a frame to a port: queued while it is up and its lane has room (R187), otherwise discarded; an express frame handed to
a port that is down is counted (R91). -/
def State.enqueue (s : State) (p q : Nat) (f : TxFrame) : State :=
  if (s.mac p).up then (if s.laneFits p q f.body.length false then s.setQueue p q (s.queue p q ++ [f]) else s)
  else if isHostQ q then s else s.bump (macCtr p 4)

/-- PCP that PFC compares with a queue (R100, R101); none where only strict mode or nothing stops it. -/
def State.queuePri (s : State) (p q : Nat) : Option Nat :=
  let strict := bitAt (s.macW p 0x14) 2
  if isHostQ q then some (fld (s.macW p 0x28) (4 * (7 - q)) 3)
  else if !strict then none
  else if q = 0 then some (fld (s.macW p 0x14) 8 3)
  else if q = 1 then some (fld (s.macW p 0x14) 12 3)
  else some (fld (s.macW p (0x30 + 4 * (q - 2))) 24 3)

/-- Queues a PAUSE stops. -/
def State.pauseMask (s : State) (p : Nat) : Nat := if bitAt (s.macW p 0x14) 2 then 0xFF else 0xF0

/-- Queues that stop on the priorities of a mask. -/
def State.pfcMask (s : State) (p prios : Nat) : Nat :=
  maskOf ((List.range 8).filter (fun q => match s.queuePri p q with | some k => prios.testBit k | none => false))

/-- Whether a queue is stopped. -/
def Mac.stopped (m : Mac) (q : Nat) : Bool := m.pauseQ.getLsbD q || m.pfcQ.getLsbD q

/-- Stops begin, at once or when the frame in transmission ends, and queues whose new time is zero restart (R102). -/
def Mac.stop (m : Mac) (isPause : Bool) (stopM clearM : Nat) : Mac :=
  let on := BitVec.ofNat 8 stopM
  let off := ~~~(BitVec.ofNat 8 clearM)
  let idle := m.cur.isNone && m.rem.isNone
  if isPause then
    (if idle then { m with pauseQ := (m.pauseQ &&& off) ||| on }
     else { m with pauseQ := m.pauseQ &&& off, pausePend := (m.pausePend &&& off) ||| on })
  else
    (if idle then { m with pfcQ := (m.pfcQ &&& off) ||| on }
     else { m with pfcQ := m.pfcQ &&& off, pfcPend := (m.pfcPend &&& off) ||| on })

/-- Pending stops take effect once the frame in transmission and any remainder are done. -/
def Mac.takeStops (m : Mac) : Mac :=
  if m.cur.isNone && m.rem.isNone then
    { m with pauseQ := m.pauseQ ||| m.pausePend, pfcQ := m.pfcQ ||| m.pfcPend, pausePend := 0, pfcPend := 0 }
  else m

/-- A received PAUSE (R100, R101, R104): acted on while enabled and outside the hold. -/
def State.pauseRx (s : State) (p quanta : Nat) : State :=
  let m := s.mac p
  if m.sleep then s
  else if bitAt (s.macW p 0x14) 0 && !m.hold then
    let k := s.pauseMask p
    (s.setMac p (if quanta = 0 then m.stop true 0 k else m.stop true k 0)).bump (macCtr p 11)
  else s.bump (macCtr p 12)

/-- A received PFC frame: the priorities it names with their times; a time of zero restarts. -/
def State.pfcRx (s : State) (p enables : Nat) (times : List Nat) : State :=
  let m := s.mac p
  let named := bitsOf 8 enables
  let on := s.pfcMask p (maskOf (named.filter (fun k => decide (times.getD k 0 ≠ 0))))
  let off := s.pfcMask p (maskOf (named.filter (fun k => decide (times.getD k 0 = 0))))
  if m.sleep then s
  else if bitAt (s.macW p 0x14) 1 && !m.hold && decide (on + off ≠ 0) then
    (s.setMac p (m.stop false on off)).bump (macCtr p 11)
  else s.bump (macCtr p 12)

/-- A queue's pause time runs out. -/
def Mac.expire (m : Mac) (q : Nat) (pfc : Bool) : Mac :=
  let off := ~~~(BitVec.ofNat 8 (2 ^ q))
  if pfc then { m with pfcQ := m.pfcQ &&& off, pfcPend := m.pfcPend &&& off }
  else { m with pauseQ := m.pauseQ &&& off, pausePend := m.pausePend &&& off }

def Mac.endStops (m : Mac) : Mac := { m with pauseQ := 0, pfcQ := 0, pausePend := 0, pfcPend := 0 }

/-- The watchdog breaks the stops and starts the hold (R103). -/
def State.pauseBreak (s : State) (p : Nat) : State :=
  let m := s.mac p
  if m.pauseQ ||| m.pfcQ = 0 then s
  else
    let t := s.setMac p { m.endStops with hold := true }
    ((t.flag (macBase p + 0xC) 0x2).bump (macCtr p 14)).raise (20 + p)

/-! ### Link -/

/-- Verification returns to its initial state, or begins at link-up (R97). -/
def verifyStart (w : Word) : Nat := if bitAt w 0 then (if bitAt w 1 then 2 else 1) else 0

/-- MAC_STAT.LINK changes (R88). -/
def State.linkEvent (s : State) (p : Nat) : State := (s.flag (macBase p + 0xC) 0x1).raise (16 + p)

/-- Host frames that a port going down discards: the ring pairs and slots whose frames complete LINK_DOWN. -/
def Mac.hostWaiting (m : Mac) : List TxFrame :=
  ((m.cur.toList ++ m.rem.toList).filter (fun c => isHostQ c.q)).map (fun c => c.frame) ++
    (m.queues.filter (fun q => isHostQ q.1)).flatMap (fun q => q.2)

/-- Frames counted in TX_DISCARD when a port goes down: express frames waiting, and the frame cut off (R91). -/
def Mac.discards (m : Mac) : Nat :=
  (m.queues.filter (fun q => !isHostQ q.1)).foldl (fun n q => n + q.2.length) 0 + m.cur.toList.length + m.rem.toList.length

/-- The port's own part of going down (R91). -/
def State.portFall (s : State) (p : Nat) : State :=
  let m := s.mac p
  let m' := { m.endStops with
    up := false, verify := 0, verifyTries := 0, hold := false, queues := [], cur := none, rem := none, window := true,
    creditA := 0, creditB := 0 }
  let t := (s.setMac p m').countBy (macCtr p 4) m.discards
  if m.up then (t.bump (macCtr p 15)).linkEvent p else t

/-- Whether the conditions of R88 hold but for the lane. -/
def State.phyOk (s : State) (p : Nat) : Bool :=
  !(mediaPhy (s.macW p 0) && bitAt (s.macW p 0x40) 0) || (s.mac p).phy

/-- The port's own part of coming up: its window closes and verification begins. -/
def State.portRise (s : State) (p : Nat) : State :=
  let m := s.mac p
  if m.up then s
  else
    let v := verifyStart (s.macW p 0x20)
    (s.setMac p { m with up := true, retrain := false, window := false, verify := v, verifyTries := 0 }).linkEvent p

/-- A change to a rung: the script for it runs, and then the lane is set to it (R87, R90). -/
def State.setRung (s : State) (p r : Nat) : State :=
  ({ s with mdio := dropScript p s.mdio }.modMac p (fun m => { m with target := some r, retrain := true, lane := false })).runScript p

/-- OVERBOOK of R96, judged on the running rung: entered with its flag and event, and while it lasts an upshift to the lowest
rung that carries the slopes as they stand, unless the port is on its way to one that does. -/
def State.overbook (s : State) (p : Nat) : State :=
  let m := s.mac p
  let r := carryRung (ceilRung s.member (s.macW p 0)) (floorRung s.member (s.macW p 0)) (s.portSlopes p)
  if slopesFit (s.portSlopes p) m.rung then s.setMac p { m with overbook := false, upshift := none }
  else
    let t := s.setMac p { m with overbook := true, upshift := if slopesFit (s.portSlopes p) m.goal then none else some r }
    if m.overbook then t else (t.flag (macBase p + 0xC) 0x10).raise (25 + p)

/-! ### Credit-based shaping (R94) -/

/-- The idle slope the shaper applies to a class: scaled while the port is overbooked (R96). -/
def State.shaperSlope (s : State) (p cls : Nat) : Nat :=
  let w := slopeOf (s.macW p (0x30 + 4 * cls))
  if (s.mac p).overbook ∧ s.portSlopes p ≠ 0 then w * (lineRate (s.mac p).rung * 3) / (4 * s.portSlopes p) else w

def State.setCredits (s : State) (p : Nat) (a b : Int) : State :=
  s.modMac p (fun m => { m with creditA := a, creditB := b })

-- PRESUMED, log 43: unsafe.
/-- The credit of class `k` (0 A, 1 B) after `n` octet times: it rises by the idle slope, falls by the line rate while the class
is on the wire, stays within its bounds, and is no more than zero while the class has nothing to send. -/
def State.creditAfter (s : State) (p k n : Nat) : Int :=
  let m := s.mac p
  let own := match m.cur with | some c => decide (c.q = 2 + k) | none => false
  let c := if k = 0 then m.creditA else m.creditB
  let rate := lineRate m.rung
  let d := c + Int.ofNat n * (Int.ofNat (s.shaperSlope p k) - (if own then Int.ofNat rate else 0))
  let bound (f : Nat → Nat → Nat → Nat → Nat → Nat) : Int :=
    Int.ofNat (f k (fld (s.macW p 0x10) 0 14) (s.shaperSlope p 0) (s.shaperSlope p 1) rate)
  if !own && decide (s.queue p (2 + k) = []) then min 0 (max d (-(bound Config.creditLow)))
  else clampI (-(bound Config.creditLow)) (bound Config.creditHigh) d

/-- Both credits brought up to date. -/
def State.creditRun (s : State) (p n : Nat) : State := s.setCredits p (s.creditAfter p 0 n) (s.creditAfter p 1 n)

/-- The gap after a frame of a class counts against its credit. -/
def State.creditGap (s : State) (p q : Nat) : State :=
  let g := Int.ofNat (12 * lineRate (s.mac p).rung)
  if q = 2 then s.modMac p (fun m => { m with creditA := m.creditA - g })
  else if q = 3 then s.modMac p (fun m => { m with creditB := m.creditB - g }) else s

/-! ### Sending -/

/-- A frame as it goes on the wire, padded to 60 octets (R93). -/
def padded (b : List Byte) : List Byte := b ++ List.replicate (60 - b.length) 0

def maxLen (w : Word) : Nat := clampN 64 9216 (fld w 0 14)

/-- Classes without a reservation discard what waits at their head (R94). -/
def State.dropUnreserved (s : State) (p : Nat) : State :=
  [2, 3].foldl (fun t q =>
    if slopeOf (t.macW p (0x30 + 4 * (q - 2))) = 0 then
      (t.countBy (macCtr p 4) (t.queue p q).length).setQueue p q []
    else t) s

/-- The queue from which the port may start a frame: the first in order that holds a frame, is not stopped and, for a
stream class, has a credit of zero or more (R92, R94). -/
def State.pickQueue (s : State) (p : Nat) (expressOnly : Bool) : Option Nat :=
  (List.range 8).find? (fun q =>
    decide (s.queue p q ≠ []) && !(s.mac p).stopped q && !(expressOnly && isHostQ q)
      && (if q = 2 then decide (0 ≤ (s.mac p).creditA) else if q = 3 then decide (0 ≤ (s.mac p).creditB) else true))

/-- Start the frame R92 selects; a remainder continues once no express frame is eligible (R98). -/
def State.txStart (s : State) (p : Nat) : State :=
  let t := s.dropUnreserved p
  let m := t.mac p
  if !m.up ∨ m.cur.isSome ∨ m.sleep then s
  else match t.pickQueue p m.rem.isSome with
    | some q =>
      match t.queue p q with
      | f :: l => (t.setQueue p q l).modMac p (fun x => { x with cur := some { q := q, frame := f, frags := 1, sent := 0 } })
      | [] => t
    | none =>
      match m.rem with
      | some c => t.setMac p { m with cur := some { c with frags := c.frags + 1 }, rem := none }
      | none => t

/-- Whether preemption is active (R97). -/
def Mac.preempting (m : Mac) : Bool := decide (m.verify = 2)

/-- A frame as it goes on the wire: padded, with its FCS, inverted where a word of it was poisoned (R93, R139). -/
def TxFrame.wire (f : TxFrame) : List Byte :=
  padded f.body ++ (if f.poison then (fcsBytes (padded f.body)).map (fun b => ~~~b) else fcsBytes (padded f.body))

-- PRESUMED, log 43: unsafe.
/-- A host fragment of `n` data octets is closed with its mCRC so that an eligible express frame can go: both it and what remains
of the frame hold at least 60 (R98). -/
def State.preempt (s : State) (p n : Nat) : State :=
  let m := s.mac p
  match m.cur with
  | some c =>
    if isHostQ c.q && m.preempting && m.rem.isNone && (s.pickQueue p true).isSome
        && decide (60 ≤ n ∧ c.sent + n + 60 ≤ c.frame.wire.length) then
      let out := slice c.frame.wire c.sent n ++ bytesLE (Config.mcrc (c.frame.wire.take (c.sent + n)))
      (s.setMac p { m with cur := none, rem := some { c with sent := c.sent + n } }).emit (.fragment p (c.frags - 1) out)
    else s
  | none => s

/-- The port's own part of a frame's end: the frame, or its last fragment, is out and the frame is counted; pending stops take
effect. -/
def State.txEnd (s : State) (p : Nat) : State :=
  match (s.mac p).cur with
  | none => s
  | some c =>
    let t := (s.modMac p (fun m => ({ m with cur := none } : Mac).takeStops)).creditGap p c.q
    let o := if c.frags ≤ 1 then OutItem.frame p c.frame.wire c.frame.poison
      else .fragment p (c.frags - 1) (c.frame.wire.drop c.sent)
    let u := ((t.emit o).bump (macCtr p 0)).countBy (macCtr p 1) c.frame.wire.length
    let v := if isHostQ c.q then u else u.bump (macCtr p 2)
    if 1 < c.frags then v.bump (macCtr p 3) else v

/-- A verify mPacket is due: up to three attempts, then VERIFY fails (R97). -/
def State.verifySend (s : State) (p : Nat) : State :=
  let m := s.mac p
  if m.verify = 1 then
    (if m.verifyTries < 3 then (s.setMac p { m with verifyTries := m.verifyTries + 1 }).emit (.verify p)
     else ((s.setMac p { m with verify := 3 }).flag (macBase p + 0xC) 0x4).raise (18 + p))
  else s

def State.verifyResponse (s : State) (p : Nat) : State :=
  if (s.mac p).verify = 1 then s.modMac p (fun m => { m with verify := 2 }) else s

/-- MAC_CTL.REVERIFY restarts verification on a port that is up. -/
def State.reverify (s : State) (p : Nat) : State :=
  if (s.mac p).up then s.modMac p (fun m => { m with verify := verifyStart (s.macW p 0x20), verifyTries := 0 }) else s

/-! ### Wake patterns (R111, R112) -/

/-- One byte into the CRC-16 of R112. -/
def crc16Byte (crc : Nat) (b : Byte) : Nat :=
  (List.range 8).foldl (fun c _ => if 0x8000 ≤ c then ((c * 2) ^^^ 0x1021) % 65536 else c * 2) (crc ^^^ (b.toNat * 256))

/-- Octets a pattern selects. -/
def State.wakeSel (s : State) (p k : Nat) : List Nat :=
  (List.range 128).filter (fun n => bitAt (s.macW p (0x200 + 0x20 * k + 4 * (n / 32))) (n % 32))

def State.wakeMatch (s : State) (p k : Nat) (b : List Byte) : Bool :=
  let c := s.macW p (0x210 + 0x20 * k)
  let sel := s.wakeSel p k
  bitAt c 31 && sel.all (fun n => decide (n < b.length))
    && decide (sel.foldl (fun a n => crc16Byte a (b.getD n 0)) 0xFFFF = fld c 0 16)

/-- A frame received in sleep against the enabled patterns: the lowest match is recorded and raised. -/
def State.wakeFrame (s : State) (p : Nat) (b : List Byte) : State :=
  match (List.range 8).find? (fun k => s.wakeMatch p k b) with
  | some k => ((s.setRc (macBase p + 0x48) (toWord (k + 0x100))).flag (macBase p + 0xC) 0x40).raise (22 + p)
  | none => s

end Sys2Proof.Machine
end

