-- ==== Sys2Proof/Machine/Stx.lean ====
section
/-! DEFINITION. Stream transmission: reservation arithmetic (R130, R447), start checks and latching (R131, R132), the
packet grid (R117 to R120), stamps (R121 to R124, R128), frames (R125 to R127) and their commit (R119, R135 to R140). -/

namespace Sys2Proof.Machine

def stxReset (_ : Nat) : StxCtx :=
  { run := false, stopping := false, start := 0, words := [], srcA := 0, srcB := 0, ipA := 0, ipB := 0, path := 2,
    seq := 0, ran := false, mr := false, mrDue := false, stamps := [],
    rate := 0, grid := 0, skip := 0, drain := 0, buf := [], last := [] }

def State.stxOf (s : State) (c : Nat) : StxCtx := sget stxReset s.stx.ctx c

def State.setStx (s : State) (c : Nat) (v : StxCtx) : State :=
  { s with stx := { s.stx with ctx := sset stxReset s.stx.ctx c v } }

def stxBase (c : Nat) : Nat := 0x30100 + 0x40 * c
def stxCtr (c n : Nat) : Nat := 0x32200 + 0x20 * c + 8 * n

/-- Register `o` of a context as applied; PORTB reads 0 on single-port members (R402). -/
def State.stxW (s : State) (c o : Nat) : Word :=
  if o = 0 ∧ numPorts s.member < 2 then s.appliedW (stxBase c) &&& ~~~0x20 else s.appliedW (stxBase c + o)

/-- The registers a context latches at its start (R131), +0x00 to +0x34. -/
def State.stxWords (s : State) (c : Nat) : List Word := (List.range 14).map (fun i => s.stxW c (4 * i))

/-! ### Fields of a context, from applied or latched words -/

def cw (w : List Word) (o : Nat) : Word := w.getD (o / 4) 0
def cFormat (w : List Word) : Nat := fld (cw w 0) 0 3
def cPort (w : List Word) (p : Nat) : Bool := bitAt (cw w 0) (4 + p)
def cClass (w : List Word) : Nat := fld (cw w 0) 6 1
def cVlan (w : List Word) : Bool := bitAt (cw w 0) 7
def cPeriod (w : List Word) : Nat := fld (cw w 0) 8 8
def cFirst (w : List Word) : Nat := fld (cw w 4) 0 12
def cCount (w : List Word) : Nat := fld (cw w 4) 16 7
def cRtp (w : List Word) : Bool := decide (4 ≤ cFormat w)

/-- Octets per sample (R115). -/
def octets (f : Nat) : Nat := [2, 3, 4, 4, 2, 3].getD f 4

/-- Presentation offset in ns, at most 100 000 000 (R123). -/
def coffs (w : Word) : Nat := min 100000000 w.toNat

def sppOf (w : List Word) (t : Nat) : Nat := cPeriod w * t
def payloadOf (w : List Word) (t : Nat) : Nat := cCount w * sppOf w t * octets (cFormat w)
def headOf (w : List Word) : Nat := (if cRtp w then 54 else 38) + (if cVlan w then 4 else 0)

/-- Bandwidth in kb/s on one port (R130). -/
def resvOf (w : List Word) (t rate : Nat) : Nat :=
  let wire := max (headOf w + payloadOf w t + 4) 64 + 20
  let d := max 1 (sppOf w t) * 1000
  (wire * 8 * rate + d - 1) / d

-- DEDUCED, log 58: unsafe.
/-- Packets per second of a context. -/
def prateOf (w : List Word) (t rate : Nat) : Nat := rate / max 1 (sppOf w t)

/-- Contexts running, ascending, with their state. -/
def State.stxRunning (s : State) : List (Nat × StxCtx) := s.stx.ctx.filter (fun p => p.2.run)

/-- STX_SUM of a port and class (R447). -/
def State.stxSum (s : State) (p cls : Nat) : Nat :=
  (s.stxRunning.filter (fun c => cPort c.2.words p && decide (cClass c.2.words = cls))).foldl
    (fun n c => n + resvOf c.2.words s.T s.rateHz) 0

-- DEDUCED, log 58: unsafe.
/-- STX_PRATE of a port. -/
def State.stxPrate (s : State) (p : Nat) : Nat :=
  (s.stxRunning.filter (fun c => cPort c.2.words p)).foldl (fun n c => n + prateOf c.2.words s.T s.rateHz) 0

/-- Path offset of a group of channels (R118): 1 when every channel is on the low-delay path. -/
def State.pathOffset (s : State) (sink0 first count : Nat) : Nat :=
  if (List.range count).all (fun i => s.mix.low.contains (sink0 + first + i)) && decide (0 < count) then 1 else 2

/-- Whether an offset is less than the lag of R120 for a start at `p`: compared exactly, in half samples. -/
def lagExceeds (offs p spp t a rate : Nat) : Bool :=
  let j := (p + spp - 1) / t
  let half := if a = 2 then 2 * ((j + 2) * t - p) else 2 * ((j + 1) * t - p) + t
  decide (offs * rate * 2 < half * 1000000000 + 2000 * rate * 2)

/-- MAC_ADDR0 of a port and whether it is valid. -/
def State.portAddr (s : State) (p : Nat) : Nat × Bool :=
  ((s.macW p 0x100).toNat + fld (s.macW p 0x104) 0 16 * 2 ^ 32, bitAt (s.macW p 0x104) 31)

def State.ipSrc (s : State) (p : Nat) : Word := s.appliedW (0x30010 + 4 * p)

/-- Ports a context selects that the member has. -/
def State.selPorts (s : State) (w : List Word) : List Nat :=
  [0, 1].filter (fun p => cPort w p && portPresent s.member p)

/-- The lowest failing start check of R132; 0 when all pass. -/
def State.stxCause (s : State) (c p : Nat) : Nat :=
  let w := s.stxWords c
  let t := s.T
  let hz := s.rateHz
  let ports := s.selPorts w
  let v := s.stxOf c
  if 5 < cFormat w then 1
  else if cCount w = 0 ∨ 64 < cCount w ∨ numChan s.member s.syn.rate < cFirst w + cCount w then 2
  else if cPeriod w = 0 ∨ 256 < sppOf w t then 3
  else if (ports.any (fun q => decide (maxLen (s.macW q 0x10) < max 64 (headOf w + payloadOf w t + 4))))
    || (cRtp w && decide (1440 < payloadOf w t)) then 4
  else if lagExceeds (coffs (cw w 8)) p (sppOf w t) t (s.pathOffset 0 (cFirst w) (cCount w)) hz then 5
  else if ports.any (fun q => decide (slopeOf (s.macW q (0x30 + 4 * cClass w)) < s.stxSum q (cClass w) + resvOf w t hz)) then 6
  else if ports.any (fun q => decide (4000000 < s.stxPrate q + prateOf w t hz)) then 7
  else if decide (ports = []) || (cPort w 1 && !portPresent s.member 1) || ports.any (fun q => !(s.portAddr q).2)
    || (cRtp w && ports.any (fun q => decide (s.ipSrc q = 0))) then 8
  else if v.run then 9
  else if !s.tt.rateOk then 10
  else 0

/-- A refused start (R132). -/
def State.stxRefuse (s : State) (c k : Nat) : State :=
  ((s.setRc (stxBase c + 0x3C) (merge (s.rcW (stxBase c + 0x3C)) 0xF0 (toWord (put 4 k)))).flag 0x30008 0x10).raise 44

/-- SEQ_INIT of R129. -/
def seqInit (w : List Word) : Nat := if cRtp w then fld (cw w 0x30) 16 16 else fld (cw w 0x30) 16 8

-- DESIGN CHOICE, log 111: unsafe.
/-- Start context `c` with the label `p` first (R34, R131). -/
def State.stxStart (s : State) (c p : Nat) : State × Nat :=
  let k := s.stxCause c p
  if k ≠ 0 then (s.stxRefuse c k, k)
  else
    let w := s.stxWords c
    let v := s.stxOf c
    let keep := bitAt (cw w 0) 29 && v.ran
    (s.setStx c { v with
      run := true, stopping := false, start := p, words := w, srcA := (s.portAddr 0).1, srcB := (s.portAddr 1).1,
      ipA := s.ipSrc 0, ipB := s.ipSrc 1, path := s.pathOffset 0 (cFirst w) (cCount w),
      seq := if keep then v.seq else seqInit w, ran := true, mr := false, mrDue := false, stamps := [],
      rate := s.syn.rate, grid := 0, skip := 2 * s.T + (p - s.tt.now), drain := 0, buf := [], last := [] }, 0)

/-- Start a range, collecting how many started and the first refusal (R209). -/
structure RangeRes where
  started : Nat
  refused : Nat
  first : Nat
  cause : Nat
  deriving DecidableEq, Repr

def rangeList (w : Word) : List Nat :=
  (List.range 128).filter (fun c => decide ((rangeOf w).1 ≤ c ∧ c ≤ (rangeOf w).2))

def RangeRes.add (r : RangeRes) (c k : Nat) : RangeRes :=
  if k = 0 then { r with started := r.started + 1 }
  else { r with refused := r.refused + 1, first := if r.refused = 0 then c else r.first,
                cause := if r.refused = 0 then k else r.cause }

def State.stxStartRange (s : State) (w : Word) (p : Nat) : State × RangeRes :=
  (rangeList w).foldl (fun a c =>
    let r := a.1.stxStart c p
    (r.1, a.2.add c r.2)) (s, { started := 0, refused := 0, first := 0, cause := 0 })

/-- A stop takes effect at egress: here it is only asked for (R133). -/
def State.stxStop (s : State) (c : Nat) : State :=
  if (s.stxOf c).run then s.setStx c { s.stxOf c with stopping := true } else s

-- DEDUCED, log 65: unsafe.
def State.stxStopRange (s : State) (w : Word) : State := (rangeList w).foldl State.stxStop s

/-- The context stops now. -/
def State.stxHalt (s : State) (c : Nat) : State :=
  s.setStx c { s.stxOf c with run := false, stopping := false, stamps := [], buf := [], grid := 0, drain := 0 }

/-- Samples of a context's whole packets that are gathered and not yet sent. -/
def StxCtx.gathered (v : StxCtx) (t : Nat) : Nat :=
  let n := v.buf.length + (2 * t - v.skip)
  n - n % max 1 (sppOf v.words t) - v.buf.length

/-- A house-rate change stops every started context where step 3 begins; of its packets those whose labels are all gathered are
still sent (R134). -/
def State.stxRateStop (s : State) : State :=
  s.stxRunning.foldl (fun t c =>
    let n := if c.2.stopping && decide (c.2.buf = []) then 0 else c.2.gathered s.T
    (if n = 0 then t.stxHalt c.1 else t.setStx c.1 { c.2 with run := false, stopping := false, drain := n }).flag
      (stxBase c.1 + 0x3C) 0x1000) s

/-! ### Stamps -/

/-- Whether tu is set while MCR is in its state (R128). -/
def tuState (m : McrState) : Bool := match m with | .locked => false | .slew => false | _ => true

-- DEDUCED, log 57: unsafe.
-- DEDUCED, log 60: unsafe.
/-- At ingress of a tick: a running context whose next packet's first label lies in the tick takes its stamp, and the block
gathered joins those it has to pack. -/
def State.stxStamp (s : State) (c : Nat) : State :=
  let v := s.stxOf c
  let spp := max 1 (sppOf v.words s.T)
  let ahead := if v.grid = 0 then v.skip - s.T else (spp - v.grid % spp) % spp
  if v.run ∧ ahead < s.T then
    let mr := v.mr != v.mrDue
    let st : Stamp := { label := s.tt.now + ahead, corr := s.corrGrains, offs := coffs (s.stxW c 8),
                        clkofs := s.stxW c 0x34, tu := tuState s.mcr.state, mr := mr }
    s.setStx c { v with
      stamps := v.stamps ++ [st], mr := mr, mrDue := false, skip := v.skip - s.T,
      grid := if v.grid = 0 then s.T - ahead else v.grid + s.T }
  else s.setStx c { v with skip := v.skip - s.T, grid := if v.grid = 0 then 0 else v.grid + s.T }

/-- AVTP timestamp (R121). -/
def avtpTime (label : Nat) (c : Int) (rate offs : Nat) : Nat :=
  ((((Int.ofNat (label * 65536) + c) * 1000000000) / Int.ofNat (rate * 65536) + Int.ofNat offs) % 2 ^ 32).toNat

/-- Rounding of a correction to whole samples with halves away from zero (R122). -/
def roundAway (c : Int) : Int := if 0 ≤ c then (c + 32768) / 65536 else -((-c + 32768) / 65536)

/-- RTP timestamp (R122). -/
def rtpTime (label : Nat) (c : Int) (rate offs : Nat) (clk : Word) : Nat :=
  ((Int.ofNat label + roundAway c + Int.ofNat (offs * rate / 1000000000) + Int.ofNat clk.toNat) % 2 ^ 32).toNat

/-! ### Samples and frames -/

/-- `v / 2 ^ k` rounded to nearest even. -/
def rne (k v : Nat) : Nat :=
  let q := v / 2 ^ k
  let r := v % 2 ^ k
  if 2 * r < 2 ^ k then q else if 2 ^ k < 2 * r then q + 1 else if q % 2 = 0 then q else q + 1

/-- IEEE 754 single of `x * 2 ^ -25`, rounded to nearest even; Q7.25 words have at most 32 significant bits. -/
def floatBits (x : Int) : Nat :=
  let sg := if x < 0 then 2 ^ 31 else 0
  let m := x.natAbs
  if m = 0 then 0
  else
    let l := Nat.log2 m
    let frac := if l ≤ 23 then m * 2 ^ (23 - l) else rne (l - 23) m
    sg + (l + 102 - 1) * 2 ^ 23 + frac

-- DESIGN CHOICE, log 15: safe.
/-- A limited sample in the stream format (the table after R128); `d` is the dither in 2^-10 of an output LSB. -/
def wireSample (fmt : Nat) (d x : Int) : List Byte :=
  if fmt = 0 ∨ fmt = 4 then bytesBE 2 ((satTo 16 (roundShift 10 (x + d)) % 65536).toNat)
  else if fmt = 1 ∨ fmt = 5 then bytesBE 3 ((satTo 24 (roundShift 2 x) % 2 ^ 24).toNat)
  else if fmt = 2 then bytesBE 4 ((satTo 32 (x * 64) % 2 ^ 32).toNat)
  else bytesBE 4 (floatBits x)

/-- nsr of R126 by rate code. -/
def nsrOf (rate : Nat) : Nat := [5, 7, 9, 4, 6, 8].getD rate 7

-- PRESUMED, log 45: unsafe.
/-- AAF header of R126. -/
def aafHeader (w : List Word) (st : Stamp) (seq t rate : Nat) : List Byte :=
  let fmt := cFormat w
  bytesBE 1 2 ++ bytesBE 1 (0x81 + (if st.mr then 8 else 0)) ++ bytesBE 1 seq ++ bytesBE 1 (b2n st.tu)
    ++ bytesBE 4 (cw w 0x10).toNat ++ bytesBE 4 (cw w 0x0C).toNat
    ++ bytesBE 4 (avtpTime st.label st.corr (rateHz rate) st.offs)
    ++ bytesBE 1 ([4, 3, 2, 1].getD fmt 1) ++ bytesBE 2 (nsrOf rate * 4096 + cCount w)
    ++ bytesBE 1 ([16, 24, 32, 32].getD fmt 32) ++ bytesBE 2 (payloadOf w t) ++ bytesBE 2 0

/-- One's complement sum of big-endian 16-bit words, folded, for the IPv4 header checksum. -/
def ipSum (ws : List Nat) : Nat :=
  let a := ws.foldl (· + ·) 0
  let b := a % 65536 + a / 65536
  65535 - (b % 65536 + b / 65536)

/-- IPv4, UDP and RTP headers of R127. -/
def rtpHeaders (w : List Word) (src dst : Word) (st : Stamp) (seq t rate : Nat) : List Byte :=
  let pay := payloadOf w t
  let tos := fld (cw w 0x24) 16 6 * 4
  let ttl := fld (cw w 0x24) 8 8
  let len := 40 + pay
  let words := [0x4500 + tos, len, 0, 0x4000, ttl * 256 + 17, src.toNat / 65536, src.toNat % 65536,
    dst.toNat / 65536, dst.toNat % 65536]
  let udp := fld (cw w 0x30) 0 16
  bytesBE 2 (0x4500 + tos) ++ bytesBE 2 len ++ bytesBE 2 0 ++ bytesBE 2 0x4000 ++ bytesBE 2 (ttl * 256 + 17)
    ++ bytesBE 2 (ipSum words) ++ bytesBE 4 src.toNat ++ bytesBE 4 dst.toNat
    ++ bytesBE 2 udp ++ bytesBE 2 udp ++ bytesBE 2 (20 + pay) ++ bytesBE 2 0
    ++ bytesBE 1 0x80 ++ bytesBE 1 (fld (cw w 0x24) 0 7) ++ bytesBE 2 seq
    ++ bytesBE 4 (rtpTime st.label st.corr (rateHz rate) st.offs st.clkofs) ++ bytesBE 4 (cw w 0x0C).toNat

/-- A stream frame for port `p` without its FCS (R125): `pcp` is the class's from MAC_QAV. -/
def streamFrame (v : StxCtx) (c p pcp t rate : Nat) (st : Stamp) (samples : List (List Int)) : List Byte :=
  let w := v.words
  let fmt := cFormat w
  let dst := if p = 0 then fld (cw w 0x18) 0 16 * 2 ^ 32 + (cw w 0x14).toNat
    else fld (cw w 0x20) 0 16 * 2 ^ 32 + (cw w 0x1C).toNat
  let tag := if cVlan w then bytesBE 2 0x8100 ++ bytesBE 2 (pcp * 8192 + fld (cw w 0) 16 12) else []
  let dith (n i : Nat) : Int := if bitAt (cw w 0) 28 then clampI (-1024) 1024 (Config.dither c (st.label + n) i) else 0
  let body := (samples.zipIdx.flatMap (fun row => row.1.zipIdx.flatMap (fun x => wireSample fmt (dith row.2 x.2) x.1)))
  bytesBE 6 dst ++ bytesBE 6 (if p = 0 then v.srcA else v.srcB) ++ tag
    ++ (if cRtp w then bytesBE 2 0x0800 ++ rtpHeaders w (if p = 0 then v.ipA else v.ipB)
          (if p = 0 then cw w 0x28 else cw w 0x2C) st v.seq t rate
        else bytesBE 2 0x22F0 ++ aafHeader w st v.seq t rate) ++ body

/-! ### Egress -/

/-- Frames of a context waiting at a port (R135). -/
def State.waitingAt (s : State) (c p q : Nat) : Nat :=
  ((s.queue p q).filter (fun f => decide (f.ctx = some c))).length

/-- Those of both classes. -/
def State.waitingFrames (s : State) (c p : Nat) : Nat := s.waitingAt c p 2 + s.waitingAt c p 3

/-- Commit a finished packet to one port: discarded while fenced (R137), dropped behind four waiting frames or for want
of siding room (R135), discarded by a port that is down (R91), queued otherwise. -/
def State.stxCommit (s : State) (c : Nat) (st : Stamp) (samples : List (List Int)) (fenced : Bool)
    (full : List (Nat × Nat)) (p : Nat) : State :=
  let v := s.stxOf c
  let q := 2 + cClass v.words
  let pcp := fld (s.macW p (0x30 + 4 * cClass v.words)) 24 3
  let f : TxFrame := { body := streamFrame v c p pcp s.T v.rate st samples, poison := false, ring := 0, slots := [],
                       ctx := some c, ptp := none }
  if fenced then s
  else if !(s.mac p).up then s.enqueue p q f
  else if 4 ≤ s.waitingFrames c p ∨ !s.laneFits p q f.body.length (full.contains (p, q)) then
    (((s.bump (stxCtr c 1)).flag (stxBase c + 0x3C) 0x400).flag 0x30008 0x4).raise 45
  else (s.enqueue p q f).bump (stxCtr c 0)

/-- The next sequence number (R129). -/
def nextSeq (w : List Word) (n : Nat) : Nat := if cRtp w then (n + 1) % 65536 else (n + 1) % 256

/-- A packet of a context has gone: a stop that waited for it takes effect (R133), and of a rate stop one packet less is left
(R134). -/
def State.stxSent (s : State) (c : Nat) (t : Nat) : State :=
  let v := s.stxOf c
  if v.stopping || (!v.run && decide (v.drain ≤ sppOf v.words t)) then s.stxHalt c
  else s.setStx c { v with drain := v.drain - sppOf v.words t }

/-- One sample row of a context at egress: buffered, and the packet committed when it is whole. -/
def State.stxRow (s : State) (c : Nat) (fenced : Bool) (full : List (Nat × Nat)) (row : List Int) : State :=
  let v := s.stxOf c
  let buf := v.buf ++ [row]
  if buf.length < sppOf v.words s.T then s.setStx c { v with buf := buf, skip := v.skip + 1 }
  else
    let t : State := match v.stamps with
      | st :: _ => (s.selPorts v.words).foldl (fun (u : State) p => u.stxCommit c st buf fenced full p) s
      | [] => s
    (t.setStx c { t.stxOf c with
      buf := [], stamps := v.stamps.drop 1, skip := v.skip + 1, seq := nextSeq v.words v.seq }).stxSent c s.T

-- DESIGN CHOICE, log 102: safe.
/-- The word of channel `i` of a context at sample `n` of the two newest gathered blocks (R118, R256): the newer block comes as
the sink delivers it; of the older, a low-delay channel's is the one held from the tick before, and one that a sink skipped on
its way to the low-delay path is open. -/
def State.egressWord (s : State) (c j n : Nat) : Int :=
  if s.T ≤ n then (blockOf s.mix.egress j).getD (n - s.T) 0
  else if !s.mix.low.contains j then (blockOf s.mix.egress j).getD n 0
  else if s.mix.toLow.contains j then clampI (-33554432) 33554432 (Config.skipped c j (s.mix.lab2 + n))
  else (blockOf s.mix.lowHold j).getD n 0

/-- A poisoned sample takes the last good one of its channel (R138); nothing is counted while fenced (R137). -/
def State.stxWord (s : State) (c i n : Nat) (fenced : Bool) (poison : List (Nat × Nat × Nat)) : State × Int :=
  let v := s.stxOf c
  if poison.contains (c, i, n % max 1 s.T) then
    (((if fenced then s else s.bump (stxCtr c 2)).flag (stxBase c + 0x3C) 0x800).flag 0x30008 0x8, sget izero v.last i)
  else
    let x := s.egressWord c (cFirst v.words + i) n
    (s.setStx c { v with last := sset izero v.last i x }, x)

/-- Sample `n` of the two newest gathered blocks reaches a context that has not packed it: it ends a context asked to stop
between packets (R133), or joins the packet in progress. -/
def State.stxSample (s : State) (fenced : Bool) (full : List (Nat × Nat)) (poison : List (Nat × Nat × Nat)) (c n : Nat) :
    State :=
  let v := s.stxOf c
  if n < v.skip ∨ (!v.run ∧ v.drain = 0) then s
  else if v.stopping ∧ v.buf = [] then s.stxHalt c
  else
    let r := (List.range (cCount v.words)).foldl (fun (a : State × List Int) i =>
      let q := a.1.stxWord c i n fenced poison
      (q.1, a.2 ++ [q.2])) (s, [])
    r.1.stxRow c fenced full r.2

/-- A context's egress for one tick: with path offset 2 up to the end of the older of the two newest gathered blocks, with 1 up
to the end of the newer, so that a change of path keeps its packets on their labels (R117, R118). -/
def State.stxEgress (s : State) (fenced : Bool) (full : List (Nat × Nat)) (poison : List (Nat × Nat × Nat)) (c : Nat) :
    State :=
  (List.range ((3 - (s.stxOf c).path) * s.T)).foldl (fun t n => t.stxSample fenced full poison c n) s

/-- Contexts that have packets to send, ascending. -/
def State.stxActive (s : State) : List Nat :=
  (s.stx.ctx.filter (fun p => p.2.run || decide (p.2.drain ≠ 0))).map (fun c => c.1)

/-- Every running context at egress, in ascending number (R119). -/
def State.stxTick (s : State) (fenced : Bool) (full : List (Nat × Nat)) (poison : List (Nat × Nat × Nat)) : State :=
  s.stxActive.foldl (fun t c => t.stxEgress fenced full poison c) s

/-- Every running context at ingress: stamps for the packets that begin in the tick. -/
def State.stxIngress (s : State) : State := s.stxActive.foldl State.stxStamp s

-- DEDUCED, log 57: unsafe.
/-- After a media-position step or the end of a fenced relock the next packet of each context toggles mr (R128). -/
def State.mrMark (s : State) : State :=
  s.stxRunning.foldl (fun t c => t.setStx c.1 { t.stxOf c.1 with mrDue := true }) s

/-- A G9 adoption: path offsets are taken again, and a lag that it takes above the offset is flagged (R118, R123). -/
def State.stxPaths (s : State) : State :=
  s.stxRunning.foldl (fun t c =>
    let a := t.pathOffset 0 (cFirst c.2.words) (cCount c.2.words)
    let u := t.setStx c.1 { t.stxOf c.1 with path := a }
    let short (k : Nat) : Bool := lagExceeds (coffs (t.stxW c.1 8)) c.2.start (sppOf c.2.words t.T) t.T k t.rateHz
    if short a && !short c.2.path then
      ((u.flag (stxBase c.1 + 0x3C) 0x100).flag 0x30008 0x1).raise 45
    else u) s

/-- R136: a class whose slope becomes smaller than its sum is reported by every started context that uses it. -/
def State.resvShort (s old : State) : State :=
  [(0, 0), (0, 1), (1, 0), (1, 1)].foldl (fun t k =>
    if t.stxSum k.1 k.2 ≤ old.shaperSlope k.1 k.2 ∧ t.shaperSlope k.1 k.2 < t.stxSum k.1 k.2 then
      let cs := t.stxRunning.filter (fun c => cPort c.2.words k.1 && decide (cClass c.2.words = k.2))
      ((cs.foldl (fun u c => u.flag (stxBase c.1 + 0x3C) 0x200) t).flag 0x30008 0x2).raise 45
    else t) s

end Sys2Proof.Machine
end

