-- ==== Sys2Proof/Machine/Ptp.lean ====
section
/-! DEFINITION. PTP messages on the ports: what an instance sends and what it makes of what it receives (R45 to R49). -/

namespace Sys2Proof.Machine

/-- A message of an instance on a port as its settings shape it: one-step or two-step, domain and transport, for the UDP
transports the port's first perfect-match address and TIM_IADDR, and the zero checksum of one-step operation over IPv4 (R45,
R46). -/
def State.ptpMsg (s : State) (i p : Nat) (k : PtpKind) (receipt : Int) : PtpMsg :=
  let w := s.icfg i
  { inst := i, port := p, kind := k, stamp := Int.ofNat (4 * (s.inst i).time), receipt := receipt, oneStep := oneStepF w,
    domain := domainF w, transport := transportF w, srcMac := (s.portAddr p).1, srcIp := s.appliedW (icfgAddr i + 0x34),
    csumZero := oneStepF w && decide (transportF w = 1) }

-- PRESUMED, log 20: unsafe.
/-- A message goes into the PTP queue of its port (R92). -/
def State.ptpSend (s : State) (m : PtpMsg) : State :=
  s.enqueue m.port 0 { body := Config.ptpFrame m, poison := false, ring := 0, slots := [], ctx := none, ptp := some m }

/-- Whether a message is an event message, which is timestamped as it starts (R47). -/
def eventKind (k : PtpKind) : Bool :=
  match k with
  | .sync | .pdelayReq | .delayReq | .pdelayResp => true
  | .followUp | .announce .. | .pdelayRespFollowUp | .delayResp => false

/-- What the start of an event message brings: the second message of two-step operation, or a request to be answered. -/
def State.ptpStarted (s : State) (m : PtpMsg) : State :=
  match m.kind with
  | .sync => if m.oneStep then s else s.ptpSend { m with kind := .followUp }
  | .pdelayResp => if m.oneStep then s else s.ptpSend { m with kind := .pdelayRespFollowUp }
  | .pdelayReq | .delayReq => s.setReq m.inst m.port (some m.stamp)
  | .followUp | .announce .. | .pdelayRespFollowUp | .delayResp => s

-- PRESUMED, log 20: unsafe.
/-- A PTP message starts on the wire at an instant: an event message takes the timestamp of that start (R48). -/
def State.ptpStart (s : State) (m : PtpMsg) (x : Instant) : State :=
  let n := if eventKind m.kind then { m with stamp := s.stampAt m.inst m.port false x } else m
  ((s.modMac m.port (fun v => { v with cur := v.cur.map (fun c => { c with frame :=
    { c.frame with body := Config.ptpFrame n, ptp := some n } }) })).emit (.ptp n)).ptpStarted n

/-- A Sync on a master port (R45). -/
def State.syncTx (s : State) (i p : Nat) : State :=
  if s.isMaster i p then s.ptpSend (s.ptpMsg i p .sync 0) else s

/-- An Announce on a master port with the instance's values: priority1 is 255 unless GM_CAPABLE (R49). -/
def State.announceTx (s : State) (i p : Nat) : State :=
  let g := s.appliedW (icfgAddr i + 4)
  let p1 := if gmCapable (s.icfg i) then fld g 0 8 else 255
  if s.isMaster i p then
    s.ptpSend (s.ptpMsg i p (.announce p1 (fld g 8 8) (fld g 16 8) (s.inst i).gmId) 0)
  else s

/-- A path-delay request on a bound port: Pdelay_Req in the peer-to-peer profiles, Delay_Req on the slave port of the
delay request-response profile. -/
def State.delayTx (s : State) (i p : Nat) : State :=
  if instEnabled (s.icfg i) && s.bound i p && (s.mac p).up then
    (if profileF (s.icfg i) ≠ 1 then s.ptpSend (s.ptpMsg i p .pdelayReq 0)
     else if s.portState i p = 3 then s.ptpSend (s.ptpMsg i p .delayReq 0) else s)
  else s

/-- A path-delay request received at an instant: answered by the peer-to-peer profiles on any bound port, and on a master port
by the delay request-response profile, with the time of its receipt. -/
def State.delayAnswer (s : State) (i p : Nat) (x : Instant) : State :=
  let t := s.stampAt i p true x
  if profileF (s.icfg i) ≠ 1 then s.ptpSend (s.ptpMsg i p .pdelayResp t)
  else if s.isMaster i p then s.ptpSend (s.ptpMsg i p .delayResp t) else s

/-- What an instance makes of a message on one of its ports. -/
def State.ptpTake (s : State) (i p : Nat) (x : PtpRx) : State :=
  let t := s.stampAt i p true x.inst
  match x.msg with
  | .sync o ratio =>
    if s.portState i p ≠ 3 then s
    else (match o with
      | some t1 => s.syncTimes i p t1 t ratio x.inst
      | none => s.setInst i { s.inst i with syncIn := some t })
  | .followUp t1 ratio =>
    (match (s.inst i).syncIn with
     | some t2 => if s.portState i p = 3 then s.syncTimes i p t1 t2 ratio x.inst else s
     | none => s)
  | .announce b => s.bmca i b.stateA b.stateB b.gmId b.gmSelf
  | .pdelayResp turn cap => if profileF (s.icfg i) = 1 then s else s.pdelayDone i p turn t cap
  | .delayResp r => if profileF (s.icfg i) = 1 then s.delayDone i p r else s
  | .delayReq => s.delayAnswer i p x.inst
  | .other => s

/-- A PTP message on a port that is up and awake, bound to an enabled instance of its transport and domain (R45, R46, R111). -/
def State.ptpRx (s : State) (p i : Nat) (x : PtpRx) : State :=
  let w := s.icfg i
  if instEnabled w && s.bound i p && (s.mac p).up && !(s.mac p).sleep
      && decide (x.transport = transportF w ∧ x.domain = domainF w) then s.ptpTake i p x
  else s

end Sys2Proof.Machine
end

