-- ==== Sys2Proof/Machine/Dpc.lean ====
section
/-! DEFINITION. The dual-path combiner's merging: recovery windows (R167 to R170), arrival skew (R171), misses (R172) and
path states (R173, R174). -/

namespace Sys2Proof.Machine

def dpcReset (_ : Nat) : DpcCtx :=
  { dual := false, reset := true, h := 0, mapA := 0, mapB := 0, stA := 0, stB := 0, recs := [], skew := 0, skewPkt := 0 }

def State.dpcOf (s : State) (c : Nat) : DpcCtx := sget dpcReset s.dpc.ctx c

def State.setDpc (s : State) (c : Nat) (v : DpcCtx) : State :=
  { s with dpc := { s.dpc with ctx := sset dpcReset s.dpc.ctx c v } }

def dpcBase (c : Nat) : Nat := 0x38100 + 0x10 * c

/-- Counter `k` of context `c`. -/
def dpcCtr (c k : Nat) : Nat := 0x39000 + 0x400 * k + 8 * c

def DpcCtx.path (v : DpcCtx) (p : Nat) : Nat := if p = 0 then v.stA else v.stB

def DpcCtx.setPath (v : DpcCtx) (p st : Nat) : DpcCtx := if p = 0 then { v with stA := st } else { v with stB := st }

/-- A path takes a state; every change is flagged and raised (R173). -/
def State.setPath (s : State) (c p st : Nat) : State :=
  if (s.dpcOf c).path p = st then s
  else (s.setDpc c ((s.dpcOf c).setPath p st)).flagRaise 0x3800C 0x1 49

/-- The DPC_DUAL bit of a context as applied. -/
def State.dualBit (s : State) (c : Nat) : Bool := bitAt (s.appliedW (0x38020 + 4 * (c / 32))) (c % 32)

/-- DPC's part of a context's start: the window in reset and, on a dual-path context, both paths DOWN (R166, R169). -/
def State.dpcStart (s : State) (c fmt : Nat) : State :=
  let d := hasDpc s.member && s.dualBit c && decide (fmt ≤ 5)
  let t := s.setDpc c { dpcReset c with dual := d, stA := (s.dpcOf c).stA, stB := (s.dpcOf c).stB }
  if d then (t.setPath c 0 3).setPath c 1 3 else (t.setPath c 0 0).setPath c 1 0

/-- DPC's part of a context's stop: both paths IDLE. -/
def State.dpcStop (s : State) (c : Nat) : State :=
  let t := s.setDpc c { s.dpcOf c with dual := false }
  (t.setPath c 0 0).setPath c 1 0

-- DEDUCED, log 56: unsafe.
/-- Bits of a map that leave when the window moves up by `d`, and are 0. -/
def missCount (m : BitVec 64) (d : Nat) : Nat :=
  ((List.range 64).filter (fun b => decide (64 ≤ b + d) && !m.getLsbD b)).length + (d - 64)

def DpcCtx.map (v : DpcCtx) (p : Nat) : BitVec 64 := if p = 0 then v.mapA else v.mapB

def DpcCtx.setBit (v : DpcCtx) (p b : Nat) : DpcCtx :=
  if p = 0 then { v with mapA := v.mapA ||| (1#64 <<< b) } else { v with mapB := v.mapB ||| (1#64 <<< b) }

/-- A miss, or a copy out of the window, impairs a HEALTHY path. -/
def State.impair (s : State) (c p : Nat) : State := if (s.dpcOf c).path p = 1 then s.setPath c p 2 else s

/-- Settle the bits that leave both maps when H moves up by `d` (R172). -/
def State.dpcSettle (s : State) (c d : Nat) : State :=
  let v := s.dpcOf c
  let mA := missCount v.mapA d
  let mB := missCount v.mapB d
  let both := missCount (v.mapA ||| v.mapB) d
  let t := (s.countBy (dpcCtr c 6) mA).countBy (dpcCtr c 7) mB
  let u := if 0 < mA then t.impair c 0 else t
  let w := if 0 < mB then u.impair c 1 else u
  if 0 < both then w.flagRaise 0x3800C 0x4 50 else w

-- DEDUCED, log 56: unsafe.
/-- Record an arrival and, when the other path's time is held for the same number, write the skew (R171).  A record whose word is
read uncorrectable is taken as empty (R413), and one of an earlier lap of the numbers gives way to the `first` copy of this one. -/
def State.dpcArrive (s0 : State) (c p x b ns : Nat) (first_ eccBad : Bool) : State :=
  let s := if eccBad then s0.storeBad 1 c [x % 256] else s0
  let v := s.dpcOf c
  let r0 := sget (fun _ => ({ num := 0, a := none, b := none } : DpcRec)) v.recs (x % 256)
  let r := if r0.num = x ∧ !eccBad ∧ !first_ then r0 else { num := x, a := none, b := none }
  let r' : DpcRec := if p = 0 then { r with a := some (r.a.getD ns) } else { r with b := some (r.b.getD ns) }
  let recs := sset (fun _ => ({ num := 0, a := none, b := none } : DpcRec)) v.recs (x % 256) r'
  let first := if p = 0 then r.b.isSome && r.a.isNone else r.a.isSome && r.b.isNone
  let t := s.setDpc c { v with recs := recs }
  match first, r'.a, r'.b with
  | true, some ta, some tb =>
    let d : Int := Int.ofNat tb - Int.ofNat ta
    let u := t.setDpc c { t.dpcOf c with skew := d, skewPkt := if b ≤ 63 then b else (t.dpcOf c).skewPkt }
    let m := max (u.rcW (dpcBase c + 8)).toNat (min d.natAbs (2 ^ 32 - 1))
    let w := u.setRc (dpcBase c + 8) (toWord m)
    let warn := fld (w.appliedW 0x38018) 0 16
    if warn ≠ 0 ∧ warn * 1000 < d.natAbs then ((w.flag (dpcBase c) 0x20).flag 0x3800C 0x2).raise 50 else w
  | _, _, _ => t

-- DEDUCED, log 56: unsafe.
/-- A copy arrives on a path: it counts in RX, and a DOWN path becomes IMPAIRED (R168, R173). -/
def State.dpcSeen (s : State) (c p : Nat) : State :=
  let t := s.bump (dpcCtr c p)
  if (t.dpcOf c).path p = 3 then t.setPath c p 2 else t

/-- One copy with number `x` of range `r` on path `p` (R168): the state, and whether the copy goes on to SRX. -/
def State.dpcCopy (s : State) (c p x r ns : Nat) (eccBad : Bool) : State × Bool :=
  let s1 := s.dpcSeen c p
  let v := s1.dpcOf c
  let d := (x + r - v.h % r) % r
  let b := (r - d) % r
  if v.reset then
    let w : DpcCtx := { v with reset := false, h := x, mapA := 0, mapB := 0 }
    (((s1.setDpc c (w.setBit p 0)).dpcArrive c p x 0 ns true eccBad).bump (dpcCtr c (2 + p)), true)
  else if 1 ≤ d ∧ d < r / 2 then
    let t := s1.dpcSettle c d
    let u := t.dpcOf c
    let w : DpcCtx := { u with h := x, mapA := u.mapA <<< d, mapB := u.mapB <<< d }
    (((t.setDpc c (w.setBit p 0)).dpcArrive c p x 0 ns true eccBad).bump (dpcCtr c (2 + p)), true)
  else if b ≤ 63 then
    let dup := v.mapA.getLsbD b || v.mapB.getLsbD b
    let t := (s1.setDpc c (v.setBit p b)).dpcArrive c p x b ns (!dup) eccBad
    if dup then (t.bump (dpcCtr c 4), false) else (t.bump (dpcCtr c (2 + p)), true)
  else
    ((((s1.dpcArrive c p x b ns false eccBad).impair c p).flag (dpcBase c) 0x20).bump (dpcCtr c 5), false)

-- DEDUCED, log 56: unsafe.
/-- A copy poisoned up to its sequence number is discarded unrecorded (R170). -/
def State.dpcPoison (s : State) (c p : Nat) : State := (s.dpcSeen c p).bump (dpcCtr c 8)

/-- No copy was accepted for RESET ms: the window enters reset (R169). -/
def State.windowReset (s : State) (c : Nat) : State :=
  if (s.dpcOf c).dual && !(s.dpcOf c).reset then
    (s.setDpc c { s.dpcOf c with reset := true }).flag (dpcBase c) 0x10
  else s

/-- No copy on a path for LOSS ms. -/
def State.pathLoss (s : State) (c p : Nat) : State := if (s.dpcOf c).dual then s.setPath c p 3 else s

/-- HEALTH without a miss: an IMPAIRED path is HEALTHY. -/
def State.pathHealthy (s : State) (c p : Nat) : State :=
  if (s.dpcOf c).dual ∧ (s.dpcOf c).path p = 2 then s.setPath c p 1 else s

/-- Started dual-path contexts, ascending. -/
def State.dualCtxs (s : State) : List Nat := (s.dpc.ctx.filter (fun p => p.2.dual)).map (fun p => p.1)

/-- A port going down takes every dual-path path on it DOWN at once (R174). -/
def State.pathsDown (s : State) (p : Nat) : State := s.dualCtxs.foldl (fun t c => t.setPath c p 3) s

end Sys2Proof.Machine
end

