-- ==== Sys2Proof/Machine/Srx.lean ====
section
/-! DEFINITION. Stream reception: starts (R158 to R160), checks (R144, R145), stamps (R146 to R150), the jitter sidings
(R151, R152), sequence numbers (R153), presentation (R154 to R157, R161, R162), conversion and poison (R164, R165). -/

namespace Sys2Proof.Machine

def srxReset (_ : Nat) : SrxCtx :=
  { run := false, presenting := false, gwait := false, stopLeft := none, start := 0, fresh := false, words := [],
    gain := 0, under := false, expect := none, mr := false, rows := [], prevEnd := none, prevCs := 0, prevAdj := 0,
    last := [], margin := 0, seenA := none, seenB := none }

def State.srxOf (s : State) (c : Nat) : SrxCtx := sget srxReset s.srx.ctx c

def State.setSrx (s : State) (c : Nat) (v : SrxCtx) : State :=
  { s with srx := { s.srx with ctx := sset srxReset s.srx.ctx c v } }

def srxBase (c : Nat) : Nat := 0x34100 + 0x40 * c
def srxCtr (c k : Nat) : Nat := 0x36200 + 0x400 * k + 8 * c
def srxStat (c : Nat) : Nat := srxBase c + 0x18

def State.srxWords (s : State) (c : Nat) : List Word := (List.range 6).map (fun i => s.appliedW (srxBase c + 4 * i))

def rFormat (w : List Word) : Nat := fld (cw w 0) 0 3
def rTuDrop (w : List Word) : Bool := bitAt (cw w 0) 4
def rHard (w : List Word) : Bool := bitAt (cw w 0) 5
def rSsrc (w : List Word) : Bool := bitAt (cw w 0) 6
def rSch (w : List Word) : Nat := fld (cw w 0) 8 7
def rGroup (w : List Word) : Nat := fld (cw w 0) 16 5
def rFirst (w : List Word) : Nat := fld (cw w 4) 0 12
def rCount (w : List Word) : Nat := fld (cw w 4) 16 7
def rOffset (w : List Word) : Nat := fld (cw w 4) 24 6
def isCrf (w : List Word) : Bool := decide (rFormat w = 6)

/-- SRX_CADJ of a context, as applied now. -/
def State.srxAdj (s : State) (c : Nat) : Int := sfld (s.appliedW (srxBase c + 8)) 0 16

/-- Depth of the jitter sidings (R151). -/
def jitterDepth (rate : Nat) : Nat := [128, 256, 256, 128, 256, 256].getD rate 256

def State.srxRunning (s : State) : List (Nat × SrxCtx) := s.srx.ctx.filter (fun p => p.2.run)

/-! ### Start and stop -/

/-- Whether the channels of two latched contexts overlap. -/
def channelsMeet (a b : List Word) : Bool :=
  decide (rFirst a < rFirst b + rCount b ∧ rFirst b < rFirst a + rCount a)

/-- The lowest failing start check of R160. -/
def State.srxCause (s : State) (c : Nat) : Nat :=
  let w := s.srxWords c
  let crf := isCrf w
  if rFormat w = 7 then 1
  else if !crf && decide (rSch w = 0 ∨ 64 < rSch w ∨ rCount w = 0 ∨ rSch w < rOffset w + rCount w
      ∨ numChan s.member s.syn.rate < rFirst w + rCount w) then 2
  else if !crf && s.srxRunning.any (fun p => decide (p.1 ≠ c) && !isCrf p.2.words && channelsMeet w p.2.words) then 3
  else if !crf && decide (16 < rGroup w) then 4
  else if (s.srxOf c).run then 5
  else if !s.tt.rateOk then 6
  else 0

def groupReset (_ : Nat) : SrxGroup := { presenting := false, ticks := 0 }

def State.grpOf (s : State) (g : Nat) : SrxGroup := sget groupReset s.srx.grp g

def State.setGrp (s : State) (g : Nat) (v : SrxGroup) : State :=
  { s with srx := { s.srx with grp := sset groupReset s.srx.grp g v } }

/-- Started members of a group, by their latched words. -/
def State.members (s : State) (g : Nat) : List (Nat × SrxCtx) :=
  s.srxRunning.filter (fun p => decide (rGroup p.2.words = g) && !isCrf p.2.words)

/-- A refused start (R160). -/
def State.srxRefuse (s : State) (c k : Nat) : State :=
  ((s.setRc (srxStat c) (merge (s.rcW (srxStat c)) 0xF0 (toWord (put 4 k)))).flag 0x34008 0x20).raise 46

/-- Start context `c` at label `p` (R156, R158, R159). -/
def State.srxStart (s : State) (c p : Nat) : State × Nat :=
  let k := s.srxCause c
  if k ≠ 0 then (s.srxRefuse c k, k)
  else
    let w := s.srxWords c
    let g := if isCrf w then 0 else rGroup w
    let first := decide (g ≠ 0) && decide (s.members g = [])
    let wait := decide (g ≠ 0) && !(s.grpOf g).presenting
    let t := if first then s.setGrp g (groupReset g) else s
    let u := t.setSrx c { srxReset c with
      run := true, presenting := !wait && !isCrf w, gwait := wait, start := p, fresh := true, words := w,
      expect := none }
    (u.dpcStart c (rFormat w), 0)

def State.srxStartRange (s : State) (w : Word) (p : Nat) : State × RangeRes :=
  (rangeList w).foldl (fun a c =>
    let r := a.1.srxStart c p
    (r.1, a.2.add c r.2)) (s, { started := 0, refused := 0, first := 0, cause := 0 })

/-- The context stops now: channels zero, sidings empty; a group whose members have all stopped waits again (R157). -/
def State.srxHalt (s : State) (c : Nat) : State :=
  let v := s.srxOf c
  let g := rGroup v.words
  let t := (s.setSrx c { srxReset c with words := v.words }).dpcStop c
  if g ≠ 0 ∧ t.members g = [] then t.setGrp g (groupReset g) else t

-- DEDUCED, log 59: unsafe.
/-- A stop (R161): the fade over 32 samples begins; a context that presents nothing yet stops the same way. -/
def State.srxStop (s : State) (c : Nat) : State :=
  let v := s.srxOf c
  if v.run ∧ v.stopLeft.isNone then s.setSrx c { v with stopLeft := some 32, gwait := false } else s

-- DEDUCED, log 65: unsafe.
def State.srxStopRange (s : State) (w : Word) : State := (rangeList w).foldl State.srxStop s

/-- The stop fade of a context has ended. -/
def State.srxStopEnd (s : State) (c : Nat) : State :=
  if (s.srxOf c).run ∧ (s.srxOf c).stopLeft = some 0 then s.srxHalt c else s

/-- A house-rate change stops every started context where step 3 begins (R163). -/
def State.srxRateStop (s : State) : State :=
  s.srxRunning.foldl (fun t c => (t.srxHalt c.1).flag (srxStat c.1) 0x2000) s

/-- Underrun begins (R155): state, flag and event. -/
def State.srxUnder (s : State) (c : Nat) : State :=
  if (s.srxOf c).under then s
  else (s.setSrx c { s.srxOf c with under := true }).flagRaise 0x34008 0x4 47

/-- Media position stepped (R162); a context in its stop fade does not enter underrun (R161). -/
def State.srxFlush (s : State) : State :=
  s.srxRunning.foldl (fun t c =>
    let v := t.srxOf c.1
    let u := t.setSrx c.1 { v with rows := [], prevEnd := none, start := min v.start t.tt.now, gain := 0 }
    if v.presenting && v.stopLeft.isNone then u.srxUnder c.1 else u) s

/-! ### Groups at a boundary -/

-- DEDUCED, log 54: unsafe.
/-- Every label of the tick a member is to present is stored. -/
def State.tickStored (s : State) (v : SrxCtx) : Bool :=
  (List.range s.T).all (fun n => decide (s.tt.now + n < v.start) || (v.rows.any (fun r => r.1 == s.tt.now + n)))

/-- The group starts presenting. -/
def State.groupGo (s : State) (g : Nat) : State :=
  (s.members g).foldl (fun t p =>
    if p.2.gwait then t.setSrx p.1 { p.2 with presenting := true, gwait := false, start := max p.2.start s.tt.now } else t)
    (s.setGrp g { presenting := true, ticks := 0 })

/-- One group at a tick boundary (R156); the ticks count from the boundary at which its first member started. -/
def State.groupTick (s : State) (g : Nat) : State :=
  let ms := s.members g
  if ms = [] ∨ (s.grpOf g).presenting then s
  else if ms.all (fun p => s.tickStored p.2) then s.groupGo g
  else if ms.all (fun p => decide (s.tt.now ≤ p.2.start)) then s.setGrp g { s.grpOf g with ticks := 0 }
  else s.setGrp g { s.grpOf g with ticks := (s.grpOf g).ticks + 1 }

-- DEDUCED, log 52: unsafe.
def State.groupsTick (s : State) : State := (List.range 16).foldl (fun t g => t.groupTick (g + 1)) s

/-- WAIT of a group; 0 is adopted as 1. -/
def State.groupWait (s : State) (g : Nat) : Nat := max 1 (fld (s.appliedW (0x34080 + 4 * (g - 1))) 0 8)

-- DEDUCED, log 52: unsafe.
/-- WAIT ticks have passed and the group still waits: it starts anyway (R156). -/
def State.groupTimeout (s : State) (g : Nat) : State :=
  if (s.members g) ≠ [] ∧ !(s.grpOf g).presenting ∧ s.groupWait g ≤ (s.grpOf g).ticks then
    let late := (s.members g).filter (fun p => p.2.gwait && !s.tickStored p.2)
    ((late.foldl (fun t p => t.srxUnder p.1) (s.groupGo g)).flagRaise 0x34008 0x40 48)
  else s

/-! ### Presentation -/

/-- A product of a sample and g, rounded with halves toward plus infinity (R154). -/
def fadeMul (g : Nat) (x : Int) : Int := if g = 32 then x else roundShift 5 (x * Int.ofNat g)

/-- A stored sample row, with the samples an ECC error hits replaced by the last good ones (R165). -/
def rowOut (n : Nat) (last : SMap Int) (bad : List Nat) (r : SrxRow) : List Int :=
  (List.range n).map (fun i => if bad.contains i then sget (fun _ => 0) last i else r.xs.getD i 0)

/-- Samples of a label replaced under R165: each counts, and each is an uncorrectable read of the sample store (R413). -/
def State.srxEcc (s : State) (c l : Nat) (bad : List Nat) : State :=
  if bad = [] then s
  else
    let w := (s.srxOf c).words
    let idx := bad.map (fun i => (rFirst w + i) * jitterDepth s.syn.rate + l % jitterDepth s.syn.rate)
    ((((s.storeBad 0 0 idx).countBy (srxCtr c 6) bad.length).flag (srxStat c) 0x1000).flag 0x34008 0x10)

/-- One label of a presenting context: its channels, after the fade (R154, R155, R161). -/
def State.srxLabel (s : State) (c l : Nat) (bad : List Nat) : State × List Int :=
  let v := s.srxOf c
  let n := rCount v.words
  if !v.presenting ∨ l < v.start then (s, List.replicate n 0)
  else
    let held := (List.range n).map (fun i => sget (fun _ => 0) v.last i)
    match v.rows.find? (fun r => r.1 == l), v.stopLeft with
    | some r, none =>
      let g := if v.fresh && rHard v.words then 32 else min 32 (v.gain + 1)
      let xs := rowOut n v.last bad r.2
      let v' := { v with gain := g, fresh := false, under := false, last := xs.zipIdx.foldl (fun m x => sset (fun _ => 0) m x.2 x.1) v.last }
      ((s.setSrx c v').srxEcc c l bad, xs.map (fadeMul g))
    | none, none =>
      let g := v.gain - 1
      let t := (s.setSrx c { v with gain := g, fresh := false }).srxUnder c
      (t.bump (srxCtr c 3), held.map (fadeMul g))
    | some r, some k =>
      let g := v.gain - 1
      let xs := rowOut n v.last bad r.2
      ((s.setSrx c { v with gain := g, under := false, stopLeft := some (k - 1),
                            last := xs.zipIdx.foldl (fun m x => sset (fun _ => 0) m x.2 x.1) v.last }).srxEcc c l bad,
        xs.map (fadeMul g))
    | none, some k =>
      let g := v.gain - 1
      (s.setSrx c { v with gain := g, stopLeft := some (k - 1) }, held.map (fadeMul g))

-- DEDUCED, log 60: unsafe.
/-- The channels a context presents: none of a CRF context, whose COUNT is ignored (R143). -/
def presented (w : List Word) : Nat := if isCrf w then 0 else rCount w

-- DEDUCED, log 60: unsafe.
/-- One context's block: its channels' samples put under their source codes, and what was gathered dropped. -/
def State.srxGather (s : State) (bad : List (Nat × Nat × Nat)) (src : SMap (List Int)) (c : Nat) :
    State × SMap (List Int) :=
  let v0 := s.srxOf c
  let n := presented v0.words
  let go := (List.range s.T).foldl (fun (a : State × List (List Int)) i =>
    let r := a.1.srxLabel c (s.tt.now + i)
      ((List.range n).filter (fun ch => bad.any (fun b => decide (b = (c, ch, i)))))
    (r.1, a.2 ++ [r.2])) (s, [])
  let v := go.1.srxOf c
  let left := if v.presenting then v.stopLeft else v.stopLeft.map (fun k => k - s.T)
  let t := go.1.setSrx c { v with rows := v.rows.filter (fun r => decide (s.tt.now + s.T ≤ r.1)), stopLeft := left }
  (t, (List.range n).foldl (fun m i =>
    sset (fun _ => []) m (0x1000 + rFirst v0.words + i) (go.2.map (fun xs => xs.getD i 0))) src)

/-- Every started context. -/
def State.srxPresent (s : State) (bad : List (Nat × Nat × Nat)) (src : SMap (List Int)) : State × SMap (List Int) :=
  (s.srxRunning.map (fun p => p.1)).foldl (fun a c => a.1.srxGather bad a.2 c) (s, src)

/-! ### Packets -/

/-- What a stream packet carries once its headers are read: sequence number and range, mr, tu, stamp, octets before its
samples and the octets of its samples. -/
structure Packet where
  seq : Nat
  range : Nat
  mr : Bool
  tu : Bool
  aaf : Bool
  stamp : Nat
  head : Nat
  payload : List Byte
  deriving DecidableEq, Repr

/-- Format and bit depth codes an AAF context accepts (R144). -/
def aafFormatOk (fmt f depth : Nat) : Bool :=
  decide (f = [4, 3, 2, 1].getD fmt 1) &&
    (if fmt = 0 then depth == 16 else if fmt = 1 then depth == 24 else if fmt = 2 then decide (1 ≤ depth ∧ depth ≤ 32)
     else depth == 32)

/-- The samples of a payload of `len` octets are a non-zero multiple, no more than 256 (R144). -/
def payloadOk (sch fmt len : Nat) : Bool :=
  let row := sch * octets fmt
  decide (len ≠ 0) && decide (len % row = 0) && decide (len / row ≤ 256)

-- PRESUMED, log 45: unsafe.
/-- An AAF packet whose AVTP header begins at octet `o` of the frame; none where a check of R144 fails. -/
def aafParse (w : List Word) (rate : Nat) (b : List Byte) (o : Nat) : Option Packet :=
  let h (i n : Nat) : Nat := natBE (slice b (o + i) n)
  let len := h 20 2
  let fmt := rFormat w
  if fmt ≤ 3 ∧ o + 24 ≤ b.length ∧ h 1 1 / 16 % 8 = 0 ∧ h 1 1 % 2 = 1 ∧ aafFormatOk fmt (h 16 1) (h 19 1)
      ∧ h 17 2 / 4096 = nsrOf rate ∧ h 17 2 % 1024 = rSch w ∧ h 22 1 / 16 % 2 = 0
      ∧ payloadOk (rSch w) fmt len ∧ o + 24 + len ≤ b.length then
    some { seq := h 2 1, range := 256, mr := (h 1 1 / 8) % 2 == 1, tu := h 3 1 % 2 == 1, aaf := true, stamp := h 12 4,
           head := o + 24, payload := slice b (o + 24) len }
  else none

-- DEDUCED, log 106: unsafe.
/-- An RTP packet whose IPv4 header begins at octet `o` (R144).  Its payload ends where the UDP length says, and a length that runs
past the frame fails. -/
def rtpParse (w : List Word) (b : List Byte) (o : Nat) : Option Packet :=
  let h (i n : Nat) : Nat := natBE (slice b (o + i) n)
  let ihl := h 0 1 % 16 * 4
  let u := ihl
  let r := u + 8
  let cc := h r 1 % 16
  let x := h r 1 / 16 % 2
  let d0 := r + 12 + 4 * cc
  let d := if x = 1 then d0 + 4 + 4 * h (d0 + 2) 2 else d0
  let stop := u + h (u + 4) 2
  let body := slice b (o + d) (stop - d)
  let pad := if h r 1 / 32 % 2 = 1 then ((body.getLast?).map BitVec.toNat).getD 0 else 0
  let pay := body.take (body.length - pad)
  let fmt := rFormat w
  if (fmt = 4 ∨ fmt = 5) ∧ h 0 1 / 16 = 4 ∧ 20 ≤ ihl ∧ h 9 1 = 17 ∧ h 6 2 % 16384 = 0 ∧ h r 1 / 64 = 2
      ∧ h (r + 1) 1 % 128 = fld (cw w 0x10) 0 7 ∧ (rSsrc w → h (r + 8) 4 = (cw w 0x0C).toNat)
      ∧ o + stop ≤ b.length ∧ payloadOk (rSch w) fmt pay.length then
    some { seq := h (r + 2) 2, range := 65536, mr := false, tu := false, aaf := false, stamp := h (r + 4) 4,
           head := o + d, payload := pay }
  else none

-- PRESUMED, log 45: unsafe.
/-- A CRF packet (R143): AUDIO_SAMPLE, pull 0 and the house rate as base frequency. -/
def crfOk (rate : Nat) (b : List Byte) (o : Nat) : Bool :=
  decide (o + 20 ≤ b.length) && decide (natBE (slice b (o + 3) 1) = 1)
    && decide (natBE (slice b (o + 12) 4) / 2 ^ 29 = 0) && decide (natBE (slice b (o + 12) 4) % 2 ^ 29 = rateHz rate)

/-- A 32-bit float of the wire as a Q7.25 word (R164): to nearest even, saturated; NaN and subnormals give 0. -/
def floatWord (v : Nat) : Int :=
  let e := v / 2 ^ 23 % 256
  let m := v % 2 ^ 23 + 2 ^ 23
  let neg := decide (2 ^ 31 ≤ v)
  if e = 0 then 0
  else if e = 255 then (if v % 2 ^ 23 ≠ 0 then 0 else if neg then -(2 ^ 31) else 2 ^ 31 - 1)
  else
    let a := if 125 ≤ e then m * 2 ^ (e - 125) else rne (125 - e) m
    satTo 32 (if neg then -(Int.ofNat a) else Int.ofNat a)

/-- One sample of the wire (R164). -/
def wireWord (fmt : Nat) (bs : List Byte) : Int :=
  let v := natBE bs
  if fmt = 0 ∨ fmt = 4 then signed 16 v * 2 ^ 10
  else if fmt = 1 ∨ fmt = 5 then signed 24 v * 4
  else if fmt = 2 then asr 6 (signed 32 v + 32)
  else floatWord v

/-- Indices of 64-bit siding words that hold octets `o` to `o + n - 1`. -/
def wordsHit (poison : List Nat) (o n : Nat) : Bool := poison.any (fun k => decide (8 * k < o + n ∧ o < 8 * k + 8))

/-- The samples of a context from a packet, by label, with the number of poisoned ones replaced (R165). -/
def packetRows (w : List Word) (last : SMap Int) (poison : List Nat) (k : Packet) : List (List Int) × Nat :=
  let fmt := rFormat w
  let n := octets fmt
  let count := k.payload.length / (rSch w * n)
  (List.range count).foldl (fun (a : List (List Int) × Nat) i =>
    let row := (List.range (rCount w)).map (fun ch =>
      let o := (i * rSch w + rOffset w + ch) * n
      if wordsHit poison (k.head + o) n then (sget (fun _ => 0) last ch, 1) else (wireWord fmt (slice k.payload o n), 0))
    (a.1 ++ [row.map (fun x => x.1)], a.2 + row.foldl (fun z x => z + x.2) 0)) ([], 0)

/-- The value congruent to `v` modulo 2^32 nearest to `near` (R146, R147). -/
def extend32 (near v : Nat) : Int :=
  let b := near / 2 ^ 32 * 2 ^ 32 + v % 2 ^ 32
  if b + 2 ^ 31 < near then Int.ofNat (b + 2 ^ 32) else if near + 2 ^ 31 < b then Int.ofNat b - 2 ^ 32 else Int.ofNat b

/-- Presentation position of a packet's first sample (R146 to R148) at whole position `m`. -/
def presentAt (rate : Nat) (aaf : Bool) (ofs : Word) (m stamp : Nat) (cs adj : Int) : Int :=
  if aaf then
    let e := extend32 (m * 1000000000 / rateHz rate) stamp
    (e * Int.ofNat (rateHz rate) + 999999999) / 1000000000 - cs + adj
  else extend32 m ((stamp + 2 ^ 32 - ofs.toNat) % 2 ^ 32) - cs + adj

/-- R153. -/
def State.srxSequence (s : State) (c : Nat) (k : Packet) : State :=
  let v := s.srxOf c
  let next := some ((k.seq + 1) % k.range)
  match v.expect with
  | none => s.setSrx c { v with expect := next, mr := k.mr }
  | some e =>
    let d := (k.seq + k.range - e) % k.range
    if k.aaf ∧ k.mr ≠ v.mr then s.setSrx c { v with expect := next, mr := k.mr }
    else if d < k.range / 2 then (s.setSrx c { v with expect := next, mr := k.mr }).countBy (srxCtr c 4) d
    else s.setSrx c { v with mr := k.mr }

/-- Add to OMIT and REPEAT, both saturating (R149). -/
def State.srxSlew (s : State) (c om rep : Nat) : State :=
  let w := s.rcW (srxBase c + 0x2C)
  s.setRc (srxBase c + 0x2C)
    (toWord (min 65535 (fld w 0 16 + om) + put 16 (min 65535 (fld w 16 16 + rep))))

-- DEDUCED, log 55: safe.
/-- The label a packet leaves empty behind its predecessor is filled, when it is exactly one and c changed (R149). -/
def State.srxFill (s : State) (c q m : Nat) (cs adj : Int) : State :=
  let v := s.srxOf c
  match v.prevEnd with
  | some e =>
    if q = e + 1 ∧ v.prevCs ≠ cs ∧ v.prevAdj = adj ∧ m < e then
      let xs := match v.rows.find? (fun r => r.1 + 1 == e) with
        | some r => r.2.xs
        | none => (List.range (rCount v.words)).map (fun i => sget (fun _ => 0) v.last i)
      let rows := sset (fun _ => ({ cs := 0, adj := 0, xs := [] } : SrxRow)) v.rows e { cs := v.prevCs, adj := adj, xs := xs }
      (s.setSrx c { v with rows := rows }).srxSlew c 0 1
    else s
  | none => s

-- PRESUMED, log 45: unsafe.
/-- A reference update of a receive context waits for the servo where MCR follows that context in `mode` (R143): its phase error is
its target less media position, in grains. -/
def State.ctxUpdate (s : State) (mode c : Nat) (target : Int) (grains : Nat) : State :=
  if s.mcrMode = mode ∧ fld (s.appliedW 0x24000) 8 7 = c then
    s.modMcr (fun m => { m with updates := m.updates ++ [{ src := c, phase := target - Int.ofNat (s.tt.now * 65536 + grains) }] })
  else s

-- DEDUCED, log 53: unsafe.
/-- A checked packet is stored, and is an update with target Q where MCR follows its context (R143), or it is discarded as late or
early (R149, R150, R152). -/
def State.srxStore (s : State) (c : Nat) (k : Packet) (grains : Nat) (poison : List Nat) : State :=
  let v0 := s.srxOf c
  let m := s.tt.now + grains / 65536
  let cs := roundAway s.corrGrains
  let adj := s.srxAdj c
  let q := presentAt s.syn.rate k.aaf (cw v0.words 0x14) m k.stamp cs adj
  let rows := packetRows v0.words v0.last poison k
  let n := rows.1.length
  let depth := jitterDepth s.syn.rate
  if q ≤ Int.ofNat m then
    (((s.bump (srxCtr c 1)).flag (srxStat c) 0x200).flag 0x34008 0x1).raise 48
  else if Int.ofNat (m + depth) - 2 * Int.ofNat s.T ≤ q + Int.ofNat n - 1 then
    ((s.bump (srxCtr c 2)).flag (srxStat c) 0x400).flag 0x34008 0x2
  else
    let qn := q.toNat
    let t := s.srxFill c qn m cs adj
    let v := t.srxOf c
    let om := (List.range n).foldl (fun z i =>
      match v.rows.find? (fun r => r.1 == qn + i) with
      | some r => if r.2.cs ≠ cs ∧ r.2.adj = adj then z + 1 else z
      | none => z) 0
    let stored := rows.1.zipIdx.foldl (fun r x =>
      sset (fun _ => ({ cs := 0, adj := 0, xs := [] } : SrxRow)) r (qn + x.2) { cs := cs, adj := adj, xs := x.1 }) v.rows
    let mar := ((q * 65536 - Int.ofNat (s.tt.now * 65536 + grains)) * 1000000000) / Int.ofNat (s.rateHz * 65536)
    let u := t.setSrx c { v with rows := stored, prevEnd := some (qn + n), prevCs := cs, prevAdj := adj, margin := mar }
    let lo := if mar < (u.rcW (srxBase c + 0x20)).toInt then u.setRc (srxBase c + 0x20) (satWord mar) else u
    let w := ((lo.srxSlew c om 0).bump (srxCtr c 0)).ctxUpdate 2 c (q * 65536) grains
    if rows.2 = 0 then w else ((w.countBy (srxCtr c 6) rows.2).flag (srxStat c) 0x1000).flag 0x34008 0x10

-- DEDUCED, log 55: safe.
/-- A packet that fails a check (R144). -/
def State.srxBad (s : State) (c : Nat) : State := ((s.bump (srxCtr c 5)).flag (srxStat c) 0x800).flag 0x34008 0x8

/-- Where a classified stream frame carries its packet: 0 AAF, 1 CRF, 2 RTP, and the octet its header begins at. -/
structure StreamHit where
  typ : Nat
  off : Nat
  deriving DecidableEq, Repr

/-- A packet discarded for a poisoned word (R165). -/
def State.srxPoison (s : State) (c : Nat) : State := ((s.bump (srxCtr c 6)).flag (srxStat c) 0x1000).flag 0x34008 0x10

-- PRESUMED, log 45: unsafe.
/-- The timestamps of a CRF packet in ns (IEEE 1722): eight octets each behind its header, as its length field says. -/
def crfStamps (b : List Byte) (o : Nat) : List Nat :=
  (List.range (min (natBE (slice b (o + 16) 2)) (b.length - (o + 20)) / 8)).map (fun i => natBE (slice b (o + 20 + 8 * i) 8))

/-- A packet for a CRF context: every timestamp of an accepted one goes to MCR (R143). -/
def State.crfPacket (s : State) (c : Nat) (h : StreamHit) (b : List Byte) (grains : Nat) (poison : List Nat) : State :=
  if poison ≠ [] then s.srxPoison c
  else if h.typ = 1 ∧ crfOk s.syn.rate b h.off then
    (crfStamps b h.off).foldl (fun t ns => t.ctxUpdate 1 c (Int.ofNat (posOfTime t.rateHz ns)) grains) s
  else s.srxBad c

/-- The octet behind the headers of a packet that cannot be read further: AVTP's 24, or IPv4, UDP and RTP without its extras. -/
def headEnd (h : StreamHit) (b : List Byte) : Nat :=
  if h.typ = 2 then h.off + natBE (slice b h.off 1) % 16 * 4 + 20 else h.off + 24

-- DEDUCED, log 54: unsafe.
/-- A frame that reaches a started context (R143 to R145, R152, R153, R165). -/
def State.srxPacket (s : State) (c : Nat) (h : StreamHit) (b : List Byte) (grains : Nat) (poison : List Nat) : State :=
  let v := s.srxOf c
  let w := v.words
  if isCrf w then s.crfPacket c h b grains poison
  else
    let k := if h.typ = 0 then aafParse w s.syn.rate b h.off else if h.typ = 2 then rtpParse w b h.off else none
    match k with
    | none =>
      if wordsHit poison 0 (headEnd h b) then s.srxPoison c else s.srxBad c
    | some k =>
      if wordsHit poison 0 k.head then s.srxPoison c
      else
        let t := if k.tu then s.flag (srxStat c) 0x100 else s
        if k.tu ∧ rTuDrop w then t.bump (srxCtr c 5)
        else (t.srxSequence c k).srxStore c k grains poison

/-- The sequence number and range DPC reads from a copy before SRX checks it (R170), with the octet after it. -/
def copySeq (h : StreamHit) (b : List Byte) : Nat × Nat × Nat :=
  if h.typ = 2 then
    let r := h.off + natBE (slice b h.off 1) % 16 * 4 + 8
    (natBE (slice b (r + 2) 2), 65536, r + 4)
  else (natBE (slice b (h.off + 2) 1), 256, h.off + 3)

/-- A stream frame from port `p` for context `c`: through DPC where it is dual-path, then SRX (R161, R166 to R170). -/
def State.srxFrame (s : State) (c p : Nat) (h : StreamHit) (b : List Byte) (grains ns : Nat) (poison : List Nat)
    (eccRec : Bool) : State :=
  let v := s.srxOf c
  if !v.run ∨ v.stopLeft.isSome then s
  else
    let v' := if p = 0 then { v with seenA := some ns } else { v with seenB := some ns }
    let s0 := { s with dpc := { s.dpc with clock := max s.dpc.clock ns } }.setSrx c v'
    if (s.dpcOf c).dual ∧ h.typ ≠ 1 then
      let q := copySeq h b
      if wordsHit poison 0 q.2.2 then s0.dpcPoison c p
      else
        let r := s0.dpcCopy c p q.1 q.2.1 ns eccRec
        if r.2 then r.1.srxPacket c h b grains poison else r.1
    else s0.srxPacket c h b grains poison

end Sys2Proof.Machine
end

