-- ==== Sys2Proof/Machine/Sdg.lean ====
section
/-! DEFINITION. The mailboxes (R192, R193), flushes (R194, R195), poison counts of the sidings (R190) and the reports of
the sample store (R413). -/

namespace Sys2Proof.Machine

def mboxReset (_ : Nat) : Mailbox :=
  { items := [], begun := false, writing := [], trim := 0, flushing := false, last := 0, lastEnd := false }

def State.mboxOf (s : State) (n : Nat) : Mailbox := sget mboxReset s.mbox n

def State.setMbox (s : State) (n : Nat) (v : Mailbox) : State := { s with mbox := sset mboxReset s.mbox n v }

def sdgBase (n : Nat) : Nat := 0x40100 + 0x40 * n
def sdgStat (n : Nat) : Nat := sdgBase n + 0x08
def sdgCtr (n c : Nat) : Nat := 0x41000 + 0x20 * n + 8 * c

/-- Items the consumer sees: none from the order of a flush, but for one it has begun to read (R194, R195). -/
def Mailbox.visible (v : Mailbox) : List (List Word) :=
  if v.flushing then (if v.begun then v.items.take 1 else []) else v.items

def Mailbox.isEmpty (v : Mailbox) : Bool := v.visible.all (fun i => i.isEmpty)

/-- Words a mailbox holds: 4 KiB of 32-bit words is 1024. -/
def Mailbox.held (v : Mailbox) : Nat := v.items.foldl (fun n i => n + i.length) 0 + v.writing.length

def mboxWords : Nat := 1024

/-- Siding `n` delivered `k` poisoned words on lane `l` (R190). -/
def State.sdgPoison (s : State) (n l k : Nat) : State :=
  if k = 0 then s
  else (((s.countBy (sdgCtr n 0) k).flag (sdgStat n) (0x2 + 2 ^ (8 + l)))).flag 0x40000 (2 ^ n)

/-- A packet of siding `n` was declared oversize, `k` of its words discarded (R189). -/
def State.sdgOversize (s : State) (n k : Nat) : State :=
  ((((s.bump (sdgCtr n 1)).countBy (sdgCtr n 3) k).flag (sdgStat n) 0x4)).flag 0x40004 (2 ^ n)

/-- A packet of siding `n` was rewound (R188). -/
def State.sdgRewind (s : State) (n : Nat) : State := s.bump (sdgCtr n 2)

/-- Whether the management core's item for the host is complete: MGT_MSG (source 11). -/
def State.mailSignal (s : State) (n : Nat) : State := if n = 29 ∨ n = 31 then s.raise 11 else s

-- DEDUCED, log 32: unsafe.
/-- Append a word to the open item (R192, R193). -/
def State.mboxAppend (s : State) (n : Nat) (w : Word) (ends : Bool) : State :=
  let v := s.mboxOf n
  if v.trim ≠ 0 then
    let t := (s.setMbox n { v with trim := if ends then 0 else v.trim }).bump (sdgCtr n 3)
    if v.trim = 2 then t.flag (sdgStat n) 0x8 else t
  else if mboxWords ≤ v.held then
    ((s.setMbox n { v with writing := [], trim := if ends then 0 else 1 }).bump (sdgCtr n 3)).flag (sdgStat n) 0x20
  else if ends then (s.setMbox n { v with items := v.items ++ [v.writing ++ [w]], writing := [] }).mailSignal n
  else s.setMbox n { v with writing := v.writing ++ [w] }

-- DEDUCED, log 32: unsafe.
/-- Take one word (R192): the word returned and the state after; an empty mailbox returns the word read last. -/
def State.mboxTake (s : State) (n : Nat) : Word × State :=
  let v := s.mboxOf n
  match v.visible with
  | (w :: rest) :: _ =>
    let items := if rest = [] then v.items.drop 1 else rest :: v.items.drop 1
    (w, s.setMbox n { v with items := items, begun := decide (rest ≠ []), last := w, lastEnd := decide (rest = []) })
  | _ => (v.last, s.flag (sdgStat n) 0x10)

-- DEDUCED, log 104: unsafe.
/-- The check of the word just taken (R190, R414): a word that fails parity is delivered as stored and counted; one whose two end
marks disagree is taken as an end mark too, so that its item arrives as two. -/
def State.mboxCheck (s before : State) (n : Nat) (parity marks : Bool) : State :=
  if s.mboxOf n = before.mboxOf n ∨ !(parity || marks) then s
  else
    let v := s.mboxOf n
    (if marks then s.setMbox n { v with begun := false, lastEnd := true } else s).sdgPoison n 0 1

/-- A flush is ordered; none begins while one runs (R194). -/
def State.mboxFlush (s : State) (n : Nat) : State :=
  if 28 ≤ n ∧ n < 32 then s.setMbox n { s.mboxOf n with flushing := true } else s

/-- The flush takes effect in the producer's domain (R194, R195). -/
def State.mboxFlushed (s : State) (n : Nat) : State :=
  let v := s.mboxOf n
  if v.flushing then
    s.setMbox n { v with items := if v.begun then v.items.take 1 else [], writing := [], flushing := false,
                         trim := if v.trim = 0 ∧ v.writing = [] then 0 else 2 }
  else s

/-- All four mailboxes are flushed (R231). -/
def State.mboxFlushAll (s : State) : State :=
  [28, 29, 30, 31].foldl (fun t n => (t.mboxFlush n).mboxFlushed n) s

end Sys2Proof.Machine
end

