-- ==== Sys2Proof/Machine/Rng.lean ====
section
/-! DEFINITION. The ring engine: indices and doorbells (R201 to R204), completions and signals (R205 to R207, R225),
halts and their runs (R232 to R237), frame transmission (R210, R211) and host audio (R215 to R224, R236). -/

namespace Sys2Proof.Machine

def ringReset (_ : Nat) : Ring :=
  { st := .disabled, pi := 0, ci := 0, cpi := 0, cci := 0, phase := true, fetched := 0, slots := [], fault := none,
    pfault := 0, window := false, abandonTo := none, restart := false, disabling := false, started := false,
    skip := 0, stopReq := false, slices := [], feed := [], unsig := 0, waiting := false, lastGood := [] }

def State.ringOf (s : State) (p : Nat) : Ring := sget ringReset s.ring p

def State.setRing (s : State) (p : Nat) (r : Ring) : State := { s with ring := sset ringReset s.ring p r }

def State.modRing (s : State) (p : Nat) (f : Ring → Ring) : State := s.setRing p (f (s.ringOf p))

def ringBase (p : Nat) : Nat := 0x8100 + 0x40 * p
def ringStat (p : Nat) : Nat := ringBase p + 0x24
def ringCtr (p c : Nat) : Nat := 0x9000 + 0x20 * p + 8 * c
def ringFull (p : Nat) : Nat := 0x9800 + 8 * p

/-- Ring class: 0 CMD, 1 FTX, 2 FRX, 3 FEED, 4 DRAW; also its event source (R403). -/
def ringClass (p : Nat) : Nat := if p = 0 then 0 else if p < 9 then 1 else if p < 17 then 2 else if p < 33 then 3 else 4

def State.ringN (s : State) (p : Nat) : Nat := 2 ^ fld (s.rwW (ringBase p + 0x10)) 0 5

def State.ringEn (s : State) (p : Nat) : Bool := bitAt (s.rwW (ringBase p + 0x10)) 8

/-- Slots from index `a` up to index `b`. -/
def ringDist (n a b : Nat) : Nat := (b + n - a % n) % n

/-! ### Enable, disable and doorbells -/

-- DEDUCED, log 37: unsafe.
/-- EN = 1 written to a disabled ring (R202). -/
def State.ringEnable (s : State) (p : Nat) : State := s.setRing p { ringReset p with st := .running, pfault := (s.ringOf p).pfault }

/-- The ring reads disabled. -/
def State.ringOff (s : State) (p : Nat) : State :=
  let t := if p = 0 then { s with cmd := none } else s
  t.setRing p { ringReset p with pfault := (s.ringOf p).pfault }

/-- Frames of ring `p` that wait in its lane, withdrawn. -/
def dropFrames (p : Nat) (q : SMap (List TxFrame)) : SMap (List TxFrame) :=
  q.foldl (fun m x => sset (fun _ => []) m x.1 (x.2.filter (fun f => !(decide (f.slots ≠ []) && decide (f.ring = p))))) q

/-- EN = 0 written (R202, R237, R242): a hard-stopped ring is disabled at once, another runs out. -/
def State.ringDisable (s : State) (p : Nat) : State :=
  let r := s.ringOf p
  match r.st with
  | .disabled => s
  | .hardstop => s.ringOff p
  | _ =>
    let a := (s.modMac 0 (fun m => { m with queues := dropFrames p m.queues })).modMac 1
      (fun m => { m with queues := dropFrames p m.queues })
    if r.ci = r.pi ∧ r.fault.isNone then a.ringOff p
    else a.setRing p { r with disabling := true, started := false, feed := [] }

/-- A discarded doorbell (R203). -/
def State.dbErr (s : State) (p : Nat) : State :=
  ((s.flag (ringStat p) 0x8).flag (0x8018 + 4 * (p / 32)) (2 ^ (p % 32))).raise 8

/-- A PI doorbell (R203, R204, R234). -/
def State.doorbellPi (s : State) (p : Nat) (w : Word) : State :=
  let r := s.ringOf p
  let n := s.ringN p
  let v := fld w 0 16
  if r.st = .disabled ∨ v = r.pi then s
  else if n ≤ v ∨ n - 1 - ringDist n r.ci r.pi < ringDist n r.pi v then s.dbErr p
  else s.setRing p { r with pi := v }

/-- A CCI doorbell. -/
def State.doorbellCci (s : State) (p : Nat) (w : Word) : State :=
  let r := s.ringOf p
  let n := s.ringN p
  let v := fld w 0 16
  if r.st = .disabled ∨ v = r.cci then s
  else if n ≤ v ∨ ringDist n r.cci r.cpi < ringDist n r.cci v then s.dbErr p
  else s.setRing p { r with cci := v, waiting := false }

/-! ### Slots -/

def Desc.word (d : Desc) (i : Nat) : Word := d.dw.getD i 0
def Desc.tag (d : Desc) : Nat := fld (d.word 0) 16 16
def Desc.addr (d : Desc) (i : Nat) : Nat := (d.word i).toNat + (d.word (i + 1)).toNat * 2 ^ 32

def cplOf (tag status detail : Nat) (r0 r1 : Word) (flags : Nat) : Cpl :=
  { tag := tag, status := status, detail := detail, r0 := r0, r1 := r1, flags := flags }

/-- Give the slot numbered `i` its outcome, unless it has one. -/
def Ring.finish (r : Ring) (i : Nat) (c : Nat → Cpl) : Ring :=
  { r with slots := r.slots.map (fun x => if x.desc.slot = i ∧ x.done.isNone then { x with done := some (c x.desc.tag) } else x) }

def State.finish (s : State) (p i status detail : Nat) (r0 r1 : Word) (flags : Nat) : State :=
  s.modRing p (fun r => r.finish i (fun tag => cplOf tag status detail r0 r1 flags))

/-- Whether a ring may still act on slot `i`: running, or halted with the fault behind it in ring order (R232). -/
def State.slotLive (s : State) (p i : Nat) : Bool :=
  let r := s.ringOf p
  match r.st, r.fault with
  | .running, _ => !r.disabling
  | .halted, some f => decide (ringDist (s.ringN p) r.ci i < ringDist (s.ringN p) r.ci f.slot) && !r.disabling
  | _, _ => false

/-- Completion slots released and not owed to a descriptor whose outcome is known (R205). -/
def State.cplFree (s : State) (p : Nat) : Nat :=
  let r := s.ringOf p
  s.ringN p - 1 - ringDist (s.ringN p) r.cci r.cpi - (r.slots.filter (fun x => x.done.isSome)).length

/-- Buffers posted and not yet taken, oldest first, as many as the completion ring has room for: with no room a frame waits and
a block finds no buffer (R205). -/
def State.buffers (s : State) (p : Nat) : List Slot :=
  ((s.ringOf p).slots.filter (fun x => x.done.isNone && s.slotLive p x.desc.slot)).take (s.cplFree p)

/-! ### Completions -/

/-- The 16 bytes of a completion entry (R206). -/
def cplBytes (c : Cpl) (sqHead : Nat) (phase : Bool) : List Byte :=
  bytesLE (toWord (c.tag + put 16 c.status + put 24 (c.detail % 256))) ++ bytesLE c.r0 ++ bytesLE c.r1
    ++ bytesLE (toWord (sqHead + put 16 c.flags + putb 31 phase))

/-- The completion ring has room (R205). -/
def State.cplRoom (s : State) (p : Nat) : Bool :=
  let r := s.ringOf p
  decide (ringDist (s.ringN p) r.cci r.cpi < s.ringN p - 1)

/-- A ring signals (R225): its vector with MSI-X enabled, else its IPEND bit, and the event source of its class. -/
def State.ringSignal (s : State) (p : Nat) : State :=
  let t := s.modRing p (fun r => { r with unsig := 0 })
  let u := if t.msixEn then t.msgDue (fld (t.rwW (ringBase p + 0x1C)) 0 5)
    else t.flag (0x8010 + 4 * (p / 32)) (2 ^ (p % 32))
  u.raise (ringClass p)

/-- Write one completion entry and move CI and CPI on; `poison` is the tag of a word read from lane 1 (R414). -/
def State.writeCpl (s : State) (p : Nat) (c : Cpl) (poison : Bool) : State :=
  let r := s.ringOf p
  let n := s.ringN p
  let ci := (r.ci + 1) % n
  let base := (s.rwW (ringBase p + 8)).toNat + (s.rwW (ringBase p + 0xC)).toNat * 2 ^ 32
  let cpi := (r.cpi + 1) % n
  let t := s.emit (.host (base + 16 * r.cpi) (cplBytes c ci r.phase) (poison && bitAt (s.appliedW 0x8000) 0))
  let u := t.setRing p { r with
    ci := ci, cpi := cpi, phase := if cpi = 0 then !r.phase else r.phase, unsig := r.unsig + 1,
    slots := r.slots.filter (fun x => decide (x.desc.slot ≠ r.ci)), waiting := false }
  let v := u.bump (ringCtr p 0)
  let w := if poison then (v.bump (ringCtr p 3)).sdgPoison 7 1 1 else v
  let q := w.rwW (ringBase p + 0x1C)
  if bitAt q 7 ∧ max 1 (fld q 8 8) ≤ (w.ringOf p).unsig then w.ringSignal p else w

/-- Whether a frame of ring `p` with slot `i` is in transmission. -/
def State.inFlight (s : State) (p i : Nat) : Bool :=
  [s.macA, s.macB].any (fun m => (m.cur.toList ++ m.rem.toList).any (fun c => decide (c.frame.ring = p) && c.frame.slots.contains i))

/-- The run of R233 has ended: a waiting RESTART or disable acts. -/
def State.runEnd (s : State) (p : Nat) : State :=
  let r := s.ringOf p
  match r.abandonTo with
  | none => s
  | some e =>
    if r.ci ≠ e then s
    else
      let t := s.setRing p { r with abandonTo := none }
      if r.disabling then (if r.ci = r.pi then t.ringOff p else t.setRing p { r with abandonTo := some r.pi })
      else if r.restart then t.setRing p { r with abandonTo := none, restart := false, st := .running, slots := [], fetched := r.ci }
      else t

/-- The next completion of a ring, where its order and the completion ring allow one (R205, R232, R233, R202). -/
def State.completionWrite (s : State) (p : Nat) (poison : Bool) : State :=
  let r := s.ringOf p
  let head := r.slots.find? (fun x => decide (x.desc.slot = r.ci))
  let tag := match head with | some x => x.desc.tag | none => 0
  let abandoned := cplOf tag 0x0D 0 0 0 0
  let next : Option (Cpl × Bool) :=
    if r.st = .disabled ∨ r.st = .hardstop then none
    else match r.fault with
      | some f =>
        if r.ci = f.slot then
          some (match head with | some x => x.done.getD (cplOf tag f.status f.detail 0 0 0) | none => cplOf 0 f.status f.detail 0 0 0, true)
        else
          match head with
          | some x =>
            (match x.done with
             | some c => some (c, false)
             | none => if r.disabling && !s.inFlight p r.ci then some (abandoned, false) else none)
          | none => none
      | none =>
        if r.abandonTo.isSome then
          some (match head with
            | some x => (match x.done with | some c => if c.status = 0x0B ∨ c.status = 0x0C then c else abandoned | none => abandoned)
            | none => abandoned, false)
        else match head with
          | some x =>
            (match x.done with
             | some c => some (c, false)
             | none => if r.disabling && !s.inFlight p r.ci then some (abandoned, false) else none)
          | none => if r.disabling && decide (r.ci ≠ r.pi) then some (abandoned, false) else none
  match next with
  | none => s
  | some (c, isFault) =>
    if !s.cplRoom p then
      (if r.waiting then s else (s.setRing p { r with waiting := true }).bump (ringFull p))
    else
      let t := s.writeCpl p c poison
      let u := if p = 0 then { t with cmd := none } else t
      let v :=
        if isFault then
          (u.modRing p (fun x => { x with fault := none, abandonTo := some x.pi })).raise 9
        else if r.st = .running ∧ r.window then u.modRing p (fun x => { x with window := false })
        else u
      let w := v.runEnd p
      if (w.ringOf p).disabling ∧ (w.ringOf p).abandonTo.isNone ∧ (w.ringOf p).ci = (w.ringOf p).pi then w.ringOff p
      else w

/-! ### Faults -/

/-- A ring halts on a fault: what lies from the faulting slot on acts no more, and what a fault first recorded there had
decided falls (R232, R236). -/
def Ring.halt (r : Ring) (n : Nat) (f : RingFault) : Ring :=
  let live (i : Nat) : Bool := decide (ringDist n r.ci i < ringDist n r.ci f.slot)
  { r with
    st := .halted, fault := some f, pfault := toWord (f.slot + put 16 f.status), window := true,
    feed := r.feed.filter (fun b => decide (b.words = []) || live b.slot),
    slots := r.slots.map (fun x =>
      if live x.desc.slot then x
      else match x.done with
        | some c => if c.status = 0x0B ∨ c.status = 0x0C then { x with done := none } else x
        | none => x) }

/-- A second fault in the window (R237): the ring does no more work, and what it holds in the sidings goes. -/
def State.ringHardstop (s : State) (p : Nat) (f : RingFault) : State :=
  let a := (s.modMac 0 (fun m => { m with queues := dropFrames p m.queues })).modMac 1
    (fun m => { m with queues := dropFrames p m.queues })
  (a.modRing p (fun r => { r with st := .hardstop, pfault := toWord (f.slot + put 16 f.status), feed := [] })).raise 9

/-- A read of a ring failed (R232, R237).  While it is halted only a part that comes earlier in the ring's order, or in the data
of the faulting slot, takes the fault's place. -/
def State.ringFault (s : State) (p : Nat) (f : RingFault) : State :=
  let r := s.ringOf p
  let n := s.ringN p
  match r.st, r.fault with
  | .running, _ => if r.window then s.ringHardstop p f else s.setRing p (r.halt n f)
  | .halted, some g =>
    if ringDist n r.ci f.slot < ringDist n r.ci g.slot then s.setRing p (r.halt n f)
    else if f.slot = g.slot ∧ f.off < g.off then s.setRing p { r with fault := some { g with detail := f.detail, off := f.off } }
    else s
  | _, _ => s

/-- An error completion (UR or CA) shows in PCI_FLAGS.CPL_ERR and raises PCI_ERR. -/
def State.cplErr (s : State) (cause : Nat) : State := if cause = 1 ∨ cause = 2 then s.flagRaise 0x7008 0x8 15 else s

def ftxSof (d : Desc) : Bool := bitAt (d.word 0) 0
def ftxEof (d : Desc) : Bool := bitAt (d.word 0) 1
def ftxLen (d : Desc) : Nat := fld (d.word 1) 0 14

/-- The run of descriptors around slot `i` of an FTX ring, from its SOF up to its EOF or the last fetched (R210). -/
def ftxRun (slots : List Slot) (i : Nat) : List Slot :=
  let upto := slots.takeWhile (fun x => decide (x.desc.slot ≠ i))
  let rest := slots.dropWhile (fun x => decide (x.desc.slot ≠ i))
  let before := (upto.reverse.takeWhile (fun x => !ftxEof x.desc)).reverse
  let headOk := match rest with | x :: _ => ftxSof x.desc | [] => true
  let after := match rest.findIdx? (fun x => ftxEof x.desc) with | some k => rest.take (k + 1) | none => rest
  (if headOk then [] else before) ++ after

/-- The slots `l` complete with the ring's fault, whatever an earlier failure of the same frame gave them (R210, R232). -/
def Ring.failSlots (r : Ring) (l : List Nat) (f : RingFault) : Ring :=
  { r with slots := r.slots.map (fun x =>
      if l.contains x.desc.slot then { x with done := some (cplOf x.desc.tag f.status f.detail 0 0 0) } else x) }

/-- Slots of an FTX ring in the frame being gathered: fetched after the last EOF and without an outcome. -/
def openRun (slots : List Slot) : List Slot :=
  (slots.reverse.takeWhile (fun x => x.done.isNone && !ftxEof x.desc)).reverse

-- DEDUCED, log 103: unsafe.
/-- A descriptor fetch failed: the next one to be fetched.  In the middle of a frame its earlier descriptors complete as it does
(R210). -/
def State.descErr (s : State) (p cause : Nat) : State :=
  let r := s.ringOf p
  let f : RingFault := { slot := r.fetched, status := 0x0C, detail := cause, off := 0 }
  if r.st = .running ∧ !r.disabling ∧ r.fetched ≠ r.pi then
    let run := if ringClass p = 1 then (openRun r.slots).map (fun x => x.desc.slot) else []
    ((s.cplErr cause).ringFault p f).modRing p (fun q => q.failSlots run f)
  else s

/-- A host data read for slot `i` failed in the part at byte `off` (R231, R232): on an FTX ring every descriptor of the frame
completes DMA_ERR with the cause of the part that comes first. -/
def State.dmaErr (s : State) (p i off cause : Nat) : State :=
  let r := s.ringOf p
  let open_ (x : Slot) : Bool := match x.done with | some c => decide (c.status = 0x0B) | none => true
  if r.slots.any (fun x => decide (x.desc.slot = i) && open_ x) ∧ (r.st = .running ∨ r.st = .halted) then
    let run := if ringClass p = 1 then (ftxRun r.slots i).map (fun x => x.desc.slot) else []
    let t := (s.cplErr cause).ringFault p { slot := i, status := 0x0B, detail := cause, off := off }
    match (t.ringOf p).fault with
    | some g => if run.contains g.slot then t.modRing p (fun q => q.failSlots run g) else t
    | none => t
  else s

/-- RNG_PCTL.RESTART (R235). -/
def State.ringRestart (s : State) (p : Nat) : State :=
  let r := s.ringOf p
  if r.st = .halted then
    (if r.fault.isSome ∨ r.abandonTo.isSome then s.setRing p { r with restart := true }
     else s.setRing p { r with st := .running, restart := false, slots := [], fetched := r.ci })
  else s

/-! ### Frame transmission (R210, R211) -/

def State.ftxPort (s : State) (p : Nat) : Nat := fld (s.rwW (ringBase p + 0x14)) 0 1
def State.ftxQueue (s : State) (p : Nat) : Nat := fld (s.rwW (ringBase p + 0x14)) 1 2

def State.finishAll (s : State) (p status : Nat) (l : List Slot) : State :=
  l.foldl (fun t x => t.finish p x.desc.slot status 0 0 0 0) s

-- DEDUCED, log 61: unsafe.
/-- A descriptor joins an FTX ring: the runs that R210 refuses complete LENGTH. -/
def State.ftxAccept (s : State) (p : Nat) (before : List Slot) (x : Slot) : State :=
  let open_ := openRun before
  let d := x.desc
  if ftxSof d ∧ open_ ≠ [] then
    let t := s.finishAll p 0x08 open_
    if ftxEof d then
      (if ftxLen d < 14 ∨ maxLen (s.macW (s.ftxPort p) 0x10) - 4 < ftxLen d ∨ 9216 < ftxLen d then t.finishAll p 0x08 [x] else t)
    else t
  else if !ftxSof d ∧ open_ = [] then s.finishAll p 0x08 [x]
  else if 16 ≤ open_.length then s.finishAll p 0x08 (open_ ++ [x])
  else if ftxEof d then
    let run := open_ ++ [x]
    let len := run.foldl (fun n y => n + ftxLen y.desc) 0
    if len < 14 ∨ maxLen (s.macW (s.ftxPort p) 0x10) - 4 < len ∨ run.any (fun y => decide (ftxLen y.desc = 0 ∨ 9216 < ftxLen y.desc))
    then s.finishAll p 0x08 run else s
  else s

/-- The first frame of an FTX ring that is not yet in its lane, when all its data is here. -/
def Ring.readyFrame (r : Ring) : Option (List Slot) :=
  match r.slots.find? (fun x => x.done.isNone && !x.reading) with
  | none => none
  | some x =>
    let run := ftxRun r.slots x.desc.slot
    if run.any (fun y => ftxEof y.desc) ∧ run.all (fun y => decide (y.data.length = ftxLen y.desc) && y.done.isNone) then some run else none

/-- Copy one ready frame of ring `p` into its lane; a port that is down discards it (R91). -/
def State.ftxCopy (s : State) (p : Nat) (run : List Slot) : State :=
  let port := s.ftxPort p
  let q := hostQueue (s.ftxQueue p)
  let ids := run.map (fun x => x.desc.slot)
  let body := run.flatMap (fun x => x.data)
  let f : TxFrame := { body := body, poison := false, ring := p, slots := ids, ctx := none, ptp := none }
  let t := s.enqueue port q f
  if (s.mac port).up then
    t.modRing p (fun r => { r with slots := r.slots.map (fun x => if ids.contains x.desc.slot then { x with reading := true } else x) })
  else t.finishAll p 0x07 run

/-- Rings bound to a host queue of a port with a whole frame ready and room for it. -/
def State.ftxReady (s : State) (port h : Nat) : List (Nat × List Slot) :=
  ((List.range 8).map (· + 1)).filterMap (fun p =>
    if s.ftxPort p = port ∧ s.ftxQueue p = h then
      match (s.ringOf p).readyFrame with
      | some run =>
        if run.all (fun x => s.slotLive p x.desc.slot) ∧
            s.laneFits port (hostQueue h) (run.foldl (fun n x => n + x.data.length) 0) false
        then some (p, run) else none
      | none => none
    else none)

/-- Take whole frames for one queue in round robin until none is ready (R211). -/
def ftxPump (port h : Nat) : Nat → State → State
  | 0, s => s
  | k + 1, s =>
    let l := s.ftxReady port h
    let turn := sget (fun _ => 0) s.ftxTurn (4 * port + h)
    match (l.find? (fun x => decide (turn < x.1))).orElse (fun _ => l.head?) with
    | none => s
    | some x => ftxPump port h k ({ s with ftxTurn := sset (fun _ => 0) s.ftxTurn (4 * port + h) x.1 }.ftxCopy x.1 x.2)

def State.ftxPumpAll (s : State) : State :=
  [(0, 0), (0, 1), (0, 2), (0, 3), (1, 0), (1, 1), (1, 2), (1, 3)].foldl (fun t k => ftxPump k.1 k.2 32 t) s

/-- A host frame has left or was discarded: every descriptor completes with its status, its length on the EOF entry. -/
def State.ftxDone (s : State) (f : TxFrame) (status : Nat) : State :=
  let last := f.slots.getLast?
  f.slots.foldl (fun t i => t.finish f.ring i status 0 (if last = some i then toWord f.body.length else 0) 0 0) s

/-! ### Host audio -/

def State.audFirst (s : State) (p : Nat) : Nat := fld (s.rwW (ringBase p + 0x14)) 0 11
def State.audCount (s : State) (p : Nat) : Nat := fld (s.rwW (ringBase p + 0x14)) 16 9
def State.audTpb (s : State) (p : Nat) : Nat := fld (s.rwW (ringBase p + 0x18)) 0 8
def State.audFmt (s : State) (p : Nat) : Nat := fld (s.rwW (ringBase p + 0x18)) 8 2
def State.spb (s : State) (p : Nat) : Nat := s.audTpb p * s.T

/-- Slices of a ring and the channels of one (64, the last perhaps fewer). -/
def State.numSlices (s : State) (p : Nat) : Nat := (s.audCount p + 63) / 64
def State.sliceChans (s : State) (p k : Nat) : Nat := min 64 (s.audCount p - 64 * k)

/-- Bytes of a block (R215). -/
def State.blockBytes (s : State) (p k : Nat) : Nat := s.sliceChans p k * s.spb p * 4

/-- The lowest failing check of R216. -/
def State.audCause (s : State) (p : Nat) : Nat :=
  let f := s.audFirst p
  let c := s.audCount p
  if s.audFmt p = 3 then 1
  else if c = 0 ∨ 256 < c ∨ numHost s.member s.syn.rate < f + c then 2
  else if s.audTpb p = 0 ∨ 256 < s.spb p then 3
  else if s.ring.any (fun x => decide (x.1 ≠ p) && decide (ringClass x.1 = ringClass p) && x.2.started
      && decide (f < s.audFirst x.1 + s.audCount x.1 ∧ s.audFirst x.1 < f + c)) then 4
  else if (s.ringOf p).started then 5
  else if !s.tt.rateOk then 6
  else 0

def sliceReset (_ : Nat) : Slice :=
  { next := 0, anchored := false, step := false, lostPos := 0, lost := 0, lostStep := false, older := [], samples := [],
    poisoned := false }

/-- An accepted start at label `pos`. -/
def State.audStart (s : State) (p pos : Nat) : State :=
  let d := pos - s.tt.now
  s.modRing p (fun r => { r with
    started := true, skip := if ringClass p = 4 then 2 * s.T + d else d, stopReq := false, slices := [] })

/-- AUD_STOP at its boundary (R224). -/
def State.audStop (s : State) (p : Nat) : State :=
  s.modRing p (fun r =>
    if !r.started then r
    else if ringClass p = 4 ∧ r.slices.any (fun x => decide (x.2.samples ≠ [])) then { r with stopReq := true }
    else { r with started := false })

/-- Every started audio ring stops where step 3 of a rate change begins (R224): outstanding feed blocks complete STOPPED, of a
halted ring those before its fault (R232, R242). -/
def State.audRateStop (s : State) : State :=
  (s.ring.filter (fun x => x.2.started)).foldl (fun t x =>
    let u := t.modRing x.1 (fun r => { r with started := false, stopReq := false, slices := [], feed := [] })
    if ringClass x.1 = 3 then
      (x.2.slots.filter (fun y => s.slotLive x.1 y.desc.slot)).foldl (fun v y =>
        v.finish x.1 y.desc.slot 0x09 (fld (y.desc.word 0) 0 8) 0 0 0) u
    else u) s

/-- A host word of the feed as a Q7.25 word, and a limited word for the draw (R215). -/
def feedWord (fmt : Nat) (w : Word) : Int :=
  if fmt = 1 then asr 8 w.toInt * 4 else if fmt = 2 then floatWord w.toNat else w.toInt

def drawWord (fmt : Nat) (x : Int) : Word :=
  if fmt = 1 then intWord (satTo 24 (asr 2 (x + 2)) * 256) else if fmt = 2 then toWord (floatBits x) else intWord x

def feedSlice (d : Desc) : Nat := fld (d.word 0) 0 8
def feedPos (d : Desc) : Nat := d.addr 4

-- DEDUCED, log 61: unsafe.
/-- A feed descriptor is fetched (R217): refused, late because its labels have passed, or accepted. -/
def State.feedAccept (s : State) (p : Nat) (x : Slot) : State :=
  let d := x.desc
  let r := s.ringOf p
  let k := feedSlice d
  let sl := sget sliceReset r.slices k
  if s.numSlices p ≤ k ∨ fld (d.word 1) 0 17 ≠ s.blockBytes p k ∨ feedPos d % s.T ≠ 0 ∨ feedPos d < sl.next then
    s.finish p d.slot 0x04 k 0 0 0
  else
    let t := s.setRing p { r with slices := sset sliceReset r.slices k { sl with next := feedPos d + s.spb p } }
    if r.started ∧ feedPos d < s.tt.now then
      ((((t.finish p d.slot 0x06 k 0 0 0).bump (ringCtr p 1)).flag (ringStat p) 0x20).raise 5).modRing p (fun q =>
        { q with feed := q.feed ++ [{ slice := k, pos := feedPos d, words := [], slot := d.slot, upto := 0, played := 0 }] })
    else t

/-- Bytes held in the FEED siding by every ring. -/
def State.feedHeld (s : State) : Nat :=
  (s.ring.flatMap (fun x => x.2.feed)).foldl (fun n b => n + laneRoom (4 * b.words.length)) 0

/-- RNG_CFG.AHEAD as adopted. -/
def State.ahead (s : State) : Nat := clampN 2 64 (fld (s.appliedW 0x8000) 8 8)

/-- The first fetched feed block of a ring whose data is not here. -/
def Ring.unread (r : Ring) : Option Slot := r.slots.find? (fun x => x.done.isNone && !x.reading)

/-- Room taken by feed blocks whose data is on its way. -/
def State.feedDue (s : State) : Nat :=
  (s.ring.filter (fun x => decide (ringClass x.1 = 3))).foldl (fun n x =>
    (x.2.slots.filter (fun y => y.done.isNone && y.reading && !x.2.feed.any (fun b => decide (b.slot = y.desc.slot)))).foldl
      (fun m y => m + laneRoom (s.blockBytes x.1 (feedSlice y.desc))) n) 0

/-- The read of the next feed block is issued, when the block is near enough and FEED has room for it (R217). -/
def State.feedIssue (s : State) (p : Nat) : State :=
  match (s.ringOf p).unread with
  | none => s
  | some x =>
    if ringClass p = 3 ∧ (s.ringOf p).st = .running ∧ s.slotLive p x.desc.slot ∧ feedPos x.desc ≤ s.tt.now + s.ahead * s.T
        ∧ s.feedHeld + s.feedDue + laneRoom (s.blockBytes p (feedSlice x.desc)) ≤ 262144 then
      s.modRing p (fun r => { r with
        slots := r.slots.map (fun y => if y.desc.slot = x.desc.slot then { y with reading := true } else y) })
    else s

/-- Data returned for a slot joins what it has. -/
def Ring.addData (r : Ring) (i : Nat) (bytes : List Byte) : Ring :=
  { r with slots := r.slots.map (fun y => if y.desc.slot = i ∧ y.done.isNone then { y with data := y.data ++ bytes } else y) }

/-- Bytes of an issued feed read return; the block enters FEED when it is whole (R217). -/
def State.feedReturn (s : State) (p i : Nat) (bytes : List Byte) : State :=
  let t := s.modRing p (fun r => r.addData i bytes)
  match (t.ringOf p).slots.find? (fun x => decide (x.desc.slot = i)) with
  | none => s
  | some x =>
    if x.done.isSome || !x.reading || (s.ringOf p).feed.any (fun b => decide (b.slot = i)) then s
    else if x.data.length = t.blockBytes p (feedSlice x.desc) then
      let words := (List.range (x.data.length / 4)).map (fun k => toWord (natLE (slice x.data (4 * k) 4)))
      t.modRing p (fun r => { r with
        feed := r.feed ++ [{ slice := feedSlice x.desc, pos := feedPos x.desc, words := words, slot := i, upto := 0, played := 0 }] })
    else t

/-- Bytes of an FTX buffer return; a frame whose buffers are all here is copied when its lane has room (R210, R211). -/
def State.ftxReturn (s : State) (p i : Nat) (bytes : List Byte) : State :=
  match (s.ringOf p).slots.find? (fun x => decide (x.desc.slot = i)) with
  | none => s
  | some x =>
    if x.done.isSome || x.reading || !s.slotLive p i then s
    else (s.modRing p (fun r => r.addData i (bytes.take (ftxLen x.desc - x.data.length)))).ftxPumpAll

/-- One label of one slice of a started feed ring: its samples, and whether the label is void or its block late. -/
def State.feedLabel (s : State) (p k l : Nat) (bad : List Nat) : State × List Int × Bool :=
  let r := s.ringOf p
  let n := s.sliceChans p k
  let spb := s.spb p
  let covers (pos : Nat) : Bool := decide (pos ≤ l ∧ l < pos + spb)
  match r.feed.find? (fun b => decide (b.slice = k) && covers b.pos) with
  | some b =>
    if b.words = [] ∨ l - b.pos < b.upto then (s, List.replicate n 0, false)
    else
      let xs := (List.range n).map (fun i =>
        if bad.contains (64 * k + i) then (sget (fun _ => 0) r.lastGood (64 * k + i))
        else b.words.getD ((l - b.pos) * n + i) 0)
      let good := xs.zipIdx.foldl (fun m x => sset (fun _ => 0) m (64 * k + x.2) x.1) r.lastGood
      let hits := (List.range n).filter (fun i => bad.contains (64 * k + i))
      let t := s.setRing p { r with
        lastGood := good,
        feed := r.feed.map (fun c => if c = b then { b with upto := l - b.pos + 1, played := b.played + 1 } else c) }
      let u := if hits = [] then t
        else ((t.countBy (ringCtr p 3) hits.length).flag (ringStat p) 0x100).sdgPoison 5 0 hits.length
      (u, xs.map (feedWord (s.audFmt p)), false)
  | none =>
    match r.slots.find? (fun x => x.done.isNone && decide (feedSlice x.desc = k) && covers (feedPos x.desc) && s.slotLive p x.desc.slot) with
    | some x =>
      let t := (((s.finish p x.desc.slot 0x06 k 0 0 0).bump (ringCtr p 1)).flag (ringStat p) 0x20).raise 5
      (t.modRing p (fun q => { q with feed := q.feed ++
          [{ slice := k, pos := feedPos x.desc, words := [], slot := x.desc.slot, upto := 0, played := 0 }] }),
        List.replicate n 0, false)
    | none => (s, List.replicate n 0, true)

/-- One slice of a started feed ring for the tick being gathered (R217 to R219). -/
def State.feedSliceTick (s : State) (p : Nat) (bad : List (Nat × Nat × Nat)) (src : SMap (List Int)) (k : Nat) :
    State × SMap (List Int) :=
  let go := (List.range s.T).foldl (fun (a : State × List (List Int) × Bool) i =>
    if i < (s.ringOf p).skip then (a.1, a.2.1 ++ [List.replicate (s.sliceChans p k) 0], a.2.2)
    else
      let r := a.1.feedLabel p k (s.tt.now + i) ((bad.filter (fun b => decide (b.1 = p ∧ b.2.2 = i))).map (fun b => b.2.1))
      (r.1, a.2.1 ++ [r.2.1], a.2.2 || r.2.2)) (s, [], false)
  let t := if go.2.2 then ((go.1.bump (ringCtr p 2)).flag (ringStat p) 0x40).raise 5 else go.1
  (t, (List.range (s.sliceChans p k)).foldl (fun m i =>
    sset (fun _ => []) m (0x2000 + s.audFirst p + 64 * k + i) (go.2.1.map (fun xs => xs.getD i 0))) src)

/-- Feed blocks whose last label has been gathered: played ones complete OK, those of a ring not started STOPPED. -/
def State.feedPassed (s : State) (p : Nat) : State :=
  let r := s.ringOf p
  let spb := s.spb p
  let past (pos : Nat) : Bool := decide (pos + spb ≤ s.tt.now + s.T)
  if r.started then
    let t := (r.feed.filter (fun b => past b.pos && decide (b.words ≠ []))).foldl (fun u b =>
      u.finish p b.slot 0 b.slice (toWord b.played) 0 0) s
    t.modRing p (fun q => { q with feed := q.feed.filter (fun b => !past b.pos), skip := q.skip - s.T })
  else
    let t := (r.slots.filter (fun x => x.done.isNone && past (feedPos x.desc) && s.slotLive p x.desc.slot)).foldl (fun u x =>
      u.finish p x.desc.slot 0x09 (feedSlice x.desc) 0 0 0) s
    t.modRing p (fun q => { q with feed := q.feed.filter (fun b => !past b.pos) })

/-- Every feed ring at ingress. -/
def State.feedTick (s : State) (bad : List (Nat × Nat × Nat)) (src : SMap (List Int)) : State × SMap (List Int) :=
  let ps := (s.ring.filter (fun x =>
    decide (ringClass x.1 = 3) && decide (x.2.st ≠ .disabled ∧ x.2.st ≠ .hardstop))).map (fun x => x.1)
  ps.foldl (fun a p =>
    let r := if (a.1.ringOf p).started then
        (List.range (a.1.numSlices p)).foldl (fun b k => b.1.feedSliceTick p bad b.2 k) a
      else a
    (r.1.feedPassed p, r.2)) (s, src)

/-- The span of a media-position step (R223): blocks whose labels were all stepped over complete STEPPED. -/
def State.feedStepped (s : State) (old new : Nat) : State :=
  (s.ring.filter (fun x => decide (ringClass x.1 = 3) && x.2.started)).foldl (fun t x =>
    let spb := t.spb x.1
    let gone (pos : Nat) : Bool := decide (old ≤ pos ∧ pos + spb ≤ new)
    let u := (x.2.slots.filter (fun y => y.done.isNone && gone (feedPos y.desc) && s.slotLive x.1 y.desc.slot)).foldl (fun v y =>
      v.finish x.1 y.desc.slot 0x0A (feedSlice y.desc) 0 0 0) t
    u.modRing x.1 (fun r => { r with feed := r.feed.filter (fun b => !gone b.pos) })) s

/-! ### Draw -/

/-- Give buffer `x` a draw completion. -/
def State.drawDone (s : State) (p k : Nat) (x : Slot) (status pos : Nat) (flags : Nat) : State :=
  s.finish p x.desc.slot status k (toWord (pos % 2 ^ 32)) (toWord (pos / 2 ^ 32)) flags

/-- Flags of a draw completion: VOID, STEP, POISON and VSPAN, from bit 16 of dword 3. -/
def drawFlags (void step poison : Bool) (span : Nat) : Nat := b2n void + put 1 (b2n step) + put 2 (b2n poison) + put 4 span

/-- What a slice still owes, oldest run first: first label, periods and STEP. -/
def Slice.owed (sl : Slice) : List (Nat × Nat × Bool) :=
  sl.older ++ (if sl.lost = 0 then [] else [(sl.lostPos, sl.lost, sl.lostStep)])

/-- The runs left to a slice after its oldest has been reported up to 2047 periods. -/
def Slice.settle (sl : Slice) (spb : Nat) : Slice :=
  match sl.older with
  | (p, n, _) :: t =>
    if n ≤ 2047 then { sl with older := t } else { sl with older := (p + 2047 * spb, n - 2047, false) :: t }
  | [] =>
    if sl.lost ≤ 2047 then { sl with lost := 0 }
    else { sl with lostPos := sl.lostPos + 2047 * spb, lost := sl.lost - 2047, lostStep := false }

def State.sliceOf (s : State) (p k : Nat) : Slice := sget sliceReset (s.ringOf p).slices k

def State.setSlice (s : State) (p k : Nat) (v : Slice) : State :=
  s.modRing p (fun r => { r with slices := sset sliceReset r.slices k v })

/-- Void blocks that a slice owes go into the oldest buffers (R221, R236). -/
def drawVoids (p k : Nat) : Nat → State → State
  | 0, s => s
  | f + 1, s =>
    match (s.sliceOf p k).owed, s.buffers p with
    | (pos, n, st) :: _, x :: _ =>
      drawVoids p k f ((s.drawDone p k x 0 pos (drawFlags true st false (min n 2047))).setSlice p k
        ((s.sliceOf p k).settle (s.spb p)))
    | _, _ => s

/-- A draw block is lost (R221). -/
def State.drawLost (s : State) (p k pos : Nat) (step : Bool) : State :=
  let sl := s.sliceOf p k
  let sl' := if sl.lost = 0 then { sl with lostPos := pos, lost := 1, lostStep := step }
    else if step then { sl with older := sl.older ++ [(sl.lostPos, sl.lost, sl.lostStep)], lostPos := pos, lost := 1, lostStep := true }
    else { sl with lost := sl.lost + 1 }
  (((s.setSlice p k sl').bump (ringCtr p 2)).flag (ringStat p) 0x40).raise 6

-- DEDUCED, log 62: unsafe.
/-- A whole draw block of slice `k` finds its buffer (R220, R221). -/
def State.drawBlock (s : State) (p k pos : Nat) (step poison : Bool) (words : List Word) : State :=
  let t := drawVoids p k 70000 s
  match (t.sliceOf p k).owed, t.buffers p with
  | [], x :: _ =>
    if fld (x.desc.word 1) 0 17 < s.blockBytes p k then
      (((t.drawDone p k x 0x08 pos (drawFlags true step false 1)).bump (ringCtr p 2)).flag (ringStat p) 0x40).raise 6
    else
      (t.emit (.host (x.desc.addr 2) (words.flatMap bytesLE) false)).drawDone p k x 0 pos (drawFlags false step poison 0)
  | _, _ => t.drawLost p k pos step

/-- Label of sample `n` of the two newest gathered blocks. -/
def State.rowLabel (s : State) (n : Nat) : Nat := if n < s.T then s.mix.lab2 + n else s.mix.lab1 + (n - s.T)

/-- Sample `n` of the two newest gathered blocks joins the block of one slice; in a block that a media-position step cut, the
samples after the step are silent (R223). -/
def State.drawRow (s : State) (p k n : Nat) (bad : List Nat) : State :=
  let r := s.ringOf p
  let sl := s.sliceOf p k
  let c := s.sliceChans p k
  let l := s.rowLabel n
  let cut := decide (sl.samples ≠ [] ∧ l ≠ sl.next + sl.samples.length / max 1 c)
  let words := (List.range c).map (fun i =>
    if cut then 0
    else if bad.contains (64 * k + i) then sget (fun _ => 0) r.lastGood (64 * k + i)
    else drawWord (s.audFmt p) (s.egressWord (128 + p) (0x1000 + s.audFirst p + 64 * k + i) n))
  let hits := if cut then [] else (List.range c).filter (fun i => bad.contains (64 * k + i))
  let good := words.zipIdx.foldl (fun m x => sset (fun _ => 0) m (64 * k + x.2) x.1) r.lastGood
  let first := decide (sl.samples = [])
  let sl1 : Slice := if first then
      { sl with next := l, step := sl.anchored && decide (l ≠ sl.next), anchored := true, poisoned := false } else sl
  let sl2 : Slice := { sl1 with samples := sl1.samples ++ words, poisoned := sl1.poisoned || decide (hits ≠ []) }
  let t := (s.modRing p (fun q => { q with lastGood := good })).setSlice p k sl2
  let u := if hits = [] then t
    else ((t.countBy (ringCtr p 3) hits.length).flag (ringStat p) 0x100).sdgPoison 6 0 hits.length
  if sl2.samples.length < c * s.spb p then u
  else (u.setSlice p k { sl2 with samples := [], next := sl2.next + s.spb p }).drawBlock p k sl2.next sl2.step sl2.poisoned sl2.samples

/-- A draw ring whose stop waits stops once no block is in progress (R224). -/
def State.drawStopped (s : State) (p : Nat) : State :=
  let r := s.ringOf p
  if r.stopReq ∧ r.slices.all (fun x => decide (x.2.samples = [])) then s.setRing p { r with started := false, stopReq := false }
  else s

/-- Sample `n` of the two newest gathered blocks reaches a draw ring that has not packed it. -/
def State.drawSample (s : State) (p n : Nat) (bad : List (Nat × Nat × Nat)) : State :=
  if n < (s.ringOf p).skip then s
  else
    let at_ := (bad.filter (fun b => decide (b.1 = p ∧ b.2.2 = n % max 1 s.T))).map (fun b => b.2.1)
    ((List.range (s.numSlices p)).foldl (fun w k =>
      if (w.ringOf p).stopReq ∧ (w.sliceOf p k).samples = [] then w else w.drawRow p k n at_) s).modRing p
        (fun r => { r with skip := n + 1 })

/-- A draw ring's egress for one tick (R220): as for a stream, with path offset 2 the older of the two newest gathered blocks,
with 1 the newer too, so that no label is taken twice or left out when the path changes. -/
def State.drawEgress (s : State) (p : Nat) (bad : List (Nat × Nat × Nat)) : State :=
  let a := s.pathOffset 0x1000 (s.audFirst p) (s.audCount p)
  let t := (List.range ((3 - a) * s.T)).foldl (fun u n => u.drawSample p n bad) s
  (t.modRing p (fun r => { r with skip := r.skip - s.T })).drawStopped p

/-- Every started draw ring at egress (R220). -/
def State.drawTick (s : State) (bad : List (Nat × Nat × Nat)) : State :=
  let ps := (s.ring.filter (fun x => decide (ringClass x.1 = 4) && x.2.started && decide (x.2.st ≠ .hardstop))).map (fun x => x.1)
  ps.foldl (fun t p => t.drawEgress p bad) s

/-! ### Fetches -/

/-- A descriptor returns and joins its ring (R206). -/
def State.descFetch (s : State) (p : Nat) (dw : List Word) : State :=
  let r := s.ringOf p
  if r.st = .running ∧ !r.disabling ∧ r.fetched ≠ r.pi then
    let x : Slot := { desc := { slot := r.fetched, dw := dw }, done := none, data := [], reading := false }
    let t := s.setRing p { r with slots := r.slots ++ [x], fetched := (r.fetched + 1) % s.ringN p }
    if ringClass p = 1 then t.ftxAccept p r.slots x
    else if ringClass p = 2 then
      (if fld (x.desc.word 1) 0 14 < 64 ∨ 9216 < fld (x.desc.word 1) 0 14 then t.finish p x.desc.slot 0x08 0 0 0 0
       else if x.desc.addr 2 % 8 ≠ 0 then t.finish p x.desc.slot 0x04 2 0 0 0 else t)
    else if ringClass p = 3 then t.feedAccept p x
    else if ringClass p = 4 then (if x.desc.addr 2 % 4 ≠ 0 then t.finish p x.desc.slot 0x04 2 0 0 0 else t)
    else t
  else s

/-! ### Frames to the host (R212, R213) -/

/-- The FRX ring of a frame: pairs 9 to 16. -/
def State.frxRing (s : State) (f : HostFrame) : Nat := 9 + fld (s.appliedW (0x8008 + 4 * f.port)) (4 * f.pcp) 3

/-- Buffers that hold a frame of `n` bytes, in order, with the bytes each takes; none when they do not suffice. -/
def fillBuffers : List Slot → Nat → Option (List (Slot × Nat))
  | _, 0 => some []
  | [], _ + 1 => none
  | x :: t, n + 1 =>
    let k := min (fld (x.desc.word 1) 0 14) (n + 1)
    (fillBuffers t (n + 1 - k)).map (fun l => (x, k) :: l)

/-- Write the buffers of one frame. -/
def State.writeBuffers (s : State) (p : Nat) (f : HostFrame) : Nat → Bool → List (Slot × Nat) → State
  | _, _, [] => s
  | o, first, (x, k) :: t =>
    let ends := decide (t = [])
    let bad := wordsHit f.poison o k
    let ep := bad && bitAt (s.appliedW 0x8000) 0
    let r0 := toWord (k + putb 14 first + putb 15 ends + put 16 f.port + putb 17 f.tagged + put 18 f.pcp)
    let r1 := toWord ((if ends then f.body.length else 0) + put 16 f.vid)
    let u := (s.emit (.host (x.desc.addr 2) (slice f.body o k) ep)).finish p x.desc.slot 0 0 r0 r1 (b2n bad)
    let v := if bad then (u.bump (ringCtr p 3)).flag (ringStat p) 0x100 else u
    State.writeBuffers v p f (o + k) false t

/-- The frame at the head of HRX is written where its ring has buffers for all of it (R213); one whose ring is disabled
is dropped (R212). -/
def State.hostFrameWrite (s : State) : State :=
  match s.hrx with
  | [] => s
  | f :: t =>
    let p := s.frxRing f
    let u := { s with hrx := t }
    if (s.ringOf p).st = .disabled then u.bump (ringCtr p 1)
    else match fillBuffers (s.buffers p) f.body.length with
      | some l => (u.writeBuffers p f 0 true l).sdgPoison 4 0 f.poison.length
      | none => s

/-- The frame at the head of HRX has waited RXWAIT µs without enough buffers: dropped whole (R213). -/
def State.hostFrameDrop (s : State) : State :=
  match s.hrx with
  | [] => s
  | f :: t =>
    let p := s.frxRing f
    if (fillBuffers (s.buffers p) f.body.length).isSome then s
    else ((({ s with hrx := t }).bump (ringCtr p 1)).flag (ringStat p) 0x80).raise 7

/-- A frame enters HRX whole, or is dropped for want of room (R187, R213). -/
def State.toHrx (s : State) (f : HostFrame) : State :=
  if s.hrx.foldl (fun n g => n + laneRoom g.body.length) 0 + laneRoom f.body.length ≤ 196608 then { s with hrx := s.hrx ++ [f] } else s

end Sys2Proof.Machine
end

