-- ==== Sys2Proof/Machine/Ports.lean ====
section
/-! DEFINITION. The ports as a whole: going down and coming up (R87 to R91, R174, R183), rung changes (R90) and the
combiner's decisions about them (R175 to R182). -/

namespace Sys2Proof.Machine

/-! ### What the combiner keeps of a port -/

def State.dpcPort (s : State) (p : Nat) : DpcPort := if p = 0 then s.dpc.a else s.dpc.b

def State.setDpcPort (s : State) (p : Nat) (v : DpcPort) : State :=
  if p = 0 then { s with dpc := { s.dpc with a := v } } else { s with dpc := { s.dpc with b := v } }

def State.modDpcPort (s : State) (p : Nat) (f : DpcPort → DpcPort) : State := s.setDpcPort p (f (s.dpcPort p))

/-- Both hold counts restart (R176). -/
def State.clrHold (s : State) : State :=
  (s.modDpcPort 0 (fun v => { v with hold := 0 })).modDpcPort 1 (fun v => { v with hold := 0 })

def dsthr (w : Word) : Nat := clampN 1 100 (fld w 0 7)
def upthr (w : Word) : Nat := min 100 (fld w 8 7)
def dsHold (w : Word) : Nat := max 1 (fld w 16 16)
def dpcHealth (w : Word) : Nat := max 1 (fld w 16 8)

/-- The conditions of R175 by code, for port `p`: true where the downshift is blocked. -/
def State.whyFails (s : State) (p code : Nat) : Bool :=
  let m := s.mac p
  let o := 1 - p
  let w := s.macW p 0
  let v := s.dpcPort p
  let low := lineRate (m.rung + 1)
  if code = 1 then !dsAllowed w || !macEn w || decide (floorRung s.member w ≤ m.rung)
  else if code = 2 then !m.up || !(s.mac o).up || m.retrain || (s.mac o).retrain || s.dpc.shifting
  else if code = 3 then decide (dsthr (s.appliedW 0x38010) * low < max v.utilTx v.utilRx * 1000 * 100)
  else if code = 4 then decide (9 * low < s.portSlopes p * 16)
  else if code = 5 then decide (9 * low < v.srate * 1000 * 16)
  else if code = 6 then s.stxRunning.any (fun c => cPort c.2.words p && !cPort c.2.words o)
  else if code = 7 then s.srxRunning.any (fun c => !(s.dpcOf c.1).dual &&
    (match (if p = 0 then c.2.seenA else c.2.seenB) with
     | some t => decide (s.dpc.clock ≤ t + dpcHealth (s.appliedW 0x38000) * 10000000)
     | none => false))
  else if code = 8 then s.dualCtxs.any (fun c => decide ((s.dpcOf c).path o ≠ 1))
  else if code = 9 then decide (s.mcrMode = 0) && s.bound s.mcr.inst p && decide (s.portState s.mcr.inst p = 3)
  else decide (v.hold < dsHold (s.appliedW 0x38010))

/-- DPC_WHY of a port: the lowest code that blocks, or 0. -/
def State.why (s : State) (p : Nat) : Nat :=
  (((List.range 10).map (· + 1)).find? (fun k => s.whyFails p k)).getD 0

/-- Codes 1 to 9 are all clear. -/
def State.dsClear (s : State) (p : Nat) : Bool := decide (s.why p = 0 ∨ s.why p = 10)

/-- A failure of codes 1 to 9 restarts a port's count and spoils the second (R176). -/
def State.holdCheck (s : State) (p : Nat) : State :=
  if hasDpc s.member && !s.dsClear p then s.modDpcPort p (fun v => { v with hold := 0, broken := true }) else s

/-! ### Going down -/

/-- The PTP port state of a port that goes down is disabled; an instance that loses its slave port leaves SYNCED, and
MCR loses its reference where it follows that instance (R60). -/
def State.ptpPortDown (s : State) (p i : Nat) : State :=
  if instEnabled (s.icfg i) && s.bound i p then
    let slave := decide (s.portState i p = 3)
    let v := s.inst i
    let t := s.setInst i (if p = 0 then { v with stateA := 0, asCapA := false } else { v with stateB := 0, asCapB := false })
    if slave then
      let u := t.unsync i
      if s.mcrMode = 0 ∧ s.mcr.inst = i then u.refLoss else u
    else t
  else s

/-- Both ports' hold counts against the conditions as they stand. -/
def State.holdChecks (s : State) : State := (s.holdCheck 0).holdCheck 1

/-- Whether a port that goes down leaves dual-path streams without a path while the other changes its rung (R182). -/
def State.bothLost (s : State) (p : Nat) : Bool :=
  hasDpc s.member && (s.mac p).up && (s.mac (1 - p)).retrain && decide (s.dualCtxs ≠ [])

/-- A port goes down (R91): its queues, its dual-path paths (R174, R182), its host frames and its PTP ports. -/
def State.takeDown (s : State) (p : Nat) : State :=
  let t0 := (s.portFall p).pathsDown p
  let t := if s.bothLost p then t0.flag 0x3800C 0x4 else t0
  let u := (s.mac p).hostWaiting.foldl (fun x f => x.ftxDone f 0x07) t
  ((u.ptpPortDown p 0).ptpPortDown p 1).holdChecks

/-- A change of the running rung (R90): the port goes down and runs its script for the rung. -/
def State.rungChange (s : State) (p r : Nat) : State :=
  (((s.takeDown p).setRung p r).clearHstop p).modMac p (fun m => { m with upshift := none })

/-! ### Changes the combiner orders -/

/-- A change ordered by DPC begins (R177). -/
def State.dpcShift (s : State) (p r : Nat) : State :=
  let prev := (s.mac p).goal
  let t := (s.rungChange p r).modMac p (fun m => { m with dpcOrder := true, dpcPrev := prev })
  { t with dpc := { t.dpc with shifting := true, shiftPort := p, back := false } }

/-- A change ordered by DPC ends: its flag, its event and both counts (R176, R177). -/
def State.shiftEnd (s : State) : State :=
  let t := { s with dpc := { s.dpc with shifting := false, back := false } }
  ((t.modMac s.dpc.shiftPort (fun m => { m with dpcOrder := false })).clrHold).flagRaise 0x3800C 0x8 51

/-- Whether the change in progress is over: the port up and every dual-path path on it HEALTHY. -/
def State.shiftOver (s : State) : Bool :=
  s.dpc.shifting && (s.mac s.dpc.shiftPort).up && s.dualCtxs.all (fun c => decide ((s.dpcOf c).path s.dpc.shiftPort = 1))

def State.shiftCheck (s : State) : State := if s.shiftOver then s.shiftEnd else s

/-- The port a downshift goes to: of the ports due the one at the faster rung, port A when they are equal (R177). -/
def State.dsPort (s : State) : Option Nat :=
  match s.dpc.a.due, s.dpc.b.due with
  | true, true => some (if s.macB.rung < s.macA.rung then 1 else 0)
  | true, false => some 0
  | false, true => some 1
  | false, false => none

/-- The downshift ordered for this boundary (R176, R177): one port one rung down; an order for the other is dropped with
its count. -/
def State.downshift (s : State) : State :=
  match s.dsPort with
  | none => s
  | some p =>
    let t := (s.modDpcPort 0 (fun v => { v with due := false })).modDpcPort 1 (fun v => { v with due := false })
    if s.dpc.shifting ∨ floorRung s.member (s.macW p 0) ≤ (s.mac p).rung then t
    else (t.dpcShift p ((s.mac p).rung + 1)).holdChecks

/-- DS_NOW of a port (R176). -/
def State.dsNow (s : State) (p : Nat) : State :=
  if hasDpc s.member && s.dsClear p then s.modDpcPort p (fun v => { v with due := true })
  else s.flag 0x3800C 0x10

/-- DPC_CTL as written (R176). -/
def State.dpcCtl (s : State) (w : Word) : State :=
  let a := if bitAt w 2 then s.clrHold else s
  let b := if bitAt w 0 then a.dsNow 0 else a
  if bitAt w 1 then b.dsNow 1 else b

/-- Whether utilisation calls for an upshift that R180 lets DPC order now. -/
def State.utilUpDue (s : State) (p : Nat) : Bool :=
  let m := s.mac p
  let v := s.dpcPort p
  let up := upthr (s.appliedW 0x38010)
  hasDpc s.member && dsAllowed (s.macW p 0) && decide (up ≠ 0) && decide (ceilRung s.member (s.macW p 0) < m.rung)
    && decide (up * lineRate m.rung < max v.utilTx v.utilRx * 1000 * 100)
    && !(s.whyFails p 2 || s.whyFails p 6 || s.whyFails p 7 || s.whyFails p 8 || s.whyFails p 9)

-- DEDUCED, log 66: unsafe.
def State.utilUpshift (s : State) (p : Nat) : State :=
  if s.utilUpDue p then s.dpcShift p ((s.mac p).rung - 1) else s

/-- Both ports' upshifts, the faster rung first, port A when they are equal (R177, R180). -/
def State.utilUpshifts (s : State) : State :=
  if !hasDpc s.member then s
  else if s.macB.rung < s.macA.rung then (s.utilUpshift 1).utilUpshift 0 else (s.utilUpshift 0).utilUpshift 1

/-- Megabits per second of octets counted over a second. -/
def mbps (oct : Nat) : Nat := min 65535 (oct * 8 / 1000000)

-- DEDUCED, log 68: unsafe.
/-- One port's part of a whole second (R175, R176). -/
def State.portSecond (s : State) (p : Nat) : State :=
  let t := s.modDpcPort p (fun v => { v with
    utilTx := mbps v.octTx, utilRx := mbps v.octRx, srate := mbps v.octStr, octTx := 0, octRx := 0, octStr := 0 })
  let clear := t.dsClear p && !(t.dpcPort p).broken
  t.modDpcPort p (fun v =>
    let h := if clear then min 65535 (v.hold + 1) else 0
    { v with hold := h, broken := false, due := v.due || (clear && decide (dsHold (t.appliedW 0x38010) ≤ h)) })

/-- A whole second of utilisation (R175, R176, R180). -/
def State.dpcSecond (s : State) : State :=
  if hasDpc s.member then
    ((s.portSecond 0).portSecond 1).utilUpshifts
  else s

-- DEDUCED, log 66: unsafe.
/-- An upshift required by reservations begins once no change is in progress on the other port (R179). -/
def State.reservationUp (s : State) (p : Nat) : State :=
  match (s.mac p).upshift with
  | none => s
  | some r =>
    if (s.dpc.shifting ∧ s.dpc.shiftPort ≠ p) ∨ (s.mac (1 - p)).retrain then s
    else if r < (s.mac p).rung then (if hasDpc s.member then s.dpcShift p r else s.rungChange p r)
    else s.modMac p (fun m => { m with upshift := none })

/-- OVERBOOK (R96) with what it does to the streams (R136). -/
def State.overbookPort (s : State) (p : Nat) : State := (s.overbook p).resvShort s

/-! ### Coming up and failing -/

/-- LATLOAD (R183): the PHY latency of the rung goes into TIM_LAT. -/
def State.latLoad (s : State) (p : Nat) : State :=
  if hasDpc s.member && bitAt (s.appliedW 0x38000) 24 then
    s.setRw (0x20030 + 4 * p) (s.rwW (0x38080 + 0x10 * p + 4 * (s.mac p).rung))
  else s

/-- EN, lane lock and the PHY link hold (R88): the port comes up, at once in control of its latency and its scaling. -/
def State.portUp (s : State) (p : Nat) : State :=
  if macEn (s.macW p 0) && s.phyOk p && (s.mac p).lane && !(s.mac p).up then
    let t := (s.portRise p).latLoad p
    let u := if (s.mac p).retrain then t.clrHold else t
    (u.overbookPort p).shiftCheck
  else s

/-- In sleep the wake ports alone have power (R430). -/
def State.laneOn (s : State) (p : Nat) : Bool := decide (s.pmu.asleep ≠ 2) || (s.mac p).sleep

/-- The lane locks at the rung it is set to; a port in hard stop or with its script unwritten stays down (R87, R88). -/
def State.linkUp (s : State) (p : Nat) : State :=
  if macEn (s.macW p 0) && !s.reg.hstop.getLsbD p && portPresent s.member p && (s.mac p).target.isNone && s.laneOn p then
    (s.modMac p (fun m => { m with lane := true })).portUp p
  else s

/-- The lane is lost (R91). -/
def State.linkDown (s : State) (p : Nat) : State :=
  (if (s.mac p).up then s.takeDown p else s).modMac p (fun m => { m with lane := false })

/-- MAC_CTL.RETRAIN: the script for the running rung, and a new link. -/
def State.retrainPort (s : State) (p : Nat) : State :=
  if portPresent s.member p then s.rungChange p (s.mac p).goal else s

-- DEDUCED, log 67: unsafe.
/-- A script write was not issued in 10 ms (R87): the port stays down in hard stop with RETRAIN as it is, or a change DPC ordered
goes back once (R178). -/
def State.retrainFail (s : State) (p : Nat) : State :=
  if scripting p s.mdio then
    let t := ({ s with mdio := dropScript p s.mdio }.flag (macBase p + 0xC) 0xA0).raise (25 + p)
    if (s.mac p).dpcOrder ∧ !s.dpc.back then
      let u := (t.flagRaise 0x3800C 0x20 51).setRung p (s.mac p).dpcPrev
      { u with dpc := { u.dpc with back := true } }
    else (if s.dpc.shifting ∧ s.dpc.shiftPort = p then t.shiftEnd else t).enterHstop p
  else s

/-- The PHY link bit, read by a poll (R86, R88). -/
def State.pollDone (s : State) (p v : Nat) : State :=
  let w := s.macW p 0x40
  let b := v.testBit (fld w 16 4)
  let t := (s.emit (.mdioRead (fld (s.macW p 0) 8 5) (fld w 1 5) (fld (s.macW p 0x44) 0 16))).modMac p (fun m => { m with phy := b })
  if !b && (s.mac p).up && !t.phyOk p then t.takeDown p else t.portUp p

/-- The transaction at the head of the master's queue ends; `v` is what a read returned (R85). -/
def State.mdioDone (s : State) (v : Nat) : State :=
  match s.mdio with
  | [] => s
  | .software c d :: t => { s with mdio := t }.mdioSoftware c d v
  | .poll p :: t => { s with mdio := t }.pollDone p v
  | .script p dev reg d :: t => { s with mdio := t }.mdioScript p dev reg d

-- DEDUCED, log 68: unsafe.
/-- Octets a frame of `n` octets with its FCS takes on the wire: 20 more for preamble, delimiter and gap. -/
def wireOctets (n : Nat) : Nat := n + 20

/-- A frame ends on the wire (R210): counted, its host descriptors complete OK, and its lane has room again. -/
def State.frameSent (s : State) (p octets : Nat) : State :=
  match (s.mac p).cur with
  | none => s
  | some c =>
    let n := c.frame.wire.length
    let t := ((s.creditRun p octets).txEnd p).modDpcPort p (fun v => { v with octTx := v.octTx + wireOctets n })
    if isHostQ c.q ∧ c.frame.slots ≠ [] then (t.ftxDone c.frame 0).ftxPumpAll else t

/-- A poisoned frame of a stream counts in BADFCS of its context (R139, R140). -/
def State.badFcs (s : State) (c : TxCur) : State :=
  match c.frame.ctx with | some k => s.bump (stxCtr k 3) | none => s

/-- A frame starts at an instant (R92): a PTP message takes its timestamp (R48); words that fail parity on the way from their
siding complete the frame with an inverted FCS (R139), and are counted on siding 2 or 3 by lane (R190). -/
def State.frameStart (s : State) (p octets bad : Nat) (i : Instant) : State :=
  let t := (s.creditRun p octets).txStart p
  match (s.mac p).cur, (t.mac p).cur with
  | none, some c =>
    let u := match c.frame.ptp with | some m => if c.sent = 0 then t.ptpStart m i else t | none => t
    if bad = 0 then u
    else
      let v := (u.modMac p (fun m => { m with cur := m.cur.map (fun x => { x with frame := { x.frame with poison := true } }) })).sdgPoison
        (2 + p) c.q bad
      if c.frame.poison then v else v.badFcs c
  | _, _ => t

/-! ### Adoption of a port's configuration -/

/-- The words of a port before an adoption are kept for the frames that straddle it (R15, R105). -/
def State.keepPrev (s old : State) (p : Nat) : State :=
  let ws := old.reg.applied.filter (fun e => decide (macBase p ≤ e.1 ∧ e.1 < macBase p + 0x400))
  s.modMac p (fun m => { m with prev := ws })

/-- A G1 or G2 adoption (R88, R89, R90, R97, R181): a changed running rung retrains the port, a condition of R88 that fails takes
it down, a changed preemption setting starts verification over, and R96 is judged anew. -/
def State.macAdopt (s old : State) (p : Nat) : State :=
  let w := s.macW p 0
  let m := s.mac p
  let r := if dsAllowed w then clampN (ceilRung s.member w) (floorRung s.member w) m.goal else ceilRung s.member w
  let a := s.keepPrev old p
  let t :=
    if r ≠ m.goal then ((a.rungChange p r).modMac p (fun v => { v with dpcOrder := false })).modDpcPort p
      (fun v => { v with due := false, hold := 0 })
    else if m.up && !(macEn w && s.phyOk p) then a.takeDown p
    else if m.up && decide (bitAt (s.macW p 0x20) 0 ≠ bitAt (old.macW p 0x20) 0) then a.reverify p
    else a.portUp p
  t.overbook p

end Sys2Proof.Machine
end

