-- ==== Sys2Proof/Machine/Cls.lean ====
section
/-! DEFINITION. Reception at a port (R105, R99, R188, R189), the classifier (R106 to R110) and frames in sleep (R111). -/

namespace Sys2Proof.Machine

/-- Counter `c` of the classifier for a port. -/
def clsCtr (p c : Nat) : Nat := 0x18100 + 0x40 * p + 8 * c

/-- A frame's header as CLS reads it: number of VLAN tags up to two, VID and PCP of a single tag, the Ethertype behind
it and the octet behind the Ethertype. -/
structure FrameHead where
  tags : Nat
  vid : Nat
  pcp : Nat
  etype : Nat
  off : Nat
  deriving DecidableEq, Repr

def be16 (b : List Byte) (o : Nat) : Nat := natBE (slice b o 2)

-- PRESUMED, log 45: unsafe.
/-- VLAN tags have TPID 0x8100 (IEEE 802.1Q). -/
def frameHead (b : List Byte) : FrameHead :=
  if be16 b 12 = 0x8100 then
    { tags := if be16 b 16 = 0x8100 then 2 else 1, vid := be16 b 14 % 4096, pcp := be16 b 14 / 8192, etype := be16 b 16,
      off := 18 }
  else { tags := 0, vid := 0, pcp := 0, etype := be16 b 12, off := 14 }

/-- UDP destination port of an IPv4 packet at octet `o`, where it is UDP and carries the start of its datagram. -/
def udp4Port (b : List Byte) (o : Nat) : Option Nat :=
  if natBE (slice b (o + 9) 1) = 17 ∧ be16 b (o + 6) % 8192 = 0 then
    some (be16 b (o + natBE (slice b o 1) % 16 * 4 + 2))
  else none

/-- The same over IPv6 without extension headers. -/
def udp6Port (b : List Byte) (o : Nat) : Option Nat :=
  if natBE (slice b (o + 6) 1) = 17 then some (be16 b (o + 42)) else none

/-- Rule 1 of R106. -/
def State.isPtp (s : State) (b : List Byte) (h : FrameHead) : Bool :=
  let q := if h.etype = 0x0800 then udp4Port b h.off else if h.etype = 0x86DD then udp6Port b h.off else none
  decide (h.etype = 0x88F7) || (bitAt (s.appliedW 0x18000) 16 && decide (q = some 319 ∨ q = some 320))

/-! ### The stream-ID table (R108) -/

def cidAddr (n w : Nat) : Nat := 0x5000000 + 0x10 * n + 4 * w

/-- A valid entry whose words pass parity (R241). -/
def State.cidValid (s : State) (bad : List Nat) (n : Nat) : Bool :=
  bitAt (s.appliedW (cidAddr n 2)) 0 && (List.range 4).all (fun w => !bad.contains (cidAddr n w))

/-- Entries in force, ascending. -/
def State.cidEntries (s : State) (bad : List Nat) : List Nat := (List.range 256).filter (s.cidValid bad)

/-- The key a frame carries: type and the two key words; a 1722 frame of another subtype has none. -/
def streamKey (b : List Byte) (h : FrameHead) : Option (Nat × Nat × Nat) :=
  if h.etype = 0x22F0 then
    let sub := natBE (slice b h.off 1)
    let id (o : Nat) : Nat := natBE (slice b (h.off + o) 4)
    if sub = 2 then some (0, id 8, id 4) else if sub = 4 then some (1, id 8, id 4) else none
  else if h.etype = 0x0800 ∧ natBE (slice b (h.off + 9) 1) = 17 ∧ be16 b (h.off + 6) % 16384 = 0 then
    some (2, natBE (slice b (h.off + 16) 4), be16 b (h.off + natBE (slice b h.off 1) % 16 * 4 + 2))
  else none

/-- Whether a frame matches an entry, its port set aside. -/
def State.cidMatch (s : State) (h : FrameHead) (k : Nat × Nat × Nat) (n : Nat) : Bool :=
  let w := s.appliedW (cidAddr n 2)
  decide (fld w 1 2 = k.1) && decide ((s.appliedW (cidAddr n 0)).toNat = k.2.1)
    && decide ((s.appliedW (cidAddr n 1)).toNat = k.2.2)
    && (!bitAt w 5 || (decide (h.tags = 1) && decide (fld w 16 12 = h.vid)))

/-- Entries a frame matches, ascending. -/
def State.cidHits (s : State) (bad : List Nat) (b : List Byte) (h : FrameHead) : List Nat :=
  match streamKey b h with
  | none => []
  | some k => (s.cidEntries bad).filter (s.cidMatch h k)

/-! ### The address filter (R110) -/

/-- Whether the filter takes a frame for the host, as it stood when its reception began (R105). -/
def State.addrAccept (s : State) (p : Nat) (early : Bool) (b : List Byte) : Bool :=
  let da := natBE (slice b 0 6)
  let f := s.macWAt p early 0x24
  let bc := decide (da = 2 ^ 48 - 1)
  let mc := decide (da / 2 ^ 40 % 2 = 1)
  (List.range 16).any (fun a => bitAt (s.macWAt p early (0x104 + 8 * a)) 31 &&
      decide (fld (s.macWAt p early (0x104 + 8 * a)) 0 16 * 2 ^ 32 + (s.macWAt p early (0x100 + 8 * a)).toNat = da))
    || (bc && bitAt f 0) || (mc && !bc && bitAt f 1) || bitAt f 2

/-- The host's copy of a frame (R107): without its FCS where STRIP is set. -/
def State.hostCopy (s : State) (p : Nat) (h : FrameHead) (x : RxFrame) : HostFrame :=
  { port := p, body := if bitAt (s.macWAt p x.early 0x24) 3 then x.bytes.dropLast.dropLast.dropLast.dropLast else x.bytes,
    poison := x.poison, tagged := decide (h.tags ≠ 0), pcp := h.pcp, vid := h.vid }

/-- Rules 4 and 5 of R106. -/
def State.clsHost (s : State) (p : Nat) (h : FrameHead) (x : RxFrame) : State :=
  if s.addrAccept p x.early x.bytes then (s.toHrx (s.hostCopy p h x)).bump (clsCtr p 3) else s.bump (clsCtr p 4)

/-- Rule 3 of R106 and what follows it. -/
def State.clsStream (s : State) (p : Nat) (h : FrameHead) (x : RxFrame) : State :=
  let bad := x.badTable.filter (fun a => decide (a / 0x1000000 = 5))
  let t := if bad = [] then s else s.raise 60
  let hits := s.cidHits bad x.bytes h
  let mine := hits.filter (fun n => bitAt (s.appliedW (cidAddr n 2)) (3 + p))
  match mine with
  | n :: more =>
    let w := s.appliedW (cidAddr n 2)
    let u := (if more = [] then t else t.flagRaise 0x18008 0x1 27).bump (clsCtr p 0)
    let v := u.modDpcPort p (fun d => { d with octStr := d.octStr + wireOctets x.bytes.length })
    v.srxFrame (fld w 8 7) p { typ := fld w 1 2, off := h.off } (x.bytes.take (x.bytes.length - 4)) x.inst.grains x.ns
      x.poison x.eccRec
  | [] =>
    if hits ≠ [] then t.bump (clsCtr p 2)
    else if h.etype = 0x22F0 then (t.bump (clsCtr p 1)).clsHost p h x
    else t.clsHost p h x

/-- PAUSE and PFC frames, which the port consumes (R104). -/
def isFlow (b : List Byte) (h : FrameHead) : Bool :=
  decide (h.tags = 0 ∧ h.etype = 0x8808 ∧ (be16 b 14 = 0x0001 ∨ be16 b 14 = 0x0101))

/-- The destination of a committed frame (R106).  Frames for the port, TIM and PAIR act through their own commands. -/
def State.classify (s : State) (p : Nat) (x : RxFrame) : State :=
  let h := frameHead x.bytes
  if isFlow x.bytes h then s
  else if h.tags = 2 then s.clsHost p h x
  else if s.isPtp x.bytes h then s
  else if hasPair s.member && decide (h.etype = fld (s.appliedW 0x18000) 0 16) then s
  else s.clsStream p h x

/-- Whether the fragments of a preempted frame make it whole (R99): a start, then continuations in the order of their counts,
each with a good mCRC. -/
def assembled (l : List RxFrag) : Bool :=
  match l with
  | [] => true
  | f :: t => f.start && f.crcOk && (t.zipIdx.all (fun g => !g.1.start && g.1.crcOk && decide (g.1.count = g.2 % 4)))

/-- The counter of the first failing check of R105, or none. -/
def State.rxFails (s : State) (p : Nat) (x : RxFrame) : Option Nat :=
  if !x.fcsOk then some 7
  else if x.bytes.length < 64 then some 8
  else if maxLen (s.macWAt p x.early 0x10) < x.bytes.length then some 9
  else if !assembled x.frags then some 10
  else if x.trimmed.isSome then some 13
  else none

-- DEDUCED, log 104: unsafe.
/-- The packets a committed frame reaches the classifier as: two where a word's end marks disagree, the first of them poisoned in
that word (R190). -/
def rxPackets (x : RxFrame) : List RxFrame :=
  match x.split with
  | none => [x]
  | some w =>
    let a := { x with bytes := x.bytes.take (8 * w + 8), poison := x.poison.filter (fun k => decide (k < w)) ++ [w] }
    let b := { x with bytes := x.bytes.drop (8 * w + 8), poison := (x.poison.filter (fun k => decide (w < k))).map (fun k => k - w - 1) }
    if b.bytes = [] then [a] else [a, b]

/-- A frame received on a port (R105, R111); a verify mPacket is answered by the port itself (R97). -/
def State.frameRx (s : State) (p : Nat) (x : RxFrame) : State :=
  if !(s.mac p).up then s
  else if x.verify then (if (s.mac p).sleep then s else s.emit (.respond p))
  else
    let s0 := s.modDpcPort p (fun d => { d with octRx := d.octRx + wireOctets x.bytes.length })
    match s.rxFails p x with
    | some c =>
      let t := s0.bump (macCtr p c)
      match x.trimmed with
      | some k => t.sdgOversize p k
      | none => t.sdgRewind p
    | none =>
      let t := ((s0.bump (macCtr p 5)).countBy (macCtr p 6) x.bytes.length).sdgPoison p 0
        ((rxPackets x).foldl (fun n y => n + y.poison.length) 0)
      if (s.mac p).sleep then t.wakeFrame p x.bytes else (rxPackets x).foldl (fun u y => u.classify p y) t

end Sys2Proof.Machine
end

