-- ==== Sys2Proof/Machine/Sap.lean ====
section
/-! DEFINITION. Serial audio ports (R290 to R310) and the rate converter bank (R311 to R316). -/

namespace Sys2Proof.Machine

/-- In pair mode without a tablet a unit's outputs are held (R137, R309, R349). -/
def State.fenced (s : State) : Bool := decide (s.pair.st ≠ 0) && !s.pair.driving

def sapReset (_ : Nat) : Sap :=
  { st := 0, fmt := 0x42A0, clkOk := false, rclass := 0, rate := 0, loss := 0, slip := 0, refuse := 0, aligned := false,
    badcfg := false, reqStart := false, reqStop := false, reqRestart := false, teamDue := false, startAt := 0, starting := false,
    wasStarted := false, resumeDue := false, outDue := none, outDone := true, window := false, winRamp := false, drift := 0,
    inRamp := restRamp (muteCode, true), inLast := [], inBlk := [], outLast := [], testing := false }

def State.sapOf (s : State) (p : Nat) : Sap := sget sapReset s.sap p

def State.setSap (s : State) (p : Nat) (v : Sap) : State := { s with sap := sset sapReset s.sap p v }

def State.modSap (s : State) (p : Nat) (f : Sap → Sap) : State := s.setSap p (f (s.sapOf p))

def sapBase (p : Nat) : Nat := 0x70000 + 0x400 * p
def sapCtr (p c : Nat) : Nat := sapBase p + 0x100 + 8 * c
def sapFlags (p : Nat) : Nat := sapBase p + 0xC

/-- Slot-map word of fabric slot `k`, direction `d`. -/
def slotAddr (p d k : Nat) : Nat := 0x6000000 + 0x100 * p + 0x80 * d + 4 * k

/-- SAP_CFG as in force, and a mask register. -/
def State.sapCfg (s : State) (p : Nat) : Word := s.inForceW (sapBase p)

/-! ### Fields of SAP_CFG -/

def sMaster (w : Word) : Bool := bitAt w 2
def sLock (w : Word) : Bool := bitAt w 3
def sWidth (w : Word) : Nat := [16, 24, 32, 32].getD (fld w 4 2) 32
def sDlen (w : Word) : Nat := [16, 20, 24, 32].getD (fld w 6 2) 32
def sSlots (w : Word) : Nat := fld w 8 6
def sEn (w : Word) : Bool := bitAt w 17
def sAuto (w : Word) : Bool := bitAt w 18
def sGroup (w : Word) : Nat := if 4 < fld w 19 3 then 0 else fld w 19 3
def sRamp (w : Word) : Nat := clampN 1 128 (fld w 22 8)
def sPairclk (w : Word) : Bool := bitAt w 30
def sIdleZ (w : Word) : Bool := bitAt w 31

/-- The format fields of R296. -/
def fmtMask : Word := 0x1FFFF

/-- SLOTS in the range of its format, DLEN within WIDTH. -/
def slotsOk (w : Word) : Bool :=
  decide (sDlen w ≤ sWidth w) &&
    (if fld w 0 2 ≤ 1 then decide (sSlots w = 2) else if fld w 0 2 = 2 then decide (1 ≤ sSlots w ∧ sSlots w ≤ 2)
     else decide (2 ≤ sSlots w ∧ sSlots w ≤ 32))

/-- The ratio of the media clock to the house rate (R83). -/
def clockRatio (rate : Nat) : Nat := scaleRate rate 1024

/-- R291 and R292 for a master at a house rate. -/
def masterOk (w : Word) (rate : Nat) : Bool :=
  slotsOk w && decide (rateHz rate * (sSlots w * sWidth w) ≤ 49152000)
    && decide (clockRatio rate % (sSlots w * sWidth w) = 0)

/-- Rate class of a house rate (R298). -/
def houseClass (rate : Nat) : Nat := [3, 5, 7, 2, 4, 6].getD rate 5

/-- R300's ramp in whole samples. -/
def State.sapRamp (s : State) (p : Nat) : Nat := max 1 (sRamp (s.sapCfg p) * s.rateHz / 2000)

/-- Whether MCR names the port in mode SAPFS. -/
def State.sapfs (s : State) (p : Nat) : Bool := decide (s.mcrMode = 4) && decide (fld (s.appliedW 0x24000) 8 3 = p)

/-- A fenced master with PAIRCLK runs as a slave on its clock pins (R309). -/
def State.sapMaster (s : State) (p : Nat) : Bool :=
  sMaster (s.sapOf p).fmt && !(s.fenced && sPairclk (s.sapCfg p))

/-- A port that is starting, running, stopping or restarting. -/
def sapBusy (st : Nat) : Bool := decide (st = 2 ∨ st = 3 ∨ st = 4 ∨ st = 6)

/-- The port's clock is present: a master drives its own while it is enabled, and until a stop that EN = 0 began has ended (R292,
R300). -/
def State.sapClock (s : State) (p : Nat) : Bool :=
  if s.sapMaster p then (sEn (s.sapCfg p) || sapBusy (s.sapOf p).st) && !(s.sapOf p).badcfg else (s.sapOf p).clkOk

/-- Media lock (R294, R309). -/
def State.mlock (s : State) (p : Nat) : Bool :=
  s.sapClock p && (s.sapMaster p ||
    (decide ((s.sapOf p).rclass = houseClass s.syn.rate)
      && (sLock (s.sapOf p).fmt || s.sapfs p || sMaster (s.sapOf p).fmt)))

def Sap.started (v : Sap) : Bool := sapBusy v.st || v.wasStarted

/-- STATE of a port at rest: disabled or stopped. -/
def State.sapIdle (s : State) (p : Nat) : Nat := if sEn (s.sapCfg p) then 1 else 0

def sapPresent (m : Member) (p : Nat) : Bool := decide (p < numSap m)

/-! ### Rate conversion: channels and admission -/

def asrcReset (_ : Nat) : AsrcCh := { admitted := false, overcap := false, st := 0, cfg := 0, last := 0, fade := 0 }

def trkReset (_ : Nat) : Tracker := { st := 0, ratio := 0 }

def State.chOf (s : State) (n : Nat) : AsrcCh := sget asrcReset s.asrc.ch n
def State.setCh (s : State) (n : Nat) (v : AsrcCh) : State :=
  { s with asrc := { s.asrc with ch := sset asrcReset s.asrc.ch n v } }

def State.trkOf (s : State) (p : Nat) : Tracker := sget trkReset s.asrc.trk p
def State.setTrk (s : State) (p : Nat) (v : Tracker) : State :=
  { s with asrc := { s.asrc with trk := sset trkReset s.asrc.trk p v } }

def aEn (w : Word) : Bool := bitAt w 0
def aOut (w : Word) : Bool := bitAt w 1
def aPort (w : Word) : Nat := fld w 4 3
def aSlot (w : Word) : Nat := fld w 8 5

def State.asrcW (s : State) (n : Nat) : Word := s.appliedW (0x74100 + 8 * n)

/-- Channels that are enabled, ascending. -/
def State.asrcOn (s : State) : List Nat := (List.range (numAsrc s.member)).filter (fun n => aEn (s.asrcW n))

/-- Whether any junction has, or is to have, a source. -/
def State.selected (s : State) (c : Nat) : Bool :=
  s.mix.junc.any (fun p => decide (p.2.cur = c) || decide (p.2.pend = some c)
    || (match p.2.fade with | some f => decide (f.old = c ∨ f.new = c) | none => false))

/-- A sleeping channel (R312). -/
def State.asleep (s : State) (n : Nat) : Bool :=
  let w := s.asrcW n
  !(s.sapOf (aPort w)).started ||
    (if aOut w then s.mlock (aPort w) || (List.range n).any (fun k =>
        aEn (s.asrcW k) && aOut (s.asrcW k) && decide (aPort (s.asrcW k) = aPort w ∧ aSlot (s.asrcW k) = aSlot w))
     else !s.selected (0x2900 + n))

/-- Load units of a channel (R311). -/
def State.asrcCost (s : State) (n : Nat) : Nat :=
  let c := (s.sapOf (aPort (s.asrcW n))).rclass
  if c = 0 ∨ 8 ≤ c ∨ 6 ≤ c ∨ 96000 < s.rateHz then 2 else 1

-- DEDUCED, log 50: unsafe.
/-- The channel fades to silence and refills its filter (R314). -/
def State.asrcRefill (s : State) (n : Nat) : State :=
  let v := s.chOf n
  if v.admitted then s.setCh n { v with st := if (s.trkOf (aPort (s.asrcW n))).st = 2 then 1 else 3 } else s

/-- Every channel of a port refills. -/
def State.asrcPort (s : State) (p : Nat) : State :=
  (s.asrcOn.filter (fun n => decide (aPort (s.asrcW n) = p))).foldl State.asrcRefill s

/-- Every channel refills: a house-rate change, a media-position step. -/
def State.asrcAll (s : State) : State := s.asrcOn.foldl State.asrcRefill s

/-- One channel at an admission: admitted while units remain, over capacity otherwise, off when not enabled. -/
def State.asrcAdmitOne (s : State) (n : Nat) : State :=
  let v := s.chOf n
  let w := s.asrcW n
  if !aEn w then s.setCh n { v with admitted := false, overcap := false, st := 0, cfg := w, fade := 0 }
  else if s.asrc.units + s.asrcCost n ≤ 256 then
    let t := { s with asrc := { s.asrc with units := s.asrc.units + s.asrcCost n } }
    let u := t.setCh n { v with admitted := true, overcap := false, cfg := w }
    if v.admitted ∧ (v.cfg ^^^ w) &&& 0x1F76 = 0 then u else u.asrcRefill n
  else s.setCh n { v with admitted := false, overcap := true, st := 0, cfg := w, fade := 0 }

/-- Admission of R311. -/
def State.asrcAdmit (s : State) : State :=
  let t := (List.range (numAsrc s.member)).foldl State.asrcAdmitOne { s with asrc := { s.asrc with units := 0 } }
  if t.asrc.ch.any (fun c => c.2.overcap) then t.flagRaise 0x74004 0x1 71 else t

/-- Trackers of ports without an awake channel are IDLE, others leave it (R313). -/
def State.trkTick (s : State) : State :=
  (List.range (numTracker s.member)).foldl (fun t p =>
    let awake := t.asrcOn.any (fun n => decide (aPort (t.asrcW n) = p) && !t.asleep n)
    let k := t.trkOf p
    if !awake ∧ k.st ≠ 0 then t.setTrk p { k with st := 0 }
    else if awake ∧ k.st = 0 then t.setTrk p { k with st := 1 } else t) s

/-- Tracker counts and events of R313: UNLOCK. -/
def State.asrcUnlockEvt (s : State) : State := (s.bump 0x74A08).flagRaise 0x74004 0x4 69

/-- A tracker falls from LOCKED to ACQUIRE. -/
def State.trkUnlock (s : State) (p : Nat) : State :=
  if (s.trkOf p).st = 2 then ((s.setTrk p { s.trkOf p with st := 1 }).asrcUnlockEvt).asrcPort p else s

/-- A tracker enters RANGE. -/
def State.trkRange (s : State) (p : Nat) : State :=
  if (s.trkOf p).st = 1 ∨ (s.trkOf p).st = 2 then
    ((s.setTrk p { s.trkOf p with st := 3 }).flagRaise 0x74004 0x2 70).asrcPort p
  else s

/-- What a tracker needs to lock (R313): a valid class, the port's clock, and a ratio from 0.25 to 4. -/
def State.trkValid (s : State) (p ratio : Nat) : Bool :=
  decide (1 ≤ (s.sapOf p).rclass ∧ (s.sapOf p).rclass ≤ 8 ∧ 2 ^ 26 ≤ ratio ∧ ratio ≤ 2 ^ 30) && s.sapClock p

/-- A tracker reaches LOCKED at a ratio; its muted channels fill. -/
def State.trkLock (s : State) (p ratio : Nat) : State :=
  if ((s.trkOf p).st = 1 ∨ (s.trkOf p).st = 3) ∧ s.trkValid p ratio then (s.setTrk p { st := 2, ratio := ratio }).asrcPort p
  else s

-- DEDUCED, log 50: unsafe.
/-- A channel with a locked tracker and a full filter fades in (R314). -/
def State.asrcFadeIn (s : State) (n : Nat) : State :=
  let v := s.chOf n
  if v.admitted ∧ v.st = 1 ∧ (s.trkOf (aPort v.cfg)).st = 2 ∧ !s.asleep n then s.setCh n { v with st := 2 } else s

/-- The fade gain of a channel after each of `t` samples. -/
def fadeStep (running : Bool) (g : Nat) : Nat := if running then min 32 (g + 1) else g - 1

/-- One block of a channel's samples from raw ones. -/
def asrcFade (running : Bool) (g0 : Nat) (xs : List Int) : Nat × List Int :=
  xs.foldl (fun a x => (fadeStep running a.1, a.2 ++ [fadeMul (fadeStep running a.1) x])) (g0, [])

/-- Poisoned samples that reached a converter channel (R316). -/
def State.asrcPoison (s : State) (n : Nat) : State :=
  if n = 0 then s else (s.countBy 0x74A00 n).flag 0x74004 0x8

-- DESIGN CHOICE, log 16: safe.
/-- What a channel puts out for a block of `n` samples from label `l` on, `took` being what it took in (R314, R315); the samples
`bad` of it are poisoned, replaced by the last good one and counted (R316). -/
def State.asrcRun (s : State) (c n l : Nat) (took : List Int) (bad : List Nat) : State × List Int :=
  let v := s.chOf c
  if !v.admitted ∨ s.asleep c then (s, List.replicate n 0)
  else
    let hits := bad.dedup.filter (fun i => decide (i < took.length))
    let good := holdGood v.last hits took
    let raw := (List.range n).map (fun i => satTo 32 (Config.asrcSample c (l + i) i good))
    let r := asrcFade (decide (v.st = 2)) v.fade raw
    ((s.setCh c { v with fade := r.1, last := good.getLastD v.last }).asrcPoison hits.length, r.2)

/-! ### Adoption (R295 to R297) -/

/-- The words of a port: its registers and its slot maps. -/
def sapKey (p a : Nat) : Bool :=
  decide (sapBase p ≤ a ∧ a < sapBase p + 0x400) || decide (slotAddr p 0 0 ≤ a ∧ a < slotAddr p 0 0 + 0x100)

/-- Two output slots in use name one wire slot. -/
def State.mapDup (s : State) (p : Nat) : Bool :=
  let used := (List.range 32).filter (fun k => bitAt (s.inForceW (slotAddr p 1 k)) 8)
  let wires := used.map (fun k => fld (s.inForceW (slotAddr p 1 k)) 0 5)
  decide (wires.dedup.length < wires.length)

-- DEDUCED, log 47: unsafe.
/-- A stop begins (R300): both directions ramp down. -/
def State.sapStop (s : State) (p : Nat) : State :=
  let v := s.sapOf p
  let len := s.sapRamp p
  if v.st = 2 ∨ v.st = 3 ∨ v.st = 6 then
    let lock := s.mlock p
    let t := s.setSap p { v with
      st := 4, starting := false, outDone := false, outDue := if lock then some (s.tt.now, false) else none, resumeDue := false,
      reqRestart := false, teamDue := false, inRamp := v.inRamp.toward (muteCode, true) len }
    if lock then t else t.muteOn (mkSap p) .port len
  else if v.st = 5 then
    s.setSap p { v with st := if sEn (s.sapCfg p) then 5 else 0, wasStarted := false, window := false, teamDue := false }
  else s

/-- The port stops at once, muted; one whose clock is lost goes on reporting that. -/
def State.sapHalt (s : State) (p : Nat) : State :=
  let v := s.sapOf p
  let t := s.setSap p { v with
    st := if v.st = 5 then 5 else s.sapIdle p, starting := false, outDue := none, resumeDue := false, reqRestart := false,
    teamDue := false, wasStarted := false, window := false, winRamp := false, drift := 0, inRamp := restRamp (muteCode, true),
    inLast := [], inBlk := [], outLast := [] }
  (t.muteOn (mkSap p) .port 0).asrcPort p

/-- A master that is not started judges its format (R297). -/
def State.sapJudge (s : State) (p : Nat) : State :=
  let v := s.sapOf p
  if sMaster v.fmt && !masterOk v.fmt s.syn.rate then
    (if v.badcfg then s else (s.setSap p { v with badcfg := true }).flagRaise (sapFlags p) 0x8 67)
  else s.setSap p { v with badcfg := false }

/-- A port that is not started takes its format (R296); a master judges one that it had not judged bad already. -/
def State.sapFormat (s : State) (p : Nat) : State :=
  let v := s.sapOf p
  let f := s.appliedW (sapBase p) &&& fmtMask
  (s.setSap p { v with
    fmt := f, badcfg := v.badcfg && decide (v.fmt = f),
    st := if v.st ≤ 1 ∨ (v.st = 5 ∧ !sEn (s.sapCfg p)) then s.sapIdle p else v.st }).sapJudge p

/-- The port adopts its applied values at a frame sync (R296). -/
def State.sapAdopt (s : State) (p : Nat) : State :=
  let reg := { s.reg with
    inForce := replaceWhere (sapKey p) s.reg.inForce s.reg.applied,
    waiting := s.reg.waiting.filter (fun x => x.2 ≠ bSAP p) }
  let t := { s with reg := reg }
  let v := t.sapOf p
  let a :=
    if v.started then (if sEn (t.sapCfg p) then t else t.sapStop p)
    else t.sapFormat p
  if t.mapDup p then a.flagRaise (sapFlags p) 0x10 67 else a

/-! ### Start (R301) -/

/-- The lowest failing start check. -/
def State.sapCause (s : State) (p : Nat) : Nat :=
  let w := s.appliedW (sapBase p)
  let v := s.sapOf p
  if !slotsOk w || (sMaster w && !masterOk w s.syn.rate) then 1
  else if !sEn w then 2
  else if sapBusy v.st || v.testing then 3
  else if s.reg.hstop.getLsbD (16 + p) then 4
  else if !s.tt.rateOk then 5
  else 0

-- DEDUCED, log 48: unsafe.
/-- A start at label `pos`: media-locked ports from that label on, others from their first frame sync. -/
def State.sapStart (s : State) (p pos : Nat) : State :=
  let k := s.sapCause p
  if k ≠ 0 then (s.modSap p (fun v => { v with refuse := k })).flagRaise (sapFlags p) 0x20 68
  else
    let v := s.sapOf p
    let t := s.setSap p { v with
      st := 2, fmt := s.appliedW (sapBase p) &&& fmtMask, aligned := true, startAt := pos, drift := 0, winRamp := false,
      inLast := [], inBlk := [], outLast := [], inRamp := restRamp (muteCode, true), badcfg := false }
    if t.mlock p then
      t.modSap p (fun x => { x with inRamp := x.inRamp.toward (0, false) (t.sapRamp p), outDue := some (pos, true) })
    else t.modSap p (fun x => { x with starting := true })

/-- A SAP_START departure: every port of its mask (R36). -/
def State.sapStartMask (s : State) (m pos : Nat) : State :=
  (bitsOf 8 m).foldl (fun t p => if sapPresent t.member p then t.sapStart p pos else t) s

def State.sapStopMask (s : State) (m : Nat) : State := (bitsOf 8 m).foldl State.sapStop s

/-! ### Slip, restart and clock loss -/

/-- The port enters hard stop (R308). -/
def State.sapHstop (s : State) (p : Nat) : State :=
  let t := s.modSap p (fun v => { v with
    st := 7, starting := false, outDue := none, resumeDue := false, reqRestart := false, teamDue := false, wasStarted := false,
    inBlk := [], inRamp := restRamp (muteCode, true) })
  (t.muteOn (mkSap p) .port 0).enterHstop (16 + p)

/-- Started members of a port's alignment group, or the port alone (R307). -/
def State.sapTeam (s : State) (p : Nat) : List Nat :=
  let g := sGroup (s.sapCfg p)
  if g = 0 then [p]
  else (List.range (numSap s.member)).filter (fun q => decide (sGroup (s.sapCfg q) = g) && (s.sapOf q).started
    && decide ((s.sapOf q).st ≠ 7))

/-- One port fades to mute over T samples, to resume at the next boundary (R306). -/
def State.sapFadeOne (s : State) (p : Nat) : State :=
  let v := s.sapOf p
  if v.st = 3 ∨ v.st = 2 ∨ (v.st = 5 ∧ v.clkOk ∧ v.wasStarted) then
    ((s.setSap p { v with st := 6, resumeDue := false, outDue := none, starting := false, wasStarted := false, reqRestart := false,
                          teamDue := false, inRamp := v.inRamp.toward (muteCode, true) s.T }).muteOn (mkSap p) .port s.T).asrcPort p
  else s.setSap p { v with reqRestart := false, teamDue := false }

/-- A restart detected at a boundary, alone or with the group (R306, R307). -/
def State.sapRestart (s : State) (p : Nat) : State :=
  (s.sapTeam p).foldl State.sapFadeOne (s.modSap p (fun v => { v with teamDue := false }))

-- DEDUCED, log 49: unsafe.
/-- A slip (R304, R305, R308): 1 overrun, 2 underrun, 3 framing.  A group restarts although the member that slipped goes into hard
stop, and the slip of a member that restarts already merges into that restart (R307). -/
def State.sapSlip (s : State) (p cause : Nat) : State :=
  let v := s.sapOf p
  if v.st = 3 ∨ v.st = 4 ∨ v.st = 6 then
    let restart := decide (sGroup (s.sapCfg p) ≠ 0) || sAuto (s.sapCfg p)
    let t := (((s.setSap p { v with aligned := false, slip := cause, drift := 0 }).flag (sapFlags p) 0x4).bump
      (sapCtr p 0)).raise 66
    if v.window then (t.sapHstop p).modSap p (fun x => { x with teamDue := decide (sGroup (s.sapCfg p) ≠ 0) })
    else if restart ∧ v.st ≠ 4 then t.modSap p (fun x => { x with window := true, winRamp := false, teamDue := decide (v.st = 3) })
    else t
  else s

/-- A slave's clock is lost (R302, R308): 1 BCLK, 2 FS, 3 RATE.  A port in hard stop shows the loss and nothing more (R242); one
lost again before it has restarted is lost inside its window. -/
def State.sapClkLoss (s : State) (p cause : Nat) : State :=
  let v := s.sapOf p
  let rateOk := decide (cause ≠ 3) || ((sLock v.fmt || s.sapfs p) && decide (v.rclass ≠ houseClass s.syn.rate))
  if !s.sapMaster p && sEn (s.sapCfg p) && v.clkOk && rateOk then
    if v.st = 7 then s.setSap p { v with clkOk := false, loss := cause } else
    let live := sapBusy v.st
    let len := s.sapRamp p
    let t := (((s.setSap p { v with
      st := 5, clkOk := false, loss := cause, wasStarted := live || v.wasStarted, starting := false,
      outDue := none, resumeDue := false, reqRestart := false, teamDue := false, window := v.window || live,
      inLast := if s.mlock p || decide (cause = 3) then v.inLast else [], inBlk := [], winRamp := false, inRamp := v.inRamp.toward (muteCode, true) len }).flag (sapFlags p) 0x1).bump (sapCtr p 1)).raise 64
    let u := (t.muteOn (mkSap p) .port len).asrcPort p
    if v.window ∧ (live ∨ v.wasStarted) then u.sapHstop p else u
  else s

/-- The clock has returned and agrees on its rate (R303). -/
def State.sapClkBack (s : State) (p : Nat) : State :=
  let v := s.sapOf p
  if v.clkOk ∨ s.sapMaster p ∨ (v.loss = 3 ∧ v.rclass ≠ houseClass s.syn.rate) then s
  else if v.st = 5 then
    (if v.wasStarted then s.setSap p { v with clkOk := true, teamDue := true }
     else s.setSap p { v with clkOk := true, st := s.sapIdle p })
  else s.setSap p { v with clkOk := true }

/-- One port resumes (R306): its lanes are flushed and it ramps up. -/
def State.sapResumeOne (s : State) (p : Nat) : State :=
  let v := s.sapOf p
  if v.st = 6 ∧ v.resumeDue then
    let lock := s.mlock p
    let len := s.sapRamp p
    s.setSap p { v with
      st := 3, resumeDue := false, aligned := true, drift := 0, startAt := s.tt.now, starting := !lock,
      outDue := if lock then some (s.tt.now, true) else none,
      winRamp := v.window,
      inLast := [], inBlk := [], outLast := [], inRamp := if lock then v.inRamp.toward (0, false) len else v.inRamp }
  else s

-- DEDUCED, log 47: unsafe.
-- DEDUCED, log 48: unsafe.
/-- The restarting port, with its group (R307). -/
def State.sapResume (s : State) (p : Nat) : State := (p :: s.sapTeam p).foldl State.sapResumeOne s

/-- The stop ramp has ended, in both directions. -/
def State.sapStopEnd (s : State) (p : Nat) : State :=
  let v := s.sapOf p
  if v.st = 4 ∧ v.inRamp.atRest ∧ v.outDue.isNone ∧ v.outDone then s.sapHalt p else s

/-- The ramp up after a restart has ended: the window closes (R308). -/
def State.sapRampEnd (s : State) (p : Nat) : State :=
  let v := s.sapOf p
  if v.window ∧ v.winRamp ∧ v.st = 3 ∧ !v.starting ∧ v.inRamp.atRest then s.setSap p { v with window := false, winRamp := false } else s

/-- A new rate class is adopted (R298), which also unlocks the port's tracker (R313). -/
def State.sapClass (s : State) (p c : Nat) : State :=
  let v := s.sapOf p
  if sEn (s.sapCfg p) && decide (v.rclass ≠ c ∧ c ≤ 9) then
    let t := (s.setSap p { v with rclass := c, clkOk := v.clkOk || (decide (c ≠ 0) && decide (v.st ≠ 5)) }).flagRaise
      (sapFlags p) 0x2 65
    if p < numTracker s.member then
      let k := t.trkOf p
      ((t.setTrk p { k with st := if k.st = 2 then 1 else k.st }).asrcUnlockEvt).asrcPort p
    else t
  else s

/-- Started ports stop where step 3 of a house-rate change begins (R309). -/
def State.sapRateStop (s : State) : State :=
  (List.range (numSap s.member)).foldl (fun t p =>
    if (t.sapOf p).started then (t.sapHalt p).flag (sapFlags p) 0x40 else t) s

/-- After a house-rate change masters judge their format at the new rate (R309). -/
def State.sapRejudge (s : State) : State := (List.range (numSap s.member)).foldl State.sapJudge s

/-! ### A tick of the ports -/

/-- SAP_CTL as written: each bit acts at the next boundary. -/
def State.sapCtl (s : State) (p : Nat) (w : Word) : State :=
  s.modSap p (fun v => { v with reqStart := v.reqStart || bitAt w 0, reqStop := v.reqStop || bitAt w 1,
                                reqRestart := v.reqRestart || bitAt w 2 })

-- DEDUCED, log 48: unsafe.
/-- Boundary requests and slips of one port; `fill` is the fill error of a lane that is not media-locked. -/
def State.sapBoundary (s : State) (fill : List (Nat × Int)) (p : Nat) : State :=
  let v := s.sapOf p
  let f := ((fill.find? (fun x => x.1 == p)).map (fun x => x.2)).getD 0
  let d := if s.mlock p then v.drift else f
  let t := if (v.st = 3 ∨ v.st = 4 ∨ v.st = 6) ∧ 2 ≤ d.natAbs then s.sapSlip p (if 0 < d then 1 else 2) else s
  let a := if v.reqStart then (t.modSap p (fun x => { x with reqStart := false })).sapStart p s.tt.now else t
  let b := if v.reqStop then (a.modSap p (fun x => { x with reqStop := false })).sapStop p else a
  let c := if (b.sapOf p).teamDue then b.sapRestart p else b
  if (c.sapOf p).reqRestart then c.sapFadeOne p else c

-- DEDUCED, log 47: unsafe.
/-- Ticks from a label's ingress to its mute stage at the port's sinks: a standard sink delivers one tick later (R33). -/
def State.sapLag (s : State) (p : Nat) : Nat :=
  if s.mix.junc.all (fun e => !(decide ((0x1800 + 32 * p) ≤ e.1 ∧ e.1 < 0x1820 + 32 * p)) || s.mix.low.contains e.1) then 0
  else s.T

-- DEDUCED, log 48: unsafe.
/-- What a boundary brings a port that started or restarted before it: the fade of a restart has taken its tick, so it may
resume from now on (R306), and an output ramp reaches the block of its first label (R300, R34). -/
def State.sapFaded (s : State) (p : Nat) : State :=
  let v := s.sapOf p
  if v.st = 6 then s.setSap p { v with resumeDue := true }
  else match v.outDue with
    | some (l, up) =>
      if l + s.sapLag p < s.tt.now then
        let t := s.setSap p { v with outDue := none }
        if up then t.muteOff (mkSap p) .port (s.sapRamp p) else t.muteOn (mkSap p) .port (s.sapRamp p)
      else s
    | none => s

/-- A media-position step: ports run on and labels follow the new position (R309). -/
def State.sapStepped (s : State) : State :=
  (List.range (numSap s.member)).foldl (fun t p => t.modSap p (fun v => { v with
    startAt := min v.startAt s.tt.now, outDue := v.outDue.map (fun d => (min d.1 s.tt.now, d.2)) })) s

def State.sapBoundaries (s : State) (fill : List (Nat × Int)) : State :=
  (List.range (numSap s.member)).foldl (State.sapBoundary · fill) ((List.range (numSap s.member)).foldl State.sapFaded s)

/-- A left-justified wire word of `dlen` bits as a fabric word (R257, R291). -/
def sapWord (dlen : Nat) (w : Word) : Int := asr 6 (signed 32 (w.toNat / 2 ^ (32 - dlen) * 2 ^ (32 - dlen)) + 32)

/-- A limited word on the wire. -/
def wireSlot (dlen : Nat) (x : Int) : Word :=
  toWord ((satTo 32 (x * 64) % 2 ^ 32).toNat / 2 ^ (32 - dlen) * 2 ^ (32 - dlen))

/-- Input slots in use with their wire slots (R295). -/
def State.inSlots (s : State) (p : Nat) (bad : List Nat) : List (Nat × Nat) :=
  (List.range 32).filterMap (fun k =>
    let w := s.inForceW (slotAddr p 0 k)
    if bitAt w 8 && decide (fld w 0 5 < sSlots (s.sapOf p).fmt) && bitAt (s.inForceW (sapBase p + 0x18)) (fld w 0 5)
      && !bad.contains (slotAddr p 0 k) then some (k, fld w 0 5) else none)

/-- One input slot for a block of `t` frames: words, last good word, and poisoned words replaced. -/
def slotBlock (t dlen w : Nat) (frames : List (List Word)) (poison : List (Nat × Nat)) (last : Int) : List Int × Int × Nat :=
  (List.range t).foldl (fun a i =>
    match frames[i]? with
    | none => (a.1 ++ [a.2.1], a.2.1, a.2.2)
    | some f =>
      if poison.contains (i, w) then (a.1 ++ [a.2.1], a.2.1, a.2.2 + 1)
      else
        let x := sapWord dlen (f.getD w 0)
        (a.1 ++ [x], x, a.2.2)) ([], last, 0)

/-- Sample `i` under a ramp. -/
def Ramp.scale (r : Ramp) (i : Nat) (x : Int) : Int :=
  if r.factorAt i = 2 ^ 28 then x else roundShift 28 (x * Int.ofNat (r.factorAt i))

/-- Words that a port's siding delivered poisoned (R190, R310): `first` is 12 for SAPI, 20 for SAPO. -/
def State.sapPoison (s : State) (p first n : Nat) : State :=
  if n = 0 then s else ((s.countBy (sapCtr p 3) n).flag (sapFlags p) 0x80).sdgPoison (first + p) 0 n

-- DEDUCED, log 49: unsafe.
/-- The input side of one port for the tick whose block is gathered (R257, R302, R304, R310).  The slots of a port that is not
media-locked are kept as its frames brought them, for its converter channels, with the port's ramp (R300). -/
def State.sapIn (s : State) (p : Nat) (frames : List (List Word)) (poison : List (Nat × Nat)) (bad : List Nat)
    (src : SMap (List Int)) : State × SMap (List Int) :=
  let v0 := s.sapOf p
  let lock := s.mlock p
  let begins := (v0.st = 2 ∧ lock ∧ v0.startAt < s.tt.now + s.T) ∨ (v0.starting ∧ frames ≠ [])
  let len := s.sapRamp p
  let s1 :=
    if begins then
      (if v0.starting then
        (s.setSap p { v0 with st := if v0.st = 2 then 3 else v0.st, starting := false,
                              inRamp := v0.inRamp.toward (0, false) len }).muteOff (mkSap p) .port len
       else s.setSap p { v0 with st := 3 })
    else s
  let v := s1.sapOf p
  let k := if lock ∧ s.tt.now < v.startAt then v.startAt - s.tt.now else 0
  if v.st = 3 ∨ v.st = 4 ∨ v.st = 6 then
    let dlen := sDlen v.fmt
    let n := frames.length - k
    let got := (s1.inSlots p bad).map (fun kw =>
      (kw.1, slotBlock (if lock then s.T else frames.length) dlen kw.2 frames poison (sget izero v.inLast kw.1)))
    let blk : SMap (List Int) := got.map (fun b =>
      (b.1, b.2.1.zipIdx.map (fun x => if x.2 < k then 0 else v.inRamp.scale (x.2 - k) x.1)))
    let t := s1.setSap p { v with
      inLast := got.foldl (fun m b => sset izero m b.1 b.2.2.1) v.inLast, inBlk := blk,
      drift := v.drift + Int.ofNat n - Int.ofNat (s.T - k), inRamp := v.inRamp.run (s.T - k) }
    ((t.countBy (sapCtr p 2) n).sapPoison p 12 (got.map (fun b => b.2.2.2)).sum,
      if lock then blk.foldl (fun m b => sset (fun _ => []) m (0x2800 + 32 * p + b.1) b.2) src else src)
  else if v.st = 5 then
    let xs (x : Int) : List Int := (List.range s.T).map (fun i => v.inRamp.scale i x)
    (s1.setSap p { v with inRamp := v.inRamp.run s.T },
      v.inLast.foldl (fun m x => sset (fun _ => []) m (0x2800 + 32 * p + x.1) (xs x.2)) src)
  else (s1.setSap p { v with inRamp := v.inRamp.run s.T, inBlk := [] }, src)

/-- The samples of one channel in a list of poisoned ones. -/
def hitsOf (poison : List (Nat × Nat)) (c : Nat) : List Nat := (poison.filter (fun x => decide (x.1 = c))).map (fun x => x.2)

-- DESIGN CHOICE, log 94: safe.
/-- The rate converter's input channels: what they make of what their slots brought, under their source codes, in the fabric
stage (R33). -/
def State.asrcIngress (s : State) (poison : List (Nat × Nat)) (src : SMap (List Int)) : State × SMap (List Int) :=
  (s.asrcOn.filter (fun n => !aOut (s.asrcW n))).foldl (fun a n =>
    let w := s.asrcW n
    let r := a.1.asrcRun n s.T s.mix.lab1 (blockOf (s.sapOf (aPort w)).inBlk (aSlot w)) (hitsOf poison n)
    (r.1, sset (fun _ => []) a.2 (0x2900 + n) r.2)) (s, src)

/-- Every port at ingress. -/
def State.sapIngress (s : State) (frames : List (Nat × List (List Word))) (poison : List (Nat × Nat × Nat))
    (bad : List Nat) (src : SMap (List Int)) : State × SMap (List Int) :=
  (List.range (numSap s.member)).foldl (fun a p =>
    a.1.sapIn p (((frames.find? (fun f => f.1 == p)).map (fun f => f.2)).getD [])
      ((poison.filter (fun x => x.1 == p)).map (fun x => x.2)) bad a.2) (s, src)

/-- The fabric output slot that drives wire slot `w`: the lowest in use that names it (R295). -/
def State.outSlot (s : State) (p w : Nat) (bad : List Nat) : Option Nat :=
  (List.range 32).find? (fun k =>
    let m := s.inForceW (slotAddr p 1 k)
    bitAt m 8 && decide (fld m 0 5 = w) && !bad.contains (slotAddr p 1 k))

/-- The output channel that feeds a fabric output slot of a port that is not media-locked. -/
def State.outChannel (s : State) (p k : Nat) : Option Nat :=
  s.asrcOn.find? (fun n => aOut (s.asrcW n) && decide (aPort (s.asrcW n) = p ∧ aSlot (s.asrcW n) = k) && !s.asleep n)

/-- The word a fabric output slot puts out in frame `i` of the tick: from the fabric, for labels the port's start has
reached, or from its converter. -/
def State.outWord (s : State) (p k i : Nat) (conv : SMap (List Int)) : Int :=
  let j := 0x1800 + 32 * p + k
  if s.mlock p then
    let lab := if s.mix.low.contains j then s.mix.lab1 else s.mix.lab2
    if lab + i < (s.sapOf p).startAt then 0 else (blockOf s.mix.egress j).getD i 0
  else (blockOf conv k).getD i 0

/-- One frame of one port on its output pin. -/
def State.outFrame (s : State) (p i : Nat) (poison : List (Nat × Nat)) (bad : List Nat) (conv : SMap (List Int)) : State :=
  let v := s.sapOf p
  let idle : Option Word := if sIdleZ (s.sapCfg p) then none else some 0
  let go := (List.range (min 32 (sSlots v.fmt))).foldl (fun (a : SMap Int × List (Option Word) × Nat) w =>
    if s.fenced then (a.1, a.2.1 ++ [none], a.2.2)
    else if !bitAt (s.inForceW (sapBase p + 0x1C)) w then (a.1, a.2.1 ++ [idle], a.2.2)
    else
      let x := match s.outSlot p w bad with | some k => s.outWord p k i conv | none => 0
      let hit := poison.contains (i, w)
      let y := if hit then sget izero a.1 w else x
      (sset izero a.1 w y, a.2.1 ++ [some (wireSlot (sDlen v.fmt) y)], a.2.2 + b2n hit)) (v.outLast, [], 0)
  ((s.setSap p { v with outLast := go.1 }).sapPoison p 20 go.2.2).emit (.sap p (s.tt.now + i) go.2.1)

/-- A frame of a port whose slots all idle: one that is not running, or held by R309 (R295). -/
def State.idleFrame (s : State) (p i : Nat) : State :=
  s.emit (.sap p (s.tt.now + i) (List.replicate (min 32 (sSlots (s.sapOf p).fmt))
    (if s.fenced || sIdleZ (s.sapCfg p) then none else some 0)))

/-- The output of a tick has gone out; at rest, its ramp has wholly. -/
def State.sapOutMark (s : State) (p : Nat) : State :=
  s.modSap p (fun v => { v with outDone := v.outDone || (v.outDue.isNone && (s.muteOf (mkSap p)).ramp.atRest) })

/-- The output side of one port for a tick: T frames when media-locked, else as many as its clock made. -/
def State.sapOut (s : State) (p n : Nat) (poison : List (Nat × Nat)) (bad : List Nat) (asrcBad : List (Nat × Nat)) : State :=
  let v := s.sapOf p
  let frames := if s.mlock p then s.T else n
  if v.st = 3 ∨ v.st = 4 ∨ v.st = 6 ∨ (v.st = 2 ∧ s.mlock p) then
    let lock := s.mlock p
    let conv := if lock then (s, ([] : SMap (List Int))) else
      (List.range 32).foldl (fun (a : State × SMap (List Int)) k =>
        match s.outChannel p k with
        | some c =>
          let r := a.1.asrcRun c n s.tt.now (blockOf s.mix.egress (0x1800 + 32 * p + k)) (hitsOf asrcBad c)
          (r.1, sset (fun _ => []) a.2 k r.2)
        | none => a) (s, [])
    ((List.range frames).foldl (fun t i => t.outFrame p i poison bad conv.2) conv.1).sapOutMark p
  else if sEn (s.sapCfg p) then (List.range frames).foldl (fun t i => t.idleFrame p i) s
  else s

def State.sapEgress (s : State) (frames : List (Nat × List (List Word))) (poison : List (Nat × Nat × Nat))
    (bad : List Nat) (conv : List (Nat × Nat)) : State :=
  (List.range (numSap s.member)).foldl (fun t p =>
    t.sapOut p (((frames.find? (fun f => f.1 == p)).map (fun f => f.2.length)).getD 0)
      ((poison.filter (fun x => x.1 == p)).map (fun x => x.2)) bad conv) s

/-- The reset of a port under R240: stopped, outputs muted. -/
def State.sapUnitReset (s : State) (p : Nat) : State :=
  let v := s.sapOf p
  let t := s.setSap p { sapReset p with
    fmt := s.appliedW (sapBase p) &&& fmtMask, clkOk := v.clkOk, rclass := v.rclass, rate := v.rate, st := s.sapIdle p }
  ((t.setRc (sapFlags p) 0).muteOn (mkSap p) .port 0).asrcPort p

end Sys2Proof.Machine
end

