-- ==== Sys2Proof/Machine/Pwr.lean ====
section
/-! DEFINITION. The loudspeaker power stage (R317 to R345). -/

namespace Sys2Proof.Machine

def State.pwrCh (s : State) (c : Nat) : PwrCh := if c = 0 then s.pwr.a else s.pwr.b

def State.setPwrCh (s : State) (c : Nat) (v : PwrCh) : State :=
  if c = 0 then { s with pwr := { s.pwr with a := v } } else { s with pwr := { s.pwr with b := v } }

def State.modPwrCh (s : State) (c : Nat) (f : PwrCh → PwrCh) : State := s.setPwrCh c (f (s.pwrCh c))

/-- A power-die word in force, by its offset in T-space 0x07; and as applied. -/
def State.pdW (s : State) (o : Nat) : Word := s.inForceW (0x7000000 + o)
def State.pdApplied (s : State) (o : Nat) : Word := s.appliedW (0x7000000 + o)

def pdFlags : Nat := 0x700000C
def pwrCtr (c : Nat) : Nat := 0x80100 + 8 * c
def chOff (c : Nat) : Nat := 0x100 + 0x80 * c

/-! ### Fields -/

def cmRamp (w : Word) : Nat := clampN 20 80 (fld w 8 7)
def aRamp (w : Word) : Nat := max 1 (fld w 16 16)
def retryInterval (w : Word) : Nat := clampN 50 1600 (fld w 0 11)
def retryMax (w : Word) : Nat := fld w 16 8
def ilim (w : Word) : Nat := clampN 8 24 (fld w 0 5)
def knee (w : Word) : Nat := clampN 45 260 (fld w 0 9)
def pvddMin (w : Word) : Nat := clampN 45 260 (fld w 16 9)
def foldT (w : Word) : Nat := clampN 90 120 (fld w 0 8)
def fslope (w : Word) : Nat := fld w 8 8
def fmax (w : Word) : Nat := min 40 (fld w 16 8)
def vfsF (w : Word) : Nat := clampN 10 260 (fld w 0 9)
def xlimF (w : Word) : Bool := bitAt w 10
def battF (w : Word) : Bool := bitAt w 11
def idleF (w : Word) : Bool := bitAt w 13

def State.arampLen (s : State) : Nat := aRamp (s.pdW 0)
def State.chCfg (s : State) (c : Nat) : Word := s.pdW (chOff c)

-- DESIGN CHOICE, log 93: safe.
def pdBelow : Nat := 4200
def pdAbove : Nat := 27000

/-- PVDD outside the range of R336. -/
def pvddOut (mv : Nat) : Bool := decide (mv < pdBelow ∨ pdAbove < mv)

/-- States in which a channel is at work and can fault: DIAG, CM_UP, RUN, STOPPING, HOLD. -/
def pwrActive (st : Nat) : Bool := decide (st = 1 ∨ st = 2 ∨ st = 3 ∨ st = 4 ∨ st = 6)

/-- The state a channel reports: a self-test's diagnostics run in DIAG (R330). -/
def PwrCh.state (v : PwrCh) : Nat := if v.testing = 1 then 1 else v.st

/-- Channels that modulate: RUN, and STOPPING during its audio ramp. -/
def PwrCh.modulates (v : PwrCh) : Bool := decide (v.st = 3) || (decide (v.st = 4) && !v.stopCm)

/-- The channel a fault or a departure bit names; in PBTL the other half belongs to channel A (R317). -/
def State.pwrUnit (s : State) (c : Nat) : Nat := if s.pwr.pbtl then 0 else c

/-! ### Arm (R326, R327) -/

def State.nomOf (s : State) (c k : Nat) : Nat := fld (s.pdApplied (chOff c + 0x10 + 8 * k)) 0 16

/-- A parameter's bounds hold its NOM. -/
def State.boundsOk (s : State) (c k : Nat) : Bool :=
  let b := s.pdApplied (chOff c + 0x14 + 8 * k)
  let n := s.nomOf c k
  decide (fld b 0 16 ≤ n ∧ n ≤ fld b 16 16)

/-- The lowest failing check of an arm. -/
def State.armFail (s : State) (c : Nat) : Nat :=
  let w := s.pdApplied 0x28
  if (List.range 4).any (fun k => !s.boundsOk c k) || (battF (s.pdApplied (chOff c)) && decide (knee w ≤ pvddMin w)) then 1
  else if (s.pwrCh c).st ≠ 0 ∨ (s.pwrCh c).testing ≠ 0 then 2
  else if s.pwr.linkHstop then 3
  else if pvddOut s.pwr.pvdd then 4
  else if !s.tt.rateOk then 5
  else 0

/-- The channel's diagnostics begin. -/
def PwrCh.diag (v : PwrCh) : PwrCh := { v with st := 1, fault := 0, cmDone := false, stopCm := false, idle := false }

def State.pwrArm (s : State) (c : Nat) : State :=
  let k := s.armFail c
  if k ≠ 0 then (s.modPwrCh c (fun v => { v with refuse := k })).flagRaise pdFlags 0x20000 85
  else s.modPwrCh c (fun v => { v.diag with
    est := (List.range 4).map (s.nomOf c), atBound := 0, fails := 0, retrying := false })

/-- PWR_ARM and PWR_STOP departures: channels of a mask; in PBTL the bit of channel B is ignored. -/
def State.pwrMask (s : State) (m : Nat) : List Nat :=
  (bitsOf 2 m).filter (fun c => hasPower s.member && !(s.pwr.pbtl && decide (c = 1)))

-- DEDUCED, log 80: unsafe.
/-- Diagnostics end before their time (R329, R330): a result other than 1 raises PWR_DIAG. -/
def State.diagAbort (s : State) (c : Nat) : State :=
  (s.modPwrCh c (fun v => { v with diagRes := 6 })).flagRaise pdFlags (0x10 * 2 ^ c) 77

/-- A stop (R328). -/
def State.pwrStop (s : State) (c : Nat) : State :=
  let v := s.pwrCh c
  if v.st = 3 then
    (s.setPwrCh c { v with st := 4, stopCm := false, rampOut := false, idle := false, retrying := false }).muteOn
      (mkPwr c) .channel s.arampLen
  else if v.st = 1 then (s.setPwrCh c { v with st := 0, retrying := false }).diagAbort c
  else if v.st = 2 ∨ v.st = 6 then s.setPwrCh c { v with st := 4, stopCm := true, cmDone := false, retrying := false }
  else if v.st = 5 then s.setPwrCh c { v with st := 0, fault := 0, fails := 0, retrying := false, reqRetry := false }
  else s

/-! ### Faults (R331 to R336, R342, R345) -/

-- DEDUCED, log 80: unsafe.
/-- A channel goes to Hi-Z with a cause; a retry in progress fails, and MAX failures in a row are a hard stop (R332,
R333). -/
def State.pwrFault (s : State) (c cause : Nat) : State :=
  let v := s.pwrCh c
  let n := if v.retrying then v.fails + 1 else v.fails
  let limit := retryMax (s.pdW 0x20)
  let t := (s.setPwrCh c { v with
    st := 5, fault := cause, fails := n, retrying := false, cmDone := false, stopCm := false, idle := false,
    faultAt := s.tt.now }).muteOn
      (mkPwr c) .channel 0
  let u := if v.retrying then t.flagRaise pdFlags (0x40 * 2 ^ c) 78 else t
  if v.retrying ∧ limit ≠ 0 ∧ limit ≤ n then (u.modPwrCh c (fun x => { x with st := 7 })).enterHstop (4 + c) else u

-- DEDUCED, log 81: unsafe.
/-- Over-current (R331): sixteen limited cycles in a row. -/
def State.pwrOc (s : State) (c0 : Nat) : State :=
  let c := s.pwrUnit c0
  let st := (s.pwrCh c).st
  if st = 2 ∨ st = 3 ∨ st = 4 then
    ((s.countBy (pwrCtr c0) 16).flagRaise pdFlags (2 ^ c) 76).pwrFault c 1
  else s

/-- The die reaches 140 °C (R334). -/
def State.pwrTherm (s : State) (c0 : Nat) (t : Int) : State :=
  let c := s.pwrUnit c0
  let s1 := s.modPwrCh c0 (fun v => { v with dieTemp := t })
  if 140 ≤ t ∧ pwrActive (s.pwrCh c).st then (s1.flagRaise pdFlags (4 * 2 ^ c) 79).pwrFault c 2 else s1

-- DEDUCED, log 109: unsafe.
/-- PMU_STAT.PVDD_OK becomes `ok`; its fall sets SUPPLY and raises THERMAL, as that of any supply (R423). -/
def State.pvddOk (s : State) (ok : Bool) : State :=
  if ok then { s with pmu := { s.pmu with supply := s.pmu.supply ||| 0x020 } }
  else if s.pmu.supply &&& 0x020 = 0 then s
  else ({ s with pmu := { s.pmu with supply := s.pmu.supply &&& ~~~0x020 } }).flagRaise 0x3004 0x2 95

-- DEDUCED, log 109: unsafe.
/-- PVDD leaves its range (R336, R342). -/
def State.pwrPvdd (s : State) (mv : Nat) : State :=
  let s0 := if pvddOut mv then s.pvddOk false else s
  let s1 := { s0 with pwr := { s0.pwr with pvdd := mv } }
  let hit := [0, 1].filter (fun c => pwrActive (s.pwrCh c).st)
  if pvddOut mv ∧ hit ≠ [] then
    hit.foldl (fun t c =>
      let u := if (t.pwrCh c).st = 1 then t.diagAbort c else t
      u.pwrFault c 4) (s1.flagRaise pdFlags 0x800 81)
  else s1

-- DEDUCED, log 109: unsafe.
/-- PVDD back in range for 100 ms: the sequence runs from its diagnostics with the estimates kept. -/
def State.pvddBack (s : State) (mv : Nat) : State :=
  let s0 := if 4500 ≤ mv ∧ mv ≤ 26500 then s.pvddOk true else s
  let s1 := { s0 with pwr := { s0.pwr with pvdd := mv } }
  if 4500 ≤ mv ∧ mv ≤ 26500 then
    [0, 1].foldl (fun t c =>
      if (t.pwrCh c).st = 5 ∧ (t.pwrCh c).fault = 4 then t.modPwrCh c PwrCh.diag else t) s1
  else s1

/-- The causes a channel retries from (R332). -/
def PwrCh.retries (v : PwrCh) : Bool :=
  decide (v.st = 5) && decide (v.fault = 1 ∨ v.fault = 2 ∨ v.fault = 3 ∨ v.fault = 6)

/-- A THERMAL fault waits for the die to cool below FOLD. -/
def State.pwrHot (s : State) (c : Nat) : Bool :=
  decide ((s.pwrCh c).fault = 2) && decide (Int.ofNat (foldT (s.pdW 0x30)) ≤ (s.pwrCh c).dieTemp)

/-- A retry begins (R332). -/
def State.retryNow (s : State) (c : Nat) : State :=
  if (s.pwrCh c).retries && !s.pwrHot c then
    (s.modPwrCh c (fun v => { v.diag with retrying := true, reqRetry := false })).bump (pwrCtr (2 + c))
  else s

/-- INTERVAL in whole samples at the house rate (R42). -/
def State.retrySamples (s : State) : Nat := (retryInterval (s.pdW 0x20) * s.rateHz + 999) / 1000

-- DEDUCED, log 80: unsafe.
/-- The retry that is due INTERVAL after the fault: not while the tick in progress ends before that position. -/
def State.pwrRetry (s : State) (c : Nat) : State :=
  if (s.pwrCh c).faultAt + s.retrySamples < s.tt.now + s.T then s.retryNow c else s

-- DEDUCED, log 83: unsafe.
/-- Both channels lose the link: Hi-Z with cause LINK, no retry (R342); in PBTL the stage is channel A alone (R317). -/
def State.linkLost (s : State) : State :=
  (if s.pwr.pbtl then [0] else [0, 1]).foldl (fun t c => if (t.pwrCh c).st = 7 then t else
    (t.modPwrCh c (fun v => { v with retrying := false })).pwrFault c 5) s

-- DEDUCED, log 83: unsafe.
/-- A register transfer failed (R343): it is retried and the retry counted, but the sixteenth failure in a row is not. -/
def State.linkFail (s : State) : State :=
  if s.pwr.linkHstop then s
  else
    let n := s.pwr.linkFails + 1
    let t := { s with pwr := { s.pwr with linkFails := n, linkWindow := true } }
    if n < 16 then (t.bump (pwrCtr 9)).flag 0x80008 0x2
    else (({ t with pwr := { t.pwr with linkHstop := true, link := false } }.enterHstop 6).linkLost).raise 84

/-- No valid frame reached the power die for 100 µs. -/
def State.selfProtect (s : State) : State := if s.pwr.linkHstop then s else (s.linkLost).raise 84

/-- Channels that use a power-die word (R345). -/
def wordUsers (o : Nat) : List Nat :=
  if o = 0 ∨ o = 0x20 ∨ o = 0x24 ∨ o = 0x28 ∨ o = 0x2C ∨ o = 0x30 then [0, 1]
  else if 0x100 ≤ o ∧ o < 0x180 then [0] else if 0x180 ≤ o ∧ o < 0x200 then [1] else []

/-- A power-die word fails parity. -/
def State.regpar (s : State) (o : Nat) : State :=
  let hit := ((wordUsers o).map s.pwrUnit).dedup.filter (fun c => pwrActive (s.pwrCh c).st)
  let t := { s with pwr := { s.pwr with badWords := s.pwr.badWords.filter (· ≠ o) ++ [o] } }
  if hit = [] then t else hit.foldl (fun u c => u.pwrFault c 6) (t.flagRaise pdFlags 0x40000 84)

/-! ### Sequence steps -/

/-- A diagnostic run ends with a result and a resistance word (R327, R330). -/
def State.diagEnd (s : State) (c res r : Nat) : State :=
  let v := s.pwrCh c
  if v.st = 1 then
    let t := s.setPwrCh c { v with diagRes := res % 16, diagR := r % 65536 }
    if res = 1 then t.modPwrCh c (fun x => { x with st := 2, cmDone := false })
    else (t.flagRaise pdFlags (0x10 * 2 ^ c) 77).pwrFault c 3
  else s

def State.cmUpEnd (s : State) (c : Nat) : State :=
  if (s.pwrCh c).st = 2 then s.modPwrCh c (fun v => { v with cmDone := true }) else s

/-- A channel begins to modulate: its mute stage ramps up. -/
def State.pwrRun (s : State) (c : Nat) : State :=
  (s.modPwrCh c (fun v => { v with st := 3, cmDone := false })).muteOff (mkPwr c) .channel s.arampLen

/-- The first boundary after the common-mode ramp (R327, R341). -/
def State.runEntry (s : State) (c : Nat) : State :=
  if (s.pwrCh c).st = 2 ∧ (s.pwrCh c).cmDone then
    (if s.fenced then s.modPwrCh c (fun v => { v with st := 6, cmDone := false }) else s.pwrRun c)
  else s

/-- The unit begins or stops to drive (R341). -/
def State.pwrDrive (s : State) (b : Bool) : State :=
  [0, 1].foldl (fun t c =>
    if b ∧ (t.pwrCh c).st = 6 then t.pwrRun c
    else if !b ∧ (t.pwrCh c).st = 3 then
      (t.modPwrCh c (fun v => { v with st := 6, idle := false })).muteOn (mkPwr c) .channel 0
    else t) s

/-- The audio ramp of a stop has been put out to its last sample: modulation ends and the common mode falls (R328). -/
def State.audioDown (s : State) (c : Nat) : State :=
  if (s.pwrCh c).st = 4 ∧ !(s.pwrCh c).stopCm ∧ (s.pwrCh c).rampOut then
    s.modPwrCh c (fun v => { v with stopCm := true })
  else s

def State.cmDown (s : State) (c : Nat) : State :=
  if (s.pwrCh c).st = 4 ∧ (s.pwrCh c).stopCm then s.modPwrCh c (fun v => { v with st := 0, stopCm := false }) else s

/-- A retry that ran for 1 s without a fault (R332). -/
def State.retryOk (s : State) (c : Nat) : State :=
  if (s.pwrCh c).st = 3 ∧ (s.pwrCh c).retrying then
    s.modPwrCh c (fun v => { v with retrying := false, fails := 0 }) else s

/-- PWR_WCTL as written: each bit acts at the next boundary. -/
def State.pwrCtl (s : State) (w : Word) : State :=
  let on (c : Nat) (t : State) : State := t.modPwrCh c (fun v => { v with
    reqArm := v.reqArm || bitAt w c, reqStop := v.reqStop || bitAt w (2 + c), reqRetry := v.reqRetry || bitAt w (4 + c) })
  on 1 (on 0 s)

/-- Boundary requests of one channel: arms, then stops, then retries.  A retry brought forward still waits for a hot die. -/
def State.pwrRequests (s : State) (c : Nat) : State :=
  let v := s.pwrCh c
  let t := s.setPwrCh c { v with
    reqArm := false, reqStop := false, reqRetry := v.reqRetry && v.retries && s.pwrHot c }
  let use_ := decide (c ∈ s.pwrMask 3)
  let a := if v.reqArm && use_ then t.pwrArm c else t
  let b := if v.reqStop && use_ then a.pwrStop c else a
  if v.reqRetry then b.retryNow c else b

def State.pwrBoundary (s : State) : State := if hasPower s.member then (s.pwrRequests 0).pwrRequests 1 else s

/-! ### Adoption (R15, R318, R321) -/

def pdKey (a : Nat) : Bool := decide (0x7000000 ≤ a ∧ a < 0x7000200)

-- DESIGN CHOICE, log 18: safe.
/-- The full scale in force. -/
def vfsNow (r : Ramp) : Int :=
  if r.atRest then r.target else Config.fullScale r.start r.target r.pos r.len

/-- The full scale of a channel follows its word: by a ramp while it modulates. -/
def State.vfsAdopt (s : State) (c : Nat) : State :=
  let n : Int := Int.ofNat (vfsF (s.chCfg c))
  s.modPwrCh c (fun v =>
    if v.vfs.target = n then v
    else if v.modulates then
      { v with vfs := { start := vfsNow v.vfs, target := n, mute := false, len := s.arampLen, pos := 0 } }
    else { v with vfs := restRamp (n, false) })

/-- A register transfer over the link has succeeded: its failures in a row end, and the window of R231. -/
def State.pdGood (s : State) : State := { s with pwr := { s.pwr with linkFails := 0, linkWindow := false } }

/-- The power die adopts the applied words that have crossed the link; words that failed parity are whole again. -/
def State.pwrAdopt (s : State) : State :=
  if s.pwr.linkHstop then s
  else
    let reg := { s.reg with
      inForce := replaceWhere pdKey s.reg.inForce s.reg.applied, waiting := s.reg.waiting.filter (fun x => x.2 ≠ bPWR) }
    let pb := bitAt (s.pdApplied 0) 0
    let t := { s with reg := reg, pwr := { s.pwr with linkFails := 0, badWords := [], pbtl := pb, linkWindow := false } }
    (t.vfsAdopt 0).vfsAdopt 1

/-- Whether a G14 snapshot's PBTL cannot be adopted now (R318). -/
def State.pbtlHeld (s : State) (w : Word) : Bool :=
  decide (bitAt w 0 ≠ bitAt (s.pdApplied 0) 0) && !(decide (s.pwr.a.st = 0) && decide (s.pwr.b.st = 0))

/-! ### Limiters (R334, R335, R337 to R340) -/

/-- Battery target reduction in 0.25 dB at a supply in mV (R337). -/
def battTarget (w1 w2 : Word) (mv : Nat) : Nat := min 96 (fld w2 0 8 * (knee w1 * 100 - mv) / 1000)

/-- Thermal target reduction in 0.25 dB: the larger of the die and the coil term, at most FMAX (R334, R335). -/
def thermTarget (w : Word) (tmax : Nat) (die coil10 : Int) : Nat :=
  let d := (die - Int.ofNat (foldT w)).toNat * fslope w
  let k := (coil10 - Int.ofNat (10 * tmax)).toNat * fslope w / 10
  min (4 * fmax w) (max d k)

-- DESIGN CHOICE, log 17: safe.
/-- A reduction moving toward a target with a time constant: 0 at rest, otherwise a free value no larger than the larger
of where it was and where it goes. -/
def reduction (old target free : Nat) : Nat := if old = 0 ∧ target = 0 then 0 else free % (max old target + 1)

/-- Battery limiting of a channel (R337): BATT at the first reduction after a read. -/
def State.battLimit (s : State) (c mv : Nat) : State :=
  let t := if battF (s.chCfg c) then battTarget (s.pdW 0x28) (s.pdW 0x2C) mv else 0
  let (f, s1) := s.fresh
  let g := reduction (s.pwrCh c).grBatt t (Config.freeNat f)
  let s2 := s1.modPwrCh c (fun v => { v with grBatt := g })
  if 0 < t then s2.flag pdFlags 0x200 else s2

/-- Thermal limiting (R334, R335): FOLD with PWR_THERM at the first reduction after a read, COIL at the first of the
coil's. -/
def State.thermLimit (s : State) (c : Nat) : State :=
  let v := s.pwrCh c
  let w := s.pdW 0x30
  let tm := fld (s.pdW (chOff c + 0x44)) 24 8
  let t := thermTarget w tm v.dieTemp v.coilT
  let (f, s1) := s.fresh
  let g := reduction v.grTherm t (Config.freeNat f)
  let s2 := s1.setPwrCh c { v with grTherm := g }
  let s3 := if 0 < thermTarget w tm v.dieTemp (Int.ofNat (10 * tm)) ∧ !bitAt (s.rcW pdFlags) 12
    then s2.flagRaise pdFlags 0x1000 79 else s2
  if 0 < thermTarget w tm (Int.ofNat (foldT w)) v.coilT then s3.flag pdFlags 0x10000 else s3

-- DESIGN CHOICE, log 17: safe.
/-- Coil temperature in 0.1 °C of R338. -/
def coilTemp (re nom : Nat) (w : Word) : Int :=
  let d := nom * fld w 0 16
  if d = 0 then Config.coilTemp re nom w
  else Int.ofNat (10 * fld w 16 8) + (Int.ofNat re - Int.ofNat nom) * 10000000 / Int.ofNat d

-- DESIGN CHOICE, log 17: safe.
/-- One tick of adaptation (R339): estimates move while EN and the current suffices, and rest at NOM with EN = 0; each is
held to the bounds in force. -/
def State.adapt (s : State) (c : Nat) (rms : Bool) : State :=
  let v := s.pwrCh c
  let nom (k : Nat) : Nat := fld (s.pdW (chOff c + 0x10 + 8 * k)) 0 16
  let bnd (k : Nat) : Word := s.pdW (chOff c + 0x14 + 8 * k)
  let (f, s1) := s.fresh
  let est :=
    if !bitAt (s.pdW (chOff c + 0x50)) 0 then (List.range 4).map nom
    else if rms ∧ v.modulates then
      (List.range 4).map (fun k => clampN (fld (bnd k) 0 16) (fld (bnd k) 16 16) (Config.estimate c k f))
    else v.est.zipIdx.map (fun e => clampN (fld (bnd e.2) 0 16) (fld (bnd e.2) 16 16) e.1)
  s1.setPwrCh c { v with est := est, coilT := coilTemp (est.getD 0 0) (nom 0) (s.pdW (chOff c + 0x44)) }

-- DESIGN CHOICE, log 17: safe.
/-- The excursion limiter over a block (R340): nothing is predicted for silence at rest. -/
def State.excursion (s : State) (c : Nat) (quiet : Bool) : State :=
  let v := s.pwrCh c
  let w := s.pdW (chOff c + 4)
  let xmax := fld w 0 16
  let xthr := clampN 50 100 (fld w 16 8)
  let (f, s1) := s.fresh
  let (f2, s2) := s1.fresh
  let pred := if quiet ∧ v.xpred = 0 then 0 else Config.freeNat f % 65536
  let on := xlimF (s.chCfg c)
  let g := if on then (if pred * 100 ≤ xthr * xmax ∧ v.grExc = 0 then 0 else Config.freeNat f2 % 121) else 0
  let s3 := s2.setPwrCh c { v with xpred := pred, grExc := g }
  let s4 := if 0 < g then s3.flag pdFlags 0x2000 else s3
  if on ∧ xmax < pred then
    let n := 1 + Config.freeNat f2 % s.T
    let s5 := s4.countBy (pwrCtr (6 + c)) n
    if bitAt (s.rcW pdFlags) 14 then s5 else s5.flagRaise pdFlags 0x4000 82
  else s4

/-! ### Samples -/

/-- A sample after the limiters: unchanged while none reduces; between 0 and itself while only battery and thermal gains
act (R319). -/
def limited (c label gb gt gx : Nat) (x : Int) : Int :=
  if gb = 0 ∧ gt = 0 ∧ gx = 0 then x
  else
    let y := Config.powerSample c label gb gt gx x
    if gx = 0 then (if 0 ≤ x then clampI 0 x y else clampI x 0 y) else satTo 32 y

/-- Demand in units of 0.1 V * 2^-25, capped at 0.96 of the supply (R319, R320), and whether it was clipped. -/
def demand (mv : Nat) (vfs y : Int) : Int × Bool :=
  let top : Int := Int.ofNat (960 * mv * 2 ^ 25 / 100000)
  let v := y * vfs
  (clampI (-top) top v, decide ((clampI (-top) top v) ≠ v))

/-- The least magnitude of -90 dBFS in Q7.25. -/
def idleLevel : Nat := 1062

-- DEDUCED, log 82: unsafe.
/-- One sample of a channel that modulates. -/
def State.pwrSample (s : State) (c i : Nat) (inp : PowerIn) : State :=
  let v := s.pwrCh c
  let bad := inp.poison.contains (c, i)
  let lost := inp.linkBad.contains (c, i)
  let x := if bad || lost then v.lastGood else (blockOf s.mix.egress (0x1A00 + c)).getD i 0
  let s1 := if bad then (s.bump (pwrCtr 8)).sdgPoison 11 c 1 else s
  let s2 := if lost then (s1.bump (pwrCtr 10)).flag 0x80008 0x4 else s1
  let y := limited c (s.tt.now + i) v.grBatt v.grTherm v.grExc x
  let d := demand s.pwr.pvdd (vfsNow { v.vfs with pos := v.vfs.pos + i }) y
  let s3 := if d.2 then (s2.bump (pwrCtr (4 + c))).flag pdFlags 0x100 else s2
  (s3.setPwrCh c { v with lastGood := x, idle := v.idle && decide (x.natAbs < idleLevel) }).emit (.drive c x d.1)

/-- A channel for one tick: measurements, limiters, samples. -/
def State.pwrChTick (s : State) (c : Nat) (inp : PowerIn) : State :=
  let cfg := s.chCfg c
  let s1 := s.modPwrCh c (fun v => { v with dieTemp := if c = 0 then inp.tempA else inp.tempB, idle := v.idle && idleF cfg })
  let s2 := s1.countBy (pwrCtr c) (if c = 0 then inp.limitedA else inp.limitedB)
  let s3 := (s2.adapt c (if c = 0 then inp.rmsA else inp.rmsB)).modPwrCh c (fun v => { v with
    rampOut := decide (v.st = 4) && (s.muteOf (mkPwr c)).ramp.atRest })
  if (s3.pwrCh c).modulates then
    let quiet := (blockOf s.mix.egress (0x1A00 + c)).all (fun x => decide (x = 0))
    let s4 := ((s3.battLimit c inp.pvdd).thermLimit c).excursion c quiet
    let s5 := (List.range s.T).foldl (fun t i => t.pwrSample c i inp) s4
    s5.modPwrCh c (fun v => { v with vfs := v.vfs.run s.T })
  else s3.modPwrCh c (fun v => { v with grBatt := 0, grTherm := 0, grExc := 0, xpred := 0 })

-- DEDUCED, log 82: unsafe.
/-- The power stage at egress; in PBTL channel A alone drives.  What the digital die mirrors each tick follows. -/
def State.pwrTick (s : State) (inp : PowerIn) : State :=
  if hasPower s.member then
    let s1 := { s with pwr := { s.pwr with pvdd := inp.pvdd, pvddMean := inp.pvdd } }
    let s2 := s1.pwrChTick 0 inp
    let s3 := if s.pwr.pbtl then s2 else s2.pwrChTick 1 inp
    { s3 with pwr := { s3.pwr with wstA := s3.pwr.a.state, wstB := s3.pwr.b.state } }
  else s

/-- A 16-bit converter sample as a fabric word, an offset in 0.1 mA of a full scale taken off (R324, R330). -/
def senseWord (offset full : Int) (w : Word) : Int := signed 16 w.toNat * 1024 - offset * 2 ^ 25 / full

-- DEDUCED, log 82: unsafe.
/-- One sense source for a tick (R324): zero while its channel does not modulate, silent for B in PBTL.  A word that the siding
delivers poisoned is replaced by the last good one and counted (R190, R414). -/
def State.senseSource (s : State) (k : Nat) (offset : Int) (words : List Word) (bad : List Nat) (src : SMap (List Int)) :
    State × SMap (List Int) :=
  let c := k / 2
  if hasPower s.member && (s.pwrCh c).modulates && !(s.pwr.pbtl && decide (c = 1)) then
    let go := words.zipIdx.foldl (fun (a : Int × List Int × Nat) w =>
      if bad.contains w.2 then (a.1, a.2.1 ++ [a.1], a.2.2 + 1)
      else let x := senseWord offset (if s.pwr.pbtl then 320000 else 160000) w.1; (x, a.2.1 ++ [x], a.2.2)) ((s.pwrCh c).sense.getD (k % 2) 0, [], 0)
    let t := s.modPwrCh c (fun v => { v with sense := if k % 2 = 0 then [go.1, v.sense.getD 1 0] else [v.sense.getD 0 0, go.1] })
    (if go.2.2 = 0 then t else (t.countBy (pwrCtr 8) go.2.2).sdgPoison 11 (2 + c) go.2.2,
      sset (fun _ => []) src (0x2C00 + k) go.2.1)
  else (s.modPwrCh c (fun v => { v with sense := [] }), src)

/-- The four sense sources; in PBTL the current of A is the sum of both halves, with both offsets. -/
def State.senseIngress (s : State) (inp : PowerIn) (src : SMap (List Int)) : State × SMap (List Int) :=
  [(0, (0 : Int), inp.senseVA), (1, if s.pwr.pbtl then s.pwr.a.cal + s.pwr.b.cal else s.pwr.a.cal, inp.senseIA), (2, 0, inp.senseVB), (3, s.pwr.b.cal, inp.senseIB)].foldl
    (fun a x => a.1.senseSource x.1 x.2.1 x.2.2 ((inp.sensePoison.filter (fun h => h.1 == x.1)).map (fun h => h.2)) a.2) (s, src)

/-! ### Observed changes with a command of their own -/

/-- PVDD falls below PVDD_MIN (R337). -/
def State.battMuteOn (s : State) (c mv : Nat) : State :=
  let s1 := { s with pwr := { s.pwr with pvdd := mv } }
  if battF (s.chCfg c) && !(s.pwrCh c).battMute && decide (mv < 100 * pvddMin (s.pdW 0x28)) then
    ((s1.modPwrCh c (fun v => { v with battMute := true })).muteOn (mkPwr c) .battery s.arampLen).flagRaise pdFlags 0x400 80
  else s1

/-- PVDD at PVDD_MIN + 0.5 V or more for 100 ms. -/
def State.battMuteOff (s : State) (c mv : Nat) : State :=
  let s1 := { s with pwr := { s.pwr with pvdd := mv } }
  if (s.pwrCh c).battMute && decide (100 * pvddMin (s.pdW 0x28) + 500 ≤ mv) then
    (s1.modPwrCh c (fun v => { v with battMute := false })).muteOff (mkPwr c) .battery s.arampLen
  else s1

def State.idleEntry (s : State) (c : Nat) : State :=
  if idleF (s.chCfg c) ∧ (s.pwrCh c).st = 3 then s.modPwrCh c (fun v => { v with idle := true }) else s

-- DESIGN CHOICE, log 2: unsafe.
/-- An estimate held at a bound for 10 s (R339). -/
def State.pwrModel (s : State) (c k : Nat) : State :=
  (s.modPwrCh c (fun v => { v with atBound := v.atBound ||| BitVec.ofNat 4 (2 ^ k) })).flagRaise pdFlags 0x8000 83

-- DESIGN CHOICE, log 2: unsafe.
def State.foldback (s : State) (c : Nat) (t : Int) : State :=
  (s.modPwrCh c (fun v => { v with dieTemp := t })).thermLimit c

def State.batteryLimit (s : State) (c mv : Nat) : State :=
  { s with pwr := { s.pwr with pvdd := mv } }.battLimit c mv

/-- The reset of a channel under R240: stopped, with nothing kept but its die temperature and its full scale. -/
def State.pwrUnitReset (s : State) (c : Nat) : State :=
  (s.modPwrCh c (fun v => { pwrChReset with
    dieTemp := v.dieTemp, vfs := restRamp (Int.ofNat (vfsF (s.chCfg c)), false) })).muteOff (mkPwr c) .battery 0
      |>.muteOn (mkPwr c) .channel 0

/-- The reset of the link under R240: both channels stopped, but one in hard stop of its own, and the link trained again. -/
def State.linkUnitReset (s : State) : State :=
  let t := [0, 1].foldl (fun t c => if (t.pwrCh c).st = 7 then t else t.pwrUnitReset c) s
  { t with pwr := { t.pwr with linkHstop := false, link := true, linkFails := 0, linkWindow := false } }

end Sys2Proof.Machine
end

