-- ==== Sys2Proof/Machine/Pair.lean ====
section
/-! DEFINITION. Paired operation: entry (R346, R347), driving and fencing (R349, R350), the Imluind link (R351 to R353),
the mirror set as it is sent (R354 to R356), staleness (R359), tablets (R360 to R370) and what meets them (R376). -/

namespace Sys2Proof.Machine

def State.modPair (s : State) (f : Pair → Pair) : State := { s with pair := f s.pair }

abbrev pairFlags : Nat := 0x88010

def pairCtr (c : Nat) : Nat := 0x88100 + 8 * c

def State.pairCfg (s : State) : Word := s.appliedW 0x88004
def State.pairTab (s : State) : Word := s.appliedW 0x88014

def leaseF (w : Word) : Nat := fld w 0 8
def renewF (w : Word) : Nat := fld w 8 8
def staleOkF (w : Word) : Bool := bitAt w 16
def hblossF (w : Word) : Nat := max 1 (fld w 20 4)
def stalelagF (w : Word) : Nat := max 1 (fld w 24 8)

/-- R365, broken by a G15 snapshot. -/
def leaseBad (w : Word) : Bool := decide (leaseF w < 4) || decide (renewF w < 1) || decide (leaseF w < renewF w + 2)

/-- PAIR_TKRAMP as adopted. -/
def State.tkramp (s : State) : Nat := max 1 (fld (s.appliedW 0x88034) 0 16)

def State.pairUnit (s : State) : Nat := fld (s.rwW 0x88000) 0 1
def State.pairPid (s : State) : Nat := fld (s.rwW 0x88000) 16 16

/-- The unit holds a tablet: TAKEOVER or ACTIVE. -/
def State.holder (s : State) : Bool := decide (s.pair.st = 3 ∨ s.pair.st = 4)

/-- In pair mode without a tablet the mirrored words are written by the mirror alone (R358). -/
def State.shadowed (s : State) : Bool := decide (s.pair.st ≠ 0) && !s.holder

/-- The tick period in ns times the house rate, against 20 µs (R26). -/
def tickShort (code rate : Nat) : Bool := decide (tickLen code * 1000000 < 20 * rateHz rate)

/-! ### Tablets as they are sent (R360) -/

/-- Ports PAIR_TAB selects that the member has. -/
def State.tabPorts (s : State) : List Nat := [0, 1].filter (fun p => bitAt s.pairTab p && portPresent s.member p)

def State.pairLag (s : State) : Nat :=
  match s.pair.mpoint with
  | none => 0
  | some k => s.tt.now / s.T - k / s.T - 2

/-- The payload of a tablet message of the unit. -/
def State.tabPayload (s : State) (msg lease leaseEnd lag : Nat) : List Byte :=
  bytesBE 1 (0x10 + msg)
    ++ bytesBE 1 (putb 7 (decide (s.pair.st = 2)) + putb 6 (staleOkF s.pairCfg) + putb 5 (decide (s.pair.st = 5))
        + putb 4 s.pair.driving + s.tt.tick)
    ++ bytesBE 2 s.pairPid ++ bytesBE 1 s.pairUnit ++ bytesBE 1 lease ++ bytesBE 1 s.syn.rate ++ bytesBE 1 0
    ++ bytesBE 8 s.tt.now ++ bytesBE 8 leaseEnd ++ bytesBE 4 s.pair.gen ++ bytesBE 4 lag

/-- Send a tablet message in QT of every port selected. -/
def State.sendTab (s : State) (msg lease leaseEnd lag : Nat) : State :=
  let pay := s.tabPayload msg lease leaseEnd lag
  let w := s.pairTab
  let dst := fld (s.appliedW 0x8801C) 0 16 * 2 ^ 32 + (s.appliedW 0x88018).toNat
  let tag := if bitAt w 2 then bytesBE 2 0x8100 ++ bytesBE 2 (fld w 3 3 * 8192 + fld w 16 12) else []
  s.tabPorts.foldl (fun t p =>
    let body := bytesBE 6 dst ++ bytesBE 6 (s.portAddr p).1 ++ tag ++ bytesBE 2 (fld (s.appliedW 0x18000) 0 16) ++ pay
    t.enqueue p 1 { body := padded body, poison := false, ring := 0, slots := [], ctx := none, ptp := none }) s

/-- RENEW; the count to the next one starts again. -/
def State.sendRenew (s : State) : State :=
  (s.sendTab 1 (leaseF s.pairCfg) 0 0).modPair (fun v => { v with renewIn := renewF s.pairCfg })

/-- STANDBY_REPORT. -/
def State.sendReport (s : State) : State :=
  if s.shadowed then
    (s.sendTab 3 0 0 (min s.pairLag (2 ^ 32 - 1))).modPair (fun v => { v with renewIn := renewF s.pairCfg })
  else s

-- DEDUCED, log 88: unsafe.
/-- RELEASE, its LEASE_END the boundary at which the unit stopped driving. -/
def State.sendRelease (s : State) : State := s.sendTab 4 0 s.tt.now 0

/-! ### Staleness (R359) -/

-- DEDUCED, log 87: unsafe.
/-- STALE_WHY: the lowest case that holds; 0 where none does, or where R364 keeps the unit from being stale. -/
def State.staleWhy (s : State) : Nat :=
  if s.pair.lapsed then 0
  else if !s.pair.link then 1
  else if stalelagF s.pairCfg < s.pairLag then 2
  else if s.pair.cfgDiff then 3
  else if s.pair.refreshOut then 4
  else 0

/-- A unit without a tablet is STANDBY or STALE by its cases; every change of state is reported. -/
def State.restale (s : State) : State :=
  if s.pair.st = 1 ∨ s.pair.st = 2 then
    let w := s.staleWhy
    let t := s.modPair (fun v => { v with why := w, st := if w = 0 then 1 else 2 })
    if w ≠ 0 ∧ s.pair.st = 1 then (t.flagRaise pairFlags 0x1 86).sendReport
    else if w = 0 ∧ s.pair.st = 2 then t.sendReport
    else t
  else s

/-! ### Driving (R349, R350) -/

/-- Sink classes the fence holds: network channels and serial ports; power channels follow R341. -/
def fenceKeys : List Nat := mkNet :: (List.range 8).map mkSap

def State.fenceOn (s : State) : State := fenceKeys.foldl (fun t k => t.muteOn k .fence 0) s
def State.fenceOff (s : State) : State := fenceKeys.foldl (fun t k => t.muteOff k .fence s.tkramp) s

/-- The unit gives up its tablet: outputs fenced, the unit STANDBY with its own state as mirror point (R364); a DARK
unit stays DARK. -/
def State.giveUp (s : State) : State :=
  let was := s.pair.driving
  let t := s.modPair (fun v => { v with
    driving := false, stopDue := false, reqRelease := false, grant := false, tookStale := false, lapsed := true,
    mpoint := none, rxDone := true, why := 0, st := if v.st = 5 then 5 else 1 })
  let u := if was then (t.fenceOn).pwrDrive false else t
  u.sendReport

/-- Stopping under R363, R364, R368 or R376: flag and event as well. -/
def State.stopDriving (s : State) : State := s.giveUp.flagRaise pairFlags 0x8 89

/-- A planned release (R368). -/
def State.release (s : State) : State := if s.holder then s.stopDriving.sendRelease else s

/-- The fence at E - T (R364). -/
def State.fenceCheck (s : State) : State :=
  if s.holder && decide (s.pair.lease ≤ s.tt.now + s.T) then s.stopDriving else s

/-- A rate change in pair mode stops the holder and voids its tablet (R376). -/
def State.pairRateStop (s : State) : State := s.release.modPair (fun v => { v with grant := false })

/-- PAIR_CTL as written. -/
def State.pairEnter (s : State) : State := s.modPair (fun v => { v with reqEnter := true })
def State.pairRelease (s : State) : State := s.modPair (fun v => { v with reqRelease := true })

/-- A unit that becomes STANDBY, or at once STALE, reports it. -/
def State.standBy (s : State) : State :=
  let t := (s.modPair (fun v => { v with st := 1 })).restale
  if t.pair.st = 1 then t.sendReport else t

def State.undark (s : State) : State := if s.pair.st = 5 then s.standBy else s

/-- The lowest failing check of R347; 0 when all pass. -/
def State.enterCause (s : State) : Nat :=
  if !s.reg.roleDone then 1
  else if tickShort s.tt.tick s.syn.rate then 2
  else if !s.tt.rateOk then 3
  else if s.tabPorts.all (fun p => !(s.portAddr p).2) then 4
  else if s.pair.st ≠ 0 then 5
  else 0

-- DEDUCED, log 87: unsafe.
/-- Entry into pair mode at the boundary (R347): a refusal changes nothing else. -/
def State.pairEntry (s : State) : State :=
  if s.pair.reqEnter then
    let t := s.modPair (fun v => { v with reqEnter := false })
    if s.enterCause ≠ 0 then t.modPair (fun v => { v with refuse := s.enterCause })
    else
      let u := t.modPair (fun v => { v with st := 1, driving := false, renewIn := renewF s.pairCfg, mpoint := none, lapsed := false })
      ((u.fenceOn).pwrDrive false).standBy
  else s

/-! ### Change records (R355) -/

def MirRec.size (r : MirRec) : Nat := 12 + 4 * r.data.length

def MirRec.bytes (r : MirRec) (set : Nat) : List Byte :=
  bytesBE 1 r.typ ++ bytesBE 1 r.data.length
    ++ bytesBE 2 ((Int.ofNat r.label - Int.ofNat set) % 65536).toNat
    ++ bytesBE 4 r.addr ++ bytesBE 4 r.rseq ++ r.data.flatMap (fun w => bytesBE 4 w.toNat)

/-- The eight registers of a departure, TT_DCTL.ARM and TT_DSTAT among them. -/
def State.depWords (s : State) (d : Nat) : List Word :=
  (List.range 6).map (fun i => s.rwW (depBase d + 4 * i)) ++ [toWord (b2n (s.isArmed d)), s.rcW (depBase d + 0x1C)]

-- DEDUCED, log 85: unsafe.
/-- Bit of a record's ADDR that marks bank B, and the bit that marks an applied value. -/
abbrev adBankB : Nat := 0x80000000
-- DEDUCED, log 85: unsafe.
abbrev adApplied : Nat := 0x40000000

/-- Words of region `r` of an owner, in records of 128 words. -/
def State.regionBlocks (s : State) (o r : Nat) : List Nat :=
  if o = bMIX then
    let per := max 1 (numBus s.member s.syn.rate / 8)
    (List.range per).map (fun b => 0x2000000 + 4 * 128 * (r * per + b))
  else (List.range 4).map (fun b => 0x4000000 + (o - 22) * 0x10000 + 4 * (512 * r + 128 * b))

/-- The records of a refresh (R359), without their numbers. -/
def State.refreshRecs (s : State) : List MirRec :=
  let rd (f : Nat → Word) (a : Nat) : List Word := (List.range 128).map (fun i => f (a + 4 * i))
  let rec5 (a : Nat) (d : List Word) : MirRec := { typ := 5, label := s.tt.now, addr := a, rseq := 0, data := d }
  let owners := bMIX :: (List.range (numEng s.member)).map bENG
  let words := owners.flatMap (fun o => (List.range 8).flatMap (fun r =>
    (if s.modeOf o r = 1 then (s.regionBlocks o r).flatMap (fun a =>
        [rec5 a (rd (s.bankW false) a), rec5 (adBankB + a) (rd (s.bankW true) a)])
      else if s.modeOf o r = 2 then (s.regionBlocks o r).flatMap (fun a =>
        [rec5 a (rd s.stagedW a), rec5 (adApplied + a) (rd s.appliedW a)])
      else [])))
  let deps := (List.range 64).map (fun d =>
    ({ typ := 4, label := s.tt.now, addr := d, rseq := 0, data := s.depWords d } : MirRec))
  let sels := owners.map (fun o =>
    ({ typ := 2, label := s.tt.now, addr := if o = bMIX then 0 else o - 21, rseq := 0,
       data := [toWord (s.bankCtl o).select.toNat] } : MirRec))
  words ++ deps ++ sels

/-- The holder begins a refresh (R359). -/
def State.beginRefresh (s : State) : State :=
  if s.holder then s.modPair (fun v => { v with refresh := s.refreshRecs }) else s

/-- Beyond 48 KiB of waiting records the holder discards them and begins a refresh (R356). -/
def State.recordLimit (s : State) : State :=
  if 49152 < s.pair.recs.foldl (fun n x => n + x.size) 0 then (s.modPair (fun v => { v with recs := [] })).beginRefresh else s

/-- The holder forms a record. -/
def State.record (s : State) (typ label addr : Nat) (data : List Word) : State :=
  if s.holder then
    let r : MirRec := { typ := typ, label := label, addr := addr, rseq := s.pair.rseq, data := data }
    (s.modPair (fun v => { v with rseq := (v.rseq + 1) % 2 ^ 32, recs := v.recs ++ [r] })).recordLimit
  else s

/-- A departure was written, armed, disarmed or taken. -/
def State.recordDep (s : State) (d : Nat) : State := s.record 4 s.tt.now d (s.depWords d)

/-- A T-space word of a MIX or ENG region in mode 1 or 2 was written. -/
def State.recordWord (s : State) (a : Nat) (w : Word) : State :=
  if s.inMode1 a || s.inMode2 a then s.record 1 (s.mix.lab1 + s.T) a [w] else s

/-- A safe-load set applied, at block label `l`. -/
def State.recordSet (s : State) (l : Nat) (ps : List (Nat × Word)) : State :=
  ps.foldl (fun t p => t.record 1 l (adApplied + p.1) [p.2]) s

/-- Number of an owner in a bank event. -/
def mirUnit (o : Nat) : Nat := if o = bMIX then 0 else o - 21

-- DEDUCED, log 85: unsafe.
/-- The banks of an owner swapped, at block label `l`. -/
def State.recordSwap (s : State) (o l : Nat) : State :=
  s.record 2 l (mirUnit o + 256 * b2n (decide ((s.bankCtl o).select ≠ 0))) [toWord (s.bankCtl o).select.toNat]

def State.recordCopy (s : State) (o : Nat) : State := s.record 2 (s.mix.lab1 + s.T) (mirUnit o + 512) []

/-- A crossfade set fired, at block label `l`; both units remember it. -/
def State.recordFire (s : State) (n l : Nat) : State :=
  (s.record 3 l n []).modPair (fun v => if v.st = 0 then v else { v with fired := ((n, l) :: v.fired).take 64 })

/-! ### Blocks (R351, R352) -/

def imlHead (typ flags len set block : Nat) : List Byte :=
  bytesBE 1 typ ++ bytesBE 1 flags ++ bytesBE 2 len ++ bytesBE 8 set ++ bytesBE 2 block ++ bytesBE 2 0

-- DEDUCED, log 84: unsafe.
/-- A block with its CRC, or with the one's complement of it. -/
def imlBlock (typ flags set block : Nat) (pay : List Byte) (bad : Bool) : List Byte :=
  let b := imlHead typ flags pay.length set block ++ pay
  b ++ (if bad then (fcsBytes b).map (fun x => ~~~x) else fcsBytes b)

/-- A block as received. -/
structure ImlRx where
  typ : Nat
  flags : Nat
  set : Nat
  block : Nat
  pay : List Byte
  deriving DecidableEq, Repr

/-- A block that agrees with its LENGTH and its CRC. -/
def imlParse (b : List Byte) : Option ImlRx :=
  let len := natBE (slice b 2 2)
  let body := b.take (16 + len)
  if b.length = 20 + len ∧ b.drop (16 + len) = fcsBytes body then
    some { typ := natBE (slice b 0 1), flags := natBE (slice b 1 1), set := natBE (slice b 4 8),
           block := natBE (slice b 12 2), pay := slice b 16 len }
  else none

def State.ackBits (s : State) : Nat := maskOf (s.pair.rx.map (fun p => p.1))

/-- The STATUS payload (R352). -/
def State.statusPayload (s : State) : List Byte :=
  bytesBE 2 s.pairPid ++ bytesBE 1 s.pairUnit ++ bytesBE 1 s.pair.st ++ bytesBE 4 s.pair.gen
    ++ bytesBE 8 (if s.holder then s.pair.lease else 0) ++ bytesBE 4 s.reg.crc.last.toNat ++ bytesBE 2 s.ackBits
    ++ bytesBE 1 (min 255 s.pairLag)
    ++ bytesBE 1 (b2n (decide (s.pair.st = 2)) + putb 1 (staleOkF s.pairCfg) + putb 2 (decide (s.pair.st = 5))
        + putb 3 s.pair.driving) ++ bytesBE 8 0

def State.sendStatus (s : State) : State := s.emit (.imluind (imlBlock 2 0 s.tt.now 0 s.statusPayload false))

/-! ### The mirror set as it is sent (R354, R356) -/

def mcrCode (m : McrState) : Nat :=
  match m with | .idle => 0 | .acquire => 1 | .locked => 2 | .coast => 3 | .slew => 4 | .step => 5 | .relock => 6

/-- MCR_STAT. -/
def State.mcrStat (s : State) : Word :=
  toWord (mcrCode s.mcr.state + putb 4 s.mcr.refOk + putb 5 (decide (s.mcr.corr ≠ 0)) + putb 6 s.mcr.failedOver
    + putb 7 (decide (s.mcrMode = 0) && decide (s.mcr.inst = 1)))

def padTo (n : Nat) (b : List Byte) : List Byte := b ++ List.replicate (n - b.length) 0

/-- One power channel of the fixed part, a word to each quantity named. -/
def PwrCh.mirror (v : PwrCh) : List Byte :=
  padTo 64 (([v.st, v.grBatt, v.grTherm, v.grExc] ++ v.est).flatMap (bytesBE 4) ++ bytesBE 4 (v.coilT % 2 ^ 32).toNat)

/-- External sinks of the current house rate, ascending. -/
def State.extSinks (s : State) : List Nat := (List.range 0x1A02).filter s.extSink

-- DEDUCED, log 86: unsafe.
/-- Limiter slice for a tick number: 255 sinks in rotation, the last slice of a round shorter. -/
def State.limSlice (s : State) (tick : Nat) : List Nat :=
  let all := s.extSinks
  (all.drop (tick % max 1 ((all.length + 254) / 255) * 255)).take 255

-- DEDUCED, log 84: unsafe.
def State.fixedPart (s : State) (set : Nat) : List Byte :=
  let ctxs := List.range 128
  let sl := s.limSlice (set / s.T)
  ctxs.flatMap (fun c => bytesBE 2 (s.stxOf c).seq)
    ++ ctxs.flatMap (fun c => bytesBE 2 ((s.srxOf c).expect.getD 0))
    ++ ctxs.flatMap (fun c => bytesBE 2 (s.dpcOf c).h)
    ++ padTo 64 (([s.mcrStat, satWord s.oscFreq, satWord s.mcr.favg, satWord s.corrGrains, satWord s.mcr.centre,
        toWord (s.mcr.coastNs / 1000000000)]).flatMap (fun w => bytesBE 4 w.toNat))
    ++ padTo 64 (bytesBE 4 (s.tt.armed.toNat % 2 ^ 32) ++ bytesBE 4 (s.tt.armed.toNat / 2 ^ 32) ++ bytesBE 8 s.tt.lastTaken)
    ++ s.pwr.a.mirror ++ s.pwr.b.mirror
    ++ bytesBE 1 0 ++ bytesBE 1 sl.length ++ bytesBE 2 (sl.headD 0)
    ++ padTo 1020 (sl.flatMap (fun j => bytesBE 4 (sget limReset s.mix.lim j).gain))

-- DEDUCED, log 85: unsafe.
/-- Pack records into blocks 2 to 11 of up to 1024 octets, none split: block numbers with their records, and what is
left over. -/
def packRecs : Nat → Nat → List MirRec → List (Nat × MirRec) × List MirRec
  | _, _, [] => ([], [])
  | b, used, r :: t =>
    let go := fun (b' used' : Nat) => let x := packRecs b' used' t; ((b', r) :: x.1, x.2)
    if 11 < b then ([], r :: t)
    else if used + r.size ≤ 1024 then go b (used + r.size)
    else if b < 11 then go (b + 1) r.size
    else ([], r :: t)

/-- The payloads of a set, blocks 0 and 1 first. -/
def State.setBlocks (s : State) (set : Nat) (rs : List (Nat × MirRec)) : List (List Byte) :=
  let f := s.fixedPart set
  let last := rs.foldl (fun n p => max n p.1) 1
  [f.take 1024, f.drop 1024] ++ (List.range (last - 1)).map (fun i =>
    (rs.filter (fun p => decide (p.1 = i + 2))).flatMap (fun p => p.2.bytes set))

/-- Octets of block `b` of the set in hand as it goes on the link. -/
def State.mirrorOctets (s : State) (b : Nat) (again bad : Bool) : List Byte :=
  imlBlock 1 (b2n (decide (b + 1 = s.pair.blocks.length)) + putb 1 again) s.pair.setPos b (s.pair.blocks.getD b []) bad

/-- Number records of a refresh as they join the queue. -/
def numberFrom (n : Nat) (rs : List MirRec) : List MirRec :=
  rs.zipIdx.map (fun p => { p.1 with rseq := (n + p.2) % 2 ^ 32 })

/-- The holder starts the set of the tick that has just ended; `bad` names, for each word read poisoned from MIRT, its block
(R190, R356, R414). -/
def State.setSend (s : State) (bad : List Nat) : State :=
  if s.holder then
    let lost (b : Nat) : Bool := decide (b < s.pair.blocks.length) && !s.pair.acked.getLsbD b
    let s1 := if lost 0 || lost 1 then s.bump (pairCtr 3) else s
    let carried := (s.pair.sent.filter (fun p => lost p.1)).map (fun p => p.2)
    let more := numberFrom s.pair.rseq s.pair.refresh
    let pk := packRecs 2 0 (carried ++ s.pair.recs ++ more)
    let took := pk.1.length - (carried.length + s.pair.recs.length)
    let left := (carried ++ s.pair.recs).drop pk.1.length
    let set := s.tt.now - s.T
    let s2 := s1.modPair (fun v => { v with
      sent := pk.1, recs := left, refresh := v.refresh.drop took, rseq := (v.rseq + took) % 2 ^ 32, acked := 0, setPos := set })
    let s3 := (s2.modPair (fun v => { v with blocks := s2.setBlocks set pk.1 })).countBy (pairCtr 4) (carried.length + left.length)
    ((List.range s3.pair.blocks.length).foldl (fun t b => t.emit (.imluind (t.mirrorOctets b false (bad.contains b))))
      (s3.recordLimit.bump (pairCtr 0))).sdgPoison 9 0 (bad.filter (fun b => decide (b < s3.pair.blocks.length))).length
  else s

/-- A block not acknowledged in time is repeated (R356); `n` words of it may be read poisoned (R414). -/
def State.blockRepeat (s : State) (b n : Nat) : State :=
  if s.holder && decide (b < s.pair.blocks.length) && !s.pair.acked.getLsbD b then
    ((s.emit (.imluind (s.mirrorOctets b true (decide (n ≠ 0))))).bump (pairCtr 1)).sdgPoison 9 0 n
  else s

/-! ### The link (R353) -/

/-- PAIR_STAT.LINK changes. -/
def State.setLink (s : State) (b : Bool) : State :=
  if s.pair.link = b then s
  else
    let t := (s.modPair (fun v => { v with link := b })).flagRaise pairFlags 0x10 90
    (if b then t.beginRefresh else t).restale

def State.linkGood (s : State) : Bool := s.pair.blockLock && s.syn.pairPll && decide (s.pair.quiet < hblossF s.pairCfg)

-- DEDUCED, log 88: unsafe.
/-- A good block arrived. -/
def State.goodBlock (s : State) : State :=
  let t := s.modPair (fun v => { v with quiet := 0, blockLock := true })
  if t.linkGood then t.setLink true else t

/-- A bad block is rewound, an oversize one trimmed of `oversize` words; one committed and then read with `poison` poisoned words
is neither.  All count (R188, R189, R190, R352, R414). -/
def State.badBlock (s : State) (oversize : Option Nat) (poison : Nat) : State :=
  let t := (s.modPair (fun v => { v with blockLock := true })).bump (pairCtr 2)
  match oversize with
  | some k => t.sdgOversize 10 k
  | none => if poison = 0 then t.sdgRewind 10 else t.sdgPoison 10 0 poison

/-- A block as its receiver has it: none where it is oversize, bad or poisoned. -/
def imlTake (bytes : List Byte) (oversize : Option Nat) (poison : Nat) : Option ImlRx :=
  if oversize.isSome || decide (poison ≠ 0) then none else imlParse bytes

/-- The link as its conditions now stand: it falls when one fails. -/
def State.linkCheck (s : State) : State := if s.linkGood then s else s.setLink false

/-- Lane loses block lock. -/
def State.blockLockLoss (s : State) : State := (s.modPair (fun v => { v with blockLock := false })).setLink false

/-- Heartbeat loss. -/
def State.heartbeatLoss (s : State) : State := if hblossF s.pairCfg ≤ s.pair.quiet then s.setLink false else s

-- DEDUCED, log 86: unsafe.
/-- A MIRROR block received by a unit without a tablet is kept by number; every such block is answered by a STATUS. -/
def State.mirrorRx (s : State) (bytes : List Byte) (oversize : Option Nat) (poison : Nat) : State :=
  let t := match imlTake bytes oversize poison with
    | none => s.badBlock oversize (if (imlParse bytes).isSome then poison else 0)
    | some k =>
      let g := s.goodBlock
      if k.typ ≠ 1 ∨ 11 < k.block ∨ !s.shadowed then g
      else
        let fresh := decide (k.set ≠ g.pair.rxSet) || g.pair.rxDone && decide (g.pair.rx = [])
        let late := decide (k.set ≠ g.pair.rxSet) && !g.pair.rxDone
        let g1 := if late then g.bump (pairCtr 3) else g
        let g2 := if fresh then g1.modPair (fun v => { v with rxSet := k.set, rx := [], rxDone := false }) else g1
        g2.modPair (fun v => { v with rx := sset (fun _ => []) v.rx k.block k.pay })
  if t.shadowed then t.sendStatus else t

-- DEDUCED, log 90: unsafe.
/-- The peer's CRC result against the unit's own, once for each own pass (R348). -/
def State.crcCompare (s : State) (w : Word) : State :=
  if s.reg.crc.passes = s.pair.crcSeen ∨ s.pair.st = 0 then s
  else
    let n := if w = s.reg.crc.last then 0 else s.pair.crcDiff + 1
    let t := s.modPair (fun v => { v with crcSeen := s.reg.crc.passes, crcDiff := n, cfgDiff := decide (3 ≤ n) })
    if decide (3 ≤ n) && !s.pair.cfgDiff then t.flagRaise pairFlags 0x200 91 else t

-- DEDUCED, log 87: unsafe.
/-- A STATUS block from the peer. -/
def State.statusRx (s : State) (bytes : List Byte) (oversize : Option Nat) (poison : Nat) : State :=
  match imlTake bytes oversize poison with
  | none => s.badBlock oversize (if (imlParse bytes).isSome then poison else 0)
  | some k =>
    if k.typ ≠ 2 ∨ k.pay.length ≠ 32 then s.goodBlock
    else if natBE (slice k.pay 0 2) ≠ s.pairPid then (s.modPair (fun v => { v with blockLock := true })).setLink false
    else
      let w := toWord (natBE (slice k.pay 16 4))
      let fl := natBE (slice k.pay 23 1)
      let t := s.goodBlock.modPair (fun v => { v with
        peerCrc := w, peerSt := natBE (slice k.pay 3 1), peerStale := fl.testBit 0,
        acked := v.acked ||| BitVec.ofNat 12 (natBE (slice k.pay 20 2)) })
      let u := t.crcCompare w
      (if fl.testBit 0 ∧ u.pair.refresh = [] ∧ !s.pair.peerStale then u.beginRefresh else u).restale

/-! ### Tablets as they arrive -/

/-- `gen_newer` of R360. -/
def genNewer (g h : Nat) : Bool := decide (((g + 2 ^ 32 - h) % 2 ^ 32 + 2 ^ 32 - 1) % 2 ^ 32 < 0x7FFFFFFF)

/-- VERSION, PID, TICK and RATE match the unit's own. -/
def State.tabOk (s : State) (b : List Byte) : Bool :=
  decide (32 ≤ b.length) && decide (natBE (slice b 0 1) / 16 = 1) && decide (natBE (slice b 2 2) = s.pairPid)
    && decide (natBE (slice b 1 1) % 16 = s.tt.tick) && decide (natBE (slice b 6 1) % 8 = s.syn.rate)

-- DESIGN CHOICE, log 91: safe.
/-- A GRANT that names this unit (R361, R362), `grains` after the boundary. -/
def State.grantOwn (s : State) (g e grains : Nat) : State :=
  let ok := genNewer g s.pair.gen && decide (e % s.T = 0) && decide (s.tt.now * 65536 + grains + 3 * s.T * 65536 ≤ e * 65536)
    && decide (s.pair.st ≠ 5)
  let fit := decide (s.pair.st ≠ 2) || staleOkF s.pairCfg
  if ok && fit then
    let t := s.modPair (fun v => { v with gen := g, lease := e, grant := v.grant || decide (v.st = 1 ∨ v.st = 2) })
    t.flagRaise pairFlags 0x2 87
  else
    let t := (s.bump (pairCtr 6)).flag pairFlags 0x100
    if ok then t.sendRelease else t

/-- A GRANT that names the other unit (R363). -/
def State.grantOther (s : State) (g : Nat) : State :=
  if genNewer g s.pair.gen then
    s.modPair (fun v => { v with gen := g, grant := false, stopDue := v.stopDue || decide (v.st = 3 ∨ v.st = 4) })
  else s

/-- A RELEASE with DARK = 1 (R370). -/
def State.goDark (s : State) : State :=
  if s.pair.st = 5 then s
  else
    let t := s.modPair (fun v => { v with st := 5, grant := false, stopDue := v.driving, why := 0 })
    (t.flagRaise pairFlags 0x4 88).sendReport

-- DEDUCED, log 88: unsafe.
-- DESIGN CHOICE, log 91: safe.
/-- A tablet message for a unit in pair mode (R360, R414); RENEW and STANDBY_REPORT are for the signal box. -/
def State.tabletRx (s : State) (b : List Byte) (poison : Bool) (grains : Nat) : State :=
  if s.pair.st = 0 then s
  else if poison || !s.tabOk b then s.bump (pairCtr 5)
  else
    let msg := natBE (slice b 0 1) % 16
    let g := natBE (slice b 24 4)
    if msg = 2 then
      (if natBE (slice b 4 1) = s.pairUnit then s.grantOwn g (natBE (slice b 16 8)) grains else s.grantOther g)
    else if msg = 4 ∧ (natBE (slice b 1 1)).testBit 5 then s.goDark
    else s

-- DEDUCED, log 88: unsafe.
/-- Adoption of an accepted GRANT (R362): TAKEOVER, and the first RENEW. -/
def State.grantAdopt (s : State) : State :=
  if s.pair.grant && decide (s.pmu.asleep = 0) then
    let t := s.modPair (fun v => { v with
      grant := false, st := 3, adoptAt := s.tt.now, tookStale := decide (v.st = 2), lapsed := false, why := 0,
      recs := [], refresh := [], sent := [], blocks := [], acked := 0, rxDone := true })
    let u := (t.bump (pairCtr 7)).sendRenew
    if s.pair.st = 2 ∨ s.pair.peerStale then u.beginRefresh else u
  else s

-- DEDUCED, log 88: unsafe.
/-- One tick after adoption the unit drives (R349, R350, R369). -/
def State.driveStart (s : State) : State :=
  if s.pair.st = 3 ∧ s.tt.now ≠ s.pair.adoptAt then
    let t := ((s.modPair (fun v => { v with st := 4, driving := true, tookStale := false })).fenceOff).pwrDrive true
    if s.pair.tookStale then t.flag pairFlags 0x80 else t
  else s

/-! ### Boundary work -/

/-- What a boundary does before its departures: a stop that waits, and a release asked for by PAIR_CTL. -/
def State.pairBoundary (s : State) : State :=
  let t := if s.pair.stopDue then (if s.pair.st = 5 then s.giveUp else s.stopDriving) else s
  if t.pair.reqRelease then (t.modPair (fun v => { v with reqRelease := false })).release else t

/-- Expected numbers and H as they stand at the boundary, kept for the counts of R357. -/
def State.pairMark (s : State) : State :=
  let ctxs := List.range 128
  s.modPair (fun v => { v with
    marks := ((s.tt.now, ctxs.map (fun c => (s.srxOf c).expect.getD 0), ctxs.map (fun c => (s.dpcOf c).h)) :: v.marks).take 256 })

/-- The end of a boundary's work in pair mode: the mirror set, STATUS, and the periodic RENEW or STANDBY_REPORT. -/
def State.pairTick (s : State) (bad : List Nat) : State :=
  let q := s.modPair (fun v => { v with quiet := min 15 (v.quiet + 1) })
  if s.pair.st = 0 then q
  else
    let a := (q.modPair (fun v => { v with renewIn := v.renewIn - 1 })).pairMark.restale
    let b := (a.setSend bad).sendStatus
    if b.pair.renewIn = 0 then (if b.holder then b.sendRenew else b.sendReport) else b

end Sys2Proof.Machine
end

