-- ==== Sys2Proof/Machine/Snap.lean ====
section
/-! DEFINITION. Strobe groups (R10, R11): taking snapshots (R13), the snapshots a boundary applies (R14), those it does
not adopt (R32, R95, R318, R365, R377, R388) and each block's adoption (R15, R16). -/

namespace Sys2Proof.Machine

def grpmapAddr (b : Nat) : Nat := 0x1020 + 4 * (b / 8)

/-- The group a block belongs to (R10, R390). -/
def State.groupOf (s : State) (b : Nat) : Nat := if b = bRCU then 0 else fld (s.rwW (grpmapAddr b)) (4 * (b % 8)) 4

/-- The block of a key of the register stores. -/
def keyBlock (a : Nat) : Option Nat := if a < 0x1000000 then blockAt a else some (tableBlock a)

def ofBlock (b a : Nat) : Bool := decide (keyBlock a = some b)

/-- Present blocks of a group, ascending. -/
def State.groupBlocks (s : State) (g : Nat) : List Nat :=
  (List.range 38).filter (fun b => blockPresent s.member b && decide (s.groupOf b = g))

def State.setStagedBit (s : State) (g : Nat) (b : Bool) : State :=
  { s with reg := { s.reg with stagedBits :=
    if b then s.reg.stagedBits ||| BitVec.ofNat 16 (2 ^ g) else s.reg.stagedBits &&& ~~~(BitVec.ofNat 16 (2 ^ g)) } }

/-- A snapshot of a group's staged values; it replaces an earlier one for the same boundary (R13, R14). -/
def State.takeSnap (s : State) (g : Nat) : State :=
  let bs := s.groupBlocks g
  let words := s.reg.staged.filter (fun p => match keyBlock p.1 with | some b => bs.contains b | none => false)
  let sn : Snapshot := { group := g, blocks := bs, words := words }
  let others : List Snapshot := s.reg.snaps.filter (fun x => decide (x.group ≠ g))
  ({ s with reg := { s.reg with snaps := others ++ [sn] } }).setStagedBit g false

/-- A write of a group mask (R13). -/
def State.strobe (s : State) (mask : Nat) : State := (bitsOf 16 mask).foldl State.takeSnap s

/-! ### Adopted values -/

/-- How a field that holds a value outside its range is adopted: bounded, bounded as a signed number, another code in
place of the codes from `first` up, or the field's previous value in place of them. -/
inductive Adopt where
  | bound (lo hi : Nat)
  | signed (lo hi : Int)
  | code (first dest : Nat)
  | keep (first : Nat)
  deriving DecidableEq, Repr

/-- A field whose values outside its range are adopted as another: address, count and stride of its register, its lowest
bit and width, and how. -/
structure AdoptRow where
  addr : Nat
  cnt : Nat
  stride : Nat
  lo : Nat
  width : Nat
  rule : Adopt
  deriving DecidableEq, Repr

/-- Modes of the eight regions: code 3 is adopted as 0. -/
def modeRows (addr cnt : Nat) : List AdoptRow :=
  (List.range 8).map (fun r => ⟨addr, cnt, 0x1000, 2 * r, 2, .code 3 0⟩)

-- DEDUCED, log 26: unsafe.
-- DESIGN CHOICE, log 27: unsafe.
-- DEDUCED, log 28: unsafe.
/-- The fields that the register tables adopt as another value. -/
def adoptRows : List AdoptRow :=
  [⟨0x8000, 1, 0, 8, 8, .bound 2 64⟩,
   ⟨0x10010, 2, 0x4000, 0, 14, .bound 64 9216⟩,
   ⟨0x10018, 2, 0x4000, 0, 16, .bound 1 65535⟩,
   ⟨0x1001C, 2, 0x4000, 0, 16, .bound 1 65535⟩,
   ⟨0x10020, 2, 0x4000, 8, 7, .bound 1 127⟩,
   ⟨0x10040, 2, 0x4000, 8, 8, .bound 1 255⟩,
   ⟨0x20040, 1, 0, 8, 20, .bound 1 100000⟩,
   ⟨0x20100, 2, 0x80, 1, 2, .code 3 0⟩,
   ⟨0x20100, 2, 0x80, 3, 2, .code 3 0⟩,
   ⟨0x20100, 2, 0x80, 8, 8, .code 128 0⟩,
   ⟨0x20100, 2, 0x80, 20, 4, .signed (-7) 1⟩,
   ⟨0x20100, 2, 0x80, 24, 4, .signed (-3) 3⟩,
   ⟨0x24000, 1, 0, 0, 3, .code 6 5⟩,
   ⟨0x24000, 1, 0, 20, 4, .bound 1 15⟩,
   ⟨0x24000, 1, 0, 24, 2, .bound 0 2⟩,
   ⟨0x24030, 1, 0, 0, 8, .bound 1 255⟩,
   ⟨0x28000, 1, 0, 0, 3, .keep 6⟩,
   ⟨0x28000, 1, 0, 4, 2, .code 3 1⟩,
   ⟨0x28020, 4, 4, 4, 12, .bound 1 4095⟩,
   ⟨0x30108, 128, 0x40, 0, 32, .bound 0 100000000⟩,
   ⟨0x34080, 16, 4, 0, 8, .bound 1 255⟩,
   ⟨0x38000, 1, 0, 0, 8, .bound 1 255⟩,
   ⟨0x38000, 1, 0, 8, 8, .bound 1 255⟩,
   ⟨0x38000, 1, 0, 16, 8, .bound 1 255⟩,
   ⟨0x38010, 1, 0, 0, 7, .bound 1 100⟩,
   ⟨0x38010, 1, 0, 16, 16, .bound 1 65535⟩,
   ⟨0x3C000, 1, 0, 8, 8, .bound 1 255⟩,
   ⟨0x50040, 16, 4, 0, 19, .bound 0 262144⟩,
   ⟨0x50100, 8, 4, 0, 16, .signed (-1536) 0⟩,
   ⟨0x50100, 8, 4, 16, 11, .bound 1 2000⟩,
   ⟨0x50100, 8, 4, 27, 5, .bound 1 31⟩,
   ⟨0x60000, 8, 0x1000, 0, 13, .bound 0 4096⟩,
   ⟨0x70000, 8, 0x400, 4, 2, .bound 0 2⟩,
   ⟨0x70000, 8, 0x400, 19, 3, .code 5 0⟩,
   ⟨0x70000, 8, 0x400, 22, 8, .bound 1 128⟩,
   ⟨0x88004, 1, 0, 20, 4, .bound 1 15⟩,
   ⟨0x88004, 1, 0, 24, 8, .bound 1 255⟩,
   ⟨0x88034, 1, 0, 0, 16, .bound 1 65535⟩,
   ⟨0x7000000, 1, 0, 8, 7, .bound 20 80⟩,
   ⟨0x7000000, 1, 0, 16, 16, .bound 1 65535⟩,
   ⟨0x7000020, 1, 0, 0, 11, .bound 50 1600⟩,
   ⟨0x7000024, 1, 0, 0, 5, .bound 8 24⟩,
   ⟨0x7000030, 1, 0, 0, 8, .bound 90 120⟩,
   ⟨0x7000100, 2, 0x80, 0, 9, .bound 10 260⟩,
   ⟨0x7000108, 2, 0x80, 0, 16, .bound 20 1000⟩]
  ++ modeRows 0x5000C 1 ++ modeRows 0x60010 8

-- DEDUCED, log 26: unsafe.
-- DEDUCED, log 28: unsafe.
/-- A field's value as adopted; `old` is its previous one. -/
def Adopt.apply (r : Adopt) (n old v : Nat) : Nat :=
  match r with
  | .bound lo hi => clampN lo hi v
  | .signed lo hi => ((clampI lo hi (Machine.signed n v)) % 2 ^ n).toNat
  | .code first dest => if first ≤ v then dest else v
  | .keep first => if first ≤ v then old else v

def AdoptRow.apply (r : AdoptRow) (old w : Word) : Word :=
  merge w (toWord (put r.lo (2 ^ r.width - 1))) (toWord (put r.lo (r.rule.apply r.width (fld old r.lo r.width) (fld w r.lo r.width))))

/-- Addresses of the registers of an adoption row. -/
def AdoptRow.addrs (r : AdoptRow) : List Nat := (List.range r.cnt).map (fun i => r.addr + i * r.stride)

/-- RATE and FLOOR of MAC_CFG as adopted (R89). -/
def adoptRungs (m : Member) (w : Word) : Word :=
  merge w 0xF (toWord (ceilRung m w + put 2 (floorRung m w)))

-- DEDUCED, log 26: unsafe.
/-- The applied words of block `b` take the values that are adopted in place of those written; `old` are the words
applied before. -/
def State.adoptFields (s old : State) (b : Nat) : State :=
  let t := adoptRows.foldl (fun t r => (r.addrs.filter (ofBlock b)).foldl (fun u a =>
    if r.apply (old.appliedW a) (u.appliedW a) = u.appliedW a then u
    else u.setApplied a (r.apply (old.appliedW a) (u.appliedW a))) t) s
  if b = bMACA ∨ b = bMACB then
    let a := macBase (b - bMACA)
    t.setApplied a (adoptRungs s.member (t.appliedW a))
  else t

/-! ### What a snapshot brings a block -/

/-- The word a snapshot holds for a key. -/
def Snapshot.word (x : Snapshot) (a : Nat) : Word := sget resetWord x.words a

/-- What keeps the tick length from changing (R32). -/
def State.tickBusy (s : State) : Bool :=
  s.stx.ctx.any (fun c => c.2.run) || s.srx.ctx.any (fun c => c.2.run)
    || (List.range (numSap s.member)).any (fun p => sEn (s.sapCfg p))
    || [s.pwr.a, s.pwr.b].any (fun v => decide (v.st ≠ 0 ∧ v.st ≠ 7)) || decide (s.pair.st ≠ 0)

/-- The staged bit of a group whose block does not adopt is set again (R388). -/
def State.refusedSnap (s : State) (x : Snapshot) : State := s.setStagedBit x.group true

/-- The words of one block take the snapshot's values, fields outside their ranges as the tables adopt them. -/
def State.applyWords (s : State) (x : Snapshot) (b : Nat) : State :=
  ({ s with reg := { s.reg with
    applied := replaceWhere (fun a => ofBlock b a && !s.inMode1 a) s.reg.applied x.words } } : State).adoptFields s b

/-- G5 and the tick length (R32). -/
def State.applyTT (s : State) (x : Snapshot) : State :=
  let new := fld (x.word 0x2C000) 0 3
  if new = fld (s.appliedW 0x2C000) 0 3 then s.applyWords x bTT
  else if 6 ≤ new ∨ s.tickBusy then (s.flag 0x2C008 0x2).refusedSnap x
  else
    let t := s.applyWords x bTT
    { t with tt := { t.tt with tickNext := some new },
             reg := { t.reg with waiting := t.reg.waiting ++ [(x.group, bTT)] } }

-- DEDUCED, log 114: unsafe.
/-- The tick-length change waits for a boundary that is a multiple of 32 samples.  Where nothing runs it is adopted there;
where something has started since, or pair mode needs a longer tick, it is refused as at the snapshot (R32, R26, R377). -/
def State.tickAdopt (s : State) : State :=
  match s.tt.tickNext with
  | none => s
  | some c =>
    if s.tt.now % 32 ≠ 0 then s
    else
      let t := { s with
        tt := { s.tt with tickNext := none },
        reg := { s.reg with waiting := s.reg.waiting.filter (fun p => p.2 ≠ bTT) } }
      if s.tickBusy then
        ((t.setApplied 0x2C000 (merge (t.appliedW 0x2C000) 7 (toWord s.tt.tick))).flag 0x2C008 0x2).setStagedBit
          ((((s.reg.waiting.find? (fun p => p.2 = bTT)).map (fun p => p.1))).getD 0) true
      else { t with tt := { t.tt with tick := c } }

/-- PWR's words; a PBTL that cannot change yet keeps its previous value and stays staged (R318). -/
def State.applyPwr (s : State) (x : Snapshot) : State :=
  let t := s.applyWords x bPWR
  let held := s.pbtlHeld (x.word 0x7000000)
  let w := s.appliedW 0x7000000
  let u := if held then (t.setApplied 0x7000000 (merge (x.word 0x7000000) 1 w)).refusedSnap x else t
  { u with pwr := { u.pwr with pbtlPend := held },
           reg := { u.reg with waiting := (u.reg.waiting.filter (fun p => p.2 ≠ bPWR)) ++ [(x.group, bPWR)] } }

/-- One block of a snapshot: applied, or refused whole. -/
def State.applyBlock (s : State) (x : Snapshot) (b : Nat) : State :=
  if b = bMACA ∨ b = bMACB then
    let p := b - bMACA
    if macRefused s.member (x.word (macBase p)) (x.word (macBase p + 0x30)) (x.word (macBase p + 0x34)) then
      (s.flagRaise (macBase p + 0xC) 0x8 (25 + p)).refusedSnap x
    else s.applyWords x b
  else if b = bTT then s.applyTT x
  else if b = bSYN then
    let r := rateField (x.word 0x28000) s.syn.rate
    if s.pair.st ≠ 0 ∧ r ≠ rateField (s.appliedW 0x28000) s.syn.rate ∧ tickShort s.tt.tick r then
      (s.flagRaise 0x2800C 0x20 91).refusedSnap x
    else s.applyWords x b
  else if b = bMCR then
    let t := s.applyWords x b
    if 5 < fld (x.word 0x24000) 0 3 then t.flag 0x2400C 0x8 else t
  else if b = bPAIR then
    (if leaseBad (x.word 0x88004) then (s.flagRaise pairFlags 0x20 91).refusedSnap x else s.applyWords x b)
  else if b = bPWR then s.applyPwr x
  else if 30 ≤ b ∧ b < 38 then
    let t := s.applyWords x b
    { t with reg := { t.reg with waiting := (t.reg.waiting.filter (fun p => p.2 ≠ b)) ++ [(x.group, b)] } }
  else s.applyWords x b

/-- A running CRC pass is discarded by a snapshot that applies (R396). -/
def State.crcDiscard (s : State) : State :=
  if s.reg.crc.passOn then
    { s with reg := { s.reg with crc := { s.reg.crc with passOn := false, rest := true, restarts := (s.reg.crc.restarts + 1) % 4096 } } }
  else s

/-- Every snapshot that waits applies together, in the order taken (R13, R14). -/
def State.applySnaps (s : State) : State :=
  if s.reg.snaps = [] then s
  else
    let t := s.reg.snaps.foldl (fun t x => x.blocks.foldl (fun u b => u.applyBlock x b) t) s
    ({ t with reg := { t.reg with snaps := [] } }).crcDiscard

/-- Blocks of the snapshots that wait. -/
def State.snapBlocks (s : State) : List Nat := (s.reg.snaps.flatMap (fun x => x.blocks)).dedup

/-! ### Adoption in the sys, time and port domains (R15) -/

/-- SYN waits for the end of a relock where its adoption begins one (R81). -/
def State.synWait (s : State) (g : Nat) : State :=
  if s.syn.req ∨ s.syn.rstep ≠ 0 then
    { s with reg := { s.reg with waiting := (s.reg.waiting.filter (fun p => p.2 ≠ bSYN)) ++ [(g, bSYN)] } }
  else s

/-- Step 3 of a relock begins, or begins again with a trigger merged into it (R77, R81); in a house-rate change everything
started stops first (R134, R163, R224, R309), and what depends on the rate is judged at the new one. -/
def State.step3Begin (s : State) : State :=
  if s.syn.rateChg then
    let a := (((s.stxRateStop).srxRateStop).audRateStop).sapRateStop
    ((((a.relockStep3).engCheckAll []).asrcAll).asrcAdmit).sapRejudge
  else s.relockStep3

/-- A trigger merged into step 3 restarts it. -/
def State.step3Again (s : State) : State := if s.syn.again then s.step3Begin else s

/-- The group of the snapshot that brings a block its words. -/
def State.snapGroup (s : State) (b : Nat) : Nat :=
  ((s.reg.snaps.filter (fun x => x.blocks.contains b)).getLast?.map (fun x => x.group)).getD (s.groupOf b)

/-- Adoption of the blocks named, each comparing with the state before the boundary. -/
def State.adoptBlocks (s old : State) (bs : List Nat) : State :=
  let has_ (b : Nat) : Bool := bs.contains b
  let a0 := if has_ bSYN then ((s.synAdopt old).synWait (old.snapGroup bSYN)).step3Again else s
  let a := if a0.syn.rateChg && !old.syn.rateChg then a0.pairRateStop else a0
  let b := if has_ bTIM then a.timAdopt else a
  let c0 := if has_ bMCR then b.mcrAdopt else b
  let c := if has_ bMCR || has_ bTIM then c0.tsrcCheck else c0
  let d := if has_ bMACA then c.macAdopt old 0 else c
  let e := if has_ bMACB then d.macAdopt old 1 else d
  let f := if has_ bMACA || has_ bMACB then e.resvShort old else e
  let g := if has_ bMIX then f.mixAdopt.stxPaths else f
  let engs := (List.range 8).filter (fun k => has_ (bENG k))
  let h := engs.foldl (fun t k => t.engAdopt k) g
  let back := engs.filter (fun k => decide ((h.engOf k).st = .halted))
  let i := if engs = [] ∧ !has_ bMIX then h else h.engCheckAll back
  if has_ bASRC then i.asrcAdmit else i

end Sys2Proof.Machine
end

