-- ==== Sys2Proof/Machine/Depart.lean ====
section
/-! DEFINITION. The actions of departures (R36) at the boundary that takes them (R38, R39). -/

namespace Sys2Proof.Machine

/-- BANK (R263, R285): MIX and the engines of the argument, each with a record for the mirror. -/
def State.actBank (s : State) (w0 w1 : Word) : State :=
  let owners := (if bitAt w0 0 then [bMIX] else []) ++ (bitsOf 8 (fld w0 8 8)).map bENG
  owners.foldl (fun t o => (t.bankDeparture o (fld w1 0 2)).recordSwap o t.mix.lab1) s

/-- XFADE (R249). -/
def State.actXfade (s : State) (n : Nat) : State := (s.fireSet n).recordFire n s.mix.lab1

/-- TAB_RENEW: the holder sends RENEW. -/
def State.actRenew (s : State) : State := if s.holder then s.sendRenew else s

/-- The action of a departure, FIRE apart, whose snapshots the boundary has applied already. -/
def State.act (s : State) (k : Taken) : State :=
  let w := k.arg0
  if k.act = 2 then (s.stxStartRange w (k.from s.tt.now)).1
  else if k.act = 3 then s.stxStopRange w
  else if k.act = 4 then (s.srxStartRange w (k.from s.tt.now)).1
  else if k.act = 5 then s.srxStopRange w
  else if k.act = 6 then s.sapStartMask (fld w 0 8) (k.from s.tt.now)
  else if k.act = 7 then s.sapStopMask (fld w 0 8)
  else if k.act = 8 then (s.pwrMask (fld w 0 2)).foldl State.pwrArm s
  else if k.act = 9 then (s.pwrMask (fld w 0 2)).foldl State.pwrStop s
  else if k.act = 0x0A then s.actBank w k.arg1
  else if k.act = 0x0B then s.actXfade (fld w 0 6)
  else if k.act = 0x0C then s.actRenew
  else if k.act = 0x0D then s.release
  else s

/-- The groups that FIRE departures fire at the boundary take their snapshots there (R13, R39). -/
def State.fireAll (s : State) (ks : List Taken) : State :=
  (ks.filter (fun k => decide (k.act = 1))).foldl (fun t k => t.strobe (fld k.arg0 0 16)) s

/-- The other actions, in ascending departure number. -/
def State.actAll (s : State) (ks : List Taken) : State := ks.foldl State.act s

/-- Records of the departures taken (R355). -/
def State.recordTaken (s : State) (ks : List Taken) : State := ks.foldl (fun t k => t.recordDep k.dep) s

/-- The safe-load sets of MIX and the engines apply (R265, R285), each recorded for the mirror. -/
def State.slApplyOne (s : State) (o : Nat) : State :=
  match (s.bankCtl o).slPend with
  | none => s
  | some ps => (s.slApply o).recordSet s.mix.lab1 (ps.map (fun p => (paramAddr o p.1, p.2)))

def State.slApplyAll (s : State) : State :=
  (bMIX :: (List.range (numEng s.member)).map bENG).foldl State.slApplyOne s

end Sys2Proof.Machine
end

