-- ==== Sys2Proof/Machine/Mirror.lean ====
section
/-! DEFINITION. A mirror set as the standby applies it (R357). -/

namespace Sys2Proof.Machine

/-- Change records of one block's payload. -/
def parseRecs (set : Nat) : Nat → List Byte → List MirRec
  | 0, _ => []
  | n + 1, b =>
    if b.length < 12 then []
    else
      let k := natBE (slice b 1 1)
      let rel := signed 16 (natBE (slice b 2 2))
      let r : MirRec := {
        typ := natBE (slice b 0 1), label := (Int.ofNat set + rel).toNat, addr := natBE (slice b 4 4),
        rseq := natBE (slice b 8 4),
        data := (List.range k).map (fun i => toWord (natBE (slice b (12 + 4 * i) 4))) }
      r :: parseRecs set n (b.drop (12 + 4 * k))

/-- What changed in the fabric since `old` begins now, advanced by the samples that have passed. -/
def State.advanceNew (s old : State) (passed : Nat) : State :=
  let xp := s.mix.xp.foldl (fun m p => if old.xpRamp p.1 = p.2 then m else sset xpReset m p.1 (p.2.run passed)) s.mix.xp
  let t := { s with mix := { s.mix with xp := xp } }
  t.mix.junc.foldl (fun u p =>
    match p.2.fade with
    | none => u
    | some f =>
      if (old.juncOf p.1).fade = some f then u
      else if f.len ≤ f.pos + passed then u.setJunc p.1 (p.2.fadeEnd (u.xlenOf p.1))
      else u.setJunc p.1 { p.2 with fade := some { f with pos := f.pos + passed } }) t

/-- Junctions and crosspoints follow the words as a record left them. -/
def State.followWords (s old : State) (label : Nat) : State :=
  (((s.hearAll []).beginDue).retarget []).advanceNew old (s.mix.lab1 + s.T - label)

/-- A T-space word of a record of type 1 or 5. -/
def State.mirrorWord (s : State) (typ addr : Nat) (w : Word) : State :=
  let a := addr % 0x10000000
  if addr.testBit 31 then s.setBank true a w
  else if addr.testBit 30 then (if typ = 1 then (s.setApplied a w).setStaged a w else s.setApplied a w)
  else if s.inMode1 a then (if typ = 1 then s.bankWrite a w else s.setBank false a w)
  else s.setStaged a w

-- DEDUCED, log 89: safe.
/-- The owner a bank event names. -/
def mirOwner (u : Nat) : Nat := if u = 0 then bMIX else u + 21

/-- A bank event. -/
def State.mirrorBank (s : State) (r : MirRec) : State :=
  let o := mirOwner (r.addr % 256)
  if r.addr / 256 % 4 = 2 then s.copyBanks o (fun _ => true)
  else
    let m1 := maskOf ((List.range 8).filter (fun k => decide (s.modeOf o k = 1)))
    let sel := match r.data with | w :: _ => w | [] => toWord (if r.addr / 256 % 4 = 1 then m1 else 0)
    ((s.swapTo o (BitVec.ofNat 8 (fld sel 0 8))).setApplied (bankReg o) (merge (s.appliedW (bankReg o)) (toWord m1) sel)).setStaged
      (bankReg o) (merge (s.stagedW (bankReg o)) (toWord m1) sel)

-- DEDUCED, log 89: safe.
/-- A crossfade set that fired on the holder fires here unless the standby has fired it itself. -/
def State.mirrorFire (s : State) (r : MirRec) : State :=
  if s.pair.fired.any (fun p => decide (p.1 = r.addr % 64 ∧ r.label ≤ p.2)) then s
  else (s.fireSet (r.addr % 64)).recordFire (r.addr % 64) r.label

/-- A departure record: its registers, and a departure the holder took and the standby did not, taken LATE. -/
def State.mirrorDep (s : State) (r : MirRec) : State :=
  let d := r.addr % 64
  let w (i : Nat) : Word := r.data.getD i 0
  let pos := (w 0).toNat + (w 1).toNat * 2 ^ 32
  let took := bitAt (w 7) 0 && s.isArmed d && (!bitAt (w 6) 0 || decide (s.depPos d < pos))
  let t := if took then ((s.takeOne d).act { s.takenOf d with late := true }).flag pairFlags 0x400 else s
  let u := (List.range 6).foldl (fun v i => v.setRw (depBase d + 4 * i) (w i)) t
  let x := (u.setRc (depBase d + 0x1C) (w 7)).setArmed d (bitAt (w 6) 0)
  if took then (((x.flag (depBase d + 0x1C) 0x2).flag (0x2C028 + 4 * (d / 32)) (2 ^ (d % 32))).flag 0x2C008 0x4).raise 43 else x

/-- One record, unless its number has been applied. -/
def State.mirrorRec (s : State) (r : MirRec) : State :=
  if s.pair.applied.contains r.rseq then s
  else
    let t := s.modPair (fun v => { v with applied := (r.rseq :: v.applied).take 8192 })
    if r.typ = 1 ∨ r.typ = 5 then
      (r.data.zipIdx.foldl (fun u p => u.mirrorWord r.typ (r.addr + 4 * p.2) p.1) t).followWords t r.label
    else if r.typ = 2 then (t.mirrorBank r).followWords t r.label
    else if r.typ = 3 then (t.mirrorFire r).followWords t r.label
    else if r.typ = 4 then (t.mirrorDep r).followWords t r.label
    else t

/-- Packets a transmit context has committed by a boundary. -/
def packetsBy (v : StxCtx) (t b : Nat) : Nat := (b - (v.path - 1) * t - v.start) / max 1 (sppOf v.words t)

/-- Transmit sequence numbers, advanced by the packets since the end of the tick the set describes. -/
def State.mirrorStx (s : State) (f : List Byte) (fin : Nat) : State :=
  s.stxRunning.foldl (fun t c =>
    let n := packetsBy c.2 s.T s.tt.now - packetsBy c.2 s.T fin
    let m := if cRtp c.2.words then 65536 else 256
    t.setStx c.1 { c.2 with seq := (natBE (slice f (2 * c.1) 2) + n) % m }) s

-- DEDUCED, log 89: safe.
/-- Expected numbers and H, advanced by what the standby itself has counted since. -/
def State.mirrorSrx (s : State) (f : List Byte) (fin : Nat) : State :=
  match s.pair.marks.find? (fun m => m.1 == fin) with
  | none => s
  | some m => s.srxRunning.foldl (fun t c =>
      let md := if rFormat c.2.words < 4 then 256 else 65536
      let step (v was val : Nat) : Nat := (val + (v + md - was % md)) % md
      let e := natBE (slice f (256 + 2 * c.1) 2)
      let h := natBE (slice f (512 + 2 * c.1) 2)
      let u := t.setSrx c.1 { c.2 with expect := c.2.expect.map (fun x => step x (m.2.1.getD c.1 0) e) }
      let d := u.dpcOf c.1
      if d.dual && !d.reset then u.setDpc c.1 { d with h := step d.h (m.2.2.getD c.1 0) h } else u) s

/-- A channel's limiter gains, estimates and coil temperature. -/
def PwrCh.take (v : PwrCh) (f : List Byte) : PwrCh :=
  let w (i : Nat) : Nat := natBE (slice f (4 * i) 4)
  if v.modulates then v
  else { v with grBatt := w 1, grTherm := w 2, grExc := w 3, est := [w 4, w 5, w 6, w 7], coilT := signed 32 (w 8) }

def State.mirrorPwr (s : State) (f : List Byte) : State :=
  if hasPower s.member then
    { s with pwr := { s.pwr with a := s.pwr.a.take (slice f 896 64), b := s.pwr.b.take (slice f 960 64) } }
  else s

/-- The limiter slice. -/
def State.mirrorLim (s : State) (f : List Byte) : State :=
  let first := natBE (slice f 1026 2)
  let n := natBE (slice f 1025 1)
  let sinks := (s.extSinks.filter (fun j => decide (first ≤ j))).take n
  sinks.zipIdx.foldl (fun t p => t.setLim p.1 (min unity (natBE (slice f (1028 + 4 * p.2) 4)))) s

/-- The fixed part replaces the standby's own counts. -/
def State.mirrorFixed (s : State) (f : List Byte) (fin : Nat) : State :=
  (((((s.mirrorStx f fin).mirrorSrx f fin).mirrorPwr f).mirrorLim f)).modPair (fun v => { v with fixed := f })

-- DEDUCED, log 87: unsafe.
/-- The standby applies the set received, at the first boundary no earlier than two ticks after it (R357). -/
def State.mirrorApply (s : State) : State :=
  let v := s.pair
  let has_ (b : Nat) : Bool := v.rx.any (fun p => decide (p.1 = b))
  if s.shadowed && !v.rxDone && has_ 0 && has_ 1 && decide (v.rxSet + 2 * s.T ≤ s.tt.now) then
    let f := sget (fun _ => []) v.rx 0 ++ sget (fun _ => []) v.rx 1
    let recs := (v.rx.filter (fun p => decide (2 ≤ p.1))).flatMap (fun p => parseRecs v.rxSet 100 p.2)
    let a := (s.mirrorFixed f (v.rxSet + s.T)).bump (pairCtr 0)
    let b := recs.foldl State.mirrorRec a
    (b.modPair (fun x => { x with
      rxDone := true, mpoint := some v.rxSet, lapsed := false, refreshOut := recs.any (fun r => decide (r.typ = 5)) })).restale
  else s

end Sys2Proof.Machine
end

