-- ==== Sys2Proof/Machine/Status.lean ====
section
/-! DEFINITION. The values that RO fields show: identity and status words of every block, computed from the state. -/

namespace Sys2Proof.Machine

/-- Bits `32 k` to `32 k + 31` of a list of numbers taken as a set. -/
def setWord (k : Nat) (l : List Nat) : Word := toWord (maskOf ((l.filter (fun n => decide (n / 32 = k))).map (fun n => n % 32)))

def loWord (v : Nat) : Word := toWord (v % 2 ^ 32)
def hiWord (v : Nat) : Word := toWord (v / 2 ^ 32)

/-! ### GEN, RCU, PMU, MGT, PCI -/

-- DEDUCED, log 22: safe.
def State.roGEN (s : State) (o : Nat) : Word :=
  if o = 0 then toWord (partNo s.member * 65536 + Config.revision.toNat)
  else if o < 0x20 then capWord s.member ((o - 0x10) / 4)
  else if o = 0x20 then loWord Config.uid.toNat
  else hiWord Config.uid.toNat

/-- RCU_PEND: groups with a block that has not adopted. -/
def State.pendBits (s : State) : Nat := maskOf ((s.reg.waiting.map (fun p => p.1)).dedup)

def State.roRCU (s : State) (o : Nat) : Word :=
  let c := s.reg.crc
  if o = 0x008 then toWord s.pendBits
  else if o = 0x010 then s.reg.berrAddr
  else if o = 0x014 then toWord s.reg.stagedBits.toNat
  else if o = 0x064 then c.last
  else if o = 0x068 then toWord (b2n c.armed + putb 1 c.matched + put 4 (c.restarts % 4096) + put 16 (c.passes % 65536))
  else toWord s.reg.hstop.toNat

-- DEDUCED, log 22: safe.
def State.roPMU (s : State) (o : Nat) : Word :=
  if o = 0 then toWord s.pmu.supply.toNat
  else if o = 8 then toWord (s.pmu.temp % 256).toNat
  else if o = 0x40 then merge (toWord s.pmu.gpioIn.toNat) (s.rwW 0x3048) (s.rwW 0x3044)
  else toWord (b2n (softwareBusy s.mdio))

def State.roMGT (s : State) (o : Nat) : Word :=
  if o = 0 then toWord (s.pmu.boot + putb 3 s.mgt.ready + putb 4 (s.reg.hstop.getLsbD 3))
  else if s.mgt.ready then s.mgt.fwver else 0

def State.roPCI (s : State) : Word := toWord (b2n s.pci.up + put 1 s.pci.speed + put 4 s.pci.width)

/-! ### Rings -/

def ringCode (r : RingSt) : Nat := match r with | .disabled => 0 | .running => 1 | .halted => 2 | .hardstop => 3

def State.roRNG (s : State) (o : Nat) : Word :=
  let r := s.ringOf ((o - 0x100) / 0x40)
  let f := (o - 0x100) % 0x40
  if f = 0x24 then toWord (ringCode r.st + putb 2 r.started)
  else if f = 0x28 then toWord (r.ci + put 16 r.pi)
  else if f = 0x2C then toWord (r.cpi + put 16 r.cci)
  else r.pfault

/-! ### Time and clocks; `i` is the instant of the read within its tick -/

/-- Instance time at the instant. -/
def State.instNow (s : State) (i : Instant) (k : Nat) : Nat := (s.inst k).time + nsOf i k

/-- TIM_XOFS. -/
def State.xofs (s : State) (i : Instant) : Word :=
  if (s.inst 0).synced && (s.inst 1).synced then satWord (Int.ofNat (s.instNow i 1) - Int.ofNat (s.instNow i 0)) else 0

def second : Nat := 1000000000

/-- Nanoseconds, seconds [31:0] and seconds [47:32] of a time, by word. -/
def timeWord (ns k : Nat) : Word :=
  if k = 0 then toWord (ns % second) else if k = 1 then loWord (ns / second) else toWord (ns / second / 2 ^ 32 % 65536)

def State.istat (s : State) (k : Nat) : Word :=
  let v := s.inst k
  toWord (v.stateA + put 3 v.stateB + putb 6 v.asCapA + putb 7 v.asCapB + putb 8 v.synced + putb 9 v.gmSelf)

def State.roTIM (s : State) (i : Instant) (o : Nat) : Word :=
  let pos := s.tt.now + i.grains / 65536
  if o = 0x10 then toWord (i.grains % 65536)
  else if o = 0x14 then loWord pos
  else if o = 0x18 then hiWord pos
  else if o < 0x60 then timeWord s.tim.ppsIn ((o - 0x48) / 4)
  else if o = 0x60 then s.xofs i
  else
    let k := (o - 0x100) / 0x80
    let f := (o - 0x100) % 0x80
    let v := s.inst k
    if f = 0x08 then s.istat k
    else if f = 0x0C then satWord v.offset
    else if f = 0x10 then toWord v.delayA
    else if f = 0x14 then toWord v.delayB
    else if f = 0x18 then loWord v.gmId
    else if f = 0x1C then hiWord v.gmId
    else if f = 0x30 then satWord v.ratio
    else timeWord (s.instNow i k) ((f - 0x20) / 4)

def State.roMCR (s : State) (o : Nat) : Word :=
  if o = 0x08 then s.mcrStat
  else if o = 0x10 then satWord s.mcr.phase
  else if o = 0x14 then satWord s.oscFreq
  else if o = 0x18 then satWord s.mcr.favg
  else if o = 0x1C then satWord s.corrGrains
  else if o = 0x20 then intWord s.mcrDev
  else if o = 0x24 then intWord (s.mcrDev / 2 ^ 32)
  else if o = 0x28 then toWord (s.mcr.coastNs / second)
  else satWord s.mcr.centre

def State.roSYN (s : State) (o : Nat) : Word :=
  let y := s.syn
  if o = 8 then
    toWord (b2n y.xoOk + putb 1 y.spll + putb 2 y.mpllA + putb 3 y.mpllB + putb 4 y.fence + put 5 y.rstep + putb 8 y.serA
      + putb 9 y.serB + putb 10 y.pairPll + putb 11 y.pciePll + putb 12 y.failed)
  else toWord y.mcnt

def State.roTT (s : State) (o : Nat) : Word :=
  if o = 0x08 then toWord (b2n s.tt.rateOk)
  else if o = 0x10 then loWord s.tt.now
  else if o = 0x14 then hiWord s.tt.now
  else if o = 0x20 then loWord s.tt.armed.toNat
  else hiWord s.tt.armed.toNat

/-! ### Ports, classifier and streams -/

/-- MAC_STAT. -/
def State.roMAC (s : State) (p : Nat) : Word :=
  let m := s.mac p
  let pris := (bitsOf 8 m.pfcQ.toNat).filterMap (s.queuePri p)
  toWord (b2n m.up + put 1 m.rung + putb 3 m.lane + putb 4 m.phy + put 5 m.verify
    + putb 7 (decide (m.pauseQ ≠ 0) || decide (m.pfcQ ≠ 0)) + putb 8 m.hold + putb 9 m.retrain + putb 10 m.overbook
    + putb 11 m.sleep + put 16 (maskOf pris))

def State.roCLS (s : State) : Word := toWord ((List.range 256).filter (fun n => bitAt (s.appliedW (cidAddr n 2)) 0)).length

-- DESIGN CHOICE, log 113: unsafe.
/-- CSTAT.RELATCH of a transmit context. -/
def State.stxRelatch (s : State) (c : Nat) : Bool :=
  let v := s.stxOf c
  let w := s.stxWords c
  v.run && ((List.range 14).any (fun i => decide (i ≠ 2 ∧ i ≠ 13) && decide (w.getD i 0 ≠ v.words.getD i 0))
    || (cPort v.words 0 && (decide (v.srcA ≠ (s.portAddr 0).1) || (cRtp v.words && decide (v.ipA ≠ s.ipSrc 0))))
    || (cPort v.words 1 && (decide (v.srcB ≠ (s.portAddr 1).1) || (cRtp v.words && decide (v.ipB ≠ s.ipSrc 1)))))

-- DESIGN CHOICE, log 112: unsafe.
def State.roSTX (s : State) (o : Nat) : Word :=
  if o = 4 then toWord (s.stxRunning.length + putb 8 s.fenced)
  else if o < 0x30 then toWord (min (2 ^ 24 - 1) (s.stxSum ((o - 0x20) / 8) ((o - 0x20) / 4 % 2)))
  else if o < 0x40 then toWord (min (2 ^ 23 - 1) (s.stxPrate ((o - 0x30) / 4)))
  else if o < 0x100 then setWord ((o - 0x40) / 4) (s.stxRunning.map (fun c => c.1))
  else
    let c := (o - 0x100) / 0x40
    let v := s.stxOf c
    if (o - 0x100) % 0x40 = 0x38 then toWord (min (2 ^ 24 - 1) (resvOf (s.stxWords c) s.T s.rateHz))
    else toWord (b2n v.run + putb 1 v.stopping + putb 2 (decide (v.path = 1)) + putb 3 (v.run && s.fenced)
      + putb 13 (s.stxRelatch c) + put 16 (v.seq % 65536))

/-- CSTAT.RELATCH of a receive context. -/
def State.srxRelatch (s : State) (c : Nat) : Bool :=
  let v := s.srxOf c
  let w := s.srxWords c
  v.run && (List.range 6).any (fun i => decide (i ≠ 2) && decide (w.getD i 0 ≠ v.words.getD i 0))

-- DEDUCED, log 59: unsafe.
def State.roSRX (s : State) (o : Nat) : Word :=
  if o = 4 then toWord s.srxRunning.length
  else if o < 0x50 then setWord ((o - 0x40) / 4) (s.srxRunning.map (fun c => c.1))
  else if o < 0x60 then setWord ((o - 0x50) / 4) ((s.srxRunning.filter (fun c => c.2.under)).map (fun c => c.1))
  else if o < 0x100 then
    let g := (o - 0xC0) / 4 + 1
    let m := s.members g
    toWord (b2n (m.any (fun c => c.2.gwait)) + putb 1 (s.grpOf g).presenting
      + put 8 (m.filter (fun c => c.2.under)).length)
  else
    let c := (o - 0x100) / 0x40
    let v := s.srxOf c
    let f := (o - 0x100) % 0x40
    if f = 0x18 then
      toWord (b2n v.run + putb 1 v.presenting + putb 2 v.under + putb 3 v.stopLeft.isSome + putb 14 (s.srxRelatch c)
        + putb 15 v.gwait)
    else if f = 0x1C then satWord v.margin
    else if f = 0x24 then toWord (min 511 (v.rows.filter (fun r => decide (s.tt.now ≤ r.1))).length)
    else toWord (v.expect.getD 0 % 65536)

def State.roDPC (s : State) (o : Nat) : Word :=
  if o = 0x08 then toWord (min 65535 s.dpc.a.hold + put 16 (min 65535 s.dpc.b.hold))
  else if o = 0x14 then toWord (s.why 0 + put 4 (s.why 1) + putb 8 s.dpc.shifting + put 9 s.dpc.shiftPort)
  else if o < 0x48 then
    let v := s.dpcPort ((o - 0x40) / 4)
    toWord (v.utilTx + put 16 v.utilRx)
  else if o < 0x80 then toWord (s.dpcPort ((o - 0x48) / 4)).srate
  else
    let v := s.dpcOf ((o - 0x100) / 0x10)
    let f := o % 0x10
    if f = 0 then toWord (v.stA + put 2 v.stB + put 16 (v.h % 65536))
    else if f = 4 then satWord v.skew
    else toWord (v.skewPkt % 64)

/-! ### Fabric, engines, ports and converters -/

def State.roMIX (s : State) (o : Nat) : Word :=
  if o = 4 then toWord (b2n s.mix.copying + putb 1 s.mix.slPend.isSome + put 8 s.mix.select.toNat)
  else if o = 0x14 then s.mix.badSrc
  else if o = 0x18 then s.mix.ldDeny
  else toWord (s.busFades + put 16 s.mix.deferred.length)

def engCode (e : EngState) : Nat := match e with | .stopped => 0 | .running => 1 | .halted => 2 | .check => 3 | .hardstop => 4

/-- ENG_CYC, from the staged program; a word that encodes no instruction counts one cycle. -/
def State.engCycWord (s : State) (e : Nat) : Word :=
  let c := costOf ((progWords s.stagedW e (plenOf (s.stagedW (engBase e)))).map (fun w => (edecode w).getD .nop))
  toWord (min 65535 c.total + put 16 (min 65535 c.p))

def State.roENG (s : State) (e o : Nat) : Word :=
  let v := s.engOf e
  if o = 0x08 then
    toWord (engCode v.st + put 4 v.cause + putb 8 v.zeroing + putb 9 v.slPend.isSome + putb 10 v.copying
      + putb 11 v.clearReq + put 16 v.select.toNat)
  else if o = 0x1C then s.engCycWord e
  else if o = 0x20 then toWord (min 65535 v.chain + put 16 (engBudget s.syn.rate))
  else if o = 0x24 then v.fault
  else toWord (v.wp % 2 ^ 20)

def State.roSAP (s : State) (p o : Nat) : Word :=
  let v := s.sapOf p
  if o = 8 then
    toWord (v.st + putb 3 (s.mlock p) + putb 4 v.aligned + putb 5 (s.sapClock p) + put 6 v.rclass + putb 10 s.fenced
      + putb 11 v.badcfg + putb 12 (v.started && decide ((s.appliedW (sapBase p) ^^^ v.fmt) &&& fmtMask ≠ 0)))
  else if o = 0x10 then toWord (v.rate % 2 ^ 25)
  else toWord (v.loss + put 4 v.slip + put 8 v.refuse)

def State.roASRC (s : State) (o : Nat) : Word :=
  if o = 0 then toWord (s.asrc.units + put 16 256)
  else if o < 0x100 then
    let k := s.trkOf ((o - 0x40) / 8)
    if o % 8 = 0 then toWord k.ratio else toWord k.st
  else
    let n := (o - 0x100) / 8
    let v := s.chOf n
    toWord (v.st + putb 2 v.overcap + putb 3 (v.admitted && s.asleep n))

/-! ### Power stage, pair, sidings and sample store -/

def tempByte (t : Int) : Nat := (t % 256).toNat

def State.roPWR (s : State) (o : Nat) : Word :=
  if o = 4 then toWord (s.pwr.wstA + put 4 s.pwr.wstB + putb 8 s.pwr.link + putb 9 s.fenced + putb 10 s.pwr.linkHstop)
  else if o = 0xC then toWord (min 65535 s.pwr.pvddMean)
  else toWord (tempByte s.pwr.a.dieTemp + put 8 (tempByte s.pwr.b.dieTemp))

/-- RO words of the power-die registers, by offset in T-space 0x07. -/
def State.roPD (s : State) (o : Nat) : Word :=
  let a := s.pwr.a
  let b := s.pwr.b
  if o = 0x08 then
    toWord (a.state + putb 3 a.idle + put 4 b.state + putb 7 b.idle + put 8 a.fault + put 12 b.fault + put 16 a.refuse
      + put 20 b.refuse + putb 24 s.pwr.pbtl + putb 25 s.pwr.pbtlPend)
  else if o = 0x10 then toWord (a.diagRes + put 4 b.diagRes)
  else if o = 0x14 then toWord a.diagR
  else if o = 0x18 then toWord b.diagR
  else if o = 0x1C then toWord ((a.cal % 65536).toNat + put 16 (b.cal % 65536).toNat)
  else
    let v := s.pwrCh ((o - 0x100) / 0x80)
    let f := o % 0x80
    if f < 0x40 then toWord (v.est.getD ((f - 0x30) / 4) 0 % 65536 + putb 31 (v.atBound.getLsbD ((f - 0x30) / 4)))
    else if f = 0x40 then toWord (min 65535 v.xpred)
    else if f = 0x48 then toWord (v.coilT % 65536).toNat
    else toWord (v.grBatt + put 8 v.grTherm + put 16 v.grExc)

def State.roPAIR (s : State) (o : Nat) : Word :=
  let v := s.pair
  if o = 0x0C then
    toWord (v.st + putb 3 v.driving + putb 4 v.link + putb 5 s.reg.roleDone + put 6 v.refuse + put 9 v.why
      + putb 12 (s.holder && (decide (v.refresh ≠ []) || v.recs.any (fun r => decide (r.typ = 5))
          || v.sent.any (fun r => decide (r.2.typ = 5)))))
  else if o = 0x20 then toWord v.gen
  else if o = 0x24 then loWord v.lease
  else if o = 0x28 then hiWord v.lease
  else if o = 0x2C then toWord (min 65535 s.pairLag + put 16 (if s.holder then min 65535 v.recs.length else 0))
  else v.peerCrc

/-- Words and packets a lane holds (R191); sidings whose packets act in the step that commits them hold none between
steps. -/
def State.laneCount (s : State) (n l : Nat) : Nat × Nat :=
  if n = 2 ∨ n = 3 then (s.laneHeld (n - 2) l / 8, (s.queue (n - 2) l).length)
  else if n = 4 then (s.hrx.foldl (fun k f => k + laneRoom f.body.length / 8) 0, s.hrx.length)
  else if n = 5 then (s.feedHeld / 8, (s.ring.flatMap (fun x => x.2.feed)).length)
  else if 28 ≤ n then
    let v := (s.mboxOf n).visible
    (v.foldl (fun k i => k + i.length) 0, v.length)
  else (0, 0)

-- DEDUCED, log 22: safe.
def State.roSDG (s : State) (o : Nat) : Word :=
  let n := (o - 0x100) / 0x40
  let f := (o - 0x100) % 0x40
  let v := s.mboxOf n
  if f = 0 then toWord (sdgInfo n)
  else if f = 8 then toWord (b2n v.flushing + putb 6 (decide (v.trim ≠ 0)))
  else if f = 0xC then toWord (b2n v.isEmpty + putb 1 v.lastEnd)
  else
    let c := s.laneCount n ((f - 0x10) / 4)
    toWord (min 65535 c.1 + put 16 (min 65535 c.2))

def State.roSST (s : State) (o : Nat) : Word :=
  if o = 4 then toWord (b2n (bitAt (s.appliedW 0x3C000) 0) + put 16 (s.sst.passes % 65536)) else s.sst.ueAddr

/-- RO fields of the register at a normal-view offset; HI words of counters show the live count until latched. -/
def State.roWord (s : State) (i : Instant) (a : Nat) : Word :=
  match blockAt a with
  | none => 0
  | some b =>
    let o := a - blockBase b
    if b = bGEN then s.roGEN o
    else if b = bRCU then s.roRCU o
    else if b = bPMU then s.roPMU o
    else if b = bMGT then s.roMGT o
    else if b = bPCI then s.roPCI
    else if b = bRNG then s.roRNG o
    else if b = bTIM then s.roTIM i o
    else if b = bMCR then s.roMCR o
    else if b = bSYN then s.roSYN o
    else if b = bTT then s.roTT o
    else if b = bMACA then s.roMAC 0
    else if b = bMACB then s.roMAC 1
    else if b = bCLS then s.roCLS
    else if b = bSTX then s.roSTX o
    else if b = bSRX then s.roSRX o
    else if b = bDPC then s.roDPC o
    else if b = bMIX then s.roMIX o
    else if b = bASRC then s.roASRC o
    else if b = bPWR then s.roPWR o
    else if b = bPAIR then s.roPAIR o
    else if b = bSDG then s.roSDG o
    else if b = bSST then s.roSST o
    else if 22 ≤ b ∧ b < 30 then s.roENG (b - 22) o
    else if 30 ≤ b ∧ b < 38 then s.roSAP (b - 30) o
    else 0

end Sys2Proof.Machine
end

