-- ==== Sys2Proof/Machine/Mgt.lean ====
section
/-! DEFINITION. The management core as the host meets it: doorbells and the mailbox requests of R428. -/

namespace Sys2Proof.Machine

/-- Payload words an item's header names. -/
def itemLen (w : Word) : Nat := fld w 16 10

/-- The oldest complete item of a mailbox. -/
def State.item (s : State) (n : Nat) : Option (List Word) :=
  match (s.mboxOf n).items with
  | (w :: t) :: _ => if (s.mboxOf n).flushing then none else some (w :: t)
  | _ => none

/-- The core takes a whole item. -/
def State.dropItem (s : State) (n : Nat) : State :=
  let v := s.mboxOf n
  match v.items with
  | x :: t => s.setMbox n { v with items := t, begun := false, last := x.getLast?.getD v.last, lastEnd := true }
  | [] => s

/-- An item the core writes. -/
def State.putItem (s : State) (n : Nat) : List Word → State
  | [] => s
  | [w] => s.mboxAppend n w true
  | w :: t => State.putItem (s.mboxAppend n w false) n t

/-- The reply to a request: OPCODE | 0x80, its SEQ, a status word and the words that follow it. -/
def State.mgtReply (s : State) (head : Word) (status : Nat) (ws : List Word) : State :=
  let h := toWord (128 + fld head 0 8 % 128 + put 8 (fld head 8 8) + put 16 (1 + ws.length))
  s.putItem 29 (h :: toWord status :: ws)

/-- The core has emptied the mailboxes it was told of. -/
def State.bellIdle (s : State) : State :=
  let a := if (s.item 28).isNone then s.mgt.dbell &&& 2 else s.mgt.dbell
  { s with mgt := { s.mgt with dbell := if (s.item 30).isNone then a &&& 1 else a } }

/-- Requests with an opcode that names none are answered BADOP as the core meets them. -/
def mgtSkim : Nat → State → State
  | 0, s => s
  | n + 1, s =>
    if s.mgt.ready && s.mgt.dbell.getLsbD 0 then
      match s.item 28 with
      | some (h :: _) =>
        if 1 ≤ fld h 0 8 ∧ fld h 0 8 ≤ 6 then s else mgtSkim n ((s.dropItem 28).mgtReply h 1 [])
      | _ => s.bellIdle
    else s

/-- A write of MGT_DBELL (R428). -/
def State.mgtBell (s : State) (m : Nat) : State :=
  mgtSkim 1024 { s with mgt := { s.mgt with dbell := s.mgt.dbell ||| BitVec.ofNat 2 m } }

-- DEDUCED, log 40: unsafe.
/-- A request the core has been told of: its header and payload, where its opcode is `op`. -/
def State.request (s : State) (op : Nat) : Option (Word × List Word) :=
  if s.mgt.ready && s.mgt.dbell.getLsbD 0 then
    match s.item 28 with
    | some (h :: p) => if fld h 0 8 = op then some (h, p) else none
    | _ => none
  else none

/-- Serve the request at the head of MB0: an item whose LEN disagrees with its words is answered BADARG. -/
def State.serve (s : State) (op : Nat) (f : State → Word → List Word → State) : State :=
  match s.request op with
  | none => s
  | some (h, p) =>
    let t := s.dropItem 28
    let u := if itemLen h ≠ p.length ∨ fld h 26 6 ≠ 0 then t.mgtReply h 2 [] else f t h p
    mgtSkim 1024 u.bellIdle

def State.getVersion (s : State) : State :=
  s.serve 1 (fun t h _ => t.mgtReply h 0 [t.mgt.fwver, t.mgt.imageCrc])

-- DESIGN CHOICE, log 21: unsafe.
/-- The flash word at a byte offset. -/
def State.flashWord (s : State) (o : Nat) : Word := sget Config.flashImage s.mgt.flash (o / 4)

def State.setFlash (s : State) (o : Nat) (w : Word) : State :=
  { s with mgt := { s.mgt with flash := sset Config.flashImage s.mgt.flash (o / 4) w } }

-- DEDUCED, log 40: unsafe.
-- DESIGN CHOICE, log 41: safe.
/-- FLASH_READ: up to 1020 words from an offset; `fail` when the flash does not answer. -/
def State.flashRead (s : State) (fail : Bool) : State :=
  s.serve 2 (fun t h p =>
    match p with
    | [o, n] =>
      if 1020 < n.toNat ∨ o.toNat % 4 ≠ 0 then t.mgtReply h 2 []
      else if fail then t.mgtReply h 4 []
      else t.mgtReply h 0 ((List.range n.toNat).map (fun i => t.flashWord (o.toNat + 4 * i)))
    | _ => t.mgtReply h 2 [])

/-- A notice in MB3: code and data. -/
def State.notice (s : State) (seq code data : Nat) : State :=
  s.putItem 31 [toWord (0xC0 + put 8 seq + put 16 2), toWord code, toWord data]

-- DESIGN CHOICE, log 41: safe.
/-- FLASH_WRITE: the item of MB2 goes to the flash; `busy` and `fail` as the flash answers. -/
def State.flashWrite (s : State) (busy fail : Bool) : State :=
  s.serve 3 (fun t h p =>
    match p, t.item 30 with
    | [o], some (x :: d) =>
      if itemLen x ≠ d.length ∨ o.toNat % 4 ≠ 0 then (t.dropItem 30).mgtReply h 2 []
      else if busy then t.mgtReply h 3 []
      else if fail then (t.dropItem 30).mgtReply h 4 []
      else
        let u := d.zipIdx.foldl (fun v y => v.setFlash (o.toNat + 4 * y.2) y.1) (t.dropItem 30)
        (u.mgtReply h 0 []).notice (fld h 8 8) 1 0
    | _, _ => t.mgtReply h 2 [])

def sectorWords : Nat := 1024

-- DESIGN CHOICE, log 21: unsafe.
-- DESIGN CHOICE, log 41: safe.
/-- FLASH_ERASE: `n` sectors of 4 KiB from a sector read as ones. -/
def State.flashErase (s : State) (busy fail : Bool) : State :=
  s.serve 4 (fun t h p =>
    match p with
    | [o, n] =>
      if busy then t.mgtReply h 3 []
      else if fail then t.mgtReply h 4 []
      else
        let u := (List.range (n.toNat * sectorWords)).foldl (fun v i => v.setFlash (4 * (o.toNat * sectorWords + i)) 0xFFFFFFFF) t
        u.mgtReply h 0 []
    | _ => t.mgtReply h 2 [])

/-- ROLE: none or signal box; a change of state is noticed. -/
def State.mgtRole (s : State) : State :=
  s.serve 5 (fun t h p =>
    match p with
    | [r] =>
      if 1 < r.toNat then t.mgtReply h 2 []
      else
        let b := decide (r.toNat = 1)
        let u := ({ t with mgt := { t.mgt with sigbox := b } }).mgtReply h 0 []
        if b = t.mgt.sigbox then u else u.notice (fld h 8 8) 2 r.toNat
    | _ => t.mgtReply h 2 [])

/-- The core restarts from flash: READY falls until its firmware reports again. -/
def State.coreRestart (s : State) : State :=
  { s with mgt := { s.mgt with ready := false, rebooting := true, sigbox := false } }

/-- REBOOT: the core replies, then restarts from flash. -/
def State.mgtReboot (s : State) : State :=
  s.serve 6 (fun t h _ => (t.mgtReply h 0 []).coreRestart)

end Sys2Proof.Machine
end

