-- ==== Sys2Proof/Machine/Access.lean ====
section
/-! DEFINITION. The RCU's answer to every register access (R378 to R394): widths, bus errors, access kinds against views,
clear-on-read and latching reads, locks, and the indirect accesses of T-space. -/

namespace Sys2Proof.Machine

/-! ### Views and bus errors (R378, R381, R382) -/

def viewCode (v : View) : Nat := match v with | .normal => 0 | .set => 1 | .clear => 2 | .toggle => 3

def viewOf (n : Nat) : View := if n = 0 then .normal else if n = 1 then .set else if n = 2 then .clear else .toggle

/-- What a write of `d` makes of an old value (R383). -/
def viewBits (v : View) (old d : Word) : Word :=
  match v with | .normal => d | .set => old ||| d | .clear => old &&& ~~~d | .toggle => old ^^^ d

def reqCode (q : Req) : Nat := match q with | .pcie => 0 | .mgt => 1

abbrev ceReserved : Nat := 1
abbrev ceWidth : Nat := 2
abbrev ceReadonly : Nat := 3
abbrev ceAlias : Nat := 4
abbrev ceLocked : Nat := 5
abbrev ceTspace : Nat := 6

/-- A bus error at a BAR0 offset, alias bits included, or at a T-space address (R382). -/
def State.berr (s : State) (q : Req) (off cause : Nat) (wr : Bool) (ts : Option Nat) : State :=
  let lost := bitAt (s.rcW 0x100C) 0
  let w := 1 + put 1 cause + putb 4 wr + put 5 (reqCode q) + put 6 (off / 0x100000 % 4) + putb 8 ts.isSome + putb 9 lost
  let t := s.setRc 0x100C (toWord w)
  let u := { t with reg := { t.reg with berrAddr := toWord (ts.getD off) } }
  if cause = ceLocked then (u.raise 92).raise 93 else u.raise 92

/-- Offset of a register through a view. -/
def viaView (v : View) (a : Nat) : Nat := a + 0x100000 * viewCode v

/-! ### Presence (R2, R402) -/

/-- Whether an instance register of a shared block belongs to an instance the member has. -/
def instPresent (m : Member) (b o : Nat) : Bool :=
  if b = bSTX then
    (if 0x2200 ≤ o then decide ((o - 0x2200) / 0x20 < numStx m)
     else if 0x100 ≤ o then decide ((o - 0x100) / 0x40 < numStx m) else true)
  else if b = bSRX then
    (if 0x2200 ≤ o then decide ((o - 0x2200) % 0x400 / 8 < numSrx m)
     else if 0x100 ≤ o then decide ((o - 0x100) / 0x40 < numSrx m) else true)
  else if b = bDPC then
    (if 0x1000 ≤ o then decide ((o - 0x1000) % 0x400 / 8 < numSrx m)
     else if 0x100 ≤ o then decide ((o - 0x100) / 0x10 < numSrx m) else true)
  else if b = bASRC then
    (if 0xA00 ≤ o then true
     else if 0x100 ≤ o then decide ((o - 0x100) / 8 < numAsrc m)
     else if 0x40 ≤ o then decide ((o - 0x40) / 8 < numTracker m) else true)
  else if b = bCLS then decide (o < 0x140) || decide (2 ≤ numPorts m)
  else if b = bTIM then decide (o ≠ 0x034) || decide (2 ≤ numPorts m)
  else true

/-- The register at a normal-view offset, where the member has it. -/
def State.present (s : State) (a : Nat) : Option RegRow :=
  match blockAt a with
  | none => none
  | some b => if blockPresent s.member b && instPresent s.member b (a - blockBase b) then rowAt a else none

/-- Bits of a register that name a part the member lacks: they read 0 and ignore writes (R390, R402). -/
def State.lacking (s : State) (a : Nat) : Word :=
  if 0x1020 ≤ a ∧ a < 0x1034 then
    toWord (((List.range 8).filter (fun i => !blockPresent s.member (2 * (a - 0x1020) + i))).foldl (fun m i => m + put (4 * i) 15) 0)
  else if numPorts s.member < 2 then
    (if a = 0x20100 ∨ a = 0x20180 then 0x40
     else if 0x30100 ≤ a ∧ a < 0x32100 ∧ a % 0x40 = 0 then 0x20 else 0)
  else 0

/-! ### Locks (R391, R392) -/

-- DEDUCED, log 29: unsafe.
def State.groupLocked (s : State) (b : Nat) : Bool := s.reg.lock.getLsbD (s.groupOf b)

/-- Whether a new RCU_GRPMAP word would move a block into or out of a locked group. -/
def State.mapLocked (s : State) (a : Nat) (w : Word) : Bool :=
  (List.range 8).any (fun i =>
    let o := fld (s.rwW a) (4 * i) 4
    let n := fld w (4 * i) 4
    decide (o ≠ n) && (s.reg.lock.getLsbD o || s.reg.lock.getLsbD n))

/-- Whether a write of `w` to the RW or LK fields of a register is locked as a whole. -/
def State.wordLocked (s : State) (a : Nat) (w : Word) : Bool :=
  if 0x1020 ≤ a ∧ a < 0x1034 then s.reg.lock.getLsbD 16 || s.mapLocked a w
  else if a = 0x1060 ∨ a = 0x1000 then s.reg.lock.getLsbD 17
  else if a = 0x88000 then s.reg.roleDone
  else if a = 0x7000 then s.reg.subidDone
  else false

/-! ### Values -/

/-- Departure and field offset of a departure register. -/
def depOf (a : Nat) : Nat := (a - 0x2C100) / 0x20
def isDep (a : Nat) : Bool := decide (0x2C100 ≤ a ∧ a < 0x2C900)

/-- The RW fields of a register; those held for each requester show the requester's own. -/
def State.rwValue (s : State) (q : Req) (a : Nat) : Word :=
  if a = 0x1018 then toWord (b2n (s.requester q).viewApplied)
  else if a = 0x1050 then (s.requester q).indAddr
  else if a = 0x1058 then toWord (b2n (s.requester q).indInc)
  else if isDep a && decide (a % 0x20 = 0x18) then toWord (b2n (s.isArmed (depOf a)))
  else s.rwW a

def State.lkValue (s : State) (a : Nat) : Word := if a = 0x1040 then toWord s.reg.lock.toNat else s.rwW a

def State.rsValue (s : State) (q : Req) (a : Nat) : Word :=
  if (s.requester q).viewApplied then s.appliedW a else s.stagedW a

/-- The counter whose HI word a register is. -/
def hiOf (a : Nat) : Option Nat :=
  match rowAt (a - 4) with
  | some r => if r.ctr && decide (4 ≤ a) then some (a - 4) else none
  | none => none

/-- RO fields, with the HI words of counters. -/
def State.roValue (s : State) (i : Instant) (a : Nat) : Word :=
  match hiOf a with
  | some l => hiWord (s.counter l)
  | none => s.roWord i a

/-- RC fields; the LO word of a counter shows its low bits. -/
def State.rcValue (s : State) (r : RegRow) (a : Nat) : Word := if r.ctr then loWord (s.counter a) else s.rcW a

/-- The value of a register without any side effect. -/
def State.regValue (s : State) (q : Req) (i : Instant) (a : Nat) (r : RegRow) : Word :=
  ((s.rwValue q a &&& toWord r.rw) ||| (s.rsValue q a &&& toWord r.rs) ||| (s.roValue i a &&& toWord r.ro)
    ||| (s.rcValue r a &&& toWord r.rc) ||| (s.lkValue a &&& toWord r.lk)) &&& ~~~(s.lacking a)

/-! ### Latching (R387) -/

/-- The partner words a latching read takes. -/
def latched (r : RegRow) (a : Nat) : List Nat :=
  if r.ctr then [a + 4]
  else if a = 0x2C010 then [0x2C014]
  else if a = 0x20010 then [0x20014, 0x20018]
  else if a = 0x20048 then [0x2004C, 0x20050]
  else if a = 0x20120 then [0x20124, 0x20128]
  else if a = 0x201A0 then [0x201A4, 0x201A8]
  else if a = 0x24020 then [0x24024]
  else if a = 0x88024 then [0x88028]
  else if a = 0x20 then [0x24]
  else []

/-- Whether a register is a partner word. -/
def isPartner (a : Nat) : Bool :=
  [0x2C014, 0x20014, 0x20018, 0x2004C, 0x20050, 0x20124, 0x20128, 0x201A4, 0x201A8, 0x24024, 0x88028, 0x24].contains a
    || (hiOf a).isSome

/-- The partner words go into the requester's shadow. -/
def State.latch (s : State) (q : Req) (i : Instant) (as : List Nat) : State :=
  let v := s.requester q
  s.setRequester q { v with shadow := as.foldl (fun m a => sset (fun _ => 0) m a (s.roValue i a)) v.shadow }

/-- The RC fields and the counter of a register return to their reset values (R386). -/
def State.clearRead (s : State) (r : RegRow) (a : Nat) : State :=
  if r.ctr then s.setCounter a 0
  else if r.rc = 0 then s
  else s.setRc a (resetWord a)

/-! ### T-space (R393, R394) -/

/-- Whether the unit of a T-space extent is present. -/
def tablePresent (m : Member) (a : Nat) : Bool := blockPresent m (tableBlock a)

/-- The low-delay path of a sink, which word 0 of its junction shows in the applied view (R255). -/
def State.pathBit (s : State) (a : Nat) : Word :=
  if a / 0x1000000 = 1 ∧ a % 8 = 0 then toWord (putb 31 (s.mix.low.contains (a % 0x1000000 / 8))) else 0

/-- The word of a table in the staged or the applied view. -/
def State.tableWord (s : State) (applied : Bool) (a : Nat) : Word :=
  if applied then s.effW a ||| s.pathBit a else s.stageViewW a

-- DEDUCED, log 30: unsafe.
/-- A power-die register over the link: RO and RC words at the instant of transfer (R344, R345). -/
def State.pdRead (s : State) (applied : Bool) (a : Nat) (r : RegRow) : Word × State :=
  if s.pwr.linkHstop then (0xFFFFFFFF, s.flag 0x80008 0x1)
  else if r.rs ≠ 0 then
    (s.tableWord applied a, if s.pwr.badWords.contains (a % 0x1000000) then s.flag 0x80008 0x1 else s)
  else ((s.roPD (a % 0x1000000) &&& toWord r.ro) ||| (s.rcW a &&& toWord r.rc), (s.clearRead r a).pdGood)

/-- A word of T-space read by a data access: the value, and the state after. -/
def State.tRead (s : State) (q : Req) (i : Instant) (applied : Bool) (a : Nat) (r : RegRow) : Word × State :=
  if a / 0x1000000 = 7 then s.pdRead applied a r
  else if a / 0x1000000 = 8 then (s.regValue q i (ttAlias a) r, s.clearRead r (ttAlias a))
  else (s.tableWord applied a, s)

/-- The write of a departure register (R35, R37): discarded without a tablet (R358), recorded by a holder (R355). -/
def State.depReg (s : State) (a : Nat) (w : Word) : State :=
  let d := depOf a
  if s.shadowed then s.flag pairFlags 0x40
  else if a % 0x20 = 0x18 then (if bitAt w 0 then s.arm d else s.disarm d).recordDep d
  else if s.isArmed d then s.depWrite d (a % 0x20) w
  else (s.depWrite d (a % 0x20) w).recordDep d

/-- The causes for which a data access of T-space fails before it reaches a word. -/
def State.tFault (s : State) (a : Nat) : Option Nat :=
  if a % 4 ≠ 0 then some ceWidth
  else if !tableExtent a then some ceTspace
  else if !tablePresent s.member a then some ceReserved
  else if (rowT a).isNone then some ceReserved
  else none

-- DEDUCED, log 29: unsafe.
/-- Why a write of a T-space word fails: a word no field of which takes a write, or a locked group. -/
def State.tWriteFault (s : State) (a : Nat) (r : RegRow) : Option Nat :=
  if 7 ≤ a / 0x1000000 ∧ r.rs = 0 ∧ r.rw = 0 then some ceReadonly
  else if a / 0x1000000 < 8 && s.groupLocked (tableBlock a) then some ceLocked
  else none

/-- An accepted write of a T-space word: staged, or into the inactive bank of a region in mode 1 (R262). -/
def State.tWrite (s : State) (a : Nat) (d : Word) (r : RegRow) : State :=
  if a / 0x1000000 = 8 then s.depReg (ttAlias a) (merge (s.rwW (ttAlias a)) (toWord r.rw) d)
  else if s.shadowed && (s.inMode1 a || s.inMode2 a) then s.flag pairFlags 0x40
  else if s.inMode1 a then (s.bankWrite a (d &&& toWord r.rs)).recordWord a (d &&& toWord r.rs)
  else
    let w := merge (s.stagedW a) (toWord r.rs) d
    let t := (s.setStaged a w).setStagedBit (s.groupOf (tableBlock a)) true
    if s.inMode2 a then t.recordWord a w else t

/-- RCU_IND_ADDR advances after an access without an error. -/
def State.indNext (s : State) (q : Req) : State :=
  let v := s.requester q
  if v.indInc then s.setRequester q { v with indAddr := v.indAddr + 4 } else s

/-- The T-space address of a TSPACE or LOCKED capture. -/
def tsAddr (cause a : Nat) : Option Nat := if cause = ceTspace ∨ cause = ceLocked then some a else none

def State.indRead (s : State) (q : Req) (i : Instant) : Option Word × State :=
  let a := (s.requester q).indAddr.toNat
  match s.tFault a, rowT a with
  | none, some r =>
    let (w, t) := s.tRead q i (s.requester q).viewApplied a r
    (some w, t.indNext q)
  | some c, _ => (none, s.berr q 0x1054 c false (tsAddr c a))
  | none, none => (none, s)

def State.indWrite (s : State) (q : Req) (d : Word) : State :=
  let a := (s.requester q).indAddr.toNat
  match s.tFault a, rowT a with
  | none, some r =>
    (match s.tWriteFault a r with
     | some c => s.berr q 0x1054 c true (tsAddr c a)
     | none => (s.tWrite a d r).indNext q)
  | some c, _ => s.berr q 0x1054 c true (tsAddr c a)
  | none, none => s

/-! ### Port registers (R383) -/

def isMboxPort (a : Nat) : Bool := decide (0x40100 ≤ a ∧ a < 0x40900)
def mboxIdx (a : Nat) : Nat := (a - 0x40100) / 0x40
def engIdx (a : Nat) : Nat := (a - 0x60000) / 0x1000

-- DEDUCED, log 31: unsafe.
def State.portRead (s : State) (q : Req) (i : Instant) (a : Nat) : Option Word × State :=
  if a = 0x1054 then s.indRead q i
  else if isMboxPort a then
    (if a % 0x40 = 0x34 then (some 0, s) else let (w, t) := s.mboxTake (mboxIdx a); (some w, t))
  else let (w, t) := s.lmRead (engIdx a) (decide (a % 0x1000 = 0x88)); (some w, t)

def State.portWrite (s : State) (q : Req) (a : Nat) (d : Word) : State :=
  if a = 0x1054 then s.indWrite q d
  else if isMboxPort a then s.mboxAppend (mboxIdx a) d (decide (a % 0x40 = 0x34))
  else s.lmWrite (engIdx a) (decide (a % 0x1000 = 0x88)) d

/-! ### 32-bit reads -/

/-- One 32-bit read: none where it aborts. -/
def State.read32 (s : State) (q : Req) (v : View) (i : Instant) (a : Nat) : Option Word × State :=
  match s.present a with
  | none => (none, s.berr q (viaView v a) ceReserved false none)
  | some r =>
    if r.port then (if v = .normal then s.portRead q i a else (some 0, s))
    else if v = .normal then
      (if isPartner a then (some (sget (fun _ => 0) (s.requester q).shadow a), s)
       else (some (s.regValue q i a r), (s.latch q i (latched r a)).clearRead r a))
    else (some (s.regValue q i a r), s)

/-! ### Writes of RW fields with an effect -/

/-- A write of RCU_CRC_REF (R397). -/
def State.crcCommit (s : State) (w : Word) : State :=
  let t := s.setRw 0x1060 w
  let c := t.reg.crc
  let u := { t with reg := { t.reg with crc := { c with commit := true, passCounts := false, fresh := true, held := false } } }
  if c.held then u.unmuteAll .crc u.rampLen else u

/-- A write of an EVT_MASK word (R405): what becomes pending issues its message (R406). -/
def State.maskWrite (s : State) (a : Nat) (w : Word) : State :=
  let k := (a - 0x2010) / 4
  let fresh := (bitsOf 32 (w &&& ~~~(s.rwW a) &&& s.rcW (0x2000 + 4 * k)).toNat).map (fun b => 32 * k + b)
  fresh.foldl (fun t n => t.msgDue (t.route n)) (s.setRw a w)

-- DEDUCED, log 37: unsafe.
/-- A write of a ring pair's configuration (R202). -/
def State.ringWrite (s : State) (a : Nat) (w : Word) : State :=
  let p := (a - 0x8100) / 0x40
  let f := (a - 0x8100) % 0x40
  let refuse := s.flag (ringStat p) 0x10
  if f = 0x1C then s.setRw a w
  else if f = 0x10 then
    let old := s.rwW a
    if bitAt old 8 then
      let t := if fld w 0 5 = fld old 0 5 then s else refuse
      if bitAt w 8 then t else (t.setRw a (old &&& 0x1F)).ringDisable p
    else if bitAt w 8 then
      (if fld w 0 5 < 4 ∨ 16 < fld w 0 5 ∨ (s.ringOf p).st ≠ .disabled then refuse else (s.setRw a w).ringEnable p)
    else s.setRw a w
  else if s.ringEn p then refuse
  else s.setRw a w

/-- The RW fields of a register take a word. -/
def State.rwAct (s : State) (q : Req) (a : Nat) (w : Word) : State :=
  if a = 0x1018 then s.setRequester q { s.requester q with viewApplied := bitAt w 0 }
  else if a = 0x1050 then s.setRequester q { s.requester q with indAddr := w }
  else if a = 0x1058 then s.setRequester q { s.requester q with indInc := bitAt w 0 }
  else if a = 0x1060 then s.crcCommit w
  else if 0x2010 ≤ a ∧ a < 0x201C then s.maskWrite a w
  else if 0x8100 ≤ a ∧ a < 0x8D40 then s.ringWrite a w
  else if isDep a then s.depReg a w
  else if a = 0x24034 then
    let t := s.setRw a w
    if t.mcr.state = .idle ∨ (t.mcrMode = 5 ∧ t.mcr.state = .locked) then t.modMcr (fun m => { m with freq := t.trim }) else t
  else s.setRw a w

/-! ### Writes of WO fields: the commands of the blocks -/

/-- A write of RCU_BRST (R240): a unit in hard stop is reset at the next boundary. -/
def State.brstWrite (s : State) (d : Word) : State :=
  let n := fld d 0 5
  if s.reg.hstop.getLsbD n && !s.reg.brst.contains n then { s with reg := { s.reg with brst := s.reg.brst ++ [n] } } else s

/-- SL_GO and COPY of an owner, discarded on a unit without a tablet (R358). -/
def State.bankCommand (s : State) (o : Nat) (go copy : Bool) (c : Nat) : State :=
  if (go || copy) && s.shadowed then s.flag pairFlags 0x40
  else
    let t := if go then s.slGo o c else s
    if copy && !(t.bankCtl o).copying then (t.copyGo o).recordCopy o else t

def State.mixCtl (s : State) (d : Word) : State := s.bankCommand bMIX (bitAt d 1) (bitAt d 0) (fld d 16 5)

/-- ENG_CTL: CLEAR and DCLR, then SL_GO and COPY. -/
def State.engCommand (s : State) (e : Nat) (d : Word) : State :=
  (s.engCtl e (d &&& 0x3)).bankCommand (bENG e) (bitAt d 2) (bitAt d 3) (fld d 16 5)

def State.macCtl (s : State) (p : Nat) (d : Word) : State :=
  let a := if bitAt d 0 then s.reverify p else s
  let b := if bitAt d 1 then a.retrainPort p else a
  if bitAt d 2 then b.modMac p (fun m => { m with hold := false }) else b

def State.pairCtl (s : State) (d : Word) : State :=
  let a := if bitAt d 0 then s.pairEnter else s
  let b := if bitAt d 1 then a.pairRelease else a
  let c := if bitAt d 2 then b.sendReport else b
  let e := if bitAt d 3 then c.beginRefresh else c
  if bitAt d 4 then e.undark else e

/-- What a write of ones to the WO fields of a register does. -/
def State.woAct (s : State) (a : Nat) (d : Word) : State :=
  if a = 0x1004 then s.strobe (fld d 0 16)
  else if a = 0x10C4 then s.brstWrite d
  else if a = 0x3010 then (if bitAt d 0 then { s with pmu := { s.pmu with sleepReq := true } } else s)
  else if a = 0x3104 then s.mdioCommand d
  else if a = 0x400C then s.mgtBell (fld d 0 2)
  else if 0x8100 ≤ a ∧ a < 0x8D40 then (if bitAt d 0 then s.ringRestart ((a - 0x8100) / 0x40) else s)
  else if a = 0x10004 then s.macCtl 0 d
  else if a = 0x14004 then s.macCtl 1 d
  else if a = 0x20004 then (if bitAt d 0 then s.timeSet (fld d 1 1) else s)
  else if a = 0x28004 then (if bitAt d 0 then s.modSyn (fun y => { y with req := true }) else s)
  else if a = 0x2C004 then (if bitAt d 0 then s.disarmAll else s)
  else if a = 0x30000 then (if bitAt d 0 then { s with stx := { s.stx with stopAll := true } } else s)
  else if a = 0x34000 then (if bitAt d 0 then { s with srx := { s.srx with stopAll := true } } else s)
  else if a = 0x38004 then s.dpcCtl d
  else if 0x40100 ≤ a ∧ a < 0x40900 then (if bitAt d 0 then s.mboxFlush (mboxIdx a) else s)
  else if a = 0x50000 then s.mixCtl d
  else if 0x60000 ≤ a ∧ a < 0x68000 then s.engCommand (engIdx a) d
  else if 0x70000 ≤ a ∧ a < 0x72000 then s.sapCtl ((a - 0x70000) / 0x400) d
  else if a = 0x80000 then s.pwrCtl d
  else if a = 0x88008 then s.pairCtl d
  else s

/-! ### LK fields -/

def State.lkAct (s : State) (a : Nat) (w : Word) : State :=
  if a = 0x1040 then { s with reg := { s.reg with lock := s.reg.lock ||| BitVec.ofNat 18 w.toNat } }
  else if a = 0x88000 then { s.setRw a w with reg := { (s.setRw a w).reg with roleDone := true } }
  else if a = 0x7000 then { s.setRw a w with reg := { (s.setRw a w).reg with subidDone := true } }
  else s

/-! ### 32-bit writes -/

/-- The cause for which a write fails before any lock is looked at (R381, R383, R384, R391, R392). -/
def kindFault (v : View) (a : Nat) (r : RegRow) : Option Nat :=
  if r.port then (if v = .normal then none else some ceAlias)
  else if v ≠ .normal ∧ r.rc ≠ 0 then some ceAlias
  else if r.rw = 0 ∧ r.rs = 0 ∧ r.wo = 0 ∧ r.lk = 0 then some ceReadonly
  else if (v = .clear ∨ v = .toggle) ∧ (r.wo ≠ 0 ∨ a = 0x1040) then some ceAlias
  else none

/-- The RS fields of a register stage a write and set their group's RCU_STAGED bit (R388). -/
def State.stageWrite (s : State) (v : View) (a : Nat) (d : Word) (r : RegRow) : State :=
  let m := toWord r.rs &&& ~~~(s.lacking a)
  match blockAt a with
  | none => s
  | some b => (s.setStaged a (merge (s.stagedW a) m (viewBits v (s.stagedW a) d))).setStagedBit (s.groupOf b) true

/-- Fields of a register other than its RS fields take a write. -/
def State.otherWrite (s : State) (q : Req) (v : View) (a : Nat) (d : Word) (r : RegRow) : State :=
  let m := toWord (r.rw ||| r.lk) &&& ~~~(s.lacking a)
  let old := if r.lk ≠ 0 then s.lkValue a else s.rwValue q a
  let w := merge old m (viewBits v old d)
  if r.wo ≠ 0 then s.woAct a (d &&& toWord r.wo)
  else if r.lk ≠ 0 then
    (if s.wordLocked a w then s.berr q (viaView v a) ceLocked true none else s.lkAct a w)
  else if r.rw ≠ 0 then
    (if s.wordLocked a w then s.berr q (viaView v a) ceLocked true none else s.rwAct q a w)
  else s

/-- One 32-bit write. -/
def State.write32 (s : State) (q : Req) (v : View) (a : Nat) (d : Word) : State :=
  match s.present a with
  | none => s.berr q (viaView v a) ceReserved true none
  | some r =>
    match kindFault v a r with
    | some c => s.berr q (viaView v a) c true none
    | none =>
      if r.port then s.portWrite q a d
      else
        let locked := decide (r.rs ≠ 0) && (match blockAt a with | some b => s.groupLocked b | none => false)
        let t := if locked then s.berr q (viaView v a) ceLocked true none
                 else if r.rs ≠ 0 then s.stageWrite v a d r else s
        t.otherWrite q v a d r

/-! ### Accesses (R379, R380) -/

/-- An aligned 32-bit or 64-bit access with every byte enabled. -/
def legalAccess (x : Access) : Bool :=
  (decide (x.len = 4 ∨ x.len = 8)) && decide (x.enables.length = x.len) && x.enables.all id && decide (x.off.toNat % x.len = 0)

/-! ### Doorbells, the MSI-X table and configuration space (R197, R198, R204, R378) -/

/-- The ring pair of a doorbell and whether it is CCI's; none where BAR2 is reserved. -/
def doorbellAt (o : Nat) : Option (Nat × Bool) :=
  if 49 ≤ o / 0x1000 then none
  else if o % 0x1000 = 0 then some (o / 0x1000, false)
  else if o % 0x1000 = 8 then some (o / 0x1000, true)
  else none

-- DEDUCED, log 107: unsafe.
def State.doorbellWrite (s : State) (q : Req) (o : Nat) (d : Word) : State :=
  match doorbellAt o with
  | some (p, false) => s.doorbellPi p d
  | some (p, true) => s.doorbellCci p d
  | none => s.berr q o ceReserved true none

-- DEDUCED, log 107: unsafe.
/-- A doorbell reads as the last value accepted (R204). -/
def State.doorbellRead (s : State) (q : Req) (o : Nat) : Option Word × State :=
  match doorbellAt o with
  | some (p, false) => (some (toWord (s.ringOf p).pi), s)
  | some (p, true) => (some (toWord (s.ringOf p).cci), s)
  | none => (none, s.berr q o ceReserved false none)

-- PRESUMED, log 46: unsafe.
/-- A dword of BAR4 written: an entry of the table.  A vector unmasked with its pending bit set issues its message. -/
def State.msixWrite (s : State) (o : Nat) (d : Word) : State :=
  if o < 0x200 then
    let i := o / 4
    let w := if i % 4 = 0 then d &&& 0xFFFFFFFC else if i % 4 = 3 then d &&& 1 else d
    let t := { s with pci := { s.pci with table := s.pci.table.set i w } }
    if t.pba.getLsbD (i / 4) && !t.pci.masked (i / 4) then
      { t with pba := t.pba &&& ~~~(BitVec.ofNat 32 (2 ^ (i / 4))) }.emit (t.pci.message (i / 4))
    else t
  else s

/-- A dword of BAR4: the table, the pending bits, or 0. -/
def State.msixRead (s : State) (o : Nat) : Word :=
  if o < 0x200 then s.pci.entry (o / 16) (o / 4 % 4) else if o = 0x1000 then toWord s.pba.toNat else 0

-- PRESUMED, log 46: unsafe.
/-- A dword of configuration space: the IDs and class of R197, Interrupt Disable in the Command register, and what this spec does
not lay down. -/
def State.configRead (s : State) (o : Nat) : Word :=
  if o = 0 then 0x08801F5C
  else if o = 4 then merge (Config.pciConfig 4) 0x400 (toWord (putb 10 s.intDis))
  else if o = 8 then 0x04010000 ||| toWord (fld (s.roWord { grains := 0, ns0 := 0, ns1 := 0 } 0) 0 8)
  else if o = 0x2C then s.lkValue 0x7000
  else Config.pciConfig o

/-! ### Accesses as they arrive -/

/-- One dword written. -/
def State.wordWrite (s : State) (x : Access) (o : Nat) (d : Word) : State :=
  match x.bar with
  | .regs => s.write32 x.req (viewOf (o / 0x100000)) (o % 0x100000) d
  | .doorbells => s.doorbellWrite x.req o d
  | .msix => s.msixWrite o d
  | .config => s

/-- One dword read: none where it aborts. -/
def State.wordRead (s : State) (x : Access) (i : Instant) (o : Nat) : Option Word × State :=
  match x.bar with
  | .regs => s.read32 x.req (viewOf (o / 0x100000)) i (o % 0x100000)
  | .doorbells => s.doorbellRead x.req o
  | .msix => (some (s.msixRead o), s)
  | .config => (some (s.configRead o), s)

-- DEDUCED, log 107: unsafe.
def State.accessWrite (s : State) (x : Access) : State :=
  let o := x.off.toNat
  if legalAccess x then
    let t := s.wordWrite x o x.lo
    if x.len = 8 then t.wordWrite x (o + 4) x.hi else t
  else s.berr x.req o ceWidth true none

/-- The reply of a read: its words, or an abort where a half of it failed. -/
def replyOf (lo hi : Option Word) : Reply :=
  match lo, hi with
  | some a, some b => .value a b
  | _, _ => .abort

def State.accessRead (s : State) (x : Access) (i : Instant) : State :=
  let o := x.off.toNat
  if legalAccess x then
    let (a, t) := s.wordRead x i o
    if x.len = 8 then
      let (b, u) := t.wordRead x i (o + 4)
      { u with reply := replyOf a b }
    else { t with reply := replyOf a (some 0) }
  else { s.berr x.req o ceWidth false none with reply := .abort }

/-- A 32-bit write of a named register. -/
def State.regWrite (s : State) (a : Nat) (x : RegWrite) : State := s.write32 x.req x.view a x.data

/-- A 32-bit normal-view read of a named register, with its reply. -/
def State.regRead (s : State) (q : Req) (i : Instant) (a : Nat) : State :=
  let (w, t) := s.read32 q .normal i a
  { t with reply := replyOf w (some 0) }

end Sys2Proof.Machine
end

