-- ==== Sys2Proof/Machine/Cmd.lean ====
section
/-! DEFINITION. The command ring: how commands begin, wait, act and complete (R208, R209), table transfers and
self-tests (R243), and data returned to a ring. -/

namespace Sys2Proof.Machine

/-! ### Fields of a command descriptor -/

def cmdOp (x : Slot) : Nat := fld (x.desc.word 0) 0 8
def cmdArg0 (x : Slot) : Word := x.desc.word 1
def cmdArg1 (x : Slot) : Word := x.desc.word 2
def cmdArg2 (x : Slot) : Word := x.desc.word 3
def cmdArg3 (x : Slot) : Word := x.desc.word 6
def cmdArg4 (x : Slot) : Word := x.desc.word 7
def cmdPos (x : Slot) : Nat := x.desc.addr 4

/-- Host address of a table transfer: ARG2 and ARG3, which are not adjacent. -/
def tblHost (x : Slot) : Nat := (cmdArg2 x).toNat + (cmdArg3 x).toNat * 2 ^ 32

/-- Status codes (R207). -/
abbrev csOk : Nat := 0x00
abbrev csAbsent : Nat := 0x01
abbrev csRefused : Nat := 0x02
abbrev csBadcmd : Nat := 0x03
abbrev csBadarg : Nat := 0x04
abbrev csState : Nat := 0x05

/-- What a command completes with: status, DETAIL and the two results. -/
abbrev CmdRes := Nat × Nat × Word × Word

/-- The oldest fetched command without a completion; the ring engine works on no other (R208). -/
def State.cmdSlot (s : State) : Option Slot :=
  match (s.ringOf 0).slots.find? (fun x => decide (x.desc.slot = (s.ringOf 0).ci)) with
  | some x => if x.done.isNone && s.slotLive 0 x.desc.slot then some x else none
  | none => none

/-- A command that has not begun. -/
def State.cmdHead (s : State) : Option Slot := if s.cmd.isSome then none else s.cmdSlot

/-! ### Checks when a command begins -/

/-- Words of a table transfer. -/
def tblWords (x : Slot) : List Nat :=
  (List.range (fld (cmdArg1 x) 0 17)).map (fun i => (cmdArg0 x).toNat + 4 * i)

-- DEDUCED, log 64: unsafe.
/-- Checks of TBL_WRITE and TBL_READ that do not depend on locks. -/
def State.tblFault (s : State) (x : Slot) (wr : Bool) : Option (Nat × Nat) :=
  let n := fld (cmdArg1 x) 0 17
  let a := (cmdArg0 x).toNat
  let ws := tblWords x
  if n = 0 ∨ 65536 < n then some (csBadarg, 2)
  else if tblHost x % 4 ≠ 0 then some (csBadarg, 3)
  else if a % 4 ≠ 0 ∨ ws.any (fun w => !tableExtent w || decide (w / 0x1000000 ≠ a / 0x1000000)) then some (csBadarg, 1)
  else if ws.any (fun w => !tablePresent s.member w) then some (csAbsent, 0)
  else if ws.any (fun w => match rowT w with
      | none => true
      | some r => wr && decide (7 ≤ w / 0x1000000 ∧ r.rs = 0 ∧ r.rw = 0)) then some (csBadarg, 1)
  else none

/-- Self-tests of R243: whether class and test are listed. -/
def testListed (cls test : Nat) : Bool :=
  ((decide (cls = 1) || decide (cls = 2) || decide (cls = 3)) && decide (test = 1))
    || (decide (cls = 4) && (decide (test = 1) || decide (test = 2)))

def State.testPresent (s : State) (cls inst : Nat) : Bool :=
  if cls = 1 then decide (inst < numPorts s.member)
  else if cls = 2 then decide (inst < numEng s.member)
  else if cls = 3 then decide (inst < numSap s.member)
  else hasPower s.member && decide (inst < 2)

/-- Whether a command acts at the next boundary when its POS is 0 (R209). -/
def boundaryOp (op : Nat) : Bool := decide (1 ≤ op ∧ op ≤ 6) || decide (op = 0x0B)

-- DEDUCED, log 64: unsafe.
-- DESIGN CHOICE, log 110: unsafe.
/-- Why a command completes when it begins, without acting. -/
def State.cmdRefusal (s : State) (x : Slot) : Option (Nat × Nat) :=
  let op := cmdOp x
  let w := cmdArg0 x
  let pos := cmdPos x
  let range := decide (1 ≤ op ∧ op ≤ 4)
  if 0x0D ≤ op then some (csBadcmd, 0)
  else if range ∧ (rangeOf w).2 < (rangeOf w).1 then some (csBadarg, 1)
  else if op ≠ 8 ∧ pos ≠ 0 ∧ (pos % s.T ≠ 0 ∨ s.tt.now + 65536 * s.T < pos) then some (csBadarg, 4)
  else if range ∧ namesAbsent s.member (op + 1) w then some (csAbsent, 0)
  else if (op = 5 ∨ op = 6) ∧ (fld w 0 6 < 17 ∨ 48 < fld w 0 6) then some (csBadarg, 1)
  else if op = 9 ∨ op = 0x0A then s.tblFault x (decide (op = 9))
  else if op = 0x0C then
    (if !testListed (fld w 0 8) (fld w 16 8) then some (csBadarg, 1)
     else if !s.testPresent (fld w 0 8) (fld w 8 8) then some (csAbsent, 0) else none)
  else none

/-! ### Actions -/

/-- Results of a range of starts. -/
def startRes (r : RangeRes) : CmdRes :=
  (if r.refused = 0 then csOk else csRefused, r.cause,
    toWord (r.started % 256 + put 8 (r.refused % 256) + put 16 r.first + put 24 r.cause), 0)

/-- TT_LOAD (R35, R37, R209). -/
def State.ttLoad (s : State) (x : Slot) : State × CmdRes :=
  let w := cmdArg0 x
  let d := fld w 0 6
  if s.shadowed then (s.flag pairFlags 0x40, (csState, 0, 0, 0))
  else if s.isArmed d then (s.flag (depBase d + 0x1C) 0x8, (csState, 0, 0, 0))
  else
    let ws : List (Nat × Word) :=
      [(0, x.desc.word 4), (4, x.desc.word 5), (8, cmdArg1 x &&& 0x1FF), (0xC, cmdArg2 x), (0x10, cmdArg3 x),
       (0x14, cmdArg4 x &&& 0xFFFF)]
    let t := ws.foldl (fun u p => u.depWrite d p.1 p.2) s
    if bitAt w 8 then
      let c := t.armCause d
      ((t.arm d).recordDep d, (if c = 0 then csOk else csRefused, c, 0, 0))
    else (t.recordDep d, (csOk, 0, 0, 0))

/-- TBL_READ: the words go to host memory (R209). -/
def State.tblRead (s : State) (x : Slot) : State × CmdRes :=
  let applied := bitAt (cmdArg4 x) 0
  let r := (tblWords x).foldl (fun (acc : State × List Byte) a =>
    match rowT a with
    | some row => let (w, t) := acc.1.tRead .pcie { grains := 0, ns0 := 0, ns1 := 0 } applied a row; (t, acc.2 ++ bytesLE w)
    | none => acc) (s, [])
  (r.1.emit (.host (tblHost x) r.2 false), (csOk, 0, toWord (tblWords x).length, 0))

/-- What forbids the words of a TBL_WRITE: a lock, or a unit without a tablet (R392, R358). -/
def State.tblBlocked (s : State) (x : Slot) : Option State :=
  let ws := tblWords x
  if ws.any (fun a => decide (a / 0x1000000 < 8) && s.groupLocked (tableBlock a)) then some (s.raise 93)
  else if s.shadowed && ws.any (fun a => decide (a / 0x1000000 = 8) || s.inMode1 a || s.inMode2 a) then
    some (s.flag pairFlags 0x40)
  else none

/-- The data read of the current command is issued. -/
def State.cmdRead (s : State) (i : Nat) : State :=
  s.modRing 0 (fun r => { r with slots := r.slots.map (fun y => if y.desc.slot = i then { y with reading := true } else y) })

/-- Whether a unit is idle for a self-test (R243). -/
def State.testIdle (s : State) (cls inst : Nat) : Bool :=
  if cls = 1 then !macEn (s.macW inst 0) && !s.reg.hstop.getLsbD inst
  else if cls = 2 then
    decide ((s.engOf inst).st = .halted ∨ (s.plen inst = 0 ∧ (s.engOf inst).st ≠ .hardstop)) && !(s.engOf inst).testing
  else if cls = 3 then !(s.sapOf inst).started && !(s.sapOf inst).testing && !s.reg.hstop.getLsbD (16 + inst)
  else decide ((s.pwrCh inst).st = 0 ∧ (s.pwrCh inst).testing = 0)

/-- The unit's own mark of a running test. -/
def State.setTesting (s : State) (cls inst test : Nat) (b : Bool) : State :=
  if cls = 2 then s.modEng inst (fun v => { v with testing := b })
  else if cls = 3 then s.modSap inst (fun v => { v with testing := b })
  else if cls = 4 then s.modPwrCh inst (fun v => { v with testing := if b then test else 0 })
  else s

/-- A command acts: none where its outcome comes later (a table write, a self-test). -/
def State.cmdAct (s : State) (x : Slot) : State × Option CmdRes :=
  let op := cmdOp x
  let w := cmdArg0 x
  let late := decide (cmdPos x ≠ 0 ∧ cmdPos x < s.tt.now)
  let label := if cmdPos x = 0 ∨ late then s.tt.now else cmdPos x
  let mark (r : CmdRes) : CmdRes := (r.1, r.2.1, r.2.2.1, r.2.2.2 ||| toWord (putb 31 late))
  let ok : Option CmdRes := some (mark (csOk, 0, 0, 0))
  if op = 1 then
    let (t, r) := s.stxStartRange w label
    (t, some (mark (startRes r)))
  else if op = 2 then
    let n := ((rangeList w).filter (fun c => (s.stxOf c).run ∧ ¬(s.stxOf c).stopping)).length
    (s.stxStopRange w, some (mark (csOk, 0, toWord n, 0)))
  else if op = 3 then
    let (t, r) := s.srxStartRange w label
    (t, some (mark (startRes r)))
  else if op = 4 then
    let n := ((rangeList w).filter (fun c => (s.srxOf c).run ∧ (s.srxOf c).stopLeft.isNone)).length
    (s.srxStopRange w, some (mark (csOk, 0, toWord n, 0)))
  else if op = 5 then
    let p := fld w 0 6
    let c := s.audCause p
    if (s.ringOf p).st = .disabled then (s, some (mark (csState, 0, 0, 0)))
    else if c ≠ 0 then (s, some (mark (csRefused, c, 0, 0)))
    else (s.audStart p label, ok)
  else if op = 6 then (s.audStop (fld w 0 6), ok)
  else if op = 7 then (s.strobe (fld w 0 16), ok)
  else if op = 9 then
    (match s.tblBlocked x with
     | some t => (t, some (mark (csState, 0, 0, 0)))
     | none => (s.cmdRead x.desc.slot, none))
  else if op = 0x0A then
    let (t, r) := s.tblRead x
    (t, some (mark r))
  else if op = 0x0C then
    (if s.testIdle (fld w 0 8) (fld w 8 8) then (s.setTesting (fld w 0 8) (fld w 8 8) (fld w 16 8) true, none)
     else (s, some (mark (csState, 0, 0, 0))))
  else (s, ok)

def State.cmdFinish (s : State) (i : Nat) (r : CmdRes) : State :=
  { s.finish 0 i r.1 r.2.1 r.2.2.1 r.2.2.2 0 with cmd := none }

/-- A command acts and, unless its outcome comes later, gets it at once, or holds it for its completion at POS. -/
def State.cmdGo (s : State) (x : Slot) (hold : Bool) : State :=
  let late := decide (cmdPos x ≠ 0 ∧ cmdPos x < s.tt.now)
  match s.cmdAct x with
  | (t, none) => { t with cmd := some { pos := none, late := late, acted := none, testing := decide (cmdOp x = 0x0C) } }
  | (t, some r) =>
    if hold then { t with cmd := some { pos := some (cmdPos x), late := late, acted := some r, testing := false } }
    else t.cmdFinish x.desc.slot r

-- DEDUCED, log 63: unsafe.
/-- The command at the head of the ring begins, where its opcode satisfies `is`. -/
def State.cmdBegin (s : State) (is : Nat → Bool) : State :=
  match s.cmdHead with
  | none => s
  | some x =>
    if !is (cmdOp x) then s
    else match s.cmdRefusal x with
      | some (st, d) => s.cmdFinish x.desc.slot (st, d, 0, 0)
      | none =>
        if cmdOp x = 8 then let (t, r) := s.ttLoad x; t.cmdFinish x.desc.slot r
        else if cmdPos x ≠ 0 then { s with cmd := some { pos := some (cmdPos x), late := false, acted := none, testing := false } }
        else if boundaryOp (cmdOp x) then { s with cmd := some { pos := none, late := false, acted := none, testing := false } }
        else s.cmdGo x false

/-- Whether the waiting command's boundary is this one: it waits for the next, or its POS has come. -/
def CmdWait.due (c : CmdWait) (x : Slot) (now : Nat) : Bool :=
  c.acted.isNone && !c.testing && !x.reading && (match c.pos with | none => true | some p => decide (p ≤ now))

-- DEDUCED, log 63: unsafe.
/-- A waiting command acts at the boundary; `fire` takes the STROBEs alone, whose snapshots the boundary applies. -/
def State.cmdBoundary (s : State) (fire : Bool) : State :=
  match s.cmd, s.cmdSlot with
  | some c, some x =>
    if c.due x s.tt.now && (decide (cmdOp x = 7) == fire) then s.cmdGo x c.pos.isSome else s
  | _, _ => s

-- DEDUCED, log 63: unsafe.
/-- A command with a POS acts at that boundary and then completes (R208). -/
def State.cmdAtPos (s : State) : State :=
  match s.cmd, s.cmdSlot with
  | some c, some x =>
    (match c.acted with
     | some r => s.cmdFinish x.desc.slot r
     | none => if c.pos = some s.tt.now ∧ c.due x s.tt.now then s.cmdGo x false else s)
  | _, _ => s

/-! ### Data for the current command -/

/-- Bytes of a TBL_WRITE source return: the words they complete are written at once. -/
def State.tblReturn (s : State) (i : Nat) (bytes : List Byte) : State :=
  match s.cmd, s.cmdSlot with
  | some c, some x =>
    if x.desc.slot = i ∧ cmdOp x = 9 ∧ x.reading then
      let all := x.data ++ bytes.take (4 * fld (cmdArg1 x) 0 17 - x.data.length)
      let new := (tblWords x).zipIdx.filter (fun p => decide (x.data.length / 4 ≤ p.2 ∧ p.2 < all.length / 4))
      let t := new.foldl (fun u p =>
        match rowT p.1 with
        | some r => u.tWrite p.1 (toWord (natLE (slice all (4 * p.2) 4))) r
        | none => u) s
      let u := t.modRing 0 (fun r => { r with slots := r.slots.map (fun y => if y.desc.slot = i then { y with data := all } else y) })
      if all.length = 4 * fld (cmdArg1 x) 0 17 then
        u.cmdFinish i (csOk, 0, toWord (fld (cmdArg1 x) 0 17), toWord (putb 31 c.late))
      else u
    else s
  | _, _ => s

/-- Data read for slot `i` of ring `p` returns from host memory and is used (R210, R217, R209). -/
def State.dataReturn (s : State) (p i : Nat) (bytes : List Byte) : State :=
  if p = 0 then s.tblReturn i bytes
  else if !s.slotLive p i then s
  else if ringClass p = 1 then s.ftxReturn p i bytes
  else if ringClass p = 3 then s.feedReturn p i bytes
  else s

/-! ### Self-tests (R243) -/

/-- The march test leaves an engine's applied program, its banks and its local memory zero. -/
def State.marchTest (s : State) (e : Nat) : State :=
  let mine (a : Nat) : Bool := decide (a / 0x1000000 = 3 ∨ a / 0x1000000 = 4) && decide (tableBlock a = bENG e)
  let z (m : SMap Word) : SMap Word := m.filter (fun p => !mine p.1)
  let t := { s with reg := { s.reg with applied := z s.reg.applied, bankA := z s.reg.bankA, bankB := z s.reg.bankB } }
  t.modEng e (fun v => { v with lmem := [] })

/-- A self-test finishes; `detail` is RESULT0 [31:8], which for load diagnostics holds RES in its low four bits. -/
def State.testEnd (s : State) (fail : Bool) (detail : Nat) : State :=
  match s.cmd, s.cmdSlot with
  | some c, some x =>
    if c.testing then
      let w := cmdArg0 x
      let cls := fld w 0 8
      let n := fld w 8 8
      let test := fld w 16 8
      let d := detail % 2 ^ 24
      let a := s.setTesting cls n test false
      let b :=
        if cls = 2 then a.marchTest n
        else if cls = 4 ∧ test = 1 then
          let v := a.modPwrCh n (fun v => { v with diagRes := d % 16, diagR := d / 256 })
          if d % 16 = 1 then v else v.flagRaise pdFlags (0x10 * 2 ^ n) 77
        else if cls = 4 then a.modPwrCh n (fun v => { v with cal := signed 16 (d / 256) })
        else a
      let bad := if cls = 4 then decide (test = 1 ∧ d % 16 ≠ 1) else fail
      b.cmdFinish x.desc.slot (csOk, 0, toWord (b2n bad + put 8 d), toWord (putb 31 c.late))
    else s
  | _, _ => s

/-- TIMER µs have passed since the first unsignalled completion (R225). -/
def State.ringTimer (s : State) (p : Nat) : State :=
  let q := s.rwW (ringBase p + 0x1C)
  if bitAt q 7 ∧ fld q 16 16 ≠ 0 ∧ (s.ringOf p).unsig ≠ 0 then s.ringSignal p else s

end Sys2Proof.Machine
end

