-- ==== Sys2Proof/Machine/Boot.lean ====
section
/-! DEFINITION. Resets and recovery of whole units: the events of R200, block resets (R240), device resets and the start
of the die (R418 to R425), supplies, temperature, the management core's restarts, sleep and wake (R430 to R432), and the
SPI slave of the standalone modes (R427). -/

namespace Sys2Proof.Machine

/-! ### The host interface (R200, R238) -/

-- DEDUCED, log 24: unsafe.
/-- Keys of the stores of PCI and RNG. -/
def hostKey (a : Nat) : Bool := decide (0x7000 ≤ a ∧ a < 0x10000)

def dropKeys {α : Type} (p : Nat → Bool) (m : SMap α) : SMap α := m.filter (fun x => !p x.1)

/-- Host frames already whole in a lane are still sent; nothing completes for them. -/
def TxFrame.orphan (f : TxFrame) : TxFrame := { f with slots := [] }

def TxCur.orphan (c : TxCur) : TxCur := { c with frame := c.frame.orphan }

def Mac.orphan (m : Mac) : Mac :=
  { m with queues := m.queues.map (fun q => (q.1, q.2.map TxFrame.orphan)), cur := m.cur.map TxCur.orphan,
           rem := m.rem.map TxCur.orphan }

-- DEDUCED, log 24: unsafe.
/-- PCI and RNG return to their reset state, PCI_SUBID with them, and FEED, DRAW, HRX and RNG are empty. -/
def State.hostClear (s : State) : State :=
  { s with
    reg := { s.reg with
      staged := dropKeys hostKey s.reg.staged, applied := dropKeys hostKey s.reg.applied, rw := dropKeys hostKey s.reg.rw,
      rc := dropKeys hostKey s.reg.rc, count := dropKeys hostKey s.reg.count, subidDone := false },
    ring := [], hrx := [], ftxTurn := [], cmd := none, macA := s.macA.orphan, macB := s.macB.orphan, msixEn := false,
    intDis := false, due := [], pba := 0, pci := { s.pci with table := msixReset } }

def State.anyRing (s : State) : Bool := (List.range 49).any (fun p => s.ringEn p)

/-- BOOT 001 and 010: the management core plays the host. -/
def State.standalone (s : State) : Bool := decide (s.pmu.boot = 1 ∨ s.pmu.boot = 2)

-- DEDUCED, log 38: unsafe.
/-- An event of R200. -/
def State.hostReset (s : State) (e : HostLoss) : State :=
  match e with
  | .link => ({ s.hostClear with pci := pciReset }).flagRaise 0x7008 0x1 15
  | .flr => s.hostClear.flagRaise 0x7008 0x2 15
  | .perst =>
    let t := { s with pmu := { s.pmu with perstLow := true } }
    if s.standalone then t else { t.hostClear with pci := pciReset }
  | .d3hot => if s.anyRing then s.hostClear.flagRaise 0x7008 0x1 15 else s

/-! ### Block resets (R240) -/

/-- MGT restarts from flash with its mailboxes empty. -/
def State.mgtUnitReset (s : State) : State :=
  let t := (s.mboxFlushAll).coreRestart
  ({ t with mgt := { t.mgt with wdogWin := false, dbell := 0 } }).setRc 0x4004 0

/-- Bits of PWR_FLAGS that belong to one channel. -/
def chFlags (c : Nat) : Word := toWord (0x55 * 2 ^ c)

def State.unitReset (s : State) (n : Nat) : State :=
  let t :=
    if n < 2 then ((s.setRc (macBase n + 0xC) 0).setRc (macBase n + 0x48) 0).retrainPort n
    else if n = 2 then (s.setRc 0x2800C 0).relockBegin
    else if n = 3 then s.mgtUnitReset
    else if n < 6 then (s.setRc pdFlags (s.rcW pdFlags &&& ~~~(chFlags (n - 4)))).pwrUnitReset (n - 4)
    else if n = 6 then (s.setRc 0x80008 0).linkUnitReset
    else if 8 ≤ n ∧ n < 16 then s.engUnitReset (n - 8)
    else if 16 ≤ n then s.sapUnitReset (n - 16)
    else s
  t.clearHstop n

/-- The resets RCU_BRST has asked for, at the boundary. -/
def State.blockReset (s : State) : State :=
  s.reg.brst.foldl State.unitReset { s with reg := { s.reg with brst := [] } }

/-! ### Device reset and start (R418 to R424) -/

-- DEDUCED, log 25: unsafe.
/-- A device reset: every block at its reset values and the pins idle (R419).  PMU_RSTCAUSE, PMU_WAKECFG and PMU_GPIO_WAKE
survive, as do the levels at the pins, what holds the die in reset, the flash, and what has left the part; a failed BIST is left
by RESET_N and POR alone (R422).  PMU_RSTCAUSE records the cause, with those of resets it overlaps: those whose sequence has not
reached a running system PLL (R423). -/
def State.deviceReset (s : State) (cause : Nat) : State :=
  let z := State.resetOf s.member
  let p := s.pmu
  let was := if s.syn.spll then 0 else s.rcW 0x300C
  let t := { z with
    pmu := { z.pmu with bistFail := p.bistFail && decide (cause &&& 0x3 = 0), supply := p.supply, temp := p.temp, hot := p.hot, overheat := p.overheat, xoLost := p.xoLost,
                        por := p.por, gpioIn := p.gpioIn, resetLow := p.resetLow, perstLow := p.perstLow },
    mgt := { z.mgt with flash := s.mgt.flash }, reply := s.reply, free := s.free, out := s.out ++ [OutItem.idle],
    pending := s.pending }
  ((t.setRc 0x300C (was ||| toWord cause)).setRw 0x3014 (s.rwW 0x3014)).setRw 0x304C (s.rwW 0x304C)

/-- Nothing holds the die in reset. -/
def State.canStart (s : State) : Bool :=
  decide (s.pmu.supply &&& 0x1F = 0x1F) && !s.held && !s.pmu.overheat

/-- Steps 3 to 6 of R418: straps sampled, xo and system PLL up, SRAM zero and tested. -/
def State.startUp (s : State) (x : Straps) : State :=
  if s.canStart then
    let alone := decide (x.boot % 8 = 1 ∨ x.boot % 8 = 2)
    { s with
      pmu := { s.pmu with boot := x.boot % 8, pairId := x.pairId, bistFail := !x.bist, irqFail := !x.bist && alone },
      syn := { s.syn with xoOk := true, spll := true },
      pwr := { s.pwr with link := hasPower s.member && x.bist } }
  else s

def levels (x : Straps) : BitVec 10 := BitVec.ofNat 10 (putb 8 x.vioA18 + putb 9 x.vioB18)

/-- VIN becomes valid and every supply follows. -/
def State.powerOn (s : State) (x : Straps) : State :=
  if s.pmu.supply &&& 0x7 = 0x7 then s
  else
    let t := s.deviceReset 0x1
    ({ t with pmu := { t.pmu with por := false, supply := (t.pmu.supply &&& 0x020) ||| 0x01F ||| levels x } }).startUp x

/-- The cause bits of a reset that wakes a sleeping part (R423, R431). -/
def State.wakeCause (s : State) (cause : Nat) : Nat := if s.pmu.asleep = 2 then 0x10 + cause else cause

/-- VIN (0), VCORE (1) or VSERDES (2) falls below its limit: power-on reset until the supplies are valid again (R423). -/
def State.vinInvalid (s : State) (k : Nat) : State :=
  let t := s.deviceReset (s.wakeCause 0x1)
  let m : BitVec 10 := if k = 0 then 0x7 else if k = 1 then 0x2 else 0x4
  { t with pmu := { t.pmu with por := true, supply := t.pmu.supply &&& ~~~m } }

def vioBit (b : Nat) : BitVec 10 := BitVec.ofNat 10 (2 ^ (3 + b % 2))

/-- A VIO bank falls (R423). -/
def State.vioFall (s : State) (b : Nat) : State :=
  if s.pmu.supply &&& vioBit b = 0 then s
  else ({ s with pmu := { s.pmu with supply := s.pmu.supply &&& ~~~(vioBit b) } }).flagRaise 0x3004 0x2 95

/-- A fallen bank recovers and its level is sampled again (R435). -/
def State.vioRecover (s : State) (b : Nat) (v18 : Bool) : State :=
  if s.pmu.supply &&& vioBit b ≠ 0 then s
  else
    let l := BitVec.ofNat 10 (2 ^ (8 + b % 2))
    let w := s.pmu.supply ||| vioBit b
    { s with pmu := { s.pmu with supply := if v18 then w ||| l else w &&& ~~~l } }

/-- RESET_N low for `us` µs; between 1 and 10 µs it may or may not be recognised (R419). -/
def State.resetN (s : State) (us : Nat) (seen : Bool) : State :=
  if s.pmu.resetLow then s
  else if 10 ≤ us ∨ (1 ≤ us ∧ seen) then
    let t := s.deviceReset (s.wakeCause 0x2)
    { t with pmu := { t.pmu with resetLow := true } }
  else s

def State.resetRelease (s : State) (x : Straps) : State :=
  if s.pmu.resetLow then ({ s with pmu := { s.pmu with resetLow := false } }).startUp x else s

/-- xo has stopped (R71): output data and power channels Hi-Z, ports silent, the die in reset. -/
def State.xoLoss (s : State) : State :=
  if s.syn.xoOk then
    let t := s.deviceReset 0x4
    { t with pmu := { t.pmu with xoLost := true } }
  else s

def State.xoReturn (s : State) (x : Straps) : State :=
  if s.pmu.xoLost then ({ s with pmu := { s.pmu with xoLost := false } }).startUp x else s

/-! ### Temperature (R231) -/

-- DESIGN CHOICE, log 93: safe.
/-- A reading of the die temperature. -/
def State.thermal (s : State) (t : Int) : State :=
  let a := { s with pmu := { s.pmu with temp := t } }
  if 115 < t then
    (if s.pmu.hot then a else ({ a with pmu := { a.pmu with hot := true } }).flagRaise 0x3004 0x1 95)
  else if t < 110 then { a with pmu := { a.pmu with hot := false } }
  else a

/-- Samples in 1 ms. -/
def State.msSamples (s : State) : Nat := (s.rateHz + 999) / 1000

/-- The die is held in reset by its temperature. -/
def State.heatHold (s : State) : State := s.deviceReset 0x8

-- DESIGN CHOICE, log 35: unsafe.
/-- Above 135 °C: every sink ramps to mute over 1 ms, then the die is held in reset. -/
def State.overtemp (s : State) (t : Int) : State :=
  let a := s.thermal t
  if 135 < t ∧ !s.pmu.overheat then
    let b := { a with pmu := { a.pmu with overheat := true } }
    if s.pmu.up ∧ s.pmu.asleep ≠ 2 then b.muteAll .overtemp b.msSamples else b.heatHold
  else a

-- DESIGN CHOICE, log 35: unsafe.
/-- At a boundary: the ramps of an over-temperature have ended. -/
def State.heatTick (s : State) : State :=
  if s.pmu.overheat ∧ s.pmu.up ∧ sinkClasses.all (fun k => (s.muteOf k).ramp.atRest) then s.heatHold else s

def State.overtempRelease (s : State) (t : Int) (x : Straps) : State :=
  if s.pmu.overheat ∧ t < 110 then
    let a := (if s.pmu.up then s.heatHold else s)
    ({ a with pmu := { a.pmu with overheat := false, hot := false, temp := t } }).startUp x
  else s

/-! ### The management core (R231, R425) -/

/-- Firmware loads from flash or ROM and reports (R425). -/
def State.firmwareReady (s : State) (f : FwImage) : State :=
  if !s.syn.spll ∨ s.pmu.bistFail ∨ s.mgt.ready ∨ s.reg.hstop.getLsbD 3 then s
  else if !f.valid ∧ s.standalone then
    ({ s with pmu := { s.pmu with irqFail := true } }).flagRaise 0x4004 0x2 12
  else
    let a := { s with
      mgt := { s.mgt with ready := true, fwver := f.version, imageCrc := f.crc, rebooting := false, wdogWin := false },
      pmu := { s.pmu with up := true } }
    let b := match f.subid with
      | some w => if f.valid && !a.reg.subidDone then a.lkAct 0x7000 w else a
      | none => a
    let pid := if f.valid then f.pid else none
    let c :=
      if s.pmu.boot = 3 then
        match pid with
        | some p => if hasPair b.member && !b.reg.roleDone then b.lkAct 0x88000 (toWord (b2n b.pmu.pairId + put 16 (p % 65536))) else b
        | none => b.flagRaise 0x4004 0x2 12
      else if f.valid then b else b.flagRaise 0x4004 0x2 12
    mgtSkim 1024 c

-- DEDUCED, log 39: unsafe.
/-- The 100 ms watchdog: the core restarts from flash; a second expiry in its window is a hard stop (R228, R231). -/
def State.mgtWatchdog (s : State) : State :=
  if s.reg.hstop.getLsbD 3 then s
  else
    let a := (s.mboxFlushAll).coreRestart
    let b := ({ a with mgt := { a.mgt with wdogWin := true, dbell := 0 } }).flagRaise 0x4004 0x1 12
    let c := if s.standalone then { b with ring := [], hrx := [], cmd := none, reg := { b.reg with rw := dropKeys hostKey b.reg.rw } } else b
    if s.mgt.wdogWin then c.enterHstop 3 else c

/-! ### PCIe -/

def State.perstRelease (s : State) : State := { s with pmu := { s.pmu with perstLow := false } }

/-- Link training completes (R421). -/
def State.pcieUp (s : State) (speed width : Nat) : State :=
  if s.pmu.up ∧ !s.pmu.perstLow ∧ !s.pmu.bistFail ∧ !s.standalone then
    { s with pci := { s.pci with up := true, speed := speed % 8, width := width % 8 } }
  else s

def State.ecrcErr (s : State) : State := s.flagRaise 0x7008 0x4 15

/-- MSI-X Enable goes to `b` (R406): at 1, one message for every vector with a pending source. -/
def State.msixEnable (s : State) (b : Bool) : State :=
  let t := { s with msixEn := b }
  if b && !s.msixEn then ((List.range 96).filter t.isPending).foldl (fun u n => u.msgDue (u.route n)) t else t

def State.interruptDisable (s : State) (b : Bool) : State := { s with intDis := b }

/-! ### Sample store (R413) -/

def State.scrubError (s : State) (fixable : Bool) (a : Nat) : State := if fixable then s.storeCe 1 else s.storeUe a

/-! ### SerDes PLLs -/

/-- Whether the PLL of a lane is in use (R70): a port's while it is enabled, or in sleep while it is a wake port; Imluind's in
pair mode; PCIe's in the boot modes that have a host.  Sleep powers down all but the wake ports (R430). -/
def State.serdesUsed (s : State) (lane : Nat) : Bool :=
  let sleeps := decide (s.pmu.asleep = 2)
  if lane < 2 then portPresent s.member lane && (if sleeps then (s.mac lane).sleep else macEn (s.macW lane 0))
  else if lane = 2 then hasPair s.member && decide (s.pair.st ≠ 0) && !sleeps
  else decide (s.pmu.boot = 0 ∨ s.pmu.boot = 3) && !sleeps

/-- A PLL not in use is powered down, and its lock bit reads 0. -/
def State.serdesTick (s : State) : State :=
  [0, 1, 2, 3].foldl (fun t k => if t.serdesUsed k then t else t.setSerdes k false) s

/-! ### Sleep (R430 to R432) -/

-- DEDUCED, log 36: unsafe.
/-- Step 2: everything that runs stops. -/
def State.sleepStops (s : State) : State :=
  let a := s.stxRunning.foldl (fun t c => t.stxHalt c.1) s
  let b := a.srxRunning.foldl (fun t c => t.srxHalt c.1) a
  let c := (b.ring.filter (fun x => x.2.started)).foldl (fun t x => t.modRing x.1 (fun r => { r with started := false, stopReq := false })) b
  let d := (List.range (numSap s.member)).foldl (fun t p => if (t.sapOf p).started then t.sapHalt p else t) c
  let e := { d with asrc := { d.asrc with ch := [] } }
  let f := [0, 1].foldl (fun t k => if hasPower t.member then t.pwrStop k else t) e
  if f.pair.driving || f.holder then f.giveUp else f

/-- Step 4: a wake port retrains to 1G; every other port is disabled. -/
def State.portSleep (s : State) (p : Nat) : State :=
  if bitAt (s.rwW 0x3014) p then (s.rungChange p 3).modMac p (fun m => { m with sleep := true })
  else (s.takeDown p).modMac p (fun m => { m with lane := false })

/-- Steps 3 to 5: the link goes down, which is an event of R200, the wake ports run at 1G and the others are disabled, and the
PLLs of what is powered down are off. -/
def State.sleepEnd (s : State) : State :=
  let a := if s.pci.up then s.hostReset .link else s.hostClear
  let b := ((List.range 2).filter (portPresent s.member)).foldl State.portSleep a
  ({ b with pmu := { b.pmu with asleep := 2 } }).serdesTick

/-- A device reset with WAKE, keeping the wake record of the port that matched (R431). -/
def State.wakeUp (s : State) (p : Option Nat) (x : Straps) : State :=
  let t := s.deviceReset 0x10
  let u := match p with
    | some k => (t.setRc (macBase k + 0x48) (s.rcW (macBase k + 0x48))).setRc (macBase k + 0xC) (s.rcW (macBase k + 0xC) &&& 0x40)
    | none => t
  u.startUp x

-- DEDUCED, log 36: unsafe.
/-- Sleep entry at a boundary: the mutes, the stops, and the end once the power channels are off. -/
def State.sleepTick (s : State) : State :=
  if s.pmu.asleep = 0 then
    (if s.pmu.sleepReq then
      ({ s with pmu := { s.pmu with sleepReq := false, asleep := 1 } }).muteAll .sleep 64 else s)
  else
    let t := { s with pmu := { s.pmu with sleepReq := false } }
    if t.pmu.asleep = 1 then
      (if sinkClasses.all (fun k => (t.muteOf k).ramp.atRest) then
        { t.sleepStops with pmu := { t.sleepStops.pmu with asleep := 3 } } else t)
    else if t.pmu.asleep = 3 ∧ [t.pwr.a, t.pwr.b].all (fun v => decide (v.st = 0 ∨ v.st = 7)) then
      let u := t.sleepEnd
      match u.pmu.wakePend with
      | some x => u.wakeUp none x
      | none => u
    else t

/-- An edge at a GPIO pin: its level changes. -/
def State.gpioEdge (s : State) (k : Nat) : State :=
  { s with pmu := { s.pmu with gpioIn := s.pmu.gpioIn ^^^ BitVec.ofNat 16 (2 ^ k) } }

-- DESIGN CHOICE, log 5: unsafe.
/-- A wake: a pin named for it, or a selected port whose pattern has matched. -/
def State.wake (s : State) (w : WakeBy) (x : Straps) : State :=
  match w with
  | .gpio k =>
    let t := s.gpioEdge k
    if bitAt (s.rwW 0x3014) 2 && decide (k < 16) && bitAt (s.rwW 0x304C) k then
      (if s.pmu.asleep = 2 then t.wakeUp none x
       else if s.pmu.asleep = 0 then t
       else { t with pmu := { t.pmu with wakePend := some x } })
    else t
  | .port p =>
    if s.pmu.asleep = 2 ∧ p < 2 ∧ bitAt (s.rwW 0x3014) p ∧ bitAt (s.rcW (macBase p + 0x48)) 8 then s.wakeUp (some p) x else s

/-! ### The SPI slave (R427) -/

/-- The strobe groups of the RS registers and table words written. -/
def State.groupsOf (s : State) (l : List (Nat × Word)) : Nat :=
  maskOf ((l.filterMap (fun p => match rowAt p.1 with
    | some r => if r.rs = 0 then none else (blockAt p.1).map s.groupOf
    | none => none)).dedup)

-- DESIGN CHOICE, log 42: safe.
/-- A write frame: in mode 001 a mailbox or the doorbell; in mode 010 the Aelen writes that the firmware makes of a
GT20 register, with their groups fired for the next boundary. -/
def State.msWrite (s : State) (a : Nat) (d : Word) (gt20 : List (Nat × Word)) : State :=
  if s.pmu.boot = 1 then
    (if a = 0x0000 then s.mboxAppend 28 d false
     else if a = 0x0004 then s.mboxAppend 28 d true
     else if a = 0x000C then s.mboxAppend 30 d false
     else if a = 0x0010 then s.mboxAppend 30 d true
     else if a = 0x0018 then s.mgtBell (fld d 0 2)
     else s)
  else if s.pmu.boot = 2 then
    let t := gt20.foldl (fun u p => u.write32 .mgt .normal p.1 p.2) s
    t.strobe (t.groupsOf gt20)
  else s

-- DESIGN CHOICE, log 42: safe.
/-- A read frame: in mode 010 the Aelen register behind a GT20 register, or 0 where there is none. -/
def State.msRead (s : State) (a : Nat) (gt20 : Option Nat) : State :=
  let ans (w : Word) (t : State) : State := t.answer w 0
  if s.pmu.boot = 1 then
    (if a = 0x0008 then ans (s.mboxTake 29).1 (s.mboxTake 29).2
     else if a = 0x0014 then ans (s.mboxTake 31).1 (s.mboxTake 31).2
     else if a = 0x0018 then
       ans (toWord (b2n (s.mboxOf 29).isEmpty + putb 1 (s.mboxOf 29).lastEnd + putb 8 (s.mboxOf 31).isEmpty
         + putb 9 (s.mboxOf 31).lastEnd)) s
     else ans 0 s)
  else if s.pmu.boot = 2 then
    (match gt20 with
     | some r => (match s.present r with
       | some row => ans (s.regValue .mgt { grains := 0, ns0 := 0, ns1 := 0 } r row) s
       | none => ans 0 s)
     | none => ans 0 s)
  else s

/-- IRQ_N driven low (R408, R422, R425). -/
def State.irqN (s : State) : Bool := s.pmu.irqFail || (s.standalone && bitAt (s.rwW 0x2020) 0 && s.anyPending)

end Sys2Proof.Machine
end

