-- ==== Sys2Proof/Machine/Tick.lean ====
section
/-! DEFINITION. A tick boundary (R31, R33): ingress of the block just ended, the snapshots and departures of the boundary
(R13, R14, R38, R39, R266), the fabric and the engines, egress, and what the boundary does for clocks, pair and sleep; and
the running configuration CRC (R395 to R397). -/

namespace Sys2Proof.Machine

/-! ### The running configuration CRC -/

/-- Blocks in ascending order of their bases. -/
def blockOrder : List Nat :=
  [bGEN, bEVT, bPMU, bMGT, bPCI, bRNG, bMACA, bMACB, bCLS, bTIM, bMCR, bSYN, bTT, bSTX, bSRX, bDPC, bSST, bSDG, bMIX]
    ++ (List.range 8).map bENG ++ (List.range 8).map bSAP ++ [bASRC, bPWR, bPAIR]

/-- Normal-view offsets of the registers of a block that have an RS field, ascending. -/
def rsRegs (b : Nat) : List Nat :=
  (((mapOf b).filter (fun r => decide (r.rs ≠ 0))).flatMap (fun r =>
    (List.range (max 1 r.cnt)).map (fun i => blockBase b + r.off + i * r.stride))).mergeSort (fun x y => decide (x ≤ y))

def bankRegister (a : Nat) : Bool := decide (a = 0x50010) || decide (0x60000 ≤ a ∧ a < 0x68000 ∧ a % 0x1000 = 0x14)

/-- A word of a pass with its reserved bits 0. -/
def State.passWord (s : State) (a rs : Nat) : Word := s.appliedW a &&& toWord rs &&& ~~~(s.lacking a)

-- DEDUCED, log 33: unsafe.
def State.passRegs (s : State) : List Word :=
  ((blockOrder.filter (blockPresent s.member)).flatMap rsRegs).filterMap (fun a =>
    if bankRegister a then none else (s.present a).map (fun r => s.passWord a r.rs))

/-- Words of table `top` in ascending address, regions in modes 1 and 2 left out. -/
def State.passTable (s : State) (top : Nat) : List Word :=
  (List.range 0x20000).filterMap (fun i =>
    let a := top * 0x1000000 + 4 * i
    if tableExtent a && tablePresent s.member a && !s.inMode1 a && !s.inMode2 a then
      (rowT a).bind (fun r => if top = 7 ∧ r.rs = 0 then none else some (s.passWord a r.rs))
    else none)

/-- What a pass computes (R395). -/
def State.crcValue (s : State) : Word :=
  toWord (crc32 ((s.passRegs ++ ([1, 2, 3, 4, 5, 6, 7].flatMap s.passTable)).flatMap bytesLE))

def State.setCrc (s : State) (c : Crc) : State := { s with reg := { s.reg with crc := c } }

/-- A pass begins at a boundary, but not at one that discarded a pass (R396); comparison begins with the first one after a commit. -/
def State.passBegin (s : State) : State :=
  let c := s.reg.crc
  if c.rest then s.setCrc { c with rest := false }
  else if c.passOn then s else s.setCrc { c with passOn := true, passCounts := c.commit, armed := c.armed || c.commit }

-- DEDUCED, log 33: unsafe.
-- DEDUCED, log 34: unsafe.
/-- A compared pass that does not match: the first after a match or a commit is reported (R397). -/
def State.crcMismatch (s : State) : State :=
  let c := s.reg.crc
  if c.fresh then
    let t := (s.setCrc { c with matched := false, fresh := false, held := true }).flagRaise 0x1068 0x4 94
    if bitAt (t.rwW 0x1000) 0 then t.muteAll .crc t.rampLen else t
  else s.setCrc { c with matched := false }

/-- A compared pass that matches: what was muted ramps up. -/
def State.crcMatch (s : State) : State :=
  let c := s.reg.crc
  let t := s.setCrc { c with matched := true, fresh := true, held := false }
  if c.held then t.unmuteAll .crc t.rampLen else t

-- DEDUCED, log 33: unsafe.
/-- A pass ends, complete or at a word that fails parity (R396, R397). -/
def State.passEnd (s : State) (parity : Bool) : State :=
  let c := s.reg.crc
  if !c.passOn then s
  else if parity then
    let t := (s.setCrc { c with passOn := false }).flag 0x1068 0x8
    if c.passCounts then t.crcMismatch else t
  else
    let v := s.crcValue
    let t := s.setCrc { c with passOn := false, last := v, passes := (c.passes + 1) % 65536 }
    if !c.passCounts then t
    else if v = s.rwW 0x1060 then t.crcMatch
    else t.crcMismatch

/-! ### The stages of a tick -/

/-- The serial ports and the power die put out the blocks of the tick that ends, under the values they adopted in it (R15,
R33). -/
def State.tickPins (s : State) (x : TickIn) : State :=
  (s.sapEgress x.sapFrames x.sapoPoison x.badTable x.asrcPoison).pwrTick x.power

/-- The words of the tick buffers read uncorrectable, of sources (0) or sinks (1). -/
def storeHits (x : TickIn) (kind : Nat) : List (Nat × Nat) :=
  (x.storeBad.filter (fun h => decide (h.1 = kind))).map (fun h => h.2)

-- DEDUCED, log 60: unsafe.
-- DESIGN CHOICE, log 94: safe.
/-- Ingress completes the block of the tick that ends. -/
def State.tickIngress (s : State) (x : TickIn) : State :=
  let a := s.stxIngress
  let b := a.srxPresent x.srxPoison []
  let c := b.1.feedTick x.feedPoison b.2
  let d := c.1.sapIngress x.sapFrames x.sapiPoison x.badTable c.2
  let e := d.1.senseIngress x.power d.2
  let f := e.1.tickBuffer (storeHits x 0) s.mix.src e.2
  { f.1 with mix := { f.1.mix with src := f.2 } }

/-- Media position reaches the boundary; each time base has run on. -/
def State.tickAdvance (s : State) (x : TickIn) : State :=
  { s.timeTick x.ns0 x.ns1 x.ns (s.tt.now + s.T) with
    tt := { s.tt with now := s.tt.now + s.T },
    dpc := { s.dpc with clock := max s.dpc.clock x.clock },
    mix := { s.mix with lab2 := s.mix.lab1, lab1 := s.tt.now, toStd := [], toLow := [] } }

/-- STOP_ALL of STX and SRX at the boundary (R133, R161). -/
def State.stopAlls (s : State) : State :=
  let a := if s.stx.stopAll then s.stxRunning.foldl (fun t c => t.stxStop c.1) { s with stx := { s.stx with stopAll := false } } else s
  if a.srx.stopAll then a.srxRunning.foldl (fun t c => t.srxStop c.1) { a with srx := { a.srx with stopAll := false } } else a

/-- The departures due are taken, and the snapshots of every group fired for the boundary apply together (R38, R39). -/
def State.fireDepartures (s : State) (bad : List Nat) : State × List Taken :=
  let k := s.takeAll bad
  let b := (k.1.cmdBoundary true).fireAll k.2
  (b.applySnaps.adoptBlocks b b.snapBlocks, k.2)

/-- The other actions run on the values applied (R39). -/
def State.actDepartures (s : State) (ks : List Taken) : State := ((s.actAll ks).recordTaken ks).cmdBoundary false

/-- Snapshots of the boundary, the requests that wait for it, and the departures, in the order of R39 and R266. -/
def State.tickActions (s : State) (x : TickIn) : State :=
  let a := if x.badTable = [] then s else s.raise 60
  let k := a.fireDepartures x.badTable
  let d := (List.range (numEng k.1.member)).foldl State.engRequests k.1
  let e := (d.slApplyAll).pairBoundary
  let f := e.actDepartures k.2
  let g := ((f.stopAlls).sapBoundaries x.fill).pwrBoundary
  (((g.hearAll x.badTable).beginDue).retarget x.badTable).groupsTick

/-- Codes of bus and engine outputs, which the next block reads late (R254). -/
def lateSource (c : Nat) : Bool := decide (0x2A00 ≤ c ∧ c < 0x2C00)

/-- The fabric processes the block: buses, engines, sinks and mute stages. -/
def State.tickFabric (s0 : State) (x : TickIn) : State :=
  let s := { s0 with sst := { s0.sst with pool := (s0.sst.pool ++ x.poolBad).dedup } }
  let i := s.asrcIngress x.asrcPoison s.mix.src
  let a := i.1.runBuses i.2 s.mix.prev
  let b := a.1.advanceXp.runEngines a.2 s.mix.prev x.engBad x.engPoison
  let low := b.1.mix.egress.filter (fun p => b.1.mix.low.contains p.1)
  let t := { b.1 with mix := { b.1.mix with lowHold := low } }
  let u := (t.runSinks (blockOf b.2)).advanceMutes
  let w := u.tickBuffer (storeHits x 1) s.mix.egress u.mix.egress
  { w.1 with mix := { w.1.mix with egress := w.2, prev := b.2.filter (fun p => lateSource p.1) } }

/-- Whether frames committed now have a commit bound at or after the instant at which the unit stops driving (R137, R364), or
the unit does not drive. -/
def State.noCommit (s : State) : Bool := s.fenced || (s.holder && decide (s.pair.lease ≤ s.tt.now + s.T))

/-- Egress packs streams and fills draw blocks. -/
def State.tickEgress (s : State) (x : TickIn) : State :=
  (s.stxTick s.noCommit x.full x.stxPoison).drawTick x.drawPoison

/-! ### The reference of media clock recovery -/

/-- Whether MCR_CFG names a started receive context of the format its mode needs (R55). -/
def State.refContext (s : State) : Bool :=
  let c := fld (s.appliedW 0x24000) 8 7
  (s.srxOf c).run && (decide (s.mcrMode ≠ 1) || isCrf (s.srxOf c).words) && (decide (s.mcrMode ≠ 2) || !isCrf (s.srxOf c).words)

-- DESIGN CHOICE, log 99: unsafe.
/-- Whether MCR_CFG names a serial port that is a clock slave (R55); the port is required to be enabled. -/
def State.refSlave (s : State) : Bool :=
  let p := fld (s.appliedW 0x24000) 8 3
  sapPresent s.member p && sEn (s.sapCfg p) && !s.sapMaster p

/-- What a tick brings the loop: its slew, the ramp up after a step, its history, and a look at the reference (R55, R59 to
R66). -/
def State.mcrTick (s : State) (ns : Nat) : State :=
  let t := ((s.slewTick).stepUpTick).histTick ns
  t.usableCheck (t.refUsable t.refContext t.refSlave)

/-- PASS in ns; 0 is adopted as 1 s. -/
def State.scrubPass (s : State) : Nat := 1000000000 * max 1 (fld (s.appliedW 0x3C000) 8 8)

-- DESIGN CHOICE, log 105: unsafe.
/-- The background scrub: a pass ends each time it has run for PASS seconds of xo, while SCRUB_EN is 1; single-bit errors that reads
met are corrected (R413). -/
def State.scrubTick (s : State) (ns ce : Nat) : State :=
  let t := s.storeCe ce
  if bitAt (s.appliedW 0x3C000) 0 then
    let n := t.sst.scrubNs + ns
    let k := n / s.scrubPass
    { t with sst := { t.sst with scrubNs := n % s.scrubPass, passes := (t.sst.passes + k) % 65536 } }.countBy 0x3C110 k
  else t

/-- What the boundary does for clocks, ports, pair, CRC and sleep. -/
def State.tickRest (s : State) (x : TickIn) : State :=
  let a := (((s.mcrTick x.ns).trkTick).serdesTick).scrubTick x.ns x.storeCe
  let c := ((a.holdChecks).utilUpshifts).shiftCheck
  ((((c.pairTick x.mirBad).passBegin).sleepTick).heatTick)

/-- The credits of both ports at the boundary (R94). -/
def State.tickCredits (s : State) (x : TickIn) : State :=
  (s.creditRun 0 (x.octets.getD 0 0)).creditRun 1 (x.octets.getD 1 0)

-- DESIGN CHOICE, log 5: unsafe.
-- DESIGN CHOICE, log 92: safe.
/-- A tick boundary. -/
def State.tick (s : State) (x : TickIn) : State :=
  (((((((s.tickCredits x).tickPins x).tickIngress x).tickAdvance x).tickActions x).tickFabric x).tickEgress x).tickRest x

end Sys2Proof.Machine
end

