-- ==== Sys2Proof/Machine/Guard.lean ====
section
/-! DEFINITION. What the meanings of the commands share: a command about a unit the member lacks has no effect (R2), a
control bit written by a requester, and the steps of clocks and time that join several blocks. -/

namespace Sys2Proof.Machine

/-! ### Units -/

-- DESIGN CHOICE, log 2: unsafe.
-- DEDUCED, log 7: safe.
def State.onPort (s : State) (p : Nat) (t : State) : State := if portPresent s.member p then t else s
def State.onInst (s : State) (i : Nat) (t : State) : State := if i < 2 then t else s
-- DEDUCED, log 7: safe.
def State.onEng (s : State) (e : Nat) (t : State) : State := if e < numEng s.member then t else s
-- DEDUCED, log 7: safe.
def State.onSap (s : State) (p : Nat) (t : State) : State := if sapPresent s.member p then t else s
-- DEDUCED, log 7: safe.
def State.onTrk (s : State) (p : Nat) (t : State) : State := if p < numTracker s.member then t else s
-- DESIGN CHOICE, log 2: unsafe.
-- DEDUCED, log 7: safe.
def State.onPower (s : State) (t : State) : State := if hasPower s.member then t else s
def State.onCh (s : State) (c : Nat) (t : State) : State := if hasPower s.member && decide (c < 2) then t else s
-- DEDUCED, log 7: safe.
def State.onPair (s : State) (t : State) : State := if hasPair s.member then t else s
/-- A register row names the `k`-th of the `n` units the map lays out; one the member lacks answers as reserved space does
(R2). -/
def State.onIndex (s : State) (k n : Nat) (t : State) : State := if k < n then t else s
-- DEDUCED, log 7: safe.
def State.onDpc (s : State) (t : State) : State := if hasDpc s.member then t else s

/-- A requester writes `d` to a register through the normal view. -/
def State.ctl (s : State) (q : Req) (a d : Nat) : State := s.write32 q .normal a (toWord d)

/-- A register written at an index of an array of `n`. -/
def State.regAt (s : State) (k n a : Nat) (x : RegWrite) : State := if k < n then s.regWrite a x else s

/-! ### PTP messages -/

-- DEDUCED, log 75: unsafe.
/-- An instance leaves SYNCED; MCR loses its reference where it follows that instance in PTP mode (R60). -/
def State.leaveSynced (s : State) (i : Nat) : State :=
  let t := s.unsync i
  if (s.inst i).synced ∧ s.mcrMode = 0 ∧ s.mcr.inst = i then t.refLoss else t

-- DESIGN CHOICE, log 44: safe.
/-- What the BMCA decides (R49). -/
def State.bmcaTake (s : State) (i : Nat) (x : Bmca) : State := s.bmca i x.stateA x.stateB x.gmId x.gmSelf

/-- A PTP message comes to TIM through its siding: one with a poisoned word is dropped, and only the siding counts it (R414). -/
def State.ptpArrive (s : State) (p i : Nat) (x : PtpRx) : State :=
  if x.poison = 0 then s.ptpRx p i x else s.sdgPoison 8 0 x.poison

/-! ### Media clock -/

-- DEDUCED, log 76: unsafe.
def State.lockNow (s : State) : State :=
  if s.mcr.state = .acquire ∧ s.mcr.refOk ∧ s.mcr.phase.natAbs < s.lockThr then s.mcrLock else s

-- DEDUCED, log 76: unsafe.
/-- LOCKED is left with the phase above four times the threshold (R56); MODE 5 stays there (R58). -/
def State.lockLost (s : State) : State :=
  if s.mcr.state = .locked ∧ s.mcrMode ≠ 5 ∧ 4 * s.lockThr < s.mcr.phase.natAbs then s.modMcr (fun m => { m with state := .acquire })
  else s

-- DEDUCED, log 76: unsafe.
/-- The reference has needed a frequency outside the window (R59): a fenced relock with a new centre, or, beyond 1000 ppm from
nominal, its rejection. -/
def State.windowMove (s : State) (c : Int) : State :=
  if s.mcrMode = 5 then s
  else if ppm 1000 < c.natAbs then s.mcrRange
  else if ppm 500 < (c - s.mcr.centre).natAbs then s.modSyn (fun y => { y with req := true, newCentre := some c })
  else s

-- DESIGN CHOICE, log 2: unsafe.
/-- The mute ramp that `c` started has ended on every sink it holds first. -/
def State.rampOver (s : State) (c : MuteCause) : Bool :=
  sinkClasses.all (fun k => decide ((s.muteOf k).causes.head? ≠ some c) || (s.muteOf k).ramp.atRest)

-- DEDUCED, log 73: unsafe.
/-- The departures due at the new position are taken at the boundary of the step itself, the snapshots they fire apply, and
their actions run (R29, R41, R65). -/
def State.stepDepartures (s : State) : State :=
  let k := s.fireDepartures []
  k.1.actDepartures k.2

-- DEDUCED, log 73: unsafe.
/-- The media-position step with what follows it (R65, R128, R162, R223, R309, R314, R364). -/
def State.stepNow (s : State) : State :=
  if s.mcr.ramping ∧ s.mcr.state = .step ∧ s.rampOver .step then
    let t := s.mcrStep
    ((((((t.srxFlush).feedStepped s.tt.now t.tt.now).sapStepped).asrcAll).mrMark).stepDepartures).fenceCheck
  else s

/-! ### Synthesis -/

/-- A media PLL loses lock (R80): outside RELOCK a fenced relock follows at the next boundary. -/
def State.mpllLoss (s : State) : State :=
  let lock := if isFamA s.syn.rate then s.syn.mpllA else s.syn.mpllB
  if !lock then s
  else
    let t := s.setMpll false
    if s.mcr.state = .relock then t else t.modSyn (fun y => { y with unlockReq := true })

/-- A fenced relock begins at a boundary with what asked for it (R76, R80), or merges into one in progress (R81). -/
def State.relockNow (s : State) : State :=
  if s.syn.req ∨ s.syn.unlockReq then s.relockBegin.step3Again else s

-- DEDUCED, log 77: unsafe.
/-- Step 2 ends (R77). -/
def State.rampDownEnd (s : State) : State :=
  if s.syn.rstep = 2 ∧ s.rampOver .relock then s.step3Begin else s

/-- The media PLL declares lock (R74); in step 3 the counter check starts (R77). -/
def State.mpllUp (s : State) : State :=
  let t := s.setMpll true
  if s.syn.rstep = 3 then t.modSyn (fun y => { y with counting := true }) else t

-- DESIGN CHOICE, log 79: unsafe.
/-- A SerDes PLL loses lock (R70) and its port or link goes down. -/
def State.serdesLoss (s : State) (k : Nat) : State :=
  let on := if k = 0 then s.syn.serA else if k = 1 then s.syn.serB else if k = 2 then s.syn.pairPll else s.syn.pciePll
  if !on ∨ 4 ≤ k then s
  else
    let t := (s.setSerdes k false).flag 0x2800C 0x10
    if k < 2 then t.linkDown k
    else if k = 2 then t.linkCheck
    else if t.pci.up then t.hostReset .link else t

-- DEDUCED, log 77: unsafe.
/-- The ramps up that run have ended on every sink nothing mutes. -/
def State.rampsUp (s : State) : Bool :=
  sinkClasses.all (fun k => decide ((s.muteOf k).causes ≠ []) || (s.muteOf k).ramp.atRest)

-- DEDUCED, log 77: unsafe.
/-- The ramp up of step 5 has ended: the relock ends (R77), and the streams mark it (R128). -/
def State.relockOver (s : State) : State :=
  if s.syn.rstep = 5 ∧ s.rampsUp then s.relockEnd.mrMark else s

/-! ### Fabric -/

/-- A deferred crossfade begins where a slot is free (R250). -/
def State.deferredStart (s : State) (j : Nat) : State :=
  if s.mix.deferred.contains j then
    let t := s.beginOne j
    if (t.juncOf j).fade.isSome then { t with mix := { t.mix with deferred := t.mix.deferred.filter (fun k => k ≠ j) } } else t
  else s

/-- A crossfade whose last sample is due ends, and the change that waits begins (R248). -/
def State.fadeEndAt (s : State) (j : Nat) : State :=
  match (s.juncOf j).fade with
  | some f => if f.len ≤ f.pos + 1 then s.setJunc j ((s.juncOf j).fadeEnd (s.xlenOf j)) else s
  | none => s

def State.engWindowEnd (s : State) (e : Nat) : State :=
  if (s.engOf e).st = .running then s.modEng e (fun v => { v with window := false }) else s

/-! ### Serial ports and pair -/

def State.sapRateSet (s : State) (p rate : Nat) : State :=
  if sEn (s.sapCfg p) then s.modSap p (fun v => { v with rate := rate % 2 ^ 25 }) else s

def tabMsg (b : List Byte) : Nat := natBE (slice b 0 1) % 16

end Sys2Proof.Machine
end

