-- ==== Sys2Proof/Machine/HostCmd.lean ====
section
/-! DEFINITION. Meanings of mailboxes, host rings, the command ring and host interrupts (R192 to R238, R405 to R407). -/

namespace Sys2Proof.Machine

/-- A write of SDG_NDATA appends a word to the open mailbox item (R192). -/
def execMailboxAppend (n : Nat) (x : RegWrite) (s : State) : Host.Outcome State Fault Refusal :=
  run s (if n < 32 then s.regWrite (sdgBase n + 0x30) x else s)

/-- A write of SDG_NDATAEND appends the last word with its end mark and makes the item visible (R192). -/
def execMailboxAppendEnd (n : Nat) (x : RegWrite) (s : State) : Host.Outcome State Fault Refusal :=
  run s (if n < 32 then s.regWrite (sdgBase n + 0x34) x else s)

/-- A read of SDG_NDATA takes one word, or sets UNDERRUN when empty (R192); the word may fail parity, or its two end marks may
disagree (R190). -/
def execMailboxTake (n : Nat) (x : MboxRead) (s : State) : Host.Outcome State Fault Refusal :=
  run s (if n < 32 then
    (s.regRead x.req { grains := 0, ns0 := 0, ns1 := 0 } (sdgBase n + 0x30)).mboxCheck s n x.parity x.marks else s)

/-- SDG_NCTL.FLUSH empties a mailbox at the consumer side at once (R194). -/
def execFlush (n : Nat) (q : Req) (s : State) : Host.Outcome State Fault Refusal :=
  run s (if n < 32 then s.ctl q (sdgBase n + 4) 1 else s)

/-- The flush reaches the producer's domain and discards its partial packet (R194). -/
def execFlushProducer (n : Nat) (s : State) : Host.Outcome State Fault Refusal := run s (s.mboxFlushed n)

/-- A doorbell write of PI is accepted, or discarded with DB_ERR (R203). -/
def execDoorbellPi (p : Nat) (w : Word) (s : State) : Host.Outcome State Fault Refusal := run s (s.doorbellPi p w)

/-- A doorbell write of CCI releases completion slots, or is discarded with DB_ERR (R203). -/
def execDoorbellCci (p : Nat) (w : Word) (s : State) : Host.Outcome State Fault Refusal := run s (s.doorbellCci p w)

/-- RNG_PCFG.EN = 1 on a disabled ring zeroes its indices and starts it (R202). -/
def execRingEnable (p size : Nat) (q : Req) (s : State) : Host.Outcome State Fault Refusal :=
  run s (if p < 49 then s.ctl q (ringBase p + 0x10) (0x100 + size % 32) else s)

/-- RNG_PCFG.EN = 0 stops fetching and completes outstanding descriptors ABANDONED (R202). -/
def execRingDisable (p : Nat) (q : Req) (s : State) : Host.Outcome State Fault Refusal :=
  run s (if p < 49 then s.write32 q .clear (ringBase p + 0x10) 0x100 else s)

/-- RNG_PCTL.RESTART resumes a halted ring at CI (R235). -/
def execRestart (p : Nat) (q : Req) (s : State) : Host.Outcome State Fault Refusal :=
  run s (if p < 49 then s.ctl q (ringBase p + 0x20) 1 else s)

/-- A descriptor read from host memory returns and is acted on by its ring (R206). -/
def execDescriptorFetch (p : Nat) (dw : List Word) (s : State) : Host.Outcome State Fault Refusal :=
  run s (s.descFetch p dw)

/-- A failed descriptor fetch halts the ring and completes the descriptor DESC_ERR (R232). -/
def execDescErr (p : Nat) (x : FetchErr) (s : State) : Host.Outcome State Fault Refusal :=
  run s ((s.descErr p x.cause).sdgPoison 7 0 x.words)

/-- A failed host data read halts the ring and completes the descriptor DMA_ERR (R232). -/
def execDmaErr (p slot : Nat) (x : ReadErr) (s : State) : Host.Outcome State Fault Refusal :=
  run s (s.dmaErr p slot x.off x.cause)

/-- A completion entry is written once the completion slot is released (R205). -/
def execCompletionWrite (p : Nat) (poison : Bool) (s : State) : Host.Outcome State Fault Refusal :=
  run s (s.completionWrite p poison)

/-- TIMER µs after the first unsignalled completion the ring signals (R225). -/
def execRingIrqTimer (p : Nat) (s : State) : Host.Outcome State Fault Refusal := run s (s.ringTimer p)

/-- Command that does nothing and completes OK (R209). -/
def execNop (s : State) : Host.Outcome State Fault Refusal := run s (s.cmdBegin (fun op => decide (op = 0x00)))

/-- Command that starts a range of transmit contexts at POS or the next boundary (R209). -/
def execCmdStxStart (s : State) : Host.Outcome State Fault Refusal := run s (s.cmdBegin (fun op => decide (op = 0x01)))

/-- Command that stops a range of transmit contexts (R209). -/
def execCmdStxStop (s : State) : Host.Outcome State Fault Refusal := run s (s.cmdBegin (fun op => decide (op = 0x02)))

/-- Command that starts a range of receive contexts (R209). -/
def execCmdSrxStart (s : State) : Host.Outcome State Fault Refusal := run s (s.cmdBegin (fun op => decide (op = 0x03)))

/-- Command that stops a range of receive contexts (R209). -/
def execCmdSrxStop (s : State) : Host.Outcome State Fault Refusal := run s (s.cmdBegin (fun op => decide (op = 0x04)))

/-- Command that starts a feed or draw ring after its checks (R216). -/
def execAudStart (s : State) : Host.Outcome State Fault Refusal := run s (s.cmdBegin (fun op => decide (op = 0x05)))

/-- Command that stops a feed or draw ring at its boundary (R224). -/
def execAudStop (s : State) : Host.Outcome State Fault Refusal := run s (s.cmdBegin (fun op => decide (op = 0x06)))

/-- Command that fires strobe groups at once or at its POS boundary (R209). -/
def execStrobe (s : State) : Host.Outcome State Fault Refusal := run s (s.cmdBegin (fun op => decide (op = 0x07)))

/-- Command that writes a departure and optionally arms it (R209). -/
def execTtLoad (s : State) : Host.Outcome State Fault Refusal := run s (s.cmdBegin (fun op => decide (op = 0x08)))

/-- Command that copies words from host memory into staged T-space (R209). -/
def execTblWrite (s : State) : Host.Outcome State Fault Refusal := run s (s.cmdBegin (fun op => decide (op = 0x09)))

/-- Command that copies staged or applied T-space words to host memory (R209). -/
def execTblRead (s : State) : Host.Outcome State Fault Refusal := run s (s.cmdBegin (fun op => decide (op = 0x0A)))

/-- Command that holds the ring until its POS boundary (R208). -/
def execWaitPos (s : State) : Host.Outcome State Fault Refusal := run s (s.cmdBegin (fun op => decide (op = 0x0B)))

/-- Command that starts a self-test or calibration on an idle unit (R243). -/
def execSelftest (s : State) : Host.Outcome State Fault Refusal := run s (s.cmdBegin (fun op => decide (op = 0x0C)))

/-- A reserved opcode completes BADCMD (R209). -/
def execBadcmd (s : State) : Host.Outcome State Fault Refusal := run s (s.cmdBegin (fun op => decide (0x0D ≤ op)))

/-- A command with a non-zero POS acts at that boundary and then completes (R208). -/
def execCommandAtPos (s : State) : Host.Outcome State Fault Refusal := run s s.cmdAtPos

/-- A self-test finishes and its command completes with the result (R243). -/
def execSelftestEnd (fail : Bool) (detail : Nat) (s : State) : Host.Outcome State Fault Refusal :=
  run s (s.testEnd fail detail)

/-- A whole host-bound frame is written into posted FRX buffers once they exist (R213). -/
def execHostFrameWrite (s : State) : Host.Outcome State Fault Refusal := run s s.hostFrameWrite

/-- A frame without buffers for RNG_RXWAIT µs is dropped whole (R213). -/
def execRngRxdrop (s : State) : Host.Outcome State Fault Refusal := run s s.hostFrameDrop

/-- A feed block is read once its POS is within AHEAD ticks and the FEED siding has room (R217). -/
def execFeedBlockRead (p : Nat) (s : State) : Host.Outcome State Fault Refusal := run s (s.feedIssue p)

/-- Link loss, FLR, PERST_N fall or D3hot with a ring enabled resets PCI and RNG alone (R200). -/
def execHostReset (e : HostLoss) (s : State) : Host.Outcome State Fault Refusal :=
  if e = .perst then runPowered s (s.hostReset e) else run s (s.hostReset e)

/-- MSI-X Enable going to 1 issues one message per vector with a pending source (R406). -/
def execMsixEnable (b : Bool) (s : State) : Host.Outcome State Fault Refusal := run s (s.msixEnable b)

/-- A change of Interrupt Disable gates or re-asserts INTA (R407). -/
def execInterruptDisable (b : Bool) (s : State) : Host.Outcome State Fault Refusal := run s (s.interruptDisable b)

/-- Read data for an FTX buffer, feed block or TBL_WRITE source returns from host memory and is used (R232). -/
def execDataReadReturn (p slot : Nat) (bytes : List Byte) (s : State) : Host.Outcome State Fault Refusal :=
  run s (s.dataReturn p slot bytes)

/-- PCIe link training completes and PCI_LINK.UP becomes 1 (R421). -/
def execPcieLinkUp (speed width : Nat) (s : State) : Host.Outcome State Fault Refusal := run s (s.pcieUp speed width)

/-- PERST_N rising lets the endpoint answer configuration and start link training (R421). -/
def execPerstNRelease (s : State) : Host.Outcome State Fault Refusal := runPowered s s.perstRelease

/-- A received TLP failing ECRC is dropped, PCI_FLAGS.ECRC_ERR set and PCI_ERR raised (R412). -/
def execEcrcErr (s : State) : Host.Outcome State Fault Refusal := run s s.ecrcErr

end Sys2Proof.Machine
end

