-- ==== Sys2Proof/Machine/MixCmd.lean ====
section
/-! DEFINITION. Meanings of the mix fabric's banks, safe loads and crossfades, and of the effect engines (R244 to
R289). -/

namespace Sys2Proof.Machine

/-- After 1 s of running following a restart an engine's recovery window ends (R231). -/
def execEngineWindowEnd (e : Nat) (s : State) : Host.Outcome State Fault Refusal := run s (s.onEng e (s.engWindowEnd e))

/-- MIX_CTL.COPY starts copying the active bank of every mode-1 region into the inactive bank (R264). -/
def execMixCopy (q : Req) (s : State) : Host.Outcome State Fault Refusal := run s (s.ctl q 0x50000 1)

/-- The bank copy completes and held T-space writes are applied (R264). -/
def execMixCopyEnd (s : State) : Host.Outcome State Fault Refusal := run s (s.copyEnd bMIX)

/-- MIX_CTL.SL_GO captures up to 16 safe-load pairs, or is refused or discarded (R265). -/
def execSlGo (count : Nat) (q : Req) (s : State) : Host.Outcome State Fault Refusal :=
  run s (s.ctl q 0x50000 (2 + count % 32 * 0x10000))

/-- At the next boundary the captured safe-load set applies and ramps (R265). -/
def execSafeLoadApply (s : State) : Host.Outcome State Fault Refusal := run s s.slApplyAll

/-- A deferred crossfade begins at the first boundary with a free slot (R250). -/
def execDeferredCrossfadeStart (j : Nat) (s : State) : Host.Outcome State Fault Refusal := run s (s.deferredStart j)

/-- A running crossfade ends and the pending change begins (R248). -/
def execCrossfadeEnd (j : Nat) (s : State) : Host.Outcome State Fault Refusal := run s (s.fadeEndAt j)

/-- ENG_CTL.CLEAR zeroes accumulators, conditions, Y ports and local memory at the next boundary (R283). -/
def execEngClear (e : Nat) (q : Req) (s : State) : Host.Outcome State Fault Refusal :=
  run s (s.onIndex e 8 (s.ctl q (engBase e + 4) 1))

/-- ENG_CTL.DCLR zeroes the engine's delay window from the next boundary (R281). -/
def execDclr (e : Nat) (q : Req) (s : State) : Host.Outcome State Fault Refusal :=
  run s (s.onIndex e 8 (s.ctl q (engBase e + 4) 2))

/-- Zeroing and its Z samples finish and DCLEARING clears (R281). -/
def execWindowZeroEnd (e : Nat) (s : State) : Host.Outcome State Fault Refusal := run s (s.onEng e (s.zeroEnd e))

/-- ENG_CTL.SL_GO captures a coefficient safe-load set for the next boundary (R285). -/
def execEngSlGo (e count : Nat) (q : Req) (s : State) : Host.Outcome State Fault Refusal :=
  run s (s.onIndex e 8 (s.ctl q (engBase e + 4) (4 + count % 32 * 0x10000)))

/-- ENG_CTL.COPY copies active coefficient banks into inactive ones (R285). -/
def execEngCopy (e : Nat) (q : Req) (s : State) : Host.Outcome State Fault Refusal :=
  run s (s.onIndex e 8 (s.ctl q (engBase e + 4) 8))

/-- A write of the ENG_LMDATA registers writes local memory while not RUNNING (R289). -/
def execLmDataWrite (e : Nat) (hi : Bool) (x : RegWrite) (s : State) : Host.Outcome State Fault Refusal :=
  run s (s.onIndex e 8 (s.regWrite (engBase e + (if hi then 0x88 else 0x84)) x))

/-- A read of ENG_LMDATA_HI completes a local memory read and advances the address (R289). -/
def execLmDataRead (e : Nat) (q : Req) (s : State) : Host.Outcome State Fault Refusal :=
  run s (s.onIndex e 8 (s.regRead q { grains := 0, ns0 := 0, ns1 := 0 } (engBase e + 0x88)))

/-- The data of a DRD or DRI reaches its destination at the sixth cycle after issue (R272). -/
def execPoolDataArrival (e : Nat) (s : State) : Host.Outcome State Fault Refusal := run s (s.onEng e (s.poolArrive e))

/-- An engine's coefficient bank copy completes, COPYING clears and held T-space writes are applied (R285). -/
def execEngCopyEnd (e : Nat) (s : State) : Host.Outcome State Fault Refusal := run s (s.onEng e (s.copyEnd (bENG e)))

end Sys2Proof.Machine
end

