-- ==== Sys2Proof/Machine/PairCmd.lean ====
section
/-! DEFINITION. Meanings of paired operation (R346 to R377). -/

namespace Sys2Proof.Machine

/-- PAIR_CTL.ENTER requests pair mode at the next boundary (R347). -/
def execEnter (q : Req) (s : State) : Host.Outcome State Fault Refusal := run s (s.ctl q 0x88008 1)

/-- At the next boundary the unit enters pair mode or refuses with a cause (R347). -/
def execPairModeEntry (s : State) : Host.Outcome State Fault Refusal := run s (s.onPair s.pairEntry)

/-- PAIR_CTL.RELEASE makes the holder stop driving and send RELEASE (R368). -/
def execRelease (q : Req) (s : State) : Host.Outcome State Fault Refusal := run s (s.ctl q 0x88008 2)

/-- PAIR_CTL.REPORT sends a STANDBY_REPORT (R360). -/
def execReport (q : Req) (s : State) : Host.Outcome State Fault Refusal := run s (s.ctl q 0x88008 4)

/-- PAIR_CTL.REFRESH makes the holder begin a refresh (R359). -/
def execRefresh (q : Req) (s : State) : Host.Outcome State Fault Refusal := run s (s.ctl q 0x88008 8)

/-- PAIR_CTL.UNDARK lets a dark unit accept newer grants again (R370). -/
def execUndark (q : Req) (s : State) : Host.Outcome State Fault Refusal := run s (s.ctl q 0x88008 16)

/-- A MIRROR block arrives and is kept or rewound on a bad CRC (R352). -/
def execMirrorBlockRx (bytes : List Byte) (oversize : Option Nat) (poison : Nat) (s : State) : Host.Outcome State Fault Refusal :=
  run s (s.onPair (s.mirrorRx bytes oversize poison))

/-- A STATUS block from the peer updates acknowledgements, link and peer state (R353). -/
def execStatusBlockRx (bytes : List Byte) (oversize : Option Nat) (poison : Nat) (s : State) : Host.Outcome State Fault Refusal :=
  run s (s.onPair (s.statusRx bytes oversize poison))

/-- A MIRROR block unacknowledged 2 µs after its end is repeated (R356). -/
def execBlockRepeat (x : BlockSend) (s : State) : Host.Outcome State Fault Refusal :=
  run s (s.onPair (s.blockRepeat x.block x.poison))

/-- The standby applies a complete mirror set at the first boundary after its last block (R357). -/
def execMirrorSetApply (s : State) : Host.Outcome State Fault Refusal := run s (s.onPair s.mirrorApply)

/-- No good block for HBLOSS ticks takes the Imluind link down (R353). -/
def execHeartbeatLoss (s : State) : Host.Outcome State Fault Refusal := run s (s.onPair s.heartbeatLoss)

/-- A received GRANT is accepted, adopted as the other unit's, or rejected (R361). -/
def execGrant (bytes : List Byte) (poison : Bool) (grains : Nat) (s : State) : Host.Outcome State Fault Refusal :=
  run s (s.onPair (if tabMsg bytes = 4 then s else s.tabletRx bytes poison grains))

/-- At the first boundary after acceptance the unit adopts the tablet and enters TAKEOVER (R362). -/
def execGrantAdopt (s : State) : Host.Outcome State Fault Refusal := run s (s.onPair s.grantAdopt)

/-- One tick after adoption the unit begins to drive and its outputs ramp up (R349). -/
def execDriveStart (s : State) : Host.Outcome State Fault Refusal := run s (s.onPair s.driveStart)

/-- Media position reaching E − T without renewal stops driving and enters STANDBY (R364). -/
def execSelfFence (s : State) : Host.Outcome State Fault Refusal := run s (s.onPair s.fenceCheck)

/-- A RELEASE from the signal box with DARK = 1 makes the unit DARK (R370). -/
def execReleaseRx (bytes : List Byte) (poison : Bool) (s : State) : Host.Outcome State Fault Refusal :=
  run s (s.onPair (if tabMsg bytes = 4 then s.tabletRx bytes poison 0 else s))

/-- The Imluind lane loses block lock, taking PAIR_STAT.LINK down at once (R353). -/
def execPairBlockLockLoss (s : State) : Host.Outcome State Fault Refusal := run s (s.onPair s.blockLockLoss)

end Sys2Proof.Machine
end

