-- ==== Sys2Proof/Machine/PortCmd.lean ====
section
/-! DEFINITION. Meanings of the Ethernet ports: MDIO, link, preemption, frames and pause (R84 to R113). -/

namespace Sys2Proof.Machine

/-- A write of PMU_MDIO_CMD queues a software MDIO transaction or is discarded with COLLIDE (R85). -/
def execMdioCommand (x : RegWrite) (s : State) : Host.Outcome State Fault Refusal := run s (s.regWrite 0x3104 x)

/-- An MDIO transaction ends; for software DONE is set and MDIO_DONE raised (R85). -/
def execMdioDone (v : Nat) (s : State) : Host.Outcome State Fault Refusal := runPowered s (s.mdioDone v)

/-- Every INTERVAL ms the port reads the PHY link bit into PHY_LINK (R86). -/
def execPhyPoll (p ms : Nat) (s : State) : Host.Outcome State Fault Refusal :=
  runPowered s (s.onPort p (s.phyPoll p ms))

/-- MAC_CTL.RETRAIN runs the script for the running rung and relinks (R87). -/
def execRetrain (p : Nat) (q : Req) (s : State) : Host.Outcome State Fault Refusal :=
  run s (s.onIndex p 2 (s.ctl q (macBase p + 4) 2))

/-- MAC_CTL.REVERIFY restarts preemption verification (R97). -/
def execReverify (p : Nat) (q : Req) (s : State) : Host.Outcome State Fault Refusal :=
  run s (s.onIndex p 2 (s.ctl q (macBase p + 4) 1))

/-- MAC_CTL.HOLD_END ends the pause watchdog hold (R103). -/
def execHoldEnd (p : Nat) (q : Req) (s : State) : Host.Outcome State Fault Refusal :=
  run s (s.onIndex p 2 (s.ctl q (macBase p + 4) 4))

/-- A script write not issued within 10 ms sets MDIO_ERR and RETRAIN_FAIL and the port stays down (R87). -/
def execRetrainFail (p : Nat) (s : State) : Host.Outcome State Fault Refusal := runPowered s (s.onPort p (s.retrainFail p))

/-- EN, lane lock and PHY link all hold: LINK rises and MAC_LINK is raised (R88). -/
def execLinkUp (p : Nat) (s : State) : Host.Outcome State Fault Refusal := runPowered s (s.onPort p (s.linkUp p))

/-- The port goes down: queued frames discarded, frame in flight cut off, pause and verification reset (R91). -/
def execLinkDown (p : Nat) (s : State) : Host.Outcome State Fault Refusal := runPowered s (s.onPort p (s.linkDown p))

/-- Every VERIFY_TIME ms a verify mPacket is sent, up to three times (R97). -/
def execVerifySend (p : Nat) (s : State) : Host.Outcome State Fault Refusal := run s (s.onPort p (s.verifySend p))

/-- A verify response activates preemption (R97). -/
def execVerifyResponse (p : Nat) (s : State) : Host.Outcome State Fault Refusal :=
  run s (s.onPort p (s.verifyResponse p))

/-- At a start point the port starts the first eligible frame in queue order (R92). -/
def execFrameTxStart (p octets bad : Nat) (i : Instant) (s : State) : Host.Outcome State Fault Refusal :=
  run s (s.onPort p (s.frameStart p octets bad i))

/-- A host fragment is closed with its mCRC once the limits allow, so an eligible express frame can go (R98). -/
def execPreemption (p octets sent : Nat) (s : State) : Host.Outcome State Fault Refusal :=
  run s (s.onPort p ((s.creditRun p octets).preempt p sent))

/-- A frame finishes on the wire; counters update and a host frame completes OK (R210). -/
def execFrameTxEnd (x : PortTime) (s : State) : Host.Outcome State Fault Refusal :=
  run s (s.onPort x.port (s.frameSent x.port x.octets))

/-- A received frame is checked, committed or rewound in the receive siding, and classified (R105). -/
def execFrameRx (p : Nat) (x : RxFrame) (s : State) : Host.Outcome State Fault Refusal :=
  runPowered s (s.onPort p (s.frameRx p x).holdChecks)

/-- A received PAUSE stops the host queues, or all queues in strict mode (R100). -/
def execPauseRx (p quanta : Nat) (s : State) : Host.Outcome State Fault Refusal :=
  run s (s.onPort p (if (s.mac p).up then s.pauseRx p quanta else s))

/-- A received PFC frame stops the queues matching the named priorities (R100). -/
def execPfcRx (p enables : Nat) (times : List Nat) (s : State) : Host.Outcome State Fault Refusal :=
  run s (s.onPort p (if (s.mac p).up then s.pfcRx p enables times else s))

/-- A queue's pause time runs out and the queue restarts (R102). -/
def execPauseExpiry (p k : Nat) (pfc : Bool) (s : State) : Host.Outcome State Fault Refusal :=
  run s (s.onPort p (s.modMac p (fun m => m.expire k pfc)))

/-- A queue stopped for MAC_PAUSE_WD µs makes the watchdog end every stop and start a hold (R103). -/
def execPauseBroken (p : Nat) (s : State) : Host.Outcome State Fault Refusal := run s (s.onPort p (s.pauseBreak p))

/-- The watchdog hold of MAC_PAUSE_HOLD ms ends (R103). -/
def execPauseHoldExpiry (p : Nat) (s : State) : Host.Outcome State Fault Refusal :=
  run s (s.onPort p (s.modMac p (fun m => { m with hold := false })))

end Sys2Proof.Machine
end

