-- ==== Sys2Proof/Machine/PwrCmd.lean ====
section
/-! DEFINITION. Meanings of the loudspeaker power stage (R316 to R345). -/

namespace Sys2Proof.Machine

/-- PWR_WCTL.ARM_A or ARM_B arms a power channel at the next boundary (R327). -/
def execPwrWctlArm (c : Nat) (q : Req) (s : State) : Host.Outcome State Fault Refusal :=
  run s (s.onIndex c 2 (s.ctl q 0x80000 (2 ^ c)))

/-- PWR_WCTL.STOP_A or STOP_B stops a power channel at the next boundary (R328). -/
def execPwrWctlStop (c : Nat) (q : Req) (s : State) : Host.Outcome State Fault Refusal :=
  run s (s.onIndex c 2 (s.ctl q 0x80000 (4 * 2 ^ c)))

/-- PWR_WCTL.RETRY_NOW brings a pending retry forward to the next boundary (R332). -/
def execRetryNow (c : Nat) (q : Req) (s : State) : Host.Outcome State Fault Refusal :=
  run s (s.onIndex c 2 (s.ctl q 0x80000 (16 * 2 ^ c)))

/-- A 40 ms diagnostic run ends and passes to CM_UP or faults with cause DIAG (R330). -/
def execDiagEnd (c res r : Nat) (s : State) : Host.Outcome State Fault Refusal := run s (s.onCh c (s.diagEnd c res r))

/-- The common-mode ramp up reaches PVDD/2 (R327). -/
def execCmRampEnd (c : Nat) (s : State) : Host.Outcome State Fault Refusal := run s (s.onCh c (s.cmUpEnd c))

/-- At the first boundary after the ramp the channel enters RUN and its mute stage ramps up (R327). -/
def execRunEntry (c : Nat) (s : State) : Host.Outcome State Fault Refusal := run s (s.onCh c (s.runEntry c))

/-- A stopping channel's audio ramp ends and the common-mode ramp down begins (R328). -/
def execAudioRampDownEnd (c : Nat) (s : State) : Host.Outcome State Fault Refusal := run s (s.onCh c (s.audioDown c))

/-- The common mode reaches 0 V and the channel enters OFF (R328). -/
def execCmRampDownEnd (c : Nat) (s : State) : Host.Outcome State Fault Refusal := run s (s.onCh c (s.cmDown c))

/-- Sixteen consecutive limited cycles take the channel to Hi-Z in FAULT with cause OC (R331). -/
def execPwrOc (c : Nat) (s : State) : Host.Outcome State Fault Refusal := run s (s.onCh c (s.pwrOc c))

/-- INTERVAL ms after a fault the channel retries with diagnostics (R332). -/
def execPwrRetry (c : Nat) (s : State) : Host.Outcome State Fault Refusal := run s (s.onCh c (s.pwrRetry c))

/-- A channel running 1 s without fault clears its retry count (R332). -/
def execRetrySuccess (c : Nat) (s : State) : Host.Outcome State Fault Refusal := run s (s.onCh c (s.retryOk c))

/-- Die at 140 °C takes the channel to Hi-Z in FAULT with cause THERMAL (R334). -/
def execPwrTherm (c : Nat) (t : Int) (s : State) : Host.Outcome State Fault Refusal := run s (s.onCh c (s.pwrTherm c t))

/-- PVDD out of range takes active channels to Hi-Z in FAULT with cause PVDD (R336). -/
def execPwrPvdd (mv : Nat) (s : State) : Host.Outcome State Fault Refusal := run s (s.onPower (s.pwrPvdd mv))

/-- PVDD in range for 100 ms restarts the channel from diagnostics (R336). -/
def execPvddRestore (mv : Nat) (s : State) : Host.Outcome State Fault Refusal := run s (s.onPower (s.pvddBack mv))

/-- PVDD below PVDD_MIN ramps the mute stage down and raises PWR_BATT (R337). -/
def execBattMute (c mv : Nat) (s : State) : Host.Outcome State Fault Refusal := run s (s.onCh c (s.battMuteOn c mv))

/-- PVDD at or above PVDD_MIN + 0.5 V for 100 ms ramps the mute stage up (R337). -/
def execBattUnmute (c mv : Nat) (s : State) : Host.Outcome State Fault Refusal := run s (s.onCh c (s.battMuteOff c mv))

/-- Signal below −90 dBFS for 100 ms enters idle modulation (R322). -/
def execIdleEntry (c : Nat) (s : State) : Host.Outcome State Fault Refusal := run s (s.onCh c (s.idleEntry c))

/-- An estimate held at a bound for 10 s sets AT_BOUND and raises PWR_MODEL (R339). -/
def execPwrModel (c k : Nat) (s : State) : Host.Outcome State Fault Refusal := run s (s.onCh c (s.pwrModel c k))

/-- A power-die register transfer failing CRC or unacknowledged in 2 µs is retried; 16 failures hard-stop the link
(R343). -/
def execLinkTransferFail (s : State) : Host.Outcome State Fault Refusal := run s (s.onPower s.linkFail)

/-- No valid link frame for 100 µs makes the power die take both channels to Hi-Z (R342). -/
def execPowerDieSelfProtect (s : State) : Host.Outcome State Fault Refusal := run s (s.onPower s.selfProtect)

/-- A power-die register word failing parity takes its channels to Hi-Z and is reloaded (R345). -/
def execRegpar (o : Nat) (s : State) : Host.Outcome State Fault Refusal := run s (s.onPower (s.regpar o))

/-- A channel's die temperature rising above FOLD lowers its thermal gain, setting FOLD and raising PWR_THERM on the
first reduction (R334). -/
def execThermalFoldback (c : Nat) (t : Int) (s : State) : Host.Outcome State Fault Refusal :=
  run s (s.onCh c (s.foldback c t))

/-- PVDD falling below KNEE lowers the battery gain, setting BATT on the first reduction (R337). -/
def execBatteryLimit (c mv : Nat) (s : State) : Host.Outcome State Fault Refusal :=
  run s (s.onCh c (s.batteryLimit c mv))

end Sys2Proof.Machine
end

