-- ==== Sys2Proof/Machine/RegCmd.lean ====
section
/-! DEFINITION. Meanings of register writes and reads with their bus errors, the locks, T-space and the configuration
CRC (R378 to R397). -/

namespace Sys2Proof.Machine

/-- A write to a register with no row of its own, through the normal view or an alias, applied according to the
access kind of each field (R383). -/
def execRegisterWrite (x : Access) (s : State) : Host.Outcome State Fault Refusal := run s (s.accessWrite x)

/-- A normal-view read of an RC field or counter returns the value and clears exactly the bits returned (R386). -/
def execClearOnRead (x : Access) (i : Instant) (s : State) : Host.Outcome State Fault Refusal := run s (s.accessRead x i)

/-- A read of a latching register copies its partner words into the requester's shadow (R387). -/
def execLatchingRead (x : Access) (i : Instant) (s : State) : Host.Outcome State Fault Refusal :=
  run s (s.accessRead x i)

/-- A write of a group mask takes snapshots of the staged values, which apply at the next tick boundary (R13). -/
def execRcuStrobe (x : RegWrite) (s : State) : Host.Outcome State Fault Refusal := run s (s.regWrite 0x1004 x)

/-- A write to RCU_GRPMAP moves blocks between strobe groups at once, keeping their staged values (R11). -/
def execGrpmapWrite (n : Nat) (x : RegWrite) (s : State) : Host.Outcome State Fault Refusal :=
  run s (s.regAt n 5 (0x1020 + 4 * n) x)

/-- A write to RCU_LOCK sets the locks written as 1 until device reset (R392). -/
def execRcuLockWrite (x : RegWrite) (s : State) : Host.Outcome State Fault Refusal := run s (s.regWrite 0x1040 x)

/-- A write to RCU_CRC_REF arms comparison, lifts any mismatch and its mute, and restarts the comparison (R397). -/
def execCrcRefWrite (x : RegWrite) (s : State) : Host.Outcome State Fault Refusal := run s (s.regWrite 0x1060 x)

/-- A write of RCU_IND_DATA writes the T-space word at RCU_IND_ADDR and optionally advances the address (R394). -/
def execIndDataWrite (x : RegWrite) (s : State) : Host.Outcome State Fault Refusal := run s (s.regWrite 0x1054 x)

/-- A read of RCU_IND_DATA returns the T-space word at RCU_IND_ADDR once available and optionally advances the
address (R394). -/
def execIndDataRead (q : Req) (i : Instant) (s : State) : Host.Outcome State Fault Refusal :=
  run s (s.regRead q i 0x1054)

/-- The single permitted write of PAIR_ROLE sets UNIT and PID and locks the register (R346). -/
def execPairRoleWrite (x : RegWrite) (s : State) : Host.Outcome State Fault Refusal := run s (s.regWrite 0x88000 x)

/-- The single permitted write of PCI_SUBID sets the subsystem IDs and locks the register (R197). -/
def execPciSubidWrite (x : RegWrite) (s : State) : Host.Outcome State Fault Refusal := run s (s.regWrite 0x7000 x)

/-- A write naming a unit in hard stop requests its reset at the next tick boundary (R240). -/
def execRcuBrst (x : RegWrite) (s : State) : Host.Outcome State Fault Refusal := run s (s.regWrite 0x10C4 x)

/-- At the tick boundary after RCU_BRST the unit's sidings are emptied, its state cleared and its hard-stop bit
cleared (R240). -/
def execBlockReset (s : State) : Host.Outcome State Fault Refusal := run s s.blockReset

/-- A complete configuration CRC pass writes RCU_CRC_LAST and updates MATCH (R396). -/
def execCrcPassEnd (parity : Bool) (s : State) : Host.Outcome State Fault Refusal := run s (s.passEnd parity)

/-- A write of EVT_MASK applies at once and unmasked raised sources become pending (R405). -/
def execMaskWrite (k : Nat) (x : RegWrite) (s : State) : Host.Outcome State Fault Refusal :=
  run s (s.regAt k 3 (0x2010 + 4 * k) x)

end Sys2Proof.Machine
end

