-- ==== Sys2Proof/Machine/SapCmd.lean ====
section
/-! DEFINITION. Meanings of the serial audio ports and the rate converters (R290 to R315). -/

namespace Sys2Proof.Machine

/-- SAP_CTL.START starts the port at the next boundary as a SAP_START would (R301). -/
def execSapCtlStart (p : Nat) (q : Req) (s : State) : Host.Outcome State Fault Refusal :=
  run s (s.onIndex p 8 (s.ctl q (sapBase p + 4) 1))

/-- SAP_CTL.STOP begins the port's stop ramp at the next boundary (R300). -/
def execSapCtlStop (p : Nat) (q : Req) (s : State) : Host.Outcome State Fault Refusal :=
  run s (s.onIndex p 8 (s.ctl q (sapBase p + 4) 2))

/-- SAP_CTL.RESTART fades, flushes and resumes the port from its next boundary (R306). -/
def execSapCtlRestart (p : Nat) (q : Req) (s : State) : Host.Outcome State Fault Refusal :=
  run s (s.onIndex p 8 (s.ctl q (sapBase p + 4) 4))

/-- Every 64 frames the port classifies its rate and adopts a new class on two agreements (R298). -/
def execSapRatechg (p cls : Nat) (s : State) : Host.Outcome State Fault Refusal :=
  run s (s.onSap p (s.sapClass p cls))

/-- Once a second SAP_RATE is updated from frames timed on xo (R299). -/
def execSapRateUpdate (p rate : Nat) (s : State) : Host.Outcome State Fault Refusal :=
  run s (s.onSap p (s.sapRateSet p rate))

/-- A slave's missing bit clock or frame sync, or wrong class, mutes the port and opens its window (R302). -/
def execSapClkloss (p cause : Nat) (s : State) : Host.Outcome State Fault Refusal :=
  run s (s.onSap p (s.sapClkLoss p cause))

/-- A lost clock agreeing again on its rate triggers a restart (R303). -/
def execSapClockReturn (p : Nat) (s : State) : Host.Outcome State Fault Refusal := run s (s.onSap p (s.sapClkBack p))

/-- A frame sync at a wrong bit count realigns the shift logic and counts as a slip (R304). -/
def execFramingError (p : Nat) (s : State) : Host.Outcome State Fault Refusal := run s (s.onSap p (s.sapSlip p 3))

/-- After its fade a restarting port or alignment group resumes at the next boundary and ramps up (R306). -/
def execSapResume (p : Nat) (s : State) : Host.Outcome State Fault Refusal := run s (s.onSap p (s.sapResume p))

/-- A port's stop ramp ends and the port stops (R300). -/
def execSapStopEnd (p : Nat) (s : State) : Host.Outcome State Fault Refusal := run s (s.onSap p (s.sapStopEnd p))

/-- The ramp up after a restart ends and closes the port's recovery window (R308). -/
def execSapRampUpEnd (p : Nat) (s : State) : Host.Outcome State Fault Refusal := run s (s.onSap p (s.sapRampEnd p))

/-- A rate tracker reaches LOCKED after settling (R313). -/
def execTrackerLock (p ratio : Nat) (s : State) : Host.Outcome State Fault Refusal :=
  run s (s.onTrk p (s.trkLock p ratio))

/-- A tracker falls from LOCKED to ACQUIRE and raises ASRC_UNLOCK (R313). -/
def execAsrcUnlock (p : Nat) (s : State) : Host.Outcome State Fault Refusal := run s (s.onTrk p (s.trkUnlock p))

/-- A tracker enters RANGE and raises ASRC_RANGE (R313). -/
def execAsrcRange (p : Nat) (s : State) : Host.Outcome State Fault Refusal := run s (s.onTrk p (s.trkRange p))

/-- A channel with a locked tracker and a full filter fades in over 32 samples (R314). -/
def execAsrcFadeIn (n : Nat) (s : State) : Host.Outcome State Fault Refusal := run s (s.asrcFadeIn n)

end Sys2Proof.Machine
end

