-- ==== Sys2Proof/Machine/StreamCmd.lean ====
section
/-! DEFINITION. Meanings of streams and the dual-path combiner (R114 to R183). -/

namespace Sys2Proof.Machine

/-- STX_CTL.STOP_ALL stops every transmit context at the next boundary (R133). -/
def execStxStopAll (q : Req) (s : State) : Host.Outcome State Fault Refusal := run s (s.ctl q 0x30000 1)

/-- After WAIT ticks a waiting group starts anyway and members without data enter underrun (R156). -/
def execGroupTimeout (g : Nat) (s : State) : Host.Outcome State Fault Refusal := run s (s.groupTimeout g)

/-- SRX_CTL.STOP_ALL stops every receive context at the next boundary (R161). -/
def execSrxStopAll (q : Req) (s : State) : Host.Outcome State Fault Refusal := run s (s.ctl q 0x34000 1)

/-- After the 32-sample stop fade the context stops and its jitter sidings empty (R161). -/
def execSrxStopEnd (c : Nat) (s : State) : Host.Outcome State Fault Refusal := run s (s.srxStopEnd c).shiftCheck

/-- No accepted copy for RESET ms resets the recovery window (R169). -/
def execWindowReset (c : Nat) (s : State) : Host.Outcome State Fault Refusal := run s (s.windowReset c)

/-- No copy on a path for LOSS ms makes the path DOWN (R173). -/
def execPathLoss (c p : Nat) (s : State) : Host.Outcome State Fault Refusal :=
  run s (if p < 2 then (s.pathLoss c p).holdChecks else s)

/-- An impaired path with no miss for HEALTH × 10 ms becomes HEALTHY (R173). -/
def execPathHealthy (c p : Nat) (s : State) : Host.Outcome State Fault Refusal :=
  run s (if p < 2 then (s.pathHealthy c p).shiftCheck else s)

/-- Each second DPC measures utilisations and updates eligibility and hold counts (R176). -/
def execUtilisationSecond (s : State) : Host.Outcome State Fault Refusal := run s s.dpcSecond

/-- A hold count reaching HOLD orders a one-rung downshift at the next boundary (R176). -/
def execDownshift (s : State) : Host.Outcome State Fault Refusal := run s (s.onDpc s.downshift)

/-- DPC_CTL.DS_NOW_A or DS_NOW_B orders a downshift or is refused with DS_REFUSED (R176). -/
def execDsNow (p : Nat) (q : Req) (s : State) : Host.Outcome State Fault Refusal :=
  run s (s.onIndex p 2 (s.ctl q 0x38004 (2 ^ p)))

/-- DPC_CTL.CLR_HOLD sets the hold counts to 0 (R176). -/
def execClrHold (q : Req) (s : State) : Host.Outcome State Fault Refusal := run s (s.ctl q 0x38004 4)

/-- An upshift required by reservations begins at the first boundary with no change on the other port (R179). -/
def execReservationUpshift (p : Nat) (s : State) : Host.Outcome State Fault Refusal :=
  run s (s.onPort p (s.reservationUp p))

end Sys2Proof.Machine
end

