-- ==== Sys2Proof/Machine/SynCmd.lean ====
section
/-! DEFINITION. Meanings of xo, the SerDes PLLs and the fenced relock (R68 to R83). -/

namespace Sys2Proof.Machine

/-- No xo edge for four aon periods: outputs Hi-Z, ports stop, and the device restarts from POR (R71). -/
def execXoLoss (s : State) : Host.Outcome State Fault Refusal := runPowered s s.xoLoss

/-- A SerDes or PCIe PLL is within ±100 ppm for two 1 ms windows and declares lock (R70). -/
def execSerdesPllLock (lane : Nat) (s : State) : Host.Outcome State Fault Refusal :=
  runPowered s (if lane < 4 && s.serdesUsed lane then s.setSerdes lane true else s)

/-- A SerDes PLL loses lock, its port or link goes down and SERDES_UNLOCK is set (R70). -/
def execSerdesUnlock (lane : Nat) (s : State) : Host.Outcome State Fault Refusal := runPowered s (s.serdesLoss lane)

/-- A media PLL loses lock outside RELOCK; a fenced relock follows at the next boundary (R80). -/
def execSynUnlock (s : State) : Host.Outcome State Fault Refusal := run s s.mpllLoss

/-- A write of SYN_CTL.RELOCK requests a fenced relock (R76). -/
def execRelock (q : Req) (s : State) : Host.Outcome State Fault Refusal := run s (s.ctl q 0x28004 1)

/-- At a boundary a fenced relock begins: the fence moves to holdover and sinks ramp to mute (R76). -/
def execSynRelock (s : State) : Host.Outcome State Fault Refusal := run s s.relockNow

/-- The relock mute ramp ends and step 3 begins: PLL reloaded, detector discharged (R77). -/
def execRelockRampDownEnd (s : State) : Host.Outcome State Fault Refusal := run s s.rampDownEnd

/-- The media PLL lock detector declares lock and the counter check starts (R74). -/
def execMpllLock (s : State) : Host.Outcome State Fault Refusal := run s s.mpllUp

/-- The 25 000-cycle counter check ends, passing or failing, with its count in SYN_MCNT (R77). -/
def execCounterCheckEnd (n : Nat) (s : State) : Host.Outcome State Fault Refusal := run s (s.counterEnd n)

/-- Step 3 exceeds TIMEOUT and is retried or abandoned (R79). -/
def execRelockTimeout (s : State) : Host.Outcome State Fault Refusal := run s s.step3Timeout

/-- At the next boundary after a passed check the fence switches back to the PLL and the ramp up starts (R77). -/
def execFenceSwitchBack (s : State) : Host.Outcome State Fault Refusal := run s s.fenceBack

/-- The ramp up ends and MCR leaves RELOCK (R77). -/
def execRelockEnd (pos : Nat) (s : State) : Host.Outcome State Fault Refusal := run s (s.atBoundary pos s.relockOver)

/-- Once xo has run for 5 ms after a loss, the digital die leaves reset and starts as from POR (R71). -/
def execXoReturn (x : Straps) (s : State) : Host.Outcome State Fault Refusal := done (s.xoReturn x)

end Sys2Proof.Machine
end

