-- ==== Sys2Proof/Machine/SysCmd.lean ====
section
/-! DEFINITION. Meanings of start-up, resets, supplies, temperature, sleep, the management core and the SPI slave
(R231, R413, R418 to R432). -/

namespace Sys2Proof.Machine

/-- Die above 115 °C sets PMU_FLAGS.THERMAL and raises THERMAL (R231). -/
def execThermal (t : Int) (s : State) : Host.Outcome State Fault Refusal := runPowered s (s.thermal t)

/-- Die above 135 °C mutes every sink over 1 ms and holds the die in reset (R231). -/
def execOvertemp (t : Int) (s : State) : Host.Outcome State Fault Refusal := runPowered s (s.overtemp t)

/-- Die below 110 °C releases the reset and the part starts as from POR (R231). -/
def execOvertempRelease (t : Int) (x : Straps) (s : State) : Host.Outcome State Fault Refusal :=
  done (s.overtempRelease t x)

/-- The 100 ms watchdog restarts the management core from flash and flushes the mailboxes (R231). -/
def execMgtWatchdog (s : State) : Host.Outcome State Fault Refusal := run s s.mgtWatchdog

/-- VIN valid runs the power-on sequence through xo, PLL, SRAM BIST and firmware load (R418). -/
def execPowerOn (x : Straps) (s : State) : Host.Outcome State Fault Refusal := done (s.powerOn x)

/-- The management core finishes loading firmware from flash or ROM and sets READY (R425). -/
def execFirmwareReady (x : FwImage) (s : State) : Host.Outcome State Fault Refusal := run s (s.firmwareReady x)

/-- A RESET_N low of at least 10 µs resets the device (R419). -/
def execResetN (us : Nat) (seen : Bool) (s : State) : Host.Outcome State Fault Refusal := done (s.resetN us seen)

/-- A fall of VIO_A or VIO_B sets SUPPLY and raises THERMAL with no reset (R423). -/
def execVioFall (b : Nat) (s : State) : Host.Outcome State Fault Refusal := done (s.vioFall b)

/-- PMU_SLEEP.ENTER starts the sleep entry at the next boundary (R430). -/
def execSleepEnter (q : Req) (s : State) : Host.Outcome State Fault Refusal := run s (s.ctl q 0x3010 1)

/-- A wake match, GPIO edge, RESET_N or POR wakes the part as a device reset (R431). -/
def execWake (w : WakeBy) (x : Straps) (s : State) : Host.Outcome State Fault Refusal := runPowered s (s.wake w x)

/-- A write of MGT_DBELL tells the core an item waits in MB0 or MB2 (R428). -/
def execMgtDbell (x : RegWrite) (s : State) : Host.Outcome State Fault Refusal := run s (s.regWrite 0x400C x)

/-- Mailbox request returning the firmware version and image CRC (R428). -/
def execGetVersion (s : State) : Host.Outcome State Fault Refusal := run s s.getVersion

/-- Mailbox request returning flash words in MB1 (R428). -/
def execFlashRead (fail : Bool) (s : State) : Host.Outcome State Fault Refusal := run s (s.flashRead fail)

/-- Mailbox request writing flash from an MB2 item (R428). -/
def execFlashWrite (busy fail : Bool) (s : State) : Host.Outcome State Fault Refusal := run s (s.flashWrite busy fail)

/-- Mailbox request erasing flash sectors (R428). -/
def execFlashErase (busy fail : Bool) (s : State) : Host.Outcome State Fault Refusal := run s (s.flashErase busy fail)

/-- Mailbox request setting the firmware role (R428). -/
def execRole (s : State) : Host.Outcome State Fault Refusal := run s s.mgtRole

/-- Mailbox request that restarts the core from flash after replying (R428). -/
def execReboot (s : State) : Host.Outcome State Fault Refusal := run s s.mgtReboot

/-- An SPI slave write frame reaches a mailbox or a translated GT20 register (R427). -/
def execMsWrite (a : Nat) (d : Word) (gt20 : List (Nat × Word)) (s : State) : Host.Outcome State Fault Refusal :=
  run s (s.msWrite a d gt20)

/-- An SPI slave read frame returns a mailbox word, status or GT20 register (R427). -/
def execMsRead (a : Nat) (gt20 : Option Nat) (s : State) : Host.Outcome State Fault Refusal := run s (s.msRead a gt20)

/-- The scrub finds an ECC error, corrects and writes back or records it (R413). -/
def execScrubError (fixable : Bool) (a : Nat) (s : State) : Host.Outcome State Fault Refusal :=
  run s (s.scrubError fixable a)

/-- A fallen VIO bank recovers, its level is sampled again and its pins become defined (R435). -/
def execVioRecovery (b : Nat) (v18 : Bool) (s : State) : Host.Outcome State Fault Refusal := done (s.vioRecover b v18)

/-- VIN, VCORE or VSERDES falling below its limit puts the device into power-on reset (R423). -/
def execVinInvalid (k : Nat) (s : State) : Host.Outcome State Fault Refusal := done (s.vinInvalid k)

/-- RESET_N rising releases a recognised device reset, the straps are sampled and the start sequence runs (R419). -/
def execResetNRelease (x : Straps) (s : State) : Host.Outcome State Fault Refusal := done (s.resetRelease x)

end Sys2Proof.Machine
end

