-- ==== Sys2Proof/Machine/TickCmd.lean ====
section
/-! DEFINITION. Meanings of the tick boundary, adoptions outside it, and the timetable (R15, R31 to R43). -/

namespace Sys2Proof.Machine

/-- Media position reaches a multiple of T, and the data plane advances one tick (R31). -/
def execTickBoundary (x : TickIn) (s : State) : Host.Outcome State Fault Refusal := run s (s.tick x)

/-- A serial port adopts its applied values at the first frame sync after the boundary (R296). -/
def execSapAdopt (p : Nat) (s : State) : Host.Outcome State Fault Refusal := run s (s.onSap p (s.sapAdopt p))

/-- The power die adopts values at the first PWM cycle at least 2 µs after the boundary once they have crossed the
link (R15). -/
def execPwrAdopt (s : State) : Host.Outcome State Fault Refusal := run s (s.onPower s.pwrAdopt)

/-- A tick-length change is adopted at the first boundary that is a multiple of 32 samples (R32). -/
def execTickLengthAdopt (s : State) : Host.Outcome State Fault Refusal := run s s.tickAdopt

/-- A write to a departure register applies at once, or is discarded with WHILE_ARMED if armed (R35). -/
def execDepartureWrite (d n : Nat) (x : RegWrite) (s : State) : Host.Outcome State Fault Refusal :=
  run s (if n < 6 then s.regAt d 64 (depBase d + 4 * n) x else s)

/-- A write of TT_DCTL.ARM = 1 checks and arms a departure or refuses it with a cause (R37). -/
def execArm (d : Nat) (q : Req) (s : State) : Host.Outcome State Fault Refusal :=
  run s (if d < 64 then s.ctl q (depBase d + 0x18) 1 else s)

/-- A write of TT_DCTL.ARM = 0 disarms a departure (R37). -/
def execDisarm (d : Nat) (q : Req) (s : State) : Host.Outcome State Fault Refusal :=
  run s (if d < 64 then s.ctl q (depBase d + 0x18) 0 else s)

/-- A write of TT_CTL.DISARM_ALL disarms every departure at once (R35). -/
def execDisarmAll (q : Req) (s : State) : Host.Outcome State Fault Refusal := run s (s.ctl q 0x2C004 1)

end Sys2Proof.Machine
end

