-- ==== Sys2Proof/Machine/TimeCmd.lean ====
section
/-! DEFINITION. Meanings of time synchronisation and media clock recovery (R44 to R67, R446). -/

namespace Sys2Proof.Machine

/-- A PTP message classified to TIM is processed by its instance (R45). -/
def execPtpFrameRx (p i : Nat) (x : PtpRx) (s : State) : Host.Outcome State Fault Refusal :=
  run s (s.onInst i (s.onPort p (s.ptpArrive p i x).holdChecks))

/-- At each Sync interval a master port of an instance sends Sync (R45). -/
def execSyncTx (i p : Nat) (s : State) : Host.Outcome State Fault Refusal :=
  run s (s.onInst i (s.onPort p (s.syncTx i p)))

/-- At each Announce interval an instance sends Announce with its grandmaster values (R49). -/
def execAnnounceTx (i p : Nat) (s : State) : Host.Outcome State Fault Refusal :=
  run s (s.onInst i (s.onPort p (s.announceTx i p)))

/-- No Sync for three intervals takes the instance out of SYNCED (R60). -/
def execSyncReceiptTimeout (i : Nat) (s : State) : Host.Outcome State Fault Refusal :=
  run s (s.onInst i (s.leaveSynced i))

/-- No Announce for three intervals takes the instance out of SYNCED and reruns the BMCA (R60). -/
def execAnnounceReceiptTimeout (i : Nat) (x : Bmca) (s : State) : Host.Outcome State Fault Refusal :=
  run s (s.onInst i ((s.leaveSynced i).bmcaTake i x).holdChecks)

/-- TIM_CTL.SET loads the set registers into an instance's time, or is refused with SET_REFUSED (R51). -/
def execTimeSet (i : Nat) (q : Req) (s : State) : Host.Outcome State Fault Refusal :=
  run s (s.onInst i (s.ctl q 0x20004 (1 + 2 * i)))

/-- A PPS_IN rising edge is timestamped and raises TIM_PPS_IN (R49). -/
def execPpsInEdge (x : XoInstant) (s : State) : Host.Outcome State Fault Refusal := run s (s.ppsEdge x.ns x.inst)

/-- PPS_OUT rises at each whole second of its source, shifted by TIM_PPS_ADJ (R52). -/
def execPpsOut (s : State) : Host.Outcome State Fault Refusal := run s s.ppsRise

/-- A Sync-derived time, CRF or stream packet, or WCLK or SAP frame-sync edge gives the servo a phase error (R56). -/
def execReferenceUpdate (edge : Option Instant) (rate : Nat) (need : Int) (s : State) : Host.Outcome State Fault Refusal :=
  run s (s.refUpdate (refIn edge rate need) s.refContext s.refSlave)

/-- At the next boundary after first qualification media position is set to the phase target and RATE_OK becomes 1
(R57). -/
def execMediaPositionSet (pos : Nat) (s : State) : Host.Outcome State Fault Refusal := run s (s.atBoundary pos s.positionSet)

/-- At the first boundary after MODE 5 is adopted MCR enters LOCKED and sets media position if RATE_OK is 0 (R58). -/
def execMasterModeEntry (s : State) : Host.Outcome State Fault Refusal := run s s.masterEntry

/-- After 1 s in ACQUIRE with small phase MCR enters LOCKED (R56). -/
def execMcrLock (s : State) : Host.Outcome State Fault Refusal := run s s.lockNow

/-- After 100 ms with phase above four times the threshold MCR returns to ACQUIRE (R56). -/
def execLockLost (s : State) : Host.Outcome State Fault Refusal := run s s.lockLost

/-- No valid update for MCR_LOSS ms, or the instance leaving SYNCED, loses the reference (R60). -/
def execReferenceLoss (s : State) : Host.Outcome State Fault Refusal := run s s.refLossDue

/-- At the next boundary after loss MCR switches to the other SYNCED instance (R60). -/
def execFailover (s : State) : Host.Outcome State Fault Refusal := run s s.failover

/-- A needed frequency outside the window for 100 ms requests a fenced relock with a new centre (R59). -/
def execWindowMove (centre : Int) (s : State) : Host.Outcome State Fault Refusal := run s (s.windowMove centre)

/-- The slew or correction reaches 0 and MCR enters LOCKED (R63). -/
def execSlewComplete (s : State) : Host.Outcome State Fault Refusal := run s s.slewEnd

/-- At the next boundary after a declared discontinuity every sink starts its mute ramp (R65). -/
def execStepRampDown (s : State) : Host.Outcome State Fault Refusal := run s s.stepRamp

/-- At the end of the ramp media position steps by the rounded jump, and the sinks ramp up (R65). -/
def execMcrStep (s : State) : Host.Outcome State Fault Refusal := run s s.stepNow

/-- WIDTH µs after PPS_OUT rises, the pulse ends and the pin returns to its idle level (R52). -/
def execPpsOutPulseEnd (s : State) : Host.Outcome State Fault Refusal := run s s.ppsFall

/-- At its interval a PTP port sends a Pdelay_Req (peer-to-peer) or Delay_Req (delay request-response) to measure
path delay (R45). -/
def execPathDelayReqTx (i p : Nat) (s : State) : Host.Outcome State Fault Refusal :=
  run s (s.onInst i (s.onPort p (s.delayTx i p)))

end Sys2Proof.Machine
end

