-- ==== Sys2Proof/Machine/Dispatch.lean ====
section
/-! DEFINITION. One arm for every command: each calls the meaning of its row. -/

namespace Sys2Proof.Machine

def exec (i : Instr) (s : State) : Host.Outcome State Fault Refusal :=
  match i with
  | .registerWrite x => Sys2Proof.Machine.execRegisterWrite x s
  | .clearOnRead x j => Sys2Proof.Machine.execClearOnRead x j s
  | .latchingRead x j => Sys2Proof.Machine.execLatchingRead x j s
  | .rcuStrobe x => Sys2Proof.Machine.execRcuStrobe x s
  | .grpmapWrite n x => Sys2Proof.Machine.execGrpmapWrite n x s
  | .rcuLockWrite x => Sys2Proof.Machine.execRcuLockWrite x s
  | .crcRefWrite x => Sys2Proof.Machine.execCrcRefWrite x s
  | .indDataWrite x => Sys2Proof.Machine.execIndDataWrite x s
  | .indDataRead q j => Sys2Proof.Machine.execIndDataRead q j s
  | .pairRoleWrite x => Sys2Proof.Machine.execPairRoleWrite x s
  | .pciSubidWrite x => Sys2Proof.Machine.execPciSubidWrite x s
  | .rcuBrst x => Sys2Proof.Machine.execRcuBrst x s
  | .blockReset => Sys2Proof.Machine.execBlockReset s
  | .crcPassEnd parity => Sys2Proof.Machine.execCrcPassEnd parity s
  | .tickBoundary x => Sys2Proof.Machine.execTickBoundary x s
  | .sapAdopt p => Sys2Proof.Machine.execSapAdopt p s
  | .pwrAdopt => Sys2Proof.Machine.execPwrAdopt s
  | .tickLengthAdopt => Sys2Proof.Machine.execTickLengthAdopt s
  | .departureWrite d n x => Sys2Proof.Machine.execDepartureWrite d n x s
  | .arm d q => Sys2Proof.Machine.execArm d q s
  | .disarm d q => Sys2Proof.Machine.execDisarm d q s
  | .disarmAll q => Sys2Proof.Machine.execDisarmAll q s
  | .ptpFrameRx p j x => Sys2Proof.Machine.execPtpFrameRx p j x s
  | .syncTx j p => Sys2Proof.Machine.execSyncTx j p s
  | .announceTx j p => Sys2Proof.Machine.execAnnounceTx j p s
  | .syncReceiptTimeout j => Sys2Proof.Machine.execSyncReceiptTimeout j s
  | .announceReceiptTimeout j x => Sys2Proof.Machine.execAnnounceReceiptTimeout j x s
  | .timeSet j q => Sys2Proof.Machine.execTimeSet j q s
  | .ppsInEdge x => Sys2Proof.Machine.execPpsInEdge x s
  | .ppsOut => Sys2Proof.Machine.execPpsOut s
  | .referenceUpdate edge rate need => Sys2Proof.Machine.execReferenceUpdate edge rate need s
  | .mediaPositionSet pos => Sys2Proof.Machine.execMediaPositionSet pos s
  | .masterModeEntry => Sys2Proof.Machine.execMasterModeEntry s
  | .mcrLock => Sys2Proof.Machine.execMcrLock s
  | .lockLost => Sys2Proof.Machine.execLockLost s
  | .referenceLoss => Sys2Proof.Machine.execReferenceLoss s
  | .failover => Sys2Proof.Machine.execFailover s
  | .windowMove centre => Sys2Proof.Machine.execWindowMove centre s
  | .slewComplete => Sys2Proof.Machine.execSlewComplete s
  | .stepRampDown => Sys2Proof.Machine.execStepRampDown s
  | .mcrStep => Sys2Proof.Machine.execMcrStep s
  | .xoLoss => Sys2Proof.Machine.execXoLoss s
  | .serdesPllLock lane => Sys2Proof.Machine.execSerdesPllLock lane s
  | .serdesUnlock lane => Sys2Proof.Machine.execSerdesUnlock lane s
  | .synUnlock => Sys2Proof.Machine.execSynUnlock s
  | .relock q => Sys2Proof.Machine.execRelock q s
  | .synRelock => Sys2Proof.Machine.execSynRelock s
  | .relockRampDownEnd => Sys2Proof.Machine.execRelockRampDownEnd s
  | .mpllLock => Sys2Proof.Machine.execMpllLock s
  | .counterCheckEnd n => Sys2Proof.Machine.execCounterCheckEnd n s
  | .relockTimeout => Sys2Proof.Machine.execRelockTimeout s
  | .fenceSwitchBack => Sys2Proof.Machine.execFenceSwitchBack s
  | .relockEnd pos => Sys2Proof.Machine.execRelockEnd pos s
  | .mdioCommand x => Sys2Proof.Machine.execMdioCommand x s
  | .mdioDone v => Sys2Proof.Machine.execMdioDone v s
  | .phyPoll p ms => Sys2Proof.Machine.execPhyPoll p ms s
  | .retrain p q => Sys2Proof.Machine.execRetrain p q s
  | .reverify p q => Sys2Proof.Machine.execReverify p q s
  | .holdEnd p q => Sys2Proof.Machine.execHoldEnd p q s
  | .retrainFail p => Sys2Proof.Machine.execRetrainFail p s
  | .linkUp p => Sys2Proof.Machine.execLinkUp p s
  | .linkDown p => Sys2Proof.Machine.execLinkDown p s
  | .verifySend p => Sys2Proof.Machine.execVerifySend p s
  | .verifyResponse p => Sys2Proof.Machine.execVerifyResponse p s
  | .frameTxStart p octets bad j => Sys2Proof.Machine.execFrameTxStart p octets bad j s
  | .preemption p octets sent => Sys2Proof.Machine.execPreemption p octets sent s
  | .frameTxEnd x => Sys2Proof.Machine.execFrameTxEnd x s
  | .frameRx p x => Sys2Proof.Machine.execFrameRx p x s
  | .pauseRx p quanta => Sys2Proof.Machine.execPauseRx p quanta s
  | .pfcRx p enables times => Sys2Proof.Machine.execPfcRx p enables times s
  | .pauseExpiry p k pfc => Sys2Proof.Machine.execPauseExpiry p k pfc s
  | .pauseBroken p => Sys2Proof.Machine.execPauseBroken p s
  | .pauseHoldExpiry p => Sys2Proof.Machine.execPauseHoldExpiry p s
  | .stxStopAll q => Sys2Proof.Machine.execStxStopAll q s
  | .groupTimeout g => Sys2Proof.Machine.execGroupTimeout g s
  | .srxStopAll q => Sys2Proof.Machine.execSrxStopAll q s
  | .srxStopEnd c => Sys2Proof.Machine.execSrxStopEnd c s
  | .windowReset c => Sys2Proof.Machine.execWindowReset c s
  | .pathLoss c p => Sys2Proof.Machine.execPathLoss c p s
  | .pathHealthy c p => Sys2Proof.Machine.execPathHealthy c p s
  | .utilisationSecond => Sys2Proof.Machine.execUtilisationSecond s
  | .downshift => Sys2Proof.Machine.execDownshift s
  | .dsNow p q => Sys2Proof.Machine.execDsNow p q s
  | .clrHold q => Sys2Proof.Machine.execClrHold q s
  | .reservationUpshift p => Sys2Proof.Machine.execReservationUpshift p s
  | .mailboxAppend n x => Sys2Proof.Machine.execMailboxAppend n x s
  | .mailboxAppendEnd n x => Sys2Proof.Machine.execMailboxAppendEnd n x s
  | .mailboxTake n x => Sys2Proof.Machine.execMailboxTake n x s
  | .flush n q => Sys2Proof.Machine.execFlush n q s
  | .flushProducer n => Sys2Proof.Machine.execFlushProducer n s
  | .doorbellPi p w => Sys2Proof.Machine.execDoorbellPi p w s
  | .doorbellCci p w => Sys2Proof.Machine.execDoorbellCci p w s
  | .ringEnable p size q => Sys2Proof.Machine.execRingEnable p size q s
  | .ringDisable p q => Sys2Proof.Machine.execRingDisable p q s
  | .restart p q => Sys2Proof.Machine.execRestart p q s
  | .descriptorFetch p dw => Sys2Proof.Machine.execDescriptorFetch p dw s
  | .descErr p x => Sys2Proof.Machine.execDescErr p x s
  | .dmaErr p slot x => Sys2Proof.Machine.execDmaErr p slot x s
  | .completionWrite p poison => Sys2Proof.Machine.execCompletionWrite p poison s
  | .ringIrqTimer p => Sys2Proof.Machine.execRingIrqTimer p s
  | .nop => Sys2Proof.Machine.execNop s
  | .cmdStxStart => Sys2Proof.Machine.execCmdStxStart s
  | .cmdStxStop => Sys2Proof.Machine.execCmdStxStop s
  | .cmdSrxStart => Sys2Proof.Machine.execCmdSrxStart s
  | .cmdSrxStop => Sys2Proof.Machine.execCmdSrxStop s
  | .audStart => Sys2Proof.Machine.execAudStart s
  | .audStop => Sys2Proof.Machine.execAudStop s
  | .strobe => Sys2Proof.Machine.execStrobe s
  | .ttLoad => Sys2Proof.Machine.execTtLoad s
  | .tblWrite => Sys2Proof.Machine.execTblWrite s
  | .tblRead => Sys2Proof.Machine.execTblRead s
  | .waitPos => Sys2Proof.Machine.execWaitPos s
  | .selftest => Sys2Proof.Machine.execSelftest s
  | .badcmd => Sys2Proof.Machine.execBadcmd s
  | .commandAtPos => Sys2Proof.Machine.execCommandAtPos s
  | .selftestEnd fail detail => Sys2Proof.Machine.execSelftestEnd fail detail s
  | .hostFrameWrite => Sys2Proof.Machine.execHostFrameWrite s
  | .rngRxdrop => Sys2Proof.Machine.execRngRxdrop s
  | .feedBlockRead p => Sys2Proof.Machine.execFeedBlockRead p s
  | .hostReset e => Sys2Proof.Machine.execHostReset e s
  | .msixEnable b => Sys2Proof.Machine.execMsixEnable b s
  | .interruptDisable b => Sys2Proof.Machine.execInterruptDisable b s
  | .maskWrite k x => Sys2Proof.Machine.execMaskWrite k x s
  | .thermal t => Sys2Proof.Machine.execThermal t s
  | .overtemp t => Sys2Proof.Machine.execOvertemp t s
  | .overtempRelease t x => Sys2Proof.Machine.execOvertempRelease t x s
  | .mgtWatchdog => Sys2Proof.Machine.execMgtWatchdog s
  | .engineWindowEnd e => Sys2Proof.Machine.execEngineWindowEnd e s
  | .mixCopy q => Sys2Proof.Machine.execMixCopy q s
  | .mixCopyEnd => Sys2Proof.Machine.execMixCopyEnd s
  | .slGo count q => Sys2Proof.Machine.execSlGo count q s
  | .safeLoadApply => Sys2Proof.Machine.execSafeLoadApply s
  | .deferredCrossfadeStart j => Sys2Proof.Machine.execDeferredCrossfadeStart j s
  | .crossfadeEnd j => Sys2Proof.Machine.execCrossfadeEnd j s
  | .engClear e q => Sys2Proof.Machine.execEngClear e q s
  | .dclr e q => Sys2Proof.Machine.execDclr e q s
  | .windowZeroEnd e => Sys2Proof.Machine.execWindowZeroEnd e s
  | .engSlGo e count q => Sys2Proof.Machine.execEngSlGo e count q s
  | .engCopy e q => Sys2Proof.Machine.execEngCopy e q s
  | .lmDataWrite e hi x => Sys2Proof.Machine.execLmDataWrite e hi x s
  | .lmDataRead e q => Sys2Proof.Machine.execLmDataRead e q s
  | .poolDataArrival e => Sys2Proof.Machine.execPoolDataArrival e s
  | .sapCtlStart p q => Sys2Proof.Machine.execSapCtlStart p q s
  | .sapCtlStop p q => Sys2Proof.Machine.execSapCtlStop p q s
  | .sapCtlRestart p q => Sys2Proof.Machine.execSapCtlRestart p q s
  | .sapRatechg p cls => Sys2Proof.Machine.execSapRatechg p cls s
  | .sapRateUpdate p rate => Sys2Proof.Machine.execSapRateUpdate p rate s
  | .sapClkloss p cause => Sys2Proof.Machine.execSapClkloss p cause s
  | .sapClockReturn p => Sys2Proof.Machine.execSapClockReturn p s
  | .framingError p => Sys2Proof.Machine.execFramingError p s
  | .sapResume p => Sys2Proof.Machine.execSapResume p s
  | .sapStopEnd p => Sys2Proof.Machine.execSapStopEnd p s
  | .sapRampUpEnd p => Sys2Proof.Machine.execSapRampUpEnd p s
  | .trackerLock p ratio => Sys2Proof.Machine.execTrackerLock p ratio s
  | .asrcUnlock p => Sys2Proof.Machine.execAsrcUnlock p s
  | .asrcRange p => Sys2Proof.Machine.execAsrcRange p s
  | .asrcFadeIn n => Sys2Proof.Machine.execAsrcFadeIn n s
  | .pwrWctlArm c q => Sys2Proof.Machine.execPwrWctlArm c q s
  | .pwrWctlStop c q => Sys2Proof.Machine.execPwrWctlStop c q s
  | .retryNow c q => Sys2Proof.Machine.execRetryNow c q s
  | .diagEnd c res r => Sys2Proof.Machine.execDiagEnd c res r s
  | .cmRampEnd c => Sys2Proof.Machine.execCmRampEnd c s
  | .runEntry c => Sys2Proof.Machine.execRunEntry c s
  | .audioRampDownEnd c => Sys2Proof.Machine.execAudioRampDownEnd c s
  | .cmRampDownEnd c => Sys2Proof.Machine.execCmRampDownEnd c s
  | .pwrOc c => Sys2Proof.Machine.execPwrOc c s
  | .pwrRetry c => Sys2Proof.Machine.execPwrRetry c s
  | .retrySuccess c => Sys2Proof.Machine.execRetrySuccess c s
  | .pwrTherm c t => Sys2Proof.Machine.execPwrTherm c t s
  | .pwrPvdd mv => Sys2Proof.Machine.execPwrPvdd mv s
  | .pvddRestore mv => Sys2Proof.Machine.execPvddRestore mv s
  | .battMute c mv => Sys2Proof.Machine.execBattMute c mv s
  | .battUnmute c mv => Sys2Proof.Machine.execBattUnmute c mv s
  | .idleEntry c => Sys2Proof.Machine.execIdleEntry c s
  | .pwrModel c k => Sys2Proof.Machine.execPwrModel c k s
  | .linkTransferFail => Sys2Proof.Machine.execLinkTransferFail s
  | .powerDieSelfProtect => Sys2Proof.Machine.execPowerDieSelfProtect s
  | .regpar o => Sys2Proof.Machine.execRegpar o s
  | .enter q => Sys2Proof.Machine.execEnter q s
  | .pairModeEntry => Sys2Proof.Machine.execPairModeEntry s
  | .release q => Sys2Proof.Machine.execRelease q s
  | .report q => Sys2Proof.Machine.execReport q s
  | .refresh q => Sys2Proof.Machine.execRefresh q s
  | .undark q => Sys2Proof.Machine.execUndark q s
  | .mirrorBlockRx bytes oversize poison => Sys2Proof.Machine.execMirrorBlockRx bytes oversize poison s
  | .statusBlockRx bytes oversize poison => Sys2Proof.Machine.execStatusBlockRx bytes oversize poison s
  | .blockRepeat x => Sys2Proof.Machine.execBlockRepeat x s
  | .mirrorSetApply => Sys2Proof.Machine.execMirrorSetApply s
  | .heartbeatLoss => Sys2Proof.Machine.execHeartbeatLoss s
  | .grant bytes poison grains => Sys2Proof.Machine.execGrant bytes poison grains s
  | .grantAdopt => Sys2Proof.Machine.execGrantAdopt s
  | .driveStart => Sys2Proof.Machine.execDriveStart s
  | .selfFence => Sys2Proof.Machine.execSelfFence s
  | .releaseRx bytes poison => Sys2Proof.Machine.execReleaseRx bytes poison s
  | .powerOn x => Sys2Proof.Machine.execPowerOn x s
  | .firmwareReady x => Sys2Proof.Machine.execFirmwareReady x s
  | .resetN us seen => Sys2Proof.Machine.execResetN us seen s
  | .perstNRelease => Sys2Proof.Machine.execPerstNRelease s
  | .vioFall b => Sys2Proof.Machine.execVioFall b s
  | .sleepEnter q => Sys2Proof.Machine.execSleepEnter q s
  | .wake w x => Sys2Proof.Machine.execWake w x s
  | .mgtDbell x => Sys2Proof.Machine.execMgtDbell x s
  | .getVersion => Sys2Proof.Machine.execGetVersion s
  | .flashRead fail => Sys2Proof.Machine.execFlashRead fail s
  | .flashWrite busy fail => Sys2Proof.Machine.execFlashWrite busy fail s
  | .flashErase busy fail => Sys2Proof.Machine.execFlashErase busy fail s
  | .role => Sys2Proof.Machine.execRole s
  | .reboot => Sys2Proof.Machine.execReboot s
  | .msWrite a d gt20 => Sys2Proof.Machine.execMsWrite a d gt20 s
  | .msRead a gt20 => Sys2Proof.Machine.execMsRead a gt20 s
  | .scrubError fixable a => Sys2Proof.Machine.execScrubError fixable a s
  | .xoReturn x => Sys2Proof.Machine.execXoReturn x s
  | .engCopyEnd e => Sys2Proof.Machine.execEngCopyEnd e s
  | .thermalFoldback c t => Sys2Proof.Machine.execThermalFoldback c t s
  | .batteryLimit c mv => Sys2Proof.Machine.execBatteryLimit c mv s
  | .ppsOutPulseEnd => Sys2Proof.Machine.execPpsOutPulseEnd s
  | .pathDelayReqTx j p => Sys2Proof.Machine.execPathDelayReqTx j p s
  | .vioRecovery b v18 => Sys2Proof.Machine.execVioRecovery b v18 s
  | .vinInvalid k => Sys2Proof.Machine.execVinInvalid k s
  | .resetNRelease x => Sys2Proof.Machine.execResetNRelease x s
  | .dataReadReturn p slot bytes => Sys2Proof.Machine.execDataReadReturn p slot bytes s
  | .pcieLinkUp speed width => Sys2Proof.Machine.execPcieLinkUp speed width s
  | .ecrcErr => Sys2Proof.Machine.execEcrcErr s
  | .pairBlockLockLoss => Sys2Proof.Machine.execPairBlockLockLoss s

end Sys2Proof.Machine
end

