-- ==== Sys2Proof/Machine/Step.lean ====
section
/-! DEFINITION. One step of the block: the command at the front of the queue runs with the queue's rest; an empty queue
idles. -/

namespace Sys2Proof.Machine

-- DESIGN CHOICE, log 1: unsafe.
/-- Take the oldest waiting command and run it. -/
def step (s : State) : Host.Outcome State Fault Refusal :=
  match s.pending with
  | [] => .next s
  | c :: rest => exec c { s with pending := rest }

-- DESIGN CHOICE, log 6: safe.
/-- The command a table word spells, put at the front of the queue; the table gives its rows no bits, so none does. -/
def State.withFetchWord (s : State) (nbits w : Nat) : State :=
  match decodeTableWord nbits w with
  | some c => { s with pending := c :: s.pending }
  | none => s

end Sys2Proof.Machine
end

