-- ==== Sys2Proof/Safety.lean ====
section
/-! DEFINITION. What a safe run of the block is, in the terms the claims use: a step that answers a next state, and the
parts of the state no command may touch. -/

namespace Sys2Proof.Machine

/-- An outcome that is a next state. -/
def runs (o : Host.Outcome State Fault Refusal) : Bool := match o with | .next _ => true | _ => false

/-- The state an outcome leaves, where it is a next state. -/
def after (o : Host.Outcome State Fault Refusal) : Option State := match o with | .next t => some t | _ => none

/-- The status bit of an event source (R404). -/
def State.event (s : State) (n : Nat) : Bool := (s.rcW (evtStat n)).getLsbD (n % 32)

/-- The canonical form of the register stores: keys strictly rising and no entry equal to what an unlisted key reads as;
and no statistics counter above its maximum (R113). -/
def RegsOk (g : Regs) : Prop :=
  swf resetWord g.staged = true ∧ swf resetWord g.applied = true ∧ swf resetWord g.inForce = true
    ∧ swf resetWord g.rw = true ∧ swf resetWord g.rc = true ∧ swf resetWord g.bankA = true
    ∧ swf resetWord g.bankB = true ∧ swf (fun _ => 0) g.count = true ∧ (∀ p ∈ g.count, p.2 ≤ ctrMax)
    ∧ swf (fun _ => 0) g.pcie.shadow = true ∧ swf (fun _ => 0) g.mgt.shadow = true

/-- The canonical form of the tables units hold by number: mailboxes, rings, serial ports, engines, junctions, mutes,
limiters, rate-converter channels and trackers, stream contexts and groups, combiners, and the flash. -/
abbrev UnitsOk (s : State) : Prop :=
  swf mboxReset s.mbox = true ∧ swf ringReset s.ring = true ∧ swf sapReset s.sap = true ∧ swf engReset s.eng = true
    ∧ swf juncReset s.mix.junc = true ∧ swf muteReset s.mix.mute = true ∧ swf limReset s.mix.lim = true
    ∧ swf asrcReset s.asrc.ch = true ∧ swf trkReset s.asrc.trk = true ∧ swf stxReset s.stx.ctx = true
    ∧ swf srxReset s.srx.ctx = true ∧ swf groupReset s.srx.grp = true ∧ swf dpcReset s.dpc.ctx = true
    ∧ swf Config.flashImage s.mgt.flash = true

-- DESIGN CHOICE, log 95: safe.
/-- The canonical form of the part's addressed stores: the register stores, the delay pool and the units' tables. -/
def StoresOk (s : State) : Prop := RegsOk s.reg ∧ swf izero s.pool = true ∧ UnitsOk s

/-- The parts of the state a frame speaks of: each store of the registers, and each unit. -/
inductive Part where
  | staged | applied | inForce | rw | rc | count | bank | snap | rcu | crc | hstop | now | tt | tim | mcr
  | syn | mix | macA | macB | mdio | stx | eng | pool | srx | dpc | mbox | hrx | ring | ftxTurn | cmd | sap
  | asrc | pwr | pair | pmu | mgt | pci | sst | msixEn | intDis | reply
  deriving DecidableEq, Repr

/-- Every part, in order. -/
def Part.all : List Part :=
  [.staged, .applied, .inForce, .rw, .rc, .count, .bank, .snap, .rcu, .crc, .hstop, .now, .tt, .tim, .mcr,
   .syn, .mix, .macA, .macB, .mdio, .stx, .eng, .pool, .srx, .dpc, .mbox, .hrx, .ring, .ftxTurn, .cmd, .sap,
   .asrc, .pwr, .pair, .pmu, .mgt, .pci, .sst, .msixEn, .intDis, .reply]

/-- A part of the state is in `t` what it is in `s`. -/
abbrev Part.same (p : Part) (s t : State) : Prop :=
  match p with
  | .staged => t.reg.staged = s.reg.staged
  | .applied => t.reg.applied = s.reg.applied
  | .inForce => t.reg.inForce = s.reg.inForce
  | .rw => t.reg.rw = s.reg.rw
  | .rc => t.reg.rc = s.reg.rc
  | .count => t.reg.count = s.reg.count
  | .bank => (t.reg.bankA, t.reg.bankB, t.reg.held) = (s.reg.bankA, s.reg.bankB, s.reg.held)
  | .snap => (t.reg.snaps, t.reg.waiting, t.reg.stagedBits) = (s.reg.snaps, s.reg.waiting, s.reg.stagedBits)
  | .rcu => (t.reg.lock, t.reg.subidDone, t.reg.roleDone, t.reg.berrAddr, t.reg.pcie, t.reg.mgt, t.reg.brst)
      = (s.reg.lock, s.reg.subidDone, s.reg.roleDone, s.reg.berrAddr, s.reg.pcie, s.reg.mgt, s.reg.brst)
  | .crc => t.reg.crc = s.reg.crc
  | .hstop => t.reg.hstop = s.reg.hstop
  | .now => t.tt.now = s.tt.now
  | .tt => (t.tt.rateOk, t.tt.armed, t.tt.tick, t.tt.tickNext, t.tt.lastTaken)
      = (s.tt.rateOk, s.tt.armed, s.tt.tick, s.tt.tickNext, s.tt.lastTaken)
  | .tim => t.tim = s.tim
  | .mcr => t.mcr = s.mcr
  | .syn => t.syn = s.syn
  | .mix => t.mix = s.mix
  | .macA => t.macA = s.macA
  | .macB => t.macB = s.macB
  | .mdio => t.mdio = s.mdio
  | .stx => t.stx = s.stx
  | .eng => t.eng = s.eng
  | .pool => t.pool = s.pool
  | .srx => t.srx = s.srx
  | .dpc => t.dpc = s.dpc
  | .mbox => t.mbox = s.mbox
  | .hrx => t.hrx = s.hrx
  | .ring => t.ring = s.ring
  | .ftxTurn => t.ftxTurn = s.ftxTurn
  | .cmd => t.cmd = s.cmd
  | .sap => t.sap = s.sap
  | .asrc => t.asrc = s.asrc
  | .pwr => t.pwr = s.pwr
  | .pair => t.pair = s.pair
  | .pmu => t.pmu = s.pmu
  | .mgt => t.mgt = s.mgt
  | .pci => t.pci = s.pci
  | .sst => t.sst = s.sst
  | .msixEn => t.msixEn = s.msixEn
  | .intDis => t.intDis = s.intDis
  | .reply => t.reply = s.reply

/-- Every part outside the list is as it was. -/
def LeavesAllBut (l : List Part) (s t : State) : Prop := ∀ p, p ∉ l → p.same s t

/-- Every RC word outside the list is as it was. -/
def RcOnly (l : List Nat) (s t : State) : Prop := ∀ a, a ∉ l → t.rcW a = s.rcW a

/-- Every counter outside the list is as it was. -/
def CountOnly (l : List Nat) (s t : State) : Prop := ∀ a, a ∉ l → t.counter a = s.counter a

/-- `t` follows from `s` inside a command that touches no part outside the list: the member and the commands that wait are as
they were, what was put out stays put out, free values are only drawn, and the stores stay in canonical form. -/
structure Follows (l : List Part) (s t : State) : Prop where
  member : t.member = s.member
  pending : t.pending = s.pending
  out : s.out <+: t.out
  free : s.free ≤ t.free
  stores : StoresOk s → StoresOk t
  others : LeavesAllBut l s t

/-! ### What the claims say of a command -/


/-- A state in which commands act: its stores are in canonical form, and the die is neither held in reset nor asleep. -/
def Ready (s : State) : Prop := StoresOk s ∧ s.down = false

-- DEDUCED, log 25: unsafe.
/-- The state a device reset with a cause leaves, outside the supplies, the clocks' lock bits and the power link: every register
at its reset word but RSTCAUSE, which takes the cause beside those of the resets it overlaps (R423), and WAKECFG and GPIO_WAKE, which are kept; every unit as at reset; the
flash, what has left the part and the commands that wait as they were (R419). -/
def AfterDeviceReset (cause : Nat) (s t : State) : Prop :=
  (∀ a, t.stagedW a = resetWord a ∧ t.appliedW a = resetWord a ∧ t.inForceW a = resetWord a ∧ t.counter a = 0)
    ∧ (∀ a, t.rwW a = if a = 0x3014 ∨ a = 0x304C then s.rwW a else resetWord a)
    ∧ (∀ a, t.rcW a = if a = 0x300C then (if s.syn.spll then 0 else s.rcW a) ||| toWord cause else resetWord a)
    ∧ t.reg.hstop = 0 ∧ t.reg.lock = 0 ∧ t.reg.snaps = [] ∧ t.tt = ttReset ∧ t.tim = timReset ∧ t.mcr = mcrReset
    ∧ t.mix = mixReset ∧ t.stx.ctx = [] ∧ t.srx.ctx = [] ∧ t.ring = [] ∧ t.mbox = [] ∧ t.sap = [] ∧ t.eng = [] ∧ t.pool = []
    ∧ t.pair = pairReset ∧ t.mgt.ready = false ∧ t.mgt.flash = s.mgt.flash ∧ t.member = s.member ∧ t.out = s.out ++ [.idle]
    ∧ t.pba = 0 ∧ t.pci = pciReset ∧ t.free = s.free ∧ t.pending = s.pending

/-- The management core has one whole request before it: it is ready and has been told, MB0 holds that item alone, the item's
header agrees with its words, and MB1 is idle with room for a reply of `n` words (R192, R428). -/
def OneRequest (s : State) (op : Nat) (h : Word) (p : List Word) (n : Nat) : Prop :=
  s.mgt.ready = true ∧ s.mgt.dbell.getLsbD 0 = true ∧ (s.mboxOf 28).items = [h :: p] ∧ (s.mboxOf 28).flushing = false
    ∧ fld h 0 8 = op ∧ itemLen h = p.length ∧ fld h 26 6 = 0 ∧ (s.mboxOf 29).writing = [] ∧ (s.mboxOf 29).trim = 0
    ∧ (s.mboxOf 29).held + n ≤ mboxWords

/-- The reply the core writes to a request: OPCODE with its top bit set, the request's SEQ, a status and what follows it. -/
def replyItem (h : Word) (status : Nat) (ws : List Word) : List Word :=
  toWord (128 + fld h 0 8 % 128 + put 8 (fld h 8 8) + put 16 (1 + ws.length)) :: toWord status :: ws

/-- A 32-bit access with every byte enabled. -/
def wordAccess (q : Req) (off : Nat) (d : Word) : Access :=
  { req := q, off := BitVec.ofNat 22 off, len := 4, enables := [true, true, true, true], lo := d, hi := 0 }

/-- A command at the head of the command ring passed its checks (R208): it is the oldest without a completion, none is in
progress, its opcode is `op`, and nothing refuses it. -/
def CmdHead (s : State) (op : Nat) (x : Slot) : Prop :=
  s.cmd = none ∧ s.cmdSlot = some x ∧ cmdOp x = op ∧ s.cmdRefusal x = none

/-- A command with a POS that has come (R208): it waits for this boundary and has neither acted nor completed. -/
def CmdDue (s : State) (op : Nat) (x : Slot) : Prop :=
  s.cmd = some { pos := some s.tt.now, late := false, acted := none, testing := false } ∧ s.cmdSlot = some x ∧ cmdOp x = op
    ∧ x.reading = false ∧ cmdPos x = s.tt.now

/-- A command that has begun and waits for its boundary: the one its POS names, or the next where that is 0 (R208, R209). -/
def begun (x : Slot) : CmdWait :=
  { pos := if cmdPos x = 0 then none else some (cmdPos x), late := false, acted := none, testing := false }

/-- The command in slot `x` gets its outcome, and none is in progress any more: a status, DETAIL and two results (R205). -/
def CmdCompletes (s t : State) (x : Slot) (status detail : Nat) (r0 r1 : Word) : Prop :=
  t.cmd = none ∧ (∀ k, k ≠ 0 → t.ringOf k = s.ringOf k)
    ∧ t.ringOf 0 = (s.ringOf 0).finish x.desc.slot (fun tag => cplOf tag status detail r0 r1 0)

/-- Every ring but one is as it was. -/
def OtherRings (p : Nat) (s t : State) : Prop := ∀ k, k ≠ p → t.ringOf k = s.ringOf k

/-- Every mailbox but one is as it was. -/
def OtherMailboxes (n : Nat) (s t : State) : Prop := ∀ k, k ≠ n → t.mboxOf k = s.mboxOf k

/-- Every port but one is as it was. -/
def OtherPorts (p : Nat) (s t : State) : Prop := ∀ k, k < 2 → k ≠ p → t.mac k = s.mac k

/-- Every transmit context but one is as it was. -/
def OtherStx (c : Nat) (s t : State) : Prop := ∀ k, k ≠ c → t.stxOf k = s.stxOf k

/-- Every receive context but one is as it was. -/
def OtherSrx (c : Nat) (s t : State) : Prop := ∀ k, k ≠ c → t.srxOf k = s.srxOf k

/-- Every combiner context but one is as it was. -/
def OtherDpc (c : Nat) (s t : State) : Prop := ∀ k, k ≠ c → t.dpcOf k = s.dpcOf k

/-- Every engine but one is as it was. -/
def OtherEngines (e : Nat) (s t : State) : Prop := ∀ k, k ≠ e → t.engOf k = s.engOf k

/-- Every junction but one is as it was. -/
def OtherJunctions (j : Nat) (s t : State) : Prop := ∀ k, k ≠ j → t.juncOf k = s.juncOf k

/-- The pairs of a safe-load command with a count: parameter index and word. -/
def loadPairs (s : State) (o c : Nat) : List (Nat × Word) :=
  (List.range c).map (fun m => ((s.rwW (slaReg o m)).toNat, s.rwW (sldReg o m)))

/-- Every power channel but one is as it was. -/
def OtherChannel (c : Nat) (s t : State) : Prop := ∀ k, k < 2 → k ≠ c → t.pwrCh k = s.pwrCh k

/-- A power channel at Hi-Z in FAULT with a cause, from the present position (R325, R331, R332). -/
def faulted (s : State) (v : PwrCh) (cause : Nat) : PwrCh :=
  { v with st := 5, fault := cause, cmDone := false, stopCm := false, idle := false, faultAt := s.tt.now }

/-- A tablet message that a unit in pair mode acts on (R360): its version, pair, tick and rate are the unit's own, its MSG is as
given, and it came unpoisoned. -/
def TabletFor (s : State) (b : List Byte) (msg : Nat) : Prop :=
  s.pair.st ≠ 0 ∧ s.tabOk b = true ∧ natBE (slice b 0 1) % 16 = msg

/-- A port that has been handed a frame for one of its queues: it waits at the end of the queue, where its lane has room for the
whole of it (R92, R187). -/
def handed (s : State) (p q : Nat) (f : TxFrame) : Mac :=
  if s.laneFits p q f.body.length false then
    { s.mac p with queues := sset (fun _ => []) (s.mac p).queues q (s.queue p q ++ [f]) }
  else s.mac p

/-- The messages of the vectors that are due and not masked (R406). -/
def sentMsgs (s : State) : List OutItem := (s.due.filter (fun v => !s.pci.masked v)).map s.pci.message

/-- The phase error R56 measures on an instance's time at an instant: R27 on that time less media position, in grains. -/
def phaseOn (s t : State) (i : Nat) (x : Instant) : Int :=
  Int.ofNat (posOfTime s.rateHz ((t.inst i).time + nsOf x i)) - Int.ofNat (s.tt.now * 65536 + x.grains)

/-- What an instance holds once a Sync was received at `t2` of a master that sent it at `t1` (units of 1/4 ns), within the step
threshold or with its time stepped by the offset (R446). -/
def syncedInst (s : State) (i p : Nat) (t1 t2 r : Int) : PtpInst :=
  let o := (t2 - t1) / 4 - Int.ofNat (s.pathDelay i p)
  let v := { s.inst i with syncIn := none, syncGap := t2 - t1, ratio := r, synced := true }
  if fld (s.appliedW 0x20000) 0 16 < o.natAbs then { v with time := (Int.ofNat v.time - o).toNat, offset := 0 }
  else { v with offset := o }

/-- The parts of the state a command may touch; a command leaves every other part as it is. -/
def touches (c : Instr) : List Part :=
  match c with
| .registerWrite .. =>
[.staged, .rw, .rc, .count, .bank, .snap, .rcu, .crc, .hstop, .tt, .tim, .mcr, .syn, .mix, .macA, .macB, .mdio, .stx,
       .eng, .srx, .dpc, .mbox, .ring, .cmd, .sap, .pwr, .pair, .pmu, .mgt, .pci]
| .clearOnRead .. | .latchingRead .. =>
[.rw, .rc, .count, .rcu, .mbox, .pwr, .reply]
| .rcuStrobe .. =>
[.rc, .snap, .rcu]
| .grpmapWrite .. | .pairRoleWrite .. | .pciSubidWrite .. | .maskWrite .. =>
[.rw, .rc, .rcu]
| .rcuLockWrite .. | .rcuBrst .. =>
[.rc, .rcu]
| .crcRefWrite .. =>
[.rw, .rc, .rcu, .crc, .mix]
| .indDataWrite .. =>
[.staged, .rw, .rc, .count, .bank, .snap, .rcu, .tt, .pwr, .pair]
| .indDataRead .. =>
[.staged, .rw, .rc, .count, .bank, .snap, .rcu, .tt, .pwr, .pair, .reply]
| .blockReset =>
[.rc, .count, .rcu, .hstop, .tim, .mcr, .syn, .mix, .macA, .macB, .mdio, .eng, .dpc, .mbox, .ring, .sap, .asrc, .pwr,
       .mgt]
| .crcPassEnd .. =>
[.rc, .crc, .mix]
| .tickBoundary .. | .xoLoss | .overtemp .. | .overtempRelease .. | .powerOn .. | .resetN .. | .wake .. | .vinInvalid
    .. =>
Part.all
| .sapAdopt .. =>
[.inForce, .rc, .snap, .mix, .sap]
| .pwrAdopt =>
[.inForce, .snap, .pwr]
| .tickLengthAdopt =>
[.applied, .rc, .snap, .tt]
| .departureWrite .. | .arm .. | .disarm .. =>
[.rw, .rc, .rcu, .tt, .pair]
| .disarmAll .. =>
[.rc, .rcu, .tt]
| .ptpFrameRx .. =>
[.rc, .count, .tim, .mcr, .macA, .macB, .dpc]
| .syncTx .. | .announceTx .. | .pauseRx .. | .pfcRx .. | .pauseBroken .. | .pathDelayReqTx .. =>
[.rc, .count, .macA, .macB]
| .syncReceiptTimeout .. =>
[.rc, .tim, .mcr]
| .announceReceiptTimeout .. =>
[.rc, .tim, .mcr, .dpc]
| .timeSet .. =>
[.rc, .rcu, .tim]
| .ppsInEdge .. =>
[.rc, .tim]
| .ppsOut | .ppsOutPulseEnd =>
[.tim]
| .referenceUpdate .. | .mcrLock | .referenceLoss | .slewComplete =>
[.rc, .mcr]
| .mediaPositionSet .. =>
[.now, .tt, .mcr]
| .masterModeEntry =>
[.rc, .now, .tt, .mcr, .mix]
| .lockLost | .failover =>
[.mcr]
| .windowMove .. =>
[.rc, .mcr, .syn]
| .stepRampDown =>
[.mcr, .mix]
| .mcrStep =>
[.staged, .applied, .rw, .rc, .count, .bank, .snap, .crc, .hstop, .now, .tt, .tim, .mcr, .syn, .mix, .macA, .macB,
       .mdio, .stx, .eng, .pool, .srx, .dpc, .ring, .cmd, .sap, .asrc, .pwr, .pair, .sst]
| .serdesPllLock .. | .synUnlock | .mpllLock =>
[.syn]
| .serdesUnlock .. =>
[.staged, .applied, .rw, .rc, .count, .rcu, .tim, .mcr, .syn, .macA, .macB, .dpc, .hrx, .ring, .ftxTurn, .cmd, .pair,
       .pmu, .pci, .msixEn, .intDis]
| .relock .. =>
[.rc, .rcu, .syn]
| .synRelock =>
[.staged, .applied, .rc, .bank, .hstop, .mcr, .syn, .mix, .stx, .eng, .srx, .dpc, .ring, .sap, .asrc]
| .relockRampDownEnd =>
[.staged, .applied, .rc, .bank, .mcr, .syn, .mix, .stx, .eng, .srx, .dpc, .ring, .sap, .asrc]
| .counterCheckEnd .. | .relockTimeout =>
[.rc, .hstop, .syn]
| .fenceSwitchBack =>
[.syn, .mix]
| .relockEnd .. =>
[.rc, .snap, .mcr, .syn, .stx]
| .mdioCommand .. =>
[.rc, .rcu, .mdio]
| .mdioDone .. =>
[.rw, .rc, .count, .tim, .mcr, .macA, .macB, .mdio, .dpc, .ring]
| .phyPoll .. =>
[.mdio]
| .retrain .. | .reverify .. | .holdEnd .. =>
[.rc, .count, .rcu, .hstop, .tim, .mcr, .macA, .macB, .mdio, .dpc, .ring]
| .retrainFail .. =>
[.rc, .hstop, .macA, .macB, .mdio, .dpc]
| .linkUp .. =>
[.rw, .rc, .macA, .macB, .dpc]
| .linkDown .. =>
[.rc, .count, .tim, .mcr, .macA, .macB, .dpc, .ring]
| .verifySend .. =>
[.rc, .macA, .macB]
| .verifyResponse .. | .preemption .. | .pauseExpiry .. | .pauseHoldExpiry .. =>
[.macA, .macB]
| .frameTxStart .. =>
[.rc, .count, .tim, .macA, .macB]
| .frameTxEnd .. =>
[.rc, .count, .macA, .macB, .dpc, .ring, .ftxTurn]
| .frameRx .. =>
[.rc, .count, .mcr, .srx, .dpc, .hrx, .sst]
| .stxStopAll .. =>
[.rc, .rcu, .stx]
| .groupTimeout .. =>
[.rc, .srx]
| .srxStopAll .. =>
[.rc, .rcu, .srx]
| .srxStopEnd .. =>
[.rc, .macA, .macB, .srx, .dpc]
| .windowReset .. | .pathLoss .. =>
[.rc, .dpc]
| .pathHealthy .. =>
[.rc, .macA, .macB, .dpc]
| .utilisationSecond | .downshift | .reservationUpshift .. =>
[.rc, .count, .hstop, .tim, .mcr, .macA, .macB, .mdio, .dpc, .ring]
| .dsNow .. | .clrHold .. =>
[.rc, .rcu, .dpc]
| .mailboxAppend .. | .mailboxAppendEnd .. =>
[.rc, .count, .rcu, .mbox]
| .mailboxTake .. =>
[.rc, .count, .rcu, .mbox, .reply]
| .flush .. =>
[.rc, .rcu, .mbox]
| .flushProducer .. =>
[.mbox]
| .doorbellPi .. | .doorbellCci .. | .ringIrqTimer .. =>
[.rc, .ring]
| .ringEnable .. | .ringDisable .. =>
[.rw, .rc, .rcu, .macA, .macB, .ring, .cmd]
| .restart .. =>
[.rc, .rcu, .ring]
| .descriptorFetch .. =>
[.rc, .count, .ring]
| .descErr .. =>
[.rc, .count, .macA, .macB, .ring]
| .dmaErr .. =>
[.rc, .macA, .macB, .ring]
| .completionWrite .. =>
[.rc, .count, .ring, .cmd]
| .nop | .cmdStxStart | .cmdStxStop | .cmdSrxStart | .cmdSrxStop | .audStart | .audStop | .strobe | .ttLoad |
    .tblWrite | .tblRead | .waitPos | .selftest | .badcmd =>
[.rw, .rc, .count, .snap, .tt, .stx, .eng, .srx, .dpc, .ring, .cmd, .sap, .pwr, .pair]
| .commandAtPos =>
[.rc, .count, .snap, .stx, .eng, .srx, .dpc, .ring, .cmd, .sap, .pwr]
| .selftestEnd .. =>
[.applied, .rc, .bank, .eng, .ring, .cmd, .sap, .pwr]
| .hostFrameWrite =>
[.rc, .count, .hrx, .ring]
| .rngRxdrop =>
[.rc, .count, .hrx]
| .feedBlockRead .. =>
[.ring]
| .hostReset .. =>
[.staged, .applied, .rw, .rc, .count, .rcu, .macA, .macB, .hrx, .ring, .ftxTurn, .cmd, .pmu, .pci, .msixEn, .intDis]
| .msixEnable .. =>
[.msixEn]
| .interruptDisable .. =>
[.intDis]
| .thermal .. | .vioFall .. =>
[.rc, .pmu]
| .mgtWatchdog =>
[.rw, .rc, .hstop, .mbox, .hrx, .ring, .cmd, .mgt]
| .engineWindowEnd .. | .windowZeroEnd .. | .poolDataArrival .. =>
[.eng]
| .mixCopy .. | .slGo .. | .engClear .. | .dclr .. | .engSlGo .. | .engCopy .. =>
[.rc, .rcu, .mix, .eng, .pair]
| .mixCopyEnd | .engCopyEnd .. =>
[.bank, .mix, .eng]
| .safeLoadApply =>
[.staged, .applied, .mix, .eng, .pair]
| .deferredCrossfadeStart .. | .crossfadeEnd .. =>
[.mix]
| .lmDataWrite .. =>
[.rw, .rc, .rcu, .eng]
| .lmDataRead .. =>
[.rw, .rc, .rcu, .reply]
| .sapCtlStart .. | .sapCtlStop .. | .sapCtlRestart .. =>
[.rc, .rcu, .sap]
| .sapRatechg .. =>
[.rc, .count, .sap, .asrc]
| .sapRateUpdate .. | .sapClockReturn .. | .sapResume .. | .sapRampUpEnd .. =>
[.sap]
| .sapClkloss .. =>
[.rc, .count, .hstop, .mix, .sap, .asrc]
| .framingError .. =>
[.rc, .count, .hstop, .mix, .sap]
| .sapStopEnd .. =>
[.mix, .sap, .asrc]
| .trackerLock .. | .asrcFadeIn .. =>
[.asrc]
| .asrcUnlock .. =>
[.rc, .count, .asrc]
| .asrcRange .. =>
[.rc, .asrc]
| .pwrWctlArm .. | .pwrWctlStop .. | .retryNow .. =>
[.rc, .rcu, .pwr]
| .diagEnd .. | .pwrTherm .. | .powerDieSelfProtect | .regpar .. =>
[.rc, .hstop, .mix, .pwr]
| .cmRampEnd .. | .audioRampDownEnd .. | .cmRampDownEnd .. | .retrySuccess .. | .idleEntry .. =>
[.pwr]
| .runEntry .. | .battUnmute .. =>
[.mix, .pwr]
| .pwrOc .. | .linkTransferFail =>
[.rc, .count, .hstop, .mix, .pwr]
| .pwrRetry .. =>
[.rc, .count, .pwr]
| .pwrPvdd .. =>
[.rc, .hstop, .mix, .pwr, .pmu]
| .pvddRestore .. =>
[.rc, .pwr, .pmu]
| .battMute .. =>
[.rc, .mix, .pwr]
| .pwrModel .. | .thermalFoldback .. | .batteryLimit .. =>
[.rc, .pwr]
| .enter .. | .release .. | .report .. | .refresh .. | .undark .. =>
[.rc, .count, .rcu, .macA, .macB, .pair]
| .pairModeEntry | .selfFence =>
[.rc, .count, .mix, .macA, .macB, .pwr, .pair]
| .mirrorBlockRx .. | .statusBlockRx .. | .heartbeatLoss | .grant .. | .grantAdopt | .releaseRx .. |
    .pairBlockLockLoss =>
[.rc, .count, .macA, .macB, .pair]
| .blockRepeat .. =>
[.rc, .count]
| .mirrorSetApply =>
[.staged, .applied, .rw, .rc, .count, .bank, .tt, .mix, .macA, .macB, .stx, .eng, .srx, .dpc, .sap, .pwr, .pair]
| .driveStart =>
[.rc, .mix, .pwr, .pair]
| .firmwareReady .. =>
[.rw, .rc, .count, .rcu, .mbox, .pmu, .mgt]
| .perstNRelease | .vioRecovery .. =>
[.pmu]
| .sleepEnter .. =>
[.rc, .rcu, .pmu]
| .mgtDbell .. =>
[.rc, .count, .rcu, .mbox, .mgt]
| .getVersion | .flashRead .. | .flashWrite .. | .flashErase .. | .role | .reboot =>
[.rc, .count, .mbox, .mgt]
| .msWrite .. =>
[.staged, .rw, .rc, .count, .bank, .snap, .rcu, .crc, .hstop, .tt, .tim, .mcr, .syn, .mix, .macA, .macB, .mdio, .stx,
       .eng, .srx, .dpc, .mbox, .ring, .cmd, .sap, .pwr, .pair, .pmu, .mgt]
| .msRead .. =>
[.rc, .mbox, .reply]
| .scrubError .. =>
[.rc, .count, .sst]
| .xoReturn .. | .resetNRelease .. =>
[.syn, .pwr, .pmu]
| .dataReadReturn .. =>
[.staged, .rw, .rc, .count, .bank, .snap, .tt, .macA, .macB, .ring, .ftxTurn, .cmd, .pair]
| .pcieLinkUp .. =>
[.pci]
| .ecrcErr =>
[.rc]

end Sys2Proof.Machine
end

