-- ==== Sys2Proof/Certificates/Slice0/Obligations.lean ====
section
/-! DEFINITION. The statements about this block: what each command does, what it leaves as it was, and what every step keeps.
Each statement names the rules of the specification it formalises. -/

open Sys2Proof Sys2Proof.Machine

/-! ### The whole machine -/

/-- For every command c, rest of the queue and state s whose queue is c followed by the rest, step of s is exec of c
on s with the queue's rest. This is the block's form of running a command; the queue is the model's own field (log 1).
-/
def Obligations.StepRunsFront : Prop :=
  ∀ (s : State) (c : Instr) (rest : List Instr), s.pending = c :: rest → step s = exec c { s with pending := rest }

/-- With an empty queue step answers next of the same state. That the block idles then, and that time passes only by
TICK, is the model's choice (DESIGN CHOICE, log 1). -/
def Obligations.StepIdlesWithoutCommand : Prop :=
  ∀ (s : State), s.pending = [] → step s = .next s

/-- For every command and every state exec answers a next state, with the member kept, the queue kept, what was put
out kept as a prefix, free values only drawn, and no message-signalled interrupt left unissued: no command of the
table ends in a fault or a refusal, on any operands. -/
def Obligations.EveryCommandCompletes : Prop :=
  ∀ (c : Instr) (s : State), ∃ t, exec c s = .next t ∧ t.member = s.member ∧ t.pending = s.pending ∧ s.out <+: t.out ∧
    s.free ≤ t.free ∧ t.due = []

/-- From every state whose register stores, banks, shadows, delay pool, counters and unit tables are in canonical form
(keys strictly rising, no entry equal to what an unlisted key reads as) with every statistics counter at most its
maximum, a step that answers a next state leaves them so. The canonical form is the model's; the bound on counters is
R113. -/
def Obligations.StoresInvariant : Prop :=
  ∀ (s t : State), StoresOk s → step s = .next t → StoresOk t

/-- State.reset meets the invariant every step keeps, with no command waiting and no interrupt message due. -/
def Obligations.ResetStoresAreCanonical : Prop :=
  StoresOk State.reset ∧ State.reset.pending = [] ∧ State.reset.due = []

/-- For every command and every state, when exec answers a next state, every part of the state outside the parts
listed for that command is what it was: no register store, unit, FIFO or reply it has no business with changes. The
lists (touches) are read from the rules for each command. -/
def Obligations.CommandFrame : Prop :=
  ∀ (c : Instr) (s t : State), exec c s = .next t → LeavesAllBut (touches c) s t

/-- At reset every staged and every applied register reads its reset word, every counter 0, no register is locked, no
unit is in hard stop, no snapshot waits and nothing is in the queues; among the reset words, for the registers named
here, are the values the register tables state. Which member is reset is the model's choice (log 3). -/
def Obligations.ResetValues : Prop :=
  (∀ a, State.reset.stagedW a = resetWord a ∧ State.reset.appliedW a = resetWord a ∧ State.reset.rwW a = resetWord a ∧
      State.reset.rcW a = resetWord a ∧ State.reset.counter a = 0) ∧
    State.reset.reg.lock = 0 ∧ State.reset.reg.hstop = 0 ∧ State.reset.reg.snaps = [] ∧ State.reset.ring = [] ∧
    State.reset.mbox = [] ∧ State.reset.hrx = [] ∧ State.reset.tt.now = 0 ∧ State.reset.tt.rateOk = false ∧
    resetWord 0x20000 = 0x3E8 ∧ resetWord 0x20040 = 0x6400 ∧ resetWord 0x20100 = 0xD00061 ∧ resetWord 0x20180 = 0xD00000 ∧
    resetWord 0x24000 = 0x810000 ∧ resetWord 0x24004 = 0x404002 ∧ resetWord 0x28000 = 0x11 ∧ resetWord 0x28010 = 0x314 ∧
    resetWord 0x2C000 = 1 ∧ resetWord 0x10000 = 0x1C ∧ resetWord 0x10010 = 0x5F2 ∧ resetWord 0x14014 = 0x6703 ∧
    resetWord 0x38000 = 0xA0A05 ∧ resetWord 0x38010 = 0x3C5032 ∧ resetWord 0x7000 = 0x8801F5C ∧ resetWord 0x8000 = 0x1000 ∧
    resetWord 0x8110 = 4 ∧ resetWord 0x50100 = 0x20320000 ∧ resetWord 0x50240 = 0x8000 ∧ resetWord 0x70000 = 0x450042A0 ∧
    resetWord 0x88004 = 0x8300410 ∧ resetWord 0x88014 = 0x20037 ∧ resetWord 0x3014 = 3 ∧ resetWord 0x1058 = 1

/-! ### Serial audio ports -/

/-- R300 and R306: START, STOP and RESTART of SAP_CTL are held for the port's next boundary; no other port and no
other unit changes. R296: at its frame sync a port that is not started takes its applied words into force and latches
its applied format. Commands stated here to complete, by an equation exec (c) s = .next t under conditions on state
and operands alone: .sapAdopt, .sapCtlStart, .sapCtlStop, .sapCtlRestart. -/
def Obligations.SapBoundaryRequestsAndAdoption : Prop :=
  ((∀ (s : State) (p : Nat) (q : Req), Ready s → p < numSap s.member →
    ∃ t, exec (.sapCtlStart p q) s = .next t ∧ t.sapOf p = { s.sapOf p with reqStart := true } ∧
      (∀ k, k ≠ p → t.sapOf k = s.sapOf k) ∧ LeavesAllBut [.sap] s t) ∧
  (∀ (s : State) (p : Nat) (q : Req), Ready s → p < numSap s.member →
    ∃ t, exec (.sapCtlStop p q) s = .next t ∧ t.sapOf p = { s.sapOf p with reqStop := true } ∧
      (∀ k, k ≠ p → t.sapOf k = s.sapOf k) ∧ LeavesAllBut [.sap] s t) ∧
  (∀ (s : State) (p : Nat) (q : Req), Ready s → p < numSap s.member →
    ∃ t, exec (.sapCtlRestart p q) s = .next t ∧ t.sapOf p = { s.sapOf p with reqRestart := true } ∧
      (∀ k, k ≠ p → t.sapOf k = s.sapOf k) ∧ LeavesAllBut [.sap] s t)) ∧
  (∀ (s : State) (p : Nat), Ready s → p < numSap s.member →
    ∃ t, exec (.sapAdopt p) s = .next t ∧
      ((s.sapOf p).started = false → (t.sapOf p).fmt = s.appliedW (sapBase p) &&& fmtMask ∧
        ∀ k, k ≠ p → t.sapOf k = s.sapOf k) ∧
      (∀ a, sapKey p a = true → t.inForceW a = s.appliedW a) ∧
      (∀ a, sapKey p a = false → t.inForceW a = s.inForceW a) ∧ LeavesAllBut [.inForce, .rc, .snap, .mix, .sap] s t)

/-- R302: a slave that loses BCLK or FS for the first time shows the loss and its cause, sets CLKLOSS, counts it,
raises SAP_CLKLOSS and leaves the running states; R308: a loss while the port runs opens its window. R298, R299, R303:
a newly adopted rate class is reported with RATECHG and its event; the rate register takes the measured rate; a clock
that returns on the house class makes a port that was started restart with its group at the next boundary. Commands
stated here to complete, by an equation exec (c) s = .next t under conditions on state and operands alone:
.sapRatechg, .sapRateUpdate, .sapClkloss, .sapClockReturn. -/
def Obligations.SapClocksAndRates : Prop :=
  (∀ (s : State) (p cause : Nat), Ready s → p < numSap s.member → s.sapMaster p = false → sEn (s.sapCfg p) = true →
    (s.sapOf p).clkOk = true → (s.sapOf p).window = false → (s.sapOf p).st ≠ 7 → cause = 1 ∨ cause = 2 →
    s.counter (sapCtr p 1) + 1 < ctrMax →
    ∃ t, exec (.sapClkloss p cause) s = .next t ∧ (t.sapOf p).st = 5 ∧ (t.sapOf p).clkOk = false ∧
      (t.sapOf p).loss = cause ∧ (t.sapOf p).window = sapBusy (s.sapOf p).st ∧
      bitAt (t.rcW (sapFlags p)) 0 = true ∧ t.event 64 = true ∧ t.counter (sapCtr p 1) = s.counter (sapCtr p 1) + 1 ∧
      (∀ k, k ≠ p → t.sapOf k = s.sapOf k) ∧ RcOnly [sapFlags p, evtStat 64] s t ∧ CountOnly [sapCtr p 1] s t ∧
      LeavesAllBut [.rc, .count, .mix, .sap, .asrc] s t) ∧
  ((∀ (s : State) (p cls : Nat), Ready s → p < numSap s.member → sEn (s.sapCfg p) = true → cls ≤ 9 →
    (s.sapOf p).rclass ≠ cls → s.counter 0x74A08 + 1 < ctrMax →
    ∃ t, exec (.sapRatechg p cls) s = .next t ∧ (t.sapOf p).rclass = cls ∧ bitAt (t.rcW (sapFlags p)) 1 = true ∧
      t.event 65 = true ∧ (∀ k, k ≠ p → t.sapOf k = s.sapOf k) ∧ LeavesAllBut [.rc, .count, .sap, .asrc] s t) ∧
  (∀ (s : State) (p rate : Nat), Ready s → p < numSap s.member → sEn (s.sapCfg p) = true → rate < 2 ^ 25 →
    ∃ t, exec (.sapRateUpdate p rate) s = .next t ∧ t.sapOf p = { s.sapOf p with rate := rate } ∧
      (∀ k, k ≠ p → t.sapOf k = s.sapOf k) ∧ LeavesAllBut [.sap] s t) ∧
  (∀ (s : State) (p : Nat), Ready s → p < numSap s.member → s.sapMaster p = false → (s.sapOf p).clkOk = false →
    (s.sapOf p).st = 5 → (s.sapOf p).wasStarted = true →
    ((s.sapOf p).loss = 3 → (s.sapOf p).rclass = houseClass s.syn.rate) →
    ∃ t, exec (.sapClockReturn p) s = .next t ∧ t.sapOf p = { s.sapOf p with clkOk := true, teamDue := true } ∧
      (∀ k, k ≠ p → t.sapOf k = s.sapOf k) ∧ LeavesAllBut [.sap] s t))

/-- R304 to R308: a framing error on a running ungrouped port without AUTORESTART counts, flags and raises SLIP and
leaves the port running; a faded port that stands alone resumes; a finished stop ramp stops the port; the ramp up
after a restart closes the window. Commands stated here to complete, by an equation exec (c) s = .next t under
conditions on state and operands alone: .framingError, .sapResume, .sapStopEnd, .sapRampUpEnd. -/
def Obligations.SapSlipAndRecovery : Prop :=
  (∀ (s : State) (p : Nat), Ready s → p < numSap s.member → (s.sapOf p).st = 3 → (s.sapOf p).window = false →
    sGroup (s.sapCfg p) = 0 → sAuto (s.sapCfg p) = false → s.counter (sapCtr p 0) + 1 < ctrMax →
    ∃ t, exec (.framingError p) s = .next t ∧ (t.sapOf p).st = 3 ∧ (t.sapOf p).aligned = false ∧ (t.sapOf p).slip = 3 ∧
      (t.sapOf p).window = false ∧ bitAt (t.rcW (sapFlags p)) 2 = true ∧ t.event 66 = true ∧
      t.counter (sapCtr p 0) = s.counter (sapCtr p 0) + 1 ∧ (∀ k, k ≠ p → t.sapOf k = s.sapOf k) ∧
      RcOnly [sapFlags p, evtStat 66] s t ∧ CountOnly [sapCtr p 0] s t ∧ LeavesAllBut [.rc, .count, .sap] s t) ∧
  (∀ (s : State) (p : Nat), Ready s → p < numSap s.member → (s.sapOf p).st = 6 → (s.sapOf p).resumeDue = true →
    sGroup (s.sapCfg p) = 0 →
    ∃ t, exec (.sapResume p) s = .next t ∧ (t.sapOf p).st = 3 ∧ (t.sapOf p).aligned = true ∧
      (t.sapOf p).startAt = s.tt.now ∧ (t.sapOf p).winRamp = (s.sapOf p).window ∧
      (∀ k, k ≠ p → t.sapOf k = s.sapOf k) ∧ LeavesAllBut [.sap] s t) ∧
  (∀ (s : State) (p : Nat), Ready s → p < numSap s.member → (s.sapOf p).st = 4 → (s.sapOf p).inRamp.atRest = true →
    (s.sapOf p).outDue = none → (s.sapOf p).outDone = true →
    ∃ t, exec (.sapStopEnd p) s = .next t ∧ (t.sapOf p).st = s.sapIdle p ∧ (t.sapOf p).started = false ∧
      (∀ k, k ≠ p → t.sapOf k = s.sapOf k) ∧ LeavesAllBut [.mix, .sap, .asrc] s t) ∧
  (∀ (s : State) (p : Nat), Ready s → p < numSap s.member → (s.sapOf p).window = true → (s.sapOf p).winRamp = true →
    (s.sapOf p).st = 3 → (s.sapOf p).starting = false → (s.sapOf p).inRamp.atRest = true →
    ∃ t, exec (.sapRampUpEnd p) s = .next t ∧ t.sapOf p = { s.sapOf p with window := false, winRamp := false } ∧
      (∀ k, k ≠ p → t.sapOf k = s.sapOf k) ∧ LeavesAllBut [.sap] s t)

/-- R313 and R314: a tracker's lock, loss of lock and out-of-range move its state and the counts and events, and a
channel with a locked tracker and a full filter fades in. Commands stated here to complete, by an equation exec (c) s
= .next t under conditions on state and operands alone: .trackerLock, .asrcUnlock, .asrcRange, .asrcFadeIn. -/
def Obligations.RateTrackerStates : Prop :=
  (∀ (s : State) (p ratio : Nat), Ready s → p < numTracker s.member → (s.trkOf p).st = 1 ∨ (s.trkOf p).st = 3 →
    s.trkValid p ratio = true →
    ∃ t, exec (.trackerLock p ratio) s = .next t ∧ (t.trkOf p).st = 2 ∧ (t.trkOf p).ratio = ratio ∧
      (∀ k, k ≠ p → t.trkOf k = s.trkOf k) ∧ LeavesAllBut [.asrc] s t) ∧
  (∀ (s : State) (p : Nat), Ready s → p < numTracker s.member → 0 < numAsrc s.member → (s.trkOf p).st = 2 →
    s.counter 0x74A08 + 1 < ctrMax →
    ∃ t, exec (.asrcUnlock p) s = .next t ∧ (t.trkOf p).st = 1 ∧ (t.trkOf p).ratio = (s.trkOf p).ratio ∧
      bitAt (t.rcW 0x74004) 2 = true ∧ t.event 69 = true ∧ t.counter 0x74A08 = s.counter 0x74A08 + 1 ∧
      (∀ k, k ≠ p → t.trkOf k = s.trkOf k) ∧ RcOnly [0x74004, evtStat 69] s t ∧ CountOnly [0x74A08] s t ∧
      LeavesAllBut [.rc, .count, .asrc] s t) ∧
  (∀ (s : State) (p : Nat), Ready s → p < numTracker s.member → 0 < numAsrc s.member → (s.trkOf p).st = 1 ∨ (s.trkOf p).st = 2 →
    ∃ t, exec (.asrcRange p) s = .next t ∧ (t.trkOf p).st = 3 ∧ bitAt (t.rcW 0x74004) 1 = true ∧ t.event 70 = true ∧
      (∀ k, k ≠ p → t.trkOf k = s.trkOf k) ∧ RcOnly [0x74004, evtStat 70] s t ∧ LeavesAllBut [.rc, .asrc] s t) ∧
  (∀ (s : State) (n : Nat), Ready s → (s.chOf n).admitted = true → (s.chOf n).st = 1 →
    (s.trkOf (aPort (s.chOf n).cfg)).st = 2 → s.asleep n = false →
    ∃ t, exec (.asrcFadeIn n) s = .next t ∧ t.chOf n = { s.chOf n with st := 2 } ∧
      (∀ k, k ≠ n → t.chOf k = s.chOf k) ∧ (∀ k, t.trkOf k = s.trkOf k) ∧ LeavesAllBut [.asrc] s t)

/-! ### Register accesses -/

/-- R388 and R391: a write of a register that stages its value changes its staged word alone and sets its group's
RCU_STAGED bit; where the group is locked the write is discarded as a bus error. Commands stated here to complete, by
an equation exec (c) s = .next t under conditions on state and operands alone: .registerWrite. -/
def Obligations.StagedWriteWaits : Prop :=
  ∀ (s : State) (q : Req) (a b : Nat) (d : Word) (r : RegRow), Ready s → a < 0x100000 → a % 4 = 0 →
    s.present a = some r → blockAt a = some b → r.rs ≠ 0 → r.rw = 0 → r.wo = 0 → r.lk = 0 → r.port = false →
    (s.groupLocked b = false →
      ∃ t, exec (.registerWrite (wordAccess q a d)) s = .next t ∧
        t.stagedW a = merge (s.stagedW a) (toWord r.rs &&& ~~~(s.lacking a)) d ∧
        (∀ k, k ≠ a → t.stagedW k = s.stagedW k) ∧ (∀ k, t.appliedW k = s.appliedW k) ∧
        t.reg.stagedBits.getLsbD (s.groupOf b) = true ∧ LeavesAllBut [.staged, .snap] s t) ∧
    (s.groupLocked b = true →
      ∃ t, exec (.registerWrite (wordAccess q a d)) s = .next t ∧ bitAt (t.rcW 0x100C) 0 = true ∧
        t.reg.berrAddr = toWord a ∧ t.event 92 = true ∧ t.event 93 = true ∧
        (∀ k, t.stagedW k = s.stagedW k) ∧ RcOnly [0x100C, evtStat 92] s t ∧ LeavesAllBut [.rc, .rcu] s t)

/-- R382: what a bus error leaves, for each way the spec names: an access that is not a whole aligned word or pair of
words (R380), a data access at a T-space address outside every table, a write of a locked group through RCU_IND_DATA,
and a second write of PCI_SUBID. The capture is overwritten, with LOST where the one before had not been read;
RCU_BERR_ADDR holds the offset as accessed, or the T-space address with TSPACE set; BUS_ERR is raised, and LOCK_VIOL
with it for LOCKED; nothing else changes. Commands stated here to complete, by an equation exec (c) s = .next t under
conditions on state and operands alone: .registerWrite, .clearOnRead, .indDataWrite, .pciSubidWrite. -/
def Obligations.BusErrorsCaptured : Prop :=
  (∀ (s : State) (x : Access) (i : Instant), Ready s → x.bar = .regs → legalAccess x = false →
    (∃ t, exec (.registerWrite x) s = .next t ∧ bitAt (t.rcW 0x100C) 0 = true ∧ fld (t.rcW 0x100C) 1 3 = 2 ∧
      bitAt (t.rcW 0x100C) 4 = true ∧ bitAt (t.rcW 0x100C) 8 = false ∧ bitAt (t.rcW 0x100C) 9 = bitAt (s.rcW 0x100C) 0 ∧
      t.reg.berrAddr = toWord x.off.toNat ∧ t.event 92 = true ∧ RcOnly [0x100C, evtStat 92] s t ∧
      LeavesAllBut [.rc, .rcu] s t) ∧
    (∃ t, exec (.clearOnRead x i) s = .next t ∧ t.reply = .abort ∧ bitAt (t.rcW 0x100C) 0 = true ∧
      fld (t.rcW 0x100C) 1 3 = 2 ∧ bitAt (t.rcW 0x100C) 4 = false ∧ bitAt (t.rcW 0x100C) 8 = false ∧
      bitAt (t.rcW 0x100C) 9 = bitAt (s.rcW 0x100C) 0 ∧ t.reg.berrAddr = toWord x.off.toNat ∧ t.event 92 = true ∧
      RcOnly [0x100C, evtStat 92] s t ∧ LeavesAllBut [.rc, .rcu, .reply] s t)) ∧
  (∀ (s : State) (q : Req) (d : Word), Ready s → s.tFault (s.requester q).indAddr.toNat = some 6 →
    ∃ t, exec (.indDataWrite ⟨q, .normal, d⟩) s = .next t ∧ bitAt (t.rcW 0x100C) 0 = true ∧ fld (t.rcW 0x100C) 1 3 = 6 ∧
      bitAt (t.rcW 0x100C) 4 = true ∧ bitAt (t.rcW 0x100C) 8 = true ∧ bitAt (t.rcW 0x100C) 9 = bitAt (s.rcW 0x100C) 0 ∧
      t.reg.berrAddr = (s.requester q).indAddr ∧ t.event 92 = true ∧ RcOnly [0x100C, evtStat 92] s t ∧
      LeavesAllBut [.rc, .rcu] s t) ∧
  (∀ (s : State) (q : Req) (d : Word) (r : RegRow), Ready s → s.tFault (s.requester q).indAddr.toNat = none →
    rowT (s.requester q).indAddr.toNat = some r → (s.requester q).indAddr.toNat / 0x1000000 < 7 →
    s.groupLocked (tableBlock (s.requester q).indAddr.toNat) = true →
    ∃ t, exec (.indDataWrite ⟨q, .normal, d⟩) s = .next t ∧ bitAt (t.rcW 0x100C) 0 = true ∧ fld (t.rcW 0x100C) 1 3 = 5 ∧
      bitAt (t.rcW 0x100C) 8 = true ∧ bitAt (t.rcW 0x100C) 9 = bitAt (s.rcW 0x100C) 0 ∧
      t.reg.berrAddr = (s.requester q).indAddr ∧ t.event 92 = true ∧ t.event 93 = true ∧
      RcOnly [0x100C, evtStat 92] s t ∧ LeavesAllBut [.rc, .rcu] s t) ∧
  (∀ (s : State) (x : RegWrite), Ready s → s.reg.subidDone = true →
    ∃ t, exec (.pciSubidWrite x) s = .next t ∧ bitAt (t.rcW 0x100C) 0 = true ∧ fld (t.rcW 0x100C) 1 3 = 5 ∧
      bitAt (t.rcW 0x100C) 8 = false ∧ bitAt (t.rcW 0x100C) 9 = bitAt (s.rcW 0x100C) 0 ∧
      t.reg.berrAddr = toWord (viaView x.view 0x7000) ∧ t.event 92 = true ∧ t.event 93 = true ∧
      RcOnly [0x100C, evtStat 92] s t ∧ LeavesAllBut [.rc, .rcu] s t)

/-- R386 and R387: a 32-bit normal-view read answers the register's value; a counter read this way returns to 0 and
its HI word waits in the requester's shadow, and an RC register returns to its reset word; every other counter and
word is as it was. Commands stated here to complete, by an equation exec (c) s = .next t under conditions on state and
operands alone: .clearOnRead, .latchingRead. -/
def Obligations.ReadsClearAndLatch : Prop :=
  ∀ (s : State) (q : Req) (i : Instant) (a : Nat) (d : Word) (r : RegRow), Ready s → a < 0x100000 → a % 4 = 0 →
    s.present a = some r → r.port = false → isPartner a = false →
    (r.ctr = true →
      ∃ t, exec (.clearOnRead (wordAccess q a d) i) s = .next t ∧ t.reply = .value (s.regValue q i a r) 0 ∧
        t.counter a = 0 ∧ (∀ k, k ≠ a → t.counter k = s.counter k) ∧
        sget (fun _ => 0) (t.requester q).shadow (a + 4) = s.roValue i (a + 4) ∧
        LeavesAllBut [.count, .rcu, .reply] s t) ∧
    (r.ctr = false → r.rc ≠ 0 → latched r a = [] →
      ∃ t, exec (.clearOnRead (wordAccess q a d) i) s = .next t ∧ t.reply = .value (s.regValue q i a r) 0 ∧
        t.rcW a = resetWord a ∧ (∀ k, k ≠ a → t.rcW k = s.rcW k) ∧ LeavesAllBut [.rc, .rcu, .reply] s t) ∧
    (r.ctr = false → r.rc = 0 →
      ∃ t, exec (.latchingRead (wordAccess q a d) i) s = .next t ∧ t.reply = .value (s.regValue q i a r) 0 ∧
        (∀ k ∈ latched r a, sget (fun _ => 0) (t.requester q).shadow k = s.roValue i k) ∧
        LeavesAllBut [.rcu, .reply] s t)

/-- R13: a strobe takes, for each group of its mask, a snapshot of the staged values of the group's blocks, in place
of an earlier one that waits; no applied value changes before the boundary. Commands stated here to complete, by an
equation exec (c) s = .next t under conditions on state and operands alone: .rcuStrobe. -/
def Obligations.StrobeTakesSnapshots : Prop :=
  ∀ (s : State) (q : Req) (v : View) (d : Word), Ready s → v = .normal ∨ v = .set →
    ∃ t, exec (.rcuStrobe ⟨q, v, d⟩) s = .next t ∧
      (∀ g < 16, bitAt d g = true → t.reg.stagedBits.getLsbD g = false ∧ ∃ x ∈ t.reg.snaps, x.group = g ∧
        x.blocks = s.groupBlocks g ∧ ∀ a b, keyBlock a = some b → b ∈ s.groupBlocks g → x.word a = s.stagedW a) ∧
      (∀ g < 16, bitAt d g = false → t.reg.stagedBits.getLsbD g = s.reg.stagedBits.getLsbD g ∧
        ∀ x : Snapshot, x.group = g → (x ∈ t.reg.snaps ↔ x ∈ s.reg.snaps)) ∧
      (∀ k, t.stagedW k = s.stagedW k) ∧ (∀ k, t.appliedW k = s.appliedW k) ∧ LeavesAllBut [.snap] s t

/-- R383: a write through the clear or the toggle view of a register with WO fields is a bus error ALIAS and changes
nothing else. R11, R397 and R405: words the RCU and EVT take at once. A group map word moves its blocks and leaves
their staged values; RCU_CRC_REF commits and restarts comparison; EVT_MASK takes its word. Commands stated here to
complete, by an equation exec (c) s = .next t under conditions on state and operands alone: .rcuStrobe, .grpmapWrite,
.crcRefWrite, .rcuBrst, .maskWrite. -/
def Obligations.AliasesRefusedAndImmediateWords : Prop :=
  (∀ (s : State) (q : Req) (v : View) (d : Word), Ready s → v = .clear ∨ v = .toggle →
    (∃ t, exec (.rcuStrobe ⟨q, v, d⟩) s = .next t ∧ fld (t.rcW 0x100C) 1 3 = 4 ∧ t.event 92 = true ∧
      RcOnly [0x100C, evtStat 92] s t ∧ LeavesAllBut [.rc, .rcu] s t) ∧
    (∃ t, exec (.rcuBrst ⟨q, v, d⟩) s = .next t ∧ fld (t.rcW 0x100C) 1 3 = 4 ∧ t.event 92 = true ∧
      t.reg.brst = s.reg.brst ∧ RcOnly [0x100C, evtStat 92] s t ∧ LeavesAllBut [.rc, .rcu] s t)) ∧
  ((∀ (s : State) (n : Nat) (x : RegWrite), Ready s → n < 5 →
    let a := 0x1020 + 4 * n
    let w := merge (s.rwW a) (toWord (if n = 4 then 0xFFFFFF else 0xFFFFFFFF) &&& ~~~(s.lacking a)) (viewBits x.view (s.rwW a) x.data)
    s.wordLocked a w = false →
    ∃ t, exec (.grpmapWrite n x) s = .next t ∧ t.rwW a = w ∧ (∀ k, k ≠ a → t.rwW k = s.rwW k) ∧
      (∀ k, t.stagedW k = s.stagedW k) ∧ LeavesAllBut [.rw] s t) ∧
  (∀ (s : State) (x : RegWrite), Ready s → s.reg.lock.getLsbD 17 = false →
    ∃ t, exec (.crcRefWrite x) s = .next t ∧ t.rwW 0x1060 = viewBits x.view (s.rwW 0x1060) x.data ∧
      t.reg.crc = { s.reg.crc with commit := true, passCounts := false, fresh := true, held := false } ∧
      (∀ k, k ≠ 0x1060 → t.rwW k = s.rwW k) ∧ (s.reg.crc.held = false → t.mix = s.mix) ∧ LeavesAllBut [.rw, .crc, .mix] s t) ∧
  (∀ (s : State) (k : Nat) (x : RegWrite), Ready s → k < 3 →
    ∃ t, exec (.maskWrite k x) s = .next t ∧ t.rwW (0x2010 + 4 * k) = viewBits x.view (s.rwW (0x2010 + 4 * k)) x.data ∧
      (∀ j, j ≠ 0x2010 + 4 * k → t.rwW j = s.rwW j) ∧ (∀ n, t.event n = s.event n) ∧ LeavesAllBut [.rw] s t))

/-- R394: a data access of the T-space word at RCU_IND_ADDR stages the word or answers it, then the address of that
requester advances by 4 where RCU_IND_CTL.INC is 1; the other requester's stays. Commands stated here to complete, by
an equation exec (c) s = .next t under conditions on state and operands alone: .indDataWrite, .indDataRead. -/
def Obligations.IndirectAccess : Prop :=
  (∀ (s : State) (q : Req) (d : Word) (r : RegRow), Ready s →
    let a := (s.requester q).indAddr.toNat
    s.tFault a = none → rowT a = some r → a / 0x1000000 < 7 → s.groupLocked (tableBlock a) = false →
    s.inMode1 a = false → s.inMode2 a = false →
    ∃ t, exec (.indDataWrite ⟨q, .normal, d⟩) s = .next t ∧ t.stagedW a = merge (s.stagedW a) (toWord r.rs) d ∧
      (∀ k, k ≠ a → t.stagedW k = s.stagedW k) ∧ t.reg.stagedBits.getLsbD (s.groupOf (tableBlock a)) = true ∧
      (t.requester q).indAddr = (if (s.requester q).indInc then (s.requester q).indAddr + 4 else (s.requester q).indAddr) ∧
      (∀ p, p ≠ q → t.requester p = s.requester p) ∧ LeavesAllBut [.staged, .snap, .rcu] s t) ∧
  (∀ (s : State) (q : Req) (i : Instant) (r : RegRow), Ready s →
    let a := (s.requester q).indAddr.toNat
    s.tFault a = none → rowT a = some r → a / 0x1000000 < 7 →
    ∃ t, exec (.indDataRead q i) s = .next t ∧ t.reply = .value (s.tableWord (s.requester q).viewApplied a) 0 ∧
      (t.requester q).indAddr = (if (s.requester q).indInc then (s.requester q).indAddr + 4 else (s.requester q).indAddr) ∧
      (∀ p, p ≠ q → t.requester p = s.requester p) ∧ LeavesAllBut [.rcu, .reply] s t)

/-- R391: the write-once registers PAIR_ROLE and PCI_SUBID take one write of all their writable bits, through any
view; a later write is a bus error LOCKED and changes nothing of them. RCU_LOCK takes any number of writes through the
normal view and the set alias, each of which only adds the locks written as 1, and no write of it raises LOCKED:
through the other aliases it is a bus error ALIAS and sets no lock. Commands stated here to complete, by an equation
exec (c) s = .next t under conditions on state and operands alone: .rcuLockWrite, .pairRoleWrite, .pciSubidWrite. -/
def Obligations.WriteOnceAndSetOnly : Prop :=
  (∀ (s : State) (x : RegWrite), Ready s → hasPair s.member = true →
    (s.reg.roleDone = false → ∃ t, exec (.pairRoleWrite x) s = .next t ∧
      t.rwW 0x88000 = merge (s.rwW 0x88000) 0xFFFF0001 (viewBits x.view (s.rwW 0x88000) x.data) ∧ t.reg.roleDone = true ∧
      (∀ k, k ≠ 0x88000 → t.rwW k = s.rwW k) ∧ LeavesAllBut [.rw, .rcu] s t) ∧
    (s.reg.roleDone = true → ∃ t, exec (.pairRoleWrite x) s = .next t ∧ fld (t.rcW 0x100C) 1 3 = 5 ∧ t.event 93 = true ∧
      (∀ k, t.rwW k = s.rwW k) ∧ RcOnly [0x100C, evtStat 92] s t ∧ LeavesAllBut [.rc, .rcu] s t)) ∧
  (∀ (s : State) (x : RegWrite), Ready s →
    (s.reg.subidDone = false → ∃ t, exec (.pciSubidWrite x) s = .next t ∧
      t.rwW 0x7000 = viewBits x.view (s.rwW 0x7000) x.data ∧ t.reg.subidDone = true ∧
      (∀ k, k ≠ 0x7000 → t.rwW k = s.rwW k) ∧ LeavesAllBut [.rw, .rcu] s t) ∧
    (s.reg.subidDone = true → ∃ t, exec (.pciSubidWrite x) s = .next t ∧ fld (t.rcW 0x100C) 1 3 = 5 ∧ t.event 93 = true ∧
      (∀ k, t.rwW k = s.rwW k) ∧ RcOnly [0x100C, evtStat 92] s t ∧ LeavesAllBut [.rc, .rcu] s t)) ∧
  (∀ (s : State) (q : Req) (v : View) (d : Word), Ready s →
    (v = .normal ∨ v = .set → ∃ t, exec (.rcuLockWrite ⟨q, v, d⟩) s = .next t ∧
      (∀ i < 18, t.reg.lock.getLsbD i = (s.reg.lock.getLsbD i || d.getLsbD i)) ∧
      t.reg.berrAddr = s.reg.berrAddr ∧ t.reg.brst = s.reg.brst ∧ LeavesAllBut [.rcu] s t) ∧
    (v = .clear ∨ v = .toggle → ∃ t, exec (.rcuLockWrite ⟨q, v, d⟩) s = .next t ∧ fld (t.rcW 0x100C) 1 3 = 4 ∧
      t.event 92 = true ∧ t.reg.lock = s.reg.lock ∧ RcOnly [0x100C, evtStat 92] s t ∧ LeavesAllBut [.rc, .rcu] s t))

/-- R240: RCU_BRST records the reset of a unit that is in hard stop for the next boundary and no other unit's; at that
boundary every unit recorded leaves hard stop and nothing stays recorded. R396 and R397: a complete pass writes its
result to RCU_CRC_LAST, counts, and, where it is compared, MATCH; the first mismatch raises CFG_CRC, which a pass
ended by a parity error also does when it is compared, leaving LAST as it was. Commands stated here to complete, by an
equation exec (c) s = .next t under conditions on state and operands alone: .rcuBrst, .blockReset, .crcPassEnd. -/
def Obligations.HardStopResetsAndCrcPasses : Prop :=
  ((∀ (s : State) (q : Req) (v : View) (d : Word), Ready s → v = .normal ∨ v = .set →
    (s.reg.hstop.getLsbD (fld d 0 5) = true → fld d 0 5 ∉ s.reg.brst →
      ∃ t, exec (.rcuBrst ⟨q, v, d⟩) s = .next t ∧ t.reg.brst = s.reg.brst ++ [fld d 0 5] ∧ t.reg.lock = s.reg.lock ∧
        t.reg.hstop = s.reg.hstop ∧ LeavesAllBut [.rcu] s t) ∧
    (s.reg.hstop.getLsbD (fld d 0 5) = false →
      ∃ t, exec (.rcuBrst ⟨q, v, d⟩) s = .next t ∧ LeavesAllBut [] s t)) ∧
  (∀ (s : State), Ready s →
    ∃ t, exec .blockReset s = .next t ∧ t.reg.brst = [] ∧
      ∀ n < 24, t.reg.hstop.getLsbD n = (s.reg.hstop.getLsbD n && !s.reg.brst.contains n))) ∧
  (∀ (s : State), Ready s → s.reg.crc.passOn = true →
    (s.reg.crc.passCounts = false → ∃ t, exec (.crcPassEnd false) s = .next t ∧ t.reg.crc.last = s.crcValue ∧
      t.reg.crc.passes = (s.reg.crc.passes + 1) % 65536 ∧ t.reg.crc.matched = s.reg.crc.matched ∧ LeavesAllBut [.crc] s t) ∧
    (s.reg.crc.passCounts = true → s.crcValue = s.rwW 0x1060 → ∃ t, exec (.crcPassEnd false) s = .next t ∧
      t.reg.crc.last = s.crcValue ∧ t.reg.crc.matched = true ∧ t.reg.crc.held = false ∧ LeavesAllBut [.crc, .mix] s t) ∧
    (s.reg.crc.passCounts = true → s.crcValue ≠ s.rwW 0x1060 → s.reg.crc.fresh = true →
      ∃ t, exec (.crcPassEnd false) s = .next t ∧ t.reg.crc.last = s.crcValue ∧ t.reg.crc.matched = false ∧
        t.reg.crc.held = true ∧ bitAt (t.rcW 0x1068) 2 = true ∧ t.event 94 = true ∧
        RcOnly [0x1068, evtStat 94] s t ∧ LeavesAllBut [.rc, .crc, .mix] s t) ∧
    (s.reg.crc.passCounts = true → s.reg.crc.fresh = true →
      ∃ t, exec (.crcPassEnd true) s = .next t ∧ t.reg.crc.last = s.reg.crc.last ∧ t.reg.crc.passOn = false ∧
        bitAt (t.rcW 0x1068) 3 = true ∧ bitAt (t.rcW 0x1068) 2 = true ∧ t.event 94 = true ∧
        RcOnly [0x1068, evtStat 94] s t ∧ LeavesAllBut [.rc, .crc, .mix] s t))

/-! ### Ticks and the timetable -/

/-- R31 and R33: at a tick boundary of a part that is powered, not overheated and not about to wake, media position
advances by the tick length; a part held in reset or asleep keeps its state. Commands stated here to complete, by an
equation exec (c) s = .next t under conditions on state and operands alone: .tickBoundary. -/
def Obligations.TickAdvancesMediaTime : Prop :=
  ∀ (s : State) (x : TickIn),
    (s.down = false → s.pmu.overheat = false → s.pmu.wakePend = none →
      ∃ t, exec (.tickBoundary x) s = .next t ∧ t.tt.now = s.tt.now + s.T) ∧
    (s.down = true → ∃ t, exec (.tickBoundary x) s = .next t ∧ LeavesAllBut [] s t)

/-- R15 and R32: the power die adopts the applied words of its registers while its link is not stopped; a tick length
that waits is adopted at a multiple of 32 samples and at no other boundary, and refused with TICK_REFUSED where
something runs then. R14 and R262: a block that adopts no value in place of another takes the snapshot's words outside
its regions in mode 1, and no other word changes. Commands stated here to complete, by an equation exec (c) s = .next
t under conditions on state and operands alone: .pwrAdopt, .tickLengthAdopt. -/
def Obligations.AdoptionAndSnapshots : Prop :=
  ((∀ (s : State), Ready s → hasPower s.member = true → s.pwr.linkHstop = false →
    ∃ t, exec .pwrAdopt s = .next t ∧ (∀ a, pdKey a = true → t.inForceW a = s.appliedW a) ∧
      (∀ a, pdKey a = false → t.inForceW a = s.inForceW a) ∧ t.pwr.badWords = [] ∧
      LeavesAllBut [.inForce, .snap, .pwr] s t) ∧
  (∀ (s : State) (c : Nat), Ready s → s.tt.tickNext = some c →
    (s.tt.now % 32 = 0 → s.tickBusy = false →
      ∃ t, exec .tickLengthAdopt s = .next t ∧ t.tt.tick = c ∧ t.tt.tickNext = none ∧ t.tt.now = s.tt.now ∧
        t.tt.armed = s.tt.armed ∧ LeavesAllBut [.snap, .tt] s t) ∧
    (s.tt.now % 32 = 0 → s.tickBusy = true →
      ∃ t, exec .tickLengthAdopt s = .next t ∧ t.tt = { s.tt with tickNext := none } ∧ bitAt (t.rcW 0x2C008) 1 = true ∧
        RcOnly [0x2C008] s t ∧ LeavesAllBut [.applied, .rc, .snap, .tt] s t) ∧
    (s.tt.now % 32 ≠ 0 → ∃ t, exec .tickLengthAdopt s = .next t ∧ LeavesAllBut [] s t))) ∧
  (∀ (s : State) (x : Snapshot) (b : Nat), Ready s → swf resetWord x.words = true → b ≠ bMACA → b ≠ bMACB →
    (∀ r ∈ adoptRows, ∀ a ∈ r.addrs, ofBlock b a = false) →
    (∀ a, (s.applyWords x b).appliedW a = if ofBlock b a && !s.inMode1 a then x.word a else s.appliedW a) ∧
    LeavesAllBut [.applied] s (s.applyWords x b))

/-- R35 and R37: a departure register takes a write while the departure is not armed and discards it with WHILE_ARMED
while it is; ARM accepts a departure whose checks hold and refuses any other with its cause; a disarm, and DISARM_ALL,
disarm. Commands stated here to complete, by an equation exec (c) s = .next t under conditions on state and operands
alone: .departureWrite, .arm, .disarm, .disarmAll. -/
def Obligations.DeparturesWrittenAndArmed : Prop :=
  ∀ (s : State) (d : Nat) (q : Req), Ready s → d < 64 → s.shadowed = false →
    (∀ (n : Nat) (x : RegWrite) (r : RegRow), n < 6 → rowAt (depBase d + 4 * n) = some r → s.isArmed d = false →
      ∃ t, exec (.departureWrite d n x) s = .next t ∧
        t.rwW (depBase d + 4 * n) = merge (s.rwW (depBase d + 4 * n)) (toWord r.rw) (viewBits x.view (s.rwW (depBase d + 4 * n)) x.data) ∧
        (∀ k, k ≠ depBase d + 4 * n → t.rwW k = s.rwW k) ∧ LeavesAllBut [.rw, .pair] s t) ∧
    (∀ (n : Nat) (x : RegWrite), n < 6 → s.isArmed d = true →
      ∃ t, exec (.departureWrite d n x) s = .next t ∧ bitAt (t.rcW (depBase d + 0x1C)) 3 = true ∧
        RcOnly [depBase d + 0x1C] s t ∧ LeavesAllBut [.rc] s t) ∧
    (s.isArmed d = false → s.armCause d = 0 →
      ∃ t, exec (.arm d q) s = .next t ∧ t.isArmed d = true ∧ (∀ k < 64, k ≠ d → t.isArmed k = s.isArmed k) ∧
        t.tt.tick = s.tt.tick ∧ LeavesAllBut [.tt, .pair] s t) ∧
    (s.isArmed d = false → s.armCause d ≠ 0 →
      ∃ t, exec (.arm d q) s = .next t ∧ fld (t.rcW (depBase d + 0x1C)) 4 3 = s.armCause d ∧
        RcOnly [depBase d + 0x1C] s t ∧ LeavesAllBut [.rc, .pair] s t) ∧
    (∃ t, exec (.disarm d q) s = .next t ∧ t.isArmed d = false ∧ (∀ k < 64, k ≠ d → t.isArmed k = s.isArmed k) ∧
        t.tt.tick = s.tt.tick ∧ LeavesAllBut [.tt, .pair] s t) ∧
    (∃ t, exec (.disarmAll q) s = .next t ∧ (∀ k, t.isArmed k = false) ∧ t.tt.tick = s.tt.tick ∧ LeavesAllBut [.tt] s t)

/-- R38 to R40: a due departure is taken once with TAKEN set, LATE when its tick has passed, and disarmed unless it
repeats; one that repeats moves on by whole intervals past the boundary and stays armed. -/
def Obligations.DueDeparturesTaken : Prop :=
  ∀ (s : State) (d : Nat), Ready s → d < 64 → s.isArmed d = true →
    (s.depInterval d = 0 → (s.takeOne d).isArmed d = false ∧ bitAt ((s.takeOne d).rcW (depBase d + 0x1C)) 0 = true ∧
      (s.depPos d / s.T < s.tt.now / s.T → bitAt ((s.takeOne d).rcW (depBase d + 0x1C)) 1 = true ∧
        (s.takeOne d).event 43 = true) ∧
      (s.depIrq d = true → (s.takeOne d).event 14 = true) ∧ LeavesAllBut [.rc, .tt] s (s.takeOne d)) ∧
    (s.depInterval d ≠ 0 → s.depPos d / s.T ≤ s.tt.now / s.T →
      s.depPos d + ((s.tt.now / s.T - s.depPos d / s.T) / s.depInterval d + 1) * s.depInterval d * s.T < 2 ^ 64 →
      (s.takeOne d).isArmed d = true ∧ s.tt.now / s.T < (s.takeOne d).depPos d / s.T ∧
      (s.takeOne d).depPos d % s.T = s.depPos d % s.T ∧ LeavesAllBut [.rw, .rc] s (s.takeOne d))

/-! ### Time and media clock recovery -/

/-- R45 to R49: an instance that is master on a port that is up places Sync and Announce at the end of the port's PTP
queue, and an enabled instance path-delay requests, each shaped by its settings, where the lane has room; Announce
carries priority1 255 unless GM_CAPABLE. R45 to R47, R49 and R446: on a port that is up and awake, a message of an
instance's transport and domain acts: a one-step Sync, or the Follow_Up of a two-step one, on a slave port sets offset
and ratio within the step threshold, and beyond it steps the instance's time and raises TIM_STEP; where MCR follows
the instance its phase error waits for the servo; an Announce takes what the BMCA decides; a path-delay request is
answered with the time of its receipt. Commands stated here to complete, by an equation exec (c) s = .next t under
conditions on state and operands alone: .ptpFrameRx, .syncTx, .announceTx, .pathDelayReqTx. -/
def Obligations.PtpMessages : Prop :=
  (∀ (s : State) (i p : Nat), s.down = false → i < 2 → p < numPorts s.member → (s.mac p).up = true →
    let frame (k : PtpKind) : TxFrame :=
      { body := Config.ptpFrame (s.ptpMsg i p k 0), poison := false, ring := 0, slots := [], ctx := none, ptp := some (s.ptpMsg i p k 0) }
    (s.isMaster i p = true →
      ∃ t, exec (.syncTx i p) s = .next t ∧ t.mac p = handed s p 0 (frame .sync) ∧ OtherPorts p s t ∧
        LeavesAllBut [.macA, .macB] s t) ∧
    (s.isMaster i p = true →
      let g := s.appliedW (icfgAddr i + 4)
      ∃ t, exec (.announceTx i p) s = .next t ∧
        t.mac p = handed s p 0 (frame (.announce (if gmCapable (s.icfg i) then fld g 0 8 else 255) (fld g 8 8) (fld g 16 8) (s.inst i).gmId)) ∧
        OtherPorts p s t ∧ LeavesAllBut [.macA, .macB] s t) ∧
    (instEnabled (s.icfg i) = true → s.bound i p = true → profileF (s.icfg i) ≠ 1 →
      ∃ t, exec (.pathDelayReqTx i p) s = .next t ∧ t.mac p = handed s p 0 (frame .pdelayReq) ∧ OtherPorts p s t ∧
        LeavesAllBut [.macA, .macB] s t) ∧
    (instEnabled (s.icfg i) = true → s.bound i p = true → profileF (s.icfg i) = 1 → s.portState i p = 3 →
      ∃ t, exec (.pathDelayReqTx i p) s = .next t ∧ t.mac p = handed s p 0 (frame .delayReq) ∧ OtherPorts p s t ∧
        LeavesAllBut [.macA, .macB] s t)) ∧
  (∀ (s : State) (p i : Nat) (x : PtpRx), Ready s → i < 2 → p < numPorts s.member → (s.mac p).up = true →
    (s.mac p).sleep = false → instEnabled (s.icfg i) = true → s.bound i p = true → x.poison = 0 →
    x.transport = transportF (s.icfg i) → x.domain = domainF (s.icfg i) →
    (∀ (t1 r : Int), s.portState i p = 3 → x.msg = .sync (some t1) r →
      ∃ t, exec (.ptpFrameRx p i x) s = .next t ∧ t.inst i = syncedInst s i p t1 (s.stampAt i p true x.inst) r ∧
        t.inst (1 - i) = s.inst (1 - i) ∧
        (fld (s.appliedW 0x20000) 0 16 < ((s.stampAt i p true x.inst - t1) / 4 - Int.ofNat (s.pathDelay i p)).natAbs →
          t.event 34 = true) ∧
        t.mcr.updates = (if fld (s.appliedW 0x24000) 0 3 = 0 ∧ s.mcr.inst = i then
          s.mcr.updates ++ [{ src := i, phase := phaseOn s t i x.inst }] else s.mcr.updates) ∧
        RcOnly [icfgAddr i + 0x2C, evtStat 34] s t ∧ LeavesAllBut [.rc, .tim, .mcr, .dpc] s t) ∧
    (∀ (r : Int), s.portState i p = 3 → x.msg = .sync none r →
      ∃ t, exec (.ptpFrameRx p i x) s = .next t ∧
        t.inst i = { s.inst i with syncIn := some (s.stampAt i p true x.inst) } ∧ t.inst (1 - i) = s.inst (1 - i) ∧
        LeavesAllBut [.tim, .dpc] s t) ∧
    (∀ (t1 t2 r : Int), s.portState i p = 3 → (s.inst i).syncIn = some t2 → x.msg = .followUp t1 r →
      ∃ t, exec (.ptpFrameRx p i x) s = .next t ∧ t.inst i = syncedInst s i p t1 t2 r ∧ t.inst (1 - i) = s.inst (1 - i) ∧
        RcOnly [icfgAddr i + 0x2C, evtStat 34] s t ∧ LeavesAllBut [.rc, .tim, .mcr, .dpc] s t) ∧
    (∀ (b : Bmca), x.msg = .announce b →
      let me := b.gmSelf && gmCapable (s.icfg i)
      let st (n : Nat) : Nat := if slaveOnly (s.icfg i) ∧ n = 2 then 1 else n
      let g := if b.gmSelf && !me then 0 else b.gmId
      ∃ t, exec (.ptpFrameRx p i x) s = .next t ∧ t.inst i = { s.inst i with
          stateA := st b.stateA, stateB := st b.stateB, synced := (s.inst i).synced || me, gmId := g, gmSelf := me } ∧
        ((s.inst i).gmId ≠ g → t.event 33 = true) ∧ t.inst (1 - i) = s.inst (1 - i) ∧ RcOnly [evtStat 33] s t ∧
        LeavesAllBut [.rc, .tim, .dpc] s t) ∧
    (profileF (s.icfg i) ≠ 1 → x.msg = .delayReq →
      let m := s.ptpMsg i p .pdelayResp (s.stampAt i p true x.inst)
      ∃ t, exec (.ptpFrameRx p i x) s = .next t ∧
        t.mac p = handed s p 0 { body := Config.ptpFrame m, poison := false, ring := 0, slots := [], ctx := none, ptp := some m } ∧
        OtherPorts p s t ∧ LeavesAllBut [.macA, .macB, .dpc] s t))

/-- R60: a receipt timeout takes an instance out of SYNCED with TIM_SYNC_LOSS; where MCR follows that instance in PTP
mode and cannot fail over, it coasts at the mean of its last second. An Announce timeout also takes what the BMCA
decides. Commands stated here to complete, by an equation exec (c) s = .next t under conditions on state and operands
alone: .syncReceiptTimeout, .announceReceiptTimeout. -/
def Obligations.ReceiptTimeouts : Prop :=
  ∀ (s : State) (i : Nat) (b : Bmca), Ready s → i < 2 → (s.inst i).synced = true →
    (s.mcrMode ≠ 0 ∨ s.mcr.inst ≠ i →
      ∃ t, exec (.syncReceiptTimeout i) s = .next t ∧ t.inst i = { s.inst i with synced := false, syncIn := none } ∧
        t.inst (1 - i) = s.inst (1 - i) ∧ t.event 32 = true ∧ RcOnly [evtStat 32] s t ∧ LeavesAllBut [.rc, .tim] s t) ∧
    (s.mcrMode = 0 → s.mcr.inst = i → s.mcr.state = .locked → s.mcrFailover = false →
      ∃ t, exec (.syncReceiptTimeout i) s = .next t ∧ (t.inst i).synced = false ∧ t.mcr.state = .coast ∧
        t.mcr.freq = s.mcr.mean ∧ t.mcr.refOk = false ∧ t.event 32 = true ∧ t.event 37 = true ∧
        RcOnly [0x2400C, evtStat 32, evtStat 37] s t ∧ LeavesAllBut [.rc, .tim, .mcr] s t) ∧
    (s.mcrMode ≠ 0 ∨ s.mcr.inst ≠ i →
      let me := b.gmSelf && gmCapable (s.icfg i)
      let st (n : Nat) : Nat := if slaveOnly (s.icfg i) ∧ n = 2 then 1 else n
      ∃ t, exec (.announceReceiptTimeout i b) s = .next t ∧ t.inst i = { s.inst i with
          syncIn := none, stateA := st b.stateA, stateB := st b.stateB, synced := me,
          gmId := if b.gmSelf && !me then 0 else b.gmId, gmSelf := me } ∧
        t.inst (1 - i) = s.inst (1 - i) ∧ t.event 32 = true ∧ RcOnly [evtStat 32, evtStat 33] s t ∧
        LeavesAllBut [.rc, .tim, .dpc] s t)

/-- R49, R51 and R52: TIM_CTL.SET loads the set registers into the time of an instance that is grandmaster or has no
port bound and is refused otherwise; a PPS_IN edge is timestamped, and steers a TSRC = 1 grandmaster where the edge
before is at least 0.5 s past; PPS_OUT rises at a whole second with its polarity, the applied configuration taken up,
and falls after WIDTH. A pulse rises and falls in the tick its instant falls in (the model's choice, log 115).
Commands stated here to complete, by an equation exec (c) s = .next t under conditions on state and operands alone:
.timeSet, .ppsInEdge, .ppsOut, .ppsOutPulseEnd. -/
def Obligations.TimeSetAndPps : Prop :=
  (∀ (s : State) (i : Nat) (q : Req), Ready s → i < 2 → (s.inst i).gmSelf = true ∨ (s.bound i 0 = false ∧ s.bound i 1 = false) →
    ∃ t, exec (.timeSet i q) s = .next t ∧ t.inst i = { s.inst i with
        time := ((s.rwW 0x20024).toNat + (s.rwW 0x20028).toNat * 2 ^ 32) * 1000000000 + (s.rwW 0x20020).toNat } ∧
      t.inst (1 - i) = s.inst (1 - i) ∧ LeavesAllBut [.tim] s t) ∧
  (∀ (s : State) (i : Nat) (q : Req), Ready s → i < 2 → (s.inst i).gmSelf = false → s.bound i 0 = true ∨ s.bound i 1 = true →
    ∃ t, exec (.timeSet i q) s = .next t ∧ bitAt (t.rcW 0x20008) 2 = true ∧ RcOnly [0x20008] s t ∧ LeavesAllBut [.rc] s t) ∧
  (∀ (s : State) (ns : Nat) (x : Instant), Ready s →
    ∃ t, exec (.ppsInEdge ⟨x, ns⟩) s = .next t ∧ t.tim.ppsIn = (s.inst s.followed).time + nsOf x s.followed ∧
      t.tim.ppsAgo = some (-(Int.ofNat ns)) ∧
      (∀ i < 2, t.inst i = if (s.inst i).gmSelf = true ∧ s.tsrc i = 1 ∧ t.tim.ppsUsed = true then
        { s.inst i with time := ((s.inst i).time + nsOf x i + 500000000) / 1000000000 * 1000000000 - nsOf x i } else s.inst i) ∧
      t.tim.ppsUsed = (match s.tim.ppsAgo with | none => true | some a => decide (500000000 ≤ a + Int.ofNat ns)) ∧
      t.event 35 = true ∧ RcOnly [evtStat 35] s t ∧ LeavesAllBut [.rc, .tim] s t) ∧
  (∀ (s : State), s.down = false → s.tim.ppsOut = none → bitAt (s.appliedW 0x20040) 0 = true →
    let d := s.toSecond (s.appliedW 0x20040) (s.appliedW 0x20044)
    d < s.tickNs →
    ∃ t, exec .ppsOut s = .next t ∧
      t.tim = { s.tim with ppsCfg := s.appliedW 0x20040, ppsAdj := s.appliedW 0x20044, ppsOut := some (-(Int.ofNat d)) } ∧
      t.out = s.out ++ [.pps (!bitAt (s.appliedW 0x20040) 2)] ++ sentMsgs s ∧ LeavesAllBut [.tim] s t) ∧
  (∀ (s : State) (a : Int), s.down = false → s.tim.ppsOut = some a →
    Int.ofNat (1000 * fld s.tim.ppsCfg 8 20) ≤ a + Int.ofNat s.tickNs →
    ∃ t, exec .ppsOutPulseEnd s = .next t ∧ t.tim = { s.tim with ppsOut := none } ∧
      t.out = s.out ++ [.pps (bitAt s.tim.ppsCfg 2)] ++ sentMsgs s ∧ LeavesAllBut [.tim] s t)

/-- R59: while MCR holds a reference in LOCKED, a valid update, one that waits or an edge, keeps the oscillator within
20 ppm of its offset at the tick's start and 500 ppm of the centre, and records the phase error; nothing outside MCR
changes. Commands stated here to complete, by an equation exec (c) s = .next t under conditions on state and operands
alone: .referenceUpdate. -/
def Obligations.ServoStaysInItsWindow : Prop :=
  ∀ (s : State), s.down = false → s.refUsable s.refContext s.refSlave = true → s.mcr.state = .locked → s.mcr.refOk = true →
    s.mcr.late = false → s.mcr.afterRelock = false → s.mcr.timeStep = false → (s.mcr.freqTick - s.mcr.centre).natAbs ≤ ppm 500 →
    (∀ (need : Int) (u : RefUpd) (us : List RefUpd), s.mcrMode ≠ 5 → s.mcr.updates = u :: us → need.natAbs ≤ ppm 1000 →
      (s.mcrMode = 0 → (s.inst s.mcr.inst).synced = true) →
      ∃ t, exec (.referenceUpdate none 0 need) s = .next t ∧ (t.mcr.freq - s.mcr.freqTick).natAbs ≤ ppm 20 ∧
        (t.mcr.freq - s.mcr.centre).natAbs ≤ ppm 500 ∧ t.mcr.phase = u.phase ∧ t.mcr.updates = us ∧ t.mcr.quiet = 0 ∧
        t.mcr.state = .locked ∧ t.mcr.centre = s.mcr.centre ∧ LeavesAllBut [.mcr] s t) ∧
    (∀ (x : Instant) (rate : Nat), s.mcrMode = 3 ∨ s.mcrMode = 4 → (s.edgeNeed rate).natAbs ≤ ppm 1000 →
      ∃ t, exec (.referenceUpdate (some x) rate 0) s = .next t ∧ (t.mcr.freq - s.mcr.freqTick).natAbs ≤ ppm 20 ∧
        (t.mcr.freq - s.mcr.centre).natAbs ≤ ppm 500 ∧ t.mcr.phase = edgePhase x ∧ t.mcr.quiet = 0 ∧
        t.mcr.state = .locked ∧ t.mcr.centre = s.mcr.centre ∧ LeavesAllBut [.mcr] s t)

/-- R57 and R58: the update that qualifies the first reference leaves media position to be set; at the boundary after,
it takes the multiple of the tick length nearest the phase target, the residue is left to the loop and RATE_OK becomes
1; entry into MODE 5 locks at nominal plus MCR_TRIM, and sets media position only where RATE_OK was 0. The command
names its boundary (the model's choice, log 115). R65: at the boundary after a discontinuity every sink begins its
ramp to mute; when the ramps are over media position steps by the whole ticks nearest the jump, the correction is 0
and the rest of the jump is left to be slewed. Commands stated here to complete, by an equation exec (c) s = .next t
under conditions on state and operands alone: .referenceUpdate, .mediaPositionSet, .masterModeEntry, .stepRampDown,
.mcrStep. -/
def Obligations.MediaPositionSetAndStepped : Prop :=
  ((∀ (s : State) (need : Int) (u : RefUpd) (us : List RefUpd), s.down = false → s.mcrMode ≠ 5 →
    s.refUsable s.refContext s.refSlave = true → s.mcr.updates = u :: us → need.natAbs ≤ ppm 1000 →
    (s.mcrMode = 0 → (s.inst s.mcr.inst).synced = true) → s.mcr.state = .idle → s.tt.rateOk = false →
    s.qualN ≤ s.mcr.qual + 1 →
    ∃ t, exec (.referenceUpdate none 0 need) s = .next t ∧ t.mcr.state = .acquire ∧ t.mcr.refOk = true ∧
      t.mcr.setDue = true ∧ t.mcr.phase = u.phase ∧ LeavesAllBut [.mcr] s t) ∧
  (∀ (s : State), s.down = false → s.mcr.setDue = true → s.mcr.state = .acquire →
    ∃ t, exec (.mediaPositionSet s.tt.now) s = .next t ∧ t.tt.now = (nearestMul (s.T * 65536) s.phaseTarget / 65536).toNat ∧
      t.tt.now % s.T = 0 ∧ t.tt.rateOk = true ∧ t.mcr.setDue = false ∧
      t.mcr.resid = (s.phaseTarget - Int.ofNat t.tt.now * 65536) * 10000 ∧ t.tt.armed = s.tt.armed ∧
      LeavesAllBut [.now, .tt, .mcr] s t) ∧
  (∀ (s : State), Ready s → s.mcr.masterDue = true → s.mcr.state ≠ .relock →
    ∃ t, exec .masterModeEntry s = .next t ∧ t.mcr.state = .locked ∧ t.mcr.freq = s.trim ∧ t.mcr.masterDue = false ∧
      t.event 36 = true ∧ t.tt.rateOk = true ∧ (s.tt.rateOk = true → t.tt.now = s.tt.now) ∧
      (s.tt.rateOk = false → t.tt.now = (nearestMul (s.T * 65536) (Int.ofNat (s.r27 s.tinst)) / 65536).toNat) ∧
      RcOnly [evtStat 36] s t ∧ LeavesAllBut [.rc, .now, .tt, .mcr, .mix] s t)) ∧
  ((∀ (s : State), s.down = false → s.mcr.stepDue = true → s.mcr.state = .step →
    ∃ t, exec .stepRampDown s = .next t ∧ t.mcr = { s.mcr with stepDue := false, ramping := true } ∧
      (∀ k < 12, (t.muteOf k).causes.contains .step = true) ∧ LeavesAllBut [.mcr, .mix] s t) ∧
  (∀ (s : State), Ready s → s.mcr.ramping = true → s.mcr.state = .step → s.rampOver .step = true → s.tt.armed = 0 →
    s.reg.snaps = [] → s.cmd = none →
    let n := nearestMul (s.T * 655360000) s.mcr.jump
    ∃ t, exec .mcrStep s = .next t ∧ t.tt.now = (Int.ofNat s.tt.now + n / 655360000).toNat ∧ t.mcr.ramping = false ∧
      t.mcr.corr = 0 ∧ t.mcr.jump = 0 ∧ t.mcr.state = (if s.mcr.jump = n then .locked else .slew) ∧
      t.mcr.resid = s.mcr.jump - n ∧ t.event 38 = true ∧ LeavesAllBut (touches .mcrStep) s t))

/-- R56, R59, R60, R61 and R63: what moves MCR from state to state: lock from ACQUIRE, loss of lock, loss of the
reference with coasting at the mean of the last second, failover, a window that must move or may not, and a slew that
ends. A loss is found in the tick MCR_LOSS ends in (the model's choice, log 115). Commands stated here to complete, by
an equation exec (c) s = .next t under conditions on state and operands alone: .mcrLock, .lockLost, .referenceLoss,
.failover, .windowMove, .slewComplete. -/
def Obligations.McrStateChanges : Prop :=
  (∀ (s : State), Ready s → s.mcr.state = .acquire → s.mcr.refOk = true → s.mcr.phase.natAbs < s.lockThr →
    ∃ t, exec .mcrLock s = .next t ∧
      t.mcr = { s.mcr with state := .locked, everLocked := true, resid := 0, corr := 0 } ∧ t.event 36 = true ∧
      RcOnly [evtStat 36] s t ∧ LeavesAllBut [.rc, .mcr] s t) ∧
  (∀ (s : State), s.down = false → s.mcr.state = .locked → s.mcrMode ≠ 5 → 4 * s.lockThr < s.mcr.phase.natAbs →
    ∃ t, exec .lockLost s = .next t ∧ t.mcr = { s.mcr with state := .acquire } ∧ LeavesAllBut [.mcr] s t) ∧
  (∀ (s : State), Ready s → s.mcrMode ≠ 5 → s.mcr.state = .locked ∨ s.mcr.state = .acquire →
    (s.mcrMode = 0 → (s.inst s.mcr.inst).synced = false ∧
      (s.mcrFailover = false ∨ (s.inst (1 - s.mcr.inst)).synced = false)) →
    (s.mcrMode ≠ 0 → s.mcr.refOk = true ∧ s.lossNs ≤ s.mcr.quiet + s.tickNs) →
    ∃ t, exec .referenceLoss s = .next t ∧ t.mcr.state = .coast ∧ t.mcr.refOk = false ∧ t.mcr.freq = s.mcr.mean ∧
      t.mcr.favg = s.mcr.mean ∧ t.event 37 = true ∧ bitAt (t.rcW 0x2400C) 2 = true ∧ RcOnly [0x2400C, evtStat 37] s t ∧
      LeavesAllBut [.rc, .mcr] s t) ∧
  (∀ (s : State), s.down = false → s.mcrMode = 0 → (s.inst s.mcr.inst).synced = false → s.mcrFailover = true →
    (s.inst (1 - s.mcr.inst)).synced = true →
    ∃ t, exec .referenceLoss s = .next t ∧ t.mcr = { s.mcr with failDue := true, updates := [] } ∧
      LeavesAllBut [.mcr] s t) ∧
  (∀ (s : State), s.down = false → s.mcr.failDue = true → s.mcr.state ≠ .step → s.mcr.upLeft = 0 →
    ∃ t, exec .failover s = .next t ∧ t.mcr.inst = 1 - s.mcr.inst ∧ t.mcr.failedOver = true ∧ t.mcr.failDue = false ∧
      t.mcr.updates = [] ∧ LeavesAllBut [.mcr] s t) ∧
  (∀ (s : State) (c : Int), s.down = false → s.mcrMode ≠ 5 → c.natAbs ≤ ppm 1000 → ppm 500 < (c - s.mcr.centre).natAbs →
    ∃ t, exec (.windowMove c) s = .next t ∧ t.syn = { s.syn with req := true, newCentre := some c } ∧
      LeavesAllBut [.syn] s t) ∧
  (∀ (s : State) (c : Int), Ready s → s.mcrMode ≠ 5 → s.mcr.state = .locked → ppm 1000 < c.natAbs →
    ∃ t, exec (.windowMove c) s = .next t ∧ t.mcr.state = .coast ∧ t.event 37 = true ∧ t.event 39 = true ∧
      bitAt (t.rcW 0x2400C) 1 = true ∧ RcOnly [0x2400C, evtStat 39] s t ∧ LeavesAllBut [.rc, .mcr] s t) ∧
  (∀ (s : State), Ready s → s.mcr.state = .slew → s.mcr.resid = 0 →
    ∃ t, exec .slewComplete s = .next t ∧ t.mcr.state = .locked ∧ t.mcr.corr = 0 ∧ t.event 36 = true ∧
      RcOnly [evtStat 36] s t ∧ LeavesAllBut [.rc, .mcr] s t)

/-! ### Clock synthesis -/

/-- R76, R80 and R81: RELOCK and a lost media PLL ask for a fenced relock; at the next boundary it begins: the fence
moves to holdover, step 2 runs, MCR is in RELOCK with nothing left of a jump, every sink begins its ramp to mute, and
SYN_RELOCK_BEGIN is raised; in step 3 it restarts that step with the newest targets. R74 and R77: the ramp down over,
step 3 reloads the PLL; its lock starts the counter check; a count within bounds leads to step 4; the fence then
returns to the PLL and every sink is released; at the end MCR leaves RELOCK. RELOCK_END names its boundary (the
model's choice, log 115). Commands stated here to complete, by an equation exec (c) s = .next t under conditions on
state and operands alone: .synUnlock, .relock, .synRelock, .relockRampDownEnd, .mpllLock, .counterCheckEnd,
.fenceSwitchBack, .relockEnd. -/
def Obligations.FencedRelockRuns : Prop :=
  ((∀ (s : State) (q : Req), s.down = false → ∃ t, exec (.relock q) s = .next t ∧ t.syn = { s.syn with req := true } ∧ LeavesAllBut [.syn] s t) ∧
  (∀ (s : State), s.down = false → (if isFamA s.syn.rate then s.syn.mpllA else s.syn.mpllB) = true →
    ∃ t, exec .synUnlock s = .next t ∧ (if isFamA s.syn.rate then t.syn.mpllA else t.syn.mpllB) = false ∧
      t.syn.unlockReq = (s.syn.unlockReq || decide (s.mcr.state ≠ .relock)) ∧ t.syn.fence = s.syn.fence ∧ LeavesAllBut [.syn] s t) ∧
  (∀ (s : State), Ready s → s.syn.req = true ∨ s.syn.unlockReq = true → s.syn.rstep ≠ 2 → s.syn.rstep ≠ 3 →
    ∃ t, exec .synRelock s = .next t ∧ t.syn.fence = true ∧ t.syn.rstep = 2 ∧ t.syn.req = false ∧ t.syn.unlockReq = false ∧
      t.syn.tries = 0 ∧ t.syn.ramp = s.rampLen ∧ t.mcr.state = .relock ∧ t.mcr.stepDue = false ∧ t.mcr.setDue = false ∧ (∀ k < 12, (t.muteOf k).causes.contains .relock = true) ∧ t.event 40 = true ∧
      (s.syn.unlockReq = true → t.event 42 = true) ∧ t.reg.hstop.getLsbD 2 = false ∧
      RcOnly [0x2800C, 0x28018, evtStat 40] s t ∧ LeavesAllBut [.rc, .hstop, .mcr, .syn, .mix] s t) ∧
  (∀ (s : State), s.down = false → s.syn.req = true → s.syn.unlockReq = false → s.syn.rstep = 3 → s.syn.rateChg = false →
    s.targetRate = s.syn.rate →
    ∃ t, exec .synRelock s = .next t ∧ t.syn.rstep = 3 ∧ t.syn.req = false ∧ t.syn.tries = 0 ∧ t.syn.counting = false ∧
      t.syn.mpllA = false ∧ t.syn.mpllB = false ∧ t.syn.refmode = refmodeField (s.appliedW 0x28000) ∧
      t.mcr.centre = s.syn.newCentre.getD s.mcr.centre ∧ LeavesAllBut [.mcr, .syn] s t)) ∧
  ((∀ (s : State), s.down = false → s.syn.rstep = 2 → s.rampOver .relock = true → s.syn.rateChg = false → s.targetRate = s.syn.rate →
    ∃ t, exec .relockRampDownEnd s = .next t ∧
      t.syn = { s.syn with
        rstep := 3, counting := false, again := false, mpllA := false, mpllB := false,
        refmode := refmodeField (s.appliedW 0x28000), refHz := pllRef s.syn.rate (refmodeField (s.appliedW 0x28000)),
        fbN := pllN (refmodeField (s.appliedW 0x28000)), icp := pllIcp (refmodeField (s.appliedW 0x28000)), newCentre := none } ∧
      t.mcr = { s.mcr with centre := s.syn.newCentre.getD s.mcr.centre } ∧ LeavesAllBut [.mcr, .syn] s t) ∧
  (∀ (s : State), s.down = false → s.syn.rstep = 2 → s.rampOver .relock = true → s.syn.rateChg = true →
    ∃ t, exec .relockRampDownEnd s = .next t ∧ t.syn.rstep = 3 ∧ t.syn.rate = s.targetRate ∧ t.syn.mpllA = false ∧ t.syn.mpllB = false) ∧
  (∀ (s : State), s.down = false → ∃ t, exec .mpllLock s = .next t ∧ (if isFamA s.syn.rate then t.syn.mpllA else t.syn.mpllB) = true ∧
      t.syn.counting = (s.syn.counting || decide (s.syn.rstep = 3)) ∧ t.syn.rstep = s.syn.rstep ∧ LeavesAllBut [.syn] s t) ∧
  (∀ (s : State) (n : Nat), s.down = false → s.syn.rstep = 3 → s.syn.counting = true → countOk (isFamA s.syn.rate) s.mcr.freq n = true →
    ∃ t, exec (.counterCheckEnd n) s = .next t ∧ t.syn = { s.syn with mcnt := n % 2 ^ 17, counting := false, rstep := 4 } ∧
      LeavesAllBut [.syn] s t) ∧
  (∀ (s : State), Ready s → s.syn.rstep = 4 →
    ∃ t, exec .fenceSwitchBack s = .next t ∧ t.syn = { s.syn with fence := false, rstep := 5 } ∧
      (∀ k < 12, (t.muteOf k).causes.contains .relock = false) ∧ LeavesAllBut [.syn, .mix] s t) ∧
  (∀ (s : State), Ready s → s.syn.rstep = 5 → s.rampsUp = true → s.mcrMode ≠ 5 → s.mcr.relJump = none →
    ∃ t, exec (.relockEnd s.tt.now) s = .next t ∧ t.syn = { s.syn with rstep := 0, rateChg := false } ∧ t.mcr.state = .acquire ∧
      t.mcr.afterRelock = s.tt.rateOk ∧ LeavesAllBut [.snap, .mcr, .syn, .stx] s t) ∧
  (∀ (s : State), Ready s → s.syn.rstep = 5 → s.rampsUp = true → s.mcrMode = 5 →
    ∃ t, exec (.relockEnd s.tt.now) s = .next t ∧ t.syn.rstep = 0 ∧ t.mcr.state = .locked ∧ t.mcr.freq = s.trim ∧ t.event 36 = true ∧
      LeavesAllBut [.rc, .snap, .mcr, .syn, .stx] s t))

/-- R79: an attempt that fails its count or its time is repeated while retries are left; after the last the relock is
given up with SYN in hard stop and SYN_FAIL raised. SYN_MCNT of an attempt cut off while its check runs is a free
value (log 78). Commands stated here to complete, by an equation exec (c) s = .next t under conditions on state and
operands alone: .counterCheckEnd, .relockTimeout. -/
def Obligations.FencedRelockFails : Prop :=
  (∀ (s : State) (n : Nat), Ready s → s.syn.rstep = 3 → s.syn.counting = true →
    countOk (isFamA s.syn.rate) s.mcr.freq n = false → s.syn.tries < s.retries →
    ∃ t, exec (.counterCheckEnd n) s = .next t ∧
      t.syn = { s.syn with mcnt := n % 2 ^ 17, counting := false, tries := s.syn.tries + 1, mpllA := false, mpllB := false } ∧
      bitAt (t.rcW 0x2800C) 2 = true ∧ RcOnly [0x2800C] s t ∧ LeavesAllBut [.rc, .syn] s t) ∧
  (∀ (s : State), Ready s → s.syn.rstep = 3 → s.syn.tries < s.retries →
    ∃ t, exec .relockTimeout s = .next t ∧
      t.syn = { s.syn with mcnt := if s.syn.counting then Config.freeNat s.free % 2 ^ 17 else 0, counting := false, tries := s.syn.tries + 1, mpllA := false, mpllB := false } ∧ LeavesAllBut [.syn] s t) ∧
  (∀ (s : State), Ready s → s.syn.rstep = 3 → s.retries ≤ s.syn.tries →
    ∃ t, exec .relockTimeout s = .next t ∧ t.syn.failed = true ∧ t.syn.rstep = 0 ∧ t.syn.fence = s.syn.fence ∧
      t.reg.hstop.getLsbD 2 = true ∧ bitAt (t.rcW 0x2800C) 3 = true ∧ t.event 41 = true ∧
      LeavesAllBut [.rc, .snap, .hstop, .syn] s t)

/-- R70: a SerDes PLL in use declares lock; one that loses it sets SERDES_UNLOCK and takes its port down. R71 and
R419: without xo the die is in reset with its cause recorded; once xo has returned and nothing else holds it, the die
starts with its straps sampled and the system PLL up. Commands stated here to complete, by an equation exec (c) s =
.next t under conditions on state and operands alone: .xoLoss, .serdesPllLock, .serdesUnlock, .xoReturn. -/
def Obligations.LocksAndReferenceClock : Prop :=
  ((∀ (s : State) (l : Nat), s.held = false → l < 4 → s.serdesUsed l = true →
    ∃ t, exec (.serdesPllLock l) s = .next t ∧
      (if l = 0 then t.syn.serA else if l = 1 then t.syn.serB else if l = 2 then t.syn.pairPll else t.syn.pciePll) = true ∧
      t.syn.rstep = s.syn.rstep ∧ t.syn.fence = s.syn.fence ∧ LeavesAllBut [.syn] s t) ∧
  (∀ (s : State) (l : Nat), s.held = false → l < 2 → (if l = 0 then s.syn.serA else s.syn.serB) = true →
    ∃ t, exec (.serdesUnlock l) s = .next t ∧ (if l = 0 then t.syn.serA else t.syn.serB) = false ∧ (t.mac l).up = false) ∧
  (∀ (s : State), StoresOk s → s.held = false → s.syn.serA = true → s.macA.up = false →
    ∃ t, exec (.serdesUnlock 0) s = .next t ∧ bitAt (t.rcW 0x2800C) 4 = true ∧ t.syn = { s.syn with serA := false } ∧
      RcOnly [0x2800C] s t ∧ LeavesAllBut [.rc, .syn] s t)) ∧
  ((∀ (s : State), s.held = false → s.syn.xoOk = true → ∃ t, exec .xoLoss s = .next t ∧ AfterDeviceReset 0x4 s t ∧
    t.pmu.xoLost = true ∧ t.syn = synReset) ∧
  (∀ (s : State) (x : Straps), s.pmu.xoLost = true → s.pmu.supply &&& 0x1F = 0x1F → s.pmu.resetLow = false →
    s.pmu.overheat = false → s.pmu.por = false → s.pmu.bistFail = false →
    ∃ t, exec (.xoReturn x) s = .next t ∧ t.pmu.xoLost = false ∧ t.pmu.boot = x.boot % 8 ∧ t.syn.xoOk = true ∧
      t.syn.spll = true ∧ t.pmu.bistFail = !x.bist ∧ LeavesAllBut [.syn, .pwr, .pmu] s t))

/-! ### Supplies, resets, temperature and sleep -/

/-- R418, R419, R423: power-on, a supply that falls below its limit and RESET_N held for 10 µs reset the die with
their cause; a pulse under 1 µs is ignored; the die starts when VIN is valid or RESET_N rises and nothing else holds
it. Commands stated here to complete, by an equation exec (c) s = .next t under conditions on state and operands
alone: .powerOn, .resetN, .vinInvalid, .resetNRelease. -/
def Obligations.DeviceResetCauses : Prop :=
  (∀ (s : State) (x : Straps), s.pmu.supply &&& 0x7 ≠ 0x7 →
    ∃ t, exec (.powerOn x) s = .next t ∧ AfterDeviceReset 0x1 s t ∧ t.pmu.supply &&& 0x1F = 0x1F ∧
      (s.pmu.resetLow = false → s.pmu.xoLost = false → s.pmu.overheat = false →
        t.syn.xoOk = true ∧ t.syn.spll = true ∧ t.pmu.boot = x.boot % 8 ∧ t.pmu.bistFail = !x.bist)) ∧
  (∀ (s : State) (k : Nat), k < 3 →
    ∃ t, exec (.vinInvalid k) s = .next t ∧ AfterDeviceReset (if s.pmu.asleep = 2 then 0x11 else 0x1) s t ∧ t.pmu.por = true ∧ t.pmu.supply.getLsbD k = false ∧ t.syn = synReset) ∧
  (∀ (s : State) (us : Nat) (seen : Bool), s.pmu.resetLow = false → 10 ≤ us →
    ∃ t, exec (.resetN us seen) s = .next t ∧ AfterDeviceReset (if s.pmu.asleep = 2 then 0x12 else 0x2) s t ∧
      t.pmu.resetLow = true ∧ t.syn = synReset) ∧
  (∀ (s : State) (us : Nat) (seen : Bool), us < 1 → ∃ t, exec (.resetN us seen) s = .next t ∧ LeavesAllBut [] s t) ∧
  (∀ (s : State) (x : Straps), s.pmu.resetLow = true → s.pmu.supply &&& 0x1F = 0x1F → s.pmu.xoLost = false →
    s.pmu.overheat = false → s.pmu.por = false → s.pmu.bistFail = false →
    ∃ t, exec (.resetNRelease x) s = .next t ∧ t.pmu.resetLow = false ∧ t.pmu.boot = x.boot % 8 ∧ t.syn.spll = true ∧
      LeavesAllBut [.syn, .pwr, .pmu] s t)

/-- R231: above 115 °C the part flags it once with PMU's event; below 110 °C it has cooled; above 135 °C every sink
ramps to mute; once cooled the die leaves reset with its cause recorded. Commands stated here to complete, by an
equation exec (c) s = .next t under conditions on state and operands alone: .thermal, .overtemp, .overtempRelease. -/
def Obligations.TemperatureLimits : Prop :=
  (∀ (s : State) (d : Int), StoresOk s → s.held = false → 115 < d → s.pmu.hot = false →
    ∃ t, exec (.thermal d) s = .next t ∧ t.pmu = { s.pmu with temp := d, hot := true } ∧ bitAt (t.rcW 0x3004) 0 = true ∧
      t.event 95 = true ∧ RcOnly [0x3004, evtStat 95] s t ∧ LeavesAllBut [.rc, .pmu] s t) ∧
  (∀ (s : State) (d : Int), s.held = false → d < 110 →
    ∃ t, exec (.thermal d) s = .next t ∧ t.pmu = { s.pmu with temp := d, hot := false } ∧ LeavesAllBut [.pmu] s t) ∧
  (∀ (s : State) (d : Int), s.held = false → 135 < d → s.pmu.overheat = false → s.pmu.up = true → s.pmu.asleep ≠ 2 →
    ∃ t, exec (.overtemp d) s = .next t ∧ t.pmu.overheat = true ∧ t.pmu.hot = true ∧ t.pmu.temp = d ∧
      (∀ k < 12, (t.muteOf k).causes.contains .overtemp = true) ∧ LeavesAllBut [.rc, .mix, .pmu] s t) ∧
  (∀ (s : State) (d : Int) (x : Straps), s.pmu.overheat = true → d < 110 → s.pmu.up = true →
    ∃ t, exec (.overtempRelease d x) s = .next t ∧ AfterDeviceReset 0x8 s t ∧ t.pmu.overheat = false ∧ t.pmu.hot = false ∧
      t.pmu.temp = d)

/-- R423, R435, R430 and R431: a VIO bank falls with its flag and event and recovers with its level; SLEEP asks for
sleep; a wake by a pin or a port chosen for it restarts the die with WAKE, the port's match kept. Commands stated here
to complete, by an equation exec (c) s = .next t under conditions on state and operands alone: .vioFall, .sleepEnter,
.wake, .vioRecovery. -/
def Obligations.BanksSleepAndWake : Prop :=
  (∀ (s : State) (b : Nat), StoresOk s → b < 2 → s.pmu.supply.getLsbD (3 + b) = true →
    ∃ t, exec (.vioFall b) s = .next t ∧ t.pmu.supply.getLsbD (3 + b) = false ∧
      (∀ k < 10, k ≠ 3 + b → t.pmu.supply.getLsbD k = s.pmu.supply.getLsbD k) ∧ bitAt (t.rcW 0x3004) 1 = true ∧
      t.event 95 = true ∧ RcOnly [0x3004, evtStat 95] s t ∧ LeavesAllBut [.rc, .pmu] s t) ∧
  (∀ (s : State) (b : Nat) (v : Bool), b < 2 → s.pmu.supply.getLsbD (3 + b) = false →
    ∃ t, exec (.vioRecovery b v) s = .next t ∧ t.pmu.supply.getLsbD (3 + b) = true ∧ t.pmu.supply.getLsbD (8 + b) = v ∧
      LeavesAllBut [.pmu] s t) ∧
  (∀ (s : State) (q : Req), s.down = false → ∃ t, exec (.sleepEnter q) s = .next t ∧ t.pmu = { s.pmu with sleepReq := true } ∧
      LeavesAllBut [.pmu] s t) ∧
  (∀ (s : State) (k : Nat) (x : Straps), s.held = false → s.pmu.asleep = 2 → k < 16 → bitAt (s.rwW 0x3014) 2 = true →
    bitAt (s.rwW 0x304C) k = true →
    ∃ t, exec (.wake (.gpio k) x) s = .next t ∧ AfterDeviceReset 0x10 s t ∧ t.pmu.asleep = 0) ∧
  (∀ (s : State) (p : Nat) (x : Straps), s.held = false → s.pmu.asleep = 2 → p < 2 → bitAt (s.rwW 0x3014) p = true →
    bitAt (s.rcW (macBase p + 0x48)) 8 = true →
    ∃ t, exec (.wake (.port p) x) s = .next t ∧ t.pmu.asleep = 0 ∧ t.reg.staged = [] ∧ t.reg.applied = [] ∧
      t.rcW 0x300C = (if s.syn.spll then 0 else s.rcW 0x300C) ||| 0x10 ∧ t.rcW (macBase p + 0x48) = s.rcW (macBase p + 0x48) ∧
      t.rcW (macBase p + 0xC) = s.rcW (macBase p + 0xC) &&& 0x40)

/-! ### The management core -/

/-- R425, R428 and R231: firmware that loads makes the part ready with its version and CRC; a doorbell is noted; the
watchdog empties the mailboxes and restarts the core, and in its window puts MGT in hard stop. R428: each request is
answered once in MB1 with its opcode, its SEQ and a status: GET_VERSION gives version and CRC, FLASH_READ the words
read, FLASH_WRITE and FLASH_ERASE change the flash first, ROLE and REBOOT act; MB0 is then empty. Commands stated here
to complete, by an equation exec (c) s = .next t under conditions on state and operands alone: .mgtWatchdog,
.firmwareReady, .mgtDbell, .getVersion, .flashRead, .flashWrite, .flashErase, .role, .reboot. -/
def Obligations.ManagementCore : Prop :=
  ((∀ (s : State) (f : FwImage), s.down = false → s.syn.spll = true → s.pmu.bistFail = false → s.mgt.ready = false →
    s.reg.hstop.getLsbD 3 = false → f.valid = true → f.subid = none → s.pmu.boot = 0 → s.mgt.dbell = 0 →
    ∃ t, exec (.firmwareReady f) s = .next t ∧ t.mgt = { s.mgt with
        ready := true, fwver := f.version, imageCrc := f.crc, rebooting := false, wdogWin := false } ∧
      t.pmu = { s.pmu with up := true } ∧ LeavesAllBut [.pmu, .mgt] s t) ∧
  (∀ (s : State) (f : FwImage) (w : Word), Ready s → s.syn.spll = true → s.pmu.bistFail = false → s.mgt.ready = false →
    s.reg.hstop.getLsbD 3 = false → f.valid = true → f.subid = some w → s.reg.subidDone = false → s.pmu.boot = 0 → s.mgt.dbell = 0 →
    ∃ t, exec (.firmwareReady f) s = .next t ∧ t.mgt.ready = true ∧ t.rwW 0x7000 = w ∧ t.reg.subidDone = true ∧
      (∀ a, a ≠ 0x7000 → t.rwW a = s.rwW a) ∧ LeavesAllBut [.rw, .rcu, .pmu, .mgt] s t) ∧
  (∀ (s : State) (q : Req) (v : View) (d : Word), s.down = false → v = .normal ∨ v = .set →
    s.mgt.ready = false ∨ (∃ h p, s.item 28 = some (h :: p) ∧ 1 ≤ fld h 0 8 ∧ fld h 0 8 ≤ 6) →
    ∃ t, exec (.mgtDbell ⟨q, v, d⟩) s = .next t ∧
      t.mgt = { s.mgt with dbell := s.mgt.dbell ||| BitVec.ofNat 2 (fld d 0 2) } ∧ LeavesAllBut [.mgt] s t) ∧
  (∀ (s : State), Ready s → s.reg.hstop.getLsbD 3 = false →
    ∃ t, exec .mgtWatchdog s = .next t ∧ t.mgt.ready = false ∧ t.mgt.rebooting = true ∧ t.mgt.wdogWin = true ∧
      (∀ n, 28 ≤ n → n < 32 → (t.mboxOf n).writing = []) ∧ bitAt (t.rcW 0x4004) 0 = true ∧ t.event 12 = true ∧
      t.reg.hstop.getLsbD 3 = s.mgt.wdogWin)) ∧
  ((∀ (s : State) (h : Word) (p : List Word), Ready s → OneRequest s 1 h p 4 →
    ∃ t, exec .getVersion s = .next t ∧
      (t.mboxOf 29).items = (s.mboxOf 29).items ++ [replyItem h 0 [s.mgt.fwver, s.mgt.imageCrc]] ∧ (t.mboxOf 28).items = [] ∧
      t.event 11 = true ∧ LeavesAllBut [.rc, .count, .mbox, .mgt] s t) ∧
  (∀ (s : State) (h o n : Word), Ready s → OneRequest s 2 h [o, n] (2 + n.toNat) → n.toNat ≤ 1020 → o.toNat % 4 = 0 →
    ∃ t, exec (.flashRead false) s = .next t ∧
      (t.mboxOf 29).items = (s.mboxOf 29).items ++
        [replyItem h 0 ((List.range n.toNat).map (fun i => s.flashWord (o.toNat + 4 * i)))] ∧
      (t.mboxOf 28).items = [] ∧ t.mgt.flash = s.mgt.flash ∧ LeavesAllBut [.rc, .count, .mbox, .mgt] s t) ∧
  (∀ (s : State) (h o x : Word) (d : List Word), Ready s → OneRequest s 3 h [o] 2 → (s.mboxOf 30).items = [x :: d] →
    (s.mboxOf 30).flushing = false → itemLen x = d.length → o.toNat % 4 = 0 →
    ∃ t, exec (.flashWrite false false) s = .next t ∧ (∀ i (hi : i < d.length), t.flashWord (o.toNat + 4 * i) = d[i]) ∧
      (t.mboxOf 29).items = (s.mboxOf 29).items ++ [replyItem h 0 []] ∧ (t.mboxOf 28).items = [] ∧ (t.mboxOf 30).items = [] ∧
      LeavesAllBut [.rc, .count, .mbox, .mgt] s t) ∧
  (∀ (s : State) (h o n : Word), Ready s → OneRequest s 4 h [o, n] 2 →
    ∃ t, exec (.flashErase false false) s = .next t ∧
      (∀ i < n.toNat * sectorWords, t.flashWord (4 * (o.toNat * sectorWords + i)) = 0xFFFFFFFF) ∧
      (t.mboxOf 29).items = (s.mboxOf 29).items ++ [replyItem h 0 []] ∧ (t.mboxOf 28).items = [] ∧
      LeavesAllBut [.rc, .count, .mbox, .mgt] s t) ∧
  (∀ (s : State) (h r : Word), Ready s → OneRequest s 5 h [r] 2 → r.toNat ≤ 1 →
    ∃ t, exec .role s = .next t ∧ t.mgt.sigbox = decide (r.toNat = 1) ∧ t.mgt.flash = s.mgt.flash ∧
      (t.mboxOf 29).items = (s.mboxOf 29).items ++ [replyItem h 0 []] ∧ (t.mboxOf 28).items = [] ∧
      LeavesAllBut [.rc, .count, .mbox, .mgt] s t) ∧
  (∀ (s : State) (h : Word) (p : List Word), Ready s → OneRequest s 6 h p 2 →
    ∃ t, exec .reboot s = .next t ∧ t.mgt.ready = false ∧ t.mgt.rebooting = true ∧ t.mgt.flash = s.mgt.flash ∧
      (t.mboxOf 29).items = (s.mboxOf 29).items ++ [replyItem h 0 []] ∧ (t.mboxOf 28).items = [] ∧
      LeavesAllBut [.rc, .count, .mbox, .mgt] s t))

/-- R427 and R413: in boot mode 001 a write frame of the SPI slave appends to a mailbox and a read frame takes from
one; the sample store reports an error it corrects and one it cannot. Commands stated here to complete, by an equation
exec (c) s = .next t under conditions on state and operands alone: .msWrite, .msRead, .scrubError. -/
def Obligations.SpiSlaveAndScrub : Prop :=
  (∀ (s : State) (d : Word), Ready s → s.pmu.boot = 1 → (s.mboxOf 28).trim = 0 → (s.mboxOf 28).held < mboxWords →
    (∃ t, exec (.msWrite 0x0000 d []) s = .next t ∧
      t.mboxOf 28 = { s.mboxOf 28 with writing := (s.mboxOf 28).writing ++ [d] } ∧ (∀ k, k ≠ 28 → t.mboxOf k = s.mboxOf k) ∧
      LeavesAllBut [.mbox] s t) ∧
    (∃ t, exec (.msWrite 0x0004 d []) s = .next t ∧
      t.mboxOf 28 = { s.mboxOf 28 with items := (s.mboxOf 28).items ++ [(s.mboxOf 28).writing ++ [d]], writing := [] } ∧
      (∀ k, k ≠ 28 → t.mboxOf k = s.mboxOf k) ∧ LeavesAllBut [.mbox] s t)) ∧
  (∀ (s : State) (w v : Word) (rest : List Word) (more : List (List Word)), Ready s → s.pmu.boot = 1 →
    (s.mboxOf 29).items = (w :: v :: rest) :: more → (s.mboxOf 29).flushing = false →
    ∃ t, exec (.msRead 0x0008 none) s = .next t ∧ t.reply = .value w 0 ∧ (t.mboxOf 29).items = (v :: rest) :: more ∧
      (t.mboxOf 29).begun = true ∧ (∀ k, k ≠ 29 → t.mboxOf k = s.mboxOf k) ∧ LeavesAllBut [.mbox, .reply] s t) ∧
  (∀ (s : State) (a : Nat), Ready s → s.counter 0x3C100 + 1 < ctrMax →
    ∃ t, exec (.scrubError true a) s = .next t ∧ t.counter 0x3C100 = s.counter 0x3C100 + 1 ∧ bitAt (t.rcW 0x3C008) 0 = true ∧
      RcOnly [0x3C008] s t ∧ CountOnly [0x3C100] s t ∧ LeavesAllBut [.rc, .count] s t) ∧
  (∀ (s : State) (a : Nat), Ready s → s.counter 0x3C108 + 1 < ctrMax →
    ∃ t, exec (.scrubError false a) s = .next t ∧ t.counter 0x3C108 = s.counter 0x3C108 + 1 ∧
      t.sst.ueAddr = toWord (a % 2 ^ 24 / 4 * 4 + 2 ^ 31) ∧ bitAt (t.rcW 0x3C008) 1 = true ∧ t.event 61 = true ∧
      RcOnly [0x3C008, evtStat 61] s t ∧ CountOnly [0x3C108] s t ∧ LeavesAllBut [.rc, .count, .sst] s t)

/-! ### Mailboxes, rings and the command ring -/

/-- R190 and R192 to R194: a word written to SDG_NDATA joins the open item and one written to SDG_NDATAEND ends it; a
read of SDG_NDATA takes the next word, or answers the last one read and sets UNDERRUN; a word that fails parity is
delivered and counted, and one whose end marks disagree ends its item (R190); a full mailbox withdraws the item,
counts the discarded word and sets OVERFLOW; a flush hides what waits at once and empties the mailbox where it reaches
the producer. Commands stated here to complete, by an equation exec (c) s = .next t under conditions on state and
operands alone: .mailboxAppend, .mailboxAppendEnd, .mailboxTake, .flush, .flushProducer. -/
def Obligations.MailboxWords : Prop :=
  ∀ (s : State) (n : Nat) (q : Req) (d : Word), Ready s → 28 ≤ n → n < 32 →
    ((s.mboxOf n).trim = 0 → (s.mboxOf n).held < mboxWords →
      (∃ t, exec (.mailboxAppend n ⟨q, .normal, d⟩) s = .next t ∧
        t.mboxOf n = { s.mboxOf n with writing := (s.mboxOf n).writing ++ [d] } ∧ OtherMailboxes n s t ∧
        LeavesAllBut [.mbox] s t) ∧
      (∃ t, exec (.mailboxAppendEnd n ⟨q, .normal, d⟩) s = .next t ∧
        t.mboxOf n = { s.mboxOf n with items := (s.mboxOf n).items ++ [(s.mboxOf n).writing ++ [d]], writing := [] } ∧
        OtherMailboxes n s t ∧ (n = 29 ∨ n = 31 → t.event 11 = true) ∧ RcOnly [evtStat 11] s t ∧
        LeavesAllBut [.mbox, .rc] s t)) ∧
    ((s.mboxOf n).trim = 0 → mboxWords ≤ (s.mboxOf n).held →
      s.counter (sdgCtr n 3) + 1 < ctrMax →
      ∃ t, exec (.mailboxAppend n ⟨q, .normal, d⟩) s = .next t ∧
        t.mboxOf n = { s.mboxOf n with writing := [], trim := 1 } ∧ OtherMailboxes n s t ∧
        bitAt (t.rcW (sdgStat n)) 5 = true ∧
        t.counter (sdgCtr n 3) = s.counter (sdgCtr n 3) + 1 ∧
        RcOnly [sdgStat n] s t ∧ CountOnly [sdgCtr n 3] s t ∧ LeavesAllBut [.mbox, .rc, .count] s t) ∧
    (∀ w rest more, (s.mboxOf n).visible = (w :: rest) :: more →
      (∃ t, exec (.mailboxTake n ⟨q, false, false⟩) s = .next t ∧ t.reply = .value w 0 ∧
        (t.mboxOf n).last = w ∧ (t.mboxOf n).lastEnd = decide (rest = []) ∧
        (t.mboxOf n).items = (if rest = [] then (s.mboxOf n).items.drop 1 else rest :: (s.mboxOf n).items.drop 1) ∧
        OtherMailboxes n s t ∧ LeavesAllBut [.mbox, .reply] s t) ∧
      (∀ parity marks, (parity || marks) = true → s.counter (sdgCtr n 0) + 1 < ctrMax →
        ∃ t, exec (.mailboxTake n ⟨q, parity, marks⟩) s = .next t ∧ t.reply = .value w 0 ∧
          (t.mboxOf n).lastEnd = (marks || decide (rest = [])) ∧
          (t.mboxOf n).items = (if rest = [] then (s.mboxOf n).items.drop 1 else rest :: (s.mboxOf n).items.drop 1) ∧
          t.counter (sdgCtr n 0) = s.counter (sdgCtr n 0) + 1 ∧ bitAt (t.rcW (sdgStat n)) 1 = true ∧
          OtherMailboxes n s t ∧ RcOnly [sdgStat n, 0x40000] s t ∧ CountOnly [sdgCtr n 0] s t ∧
          LeavesAllBut [.mbox, .rc, .count, .reply] s t)) ∧
    ((s.mboxOf n).visible = [] →
      ∃ t, exec (.mailboxTake n ⟨q, false, false⟩) s = .next t ∧ t.reply = .value (s.mboxOf n).last 0 ∧ bitAt (t.rcW (sdgStat n)) 4 = true ∧
        RcOnly [sdgStat n] s t ∧ LeavesAllBut [.rc, .reply] s t) ∧
    (∃ t, exec (.flush n q) s = .next t ∧ t.mboxOf n = { s.mboxOf n with flushing := true } ∧ OtherMailboxes n s t ∧
      LeavesAllBut [.mbox] s t) ∧
    ((s.mboxOf n).flushing = true → (s.mboxOf n).begun = false →
      ∃ t, exec (.flushProducer n) s = .next t ∧ (t.mboxOf n).items = [] ∧ (t.mboxOf n).writing = [] ∧
        (t.mboxOf n).flushing = false ∧
        (t.mboxOf n).trim = (if (s.mboxOf n).trim = 0 ∧ (s.mboxOf n).writing = [] then 0 else 2) ∧ OtherMailboxes n s t ∧ LeavesAllBut [.mbox] s t)

/-- R202, R203, R235: a doorbell with as many free slots moves its index, and one beyond them is discarded with
DB_ERR, its status bit and DB_ERR's event; EN = 1 on a disabled ring starts it with zero indices; EN = 0 on a ring
with nothing outstanding disables it; RESTART of a halted ring whose fault has completed resumes it at CI. Commands
stated here to complete, by an equation exec (c) s = .next t under conditions on state and operands alone:
.doorbellPi, .doorbellCci, .ringEnable, .ringDisable, .restart. -/
def Obligations.DoorbellsAndEnables : Prop :=
  ∀ (s : State) (p : Nat) (q : Req) (w : Word), Ready s → p < 49 →
    ((s.ringOf p).st ≠ .disabled → fld w 0 16 ≠ (s.ringOf p).pi →
      (fld w 0 16 < s.ringN p → ringDist (s.ringN p) (s.ringOf p).pi (fld w 0 16) ≤
          s.ringN p - 1 - ringDist (s.ringN p) (s.ringOf p).ci (s.ringOf p).pi →
        ∃ t, exec (.doorbellPi p w) s = .next t ∧ t.ringOf p = { s.ringOf p with pi := fld w 0 16 } ∧
          OtherRings p s t ∧ LeavesAllBut [.ring] s t) ∧
      (s.ringN p ≤ fld w 0 16 →
        ∃ t, exec (.doorbellPi p w) s = .next t ∧ bitAt (t.rcW (ringStat p)) 3 = true ∧
          bitAt (t.rcW (0x8018 + 4 * (p / 32))) (p % 32) = true ∧ t.event 8 = true ∧
          RcOnly [ringStat p, 0x8018 + 4 * (p / 32), evtStat 8] s t ∧ LeavesAllBut [.rc] s t)) ∧
    ((s.ringOf p).st ≠ .disabled → fld w 0 16 ≠ (s.ringOf p).cci → fld w 0 16 < s.ringN p →
      ringDist (s.ringN p) (s.ringOf p).cci (fld w 0 16) ≤ ringDist (s.ringN p) (s.ringOf p).cci (s.ringOf p).cpi →
      ∃ t, exec (.doorbellCci p w) s = .next t ∧ t.ringOf p = { s.ringOf p with cci := fld w 0 16, waiting := false } ∧
        OtherRings p s t ∧ LeavesAllBut [.ring] s t) ∧
    (∀ size, (s.ringOf p).st = .disabled → bitAt (s.rwW (ringBase p + 0x10)) 8 = false → 4 ≤ size → size ≤ 16 →
      ∃ t, exec (.ringEnable p size q) s = .next t ∧
        t.ringOf p = { ringReset p with st := .running, pfault := (s.ringOf p).pfault } ∧ OtherRings p s t ∧
        t.ringN p = 2 ^ size ∧ t.ringEn p = true ∧ (∀ a, a ≠ ringBase p + 0x10 → t.rwW a = s.rwW a) ∧
        LeavesAllBut [.ring, .rw] s t) ∧
    (bitAt (s.rwW (ringBase p + 0x10)) 8 = true → (s.ringOf p).st = .running → (s.ringOf p).ci = (s.ringOf p).pi →
      (s.ringOf p).fault = none →
      ∃ t, exec (.ringDisable p q) s = .next t ∧ t.ringOf p = { ringReset p with pfault := (s.ringOf p).pfault } ∧
        OtherRings p s t ∧ t.ringEn p = false ∧ (∀ a, a ≠ ringBase p + 0x10 → t.rwW a = s.rwW a) ∧
        (p ≠ 0 → t.cmd = s.cmd) ∧ LeavesAllBut [.ring, .rw, .macA, .macB, .cmd] s t) ∧
    ((s.ringOf p).st = .halted → (s.ringOf p).fault = none → (s.ringOf p).abandonTo = none →
      ∃ t, exec (.restart p q) s = .next t ∧
        t.ringOf p = { s.ringOf p with st := .running, restart := false, slots := [], fetched := (s.ringOf p).ci } ∧
        OtherRings p s t ∧ LeavesAllBut [.ring] s t)

/-- R205, R206, R225, R231, R232: a fetched descriptor joins its ring; a failed fetch or data read halts it, records
the fault, shows an error completion in PCI_FLAGS and opens its window, in which a second one is a hard stop; a
finished head slot completes into the completion ring and moves CI and CPI on; the signal timer signals. R212, R213,
R217: a host frame with buffers for all of it leaves HRX for its ring and each buffer completes with its length and
frame marks; one that waits without buffers is dropped, counted and flagged; a feed block near enough and with room
has its read issued; data of a feed block that is not yet whole joins what it has. Commands stated here to complete,
by an equation exec (c) s = .next t under conditions on state and operands alone: .descriptorFetch, .descErr, .dmaErr,
.completionWrite, .ringIrqTimer, .hostFrameWrite, .rngRxdrop, .feedBlockRead, .dataReadReturn. -/
def Obligations.RingsMoveData : Prop :=
  ((∀ (s : State) (dw : List Word), Ready s → (s.ringOf 0).st = .running → (s.ringOf 0).disabling = false →
    (s.ringOf 0).fetched ≠ (s.ringOf 0).pi →
    ∃ t, exec (.descriptorFetch 0 dw) s = .next t ∧ t.ringOf 0 = { s.ringOf 0 with
        slots := (s.ringOf 0).slots ++ [{ desc := { slot := (s.ringOf 0).fetched, dw := dw }, done := none, data := [], reading := false }],
        fetched := ((s.ringOf 0).fetched + 1) % s.ringN 0 } ∧ OtherRings 0 s t ∧ LeavesAllBut [.ring] s t) ∧
  (∀ (s : State) (p cause n : Nat), Ready s → (s.ringOf p).st = .running → (s.ringOf p).disabling = false →
    (s.ringOf p).fetched ≠ (s.ringOf p).pi → s.counter (sdgCtr 7 0) + n < ctrMax →
    let f : RingFault := { slot := (s.ringOf p).fetched, status := 0x0C, detail := cause, off := 0 }
    let run := if ringClass p = 1 then (openRun (s.ringOf p).slots).map (fun x => x.desc.slot) else []
    ((s.ringOf p).window = false →
      ∃ t, exec (.descErr p ⟨cause, n⟩) s = .next t ∧
        t.ringOf p = ((s.ringOf p).halt (s.ringN p) f).failSlots run f ∧ OtherRings p s t ∧
        (cause = 1 ∨ cause = 2 → bitAt (t.rcW 0x7008) 3 = true ∧ t.event 15 = true) ∧
        t.counter (sdgCtr 7 0) = s.counter (sdgCtr 7 0) + n ∧ RcOnly [0x7008, evtStat 15, sdgStat 7, 0x40000] s t ∧
        CountOnly [sdgCtr 7 0] s t ∧ LeavesAllBut [.ring, .rc, .count] s t) ∧
    ((s.ringOf p).window = true →
      ∃ t, exec (.descErr p ⟨cause, n⟩) s = .next t ∧ (t.ringOf p).st = .hardstop ∧ (t.ringOf p).feed = [] ∧ t.event 9 = true ∧
        (cause = 1 ∨ cause = 2 → bitAt (t.rcW 0x7008) 3 = true ∧ t.event 15 = true) ∧ OtherRings p s t ∧
        RcOnly [0x7008, evtStat 15, evtStat 9, sdgStat 7, 0x40000] s t ∧ LeavesAllBut [.ring, .rc, .count, .macA, .macB] s t)) ∧
  (∀ (s : State) (p i off cause : Nat), Ready s → (s.ringOf p).st = .running → (s.ringOf p).window = false →
    (∃ x ∈ (s.ringOf p).slots, x.desc.slot = i ∧ x.done = none) →
    let f : RingFault := { slot := i, status := 0x0B, detail := cause, off := off }
    let run := if ringClass p = 1 then (ftxRun (s.ringOf p).slots i).map (fun x => x.desc.slot) else []
    ∃ t, exec (.dmaErr p i ⟨off, cause⟩) s = .next t ∧ t.ringOf p = ((s.ringOf p).halt (s.ringN p) f).failSlots run f ∧
      (cause = 1 ∨ cause = 2 → bitAt (t.rcW 0x7008) 3 = true ∧ t.event 15 = true) ∧ OtherRings p s t ∧
      RcOnly [0x7008, evtStat 15] s t ∧ LeavesAllBut [.ring, .rc] s t) ∧
  (∀ (s : State) (p : Nat) (x : Slot) (c : Cpl), Ready s → (s.ringOf p).st = .running → (s.ringOf p).fault = none →
    (s.ringOf p).abandonTo = none → (s.ringOf p).window = false → (s.ringOf p).disabling = false →
    (s.ringOf p).slots.find? (fun y => decide (y.desc.slot = (s.ringOf p).ci)) = some x → x.done = some c →
    s.cplRoom p = true → bitAt (s.rwW (ringBase p + 0x1C)) 7 = false → s.counter (ringCtr p 0) + 1 < ctrMax →
    ∃ t, exec (.completionWrite p false) s = .next t ∧
      t.out = s.out ++ [.host ((s.rwW (ringBase p + 8)).toNat + (s.rwW (ringBase p + 0xC)).toNat * 2 ^ 32 + 16 * (s.ringOf p).cpi)
        (cplBytes c (((s.ringOf p).ci + 1) % s.ringN p) (s.ringOf p).phase) false] ++ sentMsgs s ∧
      (t.ringOf p).ci = ((s.ringOf p).ci + 1) % s.ringN p ∧ (t.ringOf p).cpi = ((s.ringOf p).cpi + 1) % s.ringN p ∧
      (t.ringOf p).phase = (if ((s.ringOf p).cpi + 1) % s.ringN p = 0 then !(s.ringOf p).phase else (s.ringOf p).phase) ∧
      (t.ringOf p).unsig = (s.ringOf p).unsig + 1 ∧ t.counter (ringCtr p 0) = s.counter (ringCtr p 0) + 1 ∧
      t.cmd = (if p = 0 then none else s.cmd) ∧ OtherRings p s t ∧ CountOnly [ringCtr p 0] s t ∧
      LeavesAllBut [.ring, .count, .cmd] s t) ∧
  (∀ (s : State) (p : Nat), Ready s → p < 49 → bitAt (s.rwW (ringBase p + 0x1C)) 7 = true →
    fld (s.rwW (ringBase p + 0x1C)) 16 16 ≠ 0 → (s.ringOf p).unsig ≠ 0 → s.msixEn = false →
    ∃ t, exec (.ringIrqTimer p) s = .next t ∧ t.ringOf p = { s.ringOf p with unsig := 0 } ∧
      bitAt (t.rcW (0x8010 + 4 * (p / 32))) (p % 32) = true ∧ t.event (ringClass p) = true ∧ OtherRings p s t ∧
      RcOnly [0x8010 + 4 * (p / 32), evtStat (ringClass p)] s t ∧ LeavesAllBut [.ring, .rc] s t)) ∧
  ((∀ (s : State) (f : HostFrame) (rest : List HostFrame) (x : Slot), Ready s → s.hrx = f :: rest →
    (s.ringOf (s.frxRing f)).st ≠ .disabled → s.buffers (s.frxRing f) = [x] → 0 < f.body.length → f.poison = [] →
    f.body.length ≤ fld (x.desc.word 1) 0 14 →
    ∃ t, exec .hostFrameWrite s = .next t ∧ t.hrx = rest ∧
      t.out = s.out ++ [.host (x.desc.addr 2) (slice f.body 0 f.body.length) false] ++ sentMsgs s ∧
      t.ringOf (s.frxRing f) = (s.ringOf (s.frxRing f)).finish x.desc.slot (fun tag => cplOf tag 0 0
        (toWord (f.body.length + putb 14 true + putb 15 true + put 16 f.port + putb 17 f.tagged + put 18 f.pcp))
        (toWord (f.body.length + put 16 f.vid)) 0) ∧
      OtherRings (s.frxRing f) s t ∧ LeavesAllBut [.hrx, .ring] s t) ∧
  (∀ (s : State) (f : HostFrame) (rest : List HostFrame), Ready s → s.hrx = f :: rest →
    (fillBuffers (s.buffers (s.frxRing f)) f.body.length).isSome = false →
    s.counter (ringCtr (s.frxRing f) 1) + 1 < ctrMax →
    ∃ t, exec .rngRxdrop s = .next t ∧ t.hrx = rest ∧ bitAt (t.rcW (ringStat (s.frxRing f))) 7 = true ∧ t.event 7 = true ∧
      t.counter (ringCtr (s.frxRing f) 1) = s.counter (ringCtr (s.frxRing f) 1) + 1 ∧
      RcOnly [ringStat (s.frxRing f), evtStat 7] s t ∧ CountOnly [ringCtr (s.frxRing f) 1] s t ∧
      LeavesAllBut [.hrx, .rc, .count] s t) ∧
  (∀ (s : State) (p : Nat) (x : Slot), Ready s → 17 ≤ p → p < 33 → (s.ringOf p).unread = some x →
    (s.ringOf p).st = .running → s.slotLive p x.desc.slot = true → feedPos x.desc ≤ s.tt.now + s.ahead * s.T →
    s.feedHeld + s.feedDue + laneRoom (s.blockBytes p (feedSlice x.desc)) ≤ 262144 →
    ∃ t, exec (.feedBlockRead p) s = .next t ∧ t.ringOf p = { s.ringOf p with
        slots := (s.ringOf p).slots.map (fun y => if y.desc.slot = x.desc.slot then { y with reading := true } else y) } ∧
      OtherRings p s t ∧ LeavesAllBut [.ring] s t) ∧
  (∀ (s : State) (p i : Nat) (x : Slot) (bytes : List Byte), Ready s → 17 ≤ p → p < 33 → s.slotLive p i = true →
    (s.ringOf p).slots = [x] → x.desc.slot = i → x.done = none → x.reading = true → (s.ringOf p).feed = [] →
    x.data.length + bytes.length ≠ s.blockBytes p (feedSlice x.desc) →
    ∃ t, exec (.dataReadReturn p i bytes) s = .next t ∧
      t.ringOf p = { s.ringOf p with slots := [{ x with data := x.data ++ bytes }] } ∧
      OtherRings p s t ∧ LeavesAllBut [.ring] s t))

/-- R208, R209: how each command begins. NOP completes OK; starts, stops and WAIT_POS wait for their boundary; STROBE
takes its snapshots; TT_LOAD writes a departure that is not armed; TBL_WRITE issues its read; TBL_READ writes the
words to host memory; a self-test of an idle unit starts; a reserved opcode completes BADCMD. Commands stated here to
complete, by an equation exec (c) s = .next t under conditions on state and operands alone: .nop, .cmdStxStart,
.cmdStxStop, .cmdSrxStart, .cmdSrxStop, .audStart, .audStop, .strobe, .ttLoad, .tblWrite, .tblRead, .waitPos,
.selftest, .badcmd. -/
def Obligations.CommandsBegin : Prop :=
  ∀ (s : State) (x : Slot), Ready s →
    (CmdHead s 0x00 x → cmdPos x = 0 →
      ∃ t, exec .nop s = .next t ∧ CmdCompletes s t x 0 0 0 0 ∧ LeavesAllBut [.ring, .cmd] s t) ∧
    (CmdHead s 0x01 x → ∃ t, exec .cmdStxStart s = .next t ∧ t.cmd = some (begun x) ∧ LeavesAllBut [.cmd] s t) ∧
    (CmdHead s 0x02 x → ∃ t, exec .cmdStxStop s = .next t ∧ t.cmd = some (begun x) ∧ LeavesAllBut [.cmd] s t) ∧
    (CmdHead s 0x03 x → ∃ t, exec .cmdSrxStart s = .next t ∧ t.cmd = some (begun x) ∧ LeavesAllBut [.cmd] s t) ∧
    (CmdHead s 0x04 x → ∃ t, exec .cmdSrxStop s = .next t ∧ t.cmd = some (begun x) ∧ LeavesAllBut [.cmd] s t) ∧
    (CmdHead s 0x05 x → ∃ t, exec .audStart s = .next t ∧ t.cmd = some (begun x) ∧ LeavesAllBut [.cmd] s t) ∧
    (CmdHead s 0x06 x → ∃ t, exec .audStop s = .next t ∧ t.cmd = some (begun x) ∧ LeavesAllBut [.cmd] s t) ∧
    (CmdHead s 0x0B x → ∃ t, exec .waitPos s = .next t ∧ t.cmd = some (begun x) ∧ LeavesAllBut [.cmd] s t) ∧
    (CmdHead s 0x07 x → cmdPos x = 0 →
      ∃ t, exec .strobe s = .next t ∧ CmdCompletes s t x 0 0 0 0 ∧ LeavesAllBut [.ring, .cmd, .snap] s t ∧
        ∀ g < 16, bitAt (cmdArg0 x) g = true → ∃ y ∈ t.reg.snaps, y.group = g ∧ y.blocks = s.groupBlocks g) ∧
    (CmdHead s 0x08 x → s.shadowed = false → s.isArmed (fld (cmdArg0 x) 0 6) = false → bitAt (cmdArg0 x) 8 = false →
      let a := depBase (fld (cmdArg0 x) 0 6)
      ∃ t, exec .ttLoad s = .next t ∧ CmdCompletes s t x 0 0 0 0 ∧ t.rwW a = x.desc.word 4 ∧ t.rwW (a + 4) = x.desc.word 5 ∧
        t.rwW (a + 8) = cmdArg1 x &&& 0x1FF ∧ t.rwW (a + 0xC) = cmdArg2 x ∧ t.rwW (a + 0x10) = cmdArg3 x ∧
        t.rwW (a + 0x14) = cmdArg4 x &&& 0xFFFF ∧
        (∀ k, k ∉ [a, a + 4, a + 8, a + 0xC, a + 0x10, a + 0x14] → t.rwW k = s.rwW k) ∧
        LeavesAllBut [.ring, .cmd, .rw, .pair] s t) ∧
    (CmdHead s 0x09 x → cmdPos x = 0 → s.tblBlocked x = none →
      ∃ t, exec .tblWrite s = .next t ∧ t.cmd = some { pos := none, late := false, acted := none, testing := false } ∧
        t.ringOf 0 = { s.ringOf 0 with
          slots := (s.ringOf 0).slots.map (fun y => if y.desc.slot = x.desc.slot then { y with reading := true } else y) } ∧
        OtherRings 0 s t ∧ LeavesAllBut [.ring, .cmd] s t) ∧
    (CmdHead s 0x0A x → cmdPos x = 0 → fld (cmdArg1 x) 0 17 = 1 → (cmdArg0 x).toNat / 0x1000000 < 7 →
      (rowT (cmdArg0 x).toNat).isSome = true →
      ∃ t, exec .tblRead s = .next t ∧ CmdCompletes s t x 0 0 1 0 ∧ LeavesAllBut [.ring, .cmd] s t ∧
        t.out = s.out ++ [.host (tblHost x) (bytesLE (s.tableWord (bitAt (cmdArg4 x) 0) (cmdArg0 x).toNat)) false]
          ++ sentMsgs s) ∧
    (CmdHead s 0x0C x → cmdPos x = 0 → fld (cmdArg0 x) 0 8 = 2 → s.testIdle 2 (fld (cmdArg0 x) 8 8) = true →
      let e := fld (cmdArg0 x) 8 8
      ∃ t, exec .selftest s = .next t ∧ t.cmd = some { pos := none, late := false, acted := none, testing := true } ∧
        t.engOf e = { s.engOf e with testing := true } ∧ (∀ k, k ≠ e → t.engOf k = s.engOf k) ∧
        LeavesAllBut [.cmd, .eng] s t) ∧
    (s.cmd = none → s.cmdSlot = some x → 0x0D ≤ cmdOp x →
      ∃ t, exec .badcmd s = .next t ∧ CmdCompletes s t x 3 0 0 0 ∧ LeavesAllBut [.ring, .cmd] s t)

/-- R208, R209, R243: what commands do at the boundary their POS names, and that they then complete: a NOP, stops of
ranges of contexts, an audio start and a STROBE; one that has acted completes with its result; a self-test completes
with what it found. Commands stated here to complete, by an equation exec (c) s = .next t under conditions on state
and operands alone: .commandAtPos, .selftestEnd. -/
def Obligations.CommandsAct : Prop :=
  ∀ (s : State) (x : Slot), Ready s →
    (∀ c st d r0 r1, s.cmd = some c → c.acted = some (st, d, r0, r1) → s.cmdSlot = some x →
      ∃ t, exec .commandAtPos s = .next t ∧ CmdCompletes s t x st d r0 r1 ∧ LeavesAllBut [.ring, .cmd] s t) ∧
    (CmdDue s 0x00 x → ∃ t, exec .commandAtPos s = .next t ∧ CmdCompletes s t x 0 0 0 0 ∧ LeavesAllBut [.ring, .cmd] s t) ∧
    (CmdDue s 0x02 x →
      ∃ t, exec .commandAtPos s = .next t ∧ CmdCompletes s t x 0 0
          (toWord ((rangeList (cmdArg0 x)).filter (fun c => (s.stxOf c).run ∧ ¬(s.stxOf c).stopping)).length) 0 ∧
        (∀ c, t.stxOf c = if c ∈ rangeList (cmdArg0 x) ∧ (s.stxOf c).run = true then { s.stxOf c with stopping := true } else s.stxOf c) ∧
        LeavesAllBut [.ring, .cmd, .stx] s t) ∧
    (CmdDue s 0x04 x →
      ∃ t, exec .commandAtPos s = .next t ∧ CmdCompletes s t x 0 0
          (toWord ((rangeList (cmdArg0 x)).filter (fun c => (s.srxOf c).run ∧ (s.srxOf c).stopLeft.isNone)).length) 0 ∧
        (∀ c, t.srxOf c = if c ∈ rangeList (cmdArg0 x) ∧ (s.srxOf c).run = true ∧ (s.srxOf c).stopLeft = none
          then { s.srxOf c with stopLeft := some 32, gwait := false } else s.srxOf c) ∧
        LeavesAllBut [.ring, .cmd, .srx] s t) ∧
    (CmdDue s 0x05 x → (s.ringOf (fld (cmdArg0 x) 0 6)).st ≠ .disabled → s.audCause (fld (cmdArg0 x) 0 6) = 0 →
      17 ≤ fld (cmdArg0 x) 0 6 →
      let p := fld (cmdArg0 x) 0 6
      ∃ t, exec .commandAtPos s = .next t ∧ t.cmd = none ∧
        t.ringOf p = { s.ringOf p with
          started := true, skip := if ringClass p = 4 then 2 * s.T else 0, stopReq := false, slices := [] } ∧
        t.ringOf 0 = (s.ringOf 0).finish x.desc.slot (fun tag => cplOf tag 0 0 0 0 0) ∧
        (∀ k, k ≠ 0 → k ≠ p → t.ringOf k = s.ringOf k) ∧ LeavesAllBut [.ring, .cmd] s t) ∧
    (CmdDue s 0x07 x →
      ∃ t, exec .commandAtPos s = .next t ∧ CmdCompletes s t x 0 0 0 0 ∧ LeavesAllBut [.ring, .cmd, .snap] s t ∧
        ∀ g < 16, bitAt (cmdArg0 x) g = true → ∃ y ∈ t.reg.snaps, y.group = g ∧ y.blocks = s.groupBlocks g) ∧
    (∀ c fail detail, s.cmd = some c → c.testing = true → c.late = false → s.cmdSlot = some x →
      fld (cmdArg0 x) 0 8 = 1 ∨ fld (cmdArg0 x) 0 8 = 3 →
      ∃ t, exec (.selftestEnd fail detail) s = .next t ∧
        CmdCompletes s t x 0 0 (toWord (b2n fail + put 8 (detail % 2 ^ 24))) 0 ∧
        (∀ k, k ≠ fld (cmdArg0 x) 8 8 → t.sapOf k = s.sapOf k) ∧
        (fld (cmdArg0 x) 0 8 = 3 → t.sapOf (fld (cmdArg0 x) 8 8) = { s.sapOf (fld (cmdArg0 x) 8 8) with testing := false }) ∧
        LeavesAllBut [.ring, .cmd, .sap] s t)

/-- R200, R406, R407, R412, R421: a host loss resets PCI and RNG alone and shows its cause, PERST_N alone leaving the
flags at reset; MSI-X Enable and Interrupt Disable take their value; link training completes once PERST_N is released;
a TLP that fails ECRC is flagged and raises PCI_ERR. Commands stated here to complete, by an equation exec (c) s =
.next t under conditions on state and operands alone: .hostReset, .msixEnable, .interruptDisable, .perstNRelease,
.pcieLinkUp, .ecrcErr. -/
def Obligations.HostLinkAndInterrupts : Prop :=
  (∀ (s : State), Ready s →
    ∃ t, exec (.hostReset .link) s = .next t ∧ t.ring = [] ∧ t.hrx = [] ∧ t.cmd = none ∧ t.pci = pciReset ∧ t.pba = 0 ∧
      t.reg.subidDone = false ∧ t.msixEn = false ∧ t.intDis = false ∧ bitAt (t.rcW 0x7008) 0 = true ∧ t.event 15 = true ∧
      (∀ a, hostKey a = true → t.stagedW a = resetWord a ∧ t.appliedW a = resetWord a ∧ t.rwW a = resetWord a ∧ t.counter a = 0) ∧
      (∀ a, hostKey a = false → t.stagedW a = s.stagedW a ∧ t.appliedW a = s.appliedW a ∧ t.rwW a = s.rwW a ∧
        t.counter a = s.counter a ∧ (a ≠ evtStat 15 → t.rcW a = s.rcW a)) ∧
      LeavesAllBut [.staged, .applied, .rw, .rc, .count, .rcu, .macA, .macB, .hrx, .ring, .ftxTurn, .cmd, .pci, .msixEn, .intDis] s t) ∧
  (∀ (s : State), s.held = false → s.standalone = true →
    ∃ t, exec (.hostReset .perst) s = .next t ∧ t.pmu = { s.pmu with perstLow := true } ∧ LeavesAllBut [.pmu] s t) ∧
  (∀ (s : State) (b : Bool), Ready s →
    ∃ t, exec (.msixEnable b) s = .next t ∧ t.msixEn = b ∧ LeavesAllBut [.msixEn] s t) ∧
  (∀ (s : State) (n : Nat), Ready s → s.msixEn = false → n < 96 → s.isPending n = true →
    ∃ t, exec (.msixEnable true) s = .next t ∧
      (if s.pci.masked (s.route n) then t.pba.getLsbD (s.route n) = true else s.pci.message (s.route n) ∈ t.out)) ∧
  (∀ (s : State) (b : Bool), Ready s →
    ∃ t, exec (.interruptDisable b) s = .next t ∧ t.intDis = b ∧ LeavesAllBut [.intDis] s t) ∧
  (∀ (s : State), s.held = false →
    ∃ t, exec .perstNRelease s = .next t ∧ t.pmu = { s.pmu with perstLow := false } ∧ LeavesAllBut [.pmu] s t) ∧
  (∀ (s : State) (speed width : Nat), Ready s → s.pmu.up = true → s.pmu.perstLow = false → s.pmu.bistFail = false →
    s.standalone = false → speed < 8 → width < 8 →
    ∃ t, exec (.pcieLinkUp speed width) s = .next t ∧ t.pci = { s.pci with up := true, speed := speed, width := width } ∧ LeavesAllBut [.pci] s t) ∧
  (∀ (s : State), Ready s →
    ∃ t, exec .ecrcErr s = .next t ∧ bitAt (t.rcW 0x7008) 2 = true ∧ t.event 15 = true ∧ RcOnly [0x7008, evtStat 15] s t ∧
      LeavesAllBut [.rc] s t)

/-! ### Ethernet ports -/

/-- R85 and R87: a software MDIO transaction joins the master's queue, or is refused with COLLIDE while one waits; one
that ends puts its read or write out, a read leaving its data, with DONE and MDIO_DONE; a script write that ends is
put out and the queue moves on, the last one setting the lane to the port's rung. R97: a verify mPacket goes out up to
three times, then verification fails with its flag and event; a response makes preemption active; REVERIFY starts
over; HOLD_END ends a watchdog hold. Commands stated here to complete, by an equation exec (c) s = .next t under
conditions on state and operands alone: .mdioCommand, .mdioDone, .reverify, .holdEnd, .verifySend, .verifyResponse. -/
def Obligations.MdioAndPreemption : Prop :=
  (∀ (s : State), Ready s →
    (∀ (q : Req) (d : Word), softwareBusy s.mdio = false →
      ∃ t, exec (.mdioCommand ⟨q, .normal, d⟩) s = .next t ∧
        t.mdio = s.mdio ++ [.software (d &&& 0xFFFF07FF) (s.rwW 0x3108).toNat] ∧ LeavesAllBut [.mdio] s t) ∧
    (∀ (q : Req) (d : Word), softwareBusy s.mdio = true →
      ∃ t, exec (.mdioCommand ⟨q, .normal, d⟩) s = .next t ∧ bitAt (t.rcW 0x310C) 2 = true ∧ t.mdio = s.mdio ∧
        RcOnly [0x310C] s t ∧ LeavesAllBut [.rc] s t) ∧
    (∀ (v : Nat) (c : Word) (d : Nat) (rest : List MdioReq), s.mdio = .software c d :: rest → bitAt c 10 = true →
      ∃ t, exec (.mdioDone v) s = .next t ∧ t.mdio = rest ∧ t.rwW 0x3108 = toWord (v % 65536) ∧ bitAt (t.rcW 0x310C) 1 = true ∧
        t.event 24 = true ∧ OutItem.mdioRead (fld c 0 5) (fld c 5 5) (fld c 16 16) ∈ t.out ∧
        (∀ k, k ≠ 0x3108 → t.rwW k = s.rwW k) ∧ RcOnly [0x310C, evtStat 24] s t ∧
        LeavesAllBut [.mdio, .rw, .rc] s t) ∧
    (∀ (v : Nat) (c : Word) (d : Nat) (rest : List MdioReq), s.mdio = .software c d :: rest → bitAt c 10 = false →
      ∃ t, exec (.mdioDone v) s = .next t ∧ t.mdio = rest ∧ OutItem.mdio (fld c 0 5) (fld c 5 5) (fld c 16 16) d ∈ t.out ∧
        bitAt (t.rcW 0x310C) 1 = true ∧ t.event 24 = true ∧ RcOnly [0x310C, evtStat 24] s t ∧ LeavesAllBut [.mdio, .rc] s t) ∧
    (∀ (v p dev reg d : Nat) (rest : List MdioReq), s.mdio = .script p dev reg d :: rest → p < 2 → scripting p rest = false →
      (s.mac p).goal ≠ 3 →
      ∃ t, exec (.mdioDone v) s = .next t ∧ t.mdio = rest ∧
        t.mac p = { s.mac p with rung := (s.mac p).goal, target := none } ∧ OtherPorts p s t ∧
        t.out = s.out ++ [.mdio (fld (s.macW p 0) 8 5) dev reg d] ++ sentMsgs s ∧ LeavesAllBut [.mdio, .macA, .macB] s t) ∧
    (∀ (v p dev reg d : Nat) (rest : List MdioReq), s.mdio = .script p dev reg d :: rest → scripting p rest = true →
      ∃ t, exec (.mdioDone v) s = .next t ∧ t.mdio = rest ∧
        t.out = s.out ++ [.mdio (fld (s.macW p 0) 8 5) dev reg d] ++ sentMsgs s ∧ LeavesAllBut [.mdio] s t)) ∧
  (∀ (s : State) (p : Nat), Ready s → p < numPorts s.member →
    ((s.mac p).verify = 1 → (s.mac p).verifyTries < 3 →
      ∃ t, exec (.verifySend p) s = .next t ∧ t.mac p = { s.mac p with verifyTries := (s.mac p).verifyTries + 1 } ∧
        t.out = s.out ++ [.verify p] ++ sentMsgs s ∧ OtherPorts p s t ∧ LeavesAllBut [.macA, .macB] s t) ∧
    ((s.mac p).verify = 1 → 3 ≤ (s.mac p).verifyTries →
      ∃ t, exec (.verifySend p) s = .next t ∧ t.mac p = { s.mac p with verify := 3 } ∧
        bitAt (t.rcW (macBase p + 0xC)) 2 = true ∧ t.event (18 + p) = true ∧ OtherPorts p s t ∧
        RcOnly [macBase p + 0xC, evtStat (18 + p)] s t ∧ LeavesAllBut [.rc, .macA, .macB] s t) ∧
    ((s.mac p).verify = 1 →
      ∃ t, exec (.verifyResponse p) s = .next t ∧ t.mac p = { s.mac p with verify := 2 } ∧ OtherPorts p s t ∧
        LeavesAllBut [.macA, .macB] s t) ∧
    (∀ q, (s.mac p).up = true →
      ∃ t, exec (.reverify p q) s = .next t ∧ t.mac p = { s.mac p with verify := verifyStart (s.macW p 0x20), verifyTries := 0 } ∧
        OtherPorts p s t ∧ LeavesAllBut [.macA, .macB] s t) ∧
    (∀ q, ∃ t, exec (.holdEnd p q) s = .next t ∧ t.mac p = { s.mac p with hold := false } ∧ OtherPorts p s t ∧
        LeavesAllBut [.macA, .macB] s t))

/-- R86 to R91: a poll joins the MDIO master's queue and its end takes the PHY's link bit; a port whose EN, lane and
PHY link hold comes up with its event and starts its verification; one whose lane is lost goes down with its queues
empty and its stops ended; RETRAIN takes it down on its rung and queues the script; a failed script of a change DPC
did not order leaves the port in hard stop. A poll falls due INTERVAL ms after the one before (log 115). Commands
stated here to complete, by an equation exec (c) s = .next t under conditions on state and operands alone: .mdioDone,
.phyPoll, .retrain, .retrainFail, .linkUp, .linkDown. -/
def Obligations.PortsComeUpAndGoDown : Prop :=
  ∀ (s : State) (p : Nat), Ready s → p < numPorts s.member →
    (∀ ms, mediaPhy (s.macW p 0) = true → bitAt (s.macW p 0x40) 0 = true → max 1 (fld (s.macW p 0x40) 8 8) ≤ ms →
      scripting p s.mdio = false →
      ∃ t, exec (.phyPoll p ms) s = .next t ∧ t.mdio = s.mdio ++ [.poll p] ∧ LeavesAllBut [.mdio] s t) ∧
    (∀ v rest, s.mdio = .poll p :: rest → (s.mac p).up = false → (s.mac p).lane = false →
      ∃ t, exec (.mdioDone v) s = .next t ∧ t.mdio = rest ∧
        t.mac p = { s.mac p with phy := v.testBit (fld (s.macW p 0x40) 16 4) } ∧ OtherPorts p s t ∧
        t.out = s.out ++ [.mdioRead (fld (s.macW p 0) 8 5) (fld (s.macW p 0x40) 1 5) (fld (s.macW p 0x44) 0 16)] ++ sentMsgs s ∧
        LeavesAllBut [.mdio, .macA, .macB] s t) ∧
    (macEn (s.macW p 0) = true → s.phyOk p = true → (s.mac p).up = false → (s.mac p).target = none →
      s.reg.hstop.getLsbD p = false →
      ∃ t, exec (.linkUp p) s = .next t ∧ (t.mac p).up = true ∧ (t.mac p).lane = true ∧ (t.mac p).window = false ∧
        (t.mac p).retrain = false ∧ (t.mac p).verify = verifyStart (s.macW p 0x20) ∧ (t.mac p).rung = (s.mac p).rung ∧
        bitAt (t.rcW (macBase p + 0xC)) 0 = true ∧ t.event (16 + p) = true ∧
        LeavesAllBut [.rw, .rc, .macA, .macB, .dpc] s t) ∧
    ((s.mac p).up = true →
      ∃ t, exec (.linkDown p) s = .next t ∧ (t.mac p).up = false ∧ (t.mac p).lane = false ∧ (t.mac p).queues = [] ∧ (t.mac p).cur = none ∧
        (t.mac p).rem = none ∧ (t.mac p).verify = 0 ∧ (t.mac p).pauseQ = 0 ∧ (t.mac p).pfcQ = 0 ∧ (t.mac p).window = true ∧
        (t.mac p).rung = (s.mac p).rung ∧ bitAt (t.rcW (macBase p + 0xC)) 0 = true ∧ t.event (16 + p) = true ∧ OtherPorts p s t ∧
        LeavesAllBut [.rc, .count, .tim, .mcr, .macA, .macB, .dpc, .ring] s t) ∧
    (∀ q, ∃ t, exec (.retrain p q) s = .next t ∧ (t.mac p).up = false ∧ (t.mac p).retrain = true ∧ (t.mac p).lane = false ∧
        (t.mac p).goal = (s.mac p).goal ∧ (t.mac p).upshift = none ∧ t.reg.hstop.getLsbD p = false ∧ OtherPorts p s t ∧
        t.mdio = dropScript p s.mdio ++ (if mediaPhy (s.macW p 0) = true then
          (s.scriptOf p (s.mac p).goal).map (fun e => .script p e.1 e.2.1 e.2.2) else []) ∧
        LeavesAllBut [.rc, .count, .hstop, .tim, .mcr, .macA, .macB, .mdio, .dpc, .ring] s t) ∧
    (scripting p s.mdio = true → (s.mac p).dpcOrder = false → s.dpc.shifting = false →
      ∃ t, exec (.retrainFail p) s = .next t ∧ t.mdio = dropScript p s.mdio ∧ bitAt (t.rcW (macBase p + 0xC)) 5 = true ∧
        bitAt (t.rcW (macBase p + 0xC)) 7 = true ∧ t.event (25 + p) = true ∧ t.reg.hstop.getLsbD p = true ∧
        (s.reg.hstop.getLsbD p = false → t.event 10 = true) ∧ RcOnly [macBase p + 0xC, evtStat (25 + p), evtStat 10] s t ∧
        LeavesAllBut [.rc, .hstop, .mdio] s t)

/-- R48, R92 to R94, R97 to R99, R105, R106, R110, R139: the first queue in order that holds a frame, is not stopped
and has credit starts its frame, a PTP event message taking its timestamp then, a poisoned stream frame counting in
BADFCS; a host frame in preemption gives way to an express one within the limits, its fragment going out with its
mCRC; a frame that ends goes out padded with its FCS and is counted; a received frame that fails its FCS is counted
and rewound, a verify mPacket is answered, and a frame for the host enters HRX whole. Commands stated here to
complete, by an equation exec (c) s = .next t under conditions on state and operands alone: .frameTxStart,
.preemption, .frameTxEnd, .frameRx. -/
def Obligations.FramesSentAndReceived : Prop :=
  ∀ (s : State) (p : Nat), Ready s → p < numPorts s.member →
    (∀ (n bad q : Nat) (i : Instant) (f : TxFrame) (l : List TxFrame), (s.mac p).up = true → (s.mac p).cur = none →
      (s.mac p).rem = none → (s.mac p).sleep = false → slopeOf (s.macW p 0x30) ≠ 0 ∨ s.queue p 2 = [] →
      slopeOf (s.macW p 0x34) ≠ 0 ∨ s.queue p 3 = [] → q < 8 → s.queue p q = f :: l → (s.mac p).stopped q = false → (q = 2 → 0 ≤ s.creditAfter p 0 n) → (q = 3 → 0 ≤ s.creditAfter p 1 n) →
      (∀ k, k < q → s.queue p k = []) →
      (f.ptp = none →
        ∃ t, exec (.frameTxStart p n 0 i) s = .next t ∧ (t.mac p).cur = some { q := q, frame := f, frags := 1, sent := 0 } ∧
          (t.mac p).queues = sset (fun _ => []) ((s.dropUnreserved p).mac p).queues q l ∧ (t.mac p).up = true ∧
          (t.mac p).creditA = s.creditAfter p 0 n ∧ (t.mac p).creditB = s.creditAfter p 1 n ∧ OtherPorts p s t ∧
          LeavesAllBut [.macA, .macB] s t) ∧
      (∀ k, f.ptp = none → f.ctx = some k → f.poison = false → 0 < bad → s.counter (stxCtr k 3) + 1 < ctrMax →
        s.counter (sdgCtr (2 + p) 0) + bad < ctrMax → stxCtr k 3 ≠ sdgCtr (2 + p) 0 →
        ∃ t, exec (.frameTxStart p n bad i) s = .next t ∧
          (t.mac p).cur = some { q := q, frame := { f with poison := true }, frags := 1, sent := 0 } ∧
          t.counter (stxCtr k 3) = s.counter (stxCtr k 3) + 1 ∧ t.counter (sdgCtr (2 + p) 0) = s.counter (sdgCtr (2 + p) 0) + bad ∧
          OtherPorts p s t ∧ CountOnly [stxCtr k 3, sdgCtr (2 + p) 0] s t ∧ LeavesAllBut [.rc, .count, .macA, .macB] s t) ∧
      (∀ m, f.ptp = some m → m.port = p →
        let e := if eventKind m.kind = true then { m with stamp := s.stampAt m.inst p false i } else m
        ∃ t, exec (.frameTxStart p n 0 i) s = .next t ∧ (t.mac p).cur =
            some { q := q, frame := { f with body := Config.ptpFrame e, ptp := some e }, frags := 1, sent := 0 } ∧
          OutItem.ptp e ∈ t.out ∧ OtherPorts p s t ∧ LeavesAllBut [.tim, .macA, .macB] s t)) ∧
    (∀ (n k : Nat) (c : TxCur), (s.mac p).cur = some c → isHostQ c.q = true → (s.mac p).verify = 2 → (s.mac p).rem = none →
      s.queue p 0 ≠ [] → (s.mac p).stopped 0 = false → 60 ≤ k → c.sent + k + 60 ≤ c.frame.wire.length →
      ∃ t, exec (.preemption p n k) s = .next t ∧ t.mac p = { s.mac p with
          creditA := s.creditAfter p 0 n, creditB := s.creditAfter p 1 n, cur := none, rem := some { c with sent := c.sent + k } } ∧
        t.out = s.out ++ [.fragment p (c.frags - 1)
          (slice c.frame.wire c.sent k ++ bytesLE (Config.mcrc (c.frame.wire.take (c.sent + k))))] ++ sentMsgs s ∧
        OtherPorts p s t ∧ LeavesAllBut [.macA, .macB] s t) ∧
    (∀ (n : Nat) (c : TxCur), (s.mac p).cur = some c → isHostQ c.q = false → c.frags = 1 → s.counter (macCtr p 0) + 1 < ctrMax →
      s.counter (macCtr p 1) + c.frame.wire.length < ctrMax → s.counter (macCtr p 2) + 1 < ctrMax →
      ∃ t, exec (.frameTxEnd ⟨p, n⟩) s = .next t ∧ (t.mac p).cur = none ∧
        t.out = s.out ++ [.frame p c.frame.wire c.frame.poison] ++ sentMsgs s ∧
        t.counter (macCtr p 0) = s.counter (macCtr p 0) + 1 ∧
        t.counter (macCtr p 1) = s.counter (macCtr p 1) + c.frame.wire.length ∧
        t.counter (macCtr p 2) = s.counter (macCtr p 2) + 1 ∧ OtherPorts p s t ∧
        CountOnly [macCtr p 0, macCtr p 1, macCtr p 2] s t ∧ LeavesAllBut [.count, .macA, .macB, .dpc] s t) ∧
    (∀ (x : RxFrame), (s.mac p).up = true → x.verify = true → (s.mac p).sleep = false →
      ∃ t, exec (.frameRx p x) s = .next t ∧ t.out = s.out ++ [.respond p] ++ sentMsgs s ∧ LeavesAllBut [.dpc] s t) ∧
    (∀ (x : RxFrame), (s.mac p).up = true → x.verify = false → x.fcsOk = false → x.trimmed = none → s.counter (macCtr p 7) + 1 < ctrMax →
      s.counter (sdgCtr p 2) + 1 < ctrMax →
      ∃ t, exec (.frameRx p x) s = .next t ∧ t.counter (macCtr p 7) = s.counter (macCtr p 7) + 1 ∧
        t.counter (sdgCtr p 2) = s.counter (sdgCtr p 2) + 1 ∧ t.hrx = s.hrx ∧
        CountOnly [macCtr p 7, sdgCtr p 2] s t ∧ LeavesAllBut [.count, .dpc] s t) ∧
    (∀ (x : RxFrame), (s.mac p).up = true → (s.mac p).sleep = false → x.verify = false → s.rxFails p x = none →
      x.poison = [] → x.split = none → (frameHead x.bytes).tags = 2 → s.addrAccept p x.early x.bytes = true → s.hrx = [] →
      laneRoom (s.hostCopy p (frameHead x.bytes) x).body.length ≤ 196608 →
      ∃ t, exec (.frameRx p x) s = .next t ∧ t.hrx = [s.hostCopy p (frameHead x.bytes) x] ∧
        LeavesAllBut [.rc, .count, .dpc, .hrx] s t)

/-- R100 to R103: a PAUSE acted on stops the queues it covers, with a time of zero restarts them, and counts; a PFC
frame stops those whose priority it names; a time that runs out restarts its queue; the watchdog ends every stop,
holds, flags, counts and raises its event; the hold ends. Commands stated here to complete, by an equation exec (c) s
= .next t under conditions on state and operands alone: .pauseRx, .pfcRx, .pauseExpiry, .pauseBroken,
.pauseHoldExpiry. -/
def Obligations.PauseAndPfc : Prop :=
  ∀ (s : State) (p : Nat), Ready s → p < numPorts s.member →
    (∀ quanta, (s.mac p).up = true → (s.mac p).sleep = false → (s.mac p).hold = false → bitAt (s.macW p 0x14) 0 = true →
      (s.mac p).cur = none → (s.mac p).rem = none → s.counter (macCtr p 11) + 1 < ctrMax →
      ∃ t, exec (.pauseRx p quanta) s = .next t ∧
        (t.mac p).pauseQ = (if quanta = 0 then (s.mac p).pauseQ &&& ~~~(BitVec.ofNat 8 (s.pauseMask p))
          else (s.mac p).pauseQ ||| BitVec.ofNat 8 (s.pauseMask p)) ∧ (t.mac p).pfcQ = (s.mac p).pfcQ ∧
        t.counter (macCtr p 11) = s.counter (macCtr p 11) + 1 ∧ OtherPorts p s t ∧ CountOnly [macCtr p 11] s t ∧
        LeavesAllBut [.count, .macA, .macB] s t) ∧
    (∀ enables times, (s.mac p).up = true → (s.mac p).sleep = false → (s.mac p).hold = false → bitAt (s.macW p 0x14) 1 = true →
      (s.mac p).cur = none → (s.mac p).rem = none → s.counter (macCtr p 11) + 1 < ctrMax →
      let on := s.pfcMask p (maskOf ((bitsOf 8 enables).filter (fun k => decide (times.getD k 0 ≠ 0))))
      let off := s.pfcMask p (maskOf ((bitsOf 8 enables).filter (fun k => decide (times.getD k 0 = 0))))
      on + off ≠ 0 →
      ∃ t, exec (.pfcRx p enables times) s = .next t ∧
        (t.mac p).pfcQ = ((s.mac p).pfcQ &&& ~~~(BitVec.ofNat 8 off)) ||| BitVec.ofNat 8 on ∧
        (t.mac p).pauseQ = (s.mac p).pauseQ ∧ t.counter (macCtr p 11) = s.counter (macCtr p 11) + 1 ∧ OtherPorts p s t ∧
        CountOnly [macCtr p 11] s t ∧ LeavesAllBut [.count, .macA, .macB] s t) ∧
    (∀ k, k < 8 →
      ∃ t, exec (.pauseExpiry p k false) s = .next t ∧ (t.mac p).pauseQ.getLsbD k = false ∧
        (∀ j, j ≠ k → (t.mac p).pauseQ.getLsbD j = (s.mac p).pauseQ.getLsbD j) ∧ (t.mac p).pfcQ = (s.mac p).pfcQ ∧
        OtherPorts p s t ∧ LeavesAllBut [.macA, .macB] s t) ∧
    ((s.mac p).pauseQ ||| (s.mac p).pfcQ ≠ 0 → s.counter (macCtr p 14) + 1 < ctrMax →
      ∃ t, exec (.pauseBroken p) s = .next t ∧ (t.mac p).pauseQ = 0 ∧ (t.mac p).pfcQ = 0 ∧ (t.mac p).hold = true ∧
        bitAt (t.rcW (macBase p + 0xC)) 1 = true ∧ t.event (20 + p) = true ∧
        t.counter (macCtr p 14) = s.counter (macCtr p 14) + 1 ∧ OtherPorts p s t ∧
        RcOnly [macBase p + 0xC, evtStat (20 + p)] s t ∧ CountOnly [macCtr p 14] s t ∧
        LeavesAllBut [.rc, .count, .macA, .macB] s t) ∧
    (∃ t, exec (.pauseHoldExpiry p) s = .next t ∧ t.mac p = { s.mac p with hold := false } ∧ OtherPorts p s t ∧
      LeavesAllBut [.macA, .macB] s t)

/-! ### Streams and the dual-path combiner -/

/-- R133, R156, R161: STOP_ALL of STX_CTL and SRX_CTL waits for the next boundary; a context whose stop fade has ended
stops with its sidings empty; a group whose wait has run out starts presenting, its waiting members from this boundary
at the earliest. R169 and R173: a dual-path context without an accepted copy for RESET puts its window in reset; a
path without a copy for LOSS is DOWN, an impaired one without a miss is HEALTHY, and each change shows in DPC_FLAGS
with its event. Commands stated here to complete, by an equation exec (c) s = .next t under conditions on state and
operands alone: .stxStopAll, .groupTimeout, .srxStopAll, .srxStopEnd, .windowReset, .pathLoss, .pathHealthy. -/
def Obligations.StreamsAndPaths : Prop :=
  (∀ (s : State), Ready s →
    (∀ q, ∃ t, exec (.stxStopAll q) s = .next t ∧ t.stx = { s.stx with stopAll := true } ∧ LeavesAllBut [.stx] s t) ∧
    (∀ q, ∃ t, exec (.srxStopAll q) s = .next t ∧ t.srx = { s.srx with stopAll := true } ∧ LeavesAllBut [.srx] s t) ∧
    (∀ c, (s.srxOf c).run = true → (s.srxOf c).stopLeft = some 0 → s.dpc.shifting = false →
      ∃ t, exec (.srxStopEnd c) s = .next t ∧ t.srxOf c = { srxReset c with words := (s.srxOf c).words } ∧ OtherSrx c s t ∧
        (t.dpcOf c).dual = false ∧ (t.dpcOf c).stA = 0 ∧ (t.dpcOf c).stB = 0 ∧ OtherDpc c s t ∧ LeavesAllBut [.rc, .srx, .dpc] s t) ∧
    (∀ g c, s.members g = [(c, s.srxOf c)] → (s.srxOf c).gwait = true → (s.grpOf g).presenting = false →
      s.groupWait g ≤ (s.grpOf g).ticks →
      ∃ t, exec (.groupTimeout g) s = .next t ∧ (t.grpOf g).presenting = true ∧ (t.srxOf c).presenting = true ∧
        (t.srxOf c).gwait = false ∧ (t.srxOf c).start = max (s.srxOf c).start s.tt.now ∧ OtherSrx c s t ∧
        bitAt (t.rcW 0x34008) 6 = true ∧ t.event 48 = true ∧ LeavesAllBut [.rc, .srx] s t)) ∧
  (∀ (s : State) (c p : Nat), Ready s → hasDpc s.member = true → p < 2 → (s.dpcOf c).dual = true →
    ((s.dpcOf c).reset = false →
      ∃ t, exec (.windowReset c) s = .next t ∧ t.dpcOf c = { s.dpcOf c with reset := true } ∧ bitAt (t.rcW (dpcBase c)) 4 = true ∧
        OtherDpc c s t ∧ RcOnly [dpcBase c] s t ∧ LeavesAllBut [.rc, .dpc] s t) ∧
    ((s.dpcOf c).path p ≠ 3 →
      ∃ t, exec (.pathLoss c p) s = .next t ∧ t.dpcOf c = (s.dpcOf c).setPath p 3 ∧ bitAt (t.rcW 0x3800C) 0 = true ∧
        t.event 49 = true ∧ OtherDpc c s t ∧ RcOnly [0x3800C, evtStat 49] s t ∧ LeavesAllBut [.rc, .dpc] s t) ∧
    ((s.dpcOf c).path p = 2 → s.dpc.shifting = false →
      ∃ t, exec (.pathHealthy c p) s = .next t ∧ t.dpcOf c = (s.dpcOf c).setPath p 1 ∧ bitAt (t.rcW 0x3800C) 0 = true ∧
        t.event 49 = true ∧ OtherDpc c s t ∧ RcOnly [0x3800C, evtStat 49] s t ∧ LeavesAllBut [.rc, .dpc] s t))

/-- R175 to R179: a second measures what each port carried and starts its counts again; DS_NOW orders a downshift or
is refused with DS_REFUSED; CLR_HOLD restarts both hold counts; the boundary moves the port that is due one rung down,
retraining it; an upshift for reservations moves its port to the rung it needs once no change is in progress. Commands
stated here to complete, by an equation exec (c) s = .next t under conditions on state and operands alone:
.utilisationSecond, .downshift, .dsNow, .clrHold, .reservationUpshift. -/
def Obligations.RungChangesOrdered : Prop :=
  ∀ (s : State), Ready s → hasDpc s.member = true →
    (upthr (s.appliedW 0x38010) = 0 →
      ∃ t, exec .utilisationSecond s = .next t ∧ t.dpc.a.utilTx = mbps s.dpc.a.octTx ∧ t.dpc.a.utilRx = mbps s.dpc.a.octRx ∧
        t.dpc.a.srate = mbps s.dpc.a.octStr ∧ t.dpc.b.utilTx = mbps s.dpc.b.octTx ∧ t.dpc.b.utilRx = mbps s.dpc.b.octRx ∧
        t.dpc.b.srate = mbps s.dpc.b.octStr ∧ t.dpc.a.octTx = 0 ∧ t.dpc.b.octTx = 0 ∧ (∀ c, t.dpcOf c = s.dpcOf c) ∧
        LeavesAllBut [.dpc] s t) ∧
    (∀ (p : Nat) (q : Req), p < 2 → s.dsClear p = true →
      ∃ t, exec (.dsNow p q) s = .next t ∧ t.dpcPort p = { s.dpcPort p with due := true } ∧ t.dpcPort (1 - p) = s.dpcPort (1 - p) ∧
        (∀ c, t.dpcOf c = s.dpcOf c) ∧ LeavesAllBut [.dpc] s t) ∧
    (∀ (p : Nat) (q : Req), p < 2 → s.dsClear p = false →
      ∃ t, exec (.dsNow p q) s = .next t ∧ bitAt (t.rcW 0x3800C) 4 = true ∧ RcOnly [0x3800C] s t ∧ LeavesAllBut [.rc] s t) ∧
    (∀ q, ∃ t, exec (.clrHold q) s = .next t ∧ t.dpc.a = { s.dpc.a with hold := 0 } ∧ t.dpc.b = { s.dpc.b with hold := 0 } ∧
      (∀ c, t.dpcOf c = s.dpcOf c) ∧ LeavesAllBut [.dpc] s t) ∧
    (∀ p, s.dsPort = some p → s.dpc.shifting = false → (s.mac p).rung < floorRung s.member (s.macW p 0) →
      ∃ t, exec .downshift s = .next t ∧ (t.mac p).goal = (s.mac p).rung + 1 ∧ (t.mac p).up = false ∧ (t.mac p).retrain = true ∧
        (t.mac p).dpcOrder = true ∧ (t.mac p).dpcPrev = (s.mac p).goal ∧ t.dpc.shifting = true ∧ t.dpc.shiftPort = p ∧
        t.dpc.a.due = false ∧ t.dpc.b.due = false ∧ OtherPorts p s t ∧
        LeavesAllBut [.rc, .count, .hstop, .tim, .mcr, .macA, .macB, .mdio, .dpc, .ring] s t) ∧
    (∀ p r, p < 2 → p < numPorts s.member → (s.mac p).upshift = some r → s.dpc.shifting = false ∨ s.dpc.shiftPort = p →
      (s.mac (1 - p)).retrain = false → r < (s.mac p).rung →
      ∃ t, exec (.reservationUpshift p) s = .next t ∧ (t.mac p).goal = r ∧ (t.mac p).up = false ∧ (t.mac p).retrain = true ∧
        (t.mac p).upshift = none ∧ t.dpc.shifting = true ∧ t.dpc.shiftPort = p ∧ OtherPorts p s t ∧
        LeavesAllBut [.rc, .count, .hstop, .tim, .mcr, .macA, .macB, .mdio, .dpc, .ring] s t)

/-! ### Mix fabric and effect engines -/

/-- R264 and R285: COPY starts the copy of an owner's active banks; at its end every inactive bank word of a mode-1
region is the active one's, and no other bank word has changed. Commands stated here to complete, by an equation exec
(c) s = .next t under conditions on state and operands alone: .mixCopy, .mixCopyEnd, .engCopy, .engCopyEnd. -/
def Obligations.BankCopies : Prop :=
  ∀ (s : State) (q : Req), Ready s → s.shadowed = false →
    (s.mix.copying = false →
      ∃ t, exec (.mixCopy q) s = .next t ∧ t.mix = { s.mix with copying := true } ∧ LeavesAllBut [.mix, .pair] s t) ∧
    (s.mix.copying = true → s.reg.held = [] →
      ∃ t, exec .mixCopyEnd s = .next t ∧ t.mix = { s.mix with copying := false } ∧
        (∀ a, ownerOf a = some bMIX → s.inMode1 a = true →
          t.bankW true a = s.bankW (s.activeB a) a ∧ t.bankW false a = s.bankW (s.activeB a) a) ∧
        (∀ (b : Bool), ∀ a, ownerOf a ≠ some bMIX ∨ s.inMode1 a = false → t.bankW b a = s.bankW b a) ∧ LeavesAllBut [.mix, .bank] s t) ∧
    (∀ e, e < numEng s.member →
      ((s.engOf e).copying = false →
        ∃ t, exec (.engCopy e q) s = .next t ∧ t.engOf e = { s.engOf e with copying := true } ∧ OtherEngines e s t ∧
          LeavesAllBut [.eng, .pair] s t) ∧
      ((s.engOf e).copying = true → s.reg.held = [] →
        ∃ t, exec (.engCopyEnd e) s = .next t ∧ t.engOf e = { s.engOf e with copying := false } ∧ OtherEngines e s t ∧
          (∀ a, ownerOf a = some (bENG e) → s.inMode1 a = true →
            t.bankW true a = s.bankW (s.activeB a) a ∧ t.bankW false a = s.bankW (s.activeB a) a) ∧
          (∀ (b : Bool), ∀ a, ownerOf a ≠ some (bENG e) ∨ s.inMode1 a = false → t.bankW b a = s.bankW b a) ∧
          LeavesAllBut [.eng, .bank] s t))

/-- R265 and R285: SL_GO captures its pairs where every index lies in a region in mode 2; with a count of 0 or an
index that does not, it is refused with its flag (and MIX's event); while a set waits it is discarded with its flag;
the set applies to the applied and the staged words. Commands stated here to complete, by an equation exec (c) s =
.next t under conditions on state and operands alone: .slGo, .safeLoadApply, .engSlGo. -/
def Obligations.SafeLoads : Prop :=
  ∀ (s : State) (q : Req) (c : Nat), Ready s → s.shadowed = false → c < 32 →
    (s.mix.slPend = none → 0 < c → c ≤ 16 → (∀ x ∈ loadPairs s bMIX c, s.slIndexOk bMIX x.1 = true) →
      ∃ t, exec (.slGo c q) s = .next t ∧ t.mix = { s.mix with slPend := some (loadPairs s bMIX c) } ∧ LeavesAllBut [.mix] s t) ∧
    (s.mix.slPend = none → c = 0 →
      ∃ t, exec (.slGo c q) s = .next t ∧ bitAt (t.rcW 0x50008) 3 = true ∧ t.event 56 = true ∧
        RcOnly [0x50008, evtStat 56] s t ∧ LeavesAllBut [.rc] s t) ∧
    (s.mix.slPend ≠ none →
      ∃ t, exec (.slGo c q) s = .next t ∧ bitAt (t.rcW 0x50008) 2 = true ∧ RcOnly [0x50008] s t ∧ LeavesAllBut [.rc] s t) ∧
    (∀ e, e < numEng s.member → (s.engOf e).slPend = none → 0 < c → c ≤ 16 →
      (∀ x ∈ loadPairs s (bENG e) c, s.slIndexOk (bENG e) x.1 = true) →
      ∃ t, exec (.engSlGo e c q) s = .next t ∧ t.engOf e = { s.engOf e with slPend := some (loadPairs s (bENG e) c) } ∧
        OtherEngines e s t ∧ LeavesAllBut [.eng] s t) ∧
    (∀ i w, s.mix.slPend = some [(i, w)] → (∀ e, (s.engOf e).slPend = none) →
      ∃ t, exec .safeLoadApply s = .next t ∧ t.mix.slPend = none ∧
        (∀ a, t.appliedW a = if a = paramAddr bMIX i then w else s.appliedW a) ∧
        (∀ a, t.stagedW a = if a = paramAddr bMIX i then w else s.stagedW a) ∧
        LeavesAllBut [.mix, .staged, .applied, .pair] s t)

/-- R248 and R250: a deferred crossfade with room and a length begins from its source to the one that waits; a
crossfade whose last sample is due ends on its new source. Commands stated here to complete, by an equation exec (c) s
= .next t under conditions on state and operands alone: .deferredCrossfadeStart, .crossfadeEnd. -/
def Obligations.CrossfadesBeginAndEnd : Prop :=
  ∀ (s : State) (j : Nat), Ready s →
    (∀ p, s.mix.deferred.contains j = true → (s.juncOf j).pend = some p → s.xlenOf j ≠ 0 →
      (isBusSink j = true → s.busFades < xfMax s.member s.syn.rate) →
      ∃ t, exec (.deferredCrossfadeStart j) s = .next t ∧ t.juncOf j = { s.juncOf j with
          fade := some { old := (s.juncOf j).cur, new := p, len := s.xlenOf j, pos := 0 }, pend := none } ∧
        t.mix.deferred = s.mix.deferred.filter (fun k => k ≠ j) ∧ OtherJunctions j s t ∧ LeavesAllBut [.mix] s t) ∧
    (∀ f, (s.juncOf j).fade = some f → f.len ≤ f.pos + 1 → (s.juncOf j).pend = none →
      ∃ t, exec (.crossfadeEnd j) s = .next t ∧ t.juncOf j = { cur := f.new, fade := none, pend := none } ∧
        OtherJunctions j s t ∧ LeavesAllBut [.mix] s t)

/-- R231, R272, R281, R283, R289: CLEAR and DCLR wait for the boundary; zeroing ends when its samples are done; a
second of running closes the window; pool data reaches its accumulator; local memory is written and read while the
engine does not run, its address moving on with the high half, and refused with a flag while it runs. Commands stated
here to complete, by an equation exec (c) s = .next t under conditions on state and operands alone: .engineWindowEnd,
.engClear, .dclr, .windowZeroEnd, .lmDataWrite, .lmDataRead, .poolDataArrival. -/
def Obligations.EngineControls : Prop :=
  ∀ (s : State) (e : Nat) (q : Req), Ready s → e < numEng s.member →
    (∃ t, exec (.engClear e q) s = .next t ∧ t.engOf e = { s.engOf e with clearReq := true } ∧ OtherEngines e s t ∧
      LeavesAllBut [.eng] s t) ∧
    (∃ t, exec (.dclr e q) s = .next t ∧ t.engOf e = { s.engOf e with dclrReq := true } ∧ OtherEngines e s t ∧
      LeavesAllBut [.eng] s t) ∧
    ((s.engOf e).zeroing = true → (s.engOf e).zLeft = 0 →
      ∃ t, exec (.windowZeroEnd e) s = .next t ∧ t.engOf e = { s.engOf e with zeroing := false } ∧ OtherEngines e s t ∧
        LeavesAllBut [.eng] s t) ∧
    ((s.engOf e).st = .running →
      ∃ t, exec (.engineWindowEnd e) s = .next t ∧ t.engOf e = { s.engOf e with window := false } ∧ OtherEngines e s t ∧
        LeavesAllBut [.eng] s t) ∧
    (∀ f rest, (s.engOf e).flight = f :: rest →
      ∃ t, exec (.poolDataArrival e) s = .next t ∧ t.engOf e = { s.engOf e with
          acc := sset izero (s.engOf e).acc f.dest f.value, flight := rest, cyc := max (s.engOf e).cyc f.due } ∧
        OtherEngines e s t ∧ LeavesAllBut [.eng] s t) ∧
    (∀ d, (s.engOf e).st ≠ .running →
      ∃ t, exec (.lmDataWrite e true ⟨q, .normal, d⟩) s = .next t ∧ t.engOf e = { s.engOf e with
          lmem := sset izero (s.engOf e).lmem (s.rwW (lmAddr e)).toNat
            (signed 48 (fld d 0 16 * 2 ^ 32 + (s.rwW (lmAddr e + 4)).toNat)) } ∧
        t.rwW (lmAddr e) = toWord (((s.rwW (lmAddr e)).toNat + 1) % 16384) ∧ (∀ k, k ≠ lmAddr e → t.rwW k = s.rwW k) ∧
        OtherEngines e s t ∧ LeavesAllBut [.eng, .rw] s t) ∧
    (∀ hi d, (s.engOf e).st = .running →
      ∃ t, exec (.lmDataWrite e hi ⟨q, .normal, d⟩) s = .next t ∧ bitAt (t.rcW (engBase e + 0x00C)) 8 = true ∧
        RcOnly [engBase e + 0x00C] s t ∧ LeavesAllBut [.rc] s t) ∧
    ((s.engOf e).st ≠ .running →
      ∃ t, exec (.lmDataRead e q) s = .next t ∧
        t.reply = .value (toWord (lmBits (sget izero (s.engOf e).lmem (s.rwW (lmAddr e)).toNat) / 2 ^ 32)) 0 ∧
        t.rwW (lmAddr e) = toWord (((s.rwW (lmAddr e)).toNat + 1) % 16384) ∧ (∀ k, k ≠ lmAddr e → t.rwW k = s.rwW k) ∧
        LeavesAllBut [.rw, .reply] s t)

/-! ### Loudspeaker power stage -/

/-- R327, R328, R332, R336: how a channel starts and stops: requests wait for the boundary; diagnostics that pass lead
to the common mode ramp, its end to RUN at the next boundary; a stopping channel's audio and then its common mode ramp
down; a fault retries from diagnostics and is counted; a second of running clears the count. Commands stated here to
complete, by an equation exec (c) s = .next t under conditions on state and operands alone: .pwrWctlArm, .pwrWctlStop,
.retryNow, .diagEnd, .cmRampEnd, .runEntry, .audioRampDownEnd, .cmRampDownEnd, .pwrRetry, .retrySuccess, .pvddRestore,
.idleEntry. -/
def Obligations.PowerChannelSequence : Prop :=
  ∀ (s : State) (c : Nat), Ready s → hasPower s.member = true → c < 2 →
    (∀ q, ∃ t, exec (.pwrWctlArm c q) s = .next t ∧ t.pwrCh c = { s.pwrCh c with reqArm := true } ∧ OtherChannel c s t ∧
      LeavesAllBut [.pwr] s t) ∧
    (∀ q, ∃ t, exec (.pwrWctlStop c q) s = .next t ∧ t.pwrCh c = { s.pwrCh c with reqStop := true } ∧ OtherChannel c s t ∧
      LeavesAllBut [.pwr] s t) ∧
    (∀ q, ∃ t, exec (.retryNow c q) s = .next t ∧ t.pwrCh c = { s.pwrCh c with reqRetry := true } ∧ OtherChannel c s t ∧
      LeavesAllBut [.pwr] s t) ∧
    (∀ r, (s.pwrCh c).st = 1 →
      ∃ t, exec (.diagEnd c 1 r) s = .next t ∧ OtherChannel c s t ∧ LeavesAllBut [.pwr] s t ∧
        t.pwrCh c = { s.pwrCh c with st := 2, cmDone := false, diagRes := 1, diagR := r % 65536 }) ∧
    ((s.pwrCh c).st = 2 →
      ∃ t, exec (.cmRampEnd c) s = .next t ∧ t.pwrCh c = { s.pwrCh c with cmDone := true } ∧ OtherChannel c s t ∧
        LeavesAllBut [.pwr] s t) ∧
    ((s.pwrCh c).st = 2 → (s.pwrCh c).cmDone = true → s.fenced = false →
      ∃ t, exec (.runEntry c) s = .next t ∧ t.pwrCh c = { s.pwrCh c with st := 3, cmDone := false } ∧ OtherChannel c s t ∧
        LeavesAllBut [.mix, .pwr] s t) ∧
    ((s.pwrCh c).st = 4 → (s.pwrCh c).stopCm = false → (s.pwrCh c).rampOut = true →
      ∃ t, exec (.audioRampDownEnd c) s = .next t ∧ t.pwrCh c = { s.pwrCh c with stopCm := true } ∧ OtherChannel c s t ∧
        LeavesAllBut [.pwr] s t) ∧
    ((s.pwrCh c).st = 4 → (s.pwrCh c).stopCm = true →
      ∃ t, exec (.cmRampDownEnd c) s = .next t ∧ t.pwrCh c = { s.pwrCh c with st := 0, stopCm := false } ∧ OtherChannel c s t ∧
        LeavesAllBut [.pwr] s t) ∧
    ((s.pwrCh c).st = 5 → (s.pwrCh c).fault = 1 → (s.pwrCh c).faultAt + s.retrySamples < s.tt.now + s.T →
      s.counter (pwrCtr (2 + c)) + 1 < ctrMax →
      ∃ t, exec (.pwrRetry c) s = .next t ∧ (t.pwrCh c).st = 1 ∧ (t.pwrCh c).fault = 0 ∧ (t.pwrCh c).retrying = true ∧
        (t.pwrCh c).fails = (s.pwrCh c).fails ∧ (t.pwrCh c).est = (s.pwrCh c).est ∧
        t.counter (pwrCtr (2 + c)) = s.counter (pwrCtr (2 + c)) + 1 ∧ OtherChannel c s t ∧ CountOnly [pwrCtr (2 + c)] s t ∧
        LeavesAllBut [.count, .pwr] s t) ∧
    ((s.pwrCh c).st = 3 → (s.pwrCh c).retrying = true →
      ∃ t, exec (.retrySuccess c) s = .next t ∧ t.pwrCh c = { s.pwrCh c with retrying := false, fails := 0 } ∧
        OtherChannel c s t ∧ LeavesAllBut [.pwr] s t) ∧
    (∀ mv, 4500 ≤ mv → mv ≤ 26500 → (s.pwrCh c).st = 5 → (s.pwrCh c).fault = 4 →
      ∃ t, exec (.pvddRestore mv) s = .next t ∧ (t.pwrCh c).st = 1 ∧ (t.pwrCh c).fault = 0 ∧ (t.pwrCh c).est = (s.pwrCh c).est ∧
        t.pwr.pvdd = mv ∧
        t.pmu = { s.pmu with supply := s.pmu.supply ||| 0x020 } ∧ LeavesAllBut [.pmu, .pwr] s t) ∧
    (idleF (s.chCfg c) = true → (s.pwrCh c).st = 3 →
      ∃ t, exec (.idleEntry c) s = .next t ∧ t.pwrCh c = { s.pwrCh c with idle := true } ∧ OtherChannel c s t ∧
        LeavesAllBut [.pwr] s t)

/-- R331 to R334, R336, R342, R343, R345: what takes a channel to Hi-Z in FAULT: over-current counts 16 limited
cycles; the die at 140 °C; PVDD out of range; the loss of the link; a register word that fails parity; each with its
flag and event. A retry whose failures reach MAX ends in hard stop; 16 failed transfers in a row hard-stop the link.
Commands stated here to complete, by an equation exec (c) s = .next t under conditions on state and operands alone:
.pwrOc, .pwrTherm, .pwrPvdd, .linkTransferFail, .powerDieSelfProtect, .regpar. -/
def Obligations.PowerFaults : Prop :=
  ∀ (s : State), Ready s → hasPower s.member = true → s.pwr.pbtl = false →
    (∀ c, c < 2 → (s.pwrCh c).st = 3 → (s.pwrCh c).retrying = false → s.counter (pwrCtr c) + 16 < ctrMax →
      ∃ t, exec (.pwrOc c) s = .next t ∧ t.pwrCh c = faulted s (s.pwrCh c) 1 ∧ bitAt (t.rcW pdFlags) c = true ∧ t.event 76 = true ∧
        t.counter (pwrCtr c) = s.counter (pwrCtr c) + 16 ∧ OtherChannel c s t ∧ RcOnly [pdFlags, evtStat 76] s t ∧
        CountOnly [pwrCtr c] s t ∧ LeavesAllBut [.rc, .count, .mix, .pwr] s t) ∧
    (∀ c, c < 2 → (s.pwrCh c).st = 3 → (s.pwrCh c).retrying = true → retryMax (s.pdW 0x20) ≠ 0 →
      retryMax (s.pdW 0x20) ≤ (s.pwrCh c).fails + 1 →
      ∃ t, exec (.pwrOc c) s = .next t ∧ (t.pwrCh c).st = 7 ∧ t.reg.hstop.getLsbD (4 + c) = true ∧
        bitAt (t.rcW pdFlags) (6 + c) = true ∧ t.event 78 = true ∧ OtherChannel c s t ∧
        LeavesAllBut [.rc, .count, .hstop, .mix, .pwr] s t) ∧
    (∀ c (x : Int), c < 2 → 140 ≤ x → pwrActive (s.pwrCh c).st = true → (s.pwrCh c).retrying = false →
      ∃ t, exec (.pwrTherm c x) s = .next t ∧ t.pwrCh c = { faulted s (s.pwrCh c) 2 with dieTemp := x } ∧
        bitAt (t.rcW pdFlags) (2 + c) = true ∧ t.event 79 = true ∧ OtherChannel c s t ∧ RcOnly [pdFlags, evtStat 79] s t ∧
        LeavesAllBut [.rc, .mix, .pwr] s t) ∧
    (∀ mv, pvddOut mv = true → (∀ c, c < 2 → (s.pwrCh c).retrying = false ∧ (s.pwrCh c).st = 3) →
      ∃ t, exec (.pwrPvdd mv) s = .next t ∧ t.pwr.pvdd = mv ∧ (∀ c, c < 2 → t.pwrCh c = faulted s (s.pwrCh c) 4) ∧
        bitAt (t.rcW pdFlags) 11 = true ∧ t.event 81 = true ∧ t.pmu = { s.pmu with supply := s.pmu.supply &&& ~~~0x020 } ∧
        (s.pmu.supply &&& 0x020 ≠ 0 → bitAt (t.rcW 0x3004) 1 = true ∧ t.event 95 = true) ∧
        RcOnly [pdFlags, evtStat 81, 0x3004, evtStat 95] s t ∧ LeavesAllBut [.rc, .mix, .pwr, .pmu] s t) ∧
    (s.pwr.linkHstop = false → s.pwr.linkFails < 15 → s.counter (pwrCtr 9) + 1 < ctrMax →
      ∃ t, exec .linkTransferFail s = .next t ∧ t.pwr = { s.pwr with linkFails := s.pwr.linkFails + 1, linkWindow := true } ∧
        bitAt (t.rcW 0x80008) 1 = true ∧ t.counter (pwrCtr 9) = s.counter (pwrCtr 9) + 1 ∧ RcOnly [0x80008] s t ∧
        CountOnly [pwrCtr 9] s t ∧ LeavesAllBut [.rc, .count, .pwr] s t) ∧
    (s.pwr.linkHstop = false → s.pwr.linkFails = 15 →
      ∃ t, exec .linkTransferFail s = .next t ∧ t.pwr.linkHstop = true ∧ t.pwr.link = false ∧ t.reg.hstop.getLsbD 6 = true ∧
        t.event 84 = true ∧ (∀ c, c < 2 → (s.pwrCh c).st ≠ 7 → (t.pwrCh c).st = 5 ∧ (t.pwrCh c).fault = 5) ∧
        LeavesAllBut [.rc, .count, .hstop, .mix, .pwr] s t) ∧
    (s.pwr.linkHstop = false → ∃ t, exec .powerDieSelfProtect s = .next t ∧ t.event 84 = true ∧
      (∀ c, c < 2 → (s.pwrCh c).st ≠ 7 → t.pwrCh c = { faulted s (s.pwrCh c) 5 with retrying := false }) ∧
      (∀ c, c < 2 → (s.pwrCh c).st = 7 → t.pwrCh c = s.pwrCh c) ∧ RcOnly [evtStat 84] s t ∧ LeavesAllBut [.rc, .mix, .pwr] s t) ∧
    (∀ o, 0x100 ≤ o → o < 0x180 → pwrActive (s.pwrCh 0).st = true → (s.pwrCh 0).retrying = false →
      ∃ t, exec (.regpar o) s = .next t ∧ t.pwrCh 0 = faulted s (s.pwrCh 0) 6 ∧ t.pwrCh 1 = s.pwrCh 1 ∧
        t.pwr.badWords = s.pwr.badWords.filter (· ≠ o) ++ [o] ∧ bitAt (t.rcW pdFlags) 18 = true ∧ t.event 84 = true ∧
        RcOnly [pdFlags, evtStat 84] s t ∧ LeavesAllBut [.rc, .mix, .pwr] s t)

/-- R334, R337, R339: a supply below PVDD_MIN mutes a channel with BATT set, its flag and event, and one half a volt
above it ends that; a die above FOLD and a supply below KNEE each reduce by no more than the larger of their target
and what was in force, with the flag and the thermal event of a first reduction; an estimate held at a bound is
marked, flagged and raised. Commands stated here to complete, by an equation exec (c) s = .next t under conditions on
state and operands alone: .battMute, .battUnmute, .pwrModel, .thermalFoldback, .batteryLimit. -/
def Obligations.PowerLimits : Prop :=
  ∀ (s : State) (c : Nat), Ready s → hasPower s.member = true → c < 2 →
    (∀ mv, battF (s.chCfg c) = true → (s.pwrCh c).battMute = false → mv < 100 * pvddMin (s.pdW 0x28) →
      ∃ t, exec (.battMute c mv) s = .next t ∧ t.pwrCh c = { s.pwrCh c with battMute := true } ∧ t.pwr.pvdd = mv ∧
        bitAt (t.rcW pdFlags) 10 = true ∧ t.event 80 = true ∧ OtherChannel c s t ∧ RcOnly [pdFlags, evtStat 80] s t ∧
        LeavesAllBut [.rc, .mix, .pwr] s t) ∧
    (∀ mv, (s.pwrCh c).battMute = true → 100 * pvddMin (s.pdW 0x28) + 500 ≤ mv →
      ∃ t, exec (.battUnmute c mv) s = .next t ∧ t.pwrCh c = { s.pwrCh c with battMute := false } ∧ t.pwr.pvdd = mv ∧
        OtherChannel c s t ∧ LeavesAllBut [.mix, .pwr] s t) ∧
    (∀ x : Int, 0 < thermTarget (s.pdW 0x30) (fld (s.pdW (chOff c + 0x44)) 24 8) x
        (Int.ofNat (10 * fld (s.pdW (chOff c + 0x44)) 24 8)) → bitAt (s.rcW pdFlags) 12 = false →
      ∃ t, exec (.thermalFoldback c x) s = .next t ∧ (t.pwrCh c).dieTemp = x ∧ bitAt (t.rcW pdFlags) 12 = true ∧
        t.event 79 = true ∧ OtherChannel c s t ∧ RcOnly [pdFlags, evtStat 79] s t ∧ LeavesAllBut [.rc, .pwr] s t ∧
        (t.pwrCh c).grTherm ≤ max (s.pwrCh c).grTherm
          (thermTarget (s.pdW 0x30) (fld (s.pdW (chOff c + 0x44)) 24 8) x (s.pwrCh c).coilT)) ∧
    (∀ mv, battF (s.chCfg c) = true → 0 < battTarget (s.pdW 0x28) (s.pdW 0x2C) mv →
      ∃ t, exec (.batteryLimit c mv) s = .next t ∧ t.pwr.pvdd = mv ∧ bitAt (t.rcW pdFlags) 9 = true ∧ OtherChannel c s t ∧
        (t.pwrCh c).grBatt ≤ max (s.pwrCh c).grBatt (battTarget (s.pdW 0x28) (s.pdW 0x2C) mv) ∧
        RcOnly [pdFlags] s t ∧ LeavesAllBut [.rc, .pwr] s t) ∧
    (∀ k, k < 4 →
      ∃ t, exec (.pwrModel c k) s = .next t ∧ (t.pwrCh c).atBound.getLsbD k = true ∧
        (∀ j, j ≠ k → (t.pwrCh c).atBound.getLsbD j = (s.pwrCh c).atBound.getLsbD j) ∧ bitAt (t.rcW pdFlags) 15 = true ∧
        t.event 83 = true ∧ OtherChannel c s t ∧ RcOnly [pdFlags, evtStat 83] s t ∧ LeavesAllBut [.rc, .pwr] s t)

/-! ### Paired operation -/

/-- R347, R358, R359, R360, R368, R370: what PAIR_CTL commands: entry and release wait for the boundary, where entry
is refused with its cause or makes the unit STANDBY and fenced; REPORT of a unit without a tablet starts its count
again; REFRESH gathers the holder's records; UNDARK of a dark unit makes it STANDBY or STALE. Commands stated here to
complete, by an equation exec (c) s = .next t under conditions on state and operands alone: .enter, .pairModeEntry,
.release, .report, .refresh, .undark. -/
def Obligations.PairCommands : Prop :=
  ∀ (s : State) (q : Req), Ready s → hasPair s.member = true →
    (∃ t, exec (.enter q) s = .next t ∧ t.pair = { s.pair with reqEnter := true } ∧ LeavesAllBut [.pair] s t) ∧
    (∃ t, exec (.release q) s = .next t ∧ t.pair = { s.pair with reqRelease := true } ∧ LeavesAllBut [.pair] s t) ∧
    (s.shadowed = true →
      ∃ t, exec (.report q) s = .next t ∧ t.pair = { s.pair with renewIn := renewF s.pairCfg } ∧
        LeavesAllBut [.rc, .count, .macA, .macB, .pair] s t) ∧
    (s.holder = true →
      ∃ t, exec (.refresh q) s = .next t ∧ t.pair = { s.pair with refresh := s.refreshRecs } ∧ LeavesAllBut [.pair] s t) ∧
    (s.pair.st = 5 →
      ∃ t, exec (.undark q) s = .next t ∧ t.pair.st = (if s.staleWhy = 0 then 1 else 2) ∧ t.pair.why = s.staleWhy ∧
        (s.staleWhy ≠ 0 → bitAt (t.rcW pairFlags) 0 = true ∧ t.event 86 = true) ∧
        LeavesAllBut [.rc, .count, .macA, .macB, .pair] s t) ∧
    (s.pair.reqEnter = true → s.enterCause ≠ 0 →
      ∃ t, exec .pairModeEntry s = .next t ∧ t.pair = { s.pair with reqEnter := false, refuse := s.enterCause } ∧
        LeavesAllBut [.pair] s t) ∧
    (s.pair.reqEnter = true → s.enterCause = 0 → s.pair.link = true → s.pair.cfgDiff = false → s.pair.refreshOut = false →
      ∃ t, exec .pairModeEntry s = .next t ∧ t.pair.st = 1 ∧ t.pair.driving = false ∧ t.pair.reqEnter = false ∧ t.fenced = true ∧
        t.pair.mpoint = none ∧ t.pair.link = true ∧ LeavesAllBut [.rc, .count, .mix, .macA, .macB, .pwr, .pair] s t)

/-- R349, R361 to R364, R370: a GRANT that names the unit, is newer, lies on a boundary and lasts long enough is
accepted with its event; at the boundary the unit takes over, and one tick later drives; at E - T without renewal it
stops driving, with its flag and event; a RELEASE with DARK makes it dark. Commands stated here to complete, by an
equation exec (c) s = .next t under conditions on state and operands alone: .grant, .grantAdopt, .driveStart,
.selfFence, .releaseRx. -/
def Obligations.TabletsGovernDriving : Prop :=
  ∀ (s : State), Ready s → hasPair s.member = true →
    (∀ (b : List Byte) (grains : Nat), TabletFor s b 2 → natBE (slice b 4 1) = s.pairUnit → s.pair.st = 1 →
      genNewer (natBE (slice b 24 4)) s.pair.gen = true → natBE (slice b 16 8) % s.T = 0 →
      s.tt.now * 65536 + grains + 3 * s.T * 65536 ≤ natBE (slice b 16 8) * 65536 →
      ∃ t, exec (.grant b false grains) s = .next t ∧
        t.pair = { s.pair with gen := natBE (slice b 24 4), lease := natBE (slice b 16 8), grant := true } ∧
        bitAt (t.rcW pairFlags) 1 = true ∧ t.event 87 = true ∧ RcOnly [pairFlags, evtStat 87] s t ∧
        LeavesAllBut [.rc, .pair] s t) ∧
    (s.pair.grant = true → s.pmu.asleep = 0 → s.pair.st = 1 → s.pair.peerStale = false → s.counter (pairCtr 7) + 1 < ctrMax →
      ∃ t, exec .grantAdopt s = .next t ∧ t.pair.st = 3 ∧ t.pair.grant = false ∧ t.pair.adoptAt = s.tt.now ∧
        t.pair.gen = s.pair.gen ∧ t.pair.lease = s.pair.lease ∧ t.pair.renewIn = renewF s.pairCfg ∧
        t.pair.driving = s.pair.driving ∧ t.counter (pairCtr 7) = s.counter (pairCtr 7) + 1 ∧
        LeavesAllBut [.rc, .count, .macA, .macB, .pair] s t) ∧
    (s.pair.st = 3 → s.tt.now ≠ s.pair.adoptAt → s.pair.tookStale = false →
      ∃ t, exec .driveStart s = .next t ∧ t.pair = { s.pair with st := 4, driving := true } ∧ t.fenced = false ∧
        LeavesAllBut [.mix, .pwr, .pair] s t) ∧
    (s.holder = true → s.pair.lease ≤ s.tt.now + s.T →
      ∃ t, exec .selfFence s = .next t ∧ t.pair.st = 1 ∧ t.pair.driving = false ∧ t.pair.gen = s.pair.gen ∧ t.fenced = true ∧
        bitAt (t.rcW pairFlags) 3 = true ∧ t.event 89 = true ∧ LeavesAllBut [.rc, .count, .mix, .macA, .macB, .pwr, .pair] s t) ∧
    (∀ b, TabletFor s b 4 → (natBE (slice b 1 1)).testBit 5 = true → s.pair.st ≠ 5 →
      ∃ t, exec (.releaseRx b false) s = .next t ∧ t.pair.st = 5 ∧ t.pair.grant = false ∧ t.pair.stopDue = s.pair.driving ∧
        bitAt (t.rcW pairFlags) 2 = true ∧ t.event 88 = true ∧ LeavesAllBut [.rc, .count, .macA, .macB, .pair] s t)

/-- R352, R353, R356, R357: a block with a bad CRC is counted and rewound; a good MIRROR block is kept by number; a
STATUS block updates what is known of the peer; a block not acknowledged is repeated and counted; a whole set two
ticks old becomes the mirror point and counts; a lane without lock or without a good block for HBLOSS ticks takes the
link down with its flag and event. Commands stated here to complete, by an equation exec (c) s = .next t under
conditions on state and operands alone: .mirrorBlockRx, .statusBlockRx, .blockRepeat, .mirrorSetApply, .heartbeatLoss,
.pairBlockLockLoss. -/
def Obligations.ImluindLink : Prop :=
  ∀ (s : State), Ready s → hasPair s.member = true →
    (∀ bytes, imlParse bytes = none → s.shadowed = false → s.counter (pairCtr 2) + 1 < ctrMax →
      s.counter (sdgCtr 10 2) + 1 < ctrMax →
      ∃ t, exec (.mirrorBlockRx bytes none 0) s = .next t ∧ t.pair = { s.pair with blockLock := true } ∧
        t.counter (pairCtr 2) = s.counter (pairCtr 2) + 1 ∧ t.counter (sdgCtr 10 2) = s.counter (sdgCtr 10 2) + 1 ∧
        CountOnly [pairCtr 2, sdgCtr 10 2] s t ∧ LeavesAllBut [.count, .pair] s t) ∧
    (∀ bytes k, imlParse bytes = some k → k.typ = 1 → k.block ≤ 11 → s.shadowed = true → s.pair.link = true →
      s.syn.pairPll = true → k.set = s.pair.rxSet → s.pair.rxDone = false →
      ∃ t, exec (.mirrorBlockRx bytes none 0) s = .next t ∧ LeavesAllBut [.pair] s t ∧
        t.pair = { s.pair with quiet := 0, blockLock := true, rx := sset (fun _ => []) s.pair.rx k.block k.pay } ∧
        ∃ b, t.out = s.out ++ [.imluind b] ++ sentMsgs s) ∧
    (∀ bytes k, imlParse bytes = some k → k.typ = 2 → k.pay.length = 32 → natBE (slice k.pay 0 2) = s.pairPid →
      ∃ t, exec (.statusBlockRx bytes none 0) s = .next t ∧ t.pair.peerSt = natBE (slice k.pay 3 1) ∧
        t.pair.peerCrc = toWord (natBE (slice k.pay 16 4)) ∧ t.pair.peerStale = (natBE (slice k.pay 23 1)).testBit 0 ∧
        t.pair.acked = s.pair.acked ||| BitVec.ofNat 12 (natBE (slice k.pay 20 2)) ∧ t.pair.quiet = 0 ∧
        LeavesAllBut [.rc, .count, .macA, .macB, .pair] s t) ∧
    (∀ b, s.holder = true → b < s.pair.blocks.length → s.pair.acked.getLsbD b = false → s.counter (pairCtr 1) + 1 < ctrMax →
      ∃ t, exec (.blockRepeat ⟨b, 0⟩) s = .next t ∧ t.out = s.out ++ [.imluind (s.mirrorOctets b true false)] ++ sentMsgs s ∧
        t.counter (pairCtr 1) = s.counter (pairCtr 1) + 1 ∧ CountOnly [pairCtr 1] s t ∧ LeavesAllBut [.count] s t) ∧
    (∀ x y, s.shadowed = true → s.pair.rxDone = false → s.pair.rx = [(0, x), (1, y)] → s.pair.rxSet + 2 * s.T ≤ s.tt.now →
      ∃ t, exec .mirrorSetApply s = .next t ∧ t.pair.rxDone = true ∧ t.pair.mpoint = some s.pair.rxSet ∧
        t.pair.lapsed = false ∧ t.pair.refreshOut = false ∧ (∀ a, t.stagedW a = s.stagedW a) ∧ (∀ a, t.appliedW a = s.appliedW a) ∧
        LeavesAllBut [.rc, .count, .mix, .macA, .macB, .stx, .srx, .dpc, .pwr, .pair] s t) ∧
    (s.pair.link = true → hblossF s.pairCfg ≤ s.pair.quiet →
      ∃ t, exec .heartbeatLoss s = .next t ∧ t.pair.link = false ∧ bitAt (t.rcW pairFlags) 4 = true ∧ t.event 90 = true ∧
        LeavesAllBut [.rc, .count, .macA, .macB, .pair] s t) ∧
    (s.pair.link = true →
      ∃ t, exec .pairBlockLockLoss s = .next t ∧ t.pair.link = false ∧ t.pair.blockLock = false ∧ bitAt (t.rcW pairFlags) 4 = true ∧
        t.event 90 = true ∧ LeavesAllBut [.rc, .count, .macA, .macB, .pair] s t)
end

