-- ==== Sys2Proof/Laws/Store.lean ====
section
/-! SUPPORT. Laws of the sparse stores: a read after a write, a write leaves every other key alone, and the canonical form
that every store operation keeps. -/

namespace Sys2Proof.Machine

variable {α : Type} [DecidableEq α] {d : Nat → α}

/-- A key below every key of a store in canonical form reads as its default. -/
theorem swf_tail {a : Nat} {v : α} {t : SMap α} (h : swf d ((a, v) :: t) = true) : swf d t = true := by
  cases t with
  | nil => rfl
  | cons p t => simp only [swf, Bool.and_eq_true] at h; exact h.2

theorem swf_head {a : Nat} {v : α} {t : SMap α} (h : swf d ((a, v) :: t) = true) : v ≠ d a := by
  cases t with
  | nil => simpa [swf] using h
  | cons p t => simp only [swf, Bool.and_eq_true, decide_eq_true_eq] at h; exact h.1.1

/-- The keys after the first are above it. -/
theorem swf_lt {a : Nat} {v : α} {t : SMap α} (h : swf d ((a, v) :: t) = true) : ∀ p ∈ t, a < p.1 := by
  induction t generalizing a v with
  | nil => simp
  | cons q t ih =>
    simp only [swf, Bool.and_eq_true, decide_eq_true_eq] at h
    intro p hp
    rcases List.mem_cons.mp hp with rfl | hp
    · exact h.1.2
    · exact lt_trans h.1.2 (ih h.2 p hp)

theorem swf_cons {a : Nat} {v : α} {t : SMap α} (hv : v ≠ d a) (hl : ∀ p ∈ t, a < p.1) (ht : swf d t = true) :
    swf d ((a, v) :: t) = true := by
  cases t with
  | nil => simpa [swf] using hv
  | cons q t =>
    simp only [swf, Bool.and_eq_true, decide_eq_true_eq]
    exact ⟨⟨hv, hl q (by simp)⟩, ht⟩

omit [DecidableEq α] in
theorem sget_below {m : SMap α} {k : Nat} (h : ∀ p ∈ m, k < p.1) : sget d m k = d k := by
  induction m with
  | nil => rfl
  | cons p t ih =>
    have := h p (by simp)
    simp only [sget, if_neg (show ¬ p.1 = k by omega)]
    exact ih fun q hq => h q (by simp [hq])

/-- Every key of the store written to is a key of the store, or the key written. -/
theorem sset_keys {m : SMap α} {k : Nat} {v : α} : ∀ p ∈ sset d m k v, p ∈ m ∨ p = (k, v) := by
  induction m with
  | nil => intro p hp; unfold sset at hp; split at hp <;> simp_all
  | cons q t ih =>
    intro p hp
    obtain ⟨a, w⟩ := q
    simp only [sset] at hp
    split at hp
    · split at hp <;> simp_all; tauto
    · split at hp
      · split at hp <;> simp_all; tauto
      · rcases List.mem_cons.mp hp with rfl | hp
        · simp
        · rcases ih p hp with h | h <;> simp [h]

/-- A write keeps the canonical form. -/
theorem swf_sset {m : SMap α} (h : swf d m = true) (k : Nat) (v : α) : swf d (sset d m k v) = true := by
  induction m with
  | nil => unfold sset; split <;> simp_all [swf]
  | cons q t ih =>
    obtain ⟨a, w⟩ := q
    have hl := swf_lt h
    have ht := swf_tail h
    have hv := swf_head h
    simp only [sset]
    split
    · rename_i hk
      split
      · exact h
      · rename_i hd
        exact swf_cons hd (by intro p hp; rcases List.mem_cons.mp hp with rfl | hp
                              · exact hk
                              · exact lt_trans hk (hl p hp)) h
    · split
      · rename_i hk
        split
        · exact ht
        · rename_i hd
          exact swf_cons hd (by subst hk; exact hl) ht
      · refine swf_cons hv (fun p hp => ?_) (ih ht)
        rcases sset_keys p hp with h' | rfl
        · exact hl p h'
        · simp only; omega

/-- A read after a write to the same key gives the value written. -/
theorem sget_sset_same {m : SMap α} (h : swf d m = true) (k : Nat) (v : α) : sget d (sset d m k v) k = v := by
  induction m with
  | nil => unfold sset; split <;> simp_all [sget]
  | cons q t ih =>
    obtain ⟨a, w⟩ := q
    have hl := swf_lt h
    simp only [sset]
    split
    · rename_i hk
      split
      · rename_i hd
        rw [sget_below (by intro p hp; rcases List.mem_cons.mp hp with rfl | hp
                           · exact hk
                           · exact lt_trans hk (hl p hp)), hd]
      · simp [sget]
    · split
      · rename_i hk
        split
        · rename_i hd
          subst hk; rw [sget_below hl, hd]
        · simp [sget]
      · rename_i h1 h2
        simp only [sget, if_neg (show ¬ a = k by omega)]
        exact ih (swf_tail h)

/-- A write leaves every other key as it was. -/
theorem sget_sset_other (m : SMap α) {k j : Nat} (v : α) (hj : j ≠ k) : sget d (sset d m k v) j = sget d m j := by
  induction m with
  | nil => unfold sset; split <;> simp [sget, Ne.symm hj]
  | cons q t ih =>
    obtain ⟨a, w⟩ := q
    simp only [sset]
    split
    · split <;> simp [sget, Ne.symm hj]
    · split
      · rename_i hk
        have ha : ¬ a = j := by omega
        have hk' : ¬ k = j := fun h => hj h.symm
        split <;> simp [sget, ha, hk']
      · simp only [sget]; split
        · rfl
        · exact ih

/-- A sublist of a store in canonical form is in canonical form. -/
theorem swf_filter {m : SMap α} (h : swf d m = true) (p : Nat × α → Bool) : swf d (m.filter p) = true := by
  induction m with
  | nil => rfl
  | cons q t ih =>
    simp only [List.filter_cons]
    split
    · exact swf_cons (swf_head (a := q.1) (v := q.2) h)
        (fun x hx => swf_lt (a := q.1) (v := q.2) h x (List.mem_filter.mp hx).1) (ih (swf_tail (a := q.1) (v := q.2) h))
    · exact ih (swf_tail (a := q.1) (v := q.2) h)

theorem swf_foldl_sset {β : Type} {m : SMap α} (h : swf d m = true) (l : List β) (k : β → Nat) (v : β → α) :
    swf d (l.foldl (fun a x => sset d a (k x) (v x)) m) = true := by
  induction l generalizing m with
  | nil => exact h
  | cons x l ih => exact ih (swf_sset h _ _)

/-- Merging keeps the canonical form. -/
theorem swf_smerge {m : SMap α} (h : swf d m = true) (n : SMap α) : swf d (smerge d m n) = true := by
  unfold smerge
  exact swf_foldl_sset h n (fun p => p.1) (fun p => p.2)

theorem swf_replaceWhere {m : SMap Word} (h : swf resetWord m = true) (p : Nat → Bool) (n : SMap Word) :
    swf resetWord (replaceWhere p m n) = true :=
  swf_smerge (swf_filter h _) _

end Sys2Proof.Machine
end

