-- ==== Sys2Proof/Laws/Follows.lean ====
section
/-! SUPPORT. What every operation of the part does to the state as a whole: it keeps the member, the waiting commands and
the canonical form of its stores, it only adds to what the part has put out and to the free values drawn, and it leaves the
parts of the state outside its footprint alone. -/

namespace Sys2Proof.Machine

/-! ### Footprints: lists of parts in the order of Part -/

/-- Whether a list of parts holds every part of another in the same order. -/
def subParts : List Part → List Part → Bool
  | [], _ => true
  | _ :: _, [] => false
  | a :: as, b :: bs => if a = b then subParts as bs else subParts (a :: as) bs

theorem subParts_spec {l m : List Part} (h : subParts l m = true) : l ⊆ m := by
  induction m generalizing l with
  | nil => cases l with
    | nil => exact fun _ k => k
    | cons a as => simp [subParts] at h
  | cons b bs ih => cases l with
    | nil => exact fun _ k => nomatch k
    | cons a as =>
      unfold subParts at h
      split at h
      · rename_i e
        subst e
        exact List.cons_subset_cons _ (ih h)
      · exact List.subset_cons_of_subset _ (ih h)

/-- A footprint inside a wider one. -/
theorem within {k l m : List Part} (hl : l ⊆ m) (h : subParts k l = true) : k ⊆ m := fun _ hx => hl (subParts_spec h hx)

theorem Part.mem_all (p : Part) : p ∈ Part.all := by cases p <;> decide

theorem LeavesAllBut.widen {l m : List Part} {s t : State} (h : LeavesAllBut l s t) (hm : l ⊆ m) : LeavesAllBut m s t :=
  fun p hp => h p fun hq => hp (hm hq)

theorem Part.same_trans {p : Part} {r s t : State} (h : p.same r s) (k : p.same s t) : p.same r t := by
  cases p <;> exact Eq.trans k h

theorem Part.same_refl (p : Part) (s : State) : p.same s s := by
  cases p <;> rfl

namespace Follows

variable {l m : List Part} {r s t u : State}

@[refl] theorem refl (s : State) : Follows l s s :=
  ⟨rfl, rfl, List.prefix_rfl, le_rfl, id, fun p _ => p.same_refl s⟩

theorem trans (h : Follows l r s) (k : Follows l s t) : Follows l r t :=
  ⟨k.member.trans h.member, k.pending.trans h.pending, h.out.trans k.out, h.free.trans k.free,
    fun w => k.stores (h.stores w), fun p hp => Part.same_trans (h.others p hp) (k.others p hp)⟩

theorem widen (h : Follows l s t) (hm : l ⊆ m) : Follows m s t :=
  ⟨h.member, h.pending, h.out, h.free, h.stores, h.others.widen hm⟩

/-- An update that keeps the stores well formed. -/
theorem updStores (h : Follows l r s) (hm : t.member = s.member) (hp : t.pending = s.pending) (ho : t.out = s.out)
    (hf : t.free = s.free) (hs : StoresOk s → StoresOk t) (hk : LeavesAllBut l s t) : Follows l r t :=
  h.trans ⟨hm, hp, ho ▸ List.prefix_rfl, hf ▸ le_rfl, hs, hk⟩

theorem ite {c : Prop} [Decidable c] (hs : Follows l r s) (ht : Follows l r t) : Follows l r (if c then s else t) := by
  split <;> assumption

theorem ite_fst {γ : Type} {c : Prop} [Decidable c] {a b : State × γ} (ha : Follows l r a.1) (hb : Follows l r b.1) :
    Follows l r (if c then a else b).1 := by
  split <;> assumption

theorem ite_snd {γ : Type} {c : Prop} [Decidable c] {a b : γ × State} (ha : Follows l r a.2) (hb : Follows l r b.2) :
    Follows l r (if c then a else b).2 := by
  split <;> assumption

theorem foldl {β : Type} {f : State → β → State} (hf : ∀ t x, Follows l r t → Follows l r (f t x)) (hs : Follows l r s) (xs : List β) :
    Follows l r (xs.foldl f s) := by
  induction xs generalizing s with
  | nil => exact hs
  | cons x xs ih => exact ih (hf _ _ hs)

theorem foldl_fst {β γ : Type} {f : State × γ → β → State × γ} (hf : ∀ a x, Follows l r a.1 → Follows l r (f a x).1)
    {a : State × γ} (hs : Follows l r a.1) (xs : List β) : Follows l r (xs.foldl f a).1 := by
  induction xs generalizing a with
  | nil => exact hs
  | cons x xs ih => exact ih (hf _ _ hs)

theorem fst_of_eq {γ : Type} {p : State × γ} {c : γ} (h : p = (t, c)) (hp : Follows l r p.1) : Follows l r t := by rw [h] at hp; exact hp

theorem snd_of_eq {γ : Type} {p : γ × State} {c : γ} (h : p = (c, t)) (hp : Follows l r p.2) : Follows l r t := by rw [h] at hp; exact hp

/-- An update of fields outside the stores, in the form a record update elaborates to. -/
theorem mkRegs {fp : List Part}
    {due' : List Nat} {pba' : BitVec 32} {tt' : Tt} {tim' : Tim} {mcr' : Mcr} {syn' : Syn} {mix' : Mix} {macA' : Mac} {macB' : Mac}
    {mdio' : List MdioReq} {stx' : Stx} {eng' : SMap Eng} {srx' : Srx} {dpc' : Dpc} {mbox' : SMap Mailbox} {hrx' :
    List HostFrame} {ring' : SMap Ring} {ftxTurn' : SMap Nat} {cmd' : Option CmdWait} {sap' : SMap Sap} {asrc' :
    Asrc} {pwr' : Pwr} {pair' : Pair} {pmu' : Pmu} {mgt' : Mgt} {pci' : Pci} {sst' : Sst} {msixEn' : Bool} {intDis' :
    Bool} {reply' : Reply} {r_held : List (Nat × Word)} {r_snaps : List Snapshot} {r_waiting : List (Nat × Nat)}
    {r_stagedBits : BitVec 16} {r_lock : BitVec 18} {r_subidDone : Bool} {r_roleDone : Bool} {r_berrAddr : Word}
    {r_crc : Crc} {r_hstop : BitVec 24} {r_brst : List Nat}
    (h : Follows l r s) (hl : fp ⊆ l)
    (hu : UnitsOk s →
      swf mboxReset mbox' = true ∧ swf ringReset ring' = true ∧ swf sapReset sap' = true ∧ swf engReset eng' = true
      ∧ swf juncReset mix'.junc = true ∧ swf muteReset mix'.mute = true ∧ swf limReset mix'.lim = true
      ∧ swf asrcReset asrc'.ch = true ∧ swf trkReset asrc'.trk = true ∧ swf stxReset stx'.ctx = true
      ∧ swf srxReset srx'.ctx = true ∧ swf groupReset srx'.grp = true ∧ swf dpcReset dpc'.ctx = true
      ∧ swf Config.flashImage mgt'.flash = true)
    (hk : ∀ p, p ∉ fp → p.same s
      (State.mk s.member (Regs.mk s.reg.staged s.reg.applied s.reg.inForce s.reg.rw s.reg.rc s.reg.count s.reg.bankA
      s.reg.bankB r_held r_snaps r_waiting r_stagedBits r_lock r_subidDone r_roleDone r_berrAddr s.reg.pcie s.reg.mgt r_crc
      r_hstop r_brst) due' pba' tt' tim' mcr' syn' mix' macA' macB' mdio' stx' eng' s.pool srx' dpc' mbox' hrx' ring'
      ftxTurn' cmd' sap' asrc' pwr' pair' pmu' mgt' pci' sst' msixEn' intDis' reply' s.free s.out s.pending) ) :
    Follows l r
      (State.mk s.member (Regs.mk s.reg.staged s.reg.applied s.reg.inForce s.reg.rw s.reg.rc s.reg.count s.reg.bankA
      s.reg.bankB r_held r_snaps r_waiting r_stagedBits r_lock r_subidDone r_roleDone r_berrAddr s.reg.pcie s.reg.mgt r_crc
      r_hstop r_brst) due' pba' tt' tim' mcr' syn' mix' macA' macB' mdio' stx' eng' s.pool srx' dpc' mbox' hrx' ring'
      ftxTurn' cmd' sap' asrc' pwr' pair' pmu' mgt' pci' sst' msixEn' intDis' reply' s.free s.out s.pending) :=
  h.updStores rfl rfl rfl rfl (fun k => ⟨k.1, k.2.1, hu k.2.2⟩) (LeavesAllBut.widen hk hl)

/-- An update of the register stores, in the same form. -/
theorem mkStores {fp : List Part}
    {due' : List Nat} {pba' : BitVec 32} {tt' : Tt} {tim' : Tim} {mcr' : Mcr} {syn' : Syn} {mix' : Mix} {macA' : Mac} {macB' : Mac}
    {mdio' : List MdioReq} {stx' : Stx} {eng' : SMap Eng} {srx' : Srx} {dpc' : Dpc} {mbox' : SMap Mailbox} {hrx' :
    List HostFrame} {ring' : SMap Ring} {ftxTurn' : SMap Nat} {cmd' : Option CmdWait} {sap' : SMap Sap} {asrc' :
    Asrc} {pwr' : Pwr} {pair' : Pair} {pmu' : Pmu} {mgt' : Mgt} {pci' : Pci} {sst' : Sst} {msixEn' : Bool} {intDis' :
    Bool} {reply' : Reply}
    (h : Follows l r s) (hl : fp ⊆ l) {reg' : Regs} (w : RegsOk s.reg → RegsOk reg')
    (hu : UnitsOk s →
      swf mboxReset mbox' = true ∧ swf ringReset ring' = true ∧ swf sapReset sap' = true ∧ swf engReset eng' = true
      ∧ swf juncReset mix'.junc = true ∧ swf muteReset mix'.mute = true ∧ swf limReset mix'.lim = true
      ∧ swf asrcReset asrc'.ch = true ∧ swf trkReset asrc'.trk = true ∧ swf stxReset stx'.ctx = true
      ∧ swf srxReset srx'.ctx = true ∧ swf groupReset srx'.grp = true ∧ swf dpcReset dpc'.ctx = true
      ∧ swf Config.flashImage mgt'.flash = true)
    (hk : ∀ p, p ∉ fp → p.same s
      (State.mk s.member reg' due' pba' tt' tim' mcr' syn' mix' macA' macB' mdio' stx' eng' s.pool srx' dpc' mbox' hrx'
      ring' ftxTurn' cmd' sap' asrc' pwr' pair' pmu' mgt' pci' sst' msixEn' intDis' reply' s.free s.out s.pending) ) :
    Follows l r
      (State.mk s.member reg' due' pba' tt' tim' mcr' syn' mix' macA' macB' mdio' stx' eng' s.pool srx' dpc' mbox' hrx'
      ring' ftxTurn' cmd' sap' asrc' pwr' pair' pmu' mgt' pci' sst' msixEn' intDis' reply' s.free s.out s.pending) :=
  h.updStores rfl rfl rfl rfl (fun k => ⟨w k.1, k.2.1, hu k.2.2⟩) (LeavesAllBut.widen hk hl)

/-- The delay pool takes a store in canonical form, beside what the sample store records of it. -/
theorem mkPool {pool' : SMap Int} {sst' : Sst} (h : Follows l r s) (hl : [.pool, .sst] ⊆ l)
    (k : swf izero s.pool = true → swf izero pool' = true) : Follows l r
      (State.mk s.member s.reg s.due s.pba s.tt s.tim s.mcr s.syn s.mix s.macA s.macB s.mdio s.stx s.eng pool'
      s.srx s.dpc s.mbox s.hrx s.ring s.ftxTurn s.cmd s.sap s.asrc s.pwr s.pair s.pmu s.mgt s.pci sst' s.msixEn
      s.intDis s.reply s.free s.out s.pending) :=
  h.updStores rfl rfl rfl rfl (fun w => ⟨w.1, k w.2.1, w.2.2⟩)
    (LeavesAllBut.widen (fun p hp => by cases p <;> first | rfl | exact absurd (List.elem_iff.mp rfl) hp) hl)

end Follows

end Sys2Proof.Machine
end

