-- ==== Sys2Proof/Laws/FollowsOps.lean ====
section
/-! SUPPORT. What each operation of Machine/Ops.lean does to the state as a whole (Follows). -/

set_option linter.unusedTactic false
set_option linter.unreachableTactic false

namespace Sys2Proof.Machine

theorem State.setStaged_follows {lp : List Part} {r : State} (s : State) (a : Nat) (w : Word) (hl : [.staged] ⊆ lp)
    (h : Follows lp r s) : Follows lp r (State.setStaged s a w) := by
  unfold State.setStaged
  exact Follows.mkStores h hl (fun ⟨h1, h2⟩ => ⟨swf_sset h1 _ _, h2⟩) id (fun p hp => by
    cases p <;> first | with_reducible rfl | exact absurd (List.elem_iff.mp rfl) hp)

theorem State.setApplied_follows {lp : List Part} {r : State} (s : State) (a : Nat) (w : Word) (hl : [.applied] ⊆ lp)
    (h : Follows lp r s) : Follows lp r (State.setApplied s a w) := by
  unfold State.setApplied
  exact Follows.mkStores h hl (fun ⟨h1, h2, h3⟩ => ⟨h1, swf_sset h2 _ _, h3⟩) id (fun p hp => by
    cases p <;> first | with_reducible rfl | exact absurd (List.elem_iff.mp rfl) hp)

theorem State.setInForce_follows {lp : List Part} {r : State} (s : State) (a : Nat) (w : Word) (hl : [.inForce] ⊆ lp)
    (h : Follows lp r s) : Follows lp r (State.setInForce s a w) := by
  unfold State.setInForce
  exact Follows.mkStores h hl (fun ⟨h1, h2, h3, h4⟩ => ⟨h1, h2, swf_sset h3 _ _, h4⟩) id (fun p hp => by
    cases p <;> first | with_reducible rfl | exact absurd (List.elem_iff.mp rfl) hp)

theorem State.setRw_follows {lp : List Part} {r : State} (s : State) (a : Nat) (w : Word) (hl : [.rw] ⊆ lp)
    (h : Follows lp r s) : Follows lp r (State.setRw s a w) := by
  unfold State.setRw
  exact Follows.mkStores h hl (fun ⟨h1, h2, h3, h4, h5⟩ => ⟨h1, h2, h3, swf_sset h4 _ _, h5⟩) id (fun p hp => by
    cases p <;> first | with_reducible rfl | exact absurd (List.elem_iff.mp rfl) hp)

theorem State.setRc_follows {lp : List Part} {r : State} (s : State) (a : Nat) (w : Word) (hl : [.rc] ⊆ lp)
    (h : Follows lp r s) : Follows lp r (State.setRc s a w) := by
  unfold State.setRc
  exact Follows.mkStores h hl (fun ⟨h1, h2, h3, h4, h5, h6⟩ => ⟨h1, h2, h3, h4, swf_sset h5 _ _, h6⟩) id (fun p hp => by
    cases p <;> first | with_reducible rfl | exact absurd (List.elem_iff.mp rfl) hp)

/-- A counter is set to no more than its maximum. -/
theorem State.setCounter_follows {lp : List Part} {r : State} (s : State) (a n : Nat) (hn : n ≤ ctrMax) (hl : [.count] ⊆ lp)
    (h : Follows lp r s) : Follows lp r (State.setCounter s a n) := by
  unfold State.setCounter
  refine Follows.mkStores h hl (fun ⟨h1, h2, h3, h4, h5, h6, h7, h8, h9, h10⟩ =>
    ⟨h1, h2, h3, h4, h5, h6, h7, swf_sset h8 _ _, fun p hp => ?_, h10⟩) id (fun p hp => by
    cases p <;> first | with_reducible rfl | exact absurd (List.elem_iff.mp rfl) hp)
  rcases sset_keys p hp with hp | rfl
  · exact h9 p hp
  · exact hn

theorem State.emit_follows {lp : List Part} {r : State} (s : State) (x : OutItem) (h : Follows lp r s) :
    Follows lp r (State.emit s x) :=
  h.trans ⟨rfl, rfl, List.prefix_append _ _, le_rfl, id, fun p _ => p.same_refl s⟩

theorem State.fresh_follows {lp : List Part} {r : State} (s : State) (h : Follows lp r s) : Follows lp r (State.fresh s).2 :=
  h.trans ⟨rfl, rfl, List.prefix_rfl, Nat.le_succ _, id, fun p _ => p.same_refl s⟩

theorem settle_follows {lp : List Part} {r : State} (s : State) (h : Follows lp r s) : Follows lp r (settle s) :=
  h.trans ⟨rfl, rfl, List.prefix_append _ _, le_rfl, id, fun p _ => p.same_refl s⟩

theorem State.msgDue_follows {lp : List Part} {r : State} (s : State) (v : Nat) (h : Follows lp r s) :
    Follows lp r (State.msgDue s v) := by
  unfold State.msgDue
  split
  · split
    · exact h
    · exact Follows.mkRegs h (List.nil_subset lp) id fun p _ => by cases p <;> rfl
  · exact h

theorem State.raise_follows {lp : List Part} {r : State} (s : State) (n : Nat) (hl : [.rc] ⊆ lp) (h : Follows lp r s) :
    Follows lp r (State.raise s n) := by
  unfold State.raise
  repeat' first
    | with_reducible assumption | with_reducible apply Follows.ite | with_reducible apply State.msgDue_follows
    | with_reducible apply State.setRc_follows

theorem State.countBy_follows {lp : List Part} {r : State} (s : State) (a n : Nat) (hl : [.rc, .count] ⊆ lp)
    (h : Follows lp r s) : Follows lp r (State.countBy s a n) := by
  have hc : [.count] ⊆ lp := within hl rfl
  unfold State.countBy
  split
  · exact h
  · split
    · exact State.setCounter_follows _ _ _ (by omega) hc h
    · exact State.raise_follows _ _ (within hl rfl) (State.setCounter_follows _ _ _ le_rfl hc h)

/-- What a requester holds is replaced; its latched partner words stay in canonical form. -/
theorem State.setRequester_follows {lp : List Part} {r0 : State} (s : State) (r : Req) (q : Requester)
    (hq : swf (fun _ => 0) (s.requester r).shadow = true → swf (fun _ => 0) q.shadow = true) (hl : [.rcu] ⊆ lp)
    (h : Follows lp r0 s) : Follows lp r0 (State.setRequester s r q) := by
  unfold State.setRequester
  cases r
  · refine Follows.mkStores h hl (fun ⟨h1, h2, h3, h4, h5, h6, h7, h8, h9, h10, h11⟩ =>
      ⟨h1, h2, h3, h4, h5, h6, h7, h8, h9, hq h10, h11⟩) id (fun p hp => by
      cases p <;> first | with_reducible rfl | exact absurd (List.elem_iff.mp rfl) hp)
  · refine Follows.mkStores h hl (fun ⟨h1, h2, h3, h4, h5, h6, h7, h8, h9, h10, h11⟩ =>
      ⟨h1, h2, h3, h4, h5, h6, h7, h8, h9, h10, hq h11⟩) id (fun p hp => by
      cases p <;> first | with_reducible rfl | exact absurd (List.elem_iff.mp rfl) hp)

theorem State.flag_follows {lp : List Part} {r : State} (s : State) (a : Nat) (mask : Nat) (hl : [.rc] ⊆ lp) (h :
    Follows lp r s) : Follows lp r (State.flag s a mask) := by
  unfold State.flag
  repeat' first
    | with_reducible assumption | with_reducible apply State.setRc_follows | exact within hl rfl

theorem State.flagRaise_follows {lp : List Part} {r : State} (s : State) (a mask n : Nat) (hl : [.rc] ⊆ lp) (h :
    Follows lp r s) : Follows lp r (State.flagRaise s a mask n) := by
  unfold State.flagRaise
  repeat' first
    | with_reducible assumption | with_reducible apply State.flag_follows
    | with_reducible apply State.raise_follows | exact within hl rfl

theorem State.bump_follows {lp : List Part} {r : State} (s : State) (a : Nat) (hl : [.rc, .count] ⊆ lp) (h :
    Follows lp r s) : Follows lp r (State.bump s a) := by
  unfold State.bump
  repeat' first
    | with_reducible assumption | with_reducible apply State.countBy_follows | exact within hl rfl

theorem State.storeUe_follows {lp : List Part} {r : State} (s : State) (a : Nat) (hl : [.rc, .count, .sst] ⊆ lp) (h
    : Follows lp r s) : Follows lp r (State.storeUe s a) := by
  unfold State.storeUe
  repeat' first
    | with_reducible assumption | with_reducible apply State.bump_follows
    | with_reducible apply State.flagRaise_follows | exact within hl rfl | extract_lets
    | with_reducible refine Follows.mkRegs ?_ hl ?_ ?_ | with_reducible exact id
    | (intro p hp; cases p <;> first | with_reducible rfl | exact absurd (List.elem_iff.mp rfl) hp)

theorem State.storeBad_follows {lp : List Part} {r : State} (s : State) (region unit_ : Nat) (idx : List Nat) (hl :
    [.rc, .count, .sst] ⊆ lp) (h : Follows lp r s) : Follows lp r (State.storeBad s region unit_ idx) := by
  unfold State.storeBad
  repeat' first
    | with_reducible assumption | with_reducible apply State.storeUe_follows | exact within hl rfl
    | (apply Follows.foldl; intro _ _ _) | (apply Follows.foldl_fst; intro _ _ _) | assumption

theorem State.storeCe_follows {lp : List Part} {r : State} (s : State) (n : Nat) (hl : [.rc, .count] ⊆ lp) (h :
    Follows lp r s) : Follows lp r (State.storeCe s n) := by
  unfold State.storeCe
  repeat' first
    | with_reducible assumption | with_reducible apply Follows.ite | with_reducible apply State.countBy_follows
    | with_reducible apply State.flag_follows | exact within hl rfl | split

theorem State.answer_follows {lp : List Part} {r : State} (s : State) (lo hi : Word) (hl : [.reply] ⊆ lp) (h :
    Follows lp r s) : Follows lp r (State.answer s lo hi) := by
  unfold State.answer
  repeat' first
    | with_reducible assumption | with_reducible refine Follows.mkRegs ?_ hl ?_ ?_ | with_reducible exact id
    | (intro p hp; cases p <;> first | with_reducible rfl | exact absurd (List.elem_iff.mp rfl) hp)

theorem State.atBoundary_follows {lp : List Part} {r : State} (s : State) (pos : Nat) (t : State) (h : Follows lp r
    s) (h1 : Follows lp r t) : Follows lp r (State.atBoundary s pos t) := by
  unfold State.atBoundary
  repeat' first
    | with_reducible assumption | with_reducible apply Follows.ite | split | assumption

end Sys2Proof.Machine
end

