-- ==== Sys2Proof/Laws/FollowsMute.lean ====
section
/-! SUPPORT. What each operation of Machine/Mute.lean does to the state as a whole (Follows). -/

set_option linter.unusedTactic false
set_option linter.unreachableTactic false

namespace Sys2Proof.Machine

theorem State.setMute_follows {lp : List Part} {r : State} (s : State) (k : Nat) (m : Mute) (hl : [.mix] ⊆ lp) (h :
    Follows lp r s) : Follows lp r (State.setMute s k m) := by
  unfold State.setMute
  repeat' first
    | with_reducible assumption | with_reducible refine Follows.mkRegs ?_ hl ?_ ?_ | with_reducible exact id
    | (intro p hp; cases p <;> first | with_reducible rfl | exact absurd (List.elem_iff.mp rfl) hp)
    | (refine fun ⟨_, _, _, _, _, _, _, _, _, _, _, _, _, _⟩ => ⟨?_, ?_, ?_, ?_, ?_, ?_, ?_, ?_, ?_, ?_, ?_, ?_, ?_, ?_⟩ <;> first
        | with_reducible assumption | exact swf_sset (by assumption) _ _ | exact swf_filter (by assumption) _ | rfl)

theorem State.muteOn_follows {lp : List Part} {r : State} (s : State) (k : Nat) (c : MuteCause) (len : Nat) (hl :
    [.mix] ⊆ lp) (h : Follows lp r s) : Follows lp r (State.muteOn s k c len) := by
  unfold State.muteOn
  repeat' first
    | with_reducible assumption | with_reducible apply State.setMute_follows | exact within hl rfl

theorem State.muteOff_follows {lp : List Part} {r : State} (s : State) (k : Nat) (c : MuteCause) (len : Nat) (hl :
    [.mix] ⊆ lp) (h : Follows lp r s) : Follows lp r (State.muteOff s k c len) := by
  unfold State.muteOff
  repeat' first
    | with_reducible assumption | with_reducible apply State.setMute_follows | exact within hl rfl

theorem State.muteAll_follows {lp : List Part} {r : State} (s : State) (c : MuteCause) (len : Nat) (hl : [.mix] ⊆
    lp) (h : Follows lp r s) : Follows lp r (State.muteAll s c len) := by
  unfold State.muteAll
  repeat' first
    | with_reducible assumption | with_reducible apply State.muteOn_follows | exact within hl rfl
    | (apply Follows.foldl; intro _ _ _)

theorem State.unmuteAll_follows {lp : List Part} {r : State} (s : State) (c : MuteCause) (len : Nat) (hl : [.mix] ⊆
    lp) (h : Follows lp r s) : Follows lp r (State.unmuteAll s c len) := by
  unfold State.unmuteAll
  repeat' first
    | with_reducible assumption | with_reducible apply State.muteOff_follows | exact within hl rfl
    | (apply Follows.foldl; intro _ _ _)

end Sys2Proof.Machine
end

