-- ==== Sys2Proof/Laws/FollowsBank.lean ====
section
/-! SUPPORT. What each operation of Machine/Bank.lean does to the state as a whole (Follows). -/

set_option linter.unusedTactic false
set_option linter.unreachableTactic false

namespace Sys2Proof.Machine

theorem State.setEng_follows {lp : List Part} {r : State} (s : State) (e : Nat) (v : Eng) (hl : [.eng] ⊆ lp) (h :
    Follows lp r s) : Follows lp r (State.setEng s e v) := by
  unfold State.setEng
  repeat' first
    | with_reducible assumption | with_reducible refine Follows.mkRegs ?_ hl ?_ ?_ | with_reducible exact id
    | (intro p hp; cases p <;> first | with_reducible rfl | exact absurd (List.elem_iff.mp rfl) hp)
    | (refine fun ⟨_, _, _, _, _, _, _, _, _, _, _, _, _, _⟩ => ⟨?_, ?_, ?_, ?_, ?_, ?_, ?_, ?_, ?_, ?_, ?_, ?_, ?_, ?_⟩ <;> first
        | with_reducible assumption | exact swf_sset (by assumption) _ _ | exact swf_filter (by assumption) _ | rfl)

theorem State.modEng_follows {lp : List Part} {r : State} (s : State) (e : Nat) (f : Eng → Eng) (hl : [.eng] ⊆ lp)
    (h : Follows lp r s) : Follows lp r (State.modEng s e f) := by
  unfold State.modEng
  repeat' first
    | with_reducible assumption | with_reducible apply State.setEng_follows | exact within hl rfl

theorem State.setBankCtl_follows {lp : List Part} {r : State} (s : State) (o : Nat) (c : BankCtl) (hl : [.mix,
    .eng] ⊆ lp) (h : Follows lp r s) : Follows lp r (State.setBankCtl s o c) := by
  unfold State.setBankCtl
  repeat' first
    | with_reducible assumption | with_reducible apply Follows.ite | with_reducible apply State.modEng_follows
    | exact within hl rfl | split | with_reducible refine Follows.mkRegs ?_ hl ?_ ?_ | with_reducible exact id
    | (intro p hp; cases p <;> first | with_reducible rfl | exact absurd (List.elem_iff.mp rfl) hp)

theorem State.setBank_follows {lp : List Part} {r : State} (s : State) (b : Bool) (a : Nat) (w : Word) (hl :
    [.bank] ⊆ lp) (h : Follows lp r s) : Follows lp r (State.setBank s b a w) := by
  unfold State.setBank
  repeat' first
    | with_reducible assumption | with_reducible apply Follows.ite | split
    | with_reducible refine Follows.mkRegs ?_ hl ?_ ?_ | with_reducible exact id
    | (intro p hp; cases p <;> first | with_reducible rfl | exact absurd (List.elem_iff.mp rfl) hp)
    | with_reducible refine Follows.mkStores ?_ hl ?_ ?_ ?_
    | with_reducible exact id
    | (intro p hp; cases p <;> first | with_reducible rfl | exact absurd (List.elem_iff.mp rfl) hp)
    | (refine fun ⟨_, _, _, _, _, _, _, _, _, _, _⟩ => ⟨?_, ?_, ?_, ?_, ?_, ?_, ?_, ?_, ?_, ?_, ?_⟩
        <;> (try dsimp only) <;> first
          | with_reducible assumption | exact swf_replaceWhere (by assumption) _ _ | exact swf_sset (by assumption) _ _
          | exact swf_filter (by assumption) _ | assumption
          | exact fun p hp => (by assumption : ∀ p ∈ _, _) p (List.mem_of_mem_filter hp) | skip)

theorem State.bankWrite_follows {lp : List Part} {r : State} (s : State) (a : Nat) (w : Word) (hl : [.bank] ⊆ lp)
    (h : Follows lp r s) : Follows lp r (State.bankWrite s a w) := by
  unfold State.bankWrite
  repeat' first
    | with_reducible assumption | with_reducible apply Follows.ite | with_reducible apply State.setBank_follows
    | exact within hl rfl | (refine Follows.fst_of_eq (by assumption) ?_)
    | (refine Follows.snd_of_eq (by assumption) ?_) | split | with_reducible refine Follows.mkRegs ?_ hl ?_ ?_
    | with_reducible exact id
    | (intro p hp; cases p <;> first | with_reducible rfl | exact absurd (List.elem_iff.mp rfl) hp)

theorem State.enterMode1_follows {lp : List Part} {r0 : State} (s : State) (o r : Nat) (hl : [.bank] ⊆ lp) (h :
    Follows lp r0 s) : Follows lp r0 (State.enterMode1 s o r) := by
  unfold State.enterMode1
  repeat' first
    | with_reducible assumption | with_reducible refine Follows.mkRegs ?_ hl ?_ ?_ | with_reducible exact id
    | (intro p hp; cases p <;> first | with_reducible rfl | exact absurd (List.elem_iff.mp rfl) hp)
    | with_reducible refine Follows.mkStores ?_ hl ?_ ?_ ?_
    | with_reducible exact id
    | (intro p hp; cases p <;> first | with_reducible rfl | exact absurd (List.elem_iff.mp rfl) hp)
    | (refine fun ⟨_, _, _, _, _, _, _, _, _, _, _⟩ => ⟨?_, ?_, ?_, ?_, ?_, ?_, ?_, ?_, ?_, ?_, ?_⟩
        <;> (try dsimp only) <;> first
          | with_reducible assumption | exact swf_replaceWhere (by assumption) _ _ | exact swf_sset (by assumption) _ _
          | exact swf_filter (by assumption) _ | assumption
          | exact fun p hp => (by assumption : ∀ p ∈ _, _) p (List.mem_of_mem_filter hp) | skip)

theorem State.leaveMode1_follows {lp : List Part} {r0 : State} (s : State) (o r : Nat) (hl : [.staged, .applied] ⊆
    lp) (h : Follows lp r0 s) : Follows lp r0 (State.leaveMode1 s o r) := by
  unfold State.leaveMode1
  repeat' first
    | with_reducible assumption | with_reducible apply Follows.ite | split | extract_lets
    | with_reducible refine Follows.mkRegs ?_ hl ?_ ?_ | with_reducible exact id
    | (intro p hp; cases p <;> first | with_reducible rfl | exact absurd (List.elem_iff.mp rfl) hp)
    | with_reducible refine Follows.mkStores ?_ hl ?_ ?_ ?_
    | with_reducible exact id
    | (intro p hp; cases p <;> first | with_reducible rfl | exact absurd (List.elem_iff.mp rfl) hp)
    | (refine fun ⟨_, _, _, _, _, _, _, _, _, _, _⟩ => ⟨?_, ?_, ?_, ?_, ?_, ?_, ?_, ?_, ?_, ?_, ?_⟩
        <;> (try dsimp only) <;> first
          | with_reducible assumption | exact swf_replaceWhere (by assumption) _ _ | exact swf_sset (by assumption) _ _
          | exact swf_filter (by assumption) _ | assumption
          | exact fun p hp => (by assumption : ∀ p ∈ _, _) p (List.mem_of_mem_filter hp) | skip)

theorem State.adoptMode_follows {lp : List Part} {r0 : State} (s : State) (o : Nat) (w : Word) (r : Nat) (hl :
    [.staged, .applied, .bank, .mix, .eng] ⊆ lp) (h : Follows lp r0 s) : Follows lp r0 (State.adoptMode s o w r) :=
    by
  unfold State.adoptMode
  repeat' first
    | with_reducible assumption | with_reducible apply Follows.ite | with_reducible apply State.leaveMode1_follows
    | with_reducible apply State.enterMode1_follows | with_reducible apply State.setBankCtl_follows
    | exact within hl rfl | with_reducible refine Follows.mkRegs ?_ hl ?_ ?_ | with_reducible exact id
    | (intro p hp; cases p <;> first | with_reducible rfl | exact absurd (List.elem_iff.mp rfl) hp)

theorem State.adoptModes_follows {lp : List Part} {r : State} (s : State) (o : Nat) (w : Word) (hl : [.staged,
    .applied, .bank, .mix, .eng] ⊆ lp) (h : Follows lp r s) : Follows lp r (State.adoptModes s o w) := by
  unfold State.adoptModes
  repeat' first
    | with_reducible assumption | with_reducible apply State.adoptMode_follows | exact within hl rfl
    | (apply Follows.foldl; intro _ _ _)

theorem State.copyBanks_follows {lp : List Part} {r : State} (s : State) (o : Nat) (pick : Nat → Bool) (hl :
    [.bank] ⊆ lp) (h : Follows lp r s) : Follows lp r (State.copyBanks s o pick) := by
  unfold State.copyBanks
  repeat' first
    | with_reducible assumption | extract_lets | with_reducible refine Follows.mkRegs ?_ hl ?_ ?_
    | with_reducible exact id
    | (intro p hp; cases p <;> first | with_reducible rfl | exact absurd (List.elem_iff.mp rfl) hp)
    | with_reducible refine Follows.mkStores ?_ hl ?_ ?_ ?_
    | with_reducible exact id
    | (intro p hp; cases p <;> first | with_reducible rfl | exact absurd (List.elem_iff.mp rfl) hp)
    | (refine fun ⟨_, _, _, _, _, _, _, _, _, _, _⟩ => ⟨?_, ?_, ?_, ?_, ?_, ?_, ?_, ?_, ?_, ?_, ?_⟩
        <;> (try dsimp only) <;> first
          | with_reducible assumption | exact swf_replaceWhere (by assumption) _ _ | exact swf_sset (by assumption) _ _
          | exact swf_filter (by assumption) _ | assumption
          | exact fun p hp => (by assumption : ∀ p ∈ _, _) p (List.mem_of_mem_filter hp) | skip)

theorem State.releaseHeld_follows {lp : List Part} {r : State} (s : State) (o : Nat) (hl : [.bank] ⊆ lp) (h :
    Follows lp r s) : Follows lp r (State.releaseHeld s o) := by
  unfold State.releaseHeld
  repeat' first
    | with_reducible assumption | with_reducible apply State.setBank_follows | exact within hl rfl
    | (apply Follows.foldl; intro _ _ _) | (apply Follows.foldl_fst; intro _ _ _) | extract_lets
    | with_reducible refine Follows.mkRegs ?_ hl ?_ ?_ | with_reducible exact id
    | (intro p hp; cases p <;> first | with_reducible rfl | exact absurd (List.elem_iff.mp rfl) hp)

theorem State.setCopying_follows {lp : List Part} {r : State} (s : State) (o : Nat) (b : Bool) (hl : [.mix, .eng] ⊆
    lp) (h : Follows lp r s) : Follows lp r (State.setCopying s o b) := by
  unfold State.setCopying
  repeat' first
    | with_reducible assumption | with_reducible apply State.setBankCtl_follows | exact within hl rfl
    | with_reducible refine Follows.mkRegs ?_ hl ?_ ?_ | with_reducible exact id
    | (intro p hp; cases p <;> first | with_reducible rfl | exact absurd (List.elem_iff.mp rfl) hp)

theorem State.copyEnd_follows {lp : List Part} {r : State} (s : State) (o : Nat) (hl : [.bank, .mix, .eng] ⊆ lp) (h
    : Follows lp r s) : Follows lp r (State.copyEnd s o) := by
  unfold State.copyEnd
  repeat' first
    | with_reducible assumption | with_reducible apply Follows.ite | with_reducible apply State.copyBanks_follows
    | with_reducible apply State.setCopying_follows | with_reducible apply State.releaseHeld_follows
    | exact within hl rfl

theorem State.copyAbort_follows {lp : List Part} {r : State} (s : State) (o : Nat) (hl : [.rc, .bank, .mix, .eng] ⊆
    lp) (h : Follows lp r s) : Follows lp r (State.copyAbort s o) := by
  unfold State.copyAbort
  repeat' first
    | with_reducible assumption | with_reducible apply Follows.ite | with_reducible apply State.fresh_follows
    | with_reducible apply State.copyBanks_follows | with_reducible apply State.setCopying_follows
    | with_reducible apply State.releaseHeld_follows | with_reducible apply State.flag_follows
    | exact within hl rfl

theorem State.swapTo_follows {lp : List Part} {r : State} (s : State) (o : Nat) (sel : BitVec 8) (hl : [.rc, .bank,
    .mix, .eng] ⊆ lp) (h : Follows lp r s) : Follows lp r (State.swapTo s o sel) := by
  unfold State.swapTo
  repeat' first
    | with_reducible assumption | with_reducible apply Follows.ite | with_reducible apply State.setBankCtl_follows
    | with_reducible apply State.copyAbort_follows | exact within hl rfl
    | with_reducible refine Follows.mkRegs ?_ hl ?_ ?_ | with_reducible exact id
    | (intro p hp; cases p <;> first | with_reducible rfl | exact absurd (List.elem_iff.mp rfl) hp)

theorem State.bankDeparture_follows {lp : List Part} {r : State} (s : State) (o arg : Nat) (hl : [.staged,
    .applied, .rc, .bank, .mix, .eng] ⊆ lp) (h : Follows lp r s) : Follows lp r (State.bankDeparture s o arg) := by
  unfold State.bankDeparture
  repeat' first
    | with_reducible assumption | with_reducible apply Follows.ite | with_reducible apply State.swapTo_follows
    | with_reducible apply State.setApplied_follows | with_reducible apply State.setStaged_follows
    | exact within hl rfl

theorem State.slGo_follows {lp : List Part} {r : State} (s : State) (o c : Nat) (hl : [.rc, .mix, .eng] ⊆ lp) (h :
    Follows lp r s) : Follows lp r (State.slGo s o c) := by
  unfold State.slGo
  repeat' first
    | with_reducible assumption | with_reducible apply Follows.ite | with_reducible apply State.flag_follows
    | with_reducible apply State.flagRaise_follows | with_reducible apply State.setBankCtl_follows
    | exact within hl rfl | with_reducible refine Follows.mkRegs ?_ hl ?_ ?_ | with_reducible exact id
    | (intro p hp; cases p <;> first | with_reducible rfl | exact absurd (List.elem_iff.mp rfl) hp)

theorem State.slApply_follows {lp : List Part} {r : State} (s : State) (o : Nat) (hl : [.staged, .applied, .mix,
    .eng] ⊆ lp) (h : Follows lp r s) : Follows lp r (State.slApply s o) := by
  unfold State.slApply
  repeat' first
    | with_reducible assumption | with_reducible apply State.setApplied_follows
    | with_reducible apply State.setStaged_follows | with_reducible apply State.setBankCtl_follows
    | exact within hl rfl | (apply Follows.foldl; intro _ _ _) | (apply Follows.foldl_fst; intro _ _ _)
    | (refine Follows.fst_of_eq (by assumption) ?_) | (refine Follows.snd_of_eq (by assumption) ?_) | split
    | with_reducible refine Follows.mkRegs ?_ hl ?_ ?_ | with_reducible exact id
    | (intro p hp; cases p <;> first | with_reducible rfl | exact absurd (List.elem_iff.mp rfl) hp)

theorem State.copyGo_follows {lp : List Part} {r : State} (s : State) (o : Nat) (hl : [.mix, .eng] ⊆ lp) (h :
    Follows lp r s) : Follows lp r (State.copyGo s o) := by
  unfold State.copyGo
  repeat' first
    | with_reducible assumption | with_reducible apply Follows.ite | with_reducible apply State.setCopying_follows
    | exact within hl rfl

end Sys2Proof.Machine
end

