-- ==== Sys2Proof/Laws/FollowsMix.lean ====
section
/-! SUPPORT. What each operation of Machine/Mix.lean does to the state as a whole (Follows). -/

set_option linter.unusedTactic false
set_option linter.unreachableTactic false

namespace Sys2Proof.Machine

theorem State.setJunc_follows {lp : List Part} {r : State} (s : State) (j : Nat) (v : Junction) (hl : [.mix] ⊆ lp)
    (h : Follows lp r s) : Follows lp r (State.setJunc s j v) := by
  unfold State.setJunc
  repeat' first
    | with_reducible assumption | with_reducible refine Follows.mkRegs ?_ hl ?_ ?_ | with_reducible exact id
    | (intro p hp; cases p <;> first | with_reducible rfl | exact absurd (List.elem_iff.mp rfl) hp)
    | (refine fun ⟨_, _, _, _, _, _, _, _, _, _, _, _, _, _⟩ => ⟨?_, ?_, ?_, ?_, ?_, ?_, ?_, ?_, ?_, ?_, ?_, ?_, ?_, ?_⟩ <;> first
        | with_reducible assumption | exact swf_sset (by assumption) _ _ | exact swf_filter (by assumption) _ | rfl)

theorem State.beginOne_follows {lp : List Part} {r : State} (s : State) (j : Nat) (hl : [.mix] ⊆ lp) (h : Follows
    lp r s) : Follows lp r (State.beginOne s j) := by
  unfold State.beginOne
  repeat' first
    | with_reducible assumption | with_reducible apply Follows.ite | with_reducible apply State.setJunc_follows
    | exact within hl rfl

theorem State.beginDue_follows {lp : List Part} {r : State} (s : State) (hl : [.rc, .count, .mix] ⊆ lp) (h :
    Follows lp r s) : Follows lp r (State.beginDue s) := by
  unfold State.beginDue
  repeat' first
    | with_reducible assumption | with_reducible apply Follows.ite | with_reducible apply State.beginOne_follows
    | with_reducible apply State.countBy_follows | with_reducible apply State.flagRaise_follows
    | exact within hl rfl | (apply Follows.foldl; intro _ _ _) | (apply Follows.foldl_fst; intro _ _ _) | split
    | extract_lets | with_reducible refine Follows.mkRegs ?_ hl ?_ ?_ | with_reducible exact id
    | (intro p hp; cases p <;> first | with_reducible rfl | exact absurd (List.elem_iff.mp rfl) hp)

theorem State.hearAll_follows {lp : List Part} {r : State} (s : State) (bad : List Nat) (hl : [.mix] ⊆ lp) (h :
    Follows lp r s) : Follows lp r (State.hearAll s bad) := by
  unfold State.hearAll
  repeat' first
    | with_reducible assumption | with_reducible apply State.setJunc_follows | exact within hl rfl
    | (apply Follows.foldl; intro _ _ _)

theorem State.fireSet_follows {lp : List Part} {r : State} (s : State) (n : Nat) (hl : [.staged, .applied] ⊆ lp) (h
    : Follows lp r s) : Follows lp r (State.fireSet s n) := by
  unfold State.fireSet
  repeat' first
    | with_reducible assumption | with_reducible apply State.setApplied_follows
    | with_reducible apply State.setStaged_follows | exact within hl rfl | (apply Follows.foldl; intro _ _ _)

theorem State.junctionEval_follows {lp : List Part} {r : State} (s : State) (hl : [.rc, .mix] ⊆ lp) (h : Follows lp
    r s) : Follows lp r (State.junctionEval s) := by
  unfold State.junctionEval
  repeat' first
    | with_reducible assumption | with_reducible apply State.flagRaise_follows | exact within hl rfl
    | (refine Follows.fst_of_eq (by assumption) ?_) | (refine Follows.snd_of_eq (by assumption) ?_) | split
    | with_reducible refine Follows.mkRegs ?_ hl ?_ ?_ | with_reducible exact id
    | (intro p hp; cases p <;> first | with_reducible rfl | exact absurd (List.elem_iff.mp rfl) hp)

theorem State.pathDecide_follows {lp : List Part} {r : State} (s : State) (hl : [.rc, .count, .mix] ⊆ lp) (h :
    Follows lp r s) : Follows lp r (State.pathDecide s) := by
  unfold State.pathDecide
  repeat' first
    | with_reducible assumption | with_reducible apply Follows.ite | with_reducible apply State.countBy_follows
    | with_reducible apply State.flag_follows | with_reducible apply State.flagRaise_follows | exact within hl rfl
    | (refine Follows.fst_of_eq (by assumption) ?_) | (refine Follows.snd_of_eq (by assumption) ?_) | split
    | extract_lets | with_reducible refine Follows.mkRegs ?_ hl ?_ ?_ | with_reducible exact id
    | (intro p hp; cases p <;> first | with_reducible rfl | exact absurd (List.elem_iff.mp rfl) hp)

theorem State.retarget_follows {lp : List Part} {r : State} (s : State) (bad : List Nat) (hl : [.mix] ⊆ lp) (h :
    Follows lp r s) : Follows lp r (State.retarget s bad) := by
  unfold State.retarget
  repeat' first
    | with_reducible assumption | with_reducible apply Follows.ite | (apply Follows.foldl; intro _ _ _)
    | (apply Follows.foldl_fst; intro _ _ _) | split | extract_lets
    | with_reducible refine Follows.mkRegs ?_ hl ?_ ?_ | with_reducible exact id
    | (intro p hp; cases p <;> first | with_reducible rfl | exact absurd (List.elem_iff.mp rfl) hp)

theorem State.mixModes_follows {lp : List Part} {r : State} (s : State) (hl : [.staged, .applied, .rc, .bank, .mix,
    .eng] ⊆ lp) (h : Follows lp r s) : Follows lp r (State.mixModes s) := by
  unfold State.mixModes
  repeat' first
    | with_reducible assumption | with_reducible apply State.adoptModes_follows
    | with_reducible apply State.swapTo_follows | exact within hl rfl

theorem State.mixAdopt_follows {lp : List Part} {r : State} (s : State) (hl : [.staged, .applied, .rc, .count,
    .bank, .mix, .eng] ⊆ lp) (h : Follows lp r s) : Follows lp r (State.mixAdopt s) := by
  unfold State.mixAdopt
  repeat' first
    | with_reducible assumption | with_reducible apply State.mixModes_follows
    | with_reducible apply State.junctionEval_follows | with_reducible apply State.pathDecide_follows
    | exact within hl rfl

theorem State.reformRegions_follows {lp : List Part} {r : State} (s : State) (rate : Nat) (hl : [.staged, .applied,
    .bank, .syn] ⊆ lp) (h : Follows lp r s) : Follows lp r (State.reformRegions s rate) := by
  unfold State.reformRegions
  repeat' first
    | with_reducible assumption | (apply Follows.foldl; intro _ _ _) | (apply Follows.foldl_fst; intro _ _ _)
    | extract_lets | with_reducible refine Follows.mkRegs ?_ hl ?_ ?_ | with_reducible exact id
    | (intro p hp; cases p <;> first | with_reducible rfl | exact absurd (List.elem_iff.mp rfl) hp)
    | with_reducible refine Follows.mkStores ?_ hl ?_ ?_ ?_
    | with_reducible exact id
    | (intro p hp; cases p <;> first | with_reducible rfl | exact absurd (List.elem_iff.mp rfl) hp)
    | (refine fun ⟨_, _, _, _, _, _, _, _, _, _, _⟩ => ⟨?_, ?_, ?_, ?_, ?_, ?_, ?_, ?_, ?_, ?_, ?_⟩
        <;> (try dsimp only) <;> first
          | with_reducible assumption | exact swf_replaceWhere (by assumption) _ _ | exact swf_sset (by assumption) _ _
          | exact swf_filter (by assumption) _ | assumption
          | exact fun p hp => (by assumption : ∀ p ∈ _, _) p (List.mem_of_mem_filter hp) | skip)

theorem State.tickBuffer_follows {lp : List Part} {r : State} (s : State) (hits : List (Nat × Nat)) (old new : SMap
    (List Int)) (hl : [.rc, .count, .sst] ⊆ lp) (h : Follows lp r s) : Follows lp r (State.tickBuffer s hits old
    new).1 := by
  unfold State.tickBuffer
  repeat' first
    | with_reducible assumption | with_reducible apply Follows.ite | with_reducible apply Follows.ite_fst
    | with_reducible apply State.storeBad_follows | exact within hl rfl | (apply Follows.foldl; intro _ _ _)
    | (apply Follows.foldl_fst; intro _ _ _) | split | extract_lets | assumption

theorem State.runJunction_follows {lp : List Part} {r : State} (s : State) (rd : Nat → List Int) (j : Nat) (hl :
    [.mix] ⊆ lp) (h : Follows lp r s) : Follows lp r (State.runJunction s rd j).1 := by
  unfold State.runJunction
  repeat' first
    | with_reducible assumption | with_reducible apply State.setJunc_follows | exact within hl rfl

theorem State.busSat_follows {lp : List Part} {r : State} (s : State) (b n : Nat) (hl : [.rc, .count] ⊆ lp) (h :
    Follows lp r s) : Follows lp r (State.busSat s b n) := by
  unfold State.busSat
  repeat' first
    | with_reducible assumption | with_reducible apply Follows.ite | with_reducible apply State.countBy_follows
    | with_reducible apply State.flag_follows | with_reducible apply State.raise_follows | exact within hl rfl

theorem State.runBus_follows {lp : List Part} {r : State} (s : State) (have_ prev : SMap (List Int)) (b : Nat) (hl
    : [.rc, .count, .mix] ⊆ lp) (h : Follows lp r s) : Follows lp r (State.runBus s have_ prev b).1 := by
  unfold State.runBus
  repeat' first
    | with_reducible assumption | with_reducible apply State.runJunction_follows
    | with_reducible apply State.busSat_follows | exact within hl rfl | (apply Follows.foldl; intro _ _ _)
    | (apply Follows.foldl_fst; intro _ _ _)

theorem State.runBuses_follows {lp : List Part} {r : State} (s : State) (have_ prev : SMap (List Int)) (hl : [.rc,
    .count, .mix] ⊆ lp) (h : Follows lp r s) : Follows lp r (State.runBuses s have_ prev).1 := by
  unfold State.runBuses
  repeat' first
    | with_reducible assumption | with_reducible apply State.runBus_follows | exact within hl rfl
    | (apply Follows.foldl; intro _ _ _) | (apply Follows.foldl_fst; intro _ _ _)

theorem State.advanceXp_follows {lp : List Part} {r : State} (s : State) (hl : [.mix] ⊆ lp) (h : Follows lp r s) :
    Follows lp r (State.advanceXp s) := by
  unfold State.advanceXp
  repeat' first
    | with_reducible assumption | (apply Follows.foldl; intro _ _ _) | (apply Follows.foldl_fst; intro _ _ _)
    | extract_lets | with_reducible refine Follows.mkRegs ?_ hl ?_ ?_ | with_reducible exact id
    | (intro p hp; cases p <;> first | with_reducible rfl | exact absurd (List.elem_iff.mp rfl) hp)

theorem State.clipped_follows {lp : List Part} {r : State} (s : State) (n : Nat) (hl : [.rc, .count] ⊆ lp) (h :
    Follows lp r s) : Follows lp r (State.clipped s n) := by
  unfold State.clipped
  repeat' first
    | with_reducible assumption | with_reducible apply Follows.ite | with_reducible apply State.countBy_follows
    | with_reducible apply State.flag_follows | with_reducible apply State.raise_follows | exact within hl rfl

theorem State.deliver_follows {lp : List Part} {r : State} (s : State) (j : Nat) (xs : List Int) (hl : [.mix] ⊆ lp)
    (h : Follows lp r s) : Follows lp r (State.deliver s j xs) := by
  unfold State.deliver
  repeat' first
    | with_reducible assumption | extract_lets | with_reducible refine Follows.mkRegs ?_ hl ?_ ?_
    | with_reducible exact id
    | (intro p hp; cases p <;> first | with_reducible rfl | exact absurd (List.elem_iff.mp rfl) hp)

theorem State.setLim_follows {lp : List Part} {r : State} (s : State) (j g : Nat) (hl : [.mix] ⊆ lp) (h : Follows
    lp r s) : Follows lp r (State.setLim s j g) := by
  unfold State.setLim
  repeat' first
    | with_reducible assumption | with_reducible refine Follows.mkRegs ?_ hl ?_ ?_ | with_reducible exact id
    | (intro p hp; cases p <;> first | with_reducible rfl | exact absurd (List.elem_iff.mp rfl) hp)
    | (refine fun ⟨_, _, _, _, _, _, _, _, _, _, _, _, _, _⟩ => ⟨?_, ?_, ?_, ?_, ?_, ?_, ?_, ?_, ?_, ?_, ?_, ?_, ?_, ?_⟩ <;> first
        | with_reducible assumption | exact swf_sset (by assumption) _ _ | exact swf_filter (by assumption) _ | rfl)

theorem State.runLowSink_follows {lp : List Part} {r : State} (s : State) (rd : Nat → List Int) (j : Nat) (hl :
    [.rc, .count, .mix] ⊆ lp) (h : Follows lp r s) : Follows lp r (State.runLowSink s rd j) := by
  unfold State.runLowSink
  repeat' first
    | with_reducible assumption | with_reducible apply State.runJunction_follows
    | with_reducible apply State.setLim_follows | with_reducible apply State.clipped_follows
    | with_reducible apply State.deliver_follows | exact within hl rfl | extract_lets
    | with_reducible refine Follows.mkRegs ?_ hl ?_ ?_ | with_reducible exact id
    | (intro p hp; cases p <;> first | with_reducible rfl | exact absurd (List.elem_iff.mp rfl) hp)

theorem State.runStdSink_follows {lp : List Part} {r : State} (s : State) (rd : Nat → List Int) (j : Nat) (hl :
    [.rc, .count, .mix] ⊆ lp) (h : Follows lp r s) : Follows lp r (State.runStdSink s rd j) := by
  unfold State.runStdSink
  extract_lets a old w l t std lim
  have ha : Follows lp r a.1 := State.runJunction_follows _ _ _ (within hl rfl) h
  have ht : Follows lp r t :=
    State.deliver_follows _ _ _ (within hl rfl)
      (State.clipped_follows _ _ (within hl rfl) (State.setLim_follows _ _ _ (within hl rfl) ha))
  clear_value t std lim
  exact Follows.mkRegs ht hl id (fun p hp => by
    cases p <;> first | with_reducible rfl | exact absurd (List.elem_iff.mp rfl) hp)

theorem State.runSinks_follows {lp : List Part} {r : State} (s : State) (rd : Nat → List Int) (hl : [.rc, .count,
    .mix] ⊆ lp) (h : Follows lp r s) : Follows lp r (State.runSinks s rd) := by
  unfold State.runSinks
  repeat' first
    | with_reducible assumption | with_reducible apply State.runStdSink_follows
    | with_reducible apply State.runLowSink_follows | exact within hl rfl | (apply Follows.foldl; intro _ _ _)

theorem State.advanceMutes_follows {lp : List Part} {r : State} (s : State) (hl : [.mix] ⊆ lp) (h : Follows lp r s)
    : Follows lp r (State.advanceMutes s) := by
  unfold State.advanceMutes
  repeat' first
    | with_reducible assumption | with_reducible apply State.setMute_follows | exact within hl rfl
    | (apply Follows.foldl; intro _ _ _) | with_reducible refine Follows.mkRegs ?_ hl ?_ ?_
    | with_reducible exact id
    | (intro p hp; cases p <;> first | with_reducible rfl | exact absurd (List.elem_iff.mp rfl) hp)

end Sys2Proof.Machine
end

