-- ==== Sys2Proof/Laws/FollowsEng.lean ====
section
/-! SUPPORT. What each operation of Machine/Eng.lean does to the state as a whole (Follows). -/

set_option linter.unusedTactic false
set_option linter.unreachableTactic false

namespace Sys2Proof.Machine

/-! ### The pool through a program -/

/-- The delay pool of a run is in canonical form. -/
def EngRun.PoolOk (r : EngRun) : Prop := swf izero r.pool = true

theorem EngRun.guarded_poolOk {r f : EngRun} (v : EngEnv) (ks ls : List Nat) (h : r.PoolOk) (k : f.PoolOk) :
    (r.guarded v ks ls f).PoolOk := by
  unfold EngRun.guarded
  repeat' first | assumption | split

theorem EngRun.post_poolOk {r : EngRun} (v : EngEnv) (pi : Bool) (l : List Nat) (h : r.PoolOk) : (r.post v pi l).PoolOk := by
  unfold EngRun.post
  split <;> exact h

theorem EngRun.poolSet_poolOk {r : EngRun} (v : EngEnv) (a : Nat) (w : Int) (h : r.PoolOk) : (r.poolSet v a w).PoolOk := by
  unfold EngRun.poolSet
  dsimp only
  split
  · exact h
  · exact swf_sset (by exact h) _ _

theorem EngRun.inst_poolOk {r : EngRun} (v : EngEnv) (i : EInst) (h : r.PoolOk) : (r.inst v i).PoolOk := by
  cases i <;> unfold EngRun.inst <;> dsimp only
  case dwr s a =>
    exact EngRun.poolSet_poolOk v _ _ h
  all_goals first
    | exact h
    | exact EngRun.guarded_poolOk _ _ _ h (EngRun.post_poolOk _ _ _ h)
    | exact EngRun.guarded_poolOk _ _ _ h h
    | exact EngRun.post_poolOk _ _ _ h

theorem EngRun.one_poolOk (v : EngEnv) {r : EngRun} (ai : Nat × EInst) (h : r.PoolOk) : (EngRun.one v r ai).PoolOk := by
  unfold EngRun.one
  split
  · exact h
  · split
    · exact h
    · exact EngRun.inst_poolOk (r := r.deliver) v ai.2 h

theorem EngRun.foldl_poolOk (v : EngEnv) (l : List (Nat × EInst)) {r : EngRun} (h : r.PoolOk) :
    (l.foldl (EngRun.one v) r).PoolOk := by
  induction l generalizing r with
  | nil => exact h
  | cons x l ih => exact ih (EngRun.one_poolOk v x h)

theorem EngRun.loop_poolOk (v : EngEnv) (body : List (Nat × EInst)) (n : Nat) {r : EngRun} (h : r.PoolOk) :
    (EngRun.loop v body n r).PoolOk := by
  induction n generalizing r with
  | zero => exact h
  | succ n ih => exact ih (EngRun.foldl_poolOk v body h)

theorem runFrom_poolOk (v : EngEnv) (f : Nat) (l : List (Nat × EInst)) (r : EngRun) (h : r.PoolOk) :
    (runFrom v f l r).PoolOk := by
  fun_induction runFrom v f l r with
  | case1 => exact h
  | case2 => exact h
  | case3 r f a count len t ih => exact ih (EngRun.loop_poolOk _ _ _ (EngRun.one_poolOk _ _ h))
  | case4 r f i t hi ih => exact ih (EngRun.one_poolOk _ _ h)

theorem runSample_poolOk (v : EngEnv) (prog : List (Nat × EInst)) (x : SMap Int) (init : Nat → Nat) {r : EngRun}
    (h : r.PoolOk) : (runSample v prog x init r).PoolOk := by
  have hd : ∀ q : EngRun, q.PoolOk → (if q.par.isSome then q else q.drain).PoolOk := by
    intro q hq
    split <;> exact hq
  unfold runSample
  exact hd _ (runFrom_poolOk v _ _ { r with e := _ } h)

theorem State.enterHstop_follows {lp : List Part} {r : State} (s : State) (bit : Nat) (hl : [.rc, .hstop] ⊆ lp) (h
    : Follows lp r s) : Follows lp r (State.enterHstop s bit) := by
  unfold State.enterHstop
  repeat' first
    | with_reducible assumption | with_reducible apply Follows.ite | with_reducible apply State.raise_follows
    | exact within hl rfl | split | with_reducible refine Follows.mkRegs ?_ hl ?_ ?_ | with_reducible exact id
    | (intro p hp; cases p <;> first | with_reducible rfl | exact absurd (List.elem_iff.mp rfl) hp)

theorem State.clearHstop_follows {lp : List Part} {r : State} (s : State) (bit : Nat) (hl : [.hstop] ⊆ lp) (h :
    Follows lp r s) : Follows lp r (State.clearHstop s bit) := by
  unfold State.clearHstop
  repeat' first
    | with_reducible assumption | with_reducible refine Follows.mkRegs ?_ hl ?_ ?_ | with_reducible exact id
    | (intro p hp; cases p <;> first | with_reducible rfl | exact absurd (List.elem_iff.mp rfl) hp)

theorem State.engCheckOne_follows {lp : List Part} {r : State} (s : State) (back : List Nat) (e : Nat) (hl : [.rc,
    .eng] ⊆ lp) (h : Follows lp r s) : Follows lp r (State.engCheckOne s back e) := by
  unfold State.engCheckOne
  repeat' first
    | with_reducible assumption | with_reducible apply Follows.ite | with_reducible apply State.setEng_follows
    | with_reducible apply State.flag_follows | with_reducible apply State.raise_follows | exact within hl rfl

theorem State.engCheckAll_follows {lp : List Part} {r : State} (s : State) (back : List Nat) (hl : [.rc, .eng] ⊆
    lp) (h : Follows lp r s) : Follows lp r (State.engCheckAll s back) := by
  unfold State.engCheckAll
  repeat' first
    | with_reducible assumption | with_reducible apply State.engCheckOne_follows | exact within hl rfl
    | (apply Follows.foldl; intro _ _ _)

theorem State.zeroWindow_follows {lp : List Part} {r : State} (s : State) (e : Nat) (hl : [.eng, .pool, .sst] ⊆ lp)
    (h : Follows lp r s) : Follows lp r (State.zeroWindow s e) := by
  unfold State.zeroWindow
  extract_lets w inside t
  refine State.modEng_follows _ _ _ (within hl rfl) ?_
  exact Follows.mkPool h (within hl rfl) fun k => swf_filter k _

theorem State.engAdopt_follows {lp : List Part} {r : State} (s : State) (e : Nat) (hl : [.staged, .applied, .rc,
    .bank, .mix, .eng, .pool, .sst] ⊆ lp) (h : Follows lp r s) : Follows lp r (State.engAdopt s e) := by
  unfold State.engAdopt
  repeat' first
    | with_reducible assumption | with_reducible apply Follows.ite | with_reducible apply State.adoptModes_follows
    | with_reducible apply State.swapTo_follows | with_reducible apply State.modEng_follows
    | with_reducible apply State.zeroWindow_follows | exact within hl rfl

theorem State.engRequests_follows {lp : List Part} {r : State} (s : State) (e : Nat) (hl : [.eng, .pool, .sst] ⊆
    lp) (h : Follows lp r s) : Follows lp r (State.engRequests s e) := by
  unfold State.engRequests
  extract_lets v t
  have ht : Follows lp r t := by
    show Follows lp r (if _ then _ else _)
    exact Follows.ite (State.setEng_follows _ _ _ (within hl rfl) h) h
  exact Follows.ite (State.zeroWindow_follows _ _ (within hl rfl) (State.modEng_follows _ _ _ (within hl rfl) ht)) ht

theorem State.zeroEnd_follows {lp : List Part} {r : State} (s : State) (e : Nat) (hl : [.eng] ⊆ lp) (h : Follows lp
    r s) : Follows lp r (State.zeroEnd s e) := by
  unfold State.zeroEnd
  repeat' first
    | with_reducible assumption | with_reducible apply Follows.ite | with_reducible apply State.modEng_follows
    | exact within hl rfl

theorem State.engFault_follows {lp : List Part} {r : State} (s : State) (e mem a : Nat) (hl : [.rc, .count, .hstop,
    .eng] ⊆ lp) (h : Follows lp r s) : Follows lp r (State.engFault s e mem a) := by
  unfold State.engFault
  repeat' first
    | with_reducible assumption | with_reducible apply Follows.ite | with_reducible apply State.setEng_follows
    | with_reducible apply State.bump_follows | with_reducible apply State.flagRaise_follows
    | with_reducible apply State.enterHstop_follows | exact within hl rfl

theorem State.engCount_follows {lp : List Part} {r : State} (s : State) (e acc out poison : Nat) (hl : [.rc,
    .count] ⊆ lp) (h : Follows lp r s) : Follows lp r (State.engCount s e acc out poison) := by
  unfold State.engCount
  repeat' first
    | with_reducible assumption | with_reducible apply State.countBy_follows
    | with_reducible apply State.flag_follows | exact within hl rfl

theorem State.engSample_follows {lp : List Part} {r : State} (s : State) (e : Nat) (v : EngEnv) (prog : List (Nat ×
    EInst)) (xs : SMap Int) (poison : List Nat) (hl : [.rc, .count, .hstop, .eng, .pool, .sst] ⊆ lp) (h : Follows
    lp r s) : Follows lp r (State.engSample s e v prog xs poison).1 := by
  unfold State.engSample
  extract_lets g lx run src t ys sats u
  have ht : Follows lp r t := by
    refine State.storeBad_follows _ _ _ _ (within hl rfl) (State.setEng_follows _ _ _ (within hl rfl)
      (Follows.mkPool h (within hl rfl) fun k => ?_))
    exact runSample_poolOk _ _ _ _ (r := { e := _, pool := s.pool, bad := _, hits := _, accSat := _, outSat := _, par := _ }) k
  have hu : Follows lp r u := State.engCount_follows _ _ _ _ _ (within hl rfl) ht
  clear_value u
  split
  · exact h
  · split
    · exact hu
    · exact State.engFault_follows _ _ _ _ (within hl rfl) hu

theorem State.engInputs_follows {lp : List Part} {r : State} (s : State) (e : Nat) (have_ prev : SMap (List Int))
    (hl : [.mix] ⊆ lp) (h : Follows lp r s) : Follows lp r (State.engInputs s e have_ prev).1 := by
  unfold State.engInputs
  repeat' first
    | with_reducible assumption | with_reducible apply State.runJunction_follows | exact within hl rfl
    | (apply Follows.foldl; intro _ _ _) | (apply Follows.foldl_fst; intro _ _ _)

theorem State.engBlock_follows {lp : List Part} {r : State} (s : State) (e : Nat) (have_ prev : SMap (List Int))
    (bad : ParityHits) (poison : List (Nat × Nat × Nat)) (hl : [.rc, .count, .hstop, .mix, .eng, .pool, .sst] ⊆ lp)
    (h : Follows lp r s) : Follows lp r (State.engBlock s e have_ prev bad poison).1 := by
  unfold State.engBlock
  repeat' first
    | with_reducible assumption | with_reducible apply State.engInputs_follows
    | with_reducible apply State.engSample_follows | with_reducible apply State.modEng_follows
    | exact within hl rfl | (apply Follows.foldl; intro _ _ _) | (apply Follows.foldl_fst; intro _ _ _)

theorem State.runEngines_follows {lp : List Part} {r : State} (s : State) (have_ prev : SMap (List Int)) (bad :
    ParityHits) (poison : List (Nat × Nat × Nat)) (hl : [.rc, .count, .hstop, .mix, .eng, .pool, .sst] ⊆ lp) (h :
    Follows lp r s) : Follows lp r (State.runEngines s have_ prev bad poison).1 := by
  unfold State.runEngines
  repeat' first
    | with_reducible assumption | with_reducible apply State.engBlock_follows | exact within hl rfl
    | (apply Follows.foldl; intro _ _ _) | (apply Follows.foldl_fst; intro _ _ _)

theorem State.engCtl_follows {lp : List Part} {r : State} (s : State) (e : Nat) (d : Word) (hl : [.rc, .mix, .eng]
    ⊆ lp) (h : Follows lp r s) : Follows lp r (State.engCtl s e d) := by
  unfold State.engCtl
  repeat' first
    | with_reducible assumption | with_reducible apply Follows.ite | with_reducible apply State.modEng_follows
    | with_reducible apply State.slGo_follows | with_reducible apply State.copyGo_follows | exact within hl rfl

theorem State.lmWrite_follows {lp : List Part} {r : State} (s : State) (e : Nat) (hi : Bool) (d : Word) (hl : [.rw,
    .rc, .eng] ⊆ lp) (h : Follows lp r s) : Follows lp r (State.lmWrite s e hi d) := by
  unfold State.lmWrite
  repeat' first
    | with_reducible assumption | with_reducible apply Follows.ite | with_reducible apply State.flag_follows
    | with_reducible apply State.modEng_follows | with_reducible apply State.setRw_follows | exact within hl rfl

theorem State.lmRead_follows {lp : List Part} {r : State} (s : State) (e : Nat) (hi : Bool) (hl : [.rw, .rc] ⊆ lp)
    (h : Follows lp r s) : Follows lp r (State.lmRead s e hi).2 := by
  unfold State.lmRead
  repeat' first
    | with_reducible assumption | with_reducible apply Follows.ite | with_reducible apply Follows.ite_snd
    | with_reducible apply State.flag_follows | with_reducible apply State.setRw_follows | exact within hl rfl

theorem State.poolArrive_follows {lp : List Part} {r : State} (s : State) (e : Nat) (hl : [.eng] ⊆ lp) (h : Follows
    lp r s) : Follows lp r (State.poolArrive s e) := by
  unfold State.poolArrive
  repeat' first
    | with_reducible assumption | with_reducible apply State.modEng_follows | exact within hl rfl
    | (refine Follows.fst_of_eq (by assumption) ?_) | (refine Follows.snd_of_eq (by assumption) ?_) | split

theorem State.engUnitReset_follows {lp : List Part} {r : State} (s : State) (e : Nat) (hl : [.rc, .eng] ⊆ lp) (h :
    Follows lp r s) : Follows lp r (State.engUnitReset s e) := by
  unfold State.engUnitReset
  repeat' first
    | with_reducible assumption | with_reducible apply State.setEng_follows
    | with_reducible apply State.setRc_follows | exact within hl rfl

end Sys2Proof.Machine
end

