-- ==== Sys2Proof/Laws/FollowsSyn.lean ====
section
/-! SUPPORT. What each operation of Machine/Syn.lean does to the state as a whole (Follows). -/

set_option linter.unusedTactic false
set_option linter.unreachableTactic false

namespace Sys2Proof.Machine

theorem State.modSyn_follows {lp : List Part} {r : State} (s : State) (f : Syn → Syn) (hl : [.syn] ⊆ lp) (h :
    Follows lp r s) : Follows lp r (State.modSyn s f) := by
  unfold State.modSyn
  repeat' first
    | with_reducible assumption | with_reducible refine Follows.mkRegs ?_ hl ?_ ?_ | with_reducible exact id
    | (intro p hp; cases p <;> first | with_reducible rfl | exact absurd (List.elem_iff.mp rfl) hp)

theorem State.modMcr_follows {lp : List Part} {r : State} (s : State) (f : Mcr → Mcr) (hl : [.mcr] ⊆ lp) (h :
    Follows lp r s) : Follows lp r (State.modMcr s f) := by
  unfold State.modMcr
  repeat' first
    | with_reducible assumption | with_reducible refine Follows.mkRegs ?_ hl ?_ ?_ | with_reducible exact id
    | (intro p hp; cases p <;> first | with_reducible rfl | exact absurd (List.elem_iff.mp rfl) hp)

theorem State.satAdd_follows {lp : List Part} {r : State} (s : State) (a n k : Nat) (hl : [.rc] ⊆ lp) (h : Follows
    lp r s) : Follows lp r (State.satAdd s a n k) := by
  unfold State.satAdd
  repeat' first
    | with_reducible assumption | with_reducible apply State.setRc_follows | exact within hl rfl

theorem State.unlockMark_follows {lp : List Part} {r : State} (s : State) (hl : [.rc] ⊆ lp) (h : Follows lp r s) :
    Follows lp r (State.unlockMark s) := by
  unfold State.unlockMark
  repeat' first
    | with_reducible assumption | with_reducible apply Follows.ite | with_reducible apply State.flagRaise_follows
    | exact within hl rfl | split | assumption

theorem State.relockBegin_follows {lp : List Part} {r : State} (s : State) (hl : [.rc, .hstop, .mcr, .syn, .mix] ⊆
    lp) (h : Follows lp r s) : Follows lp r (State.relockBegin s) := by
  unfold State.relockBegin
  repeat' first
    | with_reducible assumption | with_reducible apply Follows.ite | with_reducible apply State.unlockMark_follows
    | with_reducible apply State.modSyn_follows | with_reducible apply State.clearHstop_follows
    | with_reducible apply State.modMcr_follows | with_reducible apply State.muteAll_follows
    | with_reducible apply State.unmuteAll_follows | with_reducible apply State.satAdd_follows
    | with_reducible apply State.raise_follows | exact within hl rfl
    | with_reducible refine Follows.mkRegs ?_ hl ?_ ?_ | with_reducible exact id
    | (intro p hp; cases p <;> first | with_reducible rfl | exact absurd (List.elem_iff.mp rfl) hp)

theorem State.synAdopted_follows {lp : List Part} {r : State} (s : State) (hl : [.snap] ⊆ lp) (h : Follows lp r s)
    : Follows lp r (State.synAdopted s) := by
  unfold State.synAdopted
  repeat' first
    | with_reducible assumption | with_reducible refine Follows.mkRegs ?_ hl ?_ ?_ | with_reducible exact id
    | (intro p hp; cases p <;> first | with_reducible rfl | exact absurd (List.elem_iff.mp rfl) hp)

theorem State.relockStep3_follows {lp : List Part} {r : State} (s : State) (hl : [.staged, .applied, .bank, .mcr,
    .syn] ⊆ lp) (h : Follows lp r s) : Follows lp r (State.relockStep3 s) := by
  unfold State.relockStep3
  repeat' first
    | with_reducible assumption | with_reducible apply Follows.ite
    | with_reducible apply State.reformRegions_follows | with_reducible apply State.modSyn_follows
    | with_reducible apply State.modMcr_follows | exact within hl rfl
    | with_reducible refine Follows.mkRegs ?_ hl ?_ ?_ | with_reducible exact id
    | (intro p hp; cases p <;> first | with_reducible rfl | exact absurd (List.elem_iff.mp rfl) hp)

theorem State.setMpll_follows {lp : List Part} {r : State} (s : State) (b : Bool) (hl : [.syn] ⊆ lp) (h : Follows
    lp r s) : Follows lp r (State.setMpll s b) := by
  unfold State.setMpll
  repeat' first
    | with_reducible assumption | with_reducible apply Follows.ite | with_reducible apply State.modSyn_follows
    | exact within hl rfl | with_reducible refine Follows.mkRegs ?_ hl ?_ ?_ | with_reducible exact id
    | (intro p hp; cases p <;> first | with_reducible rfl | exact absurd (List.elem_iff.mp rfl) hp)

theorem State.relockRetry_follows {lp : List Part} {r : State} (s : State) (hl : [.rc, .hstop, .syn] ⊆ lp) (h :
    Follows lp r s) : Follows lp r (State.relockRetry s) := by
  unfold State.relockRetry
  repeat' first
    | with_reducible assumption | with_reducible apply Follows.ite | with_reducible apply State.modSyn_follows
    | with_reducible apply State.flagRaise_follows | with_reducible apply State.enterHstop_follows
    | exact within hl rfl | with_reducible refine Follows.mkRegs ?_ hl ?_ ?_ | with_reducible exact id
    | (intro p hp; cases p <;> first | with_reducible rfl | exact absurd (List.elem_iff.mp rfl) hp)

theorem State.counterEnd_follows {lp : List Part} {r : State} (s : State) (n : Nat) (hl : [.rc, .hstop, .syn] ⊆ lp)
    (h : Follows lp r s) : Follows lp r (State.counterEnd s n) := by
  unfold State.counterEnd
  repeat' first
    | with_reducible assumption | with_reducible apply Follows.ite | with_reducible apply State.modSyn_follows
    | with_reducible apply State.flag_follows | with_reducible apply State.relockRetry_follows
    | exact within hl rfl | with_reducible refine Follows.mkRegs ?_ hl ?_ ?_ | with_reducible exact id
    | (intro p hp; cases p <;> first | with_reducible rfl | exact absurd (List.elem_iff.mp rfl) hp)

theorem State.step3Timeout_follows {lp : List Part} {r : State} (s : State) (hl : [.rc, .hstop, .syn] ⊆ lp) (h :
    Follows lp r s) : Follows lp r (State.step3Timeout s) := by
  unfold State.step3Timeout
  repeat' first
    | with_reducible assumption | with_reducible apply Follows.ite | with_reducible apply State.fresh_follows
    | with_reducible apply State.modSyn_follows | with_reducible apply State.relockRetry_follows
    | exact within hl rfl | (refine Follows.fst_of_eq (by assumption) ?_)
    | (refine Follows.snd_of_eq (by assumption) ?_) | extract_lets
    | with_reducible refine Follows.mkRegs ?_ hl ?_ ?_ | with_reducible exact id
    | (intro p hp; cases p <;> first | with_reducible rfl | exact absurd (List.elem_iff.mp rfl) hp)

theorem State.fenceBack_follows {lp : List Part} {r : State} (s : State) (hl : [.syn, .mix] ⊆ lp) (h : Follows lp r
    s) : Follows lp r (State.fenceBack s) := by
  unfold State.fenceBack
  repeat' first
    | with_reducible assumption | with_reducible apply Follows.ite | with_reducible apply State.modSyn_follows
    | with_reducible apply State.unmuteAll_follows | exact within hl rfl
    | with_reducible refine Follows.mkRegs ?_ hl ?_ ?_ | with_reducible exact id
    | (intro p hp; cases p <;> first | with_reducible rfl | exact absurd (List.elem_iff.mp rfl) hp)

theorem State.mclkAdopt_follows {lp : List Part} {r : State} (s old : State) (hl : [.syn] ⊆ lp) (h : Follows lp r
    s) (h1 : Follows lp r old) : Follows lp r (State.mclkAdopt s old) := by
  unfold State.mclkAdopt
  repeat' first
    | with_reducible assumption | with_reducible apply Follows.ite | with_reducible apply State.modSyn_follows
    | with_reducible apply State.emit_follows | exact within hl rfl | (apply Follows.foldl; intro _ _ _)
    | with_reducible refine Follows.mkRegs ?_ hl ?_ ?_ | with_reducible exact id
    | (intro p hp; cases p <;> first | with_reducible rfl | exact absurd (List.elem_iff.mp rfl) hp)

theorem State.cancelAll_follows {lp : List Part} {r : State} (s : State) (hl : [.rc, .tt, .mcr] ⊆ lp) (h : Follows
    lp r s) : Follows lp r (State.cancelAll s) := by
  unfold State.cancelAll
  repeat' first
    | with_reducible assumption | with_reducible apply State.flag_follows | exact within hl rfl
    | (apply Follows.foldl; intro _ _ _) | (apply Follows.foldl_fst; intro _ _ _)
    | with_reducible refine Follows.mkRegs ?_ hl ?_ ?_ | with_reducible exact id
    | (intro p hp; cases p <;> first | with_reducible rfl | exact absurd (List.elem_iff.mp rfl) hp)

theorem State.synAdopt_follows {lp : List Part} {r : State} (s old : State) (hl : [.rc, .snap, .hstop, .tt, .mcr,
    .syn, .mix] ⊆ lp) (h : Follows lp r s) (h1 : Follows lp r old) : Follows lp r (State.synAdopt s old) := by
  unfold State.synAdopt
  repeat' first
    | with_reducible assumption | with_reducible apply Follows.ite | with_reducible apply State.mclkAdopt_follows
    | with_reducible apply State.cancelAll_follows | with_reducible apply State.modSyn_follows
    | with_reducible apply State.relockBegin_follows | with_reducible apply State.synAdopted_follows
    | exact within hl rfl | with_reducible refine Follows.mkRegs ?_ hl ?_ ?_ | with_reducible exact id
    | (intro p hp; cases p <;> first | with_reducible rfl | exact absurd (List.elem_iff.mp rfl) hp)

theorem State.setSerdes_follows {lp : List Part} {r : State} (s : State) (lane : Nat) (b : Bool) (hl : [.syn] ⊆ lp)
    (h : Follows lp r s) : Follows lp r (State.setSerdes s lane b) := by
  unfold State.setSerdes
  repeat' first
    | with_reducible assumption | with_reducible apply Follows.ite | with_reducible apply State.modSyn_follows
    | exact within hl rfl | with_reducible refine Follows.mkRegs ?_ hl ?_ ?_ | with_reducible exact id
    | (intro p hp; cases p <;> first | with_reducible rfl | exact absurd (List.elem_iff.mp rfl) hp)

end Sys2Proof.Machine
end

