-- ==== Sys2Proof/Laws/FollowsTt.lean ====
section
/-! SUPPORT. What each operation of Machine/Tt.lean does to the state as a whole (Follows). -/

set_option linter.unusedTactic false
set_option linter.unreachableTactic false

namespace Sys2Proof.Machine

theorem State.setArmed_follows {lp : List Part} {r : State} (s : State) (d : Nat) (b : Bool) (hl : [.tt] ⊆ lp) (h :
    Follows lp r s) : Follows lp r (State.setArmed s d b) := by
  unfold State.setArmed
  repeat' first
    | with_reducible assumption | with_reducible apply Follows.ite | split
    | with_reducible refine Follows.mkRegs ?_ hl ?_ ?_ | with_reducible exact id
    | (intro p hp; cases p <;> first | with_reducible rfl | exact absurd (List.elem_iff.mp rfl) hp)

theorem State.setRefuse_follows {lp : List Part} {r : State} (s : State) (d c : Nat) (hl : [.rc] ⊆ lp) (h : Follows
    lp r s) : Follows lp r (State.setRefuse s d c) := by
  unfold State.setRefuse
  repeat' first
    | with_reducible assumption | with_reducible apply State.setRc_follows | exact within hl rfl

theorem State.arm_follows {lp : List Part} {r : State} (s : State) (d : Nat) (hl : [.rc, .tt] ⊆ lp) (h : Follows lp
    r s) : Follows lp r (State.arm s d) := by
  unfold State.arm
  repeat' first
    | with_reducible assumption | with_reducible apply Follows.ite | with_reducible apply State.setArmed_follows
    | with_reducible apply State.setRefuse_follows | exact within hl rfl

theorem State.disarm_follows {lp : List Part} {r : State} (s : State) (d : Nat) (hl : [.tt] ⊆ lp) (h : Follows lp r
    s) : Follows lp r (State.disarm s d) := by
  unfold State.disarm
  repeat' first
    | with_reducible assumption | with_reducible apply State.setArmed_follows | exact within hl rfl

theorem State.disarmAll_follows {lp : List Part} {r : State} (s : State) (hl : [.tt] ⊆ lp) (h : Follows lp r s) :
    Follows lp r (State.disarmAll s) := by
  unfold State.disarmAll
  repeat' first
    | with_reducible assumption | with_reducible refine Follows.mkRegs ?_ hl ?_ ?_ | with_reducible exact id
    | (intro p hp; cases p <;> first | with_reducible rfl | exact absurd (List.elem_iff.mp rfl) hp)

theorem State.depWrite_follows {lp : List Part} {r : State} (s : State) (d o : Nat) (w : Word) (hl : [.rw, .rc] ⊆
    lp) (h : Follows lp r s) : Follows lp r (State.depWrite s d o w) := by
  unfold State.depWrite
  repeat' first
    | with_reducible assumption | with_reducible apply Follows.ite | with_reducible apply State.flag_follows
    | with_reducible apply State.setRw_follows | exact within hl rfl

theorem State.rearm_follows {lp : List Part} {r : State} (s : State) (d : Nat) (hl : [.rw, .rc] ⊆ lp) (h : Follows
    lp r s) : Follows lp r (State.rearm s d) := by
  unfold State.rearm
  repeat' first
    | with_reducible assumption | with_reducible apply State.setRw_follows
    | with_reducible apply State.setRc_follows | exact within hl rfl

theorem State.takeOne_follows {lp : List Part} {r : State} (s : State) (d : Nat) (hl : [.rw, .rc, .tt] ⊆ lp) (h :
    Follows lp r s) : Follows lp r (State.takeOne s d) := by
  unfold State.takeOne
  repeat' first
    | with_reducible assumption | with_reducible apply Follows.ite | with_reducible apply State.flag_follows
    | with_reducible apply State.raise_follows | with_reducible apply State.setArmed_follows
    | with_reducible apply State.rearm_follows | exact within hl rfl

theorem State.takeAll_follows {lp : List Part} {r : State} (s : State) (bad : List Nat) (hl : [.rw, .rc, .tt] ⊆ lp)
    (h : Follows lp r s) : Follows lp r (State.takeAll s bad).1 := by
  unfold State.takeAll
  repeat' first
    | with_reducible assumption | with_reducible apply Follows.ite | with_reducible apply Follows.ite_fst
    | with_reducible apply State.setArmed_follows | with_reducible apply State.takeOne_follows
    | exact within hl rfl | (apply Follows.foldl; intro _ _ _) | (apply Follows.foldl_fst; intro _ _ _) | split
    | extract_lets | with_reducible refine Follows.mkRegs ?_ hl ?_ ?_ | with_reducible exact id
    | (intro p hp; cases p <;> first | with_reducible rfl | exact absurd (List.elem_iff.mp rfl) hp)

end Sys2Proof.Machine
end

