-- ==== Sys2Proof/Laws/FollowsTim.lean ====
section
/-! SUPPORT. What each operation of Machine/Tim.lean does to the state as a whole (Follows). -/

set_option linter.unusedTactic false
set_option linter.unreachableTactic false

namespace Sys2Proof.Machine

theorem State.setInst_follows {lp : List Part} {r : State} (s : State) (i : Nat) (v : PtpInst) (hl : [.tim] ⊆ lp)
    (h : Follows lp r s) : Follows lp r (State.setInst s i v) := by
  unfold State.setInst
  repeat' first
    | with_reducible assumption | with_reducible apply Follows.ite | split
    | with_reducible refine Follows.mkRegs ?_ hl ?_ ?_ | with_reducible exact id
    | (intro p hp; cases p <;> first | with_reducible rfl | exact absurd (List.elem_iff.mp rfl) hp)

theorem State.timAdopt_follows {lp : List Part} {r : State} (s : State) (hl : [.applied, .rc] ⊆ lp) (h : Follows lp
    r s) : Follows lp r (State.timAdopt s) := by
  unfold State.timAdopt
  repeat' first
    | with_reducible assumption | with_reducible apply Follows.ite | with_reducible apply State.setApplied_follows
    | with_reducible apply State.flag_follows | exact within hl rfl

theorem State.tsrcCheck_follows {lp : List Part} {r : State} (s : State) (hl : [.rc] ⊆ lp) (h : Follows lp r s) :
    Follows lp r (State.tsrcCheck s) := by
  unfold State.tsrcCheck
  repeat' first
    | with_reducible assumption | with_reducible apply Follows.ite | with_reducible apply State.flag_follows
    | exact within hl rfl | split | assumption

theorem State.timeSet_follows {lp : List Part} {r : State} (s : State) (i : Nat) (hl : [.rc, .tim] ⊆ lp) (h :
    Follows lp r s) : Follows lp r (State.timeSet s i) := by
  unfold State.timeSet
  repeat' first
    | with_reducible assumption | with_reducible apply Follows.ite | with_reducible apply State.setInst_follows
    | with_reducible apply State.flag_follows | exact within hl rfl
    | with_reducible refine Follows.mkRegs ?_ hl ?_ ?_ | with_reducible exact id
    | (intro p hp; cases p <;> first | with_reducible rfl | exact absurd (List.elem_iff.mp rfl) hp)

theorem State.timeTick_follows {lp : List Part} {r : State} (s : State) (ns0 ns1 xo pos : Nat) (hl : [.tim] ⊆ lp)
    (h : Follows lp r s) : Follows lp r (State.timeTick s ns0 ns1 xo pos) := by
  unfold State.timeTick
  repeat' first
    | with_reducible assumption | with_reducible refine Follows.mkRegs ?_ hl ?_ ?_ | with_reducible exact id
    | (intro p hp; cases p <;> first | with_reducible rfl | exact absurd (List.elem_iff.mp rfl) hp) | assumption

theorem State.setGm_follows {lp : List Part} {r : State} (s : State) (i g : Nat) (self : Bool) (hl : [.rc, .tim] ⊆
    lp) (h : Follows lp r s) : Follows lp r (State.setGm s i g self) := by
  unfold State.setGm
  repeat' first
    | with_reducible assumption | with_reducible apply Follows.ite | with_reducible apply State.setInst_follows
    | with_reducible apply State.raise_follows | exact within hl rfl
    | with_reducible refine Follows.mkRegs ?_ hl ?_ ?_ | with_reducible exact id
    | (intro p hp; cases p <;> first | with_reducible rfl | exact absurd (List.elem_iff.mp rfl) hp)

theorem State.unsync_follows {lp : List Part} {r : State} (s : State) (i : Nat) (hl : [.rc, .tim] ⊆ lp) (h :
    Follows lp r s) : Follows lp r (State.unsync s i) := by
  unfold State.unsync
  repeat' first
    | with_reducible assumption | with_reducible apply Follows.ite | with_reducible apply State.setInst_follows
    | with_reducible apply State.raise_follows | exact within hl rfl
    | with_reducible refine Follows.mkRegs ?_ hl ?_ ?_ | with_reducible exact id
    | (intro p hp; cases p <;> first | with_reducible rfl | exact absurd (List.elem_iff.mp rfl) hp)

theorem State.ptpUpdate_follows {lp : List Part} {r : State} (s : State) (i : Nat) (x : Instant) (hl : [.mcr] ⊆ lp)
    (h : Follows lp r s) : Follows lp r (State.ptpUpdate s i x) := by
  unfold State.ptpUpdate
  repeat' first
    | with_reducible assumption | with_reducible apply Follows.ite | split | extract_lets
    | with_reducible refine Follows.mkRegs ?_ hl ?_ ?_ | with_reducible exact id
    | (intro p hp; cases p <;> first | with_reducible rfl | exact absurd (List.elem_iff.mp rfl) hp) | assumption

theorem State.syncOffset_follows {lp : List Part} {r : State} (s : State) (i : Nat) (offset ratio : Int) (x :
    Instant) (hl : [.rc, .tim, .mcr] ⊆ lp) (h : Follows lp r s) : Follows lp r (State.syncOffset s i offset ratio
    x) := by
  unfold State.syncOffset
  repeat' first
    | with_reducible assumption | with_reducible apply Follows.ite | with_reducible apply State.setInst_follows
    | with_reducible apply State.satAdd_follows | with_reducible apply State.raise_follows
    | with_reducible apply State.ptpUpdate_follows | exact within hl rfl | split | extract_lets
    | with_reducible refine Follows.mkRegs ?_ hl ?_ ?_ | with_reducible exact id
    | (intro p hp; cases p <;> first | with_reducible rfl | exact absurd (List.elem_iff.mp rfl) hp) | assumption

theorem State.syncTimes_follows {lp : List Part} {r : State} (s : State) (i p : Nat) (t1 t2 ratio : Int) (x :
    Instant) (hl : [.rc, .tim, .mcr] ⊆ lp) (h : Follows lp r s) : Follows lp r (State.syncTimes s i p t1 t2 ratio
    x) := by
  unfold State.syncTimes
  repeat' first
    | with_reducible assumption | with_reducible apply State.setInst_follows
    | with_reducible apply State.syncOffset_follows | exact within hl rfl
    | with_reducible refine Follows.mkRegs ?_ hl ?_ ?_ | with_reducible exact id
    | (intro p hp; cases p <;> first | with_reducible rfl | exact absurd (List.elem_iff.mp rfl) hp) | assumption

theorem State.bmca_follows {lp : List Part} {r : State} (s : State) (i stA stB g : Nat) (self : Bool) (hl : [.rc,
    .tim] ⊆ lp) (h : Follows lp r s) : Follows lp r (State.bmca s i stA stB g self) := by
  unfold State.bmca
  repeat' first
    | with_reducible assumption | with_reducible apply Follows.ite | with_reducible apply State.setInst_follows
    | with_reducible apply State.setGm_follows | exact within hl rfl | split
    | with_reducible refine Follows.mkRegs ?_ hl ?_ ?_ | with_reducible exact id
    | (intro p hp; cases p <;> first | with_reducible rfl | exact absurd (List.elem_iff.mp rfl) hp)

theorem State.delayRx_follows {lp : List Part} {r : State} (s : State) (i p delay : Nat) (cap : Bool) (hl : [.tim]
    ⊆ lp) (h : Follows lp r s) : Follows lp r (State.delayRx s i p delay cap) := by
  unfold State.delayRx
  repeat' first
    | with_reducible assumption | with_reducible apply Follows.ite | with_reducible apply State.setInst_follows
    | exact within hl rfl | with_reducible refine Follows.mkRegs ?_ hl ?_ ?_ | with_reducible exact id
    | (intro p hp; cases p <;> first | with_reducible rfl | exact absurd (List.elem_iff.mp rfl) hp)

theorem State.setReq_follows {lp : List Part} {r : State} (s : State) (i p : Nat) (t : Option Int) (hl : [.tim] ⊆
    lp) (h : Follows lp r s) : Follows lp r (State.setReq s i p t) := by
  unfold State.setReq
  repeat' first
    | with_reducible assumption | with_reducible apply Follows.ite | with_reducible apply State.setInst_follows
    | exact within hl rfl | split | with_reducible refine Follows.mkRegs ?_ hl ?_ ?_ | with_reducible exact id
    | (intro p hp; cases p <;> first | with_reducible rfl | exact absurd (List.elem_iff.mp rfl) hp) | assumption

theorem State.pdelayDone_follows {lp : List Part} {r : State} (s : State) (i p : Nat) (turn t4 : Int) (cap : Bool)
    (hl : [.tim] ⊆ lp) (h : Follows lp r s) : Follows lp r (State.pdelayDone s i p turn t4 cap) := by
  unfold State.pdelayDone
  repeat' first
    | with_reducible assumption | with_reducible apply State.setReq_follows
    | with_reducible apply State.delayRx_follows | exact within hl rfl
    | (refine Follows.fst_of_eq (by assumption) ?_) | (refine Follows.snd_of_eq (by assumption) ?_) | split
    | assumption

theorem State.delayDone_follows {lp : List Part} {r : State} (s : State) (i p : Nat) (t4 : Int) (hl : [.tim] ⊆ lp)
    (h : Follows lp r s) : Follows lp r (State.delayDone s i p t4) := by
  unfold State.delayDone
  repeat' first
    | with_reducible assumption | with_reducible apply State.setReq_follows
    | with_reducible apply State.delayRx_follows | exact within hl rfl
    | (refine Follows.fst_of_eq (by assumption) ?_) | (refine Follows.snd_of_eq (by assumption) ?_) | split
    | assumption

theorem State.ppsSteer_follows {lp : List Part} {r : State} (s : State) (i : Nat) (x : Instant) (hl : [.tim] ⊆ lp)
    (h : Follows lp r s) : Follows lp r (State.ppsSteer s i x) := by
  unfold State.ppsSteer
  repeat' first
    | with_reducible assumption | with_reducible apply Follows.ite | with_reducible apply State.setInst_follows
    | exact within hl rfl | split | with_reducible refine Follows.mkRegs ?_ hl ?_ ?_ | with_reducible exact id
    | (intro p hp; cases p <;> first | with_reducible rfl | exact absurd (List.elem_iff.mp rfl) hp) | assumption

theorem State.ppsEdge_follows {lp : List Part} {r : State} (s : State) (ns : Nat) (x : Instant) (hl : [.rc, .tim] ⊆
    lp) (h : Follows lp r s) : Follows lp r (State.ppsEdge s ns x) := by
  unfold State.ppsEdge
  repeat' first
    | with_reducible assumption | with_reducible apply Follows.ite | with_reducible apply State.raise_follows
    | with_reducible apply State.ppsSteer_follows | exact within hl rfl
    | (refine Follows.fst_of_eq (by assumption) ?_) | (refine Follows.snd_of_eq (by assumption) ?_) | split
    | extract_lets | with_reducible refine Follows.mkRegs ?_ hl ?_ ?_ | with_reducible exact id
    | (intro p hp; cases p <;> first | with_reducible rfl | exact absurd (List.elem_iff.mp rfl) hp)

theorem State.ppsRise_follows {lp : List Part} {r : State} (s : State) (hl : [.tim] ⊆ lp) (h : Follows lp r s) :
    Follows lp r (State.ppsRise s) := by
  unfold State.ppsRise
  repeat' first
    | with_reducible assumption | with_reducible apply Follows.ite | with_reducible apply State.emit_follows
    | split | extract_lets | with_reducible refine Follows.mkRegs ?_ hl ?_ ?_ | with_reducible exact id
    | (intro p hp; cases p <;> first | with_reducible rfl | exact absurd (List.elem_iff.mp rfl) hp)

theorem State.ppsFall_follows {lp : List Part} {r : State} (s : State) (hl : [.tim] ⊆ lp) (h : Follows lp r s) :
    Follows lp r (State.ppsFall s) := by
  unfold State.ppsFall
  repeat' first
    | with_reducible assumption | with_reducible apply Follows.ite | with_reducible apply State.emit_follows
    | (refine Follows.fst_of_eq (by assumption) ?_) | (refine Follows.snd_of_eq (by assumption) ?_) | split
    | with_reducible refine Follows.mkRegs ?_ hl ?_ ?_ | with_reducible exact id
    | (intro p hp; cases p <;> first | with_reducible rfl | exact absurd (List.elem_iff.mp rfl) hp)

end Sys2Proof.Machine
end

