-- ==== Sys2Proof/Laws/FollowsMcr.lean ====
section
/-! SUPPORT. What each operation of Machine/Mcr.lean does to the state as a whole (Follows). -/

set_option linter.unusedTactic false
set_option linter.unreachableTactic false

namespace Sys2Proof.Machine

theorem State.mcrLock_follows {lp : List Part} {r : State} (s : State) (hl : [.rc, .mcr] ⊆ lp) (h : Follows lp r s)
    : Follows lp r (State.mcrLock s) := by
  unfold State.mcrLock
  repeat' first
    | with_reducible assumption | with_reducible apply State.modMcr_follows
    | with_reducible apply State.raise_follows | exact within hl rfl
    | with_reducible refine Follows.mkRegs ?_ hl ?_ ?_ | with_reducible exact id
    | (intro p hp; cases p <;> first | with_reducible rfl | exact absurd (List.elem_iff.mp rfl) hp)

theorem State.coastAt_follows {lp : List Part} {r : State} (s : State) (f : Int) (hl : [.rc, .mcr] ⊆ lp) (h :
    Follows lp r s) : Follows lp r (State.coastAt s f) := by
  unfold State.coastAt
  repeat' first
    | with_reducible assumption | with_reducible apply State.modMcr_follows
    | with_reducible apply State.flag_follows | with_reducible apply State.raise_follows | exact within hl rfl
    | (refine Follows.fst_of_eq (by assumption) ?_) | (refine Follows.snd_of_eq (by assumption) ?_) | split
    | extract_lets | with_reducible refine Follows.mkRegs ?_ hl ?_ ?_ | with_reducible exact id
    | (intro p hp; cases p <;> first | with_reducible rfl | exact absurd (List.elem_iff.mp rfl) hp) | assumption

theorem State.mcrCoast_follows {lp : List Part} {r : State} (s : State) (hl : [.rc, .mcr] ⊆ lp) (h : Follows lp r
    s) : Follows lp r (State.mcrCoast s) := by
  unfold State.mcrCoast
  repeat' first
    | with_reducible assumption | with_reducible apply State.coastAt_follows | exact within hl rfl

theorem State.decideJump_follows {lp : List Part} {r : State} (s : State) (d : Int) (hl : [.mcr] ⊆ lp) (h : Follows
    lp r s) : Follows lp r (State.decideJump s d) := by
  unfold State.decideJump
  repeat' first
    | with_reducible assumption | with_reducible apply Follows.ite | with_reducible apply State.modMcr_follows
    | exact within hl rfl | with_reducible refine Follows.mkRegs ?_ hl ?_ ?_ | with_reducible exact id
    | (intro p hp; cases p <;> first | with_reducible rfl | exact absurd (List.elem_iff.mp rfl) hp)

theorem State.measureJump_follows {lp : List Part} {r : State} (s : State) (d : Int) (hl : [.mcr] ⊆ lp) (h :
    Follows lp r s) : Follows lp r (State.measureJump s d) := by
  unfold State.measureJump
  repeat' first
    | with_reducible assumption | with_reducible apply State.decideJump_follows | exact within hl rfl | assumption

theorem State.decideRelock_follows {lp : List Part} {r : State} (s : State) (d : Int) (hl : [.mcr] ⊆ lp) (h :
    Follows lp r s) : Follows lp r (State.decideRelock s d) := by
  unfold State.decideRelock
  repeat' first
    | with_reducible assumption | with_reducible apply Follows.ite | with_reducible apply State.modMcr_follows
    | exact within hl rfl | with_reducible refine Follows.mkRegs ?_ hl ?_ ?_ | with_reducible exact id
    | (intro p hp; cases p <;> first | with_reducible rfl | exact absurd (List.elem_iff.mp rfl) hp)

theorem State.qualify_follows {lp : List Part} {r : State} (s : State) (d : Int) (hl : [.mcr] ⊆ lp) (h : Follows lp
    r s) : Follows lp r (State.qualify s d) := by
  unfold State.qualify
  repeat' first
    | with_reducible assumption | with_reducible apply Follows.ite | with_reducible apply State.modMcr_follows
    | with_reducible apply State.decideRelock_follows | with_reducible apply State.measureJump_follows
    | exact within hl rfl | with_reducible refine Follows.mkRegs ?_ hl ?_ ?_ | with_reducible exact id
    | (intro p hp; cases p <;> first | with_reducible rfl | exact absurd (List.elem_iff.mp rfl) hp)

theorem State.servo_follows {lp : List Part} {r : State} (s : State) (d : Int) (hl : [.mcr] ⊆ lp) (h : Follows lp r
    s) : Follows lp r (State.servo s d) := by
  unfold State.servo
  repeat' first
    | with_reducible assumption | with_reducible apply Follows.ite | with_reducible apply State.modMcr_follows
    | exact within hl rfl | with_reducible refine Follows.mkRegs ?_ hl ?_ ?_ | with_reducible exact id
    | (intro p hp; cases p <;> first | with_reducible rfl | exact absurd (List.elem_iff.mp rfl) hp)

theorem State.countUpdate_follows {lp : List Part} {r : State} (s : State) (d : Int) (hl : [.mcr] ⊆ lp) (h :
    Follows lp r s) : Follows lp r (State.countUpdate s d) := by
  unfold State.countUpdate
  repeat' first
    | with_reducible assumption | with_reducible apply Follows.ite | with_reducible apply State.modMcr_follows
    | with_reducible apply State.qualify_follows | exact within hl rfl | split | extract_lets
    | with_reducible refine Follows.mkRegs ?_ hl ?_ ?_ | with_reducible exact id
    | (intro p hp; cases p <;> first | with_reducible rfl | exact absurd (List.elem_iff.mp rfl) hp) | assumption

theorem State.refValid_follows {lp : List Part} {r : State} (s : State) (d : Int) (hl : [.mcr] ⊆ lp) (h : Follows
    lp r s) : Follows lp r (State.refValid s d) := by
  unfold State.refValid
  repeat' first
    | with_reducible assumption | with_reducible apply Follows.ite | with_reducible apply State.modMcr_follows
    | with_reducible apply State.countUpdate_follows | with_reducible apply State.measureJump_follows
    | with_reducible apply State.decideRelock_follows | with_reducible apply State.servo_follows
    | exact within hl rfl | (refine Follows.fst_of_eq (by assumption) ?_)
    | (refine Follows.snd_of_eq (by assumption) ?_) | split | with_reducible refine Follows.mkRegs ?_ hl ?_ ?_
    | with_reducible exact id
    | (intro p hp; cases p <;> first | with_reducible rfl | exact absurd (List.elem_iff.mp rfl) hp)

theorem State.usableCheck_follows {lp : List Part} {r : State} (s : State) (ok : Bool) (hl : [.rc, .mcr] ⊆ lp) (h :
    Follows lp r s) : Follows lp r (State.usableCheck s ok) := by
  unfold State.usableCheck
  repeat' first
    | with_reducible assumption | with_reducible apply Follows.ite | with_reducible apply State.modMcr_follows
    | with_reducible apply State.flag_follows | with_reducible apply State.coastAt_follows | exact within hl rfl
    | split | extract_lets | with_reducible refine Follows.mkRegs ?_ hl ?_ ?_ | with_reducible exact id
    | (intro p hp; cases p <;> first | with_reducible rfl | exact absurd (List.elem_iff.mp rfl) hp) | assumption

theorem State.mcrRange_follows {lp : List Part} {r : State} (s : State) (hl : [.rc, .mcr] ⊆ lp) (h : Follows lp r
    s) : Follows lp r (State.mcrRange s) := by
  unfold State.mcrRange
  repeat' first
    | with_reducible assumption | with_reducible apply State.flag_follows
    | with_reducible apply State.raise_follows | with_reducible apply State.mcrCoast_follows | exact within hl rfl
    | assumption

theorem State.refUpdate_follows {lp : List Part} {r : State} (s : State) (x : RefIn) (ctxOk sapSlave : Bool) (hl :
    [.rc, .mcr] ⊆ lp) (h : Follows lp r s) : Follows lp r (State.refUpdate s x ctxOk sapSlave) := by
  have k := State.usableCheck_follows (lp := lp) (r := r) s false (within hl rfl) h
  have m := State.mcrRange_follows (lp := lp) (r := r) s (within hl rfl) h
  unfold State.refUpdate
  refine Follows.ite h (Follows.ite k ?_)
  cases x with
  | waiting need =>
    dsimp only
    split
    · exact h
    · rename_i us _
      have t := State.modMcr_follows (lp := lp) (r := r) s (fun m => { m with updates := us }) (within hl rfl) h
      exact Follows.ite (State.mcrRange_follows _ (within hl rfl) t)
        (Follows.ite (State.modMcr_follows _ _ (within hl rfl) t) (State.refValid_follows _ _ (within hl rfl) t))
  | edge i rate => exact Follows.ite h (Follows.ite m (State.refValid_follows _ _ (within hl rfl) h))

theorem State.refLoss_follows {lp : List Part} {r : State} (s : State) (hl : [.rc, .mcr] ⊆ lp) (h : Follows lp r s)
    : Follows lp r (State.refLoss s) := by
  unfold State.refLoss
  repeat' first
    | with_reducible assumption | with_reducible apply Follows.ite | with_reducible apply State.modMcr_follows
    | with_reducible apply State.mcrCoast_follows | exact within hl rfl
    | with_reducible refine Follows.mkRegs ?_ hl ?_ ?_ | with_reducible exact id
    | (intro p hp; cases p <;> first | with_reducible rfl | exact absurd (List.elem_iff.mp rfl) hp)

theorem State.refLossDue_follows {lp : List Part} {r : State} (s : State) (hl : [.rc, .mcr] ⊆ lp) (h : Follows lp r
    s) : Follows lp r (State.refLossDue s) := by
  unfold State.refLossDue
  repeat' first
    | with_reducible assumption | with_reducible apply Follows.ite | with_reducible apply State.refLoss_follows
    | exact within hl rfl | split | assumption

theorem State.failover_follows {lp : List Part} {r : State} (s : State) (hl : [.mcr] ⊆ lp) (h : Follows lp r s) :
    Follows lp r (State.failover s) := by
  unfold State.failover
  repeat' first
    | with_reducible assumption | with_reducible apply Follows.ite | with_reducible apply State.modMcr_follows
    | with_reducible apply State.decideJump_follows | exact within hl rfl
    | with_reducible refine Follows.mkRegs ?_ hl ?_ ?_ | with_reducible exact id
    | (intro p hp; cases p <;> first | with_reducible rfl | exact absurd (List.elem_iff.mp rfl) hp)

theorem State.setPosition_follows {lp : List Part} {r : State} (s : State) (target : Int) (hl : [.now, .tt] ⊆ lp)
    (h : Follows lp r s) : Follows lp r (State.setPosition s target).1 := by
  unfold State.setPosition
  repeat' first
    | with_reducible assumption | extract_lets | with_reducible refine Follows.mkRegs ?_ hl ?_ ?_
    | with_reducible exact id
    | (intro p hp; cases p <;> first | with_reducible rfl | exact absurd (List.elem_iff.mp rfl) hp) | assumption

theorem State.positionSet_follows {lp : List Part} {r : State} (s : State) (hl : [.now, .tt, .mcr] ⊆ lp) (h :
    Follows lp r s) : Follows lp r (State.positionSet s) := by
  unfold State.positionSet
  repeat' first
    | with_reducible assumption | with_reducible apply Follows.ite | with_reducible apply State.setPosition_follows
    | with_reducible apply State.modMcr_follows | exact within hl rfl | split | extract_lets
    | with_reducible refine Follows.mkRegs ?_ hl ?_ ?_ | with_reducible exact id
    | (intro p hp; cases p <;> first | with_reducible rfl | exact absurd (List.elem_iff.mp rfl) hp)

theorem State.masterEntry_follows {lp : List Part} {r : State} (s : State) (hl : [.rc, .now, .tt, .mcr, .mix] ⊆ lp)
    (h : Follows lp r s) : Follows lp r (State.masterEntry s) := by
  unfold State.masterEntry
  repeat' first
    | with_reducible assumption | with_reducible apply Follows.ite | with_reducible apply State.unmuteAll_follows
    | with_reducible apply State.modMcr_follows | with_reducible apply State.mcrLock_follows
    | with_reducible apply State.setPosition_follows | exact within hl rfl | split | extract_lets
    | with_reducible refine Follows.mkRegs ?_ hl ?_ ?_ | with_reducible exact id
    | (intro p hp; cases p <;> first | with_reducible rfl | exact absurd (List.elem_iff.mp rfl) hp)

theorem State.stepRamp_follows {lp : List Part} {r : State} (s : State) (hl : [.mcr, .mix] ⊆ lp) (h : Follows lp r
    s) : Follows lp r (State.stepRamp s) := by
  unfold State.stepRamp
  repeat' first
    | with_reducible assumption | with_reducible apply Follows.ite | with_reducible apply State.modMcr_follows
    | with_reducible apply State.muteAll_follows | exact within hl rfl
    | with_reducible refine Follows.mkRegs ?_ hl ?_ ?_ | with_reducible exact id
    | (intro p hp; cases p <;> first | with_reducible rfl | exact absurd (List.elem_iff.mp rfl) hp)

theorem State.mcrStep_follows {lp : List Part} {r : State} (s : State) (hl : [.rc, .now, .mcr, .mix] ⊆ lp) (h :
    Follows lp r s) : Follows lp r (State.mcrStep s) := by
  unfold State.mcrStep
  repeat' first
    | with_reducible assumption | with_reducible apply Follows.ite | with_reducible apply State.modMcr_follows
    | with_reducible apply State.flag_follows | with_reducible apply State.raise_follows
    | with_reducible apply State.unmuteAll_follows | with_reducible apply State.mcrLock_follows
    | exact within hl rfl | split | extract_lets | with_reducible refine Follows.mkRegs ?_ hl ?_ ?_
    | with_reducible exact id
    | (intro p hp; cases p <;> first | with_reducible rfl | exact absurd (List.elem_iff.mp rfl) hp)

theorem State.slewTick_follows {lp : List Part} {r : State} (s : State) (hl : [.mcr] ⊆ lp) (h : Follows lp r s) :
    Follows lp r (State.slewTick s) := by
  unfold State.slewTick
  repeat' first
    | with_reducible assumption | with_reducible apply Follows.ite | with_reducible apply State.modMcr_follows
    | exact within hl rfl | with_reducible refine Follows.mkRegs ?_ hl ?_ ?_ | with_reducible exact id
    | (intro p hp; cases p <;> first | with_reducible rfl | exact absurd (List.elem_iff.mp rfl) hp)

theorem State.stepUpTick_follows {lp : List Part} {r : State} (s : State) (hl : [.rc, .mcr] ⊆ lp) (h : Follows lp r
    s) : Follows lp r (State.stepUpTick s) := by
  unfold State.stepUpTick
  repeat' first
    | with_reducible assumption | with_reducible apply Follows.ite | with_reducible apply State.modMcr_follows
    | with_reducible apply State.mcrCoast_follows | exact within hl rfl | split | extract_lets
    | with_reducible refine Follows.mkRegs ?_ hl ?_ ?_ | with_reducible exact id
    | (intro p hp; cases p <;> first | with_reducible rfl | exact absurd (List.elem_iff.mp rfl) hp) | assumption

theorem State.slewEnd_follows {lp : List Part} {r : State} (s : State) (hl : [.rc, .mcr] ⊆ lp) (h : Follows lp r s)
    : Follows lp r (State.slewEnd s) := by
  unfold State.slewEnd
  repeat' first
    | with_reducible assumption | with_reducible apply Follows.ite | with_reducible apply State.mcrLock_follows
    | exact within hl rfl

theorem State.relockEnd_follows {lp : List Part} {r : State} (s : State) (hl : [.rc, .snap, .mcr, .syn] ⊆ lp) (h :
    Follows lp r s) : Follows lp r (State.relockEnd s) := by
  unfold State.relockEnd
  repeat' first
    | with_reducible assumption | with_reducible apply Follows.ite | with_reducible apply State.modSyn_follows
    | with_reducible apply State.synAdopted_follows | with_reducible apply State.modMcr_follows
    | with_reducible apply State.mcrLock_follows | with_reducible apply State.decideRelock_follows
    | exact within hl rfl | (refine Follows.fst_of_eq (by assumption) ?_)
    | (refine Follows.snd_of_eq (by assumption) ?_) | split | with_reducible refine Follows.mkRegs ?_ hl ?_ ?_
    | with_reducible exact id
    | (intro p hp; cases p <;> first | with_reducible rfl | exact absurd (List.elem_iff.mp rfl) hp)

theorem State.mcrAdopt_follows {lp : List Part} {r : State} (s : State) (hl : [.rc, .mcr] ⊆ lp) (h : Follows lp r
    s) : Follows lp r (State.mcrAdopt s) := by
  unfold State.mcrAdopt
  repeat' first
    | with_reducible assumption | with_reducible apply Follows.ite | with_reducible apply State.modMcr_follows
    | with_reducible apply State.coastAt_follows | with_reducible apply State.mcrCoast_follows
    | exact within hl rfl | with_reducible refine Follows.mkRegs ?_ hl ?_ ?_ | with_reducible exact id
    | (intro p hp; cases p <;> first | with_reducible rfl | exact absurd (List.elem_iff.mp rfl) hp)

theorem State.histTick_follows {lp : List Part} {r : State} (s : State) (ns : Nat) (hl : [.mcr] ⊆ lp) (h : Follows
    lp r s) : Follows lp r (State.histTick s ns) := by
  unfold State.histTick
  repeat' first
    | with_reducible assumption | with_reducible apply Follows.ite | with_reducible apply State.modMcr_follows
    | exact within hl rfl | with_reducible refine Follows.mkRegs ?_ hl ?_ ?_ | with_reducible exact id
    | (intro p hp; cases p <;> first | with_reducible rfl | exact absurd (List.elem_iff.mp rfl) hp)

end Sys2Proof.Machine
end

