-- ==== Sys2Proof/Laws/FollowsMac.lean ====
section
/-! SUPPORT. What each operation of Machine/Mac.lean does to the state as a whole (Follows). -/

set_option linter.unusedTactic false
set_option linter.unreachableTactic false

namespace Sys2Proof.Machine

theorem State.setMac_follows {lp : List Part} {r : State} (s : State) (p : Nat) (v : Mac) (hl : [.macA, .macB] ⊆
    lp) (h : Follows lp r s) : Follows lp r (State.setMac s p v) := by
  unfold State.setMac
  repeat' first
    | with_reducible assumption | with_reducible apply Follows.ite | split
    | with_reducible refine Follows.mkRegs ?_ hl ?_ ?_ | with_reducible exact id
    | (intro p hp; cases p <;> first | with_reducible rfl | exact absurd (List.elem_iff.mp rfl) hp)

theorem State.modMac_follows {lp : List Part} {r : State} (s : State) (p : Nat) (f : Mac → Mac) (hl : [.macA,
    .macB] ⊆ lp) (h : Follows lp r s) : Follows lp r (State.modMac s p f) := by
  unfold State.modMac
  repeat' first
    | with_reducible assumption | with_reducible apply State.setMac_follows | exact within hl rfl

theorem State.laneSet_follows {lp : List Part} {r : State} (s : State) (p : Nat) (hl : [.macA, .macB] ⊆ lp) (h :
    Follows lp r s) : Follows lp r (State.laneSet s p) := by
  unfold State.laneSet
  repeat' first
    | with_reducible assumption | with_reducible apply Follows.ite | with_reducible apply State.modMac_follows
    | with_reducible apply State.emit_follows | exact within hl rfl | split | extract_lets
    | with_reducible refine Follows.mkRegs ?_ hl ?_ ?_ | with_reducible exact id
    | (intro p hp; cases p <;> first | with_reducible rfl | exact absurd (List.elem_iff.mp rfl) hp) | assumption

theorem State.runScript_follows {lp : List Part} {r : State} (s : State) (p : Nat) (hl : [.macA, .macB, .mdio] ⊆
    lp) (h : Follows lp r s) : Follows lp r (State.runScript s p) := by
  unfold State.runScript
  repeat' first
    | with_reducible assumption | with_reducible apply Follows.ite | with_reducible apply State.laneSet_follows
    | exact within hl rfl | split | with_reducible refine Follows.mkRegs ?_ hl ?_ ?_ | with_reducible exact id
    | (intro p hp; cases p <;> first | with_reducible rfl | exact absurd (List.elem_iff.mp rfl) hp)

theorem State.phyPoll_follows {lp : List Part} {r : State} (s : State) (p ms : Nat) (hl : [.mdio] ⊆ lp) (h :
    Follows lp r s) : Follows lp r (State.phyPoll s p ms) := by
  unfold State.phyPoll
  repeat' first
    | with_reducible assumption | with_reducible apply Follows.ite
    | with_reducible refine Follows.mkRegs ?_ hl ?_ ?_ | with_reducible exact id
    | (intro p hp; cases p <;> first | with_reducible rfl | exact absurd (List.elem_iff.mp rfl) hp)

theorem State.mdioCommand_follows {lp : List Part} {r : State} (s : State) (w : Word) (hl : [.rc, .mdio] ⊆ lp) (h :
    Follows lp r s) : Follows lp r (State.mdioCommand s w) := by
  unfold State.mdioCommand
  repeat' first
    | with_reducible assumption | with_reducible apply Follows.ite | with_reducible apply State.flag_follows
    | exact within hl rfl | split | with_reducible refine Follows.mkRegs ?_ hl ?_ ?_ | with_reducible exact id
    | (intro p hp; cases p <;> first | with_reducible rfl | exact absurd (List.elem_iff.mp rfl) hp)

theorem State.mdioSoftware_follows {lp : List Part} {r : State} (s : State) (c : Word) (d v : Nat) (hl : [.rw, .rc]
    ⊆ lp) (h : Follows lp r s) : Follows lp r (State.mdioSoftware s c d v) := by
  unfold State.mdioSoftware
  repeat' first
    | with_reducible assumption | with_reducible apply Follows.ite | with_reducible apply State.setRw_follows
    | with_reducible apply State.emit_follows | with_reducible apply State.flagRaise_follows | exact within hl rfl
    | split | extract_lets | assumption

theorem State.mdioScript_follows {lp : List Part} {r : State} (s : State) (p dev reg d : Nat) (hl : [.macA, .macB]
    ⊆ lp) (h : Follows lp r s) : Follows lp r (State.mdioScript s p dev reg d) := by
  unfold State.mdioScript
  repeat' first
    | with_reducible assumption | with_reducible apply Follows.ite | with_reducible apply State.emit_follows
    | with_reducible apply State.laneSet_follows | exact within hl rfl | split | extract_lets | assumption

theorem State.setQueue_follows {lp : List Part} {r : State} (s : State) (p q : Nat) (l : List TxFrame) (hl :
    [.macA, .macB] ⊆ lp) (h : Follows lp r s) : Follows lp r (State.setQueue s p q l) := by
  unfold State.setQueue
  repeat' first
    | with_reducible assumption | with_reducible apply State.modMac_follows | exact within hl rfl
    | with_reducible refine Follows.mkRegs ?_ hl ?_ ?_ | with_reducible exact id
    | (intro p hp; cases p <;> first | with_reducible rfl | exact absurd (List.elem_iff.mp rfl) hp)

theorem State.enqueue_follows {lp : List Part} {r : State} (s : State) (p q : Nat) (f : TxFrame) (hl : [.rc,
    .count, .macA, .macB] ⊆ lp) (h : Follows lp r s) : Follows lp r (State.enqueue s p q f) := by
  unfold State.enqueue
  repeat' first
    | with_reducible assumption | with_reducible apply Follows.ite | with_reducible apply State.setQueue_follows
    | with_reducible apply State.bump_follows | exact within hl rfl

theorem State.pauseRx_follows {lp : List Part} {r : State} (s : State) (p quanta : Nat) (hl : [.rc, .count, .macA,
    .macB] ⊆ lp) (h : Follows lp r s) : Follows lp r (State.pauseRx s p quanta) := by
  unfold State.pauseRx
  repeat' first
    | with_reducible assumption | with_reducible apply Follows.ite | with_reducible apply State.setMac_follows
    | with_reducible apply State.bump_follows | exact within hl rfl

theorem State.pfcRx_follows {lp : List Part} {r : State} (s : State) (p enables : Nat) (times : List Nat) (hl :
    [.rc, .count, .macA, .macB] ⊆ lp) (h : Follows lp r s) : Follows lp r (State.pfcRx s p enables times) := by
  unfold State.pfcRx
  repeat' first
    | with_reducible assumption | with_reducible apply Follows.ite | with_reducible apply State.setMac_follows
    | with_reducible apply State.bump_follows | exact within hl rfl

theorem State.pauseBreak_follows {lp : List Part} {r : State} (s : State) (p : Nat) (hl : [.rc, .count, .macA,
    .macB] ⊆ lp) (h : Follows lp r s) : Follows lp r (State.pauseBreak s p) := by
  unfold State.pauseBreak
  repeat' first
    | with_reducible assumption | with_reducible apply Follows.ite | with_reducible apply State.setMac_follows
    | with_reducible apply State.flag_follows | with_reducible apply State.bump_follows
    | with_reducible apply State.raise_follows | exact within hl rfl
    | with_reducible refine Follows.mkRegs ?_ hl ?_ ?_ | with_reducible exact id
    | (intro p hp; cases p <;> first | with_reducible rfl | exact absurd (List.elem_iff.mp rfl) hp)

theorem State.linkEvent_follows {lp : List Part} {r : State} (s : State) (p : Nat) (hl : [.rc] ⊆ lp) (h : Follows
    lp r s) : Follows lp r (State.linkEvent s p) := by
  unfold State.linkEvent
  repeat' first
    | with_reducible assumption | with_reducible apply State.flag_follows
    | with_reducible apply State.raise_follows | exact within hl rfl

theorem State.portFall_follows {lp : List Part} {r : State} (s : State) (p : Nat) (hl : [.rc, .count, .macA, .macB]
    ⊆ lp) (h : Follows lp r s) : Follows lp r (State.portFall s p) := by
  unfold State.portFall
  repeat' first
    | with_reducible assumption | with_reducible apply Follows.ite | with_reducible apply State.setMac_follows
    | with_reducible apply State.countBy_follows | with_reducible apply State.bump_follows
    | with_reducible apply State.linkEvent_follows | exact within hl rfl
    | with_reducible refine Follows.mkRegs ?_ hl ?_ ?_ | with_reducible exact id
    | (intro p hp; cases p <;> first | with_reducible rfl | exact absurd (List.elem_iff.mp rfl) hp)

theorem State.portRise_follows {lp : List Part} {r : State} (s : State) (p : Nat) (hl : [.rc, .macA, .macB] ⊆ lp)
    (h : Follows lp r s) : Follows lp r (State.portRise s p) := by
  unfold State.portRise
  repeat' first
    | with_reducible assumption | with_reducible apply Follows.ite | with_reducible apply State.setMac_follows
    | with_reducible apply State.linkEvent_follows | exact within hl rfl
    | with_reducible refine Follows.mkRegs ?_ hl ?_ ?_ | with_reducible exact id
    | (intro p hp; cases p <;> first | with_reducible rfl | exact absurd (List.elem_iff.mp rfl) hp)

theorem State.setRung_follows {lp : List Part} {r0 : State} (s : State) (p r : Nat) (hl : [.macA, .macB, .mdio] ⊆
    lp) (h : Follows lp r0 s) : Follows lp r0 (State.setRung s p r) := by
  unfold State.setRung
  repeat' first
    | with_reducible assumption | with_reducible apply State.modMac_follows
    | with_reducible apply State.runScript_follows | exact within hl rfl
    | with_reducible refine Follows.mkRegs ?_ hl ?_ ?_ | with_reducible exact id
    | (intro p hp; cases p <;> first | with_reducible rfl | exact absurd (List.elem_iff.mp rfl) hp)

theorem State.overbook_follows {lp : List Part} {r : State} (s : State) (p : Nat) (hl : [.rc, .macA, .macB] ⊆ lp)
    (h : Follows lp r s) : Follows lp r (State.overbook s p) := by
  unfold State.overbook
  repeat' first
    | with_reducible assumption | with_reducible apply Follows.ite | with_reducible apply State.setMac_follows
    | with_reducible apply State.flag_follows | with_reducible apply State.raise_follows | exact within hl rfl
    | with_reducible refine Follows.mkRegs ?_ hl ?_ ?_ | with_reducible exact id
    | (intro p hp; cases p <;> first | with_reducible rfl | exact absurd (List.elem_iff.mp rfl) hp)

theorem State.setCredits_follows {lp : List Part} {r : State} (s : State) (p : Nat) (a b : Int) (hl : [.macA,
    .macB] ⊆ lp) (h : Follows lp r s) : Follows lp r (State.setCredits s p a b) := by
  unfold State.setCredits
  repeat' first
    | with_reducible assumption | with_reducible apply State.modMac_follows | exact within hl rfl
    | with_reducible refine Follows.mkRegs ?_ hl ?_ ?_ | with_reducible exact id
    | (intro p hp; cases p <;> first | with_reducible rfl | exact absurd (List.elem_iff.mp rfl) hp) | assumption

theorem State.creditRun_follows {lp : List Part} {r : State} (s : State) (p n : Nat) (hl : [.macA, .macB] ⊆ lp) (h
    : Follows lp r s) : Follows lp r (State.creditRun s p n) := by
  unfold State.creditRun
  repeat' first
    | with_reducible assumption | with_reducible apply State.setCredits_follows | exact within hl rfl | assumption

theorem State.creditGap_follows {lp : List Part} {r : State} (s : State) (p q : Nat) (hl : [.macA, .macB] ⊆ lp) (h
    : Follows lp r s) : Follows lp r (State.creditGap s p q) := by
  unfold State.creditGap
  repeat' first
    | with_reducible assumption | with_reducible apply Follows.ite | with_reducible apply State.modMac_follows
    | exact within hl rfl | split | extract_lets | with_reducible refine Follows.mkRegs ?_ hl ?_ ?_
    | with_reducible exact id
    | (intro p hp; cases p <;> first | with_reducible rfl | exact absurd (List.elem_iff.mp rfl) hp) | assumption

theorem State.dropUnreserved_follows {lp : List Part} {r : State} (s : State) (p : Nat) (hl : [.rc, .count, .macA,
    .macB] ⊆ lp) (h : Follows lp r s) : Follows lp r (State.dropUnreserved s p) := by
  unfold State.dropUnreserved
  repeat' first
    | with_reducible assumption | with_reducible apply Follows.ite | with_reducible apply State.countBy_follows
    | with_reducible apply State.setQueue_follows | exact within hl rfl | (apply Follows.foldl; intro _ _ _)

theorem State.txStart_follows {lp : List Part} {r : State} (s : State) (p : Nat) (hl : [.rc, .count, .macA, .macB]
    ⊆ lp) (h : Follows lp r s) : Follows lp r (State.txStart s p) := by
  unfold State.txStart
  repeat' first
    | with_reducible assumption | with_reducible apply Follows.ite
    | with_reducible apply State.dropUnreserved_follows | with_reducible apply State.setQueue_follows
    | with_reducible apply State.modMac_follows | with_reducible apply State.setMac_follows | exact within hl rfl
    | (refine Follows.fst_of_eq (by assumption) ?_) | (refine Follows.snd_of_eq (by assumption) ?_) | split
    | with_reducible refine Follows.mkRegs ?_ hl ?_ ?_ | with_reducible exact id
    | (intro p hp; cases p <;> first | with_reducible rfl | exact absurd (List.elem_iff.mp rfl) hp)

theorem State.preempt_follows {lp : List Part} {r : State} (s : State) (p n : Nat) (hl : [.macA, .macB] ⊆ lp) (h :
    Follows lp r s) : Follows lp r (State.preempt s p n) := by
  unfold State.preempt
  repeat' first
    | with_reducible assumption | with_reducible apply Follows.ite | with_reducible apply State.setMac_follows
    | with_reducible apply State.emit_follows | exact within hl rfl | (refine Follows.fst_of_eq (by assumption) ?_)
    | (refine Follows.snd_of_eq (by assumption) ?_) | split | extract_lets
    | with_reducible refine Follows.mkRegs ?_ hl ?_ ?_ | with_reducible exact id
    | (intro p hp; cases p <;> first | with_reducible rfl | exact absurd (List.elem_iff.mp rfl) hp)

theorem State.txEnd_follows {lp : List Part} {r : State} (s : State) (p : Nat) (hl : [.rc, .count, .macA, .macB] ⊆
    lp) (h : Follows lp r s) : Follows lp r (State.txEnd s p) := by
  unfold State.txEnd
  repeat' first
    | with_reducible assumption | with_reducible apply Follows.ite | with_reducible apply State.modMac_follows
    | with_reducible apply State.creditGap_follows | with_reducible apply State.emit_follows
    | with_reducible apply State.bump_follows | with_reducible apply State.countBy_follows | exact within hl rfl
    | (refine Follows.fst_of_eq (by assumption) ?_) | (refine Follows.snd_of_eq (by assumption) ?_) | split
    | with_reducible refine Follows.mkRegs ?_ hl ?_ ?_ | with_reducible exact id
    | (intro p hp; cases p <;> first | with_reducible rfl | exact absurd (List.elem_iff.mp rfl) hp)

theorem State.verifySend_follows {lp : List Part} {r : State} (s : State) (p : Nat) (hl : [.rc, .macA, .macB] ⊆ lp)
    (h : Follows lp r s) : Follows lp r (State.verifySend s p) := by
  unfold State.verifySend
  repeat' first
    | with_reducible assumption | with_reducible apply Follows.ite | with_reducible apply State.setMac_follows
    | with_reducible apply State.emit_follows | with_reducible apply State.flag_follows
    | with_reducible apply State.raise_follows | exact within hl rfl
    | with_reducible refine Follows.mkRegs ?_ hl ?_ ?_ | with_reducible exact id
    | (intro p hp; cases p <;> first | with_reducible rfl | exact absurd (List.elem_iff.mp rfl) hp)

theorem State.verifyResponse_follows {lp : List Part} {r : State} (s : State) (p : Nat) (hl : [.macA, .macB] ⊆ lp)
    (h : Follows lp r s) : Follows lp r (State.verifyResponse s p) := by
  unfold State.verifyResponse
  repeat' first
    | with_reducible assumption | with_reducible apply Follows.ite | with_reducible apply State.modMac_follows
    | exact within hl rfl | with_reducible refine Follows.mkRegs ?_ hl ?_ ?_ | with_reducible exact id
    | (intro p hp; cases p <;> first | with_reducible rfl | exact absurd (List.elem_iff.mp rfl) hp)

theorem State.reverify_follows {lp : List Part} {r : State} (s : State) (p : Nat) (hl : [.macA, .macB] ⊆ lp) (h :
    Follows lp r s) : Follows lp r (State.reverify s p) := by
  unfold State.reverify
  repeat' first
    | with_reducible assumption | with_reducible apply Follows.ite | with_reducible apply State.modMac_follows
    | exact within hl rfl | with_reducible refine Follows.mkRegs ?_ hl ?_ ?_ | with_reducible exact id
    | (intro p hp; cases p <;> first | with_reducible rfl | exact absurd (List.elem_iff.mp rfl) hp)

theorem State.wakeFrame_follows {lp : List Part} {r : State} (s : State) (p : Nat) (b : List Byte) (hl : [.rc] ⊆
    lp) (h : Follows lp r s) : Follows lp r (State.wakeFrame s p b) := by
  unfold State.wakeFrame
  repeat' first
    | with_reducible assumption | with_reducible apply State.setRc_follows
    | with_reducible apply State.flag_follows | with_reducible apply State.raise_follows | exact within hl rfl
    | (refine Follows.fst_of_eq (by assumption) ?_) | (refine Follows.snd_of_eq (by assumption) ?_) | split

end Sys2Proof.Machine
end

