-- ==== Sys2Proof/Laws/FollowsStx.lean ====
section
/-! SUPPORT. What each operation of Machine/Stx.lean does to the state as a whole (Follows). -/

set_option linter.unusedTactic false
set_option linter.unreachableTactic false

namespace Sys2Proof.Machine

theorem State.setStx_follows {lp : List Part} {r : State} (s : State) (c : Nat) (v : StxCtx) (hl : [.stx] ⊆ lp) (h
    : Follows lp r s) : Follows lp r (State.setStx s c v) := by
  unfold State.setStx
  repeat' first
    | with_reducible assumption | with_reducible refine Follows.mkRegs ?_ hl ?_ ?_ | with_reducible exact id
    | (intro p hp; cases p <;> first | with_reducible rfl | exact absurd (List.elem_iff.mp rfl) hp)
    | (refine fun ⟨_, _, _, _, _, _, _, _, _, _, _, _, _, _⟩ => ⟨?_, ?_, ?_, ?_, ?_, ?_, ?_, ?_, ?_, ?_, ?_, ?_, ?_, ?_⟩ <;> first
        | with_reducible assumption | exact swf_sset (by assumption) _ _ | exact swf_filter (by assumption) _ | rfl)

theorem State.stxRefuse_follows {lp : List Part} {r : State} (s : State) (c k : Nat) (hl : [.rc] ⊆ lp) (h : Follows
    lp r s) : Follows lp r (State.stxRefuse s c k) := by
  unfold State.stxRefuse
  repeat' first
    | with_reducible assumption | with_reducible apply State.setRc_follows
    | with_reducible apply State.flag_follows | with_reducible apply State.raise_follows | exact within hl rfl

theorem State.stxStart_follows {lp : List Part} {r : State} (s : State) (c p : Nat) (hl : [.rc, .stx] ⊆ lp) (h :
    Follows lp r s) : Follows lp r (State.stxStart s c p).1 := by
  unfold State.stxStart
  repeat' first
    | with_reducible assumption | with_reducible apply Follows.ite | with_reducible apply Follows.ite_fst
    | with_reducible apply State.stxRefuse_follows | with_reducible apply State.setStx_follows
    | exact within hl rfl | split | extract_lets | with_reducible refine Follows.mkRegs ?_ hl ?_ ?_
    | with_reducible exact id
    | (intro p hp; cases p <;> first | with_reducible rfl | exact absurd (List.elem_iff.mp rfl) hp)

theorem State.stxStartRange_follows {lp : List Part} {r : State} (s : State) (w : Word) (p : Nat) (hl : [.rc, .stx]
    ⊆ lp) (h : Follows lp r s) : Follows lp r (State.stxStartRange s w p).1 := by
  unfold State.stxStartRange
  repeat' first
    | with_reducible assumption | with_reducible apply State.stxStart_follows | exact within hl rfl
    | (apply Follows.foldl; intro _ _ _) | (apply Follows.foldl_fst; intro _ _ _)

theorem State.stxStop_follows {lp : List Part} {r : State} (s : State) (c : Nat) (hl : [.stx] ⊆ lp) (h : Follows lp
    r s) : Follows lp r (State.stxStop s c) := by
  unfold State.stxStop
  repeat' first
    | with_reducible assumption | with_reducible apply Follows.ite | with_reducible apply State.setStx_follows
    | exact within hl rfl | with_reducible refine Follows.mkRegs ?_ hl ?_ ?_ | with_reducible exact id
    | (intro p hp; cases p <;> first | with_reducible rfl | exact absurd (List.elem_iff.mp rfl) hp)

theorem State.stxStopRange_follows {lp : List Part} {r : State} (s : State) (w : Word) (hl : [.stx] ⊆ lp) (h :
    Follows lp r s) : Follows lp r (State.stxStopRange s w) := by
  unfold State.stxStopRange
  repeat' first
    | with_reducible assumption | with_reducible apply State.stxStop_follows | exact within hl rfl
    | (apply Follows.foldl; intro _ _ _)

theorem State.stxHalt_follows {lp : List Part} {r : State} (s : State) (c : Nat) (hl : [.stx] ⊆ lp) (h : Follows lp
    r s) : Follows lp r (State.stxHalt s c) := by
  unfold State.stxHalt
  repeat' first
    | with_reducible assumption | with_reducible apply State.setStx_follows | exact within hl rfl
    | with_reducible refine Follows.mkRegs ?_ hl ?_ ?_ | with_reducible exact id
    | (intro p hp; cases p <;> first | with_reducible rfl | exact absurd (List.elem_iff.mp rfl) hp)

theorem State.stxRateStop_follows {lp : List Part} {r : State} (s : State) (hl : [.rc, .stx] ⊆ lp) (h : Follows lp
    r s) : Follows lp r (State.stxRateStop s) := by
  unfold State.stxRateStop
  repeat' first
    | with_reducible assumption | with_reducible apply Follows.ite | with_reducible apply State.stxHalt_follows
    | with_reducible apply State.setStx_follows | with_reducible apply State.flag_follows | exact within hl rfl
    | (apply Follows.foldl; intro _ _ _) | split | extract_lets | with_reducible refine Follows.mkRegs ?_ hl ?_ ?_
    | with_reducible exact id
    | (intro p hp; cases p <;> first | with_reducible rfl | exact absurd (List.elem_iff.mp rfl) hp)

theorem State.stxStamp_follows {lp : List Part} {r : State} (s : State) (c : Nat) (hl : [.stx] ⊆ lp) (h : Follows
    lp r s) : Follows lp r (State.stxStamp s c) := by
  unfold State.stxStamp
  repeat' first
    | with_reducible assumption | with_reducible apply Follows.ite | with_reducible apply State.setStx_follows
    | exact within hl rfl | with_reducible refine Follows.mkRegs ?_ hl ?_ ?_ | with_reducible exact id
    | (intro p hp; cases p <;> first | with_reducible rfl | exact absurd (List.elem_iff.mp rfl) hp)

theorem State.stxCommit_follows {lp : List Part} {r : State} (s : State) (c : Nat) (st : Stamp) (samples : List
    (List Int)) (fenced : Bool) (full : List (Nat × Nat)) (p : Nat) (hl : [.rc, .count, .macA, .macB] ⊆ lp) (h :
    Follows lp r s) : Follows lp r (State.stxCommit s c st samples fenced full p) := by
  unfold State.stxCommit
  repeat' first
    | with_reducible assumption | with_reducible apply Follows.ite | with_reducible apply State.enqueue_follows
    | with_reducible apply State.bump_follows | with_reducible apply State.flag_follows
    | with_reducible apply State.raise_follows | exact within hl rfl

theorem State.stxSent_follows {lp : List Part} {r : State} (s : State) (c : Nat) (t : Nat) (hl : [.stx] ⊆ lp) (h :
    Follows lp r s) : Follows lp r (State.stxSent s c t) := by
  unfold State.stxSent
  repeat' first
    | with_reducible assumption | with_reducible apply Follows.ite | with_reducible apply State.stxHalt_follows
    | with_reducible apply State.setStx_follows | exact within hl rfl | split | extract_lets
    | with_reducible refine Follows.mkRegs ?_ hl ?_ ?_ | with_reducible exact id
    | (intro p hp; cases p <;> first | with_reducible rfl | exact absurd (List.elem_iff.mp rfl) hp) | assumption

theorem State.stxRow_follows {lp : List Part} {r : State} (s : State) (c : Nat) (fenced : Bool) (full : List (Nat ×
    Nat)) (row : List Int) (hl : [.rc, .count, .macA, .macB, .stx] ⊆ lp) (h : Follows lp r s) : Follows lp r
    (State.stxRow s c fenced full row) := by
  unfold State.stxRow
  repeat' first
    | with_reducible assumption | with_reducible apply Follows.ite | with_reducible apply State.setStx_follows
    | with_reducible apply State.stxCommit_follows | with_reducible apply State.stxSent_follows
    | exact within hl rfl | (apply Follows.foldl; intro _ _ _) | (apply Follows.foldl_fst; intro _ _ _)
    | (refine Follows.fst_of_eq (by assumption) ?_) | (refine Follows.snd_of_eq (by assumption) ?_) | split
    | with_reducible refine Follows.mkRegs ?_ hl ?_ ?_ | with_reducible exact id
    | (intro p hp; cases p <;> first | with_reducible rfl | exact absurd (List.elem_iff.mp rfl) hp)

theorem State.stxWord_follows {lp : List Part} {r : State} (s : State) (c i n : Nat) (fenced : Bool) (poison : List
    (Nat × Nat × Nat)) (hl : [.rc, .count, .stx] ⊆ lp) (h : Follows lp r s) : Follows lp r (State.stxWord s c i n
    fenced poison).1 := by
  unfold State.stxWord
  repeat' first
    | with_reducible assumption | with_reducible apply Follows.ite | with_reducible apply Follows.ite_fst
    | with_reducible apply State.bump_follows | with_reducible apply State.flag_follows
    | with_reducible apply State.setStx_follows | exact within hl rfl | split
    | with_reducible refine Follows.mkRegs ?_ hl ?_ ?_ | with_reducible exact id
    | (intro p hp; cases p <;> first | with_reducible rfl | exact absurd (List.elem_iff.mp rfl) hp)

theorem State.stxSample_follows {lp : List Part} {r : State} (s : State) (fenced : Bool) (full : List (Nat × Nat))
    (poison : List (Nat × Nat × Nat)) (c n : Nat) (hl : [.rc, .count, .macA, .macB, .stx] ⊆ lp) (h : Follows lp r
    s) : Follows lp r (State.stxSample s fenced full poison c n) := by
  unfold State.stxSample
  repeat' first
    | with_reducible assumption | with_reducible apply Follows.ite | with_reducible apply State.stxHalt_follows
    | with_reducible apply State.stxWord_follows | with_reducible apply State.stxRow_follows | exact within hl rfl
    | (apply Follows.foldl; intro _ _ _) | (apply Follows.foldl_fst; intro _ _ _) | split | extract_lets
    | assumption

theorem State.stxEgress_follows {lp : List Part} {r : State} (s : State) (fenced : Bool) (full : List (Nat × Nat))
    (poison : List (Nat × Nat × Nat)) (c : Nat) (hl : [.rc, .count, .macA, .macB, .stx] ⊆ lp) (h : Follows lp r s)
    : Follows lp r (State.stxEgress s fenced full poison c) := by
  unfold State.stxEgress
  repeat' first
    | with_reducible assumption | with_reducible apply State.stxSample_follows | exact within hl rfl
    | (apply Follows.foldl; intro _ _ _) | (apply Follows.foldl_fst; intro _ _ _)

theorem State.stxTick_follows {lp : List Part} {r : State} (s : State) (fenced : Bool) (full : List (Nat × Nat))
    (poison : List (Nat × Nat × Nat)) (hl : [.rc, .count, .macA, .macB, .stx] ⊆ lp) (h : Follows lp r s) : Follows
    lp r (State.stxTick s fenced full poison) := by
  unfold State.stxTick
  repeat' first
    | with_reducible assumption | with_reducible apply State.stxEgress_follows | exact within hl rfl
    | (apply Follows.foldl; intro _ _ _)

theorem State.stxIngress_follows {lp : List Part} {r : State} (s : State) (hl : [.stx] ⊆ lp) (h : Follows lp r s) :
    Follows lp r (State.stxIngress s) := by
  unfold State.stxIngress
  repeat' first
    | with_reducible assumption | with_reducible apply State.stxStamp_follows | exact within hl rfl
    | (apply Follows.foldl; intro _ _ _)

theorem State.mrMark_follows {lp : List Part} {r : State} (s : State) (hl : [.stx] ⊆ lp) (h : Follows lp r s) :
    Follows lp r (State.mrMark s) := by
  unfold State.mrMark
  repeat' first
    | with_reducible assumption | with_reducible apply State.setStx_follows | exact within hl rfl
    | (apply Follows.foldl; intro _ _ _) | with_reducible refine Follows.mkRegs ?_ hl ?_ ?_
    | with_reducible exact id
    | (intro p hp; cases p <;> first | with_reducible rfl | exact absurd (List.elem_iff.mp rfl) hp)

theorem State.stxPaths_follows {lp : List Part} {r : State} (s : State) (hl : [.rc, .stx] ⊆ lp) (h : Follows lp r
    s) : Follows lp r (State.stxPaths s) := by
  unfold State.stxPaths
  repeat' first
    | with_reducible assumption | with_reducible apply Follows.ite | with_reducible apply State.setStx_follows
    | with_reducible apply State.flag_follows | with_reducible apply State.raise_follows | exact within hl rfl
    | (apply Follows.foldl; intro _ _ _) | with_reducible refine Follows.mkRegs ?_ hl ?_ ?_
    | with_reducible exact id
    | (intro p hp; cases p <;> first | with_reducible rfl | exact absurd (List.elem_iff.mp rfl) hp)

theorem State.resvShort_follows {lp : List Part} {r : State} (s old : State) (hl : [.rc] ⊆ lp) (h : Follows lp r s)
    (h1 : Follows lp r old) : Follows lp r (State.resvShort s old) := by
  unfold State.resvShort
  repeat' first
    | with_reducible assumption | with_reducible apply Follows.ite | with_reducible apply State.flag_follows
    | with_reducible apply State.raise_follows | exact within hl rfl | (apply Follows.foldl; intro _ _ _)

end Sys2Proof.Machine
end

