-- ==== Sys2Proof/Laws/FollowsPtp.lean ====
section
/-! SUPPORT. What each operation of Machine/Ptp.lean does to the state as a whole (Follows). -/

set_option linter.unusedTactic false
set_option linter.unreachableTactic false

namespace Sys2Proof.Machine

theorem State.ptpSend_follows {lp : List Part} {r : State} (s : State) (m : PtpMsg) (hl : [.rc, .count, .macA,
    .macB] ⊆ lp) (h : Follows lp r s) : Follows lp r (State.ptpSend s m) := by
  unfold State.ptpSend
  repeat' first
    | with_reducible assumption | with_reducible apply State.enqueue_follows | exact within hl rfl | assumption

theorem State.ptpStarted_follows {lp : List Part} {r : State} (s : State) (m : PtpMsg) (hl : [.rc, .count, .tim,
    .macA, .macB] ⊆ lp) (h : Follows lp r s) : Follows lp r (State.ptpStarted s m) := by
  unfold State.ptpStarted
  repeat' first
    | with_reducible assumption | with_reducible apply Follows.ite | with_reducible apply State.ptpSend_follows
    | with_reducible apply State.setReq_follows | exact within hl rfl
    | (refine Follows.fst_of_eq (by assumption) ?_) | (refine Follows.snd_of_eq (by assumption) ?_) | split
    | with_reducible refine Follows.mkRegs ?_ hl ?_ ?_ | with_reducible exact id
    | (intro p hp; cases p <;> first | with_reducible rfl | exact absurd (List.elem_iff.mp rfl) hp) | assumption

theorem State.ptpStart_follows {lp : List Part} {r : State} (s : State) (m : PtpMsg) (x : Instant) (hl : [.rc,
    .count, .tim, .macA, .macB] ⊆ lp) (h : Follows lp r s) : Follows lp r (State.ptpStart s m x) := by
  unfold State.ptpStart
  repeat' first
    | with_reducible assumption | with_reducible apply Follows.ite | with_reducible apply State.modMac_follows
    | with_reducible apply State.emit_follows | with_reducible apply State.ptpStarted_follows | exact within hl rfl
    | split | extract_lets | with_reducible refine Follows.mkRegs ?_ hl ?_ ?_ | with_reducible exact id
    | (intro p hp; cases p <;> first | with_reducible rfl | exact absurd (List.elem_iff.mp rfl) hp) | assumption

theorem State.syncTx_follows {lp : List Part} {r : State} (s : State) (i p : Nat) (hl : [.rc, .count, .macA, .macB]
    ⊆ lp) (h : Follows lp r s) : Follows lp r (State.syncTx s i p) := by
  unfold State.syncTx
  repeat' first
    | with_reducible assumption | with_reducible apply Follows.ite | with_reducible apply State.ptpSend_follows
    | exact within hl rfl

theorem State.announceTx_follows {lp : List Part} {r : State} (s : State) (i p : Nat) (hl : [.rc, .count, .macA,
    .macB] ⊆ lp) (h : Follows lp r s) : Follows lp r (State.announceTx s i p) := by
  unfold State.announceTx
  repeat' first
    | with_reducible assumption | with_reducible apply Follows.ite | with_reducible apply State.ptpSend_follows
    | exact within hl rfl

theorem State.delayTx_follows {lp : List Part} {r : State} (s : State) (i p : Nat) (hl : [.rc, .count, .macA,
    .macB] ⊆ lp) (h : Follows lp r s) : Follows lp r (State.delayTx s i p) := by
  unfold State.delayTx
  repeat' first
    | with_reducible assumption | with_reducible apply Follows.ite | with_reducible apply State.ptpSend_follows
    | exact within hl rfl

theorem State.delayAnswer_follows {lp : List Part} {r : State} (s : State) (i p : Nat) (x : Instant) (hl : [.rc,
    .count, .macA, .macB] ⊆ lp) (h : Follows lp r s) : Follows lp r (State.delayAnswer s i p x) := by
  unfold State.delayAnswer
  repeat' first
    | with_reducible assumption | with_reducible apply Follows.ite | with_reducible apply State.ptpSend_follows
    | exact within hl rfl | extract_lets

theorem State.ptpTake_follows {lp : List Part} {r : State} (s : State) (i p : Nat) (x : PtpRx) (hl : [.rc, .count,
    .tim, .mcr, .macA, .macB] ⊆ lp) (h : Follows lp r s) : Follows lp r (State.ptpTake s i p x) := by
  unfold State.ptpTake
  repeat' first
    | with_reducible assumption | with_reducible apply Follows.ite | with_reducible apply State.syncTimes_follows
    | with_reducible apply State.setInst_follows | with_reducible apply State.bmca_follows
    | with_reducible apply State.pdelayDone_follows | with_reducible apply State.delayDone_follows
    | with_reducible apply State.delayAnswer_follows | exact within hl rfl
    | (refine Follows.fst_of_eq (by assumption) ?_) | (refine Follows.snd_of_eq (by assumption) ?_) | split
    | extract_lets | with_reducible refine Follows.mkRegs ?_ hl ?_ ?_ | with_reducible exact id
    | (intro p hp; cases p <;> first | with_reducible rfl | exact absurd (List.elem_iff.mp rfl) hp) | assumption

theorem State.ptpRx_follows {lp : List Part} {r : State} (s : State) (p i : Nat) (x : PtpRx) (hl : [.rc, .count,
    .tim, .mcr, .macA, .macB] ⊆ lp) (h : Follows lp r s) : Follows lp r (State.ptpRx s p i x) := by
  unfold State.ptpRx
  repeat' first
    | with_reducible assumption | with_reducible apply Follows.ite | with_reducible apply State.ptpTake_follows
    | exact within hl rfl | split | extract_lets

end Sys2Proof.Machine
end

