-- ==== Sys2Proof/Laws/FollowsDpc.lean ====
section
/-! SUPPORT. What each operation of Machine/Dpc.lean does to the state as a whole (Follows). -/

set_option linter.unusedTactic false
set_option linter.unreachableTactic false

namespace Sys2Proof.Machine

theorem State.setDpc_follows {lp : List Part} {r : State} (s : State) (c : Nat) (v : DpcCtx) (hl : [.dpc] ⊆ lp) (h
    : Follows lp r s) : Follows lp r (State.setDpc s c v) := by
  unfold State.setDpc
  repeat' first
    | with_reducible assumption | with_reducible refine Follows.mkRegs ?_ hl ?_ ?_ | with_reducible exact id
    | (intro p hp; cases p <;> first | with_reducible rfl | exact absurd (List.elem_iff.mp rfl) hp)
    | (refine fun ⟨_, _, _, _, _, _, _, _, _, _, _, _, _, _⟩ => ⟨?_, ?_, ?_, ?_, ?_, ?_, ?_, ?_, ?_, ?_, ?_, ?_, ?_, ?_⟩ <;> first
        | with_reducible assumption | exact swf_sset (by assumption) _ _ | exact swf_filter (by assumption) _ | rfl)

theorem State.setPath_follows {lp : List Part} {r : State} (s : State) (c p st : Nat) (hl : [.rc, .dpc] ⊆ lp) (h :
    Follows lp r s) : Follows lp r (State.setPath s c p st) := by
  unfold State.setPath
  repeat' first
    | with_reducible assumption | with_reducible apply Follows.ite | with_reducible apply State.setDpc_follows
    | with_reducible apply State.flagRaise_follows | exact within hl rfl

theorem State.dpcStart_follows {lp : List Part} {r : State} (s : State) (c fmt : Nat) (hl : [.rc, .dpc] ⊆ lp) (h :
    Follows lp r s) : Follows lp r (State.dpcStart s c fmt) := by
  unfold State.dpcStart
  repeat' first
    | with_reducible assumption | with_reducible apply Follows.ite | with_reducible apply State.setDpc_follows
    | with_reducible apply State.setPath_follows | exact within hl rfl
    | with_reducible refine Follows.mkRegs ?_ hl ?_ ?_ | with_reducible exact id
    | (intro p hp; cases p <;> first | with_reducible rfl | exact absurd (List.elem_iff.mp rfl) hp)

theorem State.dpcStop_follows {lp : List Part} {r : State} (s : State) (c : Nat) (hl : [.rc, .dpc] ⊆ lp) (h :
    Follows lp r s) : Follows lp r (State.dpcStop s c) := by
  unfold State.dpcStop
  repeat' first
    | with_reducible assumption | with_reducible apply State.setDpc_follows
    | with_reducible apply State.setPath_follows | exact within hl rfl
    | with_reducible refine Follows.mkRegs ?_ hl ?_ ?_ | with_reducible exact id
    | (intro p hp; cases p <;> first | with_reducible rfl | exact absurd (List.elem_iff.mp rfl) hp)

theorem State.impair_follows {lp : List Part} {r : State} (s : State) (c p : Nat) (hl : [.rc, .dpc] ⊆ lp) (h :
    Follows lp r s) : Follows lp r (State.impair s c p) := by
  unfold State.impair
  repeat' first
    | with_reducible assumption | with_reducible apply Follows.ite | with_reducible apply State.setPath_follows
    | exact within hl rfl

theorem State.dpcSettle_follows {lp : List Part} {r : State} (s : State) (c d : Nat) (hl : [.rc, .count, .dpc] ⊆
    lp) (h : Follows lp r s) : Follows lp r (State.dpcSettle s c d) := by
  unfold State.dpcSettle
  repeat' first
    | with_reducible assumption | with_reducible apply Follows.ite | with_reducible apply State.countBy_follows
    | with_reducible apply State.impair_follows | with_reducible apply State.flagRaise_follows
    | exact within hl rfl

theorem State.dpcArrive_follows {lp : List Part} {r : State} (s0 : State) (c p x b ns : Nat) (first_ eccBad : Bool)
    (hl : [.rc, .count, .dpc, .sst] ⊆ lp) (h : Follows lp r s0) : Follows lp r (State.dpcArrive s0 c p x b ns
    first_ eccBad) := by
  unfold State.dpcArrive
  repeat' first
    | with_reducible assumption | with_reducible apply Follows.ite | with_reducible apply State.storeBad_follows
    | with_reducible apply State.setDpc_follows | with_reducible apply State.setRc_follows
    | with_reducible apply State.flag_follows | with_reducible apply State.raise_follows | exact within hl rfl
    | (refine Follows.fst_of_eq (by assumption) ?_) | (refine Follows.snd_of_eq (by assumption) ?_) | split
    | extract_lets | with_reducible refine Follows.mkRegs ?_ hl ?_ ?_ | with_reducible exact id
    | (intro p hp; cases p <;> first | with_reducible rfl | exact absurd (List.elem_iff.mp rfl) hp)

theorem State.dpcSeen_follows {lp : List Part} {r : State} (s : State) (c p : Nat) (hl : [.rc, .count, .dpc] ⊆ lp)
    (h : Follows lp r s) : Follows lp r (State.dpcSeen s c p) := by
  unfold State.dpcSeen
  repeat' first
    | with_reducible assumption | with_reducible apply Follows.ite | with_reducible apply State.bump_follows
    | with_reducible apply State.setPath_follows | exact within hl rfl | split | extract_lets | assumption

theorem State.dpcCopy_follows {lp : List Part} {r0 : State} (s : State) (c p x r ns : Nat) (eccBad : Bool) (hl :
    [.rc, .count, .dpc, .sst] ⊆ lp) (h : Follows lp r0 s) : Follows lp r0 (State.dpcCopy s c p x r ns eccBad).1 :=
    by
  unfold State.dpcCopy
  repeat' first
    | with_reducible assumption | with_reducible apply Follows.ite | with_reducible apply Follows.ite_fst
    | with_reducible apply State.dpcSeen_follows | with_reducible apply State.setDpc_follows
    | with_reducible apply State.dpcArrive_follows | with_reducible apply State.bump_follows
    | with_reducible apply State.dpcSettle_follows | with_reducible apply State.impair_follows
    | with_reducible apply State.flag_follows | exact within hl rfl | split | extract_lets
    | with_reducible refine Follows.mkRegs ?_ hl ?_ ?_ | with_reducible exact id
    | (intro p hp; cases p <;> first | with_reducible rfl | exact absurd (List.elem_iff.mp rfl) hp)

theorem State.dpcPoison_follows {lp : List Part} {r : State} (s : State) (c p : Nat) (hl : [.rc, .count, .dpc] ⊆
    lp) (h : Follows lp r s) : Follows lp r (State.dpcPoison s c p) := by
  unfold State.dpcPoison
  repeat' first
    | with_reducible assumption | with_reducible apply State.dpcSeen_follows
    | with_reducible apply State.bump_follows | exact within hl rfl

theorem State.windowReset_follows {lp : List Part} {r : State} (s : State) (c : Nat) (hl : [.rc, .dpc] ⊆ lp) (h :
    Follows lp r s) : Follows lp r (State.windowReset s c) := by
  unfold State.windowReset
  repeat' first
    | with_reducible assumption | with_reducible apply Follows.ite | with_reducible apply State.setDpc_follows
    | with_reducible apply State.flag_follows | exact within hl rfl
    | with_reducible refine Follows.mkRegs ?_ hl ?_ ?_ | with_reducible exact id
    | (intro p hp; cases p <;> first | with_reducible rfl | exact absurd (List.elem_iff.mp rfl) hp)

theorem State.pathLoss_follows {lp : List Part} {r : State} (s : State) (c p : Nat) (hl : [.rc, .dpc] ⊆ lp) (h :
    Follows lp r s) : Follows lp r (State.pathLoss s c p) := by
  unfold State.pathLoss
  repeat' first
    | with_reducible assumption | with_reducible apply Follows.ite | with_reducible apply State.setPath_follows
    | exact within hl rfl

theorem State.pathHealthy_follows {lp : List Part} {r : State} (s : State) (c p : Nat) (hl : [.rc, .dpc] ⊆ lp) (h :
    Follows lp r s) : Follows lp r (State.pathHealthy s c p) := by
  unfold State.pathHealthy
  repeat' first
    | with_reducible assumption | with_reducible apply Follows.ite | with_reducible apply State.setPath_follows
    | exact within hl rfl

theorem State.pathsDown_follows {lp : List Part} {r : State} (s : State) (p : Nat) (hl : [.rc, .dpc] ⊆ lp) (h :
    Follows lp r s) : Follows lp r (State.pathsDown s p) := by
  unfold State.pathsDown
  repeat' first
    | with_reducible assumption | with_reducible apply State.setPath_follows | exact within hl rfl
    | (apply Follows.foldl; intro _ _ _)

end Sys2Proof.Machine
end

