-- ==== Sys2Proof/Laws/FollowsSrx.lean ====
section
/-! SUPPORT. What each operation of Machine/Srx.lean does to the state as a whole (Follows). -/

set_option linter.unusedTactic false
set_option linter.unreachableTactic false

namespace Sys2Proof.Machine

theorem State.setSrx_follows {lp : List Part} {r : State} (s : State) (c : Nat) (v : SrxCtx) (hl : [.srx] ⊆ lp) (h
    : Follows lp r s) : Follows lp r (State.setSrx s c v) := by
  unfold State.setSrx
  repeat' first
    | with_reducible assumption | with_reducible refine Follows.mkRegs ?_ hl ?_ ?_ | with_reducible exact id
    | (intro p hp; cases p <;> first | with_reducible rfl | exact absurd (List.elem_iff.mp rfl) hp)
    | (refine fun ⟨_, _, _, _, _, _, _, _, _, _, _, _, _, _⟩ => ⟨?_, ?_, ?_, ?_, ?_, ?_, ?_, ?_, ?_, ?_, ?_, ?_, ?_, ?_⟩ <;> first
        | with_reducible assumption | exact swf_sset (by assumption) _ _ | exact swf_filter (by assumption) _ | rfl)

theorem State.setGrp_follows {lp : List Part} {r : State} (s : State) (g : Nat) (v : SrxGroup) (hl : [.srx] ⊆ lp)
    (h : Follows lp r s) : Follows lp r (State.setGrp s g v) := by
  unfold State.setGrp
  repeat' first
    | with_reducible assumption | with_reducible refine Follows.mkRegs ?_ hl ?_ ?_ | with_reducible exact id
    | (intro p hp; cases p <;> first | with_reducible rfl | exact absurd (List.elem_iff.mp rfl) hp)
    | (refine fun ⟨_, _, _, _, _, _, _, _, _, _, _, _, _, _⟩ => ⟨?_, ?_, ?_, ?_, ?_, ?_, ?_, ?_, ?_, ?_, ?_, ?_, ?_, ?_⟩ <;> first
        | with_reducible assumption | exact swf_sset (by assumption) _ _ | exact swf_filter (by assumption) _ | rfl)

theorem State.srxRefuse_follows {lp : List Part} {r : State} (s : State) (c k : Nat) (hl : [.rc] ⊆ lp) (h : Follows
    lp r s) : Follows lp r (State.srxRefuse s c k) := by
  unfold State.srxRefuse
  repeat' first
    | with_reducible assumption | with_reducible apply State.setRc_follows
    | with_reducible apply State.flag_follows | with_reducible apply State.raise_follows | exact within hl rfl

theorem State.srxStart_follows {lp : List Part} {r : State} (s : State) (c p : Nat) (hl : [.rc, .srx, .dpc] ⊆ lp)
    (h : Follows lp r s) : Follows lp r (State.srxStart s c p).1 := by
  unfold State.srxStart
  repeat' first
    | with_reducible assumption | with_reducible apply Follows.ite | with_reducible apply Follows.ite_fst
    | with_reducible apply State.srxRefuse_follows | with_reducible apply State.setGrp_follows
    | with_reducible apply State.setSrx_follows | with_reducible apply State.fresh_follows
    | with_reducible apply State.dpcStart_follows | exact within hl rfl | split | extract_lets
    | with_reducible refine Follows.mkRegs ?_ hl ?_ ?_ | with_reducible exact id
    | (intro p hp; cases p <;> first | with_reducible rfl | exact absurd (List.elem_iff.mp rfl) hp)

theorem State.srxStartRange_follows {lp : List Part} {r : State} (s : State) (w : Word) (p : Nat) (hl : [.rc, .srx,
    .dpc] ⊆ lp) (h : Follows lp r s) : Follows lp r (State.srxStartRange s w p).1 := by
  unfold State.srxStartRange
  repeat' first
    | with_reducible assumption | with_reducible apply State.srxStart_follows | exact within hl rfl
    | (apply Follows.foldl; intro _ _ _) | (apply Follows.foldl_fst; intro _ _ _)

theorem State.srxHalt_follows {lp : List Part} {r : State} (s : State) (c : Nat) (hl : [.rc, .srx, .dpc] ⊆ lp) (h :
    Follows lp r s) : Follows lp r (State.srxHalt s c) := by
  unfold State.srxHalt
  repeat' first
    | with_reducible assumption | with_reducible apply Follows.ite | with_reducible apply State.setSrx_follows
    | with_reducible apply State.dpcStop_follows | with_reducible apply State.setGrp_follows | exact within hl rfl
    | with_reducible refine Follows.mkRegs ?_ hl ?_ ?_ | with_reducible exact id
    | (intro p hp; cases p <;> first | with_reducible rfl | exact absurd (List.elem_iff.mp rfl) hp)

theorem State.srxStop_follows {lp : List Part} {r : State} (s : State) (c : Nat) (hl : [.srx] ⊆ lp) (h : Follows lp
    r s) : Follows lp r (State.srxStop s c) := by
  unfold State.srxStop
  repeat' first
    | with_reducible assumption | with_reducible apply Follows.ite | with_reducible apply State.setSrx_follows
    | exact within hl rfl | with_reducible refine Follows.mkRegs ?_ hl ?_ ?_ | with_reducible exact id
    | (intro p hp; cases p <;> first | with_reducible rfl | exact absurd (List.elem_iff.mp rfl) hp)

theorem State.srxStopRange_follows {lp : List Part} {r : State} (s : State) (w : Word) (hl : [.srx] ⊆ lp) (h :
    Follows lp r s) : Follows lp r (State.srxStopRange s w) := by
  unfold State.srxStopRange
  repeat' first
    | with_reducible assumption | with_reducible apply State.srxStop_follows | exact within hl rfl
    | (apply Follows.foldl; intro _ _ _)

theorem State.srxStopEnd_follows {lp : List Part} {r : State} (s : State) (c : Nat) (hl : [.rc, .srx, .dpc] ⊆ lp)
    (h : Follows lp r s) : Follows lp r (State.srxStopEnd s c) := by
  unfold State.srxStopEnd
  repeat' first
    | with_reducible assumption | with_reducible apply Follows.ite | with_reducible apply State.srxHalt_follows
    | exact within hl rfl

theorem State.srxRateStop_follows {lp : List Part} {r : State} (s : State) (hl : [.rc, .srx, .dpc] ⊆ lp) (h :
    Follows lp r s) : Follows lp r (State.srxRateStop s) := by
  unfold State.srxRateStop
  repeat' first
    | with_reducible assumption | with_reducible apply State.srxHalt_follows
    | with_reducible apply State.flag_follows | exact within hl rfl | (apply Follows.foldl; intro _ _ _)

theorem State.srxUnder_follows {lp : List Part} {r : State} (s : State) (c : Nat) (hl : [.rc, .srx] ⊆ lp) (h :
    Follows lp r s) : Follows lp r (State.srxUnder s c) := by
  unfold State.srxUnder
  repeat' first
    | with_reducible assumption | with_reducible apply Follows.ite | with_reducible apply State.setSrx_follows
    | with_reducible apply State.flagRaise_follows | exact within hl rfl
    | with_reducible refine Follows.mkRegs ?_ hl ?_ ?_ | with_reducible exact id
    | (intro p hp; cases p <;> first | with_reducible rfl | exact absurd (List.elem_iff.mp rfl) hp)

theorem State.srxFlush_follows {lp : List Part} {r : State} (s : State) (hl : [.rc, .srx] ⊆ lp) (h : Follows lp r
    s) : Follows lp r (State.srxFlush s) := by
  unfold State.srxFlush
  repeat' first
    | with_reducible assumption | with_reducible apply Follows.ite | with_reducible apply State.setSrx_follows
    | with_reducible apply State.srxUnder_follows | exact within hl rfl | (apply Follows.foldl; intro _ _ _)
    | with_reducible refine Follows.mkRegs ?_ hl ?_ ?_ | with_reducible exact id
    | (intro p hp; cases p <;> first | with_reducible rfl | exact absurd (List.elem_iff.mp rfl) hp)

theorem State.groupGo_follows {lp : List Part} {r : State} (s : State) (g : Nat) (hl : [.srx] ⊆ lp) (h : Follows lp
    r s) : Follows lp r (State.groupGo s g) := by
  unfold State.groupGo
  repeat' first
    | with_reducible assumption | with_reducible apply Follows.ite | with_reducible apply State.setSrx_follows
    | with_reducible apply State.setGrp_follows | exact within hl rfl | (apply Follows.foldl; intro _ _ _)
    | with_reducible refine Follows.mkRegs ?_ hl ?_ ?_ | with_reducible exact id
    | (intro p hp; cases p <;> first | with_reducible rfl | exact absurd (List.elem_iff.mp rfl) hp)

theorem State.groupTick_follows {lp : List Part} {r : State} (s : State) (g : Nat) (hl : [.srx] ⊆ lp) (h : Follows
    lp r s) : Follows lp r (State.groupTick s g) := by
  unfold State.groupTick
  repeat' first
    | with_reducible assumption | with_reducible apply Follows.ite | with_reducible apply State.groupGo_follows
    | with_reducible apply State.setGrp_follows | exact within hl rfl
    | with_reducible refine Follows.mkRegs ?_ hl ?_ ?_ | with_reducible exact id
    | (intro p hp; cases p <;> first | with_reducible rfl | exact absurd (List.elem_iff.mp rfl) hp)

theorem State.groupsTick_follows {lp : List Part} {r : State} (s : State) (hl : [.srx] ⊆ lp) (h : Follows lp r s) :
    Follows lp r (State.groupsTick s) := by
  unfold State.groupsTick
  repeat' first
    | with_reducible assumption | with_reducible apply State.groupTick_follows | exact within hl rfl
    | (apply Follows.foldl; intro _ _ _)

theorem State.groupTimeout_follows {lp : List Part} {r : State} (s : State) (g : Nat) (hl : [.rc, .srx] ⊆ lp) (h :
    Follows lp r s) : Follows lp r (State.groupTimeout s g) := by
  unfold State.groupTimeout
  repeat' first
    | with_reducible assumption | with_reducible apply Follows.ite | with_reducible apply State.srxUnder_follows
    | with_reducible apply State.groupGo_follows | with_reducible apply State.flagRaise_follows
    | exact within hl rfl | (apply Follows.foldl; intro _ _ _)

theorem State.srxEcc_follows {lp : List Part} {r : State} (s : State) (c l : Nat) (bad : List Nat) (hl : [.rc,
    .count, .sst] ⊆ lp) (h : Follows lp r s) : Follows lp r (State.srxEcc s c l bad) := by
  unfold State.srxEcc
  repeat' first
    | with_reducible assumption | with_reducible apply Follows.ite | with_reducible apply State.storeBad_follows
    | with_reducible apply State.countBy_follows | with_reducible apply State.flag_follows | exact within hl rfl
    | split | extract_lets | assumption

theorem State.srxLabel_follows {lp : List Part} {r : State} (s : State) (c l : Nat) (bad : List Nat) (hl : [.rc,
    .count, .srx, .sst] ⊆ lp) (h : Follows lp r s) : Follows lp r (State.srxLabel s c l bad).1 := by
  unfold State.srxLabel
  repeat' first
    | with_reducible assumption | with_reducible apply Follows.ite | with_reducible apply Follows.ite_fst
    | with_reducible apply State.fresh_follows | with_reducible apply State.setSrx_follows
    | with_reducible apply State.srxEcc_follows | with_reducible apply State.srxUnder_follows
    | with_reducible apply State.bump_follows | exact within hl rfl | (apply Follows.foldl; intro _ _ _)
    | (apply Follows.foldl_fst; intro _ _ _) | (refine Follows.fst_of_eq (by assumption) ?_)
    | (refine Follows.snd_of_eq (by assumption) ?_) | split | extract_lets
    | with_reducible refine Follows.mkRegs ?_ hl ?_ ?_ | with_reducible exact id
    | (intro p hp; cases p <;> first | with_reducible rfl | exact absurd (List.elem_iff.mp rfl) hp)

theorem State.srxGather_follows {lp : List Part} {r : State} (s : State) (bad : List (Nat × Nat × Nat)) (src : SMap
    (List Int)) (c : Nat) (hl : [.rc, .count, .srx, .sst] ⊆ lp) (h : Follows lp r s) : Follows lp r
    (State.srxGather s bad src c).1 := by
  unfold State.srxGather
  repeat' first
    | with_reducible assumption | with_reducible apply Follows.ite | with_reducible apply Follows.ite_fst
    | with_reducible apply State.srxLabel_follows | with_reducible apply State.setSrx_follows | exact within hl rfl
    | (apply Follows.foldl; intro _ _ _) | (apply Follows.foldl_fst; intro _ _ _)
    | with_reducible refine Follows.mkRegs ?_ hl ?_ ?_ | with_reducible exact id
    | (intro p hp; cases p <;> first | with_reducible rfl | exact absurd (List.elem_iff.mp rfl) hp)

theorem State.srxPresent_follows {lp : List Part} {r : State} (s : State) (bad : List (Nat × Nat × Nat)) (src :
    SMap (List Int)) (hl : [.rc, .count, .srx, .sst] ⊆ lp) (h : Follows lp r s) : Follows lp r (State.srxPresent s
    bad src).1 := by
  unfold State.srxPresent
  repeat' first
    | with_reducible assumption | with_reducible apply State.srxGather_follows | exact within hl rfl
    | (apply Follows.foldl; intro _ _ _) | (apply Follows.foldl_fst; intro _ _ _)

theorem State.srxSequence_follows {lp : List Part} {r : State} (s : State) (c : Nat) (k : Packet) (hl : [.rc,
    .count, .srx] ⊆ lp) (h : Follows lp r s) : Follows lp r (State.srxSequence s c k) := by
  unfold State.srxSequence
  repeat' first
    | with_reducible assumption | with_reducible apply Follows.ite | with_reducible apply State.setSrx_follows
    | with_reducible apply State.countBy_follows | exact within hl rfl
    | (refine Follows.fst_of_eq (by assumption) ?_) | (refine Follows.snd_of_eq (by assumption) ?_) | split
    | extract_lets | with_reducible refine Follows.mkRegs ?_ hl ?_ ?_ | with_reducible exact id
    | (intro p hp; cases p <;> first | with_reducible rfl | exact absurd (List.elem_iff.mp rfl) hp)

theorem State.srxSlew_follows {lp : List Part} {r : State} (s : State) (c om rep : Nat) (hl : [.rc] ⊆ lp) (h :
    Follows lp r s) : Follows lp r (State.srxSlew s c om rep) := by
  unfold State.srxSlew
  repeat' first
    | with_reducible assumption | with_reducible apply State.setRc_follows | exact within hl rfl

theorem State.srxFill_follows {lp : List Part} {r : State} (s : State) (c q m : Nat) (cs adj : Int) (hl : [.rc,
    .srx] ⊆ lp) (h : Follows lp r s) : Follows lp r (State.srxFill s c q m cs adj) := by
  unfold State.srxFill
  repeat' first
    | with_reducible assumption | with_reducible apply Follows.ite | with_reducible apply State.setSrx_follows
    | with_reducible apply State.srxSlew_follows | exact within hl rfl
    | (refine Follows.fst_of_eq (by assumption) ?_) | (refine Follows.snd_of_eq (by assumption) ?_) | split
    | extract_lets | with_reducible refine Follows.mkRegs ?_ hl ?_ ?_ | with_reducible exact id
    | (intro p hp; cases p <;> first | with_reducible rfl | exact absurd (List.elem_iff.mp rfl) hp)

theorem State.ctxUpdate_follows {lp : List Part} {r : State} (s : State) (mode c : Nat) (target : Int) (grains :
    Nat) (hl : [.mcr] ⊆ lp) (h : Follows lp r s) : Follows lp r (State.ctxUpdate s mode c target grains) := by
  unfold State.ctxUpdate
  repeat' first
    | with_reducible assumption | with_reducible apply Follows.ite | with_reducible apply State.modMcr_follows
    | exact within hl rfl | split | with_reducible refine Follows.mkRegs ?_ hl ?_ ?_ | with_reducible exact id
    | (intro p hp; cases p <;> first | with_reducible rfl | exact absurd (List.elem_iff.mp rfl) hp) | assumption

theorem State.srxStore_follows {lp : List Part} {r : State} (s : State) (c : Nat) (k : Packet) (grains : Nat)
    (poison : List Nat) (hl : [.rc, .count, .mcr, .srx] ⊆ lp) (h : Follows lp r s) : Follows lp r (State.srxStore s
    c k grains poison) := by
  unfold State.srxStore
  repeat' first
    | with_reducible assumption | with_reducible apply Follows.ite | with_reducible apply State.bump_follows
    | with_reducible apply State.flag_follows | with_reducible apply State.raise_follows
    | with_reducible apply State.srxFill_follows | with_reducible apply State.setSrx_follows
    | with_reducible apply State.setRc_follows | with_reducible apply State.srxSlew_follows
    | with_reducible apply State.ctxUpdate_follows | with_reducible apply State.countBy_follows
    | exact within hl rfl | (refine Follows.fst_of_eq (by assumption) ?_)
    | (refine Follows.snd_of_eq (by assumption) ?_) | with_reducible refine Follows.mkRegs ?_ hl ?_ ?_
    | with_reducible exact id
    | (intro p hp; cases p <;> first | with_reducible rfl | exact absurd (List.elem_iff.mp rfl) hp)

theorem State.srxBad_follows {lp : List Part} {r : State} (s : State) (c : Nat) (hl : [.rc, .count] ⊆ lp) (h :
    Follows lp r s) : Follows lp r (State.srxBad s c) := by
  unfold State.srxBad
  repeat' first
    | with_reducible assumption | with_reducible apply State.bump_follows | with_reducible apply State.flag_follows
    | exact within hl rfl

theorem State.srxPoison_follows {lp : List Part} {r : State} (s : State) (c : Nat) (hl : [.rc, .count] ⊆ lp) (h :
    Follows lp r s) : Follows lp r (State.srxPoison s c) := by
  unfold State.srxPoison
  repeat' first
    | with_reducible assumption | with_reducible apply State.bump_follows | with_reducible apply State.flag_follows
    | exact within hl rfl | assumption

theorem State.crfPacket_follows {lp : List Part} {r : State} (s : State) (c : Nat) (h : StreamHit) (b : List Byte)
    (grains : Nat) (poison : List Nat) (hl : [.rc, .count, .mcr] ⊆ lp) (hh : Follows lp r s) : Follows lp r
    (State.crfPacket s c h b grains poison) := by
  unfold State.crfPacket
  repeat' first
    | with_reducible assumption | with_reducible apply Follows.ite | with_reducible apply State.srxPoison_follows
    | with_reducible apply State.ctxUpdate_follows | with_reducible apply State.srxBad_follows
    | exact within hl rfl | (apply Follows.foldl; intro _ _ _) | (apply Follows.foldl_fst; intro _ _ _) | split
    | assumption

theorem State.srxPacket_follows {lp : List Part} {r : State} (s : State) (c : Nat) (h : StreamHit) (b : List Byte)
    (grains : Nat) (poison : List Nat) (hl : [.rc, .count, .mcr, .srx] ⊆ lp) (hh : Follows lp r s) : Follows lp r
    (State.srxPacket s c h b grains poison) := by
  unfold State.srxPacket
  extract_lets v w k
  clear_value v
  clear_value w
  clear_value k
  repeat' first
    | with_reducible assumption | with_reducible apply Follows.ite | with_reducible apply State.crfPacket_follows
    | with_reducible apply State.srxPoison_follows | with_reducible apply State.srxBad_follows
    | with_reducible apply State.flag_follows | with_reducible apply State.bump_follows
    | with_reducible apply State.srxSequence_follows | with_reducible apply State.srxStore_follows
    | exact within hl rfl | (refine Follows.fst_of_eq (by assumption) ?_)
    | (refine Follows.snd_of_eq (by assumption) ?_) | split | extract_lets | assumption

theorem State.srxFrame_follows {lp : List Part} {r : State} (s : State) (c p : Nat) (h : StreamHit) (b : List Byte)
    (grains ns : Nat) (poison : List Nat) (eccRec : Bool) (hl : [.rc, .count, .mcr, .srx, .dpc, .sst] ⊆ lp) (hh :
    Follows lp r s) : Follows lp r (State.srxFrame s c p h b grains ns poison eccRec) := by
  unfold State.srxFrame
  repeat' first
    | with_reducible assumption | with_reducible apply Follows.ite | with_reducible apply State.setSrx_follows
    | with_reducible apply State.dpcPoison_follows | with_reducible apply State.dpcCopy_follows
    | with_reducible apply State.srxPacket_follows | exact within hl rfl | split | extract_lets
    | with_reducible refine Follows.mkRegs ?_ hl ?_ ?_ | with_reducible exact id
    | (intro p hp; cases p <;> first | with_reducible rfl | exact absurd (List.elem_iff.mp rfl) hp)

end Sys2Proof.Machine
end

