-- ==== Sys2Proof/Laws/FollowsSdg.lean ====
section
/-! SUPPORT. What each operation of Machine/Sdg.lean does to the state as a whole (Follows). -/

set_option linter.unusedTactic false
set_option linter.unreachableTactic false

namespace Sys2Proof.Machine

theorem State.setMbox_follows {lp : List Part} {r : State} (s : State) (n : Nat) (v : Mailbox) (hl : [.mbox] ⊆ lp)
    (h : Follows lp r s) : Follows lp r (State.setMbox s n v) := by
  unfold State.setMbox
  repeat' first
    | with_reducible assumption | with_reducible refine Follows.mkRegs ?_ hl ?_ ?_ | with_reducible exact id
    | (intro p hp; cases p <;> first | with_reducible rfl | exact absurd (List.elem_iff.mp rfl) hp)
    | (refine fun ⟨_, _, _, _, _, _, _, _, _, _, _, _, _, _⟩ => ⟨?_, ?_, ?_, ?_, ?_, ?_, ?_, ?_, ?_, ?_, ?_, ?_, ?_, ?_⟩ <;> first
        | with_reducible assumption | exact swf_sset (by assumption) _ _ | exact swf_filter (by assumption) _ | rfl)

theorem State.sdgPoison_follows {lp : List Part} {r : State} (s : State) (n l k : Nat) (hl : [.rc, .count] ⊆ lp) (h
    : Follows lp r s) : Follows lp r (State.sdgPoison s n l k) := by
  unfold State.sdgPoison
  repeat' first
    | with_reducible assumption | with_reducible apply Follows.ite | with_reducible apply State.countBy_follows
    | with_reducible apply State.flag_follows | exact within hl rfl

theorem State.sdgOversize_follows {lp : List Part} {r : State} (s : State) (n k : Nat) (hl : [.rc, .count] ⊆ lp) (h
    : Follows lp r s) : Follows lp r (State.sdgOversize s n k) := by
  unfold State.sdgOversize
  repeat' first
    | with_reducible assumption | with_reducible apply State.bump_follows
    | with_reducible apply State.countBy_follows | with_reducible apply State.flag_follows | exact within hl rfl

theorem State.sdgRewind_follows {lp : List Part} {r : State} (s : State) (n : Nat) (hl : [.rc, .count] ⊆ lp) (h :
    Follows lp r s) : Follows lp r (State.sdgRewind s n) := by
  unfold State.sdgRewind
  repeat' first
    | with_reducible assumption | with_reducible apply State.bump_follows | exact within hl rfl

theorem State.mailSignal_follows {lp : List Part} {r : State} (s : State) (n : Nat) (hl : [.rc] ⊆ lp) (h : Follows
    lp r s) : Follows lp r (State.mailSignal s n) := by
  unfold State.mailSignal
  repeat' first
    | with_reducible assumption | with_reducible apply Follows.ite | with_reducible apply State.raise_follows
    | exact within hl rfl

theorem State.mboxAppend_follows {lp : List Part} {r : State} (s : State) (n : Nat) (w : Word) (ends : Bool) (hl :
    [.rc, .count, .mbox] ⊆ lp) (h : Follows lp r s) : Follows lp r (State.mboxAppend s n w ends) := by
  unfold State.mboxAppend
  repeat' first
    | with_reducible assumption | with_reducible apply Follows.ite | with_reducible apply State.setMbox_follows
    | with_reducible apply State.bump_follows | with_reducible apply State.flag_follows
    | with_reducible apply State.mailSignal_follows | exact within hl rfl
    | with_reducible refine Follows.mkRegs ?_ hl ?_ ?_ | with_reducible exact id
    | (intro p hp; cases p <;> first | with_reducible rfl | exact absurd (List.elem_iff.mp rfl) hp)

theorem State.mboxTake_follows {lp : List Part} {r : State} (s : State) (n : Nat) (hl : [.rc, .mbox] ⊆ lp) (h :
    Follows lp r s) : Follows lp r (State.mboxTake s n).2 := by
  unfold State.mboxTake
  repeat' first
    | with_reducible assumption | with_reducible apply Follows.ite | with_reducible apply Follows.ite_snd
    | with_reducible apply State.setMbox_follows | with_reducible apply State.flag_follows | exact within hl rfl
    | (refine Follows.fst_of_eq (by assumption) ?_) | (refine Follows.snd_of_eq (by assumption) ?_) | split
    | extract_lets | with_reducible refine Follows.mkRegs ?_ hl ?_ ?_ | with_reducible exact id
    | (intro p hp; cases p <;> first | with_reducible rfl | exact absurd (List.elem_iff.mp rfl) hp)

theorem State.mboxCheck_follows {lp : List Part} {r : State} (s before : State) (n : Nat) (parity marks : Bool) (hl
    : [.rc, .count, .mbox] ⊆ lp) (h : Follows lp r s) (h1 : Follows lp r before) : Follows lp r (State.mboxCheck s
    before n parity marks) := by
  unfold State.mboxCheck
  repeat' first
    | with_reducible assumption | with_reducible apply Follows.ite | with_reducible apply State.setMbox_follows
    | with_reducible apply State.sdgPoison_follows | exact within hl rfl | split | extract_lets
    | with_reducible refine Follows.mkRegs ?_ hl ?_ ?_ | with_reducible exact id
    | (intro p hp; cases p <;> first | with_reducible rfl | exact absurd (List.elem_iff.mp rfl) hp) | assumption

theorem State.mboxFlush_follows {lp : List Part} {r : State} (s : State) (n : Nat) (hl : [.mbox] ⊆ lp) (h : Follows
    lp r s) : Follows lp r (State.mboxFlush s n) := by
  unfold State.mboxFlush
  repeat' first
    | with_reducible assumption | with_reducible apply Follows.ite | with_reducible apply State.setMbox_follows
    | exact within hl rfl | with_reducible refine Follows.mkRegs ?_ hl ?_ ?_ | with_reducible exact id
    | (intro p hp; cases p <;> first | with_reducible rfl | exact absurd (List.elem_iff.mp rfl) hp)

theorem State.mboxFlushed_follows {lp : List Part} {r : State} (s : State) (n : Nat) (hl : [.mbox] ⊆ lp) (h :
    Follows lp r s) : Follows lp r (State.mboxFlushed s n) := by
  unfold State.mboxFlushed
  repeat' first
    | with_reducible assumption | with_reducible apply Follows.ite | with_reducible apply State.setMbox_follows
    | exact within hl rfl | with_reducible refine Follows.mkRegs ?_ hl ?_ ?_ | with_reducible exact id
    | (intro p hp; cases p <;> first | with_reducible rfl | exact absurd (List.elem_iff.mp rfl) hp)

theorem State.mboxFlushAll_follows {lp : List Part} {r : State} (s : State) (hl : [.mbox] ⊆ lp) (h : Follows lp r
    s) : Follows lp r (State.mboxFlushAll s) := by
  unfold State.mboxFlushAll
  repeat' first
    | with_reducible assumption | with_reducible apply State.mboxFlush_follows
    | with_reducible apply State.mboxFlushed_follows | exact within hl rfl | (apply Follows.foldl; intro _ _ _)

end Sys2Proof.Machine
end

