-- ==== Sys2Proof/Laws/FollowsRng.lean ====
section
/-! SUPPORT. What each operation of Machine/Rng.lean does to the state as a whole (Follows). -/

set_option linter.unusedTactic false
set_option linter.unreachableTactic false

namespace Sys2Proof.Machine

theorem State.setRing_follows {lp : List Part} {r0 : State} (s : State) (p : Nat) (r : Ring) (hl : [.ring] ⊆ lp) (h
    : Follows lp r0 s) : Follows lp r0 (State.setRing s p r) := by
  unfold State.setRing
  repeat' first
    | with_reducible assumption | with_reducible refine Follows.mkRegs ?_ hl ?_ ?_ | with_reducible exact id
    | (intro p hp; cases p <;> first | with_reducible rfl | exact absurd (List.elem_iff.mp rfl) hp)
    | (refine fun ⟨_, _, _, _, _, _, _, _, _, _, _, _, _, _⟩ => ⟨?_, ?_, ?_, ?_, ?_, ?_, ?_, ?_, ?_, ?_, ?_, ?_, ?_, ?_⟩ <;> first
        | with_reducible assumption | exact swf_sset (by assumption) _ _ | exact swf_filter (by assumption) _ | rfl)

theorem State.modRing_follows {lp : List Part} {r : State} (s : State) (p : Nat) (f : Ring → Ring) (hl : [.ring] ⊆
    lp) (h : Follows lp r s) : Follows lp r (State.modRing s p f) := by
  unfold State.modRing
  repeat' first
    | with_reducible assumption | with_reducible apply State.setRing_follows | exact within hl rfl

theorem State.ringEnable_follows {lp : List Part} {r : State} (s : State) (p : Nat) (hl : [.ring] ⊆ lp) (h :
    Follows lp r s) : Follows lp r (State.ringEnable s p) := by
  unfold State.ringEnable
  repeat' first
    | with_reducible assumption | with_reducible apply State.setRing_follows | exact within hl rfl

theorem State.ringOff_follows {lp : List Part} {r : State} (s : State) (p : Nat) (hl : [.ring, .cmd] ⊆ lp) (h :
    Follows lp r s) : Follows lp r (State.ringOff s p) := by
  unfold State.ringOff
  repeat' first
    | with_reducible assumption | with_reducible apply Follows.ite | with_reducible apply State.setRing_follows
    | exact within hl rfl | split | extract_lets | with_reducible refine Follows.mkRegs ?_ hl ?_ ?_
    | with_reducible exact id
    | (intro p hp; cases p <;> first | with_reducible rfl | exact absurd (List.elem_iff.mp rfl) hp)

theorem State.ringDisable_follows {lp : List Part} {r : State} (s : State) (p : Nat) (hl : [.macA, .macB, .ring,
    .cmd] ⊆ lp) (h : Follows lp r s) : Follows lp r (State.ringDisable s p) := by
  unfold State.ringDisable
  repeat' first
    | with_reducible assumption | with_reducible apply Follows.ite | with_reducible apply State.ringOff_follows
    | with_reducible apply State.modMac_follows | with_reducible apply State.setRing_follows | exact within hl rfl
    | (refine Follows.fst_of_eq (by assumption) ?_) | (refine Follows.snd_of_eq (by assumption) ?_) | split
    | extract_lets

theorem State.dbErr_follows {lp : List Part} {r : State} (s : State) (p : Nat) (hl : [.rc] ⊆ lp) (h : Follows lp r
    s) : Follows lp r (State.dbErr s p) := by
  unfold State.dbErr
  repeat' first
    | with_reducible assumption | with_reducible apply State.flag_follows
    | with_reducible apply State.raise_follows | exact within hl rfl

theorem State.doorbellPi_follows {lp : List Part} {r : State} (s : State) (p : Nat) (w : Word) (hl : [.rc, .ring] ⊆
    lp) (h : Follows lp r s) : Follows lp r (State.doorbellPi s p w) := by
  unfold State.doorbellPi
  repeat' first
    | with_reducible assumption | with_reducible apply Follows.ite | with_reducible apply State.dbErr_follows
    | with_reducible apply State.setRing_follows | exact within hl rfl

theorem State.doorbellCci_follows {lp : List Part} {r : State} (s : State) (p : Nat) (w : Word) (hl : [.rc, .ring]
    ⊆ lp) (h : Follows lp r s) : Follows lp r (State.doorbellCci s p w) := by
  unfold State.doorbellCci
  repeat' first
    | with_reducible assumption | with_reducible apply Follows.ite | with_reducible apply State.dbErr_follows
    | with_reducible apply State.setRing_follows | exact within hl rfl

theorem State.finish_follows {lp : List Part} {r : State} (s : State) (p i status detail : Nat) (r0 r1 : Word)
    (flags : Nat) (hl : [.ring] ⊆ lp) (h : Follows lp r s) : Follows lp r (State.finish s p i status detail r0 r1
    flags) := by
  unfold State.finish
  repeat' first
    | with_reducible assumption | with_reducible apply State.modRing_follows | exact within hl rfl

theorem State.ringSignal_follows {lp : List Part} {r : State} (s : State) (p : Nat) (hl : [.rc, .ring] ⊆ lp) (h :
    Follows lp r s) : Follows lp r (State.ringSignal s p) := by
  unfold State.ringSignal
  repeat' first
    | with_reducible assumption | with_reducible apply Follows.ite | with_reducible apply State.modRing_follows
    | with_reducible apply State.msgDue_follows | with_reducible apply State.flag_follows
    | with_reducible apply State.raise_follows | exact within hl rfl

theorem State.writeCpl_follows {lp : List Part} {r : State} (s : State) (p : Nat) (c : Cpl) (poison : Bool) (hl :
    [.rc, .count, .ring] ⊆ lp) (h : Follows lp r s) : Follows lp r (State.writeCpl s p c poison) := by
  unfold State.writeCpl
  repeat' first
    | with_reducible assumption | with_reducible apply Follows.ite | with_reducible apply State.emit_follows
    | with_reducible apply State.setRing_follows | with_reducible apply State.bump_follows
    | with_reducible apply State.sdgPoison_follows | with_reducible apply State.ringSignal_follows
    | exact within hl rfl

theorem State.runEnd_follows {lp : List Part} {r : State} (s : State) (p : Nat) (hl : [.ring, .cmd] ⊆ lp) (h :
    Follows lp r s) : Follows lp r (State.runEnd s p) := by
  unfold State.runEnd
  repeat' first
    | with_reducible assumption | with_reducible apply Follows.ite | with_reducible apply State.setRing_follows
    | with_reducible apply State.ringOff_follows | exact within hl rfl
    | (refine Follows.fst_of_eq (by assumption) ?_) | (refine Follows.snd_of_eq (by assumption) ?_) | split
    | extract_lets

theorem State.completionWrite_follows {lp : List Part} {r : State} (s : State) (p : Nat) (poison : Bool) (hl :
    [.rc, .count, .ring, .cmd] ⊆ lp) (h : Follows lp r s) : Follows lp r (State.completionWrite s p poison) := by
  unfold State.completionWrite
  extract_lets r head tag abandoned next
  clear_value r
  clear_value head
  clear_value tag
  clear_value abandoned
  clear_value next
  repeat' first
    | with_reducible assumption | with_reducible apply Follows.ite | with_reducible apply State.setRing_follows
    | with_reducible apply State.bump_follows | with_reducible apply State.writeCpl_follows
    | with_reducible apply State.modRing_follows | with_reducible apply State.raise_follows
    | with_reducible apply State.runEnd_follows | with_reducible apply State.ringOff_follows | exact within hl rfl
    | (refine Follows.fst_of_eq (by assumption) ?_) | (refine Follows.snd_of_eq (by assumption) ?_) | split
    | extract_lets | with_reducible refine Follows.mkRegs ?_ hl ?_ ?_ | with_reducible exact id
    | (intro p hp; cases p <;> first | with_reducible rfl | exact absurd (List.elem_iff.mp rfl) hp) | assumption

theorem State.ringHardstop_follows {lp : List Part} {r : State} (s : State) (p : Nat) (f : RingFault) (hl : [.rc,
    .macA, .macB, .ring] ⊆ lp) (h : Follows lp r s) : Follows lp r (State.ringHardstop s p f) := by
  unfold State.ringHardstop
  repeat' first
    | with_reducible assumption | with_reducible apply State.modMac_follows
    | with_reducible apply State.modRing_follows | with_reducible apply State.raise_follows | exact within hl rfl
    | extract_lets | with_reducible refine Follows.mkRegs ?_ hl ?_ ?_ | with_reducible exact id
    | (intro p hp; cases p <;> first | with_reducible rfl | exact absurd (List.elem_iff.mp rfl) hp) | assumption

theorem State.ringFault_follows {lp : List Part} {r : State} (s : State) (p : Nat) (f : RingFault) (hl : [.rc,
    .macA, .macB, .ring] ⊆ lp) (h : Follows lp r s) : Follows lp r (State.ringFault s p f) := by
  unfold State.ringFault
  repeat' first
    | with_reducible assumption | with_reducible apply Follows.ite
    | with_reducible apply State.ringHardstop_follows | with_reducible apply State.setRing_follows
    | exact within hl rfl | (refine Follows.fst_of_eq (by assumption) ?_)
    | (refine Follows.snd_of_eq (by assumption) ?_) | split | extract_lets

theorem State.cplErr_follows {lp : List Part} {r : State} (s : State) (cause : Nat) (hl : [.rc] ⊆ lp) (h : Follows
    lp r s) : Follows lp r (State.cplErr s cause) := by
  unfold State.cplErr
  repeat' first
    | with_reducible assumption | with_reducible apply Follows.ite | with_reducible apply State.flagRaise_follows
    | exact within hl rfl

theorem State.descErr_follows {lp : List Part} {r : State} (s : State) (p cause : Nat) (hl : [.rc, .macA, .macB,
    .ring] ⊆ lp) (h : Follows lp r s) : Follows lp r (State.descErr s p cause) := by
  unfold State.descErr
  repeat' first
    | with_reducible assumption | with_reducible apply Follows.ite | with_reducible apply State.cplErr_follows
    | with_reducible apply State.ringFault_follows | with_reducible apply State.modRing_follows
    | exact within hl rfl

theorem State.dmaErr_follows {lp : List Part} {r : State} (s : State) (p i off cause : Nat) (hl : [.rc, .macA,
    .macB, .ring] ⊆ lp) (h : Follows lp r s) : Follows lp r (State.dmaErr s p i off cause) := by
  unfold State.dmaErr
  repeat' first
    | with_reducible assumption | with_reducible apply Follows.ite | with_reducible apply State.cplErr_follows
    | with_reducible apply State.ringFault_follows | with_reducible apply State.modRing_follows
    | exact within hl rfl | (refine Follows.fst_of_eq (by assumption) ?_)
    | (refine Follows.snd_of_eq (by assumption) ?_) | split | extract_lets | assumption

theorem State.ringRestart_follows {lp : List Part} {r : State} (s : State) (p : Nat) (hl : [.ring] ⊆ lp) (h :
    Follows lp r s) : Follows lp r (State.ringRestart s p) := by
  unfold State.ringRestart
  repeat' first
    | with_reducible assumption | with_reducible apply Follows.ite | with_reducible apply State.setRing_follows
    | exact within hl rfl

theorem State.finishAll_follows {lp : List Part} {r : State} (s : State) (p status : Nat) (l : List Slot) (hl :
    [.ring] ⊆ lp) (h : Follows lp r s) : Follows lp r (State.finishAll s p status l) := by
  unfold State.finishAll
  repeat' first
    | with_reducible assumption | with_reducible apply State.finish_follows | exact within hl rfl
    | (apply Follows.foldl; intro _ _ _)

theorem State.ftxAccept_follows {lp : List Part} {r : State} (s : State) (p : Nat) (before : List Slot) (x : Slot)
    (hl : [.ring] ⊆ lp) (h : Follows lp r s) : Follows lp r (State.ftxAccept s p before x) := by
  unfold State.ftxAccept
  repeat' first
    | with_reducible assumption | with_reducible apply Follows.ite | with_reducible apply State.finishAll_follows
    | exact within hl rfl

theorem State.ftxCopy_follows {lp : List Part} {r : State} (s : State) (p : Nat) (run : List Slot) (hl : [.rc,
    .count, .macA, .macB, .ring] ⊆ lp) (h : Follows lp r s) : Follows lp r (State.ftxCopy s p run) := by
  unfold State.ftxCopy
  repeat' first
    | with_reducible assumption | with_reducible apply Follows.ite | with_reducible apply State.enqueue_follows
    | with_reducible apply State.modRing_follows | with_reducible apply State.finishAll_follows
    | exact within hl rfl

theorem ftxPump_follows {lp : List Part} {r : State} (hl : [.rc, .count, .macA, .macB, .ring, .ftxTurn] ⊆ lp) (port
    q k : Nat) (s : State) (h : Follows lp r s) : Follows lp r (ftxPump port q k s) := by
  induction k generalizing s with
  | zero => exact h
  | succ k ih =>
    unfold ftxPump
    extract_lets l turn
    split
    · exact h
    · exact ih _ (State.ftxCopy_follows _ _ _ (within hl rfl) (Follows.mkRegs h hl id (fun p hp => by
    cases p <;> first | with_reducible rfl | exact absurd (List.elem_iff.mp rfl) hp)))

theorem State.ftxPumpAll_follows {lp : List Part} {r : State} (s : State) (hl : [.rc, .count, .macA, .macB, .ring,
    .ftxTurn] ⊆ lp) (h : Follows lp r s) : Follows lp r (State.ftxPumpAll s) := by
  unfold State.ftxPumpAll
  repeat' first
    | with_reducible assumption | with_reducible apply ftxPump_follows | exact within hl rfl
    | (apply Follows.foldl; intro _ _ _)

theorem State.ftxDone_follows {lp : List Part} {r : State} (s : State) (f : TxFrame) (status : Nat) (hl : [.ring] ⊆
    lp) (h : Follows lp r s) : Follows lp r (State.ftxDone s f status) := by
  unfold State.ftxDone
  repeat' first
    | with_reducible assumption | with_reducible apply Follows.ite | with_reducible apply State.finish_follows
    | exact within hl rfl | (apply Follows.foldl; intro _ _ _)

theorem State.audStart_follows {lp : List Part} {r : State} (s : State) (p pos : Nat) (hl : [.ring] ⊆ lp) (h :
    Follows lp r s) : Follows lp r (State.audStart s p pos) := by
  unfold State.audStart
  repeat' first
    | with_reducible assumption | with_reducible apply Follows.ite | with_reducible apply State.modRing_follows
    | exact within hl rfl | split | extract_lets

theorem State.audStop_follows {lp : List Part} {r : State} (s : State) (p : Nat) (hl : [.ring] ⊆ lp) (h : Follows
    lp r s) : Follows lp r (State.audStop s p) := by
  unfold State.audStop
  repeat' first
    | with_reducible assumption | with_reducible apply Follows.ite | with_reducible apply State.modRing_follows
    | exact within hl rfl

theorem State.audRateStop_follows {lp : List Part} {r : State} (s : State) (hl : [.ring] ⊆ lp) (h : Follows lp r s)
    : Follows lp r (State.audRateStop s) := by
  unfold State.audRateStop
  repeat' first
    | with_reducible assumption | with_reducible apply Follows.ite | with_reducible apply State.modRing_follows
    | with_reducible apply State.finish_follows | exact within hl rfl | (apply Follows.foldl; intro _ _ _)

theorem State.feedAccept_follows {lp : List Part} {r : State} (s : State) (p : Nat) (x : Slot) (hl : [.rc, .count,
    .ring] ⊆ lp) (h : Follows lp r s) : Follows lp r (State.feedAccept s p x) := by
  unfold State.feedAccept
  repeat' first
    | with_reducible assumption | with_reducible apply Follows.ite | with_reducible apply State.finish_follows
    | with_reducible apply State.setRing_follows | with_reducible apply State.bump_follows
    | with_reducible apply State.flag_follows | with_reducible apply State.raise_follows
    | with_reducible apply State.modRing_follows | exact within hl rfl

theorem State.feedIssue_follows {lp : List Part} {r : State} (s : State) (p : Nat) (hl : [.ring] ⊆ lp) (h : Follows
    lp r s) : Follows lp r (State.feedIssue s p) := by
  unfold State.feedIssue
  repeat' first
    | with_reducible assumption | with_reducible apply Follows.ite | with_reducible apply State.modRing_follows
    | exact within hl rfl | (refine Follows.fst_of_eq (by assumption) ?_)
    | (refine Follows.snd_of_eq (by assumption) ?_) | split

theorem State.feedReturn_follows {lp : List Part} {r : State} (s : State) (p i : Nat) (bytes : List Byte) (hl :
    [.ring] ⊆ lp) (h : Follows lp r s) : Follows lp r (State.feedReturn s p i bytes) := by
  unfold State.feedReturn
  repeat' first
    | with_reducible assumption | with_reducible apply Follows.ite | with_reducible apply State.modRing_follows
    | exact within hl rfl | (refine Follows.fst_of_eq (by assumption) ?_)
    | (refine Follows.snd_of_eq (by assumption) ?_) | split | extract_lets

theorem State.ftxReturn_follows {lp : List Part} {r : State} (s : State) (p i : Nat) (bytes : List Byte) (hl :
    [.rc, .count, .macA, .macB, .ring, .ftxTurn] ⊆ lp) (h : Follows lp r s) : Follows lp r (State.ftxReturn s p i
    bytes) := by
  unfold State.ftxReturn
  repeat' first
    | with_reducible assumption | with_reducible apply Follows.ite | with_reducible apply State.modRing_follows
    | with_reducible apply State.ftxPumpAll_follows | exact within hl rfl
    | (refine Follows.fst_of_eq (by assumption) ?_) | (refine Follows.snd_of_eq (by assumption) ?_) | split

theorem State.feedLabel_follows {lp : List Part} {r : State} (s : State) (p k l : Nat) (bad : List Nat) (hl : [.rc,
    .count, .ring] ⊆ lp) (h : Follows lp r s) : Follows lp r (State.feedLabel s p k l bad).1 := by
  unfold State.feedLabel
  repeat' first
    | with_reducible assumption | with_reducible apply Follows.ite | with_reducible apply Follows.ite_fst
    | with_reducible apply State.setRing_follows | with_reducible apply State.countBy_follows
    | with_reducible apply State.flag_follows | with_reducible apply State.sdgPoison_follows
    | with_reducible apply State.finish_follows | with_reducible apply State.bump_follows
    | with_reducible apply State.raise_follows | with_reducible apply State.modRing_follows | exact within hl rfl
    | (apply Follows.foldl; intro _ _ _) | (apply Follows.foldl_fst; intro _ _ _)
    | (refine Follows.fst_of_eq (by assumption) ?_) | (refine Follows.snd_of_eq (by assumption) ?_) | split
    | extract_lets

theorem State.feedSliceTick_follows {lp : List Part} {r : State} (s : State) (p : Nat) (bad : List (Nat × Nat ×
    Nat)) (src : SMap (List Int)) (k : Nat) (hl : [.rc, .count, .ring] ⊆ lp) (h : Follows lp r s) : Follows lp r
    (State.feedSliceTick s p bad src k).1 := by
  unfold State.feedSliceTick
  repeat' first
    | with_reducible assumption | with_reducible apply Follows.ite | with_reducible apply Follows.ite_fst
    | with_reducible apply State.feedLabel_follows | with_reducible apply State.bump_follows
    | with_reducible apply State.flag_follows | with_reducible apply State.raise_follows | exact within hl rfl
    | (apply Follows.foldl; intro _ _ _) | (apply Follows.foldl_fst; intro _ _ _)

theorem State.feedPassed_follows {lp : List Part} {r : State} (s : State) (p : Nat) (hl : [.ring] ⊆ lp) (h :
    Follows lp r s) : Follows lp r (State.feedPassed s p) := by
  unfold State.feedPassed
  repeat' first
    | with_reducible assumption | with_reducible apply Follows.ite | with_reducible apply State.finish_follows
    | with_reducible apply State.modRing_follows | exact within hl rfl | (apply Follows.foldl; intro _ _ _)

theorem State.feedTick_follows {lp : List Part} {r : State} (s : State) (bad : List (Nat × Nat × Nat)) (src : SMap
    (List Int)) (hl : [.rc, .count, .ring] ⊆ lp) (h : Follows lp r s) : Follows lp r (State.feedTick s bad src).1
    := by
  unfold State.feedTick
  repeat' first
    | with_reducible assumption | with_reducible apply Follows.ite | with_reducible apply Follows.ite_fst
    | with_reducible apply State.feedSliceTick_follows | with_reducible apply State.feedPassed_follows
    | exact within hl rfl | (apply Follows.foldl; intro _ _ _) | (apply Follows.foldl_fst; intro _ _ _)

theorem State.feedStepped_follows {lp : List Part} {r : State} (s : State) (old new : Nat) (hl : [.ring] ⊆ lp) (h :
    Follows lp r s) : Follows lp r (State.feedStepped s old new) := by
  unfold State.feedStepped
  repeat' first
    | with_reducible assumption | with_reducible apply State.finish_follows
    | with_reducible apply State.modRing_follows | exact within hl rfl | (apply Follows.foldl; intro _ _ _)

theorem State.drawDone_follows {lp : List Part} {r : State} (s : State) (p k : Nat) (x : Slot) (status pos : Nat)
    (flags : Nat) (hl : [.ring] ⊆ lp) (h : Follows lp r s) : Follows lp r (State.drawDone s p k x status pos flags)
    := by
  unfold State.drawDone
  repeat' first
    | with_reducible assumption | with_reducible apply State.finish_follows | exact within hl rfl

theorem State.setSlice_follows {lp : List Part} {r : State} (s : State) (p k : Nat) (v : Slice) (hl : [.ring] ⊆ lp)
    (h : Follows lp r s) : Follows lp r (State.setSlice s p k v) := by
  unfold State.setSlice
  repeat' first
    | with_reducible assumption | with_reducible apply State.modRing_follows | exact within hl rfl

theorem State.drawLost_follows {lp : List Part} {r : State} (s : State) (p k pos : Nat) (step : Bool) (hl : [.rc,
    .count, .ring] ⊆ lp) (h : Follows lp r s) : Follows lp r (State.drawLost s p k pos step) := by
  unfold State.drawLost
  repeat' first
    | with_reducible assumption | with_reducible apply Follows.ite | with_reducible apply State.setSlice_follows
    | with_reducible apply State.bump_follows | with_reducible apply State.flag_follows
    | with_reducible apply State.raise_follows | exact within hl rfl

theorem drawVoids_follows {lp : List Part} {r : State} (hl : [.ring] ⊆ lp) (p k f : Nat) (s : State) (h : Follows
    lp r s) : Follows lp r (drawVoids p k f s) := by
  induction f generalizing s with
  | zero => exact h
  | succ f ih =>
    unfold drawVoids
    split
    · exact ih _ (State.setSlice_follows _ _ _ _ (within hl rfl) (State.drawDone_follows _ _ _ _ _ _ _ (within hl rfl) h))
    · exact h

theorem State.drawBlock_follows {lp : List Part} {r : State} (s : State) (p k pos : Nat) (step poison : Bool)
    (words : List Word) (hl : [.rc, .count, .ring] ⊆ lp) (h : Follows lp r s) : Follows lp r (State.drawBlock s p k
    pos step poison words) := by
  unfold State.drawBlock
  have ht := drawVoids_follows (within hl rfl) p k 70000 s h
  generalize drawVoids p k 70000 s = t at ht
  dsimp only
  repeat' first
    | with_reducible assumption | exact within hl rfl | with_reducible apply Follows.ite
    | with_reducible apply State.raise_follows | with_reducible apply State.flag_follows
    | with_reducible apply State.bump_follows | with_reducible apply State.emit_follows
    | with_reducible apply State.drawDone_follows
    | with_reducible apply State.drawLost_follows | split

theorem State.drawRow_follows {lp : List Part} {r : State} (s : State) (p k n : Nat) (bad : List Nat) (hl : [.rc,
    .count, .ring] ⊆ lp) (h : Follows lp r s) : Follows lp r (State.drawRow s p k n bad) := by
  unfold State.drawRow
  repeat' first
    | with_reducible assumption | with_reducible apply Follows.ite | with_reducible apply State.modRing_follows
    | with_reducible apply State.setSlice_follows | with_reducible apply State.countBy_follows
    | with_reducible apply State.flag_follows | with_reducible apply State.sdgPoison_follows
    | with_reducible apply State.drawBlock_follows | exact within hl rfl

theorem State.drawStopped_follows {lp : List Part} {r : State} (s : State) (p : Nat) (hl : [.ring] ⊆ lp) (h :
    Follows lp r s) : Follows lp r (State.drawStopped s p) := by
  unfold State.drawStopped
  repeat' first
    | with_reducible assumption | with_reducible apply Follows.ite | with_reducible apply State.setRing_follows
    | exact within hl rfl

theorem State.drawSample_follows {lp : List Part} {r : State} (s : State) (p n : Nat) (bad : List (Nat × Nat ×
    Nat)) (hl : [.rc, .count, .ring] ⊆ lp) (h : Follows lp r s) : Follows lp r (State.drawSample s p n bad) := by
  unfold State.drawSample
  repeat' first
    | with_reducible assumption | with_reducible apply Follows.ite | with_reducible apply State.drawRow_follows
    | with_reducible apply State.modRing_follows | exact within hl rfl | (apply Follows.foldl; intro _ _ _)
    | (apply Follows.foldl_fst; intro _ _ _) | split | extract_lets
    | with_reducible refine Follows.mkRegs ?_ hl ?_ ?_ | with_reducible exact id
    | (intro p hp; cases p <;> first | with_reducible rfl | exact absurd (List.elem_iff.mp rfl) hp) | assumption

theorem State.drawEgress_follows {lp : List Part} {r : State} (s : State) (p : Nat) (bad : List (Nat × Nat × Nat))
    (hl : [.rc, .count, .ring] ⊆ lp) (h : Follows lp r s) : Follows lp r (State.drawEgress s p bad) := by
  unfold State.drawEgress
  repeat' first
    | with_reducible assumption | with_reducible apply State.drawSample_follows
    | with_reducible apply State.modRing_follows | with_reducible apply State.drawStopped_follows
    | exact within hl rfl | (apply Follows.foldl; intro _ _ _) | (apply Follows.foldl_fst; intro _ _ _)
    | extract_lets | with_reducible refine Follows.mkRegs ?_ hl ?_ ?_ | with_reducible exact id
    | (intro p hp; cases p <;> first | with_reducible rfl | exact absurd (List.elem_iff.mp rfl) hp) | assumption

theorem State.drawTick_follows {lp : List Part} {r : State} (s : State) (bad : List (Nat × Nat × Nat)) (hl : [.rc,
    .count, .ring] ⊆ lp) (h : Follows lp r s) : Follows lp r (State.drawTick s bad) := by
  unfold State.drawTick
  repeat' first
    | with_reducible assumption | with_reducible apply State.drawEgress_follows | exact within hl rfl
    | (apply Follows.foldl; intro _ _ _)

theorem State.descFetch_follows {lp : List Part} {r : State} (s : State) (p : Nat) (dw : List Word) (hl : [.rc,
    .count, .ring] ⊆ lp) (h : Follows lp r s) : Follows lp r (State.descFetch s p dw) := by
  unfold State.descFetch
  repeat' first
    | with_reducible assumption | with_reducible apply Follows.ite | with_reducible apply State.setRing_follows
    | with_reducible apply State.ftxAccept_follows | with_reducible apply State.finish_follows
    | with_reducible apply State.feedAccept_follows | exact within hl rfl

theorem State.writeBuffers_follows {lp : List Part} {r : State} (hl : [.rc, .count, .ring] ⊆ lp) (p : Nat) (f :
    HostFrame) (l : List (Slot × Nat)) (o : Nat) (first : Bool) (s : State) (h : Follows lp r s) : Follows lp r
    (State.writeBuffers s p f o first l) := by
  induction l generalizing s o first with
  | nil => unfold State.writeBuffers; exact h
  | cons x l ih =>
    unfold State.writeBuffers
    extract_lets ends bad ep r0 r1 u v
    have hu : Follows lp r u := State.finish_follows _ _ _ _ _ _ _ _ (within hl rfl) (State.emit_follows _ _ h)
    have hv : Follows lp r v :=
      Follows.ite (State.flag_follows _ _ _ (within hl rfl) (State.bump_follows _ _ (within hl rfl) hu)) hu
    exact ih _ _ _ hv

theorem State.hostFrameWrite_follows {lp : List Part} {r : State} (s : State) (hl : [.rc, .count, .hrx, .ring] ⊆
    lp) (h : Follows lp r s) : Follows lp r (State.hostFrameWrite s) := by
  unfold State.hostFrameWrite
  repeat' first
    | with_reducible assumption | with_reducible apply Follows.ite | with_reducible apply State.bump_follows
    | with_reducible apply State.writeBuffers_follows | with_reducible apply State.sdgPoison_follows
    | exact within hl rfl | (refine Follows.fst_of_eq (by assumption) ?_)
    | (refine Follows.snd_of_eq (by assumption) ?_) | split | extract_lets
    | with_reducible refine Follows.mkRegs ?_ hl ?_ ?_ | with_reducible exact id
    | (intro p hp; cases p <;> first | with_reducible rfl | exact absurd (List.elem_iff.mp rfl) hp)

theorem State.hostFrameDrop_follows {lp : List Part} {r : State} (s : State) (hl : [.rc, .count, .hrx] ⊆ lp) (h :
    Follows lp r s) : Follows lp r (State.hostFrameDrop s) := by
  unfold State.hostFrameDrop
  repeat' first
    | with_reducible assumption | with_reducible apply Follows.ite | with_reducible apply State.bump_follows
    | with_reducible apply State.flag_follows | with_reducible apply State.raise_follows | exact within hl rfl
    | (refine Follows.fst_of_eq (by assumption) ?_) | (refine Follows.snd_of_eq (by assumption) ?_) | split
    | extract_lets | with_reducible refine Follows.mkRegs ?_ hl ?_ ?_ | with_reducible exact id
    | (intro p hp; cases p <;> first | with_reducible rfl | exact absurd (List.elem_iff.mp rfl) hp)

theorem State.toHrx_follows {lp : List Part} {r : State} (s : State) (f : HostFrame) (hl : [.hrx] ⊆ lp) (h :
    Follows lp r s) : Follows lp r (State.toHrx s f) := by
  unfold State.toHrx
  repeat' first
    | with_reducible assumption | with_reducible apply Follows.ite | (apply Follows.foldl; intro _ _ _)
    | (apply Follows.foldl_fst; intro _ _ _) | split | with_reducible refine Follows.mkRegs ?_ hl ?_ ?_
    | with_reducible exact id
    | (intro p hp; cases p <;> first | with_reducible rfl | exact absurd (List.elem_iff.mp rfl) hp)

end Sys2Proof.Machine
end

