-- ==== Sys2Proof/Laws/FollowsPorts.lean ====
section
/-! SUPPORT. What each operation of Machine/Ports.lean does to the state as a whole (Follows). -/

set_option linter.unusedTactic false
set_option linter.unreachableTactic false

namespace Sys2Proof.Machine

theorem State.setDpcPort_follows {lp : List Part} {r : State} (s : State) (p : Nat) (v : DpcPort) (hl : [.dpc] ⊆
    lp) (h : Follows lp r s) : Follows lp r (State.setDpcPort s p v) := by
  unfold State.setDpcPort
  repeat' first
    | with_reducible assumption | with_reducible apply Follows.ite | split
    | with_reducible refine Follows.mkRegs ?_ hl ?_ ?_ | with_reducible exact id
    | (intro p hp; cases p <;> first | with_reducible rfl | exact absurd (List.elem_iff.mp rfl) hp)

theorem State.modDpcPort_follows {lp : List Part} {r : State} (s : State) (p : Nat) (f : DpcPort → DpcPort) (hl :
    [.dpc] ⊆ lp) (h : Follows lp r s) : Follows lp r (State.modDpcPort s p f) := by
  unfold State.modDpcPort
  repeat' first
    | with_reducible assumption | with_reducible apply State.setDpcPort_follows | exact within hl rfl

theorem State.clrHold_follows {lp : List Part} {r : State} (s : State) (hl : [.dpc] ⊆ lp) (h : Follows lp r s) :
    Follows lp r (State.clrHold s) := by
  unfold State.clrHold
  repeat' first
    | with_reducible assumption | with_reducible apply State.modDpcPort_follows | exact within hl rfl
    | with_reducible refine Follows.mkRegs ?_ hl ?_ ?_ | with_reducible exact id
    | (intro p hp; cases p <;> first | with_reducible rfl | exact absurd (List.elem_iff.mp rfl) hp)

theorem State.holdCheck_follows {lp : List Part} {r : State} (s : State) (p : Nat) (hl : [.dpc] ⊆ lp) (h : Follows
    lp r s) : Follows lp r (State.holdCheck s p) := by
  unfold State.holdCheck
  repeat' first
    | with_reducible assumption | with_reducible apply Follows.ite | with_reducible apply State.modDpcPort_follows
    | exact within hl rfl | with_reducible refine Follows.mkRegs ?_ hl ?_ ?_ | with_reducible exact id
    | (intro p hp; cases p <;> first | with_reducible rfl | exact absurd (List.elem_iff.mp rfl) hp)

theorem State.ptpPortDown_follows {lp : List Part} {r : State} (s : State) (p i : Nat) (hl : [.rc, .tim, .mcr] ⊆
    lp) (h : Follows lp r s) : Follows lp r (State.ptpPortDown s p i) := by
  unfold State.ptpPortDown
  repeat' first
    | with_reducible assumption | with_reducible apply Follows.ite | with_reducible apply State.setInst_follows
    | with_reducible apply State.unsync_follows | with_reducible apply State.refLoss_follows | exact within hl rfl
    | with_reducible refine Follows.mkRegs ?_ hl ?_ ?_ | with_reducible exact id
    | (intro p hp; cases p <;> first | with_reducible rfl | exact absurd (List.elem_iff.mp rfl) hp)

theorem State.holdChecks_follows {lp : List Part} {r : State} (s : State) (hl : [.dpc] ⊆ lp) (h : Follows lp r s) :
    Follows lp r (State.holdChecks s) := by
  unfold State.holdChecks
  repeat' first
    | with_reducible assumption | with_reducible apply State.holdCheck_follows | exact within hl rfl | assumption

theorem State.takeDown_follows {lp : List Part} {r : State} (s : State) (p : Nat) (hl : [.rc, .count, .tim, .mcr,
    .macA, .macB, .dpc, .ring] ⊆ lp) (h : Follows lp r s) : Follows lp r (State.takeDown s p) := by
  unfold State.takeDown
  repeat' first
    | with_reducible assumption | with_reducible apply Follows.ite | with_reducible apply State.portFall_follows
    | with_reducible apply State.pathsDown_follows | with_reducible apply State.flag_follows
    | with_reducible apply State.ftxDone_follows | with_reducible apply State.ptpPortDown_follows
    | with_reducible apply State.holdChecks_follows | exact within hl rfl | (apply Follows.foldl; intro _ _ _)
    | split

theorem State.rungChange_follows {lp : List Part} {r0 : State} (s : State) (p r : Nat) (hl : [.rc, .count, .hstop,
    .tim, .mcr, .macA, .macB, .mdio, .dpc, .ring] ⊆ lp) (h : Follows lp r0 s) : Follows lp r0 (State.rungChange s p
    r) := by
  unfold State.rungChange
  repeat' first
    | with_reducible assumption | with_reducible apply Follows.ite | with_reducible apply State.takeDown_follows
    | with_reducible apply State.setRung_follows | with_reducible apply State.clearHstop_follows
    | with_reducible apply State.modMac_follows | exact within hl rfl
    | with_reducible refine Follows.mkRegs ?_ hl ?_ ?_ | with_reducible exact id
    | (intro p hp; cases p <;> first | with_reducible rfl | exact absurd (List.elem_iff.mp rfl) hp)

theorem State.dpcShift_follows {lp : List Part} {r0 : State} (s : State) (p r : Nat) (hl : [.rc, .count, .hstop,
    .tim, .mcr, .macA, .macB, .mdio, .dpc, .ring] ⊆ lp) (h : Follows lp r0 s) : Follows lp r0 (State.dpcShift s p
    r) := by
  unfold State.dpcShift
  repeat' first
    | with_reducible assumption | with_reducible apply Follows.ite | with_reducible apply State.rungChange_follows
    | with_reducible apply State.modMac_follows | exact within hl rfl | split | extract_lets
    | with_reducible refine Follows.mkRegs ?_ hl ?_ ?_ | with_reducible exact id
    | (intro p hp; cases p <;> first | with_reducible rfl | exact absurd (List.elem_iff.mp rfl) hp)

theorem State.shiftEnd_follows {lp : List Part} {r : State} (s : State) (hl : [.rc, .macA, .macB, .dpc] ⊆ lp) (h :
    Follows lp r s) : Follows lp r (State.shiftEnd s) := by
  unfold State.shiftEnd
  repeat' first
    | with_reducible assumption | with_reducible apply Follows.ite | with_reducible apply State.modMac_follows
    | with_reducible apply State.clrHold_follows | with_reducible apply State.flagRaise_follows
    | exact within hl rfl | split | extract_lets | with_reducible refine Follows.mkRegs ?_ hl ?_ ?_
    | with_reducible exact id
    | (intro p hp; cases p <;> first | with_reducible rfl | exact absurd (List.elem_iff.mp rfl) hp)

theorem State.shiftCheck_follows {lp : List Part} {r : State} (s : State) (hl : [.rc, .macA, .macB, .dpc] ⊆ lp) (h
    : Follows lp r s) : Follows lp r (State.shiftCheck s) := by
  unfold State.shiftCheck
  repeat' first
    | with_reducible assumption | with_reducible apply Follows.ite | with_reducible apply State.shiftEnd_follows
    | exact within hl rfl

theorem State.downshift_follows {lp : List Part} {r : State} (s : State) (hl : [.rc, .count, .hstop, .tim, .mcr,
    .macA, .macB, .mdio, .dpc, .ring] ⊆ lp) (h : Follows lp r s) : Follows lp r (State.downshift s) := by
  unfold State.downshift
  repeat' first
    | with_reducible assumption | with_reducible apply Follows.ite | with_reducible apply State.modDpcPort_follows
    | with_reducible apply State.dpcShift_follows | with_reducible apply State.holdChecks_follows
    | exact within hl rfl | (refine Follows.fst_of_eq (by assumption) ?_)
    | (refine Follows.snd_of_eq (by assumption) ?_) | split | with_reducible refine Follows.mkRegs ?_ hl ?_ ?_
    | with_reducible exact id
    | (intro p hp; cases p <;> first | with_reducible rfl | exact absurd (List.elem_iff.mp rfl) hp)

theorem State.dsNow_follows {lp : List Part} {r : State} (s : State) (p : Nat) (hl : [.rc, .dpc] ⊆ lp) (h : Follows
    lp r s) : Follows lp r (State.dsNow s p) := by
  unfold State.dsNow
  repeat' first
    | with_reducible assumption | with_reducible apply Follows.ite | with_reducible apply State.modDpcPort_follows
    | with_reducible apply State.flag_follows | exact within hl rfl
    | with_reducible refine Follows.mkRegs ?_ hl ?_ ?_ | with_reducible exact id
    | (intro p hp; cases p <;> first | with_reducible rfl | exact absurd (List.elem_iff.mp rfl) hp)

theorem State.dpcCtl_follows {lp : List Part} {r : State} (s : State) (w : Word) (hl : [.rc, .dpc] ⊆ lp) (h :
    Follows lp r s) : Follows lp r (State.dpcCtl s w) := by
  unfold State.dpcCtl
  repeat' first
    | with_reducible assumption | with_reducible apply Follows.ite | with_reducible apply State.clrHold_follows
    | with_reducible apply State.dsNow_follows | exact within hl rfl

theorem State.utilUpshift_follows {lp : List Part} {r : State} (s : State) (p : Nat) (hl : [.rc, .count, .hstop,
    .tim, .mcr, .macA, .macB, .mdio, .dpc, .ring] ⊆ lp) (h : Follows lp r s) : Follows lp r (State.utilUpshift s p)
    := by
  unfold State.utilUpshift
  repeat' first
    | with_reducible assumption | with_reducible apply Follows.ite | with_reducible apply State.dpcShift_follows
    | exact within hl rfl

theorem State.utilUpshifts_follows {lp : List Part} {r : State} (s : State) (hl : [.rc, .count, .hstop, .tim, .mcr,
    .macA, .macB, .mdio, .dpc, .ring] ⊆ lp) (h : Follows lp r s) : Follows lp r (State.utilUpshifts s) := by
  unfold State.utilUpshifts
  repeat' first
    | with_reducible assumption | with_reducible apply Follows.ite | with_reducible apply State.utilUpshift_follows
    | exact within hl rfl | split | assumption

theorem State.portSecond_follows {lp : List Part} {r : State} (s : State) (p : Nat) (hl : [.dpc] ⊆ lp) (h : Follows
    lp r s) : Follows lp r (State.portSecond s p) := by
  unfold State.portSecond
  repeat' first
    | with_reducible assumption | with_reducible apply Follows.ite | with_reducible apply State.modDpcPort_follows
    | exact within hl rfl | with_reducible refine Follows.mkRegs ?_ hl ?_ ?_ | with_reducible exact id
    | (intro p hp; cases p <;> first | with_reducible rfl | exact absurd (List.elem_iff.mp rfl) hp)

theorem State.dpcSecond_follows {lp : List Part} {r : State} (s : State) (hl : [.rc, .count, .hstop, .tim, .mcr,
    .macA, .macB, .mdio, .dpc, .ring] ⊆ lp) (h : Follows lp r s) : Follows lp r (State.dpcSecond s) := by
  unfold State.dpcSecond
  repeat' first
    | with_reducible assumption | with_reducible apply Follows.ite | with_reducible apply State.portSecond_follows
    | with_reducible apply State.utilUpshifts_follows | exact within hl rfl

theorem State.reservationUp_follows {lp : List Part} {r : State} (s : State) (p : Nat) (hl : [.rc, .count, .hstop,
    .tim, .mcr, .macA, .macB, .mdio, .dpc, .ring] ⊆ lp) (h : Follows lp r s) : Follows lp r (State.reservationUp s
    p) := by
  unfold State.reservationUp
  repeat' first
    | with_reducible assumption | with_reducible apply Follows.ite | with_reducible apply State.dpcShift_follows
    | with_reducible apply State.rungChange_follows | with_reducible apply State.modMac_follows
    | exact within hl rfl | (refine Follows.fst_of_eq (by assumption) ?_)
    | (refine Follows.snd_of_eq (by assumption) ?_) | split | with_reducible refine Follows.mkRegs ?_ hl ?_ ?_
    | with_reducible exact id
    | (intro p hp; cases p <;> first | with_reducible rfl | exact absurd (List.elem_iff.mp rfl) hp)

theorem State.overbookPort_follows {lp : List Part} {r : State} (s : State) (p : Nat) (hl : [.rc, .macA, .macB] ⊆
    lp) (h : Follows lp r s) : Follows lp r (State.overbookPort s p) := by
  unfold State.overbookPort
  repeat' first
    | with_reducible assumption | with_reducible apply State.overbook_follows
    | with_reducible apply State.resvShort_follows | exact within hl rfl

theorem State.latLoad_follows {lp : List Part} {r : State} (s : State) (p : Nat) (hl : [.rw] ⊆ lp) (h : Follows lp
    r s) : Follows lp r (State.latLoad s p) := by
  unfold State.latLoad
  repeat' first
    | with_reducible assumption | with_reducible apply Follows.ite | with_reducible apply State.setRw_follows
    | exact within hl rfl

theorem State.portUp_follows {lp : List Part} {r : State} (s : State) (p : Nat) (hl : [.rw, .rc, .macA, .macB,
    .dpc] ⊆ lp) (h : Follows lp r s) : Follows lp r (State.portUp s p) := by
  unfold State.portUp
  repeat' first
    | with_reducible assumption | with_reducible apply Follows.ite | with_reducible apply State.portRise_follows
    | with_reducible apply State.latLoad_follows | with_reducible apply State.clrHold_follows
    | with_reducible apply State.overbookPort_follows | with_reducible apply State.shiftCheck_follows
    | exact within hl rfl | split | extract_lets | assumption

theorem State.linkUp_follows {lp : List Part} {r : State} (s : State) (p : Nat) (hl : [.rw, .rc, .macA, .macB,
    .dpc] ⊆ lp) (h : Follows lp r s) : Follows lp r (State.linkUp s p) := by
  unfold State.linkUp
  repeat' first
    | with_reducible assumption | with_reducible apply Follows.ite | with_reducible apply State.modMac_follows
    | with_reducible apply State.portUp_follows | exact within hl rfl
    | with_reducible refine Follows.mkRegs ?_ hl ?_ ?_ | with_reducible exact id
    | (intro p hp; cases p <;> first | with_reducible rfl | exact absurd (List.elem_iff.mp rfl) hp)

theorem State.linkDown_follows {lp : List Part} {r : State} (s : State) (p : Nat) (hl : [.rc, .count, .tim, .mcr,
    .macA, .macB, .dpc, .ring] ⊆ lp) (h : Follows lp r s) : Follows lp r (State.linkDown s p) := by
  unfold State.linkDown
  repeat' first
    | with_reducible assumption | with_reducible apply Follows.ite | with_reducible apply State.takeDown_follows
    | with_reducible apply State.modMac_follows | exact within hl rfl
    | with_reducible refine Follows.mkRegs ?_ hl ?_ ?_ | with_reducible exact id
    | (intro p hp; cases p <;> first | with_reducible rfl | exact absurd (List.elem_iff.mp rfl) hp)

theorem State.retrainPort_follows {lp : List Part} {r : State} (s : State) (p : Nat) (hl : [.rc, .count, .hstop,
    .tim, .mcr, .macA, .macB, .mdio, .dpc, .ring] ⊆ lp) (h : Follows lp r s) : Follows lp r (State.retrainPort s p)
    := by
  unfold State.retrainPort
  repeat' first
    | with_reducible assumption | with_reducible apply Follows.ite | with_reducible apply State.rungChange_follows
    | exact within hl rfl

theorem State.retrainFail_follows {lp : List Part} {r : State} (s : State) (p : Nat) (hl : [.rc, .hstop, .macA,
    .macB, .mdio, .dpc] ⊆ lp) (h : Follows lp r s) : Follows lp r (State.retrainFail s p) := by
  unfold State.retrainFail
  repeat' first
    | with_reducible assumption | with_reducible apply Follows.ite | with_reducible apply State.flag_follows
    | with_reducible apply State.raise_follows | with_reducible apply State.flagRaise_follows
    | with_reducible apply State.setRung_follows | with_reducible apply State.shiftEnd_follows
    | with_reducible apply State.enterHstop_follows | exact within hl rfl | split | extract_lets
    | with_reducible refine Follows.mkRegs ?_ hl ?_ ?_ | with_reducible exact id
    | (intro p hp; cases p <;> first | with_reducible rfl | exact absurd (List.elem_iff.mp rfl) hp)

theorem State.pollDone_follows {lp : List Part} {r : State} (s : State) (p v : Nat) (hl : [.rw, .rc, .count, .tim,
    .mcr, .macA, .macB, .dpc, .ring] ⊆ lp) (h : Follows lp r s) : Follows lp r (State.pollDone s p v) := by
  unfold State.pollDone
  repeat' first
    | with_reducible assumption | with_reducible apply Follows.ite | with_reducible apply State.emit_follows
    | with_reducible apply State.modMac_follows | with_reducible apply State.takeDown_follows
    | with_reducible apply State.portUp_follows | exact within hl rfl | split | extract_lets
    | with_reducible refine Follows.mkRegs ?_ hl ?_ ?_ | with_reducible exact id
    | (intro p hp; cases p <;> first | with_reducible rfl | exact absurd (List.elem_iff.mp rfl) hp) | assumption

theorem State.mdioDone_follows {lp : List Part} {r : State} (s : State) (v : Nat) (hl : [.rw, .rc, .count, .tim,
    .mcr, .macA, .macB, .mdio, .dpc, .ring] ⊆ lp) (h : Follows lp r s) : Follows lp r (State.mdioDone s v) := by
  unfold State.mdioDone
  repeat' first
    | with_reducible assumption | with_reducible apply State.mdioSoftware_follows
    | with_reducible apply State.pollDone_follows | with_reducible apply State.mdioScript_follows
    | exact within hl rfl | (refine Follows.fst_of_eq (by assumption) ?_)
    | (refine Follows.snd_of_eq (by assumption) ?_) | split | with_reducible refine Follows.mkRegs ?_ hl ?_ ?_
    | with_reducible exact id
    | (intro p hp; cases p <;> first | with_reducible rfl | exact absurd (List.elem_iff.mp rfl) hp)

theorem State.frameSent_follows {lp : List Part} {r : State} (s : State) (p octets : Nat) (hl : [.rc, .count,
    .macA, .macB, .dpc, .ring, .ftxTurn] ⊆ lp) (h : Follows lp r s) : Follows lp r (State.frameSent s p octets) :=
    by
  unfold State.frameSent
  repeat' first
    | with_reducible assumption | with_reducible apply Follows.ite | with_reducible apply State.creditRun_follows
    | with_reducible apply State.txEnd_follows | with_reducible apply State.modDpcPort_follows
    | with_reducible apply State.ftxDone_follows | with_reducible apply State.ftxPumpAll_follows
    | exact within hl rfl | (refine Follows.fst_of_eq (by assumption) ?_)
    | (refine Follows.snd_of_eq (by assumption) ?_) | split | with_reducible refine Follows.mkRegs ?_ hl ?_ ?_
    | with_reducible exact id
    | (intro p hp; cases p <;> first | with_reducible rfl | exact absurd (List.elem_iff.mp rfl) hp)

theorem State.badFcs_follows {lp : List Part} {r : State} (s : State) (c : TxCur) (hl : [.rc, .count] ⊆ lp) (h :
    Follows lp r s) : Follows lp r (State.badFcs s c) := by
  unfold State.badFcs
  repeat' first
    | with_reducible assumption | with_reducible apply State.bump_follows | exact within hl rfl
    | (refine Follows.fst_of_eq (by assumption) ?_) | (refine Follows.snd_of_eq (by assumption) ?_) | split
    | assumption

theorem State.frameStart_follows {lp : List Part} {r : State} (s : State) (p octets bad : Nat) (i : Instant) (hl :
    [.rc, .count, .tim, .macA, .macB] ⊆ lp) (h : Follows lp r s) : Follows lp r (State.frameStart s p octets bad i)
    := by
  unfold State.frameStart
  repeat' first
    | with_reducible assumption | with_reducible apply Follows.ite | with_reducible apply State.creditRun_follows
    | with_reducible apply State.txStart_follows | with_reducible apply State.ptpStart_follows
    | with_reducible apply State.modMac_follows | with_reducible apply State.sdgPoison_follows
    | with_reducible apply State.badFcs_follows | exact within hl rfl
    | (refine Follows.fst_of_eq (by assumption) ?_) | (refine Follows.snd_of_eq (by assumption) ?_) | split
    | extract_lets | with_reducible refine Follows.mkRegs ?_ hl ?_ ?_ | with_reducible exact id
    | (intro p hp; cases p <;> first | with_reducible rfl | exact absurd (List.elem_iff.mp rfl) hp)

theorem State.keepPrev_follows {lp : List Part} {r : State} (s old : State) (p : Nat) (hl : [.macA, .macB] ⊆ lp) (h
    : Follows lp r s) (h1 : Follows lp r old) : Follows lp r (State.keepPrev s old p) := by
  unfold State.keepPrev
  repeat' first
    | with_reducible assumption | with_reducible apply State.modMac_follows | exact within hl rfl | extract_lets
    | with_reducible refine Follows.mkRegs ?_ hl ?_ ?_ | with_reducible exact id
    | (intro p hp; cases p <;> first | with_reducible rfl | exact absurd (List.elem_iff.mp rfl) hp)
    | with_reducible refine Follows.mkStores ?_ hl ?_ ?_ ?_
    | with_reducible exact id
    | (intro p hp; cases p <;> first | with_reducible rfl | exact absurd (List.elem_iff.mp rfl) hp)
    | (refine fun ⟨_, _, _, _, _, _, _, _, _, _, _⟩ => ⟨?_, ?_, ?_, ?_, ?_, ?_, ?_, ?_, ?_, ?_, ?_⟩
        <;> (try dsimp only) <;> first
          | with_reducible assumption | exact swf_replaceWhere (by assumption) _ _ | exact swf_sset (by assumption) _ _
          | exact swf_filter (by assumption) _ | assumption
          | exact fun p hp => (by assumption : ∀ p ∈ _, _) p (List.mem_of_mem_filter hp) | skip)
    | assumption

theorem State.macAdopt_follows {lp : List Part} {r : State} (s old : State) (p : Nat) (hl : [.rw, .rc, .count,
    .hstop, .tim, .mcr, .macA, .macB, .mdio, .dpc, .ring] ⊆ lp) (h : Follows lp r s) (h1 : Follows lp r old) :
    Follows lp r (State.macAdopt s old p) := by
  unfold State.macAdopt
  repeat' first
    | with_reducible assumption | with_reducible apply Follows.ite | with_reducible apply State.keepPrev_follows
    | with_reducible apply State.rungChange_follows | with_reducible apply State.modMac_follows
    | with_reducible apply State.modDpcPort_follows | with_reducible apply State.takeDown_follows
    | with_reducible apply State.reverify_follows | with_reducible apply State.portUp_follows
    | with_reducible apply State.overbook_follows | exact within hl rfl
    | with_reducible refine Follows.mkRegs ?_ hl ?_ ?_ | with_reducible exact id
    | (intro p hp; cases p <;> first | with_reducible rfl | exact absurd (List.elem_iff.mp rfl) hp)

end Sys2Proof.Machine
end

