-- ==== Sys2Proof/Laws/FollowsCls.lean ====
section
/-! SUPPORT. What each operation of Machine/Cls.lean does to the state as a whole (Follows). -/

set_option linter.unusedTactic false
set_option linter.unreachableTactic false

namespace Sys2Proof.Machine

theorem State.clsHost_follows {lp : List Part} {r : State} (s : State) (p : Nat) (h : FrameHead) (x : RxFrame) (hl
    : [.rc, .count, .hrx] ⊆ lp) (hh : Follows lp r s) : Follows lp r (State.clsHost s p h x) := by
  unfold State.clsHost
  repeat' first
    | with_reducible assumption | with_reducible apply Follows.ite | with_reducible apply State.toHrx_follows
    | with_reducible apply State.bump_follows | exact within hl rfl

theorem State.clsStream_follows {lp : List Part} {r : State} (s : State) (p : Nat) (h : FrameHead) (x : RxFrame)
    (hl : [.rc, .count, .mcr, .srx, .dpc, .hrx, .sst] ⊆ lp) (hh : Follows lp r s) : Follows lp r (State.clsStream s
    p h x) := by
  unfold State.clsStream
  extract_lets bad t hits mine
  clear_value bad
  have h_t : Follows lp r t := by
    repeat' first
      | with_reducible assumption | with_reducible apply Follows.ite | with_reducible apply State.raise_follows
      | with_reducible apply State.flagRaise_follows | with_reducible apply State.bump_follows
      | with_reducible apply State.modDpcPort_follows | with_reducible apply State.srxFrame_follows
      | with_reducible apply State.clsHost_follows | exact within hl rfl
      | (refine Follows.fst_of_eq (by assumption) ?_) | (refine Follows.snd_of_eq (by assumption) ?_) | split
      | extract_lets | with_reducible refine Follows.mkRegs ?_ hl ?_ ?_ | with_reducible exact id
      | (intro p hp; cases p <;> first | with_reducible rfl | exact absurd (List.elem_iff.mp rfl) hp) | assumption
  clear_value t
  clear_value hits
  clear_value mine
  repeat' first
    | with_reducible assumption | with_reducible apply Follows.ite | with_reducible apply State.raise_follows
    | with_reducible apply State.flagRaise_follows | with_reducible apply State.bump_follows
    | with_reducible apply State.modDpcPort_follows | with_reducible apply State.srxFrame_follows
    | with_reducible apply State.clsHost_follows | exact within hl rfl
    | (refine Follows.fst_of_eq (by assumption) ?_) | (refine Follows.snd_of_eq (by assumption) ?_) | split
    | extract_lets | with_reducible refine Follows.mkRegs ?_ hl ?_ ?_ | with_reducible exact id
    | (intro p hp; cases p <;> first | with_reducible rfl | exact absurd (List.elem_iff.mp rfl) hp) | assumption

theorem State.classify_follows {lp : List Part} {r : State} (s : State) (p : Nat) (x : RxFrame) (hl : [.rc, .count,
    .mcr, .srx, .dpc, .hrx, .sst] ⊆ lp) (h : Follows lp r s) : Follows lp r (State.classify s p x) := by
  unfold State.classify
  repeat' first
    | with_reducible assumption | with_reducible apply Follows.ite | with_reducible apply State.clsHost_follows
    | with_reducible apply State.clsStream_follows | exact within hl rfl

theorem State.frameRx_follows {lp : List Part} {r : State} (s : State) (p : Nat) (x : RxFrame) (hl : [.rc, .count,
    .mcr, .srx, .dpc, .hrx, .sst] ⊆ lp) (h : Follows lp r s) : Follows lp r (State.frameRx s p x) := by
  unfold State.frameRx
  repeat' first
    | with_reducible assumption | with_reducible apply Follows.ite | with_reducible apply State.emit_follows
    | with_reducible apply State.modDpcPort_follows | with_reducible apply State.bump_follows
    | with_reducible apply State.sdgOversize_follows | with_reducible apply State.sdgRewind_follows
    | with_reducible apply State.countBy_follows | with_reducible apply State.sdgPoison_follows
    | with_reducible apply State.wakeFrame_follows | with_reducible apply State.classify_follows
    | exact within hl rfl | (apply Follows.foldl; intro _ _ _) | (apply Follows.foldl_fst; intro _ _ _)
    | (refine Follows.fst_of_eq (by assumption) ?_) | (refine Follows.snd_of_eq (by assumption) ?_) | split
    | with_reducible refine Follows.mkRegs ?_ hl ?_ ?_ | with_reducible exact id
    | (intro p hp; cases p <;> first | with_reducible rfl | exact absurd (List.elem_iff.mp rfl) hp)

end Sys2Proof.Machine
end

