-- ==== Sys2Proof/Laws/FollowsSap.lean ====
section
/-! SUPPORT. What each operation of Machine/Sap.lean does to the state as a whole (Follows). -/

set_option linter.unusedTactic false
set_option linter.unreachableTactic false

namespace Sys2Proof.Machine

theorem State.setSap_follows {lp : List Part} {r : State} (s : State) (p : Nat) (v : Sap) (hl : [.sap] ⊆ lp) (h :
    Follows lp r s) : Follows lp r (State.setSap s p v) := by
  unfold State.setSap
  repeat' first
    | with_reducible assumption | with_reducible refine Follows.mkRegs ?_ hl ?_ ?_ | with_reducible exact id
    | (intro p hp; cases p <;> first | with_reducible rfl | exact absurd (List.elem_iff.mp rfl) hp)
    | (refine fun ⟨_, _, _, _, _, _, _, _, _, _, _, _, _, _⟩ => ⟨?_, ?_, ?_, ?_, ?_, ?_, ?_, ?_, ?_, ?_, ?_, ?_, ?_, ?_⟩ <;> first
        | with_reducible assumption | exact swf_sset (by assumption) _ _ | exact swf_filter (by assumption) _ | rfl)

theorem State.modSap_follows {lp : List Part} {r : State} (s : State) (p : Nat) (f : Sap → Sap) (hl : [.sap] ⊆ lp)
    (h : Follows lp r s) : Follows lp r (State.modSap s p f) := by
  unfold State.modSap
  repeat' first
    | with_reducible assumption | with_reducible apply State.setSap_follows | exact within hl rfl

theorem State.setCh_follows {lp : List Part} {r : State} (s : State) (n : Nat) (v : AsrcCh) (hl : [.asrc] ⊆ lp) (h
    : Follows lp r s) : Follows lp r (State.setCh s n v) := by
  unfold State.setCh
  repeat' first
    | with_reducible assumption | with_reducible refine Follows.mkRegs ?_ hl ?_ ?_ | with_reducible exact id
    | (intro p hp; cases p <;> first | with_reducible rfl | exact absurd (List.elem_iff.mp rfl) hp)
    | (refine fun ⟨_, _, _, _, _, _, _, _, _, _, _, _, _, _⟩ => ⟨?_, ?_, ?_, ?_, ?_, ?_, ?_, ?_, ?_, ?_, ?_, ?_, ?_, ?_⟩ <;> first
        | with_reducible assumption | exact swf_sset (by assumption) _ _ | exact swf_filter (by assumption) _ | rfl)

theorem State.setTrk_follows {lp : List Part} {r : State} (s : State) (p : Nat) (v : Tracker) (hl : [.asrc] ⊆ lp)
    (h : Follows lp r s) : Follows lp r (State.setTrk s p v) := by
  unfold State.setTrk
  repeat' first
    | with_reducible assumption | with_reducible refine Follows.mkRegs ?_ hl ?_ ?_ | with_reducible exact id
    | (intro p hp; cases p <;> first | with_reducible rfl | exact absurd (List.elem_iff.mp rfl) hp)
    | (refine fun ⟨_, _, _, _, _, _, _, _, _, _, _, _, _, _⟩ => ⟨?_, ?_, ?_, ?_, ?_, ?_, ?_, ?_, ?_, ?_, ?_, ?_, ?_, ?_⟩ <;> first
        | with_reducible assumption | exact swf_sset (by assumption) _ _ | exact swf_filter (by assumption) _ | rfl)

theorem State.asrcRefill_follows {lp : List Part} {r : State} (s : State) (n : Nat) (hl : [.asrc] ⊆ lp) (h :
    Follows lp r s) : Follows lp r (State.asrcRefill s n) := by
  unfold State.asrcRefill
  repeat' first
    | with_reducible assumption | with_reducible apply Follows.ite | with_reducible apply State.setCh_follows
    | exact within hl rfl | with_reducible refine Follows.mkRegs ?_ hl ?_ ?_ | with_reducible exact id
    | (intro p hp; cases p <;> first | with_reducible rfl | exact absurd (List.elem_iff.mp rfl) hp)

theorem State.asrcPort_follows {lp : List Part} {r : State} (s : State) (p : Nat) (hl : [.asrc] ⊆ lp) (h : Follows
    lp r s) : Follows lp r (State.asrcPort s p) := by
  unfold State.asrcPort
  repeat' first
    | with_reducible assumption | with_reducible apply State.asrcRefill_follows | exact within hl rfl
    | (apply Follows.foldl; intro _ _ _)

theorem State.asrcAll_follows {lp : List Part} {r : State} (s : State) (hl : [.asrc] ⊆ lp) (h : Follows lp r s) :
    Follows lp r (State.asrcAll s) := by
  unfold State.asrcAll
  repeat' first
    | with_reducible assumption | with_reducible apply State.asrcRefill_follows | exact within hl rfl
    | (apply Follows.foldl; intro _ _ _)

theorem State.asrcAdmitOne_follows {lp : List Part} {r : State} (s : State) (n : Nat) (hl : [.asrc] ⊆ lp) (h :
    Follows lp r s) : Follows lp r (State.asrcAdmitOne s n) := by
  unfold State.asrcAdmitOne
  repeat' first
    | with_reducible assumption | with_reducible apply Follows.ite | with_reducible apply State.setCh_follows
    | with_reducible apply State.asrcRefill_follows | exact within hl rfl | split | extract_lets
    | with_reducible refine Follows.mkRegs ?_ hl ?_ ?_ | with_reducible exact id
    | (intro p hp; cases p <;> first | with_reducible rfl | exact absurd (List.elem_iff.mp rfl) hp)

theorem State.asrcAdmit_follows {lp : List Part} {r : State} (s : State) (hl : [.rc, .asrc] ⊆ lp) (h : Follows lp r
    s) : Follows lp r (State.asrcAdmit s) := by
  unfold State.asrcAdmit
  repeat' first
    | with_reducible assumption | with_reducible apply Follows.ite
    | with_reducible apply State.asrcAdmitOne_follows | with_reducible apply State.flagRaise_follows
    | exact within hl rfl | (apply Follows.foldl; intro _ _ _) | (apply Follows.foldl_fst; intro _ _ _) | split
    | extract_lets | with_reducible refine Follows.mkRegs ?_ hl ?_ ?_ | with_reducible exact id
    | (intro p hp; cases p <;> first | with_reducible rfl | exact absurd (List.elem_iff.mp rfl) hp)

theorem State.trkTick_follows {lp : List Part} {r : State} (s : State) (hl : [.asrc] ⊆ lp) (h : Follows lp r s) :
    Follows lp r (State.trkTick s) := by
  unfold State.trkTick
  repeat' first
    | with_reducible assumption | with_reducible apply Follows.ite | with_reducible apply State.setTrk_follows
    | exact within hl rfl | (apply Follows.foldl; intro _ _ _) | with_reducible refine Follows.mkRegs ?_ hl ?_ ?_
    | with_reducible exact id
    | (intro p hp; cases p <;> first | with_reducible rfl | exact absurd (List.elem_iff.mp rfl) hp)

theorem State.asrcUnlockEvt_follows {lp : List Part} {r : State} (s : State) (hl : [.rc, .count] ⊆ lp) (h : Follows
    lp r s) : Follows lp r (State.asrcUnlockEvt s) := by
  unfold State.asrcUnlockEvt
  repeat' first
    | with_reducible assumption | with_reducible apply State.bump_follows
    | with_reducible apply State.flagRaise_follows | exact within hl rfl

theorem State.trkUnlock_follows {lp : List Part} {r : State} (s : State) (p : Nat) (hl : [.rc, .count, .asrc] ⊆ lp)
    (h : Follows lp r s) : Follows lp r (State.trkUnlock s p) := by
  unfold State.trkUnlock
  repeat' first
    | with_reducible assumption | with_reducible apply Follows.ite | with_reducible apply State.setTrk_follows
    | with_reducible apply State.asrcUnlockEvt_follows | with_reducible apply State.asrcPort_follows
    | exact within hl rfl | with_reducible refine Follows.mkRegs ?_ hl ?_ ?_ | with_reducible exact id
    | (intro p hp; cases p <;> first | with_reducible rfl | exact absurd (List.elem_iff.mp rfl) hp)

theorem State.trkRange_follows {lp : List Part} {r : State} (s : State) (p : Nat) (hl : [.rc, .asrc] ⊆ lp) (h :
    Follows lp r s) : Follows lp r (State.trkRange s p) := by
  unfold State.trkRange
  repeat' first
    | with_reducible assumption | with_reducible apply Follows.ite | with_reducible apply State.setTrk_follows
    | with_reducible apply State.flagRaise_follows | with_reducible apply State.asrcPort_follows
    | exact within hl rfl | with_reducible refine Follows.mkRegs ?_ hl ?_ ?_ | with_reducible exact id
    | (intro p hp; cases p <;> first | with_reducible rfl | exact absurd (List.elem_iff.mp rfl) hp)

theorem State.trkLock_follows {lp : List Part} {r : State} (s : State) (p ratio : Nat) (hl : [.asrc] ⊆ lp) (h :
    Follows lp r s) : Follows lp r (State.trkLock s p ratio) := by
  unfold State.trkLock
  repeat' first
    | with_reducible assumption | with_reducible apply Follows.ite | with_reducible apply State.setTrk_follows
    | with_reducible apply State.asrcPort_follows | exact within hl rfl

theorem State.asrcFadeIn_follows {lp : List Part} {r : State} (s : State) (n : Nat) (hl : [.asrc] ⊆ lp) (h :
    Follows lp r s) : Follows lp r (State.asrcFadeIn s n) := by
  unfold State.asrcFadeIn
  repeat' first
    | with_reducible assumption | with_reducible apply Follows.ite | with_reducible apply State.setCh_follows
    | exact within hl rfl | with_reducible refine Follows.mkRegs ?_ hl ?_ ?_ | with_reducible exact id
    | (intro p hp; cases p <;> first | with_reducible rfl | exact absurd (List.elem_iff.mp rfl) hp)

theorem State.asrcPoison_follows {lp : List Part} {r : State} (s : State) (n : Nat) (hl : [.rc, .count] ⊆ lp) (h :
    Follows lp r s) : Follows lp r (State.asrcPoison s n) := by
  unfold State.asrcPoison
  repeat' first
    | with_reducible assumption | with_reducible apply Follows.ite | with_reducible apply State.countBy_follows
    | with_reducible apply State.flag_follows | exact within hl rfl

theorem State.asrcRun_follows {lp : List Part} {r : State} (s : State) (c n l : Nat) (took : List Int) (bad : List
    Nat) (hl : [.rc, .count, .asrc] ⊆ lp) (h : Follows lp r s) : Follows lp r (State.asrcRun s c n l took bad).1 :=
    by
  unfold State.asrcRun
  repeat' first
    | with_reducible assumption | with_reducible apply Follows.ite | with_reducible apply Follows.ite_fst
    | with_reducible apply State.setCh_follows | with_reducible apply State.asrcPoison_follows
    | exact within hl rfl | with_reducible refine Follows.mkRegs ?_ hl ?_ ?_ | with_reducible exact id
    | (intro p hp; cases p <;> first | with_reducible rfl | exact absurd (List.elem_iff.mp rfl) hp)

theorem State.sapStop_follows {lp : List Part} {r : State} (s : State) (p : Nat) (hl : [.mix, .sap] ⊆ lp) (h :
    Follows lp r s) : Follows lp r (State.sapStop s p) := by
  unfold State.sapStop
  repeat' first
    | with_reducible assumption | with_reducible apply Follows.ite | with_reducible apply State.setSap_follows
    | with_reducible apply State.muteOn_follows | exact within hl rfl
    | with_reducible refine Follows.mkRegs ?_ hl ?_ ?_ | with_reducible exact id
    | (intro p hp; cases p <;> first | with_reducible rfl | exact absurd (List.elem_iff.mp rfl) hp)

theorem State.sapHalt_follows {lp : List Part} {r : State} (s : State) (p : Nat) (hl : [.mix, .sap, .asrc] ⊆ lp) (h
    : Follows lp r s) : Follows lp r (State.sapHalt s p) := by
  unfold State.sapHalt
  repeat' first
    | with_reducible assumption | with_reducible apply Follows.ite | with_reducible apply State.setSap_follows
    | with_reducible apply State.muteOn_follows | with_reducible apply State.asrcPort_follows | exact within hl rfl
    | with_reducible refine Follows.mkRegs ?_ hl ?_ ?_ | with_reducible exact id
    | (intro p hp; cases p <;> first | with_reducible rfl | exact absurd (List.elem_iff.mp rfl) hp)

theorem State.sapJudge_follows {lp : List Part} {r : State} (s : State) (p : Nat) (hl : [.rc, .sap] ⊆ lp) (h :
    Follows lp r s) : Follows lp r (State.sapJudge s p) := by
  unfold State.sapJudge
  repeat' first
    | with_reducible assumption | with_reducible apply Follows.ite | with_reducible apply State.setSap_follows
    | with_reducible apply State.flagRaise_follows | exact within hl rfl
    | with_reducible refine Follows.mkRegs ?_ hl ?_ ?_ | with_reducible exact id
    | (intro p hp; cases p <;> first | with_reducible rfl | exact absurd (List.elem_iff.mp rfl) hp)

theorem State.sapFormat_follows {lp : List Part} {r : State} (s : State) (p : Nat) (hl : [.rc, .sap] ⊆ lp) (h :
    Follows lp r s) : Follows lp r (State.sapFormat s p) := by
  unfold State.sapFormat
  repeat' first
    | with_reducible assumption | with_reducible apply Follows.ite | with_reducible apply State.setSap_follows
    | with_reducible apply State.sapJudge_follows | exact within hl rfl | split | extract_lets
    | with_reducible refine Follows.mkRegs ?_ hl ?_ ?_ | with_reducible exact id
    | (intro p hp; cases p <;> first | with_reducible rfl | exact absurd (List.elem_iff.mp rfl) hp) | assumption

theorem State.sapAdopt_follows {lp : List Part} {r : State} (s : State) (p : Nat) (hl : [.inForce, .rc, .snap,
    .mix, .sap] ⊆ lp) (h : Follows lp r s) : Follows lp r (State.sapAdopt s p) := by
  unfold State.sapAdopt
  repeat' first
    | with_reducible assumption | with_reducible apply Follows.ite | with_reducible apply State.sapStop_follows
    | with_reducible apply State.sapFormat_follows | with_reducible apply State.flagRaise_follows
    | exact within hl rfl | split | extract_lets | with_reducible refine Follows.mkRegs ?_ hl ?_ ?_
    | with_reducible exact id
    | (intro p hp; cases p <;> first | with_reducible rfl | exact absurd (List.elem_iff.mp rfl) hp)
    | with_reducible refine Follows.mkStores ?_ hl ?_ ?_ ?_
    | with_reducible exact id
    | (intro p hp; cases p <;> first | with_reducible rfl | exact absurd (List.elem_iff.mp rfl) hp)
    | (refine fun ⟨_, _, _, _, _, _, _, _, _, _, _⟩ => ⟨?_, ?_, ?_, ?_, ?_, ?_, ?_, ?_, ?_, ?_, ?_⟩
        <;> (try dsimp only) <;> first
          | with_reducible assumption | exact swf_replaceWhere (by assumption) _ _ | exact swf_sset (by assumption) _ _
          | exact swf_filter (by assumption) _ | assumption
          | exact fun p hp => (by assumption : ∀ p ∈ _, _) p (List.mem_of_mem_filter hp) | skip)

theorem State.sapStart_follows {lp : List Part} {r : State} (s : State) (p pos : Nat) (hl : [.rc, .sap] ⊆ lp) (h :
    Follows lp r s) : Follows lp r (State.sapStart s p pos) := by
  unfold State.sapStart
  repeat' first
    | with_reducible assumption | with_reducible apply Follows.ite | with_reducible apply State.modSap_follows
    | with_reducible apply State.flagRaise_follows | with_reducible apply State.setSap_follows
    | exact within hl rfl | with_reducible refine Follows.mkRegs ?_ hl ?_ ?_ | with_reducible exact id
    | (intro p hp; cases p <;> first | with_reducible rfl | exact absurd (List.elem_iff.mp rfl) hp)

theorem State.sapStartMask_follows {lp : List Part} {r : State} (s : State) (m pos : Nat) (hl : [.rc, .sap] ⊆ lp)
    (h : Follows lp r s) : Follows lp r (State.sapStartMask s m pos) := by
  unfold State.sapStartMask
  repeat' first
    | with_reducible assumption | with_reducible apply Follows.ite | with_reducible apply State.sapStart_follows
    | exact within hl rfl | (apply Follows.foldl; intro _ _ _)

theorem State.sapStopMask_follows {lp : List Part} {r : State} (s : State) (m : Nat) (hl : [.mix, .sap] ⊆ lp) (h :
    Follows lp r s) : Follows lp r (State.sapStopMask s m) := by
  unfold State.sapStopMask
  repeat' first
    | with_reducible assumption | with_reducible apply State.sapStop_follows | exact within hl rfl
    | (apply Follows.foldl; intro _ _ _)

theorem State.sapHstop_follows {lp : List Part} {r : State} (s : State) (p : Nat) (hl : [.rc, .hstop, .mix, .sap] ⊆
    lp) (h : Follows lp r s) : Follows lp r (State.sapHstop s p) := by
  unfold State.sapHstop
  repeat' first
    | with_reducible assumption | with_reducible apply State.modSap_follows
    | with_reducible apply State.muteOn_follows | with_reducible apply State.enterHstop_follows
    | exact within hl rfl | with_reducible refine Follows.mkRegs ?_ hl ?_ ?_ | with_reducible exact id
    | (intro p hp; cases p <;> first | with_reducible rfl | exact absurd (List.elem_iff.mp rfl) hp)

theorem State.sapFadeOne_follows {lp : List Part} {r : State} (s : State) (p : Nat) (hl : [.mix, .sap, .asrc] ⊆ lp)
    (h : Follows lp r s) : Follows lp r (State.sapFadeOne s p) := by
  unfold State.sapFadeOne
  repeat' first
    | with_reducible assumption | with_reducible apply Follows.ite | with_reducible apply State.setSap_follows
    | with_reducible apply State.muteOn_follows | with_reducible apply State.asrcPort_follows | exact within hl rfl
    | with_reducible refine Follows.mkRegs ?_ hl ?_ ?_ | with_reducible exact id
    | (intro p hp; cases p <;> first | with_reducible rfl | exact absurd (List.elem_iff.mp rfl) hp)

theorem State.sapRestart_follows {lp : List Part} {r : State} (s : State) (p : Nat) (hl : [.mix, .sap, .asrc] ⊆ lp)
    (h : Follows lp r s) : Follows lp r (State.sapRestart s p) := by
  unfold State.sapRestart
  repeat' first
    | with_reducible assumption | with_reducible apply State.sapFadeOne_follows
    | with_reducible apply State.modSap_follows | exact within hl rfl | (apply Follows.foldl; intro _ _ _)
    | with_reducible refine Follows.mkRegs ?_ hl ?_ ?_ | with_reducible exact id
    | (intro p hp; cases p <;> first | with_reducible rfl | exact absurd (List.elem_iff.mp rfl) hp)

theorem State.sapSlip_follows {lp : List Part} {r : State} (s : State) (p cause : Nat) (hl : [.rc, .count, .hstop,
    .mix, .sap] ⊆ lp) (h : Follows lp r s) : Follows lp r (State.sapSlip s p cause) := by
  unfold State.sapSlip
  repeat' first
    | with_reducible assumption | with_reducible apply Follows.ite | with_reducible apply State.setSap_follows
    | with_reducible apply State.flag_follows | with_reducible apply State.bump_follows
    | with_reducible apply State.raise_follows | with_reducible apply State.sapHstop_follows
    | with_reducible apply State.modSap_follows | exact within hl rfl
    | with_reducible refine Follows.mkRegs ?_ hl ?_ ?_ | with_reducible exact id
    | (intro p hp; cases p <;> first | with_reducible rfl | exact absurd (List.elem_iff.mp rfl) hp)

theorem State.sapClkLoss_follows {lp : List Part} {r : State} (s : State) (p cause : Nat) (hl : [.rc, .count,
    .hstop, .mix, .sap, .asrc] ⊆ lp) (h : Follows lp r s) : Follows lp r (State.sapClkLoss s p cause) := by
  unfold State.sapClkLoss
  repeat' first
    | with_reducible assumption | with_reducible apply Follows.ite | with_reducible apply State.setSap_follows
    | with_reducible apply State.flag_follows | with_reducible apply State.bump_follows
    | with_reducible apply State.raise_follows | with_reducible apply State.muteOn_follows
    | with_reducible apply State.asrcPort_follows | with_reducible apply State.sapHstop_follows
    | exact within hl rfl | with_reducible refine Follows.mkRegs ?_ hl ?_ ?_ | with_reducible exact id
    | (intro p hp; cases p <;> first | with_reducible rfl | exact absurd (List.elem_iff.mp rfl) hp)

theorem State.sapClkBack_follows {lp : List Part} {r : State} (s : State) (p : Nat) (hl : [.sap] ⊆ lp) (h : Follows
    lp r s) : Follows lp r (State.sapClkBack s p) := by
  unfold State.sapClkBack
  repeat' first
    | with_reducible assumption | with_reducible apply Follows.ite | with_reducible apply State.setSap_follows
    | exact within hl rfl | with_reducible refine Follows.mkRegs ?_ hl ?_ ?_ | with_reducible exact id
    | (intro p hp; cases p <;> first | with_reducible rfl | exact absurd (List.elem_iff.mp rfl) hp)

theorem State.sapResumeOne_follows {lp : List Part} {r : State} (s : State) (p : Nat) (hl : [.sap] ⊆ lp) (h :
    Follows lp r s) : Follows lp r (State.sapResumeOne s p) := by
  unfold State.sapResumeOne
  repeat' first
    | with_reducible assumption | with_reducible apply Follows.ite | with_reducible apply State.setSap_follows
    | exact within hl rfl | with_reducible refine Follows.mkRegs ?_ hl ?_ ?_ | with_reducible exact id
    | (intro p hp; cases p <;> first | with_reducible rfl | exact absurd (List.elem_iff.mp rfl) hp)

theorem State.sapResume_follows {lp : List Part} {r : State} (s : State) (p : Nat) (hl : [.sap] ⊆ lp) (h : Follows
    lp r s) : Follows lp r (State.sapResume s p) := by
  unfold State.sapResume
  repeat' first
    | with_reducible assumption | with_reducible apply State.sapResumeOne_follows | exact within hl rfl
    | (apply Follows.foldl; intro _ _ _)

theorem State.sapStopEnd_follows {lp : List Part} {r : State} (s : State) (p : Nat) (hl : [.mix, .sap, .asrc] ⊆ lp)
    (h : Follows lp r s) : Follows lp r (State.sapStopEnd s p) := by
  unfold State.sapStopEnd
  repeat' first
    | with_reducible assumption | with_reducible apply Follows.ite | with_reducible apply State.sapHalt_follows
    | exact within hl rfl

theorem State.sapRampEnd_follows {lp : List Part} {r : State} (s : State) (p : Nat) (hl : [.sap] ⊆ lp) (h : Follows
    lp r s) : Follows lp r (State.sapRampEnd s p) := by
  unfold State.sapRampEnd
  repeat' first
    | with_reducible assumption | with_reducible apply Follows.ite | with_reducible apply State.setSap_follows
    | exact within hl rfl | with_reducible refine Follows.mkRegs ?_ hl ?_ ?_ | with_reducible exact id
    | (intro p hp; cases p <;> first | with_reducible rfl | exact absurd (List.elem_iff.mp rfl) hp)

theorem State.sapClass_follows {lp : List Part} {r : State} (s : State) (p c : Nat) (hl : [.rc, .count, .sap,
    .asrc] ⊆ lp) (h : Follows lp r s) : Follows lp r (State.sapClass s p c) := by
  unfold State.sapClass
  repeat' first
    | with_reducible assumption | with_reducible apply Follows.ite | with_reducible apply State.setSap_follows
    | with_reducible apply State.flagRaise_follows | with_reducible apply State.setTrk_follows
    | with_reducible apply State.asrcUnlockEvt_follows | with_reducible apply State.asrcPort_follows
    | exact within hl rfl | with_reducible refine Follows.mkRegs ?_ hl ?_ ?_ | with_reducible exact id
    | (intro p hp; cases p <;> first | with_reducible rfl | exact absurd (List.elem_iff.mp rfl) hp)

theorem State.sapRateStop_follows {lp : List Part} {r : State} (s : State) (hl : [.rc, .mix, .sap, .asrc] ⊆ lp) (h
    : Follows lp r s) : Follows lp r (State.sapRateStop s) := by
  unfold State.sapRateStop
  repeat' first
    | with_reducible assumption | with_reducible apply Follows.ite | with_reducible apply State.sapHalt_follows
    | with_reducible apply State.flag_follows | exact within hl rfl | (apply Follows.foldl; intro _ _ _)

theorem State.sapRejudge_follows {lp : List Part} {r : State} (s : State) (hl : [.rc, .sap] ⊆ lp) (h : Follows lp r
    s) : Follows lp r (State.sapRejudge s) := by
  unfold State.sapRejudge
  repeat' first
    | with_reducible assumption | with_reducible apply State.sapJudge_follows | exact within hl rfl
    | (apply Follows.foldl; intro _ _ _)

theorem State.sapCtl_follows {lp : List Part} {r : State} (s : State) (p : Nat) (w : Word) (hl : [.sap] ⊆ lp) (h :
    Follows lp r s) : Follows lp r (State.sapCtl s p w) := by
  unfold State.sapCtl
  repeat' first
    | with_reducible assumption | with_reducible apply State.modSap_follows | exact within hl rfl
    | with_reducible refine Follows.mkRegs ?_ hl ?_ ?_ | with_reducible exact id
    | (intro p hp; cases p <;> first | with_reducible rfl | exact absurd (List.elem_iff.mp rfl) hp)

theorem State.sapBoundary_follows {lp : List Part} {r : State} (s : State) (fill : List (Nat × Int)) (p : Nat) (hl
    : [.rc, .count, .hstop, .mix, .sap, .asrc] ⊆ lp) (h : Follows lp r s) : Follows lp r (State.sapBoundary s fill
    p) := by
  unfold State.sapBoundary
  repeat' first
    | with_reducible assumption | with_reducible apply Follows.ite | with_reducible apply State.sapSlip_follows
    | with_reducible apply State.modSap_follows | with_reducible apply State.sapStart_follows
    | with_reducible apply State.sapStop_follows | with_reducible apply State.sapRestart_follows
    | with_reducible apply State.sapFadeOne_follows | exact within hl rfl
    | with_reducible refine Follows.mkRegs ?_ hl ?_ ?_ | with_reducible exact id
    | (intro p hp; cases p <;> first | with_reducible rfl | exact absurd (List.elem_iff.mp rfl) hp)

theorem State.sapFaded_follows {lp : List Part} {r : State} (s : State) (p : Nat) (hl : [.mix, .sap] ⊆ lp) (h :
    Follows lp r s) : Follows lp r (State.sapFaded s p) := by
  unfold State.sapFaded
  repeat' first
    | with_reducible assumption | with_reducible apply Follows.ite | with_reducible apply State.setSap_follows
    | with_reducible apply State.muteOff_follows | with_reducible apply State.muteOn_follows | exact within hl rfl
    | (refine Follows.fst_of_eq (by assumption) ?_) | (refine Follows.snd_of_eq (by assumption) ?_) | split
    | with_reducible refine Follows.mkRegs ?_ hl ?_ ?_ | with_reducible exact id
    | (intro p hp; cases p <;> first | with_reducible rfl | exact absurd (List.elem_iff.mp rfl) hp)

theorem State.sapStepped_follows {lp : List Part} {r : State} (s : State) (hl : [.sap] ⊆ lp) (h : Follows lp r s) :
    Follows lp r (State.sapStepped s) := by
  unfold State.sapStepped
  repeat' first
    | with_reducible assumption | with_reducible apply State.modSap_follows | exact within hl rfl
    | (apply Follows.foldl; intro _ _ _) | with_reducible refine Follows.mkRegs ?_ hl ?_ ?_
    | with_reducible exact id
    | (intro p hp; cases p <;> first | with_reducible rfl | exact absurd (List.elem_iff.mp rfl) hp)

theorem State.sapBoundaries_follows {lp : List Part} {r : State} (s : State) (fill : List (Nat × Int)) (hl : [.rc,
    .count, .hstop, .mix, .sap, .asrc] ⊆ lp) (h : Follows lp r s) : Follows lp r (State.sapBoundaries s fill) := by
  unfold State.sapBoundaries
  repeat' first
    | with_reducible assumption | with_reducible apply State.sapBoundary_follows
    | with_reducible apply State.sapFaded_follows | exact within hl rfl | (apply Follows.foldl; intro _ _ _)

theorem State.sapPoison_follows {lp : List Part} {r : State} (s : State) (p first n : Nat) (hl : [.rc, .count] ⊆
    lp) (h : Follows lp r s) : Follows lp r (State.sapPoison s p first n) := by
  unfold State.sapPoison
  repeat' first
    | with_reducible assumption | with_reducible apply Follows.ite | with_reducible apply State.countBy_follows
    | with_reducible apply State.flag_follows | with_reducible apply State.sdgPoison_follows | exact within hl rfl

theorem State.sapIn_follows {lp : List Part} {r : State} (s : State) (p : Nat) (frames : List (List Word)) (poison
    : List (Nat × Nat)) (bad : List Nat) (src : SMap (List Int)) (hl : [.rc, .count, .mix, .sap] ⊆ lp) (h : Follows
    lp r s) : Follows lp r (State.sapIn s p frames poison bad src).1 := by
  unfold State.sapIn
  repeat' first
    | with_reducible assumption | with_reducible apply Follows.ite | with_reducible apply Follows.ite_fst
    | with_reducible apply State.setSap_follows | with_reducible apply State.muteOff_follows
    | with_reducible apply State.countBy_follows | with_reducible apply State.sapPoison_follows
    | exact within hl rfl | with_reducible refine Follows.mkRegs ?_ hl ?_ ?_ | with_reducible exact id
    | (intro p hp; cases p <;> first | with_reducible rfl | exact absurd (List.elem_iff.mp rfl) hp)

theorem State.asrcIngress_follows {lp : List Part} {r : State} (s : State) (poison : List (Nat × Nat)) (src : SMap
    (List Int)) (hl : [.rc, .count, .asrc] ⊆ lp) (h : Follows lp r s) : Follows lp r (State.asrcIngress s poison
    src).1 := by
  unfold State.asrcIngress
  repeat' first
    | with_reducible assumption | with_reducible apply State.asrcRun_follows | exact within hl rfl
    | (apply Follows.foldl; intro _ _ _) | (apply Follows.foldl_fst; intro _ _ _)

theorem State.sapIngress_follows {lp : List Part} {r : State} (s : State) (frames : List (Nat × List (List Word)))
    (poison : List (Nat × Nat × Nat)) (bad : List Nat) (src : SMap (List Int)) (hl : [.rc, .count, .mix, .sap] ⊆
    lp) (h : Follows lp r s) : Follows lp r (State.sapIngress s frames poison bad src).1 := by
  unfold State.sapIngress
  repeat' first
    | with_reducible assumption | with_reducible apply State.sapIn_follows | exact within hl rfl
    | (apply Follows.foldl; intro _ _ _) | (apply Follows.foldl_fst; intro _ _ _)

theorem State.outFrame_follows {lp : List Part} {r : State} (s : State) (p i : Nat) (poison : List (Nat × Nat))
    (bad : List Nat) (conv : SMap (List Int)) (hl : [.rc, .count, .sap] ⊆ lp) (h : Follows lp r s) : Follows lp r
    (State.outFrame s p i poison bad conv) := by
  unfold State.outFrame
  repeat' first
    | with_reducible assumption | with_reducible apply Follows.ite | with_reducible apply State.setSap_follows
    | with_reducible apply State.sapPoison_follows | with_reducible apply State.emit_follows | exact within hl rfl
    | with_reducible refine Follows.mkRegs ?_ hl ?_ ?_ | with_reducible exact id
    | (intro p hp; cases p <;> first | with_reducible rfl | exact absurd (List.elem_iff.mp rfl) hp)

theorem State.idleFrame_follows {lp : List Part} {r : State} (s : State) (p i : Nat) (h : Follows lp r s) : Follows
    lp r (State.idleFrame s p i) := by
  unfold State.idleFrame
  repeat' first
    | with_reducible assumption | with_reducible apply Follows.ite | with_reducible apply State.emit_follows
    | split | assumption

theorem State.sapOutMark_follows {lp : List Part} {r : State} (s : State) (p : Nat) (hl : [.sap] ⊆ lp) (h : Follows
    lp r s) : Follows lp r (State.sapOutMark s p) := by
  unfold State.sapOutMark
  repeat' first
    | with_reducible assumption | with_reducible apply State.modSap_follows | exact within hl rfl
    | with_reducible refine Follows.mkRegs ?_ hl ?_ ?_ | with_reducible exact id
    | (intro p hp; cases p <;> first | with_reducible rfl | exact absurd (List.elem_iff.mp rfl) hp) | assumption

theorem State.sapOut_follows {lp : List Part} {r : State} (s : State) (p n : Nat) (poison : List (Nat × Nat)) (bad
    : List Nat) (asrcBad : List (Nat × Nat)) (hl : [.rc, .count, .sap, .asrc] ⊆ lp) (h : Follows lp r s) : Follows
    lp r (State.sapOut s p n poison bad asrcBad) := by
  unfold State.sapOut
  repeat' first
    | with_reducible assumption | with_reducible apply Follows.ite | with_reducible apply State.asrcRun_follows
    | with_reducible apply State.outFrame_follows | with_reducible apply State.sapOutMark_follows
    | with_reducible apply State.idleFrame_follows | exact within hl rfl | (apply Follows.foldl; intro _ _ _)
    | (apply Follows.foldl_fst; intro _ _ _) | (refine Follows.fst_of_eq (by assumption) ?_)
    | (refine Follows.snd_of_eq (by assumption) ?_) | split

theorem State.sapEgress_follows {lp : List Part} {r : State} (s : State) (frames : List (Nat × List (List Word)))
    (poison : List (Nat × Nat × Nat)) (bad : List Nat) (conv : List (Nat × Nat)) (hl : [.rc, .count, .sap, .asrc] ⊆
    lp) (h : Follows lp r s) : Follows lp r (State.sapEgress s frames poison bad conv) := by
  unfold State.sapEgress
  repeat' first
    | with_reducible assumption | with_reducible apply State.sapOut_follows | exact within hl rfl
    | (apply Follows.foldl; intro _ _ _)

theorem State.sapUnitReset_follows {lp : List Part} {r : State} (s : State) (p : Nat) (hl : [.rc, .mix, .sap,
    .asrc] ⊆ lp) (h : Follows lp r s) : Follows lp r (State.sapUnitReset s p) := by
  unfold State.sapUnitReset
  repeat' first
    | with_reducible assumption | with_reducible apply State.setSap_follows
    | with_reducible apply State.setRc_follows | with_reducible apply State.muteOn_follows
    | with_reducible apply State.asrcPort_follows | exact within hl rfl
    | with_reducible refine Follows.mkRegs ?_ hl ?_ ?_ | with_reducible exact id
    | (intro p hp; cases p <;> first | with_reducible rfl | exact absurd (List.elem_iff.mp rfl) hp)

end Sys2Proof.Machine
end

