-- ==== Sys2Proof/Laws/FollowsPwr.lean ====
section
/-! SUPPORT. What each operation of Machine/Pwr.lean does to the state as a whole (Follows). -/

set_option linter.unusedTactic false
set_option linter.unreachableTactic false

namespace Sys2Proof.Machine

theorem State.setPwrCh_follows {lp : List Part} {r : State} (s : State) (c : Nat) (v : PwrCh) (hl : [.pwr] ⊆ lp) (h
    : Follows lp r s) : Follows lp r (State.setPwrCh s c v) := by
  unfold State.setPwrCh
  repeat' first
    | with_reducible assumption | with_reducible apply Follows.ite | split
    | with_reducible refine Follows.mkRegs ?_ hl ?_ ?_ | with_reducible exact id
    | (intro p hp; cases p <;> first | with_reducible rfl | exact absurd (List.elem_iff.mp rfl) hp)

theorem State.modPwrCh_follows {lp : List Part} {r : State} (s : State) (c : Nat) (f : PwrCh → PwrCh) (hl : [.pwr]
    ⊆ lp) (h : Follows lp r s) : Follows lp r (State.modPwrCh s c f) := by
  unfold State.modPwrCh
  repeat' first
    | with_reducible assumption | with_reducible apply State.setPwrCh_follows | exact within hl rfl

theorem State.pwrArm_follows {lp : List Part} {r : State} (s : State) (c : Nat) (hl : [.rc, .pwr] ⊆ lp) (h :
    Follows lp r s) : Follows lp r (State.pwrArm s c) := by
  unfold State.pwrArm
  repeat' first
    | with_reducible assumption | with_reducible apply Follows.ite | with_reducible apply State.modPwrCh_follows
    | with_reducible apply State.flagRaise_follows | exact within hl rfl
    | with_reducible refine Follows.mkRegs ?_ hl ?_ ?_ | with_reducible exact id
    | (intro p hp; cases p <;> first | with_reducible rfl | exact absurd (List.elem_iff.mp rfl) hp)

theorem State.diagAbort_follows {lp : List Part} {r : State} (s : State) (c : Nat) (hl : [.rc, .pwr] ⊆ lp) (h :
    Follows lp r s) : Follows lp r (State.diagAbort s c) := by
  unfold State.diagAbort
  repeat' first
    | with_reducible assumption | with_reducible apply State.modPwrCh_follows
    | with_reducible apply State.flagRaise_follows | exact within hl rfl
    | with_reducible refine Follows.mkRegs ?_ hl ?_ ?_ | with_reducible exact id
    | (intro p hp; cases p <;> first | with_reducible rfl | exact absurd (List.elem_iff.mp rfl) hp) | assumption

theorem State.pwrStop_follows {lp : List Part} {r : State} (s : State) (c : Nat) (hl : [.rc, .mix, .pwr] ⊆ lp) (h :
    Follows lp r s) : Follows lp r (State.pwrStop s c) := by
  unfold State.pwrStop
  repeat' first
    | with_reducible assumption | with_reducible apply Follows.ite | with_reducible apply State.setPwrCh_follows
    | with_reducible apply State.muteOn_follows | with_reducible apply State.diagAbort_follows
    | exact within hl rfl | with_reducible refine Follows.mkRegs ?_ hl ?_ ?_ | with_reducible exact id
    | (intro p hp; cases p <;> first | with_reducible rfl | exact absurd (List.elem_iff.mp rfl) hp)

theorem State.pwrFault_follows {lp : List Part} {r : State} (s : State) (c cause : Nat) (hl : [.rc, .hstop, .mix,
    .pwr] ⊆ lp) (h : Follows lp r s) : Follows lp r (State.pwrFault s c cause) := by
  unfold State.pwrFault
  repeat' first
    | with_reducible assumption | with_reducible apply Follows.ite | with_reducible apply State.setPwrCh_follows
    | with_reducible apply State.muteOn_follows | with_reducible apply State.flagRaise_follows
    | with_reducible apply State.modPwrCh_follows | with_reducible apply State.enterHstop_follows
    | exact within hl rfl | with_reducible refine Follows.mkRegs ?_ hl ?_ ?_ | with_reducible exact id
    | (intro p hp; cases p <;> first | with_reducible rfl | exact absurd (List.elem_iff.mp rfl) hp)

theorem State.pwrOc_follows {lp : List Part} {r : State} (s : State) (c0 : Nat) (hl : [.rc, .count, .hstop, .mix,
    .pwr] ⊆ lp) (h : Follows lp r s) : Follows lp r (State.pwrOc s c0) := by
  unfold State.pwrOc
  repeat' first
    | with_reducible assumption | with_reducible apply Follows.ite | with_reducible apply State.countBy_follows
    | with_reducible apply State.flagRaise_follows | with_reducible apply State.pwrFault_follows
    | exact within hl rfl

theorem State.pwrTherm_follows {lp : List Part} {r : State} (s : State) (c0 : Nat) (t : Int) (hl : [.rc, .hstop,
    .mix, .pwr] ⊆ lp) (h : Follows lp r s) : Follows lp r (State.pwrTherm s c0 t) := by
  unfold State.pwrTherm
  repeat' first
    | with_reducible assumption | with_reducible apply Follows.ite | with_reducible apply State.modPwrCh_follows
    | with_reducible apply State.flagRaise_follows | with_reducible apply State.pwrFault_follows
    | exact within hl rfl | with_reducible refine Follows.mkRegs ?_ hl ?_ ?_ | with_reducible exact id
    | (intro p hp; cases p <;> first | with_reducible rfl | exact absurd (List.elem_iff.mp rfl) hp)

theorem State.pvddOk_follows {lp : List Part} {r : State} (s : State) (ok : Bool) (hl : [.rc, .pmu] ⊆ lp) (h :
    Follows lp r s) : Follows lp r (State.pvddOk s ok) := by
  unfold State.pvddOk
  repeat' first
    | with_reducible assumption | with_reducible apply Follows.ite | with_reducible apply State.flagRaise_follows
    | exact within hl rfl | split | with_reducible refine Follows.mkRegs ?_ hl ?_ ?_ | with_reducible exact id
    | (intro p hp; cases p <;> first | with_reducible rfl | exact absurd (List.elem_iff.mp rfl) hp) | assumption

theorem State.pwrPvdd_follows {lp : List Part} {r : State} (s : State) (mv : Nat) (hl : [.rc, .hstop, .mix, .pwr,
    .pmu] ⊆ lp) (h : Follows lp r s) : Follows lp r (State.pwrPvdd s mv) := by
  unfold State.pwrPvdd
  repeat' first
    | with_reducible assumption | with_reducible apply Follows.ite | with_reducible apply State.pvddOk_follows
    | with_reducible apply State.diagAbort_follows | with_reducible apply State.pwrFault_follows
    | with_reducible apply State.flagRaise_follows | exact within hl rfl | (apply Follows.foldl; intro _ _ _)
    | (apply Follows.foldl_fst; intro _ _ _) | split | extract_lets
    | with_reducible refine Follows.mkRegs ?_ hl ?_ ?_ | with_reducible exact id
    | (intro p hp; cases p <;> first | with_reducible rfl | exact absurd (List.elem_iff.mp rfl) hp)

theorem State.pvddBack_follows {lp : List Part} {r : State} (s : State) (mv : Nat) (hl : [.rc, .pwr, .pmu] ⊆ lp) (h
    : Follows lp r s) : Follows lp r (State.pvddBack s mv) := by
  unfold State.pvddBack
  repeat' first
    | with_reducible assumption | with_reducible apply Follows.ite | with_reducible apply State.pvddOk_follows
    | with_reducible apply State.modPwrCh_follows | exact within hl rfl | (apply Follows.foldl; intro _ _ _)
    | (apply Follows.foldl_fst; intro _ _ _) | split | extract_lets
    | with_reducible refine Follows.mkRegs ?_ hl ?_ ?_ | with_reducible exact id
    | (intro p hp; cases p <;> first | with_reducible rfl | exact absurd (List.elem_iff.mp rfl) hp)

theorem State.retryNow_follows {lp : List Part} {r : State} (s : State) (c : Nat) (hl : [.rc, .count, .pwr] ⊆ lp)
    (h : Follows lp r s) : Follows lp r (State.retryNow s c) := by
  unfold State.retryNow
  repeat' first
    | with_reducible assumption | with_reducible apply Follows.ite | with_reducible apply State.modPwrCh_follows
    | with_reducible apply State.bump_follows | exact within hl rfl | split
    | with_reducible refine Follows.mkRegs ?_ hl ?_ ?_ | with_reducible exact id
    | (intro p hp; cases p <;> first | with_reducible rfl | exact absurd (List.elem_iff.mp rfl) hp) | assumption

theorem State.pwrRetry_follows {lp : List Part} {r : State} (s : State) (c : Nat) (hl : [.rc, .count, .pwr] ⊆ lp)
    (h : Follows lp r s) : Follows lp r (State.pwrRetry s c) := by
  unfold State.pwrRetry
  repeat' first
    | with_reducible assumption | with_reducible apply Follows.ite | with_reducible apply State.retryNow_follows
    | exact within hl rfl

theorem State.linkLost_follows {lp : List Part} {r : State} (s : State) (hl : [.rc, .hstop, .mix, .pwr] ⊆ lp) (h :
    Follows lp r s) : Follows lp r (State.linkLost s) := by
  unfold State.linkLost
  repeat' first
    | with_reducible assumption | with_reducible apply Follows.ite | with_reducible apply State.modPwrCh_follows
    | with_reducible apply State.pwrFault_follows | exact within hl rfl | (apply Follows.foldl; intro _ _ _)
    | with_reducible refine Follows.mkRegs ?_ hl ?_ ?_ | with_reducible exact id
    | (intro p hp; cases p <;> first | with_reducible rfl | exact absurd (List.elem_iff.mp rfl) hp)

theorem State.linkFail_follows {lp : List Part} {r : State} (s : State) (hl : [.rc, .count, .hstop, .mix, .pwr] ⊆
    lp) (h : Follows lp r s) : Follows lp r (State.linkFail s) := by
  unfold State.linkFail
  repeat' first
    | with_reducible assumption | with_reducible apply Follows.ite | with_reducible apply State.bump_follows
    | with_reducible apply State.flag_follows | with_reducible apply State.enterHstop_follows
    | with_reducible apply State.linkLost_follows | with_reducible apply State.raise_follows | exact within hl rfl
    | split | extract_lets | with_reducible refine Follows.mkRegs ?_ hl ?_ ?_ | with_reducible exact id
    | (intro p hp; cases p <;> first | with_reducible rfl | exact absurd (List.elem_iff.mp rfl) hp)

theorem State.selfProtect_follows {lp : List Part} {r : State} (s : State) (hl : [.rc, .hstop, .mix, .pwr] ⊆ lp) (h
    : Follows lp r s) : Follows lp r (State.selfProtect s) := by
  unfold State.selfProtect
  repeat' first
    | with_reducible assumption | with_reducible apply Follows.ite | with_reducible apply State.linkLost_follows
    | with_reducible apply State.raise_follows | exact within hl rfl | split

theorem State.regpar_follows {lp : List Part} {r : State} (s : State) (o : Nat) (hl : [.rc, .hstop, .mix, .pwr] ⊆
    lp) (h : Follows lp r s) : Follows lp r (State.regpar s o) := by
  unfold State.regpar
  repeat' first
    | with_reducible assumption | with_reducible apply Follows.ite | with_reducible apply State.pwrFault_follows
    | with_reducible apply State.flagRaise_follows | exact within hl rfl | (apply Follows.foldl; intro _ _ _)
    | (apply Follows.foldl_fst; intro _ _ _) | split | extract_lets
    | with_reducible refine Follows.mkRegs ?_ hl ?_ ?_ | with_reducible exact id
    | (intro p hp; cases p <;> first | with_reducible rfl | exact absurd (List.elem_iff.mp rfl) hp)

theorem State.diagEnd_follows {lp : List Part} {r0 : State} (s : State) (c res r : Nat) (hl : [.rc, .hstop, .mix,
    .pwr] ⊆ lp) (h : Follows lp r0 s) : Follows lp r0 (State.diagEnd s c res r) := by
  unfold State.diagEnd
  repeat' first
    | with_reducible assumption | with_reducible apply Follows.ite | with_reducible apply State.setPwrCh_follows
    | with_reducible apply State.modPwrCh_follows | with_reducible apply State.flagRaise_follows
    | with_reducible apply State.pwrFault_follows | exact within hl rfl
    | with_reducible refine Follows.mkRegs ?_ hl ?_ ?_ | with_reducible exact id
    | (intro p hp; cases p <;> first | with_reducible rfl | exact absurd (List.elem_iff.mp rfl) hp)

theorem State.cmUpEnd_follows {lp : List Part} {r : State} (s : State) (c : Nat) (hl : [.pwr] ⊆ lp) (h : Follows lp
    r s) : Follows lp r (State.cmUpEnd s c) := by
  unfold State.cmUpEnd
  repeat' first
    | with_reducible assumption | with_reducible apply Follows.ite | with_reducible apply State.modPwrCh_follows
    | exact within hl rfl | with_reducible refine Follows.mkRegs ?_ hl ?_ ?_ | with_reducible exact id
    | (intro p hp; cases p <;> first | with_reducible rfl | exact absurd (List.elem_iff.mp rfl) hp)

theorem State.pwrRun_follows {lp : List Part} {r : State} (s : State) (c : Nat) (hl : [.mix, .pwr] ⊆ lp) (h :
    Follows lp r s) : Follows lp r (State.pwrRun s c) := by
  unfold State.pwrRun
  repeat' first
    | with_reducible assumption | with_reducible apply State.modPwrCh_follows
    | with_reducible apply State.muteOff_follows | exact within hl rfl
    | with_reducible refine Follows.mkRegs ?_ hl ?_ ?_ | with_reducible exact id
    | (intro p hp; cases p <;> first | with_reducible rfl | exact absurd (List.elem_iff.mp rfl) hp)

theorem State.runEntry_follows {lp : List Part} {r : State} (s : State) (c : Nat) (hl : [.mix, .pwr] ⊆ lp) (h :
    Follows lp r s) : Follows lp r (State.runEntry s c) := by
  unfold State.runEntry
  repeat' first
    | with_reducible assumption | with_reducible apply Follows.ite | with_reducible apply State.modPwrCh_follows
    | with_reducible apply State.pwrRun_follows | exact within hl rfl
    | with_reducible refine Follows.mkRegs ?_ hl ?_ ?_ | with_reducible exact id
    | (intro p hp; cases p <;> first | with_reducible rfl | exact absurd (List.elem_iff.mp rfl) hp)

theorem State.pwrDrive_follows {lp : List Part} {r : State} (s : State) (b : Bool) (hl : [.mix, .pwr] ⊆ lp) (h :
    Follows lp r s) : Follows lp r (State.pwrDrive s b) := by
  unfold State.pwrDrive
  repeat' first
    | with_reducible assumption | with_reducible apply Follows.ite | with_reducible apply State.pwrRun_follows
    | with_reducible apply State.modPwrCh_follows | with_reducible apply State.muteOn_follows | exact within hl rfl
    | (apply Follows.foldl; intro _ _ _) | with_reducible refine Follows.mkRegs ?_ hl ?_ ?_
    | with_reducible exact id
    | (intro p hp; cases p <;> first | with_reducible rfl | exact absurd (List.elem_iff.mp rfl) hp)

theorem State.audioDown_follows {lp : List Part} {r : State} (s : State) (c : Nat) (hl : [.pwr] ⊆ lp) (h : Follows
    lp r s) : Follows lp r (State.audioDown s c) := by
  unfold State.audioDown
  repeat' first
    | with_reducible assumption | with_reducible apply Follows.ite | with_reducible apply State.modPwrCh_follows
    | exact within hl rfl | with_reducible refine Follows.mkRegs ?_ hl ?_ ?_ | with_reducible exact id
    | (intro p hp; cases p <;> first | with_reducible rfl | exact absurd (List.elem_iff.mp rfl) hp)

theorem State.cmDown_follows {lp : List Part} {r : State} (s : State) (c : Nat) (hl : [.pwr] ⊆ lp) (h : Follows lp
    r s) : Follows lp r (State.cmDown s c) := by
  unfold State.cmDown
  repeat' first
    | with_reducible assumption | with_reducible apply Follows.ite | with_reducible apply State.modPwrCh_follows
    | exact within hl rfl | with_reducible refine Follows.mkRegs ?_ hl ?_ ?_ | with_reducible exact id
    | (intro p hp; cases p <;> first | with_reducible rfl | exact absurd (List.elem_iff.mp rfl) hp)

theorem State.retryOk_follows {lp : List Part} {r : State} (s : State) (c : Nat) (hl : [.pwr] ⊆ lp) (h : Follows lp
    r s) : Follows lp r (State.retryOk s c) := by
  unfold State.retryOk
  repeat' first
    | with_reducible assumption | with_reducible apply Follows.ite | with_reducible apply State.modPwrCh_follows
    | exact within hl rfl | with_reducible refine Follows.mkRegs ?_ hl ?_ ?_ | with_reducible exact id
    | (intro p hp; cases p <;> first | with_reducible rfl | exact absurd (List.elem_iff.mp rfl) hp)

theorem State.pwrCtl_follows {lp : List Part} {r : State} (s : State) (w : Word) (hl : [.pwr] ⊆ lp) (h : Follows lp
    r s) : Follows lp r (State.pwrCtl s w) := by
  unfold State.pwrCtl
  repeat' first
    | with_reducible assumption | with_reducible apply State.modPwrCh_follows | exact within hl rfl
    | with_reducible refine Follows.mkRegs ?_ hl ?_ ?_ | with_reducible exact id
    | (intro p hp; cases p <;> first | with_reducible rfl | exact absurd (List.elem_iff.mp rfl) hp)

theorem State.pwrRequests_follows {lp : List Part} {r : State} (s : State) (c : Nat) (hl : [.rc, .count, .mix,
    .pwr] ⊆ lp) (h : Follows lp r s) : Follows lp r (State.pwrRequests s c) := by
  unfold State.pwrRequests
  repeat' first
    | with_reducible assumption | with_reducible apply Follows.ite | with_reducible apply State.setPwrCh_follows
    | with_reducible apply State.pwrArm_follows | with_reducible apply State.pwrStop_follows
    | with_reducible apply State.retryNow_follows | exact within hl rfl
    | with_reducible refine Follows.mkRegs ?_ hl ?_ ?_ | with_reducible exact id
    | (intro p hp; cases p <;> first | with_reducible rfl | exact absurd (List.elem_iff.mp rfl) hp)

theorem State.pwrBoundary_follows {lp : List Part} {r : State} (s : State) (hl : [.rc, .count, .mix, .pwr] ⊆ lp) (h
    : Follows lp r s) : Follows lp r (State.pwrBoundary s) := by
  unfold State.pwrBoundary
  repeat' first
    | with_reducible assumption | with_reducible apply Follows.ite | with_reducible apply State.pwrRequests_follows
    | exact within hl rfl

theorem State.vfsAdopt_follows {lp : List Part} {r : State} (s : State) (c : Nat) (hl : [.pwr] ⊆ lp) (h : Follows
    lp r s) : Follows lp r (State.vfsAdopt s c) := by
  unfold State.vfsAdopt
  repeat' first
    | with_reducible assumption | with_reducible apply Follows.ite | with_reducible apply State.modPwrCh_follows
    | exact within hl rfl | with_reducible refine Follows.mkRegs ?_ hl ?_ ?_ | with_reducible exact id
    | (intro p hp; cases p <;> first | with_reducible rfl | exact absurd (List.elem_iff.mp rfl) hp)

theorem State.pdGood_follows {lp : List Part} {r : State} (s : State) (hl : [.pwr] ⊆ lp) (h : Follows lp r s) :
    Follows lp r (State.pdGood s) := by
  unfold State.pdGood
  repeat' first
    | with_reducible assumption | with_reducible refine Follows.mkRegs ?_ hl ?_ ?_ | with_reducible exact id
    | (intro p hp; cases p <;> first | with_reducible rfl | exact absurd (List.elem_iff.mp rfl) hp) | assumption

theorem State.pwrAdopt_follows {lp : List Part} {r : State} (s : State) (hl : [.inForce, .snap, .pwr] ⊆ lp) (h :
    Follows lp r s) : Follows lp r (State.pwrAdopt s) := by
  unfold State.pwrAdopt
  repeat' first
    | with_reducible assumption | with_reducible apply Follows.ite | with_reducible apply State.vfsAdopt_follows
    | exact within hl rfl | split | extract_lets | with_reducible refine Follows.mkRegs ?_ hl ?_ ?_
    | with_reducible exact id
    | (intro p hp; cases p <;> first | with_reducible rfl | exact absurd (List.elem_iff.mp rfl) hp)
    | with_reducible refine Follows.mkStores ?_ hl ?_ ?_ ?_
    | with_reducible exact id
    | (intro p hp; cases p <;> first | with_reducible rfl | exact absurd (List.elem_iff.mp rfl) hp)
    | (refine fun ⟨_, _, _, _, _, _, _, _, _, _, _⟩ => ⟨?_, ?_, ?_, ?_, ?_, ?_, ?_, ?_, ?_, ?_, ?_⟩
        <;> (try dsimp only) <;> first
          | with_reducible assumption | exact swf_replaceWhere (by assumption) _ _ | exact swf_sset (by assumption) _ _
          | exact swf_filter (by assumption) _ | assumption
          | exact fun p hp => (by assumption : ∀ p ∈ _, _) p (List.mem_of_mem_filter hp) | skip)

theorem State.battLimit_follows {lp : List Part} {r : State} (s : State) (c mv : Nat) (hl : [.rc, .pwr] ⊆ lp) (h :
    Follows lp r s) : Follows lp r (State.battLimit s c mv) := by
  unfold State.battLimit
  repeat' first
    | with_reducible assumption | with_reducible apply Follows.ite | with_reducible apply State.fresh_follows
    | with_reducible apply State.modPwrCh_follows | with_reducible apply State.flag_follows | exact within hl rfl
    | with_reducible refine Follows.mkRegs ?_ hl ?_ ?_ | with_reducible exact id
    | (intro p hp; cases p <;> first | with_reducible rfl | exact absurd (List.elem_iff.mp rfl) hp)

theorem State.thermLimit_follows {lp : List Part} {r : State} (s : State) (c : Nat) (hl : [.rc, .pwr] ⊆ lp) (h :
    Follows lp r s) : Follows lp r (State.thermLimit s c) := by
  unfold State.thermLimit
  repeat' first
    | with_reducible assumption | with_reducible apply Follows.ite | with_reducible apply State.fresh_follows
    | with_reducible apply State.setPwrCh_follows | with_reducible apply State.flagRaise_follows
    | with_reducible apply State.flag_follows | exact within hl rfl
    | with_reducible refine Follows.mkRegs ?_ hl ?_ ?_ | with_reducible exact id
    | (intro p hp; cases p <;> first | with_reducible rfl | exact absurd (List.elem_iff.mp rfl) hp)

theorem State.adapt_follows {lp : List Part} {r : State} (s : State) (c : Nat) (rms : Bool) (hl : [.pwr] ⊆ lp) (h :
    Follows lp r s) : Follows lp r (State.adapt s c rms) := by
  unfold State.adapt
  repeat' first
    | with_reducible assumption | with_reducible apply Follows.ite | with_reducible apply State.fresh_follows
    | with_reducible apply State.setPwrCh_follows | exact within hl rfl
    | with_reducible refine Follows.mkRegs ?_ hl ?_ ?_ | with_reducible exact id
    | (intro p hp; cases p <;> first | with_reducible rfl | exact absurd (List.elem_iff.mp rfl) hp)

theorem State.excursion_follows {lp : List Part} {r : State} (s : State) (c : Nat) (quiet : Bool) (hl : [.rc,
    .count, .pwr] ⊆ lp) (h : Follows lp r s) : Follows lp r (State.excursion s c quiet) := by
  unfold State.excursion
  repeat' first
    | with_reducible assumption | with_reducible apply Follows.ite | with_reducible apply State.fresh_follows
    | with_reducible apply State.setPwrCh_follows | with_reducible apply State.flag_follows
    | with_reducible apply State.countBy_follows | with_reducible apply State.flagRaise_follows
    | exact within hl rfl | with_reducible refine Follows.mkRegs ?_ hl ?_ ?_ | with_reducible exact id
    | (intro p hp; cases p <;> first | with_reducible rfl | exact absurd (List.elem_iff.mp rfl) hp)

theorem State.pwrSample_follows {lp : List Part} {r : State} (s : State) (c i : Nat) (inp : PowerIn) (hl : [.rc,
    .count, .pwr] ⊆ lp) (h : Follows lp r s) : Follows lp r (State.pwrSample s c i inp) := by
  unfold State.pwrSample
  repeat' first
    | with_reducible assumption | with_reducible apply Follows.ite | with_reducible apply State.bump_follows
    | with_reducible apply State.sdgPoison_follows | with_reducible apply State.flag_follows
    | with_reducible apply State.setPwrCh_follows | with_reducible apply State.emit_follows | exact within hl rfl
    | with_reducible refine Follows.mkRegs ?_ hl ?_ ?_ | with_reducible exact id
    | (intro p hp; cases p <;> first | with_reducible rfl | exact absurd (List.elem_iff.mp rfl) hp)

theorem State.pwrChTick_follows {lp : List Part} {r : State} (s : State) (c : Nat) (inp : PowerIn) (hl : [.rc,
    .count, .pwr] ⊆ lp) (h : Follows lp r s) : Follows lp r (State.pwrChTick s c inp) := by
  unfold State.pwrChTick
  repeat' first
    | with_reducible assumption | with_reducible apply Follows.ite | with_reducible apply State.modPwrCh_follows
    | with_reducible apply State.countBy_follows | with_reducible apply State.adapt_follows
    | with_reducible apply State.battLimit_follows | with_reducible apply State.thermLimit_follows
    | with_reducible apply State.excursion_follows | with_reducible apply State.pwrSample_follows
    | exact within hl rfl | (apply Follows.foldl; intro _ _ _) | with_reducible refine Follows.mkRegs ?_ hl ?_ ?_
    | with_reducible exact id
    | (intro p hp; cases p <;> first | with_reducible rfl | exact absurd (List.elem_iff.mp rfl) hp)

theorem State.pwrTick_follows {lp : List Part} {r : State} (s : State) (inp : PowerIn) (hl : [.rc, .count, .pwr] ⊆
    lp) (h : Follows lp r s) : Follows lp r (State.pwrTick s inp) := by
  unfold State.pwrTick
  repeat' first
    | with_reducible assumption | with_reducible apply Follows.ite | with_reducible apply State.pwrChTick_follows
    | exact within hl rfl | split | extract_lets | with_reducible refine Follows.mkRegs ?_ hl ?_ ?_
    | with_reducible exact id
    | (intro p hp; cases p <;> first | with_reducible rfl | exact absurd (List.elem_iff.mp rfl) hp)

theorem State.senseSource_follows {lp : List Part} {r : State} (s : State) (k : Nat) (offset : Int) (words : List
    Word) (bad : List Nat) (src : SMap (List Int)) (hl : [.rc, .count, .pwr] ⊆ lp) (h : Follows lp r s) : Follows
    lp r (State.senseSource s k offset words bad src).1 := by
  unfold State.senseSource
  repeat' first
    | with_reducible assumption | with_reducible apply Follows.ite | with_reducible apply Follows.ite_fst
    | with_reducible apply State.modPwrCh_follows | with_reducible apply State.countBy_follows
    | with_reducible apply State.sdgPoison_follows | exact within hl rfl | (apply Follows.foldl; intro _ _ _)
    | (apply Follows.foldl_fst; intro _ _ _) | split | extract_lets
    | with_reducible refine Follows.mkRegs ?_ hl ?_ ?_ | with_reducible exact id
    | (intro p hp; cases p <;> first | with_reducible rfl | exact absurd (List.elem_iff.mp rfl) hp) | assumption

theorem State.senseIngress_follows {lp : List Part} {r : State} (s : State) (inp : PowerIn) (src : SMap (List Int))
    (hl : [.rc, .count, .pwr] ⊆ lp) (h : Follows lp r s) : Follows lp r (State.senseIngress s inp src).1 := by
  unfold State.senseIngress
  repeat' first
    | with_reducible assumption | with_reducible apply Follows.ite | with_reducible apply Follows.ite_fst
    | with_reducible apply State.senseSource_follows | exact within hl rfl | (apply Follows.foldl; intro _ _ _)
    | (apply Follows.foldl_fst; intro _ _ _) | split | assumption

theorem State.battMuteOn_follows {lp : List Part} {r : State} (s : State) (c mv : Nat) (hl : [.rc, .mix, .pwr] ⊆
    lp) (h : Follows lp r s) : Follows lp r (State.battMuteOn s c mv) := by
  unfold State.battMuteOn
  repeat' first
    | with_reducible assumption | with_reducible apply Follows.ite | with_reducible apply State.modPwrCh_follows
    | with_reducible apply State.muteOn_follows | with_reducible apply State.flagRaise_follows
    | exact within hl rfl | split | extract_lets | with_reducible refine Follows.mkRegs ?_ hl ?_ ?_
    | with_reducible exact id
    | (intro p hp; cases p <;> first | with_reducible rfl | exact absurd (List.elem_iff.mp rfl) hp)

theorem State.battMuteOff_follows {lp : List Part} {r : State} (s : State) (c mv : Nat) (hl : [.mix, .pwr] ⊆ lp) (h
    : Follows lp r s) : Follows lp r (State.battMuteOff s c mv) := by
  unfold State.battMuteOff
  repeat' first
    | with_reducible assumption | with_reducible apply Follows.ite | with_reducible apply State.modPwrCh_follows
    | with_reducible apply State.muteOff_follows | exact within hl rfl | split | extract_lets
    | with_reducible refine Follows.mkRegs ?_ hl ?_ ?_ | with_reducible exact id
    | (intro p hp; cases p <;> first | with_reducible rfl | exact absurd (List.elem_iff.mp rfl) hp)

theorem State.idleEntry_follows {lp : List Part} {r : State} (s : State) (c : Nat) (hl : [.pwr] ⊆ lp) (h : Follows
    lp r s) : Follows lp r (State.idleEntry s c) := by
  unfold State.idleEntry
  repeat' first
    | with_reducible assumption | with_reducible apply Follows.ite | with_reducible apply State.modPwrCh_follows
    | exact within hl rfl | with_reducible refine Follows.mkRegs ?_ hl ?_ ?_ | with_reducible exact id
    | (intro p hp; cases p <;> first | with_reducible rfl | exact absurd (List.elem_iff.mp rfl) hp)

theorem State.pwrModel_follows {lp : List Part} {r : State} (s : State) (c k : Nat) (hl : [.rc, .pwr] ⊆ lp) (h :
    Follows lp r s) : Follows lp r (State.pwrModel s c k) := by
  unfold State.pwrModel
  repeat' first
    | with_reducible assumption | with_reducible apply State.modPwrCh_follows
    | with_reducible apply State.flagRaise_follows | exact within hl rfl
    | with_reducible refine Follows.mkRegs ?_ hl ?_ ?_ | with_reducible exact id
    | (intro p hp; cases p <;> first | with_reducible rfl | exact absurd (List.elem_iff.mp rfl) hp)

theorem State.foldback_follows {lp : List Part} {r : State} (s : State) (c : Nat) (t : Int) (hl : [.rc, .pwr] ⊆ lp)
    (h : Follows lp r s) : Follows lp r (State.foldback s c t) := by
  unfold State.foldback
  repeat' first
    | with_reducible assumption | with_reducible apply State.modPwrCh_follows
    | with_reducible apply State.thermLimit_follows | exact within hl rfl
    | with_reducible refine Follows.mkRegs ?_ hl ?_ ?_ | with_reducible exact id
    | (intro p hp; cases p <;> first | with_reducible rfl | exact absurd (List.elem_iff.mp rfl) hp)

theorem State.batteryLimit_follows {lp : List Part} {r : State} (s : State) (c mv : Nat) (hl : [.rc, .pwr] ⊆ lp) (h
    : Follows lp r s) : Follows lp r (State.batteryLimit s c mv) := by
  unfold State.batteryLimit
  repeat' first
    | with_reducible assumption | with_reducible apply State.battLimit_follows | exact within hl rfl
    | with_reducible refine Follows.mkRegs ?_ hl ?_ ?_ | with_reducible exact id
    | (intro p hp; cases p <;> first | with_reducible rfl | exact absurd (List.elem_iff.mp rfl) hp)

theorem State.pwrUnitReset_follows {lp : List Part} {r : State} (s : State) (c : Nat) (hl : [.mix, .pwr] ⊆ lp) (h :
    Follows lp r s) : Follows lp r (State.pwrUnitReset s c) := by
  unfold State.pwrUnitReset
  repeat' first
    | with_reducible assumption | with_reducible apply State.modPwrCh_follows
    | with_reducible apply State.muteOff_follows | with_reducible apply State.muteOn_follows | exact within hl rfl
    | with_reducible refine Follows.mkRegs ?_ hl ?_ ?_ | with_reducible exact id
    | (intro p hp; cases p <;> first | with_reducible rfl | exact absurd (List.elem_iff.mp rfl) hp)

theorem State.linkUnitReset_follows {lp : List Part} {r : State} (s : State) (hl : [.mix, .pwr] ⊆ lp) (h : Follows
    lp r s) : Follows lp r (State.linkUnitReset s) := by
  unfold State.linkUnitReset
  repeat' first
    | with_reducible assumption | with_reducible apply Follows.ite
    | with_reducible apply State.pwrUnitReset_follows | exact within hl rfl | (apply Follows.foldl; intro _ _ _)
    | (apply Follows.foldl_fst; intro _ _ _) | split | extract_lets
    | with_reducible refine Follows.mkRegs ?_ hl ?_ ?_ | with_reducible exact id
    | (intro p hp; cases p <;> first | with_reducible rfl | exact absurd (List.elem_iff.mp rfl) hp)

end Sys2Proof.Machine
end

