-- ==== Sys2Proof/Laws/FollowsPair.lean ====
section
/-! SUPPORT. What each operation of Machine/Pair.lean does to the state as a whole (Follows). -/

set_option linter.unusedTactic false
set_option linter.unreachableTactic false

namespace Sys2Proof.Machine

theorem State.modPair_follows {lp : List Part} {r : State} (s : State) (f : Pair → Pair) (hl : [.pair] ⊆ lp) (h :
    Follows lp r s) : Follows lp r (State.modPair s f) := by
  unfold State.modPair
  repeat' first
    | with_reducible assumption | with_reducible refine Follows.mkRegs ?_ hl ?_ ?_ | with_reducible exact id
    | (intro p hp; cases p <;> first | with_reducible rfl | exact absurd (List.elem_iff.mp rfl) hp)

theorem State.sendTab_follows {lp : List Part} {r : State} (s : State) (msg lease leaseEnd lag : Nat) (hl : [.rc,
    .count, .macA, .macB] ⊆ lp) (h : Follows lp r s) : Follows lp r (State.sendTab s msg lease leaseEnd lag) := by
  unfold State.sendTab
  repeat' first
    | with_reducible assumption | with_reducible apply Follows.ite | with_reducible apply State.enqueue_follows
    | exact within hl rfl | (apply Follows.foldl; intro _ _ _)

theorem State.sendRenew_follows {lp : List Part} {r : State} (s : State) (hl : [.rc, .count, .macA, .macB, .pair] ⊆
    lp) (h : Follows lp r s) : Follows lp r (State.sendRenew s) := by
  unfold State.sendRenew
  repeat' first
    | with_reducible assumption | with_reducible apply State.sendTab_follows
    | with_reducible apply State.modPair_follows | exact within hl rfl
    | with_reducible refine Follows.mkRegs ?_ hl ?_ ?_ | with_reducible exact id
    | (intro p hp; cases p <;> first | with_reducible rfl | exact absurd (List.elem_iff.mp rfl) hp)

theorem State.sendReport_follows {lp : List Part} {r : State} (s : State) (hl : [.rc, .count, .macA, .macB, .pair]
    ⊆ lp) (h : Follows lp r s) : Follows lp r (State.sendReport s) := by
  unfold State.sendReport
  repeat' first
    | with_reducible assumption | with_reducible apply Follows.ite | with_reducible apply State.sendTab_follows
    | with_reducible apply State.modPair_follows | exact within hl rfl
    | with_reducible refine Follows.mkRegs ?_ hl ?_ ?_ | with_reducible exact id
    | (intro p hp; cases p <;> first | with_reducible rfl | exact absurd (List.elem_iff.mp rfl) hp)

theorem State.sendRelease_follows {lp : List Part} {r : State} (s : State) (hl : [.rc, .count, .macA, .macB] ⊆ lp)
    (h : Follows lp r s) : Follows lp r (State.sendRelease s) := by
  unfold State.sendRelease
  repeat' first
    | with_reducible assumption | with_reducible apply State.sendTab_follows | exact within hl rfl

theorem State.restale_follows {lp : List Part} {r : State} (s : State) (hl : [.rc, .count, .macA, .macB, .pair] ⊆
    lp) (h : Follows lp r s) : Follows lp r (State.restale s) := by
  unfold State.restale
  repeat' first
    | with_reducible assumption | with_reducible apply Follows.ite | with_reducible apply State.modPair_follows
    | with_reducible apply State.flagRaise_follows | with_reducible apply State.sendReport_follows
    | exact within hl rfl | with_reducible refine Follows.mkRegs ?_ hl ?_ ?_ | with_reducible exact id
    | (intro p hp; cases p <;> first | with_reducible rfl | exact absurd (List.elem_iff.mp rfl) hp)

theorem State.fenceOn_follows {lp : List Part} {r : State} (s : State) (hl : [.mix] ⊆ lp) (h : Follows lp r s) :
    Follows lp r (State.fenceOn s) := by
  unfold State.fenceOn
  repeat' first
    | with_reducible assumption | with_reducible apply State.muteOn_follows | exact within hl rfl
    | (apply Follows.foldl; intro _ _ _)

theorem State.fenceOff_follows {lp : List Part} {r : State} (s : State) (hl : [.mix] ⊆ lp) (h : Follows lp r s) :
    Follows lp r (State.fenceOff s) := by
  unfold State.fenceOff
  repeat' first
    | with_reducible assumption | with_reducible apply State.muteOff_follows | exact within hl rfl
    | (apply Follows.foldl; intro _ _ _)

theorem State.giveUp_follows {lp : List Part} {r : State} (s : State) (hl : [.rc, .count, .mix, .macA, .macB, .pwr,
    .pair] ⊆ lp) (h : Follows lp r s) : Follows lp r (State.giveUp s) := by
  unfold State.giveUp
  repeat' first
    | with_reducible assumption | with_reducible apply Follows.ite | with_reducible apply State.modPair_follows
    | with_reducible apply State.fenceOn_follows | with_reducible apply State.pwrDrive_follows
    | with_reducible apply State.sendReport_follows | exact within hl rfl
    | with_reducible refine Follows.mkRegs ?_ hl ?_ ?_ | with_reducible exact id
    | (intro p hp; cases p <;> first | with_reducible rfl | exact absurd (List.elem_iff.mp rfl) hp)

theorem State.stopDriving_follows {lp : List Part} {r : State} (s : State) (hl : [.rc, .count, .mix, .macA, .macB,
    .pwr, .pair] ⊆ lp) (h : Follows lp r s) : Follows lp r (State.stopDriving s) := by
  unfold State.stopDriving
  repeat' first
    | with_reducible assumption | with_reducible apply State.giveUp_follows
    | with_reducible apply State.flagRaise_follows | exact within hl rfl

theorem State.release_follows {lp : List Part} {r : State} (s : State) (hl : [.rc, .count, .mix, .macA, .macB,
    .pwr, .pair] ⊆ lp) (h : Follows lp r s) : Follows lp r (State.release s) := by
  unfold State.release
  repeat' first
    | with_reducible assumption | with_reducible apply Follows.ite | with_reducible apply State.stopDriving_follows
    | with_reducible apply State.sendRelease_follows | exact within hl rfl

theorem State.fenceCheck_follows {lp : List Part} {r : State} (s : State) (hl : [.rc, .count, .mix, .macA, .macB,
    .pwr, .pair] ⊆ lp) (h : Follows lp r s) : Follows lp r (State.fenceCheck s) := by
  unfold State.fenceCheck
  repeat' first
    | with_reducible assumption | with_reducible apply Follows.ite | with_reducible apply State.stopDriving_follows
    | exact within hl rfl

theorem State.pairRateStop_follows {lp : List Part} {r : State} (s : State) (hl : [.rc, .count, .mix, .macA, .macB,
    .pwr, .pair] ⊆ lp) (h : Follows lp r s) : Follows lp r (State.pairRateStop s) := by
  unfold State.pairRateStop
  repeat' first
    | with_reducible assumption | with_reducible apply State.release_follows
    | with_reducible apply State.modPair_follows | exact within hl rfl
    | with_reducible refine Follows.mkRegs ?_ hl ?_ ?_ | with_reducible exact id
    | (intro p hp; cases p <;> first | with_reducible rfl | exact absurd (List.elem_iff.mp rfl) hp)

theorem State.pairEnter_follows {lp : List Part} {r : State} (s : State) (hl : [.pair] ⊆ lp) (h : Follows lp r s) :
    Follows lp r (State.pairEnter s) := by
  unfold State.pairEnter
  repeat' first
    | with_reducible assumption | with_reducible apply State.modPair_follows | exact within hl rfl
    | with_reducible refine Follows.mkRegs ?_ hl ?_ ?_ | with_reducible exact id
    | (intro p hp; cases p <;> first | with_reducible rfl | exact absurd (List.elem_iff.mp rfl) hp)

theorem State.pairRelease_follows {lp : List Part} {r : State} (s : State) (hl : [.pair] ⊆ lp) (h : Follows lp r s)
    : Follows lp r (State.pairRelease s) := by
  unfold State.pairRelease
  repeat' first
    | with_reducible assumption | with_reducible apply State.modPair_follows | exact within hl rfl
    | with_reducible refine Follows.mkRegs ?_ hl ?_ ?_ | with_reducible exact id
    | (intro p hp; cases p <;> first | with_reducible rfl | exact absurd (List.elem_iff.mp rfl) hp)

theorem State.standBy_follows {lp : List Part} {r : State} (s : State) (hl : [.rc, .count, .macA, .macB, .pair] ⊆
    lp) (h : Follows lp r s) : Follows lp r (State.standBy s) := by
  unfold State.standBy
  repeat' first
    | with_reducible assumption | with_reducible apply Follows.ite | with_reducible apply State.modPair_follows
    | with_reducible apply State.restale_follows | with_reducible apply State.sendReport_follows
    | exact within hl rfl | split | extract_lets | with_reducible refine Follows.mkRegs ?_ hl ?_ ?_
    | with_reducible exact id
    | (intro p hp; cases p <;> first | with_reducible rfl | exact absurd (List.elem_iff.mp rfl) hp) | assumption

theorem State.undark_follows {lp : List Part} {r : State} (s : State) (hl : [.rc, .count, .macA, .macB, .pair] ⊆
    lp) (h : Follows lp r s) : Follows lp r (State.undark s) := by
  unfold State.undark
  repeat' first
    | with_reducible assumption | with_reducible apply Follows.ite | with_reducible apply State.standBy_follows
    | exact within hl rfl

theorem State.pairEntry_follows {lp : List Part} {r : State} (s : State) (hl : [.rc, .count, .mix, .macA, .macB,
    .pwr, .pair] ⊆ lp) (h : Follows lp r s) : Follows lp r (State.pairEntry s) := by
  unfold State.pairEntry
  repeat' first
    | with_reducible assumption | with_reducible apply Follows.ite | with_reducible apply State.modPair_follows
    | with_reducible apply State.fenceOn_follows | with_reducible apply State.pwrDrive_follows
    | with_reducible apply State.standBy_follows | exact within hl rfl
    | with_reducible refine Follows.mkRegs ?_ hl ?_ ?_ | with_reducible exact id
    | (intro p hp; cases p <;> first | with_reducible rfl | exact absurd (List.elem_iff.mp rfl) hp)

theorem State.beginRefresh_follows {lp : List Part} {r : State} (s : State) (hl : [.pair] ⊆ lp) (h : Follows lp r
    s) : Follows lp r (State.beginRefresh s) := by
  unfold State.beginRefresh
  repeat' first
    | with_reducible assumption | with_reducible apply Follows.ite | with_reducible apply State.modPair_follows
    | exact within hl rfl | with_reducible refine Follows.mkRegs ?_ hl ?_ ?_ | with_reducible exact id
    | (intro p hp; cases p <;> first | with_reducible rfl | exact absurd (List.elem_iff.mp rfl) hp)

theorem State.recordLimit_follows {lp : List Part} {r : State} (s : State) (hl : [.pair] ⊆ lp) (h : Follows lp r s)
    : Follows lp r (State.recordLimit s) := by
  unfold State.recordLimit
  repeat' first
    | with_reducible assumption | with_reducible apply Follows.ite | with_reducible apply State.modPair_follows
    | with_reducible apply State.beginRefresh_follows | exact within hl rfl | (apply Follows.foldl; intro _ _ _)
    | (apply Follows.foldl_fst; intro _ _ _) | split | with_reducible refine Follows.mkRegs ?_ hl ?_ ?_
    | with_reducible exact id
    | (intro p hp; cases p <;> first | with_reducible rfl | exact absurd (List.elem_iff.mp rfl) hp) | assumption

theorem State.record_follows {lp : List Part} {r : State} (s : State) (typ label addr : Nat) (data : List Word) (hl
    : [.pair] ⊆ lp) (h : Follows lp r s) : Follows lp r (State.record s typ label addr data) := by
  unfold State.record
  repeat' first
    | with_reducible assumption | with_reducible apply Follows.ite | with_reducible apply State.modPair_follows
    | with_reducible apply State.recordLimit_follows | exact within hl rfl
    | with_reducible refine Follows.mkRegs ?_ hl ?_ ?_ | with_reducible exact id
    | (intro p hp; cases p <;> first | with_reducible rfl | exact absurd (List.elem_iff.mp rfl) hp)

theorem State.recordDep_follows {lp : List Part} {r : State} (s : State) (d : Nat) (hl : [.pair] ⊆ lp) (h : Follows
    lp r s) : Follows lp r (State.recordDep s d) := by
  unfold State.recordDep
  repeat' first
    | with_reducible assumption | with_reducible apply State.record_follows | exact within hl rfl

theorem State.recordWord_follows {lp : List Part} {r : State} (s : State) (a : Nat) (w : Word) (hl : [.pair] ⊆ lp)
    (h : Follows lp r s) : Follows lp r (State.recordWord s a w) := by
  unfold State.recordWord
  repeat' first
    | with_reducible assumption | with_reducible apply Follows.ite | with_reducible apply State.record_follows
    | exact within hl rfl

theorem State.recordSet_follows {lp : List Part} {r : State} (s : State) (l : Nat) (ps : List (Nat × Word)) (hl :
    [.pair] ⊆ lp) (h : Follows lp r s) : Follows lp r (State.recordSet s l ps) := by
  unfold State.recordSet
  repeat' first
    | with_reducible assumption | with_reducible apply State.record_follows | exact within hl rfl
    | (apply Follows.foldl; intro _ _ _)

theorem State.recordSwap_follows {lp : List Part} {r : State} (s : State) (o l : Nat) (hl : [.pair] ⊆ lp) (h :
    Follows lp r s) : Follows lp r (State.recordSwap s o l) := by
  unfold State.recordSwap
  repeat' first
    | with_reducible assumption | with_reducible apply State.record_follows | exact within hl rfl

theorem State.recordCopy_follows {lp : List Part} {r : State} (s : State) (o : Nat) (hl : [.pair] ⊆ lp) (h :
    Follows lp r s) : Follows lp r (State.recordCopy s o) := by
  unfold State.recordCopy
  repeat' first
    | with_reducible assumption | with_reducible apply State.record_follows | exact within hl rfl

theorem State.recordFire_follows {lp : List Part} {r : State} (s : State) (n l : Nat) (hl : [.pair] ⊆ lp) (h :
    Follows lp r s) : Follows lp r (State.recordFire s n l) := by
  unfold State.recordFire
  repeat' first
    | with_reducible assumption | with_reducible apply Follows.ite | with_reducible apply State.record_follows
    | with_reducible apply State.modPair_follows | exact within hl rfl
    | with_reducible refine Follows.mkRegs ?_ hl ?_ ?_ | with_reducible exact id
    | (intro p hp; cases p <;> first | with_reducible rfl | exact absurd (List.elem_iff.mp rfl) hp)

theorem State.sendStatus_follows {lp : List Part} {r : State} (s : State) (h : Follows lp r s) : Follows lp r
    (State.sendStatus s) := by
  unfold State.sendStatus
  repeat' first
    | with_reducible assumption | with_reducible apply State.emit_follows

theorem State.setSend_follows {lp : List Part} {r : State} (s : State) (bad : List Nat) (hl : [.rc, .count, .pair]
    ⊆ lp) (h : Follows lp r s) : Follows lp r (State.setSend s bad) := by
  unfold State.setSend
  repeat' first
    | with_reducible assumption | with_reducible apply Follows.ite | with_reducible apply State.bump_follows
    | with_reducible apply State.modPair_follows | with_reducible apply State.countBy_follows
    | with_reducible apply State.emit_follows | with_reducible apply State.recordLimit_follows
    | with_reducible apply State.sdgPoison_follows | exact within hl rfl | (apply Follows.foldl; intro _ _ _)
    | with_reducible refine Follows.mkRegs ?_ hl ?_ ?_ | with_reducible exact id
    | (intro p hp; cases p <;> first | with_reducible rfl | exact absurd (List.elem_iff.mp rfl) hp)

theorem State.blockRepeat_follows {lp : List Part} {r : State} (s : State) (b n : Nat) (hl : [.rc, .count] ⊆ lp) (h
    : Follows lp r s) : Follows lp r (State.blockRepeat s b n) := by
  unfold State.blockRepeat
  repeat' first
    | with_reducible assumption | with_reducible apply Follows.ite | with_reducible apply State.emit_follows
    | with_reducible apply State.bump_follows | with_reducible apply State.sdgPoison_follows | exact within hl rfl

theorem State.setLink_follows {lp : List Part} {r : State} (s : State) (b : Bool) (hl : [.rc, .count, .macA, .macB,
    .pair] ⊆ lp) (h : Follows lp r s) : Follows lp r (State.setLink s b) := by
  unfold State.setLink
  repeat' first
    | with_reducible assumption | with_reducible apply Follows.ite | with_reducible apply State.modPair_follows
    | with_reducible apply State.flagRaise_follows | with_reducible apply State.beginRefresh_follows
    | with_reducible apply State.restale_follows | exact within hl rfl
    | with_reducible refine Follows.mkRegs ?_ hl ?_ ?_ | with_reducible exact id
    | (intro p hp; cases p <;> first | with_reducible rfl | exact absurd (List.elem_iff.mp rfl) hp)

theorem State.goodBlock_follows {lp : List Part} {r : State} (s : State) (hl : [.rc, .count, .macA, .macB, .pair] ⊆
    lp) (h : Follows lp r s) : Follows lp r (State.goodBlock s) := by
  unfold State.goodBlock
  repeat' first
    | with_reducible assumption | with_reducible apply Follows.ite | with_reducible apply State.modPair_follows
    | with_reducible apply State.setLink_follows | exact within hl rfl
    | with_reducible refine Follows.mkRegs ?_ hl ?_ ?_ | with_reducible exact id
    | (intro p hp; cases p <;> first | with_reducible rfl | exact absurd (List.elem_iff.mp rfl) hp)

theorem State.badBlock_follows {lp : List Part} {r : State} (s : State) (oversize : Option Nat) (poison : Nat) (hl
    : [.rc, .count, .pair] ⊆ lp) (h : Follows lp r s) : Follows lp r (State.badBlock s oversize poison) := by
  unfold State.badBlock
  repeat' first
    | with_reducible assumption | with_reducible apply Follows.ite | with_reducible apply State.modPair_follows
    | with_reducible apply State.bump_follows | with_reducible apply State.sdgOversize_follows
    | with_reducible apply State.sdgRewind_follows | with_reducible apply State.sdgPoison_follows
    | exact within hl rfl | (refine Follows.fst_of_eq (by assumption) ?_)
    | (refine Follows.snd_of_eq (by assumption) ?_) | split | extract_lets
    | with_reducible refine Follows.mkRegs ?_ hl ?_ ?_ | with_reducible exact id
    | (intro p hp; cases p <;> first | with_reducible rfl | exact absurd (List.elem_iff.mp rfl) hp) | assumption

theorem State.linkCheck_follows {lp : List Part} {r : State} (s : State) (hl : [.rc, .count, .macA, .macB, .pair] ⊆
    lp) (h : Follows lp r s) : Follows lp r (State.linkCheck s) := by
  unfold State.linkCheck
  repeat' first
    | with_reducible assumption | with_reducible apply Follows.ite | with_reducible apply State.setLink_follows
    | exact within hl rfl

theorem State.blockLockLoss_follows {lp : List Part} {r : State} (s : State) (hl : [.rc, .count, .macA, .macB,
    .pair] ⊆ lp) (h : Follows lp r s) : Follows lp r (State.blockLockLoss s) := by
  unfold State.blockLockLoss
  repeat' first
    | with_reducible assumption | with_reducible apply State.modPair_follows
    | with_reducible apply State.setLink_follows | exact within hl rfl
    | with_reducible refine Follows.mkRegs ?_ hl ?_ ?_ | with_reducible exact id
    | (intro p hp; cases p <;> first | with_reducible rfl | exact absurd (List.elem_iff.mp rfl) hp)

theorem State.heartbeatLoss_follows {lp : List Part} {r : State} (s : State) (hl : [.rc, .count, .macA, .macB,
    .pair] ⊆ lp) (h : Follows lp r s) : Follows lp r (State.heartbeatLoss s) := by
  unfold State.heartbeatLoss
  repeat' first
    | with_reducible assumption | with_reducible apply Follows.ite | with_reducible apply State.setLink_follows
    | exact within hl rfl

theorem State.mirrorRx_follows {lp : List Part} {r : State} (s : State) (bytes : List Byte) (oversize : Option Nat)
    (poison : Nat) (hl : [.rc, .count, .macA, .macB, .pair] ⊆ lp) (h : Follows lp r s) : Follows lp r
    (State.mirrorRx s bytes oversize poison) := by
  unfold State.mirrorRx
  repeat' first
    | with_reducible assumption | with_reducible apply Follows.ite | with_reducible apply State.badBlock_follows
    | with_reducible apply State.goodBlock_follows | with_reducible apply State.fresh_follows
    | with_reducible apply State.bump_follows | with_reducible apply State.modPair_follows
    | with_reducible apply State.sendStatus_follows | exact within hl rfl
    | (refine Follows.fst_of_eq (by assumption) ?_) | (refine Follows.snd_of_eq (by assumption) ?_) | split
    | extract_lets | with_reducible refine Follows.mkRegs ?_ hl ?_ ?_ | with_reducible exact id
    | (intro p hp; cases p <;> first | with_reducible rfl | exact absurd (List.elem_iff.mp rfl) hp) | assumption

theorem State.crcCompare_follows {lp : List Part} {r : State} (s : State) (w : Word) (hl : [.rc, .pair] ⊆ lp) (h :
    Follows lp r s) : Follows lp r (State.crcCompare s w) := by
  unfold State.crcCompare
  repeat' first
    | with_reducible assumption | with_reducible apply Follows.ite | with_reducible apply State.modPair_follows
    | with_reducible apply State.flagRaise_follows | exact within hl rfl
    | with_reducible refine Follows.mkRegs ?_ hl ?_ ?_ | with_reducible exact id
    | (intro p hp; cases p <;> first | with_reducible rfl | exact absurd (List.elem_iff.mp rfl) hp)

theorem State.statusRx_follows {lp : List Part} {r : State} (s : State) (bytes : List Byte) (oversize : Option Nat)
    (poison : Nat) (hl : [.rc, .count, .macA, .macB, .pair] ⊆ lp) (h : Follows lp r s) : Follows lp r
    (State.statusRx s bytes oversize poison) := by
  unfold State.statusRx
  repeat' first
    | with_reducible assumption | with_reducible apply Follows.ite | with_reducible apply State.badBlock_follows
    | with_reducible apply State.goodBlock_follows | with_reducible apply State.modPair_follows
    | with_reducible apply State.setLink_follows | with_reducible apply State.crcCompare_follows
    | with_reducible apply State.beginRefresh_follows | with_reducible apply State.restale_follows
    | exact within hl rfl | (refine Follows.fst_of_eq (by assumption) ?_)
    | (refine Follows.snd_of_eq (by assumption) ?_) | split | extract_lets
    | with_reducible refine Follows.mkRegs ?_ hl ?_ ?_ | with_reducible exact id
    | (intro p hp; cases p <;> first | with_reducible rfl | exact absurd (List.elem_iff.mp rfl) hp) | assumption

theorem State.grantOwn_follows {lp : List Part} {r : State} (s : State) (g e grains : Nat) (hl : [.rc, .count,
    .macA, .macB, .pair] ⊆ lp) (h : Follows lp r s) : Follows lp r (State.grantOwn s g e grains) := by
  unfold State.grantOwn
  repeat' first
    | with_reducible assumption | with_reducible apply Follows.ite | with_reducible apply State.modPair_follows
    | with_reducible apply State.flagRaise_follows | with_reducible apply State.bump_follows
    | with_reducible apply State.flag_follows | with_reducible apply State.sendRelease_follows
    | exact within hl rfl | with_reducible refine Follows.mkRegs ?_ hl ?_ ?_ | with_reducible exact id
    | (intro p hp; cases p <;> first | with_reducible rfl | exact absurd (List.elem_iff.mp rfl) hp)

theorem State.grantOther_follows {lp : List Part} {r : State} (s : State) (g : Nat) (hl : [.pair] ⊆ lp) (h :
    Follows lp r s) : Follows lp r (State.grantOther s g) := by
  unfold State.grantOther
  repeat' first
    | with_reducible assumption | with_reducible apply Follows.ite | with_reducible apply State.modPair_follows
    | exact within hl rfl | with_reducible refine Follows.mkRegs ?_ hl ?_ ?_ | with_reducible exact id
    | (intro p hp; cases p <;> first | with_reducible rfl | exact absurd (List.elem_iff.mp rfl) hp)

theorem State.goDark_follows {lp : List Part} {r : State} (s : State) (hl : [.rc, .count, .macA, .macB, .pair] ⊆
    lp) (h : Follows lp r s) : Follows lp r (State.goDark s) := by
  unfold State.goDark
  repeat' first
    | with_reducible assumption | with_reducible apply Follows.ite | with_reducible apply State.modPair_follows
    | with_reducible apply State.flagRaise_follows | with_reducible apply State.sendReport_follows
    | exact within hl rfl | with_reducible refine Follows.mkRegs ?_ hl ?_ ?_ | with_reducible exact id
    | (intro p hp; cases p <;> first | with_reducible rfl | exact absurd (List.elem_iff.mp rfl) hp)

theorem State.tabletRx_follows {lp : List Part} {r : State} (s : State) (b : List Byte) (poison : Bool) (grains :
    Nat) (hl : [.rc, .count, .macA, .macB, .pair] ⊆ lp) (h : Follows lp r s) : Follows lp r (State.tabletRx s b
    poison grains) := by
  unfold State.tabletRx
  repeat' first
    | with_reducible assumption | with_reducible apply Follows.ite | with_reducible apply State.bump_follows
    | with_reducible apply State.grantOwn_follows | with_reducible apply State.grantOther_follows
    | with_reducible apply State.goDark_follows | exact within hl rfl

theorem State.grantAdopt_follows {lp : List Part} {r : State} (s : State) (hl : [.rc, .count, .macA, .macB, .pair]
    ⊆ lp) (h : Follows lp r s) : Follows lp r (State.grantAdopt s) := by
  unfold State.grantAdopt
  repeat' first
    | with_reducible assumption | with_reducible apply Follows.ite | with_reducible apply State.modPair_follows
    | with_reducible apply State.bump_follows | with_reducible apply State.sendRenew_follows
    | with_reducible apply State.beginRefresh_follows | exact within hl rfl
    | with_reducible refine Follows.mkRegs ?_ hl ?_ ?_ | with_reducible exact id
    | (intro p hp; cases p <;> first | with_reducible rfl | exact absurd (List.elem_iff.mp rfl) hp)

theorem State.driveStart_follows {lp : List Part} {r : State} (s : State) (hl : [.rc, .mix, .pwr, .pair] ⊆ lp) (h :
    Follows lp r s) : Follows lp r (State.driveStart s) := by
  unfold State.driveStart
  repeat' first
    | with_reducible assumption | with_reducible apply Follows.ite | with_reducible apply State.modPair_follows
    | with_reducible apply State.fenceOff_follows | with_reducible apply State.pwrDrive_follows
    | with_reducible apply State.flag_follows | exact within hl rfl
    | with_reducible refine Follows.mkRegs ?_ hl ?_ ?_ | with_reducible exact id
    | (intro p hp; cases p <;> first | with_reducible rfl | exact absurd (List.elem_iff.mp rfl) hp)

theorem State.pairBoundary_follows {lp : List Part} {r : State} (s : State) (hl : [.rc, .count, .mix, .macA, .macB,
    .pwr, .pair] ⊆ lp) (h : Follows lp r s) : Follows lp r (State.pairBoundary s) := by
  unfold State.pairBoundary
  repeat' first
    | with_reducible assumption | with_reducible apply Follows.ite | with_reducible apply State.giveUp_follows
    | with_reducible apply State.stopDriving_follows | with_reducible apply State.modPair_follows
    | with_reducible apply State.release_follows | exact within hl rfl
    | with_reducible refine Follows.mkRegs ?_ hl ?_ ?_ | with_reducible exact id
    | (intro p hp; cases p <;> first | with_reducible rfl | exact absurd (List.elem_iff.mp rfl) hp)

theorem State.pairMark_follows {lp : List Part} {r : State} (s : State) (hl : [.pair] ⊆ lp) (h : Follows lp r s) :
    Follows lp r (State.pairMark s) := by
  unfold State.pairMark
  repeat' first
    | with_reducible assumption | with_reducible apply State.modPair_follows | exact within hl rfl
    | with_reducible refine Follows.mkRegs ?_ hl ?_ ?_ | with_reducible exact id
    | (intro p hp; cases p <;> first | with_reducible rfl | exact absurd (List.elem_iff.mp rfl) hp)

theorem State.pairTick_follows {lp : List Part} {r : State} (s : State) (bad : List Nat) (hl : [.rc, .count, .macA,
    .macB, .pair] ⊆ lp) (h : Follows lp r s) : Follows lp r (State.pairTick s bad) := by
  unfold State.pairTick
  repeat' first
    | with_reducible assumption | with_reducible apply Follows.ite | with_reducible apply State.modPair_follows
    | with_reducible apply State.pairMark_follows | with_reducible apply State.restale_follows
    | with_reducible apply State.setSend_follows | with_reducible apply State.sendStatus_follows
    | with_reducible apply State.sendRenew_follows | with_reducible apply State.sendReport_follows
    | exact within hl rfl | with_reducible refine Follows.mkRegs ?_ hl ?_ ?_ | with_reducible exact id
    | (intro p hp; cases p <;> first | with_reducible rfl | exact absurd (List.elem_iff.mp rfl) hp)

end Sys2Proof.Machine
end

