-- ==== Sys2Proof/Laws/FollowsSnap.lean ====
section
/-! SUPPORT. What each operation of Machine/Snap.lean does to the state as a whole (Follows). -/

set_option linter.unusedTactic false
set_option linter.unreachableTactic false

namespace Sys2Proof.Machine

theorem State.setStagedBit_follows {lp : List Part} {r : State} (s : State) (g : Nat) (b : Bool) (hl : [.snap] ⊆
    lp) (h : Follows lp r s) : Follows lp r (State.setStagedBit s g b) := by
  unfold State.setStagedBit
  repeat' first
    | with_reducible assumption | with_reducible apply Follows.ite | split
    | with_reducible refine Follows.mkRegs ?_ hl ?_ ?_ | with_reducible exact id
    | (intro p hp; cases p <;> first | with_reducible rfl | exact absurd (List.elem_iff.mp rfl) hp)

theorem State.takeSnap_follows {lp : List Part} {r : State} (s : State) (g : Nat) (hl : [.snap] ⊆ lp) (h : Follows
    lp r s) : Follows lp r (State.takeSnap s g) := by
  unfold State.takeSnap
  repeat' first
    | with_reducible assumption | with_reducible apply State.setStagedBit_follows | exact within hl rfl
    | (refine Follows.fst_of_eq (by assumption) ?_) | (refine Follows.snd_of_eq (by assumption) ?_) | split
    | extract_lets | with_reducible refine Follows.mkRegs ?_ hl ?_ ?_ | with_reducible exact id
    | (intro p hp; cases p <;> first | with_reducible rfl | exact absurd (List.elem_iff.mp rfl) hp)

theorem State.strobe_follows {lp : List Part} {r : State} (s : State) (mask : Nat) (hl : [.snap] ⊆ lp) (h : Follows
    lp r s) : Follows lp r (State.strobe s mask) := by
  unfold State.strobe
  repeat' first
    | with_reducible assumption | with_reducible apply State.takeSnap_follows | exact within hl rfl
    | (apply Follows.foldl; intro _ _ _)

theorem State.adoptFields_follows {lp : List Part} {r : State} (s old : State) (b : Nat) (hl : [.applied] ⊆ lp) (h
    : Follows lp r s) (h1 : Follows lp r old) : Follows lp r (State.adoptFields s old b) := by
  unfold State.adoptFields
  repeat' first
    | with_reducible assumption | with_reducible apply Follows.ite | with_reducible apply State.setApplied_follows
    | exact within hl rfl | (apply Follows.foldl; intro _ _ _)

theorem State.refusedSnap_follows {lp : List Part} {r : State} (s : State) (x : Snapshot) (hl : [.snap] ⊆ lp) (h :
    Follows lp r s) : Follows lp r (State.refusedSnap s x) := by
  unfold State.refusedSnap
  repeat' first
    | with_reducible assumption | with_reducible apply State.setStagedBit_follows | exact within hl rfl

theorem State.applyWords_follows {lp : List Part} {r : State} (s : State) (x : Snapshot) (b : Nat) (hl : [.applied]
    ⊆ lp) (h : Follows lp r s) : Follows lp r (State.applyWords s x b) := by
  unfold State.applyWords
  repeat' first
    | with_reducible assumption | with_reducible apply State.adoptFields_follows | exact within hl rfl
    | with_reducible refine Follows.mkRegs ?_ hl ?_ ?_ | with_reducible exact id
    | (intro p hp; cases p <;> first | with_reducible rfl | exact absurd (List.elem_iff.mp rfl) hp)
    | with_reducible refine Follows.mkStores ?_ hl ?_ ?_ ?_
    | with_reducible exact id
    | (intro p hp; cases p <;> first | with_reducible rfl | exact absurd (List.elem_iff.mp rfl) hp)
    | (refine fun ⟨_, _, _, _, _, _, _, _, _, _, _⟩ => ⟨?_, ?_, ?_, ?_, ?_, ?_, ?_, ?_, ?_, ?_, ?_⟩
        <;> (try dsimp only) <;> first
          | with_reducible assumption | exact swf_replaceWhere (by assumption) _ _ | exact swf_sset (by assumption) _ _
          | exact swf_filter (by assumption) _ | assumption
          | exact fun p hp => (by assumption : ∀ p ∈ _, _) p (List.mem_of_mem_filter hp) | skip)

theorem State.applyTT_follows {lp : List Part} {r : State} (s : State) (x : Snapshot) (hl : [.applied, .rc, .snap,
    .tt] ⊆ lp) (h : Follows lp r s) : Follows lp r (State.applyTT s x) := by
  unfold State.applyTT
  repeat' first
    | with_reducible assumption | with_reducible apply Follows.ite | with_reducible apply State.applyWords_follows
    | with_reducible apply State.flag_follows | with_reducible apply State.refusedSnap_follows
    | exact within hl rfl | split | extract_lets | with_reducible refine Follows.mkRegs ?_ hl ?_ ?_
    | with_reducible exact id
    | (intro p hp; cases p <;> first | with_reducible rfl | exact absurd (List.elem_iff.mp rfl) hp)

theorem State.tickAdopt_follows {lp : List Part} {r : State} (s : State) (hl : [.applied, .rc, .snap, .tt] ⊆ lp) (h
    : Follows lp r s) : Follows lp r (State.tickAdopt s) := by
  unfold State.tickAdopt
  repeat' first
    | with_reducible assumption | with_reducible apply Follows.ite | with_reducible apply State.setApplied_follows
    | with_reducible apply State.flag_follows | with_reducible apply State.setStagedBit_follows
    | exact within hl rfl | (refine Follows.fst_of_eq (by assumption) ?_)
    | (refine Follows.snd_of_eq (by assumption) ?_) | split | extract_lets
    | with_reducible refine Follows.mkRegs ?_ hl ?_ ?_ | with_reducible exact id
    | (intro p hp; cases p <;> first | with_reducible rfl | exact absurd (List.elem_iff.mp rfl) hp)

theorem State.applyPwr_follows {lp : List Part} {r : State} (s : State) (x : Snapshot) (hl : [.applied, .snap,
    .pwr] ⊆ lp) (h : Follows lp r s) : Follows lp r (State.applyPwr s x) := by
  unfold State.applyPwr
  repeat' first
    | with_reducible assumption | with_reducible apply Follows.ite | with_reducible apply State.applyWords_follows
    | with_reducible apply State.setApplied_follows | with_reducible apply State.refusedSnap_follows
    | exact within hl rfl | split | extract_lets | with_reducible refine Follows.mkRegs ?_ hl ?_ ?_
    | with_reducible exact id
    | (intro p hp; cases p <;> first | with_reducible rfl | exact absurd (List.elem_iff.mp rfl) hp)

theorem State.applyBlock_follows {lp : List Part} {r : State} (s : State) (x : Snapshot) (b : Nat) (hl : [.applied,
    .rc, .snap, .tt, .pwr] ⊆ lp) (h : Follows lp r s) : Follows lp r (State.applyBlock s x b) := by
  unfold State.applyBlock
  repeat' first
    | with_reducible assumption | with_reducible apply Follows.ite | with_reducible apply State.flagRaise_follows
    | with_reducible apply State.refusedSnap_follows | with_reducible apply State.applyWords_follows
    | with_reducible apply State.applyTT_follows | with_reducible apply State.flag_follows
    | with_reducible apply State.applyPwr_follows | exact within hl rfl | split | extract_lets
    | with_reducible refine Follows.mkRegs ?_ hl ?_ ?_ | with_reducible exact id
    | (intro p hp; cases p <;> first | with_reducible rfl | exact absurd (List.elem_iff.mp rfl) hp)

theorem State.crcDiscard_follows {lp : List Part} {r : State} (s : State) (hl : [.crc] ⊆ lp) (h : Follows lp r s) :
    Follows lp r (State.crcDiscard s) := by
  unfold State.crcDiscard
  repeat' first
    | with_reducible assumption | with_reducible apply Follows.ite | split
    | with_reducible refine Follows.mkRegs ?_ hl ?_ ?_ | with_reducible exact id
    | (intro p hp; cases p <;> first | with_reducible rfl | exact absurd (List.elem_iff.mp rfl) hp)

theorem State.applySnaps_follows {lp : List Part} {r : State} (s : State) (hl : [.applied, .rc, .snap, .crc, .tt,
    .pwr] ⊆ lp) (h : Follows lp r s) : Follows lp r (State.applySnaps s) := by
  unfold State.applySnaps
  repeat' first
    | with_reducible assumption | with_reducible apply Follows.ite | with_reducible apply State.applyBlock_follows
    | with_reducible apply State.crcDiscard_follows | exact within hl rfl | (apply Follows.foldl; intro _ _ _)
    | (apply Follows.foldl_fst; intro _ _ _) | split | extract_lets
    | with_reducible refine Follows.mkRegs ?_ hl ?_ ?_ | with_reducible exact id
    | (intro p hp; cases p <;> first | with_reducible rfl | exact absurd (List.elem_iff.mp rfl) hp)

theorem State.synWait_follows {lp : List Part} {r : State} (s : State) (g : Nat) (hl : [.snap] ⊆ lp) (h : Follows
    lp r s) : Follows lp r (State.synWait s g) := by
  unfold State.synWait
  repeat' first
    | with_reducible assumption | with_reducible apply Follows.ite | split
    | with_reducible refine Follows.mkRegs ?_ hl ?_ ?_ | with_reducible exact id
    | (intro p hp; cases p <;> first | with_reducible rfl | exact absurd (List.elem_iff.mp rfl) hp)

theorem State.step3Begin_follows {lp : List Part} {r : State} (s : State) (hl : [.staged, .applied, .rc, .bank,
    .mcr, .syn, .mix, .stx, .eng, .srx, .dpc, .ring, .sap, .asrc] ⊆ lp) (h : Follows lp r s) : Follows lp r
    (State.step3Begin s) := by
  unfold State.step3Begin
  repeat' first
    | with_reducible assumption | with_reducible apply Follows.ite | with_reducible apply State.stxRateStop_follows
    | with_reducible apply State.srxRateStop_follows | with_reducible apply State.audRateStop_follows
    | with_reducible apply State.sapRateStop_follows | with_reducible apply State.relockStep3_follows
    | with_reducible apply State.engCheckAll_follows | with_reducible apply State.asrcAll_follows
    | with_reducible apply State.asrcAdmit_follows | with_reducible apply State.sapRejudge_follows
    | exact within hl rfl | split | extract_lets | assumption

theorem State.step3Again_follows {lp : List Part} {r : State} (s : State) (hl : [.staged, .applied, .rc, .bank,
    .mcr, .syn, .mix, .stx, .eng, .srx, .dpc, .ring, .sap, .asrc] ⊆ lp) (h : Follows lp r s) : Follows lp r
    (State.step3Again s) := by
  unfold State.step3Again
  repeat' first
    | with_reducible assumption | with_reducible apply Follows.ite | with_reducible apply State.step3Begin_follows
    | exact within hl rfl | split | assumption

theorem State.adoptBlocks_follows {lp : List Part} {r : State} (s old : State) (bs : List Nat) (hl : [.staged,
    .applied, .rw, .rc, .count, .bank, .snap, .hstop, .tt, .tim, .mcr, .syn, .mix, .macA, .macB, .mdio, .stx, .eng,
    .pool, .srx, .dpc, .ring, .sap, .asrc, .pwr, .pair, .sst] ⊆ lp) (h : Follows lp r s) (h1 : Follows lp r old) :
    Follows lp r (State.adoptBlocks s old bs) := by
  unfold State.adoptBlocks
  extract_lets has_ a0 a b c0 c d e f g engs hh back i
  have k0 : Follows lp r a0 :=
    Follows.ite (State.step3Again_follows _ (within hl rfl)
      (State.synWait_follows _ _ (within hl rfl) (State.synAdopt_follows _ _ (within hl rfl) h h1))) h
  have k1 : Follows lp r a := Follows.ite (State.pairRateStop_follows _ (within hl rfl) k0) k0
  have k2 : Follows lp r b := Follows.ite (State.timAdopt_follows _ (within hl rfl) k1) k1
  have k30 : Follows lp r c0 := Follows.ite (State.mcrAdopt_follows _ (within hl rfl) k2) k2
  have k3 : Follows lp r c := Follows.ite (State.tsrcCheck_follows _ (within hl rfl) k30) k30
  have k4 : Follows lp r d := Follows.ite (State.macAdopt_follows _ old _ (within hl rfl) k3 h1) k3
  have k5 : Follows lp r e := Follows.ite (State.macAdopt_follows _ old _ (within hl rfl) k4 h1) k4
  have k6 : Follows lp r f := Follows.ite (State.resvShort_follows _ _ (within hl rfl) k5 h1) k5
  have k7 : Follows lp r g :=
    Follows.ite (State.stxPaths_follows _ (within hl rfl) (State.mixAdopt_follows _ (within hl rfl) k6)) k6
  have k8 : Follows lp r hh := Follows.foldl (fun _ _ q => State.engAdopt_follows _ _ (within hl rfl) q) k7 _
  have k9 : Follows lp r i := Follows.ite k8 (State.engCheckAll_follows _ _ (within hl rfl) k8)
  exact Follows.ite (State.asrcAdmit_follows _ (within hl rfl) k9) k9

end Sys2Proof.Machine
end

