-- ==== Sys2Proof/Laws/FollowsDepart.lean ====
section
/-! SUPPORT. What each operation of Machine/Depart.lean does to the state as a whole (Follows). -/

set_option linter.unusedTactic false
set_option linter.unreachableTactic false

namespace Sys2Proof.Machine

theorem State.actBank_follows {lp : List Part} {r : State} (s : State) (w0 w1 : Word) (hl : [.staged, .applied,
    .rc, .bank, .mix, .eng, .pair] ⊆ lp) (h : Follows lp r s) : Follows lp r (State.actBank s w0 w1) := by
  unfold State.actBank
  repeat' first
    | with_reducible assumption | with_reducible apply Follows.ite
    | with_reducible apply State.bankDeparture_follows | with_reducible apply State.recordSwap_follows
    | exact within hl rfl | (apply Follows.foldl; intro _ _ _)

theorem State.actXfade_follows {lp : List Part} {r : State} (s : State) (n : Nat) (hl : [.staged, .applied, .pair]
    ⊆ lp) (h : Follows lp r s) : Follows lp r (State.actXfade s n) := by
  unfold State.actXfade
  repeat' first
    | with_reducible assumption | with_reducible apply State.fireSet_follows
    | with_reducible apply State.recordFire_follows | exact within hl rfl

theorem State.actRenew_follows {lp : List Part} {r : State} (s : State) (hl : [.rc, .count, .macA, .macB, .pair] ⊆
    lp) (h : Follows lp r s) : Follows lp r (State.actRenew s) := by
  unfold State.actRenew
  repeat' first
    | with_reducible assumption | with_reducible apply Follows.ite | with_reducible apply State.sendRenew_follows
    | exact within hl rfl

theorem State.act_follows {lp : List Part} {r : State} (s : State) (k : Taken) (hl : [.staged, .applied, .rc,
    .count, .bank, .mix, .macA, .macB, .stx, .eng, .srx, .dpc, .sap, .pwr, .pair] ⊆ lp) (h : Follows lp r s) :
    Follows lp r (State.act s k) := by
  unfold State.act
  repeat' first
    | with_reducible assumption | with_reducible apply Follows.ite
    | with_reducible apply State.stxStartRange_follows | with_reducible apply State.stxStopRange_follows
    | with_reducible apply State.srxStartRange_follows | with_reducible apply State.srxStopRange_follows
    | with_reducible apply State.sapStartMask_follows | with_reducible apply State.sapStopMask_follows
    | with_reducible apply State.pwrArm_follows | with_reducible apply State.pwrStop_follows
    | with_reducible apply State.actBank_follows | with_reducible apply State.actXfade_follows
    | with_reducible apply State.actRenew_follows | with_reducible apply State.release_follows
    | exact within hl rfl | (apply Follows.foldl; intro _ _ _)

theorem State.fireAll_follows {lp : List Part} {r : State} (s : State) (ks : List Taken) (hl : [.staged, .applied,
    .rc, .count, .bank, .snap, .mix, .macA, .macB, .stx, .eng, .srx, .dpc, .sap, .pwr, .pair] ⊆ lp) (h : Follows lp
    r s) : Follows lp r (State.fireAll s ks) := by
  unfold State.fireAll
  repeat' first
    | with_reducible assumption | with_reducible apply State.act_follows
    | with_reducible apply State.strobe_follows | exact within hl rfl | (apply Follows.foldl; intro _ _ _)

theorem State.actAll_follows {lp : List Part} {r : State} (s : State) (ks : List Taken) (hl : [.staged, .applied,
    .rc, .count, .bank, .mix, .macA, .macB, .stx, .eng, .srx, .dpc, .sap, .pwr, .pair] ⊆ lp) (h : Follows lp r s) :
    Follows lp r (State.actAll s ks) := by
  unfold State.actAll
  repeat' first
    | with_reducible assumption | with_reducible apply State.act_follows | exact within hl rfl
    | (apply Follows.foldl; intro _ _ _)

theorem State.recordTaken_follows {lp : List Part} {r : State} (s : State) (ks : List Taken) (hl : [.pair] ⊆ lp) (h
    : Follows lp r s) : Follows lp r (State.recordTaken s ks) := by
  unfold State.recordTaken
  repeat' first
    | with_reducible assumption | with_reducible apply State.recordDep_follows | exact within hl rfl
    | (apply Follows.foldl; intro _ _ _)

theorem State.slApplyOne_follows {lp : List Part} {r : State} (s : State) (o : Nat) (hl : [.staged, .applied, .mix,
    .eng, .pair] ⊆ lp) (h : Follows lp r s) : Follows lp r (State.slApplyOne s o) := by
  unfold State.slApplyOne
  repeat' first
    | with_reducible assumption | with_reducible apply State.slApply_follows
    | with_reducible apply State.recordSet_follows | exact within hl rfl
    | (refine Follows.fst_of_eq (by assumption) ?_) | (refine Follows.snd_of_eq (by assumption) ?_) | split

theorem State.slApplyAll_follows {lp : List Part} {r : State} (s : State) (hl : [.staged, .applied, .mix, .eng,
    .pair] ⊆ lp) (h : Follows lp r s) : Follows lp r (State.slApplyAll s) := by
  unfold State.slApplyAll
  repeat' first
    | with_reducible assumption | with_reducible apply State.slApplyOne_follows | exact within hl rfl
    | (apply Follows.foldl; intro _ _ _)

end Sys2Proof.Machine
end

