-- ==== Sys2Proof/Laws/FollowsMirror.lean ====
section
/-! SUPPORT. What each operation of Machine/Mirror.lean does to the state as a whole (Follows). -/

set_option linter.unusedTactic false
set_option linter.unreachableTactic false

namespace Sys2Proof.Machine

theorem State.advanceNew_follows {lp : List Part} {r : State} (s old : State) (passed : Nat) (hl : [.mix] ⊆ lp) (h
    : Follows lp r s) (h1 : Follows lp r old) : Follows lp r (State.advanceNew s old passed) := by
  unfold State.advanceNew
  repeat' first
    | with_reducible assumption | with_reducible apply Follows.ite | with_reducible apply State.setJunc_follows
    | exact within hl rfl | (apply Follows.foldl; intro _ _ _) | (apply Follows.foldl_fst; intro _ _ _)
    | (refine Follows.fst_of_eq (by assumption) ?_) | (refine Follows.snd_of_eq (by assumption) ?_) | split
    | extract_lets | with_reducible refine Follows.mkRegs ?_ hl ?_ ?_ | with_reducible exact id
    | (intro p hp; cases p <;> first | with_reducible rfl | exact absurd (List.elem_iff.mp rfl) hp)

theorem State.followWords_follows {lp : List Part} {r : State} (s old : State) (label : Nat) (hl : [.rc, .count,
    .mix] ⊆ lp) (h : Follows lp r s) (h1 : Follows lp r old) : Follows lp r (State.followWords s old label) := by
  unfold State.followWords
  repeat' first
    | with_reducible assumption | with_reducible apply State.hearAll_follows
    | with_reducible apply State.beginDue_follows | with_reducible apply State.retarget_follows
    | with_reducible apply State.advanceNew_follows | exact within hl rfl

theorem State.mirrorWord_follows {lp : List Part} {r : State} (s : State) (typ addr : Nat) (w : Word) (hl :
    [.staged, .applied, .bank] ⊆ lp) (h : Follows lp r s) : Follows lp r (State.mirrorWord s typ addr w) := by
  unfold State.mirrorWord
  repeat' first
    | with_reducible assumption | with_reducible apply Follows.ite | with_reducible apply State.setBank_follows
    | with_reducible apply State.setApplied_follows | with_reducible apply State.setStaged_follows
    | with_reducible apply State.bankWrite_follows | exact within hl rfl

theorem State.mirrorBank_follows {lp : List Part} {r0 : State} (s : State) (r : MirRec) (hl : [.staged, .applied,
    .rc, .bank, .mix, .eng] ⊆ lp) (h : Follows lp r0 s) : Follows lp r0 (State.mirrorBank s r) := by
  unfold State.mirrorBank
  repeat' first
    | with_reducible assumption | with_reducible apply Follows.ite | with_reducible apply State.copyBanks_follows
    | with_reducible apply State.swapTo_follows | with_reducible apply State.setApplied_follows
    | with_reducible apply State.setStaged_follows | exact within hl rfl
    | (refine Follows.fst_of_eq (by assumption) ?_) | (refine Follows.snd_of_eq (by assumption) ?_)

theorem State.mirrorFire_follows {lp : List Part} {r0 : State} (s : State) (r : MirRec) (hl : [.staged, .applied,
    .pair] ⊆ lp) (h : Follows lp r0 s) : Follows lp r0 (State.mirrorFire s r) := by
  unfold State.mirrorFire
  repeat' first
    | with_reducible assumption | with_reducible apply Follows.ite | with_reducible apply State.fireSet_follows
    | with_reducible apply State.recordFire_follows | exact within hl rfl

theorem State.mirrorDep_follows {lp : List Part} {r0 : State} (s : State) (r : MirRec) (hl : [.staged, .applied,
    .rw, .rc, .count, .bank, .tt, .mix, .macA, .macB, .stx, .eng, .srx, .dpc, .sap, .pwr, .pair] ⊆ lp) (h : Follows
    lp r0 s) : Follows lp r0 (State.mirrorDep s r) := by
  unfold State.mirrorDep
  repeat' first
    | with_reducible assumption | with_reducible apply Follows.ite | with_reducible apply State.takeOne_follows
    | with_reducible apply State.act_follows | with_reducible apply State.flag_follows
    | with_reducible apply State.setRw_follows | with_reducible apply State.setRc_follows
    | with_reducible apply State.setArmed_follows | with_reducible apply State.raise_follows | exact within hl rfl
    | (apply Follows.foldl; intro _ _ _) | with_reducible refine Follows.mkRegs ?_ hl ?_ ?_
    | with_reducible exact id
    | (intro p hp; cases p <;> first | with_reducible rfl | exact absurd (List.elem_iff.mp rfl) hp)

theorem State.mirrorRec_follows {lp : List Part} {r0 : State} (s : State) (r : MirRec) (hl : [.staged, .applied,
    .rw, .rc, .count, .bank, .tt, .mix, .macA, .macB, .stx, .eng, .srx, .dpc, .sap, .pwr, .pair] ⊆ lp) (h : Follows
    lp r0 s) : Follows lp r0 (State.mirrorRec s r) := by
  unfold State.mirrorRec
  repeat' first
    | with_reducible assumption | with_reducible apply Follows.ite | with_reducible apply State.modPair_follows
    | with_reducible apply State.mirrorWord_follows | with_reducible apply State.followWords_follows
    | with_reducible apply State.mirrorBank_follows | with_reducible apply State.mirrorFire_follows
    | with_reducible apply State.mirrorDep_follows | exact within hl rfl | (apply Follows.foldl; intro _ _ _)
    | with_reducible refine Follows.mkRegs ?_ hl ?_ ?_ | with_reducible exact id
    | (intro p hp; cases p <;> first | with_reducible rfl | exact absurd (List.elem_iff.mp rfl) hp)

theorem State.mirrorStx_follows {lp : List Part} {r : State} (s : State) (f : List Byte) (fin : Nat) (hl : [.stx] ⊆
    lp) (h : Follows lp r s) : Follows lp r (State.mirrorStx s f fin) := by
  unfold State.mirrorStx
  repeat' first
    | with_reducible assumption | with_reducible apply Follows.ite | with_reducible apply State.setStx_follows
    | exact within hl rfl | (apply Follows.foldl; intro _ _ _) | with_reducible refine Follows.mkRegs ?_ hl ?_ ?_
    | with_reducible exact id
    | (intro p hp; cases p <;> first | with_reducible rfl | exact absurd (List.elem_iff.mp rfl) hp)

theorem State.mirrorSrx_follows {lp : List Part} {r : State} (s : State) (f : List Byte) (fin : Nat) (hl : [.srx,
    .dpc] ⊆ lp) (h : Follows lp r s) : Follows lp r (State.mirrorSrx s f fin) := by
  unfold State.mirrorSrx
  repeat' first
    | with_reducible assumption | with_reducible apply Follows.ite | with_reducible apply State.setSrx_follows
    | with_reducible apply State.setDpc_follows | exact within hl rfl | (apply Follows.foldl; intro _ _ _)
    | (apply Follows.foldl_fst; intro _ _ _) | (refine Follows.fst_of_eq (by assumption) ?_)
    | (refine Follows.snd_of_eq (by assumption) ?_) | split | with_reducible refine Follows.mkRegs ?_ hl ?_ ?_
    | with_reducible exact id
    | (intro p hp; cases p <;> first | with_reducible rfl | exact absurd (List.elem_iff.mp rfl) hp)

theorem State.mirrorPwr_follows {lp : List Part} {r : State} (s : State) (f : List Byte) (hl : [.pwr] ⊆ lp) (h :
    Follows lp r s) : Follows lp r (State.mirrorPwr s f) := by
  unfold State.mirrorPwr
  repeat' first
    | with_reducible assumption | with_reducible apply Follows.ite | split
    | with_reducible refine Follows.mkRegs ?_ hl ?_ ?_ | with_reducible exact id
    | (intro p hp; cases p <;> first | with_reducible rfl | exact absurd (List.elem_iff.mp rfl) hp)

theorem State.mirrorLim_follows {lp : List Part} {r : State} (s : State) (f : List Byte) (hl : [.mix] ⊆ lp) (h :
    Follows lp r s) : Follows lp r (State.mirrorLim s f) := by
  unfold State.mirrorLim
  repeat' first
    | with_reducible assumption | with_reducible apply State.setLim_follows | exact within hl rfl
    | (apply Follows.foldl; intro _ _ _)

theorem State.mirrorFixed_follows {lp : List Part} {r : State} (s : State) (f : List Byte) (fin : Nat) (hl : [.mix,
    .stx, .srx, .dpc, .pwr, .pair] ⊆ lp) (h : Follows lp r s) : Follows lp r (State.mirrorFixed s f fin) := by
  unfold State.mirrorFixed
  repeat' first
    | with_reducible assumption | with_reducible apply State.mirrorStx_follows
    | with_reducible apply State.mirrorSrx_follows | with_reducible apply State.mirrorPwr_follows
    | with_reducible apply State.mirrorLim_follows | with_reducible apply State.modPair_follows
    | exact within hl rfl | with_reducible refine Follows.mkRegs ?_ hl ?_ ?_ | with_reducible exact id
    | (intro p hp; cases p <;> first | with_reducible rfl | exact absurd (List.elem_iff.mp rfl) hp)

theorem State.mirrorApply_follows {lp : List Part} {r : State} (s : State) (hl : [.staged, .applied, .rw, .rc,
    .count, .bank, .tt, .mix, .macA, .macB, .stx, .eng, .srx, .dpc, .sap, .pwr, .pair] ⊆ lp) (h : Follows lp r s) :
    Follows lp r (State.mirrorApply s) := by
  unfold State.mirrorApply
  repeat' first
    | with_reducible assumption | with_reducible apply Follows.ite | with_reducible apply State.mirrorFixed_follows
    | with_reducible apply State.bump_follows | with_reducible apply State.mirrorRec_follows
    | with_reducible apply State.modPair_follows | with_reducible apply State.restale_follows | exact within hl rfl
    | (apply Follows.foldl; intro _ _ _) | with_reducible refine Follows.mkRegs ?_ hl ?_ ?_
    | with_reducible exact id
    | (intro p hp; cases p <;> first | with_reducible rfl | exact absurd (List.elem_iff.mp rfl) hp)

end Sys2Proof.Machine
end

