-- ==== Sys2Proof/Laws/FollowsMgt.lean ====
section
/-! SUPPORT. What each operation of Machine/Mgt.lean does to the state as a whole (Follows). -/

set_option linter.unusedTactic false
set_option linter.unreachableTactic false

namespace Sys2Proof.Machine

theorem State.dropItem_follows {lp : List Part} {r : State} (s : State) (n : Nat) (hl : [.mbox] ⊆ lp) (h : Follows
    lp r s) : Follows lp r (State.dropItem s n) := by
  unfold State.dropItem
  repeat' first
    | with_reducible assumption | with_reducible apply State.setMbox_follows | exact within hl rfl
    | (refine Follows.fst_of_eq (by assumption) ?_) | (refine Follows.snd_of_eq (by assumption) ?_) | split
    | extract_lets | with_reducible refine Follows.mkRegs ?_ hl ?_ ?_ | with_reducible exact id
    | (intro p hp; cases p <;> first | with_reducible rfl | exact absurd (List.elem_iff.mp rfl) hp)

theorem State.putItem_follows {lp : List Part} {r : State} (hl : [.rc, .count, .mbox] ⊆ lp) (n : Nat) (l : List
    Word) (s : State) (h : Follows lp r s) : Follows lp r (State.putItem s n l) := by
  fun_induction State.putItem s n l with
  | case1 => exact h
  | case2 => exact State.mboxAppend_follows _ _ _ _ (within hl rfl) h
  | case3 s w t ht ih => exact ih (State.mboxAppend_follows _ _ _ _ (within hl rfl) h)

theorem State.mgtReply_follows {lp : List Part} {r : State} (s : State) (head : Word) (status : Nat) (ws : List
    Word) (hl : [.rc, .count, .mbox] ⊆ lp) (h : Follows lp r s) : Follows lp r (State.mgtReply s head status ws) :=
    by
  unfold State.mgtReply
  repeat' first
    | with_reducible assumption | with_reducible apply State.putItem_follows | exact within hl rfl

theorem State.bellIdle_follows {lp : List Part} {r : State} (s : State) (hl : [.mgt] ⊆ lp) (h : Follows lp r s) :
    Follows lp r (State.bellIdle s) := by
  unfold State.bellIdle
  repeat' first
    | with_reducible assumption | with_reducible apply Follows.ite | split | extract_lets
    | with_reducible refine Follows.mkRegs ?_ hl ?_ ?_ | with_reducible exact id
    | (intro p hp; cases p <;> first | with_reducible rfl | exact absurd (List.elem_iff.mp rfl) hp)

theorem mgtSkim_follows {lp : List Part} {r : State} (hl : [.rc, .count, .mbox, .mgt] ⊆ lp) (n : Nat) (s : State)
    (h : Follows lp r s) : Follows lp r (mgtSkim n s) := by
  induction n generalizing s with
  | zero => exact h
  | succ n ih =>
    unfold mgtSkim
    split
    · split
      · split
        · exact h
        · exact ih _ (State.mgtReply_follows _ _ _ _ (within hl rfl) (State.dropItem_follows _ _ (within hl rfl) h))
      · exact State.bellIdle_follows _ (within hl rfl) h
    · exact h

theorem State.mgtBell_follows {lp : List Part} {r : State} (s : State) (m : Nat) (hl : [.rc, .count, .mbox, .mgt] ⊆
    lp) (h : Follows lp r s) : Follows lp r (State.mgtBell s m) := by
  unfold State.mgtBell
  repeat' first
    | with_reducible assumption | with_reducible apply mgtSkim_follows | exact within hl rfl
    | with_reducible refine Follows.mkRegs ?_ hl ?_ ?_ | with_reducible exact id
    | (intro p hp; cases p <;> first | with_reducible rfl | exact absurd (List.elem_iff.mp rfl) hp)

theorem State.serve_follows {lp : List Part} {r : State} (hl : [.rc, .count, .mbox, .mgt] ⊆ lp) (s : State) (op :
    Nat) (f : State → Word → List Word → State) (hf : ∀ t h p, Follows lp r t → Follows lp r (f t h p)) (h :
    Follows lp r s) : Follows lp r (State.serve s op f) := by
  unfold State.serve
  split
  · exact h
  · have hd := State.dropItem_follows s 28 (within hl rfl) h
    extract_lets t u
    have hu : Follows lp r u := Follows.ite (State.mgtReply_follows _ _ _ _ (within hl rfl) hd) (hf _ _ _ hd)
    exact mgtSkim_follows (within hl rfl) _ _ (State.bellIdle_follows _ (within hl rfl) hu)

theorem State.getVersion_follows {lp : List Part} {r : State} (s : State) (hl : [.rc, .count, .mbox, .mgt] ⊆ lp) (h
    : Follows lp r s) : Follows lp r (State.getVersion s) := by
  unfold State.getVersion
  repeat' first
    | with_reducible assumption | with_reducible apply State.serve_follows
    | with_reducible apply State.mgtReply_follows | exact within hl rfl | intro _ _ _ _

theorem State.setFlash_follows {lp : List Part} {r : State} (s : State) (o : Nat) (w : Word) (hl : [.mgt] ⊆ lp) (h
    : Follows lp r s) : Follows lp r (State.setFlash s o w) := by
  unfold State.setFlash
  repeat' first
    | with_reducible assumption | with_reducible refine Follows.mkRegs ?_ hl ?_ ?_ | with_reducible exact id
    | (intro p hp; cases p <;> first | with_reducible rfl | exact absurd (List.elem_iff.mp rfl) hp)
    | (refine fun ⟨_, _, _, _, _, _, _, _, _, _, _, _, _, _⟩ => ⟨?_, ?_, ?_, ?_, ?_, ?_, ?_, ?_, ?_, ?_, ?_, ?_, ?_, ?_⟩ <;> first
        | with_reducible assumption | exact swf_sset (by assumption) _ _ | exact swf_filter (by assumption) _ | rfl)

theorem State.flashRead_follows {lp : List Part} {r : State} (s : State) (fail : Bool) (hl : [.rc, .count, .mbox,
    .mgt] ⊆ lp) (h : Follows lp r s) : Follows lp r (State.flashRead s fail) := by
  unfold State.flashRead
  repeat' first
    | with_reducible assumption | with_reducible apply Follows.ite | with_reducible apply State.serve_follows
    | with_reducible apply State.mgtReply_follows | exact within hl rfl | intro _ _ _ _
    | (refine Follows.fst_of_eq (by assumption) ?_) | (refine Follows.snd_of_eq (by assumption) ?_) | split

theorem State.notice_follows {lp : List Part} {r : State} (s : State) (seq code data : Nat) (hl : [.rc, .count,
    .mbox] ⊆ lp) (h : Follows lp r s) : Follows lp r (State.notice s seq code data) := by
  unfold State.notice
  repeat' first
    | with_reducible assumption | with_reducible apply State.putItem_follows | exact within hl rfl

theorem State.flashWrite_follows {lp : List Part} {r : State} (s : State) (busy fail : Bool) (hl : [.rc, .count,
    .mbox, .mgt] ⊆ lp) (h : Follows lp r s) : Follows lp r (State.flashWrite s busy fail) := by
  unfold State.flashWrite
  repeat' first
    | with_reducible assumption | with_reducible apply Follows.ite | with_reducible apply State.serve_follows
    | with_reducible apply State.dropItem_follows | with_reducible apply State.mgtReply_follows
    | with_reducible apply State.setFlash_follows | with_reducible apply State.notice_follows | exact within hl rfl
    | intro _ _ _ _ | (apply Follows.foldl; intro _ _ _) | (apply Follows.foldl_fst; intro _ _ _)
    | (refine Follows.fst_of_eq (by assumption) ?_) | (refine Follows.snd_of_eq (by assumption) ?_) | split

theorem State.flashErase_follows {lp : List Part} {r : State} (s : State) (busy fail : Bool) (hl : [.rc, .count,
    .mbox, .mgt] ⊆ lp) (h : Follows lp r s) : Follows lp r (State.flashErase s busy fail) := by
  unfold State.flashErase
  repeat' first
    | with_reducible assumption | with_reducible apply Follows.ite | with_reducible apply State.serve_follows
    | with_reducible apply State.mgtReply_follows | with_reducible apply State.setFlash_follows
    | exact within hl rfl | intro _ _ _ _ | (apply Follows.foldl; intro _ _ _)
    | (apply Follows.foldl_fst; intro _ _ _) | (refine Follows.fst_of_eq (by assumption) ?_)
    | (refine Follows.snd_of_eq (by assumption) ?_) | split

theorem State.mgtRole_follows {lp : List Part} {r : State} (s : State) (hl : [.rc, .count, .mbox, .mgt] ⊆ lp) (h :
    Follows lp r s) : Follows lp r (State.mgtRole s) := by
  unfold State.mgtRole
  repeat' first
    | with_reducible assumption | with_reducible apply Follows.ite | with_reducible apply State.serve_follows
    | with_reducible apply State.mgtReply_follows | with_reducible apply State.notice_follows | exact within hl rfl
    | intro _ _ _ _ | (refine Follows.fst_of_eq (by assumption) ?_) | (refine Follows.snd_of_eq (by assumption) ?_)
    | split | extract_lets | with_reducible refine Follows.mkRegs ?_ hl ?_ ?_ | with_reducible exact id
    | (intro p hp; cases p <;> first | with_reducible rfl | exact absurd (List.elem_iff.mp rfl) hp)

theorem State.coreRestart_follows {lp : List Part} {r : State} (s : State) (hl : [.mgt] ⊆ lp) (h : Follows lp r s)
    : Follows lp r (State.coreRestart s) := by
  unfold State.coreRestart
  repeat' first
    | with_reducible assumption | with_reducible refine Follows.mkRegs ?_ hl ?_ ?_ | with_reducible exact id
    | (intro p hp; cases p <;> first | with_reducible rfl | exact absurd (List.elem_iff.mp rfl) hp)

theorem State.mgtReboot_follows {lp : List Part} {r : State} (s : State) (hl : [.rc, .count, .mbox, .mgt] ⊆ lp) (h
    : Follows lp r s) : Follows lp r (State.mgtReboot s) := by
  unfold State.mgtReboot
  repeat' first
    | with_reducible assumption | with_reducible apply State.serve_follows
    | with_reducible apply State.mgtReply_follows | with_reducible apply State.coreRestart_follows
    | exact within hl rfl | intro _ _ _ _

end Sys2Proof.Machine
end

