-- ==== Sys2Proof/Laws/FollowsAccess.lean ====
section
/-! SUPPORT. What each operation of Machine/Access.lean does to the state as a whole (Follows). -/

set_option linter.unusedTactic false
set_option linter.unreachableTactic false

namespace Sys2Proof.Machine

theorem State.berr_follows {lp : List Part} {r : State} (s : State) (q : Req) (off cause : Nat) (wr : Bool) (ts :
    Option Nat) (hl : [.rc, .rcu] ⊆ lp) (h : Follows lp r s) : Follows lp r (State.berr s q off cause wr ts) := by
  unfold State.berr
  repeat' first
    | with_reducible assumption | with_reducible apply Follows.ite | with_reducible apply State.setRc_follows
    | with_reducible apply State.raise_follows | exact within hl rfl | split | extract_lets
    | with_reducible refine Follows.mkRegs ?_ hl ?_ ?_ | with_reducible exact id
    | (intro p hp; cases p <;> first | with_reducible rfl | exact absurd (List.elem_iff.mp rfl) hp)

theorem State.latch_follows {lp : List Part} {r : State} (s : State) (q : Req) (i : Instant) (as : List Nat) (hl :
    [.rcu] ⊆ lp) (h : Follows lp r s) : Follows lp r (State.latch s q i as) := by
  unfold State.latch
  exact State.setRequester_follows _ _ _ (fun k => swf_foldl_sset k _ _ _) (within hl rfl) h

theorem State.clearRead_follows {lp : List Part} {r0 : State} (s : State) (r : RegRow) (a : Nat) (hl : [.rc,
    .count] ⊆ lp) (h : Follows lp r0 s) : Follows lp r0 (State.clearRead s r a) := by
  unfold State.clearRead
  repeat' first
    | with_reducible assumption | with_reducible apply Follows.ite | with_reducible apply State.setCounter_follows
    | with_reducible apply State.setRc_follows | exact within hl rfl | exact Nat.zero_le _

theorem State.pdRead_follows {lp : List Part} {r0 : State} (s : State) (applied : Bool) (a : Nat) (r : RegRow) (hl
    : [.rc, .count, .pwr] ⊆ lp) (h : Follows lp r0 s) : Follows lp r0 (State.pdRead s applied a r).2 := by
  unfold State.pdRead
  repeat' first
    | with_reducible assumption | with_reducible apply Follows.ite | with_reducible apply Follows.ite_snd
    | with_reducible apply State.flag_follows | with_reducible apply State.clearRead_follows
    | with_reducible apply State.pdGood_follows | exact within hl rfl | split

theorem State.tRead_follows {lp : List Part} {r0 : State} (s : State) (q : Req) (i : Instant) (applied : Bool) (a :
    Nat) (r : RegRow) (hl : [.rc, .count, .pwr] ⊆ lp) (h : Follows lp r0 s) : Follows lp r0 (State.tRead s q i
    applied a r).2 := by
  unfold State.tRead
  repeat' first
    | with_reducible assumption | with_reducible apply Follows.ite | with_reducible apply Follows.ite_snd
    | with_reducible apply State.pdRead_follows | with_reducible apply State.clearRead_follows
    | exact within hl rfl | split

theorem State.depReg_follows {lp : List Part} {r : State} (s : State) (a : Nat) (w : Word) (hl : [.rw, .rc, .tt,
    .pair] ⊆ lp) (h : Follows lp r s) : Follows lp r (State.depReg s a w) := by
  unfold State.depReg
  repeat' first
    | with_reducible assumption | with_reducible apply Follows.ite | with_reducible apply State.flag_follows
    | with_reducible apply State.arm_follows | with_reducible apply State.disarm_follows
    | with_reducible apply State.recordDep_follows | with_reducible apply State.depWrite_follows
    | exact within hl rfl

theorem State.tWrite_follows {lp : List Part} {r0 : State} (s : State) (a : Nat) (d : Word) (r : RegRow) (hl :
    [.staged, .rw, .rc, .bank, .snap, .tt, .pair] ⊆ lp) (h : Follows lp r0 s) : Follows lp r0 (State.tWrite s a d
    r) := by
  unfold State.tWrite
  repeat' first
    | with_reducible assumption | with_reducible apply Follows.ite | with_reducible apply State.depReg_follows
    | with_reducible apply State.flag_follows | with_reducible apply State.bankWrite_follows
    | with_reducible apply State.recordWord_follows | with_reducible apply State.setStaged_follows
    | with_reducible apply State.setStagedBit_follows | exact within hl rfl

theorem State.indNext_follows {lp : List Part} {r : State} (s : State) (q : Req) (hl : [.rcu] ⊆ lp) (h : Follows lp
    r s) : Follows lp r (State.indNext s q) := by
  unfold State.indNext
  exact Follows.ite (State.setRequester_follows _ _ _ id (within hl rfl) h) h

theorem State.indRead_follows {lp : List Part} {r : State} (s : State) (q : Req) (i : Instant) (hl : [.rc, .count,
    .rcu, .pwr] ⊆ lp) (h : Follows lp r s) : Follows lp r (State.indRead s q i).2 := by
  unfold State.indRead
  repeat' first
    | with_reducible assumption | with_reducible apply State.tRead_follows
    | with_reducible apply State.indNext_follows | with_reducible apply State.berr_follows | exact within hl rfl
    | (refine Follows.fst_of_eq (by assumption) ?_) | (refine Follows.snd_of_eq (by assumption) ?_) | split
    | extract_lets

theorem State.indWrite_follows {lp : List Part} {r : State} (s : State) (q : Req) (d : Word) (hl : [.staged, .rw,
    .rc, .bank, .snap, .rcu, .tt, .pair] ⊆ lp) (h : Follows lp r s) : Follows lp r (State.indWrite s q d) := by
  unfold State.indWrite
  repeat' first
    | with_reducible assumption | with_reducible apply State.berr_follows
    | with_reducible apply State.tWrite_follows | with_reducible apply State.indNext_follows | exact within hl rfl
    | (refine Follows.fst_of_eq (by assumption) ?_) | (refine Follows.snd_of_eq (by assumption) ?_) | split
    | extract_lets

theorem State.portRead_follows {lp : List Part} {r : State} (s : State) (q : Req) (i : Instant) (a : Nat) (hl :
    [.rw, .rc, .count, .rcu, .mbox, .pwr] ⊆ lp) (h : Follows lp r s) : Follows lp r (State.portRead s q i a).2 :=
    by
  unfold State.portRead
  repeat' first
    | with_reducible assumption | with_reducible apply Follows.ite | with_reducible apply Follows.ite_snd
    | with_reducible apply State.indRead_follows | with_reducible apply State.mboxTake_follows
    | with_reducible apply State.lmRead_follows | exact within hl rfl
    | (refine Follows.fst_of_eq (by assumption) ?_) | (refine Follows.snd_of_eq (by assumption) ?_) | split

theorem State.portWrite_follows {lp : List Part} {r : State} (s : State) (q : Req) (a : Nat) (d : Word) (hl :
    [.staged, .rw, .rc, .count, .bank, .snap, .rcu, .tt, .eng, .mbox, .pair] ⊆ lp) (h : Follows lp r s) : Follows
    lp r (State.portWrite s q a d) := by
  unfold State.portWrite
  repeat' first
    | with_reducible assumption | with_reducible apply Follows.ite | with_reducible apply State.indWrite_follows
    | with_reducible apply State.mboxAppend_follows | with_reducible apply State.lmWrite_follows
    | exact within hl rfl

theorem State.read32_follows {lp : List Part} {r : State} (s : State) (q : Req) (v : View) (i : Instant) (a : Nat)
    (hl : [.rw, .rc, .count, .rcu, .mbox, .pwr] ⊆ lp) (h : Follows lp r s) : Follows lp r (State.read32 s q v i
    a).2 := by
  unfold State.read32
  repeat' first
    | with_reducible assumption | with_reducible apply Follows.ite | with_reducible apply Follows.ite_snd
    | with_reducible apply State.berr_follows | with_reducible apply State.portRead_follows
    | with_reducible apply State.latch_follows | with_reducible apply State.clearRead_follows | exact within hl rfl
    | (refine Follows.fst_of_eq (by assumption) ?_) | (refine Follows.snd_of_eq (by assumption) ?_) | split

theorem State.crcCommit_follows {lp : List Part} {r : State} (s : State) (w : Word) (hl : [.rw, .crc, .mix] ⊆ lp)
    (h : Follows lp r s) : Follows lp r (State.crcCommit s w) := by
  unfold State.crcCommit
  repeat' first
    | with_reducible assumption | with_reducible apply Follows.ite | with_reducible apply State.setRw_follows
    | with_reducible apply State.fresh_follows | with_reducible apply State.unmuteAll_follows | exact within hl rfl
    | split | extract_lets | with_reducible refine Follows.mkRegs ?_ hl ?_ ?_ | with_reducible exact id
    | (intro p hp; cases p <;> first | with_reducible rfl | exact absurd (List.elem_iff.mp rfl) hp)

theorem State.maskWrite_follows {lp : List Part} {r : State} (s : State) (a : Nat) (w : Word) (hl : [.rw] ⊆ lp) (h
    : Follows lp r s) : Follows lp r (State.maskWrite s a w) := by
  unfold State.maskWrite
  repeat' first
    | with_reducible assumption | with_reducible apply State.fresh_follows
    | with_reducible apply State.msgDue_follows | with_reducible apply State.setRw_follows | exact within hl rfl
    | (apply Follows.foldl; intro _ _ _)

theorem State.ringWrite_follows {lp : List Part} {r : State} (s : State) (a : Nat) (w : Word) (hl : [.rw, .rc,
    .macA, .macB, .ring, .cmd] ⊆ lp) (h : Follows lp r s) : Follows lp r (State.ringWrite s a w) := by
  unfold State.ringWrite
  repeat' first
    | with_reducible assumption | with_reducible apply Follows.ite | with_reducible apply State.flag_follows
    | with_reducible apply State.setRw_follows | with_reducible apply State.ringDisable_follows
    | with_reducible apply State.ringEnable_follows | exact within hl rfl

theorem State.rwAct_follows {lp : List Part} {r : State} (s : State) (q : Req) (a : Nat) (w : Word) (hl : [.rw,
    .rc, .rcu, .crc, .tt, .mcr, .mix, .macA, .macB, .ring, .cmd, .pair] ⊆ lp) (h : Follows lp r s) : Follows lp r
    (State.rwAct s q a w) := by
  unfold State.rwAct
  repeat' first
    | exact within hl rfl | exact id | with_reducible assumption | with_reducible apply Follows.ite
    | with_reducible apply State.setRequester_follows | with_reducible apply State.crcCommit_follows
    | with_reducible apply State.maskWrite_follows | with_reducible apply State.ringWrite_follows
    | with_reducible apply State.depReg_follows | with_reducible apply State.setRw_follows
    | with_reducible apply State.modMcr_follows | with_reducible refine Follows.mkRegs ?_ hl ?_ ?_
    | with_reducible exact id
    | (intro p hp; cases p <;> first | with_reducible rfl | exact absurd (List.elem_iff.mp rfl) hp)

theorem State.brstWrite_follows {lp : List Part} {r : State} (s : State) (d : Word) (hl : [.rcu] ⊆ lp) (h : Follows
    lp r s) : Follows lp r (State.brstWrite s d) := by
  unfold State.brstWrite
  repeat' first
    | with_reducible assumption | with_reducible apply Follows.ite | split | extract_lets
    | with_reducible refine Follows.mkRegs ?_ hl ?_ ?_ | with_reducible exact id
    | (intro p hp; cases p <;> first | with_reducible rfl | exact absurd (List.elem_iff.mp rfl) hp)

theorem State.bankCommand_follows {lp : List Part} {r : State} (s : State) (o : Nat) (go copy : Bool) (c : Nat) (hl
    : [.rc, .mix, .eng, .pair] ⊆ lp) (h : Follows lp r s) : Follows lp r (State.bankCommand s o go copy c) := by
  unfold State.bankCommand
  repeat' first
    | with_reducible assumption | with_reducible apply Follows.ite | with_reducible apply State.flag_follows
    | with_reducible apply State.slGo_follows | with_reducible apply State.copyGo_follows
    | with_reducible apply State.recordCopy_follows | exact within hl rfl

theorem State.mixCtl_follows {lp : List Part} {r : State} (s : State) (d : Word) (hl : [.rc, .mix, .eng, .pair] ⊆
    lp) (h : Follows lp r s) : Follows lp r (State.mixCtl s d) := by
  unfold State.mixCtl
  repeat' first
    | with_reducible assumption | with_reducible apply State.bankCommand_follows | exact within hl rfl

theorem State.engCommand_follows {lp : List Part} {r : State} (s : State) (e : Nat) (d : Word) (hl : [.rc, .mix,
    .eng, .pair] ⊆ lp) (h : Follows lp r s) : Follows lp r (State.engCommand s e d) := by
  unfold State.engCommand
  repeat' first
    | with_reducible assumption | with_reducible apply State.engCtl_follows
    | with_reducible apply State.bankCommand_follows | exact within hl rfl

theorem State.macCtl_follows {lp : List Part} {r : State} (s : State) (p : Nat) (d : Word) (hl : [.rc, .count,
    .hstop, .tim, .mcr, .macA, .macB, .mdio, .dpc, .ring] ⊆ lp) (h : Follows lp r s) : Follows lp r (State.macCtl s
    p d) := by
  unfold State.macCtl
  repeat' first
    | with_reducible assumption | with_reducible apply Follows.ite | with_reducible apply State.reverify_follows
    | with_reducible apply State.retrainPort_follows | with_reducible apply State.modMac_follows
    | exact within hl rfl | with_reducible refine Follows.mkRegs ?_ hl ?_ ?_ | with_reducible exact id
    | (intro p hp; cases p <;> first | with_reducible rfl | exact absurd (List.elem_iff.mp rfl) hp)

theorem State.pairCtl_follows {lp : List Part} {r : State} (s : State) (d : Word) (hl : [.rc, .count, .macA, .macB,
    .pair] ⊆ lp) (h : Follows lp r s) : Follows lp r (State.pairCtl s d) := by
  unfold State.pairCtl
  repeat' first
    | with_reducible assumption | with_reducible apply Follows.ite | with_reducible apply State.pairEnter_follows
    | with_reducible apply State.pairRelease_follows | with_reducible apply State.sendReport_follows
    | with_reducible apply State.beginRefresh_follows | with_reducible apply State.undark_follows
    | exact within hl rfl

theorem State.woAct_follows {lp : List Part} {r : State} (s : State) (a : Nat) (d : Word) (hl : [.rc, .count,
    .snap, .rcu, .hstop, .tt, .tim, .mcr, .syn, .mix, .macA, .macB, .mdio, .stx, .eng, .srx, .dpc, .mbox, .ring,
    .sap, .pwr, .pair, .pmu, .mgt] ⊆ lp) (h : Follows lp r s) : Follows lp r (State.woAct s a d) := by
  unfold State.woAct
  repeat' first
    | with_reducible assumption | with_reducible apply Follows.ite | with_reducible apply State.strobe_follows
    | with_reducible apply State.brstWrite_follows | with_reducible apply State.mdioCommand_follows
    | with_reducible apply State.mgtBell_follows | with_reducible apply State.ringRestart_follows
    | with_reducible apply State.macCtl_follows | with_reducible apply State.timeSet_follows
    | with_reducible apply State.modSyn_follows | with_reducible apply State.disarmAll_follows
    | with_reducible apply State.dpcCtl_follows | with_reducible apply State.mboxFlush_follows
    | with_reducible apply State.mixCtl_follows | with_reducible apply State.engCommand_follows
    | with_reducible apply State.sapCtl_follows | with_reducible apply State.pwrCtl_follows
    | with_reducible apply State.pairCtl_follows | exact within hl rfl | split
    | with_reducible refine Follows.mkRegs ?_ hl ?_ ?_ | with_reducible exact id
    | (intro p hp; cases p <;> first | with_reducible rfl | exact absurd (List.elem_iff.mp rfl) hp)

theorem State.lkAct_follows {lp : List Part} {r : State} (s : State) (a : Nat) (w : Word) (hl : [.rw, .rcu] ⊆ lp)
    (h : Follows lp r s) : Follows lp r (State.lkAct s a w) := by
  unfold State.lkAct
  repeat' first
    | with_reducible assumption | with_reducible apply Follows.ite | with_reducible apply State.setRw_follows
    | exact within hl rfl | split | with_reducible refine Follows.mkRegs ?_ hl ?_ ?_ | with_reducible exact id
    | (intro p hp; cases p <;> first | with_reducible rfl | exact absurd (List.elem_iff.mp rfl) hp)

theorem State.stageWrite_follows {lp : List Part} {r0 : State} (s : State) (v : View) (a : Nat) (d : Word) (r :
    RegRow) (hl : [.staged, .snap] ⊆ lp) (h : Follows lp r0 s) : Follows lp r0 (State.stageWrite s v a d r) := by
  unfold State.stageWrite
  repeat' first
    | with_reducible assumption | with_reducible apply State.setStaged_follows
    | with_reducible apply State.setStagedBit_follows | exact within hl rfl
    | (refine Follows.fst_of_eq (by assumption) ?_) | (refine Follows.snd_of_eq (by assumption) ?_) | split

theorem State.otherWrite_follows {lp : List Part} {r0 : State} (s : State) (q : Req) (v : View) (a : Nat) (d :
    Word) (r : RegRow) (hl : [.rw, .rc, .count, .snap, .rcu, .crc, .hstop, .tt, .tim, .mcr, .syn, .mix, .macA,
    .macB, .mdio, .stx, .eng, .srx, .dpc, .mbox, .ring, .cmd, .sap, .pwr, .pair, .pmu, .mgt] ⊆ lp) (h : Follows lp
    r0 s) : Follows lp r0 (State.otherWrite s q v a d r) := by
  unfold State.otherWrite
  repeat' first
    | with_reducible assumption | with_reducible apply Follows.ite | with_reducible apply State.woAct_follows
    | with_reducible apply State.berr_follows | with_reducible apply State.lkAct_follows
    | with_reducible apply State.rwAct_follows | exact within hl rfl

theorem State.write32_follows {lp : List Part} {r : State} (s : State) (q : Req) (v : View) (a : Nat) (d : Word)
    (hl : [.staged, .rw, .rc, .count, .bank, .snap, .rcu, .crc, .hstop, .tt, .tim, .mcr, .syn, .mix, .macA, .macB,
    .mdio, .stx, .eng, .srx, .dpc, .mbox, .ring, .cmd, .sap, .pwr, .pair, .pmu, .mgt] ⊆ lp) (h : Follows lp r s) :
    Follows lp r (State.write32 s q v a d) := by
  unfold State.write32
  repeat' first
    | with_reducible assumption | with_reducible apply Follows.ite | with_reducible apply State.berr_follows
    | with_reducible apply State.portWrite_follows | with_reducible apply State.stageWrite_follows
    | with_reducible apply State.otherWrite_follows | exact within hl rfl
    | (refine Follows.fst_of_eq (by assumption) ?_) | (refine Follows.snd_of_eq (by assumption) ?_) | split

theorem State.doorbellWrite_follows {lp : List Part} {r : State} (s : State) (q : Req) (o : Nat) (d : Word) (hl :
    [.rc, .rcu, .ring] ⊆ lp) (h : Follows lp r s) : Follows lp r (State.doorbellWrite s q o d) := by
  unfold State.doorbellWrite
  repeat' first
    | with_reducible assumption | with_reducible apply State.doorbellPi_follows
    | with_reducible apply State.doorbellCci_follows | with_reducible apply State.berr_follows
    | exact within hl rfl | (refine Follows.fst_of_eq (by assumption) ?_)
    | (refine Follows.snd_of_eq (by assumption) ?_) | split | assumption

theorem State.doorbellRead_follows {lp : List Part} {r : State} (s : State) (q : Req) (o : Nat) (hl : [.rc, .rcu] ⊆
    lp) (h : Follows lp r s) : Follows lp r (State.doorbellRead s q o).2 := by
  unfold State.doorbellRead
  repeat' first
    | with_reducible assumption | with_reducible apply State.berr_follows | exact within hl rfl
    | (refine Follows.fst_of_eq (by assumption) ?_) | (refine Follows.snd_of_eq (by assumption) ?_) | split
    | assumption

theorem State.msixWrite_follows {lp : List Part} {r : State} (s : State) (o : Nat) (d : Word) (hl : [.pci] ⊆ lp) (h
    : Follows lp r s) : Follows lp r (State.msixWrite s o d) := by
  unfold State.msixWrite
  repeat' first
    | with_reducible assumption | with_reducible apply Follows.ite | with_reducible apply State.emit_follows
    | split | extract_lets | with_reducible refine Follows.mkRegs ?_ hl ?_ ?_ | with_reducible exact id
    | (intro p hp; cases p <;> first | with_reducible rfl | exact absurd (List.elem_iff.mp rfl) hp) | assumption

theorem State.wordWrite_follows {lp : List Part} {r : State} (s : State) (x : Access) (o : Nat) (d : Word) (hl :
    [.staged, .rw, .rc, .count, .bank, .snap, .rcu, .crc, .hstop, .tt, .tim, .mcr, .syn, .mix, .macA, .macB, .mdio,
    .stx, .eng, .srx, .dpc, .mbox, .ring, .cmd, .sap, .pwr, .pair, .pmu, .mgt, .pci] ⊆ lp) (h : Follows lp r s) :
    Follows lp r (State.wordWrite s x o d) := by
  unfold State.wordWrite
  repeat' first
    | with_reducible assumption | with_reducible apply State.write32_follows
    | with_reducible apply State.doorbellWrite_follows | with_reducible apply State.msixWrite_follows
    | exact within hl rfl | (refine Follows.fst_of_eq (by assumption) ?_)
    | (refine Follows.snd_of_eq (by assumption) ?_) | split | assumption

theorem State.wordRead_follows {lp : List Part} {r : State} (s : State) (x : Access) (i : Instant) (o : Nat) (hl :
    [.rw, .rc, .count, .rcu, .mbox, .pwr] ⊆ lp) (h : Follows lp r s) : Follows lp r (State.wordRead s x i o).2 :=
    by
  unfold State.wordRead
  repeat' first
    | with_reducible assumption | with_reducible apply State.read32_follows
    | with_reducible apply State.doorbellRead_follows | exact within hl rfl
    | (refine Follows.fst_of_eq (by assumption) ?_) | (refine Follows.snd_of_eq (by assumption) ?_) | split
    | assumption

theorem State.accessWrite_follows {lp : List Part} {r : State} (s : State) (x : Access) (hl : [.staged, .rw, .rc,
    .count, .bank, .snap, .rcu, .crc, .hstop, .tt, .tim, .mcr, .syn, .mix, .macA, .macB, .mdio, .stx, .eng, .srx,
    .dpc, .mbox, .ring, .cmd, .sap, .pwr, .pair, .pmu, .mgt, .pci] ⊆ lp) (h : Follows lp r s) : Follows lp r
    (State.accessWrite s x) := by
  unfold State.accessWrite
  repeat' first
    | with_reducible assumption | with_reducible apply Follows.ite | with_reducible apply State.wordWrite_follows
    | with_reducible apply State.berr_follows | exact within hl rfl

theorem State.accessRead_follows {lp : List Part} {r : State} (s : State) (x : Access) (i : Instant) (hl : [.rw,
    .rc, .count, .rcu, .mbox, .pwr, .reply] ⊆ lp) (h : Follows lp r s) : Follows lp r (State.accessRead s x i) :=
    by
  unfold State.accessRead
  repeat' first
    | with_reducible assumption | with_reducible apply Follows.ite | with_reducible apply State.wordRead_follows
    | with_reducible apply State.berr_follows | exact within hl rfl | (refine Follows.fst_of_eq (by assumption) ?_)
    | (refine Follows.snd_of_eq (by assumption) ?_) | split | extract_lets
    | with_reducible refine Follows.mkRegs ?_ hl ?_ ?_ | with_reducible exact id
    | (intro p hp; cases p <;> first | with_reducible rfl | exact absurd (List.elem_iff.mp rfl) hp)

theorem State.regWrite_follows {lp : List Part} {r : State} (s : State) (a : Nat) (x : RegWrite) (hl : [.staged,
    .rw, .rc, .count, .bank, .snap, .rcu, .crc, .hstop, .tt, .tim, .mcr, .syn, .mix, .macA, .macB, .mdio, .stx,
    .eng, .srx, .dpc, .mbox, .ring, .cmd, .sap, .pwr, .pair, .pmu, .mgt] ⊆ lp) (h : Follows lp r s) : Follows lp r
    (State.regWrite s a x) := by
  unfold State.regWrite
  repeat' first
    | with_reducible assumption | with_reducible apply State.write32_follows | exact within hl rfl

theorem State.regRead_follows {lp : List Part} {r : State} (s : State) (q : Req) (i : Instant) (a : Nat) (hl :
    [.rw, .rc, .count, .rcu, .mbox, .pwr, .reply] ⊆ lp) (h : Follows lp r s) : Follows lp r (State.regRead s q i a)
    := by
  unfold State.regRead
  repeat' first
    | with_reducible assumption | with_reducible apply State.read32_follows | exact within hl rfl
    | (refine Follows.fst_of_eq (by assumption) ?_) | (refine Follows.snd_of_eq (by assumption) ?_) | split
    | extract_lets | with_reducible refine Follows.mkRegs ?_ hl ?_ ?_ | with_reducible exact id
    | (intro p hp; cases p <;> first | with_reducible rfl | exact absurd (List.elem_iff.mp rfl) hp)

end Sys2Proof.Machine
end

