-- ==== Sys2Proof/Laws/FollowsCmd.lean ====
section
/-! SUPPORT. What each operation of Machine/Cmd.lean does to the state as a whole (Follows). -/

set_option linter.unusedTactic false
set_option linter.unreachableTactic false

namespace Sys2Proof.Machine

theorem State.ttLoad_follows {lp : List Part} {r : State} (s : State) (x : Slot) (hl : [.rw, .rc, .tt, .pair] ⊆ lp)
    (h : Follows lp r s) : Follows lp r (State.ttLoad s x).1 := by
  unfold State.ttLoad
  repeat' first
    | with_reducible assumption | with_reducible apply Follows.ite | with_reducible apply Follows.ite_fst
    | with_reducible apply State.flag_follows | with_reducible apply State.depWrite_follows
    | with_reducible apply State.arm_follows | with_reducible apply State.recordDep_follows | exact within hl rfl
    | (apply Follows.foldl; intro _ _ _)

theorem State.tblRead_follows {lp : List Part} {r : State} (s : State) (x : Slot) (hl : [.rc, .count, .pwr] ⊆ lp)
    (h : Follows lp r s) : Follows lp r (State.tblRead s x).1 := by
  unfold State.tblRead
  repeat' first
    | with_reducible assumption | with_reducible apply State.tRead_follows
    | with_reducible apply State.emit_follows | exact within hl rfl | (apply Follows.foldl; intro _ _ _)
    | (apply Follows.foldl_fst; intro _ _ _) | (refine Follows.fst_of_eq (by assumption) ?_)
    | (refine Follows.snd_of_eq (by assumption) ?_) | split

theorem State.cmdRead_follows {lp : List Part} {r : State} (s : State) (i : Nat) (hl : [.ring] ⊆ lp) (h : Follows
    lp r s) : Follows lp r (State.cmdRead s i) := by
  unfold State.cmdRead
  repeat' first
    | with_reducible assumption | with_reducible apply Follows.ite | with_reducible apply State.modRing_follows
    | exact within hl rfl | with_reducible refine Follows.mkRegs ?_ hl ?_ ?_ | with_reducible exact id
    | (intro p hp; cases p <;> first | with_reducible rfl | exact absurd (List.elem_iff.mp rfl) hp)

theorem State.setTesting_follows {lp : List Part} {r : State} (s : State) (cls inst test : Nat) (b : Bool) (hl :
    [.eng, .sap, .pwr] ⊆ lp) (h : Follows lp r s) : Follows lp r (State.setTesting s cls inst test b) := by
  unfold State.setTesting
  repeat' first
    | with_reducible assumption | with_reducible apply Follows.ite | with_reducible apply State.modEng_follows
    | with_reducible apply State.modSap_follows | with_reducible apply State.modPwrCh_follows | exact within hl rfl
    | with_reducible refine Follows.mkRegs ?_ hl ?_ ?_ | with_reducible exact id
    | (intro p hp; cases p <;> first | with_reducible rfl | exact absurd (List.elem_iff.mp rfl) hp)

theorem State.tblBlocked_follows {lp : List Part} {r t : State} (hl : [.rc] ⊆ lp) (s : State) (x : Slot) (k :
    s.tblBlocked x = some t) (h : Follows lp r s) : Follows lp r t := by
  unfold State.tblBlocked at k
  extract_lets ws at k
  split at k
  · rw [← Option.some.inj k]; exact State.raise_follows _ _ hl h
  · split at k
    · rw [← Option.some.inj k]; exact State.flag_follows _ _ _ hl h
    · cases k

theorem State.cmdAct_follows {lp : List Part} {r : State} (s : State) (x : Slot) (hl : [.rc, .count, .snap, .stx,
    .eng, .srx, .dpc, .ring, .sap, .pwr] ⊆ lp) (h : Follows lp r s) : Follows lp r (State.cmdAct s x).1 := by
  unfold State.cmdAct
  extract_lets op w late label mark ok
  clear_value op
  clear_value w
  clear_value late
  clear_value label
  clear_value mark
  clear_value ok
  repeat' first
    | with_reducible assumption | with_reducible apply Follows.ite | with_reducible apply Follows.ite_fst
    | with_reducible apply State.stxStartRange_follows | with_reducible apply State.stxStopRange_follows
    | with_reducible apply State.srxStartRange_follows | with_reducible apply State.srxStopRange_follows
    | with_reducible apply State.audStart_follows | with_reducible apply State.audStop_follows
    | with_reducible apply State.strobe_follows | with_reducible apply State.cmdRead_follows
    | with_reducible apply State.tblRead_follows | with_reducible apply State.setTesting_follows
    | exact within hl rfl | exact State.tblBlocked_follows (within hl rfl) _ _ (by assumption) h
    | (refine Follows.fst_of_eq (by assumption) ?_) | (refine Follows.snd_of_eq (by assumption) ?_) | split
    | extract_lets | assumption

theorem State.cmdFinish_follows {lp : List Part} {r0 : State} (s : State) (i : Nat) (r : CmdRes) (hl : [.ring,
    .cmd] ⊆ lp) (h : Follows lp r0 s) : Follows lp r0 (State.cmdFinish s i r) := by
  unfold State.cmdFinish
  repeat' first
    | with_reducible assumption | with_reducible apply State.finish_follows | exact within hl rfl
    | with_reducible refine Follows.mkRegs ?_ hl ?_ ?_ | with_reducible exact id
    | (intro p hp; cases p <;> first | with_reducible rfl | exact absurd (List.elem_iff.mp rfl) hp)

theorem State.cmdGo_follows {lp : List Part} {r : State} (s : State) (x : Slot) (hold : Bool) (hl : [.rc, .count,
    .snap, .stx, .eng, .srx, .dpc, .ring, .cmd, .sap, .pwr] ⊆ lp) (h : Follows lp r s) : Follows lp r (State.cmdGo
    s x hold) := by
  unfold State.cmdGo
  repeat' first
    | with_reducible assumption | with_reducible apply Follows.ite | with_reducible apply State.cmdAct_follows
    | with_reducible apply State.cmdFinish_follows | exact within hl rfl
    | (refine Follows.fst_of_eq (by assumption) ?_) | (refine Follows.snd_of_eq (by assumption) ?_) | split
    | extract_lets | with_reducible refine Follows.mkRegs ?_ hl ?_ ?_ | with_reducible exact id
    | (intro p hp; cases p <;> first | with_reducible rfl | exact absurd (List.elem_iff.mp rfl) hp)

theorem State.cmdBegin_follows {lp : List Part} {r : State} (s : State) (is : Nat → Bool) (hl : [.rw, .rc, .count,
    .snap, .tt, .stx, .eng, .srx, .dpc, .ring, .cmd, .sap, .pwr, .pair] ⊆ lp) (h : Follows lp r s) : Follows lp r
    (State.cmdBegin s is) := by
  unfold State.cmdBegin
  repeat' first
    | with_reducible assumption | with_reducible apply Follows.ite | with_reducible apply State.cmdFinish_follows
    | with_reducible apply State.ttLoad_follows | with_reducible apply State.cmdGo_follows | exact within hl rfl
    | (refine Follows.fst_of_eq (by assumption) ?_) | (refine Follows.snd_of_eq (by assumption) ?_) | split
    | extract_lets | with_reducible refine Follows.mkRegs ?_ hl ?_ ?_ | with_reducible exact id
    | (intro p hp; cases p <;> first | with_reducible rfl | exact absurd (List.elem_iff.mp rfl) hp)

theorem State.cmdBoundary_follows {lp : List Part} {r : State} (s : State) (fire : Bool) (hl : [.rc, .count, .snap,
    .stx, .eng, .srx, .dpc, .ring, .cmd, .sap, .pwr] ⊆ lp) (h : Follows lp r s) : Follows lp r (State.cmdBoundary s
    fire) := by
  unfold State.cmdBoundary
  repeat' first
    | with_reducible assumption | with_reducible apply Follows.ite | with_reducible apply State.cmdGo_follows
    | exact within hl rfl | (refine Follows.fst_of_eq (by assumption) ?_)
    | (refine Follows.snd_of_eq (by assumption) ?_) | split

theorem State.cmdAtPos_follows {lp : List Part} {r : State} (s : State) (hl : [.rc, .count, .snap, .stx, .eng,
    .srx, .dpc, .ring, .cmd, .sap, .pwr] ⊆ lp) (h : Follows lp r s) : Follows lp r (State.cmdAtPos s) := by
  unfold State.cmdAtPos
  repeat' first
    | with_reducible assumption | with_reducible apply Follows.ite | with_reducible apply State.cmdFinish_follows
    | with_reducible apply State.cmdGo_follows | exact within hl rfl
    | (refine Follows.fst_of_eq (by assumption) ?_) | (refine Follows.snd_of_eq (by assumption) ?_) | split

theorem State.tblReturn_follows {lp : List Part} {r : State} (s : State) (i : Nat) (bytes : List Byte) (hl :
    [.staged, .rw, .rc, .bank, .snap, .tt, .ring, .cmd, .pair] ⊆ lp) (h : Follows lp r s) : Follows lp r
    (State.tblReturn s i bytes) := by
  unfold State.tblReturn
  repeat' first
    | with_reducible assumption | with_reducible apply Follows.ite | with_reducible apply State.tWrite_follows
    | with_reducible apply State.modRing_follows | with_reducible apply State.cmdFinish_follows
    | exact within hl rfl | (apply Follows.foldl; intro _ _ _) | (apply Follows.foldl_fst; intro _ _ _)
    | (refine Follows.fst_of_eq (by assumption) ?_) | (refine Follows.snd_of_eq (by assumption) ?_) | split
    | with_reducible refine Follows.mkRegs ?_ hl ?_ ?_ | with_reducible exact id
    | (intro p hp; cases p <;> first | with_reducible rfl | exact absurd (List.elem_iff.mp rfl) hp)

theorem State.dataReturn_follows {lp : List Part} {r : State} (s : State) (p i : Nat) (bytes : List Byte) (hl :
    [.staged, .rw, .rc, .count, .bank, .snap, .tt, .macA, .macB, .ring, .ftxTurn, .cmd, .pair] ⊆ lp) (h : Follows
    lp r s) : Follows lp r (State.dataReturn s p i bytes) := by
  unfold State.dataReturn
  repeat' first
    | with_reducible assumption | with_reducible apply Follows.ite | with_reducible apply State.tblReturn_follows
    | with_reducible apply State.ftxReturn_follows | with_reducible apply State.feedReturn_follows
    | exact within hl rfl

theorem State.marchTest_follows {lp : List Part} {r : State} (s : State) (e : Nat) (hl : [.applied, .bank, .eng] ⊆
    lp) (h : Follows lp r s) : Follows lp r (State.marchTest s e) := by
  unfold State.marchTest
  repeat' first
    | with_reducible assumption | with_reducible apply State.modEng_follows | exact within hl rfl | extract_lets
    | with_reducible refine Follows.mkRegs ?_ hl ?_ ?_ | with_reducible exact id
    | (intro p hp; cases p <;> first | with_reducible rfl | exact absurd (List.elem_iff.mp rfl) hp)
    | with_reducible refine Follows.mkStores ?_ hl ?_ ?_ ?_
    | with_reducible exact id
    | (intro p hp; cases p <;> first | with_reducible rfl | exact absurd (List.elem_iff.mp rfl) hp)
    | (refine fun ⟨_, _, _, _, _, _, _, _, _, _, _⟩ => ⟨?_, ?_, ?_, ?_, ?_, ?_, ?_, ?_, ?_, ?_, ?_⟩
        <;> (try dsimp only) <;> first
          | with_reducible assumption | exact swf_replaceWhere (by assumption) _ _ | exact swf_sset (by assumption) _ _
          | exact swf_filter (by assumption) _ | assumption
          | exact fun p hp => (by assumption : ∀ p ∈ _, _) p (List.mem_of_mem_filter hp) | skip)

theorem State.testEnd_follows {lp : List Part} {r : State} (s : State) (fail : Bool) (detail : Nat) (hl :
    [.applied, .rc, .bank, .eng, .ring, .cmd, .sap, .pwr] ⊆ lp) (h : Follows lp r s) : Follows lp r (State.testEnd
    s fail detail) := by
  unfold State.testEnd
  repeat' first
    | with_reducible assumption | with_reducible apply Follows.ite | with_reducible apply State.setTesting_follows
    | with_reducible apply State.marchTest_follows | with_reducible apply State.modPwrCh_follows
    | with_reducible apply State.flagRaise_follows | with_reducible apply State.cmdFinish_follows
    | exact within hl rfl | (refine Follows.fst_of_eq (by assumption) ?_)
    | (refine Follows.snd_of_eq (by assumption) ?_) | split | with_reducible refine Follows.mkRegs ?_ hl ?_ ?_
    | with_reducible exact id
    | (intro p hp; cases p <;> first | with_reducible rfl | exact absurd (List.elem_iff.mp rfl) hp)

theorem State.ringTimer_follows {lp : List Part} {r : State} (s : State) (p : Nat) (hl : [.rc, .ring] ⊆ lp) (h :
    Follows lp r s) : Follows lp r (State.ringTimer s p) := by
  unfold State.ringTimer
  repeat' first
    | with_reducible assumption | with_reducible apply Follows.ite | with_reducible apply State.ringSignal_follows
    | exact within hl rfl

end Sys2Proof.Machine
end

