-- ==== Sys2Proof/Laws/FollowsBoot.lean ====
section
/-! SUPPORT. What each operation of Machine/Boot.lean does to the state as a whole (Follows). -/

set_option linter.unusedTactic false
set_option linter.unreachableTactic false

namespace Sys2Proof.Machine

theorem State.hostClear_follows {lp : List Part} {r : State} (s : State) (hl : [.staged, .applied, .rw, .rc,
    .count, .rcu, .macA, .macB, .hrx, .ring, .ftxTurn, .cmd, .pci, .msixEn, .intDis] ⊆ lp) (h : Follows lp r s) :
    Follows lp r (State.hostClear s) := by
  unfold State.hostClear
  refine Follows.mkStores h hl (fun ⟨h1, h2, h3, h4, h5, h6, h7, h8, h9, h10⟩ =>
    ⟨?_, ?_, h3, ?_, ?_, h6, h7, ?_, fun p hp => ?_, h10⟩)
    (fun ⟨k1, _, k3, k4, k5, k6, k7, k8, k9, k10, k11, k12, k13, k14⟩ =>
      ⟨k1, rfl, k3, k4, k5, k6, k7, k8, k9, k10, k11, k12, k13, k14⟩) (fun p hp => by
    cases p <;> first | with_reducible rfl | exact absurd (List.elem_iff.mp rfl) hp)
  · exact swf_filter h1 _
  · exact swf_filter h2 _
  · exact swf_filter h4 _
  · exact swf_filter h5 _
  · exact swf_filter h8 _
  · exact h9 p (List.mem_filter.mp hp).1

theorem State.hostReset_follows {lp : List Part} {r : State} (s : State) (e : HostLoss) (hl : [.staged, .applied,
    .rw, .rc, .count, .rcu, .macA, .macB, .hrx, .ring, .ftxTurn, .cmd, .pmu, .pci, .msixEn, .intDis] ⊆ lp) (h :
    Follows lp r s) : Follows lp r (State.hostReset s e) := by
  unfold State.hostReset
  repeat' first
    | with_reducible assumption | with_reducible apply Follows.ite | with_reducible apply State.hostClear_follows
    | with_reducible apply State.flagRaise_follows | exact within hl rfl
    | (refine Follows.fst_of_eq (by assumption) ?_) | (refine Follows.snd_of_eq (by assumption) ?_) | split
    | extract_lets | with_reducible refine Follows.mkRegs ?_ hl ?_ ?_ | with_reducible exact id
    | (intro p hp; cases p <;> first | with_reducible rfl | exact absurd (List.elem_iff.mp rfl) hp)

theorem State.mgtUnitReset_follows {lp : List Part} {r : State} (s : State) (hl : [.rc, .mbox, .mgt] ⊆ lp) (h :
    Follows lp r s) : Follows lp r (State.mgtUnitReset s) := by
  unfold State.mgtUnitReset
  repeat' first
    | with_reducible assumption | with_reducible apply State.mboxFlushAll_follows
    | with_reducible apply State.coreRestart_follows | with_reducible apply State.setRc_follows
    | exact within hl rfl | extract_lets | with_reducible refine Follows.mkRegs ?_ hl ?_ ?_
    | with_reducible exact id
    | (intro p hp; cases p <;> first | with_reducible rfl | exact absurd (List.elem_iff.mp rfl) hp)

theorem State.unitReset_follows {lp : List Part} {r : State} (s : State) (n : Nat) (hl : [.rc, .count, .hstop,
    .tim, .mcr, .syn, .mix, .macA, .macB, .mdio, .eng, .dpc, .mbox, .ring, .sap, .asrc, .pwr, .mgt] ⊆ lp) (h :
    Follows lp r s) : Follows lp r (State.unitReset s n) := by
  unfold State.unitReset
  repeat' first
    | with_reducible assumption | with_reducible apply Follows.ite | with_reducible apply State.setRc_follows
    | with_reducible apply State.retrainPort_follows | with_reducible apply State.relockBegin_follows
    | with_reducible apply State.mgtUnitReset_follows | with_reducible apply State.pwrUnitReset_follows
    | with_reducible apply State.linkUnitReset_follows | with_reducible apply State.engUnitReset_follows
    | with_reducible apply State.sapUnitReset_follows | with_reducible apply State.clearHstop_follows
    | exact within hl rfl

theorem State.blockReset_follows {lp : List Part} {r : State} (s : State) (hl : [.rc, .count, .rcu, .hstop, .tim,
    .mcr, .syn, .mix, .macA, .macB, .mdio, .eng, .dpc, .mbox, .ring, .sap, .asrc, .pwr, .mgt] ⊆ lp) (h : Follows lp
    r s) : Follows lp r (State.blockReset s) := by
  unfold State.blockReset
  repeat' first
    | with_reducible assumption | with_reducible apply State.unitReset_follows | exact within hl rfl
    | (apply Follows.foldl; intro _ _ _) | (apply Follows.foldl_fst; intro _ _ _)
    | with_reducible refine Follows.mkRegs ?_ hl ?_ ?_ | with_reducible exact id
    | (intro p hp; cases p <;> first | with_reducible rfl | exact absurd (List.elem_iff.mp rfl) hp)
    | (refine fun ⟨_, _, _, _, _, _, _, _, _, _, _, _, _, _⟩ => ⟨?_, ?_, ?_, ?_, ?_, ?_, ?_, ?_, ?_, ?_, ?_, ?_, ?_, ?_⟩ <;> first
        | with_reducible assumption | exact swf_sset (by assumption) _ _ | exact swf_filter (by assumption) _ | rfl)

theorem State.deviceReset_follows {lp : List Part} {r : State} (s : State) (cause : Nat) (hl : Part.all ⊆ lp) (h :
    Follows lp r s) : Follows lp r (State.deviceReset s cause) := by
  refine h.trans (s := s) ⟨rfl, rfl, List.prefix_append _ _, le_rfl, fun k => ?_, fun p hp => absurd (hl (Part.mem_all p)) hp⟩
  obtain ⟨_, _, _, _, _, _, _, _, _, _, _, _, _, _, _, hk⟩ := k
  refine ⟨⟨rfl, rfl, rfl, ?_, ?_, rfl, rfl, rfl, (fun p hp => by cases hp), rfl, rfl⟩, rfl, rfl, rfl, rfl, rfl, rfl, rfl, rfl, rfl,
    rfl, rfl, rfl, rfl, rfl, hk⟩
  · exact swf_sset (swf_sset (m := []) rfl 0x3014 (s.rwW 0x3014)) 0x304C (s.rwW 0x304C)
  · exact swf_sset (m := []) rfl 0x300C _

theorem State.startUp_follows {lp : List Part} {r : State} (s : State) (x : Straps) (hl : [.syn, .pwr, .pmu] ⊆ lp)
    (h : Follows lp r s) : Follows lp r (State.startUp s x) := by
  unfold State.startUp
  repeat' first
    | with_reducible assumption | with_reducible apply Follows.ite | split | extract_lets
    | with_reducible refine Follows.mkRegs ?_ hl ?_ ?_ | with_reducible exact id
    | (intro p hp; cases p <;> first | with_reducible rfl | exact absurd (List.elem_iff.mp rfl) hp)

theorem State.powerOn_follows {lp : List Part} {r : State} (s : State) (x : Straps) (hl : Part.all ⊆ lp) (h :
    Follows lp r s) : Follows lp r (State.powerOn s x) := by
  unfold State.powerOn
  repeat' first
    | with_reducible assumption | with_reducible apply Follows.ite | with_reducible apply State.deviceReset_follows
    | with_reducible apply State.startUp_follows | exact within hl rfl | split | extract_lets
    | with_reducible refine Follows.mkRegs ?_ hl ?_ ?_ | with_reducible exact id
    | (intro p hp; cases p <;> first | with_reducible rfl | exact absurd (List.elem_iff.mp rfl) hp)

theorem State.vinInvalid_follows {lp : List Part} {r : State} (s : State) (k : Nat) (hl : Part.all ⊆ lp) (h :
    Follows lp r s) : Follows lp r (State.vinInvalid s k) := by
  unfold State.vinInvalid
  repeat' first
    | with_reducible assumption | with_reducible apply Follows.ite | with_reducible apply State.deviceReset_follows
    | exact within hl rfl | split | extract_lets | with_reducible refine Follows.mkRegs ?_ hl ?_ ?_
    | with_reducible exact id
    | (intro p hp; cases p <;> first | with_reducible rfl | exact absurd (List.elem_iff.mp rfl) hp)

theorem State.vioFall_follows {lp : List Part} {r : State} (s : State) (b : Nat) (hl : [.rc, .pmu] ⊆ lp) (h :
    Follows lp r s) : Follows lp r (State.vioFall s b) := by
  unfold State.vioFall
  repeat' first
    | with_reducible assumption | with_reducible apply Follows.ite | with_reducible apply State.flagRaise_follows
    | exact within hl rfl | split | with_reducible refine Follows.mkRegs ?_ hl ?_ ?_ | with_reducible exact id
    | (intro p hp; cases p <;> first | with_reducible rfl | exact absurd (List.elem_iff.mp rfl) hp)

theorem State.vioRecover_follows {lp : List Part} {r : State} (s : State) (b : Nat) (v18 : Bool) (hl : [.pmu] ⊆ lp)
    (h : Follows lp r s) : Follows lp r (State.vioRecover s b v18) := by
  unfold State.vioRecover
  repeat' first
    | with_reducible assumption | with_reducible apply Follows.ite | split | extract_lets
    | with_reducible refine Follows.mkRegs ?_ hl ?_ ?_ | with_reducible exact id
    | (intro p hp; cases p <;> first | with_reducible rfl | exact absurd (List.elem_iff.mp rfl) hp)

theorem State.resetN_follows {lp : List Part} {r : State} (s : State) (us : Nat) (seen : Bool) (hl : Part.all ⊆ lp)
    (h : Follows lp r s) : Follows lp r (State.resetN s us seen) := by
  unfold State.resetN
  repeat' first
    | with_reducible assumption | with_reducible apply Follows.ite | with_reducible apply State.deviceReset_follows
    | exact within hl rfl | split | extract_lets | with_reducible refine Follows.mkRegs ?_ hl ?_ ?_
    | with_reducible exact id
    | (intro p hp; cases p <;> first | with_reducible rfl | exact absurd (List.elem_iff.mp rfl) hp)

theorem State.resetRelease_follows {lp : List Part} {r : State} (s : State) (x : Straps) (hl : [.syn, .pwr, .pmu] ⊆
    lp) (h : Follows lp r s) : Follows lp r (State.resetRelease s x) := by
  unfold State.resetRelease
  repeat' first
    | with_reducible assumption | with_reducible apply Follows.ite | with_reducible apply State.startUp_follows
    | exact within hl rfl | split | with_reducible refine Follows.mkRegs ?_ hl ?_ ?_ | with_reducible exact id
    | (intro p hp; cases p <;> first | with_reducible rfl | exact absurd (List.elem_iff.mp rfl) hp)

theorem State.xoLoss_follows {lp : List Part} {r : State} (s : State) (hl : Part.all ⊆ lp) (h : Follows lp r s) :
    Follows lp r (State.xoLoss s) := by
  unfold State.xoLoss
  repeat' first
    | with_reducible assumption | with_reducible apply Follows.ite | with_reducible apply State.deviceReset_follows
    | exact within hl rfl | split | extract_lets | with_reducible refine Follows.mkRegs ?_ hl ?_ ?_
    | with_reducible exact id
    | (intro p hp; cases p <;> first | with_reducible rfl | exact absurd (List.elem_iff.mp rfl) hp)

theorem State.xoReturn_follows {lp : List Part} {r : State} (s : State) (x : Straps) (hl : [.syn, .pwr, .pmu] ⊆ lp)
    (h : Follows lp r s) : Follows lp r (State.xoReturn s x) := by
  unfold State.xoReturn
  repeat' first
    | with_reducible assumption | with_reducible apply Follows.ite | with_reducible apply State.startUp_follows
    | exact within hl rfl | split | with_reducible refine Follows.mkRegs ?_ hl ?_ ?_ | with_reducible exact id
    | (intro p hp; cases p <;> first | with_reducible rfl | exact absurd (List.elem_iff.mp rfl) hp)

theorem State.thermal_follows {lp : List Part} {r : State} (s : State) (t : Int) (hl : [.rc, .pmu] ⊆ lp) (h :
    Follows lp r s) : Follows lp r (State.thermal s t) := by
  unfold State.thermal
  repeat' first
    | with_reducible assumption | with_reducible apply Follows.ite | with_reducible apply State.flagRaise_follows
    | exact within hl rfl | split | extract_lets | with_reducible refine Follows.mkRegs ?_ hl ?_ ?_
    | with_reducible exact id
    | (intro p hp; cases p <;> first | with_reducible rfl | exact absurd (List.elem_iff.mp rfl) hp)

theorem State.heatHold_follows {lp : List Part} {r : State} (s : State) (hl : Part.all ⊆ lp) (h : Follows lp r s) :
    Follows lp r (State.heatHold s) := by
  unfold State.heatHold
  repeat' first
    | with_reducible assumption | with_reducible apply State.deviceReset_follows | exact within hl rfl

theorem State.overtemp_follows {lp : List Part} {r : State} (s : State) (t : Int) (hl : Part.all ⊆ lp) (h : Follows
    lp r s) : Follows lp r (State.overtemp s t) := by
  unfold State.overtemp
  repeat' first
    | with_reducible assumption | with_reducible apply Follows.ite | with_reducible apply State.thermal_follows
    | with_reducible apply State.muteAll_follows | with_reducible apply State.heatHold_follows
    | exact within hl rfl | split | extract_lets | with_reducible refine Follows.mkRegs ?_ hl ?_ ?_
    | with_reducible exact id
    | (intro p hp; cases p <;> first | with_reducible rfl | exact absurd (List.elem_iff.mp rfl) hp)

theorem State.heatTick_follows {lp : List Part} {r : State} (s : State) (hl : Part.all ⊆ lp) (h : Follows lp r s) :
    Follows lp r (State.heatTick s) := by
  unfold State.heatTick
  repeat' first
    | with_reducible assumption | with_reducible apply Follows.ite | with_reducible apply State.heatHold_follows
    | exact within hl rfl

theorem State.overtempRelease_follows {lp : List Part} {r : State} (s : State) (t : Int) (x : Straps) (hl :
    Part.all ⊆ lp) (h : Follows lp r s) : Follows lp r (State.overtempRelease s t x) := by
  unfold State.overtempRelease
  repeat' first
    | with_reducible assumption | with_reducible apply Follows.ite | with_reducible apply State.heatHold_follows
    | with_reducible apply State.startUp_follows | exact within hl rfl | split | extract_lets
    | with_reducible refine Follows.mkRegs ?_ hl ?_ ?_ | with_reducible exact id
    | (intro p hp; cases p <;> first | with_reducible rfl | exact absurd (List.elem_iff.mp rfl) hp)

theorem State.firmwareReady_follows {lp : List Part} {r : State} (s : State) (f : FwImage) (hl : [.rw, .rc, .count,
    .rcu, .mbox, .pmu, .mgt] ⊆ lp) (h : Follows lp r s) : Follows lp r (State.firmwareReady s f) := by
  unfold State.firmwareReady
  repeat' first
    | with_reducible assumption | with_reducible apply Follows.ite | with_reducible apply State.flagRaise_follows
    | with_reducible apply State.lkAct_follows | with_reducible apply mgtSkim_follows | exact within hl rfl
    | (refine Follows.fst_of_eq (by assumption) ?_) | (refine Follows.snd_of_eq (by assumption) ?_) | split
    | extract_lets | with_reducible refine Follows.mkRegs ?_ hl ?_ ?_ | with_reducible exact id
    | (intro p hp; cases p <;> first | with_reducible rfl | exact absurd (List.elem_iff.mp rfl) hp)

theorem State.mgtWatchdog_follows {lp : List Part} {r : State} (s : State) (hl : [.rw, .rc, .hstop, .mbox, .hrx,
    .ring, .cmd, .mgt] ⊆ lp) (h : Follows lp r s) : Follows lp r (State.mgtWatchdog s) := by
  have ha : Follows lp r (s.mboxFlushAll).coreRestart :=
    State.coreRestart_follows _ (within hl rfl) (State.mboxFlushAll_follows _ (within hl rfl) h)
  unfold State.mgtWatchdog
  split
  · exact h
  · extract_lets a m b c0 c
    have hb : Follows lp r b := by
      refine State.flagRaise_follows _ _ _ _ (within hl rfl) ?_
      have hm : ∀ (t : State) (n : Mgt), Follows lp r t → n.flash = t.mgt.flash → Follows lp r { t with mgt := n } :=
        fun t n ht hn => Follows.mkRegs (fp := [.mgt]) ht (within hl rfl) (fun k => by rw [hn]; exact k) fun p hp => by
          cases p <;> first | with_reducible rfl | exact absurd (List.elem_iff.mp rfl) hp
      exact hm a _ ha rfl
    clear_value b
    have hc : Follows lp r c := by
      refine Follows.ite ?_ hb
      refine Follows.mkStores hb hl (fun ⟨h1, h2, h3, h4, h5⟩ => ⟨h1, h2, h3, swf_filter h4 _, h5⟩)
        (fun ⟨k1, _, k3⟩ => ⟨k1, rfl, k3⟩) fun p hp => by
        cases p <;> first | with_reducible rfl | exact absurd (List.elem_iff.mp rfl) hp
    exact Follows.ite (State.enterHstop_follows _ _ (within hl rfl) hc) hc

theorem State.perstRelease_follows {lp : List Part} {r : State} (s : State) (hl : [.pmu] ⊆ lp) (h : Follows lp r s)
    : Follows lp r (State.perstRelease s) := by
  unfold State.perstRelease
  repeat' first
    | with_reducible assumption | with_reducible refine Follows.mkRegs ?_ hl ?_ ?_ | with_reducible exact id
    | (intro p hp; cases p <;> first | with_reducible rfl | exact absurd (List.elem_iff.mp rfl) hp)

theorem State.pcieUp_follows {lp : List Part} {r : State} (s : State) (speed width : Nat) (hl : [.pci] ⊆ lp) (h :
    Follows lp r s) : Follows lp r (State.pcieUp s speed width) := by
  unfold State.pcieUp
  repeat' first
    | with_reducible assumption | with_reducible apply Follows.ite | split
    | with_reducible refine Follows.mkRegs ?_ hl ?_ ?_ | with_reducible exact id
    | (intro p hp; cases p <;> first | with_reducible rfl | exact absurd (List.elem_iff.mp rfl) hp)

theorem State.ecrcErr_follows {lp : List Part} {r : State} (s : State) (hl : [.rc] ⊆ lp) (h : Follows lp r s) :
    Follows lp r (State.ecrcErr s) := by
  unfold State.ecrcErr
  repeat' first
    | with_reducible assumption | with_reducible apply State.flagRaise_follows | exact within hl rfl

theorem State.msixEnable_follows {lp : List Part} {r : State} (s : State) (b : Bool) (hl : [.msixEn] ⊆ lp) (h :
    Follows lp r s) : Follows lp r (State.msixEnable s b) := by
  unfold State.msixEnable
  repeat' first
    | with_reducible assumption | with_reducible apply Follows.ite | with_reducible apply State.msgDue_follows
    | (apply Follows.foldl; intro _ _ _) | (apply Follows.foldl_fst; intro _ _ _) | split | extract_lets
    | with_reducible refine Follows.mkRegs ?_ hl ?_ ?_ | with_reducible exact id
    | (intro p hp; cases p <;> first | with_reducible rfl | exact absurd (List.elem_iff.mp rfl) hp)

theorem State.interruptDisable_follows {lp : List Part} {r : State} (s : State) (b : Bool) (hl : [.intDis] ⊆ lp) (h
    : Follows lp r s) : Follows lp r (State.interruptDisable s b) := by
  unfold State.interruptDisable
  repeat' first
    | with_reducible assumption | with_reducible refine Follows.mkRegs ?_ hl ?_ ?_ | with_reducible exact id
    | (intro p hp; cases p <;> first | with_reducible rfl | exact absurd (List.elem_iff.mp rfl) hp)

theorem State.scrubError_follows {lp : List Part} {r : State} (s : State) (fixable : Bool) (a : Nat) (hl : [.rc,
    .count, .sst] ⊆ lp) (h : Follows lp r s) : Follows lp r (State.scrubError s fixable a) := by
  unfold State.scrubError
  repeat' first
    | with_reducible assumption | with_reducible apply Follows.ite | with_reducible apply State.storeCe_follows
    | with_reducible apply State.storeUe_follows | exact within hl rfl

theorem State.serdesTick_follows {lp : List Part} {r : State} (s : State) (hl : [.syn] ⊆ lp) (h : Follows lp r s) :
    Follows lp r (State.serdesTick s) := by
  unfold State.serdesTick
  repeat' first
    | with_reducible assumption | with_reducible apply Follows.ite | with_reducible apply State.setSerdes_follows
    | exact within hl rfl | (apply Follows.foldl; intro _ _ _)

theorem State.sleepStops_follows {lp : List Part} {r : State} (s : State) (hl : [.rc, .count, .mix, .macA, .macB,
    .stx, .srx, .dpc, .ring, .sap, .asrc, .pwr, .pair] ⊆ lp) (h : Follows lp r s) : Follows lp r (State.sleepStops
    s) := by
  unfold State.sleepStops
  repeat' first
    | with_reducible assumption | with_reducible apply Follows.ite | with_reducible apply State.stxHalt_follows
    | with_reducible apply State.srxHalt_follows | with_reducible apply State.modRing_follows
    | with_reducible apply State.sapHalt_follows | with_reducible apply State.pwrStop_follows
    | with_reducible apply State.giveUp_follows | exact within hl rfl | (apply Follows.foldl; intro _ _ _)
    | (apply Follows.foldl_fst; intro _ _ _) | split | extract_lets
    | with_reducible refine Follows.mkRegs ?_ hl ?_ ?_ | with_reducible exact id
    | (intro p hp; cases p <;> first | with_reducible rfl | exact absurd (List.elem_iff.mp rfl) hp)
    | (refine fun ⟨_, _, _, _, _, _, _, _, _, _, _, _, _, _⟩ => ⟨?_, ?_, ?_, ?_, ?_, ?_, ?_, ?_, ?_, ?_, ?_, ?_, ?_, ?_⟩ <;> first
        | with_reducible assumption | exact swf_sset (by assumption) _ _ | exact swf_filter (by assumption) _ | rfl)

theorem State.portSleep_follows {lp : List Part} {r : State} (s : State) (p : Nat) (hl : [.rc, .count, .hstop,
    .tim, .mcr, .macA, .macB, .mdio, .dpc, .ring] ⊆ lp) (h : Follows lp r s) : Follows lp r (State.portSleep s p)
    := by
  unfold State.portSleep
  repeat' first
    | with_reducible assumption | with_reducible apply Follows.ite | with_reducible apply State.rungChange_follows
    | with_reducible apply State.modMac_follows | with_reducible apply State.takeDown_follows | exact within hl rfl
    | split | with_reducible refine Follows.mkRegs ?_ hl ?_ ?_ | with_reducible exact id
    | (intro p hp; cases p <;> first | with_reducible rfl | exact absurd (List.elem_iff.mp rfl) hp) | assumption

theorem State.sleepEnd_follows {lp : List Part} {r : State} (s : State) (hl : [.staged, .applied, .rw, .rc, .count,
    .rcu, .hstop, .tim, .mcr, .syn, .macA, .macB, .mdio, .dpc, .hrx, .ring, .ftxTurn, .cmd, .pmu, .pci, .msixEn,
    .intDis] ⊆ lp) (h : Follows lp r s) : Follows lp r (State.sleepEnd s) := by
  unfold State.sleepEnd
  repeat' first
    | with_reducible assumption | with_reducible apply Follows.ite | with_reducible apply State.hostReset_follows
    | with_reducible apply State.hostClear_follows | with_reducible apply State.portSleep_follows
    | with_reducible apply State.serdesTick_follows | exact within hl rfl | (apply Follows.foldl; intro _ _ _)
    | (apply Follows.foldl_fst; intro _ _ _) | split | extract_lets
    | with_reducible refine Follows.mkRegs ?_ hl ?_ ?_ | with_reducible exact id
    | (intro p hp; cases p <;> first | with_reducible rfl | exact absurd (List.elem_iff.mp rfl) hp)

theorem State.wakeUp_follows {lp : List Part} {r : State} (s : State) (p : Option Nat) (x : Straps) (hl : Part.all
    ⊆ lp) (h : Follows lp r s) : Follows lp r (State.wakeUp s p x) := by
  unfold State.wakeUp
  repeat' first
    | with_reducible assumption | with_reducible apply State.deviceReset_follows
    | with_reducible apply State.setRc_follows | with_reducible apply State.startUp_follows | exact within hl rfl
    | (refine Follows.fst_of_eq (by assumption) ?_) | (refine Follows.snd_of_eq (by assumption) ?_) | split

theorem State.sleepTick_follows {lp : List Part} {r : State} (s : State) (hl : Part.all ⊆ lp) (h : Follows lp r s)
    : Follows lp r (State.sleepTick s) := by
  unfold State.sleepTick
  repeat' first
    | with_reducible assumption | with_reducible apply Follows.ite | with_reducible apply State.muteAll_follows
    | with_reducible apply State.sleepStops_follows | with_reducible apply State.sleepEnd_follows
    | with_reducible apply State.wakeUp_follows | exact within hl rfl
    | (refine Follows.fst_of_eq (by assumption) ?_) | (refine Follows.snd_of_eq (by assumption) ?_) | split
    | extract_lets | with_reducible refine Follows.mkRegs ?_ hl ?_ ?_ | with_reducible exact id
    | (intro p hp; cases p <;> first | with_reducible rfl | exact absurd (List.elem_iff.mp rfl) hp)

theorem State.gpioEdge_follows {lp : List Part} {r : State} (s : State) (k : Nat) (hl : [.pmu] ⊆ lp) (h : Follows
    lp r s) : Follows lp r (State.gpioEdge s k) := by
  unfold State.gpioEdge
  repeat' first
    | with_reducible assumption | with_reducible refine Follows.mkRegs ?_ hl ?_ ?_ | with_reducible exact id
    | (intro p hp; cases p <;> first | with_reducible rfl | exact absurd (List.elem_iff.mp rfl) hp) | assumption

theorem State.wake_follows {lp : List Part} {r : State} (s : State) (w : WakeBy) (x : Straps) (hl : Part.all ⊆ lp)
    (h : Follows lp r s) : Follows lp r (State.wake s w x) := by
  unfold State.wake
  repeat' first
    | with_reducible assumption | with_reducible apply Follows.ite | with_reducible apply State.gpioEdge_follows
    | with_reducible apply State.wakeUp_follows | exact within hl rfl
    | (refine Follows.fst_of_eq (by assumption) ?_) | (refine Follows.snd_of_eq (by assumption) ?_) | split
    | extract_lets | with_reducible refine Follows.mkRegs ?_ hl ?_ ?_ | with_reducible exact id
    | (intro p hp; cases p <;> first | with_reducible rfl | exact absurd (List.elem_iff.mp rfl) hp)

theorem State.msWrite_follows {lp : List Part} {r : State} (s : State) (a : Nat) (d : Word) (gt20 : List (Nat ×
    Word)) (hl : [.staged, .rw, .rc, .count, .bank, .snap, .rcu, .crc, .hstop, .tt, .tim, .mcr, .syn, .mix, .macA,
    .macB, .mdio, .stx, .eng, .srx, .dpc, .mbox, .ring, .cmd, .sap, .pwr, .pair, .pmu, .mgt] ⊆ lp) (h : Follows lp
    r s) : Follows lp r (State.msWrite s a d gt20) := by
  unfold State.msWrite
  repeat' first
    | with_reducible assumption | with_reducible apply Follows.ite | with_reducible apply State.mboxAppend_follows
    | with_reducible apply State.mgtBell_follows | with_reducible apply State.write32_follows
    | with_reducible apply State.strobe_follows | exact within hl rfl | (apply Follows.foldl; intro _ _ _)

theorem State.msRead_follows {lp : List Part} {r : State} (s : State) (a : Nat) (gt20 : Option Nat) (hl : [.rc,
    .mbox, .reply] ⊆ lp) (h : Follows lp r s) : Follows lp r (State.msRead s a gt20) := by
  unfold State.msRead
  repeat' first
    | with_reducible assumption | with_reducible apply Follows.ite | with_reducible apply State.answer_follows
    | with_reducible apply State.mboxTake_follows | exact within hl rfl
    | (refine Follows.fst_of_eq (by assumption) ?_) | (refine Follows.snd_of_eq (by assumption) ?_) | split

end Sys2Proof.Machine
end

