-- ==== Sys2Proof/Laws/FollowsTick.lean ====
section
/-! SUPPORT. What each operation of Machine/Tick.lean does to the state as a whole (Follows). -/

set_option linter.unusedTactic false
set_option linter.unreachableTactic false

namespace Sys2Proof.Machine

theorem State.setCrc_follows {lp : List Part} {r : State} (s : State) (c : Crc) (hl : [.crc] ⊆ lp) (h : Follows lp
    r s) : Follows lp r (State.setCrc s c) := by
  unfold State.setCrc
  repeat' first
    | with_reducible assumption | with_reducible refine Follows.mkRegs ?_ hl ?_ ?_ | with_reducible exact id
    | (intro p hp; cases p <;> first | with_reducible rfl | exact absurd (List.elem_iff.mp rfl) hp)

theorem State.passBegin_follows {lp : List Part} {r : State} (s : State) (hl : [.crc] ⊆ lp) (h : Follows lp r s) :
    Follows lp r (State.passBegin s) := by
  unfold State.passBegin
  repeat' first
    | with_reducible assumption | with_reducible apply Follows.ite | with_reducible apply State.setCrc_follows
    | exact within hl rfl | with_reducible refine Follows.mkRegs ?_ hl ?_ ?_ | with_reducible exact id
    | (intro p hp; cases p <;> first | with_reducible rfl | exact absurd (List.elem_iff.mp rfl) hp)

theorem State.crcMismatch_follows {lp : List Part} {r : State} (s : State) (hl : [.rc, .crc, .mix] ⊆ lp) (h :
    Follows lp r s) : Follows lp r (State.crcMismatch s) := by
  unfold State.crcMismatch
  repeat' first
    | with_reducible assumption | with_reducible apply Follows.ite | with_reducible apply State.fresh_follows
    | with_reducible apply State.setCrc_follows | with_reducible apply State.flagRaise_follows
    | with_reducible apply State.muteAll_follows | exact within hl rfl
    | with_reducible refine Follows.mkRegs ?_ hl ?_ ?_ | with_reducible exact id
    | (intro p hp; cases p <;> first | with_reducible rfl | exact absurd (List.elem_iff.mp rfl) hp)

theorem State.crcMatch_follows {lp : List Part} {r : State} (s : State) (hl : [.crc, .mix] ⊆ lp) (h : Follows lp r
    s) : Follows lp r (State.crcMatch s) := by
  unfold State.crcMatch
  repeat' first
    | with_reducible assumption | with_reducible apply Follows.ite | with_reducible apply State.setCrc_follows
    | with_reducible apply State.fresh_follows | with_reducible apply State.unmuteAll_follows | exact within hl rfl
    | with_reducible refine Follows.mkRegs ?_ hl ?_ ?_ | with_reducible exact id
    | (intro p hp; cases p <;> first | with_reducible rfl | exact absurd (List.elem_iff.mp rfl) hp)

theorem State.passEnd_follows {lp : List Part} {r : State} (s : State) (parity : Bool) (hl : [.rc, .crc, .mix] ⊆
    lp) (h : Follows lp r s) : Follows lp r (State.passEnd s parity) := by
  unfold State.passEnd
  repeat' first
    | with_reducible assumption | with_reducible apply Follows.ite | with_reducible apply State.setCrc_follows
    | with_reducible apply State.flag_follows | with_reducible apply State.crcMismatch_follows
    | with_reducible apply State.crcMatch_follows | exact within hl rfl
    | with_reducible refine Follows.mkRegs ?_ hl ?_ ?_ | with_reducible exact id
    | (intro p hp; cases p <;> first | with_reducible rfl | exact absurd (List.elem_iff.mp rfl) hp)

theorem State.tickPins_follows {lp : List Part} {r : State} (s : State) (x : TickIn) (hl : [.rc, .count, .sap,
    .asrc, .pwr] ⊆ lp) (h : Follows lp r s) : Follows lp r (State.tickPins s x) := by
  unfold State.tickPins
  repeat' first
    | with_reducible assumption | with_reducible apply State.sapEgress_follows
    | with_reducible apply State.asrcPoison_follows | with_reducible apply State.pwrTick_follows
    | exact within hl rfl | assumption

theorem State.tickIngress_follows {lp : List Part} {r : State} (s : State) (x : TickIn) (hl : [.rc, .count, .mix,
    .stx, .srx, .ring, .sap, .pwr, .sst] ⊆ lp) (h : Follows lp r s) : Follows lp r (State.tickIngress s x) := by
  unfold State.tickIngress
  repeat' first
    | with_reducible assumption | with_reducible apply State.stxIngress_follows
    | with_reducible apply State.srxPresent_follows | with_reducible apply State.srxPoison_follows
    | with_reducible apply State.feedTick_follows | with_reducible apply State.sapIngress_follows
    | with_reducible apply State.senseIngress_follows | with_reducible apply State.tickBuffer_follows
    | exact within hl rfl | extract_lets | with_reducible refine Follows.mkRegs ?_ hl ?_ ?_
    | with_reducible exact id
    | (intro p hp; cases p <;> first | with_reducible rfl | exact absurd (List.elem_iff.mp rfl) hp)

theorem State.tickAdvance_follows {lp : List Part} {r : State} (s : State) (x : TickIn) (hl : [.now, .tim, .mix,
    .dpc] ⊆ lp) (h : Follows lp r s) : Follows lp r (State.tickAdvance s x) := by
  unfold State.tickAdvance
  exact Follows.mkRegs (State.timeTick_follows s _ _ _ _ (within hl rfl) h) hl id fun p hp => by
    cases p <;> first | with_reducible rfl | rfl | exact absurd (List.elem_iff.mp rfl) hp

theorem State.stopAlls_follows {lp : List Part} {r : State} (s : State) (hl : [.stx, .srx] ⊆ lp) (h : Follows lp r
    s) : Follows lp r (State.stopAlls s) := by
  unfold State.stopAlls
  repeat' first
    | with_reducible assumption | with_reducible apply Follows.ite | with_reducible apply State.stxStop_follows
    | with_reducible apply State.srxStop_follows | exact within hl rfl | (apply Follows.foldl; intro _ _ _)
    | (apply Follows.foldl_fst; intro _ _ _) | split | extract_lets
    | with_reducible refine Follows.mkRegs ?_ hl ?_ ?_ | with_reducible exact id
    | (intro p hp; cases p <;> first | with_reducible rfl | exact absurd (List.elem_iff.mp rfl) hp)

theorem State.fireDepartures_follows {lp : List Part} {r : State} (s : State) (bad : List Nat) (hl : [.staged,
    .applied, .rw, .rc, .count, .bank, .snap, .crc, .hstop, .tt, .tim, .mcr, .syn, .mix, .macA, .macB, .mdio, .stx,
    .eng, .pool, .srx, .dpc, .ring, .cmd, .sap, .asrc, .pwr, .pair, .sst] ⊆ lp) (h : Follows lp r s) : Follows lp r
    (State.fireDepartures s bad).1 := by
  unfold State.fireDepartures
  repeat' first
    | with_reducible assumption | with_reducible apply State.takeAll_follows
    | with_reducible apply State.cmdBoundary_follows | with_reducible apply State.fireAll_follows
    | with_reducible apply State.applySnaps_follows | with_reducible apply State.adoptBlocks_follows
    | exact within hl rfl | extract_lets | assumption

theorem State.actDepartures_follows {lp : List Part} {r : State} (s : State) (ks : List Taken) (hl : [.staged,
    .applied, .rc, .count, .bank, .snap, .mix, .macA, .macB, .stx, .eng, .srx, .dpc, .ring, .cmd, .sap, .pwr,
    .pair] ⊆ lp) (h : Follows lp r s) : Follows lp r (State.actDepartures s ks) := by
  unfold State.actDepartures
  repeat' first
    | with_reducible assumption | with_reducible apply State.actAll_follows
    | with_reducible apply State.recordTaken_follows | with_reducible apply State.cmdBoundary_follows
    | exact within hl rfl | assumption

theorem State.tickActions_follows {lp : List Part} {r : State} (s : State) (x : TickIn) (hl : [.staged, .applied,
    .rw, .rc, .count, .bank, .snap, .crc, .hstop, .tt, .tim, .mcr, .syn, .mix, .macA, .macB, .mdio, .stx, .eng,
    .pool, .srx, .dpc, .ring, .cmd, .sap, .asrc, .pwr, .pair, .sst] ⊆ lp) (h : Follows lp r s) : Follows lp r
    (State.tickActions s x) := by
  unfold State.tickActions
  repeat' first
    | with_reducible assumption | with_reducible apply Follows.ite | with_reducible apply State.raise_follows
    | with_reducible apply State.fireDepartures_follows | with_reducible apply State.engRequests_follows
    | with_reducible apply State.slApplyAll_follows | with_reducible apply State.pairBoundary_follows
    | with_reducible apply State.actDepartures_follows | with_reducible apply State.stopAlls_follows
    | with_reducible apply State.sapBoundaries_follows | with_reducible apply State.pwrBoundary_follows
    | with_reducible apply State.hearAll_follows | with_reducible apply State.beginDue_follows
    | with_reducible apply State.retarget_follows | with_reducible apply State.groupsTick_follows
    | exact within hl rfl | (apply Follows.foldl; intro _ _ _)

theorem State.tickFabric_follows {lp : List Part} {r : State} (s0 : State) (x : TickIn) (hl : [.rc, .count, .hstop,
    .mix, .eng, .pool, .asrc, .sst] ⊆ lp) (h : Follows lp r s0) : Follows lp r (State.tickFabric s0 x) := by
  unfold State.tickFabric
  repeat' first
    | with_reducible assumption | with_reducible apply State.asrcIngress_follows
    | with_reducible apply State.asrcPoison_follows | with_reducible apply State.runBuses_follows
    | with_reducible apply State.advanceXp_follows | with_reducible apply State.runEngines_follows
    | with_reducible apply State.runSinks_follows | with_reducible apply State.advanceMutes_follows
    | with_reducible apply State.tickBuffer_follows | exact within hl rfl | extract_lets
    | with_reducible refine Follows.mkRegs ?_ hl ?_ ?_ | with_reducible exact id
    | (intro p hp; cases p <;> first | with_reducible rfl | exact absurd (List.elem_iff.mp rfl) hp)

theorem State.tickEgress_follows {lp : List Part} {r : State} (s : State) (x : TickIn) (hl : [.rc, .count, .macA,
    .macB, .stx, .ring] ⊆ lp) (h : Follows lp r s) : Follows lp r (State.tickEgress s x) := by
  unfold State.tickEgress
  repeat' first
    | with_reducible assumption | with_reducible apply State.stxTick_follows
    | with_reducible apply State.drawTick_follows | exact within hl rfl

theorem State.mcrTick_follows {lp : List Part} {r : State} (s : State) (ns : Nat) (hl : [.rc, .mcr] ⊆ lp) (h :
    Follows lp r s) : Follows lp r (State.mcrTick s ns) := by
  unfold State.mcrTick
  repeat' first
    | with_reducible assumption | with_reducible apply State.slewTick_follows
    | with_reducible apply State.stepUpTick_follows | with_reducible apply State.histTick_follows
    | with_reducible apply State.usableCheck_follows | exact within hl rfl | extract_lets | assumption

theorem State.scrubTick_follows {lp : List Part} {r : State} (s : State) (ns ce : Nat) (hl : [.rc, .count, .sst] ⊆
    lp) (h : Follows lp r s) : Follows lp r (State.scrubTick s ns ce) := by
  unfold State.scrubTick
  repeat' first
    | with_reducible assumption | with_reducible apply Follows.ite | with_reducible apply State.storeCe_follows
    | with_reducible apply State.countBy_follows | exact within hl rfl | split | extract_lets
    | with_reducible refine Follows.mkRegs ?_ hl ?_ ?_ | with_reducible exact id
    | (intro p hp; cases p <;> first | with_reducible rfl | exact absurd (List.elem_iff.mp rfl) hp) | assumption

theorem State.tickRest_follows {lp : List Part} {r : State} (s : State) (x : TickIn) (hl : Part.all ⊆ lp) (h :
    Follows lp r s) : Follows lp r (State.tickRest s x) := by
  unfold State.tickRest
  repeat' first
    | with_reducible assumption | with_reducible apply Follows.ite | with_reducible apply State.mcrTick_follows
    | with_reducible apply State.trkTick_follows | with_reducible apply State.serdesTick_follows
    | with_reducible apply State.scrubTick_follows | with_reducible apply State.storeCe_follows
    | with_reducible apply State.holdChecks_follows | with_reducible apply State.utilUpshifts_follows
    | with_reducible apply State.shiftCheck_follows | with_reducible apply State.pairTick_follows
    | with_reducible apply State.passBegin_follows | with_reducible apply State.sleepTick_follows
    | with_reducible apply State.heatTick_follows | exact within hl rfl

theorem State.tickCredits_follows {lp : List Part} {r : State} (s : State) (x : TickIn) (hl : [.macA, .macB] ⊆ lp)
    (h : Follows lp r s) : Follows lp r (State.tickCredits s x) := by
  unfold State.tickCredits
  repeat' first
    | with_reducible assumption | with_reducible apply State.creditRun_follows | exact within hl rfl | assumption

theorem State.tick_follows {lp : List Part} {r : State} (s : State) (x : TickIn) (hl : Part.all ⊆ lp) (h : Follows
    lp r s) : Follows lp r (State.tick s x) := by
  unfold State.tick
  repeat' first
    | with_reducible assumption | with_reducible apply State.tickCredits_follows
    | with_reducible apply State.tickPins_follows | with_reducible apply State.tickIngress_follows
    | with_reducible apply State.tickAdvance_follows | with_reducible apply State.tickActions_follows
    | with_reducible apply State.tickFabric_follows | with_reducible apply State.tickEgress_follows
    | with_reducible apply State.tickRest_follows | exact within hl rfl

end Sys2Proof.Machine
end

