-- ==== Sys2Proof/Laws/FollowsGuard.lean ====
section
/-! SUPPORT. What each operation of Machine/Guard.lean does to the state as a whole (Follows). -/

set_option linter.unusedTactic false
set_option linter.unreachableTactic false

namespace Sys2Proof.Machine

theorem State.onPort_follows {lp : List Part} {r : State} (s : State) (p : Nat) (t : State) (h : Follows lp r s)
    (h1 : Follows lp r t) : Follows lp r (State.onPort s p t) := by
  unfold State.onPort
  repeat' first
    | with_reducible assumption | with_reducible apply Follows.ite

theorem State.onInst_follows {lp : List Part} {r : State} (s : State) (i : Nat) (t : State) (h : Follows lp r s)
    (h1 : Follows lp r t) : Follows lp r (State.onInst s i t) := by
  unfold State.onInst
  repeat' first
    | with_reducible assumption | with_reducible apply Follows.ite

theorem State.onEng_follows {lp : List Part} {r : State} (s : State) (e : Nat) (t : State) (h : Follows lp r s) (h1
    : Follows lp r t) : Follows lp r (State.onEng s e t) := by
  unfold State.onEng
  repeat' first
    | with_reducible assumption | with_reducible apply Follows.ite

theorem State.onSap_follows {lp : List Part} {r : State} (s : State) (p : Nat) (t : State) (h : Follows lp r s) (h1
    : Follows lp r t) : Follows lp r (State.onSap s p t) := by
  unfold State.onSap
  repeat' first
    | with_reducible assumption | with_reducible apply Follows.ite

theorem State.onTrk_follows {lp : List Part} {r : State} (s : State) (p : Nat) (t : State) (h : Follows lp r s) (h1
    : Follows lp r t) : Follows lp r (State.onTrk s p t) := by
  unfold State.onTrk
  repeat' first
    | with_reducible assumption | with_reducible apply Follows.ite

theorem State.onPower_follows {lp : List Part} {r : State} (s : State) (t : State) (h : Follows lp r s) (h1 :
    Follows lp r t) : Follows lp r (State.onPower s t) := by
  unfold State.onPower
  repeat' first
    | with_reducible assumption | with_reducible apply Follows.ite

theorem State.onCh_follows {lp : List Part} {r : State} (s : State) (c : Nat) (t : State) (h : Follows lp r s) (h1
    : Follows lp r t) : Follows lp r (State.onCh s c t) := by
  unfold State.onCh
  repeat' first
    | with_reducible assumption | with_reducible apply Follows.ite

theorem State.onPair_follows {lp : List Part} {r : State} (s : State) (t : State) (h : Follows lp r s) (h1 :
    Follows lp r t) : Follows lp r (State.onPair s t) := by
  unfold State.onPair
  repeat' first
    | with_reducible assumption | with_reducible apply Follows.ite

theorem State.onIndex_follows {lp : List Part} {r : State} (s : State) (k n : Nat) (t : State) (h : Follows lp r s)
    (h1 : Follows lp r t) : Follows lp r (State.onIndex s k n t) := by
  unfold State.onIndex
  repeat' first
    | with_reducible assumption | with_reducible apply Follows.ite | split | assumption

theorem State.onDpc_follows {lp : List Part} {r : State} (s : State) (t : State) (h : Follows lp r s) (h1 : Follows
    lp r t) : Follows lp r (State.onDpc s t) := by
  unfold State.onDpc
  repeat' first
    | with_reducible assumption | with_reducible apply Follows.ite

theorem State.ctl_follows {lp : List Part} {r : State} (s : State) (q : Req) (a d : Nat) (hl : [.staged, .rw, .rc,
    .count, .bank, .snap, .rcu, .crc, .hstop, .tt, .tim, .mcr, .syn, .mix, .macA, .macB, .mdio, .stx, .eng, .srx,
    .dpc, .mbox, .ring, .cmd, .sap, .pwr, .pair, .pmu, .mgt] ⊆ lp) (h : Follows lp r s) : Follows lp r (State.ctl s
    q a d) := by
  unfold State.ctl
  repeat' first
    | with_reducible assumption | with_reducible apply State.write32_follows | exact within hl rfl

theorem State.regAt_follows {lp : List Part} {r : State} (s : State) (k n a : Nat) (x : RegWrite) (hl : [.staged,
    .rw, .rc, .count, .bank, .snap, .rcu, .crc, .hstop, .tt, .tim, .mcr, .syn, .mix, .macA, .macB, .mdio, .stx,
    .eng, .srx, .dpc, .mbox, .ring, .cmd, .sap, .pwr, .pair, .pmu, .mgt] ⊆ lp) (h : Follows lp r s) : Follows lp r
    (State.regAt s k n a x) := by
  unfold State.regAt
  repeat' first
    | with_reducible assumption | with_reducible apply Follows.ite | with_reducible apply State.regWrite_follows
    | exact within hl rfl

theorem State.leaveSynced_follows {lp : List Part} {r : State} (s : State) (i : Nat) (hl : [.rc, .tim, .mcr] ⊆ lp)
    (h : Follows lp r s) : Follows lp r (State.leaveSynced s i) := by
  unfold State.leaveSynced
  repeat' first
    | with_reducible assumption | with_reducible apply Follows.ite | with_reducible apply State.unsync_follows
    | with_reducible apply State.refLoss_follows | exact within hl rfl

theorem State.bmcaTake_follows {lp : List Part} {r : State} (s : State) (i : Nat) (x : Bmca) (hl : [.rc, .tim] ⊆
    lp) (h : Follows lp r s) : Follows lp r (State.bmcaTake s i x) := by
  unfold State.bmcaTake
  repeat' first
    | with_reducible assumption | with_reducible apply State.bmca_follows | exact within hl rfl

theorem State.ptpArrive_follows {lp : List Part} {r : State} (s : State) (p i : Nat) (x : PtpRx) (hl : [.rc,
    .count, .tim, .mcr, .macA, .macB] ⊆ lp) (h : Follows lp r s) : Follows lp r (State.ptpArrive s p i x) := by
  unfold State.ptpArrive
  repeat' first
    | with_reducible assumption | with_reducible apply Follows.ite | with_reducible apply State.ptpRx_follows
    | with_reducible apply State.sdgPoison_follows | exact within hl rfl | split | assumption

theorem State.lockNow_follows {lp : List Part} {r : State} (s : State) (hl : [.rc, .mcr] ⊆ lp) (h : Follows lp r s)
    : Follows lp r (State.lockNow s) := by
  unfold State.lockNow
  repeat' first
    | with_reducible assumption | with_reducible apply Follows.ite | with_reducible apply State.mcrLock_follows
    | exact within hl rfl

theorem State.lockLost_follows {lp : List Part} {r : State} (s : State) (hl : [.mcr] ⊆ lp) (h : Follows lp r s) :
    Follows lp r (State.lockLost s) := by
  unfold State.lockLost
  repeat' first
    | with_reducible assumption | with_reducible apply Follows.ite | with_reducible apply State.modMcr_follows
    | exact within hl rfl | with_reducible refine Follows.mkRegs ?_ hl ?_ ?_ | with_reducible exact id
    | (intro p hp; cases p <;> first | with_reducible rfl | exact absurd (List.elem_iff.mp rfl) hp)

theorem State.windowMove_follows {lp : List Part} {r : State} (s : State) (c : Int) (hl : [.rc, .mcr, .syn] ⊆ lp)
    (h : Follows lp r s) : Follows lp r (State.windowMove s c) := by
  unfold State.windowMove
  repeat' first
    | with_reducible assumption | with_reducible apply Follows.ite | with_reducible apply State.mcrRange_follows
    | with_reducible apply State.modSyn_follows | exact within hl rfl
    | with_reducible refine Follows.mkRegs ?_ hl ?_ ?_ | with_reducible exact id
    | (intro p hp; cases p <;> first | with_reducible rfl | exact absurd (List.elem_iff.mp rfl) hp)

theorem State.stepDepartures_follows {lp : List Part} {r : State} (s : State) (hl : [.staged, .applied, .rw, .rc,
    .count, .bank, .snap, .crc, .hstop, .tt, .tim, .mcr, .syn, .mix, .macA, .macB, .mdio, .stx, .eng, .pool, .srx,
    .dpc, .ring, .cmd, .sap, .asrc, .pwr, .pair, .sst] ⊆ lp) (h : Follows lp r s) : Follows lp r
    (State.stepDepartures s) := by
  unfold State.stepDepartures
  repeat' first
    | with_reducible assumption | with_reducible apply State.fireDepartures_follows
    | with_reducible apply State.actDepartures_follows | exact within hl rfl | extract_lets | assumption

theorem State.stepNow_follows {lp : List Part} {r : State} (s : State) (hl : [.staged, .applied, .rw, .rc, .count,
    .bank, .snap, .crc, .hstop, .now, .tt, .tim, .mcr, .syn, .mix, .macA, .macB, .mdio, .stx, .eng, .pool, .srx,
    .dpc, .ring, .cmd, .sap, .asrc, .pwr, .pair, .sst] ⊆ lp) (h : Follows lp r s) : Follows lp r (State.stepNow s)
    := by
  unfold State.stepNow
  repeat' first
    | with_reducible assumption | with_reducible apply Follows.ite | with_reducible apply State.mcrStep_follows
    | with_reducible apply State.srxFlush_follows | with_reducible apply State.feedStepped_follows
    | with_reducible apply State.sapStepped_follows | with_reducible apply State.asrcAll_follows
    | with_reducible apply State.mrMark_follows | with_reducible apply State.stepDepartures_follows
    | with_reducible apply State.fenceCheck_follows | exact within hl rfl

theorem State.mpllLoss_follows {lp : List Part} {r : State} (s : State) (hl : [.syn] ⊆ lp) (h : Follows lp r s) :
    Follows lp r (State.mpllLoss s) := by
  unfold State.mpllLoss
  repeat' first
    | with_reducible assumption | with_reducible apply Follows.ite | with_reducible apply State.setMpll_follows
    | with_reducible apply State.modSyn_follows | exact within hl rfl
    | with_reducible refine Follows.mkRegs ?_ hl ?_ ?_ | with_reducible exact id
    | (intro p hp; cases p <;> first | with_reducible rfl | exact absurd (List.elem_iff.mp rfl) hp)

theorem State.relockNow_follows {lp : List Part} {r : State} (s : State) (hl : [.staged, .applied, .rc, .bank,
    .hstop, .mcr, .syn, .mix, .stx, .eng, .srx, .dpc, .ring, .sap, .asrc] ⊆ lp) (h : Follows lp r s) : Follows lp r
    (State.relockNow s) := by
  unfold State.relockNow
  repeat' first
    | with_reducible assumption | with_reducible apply Follows.ite | with_reducible apply State.relockBegin_follows
    | with_reducible apply State.step3Again_follows | exact within hl rfl

theorem State.rampDownEnd_follows {lp : List Part} {r : State} (s : State) (hl : [.staged, .applied, .rc, .bank,
    .mcr, .syn, .mix, .stx, .eng, .srx, .dpc, .ring, .sap, .asrc] ⊆ lp) (h : Follows lp r s) : Follows lp r
    (State.rampDownEnd s) := by
  unfold State.rampDownEnd
  repeat' first
    | with_reducible assumption | with_reducible apply Follows.ite | with_reducible apply State.step3Begin_follows
    | exact within hl rfl

theorem State.mpllUp_follows {lp : List Part} {r : State} (s : State) (hl : [.syn] ⊆ lp) (h : Follows lp r s) :
    Follows lp r (State.mpllUp s) := by
  unfold State.mpllUp
  repeat' first
    | with_reducible assumption | with_reducible apply Follows.ite | with_reducible apply State.setMpll_follows
    | with_reducible apply State.modSyn_follows | exact within hl rfl
    | with_reducible refine Follows.mkRegs ?_ hl ?_ ?_ | with_reducible exact id
    | (intro p hp; cases p <;> first | with_reducible rfl | exact absurd (List.elem_iff.mp rfl) hp)

theorem State.serdesLoss_follows {lp : List Part} {r : State} (s : State) (k : Nat) (hl : [.staged, .applied, .rw,
    .rc, .count, .rcu, .tim, .mcr, .syn, .macA, .macB, .dpc, .hrx, .ring, .ftxTurn, .cmd, .pair, .pmu, .pci,
    .msixEn, .intDis] ⊆ lp) (h : Follows lp r s) : Follows lp r (State.serdesLoss s k) := by
  unfold State.serdesLoss
  repeat' first
    | with_reducible assumption | with_reducible apply Follows.ite | with_reducible apply State.setSerdes_follows
    | with_reducible apply State.flag_follows | with_reducible apply State.linkDown_follows
    | with_reducible apply State.linkCheck_follows | with_reducible apply State.hostReset_follows
    | exact within hl rfl

theorem State.relockOver_follows {lp : List Part} {r : State} (s : State) (hl : [.rc, .snap, .mcr, .syn, .stx] ⊆
    lp) (h : Follows lp r s) : Follows lp r (State.relockOver s) := by
  unfold State.relockOver
  repeat' first
    | with_reducible assumption | with_reducible apply Follows.ite | with_reducible apply State.relockEnd_follows
    | with_reducible apply State.mrMark_follows | exact within hl rfl

theorem State.deferredStart_follows {lp : List Part} {r : State} (s : State) (j : Nat) (hl : [.mix] ⊆ lp) (h :
    Follows lp r s) : Follows lp r (State.deferredStart s j) := by
  unfold State.deferredStart
  repeat' first
    | with_reducible assumption | with_reducible apply Follows.ite | with_reducible apply State.beginOne_follows
    | exact within hl rfl | split | extract_lets | with_reducible refine Follows.mkRegs ?_ hl ?_ ?_
    | with_reducible exact id
    | (intro p hp; cases p <;> first | with_reducible rfl | exact absurd (List.elem_iff.mp rfl) hp)

theorem State.fadeEndAt_follows {lp : List Part} {r : State} (s : State) (j : Nat) (hl : [.mix] ⊆ lp) (h : Follows
    lp r s) : Follows lp r (State.fadeEndAt s j) := by
  unfold State.fadeEndAt
  repeat' first
    | with_reducible assumption | with_reducible apply Follows.ite | with_reducible apply State.setJunc_follows
    | exact within hl rfl | (refine Follows.fst_of_eq (by assumption) ?_)
    | (refine Follows.snd_of_eq (by assumption) ?_) | split

theorem State.engWindowEnd_follows {lp : List Part} {r : State} (s : State) (e : Nat) (hl : [.eng] ⊆ lp) (h :
    Follows lp r s) : Follows lp r (State.engWindowEnd s e) := by
  unfold State.engWindowEnd
  repeat' first
    | with_reducible assumption | with_reducible apply Follows.ite | with_reducible apply State.modEng_follows
    | exact within hl rfl | with_reducible refine Follows.mkRegs ?_ hl ?_ ?_ | with_reducible exact id
    | (intro p hp; cases p <;> first | with_reducible rfl | exact absurd (List.elem_iff.mp rfl) hp)

theorem State.sapRateSet_follows {lp : List Part} {r : State} (s : State) (p rate : Nat) (hl : [.sap] ⊆ lp) (h :
    Follows lp r s) : Follows lp r (State.sapRateSet s p rate) := by
  unfold State.sapRateSet
  repeat' first
    | with_reducible assumption | with_reducible apply Follows.ite | with_reducible apply State.modSap_follows
    | exact within hl rfl | with_reducible refine Follows.mkRegs ?_ hl ?_ ?_ | with_reducible exact id
    | (intro p hp; cases p <;> first | with_reducible rfl | exact absurd (List.elem_iff.mp rfl) hp)

end Sys2Proof.Machine
end

