-- ==== Sys2Proof/Laws/State.lean ====
section
/-! SUPPORT. What each elementary update of the state leaves in each field: one lemma per field per update, so that no later
proof unfolds a record update. -/

namespace Sys2Proof.Machine

@[simp] theorem State.setStaged_member (s : State) (a : Nat) (w : Word) : (s.setStaged a w).member = s.member := rfl
@[simp] theorem State.setStaged_reg_staged (s : State) (a : Nat) (w : Word) :
    (s.setStaged a w).reg.staged = sset resetWord s.reg.staged a w := rfl
@[simp] theorem State.setStaged_reg_applied (s : State) (a : Nat) (w : Word) :
    (s.setStaged a w).reg.applied = s.reg.applied := rfl
@[simp] theorem State.setStaged_reg_inForce (s : State) (a : Nat) (w : Word) :
    (s.setStaged a w).reg.inForce = s.reg.inForce := rfl
@[simp] theorem State.setStaged_reg_rw (s : State) (a : Nat) (w : Word) : (s.setStaged a w).reg.rw = s.reg.rw := rfl
@[simp] theorem State.setStaged_reg_rc (s : State) (a : Nat) (w : Word) : (s.setStaged a w).reg.rc = s.reg.rc := rfl
@[simp] theorem State.setStaged_reg_count (s : State) (a : Nat) (w : Word) :
    (s.setStaged a w).reg.count = s.reg.count := rfl
@[simp] theorem State.setStaged_reg_bankA (s : State) (a : Nat) (w : Word) :
    (s.setStaged a w).reg.bankA = s.reg.bankA := rfl
@[simp] theorem State.setStaged_reg_bankB (s : State) (a : Nat) (w : Word) :
    (s.setStaged a w).reg.bankB = s.reg.bankB := rfl
@[simp] theorem State.setStaged_reg_held (s : State) (a : Nat) (w : Word) :
    (s.setStaged a w).reg.held = s.reg.held := rfl
@[simp] theorem State.setStaged_reg_snaps (s : State) (a : Nat) (w : Word) :
    (s.setStaged a w).reg.snaps = s.reg.snaps := rfl
@[simp] theorem State.setStaged_reg_waiting (s : State) (a : Nat) (w : Word) :
    (s.setStaged a w).reg.waiting = s.reg.waiting := rfl
@[simp] theorem State.setStaged_reg_stagedBits (s : State) (a : Nat) (w : Word) :
    (s.setStaged a w).reg.stagedBits = s.reg.stagedBits := rfl
@[simp] theorem State.setStaged_reg_lock (s : State) (a : Nat) (w : Word) :
    (s.setStaged a w).reg.lock = s.reg.lock := rfl
@[simp] theorem State.setStaged_reg_subidDone (s : State) (a : Nat) (w : Word) :
    (s.setStaged a w).reg.subidDone = s.reg.subidDone := rfl
@[simp] theorem State.setStaged_reg_roleDone (s : State) (a : Nat) (w : Word) :
    (s.setStaged a w).reg.roleDone = s.reg.roleDone := rfl
@[simp] theorem State.setStaged_reg_berrAddr (s : State) (a : Nat) (w : Word) :
    (s.setStaged a w).reg.berrAddr = s.reg.berrAddr := rfl
@[simp] theorem State.setStaged_reg_pcie (s : State) (a : Nat) (w : Word) :
    (s.setStaged a w).reg.pcie = s.reg.pcie := rfl
@[simp] theorem State.setStaged_reg_mgt (s : State) (a : Nat) (w : Word) :
    (s.setStaged a w).reg.mgt = s.reg.mgt := rfl
@[simp] theorem State.setStaged_reg_crc (s : State) (a : Nat) (w : Word) :
    (s.setStaged a w).reg.crc = s.reg.crc := rfl
@[simp] theorem State.setStaged_reg_hstop (s : State) (a : Nat) (w : Word) :
    (s.setStaged a w).reg.hstop = s.reg.hstop := rfl
@[simp] theorem State.setStaged_reg_brst (s : State) (a : Nat) (w : Word) :
    (s.setStaged a w).reg.brst = s.reg.brst := rfl
@[simp] theorem State.setStaged_due (s : State) (a : Nat) (w : Word) : (s.setStaged a w).due = s.due := rfl
@[simp] theorem State.setStaged_pba (s : State) (a : Nat) (w : Word) : (s.setStaged a w).pba = s.pba := rfl
@[simp] theorem State.setStaged_tt (s : State) (a : Nat) (w : Word) : (s.setStaged a w).tt = s.tt := rfl
@[simp] theorem State.setStaged_tim (s : State) (a : Nat) (w : Word) : (s.setStaged a w).tim = s.tim := rfl
@[simp] theorem State.setStaged_mcr (s : State) (a : Nat) (w : Word) : (s.setStaged a w).mcr = s.mcr := rfl
@[simp] theorem State.setStaged_syn (s : State) (a : Nat) (w : Word) : (s.setStaged a w).syn = s.syn := rfl
@[simp] theorem State.setStaged_mix (s : State) (a : Nat) (w : Word) : (s.setStaged a w).mix = s.mix := rfl
@[simp] theorem State.setStaged_macA (s : State) (a : Nat) (w : Word) : (s.setStaged a w).macA = s.macA := rfl
@[simp] theorem State.setStaged_macB (s : State) (a : Nat) (w : Word) : (s.setStaged a w).macB = s.macB := rfl
@[simp] theorem State.setStaged_mdio (s : State) (a : Nat) (w : Word) : (s.setStaged a w).mdio = s.mdio := rfl
@[simp] theorem State.setStaged_stx (s : State) (a : Nat) (w : Word) : (s.setStaged a w).stx = s.stx := rfl
@[simp] theorem State.setStaged_eng (s : State) (a : Nat) (w : Word) : (s.setStaged a w).eng = s.eng := rfl
@[simp] theorem State.setStaged_pool (s : State) (a : Nat) (w : Word) : (s.setStaged a w).pool = s.pool := rfl
@[simp] theorem State.setStaged_srx (s : State) (a : Nat) (w : Word) : (s.setStaged a w).srx = s.srx := rfl
@[simp] theorem State.setStaged_dpc (s : State) (a : Nat) (w : Word) : (s.setStaged a w).dpc = s.dpc := rfl
@[simp] theorem State.setStaged_mbox (s : State) (a : Nat) (w : Word) : (s.setStaged a w).mbox = s.mbox := rfl
@[simp] theorem State.setStaged_hrx (s : State) (a : Nat) (w : Word) : (s.setStaged a w).hrx = s.hrx := rfl
@[simp] theorem State.setStaged_ring (s : State) (a : Nat) (w : Word) : (s.setStaged a w).ring = s.ring := rfl
@[simp] theorem State.setStaged_ftxTurn (s : State) (a : Nat) (w : Word) :
    (s.setStaged a w).ftxTurn = s.ftxTurn := rfl
@[simp] theorem State.setStaged_cmd (s : State) (a : Nat) (w : Word) : (s.setStaged a w).cmd = s.cmd := rfl
@[simp] theorem State.setStaged_sap (s : State) (a : Nat) (w : Word) : (s.setStaged a w).sap = s.sap := rfl
@[simp] theorem State.setStaged_asrc (s : State) (a : Nat) (w : Word) : (s.setStaged a w).asrc = s.asrc := rfl
@[simp] theorem State.setStaged_pwr (s : State) (a : Nat) (w : Word) : (s.setStaged a w).pwr = s.pwr := rfl
@[simp] theorem State.setStaged_pair (s : State) (a : Nat) (w : Word) : (s.setStaged a w).pair = s.pair := rfl
@[simp] theorem State.setStaged_pmu (s : State) (a : Nat) (w : Word) : (s.setStaged a w).pmu = s.pmu := rfl
@[simp] theorem State.setStaged_mgt (s : State) (a : Nat) (w : Word) : (s.setStaged a w).mgt = s.mgt := rfl
@[simp] theorem State.setStaged_pci (s : State) (a : Nat) (w : Word) : (s.setStaged a w).pci = s.pci := rfl
@[simp] theorem State.setStaged_sst (s : State) (a : Nat) (w : Word) : (s.setStaged a w).sst = s.sst := rfl
@[simp] theorem State.setStaged_msixEn (s : State) (a : Nat) (w : Word) : (s.setStaged a w).msixEn = s.msixEn := rfl
@[simp] theorem State.setStaged_intDis (s : State) (a : Nat) (w : Word) : (s.setStaged a w).intDis = s.intDis := rfl
@[simp] theorem State.setStaged_reply (s : State) (a : Nat) (w : Word) : (s.setStaged a w).reply = s.reply := rfl
@[simp] theorem State.setStaged_free (s : State) (a : Nat) (w : Word) : (s.setStaged a w).free = s.free := rfl
@[simp] theorem State.setStaged_out (s : State) (a : Nat) (w : Word) : (s.setStaged a w).out = s.out := rfl
@[simp] theorem State.setStaged_pending (s : State) (a : Nat) (w : Word) :
    (s.setStaged a w).pending = s.pending := rfl

@[simp] theorem State.setApplied_member (s : State) (a : Nat) (w : Word) : (s.setApplied a w).member = s.member := rfl
@[simp] theorem State.setApplied_reg_staged (s : State) (a : Nat) (w : Word) :
    (s.setApplied a w).reg.staged = s.reg.staged := rfl
@[simp] theorem State.setApplied_reg_applied (s : State) (a : Nat) (w : Word) :
    (s.setApplied a w).reg.applied = sset resetWord s.reg.applied a w := rfl
@[simp] theorem State.setApplied_reg_inForce (s : State) (a : Nat) (w : Word) :
    (s.setApplied a w).reg.inForce = s.reg.inForce := rfl
@[simp] theorem State.setApplied_reg_rw (s : State) (a : Nat) (w : Word) : (s.setApplied a w).reg.rw = s.reg.rw := rfl
@[simp] theorem State.setApplied_reg_rc (s : State) (a : Nat) (w : Word) : (s.setApplied a w).reg.rc = s.reg.rc := rfl
@[simp] theorem State.setApplied_reg_count (s : State) (a : Nat) (w : Word) :
    (s.setApplied a w).reg.count = s.reg.count := rfl
@[simp] theorem State.setApplied_reg_bankA (s : State) (a : Nat) (w : Word) :
    (s.setApplied a w).reg.bankA = s.reg.bankA := rfl
@[simp] theorem State.setApplied_reg_bankB (s : State) (a : Nat) (w : Word) :
    (s.setApplied a w).reg.bankB = s.reg.bankB := rfl
@[simp] theorem State.setApplied_reg_held (s : State) (a : Nat) (w : Word) :
    (s.setApplied a w).reg.held = s.reg.held := rfl
@[simp] theorem State.setApplied_reg_snaps (s : State) (a : Nat) (w : Word) :
    (s.setApplied a w).reg.snaps = s.reg.snaps := rfl
@[simp] theorem State.setApplied_reg_waiting (s : State) (a : Nat) (w : Word) :
    (s.setApplied a w).reg.waiting = s.reg.waiting := rfl
@[simp] theorem State.setApplied_reg_stagedBits (s : State) (a : Nat) (w : Word) :
    (s.setApplied a w).reg.stagedBits = s.reg.stagedBits := rfl
@[simp] theorem State.setApplied_reg_lock (s : State) (a : Nat) (w : Word) :
    (s.setApplied a w).reg.lock = s.reg.lock := rfl
@[simp] theorem State.setApplied_reg_subidDone (s : State) (a : Nat) (w : Word) :
    (s.setApplied a w).reg.subidDone = s.reg.subidDone := rfl
@[simp] theorem State.setApplied_reg_roleDone (s : State) (a : Nat) (w : Word) :
    (s.setApplied a w).reg.roleDone = s.reg.roleDone := rfl
@[simp] theorem State.setApplied_reg_berrAddr (s : State) (a : Nat) (w : Word) :
    (s.setApplied a w).reg.berrAddr = s.reg.berrAddr := rfl
@[simp] theorem State.setApplied_reg_pcie (s : State) (a : Nat) (w : Word) :
    (s.setApplied a w).reg.pcie = s.reg.pcie := rfl
@[simp] theorem State.setApplied_reg_mgt (s : State) (a : Nat) (w : Word) :
    (s.setApplied a w).reg.mgt = s.reg.mgt := rfl
@[simp] theorem State.setApplied_reg_crc (s : State) (a : Nat) (w : Word) :
    (s.setApplied a w).reg.crc = s.reg.crc := rfl
@[simp] theorem State.setApplied_reg_hstop (s : State) (a : Nat) (w : Word) :
    (s.setApplied a w).reg.hstop = s.reg.hstop := rfl
@[simp] theorem State.setApplied_reg_brst (s : State) (a : Nat) (w : Word) :
    (s.setApplied a w).reg.brst = s.reg.brst := rfl
@[simp] theorem State.setApplied_due (s : State) (a : Nat) (w : Word) : (s.setApplied a w).due = s.due := rfl
@[simp] theorem State.setApplied_pba (s : State) (a : Nat) (w : Word) : (s.setApplied a w).pba = s.pba := rfl
@[simp] theorem State.setApplied_tt (s : State) (a : Nat) (w : Word) : (s.setApplied a w).tt = s.tt := rfl
@[simp] theorem State.setApplied_tim (s : State) (a : Nat) (w : Word) : (s.setApplied a w).tim = s.tim := rfl
@[simp] theorem State.setApplied_mcr (s : State) (a : Nat) (w : Word) : (s.setApplied a w).mcr = s.mcr := rfl
@[simp] theorem State.setApplied_syn (s : State) (a : Nat) (w : Word) : (s.setApplied a w).syn = s.syn := rfl
@[simp] theorem State.setApplied_mix (s : State) (a : Nat) (w : Word) : (s.setApplied a w).mix = s.mix := rfl
@[simp] theorem State.setApplied_macA (s : State) (a : Nat) (w : Word) : (s.setApplied a w).macA = s.macA := rfl
@[simp] theorem State.setApplied_macB (s : State) (a : Nat) (w : Word) : (s.setApplied a w).macB = s.macB := rfl
@[simp] theorem State.setApplied_mdio (s : State) (a : Nat) (w : Word) : (s.setApplied a w).mdio = s.mdio := rfl
@[simp] theorem State.setApplied_stx (s : State) (a : Nat) (w : Word) : (s.setApplied a w).stx = s.stx := rfl
@[simp] theorem State.setApplied_eng (s : State) (a : Nat) (w : Word) : (s.setApplied a w).eng = s.eng := rfl
@[simp] theorem State.setApplied_pool (s : State) (a : Nat) (w : Word) : (s.setApplied a w).pool = s.pool := rfl
@[simp] theorem State.setApplied_srx (s : State) (a : Nat) (w : Word) : (s.setApplied a w).srx = s.srx := rfl
@[simp] theorem State.setApplied_dpc (s : State) (a : Nat) (w : Word) : (s.setApplied a w).dpc = s.dpc := rfl
@[simp] theorem State.setApplied_mbox (s : State) (a : Nat) (w : Word) : (s.setApplied a w).mbox = s.mbox := rfl
@[simp] theorem State.setApplied_hrx (s : State) (a : Nat) (w : Word) : (s.setApplied a w).hrx = s.hrx := rfl
@[simp] theorem State.setApplied_ring (s : State) (a : Nat) (w : Word) : (s.setApplied a w).ring = s.ring := rfl
@[simp] theorem State.setApplied_ftxTurn (s : State) (a : Nat) (w : Word) :
    (s.setApplied a w).ftxTurn = s.ftxTurn := rfl
@[simp] theorem State.setApplied_cmd (s : State) (a : Nat) (w : Word) : (s.setApplied a w).cmd = s.cmd := rfl
@[simp] theorem State.setApplied_sap (s : State) (a : Nat) (w : Word) : (s.setApplied a w).sap = s.sap := rfl
@[simp] theorem State.setApplied_asrc (s : State) (a : Nat) (w : Word) : (s.setApplied a w).asrc = s.asrc := rfl
@[simp] theorem State.setApplied_pwr (s : State) (a : Nat) (w : Word) : (s.setApplied a w).pwr = s.pwr := rfl
@[simp] theorem State.setApplied_pair (s : State) (a : Nat) (w : Word) : (s.setApplied a w).pair = s.pair := rfl
@[simp] theorem State.setApplied_pmu (s : State) (a : Nat) (w : Word) : (s.setApplied a w).pmu = s.pmu := rfl
@[simp] theorem State.setApplied_mgt (s : State) (a : Nat) (w : Word) : (s.setApplied a w).mgt = s.mgt := rfl
@[simp] theorem State.setApplied_pci (s : State) (a : Nat) (w : Word) : (s.setApplied a w).pci = s.pci := rfl
@[simp] theorem State.setApplied_sst (s : State) (a : Nat) (w : Word) : (s.setApplied a w).sst = s.sst := rfl
@[simp] theorem State.setApplied_msixEn (s : State) (a : Nat) (w : Word) : (s.setApplied a w).msixEn = s.msixEn := rfl
@[simp] theorem State.setApplied_intDis (s : State) (a : Nat) (w : Word) : (s.setApplied a w).intDis = s.intDis := rfl
@[simp] theorem State.setApplied_reply (s : State) (a : Nat) (w : Word) : (s.setApplied a w).reply = s.reply := rfl
@[simp] theorem State.setApplied_free (s : State) (a : Nat) (w : Word) : (s.setApplied a w).free = s.free := rfl
@[simp] theorem State.setApplied_out (s : State) (a : Nat) (w : Word) : (s.setApplied a w).out = s.out := rfl
@[simp] theorem State.setApplied_pending (s : State) (a : Nat) (w : Word) :
    (s.setApplied a w).pending = s.pending := rfl

@[simp] theorem State.setInForce_member (s : State) (a : Nat) (w : Word) : (s.setInForce a w).member = s.member := rfl
@[simp] theorem State.setInForce_reg_staged (s : State) (a : Nat) (w : Word) :
    (s.setInForce a w).reg.staged = s.reg.staged := rfl
@[simp] theorem State.setInForce_reg_applied (s : State) (a : Nat) (w : Word) :
    (s.setInForce a w).reg.applied = s.reg.applied := rfl
@[simp] theorem State.setInForce_reg_inForce (s : State) (a : Nat) (w : Word) :
    (s.setInForce a w).reg.inForce = sset resetWord s.reg.inForce a w := rfl
@[simp] theorem State.setInForce_reg_rw (s : State) (a : Nat) (w : Word) : (s.setInForce a w).reg.rw = s.reg.rw := rfl
@[simp] theorem State.setInForce_reg_rc (s : State) (a : Nat) (w : Word) : (s.setInForce a w).reg.rc = s.reg.rc := rfl
@[simp] theorem State.setInForce_reg_count (s : State) (a : Nat) (w : Word) :
    (s.setInForce a w).reg.count = s.reg.count := rfl
@[simp] theorem State.setInForce_reg_bankA (s : State) (a : Nat) (w : Word) :
    (s.setInForce a w).reg.bankA = s.reg.bankA := rfl
@[simp] theorem State.setInForce_reg_bankB (s : State) (a : Nat) (w : Word) :
    (s.setInForce a w).reg.bankB = s.reg.bankB := rfl
@[simp] theorem State.setInForce_reg_held (s : State) (a : Nat) (w : Word) :
    (s.setInForce a w).reg.held = s.reg.held := rfl
@[simp] theorem State.setInForce_reg_snaps (s : State) (a : Nat) (w : Word) :
    (s.setInForce a w).reg.snaps = s.reg.snaps := rfl
@[simp] theorem State.setInForce_reg_waiting (s : State) (a : Nat) (w : Word) :
    (s.setInForce a w).reg.waiting = s.reg.waiting := rfl
@[simp] theorem State.setInForce_reg_stagedBits (s : State) (a : Nat) (w : Word) :
    (s.setInForce a w).reg.stagedBits = s.reg.stagedBits := rfl
@[simp] theorem State.setInForce_reg_lock (s : State) (a : Nat) (w : Word) :
    (s.setInForce a w).reg.lock = s.reg.lock := rfl
@[simp] theorem State.setInForce_reg_subidDone (s : State) (a : Nat) (w : Word) :
    (s.setInForce a w).reg.subidDone = s.reg.subidDone := rfl
@[simp] theorem State.setInForce_reg_roleDone (s : State) (a : Nat) (w : Word) :
    (s.setInForce a w).reg.roleDone = s.reg.roleDone := rfl
@[simp] theorem State.setInForce_reg_berrAddr (s : State) (a : Nat) (w : Word) :
    (s.setInForce a w).reg.berrAddr = s.reg.berrAddr := rfl
@[simp] theorem State.setInForce_reg_pcie (s : State) (a : Nat) (w : Word) :
    (s.setInForce a w).reg.pcie = s.reg.pcie := rfl
@[simp] theorem State.setInForce_reg_mgt (s : State) (a : Nat) (w : Word) :
    (s.setInForce a w).reg.mgt = s.reg.mgt := rfl
@[simp] theorem State.setInForce_reg_crc (s : State) (a : Nat) (w : Word) :
    (s.setInForce a w).reg.crc = s.reg.crc := rfl
@[simp] theorem State.setInForce_reg_hstop (s : State) (a : Nat) (w : Word) :
    (s.setInForce a w).reg.hstop = s.reg.hstop := rfl
@[simp] theorem State.setInForce_reg_brst (s : State) (a : Nat) (w : Word) :
    (s.setInForce a w).reg.brst = s.reg.brst := rfl
@[simp] theorem State.setInForce_due (s : State) (a : Nat) (w : Word) : (s.setInForce a w).due = s.due := rfl
@[simp] theorem State.setInForce_pba (s : State) (a : Nat) (w : Word) : (s.setInForce a w).pba = s.pba := rfl
@[simp] theorem State.setInForce_tt (s : State) (a : Nat) (w : Word) : (s.setInForce a w).tt = s.tt := rfl
@[simp] theorem State.setInForce_tim (s : State) (a : Nat) (w : Word) : (s.setInForce a w).tim = s.tim := rfl
@[simp] theorem State.setInForce_mcr (s : State) (a : Nat) (w : Word) : (s.setInForce a w).mcr = s.mcr := rfl
@[simp] theorem State.setInForce_syn (s : State) (a : Nat) (w : Word) : (s.setInForce a w).syn = s.syn := rfl
@[simp] theorem State.setInForce_mix (s : State) (a : Nat) (w : Word) : (s.setInForce a w).mix = s.mix := rfl
@[simp] theorem State.setInForce_macA (s : State) (a : Nat) (w : Word) : (s.setInForce a w).macA = s.macA := rfl
@[simp] theorem State.setInForce_macB (s : State) (a : Nat) (w : Word) : (s.setInForce a w).macB = s.macB := rfl
@[simp] theorem State.setInForce_mdio (s : State) (a : Nat) (w : Word) : (s.setInForce a w).mdio = s.mdio := rfl
@[simp] theorem State.setInForce_stx (s : State) (a : Nat) (w : Word) : (s.setInForce a w).stx = s.stx := rfl
@[simp] theorem State.setInForce_eng (s : State) (a : Nat) (w : Word) : (s.setInForce a w).eng = s.eng := rfl
@[simp] theorem State.setInForce_pool (s : State) (a : Nat) (w : Word) : (s.setInForce a w).pool = s.pool := rfl
@[simp] theorem State.setInForce_srx (s : State) (a : Nat) (w : Word) : (s.setInForce a w).srx = s.srx := rfl
@[simp] theorem State.setInForce_dpc (s : State) (a : Nat) (w : Word) : (s.setInForce a w).dpc = s.dpc := rfl
@[simp] theorem State.setInForce_mbox (s : State) (a : Nat) (w : Word) : (s.setInForce a w).mbox = s.mbox := rfl
@[simp] theorem State.setInForce_hrx (s : State) (a : Nat) (w : Word) : (s.setInForce a w).hrx = s.hrx := rfl
@[simp] theorem State.setInForce_ring (s : State) (a : Nat) (w : Word) : (s.setInForce a w).ring = s.ring := rfl
@[simp] theorem State.setInForce_ftxTurn (s : State) (a : Nat) (w : Word) :
    (s.setInForce a w).ftxTurn = s.ftxTurn := rfl
@[simp] theorem State.setInForce_cmd (s : State) (a : Nat) (w : Word) : (s.setInForce a w).cmd = s.cmd := rfl
@[simp] theorem State.setInForce_sap (s : State) (a : Nat) (w : Word) : (s.setInForce a w).sap = s.sap := rfl
@[simp] theorem State.setInForce_asrc (s : State) (a : Nat) (w : Word) : (s.setInForce a w).asrc = s.asrc := rfl
@[simp] theorem State.setInForce_pwr (s : State) (a : Nat) (w : Word) : (s.setInForce a w).pwr = s.pwr := rfl
@[simp] theorem State.setInForce_pair (s : State) (a : Nat) (w : Word) : (s.setInForce a w).pair = s.pair := rfl
@[simp] theorem State.setInForce_pmu (s : State) (a : Nat) (w : Word) : (s.setInForce a w).pmu = s.pmu := rfl
@[simp] theorem State.setInForce_mgt (s : State) (a : Nat) (w : Word) : (s.setInForce a w).mgt = s.mgt := rfl
@[simp] theorem State.setInForce_pci (s : State) (a : Nat) (w : Word) : (s.setInForce a w).pci = s.pci := rfl
@[simp] theorem State.setInForce_sst (s : State) (a : Nat) (w : Word) : (s.setInForce a w).sst = s.sst := rfl
@[simp] theorem State.setInForce_msixEn (s : State) (a : Nat) (w : Word) : (s.setInForce a w).msixEn = s.msixEn := rfl
@[simp] theorem State.setInForce_intDis (s : State) (a : Nat) (w : Word) : (s.setInForce a w).intDis = s.intDis := rfl
@[simp] theorem State.setInForce_reply (s : State) (a : Nat) (w : Word) : (s.setInForce a w).reply = s.reply := rfl
@[simp] theorem State.setInForce_free (s : State) (a : Nat) (w : Word) : (s.setInForce a w).free = s.free := rfl
@[simp] theorem State.setInForce_out (s : State) (a : Nat) (w : Word) : (s.setInForce a w).out = s.out := rfl
@[simp] theorem State.setInForce_pending (s : State) (a : Nat) (w : Word) :
    (s.setInForce a w).pending = s.pending := rfl

@[simp] theorem State.setRw_member (s : State) (a : Nat) (w : Word) : (s.setRw a w).member = s.member := rfl
@[simp] theorem State.setRw_reg_staged (s : State) (a : Nat) (w : Word) :
    (s.setRw a w).reg.staged = s.reg.staged := rfl
@[simp] theorem State.setRw_reg_applied (s : State) (a : Nat) (w : Word) :
    (s.setRw a w).reg.applied = s.reg.applied := rfl
@[simp] theorem State.setRw_reg_inForce (s : State) (a : Nat) (w : Word) :
    (s.setRw a w).reg.inForce = s.reg.inForce := rfl
@[simp] theorem State.setRw_reg_rw (s : State) (a : Nat) (w : Word) :
    (s.setRw a w).reg.rw = sset resetWord s.reg.rw a w := rfl
@[simp] theorem State.setRw_reg_rc (s : State) (a : Nat) (w : Word) : (s.setRw a w).reg.rc = s.reg.rc := rfl
@[simp] theorem State.setRw_reg_count (s : State) (a : Nat) (w : Word) : (s.setRw a w).reg.count = s.reg.count := rfl
@[simp] theorem State.setRw_reg_bankA (s : State) (a : Nat) (w : Word) : (s.setRw a w).reg.bankA = s.reg.bankA := rfl
@[simp] theorem State.setRw_reg_bankB (s : State) (a : Nat) (w : Word) : (s.setRw a w).reg.bankB = s.reg.bankB := rfl
@[simp] theorem State.setRw_reg_held (s : State) (a : Nat) (w : Word) : (s.setRw a w).reg.held = s.reg.held := rfl
@[simp] theorem State.setRw_reg_snaps (s : State) (a : Nat) (w : Word) : (s.setRw a w).reg.snaps = s.reg.snaps := rfl
@[simp] theorem State.setRw_reg_waiting (s : State) (a : Nat) (w : Word) :
    (s.setRw a w).reg.waiting = s.reg.waiting := rfl
@[simp] theorem State.setRw_reg_stagedBits (s : State) (a : Nat) (w : Word) :
    (s.setRw a w).reg.stagedBits = s.reg.stagedBits := rfl
@[simp] theorem State.setRw_reg_lock (s : State) (a : Nat) (w : Word) : (s.setRw a w).reg.lock = s.reg.lock := rfl
@[simp] theorem State.setRw_reg_subidDone (s : State) (a : Nat) (w : Word) :
    (s.setRw a w).reg.subidDone = s.reg.subidDone := rfl
@[simp] theorem State.setRw_reg_roleDone (s : State) (a : Nat) (w : Word) :
    (s.setRw a w).reg.roleDone = s.reg.roleDone := rfl
@[simp] theorem State.setRw_reg_berrAddr (s : State) (a : Nat) (w : Word) :
    (s.setRw a w).reg.berrAddr = s.reg.berrAddr := rfl
@[simp] theorem State.setRw_reg_pcie (s : State) (a : Nat) (w : Word) : (s.setRw a w).reg.pcie = s.reg.pcie := rfl
@[simp] theorem State.setRw_reg_mgt (s : State) (a : Nat) (w : Word) : (s.setRw a w).reg.mgt = s.reg.mgt := rfl
@[simp] theorem State.setRw_reg_crc (s : State) (a : Nat) (w : Word) : (s.setRw a w).reg.crc = s.reg.crc := rfl
@[simp] theorem State.setRw_reg_hstop (s : State) (a : Nat) (w : Word) : (s.setRw a w).reg.hstop = s.reg.hstop := rfl
@[simp] theorem State.setRw_reg_brst (s : State) (a : Nat) (w : Word) : (s.setRw a w).reg.brst = s.reg.brst := rfl
@[simp] theorem State.setRw_due (s : State) (a : Nat) (w : Word) : (s.setRw a w).due = s.due := rfl
@[simp] theorem State.setRw_pba (s : State) (a : Nat) (w : Word) : (s.setRw a w).pba = s.pba := rfl
@[simp] theorem State.setRw_tt (s : State) (a : Nat) (w : Word) : (s.setRw a w).tt = s.tt := rfl
@[simp] theorem State.setRw_tim (s : State) (a : Nat) (w : Word) : (s.setRw a w).tim = s.tim := rfl
@[simp] theorem State.setRw_mcr (s : State) (a : Nat) (w : Word) : (s.setRw a w).mcr = s.mcr := rfl
@[simp] theorem State.setRw_syn (s : State) (a : Nat) (w : Word) : (s.setRw a w).syn = s.syn := rfl
@[simp] theorem State.setRw_mix (s : State) (a : Nat) (w : Word) : (s.setRw a w).mix = s.mix := rfl
@[simp] theorem State.setRw_macA (s : State) (a : Nat) (w : Word) : (s.setRw a w).macA = s.macA := rfl
@[simp] theorem State.setRw_macB (s : State) (a : Nat) (w : Word) : (s.setRw a w).macB = s.macB := rfl
@[simp] theorem State.setRw_mdio (s : State) (a : Nat) (w : Word) : (s.setRw a w).mdio = s.mdio := rfl
@[simp] theorem State.setRw_stx (s : State) (a : Nat) (w : Word) : (s.setRw a w).stx = s.stx := rfl
@[simp] theorem State.setRw_eng (s : State) (a : Nat) (w : Word) : (s.setRw a w).eng = s.eng := rfl
@[simp] theorem State.setRw_pool (s : State) (a : Nat) (w : Word) : (s.setRw a w).pool = s.pool := rfl
@[simp] theorem State.setRw_srx (s : State) (a : Nat) (w : Word) : (s.setRw a w).srx = s.srx := rfl
@[simp] theorem State.setRw_dpc (s : State) (a : Nat) (w : Word) : (s.setRw a w).dpc = s.dpc := rfl
@[simp] theorem State.setRw_mbox (s : State) (a : Nat) (w : Word) : (s.setRw a w).mbox = s.mbox := rfl
@[simp] theorem State.setRw_hrx (s : State) (a : Nat) (w : Word) : (s.setRw a w).hrx = s.hrx := rfl
@[simp] theorem State.setRw_ring (s : State) (a : Nat) (w : Word) : (s.setRw a w).ring = s.ring := rfl
@[simp] theorem State.setRw_ftxTurn (s : State) (a : Nat) (w : Word) : (s.setRw a w).ftxTurn = s.ftxTurn := rfl
@[simp] theorem State.setRw_cmd (s : State) (a : Nat) (w : Word) : (s.setRw a w).cmd = s.cmd := rfl
@[simp] theorem State.setRw_sap (s : State) (a : Nat) (w : Word) : (s.setRw a w).sap = s.sap := rfl
@[simp] theorem State.setRw_asrc (s : State) (a : Nat) (w : Word) : (s.setRw a w).asrc = s.asrc := rfl
@[simp] theorem State.setRw_pwr (s : State) (a : Nat) (w : Word) : (s.setRw a w).pwr = s.pwr := rfl
@[simp] theorem State.setRw_pair (s : State) (a : Nat) (w : Word) : (s.setRw a w).pair = s.pair := rfl
@[simp] theorem State.setRw_pmu (s : State) (a : Nat) (w : Word) : (s.setRw a w).pmu = s.pmu := rfl
@[simp] theorem State.setRw_mgt (s : State) (a : Nat) (w : Word) : (s.setRw a w).mgt = s.mgt := rfl
@[simp] theorem State.setRw_pci (s : State) (a : Nat) (w : Word) : (s.setRw a w).pci = s.pci := rfl
@[simp] theorem State.setRw_sst (s : State) (a : Nat) (w : Word) : (s.setRw a w).sst = s.sst := rfl
@[simp] theorem State.setRw_msixEn (s : State) (a : Nat) (w : Word) : (s.setRw a w).msixEn = s.msixEn := rfl
@[simp] theorem State.setRw_intDis (s : State) (a : Nat) (w : Word) : (s.setRw a w).intDis = s.intDis := rfl
@[simp] theorem State.setRw_reply (s : State) (a : Nat) (w : Word) : (s.setRw a w).reply = s.reply := rfl
@[simp] theorem State.setRw_free (s : State) (a : Nat) (w : Word) : (s.setRw a w).free = s.free := rfl
@[simp] theorem State.setRw_out (s : State) (a : Nat) (w : Word) : (s.setRw a w).out = s.out := rfl
@[simp] theorem State.setRw_pending (s : State) (a : Nat) (w : Word) : (s.setRw a w).pending = s.pending := rfl

@[simp] theorem State.setRc_member (s : State) (a : Nat) (w : Word) : (s.setRc a w).member = s.member := rfl
@[simp] theorem State.setRc_reg_staged (s : State) (a : Nat) (w : Word) :
    (s.setRc a w).reg.staged = s.reg.staged := rfl
@[simp] theorem State.setRc_reg_applied (s : State) (a : Nat) (w : Word) :
    (s.setRc a w).reg.applied = s.reg.applied := rfl
@[simp] theorem State.setRc_reg_inForce (s : State) (a : Nat) (w : Word) :
    (s.setRc a w).reg.inForce = s.reg.inForce := rfl
@[simp] theorem State.setRc_reg_rw (s : State) (a : Nat) (w : Word) : (s.setRc a w).reg.rw = s.reg.rw := rfl
@[simp] theorem State.setRc_reg_rc (s : State) (a : Nat) (w : Word) :
    (s.setRc a w).reg.rc = sset resetWord s.reg.rc a w := rfl
@[simp] theorem State.setRc_reg_count (s : State) (a : Nat) (w : Word) : (s.setRc a w).reg.count = s.reg.count := rfl
@[simp] theorem State.setRc_reg_bankA (s : State) (a : Nat) (w : Word) : (s.setRc a w).reg.bankA = s.reg.bankA := rfl
@[simp] theorem State.setRc_reg_bankB (s : State) (a : Nat) (w : Word) : (s.setRc a w).reg.bankB = s.reg.bankB := rfl
@[simp] theorem State.setRc_reg_held (s : State) (a : Nat) (w : Word) : (s.setRc a w).reg.held = s.reg.held := rfl
@[simp] theorem State.setRc_reg_snaps (s : State) (a : Nat) (w : Word) : (s.setRc a w).reg.snaps = s.reg.snaps := rfl
@[simp] theorem State.setRc_reg_waiting (s : State) (a : Nat) (w : Word) :
    (s.setRc a w).reg.waiting = s.reg.waiting := rfl
@[simp] theorem State.setRc_reg_stagedBits (s : State) (a : Nat) (w : Word) :
    (s.setRc a w).reg.stagedBits = s.reg.stagedBits := rfl
@[simp] theorem State.setRc_reg_lock (s : State) (a : Nat) (w : Word) : (s.setRc a w).reg.lock = s.reg.lock := rfl
@[simp] theorem State.setRc_reg_subidDone (s : State) (a : Nat) (w : Word) :
    (s.setRc a w).reg.subidDone = s.reg.subidDone := rfl
@[simp] theorem State.setRc_reg_roleDone (s : State) (a : Nat) (w : Word) :
    (s.setRc a w).reg.roleDone = s.reg.roleDone := rfl
@[simp] theorem State.setRc_reg_berrAddr (s : State) (a : Nat) (w : Word) :
    (s.setRc a w).reg.berrAddr = s.reg.berrAddr := rfl
@[simp] theorem State.setRc_reg_pcie (s : State) (a : Nat) (w : Word) : (s.setRc a w).reg.pcie = s.reg.pcie := rfl
@[simp] theorem State.setRc_reg_mgt (s : State) (a : Nat) (w : Word) : (s.setRc a w).reg.mgt = s.reg.mgt := rfl
@[simp] theorem State.setRc_reg_crc (s : State) (a : Nat) (w : Word) : (s.setRc a w).reg.crc = s.reg.crc := rfl
@[simp] theorem State.setRc_reg_hstop (s : State) (a : Nat) (w : Word) : (s.setRc a w).reg.hstop = s.reg.hstop := rfl
@[simp] theorem State.setRc_reg_brst (s : State) (a : Nat) (w : Word) : (s.setRc a w).reg.brst = s.reg.brst := rfl
@[simp] theorem State.setRc_due (s : State) (a : Nat) (w : Word) : (s.setRc a w).due = s.due := rfl
@[simp] theorem State.setRc_pba (s : State) (a : Nat) (w : Word) : (s.setRc a w).pba = s.pba := rfl
@[simp] theorem State.setRc_tt (s : State) (a : Nat) (w : Word) : (s.setRc a w).tt = s.tt := rfl
@[simp] theorem State.setRc_tim (s : State) (a : Nat) (w : Word) : (s.setRc a w).tim = s.tim := rfl
@[simp] theorem State.setRc_mcr (s : State) (a : Nat) (w : Word) : (s.setRc a w).mcr = s.mcr := rfl
@[simp] theorem State.setRc_syn (s : State) (a : Nat) (w : Word) : (s.setRc a w).syn = s.syn := rfl
@[simp] theorem State.setRc_mix (s : State) (a : Nat) (w : Word) : (s.setRc a w).mix = s.mix := rfl
@[simp] theorem State.setRc_macA (s : State) (a : Nat) (w : Word) : (s.setRc a w).macA = s.macA := rfl
@[simp] theorem State.setRc_macB (s : State) (a : Nat) (w : Word) : (s.setRc a w).macB = s.macB := rfl
@[simp] theorem State.setRc_mdio (s : State) (a : Nat) (w : Word) : (s.setRc a w).mdio = s.mdio := rfl
@[simp] theorem State.setRc_stx (s : State) (a : Nat) (w : Word) : (s.setRc a w).stx = s.stx := rfl
@[simp] theorem State.setRc_eng (s : State) (a : Nat) (w : Word) : (s.setRc a w).eng = s.eng := rfl
@[simp] theorem State.setRc_pool (s : State) (a : Nat) (w : Word) : (s.setRc a w).pool = s.pool := rfl
@[simp] theorem State.setRc_srx (s : State) (a : Nat) (w : Word) : (s.setRc a w).srx = s.srx := rfl
@[simp] theorem State.setRc_dpc (s : State) (a : Nat) (w : Word) : (s.setRc a w).dpc = s.dpc := rfl
@[simp] theorem State.setRc_mbox (s : State) (a : Nat) (w : Word) : (s.setRc a w).mbox = s.mbox := rfl
@[simp] theorem State.setRc_hrx (s : State) (a : Nat) (w : Word) : (s.setRc a w).hrx = s.hrx := rfl
@[simp] theorem State.setRc_ring (s : State) (a : Nat) (w : Word) : (s.setRc a w).ring = s.ring := rfl
@[simp] theorem State.setRc_ftxTurn (s : State) (a : Nat) (w : Word) : (s.setRc a w).ftxTurn = s.ftxTurn := rfl
@[simp] theorem State.setRc_cmd (s : State) (a : Nat) (w : Word) : (s.setRc a w).cmd = s.cmd := rfl
@[simp] theorem State.setRc_sap (s : State) (a : Nat) (w : Word) : (s.setRc a w).sap = s.sap := rfl
@[simp] theorem State.setRc_asrc (s : State) (a : Nat) (w : Word) : (s.setRc a w).asrc = s.asrc := rfl
@[simp] theorem State.setRc_pwr (s : State) (a : Nat) (w : Word) : (s.setRc a w).pwr = s.pwr := rfl
@[simp] theorem State.setRc_pair (s : State) (a : Nat) (w : Word) : (s.setRc a w).pair = s.pair := rfl
@[simp] theorem State.setRc_pmu (s : State) (a : Nat) (w : Word) : (s.setRc a w).pmu = s.pmu := rfl
@[simp] theorem State.setRc_mgt (s : State) (a : Nat) (w : Word) : (s.setRc a w).mgt = s.mgt := rfl
@[simp] theorem State.setRc_pci (s : State) (a : Nat) (w : Word) : (s.setRc a w).pci = s.pci := rfl
@[simp] theorem State.setRc_sst (s : State) (a : Nat) (w : Word) : (s.setRc a w).sst = s.sst := rfl
@[simp] theorem State.setRc_msixEn (s : State) (a : Nat) (w : Word) : (s.setRc a w).msixEn = s.msixEn := rfl
@[simp] theorem State.setRc_intDis (s : State) (a : Nat) (w : Word) : (s.setRc a w).intDis = s.intDis := rfl
@[simp] theorem State.setRc_reply (s : State) (a : Nat) (w : Word) : (s.setRc a w).reply = s.reply := rfl
@[simp] theorem State.setRc_free (s : State) (a : Nat) (w : Word) : (s.setRc a w).free = s.free := rfl
@[simp] theorem State.setRc_out (s : State) (a : Nat) (w : Word) : (s.setRc a w).out = s.out := rfl
@[simp] theorem State.setRc_pending (s : State) (a : Nat) (w : Word) : (s.setRc a w).pending = s.pending := rfl

@[simp] theorem State.setCounter_member (s : State) (a n : Nat) : (s.setCounter a n).member = s.member := rfl
@[simp] theorem State.setCounter_reg_staged (s : State) (a n : Nat) :
    (s.setCounter a n).reg.staged = s.reg.staged := rfl
@[simp] theorem State.setCounter_reg_applied (s : State) (a n : Nat) :
    (s.setCounter a n).reg.applied = s.reg.applied := rfl
@[simp] theorem State.setCounter_reg_inForce (s : State) (a n : Nat) :
    (s.setCounter a n).reg.inForce = s.reg.inForce := rfl
@[simp] theorem State.setCounter_reg_rw (s : State) (a n : Nat) : (s.setCounter a n).reg.rw = s.reg.rw := rfl
@[simp] theorem State.setCounter_reg_rc (s : State) (a n : Nat) : (s.setCounter a n).reg.rc = s.reg.rc := rfl
@[simp] theorem State.setCounter_reg_count (s : State) (a n : Nat) :
    (s.setCounter a n).reg.count = sset (fun _ => 0) s.reg.count a n := rfl
@[simp] theorem State.setCounter_reg_bankA (s : State) (a n : Nat) : (s.setCounter a n).reg.bankA = s.reg.bankA := rfl
@[simp] theorem State.setCounter_reg_bankB (s : State) (a n : Nat) : (s.setCounter a n).reg.bankB = s.reg.bankB := rfl
@[simp] theorem State.setCounter_reg_held (s : State) (a n : Nat) : (s.setCounter a n).reg.held = s.reg.held := rfl
@[simp] theorem State.setCounter_reg_snaps (s : State) (a n : Nat) : (s.setCounter a n).reg.snaps = s.reg.snaps := rfl
@[simp] theorem State.setCounter_reg_waiting (s : State) (a n : Nat) :
    (s.setCounter a n).reg.waiting = s.reg.waiting := rfl
@[simp] theorem State.setCounter_reg_stagedBits (s : State) (a n : Nat) :
    (s.setCounter a n).reg.stagedBits = s.reg.stagedBits := rfl
@[simp] theorem State.setCounter_reg_lock (s : State) (a n : Nat) : (s.setCounter a n).reg.lock = s.reg.lock := rfl
@[simp] theorem State.setCounter_reg_subidDone (s : State) (a n : Nat) :
    (s.setCounter a n).reg.subidDone = s.reg.subidDone := rfl
@[simp] theorem State.setCounter_reg_roleDone (s : State) (a n : Nat) :
    (s.setCounter a n).reg.roleDone = s.reg.roleDone := rfl
@[simp] theorem State.setCounter_reg_berrAddr (s : State) (a n : Nat) :
    (s.setCounter a n).reg.berrAddr = s.reg.berrAddr := rfl
@[simp] theorem State.setCounter_reg_pcie (s : State) (a n : Nat) : (s.setCounter a n).reg.pcie = s.reg.pcie := rfl
@[simp] theorem State.setCounter_reg_mgt (s : State) (a n : Nat) : (s.setCounter a n).reg.mgt = s.reg.mgt := rfl
@[simp] theorem State.setCounter_reg_crc (s : State) (a n : Nat) : (s.setCounter a n).reg.crc = s.reg.crc := rfl
@[simp] theorem State.setCounter_reg_hstop (s : State) (a n : Nat) : (s.setCounter a n).reg.hstop = s.reg.hstop := rfl
@[simp] theorem State.setCounter_reg_brst (s : State) (a n : Nat) : (s.setCounter a n).reg.brst = s.reg.brst := rfl
@[simp] theorem State.setCounter_due (s : State) (a n : Nat) : (s.setCounter a n).due = s.due := rfl
@[simp] theorem State.setCounter_pba (s : State) (a n : Nat) : (s.setCounter a n).pba = s.pba := rfl
@[simp] theorem State.setCounter_tt (s : State) (a n : Nat) : (s.setCounter a n).tt = s.tt := rfl
@[simp] theorem State.setCounter_tim (s : State) (a n : Nat) : (s.setCounter a n).tim = s.tim := rfl
@[simp] theorem State.setCounter_mcr (s : State) (a n : Nat) : (s.setCounter a n).mcr = s.mcr := rfl
@[simp] theorem State.setCounter_syn (s : State) (a n : Nat) : (s.setCounter a n).syn = s.syn := rfl
@[simp] theorem State.setCounter_mix (s : State) (a n : Nat) : (s.setCounter a n).mix = s.mix := rfl
@[simp] theorem State.setCounter_macA (s : State) (a n : Nat) : (s.setCounter a n).macA = s.macA := rfl
@[simp] theorem State.setCounter_macB (s : State) (a n : Nat) : (s.setCounter a n).macB = s.macB := rfl
@[simp] theorem State.setCounter_mdio (s : State) (a n : Nat) : (s.setCounter a n).mdio = s.mdio := rfl
@[simp] theorem State.setCounter_stx (s : State) (a n : Nat) : (s.setCounter a n).stx = s.stx := rfl
@[simp] theorem State.setCounter_eng (s : State) (a n : Nat) : (s.setCounter a n).eng = s.eng := rfl
@[simp] theorem State.setCounter_pool (s : State) (a n : Nat) : (s.setCounter a n).pool = s.pool := rfl
@[simp] theorem State.setCounter_srx (s : State) (a n : Nat) : (s.setCounter a n).srx = s.srx := rfl
@[simp] theorem State.setCounter_dpc (s : State) (a n : Nat) : (s.setCounter a n).dpc = s.dpc := rfl
@[simp] theorem State.setCounter_mbox (s : State) (a n : Nat) : (s.setCounter a n).mbox = s.mbox := rfl
@[simp] theorem State.setCounter_hrx (s : State) (a n : Nat) : (s.setCounter a n).hrx = s.hrx := rfl
@[simp] theorem State.setCounter_ring (s : State) (a n : Nat) : (s.setCounter a n).ring = s.ring := rfl
@[simp] theorem State.setCounter_ftxTurn (s : State) (a n : Nat) : (s.setCounter a n).ftxTurn = s.ftxTurn := rfl
@[simp] theorem State.setCounter_cmd (s : State) (a n : Nat) : (s.setCounter a n).cmd = s.cmd := rfl
@[simp] theorem State.setCounter_sap (s : State) (a n : Nat) : (s.setCounter a n).sap = s.sap := rfl
@[simp] theorem State.setCounter_asrc (s : State) (a n : Nat) : (s.setCounter a n).asrc = s.asrc := rfl
@[simp] theorem State.setCounter_pwr (s : State) (a n : Nat) : (s.setCounter a n).pwr = s.pwr := rfl
@[simp] theorem State.setCounter_pair (s : State) (a n : Nat) : (s.setCounter a n).pair = s.pair := rfl
@[simp] theorem State.setCounter_pmu (s : State) (a n : Nat) : (s.setCounter a n).pmu = s.pmu := rfl
@[simp] theorem State.setCounter_mgt (s : State) (a n : Nat) : (s.setCounter a n).mgt = s.mgt := rfl
@[simp] theorem State.setCounter_pci (s : State) (a n : Nat) : (s.setCounter a n).pci = s.pci := rfl
@[simp] theorem State.setCounter_sst (s : State) (a n : Nat) : (s.setCounter a n).sst = s.sst := rfl
@[simp] theorem State.setCounter_msixEn (s : State) (a n : Nat) : (s.setCounter a n).msixEn = s.msixEn := rfl
@[simp] theorem State.setCounter_intDis (s : State) (a n : Nat) : (s.setCounter a n).intDis = s.intDis := rfl
@[simp] theorem State.setCounter_reply (s : State) (a n : Nat) : (s.setCounter a n).reply = s.reply := rfl
@[simp] theorem State.setCounter_free (s : State) (a n : Nat) : (s.setCounter a n).free = s.free := rfl
@[simp] theorem State.setCounter_out (s : State) (a n : Nat) : (s.setCounter a n).out = s.out := rfl
@[simp] theorem State.setCounter_pending (s : State) (a n : Nat) : (s.setCounter a n).pending = s.pending := rfl

@[simp] theorem State.emit_member (s : State) (x : OutItem) : (s.emit x).member = s.member := rfl
@[simp] theorem State.emit_reg (s : State) (x : OutItem) : (s.emit x).reg = s.reg := rfl
@[simp] theorem State.emit_due (s : State) (x : OutItem) : (s.emit x).due = s.due := rfl
@[simp] theorem State.emit_pba (s : State) (x : OutItem) : (s.emit x).pba = s.pba := rfl
@[simp] theorem State.emit_tt (s : State) (x : OutItem) : (s.emit x).tt = s.tt := rfl
@[simp] theorem State.emit_tim (s : State) (x : OutItem) : (s.emit x).tim = s.tim := rfl
@[simp] theorem State.emit_mcr (s : State) (x : OutItem) : (s.emit x).mcr = s.mcr := rfl
@[simp] theorem State.emit_syn (s : State) (x : OutItem) : (s.emit x).syn = s.syn := rfl
@[simp] theorem State.emit_mix (s : State) (x : OutItem) : (s.emit x).mix = s.mix := rfl
@[simp] theorem State.emit_macA (s : State) (x : OutItem) : (s.emit x).macA = s.macA := rfl
@[simp] theorem State.emit_macB (s : State) (x : OutItem) : (s.emit x).macB = s.macB := rfl
@[simp] theorem State.emit_mdio (s : State) (x : OutItem) : (s.emit x).mdio = s.mdio := rfl
@[simp] theorem State.emit_stx (s : State) (x : OutItem) : (s.emit x).stx = s.stx := rfl
@[simp] theorem State.emit_eng (s : State) (x : OutItem) : (s.emit x).eng = s.eng := rfl
@[simp] theorem State.emit_pool (s : State) (x : OutItem) : (s.emit x).pool = s.pool := rfl
@[simp] theorem State.emit_srx (s : State) (x : OutItem) : (s.emit x).srx = s.srx := rfl
@[simp] theorem State.emit_dpc (s : State) (x : OutItem) : (s.emit x).dpc = s.dpc := rfl
@[simp] theorem State.emit_mbox (s : State) (x : OutItem) : (s.emit x).mbox = s.mbox := rfl
@[simp] theorem State.emit_hrx (s : State) (x : OutItem) : (s.emit x).hrx = s.hrx := rfl
@[simp] theorem State.emit_ring (s : State) (x : OutItem) : (s.emit x).ring = s.ring := rfl
@[simp] theorem State.emit_ftxTurn (s : State) (x : OutItem) : (s.emit x).ftxTurn = s.ftxTurn := rfl
@[simp] theorem State.emit_cmd (s : State) (x : OutItem) : (s.emit x).cmd = s.cmd := rfl
@[simp] theorem State.emit_sap (s : State) (x : OutItem) : (s.emit x).sap = s.sap := rfl
@[simp] theorem State.emit_asrc (s : State) (x : OutItem) : (s.emit x).asrc = s.asrc := rfl
@[simp] theorem State.emit_pwr (s : State) (x : OutItem) : (s.emit x).pwr = s.pwr := rfl
@[simp] theorem State.emit_pair (s : State) (x : OutItem) : (s.emit x).pair = s.pair := rfl
@[simp] theorem State.emit_pmu (s : State) (x : OutItem) : (s.emit x).pmu = s.pmu := rfl
@[simp] theorem State.emit_mgt (s : State) (x : OutItem) : (s.emit x).mgt = s.mgt := rfl
@[simp] theorem State.emit_pci (s : State) (x : OutItem) : (s.emit x).pci = s.pci := rfl
@[simp] theorem State.emit_sst (s : State) (x : OutItem) : (s.emit x).sst = s.sst := rfl
@[simp] theorem State.emit_msixEn (s : State) (x : OutItem) : (s.emit x).msixEn = s.msixEn := rfl
@[simp] theorem State.emit_intDis (s : State) (x : OutItem) : (s.emit x).intDis = s.intDis := rfl
@[simp] theorem State.emit_reply (s : State) (x : OutItem) : (s.emit x).reply = s.reply := rfl
@[simp] theorem State.emit_free (s : State) (x : OutItem) : (s.emit x).free = s.free := rfl
@[simp] theorem State.emit_out (s : State) (x : OutItem) : (s.emit x).out = s.out ++ [x] := rfl
@[simp] theorem State.emit_pending (s : State) (x : OutItem) : (s.emit x).pending = s.pending := rfl

@[simp] theorem State.answer_member (s : State) (lo hi : Word) : (s.answer lo hi).member = s.member := rfl
@[simp] theorem State.answer_reg (s : State) (lo hi : Word) : (s.answer lo hi).reg = s.reg := rfl
@[simp] theorem State.answer_due (s : State) (lo hi : Word) : (s.answer lo hi).due = s.due := rfl
@[simp] theorem State.answer_pba (s : State) (lo hi : Word) : (s.answer lo hi).pba = s.pba := rfl
@[simp] theorem State.answer_tt (s : State) (lo hi : Word) : (s.answer lo hi).tt = s.tt := rfl
@[simp] theorem State.answer_tim (s : State) (lo hi : Word) : (s.answer lo hi).tim = s.tim := rfl
@[simp] theorem State.answer_mcr (s : State) (lo hi : Word) : (s.answer lo hi).mcr = s.mcr := rfl
@[simp] theorem State.answer_syn (s : State) (lo hi : Word) : (s.answer lo hi).syn = s.syn := rfl
@[simp] theorem State.answer_mix (s : State) (lo hi : Word) : (s.answer lo hi).mix = s.mix := rfl
@[simp] theorem State.answer_macA (s : State) (lo hi : Word) : (s.answer lo hi).macA = s.macA := rfl
@[simp] theorem State.answer_macB (s : State) (lo hi : Word) : (s.answer lo hi).macB = s.macB := rfl
@[simp] theorem State.answer_mdio (s : State) (lo hi : Word) : (s.answer lo hi).mdio = s.mdio := rfl
@[simp] theorem State.answer_stx (s : State) (lo hi : Word) : (s.answer lo hi).stx = s.stx := rfl
@[simp] theorem State.answer_eng (s : State) (lo hi : Word) : (s.answer lo hi).eng = s.eng := rfl
@[simp] theorem State.answer_pool (s : State) (lo hi : Word) : (s.answer lo hi).pool = s.pool := rfl
@[simp] theorem State.answer_srx (s : State) (lo hi : Word) : (s.answer lo hi).srx = s.srx := rfl
@[simp] theorem State.answer_dpc (s : State) (lo hi : Word) : (s.answer lo hi).dpc = s.dpc := rfl
@[simp] theorem State.answer_mbox (s : State) (lo hi : Word) : (s.answer lo hi).mbox = s.mbox := rfl
@[simp] theorem State.answer_hrx (s : State) (lo hi : Word) : (s.answer lo hi).hrx = s.hrx := rfl
@[simp] theorem State.answer_ring (s : State) (lo hi : Word) : (s.answer lo hi).ring = s.ring := rfl
@[simp] theorem State.answer_ftxTurn (s : State) (lo hi : Word) : (s.answer lo hi).ftxTurn = s.ftxTurn := rfl
@[simp] theorem State.answer_cmd (s : State) (lo hi : Word) : (s.answer lo hi).cmd = s.cmd := rfl
@[simp] theorem State.answer_sap (s : State) (lo hi : Word) : (s.answer lo hi).sap = s.sap := rfl
@[simp] theorem State.answer_asrc (s : State) (lo hi : Word) : (s.answer lo hi).asrc = s.asrc := rfl
@[simp] theorem State.answer_pwr (s : State) (lo hi : Word) : (s.answer lo hi).pwr = s.pwr := rfl
@[simp] theorem State.answer_pair (s : State) (lo hi : Word) : (s.answer lo hi).pair = s.pair := rfl
@[simp] theorem State.answer_pmu (s : State) (lo hi : Word) : (s.answer lo hi).pmu = s.pmu := rfl
@[simp] theorem State.answer_mgt (s : State) (lo hi : Word) : (s.answer lo hi).mgt = s.mgt := rfl
@[simp] theorem State.answer_pci (s : State) (lo hi : Word) : (s.answer lo hi).pci = s.pci := rfl
@[simp] theorem State.answer_sst (s : State) (lo hi : Word) : (s.answer lo hi).sst = s.sst := rfl
@[simp] theorem State.answer_msixEn (s : State) (lo hi : Word) : (s.answer lo hi).msixEn = s.msixEn := rfl
@[simp] theorem State.answer_intDis (s : State) (lo hi : Word) : (s.answer lo hi).intDis = s.intDis := rfl
@[simp] theorem State.answer_reply (s : State) (lo hi : Word) : (s.answer lo hi).reply = .value lo hi := rfl
@[simp] theorem State.answer_free (s : State) (lo hi : Word) : (s.answer lo hi).free = s.free := rfl
@[simp] theorem State.answer_out (s : State) (lo hi : Word) : (s.answer lo hi).out = s.out := rfl
@[simp] theorem State.answer_pending (s : State) (lo hi : Word) : (s.answer lo hi).pending = s.pending := rfl

@[simp] theorem State.setMute_member (s : State) (k : Nat) (m : Mute) : (s.setMute k m).member = s.member := rfl
@[simp] theorem State.setMute_reg (s : State) (k : Nat) (m : Mute) : (s.setMute k m).reg = s.reg := rfl
@[simp] theorem State.setMute_due (s : State) (k : Nat) (m : Mute) : (s.setMute k m).due = s.due := rfl
@[simp] theorem State.setMute_pba (s : State) (k : Nat) (m : Mute) : (s.setMute k m).pba = s.pba := rfl
@[simp] theorem State.setMute_tt (s : State) (k : Nat) (m : Mute) : (s.setMute k m).tt = s.tt := rfl
@[simp] theorem State.setMute_tim (s : State) (k : Nat) (m : Mute) : (s.setMute k m).tim = s.tim := rfl
@[simp] theorem State.setMute_mcr (s : State) (k : Nat) (m : Mute) : (s.setMute k m).mcr = s.mcr := rfl
@[simp] theorem State.setMute_syn (s : State) (k : Nat) (m : Mute) : (s.setMute k m).syn = s.syn := rfl
@[simp] theorem State.setMute_mix (s : State) (k : Nat) (m : Mute) :
    (s.setMute k m).mix = { s.mix with mute := sset muteReset s.mix.mute k m } := rfl
@[simp] theorem State.setMute_macA (s : State) (k : Nat) (m : Mute) : (s.setMute k m).macA = s.macA := rfl
@[simp] theorem State.setMute_macB (s : State) (k : Nat) (m : Mute) : (s.setMute k m).macB = s.macB := rfl
@[simp] theorem State.setMute_mdio (s : State) (k : Nat) (m : Mute) : (s.setMute k m).mdio = s.mdio := rfl
@[simp] theorem State.setMute_stx (s : State) (k : Nat) (m : Mute) : (s.setMute k m).stx = s.stx := rfl
@[simp] theorem State.setMute_eng (s : State) (k : Nat) (m : Mute) : (s.setMute k m).eng = s.eng := rfl
@[simp] theorem State.setMute_pool (s : State) (k : Nat) (m : Mute) : (s.setMute k m).pool = s.pool := rfl
@[simp] theorem State.setMute_srx (s : State) (k : Nat) (m : Mute) : (s.setMute k m).srx = s.srx := rfl
@[simp] theorem State.setMute_dpc (s : State) (k : Nat) (m : Mute) : (s.setMute k m).dpc = s.dpc := rfl
@[simp] theorem State.setMute_mbox (s : State) (k : Nat) (m : Mute) : (s.setMute k m).mbox = s.mbox := rfl
@[simp] theorem State.setMute_hrx (s : State) (k : Nat) (m : Mute) : (s.setMute k m).hrx = s.hrx := rfl
@[simp] theorem State.setMute_ring (s : State) (k : Nat) (m : Mute) : (s.setMute k m).ring = s.ring := rfl
@[simp] theorem State.setMute_ftxTurn (s : State) (k : Nat) (m : Mute) : (s.setMute k m).ftxTurn = s.ftxTurn := rfl
@[simp] theorem State.setMute_cmd (s : State) (k : Nat) (m : Mute) : (s.setMute k m).cmd = s.cmd := rfl
@[simp] theorem State.setMute_sap (s : State) (k : Nat) (m : Mute) : (s.setMute k m).sap = s.sap := rfl
@[simp] theorem State.setMute_asrc (s : State) (k : Nat) (m : Mute) : (s.setMute k m).asrc = s.asrc := rfl
@[simp] theorem State.setMute_pwr (s : State) (k : Nat) (m : Mute) : (s.setMute k m).pwr = s.pwr := rfl
@[simp] theorem State.setMute_pair (s : State) (k : Nat) (m : Mute) : (s.setMute k m).pair = s.pair := rfl
@[simp] theorem State.setMute_pmu (s : State) (k : Nat) (m : Mute) : (s.setMute k m).pmu = s.pmu := rfl
@[simp] theorem State.setMute_mgt (s : State) (k : Nat) (m : Mute) : (s.setMute k m).mgt = s.mgt := rfl
@[simp] theorem State.setMute_pci (s : State) (k : Nat) (m : Mute) : (s.setMute k m).pci = s.pci := rfl
@[simp] theorem State.setMute_sst (s : State) (k : Nat) (m : Mute) : (s.setMute k m).sst = s.sst := rfl
@[simp] theorem State.setMute_msixEn (s : State) (k : Nat) (m : Mute) : (s.setMute k m).msixEn = s.msixEn := rfl
@[simp] theorem State.setMute_intDis (s : State) (k : Nat) (m : Mute) : (s.setMute k m).intDis = s.intDis := rfl
@[simp] theorem State.setMute_reply (s : State) (k : Nat) (m : Mute) : (s.setMute k m).reply = s.reply := rfl
@[simp] theorem State.setMute_free (s : State) (k : Nat) (m : Mute) : (s.setMute k m).free = s.free := rfl
@[simp] theorem State.setMute_out (s : State) (k : Nat) (m : Mute) : (s.setMute k m).out = s.out := rfl
@[simp] theorem State.setMute_pending (s : State) (k : Nat) (m : Mute) : (s.setMute k m).pending = s.pending := rfl

@[simp] theorem State.setEng_member (s : State) (e : Nat) (v : Eng) : (s.setEng e v).member = s.member := rfl
@[simp] theorem State.setEng_reg (s : State) (e : Nat) (v : Eng) : (s.setEng e v).reg = s.reg := rfl
@[simp] theorem State.setEng_due (s : State) (e : Nat) (v : Eng) : (s.setEng e v).due = s.due := rfl
@[simp] theorem State.setEng_pba (s : State) (e : Nat) (v : Eng) : (s.setEng e v).pba = s.pba := rfl
@[simp] theorem State.setEng_tt (s : State) (e : Nat) (v : Eng) : (s.setEng e v).tt = s.tt := rfl
@[simp] theorem State.setEng_tim (s : State) (e : Nat) (v : Eng) : (s.setEng e v).tim = s.tim := rfl
@[simp] theorem State.setEng_mcr (s : State) (e : Nat) (v : Eng) : (s.setEng e v).mcr = s.mcr := rfl
@[simp] theorem State.setEng_syn (s : State) (e : Nat) (v : Eng) : (s.setEng e v).syn = s.syn := rfl
@[simp] theorem State.setEng_mix (s : State) (e : Nat) (v : Eng) : (s.setEng e v).mix = s.mix := rfl
@[simp] theorem State.setEng_macA (s : State) (e : Nat) (v : Eng) : (s.setEng e v).macA = s.macA := rfl
@[simp] theorem State.setEng_macB (s : State) (e : Nat) (v : Eng) : (s.setEng e v).macB = s.macB := rfl
@[simp] theorem State.setEng_mdio (s : State) (e : Nat) (v : Eng) : (s.setEng e v).mdio = s.mdio := rfl
@[simp] theorem State.setEng_stx (s : State) (e : Nat) (v : Eng) : (s.setEng e v).stx = s.stx := rfl
@[simp] theorem State.setEng_eng (s : State) (e : Nat) (v : Eng) : (s.setEng e v).eng = sset engReset s.eng e v := rfl
@[simp] theorem State.setEng_pool (s : State) (e : Nat) (v : Eng) : (s.setEng e v).pool = s.pool := rfl
@[simp] theorem State.setEng_srx (s : State) (e : Nat) (v : Eng) : (s.setEng e v).srx = s.srx := rfl
@[simp] theorem State.setEng_dpc (s : State) (e : Nat) (v : Eng) : (s.setEng e v).dpc = s.dpc := rfl
@[simp] theorem State.setEng_mbox (s : State) (e : Nat) (v : Eng) : (s.setEng e v).mbox = s.mbox := rfl
@[simp] theorem State.setEng_hrx (s : State) (e : Nat) (v : Eng) : (s.setEng e v).hrx = s.hrx := rfl
@[simp] theorem State.setEng_ring (s : State) (e : Nat) (v : Eng) : (s.setEng e v).ring = s.ring := rfl
@[simp] theorem State.setEng_ftxTurn (s : State) (e : Nat) (v : Eng) : (s.setEng e v).ftxTurn = s.ftxTurn := rfl
@[simp] theorem State.setEng_cmd (s : State) (e : Nat) (v : Eng) : (s.setEng e v).cmd = s.cmd := rfl
@[simp] theorem State.setEng_sap (s : State) (e : Nat) (v : Eng) : (s.setEng e v).sap = s.sap := rfl
@[simp] theorem State.setEng_asrc (s : State) (e : Nat) (v : Eng) : (s.setEng e v).asrc = s.asrc := rfl
@[simp] theorem State.setEng_pwr (s : State) (e : Nat) (v : Eng) : (s.setEng e v).pwr = s.pwr := rfl
@[simp] theorem State.setEng_pair (s : State) (e : Nat) (v : Eng) : (s.setEng e v).pair = s.pair := rfl
@[simp] theorem State.setEng_pmu (s : State) (e : Nat) (v : Eng) : (s.setEng e v).pmu = s.pmu := rfl
@[simp] theorem State.setEng_mgt (s : State) (e : Nat) (v : Eng) : (s.setEng e v).mgt = s.mgt := rfl
@[simp] theorem State.setEng_pci (s : State) (e : Nat) (v : Eng) : (s.setEng e v).pci = s.pci := rfl
@[simp] theorem State.setEng_sst (s : State) (e : Nat) (v : Eng) : (s.setEng e v).sst = s.sst := rfl
@[simp] theorem State.setEng_msixEn (s : State) (e : Nat) (v : Eng) : (s.setEng e v).msixEn = s.msixEn := rfl
@[simp] theorem State.setEng_intDis (s : State) (e : Nat) (v : Eng) : (s.setEng e v).intDis = s.intDis := rfl
@[simp] theorem State.setEng_reply (s : State) (e : Nat) (v : Eng) : (s.setEng e v).reply = s.reply := rfl
@[simp] theorem State.setEng_free (s : State) (e : Nat) (v : Eng) : (s.setEng e v).free = s.free := rfl
@[simp] theorem State.setEng_out (s : State) (e : Nat) (v : Eng) : (s.setEng e v).out = s.out := rfl
@[simp] theorem State.setEng_pending (s : State) (e : Nat) (v : Eng) : (s.setEng e v).pending = s.pending := rfl

@[simp] theorem State.setJunc_member (s : State) (j : Nat) (v : Junction) : (s.setJunc j v).member = s.member := rfl
@[simp] theorem State.setJunc_reg (s : State) (j : Nat) (v : Junction) : (s.setJunc j v).reg = s.reg := rfl
@[simp] theorem State.setJunc_due (s : State) (j : Nat) (v : Junction) : (s.setJunc j v).due = s.due := rfl
@[simp] theorem State.setJunc_pba (s : State) (j : Nat) (v : Junction) : (s.setJunc j v).pba = s.pba := rfl
@[simp] theorem State.setJunc_tt (s : State) (j : Nat) (v : Junction) : (s.setJunc j v).tt = s.tt := rfl
@[simp] theorem State.setJunc_tim (s : State) (j : Nat) (v : Junction) : (s.setJunc j v).tim = s.tim := rfl
@[simp] theorem State.setJunc_mcr (s : State) (j : Nat) (v : Junction) : (s.setJunc j v).mcr = s.mcr := rfl
@[simp] theorem State.setJunc_syn (s : State) (j : Nat) (v : Junction) : (s.setJunc j v).syn = s.syn := rfl
@[simp] theorem State.setJunc_mix (s : State) (j : Nat) (v : Junction) :
    (s.setJunc j v).mix = { s.mix with junc := sset juncReset s.mix.junc j v } := rfl
@[simp] theorem State.setJunc_macA (s : State) (j : Nat) (v : Junction) : (s.setJunc j v).macA = s.macA := rfl
@[simp] theorem State.setJunc_macB (s : State) (j : Nat) (v : Junction) : (s.setJunc j v).macB = s.macB := rfl
@[simp] theorem State.setJunc_mdio (s : State) (j : Nat) (v : Junction) : (s.setJunc j v).mdio = s.mdio := rfl
@[simp] theorem State.setJunc_stx (s : State) (j : Nat) (v : Junction) : (s.setJunc j v).stx = s.stx := rfl
@[simp] theorem State.setJunc_eng (s : State) (j : Nat) (v : Junction) : (s.setJunc j v).eng = s.eng := rfl
@[simp] theorem State.setJunc_pool (s : State) (j : Nat) (v : Junction) : (s.setJunc j v).pool = s.pool := rfl
@[simp] theorem State.setJunc_srx (s : State) (j : Nat) (v : Junction) : (s.setJunc j v).srx = s.srx := rfl
@[simp] theorem State.setJunc_dpc (s : State) (j : Nat) (v : Junction) : (s.setJunc j v).dpc = s.dpc := rfl
@[simp] theorem State.setJunc_mbox (s : State) (j : Nat) (v : Junction) : (s.setJunc j v).mbox = s.mbox := rfl
@[simp] theorem State.setJunc_hrx (s : State) (j : Nat) (v : Junction) : (s.setJunc j v).hrx = s.hrx := rfl
@[simp] theorem State.setJunc_ring (s : State) (j : Nat) (v : Junction) : (s.setJunc j v).ring = s.ring := rfl
@[simp] theorem State.setJunc_ftxTurn (s : State) (j : Nat) (v : Junction) :
    (s.setJunc j v).ftxTurn = s.ftxTurn := rfl
@[simp] theorem State.setJunc_cmd (s : State) (j : Nat) (v : Junction) : (s.setJunc j v).cmd = s.cmd := rfl
@[simp] theorem State.setJunc_sap (s : State) (j : Nat) (v : Junction) : (s.setJunc j v).sap = s.sap := rfl
@[simp] theorem State.setJunc_asrc (s : State) (j : Nat) (v : Junction) : (s.setJunc j v).asrc = s.asrc := rfl
@[simp] theorem State.setJunc_pwr (s : State) (j : Nat) (v : Junction) : (s.setJunc j v).pwr = s.pwr := rfl
@[simp] theorem State.setJunc_pair (s : State) (j : Nat) (v : Junction) : (s.setJunc j v).pair = s.pair := rfl
@[simp] theorem State.setJunc_pmu (s : State) (j : Nat) (v : Junction) : (s.setJunc j v).pmu = s.pmu := rfl
@[simp] theorem State.setJunc_mgt (s : State) (j : Nat) (v : Junction) : (s.setJunc j v).mgt = s.mgt := rfl
@[simp] theorem State.setJunc_pci (s : State) (j : Nat) (v : Junction) : (s.setJunc j v).pci = s.pci := rfl
@[simp] theorem State.setJunc_sst (s : State) (j : Nat) (v : Junction) : (s.setJunc j v).sst = s.sst := rfl
@[simp] theorem State.setJunc_msixEn (s : State) (j : Nat) (v : Junction) : (s.setJunc j v).msixEn = s.msixEn := rfl
@[simp] theorem State.setJunc_intDis (s : State) (j : Nat) (v : Junction) : (s.setJunc j v).intDis = s.intDis := rfl
@[simp] theorem State.setJunc_reply (s : State) (j : Nat) (v : Junction) : (s.setJunc j v).reply = s.reply := rfl
@[simp] theorem State.setJunc_free (s : State) (j : Nat) (v : Junction) : (s.setJunc j v).free = s.free := rfl
@[simp] theorem State.setJunc_out (s : State) (j : Nat) (v : Junction) : (s.setJunc j v).out = s.out := rfl
@[simp] theorem State.setJunc_pending (s : State) (j : Nat) (v : Junction) :
    (s.setJunc j v).pending = s.pending := rfl

@[simp] theorem State.setLim_member (s : State) (j g : Nat) : (s.setLim j g).member = s.member := rfl
@[simp] theorem State.setLim_reg (s : State) (j g : Nat) : (s.setLim j g).reg = s.reg := rfl
@[simp] theorem State.setLim_due (s : State) (j g : Nat) : (s.setLim j g).due = s.due := rfl
@[simp] theorem State.setLim_pba (s : State) (j g : Nat) : (s.setLim j g).pba = s.pba := rfl
@[simp] theorem State.setLim_tt (s : State) (j g : Nat) : (s.setLim j g).tt = s.tt := rfl
@[simp] theorem State.setLim_tim (s : State) (j g : Nat) : (s.setLim j g).tim = s.tim := rfl
@[simp] theorem State.setLim_mcr (s : State) (j g : Nat) : (s.setLim j g).mcr = s.mcr := rfl
@[simp] theorem State.setLim_syn (s : State) (j g : Nat) : (s.setLim j g).syn = s.syn := rfl
@[simp] theorem State.setLim_mix (s : State) (j g : Nat) :
    (s.setLim j g).mix = { s.mix with lim := sset limReset s.mix.lim j { gain := g } } := rfl
@[simp] theorem State.setLim_macA (s : State) (j g : Nat) : (s.setLim j g).macA = s.macA := rfl
@[simp] theorem State.setLim_macB (s : State) (j g : Nat) : (s.setLim j g).macB = s.macB := rfl
@[simp] theorem State.setLim_mdio (s : State) (j g : Nat) : (s.setLim j g).mdio = s.mdio := rfl
@[simp] theorem State.setLim_stx (s : State) (j g : Nat) : (s.setLim j g).stx = s.stx := rfl
@[simp] theorem State.setLim_eng (s : State) (j g : Nat) : (s.setLim j g).eng = s.eng := rfl
@[simp] theorem State.setLim_pool (s : State) (j g : Nat) : (s.setLim j g).pool = s.pool := rfl
@[simp] theorem State.setLim_srx (s : State) (j g : Nat) : (s.setLim j g).srx = s.srx := rfl
@[simp] theorem State.setLim_dpc (s : State) (j g : Nat) : (s.setLim j g).dpc = s.dpc := rfl
@[simp] theorem State.setLim_mbox (s : State) (j g : Nat) : (s.setLim j g).mbox = s.mbox := rfl
@[simp] theorem State.setLim_hrx (s : State) (j g : Nat) : (s.setLim j g).hrx = s.hrx := rfl
@[simp] theorem State.setLim_ring (s : State) (j g : Nat) : (s.setLim j g).ring = s.ring := rfl
@[simp] theorem State.setLim_ftxTurn (s : State) (j g : Nat) : (s.setLim j g).ftxTurn = s.ftxTurn := rfl
@[simp] theorem State.setLim_cmd (s : State) (j g : Nat) : (s.setLim j g).cmd = s.cmd := rfl
@[simp] theorem State.setLim_sap (s : State) (j g : Nat) : (s.setLim j g).sap = s.sap := rfl
@[simp] theorem State.setLim_asrc (s : State) (j g : Nat) : (s.setLim j g).asrc = s.asrc := rfl
@[simp] theorem State.setLim_pwr (s : State) (j g : Nat) : (s.setLim j g).pwr = s.pwr := rfl
@[simp] theorem State.setLim_pair (s : State) (j g : Nat) : (s.setLim j g).pair = s.pair := rfl
@[simp] theorem State.setLim_pmu (s : State) (j g : Nat) : (s.setLim j g).pmu = s.pmu := rfl
@[simp] theorem State.setLim_mgt (s : State) (j g : Nat) : (s.setLim j g).mgt = s.mgt := rfl
@[simp] theorem State.setLim_pci (s : State) (j g : Nat) : (s.setLim j g).pci = s.pci := rfl
@[simp] theorem State.setLim_sst (s : State) (j g : Nat) : (s.setLim j g).sst = s.sst := rfl
@[simp] theorem State.setLim_msixEn (s : State) (j g : Nat) : (s.setLim j g).msixEn = s.msixEn := rfl
@[simp] theorem State.setLim_intDis (s : State) (j g : Nat) : (s.setLim j g).intDis = s.intDis := rfl
@[simp] theorem State.setLim_reply (s : State) (j g : Nat) : (s.setLim j g).reply = s.reply := rfl
@[simp] theorem State.setLim_free (s : State) (j g : Nat) : (s.setLim j g).free = s.free := rfl
@[simp] theorem State.setLim_out (s : State) (j g : Nat) : (s.setLim j g).out = s.out := rfl
@[simp] theorem State.setLim_pending (s : State) (j g : Nat) : (s.setLim j g).pending = s.pending := rfl

@[simp] theorem State.clearHstop_member (s : State) (bit : Nat) : (s.clearHstop bit).member = s.member := rfl
@[simp] theorem State.clearHstop_reg_staged (s : State) (bit : Nat) :
    (s.clearHstop bit).reg.staged = s.reg.staged := rfl
@[simp] theorem State.clearHstop_reg_applied (s : State) (bit : Nat) :
    (s.clearHstop bit).reg.applied = s.reg.applied := rfl
@[simp] theorem State.clearHstop_reg_inForce (s : State) (bit : Nat) :
    (s.clearHstop bit).reg.inForce = s.reg.inForce := rfl
@[simp] theorem State.clearHstop_reg_rw (s : State) (bit : Nat) : (s.clearHstop bit).reg.rw = s.reg.rw := rfl
@[simp] theorem State.clearHstop_reg_rc (s : State) (bit : Nat) : (s.clearHstop bit).reg.rc = s.reg.rc := rfl
@[simp] theorem State.clearHstop_reg_count (s : State) (bit : Nat) : (s.clearHstop bit).reg.count = s.reg.count := rfl
@[simp] theorem State.clearHstop_reg_bankA (s : State) (bit : Nat) : (s.clearHstop bit).reg.bankA = s.reg.bankA := rfl
@[simp] theorem State.clearHstop_reg_bankB (s : State) (bit : Nat) : (s.clearHstop bit).reg.bankB = s.reg.bankB := rfl
@[simp] theorem State.clearHstop_reg_held (s : State) (bit : Nat) : (s.clearHstop bit).reg.held = s.reg.held := rfl
@[simp] theorem State.clearHstop_reg_snaps (s : State) (bit : Nat) : (s.clearHstop bit).reg.snaps = s.reg.snaps := rfl
@[simp] theorem State.clearHstop_reg_waiting (s : State) (bit : Nat) :
    (s.clearHstop bit).reg.waiting = s.reg.waiting := rfl
@[simp] theorem State.clearHstop_reg_stagedBits (s : State) (bit : Nat) :
    (s.clearHstop bit).reg.stagedBits = s.reg.stagedBits := rfl
@[simp] theorem State.clearHstop_reg_lock (s : State) (bit : Nat) : (s.clearHstop bit).reg.lock = s.reg.lock := rfl
@[simp] theorem State.clearHstop_reg_subidDone (s : State) (bit : Nat) :
    (s.clearHstop bit).reg.subidDone = s.reg.subidDone := rfl
@[simp] theorem State.clearHstop_reg_roleDone (s : State) (bit : Nat) :
    (s.clearHstop bit).reg.roleDone = s.reg.roleDone := rfl
@[simp] theorem State.clearHstop_reg_berrAddr (s : State) (bit : Nat) :
    (s.clearHstop bit).reg.berrAddr = s.reg.berrAddr := rfl
@[simp] theorem State.clearHstop_reg_pcie (s : State) (bit : Nat) : (s.clearHstop bit).reg.pcie = s.reg.pcie := rfl
@[simp] theorem State.clearHstop_reg_mgt (s : State) (bit : Nat) : (s.clearHstop bit).reg.mgt = s.reg.mgt := rfl
@[simp] theorem State.clearHstop_reg_crc (s : State) (bit : Nat) : (s.clearHstop bit).reg.crc = s.reg.crc := rfl
@[simp] theorem State.clearHstop_reg_hstop (s : State) (bit : Nat) :
    (s.clearHstop bit).reg.hstop = s.reg.hstop &&& ~~~(BitVec.ofNat 24 (2 ^ bit)) := rfl
@[simp] theorem State.clearHstop_reg_brst (s : State) (bit : Nat) : (s.clearHstop bit).reg.brst = s.reg.brst := rfl
@[simp] theorem State.clearHstop_due (s : State) (bit : Nat) : (s.clearHstop bit).due = s.due := rfl
@[simp] theorem State.clearHstop_pba (s : State) (bit : Nat) : (s.clearHstop bit).pba = s.pba := rfl
@[simp] theorem State.clearHstop_tt (s : State) (bit : Nat) : (s.clearHstop bit).tt = s.tt := rfl
@[simp] theorem State.clearHstop_tim (s : State) (bit : Nat) : (s.clearHstop bit).tim = s.tim := rfl
@[simp] theorem State.clearHstop_mcr (s : State) (bit : Nat) : (s.clearHstop bit).mcr = s.mcr := rfl
@[simp] theorem State.clearHstop_syn (s : State) (bit : Nat) : (s.clearHstop bit).syn = s.syn := rfl
@[simp] theorem State.clearHstop_mix (s : State) (bit : Nat) : (s.clearHstop bit).mix = s.mix := rfl
@[simp] theorem State.clearHstop_macA (s : State) (bit : Nat) : (s.clearHstop bit).macA = s.macA := rfl
@[simp] theorem State.clearHstop_macB (s : State) (bit : Nat) : (s.clearHstop bit).macB = s.macB := rfl
@[simp] theorem State.clearHstop_mdio (s : State) (bit : Nat) : (s.clearHstop bit).mdio = s.mdio := rfl
@[simp] theorem State.clearHstop_stx (s : State) (bit : Nat) : (s.clearHstop bit).stx = s.stx := rfl
@[simp] theorem State.clearHstop_eng (s : State) (bit : Nat) : (s.clearHstop bit).eng = s.eng := rfl
@[simp] theorem State.clearHstop_pool (s : State) (bit : Nat) : (s.clearHstop bit).pool = s.pool := rfl
@[simp] theorem State.clearHstop_srx (s : State) (bit : Nat) : (s.clearHstop bit).srx = s.srx := rfl
@[simp] theorem State.clearHstop_dpc (s : State) (bit : Nat) : (s.clearHstop bit).dpc = s.dpc := rfl
@[simp] theorem State.clearHstop_mbox (s : State) (bit : Nat) : (s.clearHstop bit).mbox = s.mbox := rfl
@[simp] theorem State.clearHstop_hrx (s : State) (bit : Nat) : (s.clearHstop bit).hrx = s.hrx := rfl
@[simp] theorem State.clearHstop_ring (s : State) (bit : Nat) : (s.clearHstop bit).ring = s.ring := rfl
@[simp] theorem State.clearHstop_ftxTurn (s : State) (bit : Nat) : (s.clearHstop bit).ftxTurn = s.ftxTurn := rfl
@[simp] theorem State.clearHstop_cmd (s : State) (bit : Nat) : (s.clearHstop bit).cmd = s.cmd := rfl
@[simp] theorem State.clearHstop_sap (s : State) (bit : Nat) : (s.clearHstop bit).sap = s.sap := rfl
@[simp] theorem State.clearHstop_asrc (s : State) (bit : Nat) : (s.clearHstop bit).asrc = s.asrc := rfl
@[simp] theorem State.clearHstop_pwr (s : State) (bit : Nat) : (s.clearHstop bit).pwr = s.pwr := rfl
@[simp] theorem State.clearHstop_pair (s : State) (bit : Nat) : (s.clearHstop bit).pair = s.pair := rfl
@[simp] theorem State.clearHstop_pmu (s : State) (bit : Nat) : (s.clearHstop bit).pmu = s.pmu := rfl
@[simp] theorem State.clearHstop_mgt (s : State) (bit : Nat) : (s.clearHstop bit).mgt = s.mgt := rfl
@[simp] theorem State.clearHstop_pci (s : State) (bit : Nat) : (s.clearHstop bit).pci = s.pci := rfl
@[simp] theorem State.clearHstop_sst (s : State) (bit : Nat) : (s.clearHstop bit).sst = s.sst := rfl
@[simp] theorem State.clearHstop_msixEn (s : State) (bit : Nat) : (s.clearHstop bit).msixEn = s.msixEn := rfl
@[simp] theorem State.clearHstop_intDis (s : State) (bit : Nat) : (s.clearHstop bit).intDis = s.intDis := rfl
@[simp] theorem State.clearHstop_reply (s : State) (bit : Nat) : (s.clearHstop bit).reply = s.reply := rfl
@[simp] theorem State.clearHstop_free (s : State) (bit : Nat) : (s.clearHstop bit).free = s.free := rfl
@[simp] theorem State.clearHstop_out (s : State) (bit : Nat) : (s.clearHstop bit).out = s.out := rfl
@[simp] theorem State.clearHstop_pending (s : State) (bit : Nat) : (s.clearHstop bit).pending = s.pending := rfl

@[simp] theorem State.modSyn_member (s : State) (f : Syn → Syn) : (s.modSyn f).member = s.member := rfl
@[simp] theorem State.modSyn_reg (s : State) (f : Syn → Syn) : (s.modSyn f).reg = s.reg := rfl
@[simp] theorem State.modSyn_due (s : State) (f : Syn → Syn) : (s.modSyn f).due = s.due := rfl
@[simp] theorem State.modSyn_pba (s : State) (f : Syn → Syn) : (s.modSyn f).pba = s.pba := rfl
@[simp] theorem State.modSyn_tt (s : State) (f : Syn → Syn) : (s.modSyn f).tt = s.tt := rfl
@[simp] theorem State.modSyn_tim (s : State) (f : Syn → Syn) : (s.modSyn f).tim = s.tim := rfl
@[simp] theorem State.modSyn_mcr (s : State) (f : Syn → Syn) : (s.modSyn f).mcr = s.mcr := rfl
@[simp] theorem State.modSyn_syn (s : State) (f : Syn → Syn) : (s.modSyn f).syn = f s.syn := rfl
@[simp] theorem State.modSyn_mix (s : State) (f : Syn → Syn) : (s.modSyn f).mix = s.mix := rfl
@[simp] theorem State.modSyn_macA (s : State) (f : Syn → Syn) : (s.modSyn f).macA = s.macA := rfl
@[simp] theorem State.modSyn_macB (s : State) (f : Syn → Syn) : (s.modSyn f).macB = s.macB := rfl
@[simp] theorem State.modSyn_mdio (s : State) (f : Syn → Syn) : (s.modSyn f).mdio = s.mdio := rfl
@[simp] theorem State.modSyn_stx (s : State) (f : Syn → Syn) : (s.modSyn f).stx = s.stx := rfl
@[simp] theorem State.modSyn_eng (s : State) (f : Syn → Syn) : (s.modSyn f).eng = s.eng := rfl
@[simp] theorem State.modSyn_pool (s : State) (f : Syn → Syn) : (s.modSyn f).pool = s.pool := rfl
@[simp] theorem State.modSyn_srx (s : State) (f : Syn → Syn) : (s.modSyn f).srx = s.srx := rfl
@[simp] theorem State.modSyn_dpc (s : State) (f : Syn → Syn) : (s.modSyn f).dpc = s.dpc := rfl
@[simp] theorem State.modSyn_mbox (s : State) (f : Syn → Syn) : (s.modSyn f).mbox = s.mbox := rfl
@[simp] theorem State.modSyn_hrx (s : State) (f : Syn → Syn) : (s.modSyn f).hrx = s.hrx := rfl
@[simp] theorem State.modSyn_ring (s : State) (f : Syn → Syn) : (s.modSyn f).ring = s.ring := rfl
@[simp] theorem State.modSyn_ftxTurn (s : State) (f : Syn → Syn) : (s.modSyn f).ftxTurn = s.ftxTurn := rfl
@[simp] theorem State.modSyn_cmd (s : State) (f : Syn → Syn) : (s.modSyn f).cmd = s.cmd := rfl
@[simp] theorem State.modSyn_sap (s : State) (f : Syn → Syn) : (s.modSyn f).sap = s.sap := rfl
@[simp] theorem State.modSyn_asrc (s : State) (f : Syn → Syn) : (s.modSyn f).asrc = s.asrc := rfl
@[simp] theorem State.modSyn_pwr (s : State) (f : Syn → Syn) : (s.modSyn f).pwr = s.pwr := rfl
@[simp] theorem State.modSyn_pair (s : State) (f : Syn → Syn) : (s.modSyn f).pair = s.pair := rfl
@[simp] theorem State.modSyn_pmu (s : State) (f : Syn → Syn) : (s.modSyn f).pmu = s.pmu := rfl
@[simp] theorem State.modSyn_mgt (s : State) (f : Syn → Syn) : (s.modSyn f).mgt = s.mgt := rfl
@[simp] theorem State.modSyn_pci (s : State) (f : Syn → Syn) : (s.modSyn f).pci = s.pci := rfl
@[simp] theorem State.modSyn_sst (s : State) (f : Syn → Syn) : (s.modSyn f).sst = s.sst := rfl
@[simp] theorem State.modSyn_msixEn (s : State) (f : Syn → Syn) : (s.modSyn f).msixEn = s.msixEn := rfl
@[simp] theorem State.modSyn_intDis (s : State) (f : Syn → Syn) : (s.modSyn f).intDis = s.intDis := rfl
@[simp] theorem State.modSyn_reply (s : State) (f : Syn → Syn) : (s.modSyn f).reply = s.reply := rfl
@[simp] theorem State.modSyn_free (s : State) (f : Syn → Syn) : (s.modSyn f).free = s.free := rfl
@[simp] theorem State.modSyn_out (s : State) (f : Syn → Syn) : (s.modSyn f).out = s.out := rfl
@[simp] theorem State.modSyn_pending (s : State) (f : Syn → Syn) : (s.modSyn f).pending = s.pending := rfl

@[simp] theorem State.modMcr_member (s : State) (f : Mcr → Mcr) : (s.modMcr f).member = s.member := rfl
@[simp] theorem State.modMcr_reg (s : State) (f : Mcr → Mcr) : (s.modMcr f).reg = s.reg := rfl
@[simp] theorem State.modMcr_due (s : State) (f : Mcr → Mcr) : (s.modMcr f).due = s.due := rfl
@[simp] theorem State.modMcr_pba (s : State) (f : Mcr → Mcr) : (s.modMcr f).pba = s.pba := rfl
@[simp] theorem State.modMcr_tt (s : State) (f : Mcr → Mcr) : (s.modMcr f).tt = s.tt := rfl
@[simp] theorem State.modMcr_tim (s : State) (f : Mcr → Mcr) : (s.modMcr f).tim = s.tim := rfl
@[simp] theorem State.modMcr_mcr (s : State) (f : Mcr → Mcr) : (s.modMcr f).mcr = f s.mcr := rfl
@[simp] theorem State.modMcr_syn (s : State) (f : Mcr → Mcr) : (s.modMcr f).syn = s.syn := rfl
@[simp] theorem State.modMcr_mix (s : State) (f : Mcr → Mcr) : (s.modMcr f).mix = s.mix := rfl
@[simp] theorem State.modMcr_macA (s : State) (f : Mcr → Mcr) : (s.modMcr f).macA = s.macA := rfl
@[simp] theorem State.modMcr_macB (s : State) (f : Mcr → Mcr) : (s.modMcr f).macB = s.macB := rfl
@[simp] theorem State.modMcr_mdio (s : State) (f : Mcr → Mcr) : (s.modMcr f).mdio = s.mdio := rfl
@[simp] theorem State.modMcr_stx (s : State) (f : Mcr → Mcr) : (s.modMcr f).stx = s.stx := rfl
@[simp] theorem State.modMcr_eng (s : State) (f : Mcr → Mcr) : (s.modMcr f).eng = s.eng := rfl
@[simp] theorem State.modMcr_pool (s : State) (f : Mcr → Mcr) : (s.modMcr f).pool = s.pool := rfl
@[simp] theorem State.modMcr_srx (s : State) (f : Mcr → Mcr) : (s.modMcr f).srx = s.srx := rfl
@[simp] theorem State.modMcr_dpc (s : State) (f : Mcr → Mcr) : (s.modMcr f).dpc = s.dpc := rfl
@[simp] theorem State.modMcr_mbox (s : State) (f : Mcr → Mcr) : (s.modMcr f).mbox = s.mbox := rfl
@[simp] theorem State.modMcr_hrx (s : State) (f : Mcr → Mcr) : (s.modMcr f).hrx = s.hrx := rfl
@[simp] theorem State.modMcr_ring (s : State) (f : Mcr → Mcr) : (s.modMcr f).ring = s.ring := rfl
@[simp] theorem State.modMcr_ftxTurn (s : State) (f : Mcr → Mcr) : (s.modMcr f).ftxTurn = s.ftxTurn := rfl
@[simp] theorem State.modMcr_cmd (s : State) (f : Mcr → Mcr) : (s.modMcr f).cmd = s.cmd := rfl
@[simp] theorem State.modMcr_sap (s : State) (f : Mcr → Mcr) : (s.modMcr f).sap = s.sap := rfl
@[simp] theorem State.modMcr_asrc (s : State) (f : Mcr → Mcr) : (s.modMcr f).asrc = s.asrc := rfl
@[simp] theorem State.modMcr_pwr (s : State) (f : Mcr → Mcr) : (s.modMcr f).pwr = s.pwr := rfl
@[simp] theorem State.modMcr_pair (s : State) (f : Mcr → Mcr) : (s.modMcr f).pair = s.pair := rfl
@[simp] theorem State.modMcr_pmu (s : State) (f : Mcr → Mcr) : (s.modMcr f).pmu = s.pmu := rfl
@[simp] theorem State.modMcr_mgt (s : State) (f : Mcr → Mcr) : (s.modMcr f).mgt = s.mgt := rfl
@[simp] theorem State.modMcr_pci (s : State) (f : Mcr → Mcr) : (s.modMcr f).pci = s.pci := rfl
@[simp] theorem State.modMcr_sst (s : State) (f : Mcr → Mcr) : (s.modMcr f).sst = s.sst := rfl
@[simp] theorem State.modMcr_msixEn (s : State) (f : Mcr → Mcr) : (s.modMcr f).msixEn = s.msixEn := rfl
@[simp] theorem State.modMcr_intDis (s : State) (f : Mcr → Mcr) : (s.modMcr f).intDis = s.intDis := rfl
@[simp] theorem State.modMcr_reply (s : State) (f : Mcr → Mcr) : (s.modMcr f).reply = s.reply := rfl
@[simp] theorem State.modMcr_free (s : State) (f : Mcr → Mcr) : (s.modMcr f).free = s.free := rfl
@[simp] theorem State.modMcr_out (s : State) (f : Mcr → Mcr) : (s.modMcr f).out = s.out := rfl
@[simp] theorem State.modMcr_pending (s : State) (f : Mcr → Mcr) : (s.modMcr f).pending = s.pending := rfl

@[simp] theorem State.synAdopted_member (s : State) : (s.synAdopted).member = s.member := rfl
@[simp] theorem State.synAdopted_reg_staged (s : State) : (s.synAdopted).reg.staged = s.reg.staged := rfl
@[simp] theorem State.synAdopted_reg_applied (s : State) : (s.synAdopted).reg.applied = s.reg.applied := rfl
@[simp] theorem State.synAdopted_reg_inForce (s : State) : (s.synAdopted).reg.inForce = s.reg.inForce := rfl
@[simp] theorem State.synAdopted_reg_rw (s : State) : (s.synAdopted).reg.rw = s.reg.rw := rfl
@[simp] theorem State.synAdopted_reg_rc (s : State) : (s.synAdopted).reg.rc = s.reg.rc := rfl
@[simp] theorem State.synAdopted_reg_count (s : State) : (s.synAdopted).reg.count = s.reg.count := rfl
@[simp] theorem State.synAdopted_reg_bankA (s : State) : (s.synAdopted).reg.bankA = s.reg.bankA := rfl
@[simp] theorem State.synAdopted_reg_bankB (s : State) : (s.synAdopted).reg.bankB = s.reg.bankB := rfl
@[simp] theorem State.synAdopted_reg_held (s : State) : (s.synAdopted).reg.held = s.reg.held := rfl
@[simp] theorem State.synAdopted_reg_snaps (s : State) : (s.synAdopted).reg.snaps = s.reg.snaps := rfl
@[simp] theorem State.synAdopted_reg_waiting (s : State) :
    (s.synAdopted).reg.waiting = s.reg.waiting.filter (fun p => p.2 ≠ bSYN) := rfl
@[simp] theorem State.synAdopted_reg_stagedBits (s : State) : (s.synAdopted).reg.stagedBits = s.reg.stagedBits := rfl
@[simp] theorem State.synAdopted_reg_lock (s : State) : (s.synAdopted).reg.lock = s.reg.lock := rfl
@[simp] theorem State.synAdopted_reg_subidDone (s : State) : (s.synAdopted).reg.subidDone = s.reg.subidDone := rfl
@[simp] theorem State.synAdopted_reg_roleDone (s : State) : (s.synAdopted).reg.roleDone = s.reg.roleDone := rfl
@[simp] theorem State.synAdopted_reg_berrAddr (s : State) : (s.synAdopted).reg.berrAddr = s.reg.berrAddr := rfl
@[simp] theorem State.synAdopted_reg_pcie (s : State) : (s.synAdopted).reg.pcie = s.reg.pcie := rfl
@[simp] theorem State.synAdopted_reg_mgt (s : State) : (s.synAdopted).reg.mgt = s.reg.mgt := rfl
@[simp] theorem State.synAdopted_reg_crc (s : State) : (s.synAdopted).reg.crc = s.reg.crc := rfl
@[simp] theorem State.synAdopted_reg_hstop (s : State) : (s.synAdopted).reg.hstop = s.reg.hstop := rfl
@[simp] theorem State.synAdopted_reg_brst (s : State) : (s.synAdopted).reg.brst = s.reg.brst := rfl
@[simp] theorem State.synAdopted_due (s : State) : (s.synAdopted).due = s.due := rfl
@[simp] theorem State.synAdopted_pba (s : State) : (s.synAdopted).pba = s.pba := rfl
@[simp] theorem State.synAdopted_tt (s : State) : (s.synAdopted).tt = s.tt := rfl
@[simp] theorem State.synAdopted_tim (s : State) : (s.synAdopted).tim = s.tim := rfl
@[simp] theorem State.synAdopted_mcr (s : State) : (s.synAdopted).mcr = s.mcr := rfl
@[simp] theorem State.synAdopted_syn (s : State) : (s.synAdopted).syn = s.syn := rfl
@[simp] theorem State.synAdopted_mix (s : State) : (s.synAdopted).mix = s.mix := rfl
@[simp] theorem State.synAdopted_macA (s : State) : (s.synAdopted).macA = s.macA := rfl
@[simp] theorem State.synAdopted_macB (s : State) : (s.synAdopted).macB = s.macB := rfl
@[simp] theorem State.synAdopted_mdio (s : State) : (s.synAdopted).mdio = s.mdio := rfl
@[simp] theorem State.synAdopted_stx (s : State) : (s.synAdopted).stx = s.stx := rfl
@[simp] theorem State.synAdopted_eng (s : State) : (s.synAdopted).eng = s.eng := rfl
@[simp] theorem State.synAdopted_pool (s : State) : (s.synAdopted).pool = s.pool := rfl
@[simp] theorem State.synAdopted_srx (s : State) : (s.synAdopted).srx = s.srx := rfl
@[simp] theorem State.synAdopted_dpc (s : State) : (s.synAdopted).dpc = s.dpc := rfl
@[simp] theorem State.synAdopted_mbox (s : State) : (s.synAdopted).mbox = s.mbox := rfl
@[simp] theorem State.synAdopted_hrx (s : State) : (s.synAdopted).hrx = s.hrx := rfl
@[simp] theorem State.synAdopted_ring (s : State) : (s.synAdopted).ring = s.ring := rfl
@[simp] theorem State.synAdopted_ftxTurn (s : State) : (s.synAdopted).ftxTurn = s.ftxTurn := rfl
@[simp] theorem State.synAdopted_cmd (s : State) : (s.synAdopted).cmd = s.cmd := rfl
@[simp] theorem State.synAdopted_sap (s : State) : (s.synAdopted).sap = s.sap := rfl
@[simp] theorem State.synAdopted_asrc (s : State) : (s.synAdopted).asrc = s.asrc := rfl
@[simp] theorem State.synAdopted_pwr (s : State) : (s.synAdopted).pwr = s.pwr := rfl
@[simp] theorem State.synAdopted_pair (s : State) : (s.synAdopted).pair = s.pair := rfl
@[simp] theorem State.synAdopted_pmu (s : State) : (s.synAdopted).pmu = s.pmu := rfl
@[simp] theorem State.synAdopted_mgt (s : State) : (s.synAdopted).mgt = s.mgt := rfl
@[simp] theorem State.synAdopted_pci (s : State) : (s.synAdopted).pci = s.pci := rfl
@[simp] theorem State.synAdopted_sst (s : State) : (s.synAdopted).sst = s.sst := rfl
@[simp] theorem State.synAdopted_msixEn (s : State) : (s.synAdopted).msixEn = s.msixEn := rfl
@[simp] theorem State.synAdopted_intDis (s : State) : (s.synAdopted).intDis = s.intDis := rfl
@[simp] theorem State.synAdopted_reply (s : State) : (s.synAdopted).reply = s.reply := rfl
@[simp] theorem State.synAdopted_free (s : State) : (s.synAdopted).free = s.free := rfl
@[simp] theorem State.synAdopted_out (s : State) : (s.synAdopted).out = s.out := rfl
@[simp] theorem State.synAdopted_pending (s : State) : (s.synAdopted).pending = s.pending := rfl

@[simp] theorem State.disarmAll_member (s : State) : (s.disarmAll).member = s.member := rfl
@[simp] theorem State.disarmAll_reg (s : State) : (s.disarmAll).reg = s.reg := rfl
@[simp] theorem State.disarmAll_due (s : State) : (s.disarmAll).due = s.due := rfl
@[simp] theorem State.disarmAll_pba (s : State) : (s.disarmAll).pba = s.pba := rfl
@[simp] theorem State.disarmAll_tt (s : State) : (s.disarmAll).tt = { s.tt with armed := 0 } := rfl
@[simp] theorem State.disarmAll_tim (s : State) : (s.disarmAll).tim = s.tim := rfl
@[simp] theorem State.disarmAll_mcr (s : State) : (s.disarmAll).mcr = s.mcr := rfl
@[simp] theorem State.disarmAll_syn (s : State) : (s.disarmAll).syn = s.syn := rfl
@[simp] theorem State.disarmAll_mix (s : State) : (s.disarmAll).mix = s.mix := rfl
@[simp] theorem State.disarmAll_macA (s : State) : (s.disarmAll).macA = s.macA := rfl
@[simp] theorem State.disarmAll_macB (s : State) : (s.disarmAll).macB = s.macB := rfl
@[simp] theorem State.disarmAll_mdio (s : State) : (s.disarmAll).mdio = s.mdio := rfl
@[simp] theorem State.disarmAll_stx (s : State) : (s.disarmAll).stx = s.stx := rfl
@[simp] theorem State.disarmAll_eng (s : State) : (s.disarmAll).eng = s.eng := rfl
@[simp] theorem State.disarmAll_pool (s : State) : (s.disarmAll).pool = s.pool := rfl
@[simp] theorem State.disarmAll_srx (s : State) : (s.disarmAll).srx = s.srx := rfl
@[simp] theorem State.disarmAll_dpc (s : State) : (s.disarmAll).dpc = s.dpc := rfl
@[simp] theorem State.disarmAll_mbox (s : State) : (s.disarmAll).mbox = s.mbox := rfl
@[simp] theorem State.disarmAll_hrx (s : State) : (s.disarmAll).hrx = s.hrx := rfl
@[simp] theorem State.disarmAll_ring (s : State) : (s.disarmAll).ring = s.ring := rfl
@[simp] theorem State.disarmAll_ftxTurn (s : State) : (s.disarmAll).ftxTurn = s.ftxTurn := rfl
@[simp] theorem State.disarmAll_cmd (s : State) : (s.disarmAll).cmd = s.cmd := rfl
@[simp] theorem State.disarmAll_sap (s : State) : (s.disarmAll).sap = s.sap := rfl
@[simp] theorem State.disarmAll_asrc (s : State) : (s.disarmAll).asrc = s.asrc := rfl
@[simp] theorem State.disarmAll_pwr (s : State) : (s.disarmAll).pwr = s.pwr := rfl
@[simp] theorem State.disarmAll_pair (s : State) : (s.disarmAll).pair = s.pair := rfl
@[simp] theorem State.disarmAll_pmu (s : State) : (s.disarmAll).pmu = s.pmu := rfl
@[simp] theorem State.disarmAll_mgt (s : State) : (s.disarmAll).mgt = s.mgt := rfl
@[simp] theorem State.disarmAll_pci (s : State) : (s.disarmAll).pci = s.pci := rfl
@[simp] theorem State.disarmAll_sst (s : State) : (s.disarmAll).sst = s.sst := rfl
@[simp] theorem State.disarmAll_msixEn (s : State) : (s.disarmAll).msixEn = s.msixEn := rfl
@[simp] theorem State.disarmAll_intDis (s : State) : (s.disarmAll).intDis = s.intDis := rfl
@[simp] theorem State.disarmAll_reply (s : State) : (s.disarmAll).reply = s.reply := rfl
@[simp] theorem State.disarmAll_free (s : State) : (s.disarmAll).free = s.free := rfl
@[simp] theorem State.disarmAll_out (s : State) : (s.disarmAll).out = s.out := rfl
@[simp] theorem State.disarmAll_pending (s : State) : (s.disarmAll).pending = s.pending := rfl

@[simp] theorem State.timeTick_member (s : State) (ns0 ns1 xo pos : Nat) :
    (s.timeTick ns0 ns1 xo pos).member = s.member := rfl
@[simp] theorem State.timeTick_reg (s : State) (ns0 ns1 xo pos : Nat) : (s.timeTick ns0 ns1 xo pos).reg = s.reg := rfl
@[simp] theorem State.timeTick_due (s : State) (ns0 ns1 xo pos : Nat) : (s.timeTick ns0 ns1 xo pos).due = s.due := rfl
@[simp] theorem State.timeTick_pba (s : State) (ns0 ns1 xo pos : Nat) : (s.timeTick ns0 ns1 xo pos).pba = s.pba := rfl
@[simp] theorem State.timeTick_tt (s : State) (ns0 ns1 xo pos : Nat) : (s.timeTick ns0 ns1 xo pos).tt = s.tt := rfl
@[simp] theorem State.timeTick_tim (s : State) (ns0 ns1 xo pos : Nat) :
    (s.timeTick ns0 ns1 xo pos).tim = s.timRun ns0 ns1 xo pos := rfl
@[simp] theorem State.timeTick_mcr (s : State) (ns0 ns1 xo pos : Nat) : (s.timeTick ns0 ns1 xo pos).mcr = s.mcr := rfl
@[simp] theorem State.timeTick_syn (s : State) (ns0 ns1 xo pos : Nat) : (s.timeTick ns0 ns1 xo pos).syn = s.syn := rfl
@[simp] theorem State.timeTick_mix (s : State) (ns0 ns1 xo pos : Nat) : (s.timeTick ns0 ns1 xo pos).mix = s.mix := rfl
@[simp] theorem State.timeTick_macA (s : State) (ns0 ns1 xo pos : Nat) :
    (s.timeTick ns0 ns1 xo pos).macA = s.macA := rfl
@[simp] theorem State.timeTick_macB (s : State) (ns0 ns1 xo pos : Nat) :
    (s.timeTick ns0 ns1 xo pos).macB = s.macB := rfl
@[simp] theorem State.timeTick_mdio (s : State) (ns0 ns1 xo pos : Nat) :
    (s.timeTick ns0 ns1 xo pos).mdio = s.mdio := rfl
@[simp] theorem State.timeTick_stx (s : State) (ns0 ns1 xo pos : Nat) : (s.timeTick ns0 ns1 xo pos).stx = s.stx := rfl
@[simp] theorem State.timeTick_eng (s : State) (ns0 ns1 xo pos : Nat) : (s.timeTick ns0 ns1 xo pos).eng = s.eng := rfl
@[simp] theorem State.timeTick_pool (s : State) (ns0 ns1 xo pos : Nat) :
    (s.timeTick ns0 ns1 xo pos).pool = s.pool := rfl
@[simp] theorem State.timeTick_srx (s : State) (ns0 ns1 xo pos : Nat) : (s.timeTick ns0 ns1 xo pos).srx = s.srx := rfl
@[simp] theorem State.timeTick_dpc (s : State) (ns0 ns1 xo pos : Nat) : (s.timeTick ns0 ns1 xo pos).dpc = s.dpc := rfl
@[simp] theorem State.timeTick_mbox (s : State) (ns0 ns1 xo pos : Nat) :
    (s.timeTick ns0 ns1 xo pos).mbox = s.mbox := rfl
@[simp] theorem State.timeTick_hrx (s : State) (ns0 ns1 xo pos : Nat) : (s.timeTick ns0 ns1 xo pos).hrx = s.hrx := rfl
@[simp] theorem State.timeTick_ring (s : State) (ns0 ns1 xo pos : Nat) :
    (s.timeTick ns0 ns1 xo pos).ring = s.ring := rfl
@[simp] theorem State.timeTick_ftxTurn (s : State) (ns0 ns1 xo pos : Nat) :
    (s.timeTick ns0 ns1 xo pos).ftxTurn = s.ftxTurn := rfl
@[simp] theorem State.timeTick_cmd (s : State) (ns0 ns1 xo pos : Nat) : (s.timeTick ns0 ns1 xo pos).cmd = s.cmd := rfl
@[simp] theorem State.timeTick_sap (s : State) (ns0 ns1 xo pos : Nat) : (s.timeTick ns0 ns1 xo pos).sap = s.sap := rfl
@[simp] theorem State.timeTick_asrc (s : State) (ns0 ns1 xo pos : Nat) :
    (s.timeTick ns0 ns1 xo pos).asrc = s.asrc := rfl
@[simp] theorem State.timeTick_pwr (s : State) (ns0 ns1 xo pos : Nat) : (s.timeTick ns0 ns1 xo pos).pwr = s.pwr := rfl
@[simp] theorem State.timeTick_pair (s : State) (ns0 ns1 xo pos : Nat) :
    (s.timeTick ns0 ns1 xo pos).pair = s.pair := rfl
@[simp] theorem State.timeTick_pmu (s : State) (ns0 ns1 xo pos : Nat) : (s.timeTick ns0 ns1 xo pos).pmu = s.pmu := rfl
@[simp] theorem State.timeTick_mgt (s : State) (ns0 ns1 xo pos : Nat) : (s.timeTick ns0 ns1 xo pos).mgt = s.mgt := rfl
@[simp] theorem State.timeTick_pci (s : State) (ns0 ns1 xo pos : Nat) : (s.timeTick ns0 ns1 xo pos).pci = s.pci := rfl
@[simp] theorem State.timeTick_sst (s : State) (ns0 ns1 xo pos : Nat) : (s.timeTick ns0 ns1 xo pos).sst = s.sst := rfl
@[simp] theorem State.timeTick_msixEn (s : State) (ns0 ns1 xo pos : Nat) :
    (s.timeTick ns0 ns1 xo pos).msixEn = s.msixEn := rfl
@[simp] theorem State.timeTick_intDis (s : State) (ns0 ns1 xo pos : Nat) :
    (s.timeTick ns0 ns1 xo pos).intDis = s.intDis := rfl
@[simp] theorem State.timeTick_reply (s : State) (ns0 ns1 xo pos : Nat) :
    (s.timeTick ns0 ns1 xo pos).reply = s.reply := rfl
@[simp] theorem State.timeTick_free (s : State) (ns0 ns1 xo pos : Nat) :
    (s.timeTick ns0 ns1 xo pos).free = s.free := rfl
@[simp] theorem State.timeTick_out (s : State) (ns0 ns1 xo pos : Nat) : (s.timeTick ns0 ns1 xo pos).out = s.out := rfl
@[simp] theorem State.timeTick_pending (s : State) (ns0 ns1 xo pos : Nat) :
    (s.timeTick ns0 ns1 xo pos).pending = s.pending := rfl

@[simp] theorem State.setStx_member (s : State) (c : Nat) (v : StxCtx) : (s.setStx c v).member = s.member := rfl
@[simp] theorem State.setStx_reg (s : State) (c : Nat) (v : StxCtx) : (s.setStx c v).reg = s.reg := rfl
@[simp] theorem State.setStx_due (s : State) (c : Nat) (v : StxCtx) : (s.setStx c v).due = s.due := rfl
@[simp] theorem State.setStx_pba (s : State) (c : Nat) (v : StxCtx) : (s.setStx c v).pba = s.pba := rfl
@[simp] theorem State.setStx_tt (s : State) (c : Nat) (v : StxCtx) : (s.setStx c v).tt = s.tt := rfl
@[simp] theorem State.setStx_tim (s : State) (c : Nat) (v : StxCtx) : (s.setStx c v).tim = s.tim := rfl
@[simp] theorem State.setStx_mcr (s : State) (c : Nat) (v : StxCtx) : (s.setStx c v).mcr = s.mcr := rfl
@[simp] theorem State.setStx_syn (s : State) (c : Nat) (v : StxCtx) : (s.setStx c v).syn = s.syn := rfl
@[simp] theorem State.setStx_mix (s : State) (c : Nat) (v : StxCtx) : (s.setStx c v).mix = s.mix := rfl
@[simp] theorem State.setStx_macA (s : State) (c : Nat) (v : StxCtx) : (s.setStx c v).macA = s.macA := rfl
@[simp] theorem State.setStx_macB (s : State) (c : Nat) (v : StxCtx) : (s.setStx c v).macB = s.macB := rfl
@[simp] theorem State.setStx_mdio (s : State) (c : Nat) (v : StxCtx) : (s.setStx c v).mdio = s.mdio := rfl
@[simp] theorem State.setStx_stx (s : State) (c : Nat) (v : StxCtx) :
    (s.setStx c v).stx = { s.stx with ctx := sset stxReset s.stx.ctx c v } := rfl
@[simp] theorem State.setStx_eng (s : State) (c : Nat) (v : StxCtx) : (s.setStx c v).eng = s.eng := rfl
@[simp] theorem State.setStx_pool (s : State) (c : Nat) (v : StxCtx) : (s.setStx c v).pool = s.pool := rfl
@[simp] theorem State.setStx_srx (s : State) (c : Nat) (v : StxCtx) : (s.setStx c v).srx = s.srx := rfl
@[simp] theorem State.setStx_dpc (s : State) (c : Nat) (v : StxCtx) : (s.setStx c v).dpc = s.dpc := rfl
@[simp] theorem State.setStx_mbox (s : State) (c : Nat) (v : StxCtx) : (s.setStx c v).mbox = s.mbox := rfl
@[simp] theorem State.setStx_hrx (s : State) (c : Nat) (v : StxCtx) : (s.setStx c v).hrx = s.hrx := rfl
@[simp] theorem State.setStx_ring (s : State) (c : Nat) (v : StxCtx) : (s.setStx c v).ring = s.ring := rfl
@[simp] theorem State.setStx_ftxTurn (s : State) (c : Nat) (v : StxCtx) : (s.setStx c v).ftxTurn = s.ftxTurn := rfl
@[simp] theorem State.setStx_cmd (s : State) (c : Nat) (v : StxCtx) : (s.setStx c v).cmd = s.cmd := rfl
@[simp] theorem State.setStx_sap (s : State) (c : Nat) (v : StxCtx) : (s.setStx c v).sap = s.sap := rfl
@[simp] theorem State.setStx_asrc (s : State) (c : Nat) (v : StxCtx) : (s.setStx c v).asrc = s.asrc := rfl
@[simp] theorem State.setStx_pwr (s : State) (c : Nat) (v : StxCtx) : (s.setStx c v).pwr = s.pwr := rfl
@[simp] theorem State.setStx_pair (s : State) (c : Nat) (v : StxCtx) : (s.setStx c v).pair = s.pair := rfl
@[simp] theorem State.setStx_pmu (s : State) (c : Nat) (v : StxCtx) : (s.setStx c v).pmu = s.pmu := rfl
@[simp] theorem State.setStx_mgt (s : State) (c : Nat) (v : StxCtx) : (s.setStx c v).mgt = s.mgt := rfl
@[simp] theorem State.setStx_pci (s : State) (c : Nat) (v : StxCtx) : (s.setStx c v).pci = s.pci := rfl
@[simp] theorem State.setStx_sst (s : State) (c : Nat) (v : StxCtx) : (s.setStx c v).sst = s.sst := rfl
@[simp] theorem State.setStx_msixEn (s : State) (c : Nat) (v : StxCtx) : (s.setStx c v).msixEn = s.msixEn := rfl
@[simp] theorem State.setStx_intDis (s : State) (c : Nat) (v : StxCtx) : (s.setStx c v).intDis = s.intDis := rfl
@[simp] theorem State.setStx_reply (s : State) (c : Nat) (v : StxCtx) : (s.setStx c v).reply = s.reply := rfl
@[simp] theorem State.setStx_free (s : State) (c : Nat) (v : StxCtx) : (s.setStx c v).free = s.free := rfl
@[simp] theorem State.setStx_out (s : State) (c : Nat) (v : StxCtx) : (s.setStx c v).out = s.out := rfl
@[simp] theorem State.setStx_pending (s : State) (c : Nat) (v : StxCtx) : (s.setStx c v).pending = s.pending := rfl

@[simp] theorem State.setDpc_member (s : State) (c : Nat) (v : DpcCtx) : (s.setDpc c v).member = s.member := rfl
@[simp] theorem State.setDpc_reg (s : State) (c : Nat) (v : DpcCtx) : (s.setDpc c v).reg = s.reg := rfl
@[simp] theorem State.setDpc_due (s : State) (c : Nat) (v : DpcCtx) : (s.setDpc c v).due = s.due := rfl
@[simp] theorem State.setDpc_pba (s : State) (c : Nat) (v : DpcCtx) : (s.setDpc c v).pba = s.pba := rfl
@[simp] theorem State.setDpc_tt (s : State) (c : Nat) (v : DpcCtx) : (s.setDpc c v).tt = s.tt := rfl
@[simp] theorem State.setDpc_tim (s : State) (c : Nat) (v : DpcCtx) : (s.setDpc c v).tim = s.tim := rfl
@[simp] theorem State.setDpc_mcr (s : State) (c : Nat) (v : DpcCtx) : (s.setDpc c v).mcr = s.mcr := rfl
@[simp] theorem State.setDpc_syn (s : State) (c : Nat) (v : DpcCtx) : (s.setDpc c v).syn = s.syn := rfl
@[simp] theorem State.setDpc_mix (s : State) (c : Nat) (v : DpcCtx) : (s.setDpc c v).mix = s.mix := rfl
@[simp] theorem State.setDpc_macA (s : State) (c : Nat) (v : DpcCtx) : (s.setDpc c v).macA = s.macA := rfl
@[simp] theorem State.setDpc_macB (s : State) (c : Nat) (v : DpcCtx) : (s.setDpc c v).macB = s.macB := rfl
@[simp] theorem State.setDpc_mdio (s : State) (c : Nat) (v : DpcCtx) : (s.setDpc c v).mdio = s.mdio := rfl
@[simp] theorem State.setDpc_stx (s : State) (c : Nat) (v : DpcCtx) : (s.setDpc c v).stx = s.stx := rfl
@[simp] theorem State.setDpc_eng (s : State) (c : Nat) (v : DpcCtx) : (s.setDpc c v).eng = s.eng := rfl
@[simp] theorem State.setDpc_pool (s : State) (c : Nat) (v : DpcCtx) : (s.setDpc c v).pool = s.pool := rfl
@[simp] theorem State.setDpc_srx (s : State) (c : Nat) (v : DpcCtx) : (s.setDpc c v).srx = s.srx := rfl
@[simp] theorem State.setDpc_dpc (s : State) (c : Nat) (v : DpcCtx) :
    (s.setDpc c v).dpc = { s.dpc with ctx := sset dpcReset s.dpc.ctx c v } := rfl
@[simp] theorem State.setDpc_mbox (s : State) (c : Nat) (v : DpcCtx) : (s.setDpc c v).mbox = s.mbox := rfl
@[simp] theorem State.setDpc_hrx (s : State) (c : Nat) (v : DpcCtx) : (s.setDpc c v).hrx = s.hrx := rfl
@[simp] theorem State.setDpc_ring (s : State) (c : Nat) (v : DpcCtx) : (s.setDpc c v).ring = s.ring := rfl
@[simp] theorem State.setDpc_ftxTurn (s : State) (c : Nat) (v : DpcCtx) : (s.setDpc c v).ftxTurn = s.ftxTurn := rfl
@[simp] theorem State.setDpc_cmd (s : State) (c : Nat) (v : DpcCtx) : (s.setDpc c v).cmd = s.cmd := rfl
@[simp] theorem State.setDpc_sap (s : State) (c : Nat) (v : DpcCtx) : (s.setDpc c v).sap = s.sap := rfl
@[simp] theorem State.setDpc_asrc (s : State) (c : Nat) (v : DpcCtx) : (s.setDpc c v).asrc = s.asrc := rfl
@[simp] theorem State.setDpc_pwr (s : State) (c : Nat) (v : DpcCtx) : (s.setDpc c v).pwr = s.pwr := rfl
@[simp] theorem State.setDpc_pair (s : State) (c : Nat) (v : DpcCtx) : (s.setDpc c v).pair = s.pair := rfl
@[simp] theorem State.setDpc_pmu (s : State) (c : Nat) (v : DpcCtx) : (s.setDpc c v).pmu = s.pmu := rfl
@[simp] theorem State.setDpc_mgt (s : State) (c : Nat) (v : DpcCtx) : (s.setDpc c v).mgt = s.mgt := rfl
@[simp] theorem State.setDpc_pci (s : State) (c : Nat) (v : DpcCtx) : (s.setDpc c v).pci = s.pci := rfl
@[simp] theorem State.setDpc_sst (s : State) (c : Nat) (v : DpcCtx) : (s.setDpc c v).sst = s.sst := rfl
@[simp] theorem State.setDpc_msixEn (s : State) (c : Nat) (v : DpcCtx) : (s.setDpc c v).msixEn = s.msixEn := rfl
@[simp] theorem State.setDpc_intDis (s : State) (c : Nat) (v : DpcCtx) : (s.setDpc c v).intDis = s.intDis := rfl
@[simp] theorem State.setDpc_reply (s : State) (c : Nat) (v : DpcCtx) : (s.setDpc c v).reply = s.reply := rfl
@[simp] theorem State.setDpc_free (s : State) (c : Nat) (v : DpcCtx) : (s.setDpc c v).free = s.free := rfl
@[simp] theorem State.setDpc_out (s : State) (c : Nat) (v : DpcCtx) : (s.setDpc c v).out = s.out := rfl
@[simp] theorem State.setDpc_pending (s : State) (c : Nat) (v : DpcCtx) : (s.setDpc c v).pending = s.pending := rfl

@[simp] theorem State.setSrx_member (s : State) (c : Nat) (v : SrxCtx) : (s.setSrx c v).member = s.member := rfl
@[simp] theorem State.setSrx_reg (s : State) (c : Nat) (v : SrxCtx) : (s.setSrx c v).reg = s.reg := rfl
@[simp] theorem State.setSrx_due (s : State) (c : Nat) (v : SrxCtx) : (s.setSrx c v).due = s.due := rfl
@[simp] theorem State.setSrx_pba (s : State) (c : Nat) (v : SrxCtx) : (s.setSrx c v).pba = s.pba := rfl
@[simp] theorem State.setSrx_tt (s : State) (c : Nat) (v : SrxCtx) : (s.setSrx c v).tt = s.tt := rfl
@[simp] theorem State.setSrx_tim (s : State) (c : Nat) (v : SrxCtx) : (s.setSrx c v).tim = s.tim := rfl
@[simp] theorem State.setSrx_mcr (s : State) (c : Nat) (v : SrxCtx) : (s.setSrx c v).mcr = s.mcr := rfl
@[simp] theorem State.setSrx_syn (s : State) (c : Nat) (v : SrxCtx) : (s.setSrx c v).syn = s.syn := rfl
@[simp] theorem State.setSrx_mix (s : State) (c : Nat) (v : SrxCtx) : (s.setSrx c v).mix = s.mix := rfl
@[simp] theorem State.setSrx_macA (s : State) (c : Nat) (v : SrxCtx) : (s.setSrx c v).macA = s.macA := rfl
@[simp] theorem State.setSrx_macB (s : State) (c : Nat) (v : SrxCtx) : (s.setSrx c v).macB = s.macB := rfl
@[simp] theorem State.setSrx_mdio (s : State) (c : Nat) (v : SrxCtx) : (s.setSrx c v).mdio = s.mdio := rfl
@[simp] theorem State.setSrx_stx (s : State) (c : Nat) (v : SrxCtx) : (s.setSrx c v).stx = s.stx := rfl
@[simp] theorem State.setSrx_eng (s : State) (c : Nat) (v : SrxCtx) : (s.setSrx c v).eng = s.eng := rfl
@[simp] theorem State.setSrx_pool (s : State) (c : Nat) (v : SrxCtx) : (s.setSrx c v).pool = s.pool := rfl
@[simp] theorem State.setSrx_srx (s : State) (c : Nat) (v : SrxCtx) :
    (s.setSrx c v).srx = { s.srx with ctx := sset srxReset s.srx.ctx c v } := rfl
@[simp] theorem State.setSrx_dpc (s : State) (c : Nat) (v : SrxCtx) : (s.setSrx c v).dpc = s.dpc := rfl
@[simp] theorem State.setSrx_mbox (s : State) (c : Nat) (v : SrxCtx) : (s.setSrx c v).mbox = s.mbox := rfl
@[simp] theorem State.setSrx_hrx (s : State) (c : Nat) (v : SrxCtx) : (s.setSrx c v).hrx = s.hrx := rfl
@[simp] theorem State.setSrx_ring (s : State) (c : Nat) (v : SrxCtx) : (s.setSrx c v).ring = s.ring := rfl
@[simp] theorem State.setSrx_ftxTurn (s : State) (c : Nat) (v : SrxCtx) : (s.setSrx c v).ftxTurn = s.ftxTurn := rfl
@[simp] theorem State.setSrx_cmd (s : State) (c : Nat) (v : SrxCtx) : (s.setSrx c v).cmd = s.cmd := rfl
@[simp] theorem State.setSrx_sap (s : State) (c : Nat) (v : SrxCtx) : (s.setSrx c v).sap = s.sap := rfl
@[simp] theorem State.setSrx_asrc (s : State) (c : Nat) (v : SrxCtx) : (s.setSrx c v).asrc = s.asrc := rfl
@[simp] theorem State.setSrx_pwr (s : State) (c : Nat) (v : SrxCtx) : (s.setSrx c v).pwr = s.pwr := rfl
@[simp] theorem State.setSrx_pair (s : State) (c : Nat) (v : SrxCtx) : (s.setSrx c v).pair = s.pair := rfl
@[simp] theorem State.setSrx_pmu (s : State) (c : Nat) (v : SrxCtx) : (s.setSrx c v).pmu = s.pmu := rfl
@[simp] theorem State.setSrx_mgt (s : State) (c : Nat) (v : SrxCtx) : (s.setSrx c v).mgt = s.mgt := rfl
@[simp] theorem State.setSrx_pci (s : State) (c : Nat) (v : SrxCtx) : (s.setSrx c v).pci = s.pci := rfl
@[simp] theorem State.setSrx_sst (s : State) (c : Nat) (v : SrxCtx) : (s.setSrx c v).sst = s.sst := rfl
@[simp] theorem State.setSrx_msixEn (s : State) (c : Nat) (v : SrxCtx) : (s.setSrx c v).msixEn = s.msixEn := rfl
@[simp] theorem State.setSrx_intDis (s : State) (c : Nat) (v : SrxCtx) : (s.setSrx c v).intDis = s.intDis := rfl
@[simp] theorem State.setSrx_reply (s : State) (c : Nat) (v : SrxCtx) : (s.setSrx c v).reply = s.reply := rfl
@[simp] theorem State.setSrx_free (s : State) (c : Nat) (v : SrxCtx) : (s.setSrx c v).free = s.free := rfl
@[simp] theorem State.setSrx_out (s : State) (c : Nat) (v : SrxCtx) : (s.setSrx c v).out = s.out := rfl
@[simp] theorem State.setSrx_pending (s : State) (c : Nat) (v : SrxCtx) : (s.setSrx c v).pending = s.pending := rfl

@[simp] theorem State.setGrp_member (s : State) (g : Nat) (v : SrxGroup) : (s.setGrp g v).member = s.member := rfl
@[simp] theorem State.setGrp_reg (s : State) (g : Nat) (v : SrxGroup) : (s.setGrp g v).reg = s.reg := rfl
@[simp] theorem State.setGrp_due (s : State) (g : Nat) (v : SrxGroup) : (s.setGrp g v).due = s.due := rfl
@[simp] theorem State.setGrp_pba (s : State) (g : Nat) (v : SrxGroup) : (s.setGrp g v).pba = s.pba := rfl
@[simp] theorem State.setGrp_tt (s : State) (g : Nat) (v : SrxGroup) : (s.setGrp g v).tt = s.tt := rfl
@[simp] theorem State.setGrp_tim (s : State) (g : Nat) (v : SrxGroup) : (s.setGrp g v).tim = s.tim := rfl
@[simp] theorem State.setGrp_mcr (s : State) (g : Nat) (v : SrxGroup) : (s.setGrp g v).mcr = s.mcr := rfl
@[simp] theorem State.setGrp_syn (s : State) (g : Nat) (v : SrxGroup) : (s.setGrp g v).syn = s.syn := rfl
@[simp] theorem State.setGrp_mix (s : State) (g : Nat) (v : SrxGroup) : (s.setGrp g v).mix = s.mix := rfl
@[simp] theorem State.setGrp_macA (s : State) (g : Nat) (v : SrxGroup) : (s.setGrp g v).macA = s.macA := rfl
@[simp] theorem State.setGrp_macB (s : State) (g : Nat) (v : SrxGroup) : (s.setGrp g v).macB = s.macB := rfl
@[simp] theorem State.setGrp_mdio (s : State) (g : Nat) (v : SrxGroup) : (s.setGrp g v).mdio = s.mdio := rfl
@[simp] theorem State.setGrp_stx (s : State) (g : Nat) (v : SrxGroup) : (s.setGrp g v).stx = s.stx := rfl
@[simp] theorem State.setGrp_eng (s : State) (g : Nat) (v : SrxGroup) : (s.setGrp g v).eng = s.eng := rfl
@[simp] theorem State.setGrp_pool (s : State) (g : Nat) (v : SrxGroup) : (s.setGrp g v).pool = s.pool := rfl
@[simp] theorem State.setGrp_srx (s : State) (g : Nat) (v : SrxGroup) :
    (s.setGrp g v).srx = { s.srx with grp := sset groupReset s.srx.grp g v } := rfl
@[simp] theorem State.setGrp_dpc (s : State) (g : Nat) (v : SrxGroup) : (s.setGrp g v).dpc = s.dpc := rfl
@[simp] theorem State.setGrp_mbox (s : State) (g : Nat) (v : SrxGroup) : (s.setGrp g v).mbox = s.mbox := rfl
@[simp] theorem State.setGrp_hrx (s : State) (g : Nat) (v : SrxGroup) : (s.setGrp g v).hrx = s.hrx := rfl
@[simp] theorem State.setGrp_ring (s : State) (g : Nat) (v : SrxGroup) : (s.setGrp g v).ring = s.ring := rfl
@[simp] theorem State.setGrp_ftxTurn (s : State) (g : Nat) (v : SrxGroup) : (s.setGrp g v).ftxTurn = s.ftxTurn := rfl
@[simp] theorem State.setGrp_cmd (s : State) (g : Nat) (v : SrxGroup) : (s.setGrp g v).cmd = s.cmd := rfl
@[simp] theorem State.setGrp_sap (s : State) (g : Nat) (v : SrxGroup) : (s.setGrp g v).sap = s.sap := rfl
@[simp] theorem State.setGrp_asrc (s : State) (g : Nat) (v : SrxGroup) : (s.setGrp g v).asrc = s.asrc := rfl
@[simp] theorem State.setGrp_pwr (s : State) (g : Nat) (v : SrxGroup) : (s.setGrp g v).pwr = s.pwr := rfl
@[simp] theorem State.setGrp_pair (s : State) (g : Nat) (v : SrxGroup) : (s.setGrp g v).pair = s.pair := rfl
@[simp] theorem State.setGrp_pmu (s : State) (g : Nat) (v : SrxGroup) : (s.setGrp g v).pmu = s.pmu := rfl
@[simp] theorem State.setGrp_mgt (s : State) (g : Nat) (v : SrxGroup) : (s.setGrp g v).mgt = s.mgt := rfl
@[simp] theorem State.setGrp_pci (s : State) (g : Nat) (v : SrxGroup) : (s.setGrp g v).pci = s.pci := rfl
@[simp] theorem State.setGrp_sst (s : State) (g : Nat) (v : SrxGroup) : (s.setGrp g v).sst = s.sst := rfl
@[simp] theorem State.setGrp_msixEn (s : State) (g : Nat) (v : SrxGroup) : (s.setGrp g v).msixEn = s.msixEn := rfl
@[simp] theorem State.setGrp_intDis (s : State) (g : Nat) (v : SrxGroup) : (s.setGrp g v).intDis = s.intDis := rfl
@[simp] theorem State.setGrp_reply (s : State) (g : Nat) (v : SrxGroup) : (s.setGrp g v).reply = s.reply := rfl
@[simp] theorem State.setGrp_free (s : State) (g : Nat) (v : SrxGroup) : (s.setGrp g v).free = s.free := rfl
@[simp] theorem State.setGrp_out (s : State) (g : Nat) (v : SrxGroup) : (s.setGrp g v).out = s.out := rfl
@[simp] theorem State.setGrp_pending (s : State) (g : Nat) (v : SrxGroup) : (s.setGrp g v).pending = s.pending := rfl

@[simp] theorem State.setMbox_member (s : State) (n : Nat) (v : Mailbox) : (s.setMbox n v).member = s.member := rfl
@[simp] theorem State.setMbox_reg (s : State) (n : Nat) (v : Mailbox) : (s.setMbox n v).reg = s.reg := rfl
@[simp] theorem State.setMbox_due (s : State) (n : Nat) (v : Mailbox) : (s.setMbox n v).due = s.due := rfl
@[simp] theorem State.setMbox_pba (s : State) (n : Nat) (v : Mailbox) : (s.setMbox n v).pba = s.pba := rfl
@[simp] theorem State.setMbox_tt (s : State) (n : Nat) (v : Mailbox) : (s.setMbox n v).tt = s.tt := rfl
@[simp] theorem State.setMbox_tim (s : State) (n : Nat) (v : Mailbox) : (s.setMbox n v).tim = s.tim := rfl
@[simp] theorem State.setMbox_mcr (s : State) (n : Nat) (v : Mailbox) : (s.setMbox n v).mcr = s.mcr := rfl
@[simp] theorem State.setMbox_syn (s : State) (n : Nat) (v : Mailbox) : (s.setMbox n v).syn = s.syn := rfl
@[simp] theorem State.setMbox_mix (s : State) (n : Nat) (v : Mailbox) : (s.setMbox n v).mix = s.mix := rfl
@[simp] theorem State.setMbox_macA (s : State) (n : Nat) (v : Mailbox) : (s.setMbox n v).macA = s.macA := rfl
@[simp] theorem State.setMbox_macB (s : State) (n : Nat) (v : Mailbox) : (s.setMbox n v).macB = s.macB := rfl
@[simp] theorem State.setMbox_mdio (s : State) (n : Nat) (v : Mailbox) : (s.setMbox n v).mdio = s.mdio := rfl
@[simp] theorem State.setMbox_stx (s : State) (n : Nat) (v : Mailbox) : (s.setMbox n v).stx = s.stx := rfl
@[simp] theorem State.setMbox_eng (s : State) (n : Nat) (v : Mailbox) : (s.setMbox n v).eng = s.eng := rfl
@[simp] theorem State.setMbox_pool (s : State) (n : Nat) (v : Mailbox) : (s.setMbox n v).pool = s.pool := rfl
@[simp] theorem State.setMbox_srx (s : State) (n : Nat) (v : Mailbox) : (s.setMbox n v).srx = s.srx := rfl
@[simp] theorem State.setMbox_dpc (s : State) (n : Nat) (v : Mailbox) : (s.setMbox n v).dpc = s.dpc := rfl
@[simp] theorem State.setMbox_mbox (s : State) (n : Nat) (v : Mailbox) :
    (s.setMbox n v).mbox = sset mboxReset s.mbox n v := rfl
@[simp] theorem State.setMbox_hrx (s : State) (n : Nat) (v : Mailbox) : (s.setMbox n v).hrx = s.hrx := rfl
@[simp] theorem State.setMbox_ring (s : State) (n : Nat) (v : Mailbox) : (s.setMbox n v).ring = s.ring := rfl
@[simp] theorem State.setMbox_ftxTurn (s : State) (n : Nat) (v : Mailbox) : (s.setMbox n v).ftxTurn = s.ftxTurn := rfl
@[simp] theorem State.setMbox_cmd (s : State) (n : Nat) (v : Mailbox) : (s.setMbox n v).cmd = s.cmd := rfl
@[simp] theorem State.setMbox_sap (s : State) (n : Nat) (v : Mailbox) : (s.setMbox n v).sap = s.sap := rfl
@[simp] theorem State.setMbox_asrc (s : State) (n : Nat) (v : Mailbox) : (s.setMbox n v).asrc = s.asrc := rfl
@[simp] theorem State.setMbox_pwr (s : State) (n : Nat) (v : Mailbox) : (s.setMbox n v).pwr = s.pwr := rfl
@[simp] theorem State.setMbox_pair (s : State) (n : Nat) (v : Mailbox) : (s.setMbox n v).pair = s.pair := rfl
@[simp] theorem State.setMbox_pmu (s : State) (n : Nat) (v : Mailbox) : (s.setMbox n v).pmu = s.pmu := rfl
@[simp] theorem State.setMbox_mgt (s : State) (n : Nat) (v : Mailbox) : (s.setMbox n v).mgt = s.mgt := rfl
@[simp] theorem State.setMbox_pci (s : State) (n : Nat) (v : Mailbox) : (s.setMbox n v).pci = s.pci := rfl
@[simp] theorem State.setMbox_sst (s : State) (n : Nat) (v : Mailbox) : (s.setMbox n v).sst = s.sst := rfl
@[simp] theorem State.setMbox_msixEn (s : State) (n : Nat) (v : Mailbox) : (s.setMbox n v).msixEn = s.msixEn := rfl
@[simp] theorem State.setMbox_intDis (s : State) (n : Nat) (v : Mailbox) : (s.setMbox n v).intDis = s.intDis := rfl
@[simp] theorem State.setMbox_reply (s : State) (n : Nat) (v : Mailbox) : (s.setMbox n v).reply = s.reply := rfl
@[simp] theorem State.setMbox_free (s : State) (n : Nat) (v : Mailbox) : (s.setMbox n v).free = s.free := rfl
@[simp] theorem State.setMbox_out (s : State) (n : Nat) (v : Mailbox) : (s.setMbox n v).out = s.out := rfl
@[simp] theorem State.setMbox_pending (s : State) (n : Nat) (v : Mailbox) : (s.setMbox n v).pending = s.pending := rfl

@[simp] theorem State.setRing_member (s : State) (p : Nat) (r : Ring) : (s.setRing p r).member = s.member := rfl
@[simp] theorem State.setRing_reg (s : State) (p : Nat) (r : Ring) : (s.setRing p r).reg = s.reg := rfl
@[simp] theorem State.setRing_due (s : State) (p : Nat) (r : Ring) : (s.setRing p r).due = s.due := rfl
@[simp] theorem State.setRing_pba (s : State) (p : Nat) (r : Ring) : (s.setRing p r).pba = s.pba := rfl
@[simp] theorem State.setRing_tt (s : State) (p : Nat) (r : Ring) : (s.setRing p r).tt = s.tt := rfl
@[simp] theorem State.setRing_tim (s : State) (p : Nat) (r : Ring) : (s.setRing p r).tim = s.tim := rfl
@[simp] theorem State.setRing_mcr (s : State) (p : Nat) (r : Ring) : (s.setRing p r).mcr = s.mcr := rfl
@[simp] theorem State.setRing_syn (s : State) (p : Nat) (r : Ring) : (s.setRing p r).syn = s.syn := rfl
@[simp] theorem State.setRing_mix (s : State) (p : Nat) (r : Ring) : (s.setRing p r).mix = s.mix := rfl
@[simp] theorem State.setRing_macA (s : State) (p : Nat) (r : Ring) : (s.setRing p r).macA = s.macA := rfl
@[simp] theorem State.setRing_macB (s : State) (p : Nat) (r : Ring) : (s.setRing p r).macB = s.macB := rfl
@[simp] theorem State.setRing_mdio (s : State) (p : Nat) (r : Ring) : (s.setRing p r).mdio = s.mdio := rfl
@[simp] theorem State.setRing_stx (s : State) (p : Nat) (r : Ring) : (s.setRing p r).stx = s.stx := rfl
@[simp] theorem State.setRing_eng (s : State) (p : Nat) (r : Ring) : (s.setRing p r).eng = s.eng := rfl
@[simp] theorem State.setRing_pool (s : State) (p : Nat) (r : Ring) : (s.setRing p r).pool = s.pool := rfl
@[simp] theorem State.setRing_srx (s : State) (p : Nat) (r : Ring) : (s.setRing p r).srx = s.srx := rfl
@[simp] theorem State.setRing_dpc (s : State) (p : Nat) (r : Ring) : (s.setRing p r).dpc = s.dpc := rfl
@[simp] theorem State.setRing_mbox (s : State) (p : Nat) (r : Ring) : (s.setRing p r).mbox = s.mbox := rfl
@[simp] theorem State.setRing_hrx (s : State) (p : Nat) (r : Ring) : (s.setRing p r).hrx = s.hrx := rfl
@[simp] theorem State.setRing_ring (s : State) (p : Nat) (r : Ring) :
    (s.setRing p r).ring = sset ringReset s.ring p r := rfl
@[simp] theorem State.setRing_ftxTurn (s : State) (p : Nat) (r : Ring) : (s.setRing p r).ftxTurn = s.ftxTurn := rfl
@[simp] theorem State.setRing_cmd (s : State) (p : Nat) (r : Ring) : (s.setRing p r).cmd = s.cmd := rfl
@[simp] theorem State.setRing_sap (s : State) (p : Nat) (r : Ring) : (s.setRing p r).sap = s.sap := rfl
@[simp] theorem State.setRing_asrc (s : State) (p : Nat) (r : Ring) : (s.setRing p r).asrc = s.asrc := rfl
@[simp] theorem State.setRing_pwr (s : State) (p : Nat) (r : Ring) : (s.setRing p r).pwr = s.pwr := rfl
@[simp] theorem State.setRing_pair (s : State) (p : Nat) (r : Ring) : (s.setRing p r).pair = s.pair := rfl
@[simp] theorem State.setRing_pmu (s : State) (p : Nat) (r : Ring) : (s.setRing p r).pmu = s.pmu := rfl
@[simp] theorem State.setRing_mgt (s : State) (p : Nat) (r : Ring) : (s.setRing p r).mgt = s.mgt := rfl
@[simp] theorem State.setRing_pci (s : State) (p : Nat) (r : Ring) : (s.setRing p r).pci = s.pci := rfl
@[simp] theorem State.setRing_sst (s : State) (p : Nat) (r : Ring) : (s.setRing p r).sst = s.sst := rfl
@[simp] theorem State.setRing_msixEn (s : State) (p : Nat) (r : Ring) : (s.setRing p r).msixEn = s.msixEn := rfl
@[simp] theorem State.setRing_intDis (s : State) (p : Nat) (r : Ring) : (s.setRing p r).intDis = s.intDis := rfl
@[simp] theorem State.setRing_reply (s : State) (p : Nat) (r : Ring) : (s.setRing p r).reply = s.reply := rfl
@[simp] theorem State.setRing_free (s : State) (p : Nat) (r : Ring) : (s.setRing p r).free = s.free := rfl
@[simp] theorem State.setRing_out (s : State) (p : Nat) (r : Ring) : (s.setRing p r).out = s.out := rfl
@[simp] theorem State.setRing_pending (s : State) (p : Nat) (r : Ring) : (s.setRing p r).pending = s.pending := rfl

@[simp] theorem State.setSap_member (s : State) (p : Nat) (v : Sap) : (s.setSap p v).member = s.member := rfl
@[simp] theorem State.setSap_reg (s : State) (p : Nat) (v : Sap) : (s.setSap p v).reg = s.reg := rfl
@[simp] theorem State.setSap_due (s : State) (p : Nat) (v : Sap) : (s.setSap p v).due = s.due := rfl
@[simp] theorem State.setSap_pba (s : State) (p : Nat) (v : Sap) : (s.setSap p v).pba = s.pba := rfl
@[simp] theorem State.setSap_tt (s : State) (p : Nat) (v : Sap) : (s.setSap p v).tt = s.tt := rfl
@[simp] theorem State.setSap_tim (s : State) (p : Nat) (v : Sap) : (s.setSap p v).tim = s.tim := rfl
@[simp] theorem State.setSap_mcr (s : State) (p : Nat) (v : Sap) : (s.setSap p v).mcr = s.mcr := rfl
@[simp] theorem State.setSap_syn (s : State) (p : Nat) (v : Sap) : (s.setSap p v).syn = s.syn := rfl
@[simp] theorem State.setSap_mix (s : State) (p : Nat) (v : Sap) : (s.setSap p v).mix = s.mix := rfl
@[simp] theorem State.setSap_macA (s : State) (p : Nat) (v : Sap) : (s.setSap p v).macA = s.macA := rfl
@[simp] theorem State.setSap_macB (s : State) (p : Nat) (v : Sap) : (s.setSap p v).macB = s.macB := rfl
@[simp] theorem State.setSap_mdio (s : State) (p : Nat) (v : Sap) : (s.setSap p v).mdio = s.mdio := rfl
@[simp] theorem State.setSap_stx (s : State) (p : Nat) (v : Sap) : (s.setSap p v).stx = s.stx := rfl
@[simp] theorem State.setSap_eng (s : State) (p : Nat) (v : Sap) : (s.setSap p v).eng = s.eng := rfl
@[simp] theorem State.setSap_pool (s : State) (p : Nat) (v : Sap) : (s.setSap p v).pool = s.pool := rfl
@[simp] theorem State.setSap_srx (s : State) (p : Nat) (v : Sap) : (s.setSap p v).srx = s.srx := rfl
@[simp] theorem State.setSap_dpc (s : State) (p : Nat) (v : Sap) : (s.setSap p v).dpc = s.dpc := rfl
@[simp] theorem State.setSap_mbox (s : State) (p : Nat) (v : Sap) : (s.setSap p v).mbox = s.mbox := rfl
@[simp] theorem State.setSap_hrx (s : State) (p : Nat) (v : Sap) : (s.setSap p v).hrx = s.hrx := rfl
@[simp] theorem State.setSap_ring (s : State) (p : Nat) (v : Sap) : (s.setSap p v).ring = s.ring := rfl
@[simp] theorem State.setSap_ftxTurn (s : State) (p : Nat) (v : Sap) : (s.setSap p v).ftxTurn = s.ftxTurn := rfl
@[simp] theorem State.setSap_cmd (s : State) (p : Nat) (v : Sap) : (s.setSap p v).cmd = s.cmd := rfl
@[simp] theorem State.setSap_sap (s : State) (p : Nat) (v : Sap) : (s.setSap p v).sap = sset sapReset s.sap p v := rfl
@[simp] theorem State.setSap_asrc (s : State) (p : Nat) (v : Sap) : (s.setSap p v).asrc = s.asrc := rfl
@[simp] theorem State.setSap_pwr (s : State) (p : Nat) (v : Sap) : (s.setSap p v).pwr = s.pwr := rfl
@[simp] theorem State.setSap_pair (s : State) (p : Nat) (v : Sap) : (s.setSap p v).pair = s.pair := rfl
@[simp] theorem State.setSap_pmu (s : State) (p : Nat) (v : Sap) : (s.setSap p v).pmu = s.pmu := rfl
@[simp] theorem State.setSap_mgt (s : State) (p : Nat) (v : Sap) : (s.setSap p v).mgt = s.mgt := rfl
@[simp] theorem State.setSap_pci (s : State) (p : Nat) (v : Sap) : (s.setSap p v).pci = s.pci := rfl
@[simp] theorem State.setSap_sst (s : State) (p : Nat) (v : Sap) : (s.setSap p v).sst = s.sst := rfl
@[simp] theorem State.setSap_msixEn (s : State) (p : Nat) (v : Sap) : (s.setSap p v).msixEn = s.msixEn := rfl
@[simp] theorem State.setSap_intDis (s : State) (p : Nat) (v : Sap) : (s.setSap p v).intDis = s.intDis := rfl
@[simp] theorem State.setSap_reply (s : State) (p : Nat) (v : Sap) : (s.setSap p v).reply = s.reply := rfl
@[simp] theorem State.setSap_free (s : State) (p : Nat) (v : Sap) : (s.setSap p v).free = s.free := rfl
@[simp] theorem State.setSap_out (s : State) (p : Nat) (v : Sap) : (s.setSap p v).out = s.out := rfl
@[simp] theorem State.setSap_pending (s : State) (p : Nat) (v : Sap) : (s.setSap p v).pending = s.pending := rfl

@[simp] theorem State.setCh_member (s : State) (n : Nat) (v : AsrcCh) : (s.setCh n v).member = s.member := rfl
@[simp] theorem State.setCh_reg (s : State) (n : Nat) (v : AsrcCh) : (s.setCh n v).reg = s.reg := rfl
@[simp] theorem State.setCh_due (s : State) (n : Nat) (v : AsrcCh) : (s.setCh n v).due = s.due := rfl
@[simp] theorem State.setCh_pba (s : State) (n : Nat) (v : AsrcCh) : (s.setCh n v).pba = s.pba := rfl
@[simp] theorem State.setCh_tt (s : State) (n : Nat) (v : AsrcCh) : (s.setCh n v).tt = s.tt := rfl
@[simp] theorem State.setCh_tim (s : State) (n : Nat) (v : AsrcCh) : (s.setCh n v).tim = s.tim := rfl
@[simp] theorem State.setCh_mcr (s : State) (n : Nat) (v : AsrcCh) : (s.setCh n v).mcr = s.mcr := rfl
@[simp] theorem State.setCh_syn (s : State) (n : Nat) (v : AsrcCh) : (s.setCh n v).syn = s.syn := rfl
@[simp] theorem State.setCh_mix (s : State) (n : Nat) (v : AsrcCh) : (s.setCh n v).mix = s.mix := rfl
@[simp] theorem State.setCh_macA (s : State) (n : Nat) (v : AsrcCh) : (s.setCh n v).macA = s.macA := rfl
@[simp] theorem State.setCh_macB (s : State) (n : Nat) (v : AsrcCh) : (s.setCh n v).macB = s.macB := rfl
@[simp] theorem State.setCh_mdio (s : State) (n : Nat) (v : AsrcCh) : (s.setCh n v).mdio = s.mdio := rfl
@[simp] theorem State.setCh_stx (s : State) (n : Nat) (v : AsrcCh) : (s.setCh n v).stx = s.stx := rfl
@[simp] theorem State.setCh_eng (s : State) (n : Nat) (v : AsrcCh) : (s.setCh n v).eng = s.eng := rfl
@[simp] theorem State.setCh_pool (s : State) (n : Nat) (v : AsrcCh) : (s.setCh n v).pool = s.pool := rfl
@[simp] theorem State.setCh_srx (s : State) (n : Nat) (v : AsrcCh) : (s.setCh n v).srx = s.srx := rfl
@[simp] theorem State.setCh_dpc (s : State) (n : Nat) (v : AsrcCh) : (s.setCh n v).dpc = s.dpc := rfl
@[simp] theorem State.setCh_mbox (s : State) (n : Nat) (v : AsrcCh) : (s.setCh n v).mbox = s.mbox := rfl
@[simp] theorem State.setCh_hrx (s : State) (n : Nat) (v : AsrcCh) : (s.setCh n v).hrx = s.hrx := rfl
@[simp] theorem State.setCh_ring (s : State) (n : Nat) (v : AsrcCh) : (s.setCh n v).ring = s.ring := rfl
@[simp] theorem State.setCh_ftxTurn (s : State) (n : Nat) (v : AsrcCh) : (s.setCh n v).ftxTurn = s.ftxTurn := rfl
@[simp] theorem State.setCh_cmd (s : State) (n : Nat) (v : AsrcCh) : (s.setCh n v).cmd = s.cmd := rfl
@[simp] theorem State.setCh_sap (s : State) (n : Nat) (v : AsrcCh) : (s.setCh n v).sap = s.sap := rfl
@[simp] theorem State.setCh_asrc (s : State) (n : Nat) (v : AsrcCh) :
    (s.setCh n v).asrc = { s.asrc with ch := sset asrcReset s.asrc.ch n v } := rfl
@[simp] theorem State.setCh_pwr (s : State) (n : Nat) (v : AsrcCh) : (s.setCh n v).pwr = s.pwr := rfl
@[simp] theorem State.setCh_pair (s : State) (n : Nat) (v : AsrcCh) : (s.setCh n v).pair = s.pair := rfl
@[simp] theorem State.setCh_pmu (s : State) (n : Nat) (v : AsrcCh) : (s.setCh n v).pmu = s.pmu := rfl
@[simp] theorem State.setCh_mgt (s : State) (n : Nat) (v : AsrcCh) : (s.setCh n v).mgt = s.mgt := rfl
@[simp] theorem State.setCh_pci (s : State) (n : Nat) (v : AsrcCh) : (s.setCh n v).pci = s.pci := rfl
@[simp] theorem State.setCh_sst (s : State) (n : Nat) (v : AsrcCh) : (s.setCh n v).sst = s.sst := rfl
@[simp] theorem State.setCh_msixEn (s : State) (n : Nat) (v : AsrcCh) : (s.setCh n v).msixEn = s.msixEn := rfl
@[simp] theorem State.setCh_intDis (s : State) (n : Nat) (v : AsrcCh) : (s.setCh n v).intDis = s.intDis := rfl
@[simp] theorem State.setCh_reply (s : State) (n : Nat) (v : AsrcCh) : (s.setCh n v).reply = s.reply := rfl
@[simp] theorem State.setCh_free (s : State) (n : Nat) (v : AsrcCh) : (s.setCh n v).free = s.free := rfl
@[simp] theorem State.setCh_out (s : State) (n : Nat) (v : AsrcCh) : (s.setCh n v).out = s.out := rfl
@[simp] theorem State.setCh_pending (s : State) (n : Nat) (v : AsrcCh) : (s.setCh n v).pending = s.pending := rfl

@[simp] theorem State.setTrk_member (s : State) (p : Nat) (v : Tracker) : (s.setTrk p v).member = s.member := rfl
@[simp] theorem State.setTrk_reg (s : State) (p : Nat) (v : Tracker) : (s.setTrk p v).reg = s.reg := rfl
@[simp] theorem State.setTrk_due (s : State) (p : Nat) (v : Tracker) : (s.setTrk p v).due = s.due := rfl
@[simp] theorem State.setTrk_pba (s : State) (p : Nat) (v : Tracker) : (s.setTrk p v).pba = s.pba := rfl
@[simp] theorem State.setTrk_tt (s : State) (p : Nat) (v : Tracker) : (s.setTrk p v).tt = s.tt := rfl
@[simp] theorem State.setTrk_tim (s : State) (p : Nat) (v : Tracker) : (s.setTrk p v).tim = s.tim := rfl
@[simp] theorem State.setTrk_mcr (s : State) (p : Nat) (v : Tracker) : (s.setTrk p v).mcr = s.mcr := rfl
@[simp] theorem State.setTrk_syn (s : State) (p : Nat) (v : Tracker) : (s.setTrk p v).syn = s.syn := rfl
@[simp] theorem State.setTrk_mix (s : State) (p : Nat) (v : Tracker) : (s.setTrk p v).mix = s.mix := rfl
@[simp] theorem State.setTrk_macA (s : State) (p : Nat) (v : Tracker) : (s.setTrk p v).macA = s.macA := rfl
@[simp] theorem State.setTrk_macB (s : State) (p : Nat) (v : Tracker) : (s.setTrk p v).macB = s.macB := rfl
@[simp] theorem State.setTrk_mdio (s : State) (p : Nat) (v : Tracker) : (s.setTrk p v).mdio = s.mdio := rfl
@[simp] theorem State.setTrk_stx (s : State) (p : Nat) (v : Tracker) : (s.setTrk p v).stx = s.stx := rfl
@[simp] theorem State.setTrk_eng (s : State) (p : Nat) (v : Tracker) : (s.setTrk p v).eng = s.eng := rfl
@[simp] theorem State.setTrk_pool (s : State) (p : Nat) (v : Tracker) : (s.setTrk p v).pool = s.pool := rfl
@[simp] theorem State.setTrk_srx (s : State) (p : Nat) (v : Tracker) : (s.setTrk p v).srx = s.srx := rfl
@[simp] theorem State.setTrk_dpc (s : State) (p : Nat) (v : Tracker) : (s.setTrk p v).dpc = s.dpc := rfl
@[simp] theorem State.setTrk_mbox (s : State) (p : Nat) (v : Tracker) : (s.setTrk p v).mbox = s.mbox := rfl
@[simp] theorem State.setTrk_hrx (s : State) (p : Nat) (v : Tracker) : (s.setTrk p v).hrx = s.hrx := rfl
@[simp] theorem State.setTrk_ring (s : State) (p : Nat) (v : Tracker) : (s.setTrk p v).ring = s.ring := rfl
@[simp] theorem State.setTrk_ftxTurn (s : State) (p : Nat) (v : Tracker) : (s.setTrk p v).ftxTurn = s.ftxTurn := rfl
@[simp] theorem State.setTrk_cmd (s : State) (p : Nat) (v : Tracker) : (s.setTrk p v).cmd = s.cmd := rfl
@[simp] theorem State.setTrk_sap (s : State) (p : Nat) (v : Tracker) : (s.setTrk p v).sap = s.sap := rfl
@[simp] theorem State.setTrk_asrc (s : State) (p : Nat) (v : Tracker) :
    (s.setTrk p v).asrc = { s.asrc with trk := sset trkReset s.asrc.trk p v } := rfl
@[simp] theorem State.setTrk_pwr (s : State) (p : Nat) (v : Tracker) : (s.setTrk p v).pwr = s.pwr := rfl
@[simp] theorem State.setTrk_pair (s : State) (p : Nat) (v : Tracker) : (s.setTrk p v).pair = s.pair := rfl
@[simp] theorem State.setTrk_pmu (s : State) (p : Nat) (v : Tracker) : (s.setTrk p v).pmu = s.pmu := rfl
@[simp] theorem State.setTrk_mgt (s : State) (p : Nat) (v : Tracker) : (s.setTrk p v).mgt = s.mgt := rfl
@[simp] theorem State.setTrk_pci (s : State) (p : Nat) (v : Tracker) : (s.setTrk p v).pci = s.pci := rfl
@[simp] theorem State.setTrk_sst (s : State) (p : Nat) (v : Tracker) : (s.setTrk p v).sst = s.sst := rfl
@[simp] theorem State.setTrk_msixEn (s : State) (p : Nat) (v : Tracker) : (s.setTrk p v).msixEn = s.msixEn := rfl
@[simp] theorem State.setTrk_intDis (s : State) (p : Nat) (v : Tracker) : (s.setTrk p v).intDis = s.intDis := rfl
@[simp] theorem State.setTrk_reply (s : State) (p : Nat) (v : Tracker) : (s.setTrk p v).reply = s.reply := rfl
@[simp] theorem State.setTrk_free (s : State) (p : Nat) (v : Tracker) : (s.setTrk p v).free = s.free := rfl
@[simp] theorem State.setTrk_out (s : State) (p : Nat) (v : Tracker) : (s.setTrk p v).out = s.out := rfl
@[simp] theorem State.setTrk_pending (s : State) (p : Nat) (v : Tracker) : (s.setTrk p v).pending = s.pending := rfl

@[simp] theorem State.pdGood_member (s : State) : (s.pdGood).member = s.member := rfl
@[simp] theorem State.pdGood_reg (s : State) : (s.pdGood).reg = s.reg := rfl
@[simp] theorem State.pdGood_due (s : State) : (s.pdGood).due = s.due := rfl
@[simp] theorem State.pdGood_pba (s : State) : (s.pdGood).pba = s.pba := rfl
@[simp] theorem State.pdGood_tt (s : State) : (s.pdGood).tt = s.tt := rfl
@[simp] theorem State.pdGood_tim (s : State) : (s.pdGood).tim = s.tim := rfl
@[simp] theorem State.pdGood_mcr (s : State) : (s.pdGood).mcr = s.mcr := rfl
@[simp] theorem State.pdGood_syn (s : State) : (s.pdGood).syn = s.syn := rfl
@[simp] theorem State.pdGood_mix (s : State) : (s.pdGood).mix = s.mix := rfl
@[simp] theorem State.pdGood_macA (s : State) : (s.pdGood).macA = s.macA := rfl
@[simp] theorem State.pdGood_macB (s : State) : (s.pdGood).macB = s.macB := rfl
@[simp] theorem State.pdGood_mdio (s : State) : (s.pdGood).mdio = s.mdio := rfl
@[simp] theorem State.pdGood_stx (s : State) : (s.pdGood).stx = s.stx := rfl
@[simp] theorem State.pdGood_eng (s : State) : (s.pdGood).eng = s.eng := rfl
@[simp] theorem State.pdGood_pool (s : State) : (s.pdGood).pool = s.pool := rfl
@[simp] theorem State.pdGood_srx (s : State) : (s.pdGood).srx = s.srx := rfl
@[simp] theorem State.pdGood_dpc (s : State) : (s.pdGood).dpc = s.dpc := rfl
@[simp] theorem State.pdGood_mbox (s : State) : (s.pdGood).mbox = s.mbox := rfl
@[simp] theorem State.pdGood_hrx (s : State) : (s.pdGood).hrx = s.hrx := rfl
@[simp] theorem State.pdGood_ring (s : State) : (s.pdGood).ring = s.ring := rfl
@[simp] theorem State.pdGood_ftxTurn (s : State) : (s.pdGood).ftxTurn = s.ftxTurn := rfl
@[simp] theorem State.pdGood_cmd (s : State) : (s.pdGood).cmd = s.cmd := rfl
@[simp] theorem State.pdGood_sap (s : State) : (s.pdGood).sap = s.sap := rfl
@[simp] theorem State.pdGood_asrc (s : State) : (s.pdGood).asrc = s.asrc := rfl
@[simp] theorem State.pdGood_pwr (s : State) :
    (s.pdGood).pwr = { s.pwr with linkFails := 0, linkWindow := false } := rfl
@[simp] theorem State.pdGood_pair (s : State) : (s.pdGood).pair = s.pair := rfl
@[simp] theorem State.pdGood_pmu (s : State) : (s.pdGood).pmu = s.pmu := rfl
@[simp] theorem State.pdGood_mgt (s : State) : (s.pdGood).mgt = s.mgt := rfl
@[simp] theorem State.pdGood_pci (s : State) : (s.pdGood).pci = s.pci := rfl
@[simp] theorem State.pdGood_sst (s : State) : (s.pdGood).sst = s.sst := rfl
@[simp] theorem State.pdGood_msixEn (s : State) : (s.pdGood).msixEn = s.msixEn := rfl
@[simp] theorem State.pdGood_intDis (s : State) : (s.pdGood).intDis = s.intDis := rfl
@[simp] theorem State.pdGood_reply (s : State) : (s.pdGood).reply = s.reply := rfl
@[simp] theorem State.pdGood_free (s : State) : (s.pdGood).free = s.free := rfl
@[simp] theorem State.pdGood_out (s : State) : (s.pdGood).out = s.out := rfl
@[simp] theorem State.pdGood_pending (s : State) : (s.pdGood).pending = s.pending := rfl

@[simp] theorem State.modPair_member (s : State) (f : Pair → Pair) : (s.modPair f).member = s.member := rfl
@[simp] theorem State.modPair_reg (s : State) (f : Pair → Pair) : (s.modPair f).reg = s.reg := rfl
@[simp] theorem State.modPair_due (s : State) (f : Pair → Pair) : (s.modPair f).due = s.due := rfl
@[simp] theorem State.modPair_pba (s : State) (f : Pair → Pair) : (s.modPair f).pba = s.pba := rfl
@[simp] theorem State.modPair_tt (s : State) (f : Pair → Pair) : (s.modPair f).tt = s.tt := rfl
@[simp] theorem State.modPair_tim (s : State) (f : Pair → Pair) : (s.modPair f).tim = s.tim := rfl
@[simp] theorem State.modPair_mcr (s : State) (f : Pair → Pair) : (s.modPair f).mcr = s.mcr := rfl
@[simp] theorem State.modPair_syn (s : State) (f : Pair → Pair) : (s.modPair f).syn = s.syn := rfl
@[simp] theorem State.modPair_mix (s : State) (f : Pair → Pair) : (s.modPair f).mix = s.mix := rfl
@[simp] theorem State.modPair_macA (s : State) (f : Pair → Pair) : (s.modPair f).macA = s.macA := rfl
@[simp] theorem State.modPair_macB (s : State) (f : Pair → Pair) : (s.modPair f).macB = s.macB := rfl
@[simp] theorem State.modPair_mdio (s : State) (f : Pair → Pair) : (s.modPair f).mdio = s.mdio := rfl
@[simp] theorem State.modPair_stx (s : State) (f : Pair → Pair) : (s.modPair f).stx = s.stx := rfl
@[simp] theorem State.modPair_eng (s : State) (f : Pair → Pair) : (s.modPair f).eng = s.eng := rfl
@[simp] theorem State.modPair_pool (s : State) (f : Pair → Pair) : (s.modPair f).pool = s.pool := rfl
@[simp] theorem State.modPair_srx (s : State) (f : Pair → Pair) : (s.modPair f).srx = s.srx := rfl
@[simp] theorem State.modPair_dpc (s : State) (f : Pair → Pair) : (s.modPair f).dpc = s.dpc := rfl
@[simp] theorem State.modPair_mbox (s : State) (f : Pair → Pair) : (s.modPair f).mbox = s.mbox := rfl
@[simp] theorem State.modPair_hrx (s : State) (f : Pair → Pair) : (s.modPair f).hrx = s.hrx := rfl
@[simp] theorem State.modPair_ring (s : State) (f : Pair → Pair) : (s.modPair f).ring = s.ring := rfl
@[simp] theorem State.modPair_ftxTurn (s : State) (f : Pair → Pair) : (s.modPair f).ftxTurn = s.ftxTurn := rfl
@[simp] theorem State.modPair_cmd (s : State) (f : Pair → Pair) : (s.modPair f).cmd = s.cmd := rfl
@[simp] theorem State.modPair_sap (s : State) (f : Pair → Pair) : (s.modPair f).sap = s.sap := rfl
@[simp] theorem State.modPair_asrc (s : State) (f : Pair → Pair) : (s.modPair f).asrc = s.asrc := rfl
@[simp] theorem State.modPair_pwr (s : State) (f : Pair → Pair) : (s.modPair f).pwr = s.pwr := rfl
@[simp] theorem State.modPair_pair (s : State) (f : Pair → Pair) : (s.modPair f).pair = f s.pair := rfl
@[simp] theorem State.modPair_pmu (s : State) (f : Pair → Pair) : (s.modPair f).pmu = s.pmu := rfl
@[simp] theorem State.modPair_mgt (s : State) (f : Pair → Pair) : (s.modPair f).mgt = s.mgt := rfl
@[simp] theorem State.modPair_pci (s : State) (f : Pair → Pair) : (s.modPair f).pci = s.pci := rfl
@[simp] theorem State.modPair_sst (s : State) (f : Pair → Pair) : (s.modPair f).sst = s.sst := rfl
@[simp] theorem State.modPair_msixEn (s : State) (f : Pair → Pair) : (s.modPair f).msixEn = s.msixEn := rfl
@[simp] theorem State.modPair_intDis (s : State) (f : Pair → Pair) : (s.modPair f).intDis = s.intDis := rfl
@[simp] theorem State.modPair_reply (s : State) (f : Pair → Pair) : (s.modPair f).reply = s.reply := rfl
@[simp] theorem State.modPair_free (s : State) (f : Pair → Pair) : (s.modPair f).free = s.free := rfl
@[simp] theorem State.modPair_out (s : State) (f : Pair → Pair) : (s.modPair f).out = s.out := rfl
@[simp] theorem State.modPair_pending (s : State) (f : Pair → Pair) : (s.modPair f).pending = s.pending := rfl

@[simp] theorem State.setFlash_member (s : State) (o : Nat) (w : Word) : (s.setFlash o w).member = s.member := rfl
@[simp] theorem State.setFlash_reg (s : State) (o : Nat) (w : Word) : (s.setFlash o w).reg = s.reg := rfl
@[simp] theorem State.setFlash_due (s : State) (o : Nat) (w : Word) : (s.setFlash o w).due = s.due := rfl
@[simp] theorem State.setFlash_pba (s : State) (o : Nat) (w : Word) : (s.setFlash o w).pba = s.pba := rfl
@[simp] theorem State.setFlash_tt (s : State) (o : Nat) (w : Word) : (s.setFlash o w).tt = s.tt := rfl
@[simp] theorem State.setFlash_tim (s : State) (o : Nat) (w : Word) : (s.setFlash o w).tim = s.tim := rfl
@[simp] theorem State.setFlash_mcr (s : State) (o : Nat) (w : Word) : (s.setFlash o w).mcr = s.mcr := rfl
@[simp] theorem State.setFlash_syn (s : State) (o : Nat) (w : Word) : (s.setFlash o w).syn = s.syn := rfl
@[simp] theorem State.setFlash_mix (s : State) (o : Nat) (w : Word) : (s.setFlash o w).mix = s.mix := rfl
@[simp] theorem State.setFlash_macA (s : State) (o : Nat) (w : Word) : (s.setFlash o w).macA = s.macA := rfl
@[simp] theorem State.setFlash_macB (s : State) (o : Nat) (w : Word) : (s.setFlash o w).macB = s.macB := rfl
@[simp] theorem State.setFlash_mdio (s : State) (o : Nat) (w : Word) : (s.setFlash o w).mdio = s.mdio := rfl
@[simp] theorem State.setFlash_stx (s : State) (o : Nat) (w : Word) : (s.setFlash o w).stx = s.stx := rfl
@[simp] theorem State.setFlash_eng (s : State) (o : Nat) (w : Word) : (s.setFlash o w).eng = s.eng := rfl
@[simp] theorem State.setFlash_pool (s : State) (o : Nat) (w : Word) : (s.setFlash o w).pool = s.pool := rfl
@[simp] theorem State.setFlash_srx (s : State) (o : Nat) (w : Word) : (s.setFlash o w).srx = s.srx := rfl
@[simp] theorem State.setFlash_dpc (s : State) (o : Nat) (w : Word) : (s.setFlash o w).dpc = s.dpc := rfl
@[simp] theorem State.setFlash_mbox (s : State) (o : Nat) (w : Word) : (s.setFlash o w).mbox = s.mbox := rfl
@[simp] theorem State.setFlash_hrx (s : State) (o : Nat) (w : Word) : (s.setFlash o w).hrx = s.hrx := rfl
@[simp] theorem State.setFlash_ring (s : State) (o : Nat) (w : Word) : (s.setFlash o w).ring = s.ring := rfl
@[simp] theorem State.setFlash_ftxTurn (s : State) (o : Nat) (w : Word) : (s.setFlash o w).ftxTurn = s.ftxTurn := rfl
@[simp] theorem State.setFlash_cmd (s : State) (o : Nat) (w : Word) : (s.setFlash o w).cmd = s.cmd := rfl
@[simp] theorem State.setFlash_sap (s : State) (o : Nat) (w : Word) : (s.setFlash o w).sap = s.sap := rfl
@[simp] theorem State.setFlash_asrc (s : State) (o : Nat) (w : Word) : (s.setFlash o w).asrc = s.asrc := rfl
@[simp] theorem State.setFlash_pwr (s : State) (o : Nat) (w : Word) : (s.setFlash o w).pwr = s.pwr := rfl
@[simp] theorem State.setFlash_pair (s : State) (o : Nat) (w : Word) : (s.setFlash o w).pair = s.pair := rfl
@[simp] theorem State.setFlash_pmu (s : State) (o : Nat) (w : Word) : (s.setFlash o w).pmu = s.pmu := rfl
@[simp] theorem State.setFlash_mgt (s : State) (o : Nat) (w : Word) :
    (s.setFlash o w).mgt = { s.mgt with flash := sset Config.flashImage s.mgt.flash (o / 4) w } := rfl
@[simp] theorem State.setFlash_pci (s : State) (o : Nat) (w : Word) : (s.setFlash o w).pci = s.pci := rfl
@[simp] theorem State.setFlash_sst (s : State) (o : Nat) (w : Word) : (s.setFlash o w).sst = s.sst := rfl
@[simp] theorem State.setFlash_msixEn (s : State) (o : Nat) (w : Word) : (s.setFlash o w).msixEn = s.msixEn := rfl
@[simp] theorem State.setFlash_intDis (s : State) (o : Nat) (w : Word) : (s.setFlash o w).intDis = s.intDis := rfl
@[simp] theorem State.setFlash_reply (s : State) (o : Nat) (w : Word) : (s.setFlash o w).reply = s.reply := rfl
@[simp] theorem State.setFlash_free (s : State) (o : Nat) (w : Word) : (s.setFlash o w).free = s.free := rfl
@[simp] theorem State.setFlash_out (s : State) (o : Nat) (w : Word) : (s.setFlash o w).out = s.out := rfl
@[simp] theorem State.setFlash_pending (s : State) (o : Nat) (w : Word) : (s.setFlash o w).pending = s.pending := rfl

@[simp] theorem State.coreRestart_member (s : State) : (s.coreRestart).member = s.member := rfl
@[simp] theorem State.coreRestart_reg (s : State) : (s.coreRestart).reg = s.reg := rfl
@[simp] theorem State.coreRestart_due (s : State) : (s.coreRestart).due = s.due := rfl
@[simp] theorem State.coreRestart_pba (s : State) : (s.coreRestart).pba = s.pba := rfl
@[simp] theorem State.coreRestart_tt (s : State) : (s.coreRestart).tt = s.tt := rfl
@[simp] theorem State.coreRestart_tim (s : State) : (s.coreRestart).tim = s.tim := rfl
@[simp] theorem State.coreRestart_mcr (s : State) : (s.coreRestart).mcr = s.mcr := rfl
@[simp] theorem State.coreRestart_syn (s : State) : (s.coreRestart).syn = s.syn := rfl
@[simp] theorem State.coreRestart_mix (s : State) : (s.coreRestart).mix = s.mix := rfl
@[simp] theorem State.coreRestart_macA (s : State) : (s.coreRestart).macA = s.macA := rfl
@[simp] theorem State.coreRestart_macB (s : State) : (s.coreRestart).macB = s.macB := rfl
@[simp] theorem State.coreRestart_mdio (s : State) : (s.coreRestart).mdio = s.mdio := rfl
@[simp] theorem State.coreRestart_stx (s : State) : (s.coreRestart).stx = s.stx := rfl
@[simp] theorem State.coreRestart_eng (s : State) : (s.coreRestart).eng = s.eng := rfl
@[simp] theorem State.coreRestart_pool (s : State) : (s.coreRestart).pool = s.pool := rfl
@[simp] theorem State.coreRestart_srx (s : State) : (s.coreRestart).srx = s.srx := rfl
@[simp] theorem State.coreRestart_dpc (s : State) : (s.coreRestart).dpc = s.dpc := rfl
@[simp] theorem State.coreRestart_mbox (s : State) : (s.coreRestart).mbox = s.mbox := rfl
@[simp] theorem State.coreRestart_hrx (s : State) : (s.coreRestart).hrx = s.hrx := rfl
@[simp] theorem State.coreRestart_ring (s : State) : (s.coreRestart).ring = s.ring := rfl
@[simp] theorem State.coreRestart_ftxTurn (s : State) : (s.coreRestart).ftxTurn = s.ftxTurn := rfl
@[simp] theorem State.coreRestart_cmd (s : State) : (s.coreRestart).cmd = s.cmd := rfl
@[simp] theorem State.coreRestart_sap (s : State) : (s.coreRestart).sap = s.sap := rfl
@[simp] theorem State.coreRestart_asrc (s : State) : (s.coreRestart).asrc = s.asrc := rfl
@[simp] theorem State.coreRestart_pwr (s : State) : (s.coreRestart).pwr = s.pwr := rfl
@[simp] theorem State.coreRestart_pair (s : State) : (s.coreRestart).pair = s.pair := rfl
@[simp] theorem State.coreRestart_pmu (s : State) : (s.coreRestart).pmu = s.pmu := rfl
@[simp] theorem State.coreRestart_mgt (s : State) :
    (s.coreRestart).mgt = { s.mgt with ready := false, rebooting := true, sigbox := false } := rfl
@[simp] theorem State.coreRestart_pci (s : State) : (s.coreRestart).pci = s.pci := rfl
@[simp] theorem State.coreRestart_sst (s : State) : (s.coreRestart).sst = s.sst := rfl
@[simp] theorem State.coreRestart_msixEn (s : State) : (s.coreRestart).msixEn = s.msixEn := rfl
@[simp] theorem State.coreRestart_intDis (s : State) : (s.coreRestart).intDis = s.intDis := rfl
@[simp] theorem State.coreRestart_reply (s : State) : (s.coreRestart).reply = s.reply := rfl
@[simp] theorem State.coreRestart_free (s : State) : (s.coreRestart).free = s.free := rfl
@[simp] theorem State.coreRestart_out (s : State) : (s.coreRestart).out = s.out := rfl
@[simp] theorem State.coreRestart_pending (s : State) : (s.coreRestart).pending = s.pending := rfl

@[simp] theorem State.gpioEdge_member (s : State) (k : Nat) : (s.gpioEdge k).member = s.member := rfl
@[simp] theorem State.gpioEdge_reg (s : State) (k : Nat) : (s.gpioEdge k).reg = s.reg := rfl
@[simp] theorem State.gpioEdge_due (s : State) (k : Nat) : (s.gpioEdge k).due = s.due := rfl
@[simp] theorem State.gpioEdge_pba (s : State) (k : Nat) : (s.gpioEdge k).pba = s.pba := rfl
@[simp] theorem State.gpioEdge_tt (s : State) (k : Nat) : (s.gpioEdge k).tt = s.tt := rfl
@[simp] theorem State.gpioEdge_tim (s : State) (k : Nat) : (s.gpioEdge k).tim = s.tim := rfl
@[simp] theorem State.gpioEdge_mcr (s : State) (k : Nat) : (s.gpioEdge k).mcr = s.mcr := rfl
@[simp] theorem State.gpioEdge_syn (s : State) (k : Nat) : (s.gpioEdge k).syn = s.syn := rfl
@[simp] theorem State.gpioEdge_mix (s : State) (k : Nat) : (s.gpioEdge k).mix = s.mix := rfl
@[simp] theorem State.gpioEdge_macA (s : State) (k : Nat) : (s.gpioEdge k).macA = s.macA := rfl
@[simp] theorem State.gpioEdge_macB (s : State) (k : Nat) : (s.gpioEdge k).macB = s.macB := rfl
@[simp] theorem State.gpioEdge_mdio (s : State) (k : Nat) : (s.gpioEdge k).mdio = s.mdio := rfl
@[simp] theorem State.gpioEdge_stx (s : State) (k : Nat) : (s.gpioEdge k).stx = s.stx := rfl
@[simp] theorem State.gpioEdge_eng (s : State) (k : Nat) : (s.gpioEdge k).eng = s.eng := rfl
@[simp] theorem State.gpioEdge_pool (s : State) (k : Nat) : (s.gpioEdge k).pool = s.pool := rfl
@[simp] theorem State.gpioEdge_srx (s : State) (k : Nat) : (s.gpioEdge k).srx = s.srx := rfl
@[simp] theorem State.gpioEdge_dpc (s : State) (k : Nat) : (s.gpioEdge k).dpc = s.dpc := rfl
@[simp] theorem State.gpioEdge_mbox (s : State) (k : Nat) : (s.gpioEdge k).mbox = s.mbox := rfl
@[simp] theorem State.gpioEdge_hrx (s : State) (k : Nat) : (s.gpioEdge k).hrx = s.hrx := rfl
@[simp] theorem State.gpioEdge_ring (s : State) (k : Nat) : (s.gpioEdge k).ring = s.ring := rfl
@[simp] theorem State.gpioEdge_ftxTurn (s : State) (k : Nat) : (s.gpioEdge k).ftxTurn = s.ftxTurn := rfl
@[simp] theorem State.gpioEdge_cmd (s : State) (k : Nat) : (s.gpioEdge k).cmd = s.cmd := rfl
@[simp] theorem State.gpioEdge_sap (s : State) (k : Nat) : (s.gpioEdge k).sap = s.sap := rfl
@[simp] theorem State.gpioEdge_asrc (s : State) (k : Nat) : (s.gpioEdge k).asrc = s.asrc := rfl
@[simp] theorem State.gpioEdge_pwr (s : State) (k : Nat) : (s.gpioEdge k).pwr = s.pwr := rfl
@[simp] theorem State.gpioEdge_pair (s : State) (k : Nat) : (s.gpioEdge k).pair = s.pair := rfl
@[simp] theorem State.gpioEdge_pmu (s : State) (k : Nat) :
    (s.gpioEdge k).pmu = { s.pmu with gpioIn := s.pmu.gpioIn ^^^ BitVec.ofNat 16 (2 ^ k) } := rfl
@[simp] theorem State.gpioEdge_mgt (s : State) (k : Nat) : (s.gpioEdge k).mgt = s.mgt := rfl
@[simp] theorem State.gpioEdge_pci (s : State) (k : Nat) : (s.gpioEdge k).pci = s.pci := rfl
@[simp] theorem State.gpioEdge_sst (s : State) (k : Nat) : (s.gpioEdge k).sst = s.sst := rfl
@[simp] theorem State.gpioEdge_msixEn (s : State) (k : Nat) : (s.gpioEdge k).msixEn = s.msixEn := rfl
@[simp] theorem State.gpioEdge_intDis (s : State) (k : Nat) : (s.gpioEdge k).intDis = s.intDis := rfl
@[simp] theorem State.gpioEdge_reply (s : State) (k : Nat) : (s.gpioEdge k).reply = s.reply := rfl
@[simp] theorem State.gpioEdge_free (s : State) (k : Nat) : (s.gpioEdge k).free = s.free := rfl
@[simp] theorem State.gpioEdge_out (s : State) (k : Nat) : (s.gpioEdge k).out = s.out := rfl
@[simp] theorem State.gpioEdge_pending (s : State) (k : Nat) : (s.gpioEdge k).pending = s.pending := rfl

@[simp] theorem State.setCrc_member (s : State) (c : Crc) : (s.setCrc c).member = s.member := rfl
@[simp] theorem State.setCrc_reg_staged (s : State) (c : Crc) : (s.setCrc c).reg.staged = s.reg.staged := rfl
@[simp] theorem State.setCrc_reg_applied (s : State) (c : Crc) : (s.setCrc c).reg.applied = s.reg.applied := rfl
@[simp] theorem State.setCrc_reg_inForce (s : State) (c : Crc) : (s.setCrc c).reg.inForce = s.reg.inForce := rfl
@[simp] theorem State.setCrc_reg_rw (s : State) (c : Crc) : (s.setCrc c).reg.rw = s.reg.rw := rfl
@[simp] theorem State.setCrc_reg_rc (s : State) (c : Crc) : (s.setCrc c).reg.rc = s.reg.rc := rfl
@[simp] theorem State.setCrc_reg_count (s : State) (c : Crc) : (s.setCrc c).reg.count = s.reg.count := rfl
@[simp] theorem State.setCrc_reg_bankA (s : State) (c : Crc) : (s.setCrc c).reg.bankA = s.reg.bankA := rfl
@[simp] theorem State.setCrc_reg_bankB (s : State) (c : Crc) : (s.setCrc c).reg.bankB = s.reg.bankB := rfl
@[simp] theorem State.setCrc_reg_held (s : State) (c : Crc) : (s.setCrc c).reg.held = s.reg.held := rfl
@[simp] theorem State.setCrc_reg_snaps (s : State) (c : Crc) : (s.setCrc c).reg.snaps = s.reg.snaps := rfl
@[simp] theorem State.setCrc_reg_waiting (s : State) (c : Crc) : (s.setCrc c).reg.waiting = s.reg.waiting := rfl
@[simp] theorem State.setCrc_reg_stagedBits (s : State) (c : Crc) :
    (s.setCrc c).reg.stagedBits = s.reg.stagedBits := rfl
@[simp] theorem State.setCrc_reg_lock (s : State) (c : Crc) : (s.setCrc c).reg.lock = s.reg.lock := rfl
@[simp] theorem State.setCrc_reg_subidDone (s : State) (c : Crc) : (s.setCrc c).reg.subidDone = s.reg.subidDone := rfl
@[simp] theorem State.setCrc_reg_roleDone (s : State) (c : Crc) : (s.setCrc c).reg.roleDone = s.reg.roleDone := rfl
@[simp] theorem State.setCrc_reg_berrAddr (s : State) (c : Crc) : (s.setCrc c).reg.berrAddr = s.reg.berrAddr := rfl
@[simp] theorem State.setCrc_reg_pcie (s : State) (c : Crc) : (s.setCrc c).reg.pcie = s.reg.pcie := rfl
@[simp] theorem State.setCrc_reg_mgt (s : State) (c : Crc) : (s.setCrc c).reg.mgt = s.reg.mgt := rfl
@[simp] theorem State.setCrc_reg_crc (s : State) (c : Crc) : (s.setCrc c).reg.crc = c := rfl
@[simp] theorem State.setCrc_reg_hstop (s : State) (c : Crc) : (s.setCrc c).reg.hstop = s.reg.hstop := rfl
@[simp] theorem State.setCrc_reg_brst (s : State) (c : Crc) : (s.setCrc c).reg.brst = s.reg.brst := rfl
@[simp] theorem State.setCrc_due (s : State) (c : Crc) : (s.setCrc c).due = s.due := rfl
@[simp] theorem State.setCrc_pba (s : State) (c : Crc) : (s.setCrc c).pba = s.pba := rfl
@[simp] theorem State.setCrc_tt (s : State) (c : Crc) : (s.setCrc c).tt = s.tt := rfl
@[simp] theorem State.setCrc_tim (s : State) (c : Crc) : (s.setCrc c).tim = s.tim := rfl
@[simp] theorem State.setCrc_mcr (s : State) (c : Crc) : (s.setCrc c).mcr = s.mcr := rfl
@[simp] theorem State.setCrc_syn (s : State) (c : Crc) : (s.setCrc c).syn = s.syn := rfl
@[simp] theorem State.setCrc_mix (s : State) (c : Crc) : (s.setCrc c).mix = s.mix := rfl
@[simp] theorem State.setCrc_macA (s : State) (c : Crc) : (s.setCrc c).macA = s.macA := rfl
@[simp] theorem State.setCrc_macB (s : State) (c : Crc) : (s.setCrc c).macB = s.macB := rfl
@[simp] theorem State.setCrc_mdio (s : State) (c : Crc) : (s.setCrc c).mdio = s.mdio := rfl
@[simp] theorem State.setCrc_stx (s : State) (c : Crc) : (s.setCrc c).stx = s.stx := rfl
@[simp] theorem State.setCrc_eng (s : State) (c : Crc) : (s.setCrc c).eng = s.eng := rfl
@[simp] theorem State.setCrc_pool (s : State) (c : Crc) : (s.setCrc c).pool = s.pool := rfl
@[simp] theorem State.setCrc_srx (s : State) (c : Crc) : (s.setCrc c).srx = s.srx := rfl
@[simp] theorem State.setCrc_dpc (s : State) (c : Crc) : (s.setCrc c).dpc = s.dpc := rfl
@[simp] theorem State.setCrc_mbox (s : State) (c : Crc) : (s.setCrc c).mbox = s.mbox := rfl
@[simp] theorem State.setCrc_hrx (s : State) (c : Crc) : (s.setCrc c).hrx = s.hrx := rfl
@[simp] theorem State.setCrc_ring (s : State) (c : Crc) : (s.setCrc c).ring = s.ring := rfl
@[simp] theorem State.setCrc_ftxTurn (s : State) (c : Crc) : (s.setCrc c).ftxTurn = s.ftxTurn := rfl
@[simp] theorem State.setCrc_cmd (s : State) (c : Crc) : (s.setCrc c).cmd = s.cmd := rfl
@[simp] theorem State.setCrc_sap (s : State) (c : Crc) : (s.setCrc c).sap = s.sap := rfl
@[simp] theorem State.setCrc_asrc (s : State) (c : Crc) : (s.setCrc c).asrc = s.asrc := rfl
@[simp] theorem State.setCrc_pwr (s : State) (c : Crc) : (s.setCrc c).pwr = s.pwr := rfl
@[simp] theorem State.setCrc_pair (s : State) (c : Crc) : (s.setCrc c).pair = s.pair := rfl
@[simp] theorem State.setCrc_pmu (s : State) (c : Crc) : (s.setCrc c).pmu = s.pmu := rfl
@[simp] theorem State.setCrc_mgt (s : State) (c : Crc) : (s.setCrc c).mgt = s.mgt := rfl
@[simp] theorem State.setCrc_pci (s : State) (c : Crc) : (s.setCrc c).pci = s.pci := rfl
@[simp] theorem State.setCrc_sst (s : State) (c : Crc) : (s.setCrc c).sst = s.sst := rfl
@[simp] theorem State.setCrc_msixEn (s : State) (c : Crc) : (s.setCrc c).msixEn = s.msixEn := rfl
@[simp] theorem State.setCrc_intDis (s : State) (c : Crc) : (s.setCrc c).intDis = s.intDis := rfl
@[simp] theorem State.setCrc_reply (s : State) (c : Crc) : (s.setCrc c).reply = s.reply := rfl
@[simp] theorem State.setCrc_free (s : State) (c : Crc) : (s.setCrc c).free = s.free := rfl
@[simp] theorem State.setCrc_out (s : State) (c : Crc) : (s.setCrc c).out = s.out := rfl
@[simp] theorem State.setCrc_pending (s : State) (c : Crc) : (s.setCrc c).pending = s.pending := rfl

end Sys2Proof.Machine
end

