-- ==== Sys2Proof/Laws/Values.lean ====
section
/-! SUPPORT. What a store or a table holds after each operation that writes it: the word written, and every other word as it
was; the flags, the events and the counters. -/

namespace Sys2Proof.Machine

/-- A store read after a write. -/
theorem sget_sset {α : Type} [DecidableEq α] {d : Nat → α} {m : SMap α} (h : swf d m = true) (k j : Nat) (v : α) :
    sget d (sset d m k v) j = if j = k then v else sget d m j := by
  split
  · rename_i e; rw [e]; exact sget_sset_same h k v
  · rename_i e; exact sget_sset_other m v e

theorem State.setStaged_stagedW {s : State} (h : StoresOk s) (a b : Nat) (w : Word) :
    (s.setStaged a w).stagedW b = if b = a then w else s.stagedW b := sget_sset h.1.1 _ _ _
theorem State.setApplied_appliedW {s : State} (h : StoresOk s) (a b : Nat) (w : Word) :
    (s.setApplied a w).appliedW b = if b = a then w else s.appliedW b := sget_sset h.1.2.1 _ _ _
theorem State.setInForce_inForceW {s : State} (h : StoresOk s) (a b : Nat) (w : Word) :
    (s.setInForce a w).inForceW b = if b = a then w else s.inForceW b := sget_sset h.1.2.2.1 _ _ _
theorem State.setRw_rwW {s : State} (h : StoresOk s) (a b : Nat) (w : Word) :
    (s.setRw a w).rwW b = if b = a then w else s.rwW b := sget_sset h.1.2.2.2.1 _ _ _
theorem State.setRc_rcW {s : State} (h : StoresOk s) (a b : Nat) (w : Word) :
    (s.setRc a w).rcW b = if b = a then w else s.rcW b := sget_sset h.1.2.2.2.2.1 _ _ _
theorem State.setCounter_counter {s : State} (h : StoresOk s) (a b n : Nat) :
    (s.setCounter a n).counter b = if b = a then n else s.counter b := sget_sset h.1.2.2.2.2.2.2.2.1 _ _ _
theorem State.setMbox_mboxOf {s : State} (h : StoresOk s) (k j : Nat) (v : Mailbox) :
    (s.setMbox k v).mboxOf j = if j = k then v else s.mboxOf j := sget_sset h.2.2.1 _ _ _
theorem State.setRing_ringOf {s : State} (h : StoresOk s) (k j : Nat) (v : Ring) :
    (s.setRing k v).ringOf j = if j = k then v else s.ringOf j := sget_sset h.2.2.2.1 _ _ _
theorem State.setSap_sapOf {s : State} (h : StoresOk s) (k j : Nat) (v : Sap) :
    (s.setSap k v).sapOf j = if j = k then v else s.sapOf j := sget_sset h.2.2.2.2.1 _ _ _
theorem State.setEng_engOf {s : State} (h : StoresOk s) (k j : Nat) (v : Eng) :
    (s.setEng k v).engOf j = if j = k then v else s.engOf j := sget_sset h.2.2.2.2.2.1 _ _ _
theorem State.setJunc_juncOf {s : State} (h : StoresOk s) (k j : Nat) (v : Junction) :
    (s.setJunc k v).juncOf j = if j = k then v else s.juncOf j := sget_sset h.2.2.2.2.2.2.1 _ _ _
theorem State.setMute_muteOf {s : State} (h : StoresOk s) (k j : Nat) (v : Mute) :
    (s.setMute k v).muteOf j = if j = k then v else s.muteOf j := sget_sset h.2.2.2.2.2.2.2.1 _ _ _
theorem State.setCh_chOf {s : State} (h : StoresOk s) (k j : Nat) (v : AsrcCh) :
    (s.setCh k v).chOf j = if j = k then v else s.chOf j := sget_sset h.2.2.2.2.2.2.2.2.2.1 _ _ _
theorem State.setTrk_trkOf {s : State} (h : StoresOk s) (k j : Nat) (v : Tracker) :
    (s.setTrk k v).trkOf j = if j = k then v else s.trkOf j := sget_sset h.2.2.2.2.2.2.2.2.2.2.1 _ _ _
theorem State.setStx_stxOf {s : State} (h : StoresOk s) (k j : Nat) (v : StxCtx) :
    (s.setStx k v).stxOf j = if j = k then v else s.stxOf j := sget_sset h.2.2.2.2.2.2.2.2.2.2.2.1 _ _ _
theorem State.setSrx_srxOf {s : State} (h : StoresOk s) (k j : Nat) (v : SrxCtx) :
    (s.setSrx k v).srxOf j = if j = k then v else s.srxOf j := sget_sset h.2.2.2.2.2.2.2.2.2.2.2.2.1 _ _ _
theorem State.setGrp_grpOf {s : State} (h : StoresOk s) (k j : Nat) (v : SrxGroup) :
    (s.setGrp k v).grpOf j = if j = k then v else s.grpOf j := sget_sset h.2.2.2.2.2.2.2.2.2.2.2.2.2.1 _ _ _
theorem State.setDpc_dpcOf {s : State} (h : StoresOk s) (k j : Nat) (v : DpcCtx) :
    (s.setDpc k v).dpcOf j = if j = k then v else s.dpcOf j := sget_sset h.2.2.2.2.2.2.2.2.2.2.2.2.2.2.1 _ _ _
/-! ### Frames of the operations that every unit calls -/

theorem State.msgDue_reg (s : State) (v : Nat) : (s.msgDue v).reg = s.reg := by
  unfold State.msgDue
  split
  · split <;> rfl
  · rfl

/-- Raising an event writes its status word alone. -/
theorem State.raise_rcW {s : State} (h : StoresOk s) (n b : Nat) (hn : srcPresent s.member n = true) :
    (s.raise n).rcW b = if b = evtStat n then s.rcW b ||| toWord (2 ^ (n % 32)) else s.rcW b := by
  have hb : ∀ w : Word, w.getLsbD (n % 32) = true → w ||| toWord (2 ^ (n % 32)) = w := by
    intro w hw
    apply BitVec.eq_of_getLsbD_eq
    intro i hi
    rw [BitVec.getLsbD_or, toWord, BitVec.getLsbD_ofNat, Nat.testBit_two_pow]
    by_cases e : n % 32 = i
    · rw [← e, hw]; rfl
    · simp [e]
  unfold State.raise
  rw [if_pos hn]
  split
  · rename_i hw
    split
    · rename_i e; rw [e, hb _ hw]
    · rfl
  · have hs := State.setRc_rcW h (evtStat n) b (s.rcW (evtStat n) ||| toWord (2 ^ (n % 32)))
    dsimp only
    split
    · show sget resetWord (State.msgDue _ _).reg.rc b = _
      rw [State.msgDue_reg]
      rw [show sget resetWord (s.setRc (evtStat n) _).reg.rc b = _ from hs]
      split <;> simp_all
    · rw [hs]; split <;> simp_all

theorem State.raise_rcW_other {s : State} (n b : Nat) (hb : b ≠ evtStat n) : (s.raise n).rcW b = s.rcW b := by
  unfold State.raise
  split
  · split
    · rfl
    · dsimp only
      split
      · show sget resetWord (State.msgDue _ _).reg.rc b = _
        rw [State.msgDue_reg]
        exact sget_sset_other _ _ hb
      · exact sget_sset_other _ _ hb
  · rfl

/-- A source of a unit the member has shows its status bit once raised (R404). -/
theorem State.raise_event {s : State} (h : StoresOk s) (n : Nat) (hn : srcPresent s.member n = true) :
    (s.raise n).event n = true := by
  unfold State.event
  have hk : n % 32 < 32 := Nat.mod_lt _ (by decide)
  rw [State.raise_rcW h n _ hn, if_pos rfl, BitVec.getLsbD_or, toWord, BitVec.getLsbD_ofNat, Nat.testBit_two_pow]
  simp only [hk, decide_true, Bool.and_true, Bool.or_true]

/-- Raising one source keeps every status bit that is set. -/
theorem State.raise_event_keep {s : State} (h : StoresOk s) (n m : Nat) (hm : s.event m = true) : (s.raise n).event m = true := by
  by_cases hn : srcPresent s.member n = true
  · unfold State.event at *
    rw [State.raise_rcW h n _ hn]
    split
    · simp [BitVec.getLsbD_or, hm]
    · exact hm
  · unfold State.raise; rw [if_neg hn]; exact hm

theorem State.flag_rcW {s : State} (h : StoresOk s) (a b m : Nat) :
    (s.flag a m).rcW b = if b = a then s.rcW a ||| toWord m else s.rcW b := State.setRc_rcW h a b _

theorem State.flag_rcW_other (s : State) (a b m : Nat) (hb : b ≠ a) : (s.flag a m).rcW b = s.rcW b := sget_sset_other _ _ hb

@[simp] theorem State.flag_storesOk {s : State} (h : StoresOk s) (a m : Nat) : StoresOk (s.flag a m) :=
  (State.flag_follows (lp := Part.all) s a m (subParts_spec rfl) (Follows.refl s)).stores h

@[simp] theorem State.raise_storesOk {s : State} (h : StoresOk s) (n : Nat) : StoresOk (s.raise n) :=
  (State.raise_follows (lp := Part.all) s n (subParts_spec rfl) (Follows.refl s)).stores h

@[simp] theorem State.flag_member (s : State) (a m : Nat) : (s.flag a m).member = s.member := rfl

@[simp] theorem State.raise_member (s : State) (n : Nat) : (s.raise n).member = s.member :=
  (State.raise_follows (lp := Part.all) s n (subParts_spec rfl) (Follows.refl s)).member

/-- A flag and its event: the flag's word. -/
theorem State.flagRaise_rcW {s : State} (h : StoresOk s) (a m n b : Nat) (hb : b ≠ evtStat n) :
    (s.flagRaise a m n).rcW b = if b = a then s.rcW a ||| toWord m else s.rcW b := by
  unfold State.flagRaise
  rw [State.raise_rcW_other _ _ hb, State.flag_rcW h]

/-- A flag and its event: the event. -/
theorem State.flagRaise_event {s : State} (h : StoresOk s) (a m n : Nat) (hn : srcPresent s.member n = true) :
    (s.flagRaise a m n).event n = true :=
  State.raise_event (State.flag_storesOk h a m) n hn

/-- Raising one source leaves every other source's status bit alone. -/
theorem State.raise_event_other {s : State} (h : StoresOk s) (n m : Nat) (hne : m ≠ n) : (s.raise n).event m = s.event m := by
  by_cases hn : srcPresent s.member n = true
  · unfold State.event
    rw [State.raise_rcW h n _ hn]
    split
    · rename_i e
      have h1 : m / 32 = n / 32 := by unfold evtStat at e; omega
      have h2 : n % 32 ≠ m % 32 := by omega
      have hk : m % 32 < 32 := Nat.mod_lt _ (by decide)
      rw [BitVec.getLsbD_or, toWord, BitVec.getLsbD_ofNat, Nat.testBit_two_pow]
      simp [h2]
    · rfl
  · unfold State.raise; rw [if_neg hn]

theorem State.flag_event_other (s : State) (a k m : Nat) (ha : a ≠ evtStat m) : (s.flag a k).event m = s.event m := by
  unfold State.event; rw [State.flag_rcW_other _ _ _ _ ha.symm]

theorem State.flagRaise_event_other {s : State} (h : StoresOk s) (a k n m : Nat) (hne : m ≠ n) (ha : a ≠ evtStat m) :
    (s.flagRaise a k n).event m = s.event m := by
  unfold State.flagRaise
  rw [State.raise_event_other (State.flag_storesOk h a k) n m hne, State.flag_event_other s a k m ha]

/-- The parts a flag and its event leave alone: all but the RC words. -/
theorem State.flagRaise_others (s : State) (a m n : Nat) : LeavesAllBut [.rc] s (s.flagRaise a m n) :=
  (State.flagRaise_follows s a m n (fun _ k => k) (Follows.refl s)).others

theorem State.raise_others (s : State) (n : Nat) : LeavesAllBut [.rc] s (s.raise n) :=
  (State.raise_follows s n (fun _ k => k) (Follows.refl s)).others

theorem State.flag_others (s : State) (a m : Nat) : LeavesAllBut [.rc] s (s.flag a m) :=
  (State.flag_follows s a m (fun _ k => k) (Follows.refl s)).others

theorem State.countBy_others (s : State) (a n : Nat) : LeavesAllBut [.rc, .count] s (s.countBy a n) :=
  (State.countBy_follows s a n (fun _ k => k) (Follows.refl s)).others

/-- A count below its maximum goes up by the events counted (R113). -/
theorem State.countBy_counter {s : State} (h : StoresOk s) (a n b : Nat) (hb : s.counter a + n < ctrMax) :
    (s.countBy a n).counter b = if b = a then s.counter a + n else s.counter b := by
  unfold State.countBy
  split
  · rename_i e
    rcases e with e | e
    · omega
    · subst e; split
      · rename_i e2; rw [e2]; rfl
      · rfl
  · exact State.setCounter_counter h _ _ _

/-- A count below its maximum leaves every RC word alone. -/
theorem State.bump_rcW {s : State} (a b : Nat) (hb : s.counter a + 1 < ctrMax) : (s.bump a).rcW b = s.rcW b := by
  unfold State.bump State.countBy
  split
  · rfl
  · rfl

theorem State.bump_event {s : State} (a n : Nat) (hb : s.counter a + 1 < ctrMax) : (s.bump a).event n = s.event n := by
  unfold State.event; rw [State.bump_rcW a _ hb]

theorem State.bump_counter {s : State} (h : StoresOk s) (a b : Nat) (hb : s.counter a + 1 < ctrMax) :
    (s.bump a).counter b = if b = a then s.counter a + 1 else s.counter b := State.countBy_counter h a 1 b hb

/-- A bit of a word that a flag sets. -/
theorem bitAt_or (w : Word) (k m : Nat) (hk : k < 32) (hm : m.testBit k = true) : bitAt (w ||| toWord m) k = true := by
  unfold bitAt
  rw [BitVec.getLsbD_or, toWord, BitVec.getLsbD_ofNat]
  simp [hk, hm]

/-! ### What goes out at a command's end -/

/-! ### Getters through a frame -/

theorem LeavesAllBut.keeps {l : List Part} {s t : State} (h : LeavesAllBut l s t) (p : Part) (hl : l.elem p = false) :
    p.same s t := h p fun hm => by rw [← List.elem_iff, hl] at hm; cases hm

theorem LeavesAllBut.ttKept {l : List Part} {s t : State} (h : LeavesAllBut l s t) (hn : l.elem .now = false)
    (hl : l.elem .tt = false) : t.tt = s.tt := by
  have a : t.tt.now = s.tt.now := h.keeps .now hn
  have b := h.keeps .tt hl
  obtain ⟨b1, b2, b3, b4, b5⟩ : _ ∧ _ ∧ _ ∧ _ ∧ _ := by simpa using b
  cases ht : t.tt; cases hs : s.tt
  simp_all

theorem LeavesAllBut.rcuKept {l : List Part} {s t : State} (h : LeavesAllBut l s t) (hl : l.elem .rcu = false) :
    t.reg.lock = s.reg.lock ∧ t.reg.subidDone = s.reg.subidDone ∧ t.reg.roleDone = s.reg.roleDone
      ∧ t.reg.berrAddr = s.reg.berrAddr ∧ t.reg.pcie = s.reg.pcie ∧ t.reg.mgt = s.reg.mgt ∧ t.reg.brst = s.reg.brst := by
  have b := h.keeps .rcu hl
  simpa using b

theorem LeavesAllBut.snapKept {l : List Part} {s t : State} (h : LeavesAllBut l s t) (hl : l.elem .snap = false) :
    t.reg.snaps = s.reg.snaps ∧ t.reg.waiting = s.reg.waiting ∧ t.reg.stagedBits = s.reg.stagedBits := by
  have b := h.keeps .snap hl
  simpa using b

theorem LeavesAllBut.rcW {l : List Part} {s t : State} (h : LeavesAllBut l s t) (hl : l.elem .rc = false) (a : Nat) :
    t.rcW a = s.rcW a := by
  have k := h.keeps .rc hl
  unfold State.rcW
  rw [k]

theorem LeavesAllBut.rwW {l : List Part} {s t : State} (h : LeavesAllBut l s t) (hl : l.elem .rw = false) (a : Nat) :
    t.rwW a = s.rwW a := by
  have k := h.keeps .rw hl
  unfold State.rwW
  rw [k]

theorem LeavesAllBut.stagedW {l : List Part} {s t : State} (h : LeavesAllBut l s t) (hl : l.elem .staged = false) (a : Nat) :
    t.stagedW a = s.stagedW a := by
  have k := h.keeps .staged hl
  unfold State.stagedW
  rw [k]

theorem LeavesAllBut.appliedW {l : List Part} {s t : State} (h : LeavesAllBut l s t) (hl : l.elem .applied = false) (a : Nat) :
    t.appliedW a = s.appliedW a := by
  have k := h.keeps .applied hl
  unfold State.appliedW
  rw [k]

theorem LeavesAllBut.inForceW {l : List Part} {s t : State} (h : LeavesAllBut l s t) (hl : l.elem .inForce = false) (a : Nat) :
    t.inForceW a = s.inForceW a := by
  have k := h.keeps .inForce hl
  unfold State.inForceW
  rw [k]

theorem LeavesAllBut.counter {l : List Part} {s t : State} (h : LeavesAllBut l s t) (hl : l.elem .count = false) (a : Nat) :
    t.counter a = s.counter a := by
  have k := h.keeps .count hl
  unfold State.counter
  rw [k]

theorem LeavesAllBut.event {l : List Part} {s t : State} (h : LeavesAllBut l s t) (hl : l.elem .rc = false) (a : Nat) :
    t.event a = s.event a := by
  have k := h.keeps .rc hl
  unfold State.event State.rcW
  rw [k]

theorem LeavesAllBut.mboxOf {l : List Part} {s t : State} (h : LeavesAllBut l s t) (hl : l.elem .mbox = false) (a : Nat) :
    t.mboxOf a = s.mboxOf a := by
  have k := h.keeps .mbox hl
  unfold State.mboxOf
  rw [k]

theorem LeavesAllBut.ringOf {l : List Part} {s t : State} (h : LeavesAllBut l s t) (hl : l.elem .ring = false) (a : Nat) :
    t.ringOf a = s.ringOf a := by
  have k := h.keeps .ring hl
  unfold State.ringOf
  rw [k]

theorem LeavesAllBut.sapOf {l : List Part} {s t : State} (h : LeavesAllBut l s t) (hl : l.elem .sap = false) (a : Nat) :
    t.sapOf a = s.sapOf a := by
  have k := h.keeps .sap hl
  unfold State.sapOf
  rw [k]

theorem LeavesAllBut.engOf {l : List Part} {s t : State} (h : LeavesAllBut l s t) (hl : l.elem .eng = false) (a : Nat) :
    t.engOf a = s.engOf a := by
  have k := h.keeps .eng hl
  unfold State.engOf
  rw [k]

theorem LeavesAllBut.juncOf {l : List Part} {s t : State} (h : LeavesAllBut l s t) (hl : l.elem .mix = false) (a : Nat) :
    t.juncOf a = s.juncOf a := by
  have k := h.keeps .mix hl
  unfold State.juncOf
  rw [k]

theorem LeavesAllBut.muteOf {l : List Part} {s t : State} (h : LeavesAllBut l s t) (hl : l.elem .mix = false) (a : Nat) :
    t.muteOf a = s.muteOf a := by
  have k := h.keeps .mix hl
  unfold State.muteOf
  rw [k]

theorem LeavesAllBut.chOf {l : List Part} {s t : State} (h : LeavesAllBut l s t) (hl : l.elem .asrc = false) (a : Nat) :
    t.chOf a = s.chOf a := by
  have k := h.keeps .asrc hl
  unfold State.chOf
  rw [k]

theorem LeavesAllBut.trkOf {l : List Part} {s t : State} (h : LeavesAllBut l s t) (hl : l.elem .asrc = false) (a : Nat) :
    t.trkOf a = s.trkOf a := by
  have k := h.keeps .asrc hl
  unfold State.trkOf
  rw [k]

theorem LeavesAllBut.stxOf {l : List Part} {s t : State} (h : LeavesAllBut l s t) (hl : l.elem .stx = false) (a : Nat) :
    t.stxOf a = s.stxOf a := by
  have k := h.keeps .stx hl
  unfold State.stxOf
  rw [k]

theorem LeavesAllBut.srxOf {l : List Part} {s t : State} (h : LeavesAllBut l s t) (hl : l.elem .srx = false) (a : Nat) :
    t.srxOf a = s.srxOf a := by
  have k := h.keeps .srx hl
  unfold State.srxOf
  rw [k]

theorem LeavesAllBut.grpOf {l : List Part} {s t : State} (h : LeavesAllBut l s t) (hl : l.elem .srx = false) (a : Nat) :
    t.grpOf a = s.grpOf a := by
  have k := h.keeps .srx hl
  unfold State.grpOf
  rw [k]

theorem LeavesAllBut.dpcOf {l : List Part} {s t : State} (h : LeavesAllBut l s t) (hl : l.elem .dpc = false) (a : Nat) :
    t.dpcOf a = s.dpcOf a := by
  have k := h.keeps .dpc hl
  unfold State.dpcOf
  rw [k]

theorem LeavesAllBut.trans {l : List Part} {r s t : State} (h : LeavesAllBut l r s) (k : LeavesAllBut l s t) :
    LeavesAllBut l r t := fun p hp => Part.same_trans (h p hp) (k p hp)

@[simp] theorem settle_member (s : State) : (settle s).member = s.member := rfl
@[simp] theorem settle_reg (s : State) : (settle s).reg = s.reg := rfl
@[simp] theorem settle_tt (s : State) : (settle s).tt = s.tt := rfl
@[simp] theorem settle_tim (s : State) : (settle s).tim = s.tim := rfl
@[simp] theorem settle_mcr (s : State) : (settle s).mcr = s.mcr := rfl
@[simp] theorem settle_syn (s : State) : (settle s).syn = s.syn := rfl
@[simp] theorem settle_mix (s : State) : (settle s).mix = s.mix := rfl
@[simp] theorem settle_macA (s : State) : (settle s).macA = s.macA := rfl
@[simp] theorem settle_macB (s : State) : (settle s).macB = s.macB := rfl
@[simp] theorem settle_mdio (s : State) : (settle s).mdio = s.mdio := rfl
@[simp] theorem settle_stx (s : State) : (settle s).stx = s.stx := rfl
@[simp] theorem settle_eng (s : State) : (settle s).eng = s.eng := rfl
@[simp] theorem settle_pool (s : State) : (settle s).pool = s.pool := rfl
@[simp] theorem settle_srx (s : State) : (settle s).srx = s.srx := rfl
@[simp] theorem settle_dpc (s : State) : (settle s).dpc = s.dpc := rfl
@[simp] theorem settle_mbox (s : State) : (settle s).mbox = s.mbox := rfl
@[simp] theorem settle_hrx (s : State) : (settle s).hrx = s.hrx := rfl
@[simp] theorem settle_ring (s : State) : (settle s).ring = s.ring := rfl
@[simp] theorem settle_ftxTurn (s : State) : (settle s).ftxTurn = s.ftxTurn := rfl
@[simp] theorem settle_cmd (s : State) : (settle s).cmd = s.cmd := rfl
@[simp] theorem settle_sap (s : State) : (settle s).sap = s.sap := rfl
@[simp] theorem settle_asrc (s : State) : (settle s).asrc = s.asrc := rfl
@[simp] theorem settle_pwr (s : State) : (settle s).pwr = s.pwr := rfl
@[simp] theorem settle_pair (s : State) : (settle s).pair = s.pair := rfl
@[simp] theorem settle_pmu (s : State) : (settle s).pmu = s.pmu := rfl
@[simp] theorem settle_mgt (s : State) : (settle s).mgt = s.mgt := rfl
@[simp] theorem settle_pci (s : State) : (settle s).pci = s.pci := rfl
@[simp] theorem settle_sst (s : State) : (settle s).sst = s.sst := rfl
@[simp] theorem settle_msixEn (s : State) : (settle s).msixEn = s.msixEn := rfl
@[simp] theorem settle_intDis (s : State) : (settle s).intDis = s.intDis := rfl
@[simp] theorem settle_reply (s : State) : (settle s).reply = s.reply := rfl
@[simp] theorem settle_free (s : State) : (settle s).free = s.free := rfl
@[simp] theorem settle_pending (s : State) : (settle s).pending = s.pending := rfl
/-- The messages that go out at a command's end touch no part. -/
theorem LeavesAllBut.settled {l : List Part} {s t : State} (h : LeavesAllBut l s t) : LeavesAllBut l s (settle t) :=
  h.trans (settle_follows _ (Follows.refl _)).others


@[simp] theorem settle_due (s : State) : (settle s).due = [] := rfl

@[simp] theorem settle_rcW (s : State) (a : Nat) : (settle s).rcW a = s.rcW a := rfl

@[simp] theorem settle_rwW (s : State) (a : Nat) : (settle s).rwW a = s.rwW a := rfl

@[simp] theorem settle_stagedW (s : State) (a : Nat) : (settle s).stagedW a = s.stagedW a := rfl

@[simp] theorem settle_appliedW (s : State) (a : Nat) : (settle s).appliedW a = s.appliedW a := rfl

@[simp] theorem settle_inForceW (s : State) (a : Nat) : (settle s).inForceW a = s.inForceW a := rfl

@[simp] theorem settle_counter (s : State) (a : Nat) : (settle s).counter a = s.counter a := rfl

@[simp] theorem settle_event (s : State) (a : Nat) : (settle s).event a = s.event a := rfl

@[simp] theorem settle_mboxOf (s : State) (a : Nat) : (settle s).mboxOf a = s.mboxOf a := rfl

@[simp] theorem settle_ringOf (s : State) (a : Nat) : (settle s).ringOf a = s.ringOf a := rfl

@[simp] theorem settle_sapOf (s : State) (a : Nat) : (settle s).sapOf a = s.sapOf a := rfl

@[simp] theorem settle_engOf (s : State) (a : Nat) : (settle s).engOf a = s.engOf a := rfl

@[simp] theorem settle_juncOf (s : State) (a : Nat) : (settle s).juncOf a = s.juncOf a := rfl

@[simp] theorem settle_muteOf (s : State) (a : Nat) : (settle s).muteOf a = s.muteOf a := rfl

@[simp] theorem settle_chOf (s : State) (a : Nat) : (settle s).chOf a = s.chOf a := rfl

@[simp] theorem settle_trkOf (s : State) (a : Nat) : (settle s).trkOf a = s.trkOf a := rfl

@[simp] theorem settle_stxOf (s : State) (a : Nat) : (settle s).stxOf a = s.stxOf a := rfl

@[simp] theorem settle_srxOf (s : State) (a : Nat) : (settle s).srxOf a = s.srxOf a := rfl

@[simp] theorem settle_grpOf (s : State) (a : Nat) : (settle s).grpOf a = s.grpOf a := rfl

@[simp] theorem settle_dpcOf (s : State) (a : Nat) : (settle s).dpcOf a = s.dpcOf a := rfl

@[simp] theorem settle_mac (s : State) (a : Nat) : (settle s).mac a = s.mac a := rfl

end Sys2Proof.Machine
end

