-- ==== Sys2Proof/Laws/Through.lean ====
section
/-! SUPPORT. Getters and unit states through the operations that every unit calls: each operation leaves alone what lies outside
its footprint, and keeps the stores in canonical form. -/

namespace Sys2Proof.Machine

/-! setStaged -/

theorem State.setStaged_frame (s : State) (a : Nat) (w : Word) : Follows [.staged] s (State.setStaged s a w) :=
  State.setStaged_follows s a w (fun _ k => k) (Follows.refl s)

@[simp] theorem State.setStaged_storesOk {s : State} (a : Nat) (w : Word) (h : StoresOk s) :
    StoresOk (State.setStaged s a w) := (State.setStaged_frame s a w).stores h
@[simp] theorem State.setStaged_rcW (s : State) (a : Nat) (w : Word) (j : Nat) :
    (State.setStaged s a w).rcW j = s.rcW j := (State.setStaged_frame s a w).others.rcW rfl j
@[simp] theorem State.setStaged_event (s : State) (a : Nat) (w : Word) (j : Nat) :
    (State.setStaged s a w).event j = s.event j := (State.setStaged_frame s a w).others.event rfl j
@[simp] theorem State.setStaged_rwW (s : State) (a : Nat) (w : Word) (j : Nat) :
    (State.setStaged s a w).rwW j = s.rwW j := (State.setStaged_frame s a w).others.rwW rfl j
@[simp] theorem State.setStaged_appliedW (s : State) (a : Nat) (w : Word) (j : Nat) :
    (State.setStaged s a w).appliedW j = s.appliedW j := (State.setStaged_frame s a w).others.appliedW rfl j
@[simp] theorem State.setStaged_inForceW (s : State) (a : Nat) (w : Word) (j : Nat) :
    (State.setStaged s a w).inForceW j = s.inForceW j := (State.setStaged_frame s a w).others.inForceW rfl j
@[simp] theorem State.setStaged_counter (s : State) (a : Nat) (w : Word) (j : Nat) :
    (State.setStaged s a w).counter j = s.counter j := (State.setStaged_frame s a w).others.counter rfl j
@[simp] theorem State.setStaged_mboxOf (s : State) (a : Nat) (w : Word) (j : Nat) :
    (State.setStaged s a w).mboxOf j = s.mboxOf j := (State.setStaged_frame s a w).others.mboxOf rfl j
@[simp] theorem State.setStaged_ringOf (s : State) (a : Nat) (w : Word) (j : Nat) :
    (State.setStaged s a w).ringOf j = s.ringOf j := (State.setStaged_frame s a w).others.ringOf rfl j
@[simp] theorem State.setStaged_sapOf (s : State) (a : Nat) (w : Word) (j : Nat) :
    (State.setStaged s a w).sapOf j = s.sapOf j := (State.setStaged_frame s a w).others.sapOf rfl j
@[simp] theorem State.setStaged_engOf (s : State) (a : Nat) (w : Word) (j : Nat) :
    (State.setStaged s a w).engOf j = s.engOf j := (State.setStaged_frame s a w).others.engOf rfl j
@[simp] theorem State.setStaged_juncOf (s : State) (a : Nat) (w : Word) (j : Nat) :
    (State.setStaged s a w).juncOf j = s.juncOf j := (State.setStaged_frame s a w).others.juncOf rfl j
@[simp] theorem State.setStaged_muteOf (s : State) (a : Nat) (w : Word) (j : Nat) :
    (State.setStaged s a w).muteOf j = s.muteOf j := (State.setStaged_frame s a w).others.muteOf rfl j
@[simp] theorem State.setStaged_chOf (s : State) (a : Nat) (w : Word) (j : Nat) :
    (State.setStaged s a w).chOf j = s.chOf j := (State.setStaged_frame s a w).others.chOf rfl j
@[simp] theorem State.setStaged_trkOf (s : State) (a : Nat) (w : Word) (j : Nat) :
    (State.setStaged s a w).trkOf j = s.trkOf j := (State.setStaged_frame s a w).others.trkOf rfl j
@[simp] theorem State.setStaged_stxOf (s : State) (a : Nat) (w : Word) (j : Nat) :
    (State.setStaged s a w).stxOf j = s.stxOf j := (State.setStaged_frame s a w).others.stxOf rfl j
@[simp] theorem State.setStaged_srxOf (s : State) (a : Nat) (w : Word) (j : Nat) :
    (State.setStaged s a w).srxOf j = s.srxOf j := (State.setStaged_frame s a w).others.srxOf rfl j
@[simp] theorem State.setStaged_grpOf (s : State) (a : Nat) (w : Word) (j : Nat) :
    (State.setStaged s a w).grpOf j = s.grpOf j := (State.setStaged_frame s a w).others.grpOf rfl j
@[simp] theorem State.setStaged_dpcOf (s : State) (a : Nat) (w : Word) (j : Nat) :
    (State.setStaged s a w).dpcOf j = s.dpcOf j := (State.setStaged_frame s a w).others.dpcOf rfl j

/-! setApplied -/

theorem State.setApplied_frame (s : State) (a : Nat) (w : Word) : Follows [.applied] s (State.setApplied s a w) :=
  State.setApplied_follows s a w (fun _ k => k) (Follows.refl s)

@[simp] theorem State.setApplied_storesOk {s : State} (a : Nat) (w : Word) (h : StoresOk s) :
    StoresOk (State.setApplied s a w) := (State.setApplied_frame s a w).stores h
@[simp] theorem State.setApplied_rcW (s : State) (a : Nat) (w : Word) (j : Nat) :
    (State.setApplied s a w).rcW j = s.rcW j := (State.setApplied_frame s a w).others.rcW rfl j
@[simp] theorem State.setApplied_event (s : State) (a : Nat) (w : Word) (j : Nat) :
    (State.setApplied s a w).event j = s.event j := (State.setApplied_frame s a w).others.event rfl j
@[simp] theorem State.setApplied_rwW (s : State) (a : Nat) (w : Word) (j : Nat) :
    (State.setApplied s a w).rwW j = s.rwW j := (State.setApplied_frame s a w).others.rwW rfl j
@[simp] theorem State.setApplied_stagedW (s : State) (a : Nat) (w : Word) (j : Nat) :
    (State.setApplied s a w).stagedW j = s.stagedW j := (State.setApplied_frame s a w).others.stagedW rfl j
@[simp] theorem State.setApplied_inForceW (s : State) (a : Nat) (w : Word) (j : Nat) :
    (State.setApplied s a w).inForceW j = s.inForceW j := (State.setApplied_frame s a w).others.inForceW rfl j
@[simp] theorem State.setApplied_counter (s : State) (a : Nat) (w : Word) (j : Nat) :
    (State.setApplied s a w).counter j = s.counter j := (State.setApplied_frame s a w).others.counter rfl j
@[simp] theorem State.setApplied_mboxOf (s : State) (a : Nat) (w : Word) (j : Nat) :
    (State.setApplied s a w).mboxOf j = s.mboxOf j := (State.setApplied_frame s a w).others.mboxOf rfl j
@[simp] theorem State.setApplied_ringOf (s : State) (a : Nat) (w : Word) (j : Nat) :
    (State.setApplied s a w).ringOf j = s.ringOf j := (State.setApplied_frame s a w).others.ringOf rfl j
@[simp] theorem State.setApplied_sapOf (s : State) (a : Nat) (w : Word) (j : Nat) :
    (State.setApplied s a w).sapOf j = s.sapOf j := (State.setApplied_frame s a w).others.sapOf rfl j
@[simp] theorem State.setApplied_engOf (s : State) (a : Nat) (w : Word) (j : Nat) :
    (State.setApplied s a w).engOf j = s.engOf j := (State.setApplied_frame s a w).others.engOf rfl j
@[simp] theorem State.setApplied_juncOf (s : State) (a : Nat) (w : Word) (j : Nat) :
    (State.setApplied s a w).juncOf j = s.juncOf j := (State.setApplied_frame s a w).others.juncOf rfl j
@[simp] theorem State.setApplied_muteOf (s : State) (a : Nat) (w : Word) (j : Nat) :
    (State.setApplied s a w).muteOf j = s.muteOf j := (State.setApplied_frame s a w).others.muteOf rfl j
@[simp] theorem State.setApplied_chOf (s : State) (a : Nat) (w : Word) (j : Nat) :
    (State.setApplied s a w).chOf j = s.chOf j := (State.setApplied_frame s a w).others.chOf rfl j
@[simp] theorem State.setApplied_trkOf (s : State) (a : Nat) (w : Word) (j : Nat) :
    (State.setApplied s a w).trkOf j = s.trkOf j := (State.setApplied_frame s a w).others.trkOf rfl j
@[simp] theorem State.setApplied_stxOf (s : State) (a : Nat) (w : Word) (j : Nat) :
    (State.setApplied s a w).stxOf j = s.stxOf j := (State.setApplied_frame s a w).others.stxOf rfl j
@[simp] theorem State.setApplied_srxOf (s : State) (a : Nat) (w : Word) (j : Nat) :
    (State.setApplied s a w).srxOf j = s.srxOf j := (State.setApplied_frame s a w).others.srxOf rfl j
@[simp] theorem State.setApplied_grpOf (s : State) (a : Nat) (w : Word) (j : Nat) :
    (State.setApplied s a w).grpOf j = s.grpOf j := (State.setApplied_frame s a w).others.grpOf rfl j
@[simp] theorem State.setApplied_dpcOf (s : State) (a : Nat) (w : Word) (j : Nat) :
    (State.setApplied s a w).dpcOf j = s.dpcOf j := (State.setApplied_frame s a w).others.dpcOf rfl j

/-! setInForce -/

theorem State.setInForce_frame (s : State) (a : Nat) (w : Word) : Follows [.inForce] s (State.setInForce s a w) :=
  State.setInForce_follows s a w (fun _ k => k) (Follows.refl s)

@[simp] theorem State.setInForce_storesOk {s : State} (a : Nat) (w : Word) (h : StoresOk s) :
    StoresOk (State.setInForce s a w) := (State.setInForce_frame s a w).stores h
@[simp] theorem State.setInForce_rcW (s : State) (a : Nat) (w : Word) (j : Nat) :
    (State.setInForce s a w).rcW j = s.rcW j := (State.setInForce_frame s a w).others.rcW rfl j
@[simp] theorem State.setInForce_event (s : State) (a : Nat) (w : Word) (j : Nat) :
    (State.setInForce s a w).event j = s.event j := (State.setInForce_frame s a w).others.event rfl j
@[simp] theorem State.setInForce_rwW (s : State) (a : Nat) (w : Word) (j : Nat) :
    (State.setInForce s a w).rwW j = s.rwW j := (State.setInForce_frame s a w).others.rwW rfl j
@[simp] theorem State.setInForce_stagedW (s : State) (a : Nat) (w : Word) (j : Nat) :
    (State.setInForce s a w).stagedW j = s.stagedW j := (State.setInForce_frame s a w).others.stagedW rfl j
@[simp] theorem State.setInForce_appliedW (s : State) (a : Nat) (w : Word) (j : Nat) :
    (State.setInForce s a w).appliedW j = s.appliedW j := (State.setInForce_frame s a w).others.appliedW rfl j
@[simp] theorem State.setInForce_counter (s : State) (a : Nat) (w : Word) (j : Nat) :
    (State.setInForce s a w).counter j = s.counter j := (State.setInForce_frame s a w).others.counter rfl j
@[simp] theorem State.setInForce_mboxOf (s : State) (a : Nat) (w : Word) (j : Nat) :
    (State.setInForce s a w).mboxOf j = s.mboxOf j := (State.setInForce_frame s a w).others.mboxOf rfl j
@[simp] theorem State.setInForce_ringOf (s : State) (a : Nat) (w : Word) (j : Nat) :
    (State.setInForce s a w).ringOf j = s.ringOf j := (State.setInForce_frame s a w).others.ringOf rfl j
@[simp] theorem State.setInForce_sapOf (s : State) (a : Nat) (w : Word) (j : Nat) :
    (State.setInForce s a w).sapOf j = s.sapOf j := (State.setInForce_frame s a w).others.sapOf rfl j
@[simp] theorem State.setInForce_engOf (s : State) (a : Nat) (w : Word) (j : Nat) :
    (State.setInForce s a w).engOf j = s.engOf j := (State.setInForce_frame s a w).others.engOf rfl j
@[simp] theorem State.setInForce_juncOf (s : State) (a : Nat) (w : Word) (j : Nat) :
    (State.setInForce s a w).juncOf j = s.juncOf j := (State.setInForce_frame s a w).others.juncOf rfl j
@[simp] theorem State.setInForce_muteOf (s : State) (a : Nat) (w : Word) (j : Nat) :
    (State.setInForce s a w).muteOf j = s.muteOf j := (State.setInForce_frame s a w).others.muteOf rfl j
@[simp] theorem State.setInForce_chOf (s : State) (a : Nat) (w : Word) (j : Nat) :
    (State.setInForce s a w).chOf j = s.chOf j := (State.setInForce_frame s a w).others.chOf rfl j
@[simp] theorem State.setInForce_trkOf (s : State) (a : Nat) (w : Word) (j : Nat) :
    (State.setInForce s a w).trkOf j = s.trkOf j := (State.setInForce_frame s a w).others.trkOf rfl j
@[simp] theorem State.setInForce_stxOf (s : State) (a : Nat) (w : Word) (j : Nat) :
    (State.setInForce s a w).stxOf j = s.stxOf j := (State.setInForce_frame s a w).others.stxOf rfl j
@[simp] theorem State.setInForce_srxOf (s : State) (a : Nat) (w : Word) (j : Nat) :
    (State.setInForce s a w).srxOf j = s.srxOf j := (State.setInForce_frame s a w).others.srxOf rfl j
@[simp] theorem State.setInForce_grpOf (s : State) (a : Nat) (w : Word) (j : Nat) :
    (State.setInForce s a w).grpOf j = s.grpOf j := (State.setInForce_frame s a w).others.grpOf rfl j
@[simp] theorem State.setInForce_dpcOf (s : State) (a : Nat) (w : Word) (j : Nat) :
    (State.setInForce s a w).dpcOf j = s.dpcOf j := (State.setInForce_frame s a w).others.dpcOf rfl j

/-! setRw -/

theorem State.setRw_frame (s : State) (a : Nat) (w : Word) : Follows [.rw] s (State.setRw s a w) :=
  State.setRw_follows s a w (fun _ k => k) (Follows.refl s)

@[simp] theorem State.setRw_storesOk {s : State} (a : Nat) (w : Word) (h : StoresOk s) :
    StoresOk (State.setRw s a w) := (State.setRw_frame s a w).stores h
@[simp] theorem State.setRw_rcW (s : State) (a : Nat) (w : Word) (j : Nat) :
    (State.setRw s a w).rcW j = s.rcW j := (State.setRw_frame s a w).others.rcW rfl j
@[simp] theorem State.setRw_event (s : State) (a : Nat) (w : Word) (j : Nat) :
    (State.setRw s a w).event j = s.event j := (State.setRw_frame s a w).others.event rfl j
@[simp] theorem State.setRw_stagedW (s : State) (a : Nat) (w : Word) (j : Nat) :
    (State.setRw s a w).stagedW j = s.stagedW j := (State.setRw_frame s a w).others.stagedW rfl j
@[simp] theorem State.setRw_appliedW (s : State) (a : Nat) (w : Word) (j : Nat) :
    (State.setRw s a w).appliedW j = s.appliedW j := (State.setRw_frame s a w).others.appliedW rfl j
@[simp] theorem State.setRw_inForceW (s : State) (a : Nat) (w : Word) (j : Nat) :
    (State.setRw s a w).inForceW j = s.inForceW j := (State.setRw_frame s a w).others.inForceW rfl j
@[simp] theorem State.setRw_counter (s : State) (a : Nat) (w : Word) (j : Nat) :
    (State.setRw s a w).counter j = s.counter j := (State.setRw_frame s a w).others.counter rfl j
@[simp] theorem State.setRw_mboxOf (s : State) (a : Nat) (w : Word) (j : Nat) :
    (State.setRw s a w).mboxOf j = s.mboxOf j := (State.setRw_frame s a w).others.mboxOf rfl j
@[simp] theorem State.setRw_ringOf (s : State) (a : Nat) (w : Word) (j : Nat) :
    (State.setRw s a w).ringOf j = s.ringOf j := (State.setRw_frame s a w).others.ringOf rfl j
@[simp] theorem State.setRw_sapOf (s : State) (a : Nat) (w : Word) (j : Nat) :
    (State.setRw s a w).sapOf j = s.sapOf j := (State.setRw_frame s a w).others.sapOf rfl j
@[simp] theorem State.setRw_engOf (s : State) (a : Nat) (w : Word) (j : Nat) :
    (State.setRw s a w).engOf j = s.engOf j := (State.setRw_frame s a w).others.engOf rfl j
@[simp] theorem State.setRw_juncOf (s : State) (a : Nat) (w : Word) (j : Nat) :
    (State.setRw s a w).juncOf j = s.juncOf j := (State.setRw_frame s a w).others.juncOf rfl j
@[simp] theorem State.setRw_muteOf (s : State) (a : Nat) (w : Word) (j : Nat) :
    (State.setRw s a w).muteOf j = s.muteOf j := (State.setRw_frame s a w).others.muteOf rfl j
@[simp] theorem State.setRw_chOf (s : State) (a : Nat) (w : Word) (j : Nat) :
    (State.setRw s a w).chOf j = s.chOf j := (State.setRw_frame s a w).others.chOf rfl j
@[simp] theorem State.setRw_trkOf (s : State) (a : Nat) (w : Word) (j : Nat) :
    (State.setRw s a w).trkOf j = s.trkOf j := (State.setRw_frame s a w).others.trkOf rfl j
@[simp] theorem State.setRw_stxOf (s : State) (a : Nat) (w : Word) (j : Nat) :
    (State.setRw s a w).stxOf j = s.stxOf j := (State.setRw_frame s a w).others.stxOf rfl j
@[simp] theorem State.setRw_srxOf (s : State) (a : Nat) (w : Word) (j : Nat) :
    (State.setRw s a w).srxOf j = s.srxOf j := (State.setRw_frame s a w).others.srxOf rfl j
@[simp] theorem State.setRw_grpOf (s : State) (a : Nat) (w : Word) (j : Nat) :
    (State.setRw s a w).grpOf j = s.grpOf j := (State.setRw_frame s a w).others.grpOf rfl j
@[simp] theorem State.setRw_dpcOf (s : State) (a : Nat) (w : Word) (j : Nat) :
    (State.setRw s a w).dpcOf j = s.dpcOf j := (State.setRw_frame s a w).others.dpcOf rfl j

/-! setRc -/

theorem State.setRc_frame (s : State) (a : Nat) (w : Word) : Follows [.rc] s (State.setRc s a w) :=
  State.setRc_follows s a w (fun _ k => k) (Follows.refl s)

@[simp] theorem State.setRc_storesOk {s : State} (a : Nat) (w : Word) (h : StoresOk s) :
    StoresOk (State.setRc s a w) := (State.setRc_frame s a w).stores h
@[simp] theorem State.setRc_rwW (s : State) (a : Nat) (w : Word) (j : Nat) :
    (State.setRc s a w).rwW j = s.rwW j := (State.setRc_frame s a w).others.rwW rfl j
@[simp] theorem State.setRc_stagedW (s : State) (a : Nat) (w : Word) (j : Nat) :
    (State.setRc s a w).stagedW j = s.stagedW j := (State.setRc_frame s a w).others.stagedW rfl j
@[simp] theorem State.setRc_appliedW (s : State) (a : Nat) (w : Word) (j : Nat) :
    (State.setRc s a w).appliedW j = s.appliedW j := (State.setRc_frame s a w).others.appliedW rfl j
@[simp] theorem State.setRc_inForceW (s : State) (a : Nat) (w : Word) (j : Nat) :
    (State.setRc s a w).inForceW j = s.inForceW j := (State.setRc_frame s a w).others.inForceW rfl j
@[simp] theorem State.setRc_counter (s : State) (a : Nat) (w : Word) (j : Nat) :
    (State.setRc s a w).counter j = s.counter j := (State.setRc_frame s a w).others.counter rfl j
@[simp] theorem State.setRc_mboxOf (s : State) (a : Nat) (w : Word) (j : Nat) :
    (State.setRc s a w).mboxOf j = s.mboxOf j := (State.setRc_frame s a w).others.mboxOf rfl j
@[simp] theorem State.setRc_ringOf (s : State) (a : Nat) (w : Word) (j : Nat) :
    (State.setRc s a w).ringOf j = s.ringOf j := (State.setRc_frame s a w).others.ringOf rfl j
@[simp] theorem State.setRc_sapOf (s : State) (a : Nat) (w : Word) (j : Nat) :
    (State.setRc s a w).sapOf j = s.sapOf j := (State.setRc_frame s a w).others.sapOf rfl j
@[simp] theorem State.setRc_engOf (s : State) (a : Nat) (w : Word) (j : Nat) :
    (State.setRc s a w).engOf j = s.engOf j := (State.setRc_frame s a w).others.engOf rfl j
@[simp] theorem State.setRc_juncOf (s : State) (a : Nat) (w : Word) (j : Nat) :
    (State.setRc s a w).juncOf j = s.juncOf j := (State.setRc_frame s a w).others.juncOf rfl j
@[simp] theorem State.setRc_muteOf (s : State) (a : Nat) (w : Word) (j : Nat) :
    (State.setRc s a w).muteOf j = s.muteOf j := (State.setRc_frame s a w).others.muteOf rfl j
@[simp] theorem State.setRc_chOf (s : State) (a : Nat) (w : Word) (j : Nat) :
    (State.setRc s a w).chOf j = s.chOf j := (State.setRc_frame s a w).others.chOf rfl j
@[simp] theorem State.setRc_trkOf (s : State) (a : Nat) (w : Word) (j : Nat) :
    (State.setRc s a w).trkOf j = s.trkOf j := (State.setRc_frame s a w).others.trkOf rfl j
@[simp] theorem State.setRc_stxOf (s : State) (a : Nat) (w : Word) (j : Nat) :
    (State.setRc s a w).stxOf j = s.stxOf j := (State.setRc_frame s a w).others.stxOf rfl j
@[simp] theorem State.setRc_srxOf (s : State) (a : Nat) (w : Word) (j : Nat) :
    (State.setRc s a w).srxOf j = s.srxOf j := (State.setRc_frame s a w).others.srxOf rfl j
@[simp] theorem State.setRc_grpOf (s : State) (a : Nat) (w : Word) (j : Nat) :
    (State.setRc s a w).grpOf j = s.grpOf j := (State.setRc_frame s a w).others.grpOf rfl j
@[simp] theorem State.setRc_dpcOf (s : State) (a : Nat) (w : Word) (j : Nat) :
    (State.setRc s a w).dpcOf j = s.dpcOf j := (State.setRc_frame s a w).others.dpcOf rfl j

/-! emit -/

theorem State.emit_frame (s : State) (x : OutItem) : Follows [] s (State.emit s x) :=
  State.emit_follows s x (Follows.refl s)

@[simp] theorem State.emit_storesOk {s : State} (x : OutItem) (h : StoresOk s) :
    StoresOk (State.emit s x) := (State.emit_frame s x).stores h
@[simp] theorem State.emit_rcW (s : State) (x : OutItem) (j : Nat) :
    (State.emit s x).rcW j = s.rcW j := (State.emit_frame s x).others.rcW rfl j
@[simp] theorem State.emit_event (s : State) (x : OutItem) (j : Nat) :
    (State.emit s x).event j = s.event j := (State.emit_frame s x).others.event rfl j
@[simp] theorem State.emit_rwW (s : State) (x : OutItem) (j : Nat) :
    (State.emit s x).rwW j = s.rwW j := (State.emit_frame s x).others.rwW rfl j
@[simp] theorem State.emit_stagedW (s : State) (x : OutItem) (j : Nat) :
    (State.emit s x).stagedW j = s.stagedW j := (State.emit_frame s x).others.stagedW rfl j
@[simp] theorem State.emit_appliedW (s : State) (x : OutItem) (j : Nat) :
    (State.emit s x).appliedW j = s.appliedW j := (State.emit_frame s x).others.appliedW rfl j
@[simp] theorem State.emit_inForceW (s : State) (x : OutItem) (j : Nat) :
    (State.emit s x).inForceW j = s.inForceW j := (State.emit_frame s x).others.inForceW rfl j
@[simp] theorem State.emit_counter (s : State) (x : OutItem) (j : Nat) :
    (State.emit s x).counter j = s.counter j := (State.emit_frame s x).others.counter rfl j
@[simp] theorem State.emit_mboxOf (s : State) (x : OutItem) (j : Nat) :
    (State.emit s x).mboxOf j = s.mboxOf j := (State.emit_frame s x).others.mboxOf rfl j
@[simp] theorem State.emit_ringOf (s : State) (x : OutItem) (j : Nat) :
    (State.emit s x).ringOf j = s.ringOf j := (State.emit_frame s x).others.ringOf rfl j
@[simp] theorem State.emit_sapOf (s : State) (x : OutItem) (j : Nat) :
    (State.emit s x).sapOf j = s.sapOf j := (State.emit_frame s x).others.sapOf rfl j
@[simp] theorem State.emit_engOf (s : State) (x : OutItem) (j : Nat) :
    (State.emit s x).engOf j = s.engOf j := (State.emit_frame s x).others.engOf rfl j
@[simp] theorem State.emit_juncOf (s : State) (x : OutItem) (j : Nat) :
    (State.emit s x).juncOf j = s.juncOf j := (State.emit_frame s x).others.juncOf rfl j
@[simp] theorem State.emit_muteOf (s : State) (x : OutItem) (j : Nat) :
    (State.emit s x).muteOf j = s.muteOf j := (State.emit_frame s x).others.muteOf rfl j
@[simp] theorem State.emit_chOf (s : State) (x : OutItem) (j : Nat) :
    (State.emit s x).chOf j = s.chOf j := (State.emit_frame s x).others.chOf rfl j
@[simp] theorem State.emit_trkOf (s : State) (x : OutItem) (j : Nat) :
    (State.emit s x).trkOf j = s.trkOf j := (State.emit_frame s x).others.trkOf rfl j
@[simp] theorem State.emit_stxOf (s : State) (x : OutItem) (j : Nat) :
    (State.emit s x).stxOf j = s.stxOf j := (State.emit_frame s x).others.stxOf rfl j
@[simp] theorem State.emit_srxOf (s : State) (x : OutItem) (j : Nat) :
    (State.emit s x).srxOf j = s.srxOf j := (State.emit_frame s x).others.srxOf rfl j
@[simp] theorem State.emit_grpOf (s : State) (x : OutItem) (j : Nat) :
    (State.emit s x).grpOf j = s.grpOf j := (State.emit_frame s x).others.grpOf rfl j
@[simp] theorem State.emit_dpcOf (s : State) (x : OutItem) (j : Nat) :
    (State.emit s x).dpcOf j = s.dpcOf j := (State.emit_frame s x).others.dpcOf rfl j

/-! msgDue -/

theorem State.msgDue_frame (s : State) (v : Nat) : Follows [] s (State.msgDue s v) :=
  State.msgDue_follows s v (Follows.refl s)

@[simp] theorem State.msgDue_member (s : State) (v : Nat) :
    (State.msgDue s v).member = s.member := (State.msgDue_frame s v).member
@[simp] theorem State.msgDue_storesOk {s : State} (v : Nat) (h : StoresOk s) :
    StoresOk (State.msgDue s v) := (State.msgDue_frame s v).stores h
@[simp] theorem State.msgDue_rcW (s : State) (v : Nat) (j : Nat) :
    (State.msgDue s v).rcW j = s.rcW j := (State.msgDue_frame s v).others.rcW rfl j
@[simp] theorem State.msgDue_event (s : State) (v : Nat) (j : Nat) :
    (State.msgDue s v).event j = s.event j := (State.msgDue_frame s v).others.event rfl j
@[simp] theorem State.msgDue_rwW (s : State) (v : Nat) (j : Nat) :
    (State.msgDue s v).rwW j = s.rwW j := (State.msgDue_frame s v).others.rwW rfl j
@[simp] theorem State.msgDue_stagedW (s : State) (v : Nat) (j : Nat) :
    (State.msgDue s v).stagedW j = s.stagedW j := (State.msgDue_frame s v).others.stagedW rfl j
@[simp] theorem State.msgDue_appliedW (s : State) (v : Nat) (j : Nat) :
    (State.msgDue s v).appliedW j = s.appliedW j := (State.msgDue_frame s v).others.appliedW rfl j
@[simp] theorem State.msgDue_inForceW (s : State) (v : Nat) (j : Nat) :
    (State.msgDue s v).inForceW j = s.inForceW j := (State.msgDue_frame s v).others.inForceW rfl j
@[simp] theorem State.msgDue_counter (s : State) (v : Nat) (j : Nat) :
    (State.msgDue s v).counter j = s.counter j := (State.msgDue_frame s v).others.counter rfl j
@[simp] theorem State.msgDue_mboxOf (s : State) (v : Nat) (j : Nat) :
    (State.msgDue s v).mboxOf j = s.mboxOf j := (State.msgDue_frame s v).others.mboxOf rfl j
@[simp] theorem State.msgDue_ringOf (s : State) (v : Nat) (j : Nat) :
    (State.msgDue s v).ringOf j = s.ringOf j := (State.msgDue_frame s v).others.ringOf rfl j
@[simp] theorem State.msgDue_sapOf (s : State) (v : Nat) (j : Nat) :
    (State.msgDue s v).sapOf j = s.sapOf j := (State.msgDue_frame s v).others.sapOf rfl j
@[simp] theorem State.msgDue_engOf (s : State) (v : Nat) (j : Nat) :
    (State.msgDue s v).engOf j = s.engOf j := (State.msgDue_frame s v).others.engOf rfl j
@[simp] theorem State.msgDue_juncOf (s : State) (v : Nat) (j : Nat) :
    (State.msgDue s v).juncOf j = s.juncOf j := (State.msgDue_frame s v).others.juncOf rfl j
@[simp] theorem State.msgDue_muteOf (s : State) (v : Nat) (j : Nat) :
    (State.msgDue s v).muteOf j = s.muteOf j := (State.msgDue_frame s v).others.muteOf rfl j
@[simp] theorem State.msgDue_chOf (s : State) (v : Nat) (j : Nat) :
    (State.msgDue s v).chOf j = s.chOf j := (State.msgDue_frame s v).others.chOf rfl j
@[simp] theorem State.msgDue_trkOf (s : State) (v : Nat) (j : Nat) :
    (State.msgDue s v).trkOf j = s.trkOf j := (State.msgDue_frame s v).others.trkOf rfl j
@[simp] theorem State.msgDue_stxOf (s : State) (v : Nat) (j : Nat) :
    (State.msgDue s v).stxOf j = s.stxOf j := (State.msgDue_frame s v).others.stxOf rfl j
@[simp] theorem State.msgDue_srxOf (s : State) (v : Nat) (j : Nat) :
    (State.msgDue s v).srxOf j = s.srxOf j := (State.msgDue_frame s v).others.srxOf rfl j
@[simp] theorem State.msgDue_grpOf (s : State) (v : Nat) (j : Nat) :
    (State.msgDue s v).grpOf j = s.grpOf j := (State.msgDue_frame s v).others.grpOf rfl j
@[simp] theorem State.msgDue_dpcOf (s : State) (v : Nat) (j : Nat) :
    (State.msgDue s v).dpcOf j = s.dpcOf j := (State.msgDue_frame s v).others.dpcOf rfl j
@[simp] theorem State.msgDue_tt (s : State) (v : Nat) :
    (State.msgDue s v).tt = s.tt := (State.msgDue_frame s v).others.ttKept rfl rfl
@[simp] theorem State.msgDue_tim (s : State) (v : Nat) :
    (State.msgDue s v).tim = s.tim := (State.msgDue_frame s v).others.keeps .tim rfl
@[simp] theorem State.msgDue_mcr (s : State) (v : Nat) :
    (State.msgDue s v).mcr = s.mcr := (State.msgDue_frame s v).others.keeps .mcr rfl
@[simp] theorem State.msgDue_syn (s : State) (v : Nat) :
    (State.msgDue s v).syn = s.syn := (State.msgDue_frame s v).others.keeps .syn rfl
@[simp] theorem State.msgDue_mix (s : State) (v : Nat) :
    (State.msgDue s v).mix = s.mix := (State.msgDue_frame s v).others.keeps .mix rfl
@[simp] theorem State.msgDue_macA (s : State) (v : Nat) :
    (State.msgDue s v).macA = s.macA := (State.msgDue_frame s v).others.keeps .macA rfl
@[simp] theorem State.msgDue_macB (s : State) (v : Nat) :
    (State.msgDue s v).macB = s.macB := (State.msgDue_frame s v).others.keeps .macB rfl
@[simp] theorem State.msgDue_mdio (s : State) (v : Nat) :
    (State.msgDue s v).mdio = s.mdio := (State.msgDue_frame s v).others.keeps .mdio rfl
@[simp] theorem State.msgDue_stx (s : State) (v : Nat) :
    (State.msgDue s v).stx = s.stx := (State.msgDue_frame s v).others.keeps .stx rfl
@[simp] theorem State.msgDue_srx (s : State) (v : Nat) :
    (State.msgDue s v).srx = s.srx := (State.msgDue_frame s v).others.keeps .srx rfl
@[simp] theorem State.msgDue_dpc (s : State) (v : Nat) :
    (State.msgDue s v).dpc = s.dpc := (State.msgDue_frame s v).others.keeps .dpc rfl
@[simp] theorem State.msgDue_eng (s : State) (v : Nat) :
    (State.msgDue s v).eng = s.eng := (State.msgDue_frame s v).others.keeps .eng rfl
@[simp] theorem State.msgDue_mbox (s : State) (v : Nat) :
    (State.msgDue s v).mbox = s.mbox := (State.msgDue_frame s v).others.keeps .mbox rfl
@[simp] theorem State.msgDue_ring (s : State) (v : Nat) :
    (State.msgDue s v).ring = s.ring := (State.msgDue_frame s v).others.keeps .ring rfl
@[simp] theorem State.msgDue_sap (s : State) (v : Nat) :
    (State.msgDue s v).sap = s.sap := (State.msgDue_frame s v).others.keeps .sap rfl
@[simp] theorem State.msgDue_asrc (s : State) (v : Nat) :
    (State.msgDue s v).asrc = s.asrc := (State.msgDue_frame s v).others.keeps .asrc rfl
@[simp] theorem State.msgDue_pwr (s : State) (v : Nat) :
    (State.msgDue s v).pwr = s.pwr := (State.msgDue_frame s v).others.keeps .pwr rfl
@[simp] theorem State.msgDue_pair (s : State) (v : Nat) :
    (State.msgDue s v).pair = s.pair := (State.msgDue_frame s v).others.keeps .pair rfl
@[simp] theorem State.msgDue_pmu (s : State) (v : Nat) :
    (State.msgDue s v).pmu = s.pmu := (State.msgDue_frame s v).others.keeps .pmu rfl
@[simp] theorem State.msgDue_mgt (s : State) (v : Nat) :
    (State.msgDue s v).mgt = s.mgt := (State.msgDue_frame s v).others.keeps .mgt rfl
@[simp] theorem State.msgDue_pci (s : State) (v : Nat) :
    (State.msgDue s v).pci = s.pci := (State.msgDue_frame s v).others.keeps .pci rfl
@[simp] theorem State.msgDue_sst (s : State) (v : Nat) :
    (State.msgDue s v).sst = s.sst := (State.msgDue_frame s v).others.keeps .sst rfl
@[simp] theorem State.msgDue_cmd (s : State) (v : Nat) :
    (State.msgDue s v).cmd = s.cmd := (State.msgDue_frame s v).others.keeps .cmd rfl
@[simp] theorem State.msgDue_hrx (s : State) (v : Nat) :
    (State.msgDue s v).hrx = s.hrx := (State.msgDue_frame s v).others.keeps .hrx rfl
@[simp] theorem State.msgDue_msixEn (s : State) (v : Nat) :
    (State.msgDue s v).msixEn = s.msixEn := (State.msgDue_frame s v).others.keeps .msixEn rfl
@[simp] theorem State.msgDue_intDis (s : State) (v : Nat) :
    (State.msgDue s v).intDis = s.intDis := (State.msgDue_frame s v).others.keeps .intDis rfl
@[simp] theorem State.msgDue_hstop (s : State) (v : Nat) :
    (State.msgDue s v).reg.hstop = s.reg.hstop := (State.msgDue_frame s v).others.keeps .hstop rfl

/-! raise -/

theorem State.raise_frame (s : State) (n : Nat) : Follows [.rc] s (State.raise s n) :=
  State.raise_follows s n (fun _ k => k) (Follows.refl s)

@[simp] theorem State.raise_rwW (s : State) (n : Nat) (j : Nat) :
    (State.raise s n).rwW j = s.rwW j := (State.raise_frame s n).others.rwW rfl j
@[simp] theorem State.raise_stagedW (s : State) (n : Nat) (j : Nat) :
    (State.raise s n).stagedW j = s.stagedW j := (State.raise_frame s n).others.stagedW rfl j
@[simp] theorem State.raise_appliedW (s : State) (n : Nat) (j : Nat) :
    (State.raise s n).appliedW j = s.appliedW j := (State.raise_frame s n).others.appliedW rfl j
@[simp] theorem State.raise_inForceW (s : State) (n : Nat) (j : Nat) :
    (State.raise s n).inForceW j = s.inForceW j := (State.raise_frame s n).others.inForceW rfl j
@[simp] theorem State.raise_counter (s : State) (n : Nat) (j : Nat) :
    (State.raise s n).counter j = s.counter j := (State.raise_frame s n).others.counter rfl j
@[simp] theorem State.raise_mboxOf (s : State) (n : Nat) (j : Nat) :
    (State.raise s n).mboxOf j = s.mboxOf j := (State.raise_frame s n).others.mboxOf rfl j
@[simp] theorem State.raise_ringOf (s : State) (n : Nat) (j : Nat) :
    (State.raise s n).ringOf j = s.ringOf j := (State.raise_frame s n).others.ringOf rfl j
@[simp] theorem State.raise_sapOf (s : State) (n : Nat) (j : Nat) :
    (State.raise s n).sapOf j = s.sapOf j := (State.raise_frame s n).others.sapOf rfl j
@[simp] theorem State.raise_engOf (s : State) (n : Nat) (j : Nat) :
    (State.raise s n).engOf j = s.engOf j := (State.raise_frame s n).others.engOf rfl j
@[simp] theorem State.raise_juncOf (s : State) (n : Nat) (j : Nat) :
    (State.raise s n).juncOf j = s.juncOf j := (State.raise_frame s n).others.juncOf rfl j
@[simp] theorem State.raise_muteOf (s : State) (n : Nat) (j : Nat) :
    (State.raise s n).muteOf j = s.muteOf j := (State.raise_frame s n).others.muteOf rfl j
@[simp] theorem State.raise_chOf (s : State) (n : Nat) (j : Nat) :
    (State.raise s n).chOf j = s.chOf j := (State.raise_frame s n).others.chOf rfl j
@[simp] theorem State.raise_trkOf (s : State) (n : Nat) (j : Nat) :
    (State.raise s n).trkOf j = s.trkOf j := (State.raise_frame s n).others.trkOf rfl j
@[simp] theorem State.raise_stxOf (s : State) (n : Nat) (j : Nat) :
    (State.raise s n).stxOf j = s.stxOf j := (State.raise_frame s n).others.stxOf rfl j
@[simp] theorem State.raise_srxOf (s : State) (n : Nat) (j : Nat) :
    (State.raise s n).srxOf j = s.srxOf j := (State.raise_frame s n).others.srxOf rfl j
@[simp] theorem State.raise_grpOf (s : State) (n : Nat) (j : Nat) :
    (State.raise s n).grpOf j = s.grpOf j := (State.raise_frame s n).others.grpOf rfl j
@[simp] theorem State.raise_dpcOf (s : State) (n : Nat) (j : Nat) :
    (State.raise s n).dpcOf j = s.dpcOf j := (State.raise_frame s n).others.dpcOf rfl j
@[simp] theorem State.raise_tt (s : State) (n : Nat) :
    (State.raise s n).tt = s.tt := (State.raise_frame s n).others.ttKept rfl rfl
@[simp] theorem State.raise_tim (s : State) (n : Nat) :
    (State.raise s n).tim = s.tim := (State.raise_frame s n).others.keeps .tim rfl
@[simp] theorem State.raise_mcr (s : State) (n : Nat) :
    (State.raise s n).mcr = s.mcr := (State.raise_frame s n).others.keeps .mcr rfl
@[simp] theorem State.raise_syn (s : State) (n : Nat) :
    (State.raise s n).syn = s.syn := (State.raise_frame s n).others.keeps .syn rfl
@[simp] theorem State.raise_mix (s : State) (n : Nat) :
    (State.raise s n).mix = s.mix := (State.raise_frame s n).others.keeps .mix rfl
@[simp] theorem State.raise_macA (s : State) (n : Nat) :
    (State.raise s n).macA = s.macA := (State.raise_frame s n).others.keeps .macA rfl
@[simp] theorem State.raise_macB (s : State) (n : Nat) :
    (State.raise s n).macB = s.macB := (State.raise_frame s n).others.keeps .macB rfl
@[simp] theorem State.raise_mdio (s : State) (n : Nat) :
    (State.raise s n).mdio = s.mdio := (State.raise_frame s n).others.keeps .mdio rfl
@[simp] theorem State.raise_stx (s : State) (n : Nat) :
    (State.raise s n).stx = s.stx := (State.raise_frame s n).others.keeps .stx rfl
@[simp] theorem State.raise_srx (s : State) (n : Nat) :
    (State.raise s n).srx = s.srx := (State.raise_frame s n).others.keeps .srx rfl
@[simp] theorem State.raise_dpc (s : State) (n : Nat) :
    (State.raise s n).dpc = s.dpc := (State.raise_frame s n).others.keeps .dpc rfl
@[simp] theorem State.raise_eng (s : State) (n : Nat) :
    (State.raise s n).eng = s.eng := (State.raise_frame s n).others.keeps .eng rfl
@[simp] theorem State.raise_mbox (s : State) (n : Nat) :
    (State.raise s n).mbox = s.mbox := (State.raise_frame s n).others.keeps .mbox rfl
@[simp] theorem State.raise_ring (s : State) (n : Nat) :
    (State.raise s n).ring = s.ring := (State.raise_frame s n).others.keeps .ring rfl
@[simp] theorem State.raise_sap (s : State) (n : Nat) :
    (State.raise s n).sap = s.sap := (State.raise_frame s n).others.keeps .sap rfl
@[simp] theorem State.raise_asrc (s : State) (n : Nat) :
    (State.raise s n).asrc = s.asrc := (State.raise_frame s n).others.keeps .asrc rfl
@[simp] theorem State.raise_pwr (s : State) (n : Nat) :
    (State.raise s n).pwr = s.pwr := (State.raise_frame s n).others.keeps .pwr rfl
@[simp] theorem State.raise_pair (s : State) (n : Nat) :
    (State.raise s n).pair = s.pair := (State.raise_frame s n).others.keeps .pair rfl
@[simp] theorem State.raise_pmu (s : State) (n : Nat) :
    (State.raise s n).pmu = s.pmu := (State.raise_frame s n).others.keeps .pmu rfl
@[simp] theorem State.raise_mgt (s : State) (n : Nat) :
    (State.raise s n).mgt = s.mgt := (State.raise_frame s n).others.keeps .mgt rfl
@[simp] theorem State.raise_pci (s : State) (n : Nat) :
    (State.raise s n).pci = s.pci := (State.raise_frame s n).others.keeps .pci rfl
@[simp] theorem State.raise_sst (s : State) (n : Nat) :
    (State.raise s n).sst = s.sst := (State.raise_frame s n).others.keeps .sst rfl
@[simp] theorem State.raise_cmd (s : State) (n : Nat) :
    (State.raise s n).cmd = s.cmd := (State.raise_frame s n).others.keeps .cmd rfl
@[simp] theorem State.raise_hrx (s : State) (n : Nat) :
    (State.raise s n).hrx = s.hrx := (State.raise_frame s n).others.keeps .hrx rfl
@[simp] theorem State.raise_msixEn (s : State) (n : Nat) :
    (State.raise s n).msixEn = s.msixEn := (State.raise_frame s n).others.keeps .msixEn rfl
@[simp] theorem State.raise_intDis (s : State) (n : Nat) :
    (State.raise s n).intDis = s.intDis := (State.raise_frame s n).others.keeps .intDis rfl
@[simp] theorem State.raise_hstop (s : State) (n : Nat) :
    (State.raise s n).reg.hstop = s.reg.hstop := (State.raise_frame s n).others.keeps .hstop rfl

/-! flag -/

theorem State.flag_frame (s : State) (a : Nat) (mask : Nat) : Follows [.rc] s (State.flag s a mask) :=
  State.flag_follows s a mask (fun _ k => k) (Follows.refl s)

@[simp] theorem State.flag_rwW (s : State) (a : Nat) (mask : Nat) (j : Nat) :
    (State.flag s a mask).rwW j = s.rwW j := (State.flag_frame s a mask).others.rwW rfl j
@[simp] theorem State.flag_stagedW (s : State) (a : Nat) (mask : Nat) (j : Nat) :
    (State.flag s a mask).stagedW j = s.stagedW j := (State.flag_frame s a mask).others.stagedW rfl j
@[simp] theorem State.flag_appliedW (s : State) (a : Nat) (mask : Nat) (j : Nat) :
    (State.flag s a mask).appliedW j = s.appliedW j := (State.flag_frame s a mask).others.appliedW rfl j
@[simp] theorem State.flag_inForceW (s : State) (a : Nat) (mask : Nat) (j : Nat) :
    (State.flag s a mask).inForceW j = s.inForceW j := (State.flag_frame s a mask).others.inForceW rfl j
@[simp] theorem State.flag_counter (s : State) (a : Nat) (mask : Nat) (j : Nat) :
    (State.flag s a mask).counter j = s.counter j := (State.flag_frame s a mask).others.counter rfl j
@[simp] theorem State.flag_mboxOf (s : State) (a : Nat) (mask : Nat) (j : Nat) :
    (State.flag s a mask).mboxOf j = s.mboxOf j := (State.flag_frame s a mask).others.mboxOf rfl j
@[simp] theorem State.flag_ringOf (s : State) (a : Nat) (mask : Nat) (j : Nat) :
    (State.flag s a mask).ringOf j = s.ringOf j := (State.flag_frame s a mask).others.ringOf rfl j
@[simp] theorem State.flag_sapOf (s : State) (a : Nat) (mask : Nat) (j : Nat) :
    (State.flag s a mask).sapOf j = s.sapOf j := (State.flag_frame s a mask).others.sapOf rfl j
@[simp] theorem State.flag_engOf (s : State) (a : Nat) (mask : Nat) (j : Nat) :
    (State.flag s a mask).engOf j = s.engOf j := (State.flag_frame s a mask).others.engOf rfl j
@[simp] theorem State.flag_juncOf (s : State) (a : Nat) (mask : Nat) (j : Nat) :
    (State.flag s a mask).juncOf j = s.juncOf j := (State.flag_frame s a mask).others.juncOf rfl j
@[simp] theorem State.flag_muteOf (s : State) (a : Nat) (mask : Nat) (j : Nat) :
    (State.flag s a mask).muteOf j = s.muteOf j := (State.flag_frame s a mask).others.muteOf rfl j
@[simp] theorem State.flag_chOf (s : State) (a : Nat) (mask : Nat) (j : Nat) :
    (State.flag s a mask).chOf j = s.chOf j := (State.flag_frame s a mask).others.chOf rfl j
@[simp] theorem State.flag_trkOf (s : State) (a : Nat) (mask : Nat) (j : Nat) :
    (State.flag s a mask).trkOf j = s.trkOf j := (State.flag_frame s a mask).others.trkOf rfl j
@[simp] theorem State.flag_stxOf (s : State) (a : Nat) (mask : Nat) (j : Nat) :
    (State.flag s a mask).stxOf j = s.stxOf j := (State.flag_frame s a mask).others.stxOf rfl j
@[simp] theorem State.flag_srxOf (s : State) (a : Nat) (mask : Nat) (j : Nat) :
    (State.flag s a mask).srxOf j = s.srxOf j := (State.flag_frame s a mask).others.srxOf rfl j
@[simp] theorem State.flag_grpOf (s : State) (a : Nat) (mask : Nat) (j : Nat) :
    (State.flag s a mask).grpOf j = s.grpOf j := (State.flag_frame s a mask).others.grpOf rfl j
@[simp] theorem State.flag_dpcOf (s : State) (a : Nat) (mask : Nat) (j : Nat) :
    (State.flag s a mask).dpcOf j = s.dpcOf j := (State.flag_frame s a mask).others.dpcOf rfl j
@[simp] theorem State.flag_tt (s : State) (a : Nat) (mask : Nat) :
    (State.flag s a mask).tt = s.tt := (State.flag_frame s a mask).others.ttKept rfl rfl
@[simp] theorem State.flag_tim (s : State) (a : Nat) (mask : Nat) :
    (State.flag s a mask).tim = s.tim := (State.flag_frame s a mask).others.keeps .tim rfl
@[simp] theorem State.flag_mcr (s : State) (a : Nat) (mask : Nat) :
    (State.flag s a mask).mcr = s.mcr := (State.flag_frame s a mask).others.keeps .mcr rfl
@[simp] theorem State.flag_syn (s : State) (a : Nat) (mask : Nat) :
    (State.flag s a mask).syn = s.syn := (State.flag_frame s a mask).others.keeps .syn rfl
@[simp] theorem State.flag_mix (s : State) (a : Nat) (mask : Nat) :
    (State.flag s a mask).mix = s.mix := (State.flag_frame s a mask).others.keeps .mix rfl
@[simp] theorem State.flag_macA (s : State) (a : Nat) (mask : Nat) :
    (State.flag s a mask).macA = s.macA := (State.flag_frame s a mask).others.keeps .macA rfl
@[simp] theorem State.flag_macB (s : State) (a : Nat) (mask : Nat) :
    (State.flag s a mask).macB = s.macB := (State.flag_frame s a mask).others.keeps .macB rfl
@[simp] theorem State.flag_mdio (s : State) (a : Nat) (mask : Nat) :
    (State.flag s a mask).mdio = s.mdio := (State.flag_frame s a mask).others.keeps .mdio rfl
@[simp] theorem State.flag_stx (s : State) (a : Nat) (mask : Nat) :
    (State.flag s a mask).stx = s.stx := (State.flag_frame s a mask).others.keeps .stx rfl
@[simp] theorem State.flag_srx (s : State) (a : Nat) (mask : Nat) :
    (State.flag s a mask).srx = s.srx := (State.flag_frame s a mask).others.keeps .srx rfl
@[simp] theorem State.flag_dpc (s : State) (a : Nat) (mask : Nat) :
    (State.flag s a mask).dpc = s.dpc := (State.flag_frame s a mask).others.keeps .dpc rfl
@[simp] theorem State.flag_eng (s : State) (a : Nat) (mask : Nat) :
    (State.flag s a mask).eng = s.eng := (State.flag_frame s a mask).others.keeps .eng rfl
@[simp] theorem State.flag_mbox (s : State) (a : Nat) (mask : Nat) :
    (State.flag s a mask).mbox = s.mbox := (State.flag_frame s a mask).others.keeps .mbox rfl
@[simp] theorem State.flag_ring (s : State) (a : Nat) (mask : Nat) :
    (State.flag s a mask).ring = s.ring := (State.flag_frame s a mask).others.keeps .ring rfl
@[simp] theorem State.flag_sap (s : State) (a : Nat) (mask : Nat) :
    (State.flag s a mask).sap = s.sap := (State.flag_frame s a mask).others.keeps .sap rfl
@[simp] theorem State.flag_asrc (s : State) (a : Nat) (mask : Nat) :
    (State.flag s a mask).asrc = s.asrc := (State.flag_frame s a mask).others.keeps .asrc rfl
@[simp] theorem State.flag_pwr (s : State) (a : Nat) (mask : Nat) :
    (State.flag s a mask).pwr = s.pwr := (State.flag_frame s a mask).others.keeps .pwr rfl
@[simp] theorem State.flag_pair (s : State) (a : Nat) (mask : Nat) :
    (State.flag s a mask).pair = s.pair := (State.flag_frame s a mask).others.keeps .pair rfl
@[simp] theorem State.flag_pmu (s : State) (a : Nat) (mask : Nat) :
    (State.flag s a mask).pmu = s.pmu := (State.flag_frame s a mask).others.keeps .pmu rfl
@[simp] theorem State.flag_mgt (s : State) (a : Nat) (mask : Nat) :
    (State.flag s a mask).mgt = s.mgt := (State.flag_frame s a mask).others.keeps .mgt rfl
@[simp] theorem State.flag_pci (s : State) (a : Nat) (mask : Nat) :
    (State.flag s a mask).pci = s.pci := (State.flag_frame s a mask).others.keeps .pci rfl
@[simp] theorem State.flag_sst (s : State) (a : Nat) (mask : Nat) :
    (State.flag s a mask).sst = s.sst := (State.flag_frame s a mask).others.keeps .sst rfl
@[simp] theorem State.flag_cmd (s : State) (a : Nat) (mask : Nat) :
    (State.flag s a mask).cmd = s.cmd := (State.flag_frame s a mask).others.keeps .cmd rfl
@[simp] theorem State.flag_hrx (s : State) (a : Nat) (mask : Nat) :
    (State.flag s a mask).hrx = s.hrx := (State.flag_frame s a mask).others.keeps .hrx rfl
@[simp] theorem State.flag_msixEn (s : State) (a : Nat) (mask : Nat) :
    (State.flag s a mask).msixEn = s.msixEn := (State.flag_frame s a mask).others.keeps .msixEn rfl
@[simp] theorem State.flag_intDis (s : State) (a : Nat) (mask : Nat) :
    (State.flag s a mask).intDis = s.intDis := (State.flag_frame s a mask).others.keeps .intDis rfl
@[simp] theorem State.flag_hstop (s : State) (a : Nat) (mask : Nat) :
    (State.flag s a mask).reg.hstop = s.reg.hstop := (State.flag_frame s a mask).others.keeps .hstop rfl

/-! flagRaise -/

theorem State.flagRaise_frame (s : State) (a mask n : Nat) : Follows [.rc] s (State.flagRaise s a mask n) :=
  State.flagRaise_follows s a mask n (fun _ k => k) (Follows.refl s)

@[simp] theorem State.flagRaise_member (s : State) (a mask n : Nat) :
    (State.flagRaise s a mask n).member = s.member := (State.flagRaise_frame s a mask n).member
@[simp] theorem State.flagRaise_storesOk {s : State} (a mask n : Nat) (h : StoresOk s) :
    StoresOk (State.flagRaise s a mask n) := (State.flagRaise_frame s a mask n).stores h
@[simp] theorem State.flagRaise_rwW (s : State) (a mask n : Nat) (j : Nat) :
    (State.flagRaise s a mask n).rwW j = s.rwW j := (State.flagRaise_frame s a mask n).others.rwW rfl j
@[simp] theorem State.flagRaise_stagedW (s : State) (a mask n : Nat) (j : Nat) :
    (State.flagRaise s a mask n).stagedW j = s.stagedW j := (State.flagRaise_frame s a mask n).others.stagedW rfl j
@[simp] theorem State.flagRaise_appliedW (s : State) (a mask n : Nat) (j : Nat) :
    (State.flagRaise s a mask n).appliedW j = s.appliedW j :=
  (State.flagRaise_frame s a mask n).others.appliedW rfl j
@[simp] theorem State.flagRaise_inForceW (s : State) (a mask n : Nat) (j : Nat) :
    (State.flagRaise s a mask n).inForceW j = s.inForceW j :=
  (State.flagRaise_frame s a mask n).others.inForceW rfl j
@[simp] theorem State.flagRaise_counter (s : State) (a mask n : Nat) (j : Nat) :
    (State.flagRaise s a mask n).counter j = s.counter j := (State.flagRaise_frame s a mask n).others.counter rfl j
@[simp] theorem State.flagRaise_mboxOf (s : State) (a mask n : Nat) (j : Nat) :
    (State.flagRaise s a mask n).mboxOf j = s.mboxOf j := (State.flagRaise_frame s a mask n).others.mboxOf rfl j
@[simp] theorem State.flagRaise_ringOf (s : State) (a mask n : Nat) (j : Nat) :
    (State.flagRaise s a mask n).ringOf j = s.ringOf j := (State.flagRaise_frame s a mask n).others.ringOf rfl j
@[simp] theorem State.flagRaise_sapOf (s : State) (a mask n : Nat) (j : Nat) :
    (State.flagRaise s a mask n).sapOf j = s.sapOf j := (State.flagRaise_frame s a mask n).others.sapOf rfl j
@[simp] theorem State.flagRaise_engOf (s : State) (a mask n : Nat) (j : Nat) :
    (State.flagRaise s a mask n).engOf j = s.engOf j := (State.flagRaise_frame s a mask n).others.engOf rfl j
@[simp] theorem State.flagRaise_juncOf (s : State) (a mask n : Nat) (j : Nat) :
    (State.flagRaise s a mask n).juncOf j = s.juncOf j := (State.flagRaise_frame s a mask n).others.juncOf rfl j
@[simp] theorem State.flagRaise_muteOf (s : State) (a mask n : Nat) (j : Nat) :
    (State.flagRaise s a mask n).muteOf j = s.muteOf j := (State.flagRaise_frame s a mask n).others.muteOf rfl j
@[simp] theorem State.flagRaise_chOf (s : State) (a mask n : Nat) (j : Nat) :
    (State.flagRaise s a mask n).chOf j = s.chOf j := (State.flagRaise_frame s a mask n).others.chOf rfl j
@[simp] theorem State.flagRaise_trkOf (s : State) (a mask n : Nat) (j : Nat) :
    (State.flagRaise s a mask n).trkOf j = s.trkOf j := (State.flagRaise_frame s a mask n).others.trkOf rfl j
@[simp] theorem State.flagRaise_stxOf (s : State) (a mask n : Nat) (j : Nat) :
    (State.flagRaise s a mask n).stxOf j = s.stxOf j := (State.flagRaise_frame s a mask n).others.stxOf rfl j
@[simp] theorem State.flagRaise_srxOf (s : State) (a mask n : Nat) (j : Nat) :
    (State.flagRaise s a mask n).srxOf j = s.srxOf j := (State.flagRaise_frame s a mask n).others.srxOf rfl j
@[simp] theorem State.flagRaise_grpOf (s : State) (a mask n : Nat) (j : Nat) :
    (State.flagRaise s a mask n).grpOf j = s.grpOf j := (State.flagRaise_frame s a mask n).others.grpOf rfl j
@[simp] theorem State.flagRaise_dpcOf (s : State) (a mask n : Nat) (j : Nat) :
    (State.flagRaise s a mask n).dpcOf j = s.dpcOf j := (State.flagRaise_frame s a mask n).others.dpcOf rfl j
@[simp] theorem State.flagRaise_tt (s : State) (a mask n : Nat) :
    (State.flagRaise s a mask n).tt = s.tt := (State.flagRaise_frame s a mask n).others.ttKept rfl rfl
@[simp] theorem State.flagRaise_tim (s : State) (a mask n : Nat) :
    (State.flagRaise s a mask n).tim = s.tim := (State.flagRaise_frame s a mask n).others.keeps .tim rfl
@[simp] theorem State.flagRaise_mcr (s : State) (a mask n : Nat) :
    (State.flagRaise s a mask n).mcr = s.mcr := (State.flagRaise_frame s a mask n).others.keeps .mcr rfl
@[simp] theorem State.flagRaise_syn (s : State) (a mask n : Nat) :
    (State.flagRaise s a mask n).syn = s.syn := (State.flagRaise_frame s a mask n).others.keeps .syn rfl
@[simp] theorem State.flagRaise_mix (s : State) (a mask n : Nat) :
    (State.flagRaise s a mask n).mix = s.mix := (State.flagRaise_frame s a mask n).others.keeps .mix rfl
@[simp] theorem State.flagRaise_macA (s : State) (a mask n : Nat) :
    (State.flagRaise s a mask n).macA = s.macA := (State.flagRaise_frame s a mask n).others.keeps .macA rfl
@[simp] theorem State.flagRaise_macB (s : State) (a mask n : Nat) :
    (State.flagRaise s a mask n).macB = s.macB := (State.flagRaise_frame s a mask n).others.keeps .macB rfl
@[simp] theorem State.flagRaise_mdio (s : State) (a mask n : Nat) :
    (State.flagRaise s a mask n).mdio = s.mdio := (State.flagRaise_frame s a mask n).others.keeps .mdio rfl
@[simp] theorem State.flagRaise_stx (s : State) (a mask n : Nat) :
    (State.flagRaise s a mask n).stx = s.stx := (State.flagRaise_frame s a mask n).others.keeps .stx rfl
@[simp] theorem State.flagRaise_srx (s : State) (a mask n : Nat) :
    (State.flagRaise s a mask n).srx = s.srx := (State.flagRaise_frame s a mask n).others.keeps .srx rfl
@[simp] theorem State.flagRaise_dpc (s : State) (a mask n : Nat) :
    (State.flagRaise s a mask n).dpc = s.dpc := (State.flagRaise_frame s a mask n).others.keeps .dpc rfl
@[simp] theorem State.flagRaise_eng (s : State) (a mask n : Nat) :
    (State.flagRaise s a mask n).eng = s.eng := (State.flagRaise_frame s a mask n).others.keeps .eng rfl
@[simp] theorem State.flagRaise_mbox (s : State) (a mask n : Nat) :
    (State.flagRaise s a mask n).mbox = s.mbox := (State.flagRaise_frame s a mask n).others.keeps .mbox rfl
@[simp] theorem State.flagRaise_ring (s : State) (a mask n : Nat) :
    (State.flagRaise s a mask n).ring = s.ring := (State.flagRaise_frame s a mask n).others.keeps .ring rfl
@[simp] theorem State.flagRaise_sap (s : State) (a mask n : Nat) :
    (State.flagRaise s a mask n).sap = s.sap := (State.flagRaise_frame s a mask n).others.keeps .sap rfl
@[simp] theorem State.flagRaise_asrc (s : State) (a mask n : Nat) :
    (State.flagRaise s a mask n).asrc = s.asrc := (State.flagRaise_frame s a mask n).others.keeps .asrc rfl
@[simp] theorem State.flagRaise_pwr (s : State) (a mask n : Nat) :
    (State.flagRaise s a mask n).pwr = s.pwr := (State.flagRaise_frame s a mask n).others.keeps .pwr rfl
@[simp] theorem State.flagRaise_pair (s : State) (a mask n : Nat) :
    (State.flagRaise s a mask n).pair = s.pair := (State.flagRaise_frame s a mask n).others.keeps .pair rfl
@[simp] theorem State.flagRaise_pmu (s : State) (a mask n : Nat) :
    (State.flagRaise s a mask n).pmu = s.pmu := (State.flagRaise_frame s a mask n).others.keeps .pmu rfl
@[simp] theorem State.flagRaise_mgt (s : State) (a mask n : Nat) :
    (State.flagRaise s a mask n).mgt = s.mgt := (State.flagRaise_frame s a mask n).others.keeps .mgt rfl
@[simp] theorem State.flagRaise_pci (s : State) (a mask n : Nat) :
    (State.flagRaise s a mask n).pci = s.pci := (State.flagRaise_frame s a mask n).others.keeps .pci rfl
@[simp] theorem State.flagRaise_sst (s : State) (a mask n : Nat) :
    (State.flagRaise s a mask n).sst = s.sst := (State.flagRaise_frame s a mask n).others.keeps .sst rfl
@[simp] theorem State.flagRaise_cmd (s : State) (a mask n : Nat) :
    (State.flagRaise s a mask n).cmd = s.cmd := (State.flagRaise_frame s a mask n).others.keeps .cmd rfl
@[simp] theorem State.flagRaise_hrx (s : State) (a mask n : Nat) :
    (State.flagRaise s a mask n).hrx = s.hrx := (State.flagRaise_frame s a mask n).others.keeps .hrx rfl
@[simp] theorem State.flagRaise_msixEn (s : State) (a mask n : Nat) :
    (State.flagRaise s a mask n).msixEn = s.msixEn := (State.flagRaise_frame s a mask n).others.keeps .msixEn rfl
@[simp] theorem State.flagRaise_intDis (s : State) (a mask n : Nat) :
    (State.flagRaise s a mask n).intDis = s.intDis := (State.flagRaise_frame s a mask n).others.keeps .intDis rfl
@[simp] theorem State.flagRaise_hstop (s : State) (a mask n : Nat) :
    (State.flagRaise s a mask n).reg.hstop = s.reg.hstop :=
  (State.flagRaise_frame s a mask n).others.keeps .hstop rfl

/-! countBy -/

theorem State.countBy_frame (s : State) (a n : Nat) : Follows [.rc, .count] s (State.countBy s a n) :=
  State.countBy_follows s a n (fun _ k => k) (Follows.refl s)

@[simp] theorem State.countBy_member (s : State) (a n : Nat) :
    (State.countBy s a n).member = s.member := (State.countBy_frame s a n).member
@[simp] theorem State.countBy_storesOk {s : State} (a n : Nat) (h : StoresOk s) :
    StoresOk (State.countBy s a n) := (State.countBy_frame s a n).stores h
@[simp] theorem State.countBy_rwW (s : State) (a n : Nat) (j : Nat) :
    (State.countBy s a n).rwW j = s.rwW j := (State.countBy_frame s a n).others.rwW rfl j
@[simp] theorem State.countBy_stagedW (s : State) (a n : Nat) (j : Nat) :
    (State.countBy s a n).stagedW j = s.stagedW j := (State.countBy_frame s a n).others.stagedW rfl j
@[simp] theorem State.countBy_appliedW (s : State) (a n : Nat) (j : Nat) :
    (State.countBy s a n).appliedW j = s.appliedW j := (State.countBy_frame s a n).others.appliedW rfl j
@[simp] theorem State.countBy_inForceW (s : State) (a n : Nat) (j : Nat) :
    (State.countBy s a n).inForceW j = s.inForceW j := (State.countBy_frame s a n).others.inForceW rfl j
@[simp] theorem State.countBy_mboxOf (s : State) (a n : Nat) (j : Nat) :
    (State.countBy s a n).mboxOf j = s.mboxOf j := (State.countBy_frame s a n).others.mboxOf rfl j
@[simp] theorem State.countBy_ringOf (s : State) (a n : Nat) (j : Nat) :
    (State.countBy s a n).ringOf j = s.ringOf j := (State.countBy_frame s a n).others.ringOf rfl j
@[simp] theorem State.countBy_sapOf (s : State) (a n : Nat) (j : Nat) :
    (State.countBy s a n).sapOf j = s.sapOf j := (State.countBy_frame s a n).others.sapOf rfl j
@[simp] theorem State.countBy_engOf (s : State) (a n : Nat) (j : Nat) :
    (State.countBy s a n).engOf j = s.engOf j := (State.countBy_frame s a n).others.engOf rfl j
@[simp] theorem State.countBy_juncOf (s : State) (a n : Nat) (j : Nat) :
    (State.countBy s a n).juncOf j = s.juncOf j := (State.countBy_frame s a n).others.juncOf rfl j
@[simp] theorem State.countBy_muteOf (s : State) (a n : Nat) (j : Nat) :
    (State.countBy s a n).muteOf j = s.muteOf j := (State.countBy_frame s a n).others.muteOf rfl j
@[simp] theorem State.countBy_chOf (s : State) (a n : Nat) (j : Nat) :
    (State.countBy s a n).chOf j = s.chOf j := (State.countBy_frame s a n).others.chOf rfl j
@[simp] theorem State.countBy_trkOf (s : State) (a n : Nat) (j : Nat) :
    (State.countBy s a n).trkOf j = s.trkOf j := (State.countBy_frame s a n).others.trkOf rfl j
@[simp] theorem State.countBy_stxOf (s : State) (a n : Nat) (j : Nat) :
    (State.countBy s a n).stxOf j = s.stxOf j := (State.countBy_frame s a n).others.stxOf rfl j
@[simp] theorem State.countBy_srxOf (s : State) (a n : Nat) (j : Nat) :
    (State.countBy s a n).srxOf j = s.srxOf j := (State.countBy_frame s a n).others.srxOf rfl j
@[simp] theorem State.countBy_grpOf (s : State) (a n : Nat) (j : Nat) :
    (State.countBy s a n).grpOf j = s.grpOf j := (State.countBy_frame s a n).others.grpOf rfl j
@[simp] theorem State.countBy_dpcOf (s : State) (a n : Nat) (j : Nat) :
    (State.countBy s a n).dpcOf j = s.dpcOf j := (State.countBy_frame s a n).others.dpcOf rfl j
@[simp] theorem State.countBy_tt (s : State) (a n : Nat) :
    (State.countBy s a n).tt = s.tt := (State.countBy_frame s a n).others.ttKept rfl rfl
@[simp] theorem State.countBy_tim (s : State) (a n : Nat) :
    (State.countBy s a n).tim = s.tim := (State.countBy_frame s a n).others.keeps .tim rfl
@[simp] theorem State.countBy_mcr (s : State) (a n : Nat) :
    (State.countBy s a n).mcr = s.mcr := (State.countBy_frame s a n).others.keeps .mcr rfl
@[simp] theorem State.countBy_syn (s : State) (a n : Nat) :
    (State.countBy s a n).syn = s.syn := (State.countBy_frame s a n).others.keeps .syn rfl
@[simp] theorem State.countBy_mix (s : State) (a n : Nat) :
    (State.countBy s a n).mix = s.mix := (State.countBy_frame s a n).others.keeps .mix rfl
@[simp] theorem State.countBy_macA (s : State) (a n : Nat) :
    (State.countBy s a n).macA = s.macA := (State.countBy_frame s a n).others.keeps .macA rfl
@[simp] theorem State.countBy_macB (s : State) (a n : Nat) :
    (State.countBy s a n).macB = s.macB := (State.countBy_frame s a n).others.keeps .macB rfl
@[simp] theorem State.countBy_mdio (s : State) (a n : Nat) :
    (State.countBy s a n).mdio = s.mdio := (State.countBy_frame s a n).others.keeps .mdio rfl
@[simp] theorem State.countBy_stx (s : State) (a n : Nat) :
    (State.countBy s a n).stx = s.stx := (State.countBy_frame s a n).others.keeps .stx rfl
@[simp] theorem State.countBy_srx (s : State) (a n : Nat) :
    (State.countBy s a n).srx = s.srx := (State.countBy_frame s a n).others.keeps .srx rfl
@[simp] theorem State.countBy_dpc (s : State) (a n : Nat) :
    (State.countBy s a n).dpc = s.dpc := (State.countBy_frame s a n).others.keeps .dpc rfl
@[simp] theorem State.countBy_eng (s : State) (a n : Nat) :
    (State.countBy s a n).eng = s.eng := (State.countBy_frame s a n).others.keeps .eng rfl
@[simp] theorem State.countBy_mbox (s : State) (a n : Nat) :
    (State.countBy s a n).mbox = s.mbox := (State.countBy_frame s a n).others.keeps .mbox rfl
@[simp] theorem State.countBy_ring (s : State) (a n : Nat) :
    (State.countBy s a n).ring = s.ring := (State.countBy_frame s a n).others.keeps .ring rfl
@[simp] theorem State.countBy_sap (s : State) (a n : Nat) :
    (State.countBy s a n).sap = s.sap := (State.countBy_frame s a n).others.keeps .sap rfl
@[simp] theorem State.countBy_asrc (s : State) (a n : Nat) :
    (State.countBy s a n).asrc = s.asrc := (State.countBy_frame s a n).others.keeps .asrc rfl
@[simp] theorem State.countBy_pwr (s : State) (a n : Nat) :
    (State.countBy s a n).pwr = s.pwr := (State.countBy_frame s a n).others.keeps .pwr rfl
@[simp] theorem State.countBy_pair (s : State) (a n : Nat) :
    (State.countBy s a n).pair = s.pair := (State.countBy_frame s a n).others.keeps .pair rfl
@[simp] theorem State.countBy_pmu (s : State) (a n : Nat) :
    (State.countBy s a n).pmu = s.pmu := (State.countBy_frame s a n).others.keeps .pmu rfl
@[simp] theorem State.countBy_mgt (s : State) (a n : Nat) :
    (State.countBy s a n).mgt = s.mgt := (State.countBy_frame s a n).others.keeps .mgt rfl
@[simp] theorem State.countBy_pci (s : State) (a n : Nat) :
    (State.countBy s a n).pci = s.pci := (State.countBy_frame s a n).others.keeps .pci rfl
@[simp] theorem State.countBy_sst (s : State) (a n : Nat) :
    (State.countBy s a n).sst = s.sst := (State.countBy_frame s a n).others.keeps .sst rfl
@[simp] theorem State.countBy_cmd (s : State) (a n : Nat) :
    (State.countBy s a n).cmd = s.cmd := (State.countBy_frame s a n).others.keeps .cmd rfl
@[simp] theorem State.countBy_hrx (s : State) (a n : Nat) :
    (State.countBy s a n).hrx = s.hrx := (State.countBy_frame s a n).others.keeps .hrx rfl
@[simp] theorem State.countBy_msixEn (s : State) (a n : Nat) :
    (State.countBy s a n).msixEn = s.msixEn := (State.countBy_frame s a n).others.keeps .msixEn rfl
@[simp] theorem State.countBy_intDis (s : State) (a n : Nat) :
    (State.countBy s a n).intDis = s.intDis := (State.countBy_frame s a n).others.keeps .intDis rfl
@[simp] theorem State.countBy_hstop (s : State) (a n : Nat) :
    (State.countBy s a n).reg.hstop = s.reg.hstop := (State.countBy_frame s a n).others.keeps .hstop rfl

/-! bump -/

theorem State.bump_frame (s : State) (a : Nat) : Follows [.rc, .count] s (State.bump s a) :=
  State.bump_follows s a (fun _ k => k) (Follows.refl s)

@[simp] theorem State.bump_member (s : State) (a : Nat) :
    (State.bump s a).member = s.member := (State.bump_frame s a).member
@[simp] theorem State.bump_storesOk {s : State} (a : Nat) (h : StoresOk s) :
    StoresOk (State.bump s a) := (State.bump_frame s a).stores h
@[simp] theorem State.bump_rwW (s : State) (a : Nat) (j : Nat) :
    (State.bump s a).rwW j = s.rwW j := (State.bump_frame s a).others.rwW rfl j
@[simp] theorem State.bump_stagedW (s : State) (a : Nat) (j : Nat) :
    (State.bump s a).stagedW j = s.stagedW j := (State.bump_frame s a).others.stagedW rfl j
@[simp] theorem State.bump_appliedW (s : State) (a : Nat) (j : Nat) :
    (State.bump s a).appliedW j = s.appliedW j := (State.bump_frame s a).others.appliedW rfl j
@[simp] theorem State.bump_inForceW (s : State) (a : Nat) (j : Nat) :
    (State.bump s a).inForceW j = s.inForceW j := (State.bump_frame s a).others.inForceW rfl j
@[simp] theorem State.bump_mboxOf (s : State) (a : Nat) (j : Nat) :
    (State.bump s a).mboxOf j = s.mboxOf j := (State.bump_frame s a).others.mboxOf rfl j
@[simp] theorem State.bump_ringOf (s : State) (a : Nat) (j : Nat) :
    (State.bump s a).ringOf j = s.ringOf j := (State.bump_frame s a).others.ringOf rfl j
@[simp] theorem State.bump_sapOf (s : State) (a : Nat) (j : Nat) :
    (State.bump s a).sapOf j = s.sapOf j := (State.bump_frame s a).others.sapOf rfl j
@[simp] theorem State.bump_engOf (s : State) (a : Nat) (j : Nat) :
    (State.bump s a).engOf j = s.engOf j := (State.bump_frame s a).others.engOf rfl j
@[simp] theorem State.bump_juncOf (s : State) (a : Nat) (j : Nat) :
    (State.bump s a).juncOf j = s.juncOf j := (State.bump_frame s a).others.juncOf rfl j
@[simp] theorem State.bump_muteOf (s : State) (a : Nat) (j : Nat) :
    (State.bump s a).muteOf j = s.muteOf j := (State.bump_frame s a).others.muteOf rfl j
@[simp] theorem State.bump_chOf (s : State) (a : Nat) (j : Nat) :
    (State.bump s a).chOf j = s.chOf j := (State.bump_frame s a).others.chOf rfl j
@[simp] theorem State.bump_trkOf (s : State) (a : Nat) (j : Nat) :
    (State.bump s a).trkOf j = s.trkOf j := (State.bump_frame s a).others.trkOf rfl j
@[simp] theorem State.bump_stxOf (s : State) (a : Nat) (j : Nat) :
    (State.bump s a).stxOf j = s.stxOf j := (State.bump_frame s a).others.stxOf rfl j
@[simp] theorem State.bump_srxOf (s : State) (a : Nat) (j : Nat) :
    (State.bump s a).srxOf j = s.srxOf j := (State.bump_frame s a).others.srxOf rfl j
@[simp] theorem State.bump_grpOf (s : State) (a : Nat) (j : Nat) :
    (State.bump s a).grpOf j = s.grpOf j := (State.bump_frame s a).others.grpOf rfl j
@[simp] theorem State.bump_dpcOf (s : State) (a : Nat) (j : Nat) :
    (State.bump s a).dpcOf j = s.dpcOf j := (State.bump_frame s a).others.dpcOf rfl j
@[simp] theorem State.bump_tt (s : State) (a : Nat) :
    (State.bump s a).tt = s.tt := (State.bump_frame s a).others.ttKept rfl rfl
@[simp] theorem State.bump_tim (s : State) (a : Nat) :
    (State.bump s a).tim = s.tim := (State.bump_frame s a).others.keeps .tim rfl
@[simp] theorem State.bump_mcr (s : State) (a : Nat) :
    (State.bump s a).mcr = s.mcr := (State.bump_frame s a).others.keeps .mcr rfl
@[simp] theorem State.bump_syn (s : State) (a : Nat) :
    (State.bump s a).syn = s.syn := (State.bump_frame s a).others.keeps .syn rfl
@[simp] theorem State.bump_mix (s : State) (a : Nat) :
    (State.bump s a).mix = s.mix := (State.bump_frame s a).others.keeps .mix rfl
@[simp] theorem State.bump_macA (s : State) (a : Nat) :
    (State.bump s a).macA = s.macA := (State.bump_frame s a).others.keeps .macA rfl
@[simp] theorem State.bump_macB (s : State) (a : Nat) :
    (State.bump s a).macB = s.macB := (State.bump_frame s a).others.keeps .macB rfl
@[simp] theorem State.bump_mdio (s : State) (a : Nat) :
    (State.bump s a).mdio = s.mdio := (State.bump_frame s a).others.keeps .mdio rfl
@[simp] theorem State.bump_stx (s : State) (a : Nat) :
    (State.bump s a).stx = s.stx := (State.bump_frame s a).others.keeps .stx rfl
@[simp] theorem State.bump_srx (s : State) (a : Nat) :
    (State.bump s a).srx = s.srx := (State.bump_frame s a).others.keeps .srx rfl
@[simp] theorem State.bump_dpc (s : State) (a : Nat) :
    (State.bump s a).dpc = s.dpc := (State.bump_frame s a).others.keeps .dpc rfl
@[simp] theorem State.bump_eng (s : State) (a : Nat) :
    (State.bump s a).eng = s.eng := (State.bump_frame s a).others.keeps .eng rfl
@[simp] theorem State.bump_mbox (s : State) (a : Nat) :
    (State.bump s a).mbox = s.mbox := (State.bump_frame s a).others.keeps .mbox rfl
@[simp] theorem State.bump_ring (s : State) (a : Nat) :
    (State.bump s a).ring = s.ring := (State.bump_frame s a).others.keeps .ring rfl
@[simp] theorem State.bump_sap (s : State) (a : Nat) :
    (State.bump s a).sap = s.sap := (State.bump_frame s a).others.keeps .sap rfl
@[simp] theorem State.bump_asrc (s : State) (a : Nat) :
    (State.bump s a).asrc = s.asrc := (State.bump_frame s a).others.keeps .asrc rfl
@[simp] theorem State.bump_pwr (s : State) (a : Nat) :
    (State.bump s a).pwr = s.pwr := (State.bump_frame s a).others.keeps .pwr rfl
@[simp] theorem State.bump_pair (s : State) (a : Nat) :
    (State.bump s a).pair = s.pair := (State.bump_frame s a).others.keeps .pair rfl
@[simp] theorem State.bump_pmu (s : State) (a : Nat) :
    (State.bump s a).pmu = s.pmu := (State.bump_frame s a).others.keeps .pmu rfl
@[simp] theorem State.bump_mgt (s : State) (a : Nat) :
    (State.bump s a).mgt = s.mgt := (State.bump_frame s a).others.keeps .mgt rfl
@[simp] theorem State.bump_pci (s : State) (a : Nat) :
    (State.bump s a).pci = s.pci := (State.bump_frame s a).others.keeps .pci rfl
@[simp] theorem State.bump_sst (s : State) (a : Nat) :
    (State.bump s a).sst = s.sst := (State.bump_frame s a).others.keeps .sst rfl
@[simp] theorem State.bump_cmd (s : State) (a : Nat) :
    (State.bump s a).cmd = s.cmd := (State.bump_frame s a).others.keeps .cmd rfl
@[simp] theorem State.bump_hrx (s : State) (a : Nat) :
    (State.bump s a).hrx = s.hrx := (State.bump_frame s a).others.keeps .hrx rfl
@[simp] theorem State.bump_msixEn (s : State) (a : Nat) :
    (State.bump s a).msixEn = s.msixEn := (State.bump_frame s a).others.keeps .msixEn rfl
@[simp] theorem State.bump_intDis (s : State) (a : Nat) :
    (State.bump s a).intDis = s.intDis := (State.bump_frame s a).others.keeps .intDis rfl
@[simp] theorem State.bump_hstop (s : State) (a : Nat) :
    (State.bump s a).reg.hstop = s.reg.hstop := (State.bump_frame s a).others.keeps .hstop rfl

/-! setMute -/

theorem State.setMute_frame (s : State) (k : Nat) (m : Mute) : Follows [.mix] s (State.setMute s k m) :=
  State.setMute_follows s k m (fun _ k => k) (Follows.refl s)

@[simp] theorem State.setMute_storesOk {s : State} (k : Nat) (m : Mute) (h : StoresOk s) :
    StoresOk (State.setMute s k m) := (State.setMute_frame s k m).stores h
@[simp] theorem State.setMute_rcW (s : State) (k : Nat) (m : Mute) (j : Nat) :
    (State.setMute s k m).rcW j = s.rcW j := (State.setMute_frame s k m).others.rcW rfl j
@[simp] theorem State.setMute_event (s : State) (k : Nat) (m : Mute) (j : Nat) :
    (State.setMute s k m).event j = s.event j := (State.setMute_frame s k m).others.event rfl j
@[simp] theorem State.setMute_rwW (s : State) (k : Nat) (m : Mute) (j : Nat) :
    (State.setMute s k m).rwW j = s.rwW j := (State.setMute_frame s k m).others.rwW rfl j
@[simp] theorem State.setMute_stagedW (s : State) (k : Nat) (m : Mute) (j : Nat) :
    (State.setMute s k m).stagedW j = s.stagedW j := (State.setMute_frame s k m).others.stagedW rfl j
@[simp] theorem State.setMute_appliedW (s : State) (k : Nat) (m : Mute) (j : Nat) :
    (State.setMute s k m).appliedW j = s.appliedW j := (State.setMute_frame s k m).others.appliedW rfl j
@[simp] theorem State.setMute_inForceW (s : State) (k : Nat) (m : Mute) (j : Nat) :
    (State.setMute s k m).inForceW j = s.inForceW j := (State.setMute_frame s k m).others.inForceW rfl j
@[simp] theorem State.setMute_counter (s : State) (k : Nat) (m : Mute) (j : Nat) :
    (State.setMute s k m).counter j = s.counter j := (State.setMute_frame s k m).others.counter rfl j
@[simp] theorem State.setMute_mboxOf (s : State) (k : Nat) (m : Mute) (j : Nat) :
    (State.setMute s k m).mboxOf j = s.mboxOf j := (State.setMute_frame s k m).others.mboxOf rfl j
@[simp] theorem State.setMute_ringOf (s : State) (k : Nat) (m : Mute) (j : Nat) :
    (State.setMute s k m).ringOf j = s.ringOf j := (State.setMute_frame s k m).others.ringOf rfl j
@[simp] theorem State.setMute_sapOf (s : State) (k : Nat) (m : Mute) (j : Nat) :
    (State.setMute s k m).sapOf j = s.sapOf j := (State.setMute_frame s k m).others.sapOf rfl j
@[simp] theorem State.setMute_engOf (s : State) (k : Nat) (m : Mute) (j : Nat) :
    (State.setMute s k m).engOf j = s.engOf j := (State.setMute_frame s k m).others.engOf rfl j
@[simp] theorem State.setMute_chOf (s : State) (k : Nat) (m : Mute) (j : Nat) :
    (State.setMute s k m).chOf j = s.chOf j := (State.setMute_frame s k m).others.chOf rfl j
@[simp] theorem State.setMute_trkOf (s : State) (k : Nat) (m : Mute) (j : Nat) :
    (State.setMute s k m).trkOf j = s.trkOf j := (State.setMute_frame s k m).others.trkOf rfl j
@[simp] theorem State.setMute_stxOf (s : State) (k : Nat) (m : Mute) (j : Nat) :
    (State.setMute s k m).stxOf j = s.stxOf j := (State.setMute_frame s k m).others.stxOf rfl j
@[simp] theorem State.setMute_srxOf (s : State) (k : Nat) (m : Mute) (j : Nat) :
    (State.setMute s k m).srxOf j = s.srxOf j := (State.setMute_frame s k m).others.srxOf rfl j
@[simp] theorem State.setMute_grpOf (s : State) (k : Nat) (m : Mute) (j : Nat) :
    (State.setMute s k m).grpOf j = s.grpOf j := (State.setMute_frame s k m).others.grpOf rfl j
@[simp] theorem State.setMute_dpcOf (s : State) (k : Nat) (m : Mute) (j : Nat) :
    (State.setMute s k m).dpcOf j = s.dpcOf j := (State.setMute_frame s k m).others.dpcOf rfl j

/-! muteOn -/

theorem State.muteOn_frame (s : State) (k : Nat) (c : MuteCause) (len : Nat) :
    Follows [.mix] s (State.muteOn s k c len) :=
  State.muteOn_follows s k c len (fun _ k => k) (Follows.refl s)

@[simp] theorem State.muteOn_member (s : State) (k : Nat) (c : MuteCause) (len : Nat) :
    (State.muteOn s k c len).member = s.member := (State.muteOn_frame s k c len).member
@[simp] theorem State.muteOn_storesOk {s : State} (k : Nat) (c : MuteCause) (len : Nat) (h : StoresOk s) :
    StoresOk (State.muteOn s k c len) := (State.muteOn_frame s k c len).stores h
@[simp] theorem State.muteOn_rcW (s : State) (k : Nat) (c : MuteCause) (len : Nat) (j : Nat) :
    (State.muteOn s k c len).rcW j = s.rcW j := (State.muteOn_frame s k c len).others.rcW rfl j
@[simp] theorem State.muteOn_event (s : State) (k : Nat) (c : MuteCause) (len : Nat) (j : Nat) :
    (State.muteOn s k c len).event j = s.event j := (State.muteOn_frame s k c len).others.event rfl j
@[simp] theorem State.muteOn_rwW (s : State) (k : Nat) (c : MuteCause) (len : Nat) (j : Nat) :
    (State.muteOn s k c len).rwW j = s.rwW j := (State.muteOn_frame s k c len).others.rwW rfl j
@[simp] theorem State.muteOn_stagedW (s : State) (k : Nat) (c : MuteCause) (len : Nat) (j : Nat) :
    (State.muteOn s k c len).stagedW j = s.stagedW j := (State.muteOn_frame s k c len).others.stagedW rfl j
@[simp] theorem State.muteOn_appliedW (s : State) (k : Nat) (c : MuteCause) (len : Nat) (j : Nat) :
    (State.muteOn s k c len).appliedW j = s.appliedW j := (State.muteOn_frame s k c len).others.appliedW rfl j
@[simp] theorem State.muteOn_inForceW (s : State) (k : Nat) (c : MuteCause) (len : Nat) (j : Nat) :
    (State.muteOn s k c len).inForceW j = s.inForceW j := (State.muteOn_frame s k c len).others.inForceW rfl j
@[simp] theorem State.muteOn_counter (s : State) (k : Nat) (c : MuteCause) (len : Nat) (j : Nat) :
    (State.muteOn s k c len).counter j = s.counter j := (State.muteOn_frame s k c len).others.counter rfl j
@[simp] theorem State.muteOn_mboxOf (s : State) (k : Nat) (c : MuteCause) (len : Nat) (j : Nat) :
    (State.muteOn s k c len).mboxOf j = s.mboxOf j := (State.muteOn_frame s k c len).others.mboxOf rfl j
@[simp] theorem State.muteOn_ringOf (s : State) (k : Nat) (c : MuteCause) (len : Nat) (j : Nat) :
    (State.muteOn s k c len).ringOf j = s.ringOf j := (State.muteOn_frame s k c len).others.ringOf rfl j
@[simp] theorem State.muteOn_sapOf (s : State) (k : Nat) (c : MuteCause) (len : Nat) (j : Nat) :
    (State.muteOn s k c len).sapOf j = s.sapOf j := (State.muteOn_frame s k c len).others.sapOf rfl j
@[simp] theorem State.muteOn_engOf (s : State) (k : Nat) (c : MuteCause) (len : Nat) (j : Nat) :
    (State.muteOn s k c len).engOf j = s.engOf j := (State.muteOn_frame s k c len).others.engOf rfl j
@[simp] theorem State.muteOn_chOf (s : State) (k : Nat) (c : MuteCause) (len : Nat) (j : Nat) :
    (State.muteOn s k c len).chOf j = s.chOf j := (State.muteOn_frame s k c len).others.chOf rfl j
@[simp] theorem State.muteOn_trkOf (s : State) (k : Nat) (c : MuteCause) (len : Nat) (j : Nat) :
    (State.muteOn s k c len).trkOf j = s.trkOf j := (State.muteOn_frame s k c len).others.trkOf rfl j
@[simp] theorem State.muteOn_stxOf (s : State) (k : Nat) (c : MuteCause) (len : Nat) (j : Nat) :
    (State.muteOn s k c len).stxOf j = s.stxOf j := (State.muteOn_frame s k c len).others.stxOf rfl j
@[simp] theorem State.muteOn_srxOf (s : State) (k : Nat) (c : MuteCause) (len : Nat) (j : Nat) :
    (State.muteOn s k c len).srxOf j = s.srxOf j := (State.muteOn_frame s k c len).others.srxOf rfl j
@[simp] theorem State.muteOn_grpOf (s : State) (k : Nat) (c : MuteCause) (len : Nat) (j : Nat) :
    (State.muteOn s k c len).grpOf j = s.grpOf j := (State.muteOn_frame s k c len).others.grpOf rfl j
@[simp] theorem State.muteOn_dpcOf (s : State) (k : Nat) (c : MuteCause) (len : Nat) (j : Nat) :
    (State.muteOn s k c len).dpcOf j = s.dpcOf j := (State.muteOn_frame s k c len).others.dpcOf rfl j
@[simp] theorem State.muteOn_tt (s : State) (k : Nat) (c : MuteCause) (len : Nat) :
    (State.muteOn s k c len).tt = s.tt := (State.muteOn_frame s k c len).others.ttKept rfl rfl
@[simp] theorem State.muteOn_tim (s : State) (k : Nat) (c : MuteCause) (len : Nat) :
    (State.muteOn s k c len).tim = s.tim := (State.muteOn_frame s k c len).others.keeps .tim rfl
@[simp] theorem State.muteOn_mcr (s : State) (k : Nat) (c : MuteCause) (len : Nat) :
    (State.muteOn s k c len).mcr = s.mcr := (State.muteOn_frame s k c len).others.keeps .mcr rfl
@[simp] theorem State.muteOn_syn (s : State) (k : Nat) (c : MuteCause) (len : Nat) :
    (State.muteOn s k c len).syn = s.syn := (State.muteOn_frame s k c len).others.keeps .syn rfl
@[simp] theorem State.muteOn_macA (s : State) (k : Nat) (c : MuteCause) (len : Nat) :
    (State.muteOn s k c len).macA = s.macA := (State.muteOn_frame s k c len).others.keeps .macA rfl
@[simp] theorem State.muteOn_macB (s : State) (k : Nat) (c : MuteCause) (len : Nat) :
    (State.muteOn s k c len).macB = s.macB := (State.muteOn_frame s k c len).others.keeps .macB rfl
@[simp] theorem State.muteOn_mdio (s : State) (k : Nat) (c : MuteCause) (len : Nat) :
    (State.muteOn s k c len).mdio = s.mdio := (State.muteOn_frame s k c len).others.keeps .mdio rfl
@[simp] theorem State.muteOn_stx (s : State) (k : Nat) (c : MuteCause) (len : Nat) :
    (State.muteOn s k c len).stx = s.stx := (State.muteOn_frame s k c len).others.keeps .stx rfl
@[simp] theorem State.muteOn_srx (s : State) (k : Nat) (c : MuteCause) (len : Nat) :
    (State.muteOn s k c len).srx = s.srx := (State.muteOn_frame s k c len).others.keeps .srx rfl
@[simp] theorem State.muteOn_dpc (s : State) (k : Nat) (c : MuteCause) (len : Nat) :
    (State.muteOn s k c len).dpc = s.dpc := (State.muteOn_frame s k c len).others.keeps .dpc rfl
@[simp] theorem State.muteOn_eng (s : State) (k : Nat) (c : MuteCause) (len : Nat) :
    (State.muteOn s k c len).eng = s.eng := (State.muteOn_frame s k c len).others.keeps .eng rfl
@[simp] theorem State.muteOn_mbox (s : State) (k : Nat) (c : MuteCause) (len : Nat) :
    (State.muteOn s k c len).mbox = s.mbox := (State.muteOn_frame s k c len).others.keeps .mbox rfl
@[simp] theorem State.muteOn_ring (s : State) (k : Nat) (c : MuteCause) (len : Nat) :
    (State.muteOn s k c len).ring = s.ring := (State.muteOn_frame s k c len).others.keeps .ring rfl
@[simp] theorem State.muteOn_sap (s : State) (k : Nat) (c : MuteCause) (len : Nat) :
    (State.muteOn s k c len).sap = s.sap := (State.muteOn_frame s k c len).others.keeps .sap rfl
@[simp] theorem State.muteOn_asrc (s : State) (k : Nat) (c : MuteCause) (len : Nat) :
    (State.muteOn s k c len).asrc = s.asrc := (State.muteOn_frame s k c len).others.keeps .asrc rfl
@[simp] theorem State.muteOn_pwr (s : State) (k : Nat) (c : MuteCause) (len : Nat) :
    (State.muteOn s k c len).pwr = s.pwr := (State.muteOn_frame s k c len).others.keeps .pwr rfl
@[simp] theorem State.muteOn_pair (s : State) (k : Nat) (c : MuteCause) (len : Nat) :
    (State.muteOn s k c len).pair = s.pair := (State.muteOn_frame s k c len).others.keeps .pair rfl
@[simp] theorem State.muteOn_pmu (s : State) (k : Nat) (c : MuteCause) (len : Nat) :
    (State.muteOn s k c len).pmu = s.pmu := (State.muteOn_frame s k c len).others.keeps .pmu rfl
@[simp] theorem State.muteOn_mgt (s : State) (k : Nat) (c : MuteCause) (len : Nat) :
    (State.muteOn s k c len).mgt = s.mgt := (State.muteOn_frame s k c len).others.keeps .mgt rfl
@[simp] theorem State.muteOn_pci (s : State) (k : Nat) (c : MuteCause) (len : Nat) :
    (State.muteOn s k c len).pci = s.pci := (State.muteOn_frame s k c len).others.keeps .pci rfl
@[simp] theorem State.muteOn_sst (s : State) (k : Nat) (c : MuteCause) (len : Nat) :
    (State.muteOn s k c len).sst = s.sst := (State.muteOn_frame s k c len).others.keeps .sst rfl
@[simp] theorem State.muteOn_cmd (s : State) (k : Nat) (c : MuteCause) (len : Nat) :
    (State.muteOn s k c len).cmd = s.cmd := (State.muteOn_frame s k c len).others.keeps .cmd rfl
@[simp] theorem State.muteOn_hrx (s : State) (k : Nat) (c : MuteCause) (len : Nat) :
    (State.muteOn s k c len).hrx = s.hrx := (State.muteOn_frame s k c len).others.keeps .hrx rfl
@[simp] theorem State.muteOn_msixEn (s : State) (k : Nat) (c : MuteCause) (len : Nat) :
    (State.muteOn s k c len).msixEn = s.msixEn := (State.muteOn_frame s k c len).others.keeps .msixEn rfl
@[simp] theorem State.muteOn_intDis (s : State) (k : Nat) (c : MuteCause) (len : Nat) :
    (State.muteOn s k c len).intDis = s.intDis := (State.muteOn_frame s k c len).others.keeps .intDis rfl
@[simp] theorem State.muteOn_hstop (s : State) (k : Nat) (c : MuteCause) (len : Nat) :
    (State.muteOn s k c len).reg.hstop = s.reg.hstop := (State.muteOn_frame s k c len).others.keeps .hstop rfl

/-! muteOff -/

theorem State.muteOff_frame (s : State) (k : Nat) (c : MuteCause) (len : Nat) :
    Follows [.mix] s (State.muteOff s k c len) :=
  State.muteOff_follows s k c len (fun _ k => k) (Follows.refl s)

@[simp] theorem State.muteOff_member (s : State) (k : Nat) (c : MuteCause) (len : Nat) :
    (State.muteOff s k c len).member = s.member := (State.muteOff_frame s k c len).member
@[simp] theorem State.muteOff_storesOk {s : State} (k : Nat) (c : MuteCause) (len : Nat) (h : StoresOk s) :
    StoresOk (State.muteOff s k c len) := (State.muteOff_frame s k c len).stores h
@[simp] theorem State.muteOff_rcW (s : State) (k : Nat) (c : MuteCause) (len : Nat) (j : Nat) :
    (State.muteOff s k c len).rcW j = s.rcW j := (State.muteOff_frame s k c len).others.rcW rfl j
@[simp] theorem State.muteOff_event (s : State) (k : Nat) (c : MuteCause) (len : Nat) (j : Nat) :
    (State.muteOff s k c len).event j = s.event j := (State.muteOff_frame s k c len).others.event rfl j
@[simp] theorem State.muteOff_rwW (s : State) (k : Nat) (c : MuteCause) (len : Nat) (j : Nat) :
    (State.muteOff s k c len).rwW j = s.rwW j := (State.muteOff_frame s k c len).others.rwW rfl j
@[simp] theorem State.muteOff_stagedW (s : State) (k : Nat) (c : MuteCause) (len : Nat) (j : Nat) :
    (State.muteOff s k c len).stagedW j = s.stagedW j := (State.muteOff_frame s k c len).others.stagedW rfl j
@[simp] theorem State.muteOff_appliedW (s : State) (k : Nat) (c : MuteCause) (len : Nat) (j : Nat) :
    (State.muteOff s k c len).appliedW j = s.appliedW j := (State.muteOff_frame s k c len).others.appliedW rfl j
@[simp] theorem State.muteOff_inForceW (s : State) (k : Nat) (c : MuteCause) (len : Nat) (j : Nat) :
    (State.muteOff s k c len).inForceW j = s.inForceW j := (State.muteOff_frame s k c len).others.inForceW rfl j
@[simp] theorem State.muteOff_counter (s : State) (k : Nat) (c : MuteCause) (len : Nat) (j : Nat) :
    (State.muteOff s k c len).counter j = s.counter j := (State.muteOff_frame s k c len).others.counter rfl j
@[simp] theorem State.muteOff_mboxOf (s : State) (k : Nat) (c : MuteCause) (len : Nat) (j : Nat) :
    (State.muteOff s k c len).mboxOf j = s.mboxOf j := (State.muteOff_frame s k c len).others.mboxOf rfl j
@[simp] theorem State.muteOff_ringOf (s : State) (k : Nat) (c : MuteCause) (len : Nat) (j : Nat) :
    (State.muteOff s k c len).ringOf j = s.ringOf j := (State.muteOff_frame s k c len).others.ringOf rfl j
@[simp] theorem State.muteOff_sapOf (s : State) (k : Nat) (c : MuteCause) (len : Nat) (j : Nat) :
    (State.muteOff s k c len).sapOf j = s.sapOf j := (State.muteOff_frame s k c len).others.sapOf rfl j
@[simp] theorem State.muteOff_engOf (s : State) (k : Nat) (c : MuteCause) (len : Nat) (j : Nat) :
    (State.muteOff s k c len).engOf j = s.engOf j := (State.muteOff_frame s k c len).others.engOf rfl j
@[simp] theorem State.muteOff_chOf (s : State) (k : Nat) (c : MuteCause) (len : Nat) (j : Nat) :
    (State.muteOff s k c len).chOf j = s.chOf j := (State.muteOff_frame s k c len).others.chOf rfl j
@[simp] theorem State.muteOff_trkOf (s : State) (k : Nat) (c : MuteCause) (len : Nat) (j : Nat) :
    (State.muteOff s k c len).trkOf j = s.trkOf j := (State.muteOff_frame s k c len).others.trkOf rfl j
@[simp] theorem State.muteOff_stxOf (s : State) (k : Nat) (c : MuteCause) (len : Nat) (j : Nat) :
    (State.muteOff s k c len).stxOf j = s.stxOf j := (State.muteOff_frame s k c len).others.stxOf rfl j
@[simp] theorem State.muteOff_srxOf (s : State) (k : Nat) (c : MuteCause) (len : Nat) (j : Nat) :
    (State.muteOff s k c len).srxOf j = s.srxOf j := (State.muteOff_frame s k c len).others.srxOf rfl j
@[simp] theorem State.muteOff_grpOf (s : State) (k : Nat) (c : MuteCause) (len : Nat) (j : Nat) :
    (State.muteOff s k c len).grpOf j = s.grpOf j := (State.muteOff_frame s k c len).others.grpOf rfl j
@[simp] theorem State.muteOff_dpcOf (s : State) (k : Nat) (c : MuteCause) (len : Nat) (j : Nat) :
    (State.muteOff s k c len).dpcOf j = s.dpcOf j := (State.muteOff_frame s k c len).others.dpcOf rfl j
@[simp] theorem State.muteOff_tt (s : State) (k : Nat) (c : MuteCause) (len : Nat) :
    (State.muteOff s k c len).tt = s.tt := (State.muteOff_frame s k c len).others.ttKept rfl rfl
@[simp] theorem State.muteOff_tim (s : State) (k : Nat) (c : MuteCause) (len : Nat) :
    (State.muteOff s k c len).tim = s.tim := (State.muteOff_frame s k c len).others.keeps .tim rfl
@[simp] theorem State.muteOff_mcr (s : State) (k : Nat) (c : MuteCause) (len : Nat) :
    (State.muteOff s k c len).mcr = s.mcr := (State.muteOff_frame s k c len).others.keeps .mcr rfl
@[simp] theorem State.muteOff_syn (s : State) (k : Nat) (c : MuteCause) (len : Nat) :
    (State.muteOff s k c len).syn = s.syn := (State.muteOff_frame s k c len).others.keeps .syn rfl
@[simp] theorem State.muteOff_macA (s : State) (k : Nat) (c : MuteCause) (len : Nat) :
    (State.muteOff s k c len).macA = s.macA := (State.muteOff_frame s k c len).others.keeps .macA rfl
@[simp] theorem State.muteOff_macB (s : State) (k : Nat) (c : MuteCause) (len : Nat) :
    (State.muteOff s k c len).macB = s.macB := (State.muteOff_frame s k c len).others.keeps .macB rfl
@[simp] theorem State.muteOff_mdio (s : State) (k : Nat) (c : MuteCause) (len : Nat) :
    (State.muteOff s k c len).mdio = s.mdio := (State.muteOff_frame s k c len).others.keeps .mdio rfl
@[simp] theorem State.muteOff_stx (s : State) (k : Nat) (c : MuteCause) (len : Nat) :
    (State.muteOff s k c len).stx = s.stx := (State.muteOff_frame s k c len).others.keeps .stx rfl
@[simp] theorem State.muteOff_srx (s : State) (k : Nat) (c : MuteCause) (len : Nat) :
    (State.muteOff s k c len).srx = s.srx := (State.muteOff_frame s k c len).others.keeps .srx rfl
@[simp] theorem State.muteOff_dpc (s : State) (k : Nat) (c : MuteCause) (len : Nat) :
    (State.muteOff s k c len).dpc = s.dpc := (State.muteOff_frame s k c len).others.keeps .dpc rfl
@[simp] theorem State.muteOff_eng (s : State) (k : Nat) (c : MuteCause) (len : Nat) :
    (State.muteOff s k c len).eng = s.eng := (State.muteOff_frame s k c len).others.keeps .eng rfl
@[simp] theorem State.muteOff_mbox (s : State) (k : Nat) (c : MuteCause) (len : Nat) :
    (State.muteOff s k c len).mbox = s.mbox := (State.muteOff_frame s k c len).others.keeps .mbox rfl
@[simp] theorem State.muteOff_ring (s : State) (k : Nat) (c : MuteCause) (len : Nat) :
    (State.muteOff s k c len).ring = s.ring := (State.muteOff_frame s k c len).others.keeps .ring rfl
@[simp] theorem State.muteOff_sap (s : State) (k : Nat) (c : MuteCause) (len : Nat) :
    (State.muteOff s k c len).sap = s.sap := (State.muteOff_frame s k c len).others.keeps .sap rfl
@[simp] theorem State.muteOff_asrc (s : State) (k : Nat) (c : MuteCause) (len : Nat) :
    (State.muteOff s k c len).asrc = s.asrc := (State.muteOff_frame s k c len).others.keeps .asrc rfl
@[simp] theorem State.muteOff_pwr (s : State) (k : Nat) (c : MuteCause) (len : Nat) :
    (State.muteOff s k c len).pwr = s.pwr := (State.muteOff_frame s k c len).others.keeps .pwr rfl
@[simp] theorem State.muteOff_pair (s : State) (k : Nat) (c : MuteCause) (len : Nat) :
    (State.muteOff s k c len).pair = s.pair := (State.muteOff_frame s k c len).others.keeps .pair rfl
@[simp] theorem State.muteOff_pmu (s : State) (k : Nat) (c : MuteCause) (len : Nat) :
    (State.muteOff s k c len).pmu = s.pmu := (State.muteOff_frame s k c len).others.keeps .pmu rfl
@[simp] theorem State.muteOff_mgt (s : State) (k : Nat) (c : MuteCause) (len : Nat) :
    (State.muteOff s k c len).mgt = s.mgt := (State.muteOff_frame s k c len).others.keeps .mgt rfl
@[simp] theorem State.muteOff_pci (s : State) (k : Nat) (c : MuteCause) (len : Nat) :
    (State.muteOff s k c len).pci = s.pci := (State.muteOff_frame s k c len).others.keeps .pci rfl
@[simp] theorem State.muteOff_sst (s : State) (k : Nat) (c : MuteCause) (len : Nat) :
    (State.muteOff s k c len).sst = s.sst := (State.muteOff_frame s k c len).others.keeps .sst rfl
@[simp] theorem State.muteOff_cmd (s : State) (k : Nat) (c : MuteCause) (len : Nat) :
    (State.muteOff s k c len).cmd = s.cmd := (State.muteOff_frame s k c len).others.keeps .cmd rfl
@[simp] theorem State.muteOff_hrx (s : State) (k : Nat) (c : MuteCause) (len : Nat) :
    (State.muteOff s k c len).hrx = s.hrx := (State.muteOff_frame s k c len).others.keeps .hrx rfl
@[simp] theorem State.muteOff_msixEn (s : State) (k : Nat) (c : MuteCause) (len : Nat) :
    (State.muteOff s k c len).msixEn = s.msixEn := (State.muteOff_frame s k c len).others.keeps .msixEn rfl
@[simp] theorem State.muteOff_intDis (s : State) (k : Nat) (c : MuteCause) (len : Nat) :
    (State.muteOff s k c len).intDis = s.intDis := (State.muteOff_frame s k c len).others.keeps .intDis rfl
@[simp] theorem State.muteOff_hstop (s : State) (k : Nat) (c : MuteCause) (len : Nat) :
    (State.muteOff s k c len).reg.hstop = s.reg.hstop := (State.muteOff_frame s k c len).others.keeps .hstop rfl

/-! muteAll -/

theorem State.muteAll_frame (s : State) (c : MuteCause) (len : Nat) : Follows [.mix] s (State.muteAll s c len) :=
  State.muteAll_follows s c len (fun _ k => k) (Follows.refl s)

@[simp] theorem State.muteAll_member (s : State) (c : MuteCause) (len : Nat) :
    (State.muteAll s c len).member = s.member := (State.muteAll_frame s c len).member
@[simp] theorem State.muteAll_storesOk {s : State} (c : MuteCause) (len : Nat) (h : StoresOk s) :
    StoresOk (State.muteAll s c len) := (State.muteAll_frame s c len).stores h
@[simp] theorem State.muteAll_rcW (s : State) (c : MuteCause) (len : Nat) (j : Nat) :
    (State.muteAll s c len).rcW j = s.rcW j := (State.muteAll_frame s c len).others.rcW rfl j
@[simp] theorem State.muteAll_event (s : State) (c : MuteCause) (len : Nat) (j : Nat) :
    (State.muteAll s c len).event j = s.event j := (State.muteAll_frame s c len).others.event rfl j
@[simp] theorem State.muteAll_rwW (s : State) (c : MuteCause) (len : Nat) (j : Nat) :
    (State.muteAll s c len).rwW j = s.rwW j := (State.muteAll_frame s c len).others.rwW rfl j
@[simp] theorem State.muteAll_stagedW (s : State) (c : MuteCause) (len : Nat) (j : Nat) :
    (State.muteAll s c len).stagedW j = s.stagedW j := (State.muteAll_frame s c len).others.stagedW rfl j
@[simp] theorem State.muteAll_appliedW (s : State) (c : MuteCause) (len : Nat) (j : Nat) :
    (State.muteAll s c len).appliedW j = s.appliedW j := (State.muteAll_frame s c len).others.appliedW rfl j
@[simp] theorem State.muteAll_inForceW (s : State) (c : MuteCause) (len : Nat) (j : Nat) :
    (State.muteAll s c len).inForceW j = s.inForceW j := (State.muteAll_frame s c len).others.inForceW rfl j
@[simp] theorem State.muteAll_counter (s : State) (c : MuteCause) (len : Nat) (j : Nat) :
    (State.muteAll s c len).counter j = s.counter j := (State.muteAll_frame s c len).others.counter rfl j
@[simp] theorem State.muteAll_mboxOf (s : State) (c : MuteCause) (len : Nat) (j : Nat) :
    (State.muteAll s c len).mboxOf j = s.mboxOf j := (State.muteAll_frame s c len).others.mboxOf rfl j
@[simp] theorem State.muteAll_ringOf (s : State) (c : MuteCause) (len : Nat) (j : Nat) :
    (State.muteAll s c len).ringOf j = s.ringOf j := (State.muteAll_frame s c len).others.ringOf rfl j
@[simp] theorem State.muteAll_sapOf (s : State) (c : MuteCause) (len : Nat) (j : Nat) :
    (State.muteAll s c len).sapOf j = s.sapOf j := (State.muteAll_frame s c len).others.sapOf rfl j
@[simp] theorem State.muteAll_engOf (s : State) (c : MuteCause) (len : Nat) (j : Nat) :
    (State.muteAll s c len).engOf j = s.engOf j := (State.muteAll_frame s c len).others.engOf rfl j
@[simp] theorem State.muteAll_chOf (s : State) (c : MuteCause) (len : Nat) (j : Nat) :
    (State.muteAll s c len).chOf j = s.chOf j := (State.muteAll_frame s c len).others.chOf rfl j
@[simp] theorem State.muteAll_trkOf (s : State) (c : MuteCause) (len : Nat) (j : Nat) :
    (State.muteAll s c len).trkOf j = s.trkOf j := (State.muteAll_frame s c len).others.trkOf rfl j
@[simp] theorem State.muteAll_stxOf (s : State) (c : MuteCause) (len : Nat) (j : Nat) :
    (State.muteAll s c len).stxOf j = s.stxOf j := (State.muteAll_frame s c len).others.stxOf rfl j
@[simp] theorem State.muteAll_srxOf (s : State) (c : MuteCause) (len : Nat) (j : Nat) :
    (State.muteAll s c len).srxOf j = s.srxOf j := (State.muteAll_frame s c len).others.srxOf rfl j
@[simp] theorem State.muteAll_grpOf (s : State) (c : MuteCause) (len : Nat) (j : Nat) :
    (State.muteAll s c len).grpOf j = s.grpOf j := (State.muteAll_frame s c len).others.grpOf rfl j
@[simp] theorem State.muteAll_dpcOf (s : State) (c : MuteCause) (len : Nat) (j : Nat) :
    (State.muteAll s c len).dpcOf j = s.dpcOf j := (State.muteAll_frame s c len).others.dpcOf rfl j
@[simp] theorem State.muteAll_tt (s : State) (c : MuteCause) (len : Nat) :
    (State.muteAll s c len).tt = s.tt := (State.muteAll_frame s c len).others.ttKept rfl rfl
@[simp] theorem State.muteAll_tim (s : State) (c : MuteCause) (len : Nat) :
    (State.muteAll s c len).tim = s.tim := (State.muteAll_frame s c len).others.keeps .tim rfl
@[simp] theorem State.muteAll_mcr (s : State) (c : MuteCause) (len : Nat) :
    (State.muteAll s c len).mcr = s.mcr := (State.muteAll_frame s c len).others.keeps .mcr rfl
@[simp] theorem State.muteAll_syn (s : State) (c : MuteCause) (len : Nat) :
    (State.muteAll s c len).syn = s.syn := (State.muteAll_frame s c len).others.keeps .syn rfl
@[simp] theorem State.muteAll_macA (s : State) (c : MuteCause) (len : Nat) :
    (State.muteAll s c len).macA = s.macA := (State.muteAll_frame s c len).others.keeps .macA rfl
@[simp] theorem State.muteAll_macB (s : State) (c : MuteCause) (len : Nat) :
    (State.muteAll s c len).macB = s.macB := (State.muteAll_frame s c len).others.keeps .macB rfl
@[simp] theorem State.muteAll_mdio (s : State) (c : MuteCause) (len : Nat) :
    (State.muteAll s c len).mdio = s.mdio := (State.muteAll_frame s c len).others.keeps .mdio rfl
@[simp] theorem State.muteAll_stx (s : State) (c : MuteCause) (len : Nat) :
    (State.muteAll s c len).stx = s.stx := (State.muteAll_frame s c len).others.keeps .stx rfl
@[simp] theorem State.muteAll_srx (s : State) (c : MuteCause) (len : Nat) :
    (State.muteAll s c len).srx = s.srx := (State.muteAll_frame s c len).others.keeps .srx rfl
@[simp] theorem State.muteAll_dpc (s : State) (c : MuteCause) (len : Nat) :
    (State.muteAll s c len).dpc = s.dpc := (State.muteAll_frame s c len).others.keeps .dpc rfl
@[simp] theorem State.muteAll_eng (s : State) (c : MuteCause) (len : Nat) :
    (State.muteAll s c len).eng = s.eng := (State.muteAll_frame s c len).others.keeps .eng rfl
@[simp] theorem State.muteAll_mbox (s : State) (c : MuteCause) (len : Nat) :
    (State.muteAll s c len).mbox = s.mbox := (State.muteAll_frame s c len).others.keeps .mbox rfl
@[simp] theorem State.muteAll_ring (s : State) (c : MuteCause) (len : Nat) :
    (State.muteAll s c len).ring = s.ring := (State.muteAll_frame s c len).others.keeps .ring rfl
@[simp] theorem State.muteAll_sap (s : State) (c : MuteCause) (len : Nat) :
    (State.muteAll s c len).sap = s.sap := (State.muteAll_frame s c len).others.keeps .sap rfl
@[simp] theorem State.muteAll_asrc (s : State) (c : MuteCause) (len : Nat) :
    (State.muteAll s c len).asrc = s.asrc := (State.muteAll_frame s c len).others.keeps .asrc rfl
@[simp] theorem State.muteAll_pwr (s : State) (c : MuteCause) (len : Nat) :
    (State.muteAll s c len).pwr = s.pwr := (State.muteAll_frame s c len).others.keeps .pwr rfl
@[simp] theorem State.muteAll_pair (s : State) (c : MuteCause) (len : Nat) :
    (State.muteAll s c len).pair = s.pair := (State.muteAll_frame s c len).others.keeps .pair rfl
@[simp] theorem State.muteAll_pmu (s : State) (c : MuteCause) (len : Nat) :
    (State.muteAll s c len).pmu = s.pmu := (State.muteAll_frame s c len).others.keeps .pmu rfl
@[simp] theorem State.muteAll_mgt (s : State) (c : MuteCause) (len : Nat) :
    (State.muteAll s c len).mgt = s.mgt := (State.muteAll_frame s c len).others.keeps .mgt rfl
@[simp] theorem State.muteAll_pci (s : State) (c : MuteCause) (len : Nat) :
    (State.muteAll s c len).pci = s.pci := (State.muteAll_frame s c len).others.keeps .pci rfl
@[simp] theorem State.muteAll_sst (s : State) (c : MuteCause) (len : Nat) :
    (State.muteAll s c len).sst = s.sst := (State.muteAll_frame s c len).others.keeps .sst rfl
@[simp] theorem State.muteAll_cmd (s : State) (c : MuteCause) (len : Nat) :
    (State.muteAll s c len).cmd = s.cmd := (State.muteAll_frame s c len).others.keeps .cmd rfl
@[simp] theorem State.muteAll_hrx (s : State) (c : MuteCause) (len : Nat) :
    (State.muteAll s c len).hrx = s.hrx := (State.muteAll_frame s c len).others.keeps .hrx rfl
@[simp] theorem State.muteAll_msixEn (s : State) (c : MuteCause) (len : Nat) :
    (State.muteAll s c len).msixEn = s.msixEn := (State.muteAll_frame s c len).others.keeps .msixEn rfl
@[simp] theorem State.muteAll_intDis (s : State) (c : MuteCause) (len : Nat) :
    (State.muteAll s c len).intDis = s.intDis := (State.muteAll_frame s c len).others.keeps .intDis rfl
@[simp] theorem State.muteAll_hstop (s : State) (c : MuteCause) (len : Nat) :
    (State.muteAll s c len).reg.hstop = s.reg.hstop := (State.muteAll_frame s c len).others.keeps .hstop rfl

/-! unmuteAll -/

theorem State.unmuteAll_frame (s : State) (c : MuteCause) (len : Nat) : Follows [.mix] s (State.unmuteAll s c len) :=
  State.unmuteAll_follows s c len (fun _ k => k) (Follows.refl s)

@[simp] theorem State.unmuteAll_member (s : State) (c : MuteCause) (len : Nat) :
    (State.unmuteAll s c len).member = s.member := (State.unmuteAll_frame s c len).member
@[simp] theorem State.unmuteAll_storesOk {s : State} (c : MuteCause) (len : Nat) (h : StoresOk s) :
    StoresOk (State.unmuteAll s c len) := (State.unmuteAll_frame s c len).stores h
@[simp] theorem State.unmuteAll_rcW (s : State) (c : MuteCause) (len : Nat) (j : Nat) :
    (State.unmuteAll s c len).rcW j = s.rcW j := (State.unmuteAll_frame s c len).others.rcW rfl j
@[simp] theorem State.unmuteAll_event (s : State) (c : MuteCause) (len : Nat) (j : Nat) :
    (State.unmuteAll s c len).event j = s.event j := (State.unmuteAll_frame s c len).others.event rfl j
@[simp] theorem State.unmuteAll_rwW (s : State) (c : MuteCause) (len : Nat) (j : Nat) :
    (State.unmuteAll s c len).rwW j = s.rwW j := (State.unmuteAll_frame s c len).others.rwW rfl j
@[simp] theorem State.unmuteAll_stagedW (s : State) (c : MuteCause) (len : Nat) (j : Nat) :
    (State.unmuteAll s c len).stagedW j = s.stagedW j := (State.unmuteAll_frame s c len).others.stagedW rfl j
@[simp] theorem State.unmuteAll_appliedW (s : State) (c : MuteCause) (len : Nat) (j : Nat) :
    (State.unmuteAll s c len).appliedW j = s.appliedW j := (State.unmuteAll_frame s c len).others.appliedW rfl j
@[simp] theorem State.unmuteAll_inForceW (s : State) (c : MuteCause) (len : Nat) (j : Nat) :
    (State.unmuteAll s c len).inForceW j = s.inForceW j := (State.unmuteAll_frame s c len).others.inForceW rfl j
@[simp] theorem State.unmuteAll_counter (s : State) (c : MuteCause) (len : Nat) (j : Nat) :
    (State.unmuteAll s c len).counter j = s.counter j := (State.unmuteAll_frame s c len).others.counter rfl j
@[simp] theorem State.unmuteAll_mboxOf (s : State) (c : MuteCause) (len : Nat) (j : Nat) :
    (State.unmuteAll s c len).mboxOf j = s.mboxOf j := (State.unmuteAll_frame s c len).others.mboxOf rfl j
@[simp] theorem State.unmuteAll_ringOf (s : State) (c : MuteCause) (len : Nat) (j : Nat) :
    (State.unmuteAll s c len).ringOf j = s.ringOf j := (State.unmuteAll_frame s c len).others.ringOf rfl j
@[simp] theorem State.unmuteAll_sapOf (s : State) (c : MuteCause) (len : Nat) (j : Nat) :
    (State.unmuteAll s c len).sapOf j = s.sapOf j := (State.unmuteAll_frame s c len).others.sapOf rfl j
@[simp] theorem State.unmuteAll_engOf (s : State) (c : MuteCause) (len : Nat) (j : Nat) :
    (State.unmuteAll s c len).engOf j = s.engOf j := (State.unmuteAll_frame s c len).others.engOf rfl j
@[simp] theorem State.unmuteAll_chOf (s : State) (c : MuteCause) (len : Nat) (j : Nat) :
    (State.unmuteAll s c len).chOf j = s.chOf j := (State.unmuteAll_frame s c len).others.chOf rfl j
@[simp] theorem State.unmuteAll_trkOf (s : State) (c : MuteCause) (len : Nat) (j : Nat) :
    (State.unmuteAll s c len).trkOf j = s.trkOf j := (State.unmuteAll_frame s c len).others.trkOf rfl j
@[simp] theorem State.unmuteAll_stxOf (s : State) (c : MuteCause) (len : Nat) (j : Nat) :
    (State.unmuteAll s c len).stxOf j = s.stxOf j := (State.unmuteAll_frame s c len).others.stxOf rfl j
@[simp] theorem State.unmuteAll_srxOf (s : State) (c : MuteCause) (len : Nat) (j : Nat) :
    (State.unmuteAll s c len).srxOf j = s.srxOf j := (State.unmuteAll_frame s c len).others.srxOf rfl j
@[simp] theorem State.unmuteAll_grpOf (s : State) (c : MuteCause) (len : Nat) (j : Nat) :
    (State.unmuteAll s c len).grpOf j = s.grpOf j := (State.unmuteAll_frame s c len).others.grpOf rfl j
@[simp] theorem State.unmuteAll_dpcOf (s : State) (c : MuteCause) (len : Nat) (j : Nat) :
    (State.unmuteAll s c len).dpcOf j = s.dpcOf j := (State.unmuteAll_frame s c len).others.dpcOf rfl j
@[simp] theorem State.unmuteAll_tt (s : State) (c : MuteCause) (len : Nat) :
    (State.unmuteAll s c len).tt = s.tt := (State.unmuteAll_frame s c len).others.ttKept rfl rfl
@[simp] theorem State.unmuteAll_tim (s : State) (c : MuteCause) (len : Nat) :
    (State.unmuteAll s c len).tim = s.tim := (State.unmuteAll_frame s c len).others.keeps .tim rfl
@[simp] theorem State.unmuteAll_mcr (s : State) (c : MuteCause) (len : Nat) :
    (State.unmuteAll s c len).mcr = s.mcr := (State.unmuteAll_frame s c len).others.keeps .mcr rfl
@[simp] theorem State.unmuteAll_syn (s : State) (c : MuteCause) (len : Nat) :
    (State.unmuteAll s c len).syn = s.syn := (State.unmuteAll_frame s c len).others.keeps .syn rfl
@[simp] theorem State.unmuteAll_macA (s : State) (c : MuteCause) (len : Nat) :
    (State.unmuteAll s c len).macA = s.macA := (State.unmuteAll_frame s c len).others.keeps .macA rfl
@[simp] theorem State.unmuteAll_macB (s : State) (c : MuteCause) (len : Nat) :
    (State.unmuteAll s c len).macB = s.macB := (State.unmuteAll_frame s c len).others.keeps .macB rfl
@[simp] theorem State.unmuteAll_mdio (s : State) (c : MuteCause) (len : Nat) :
    (State.unmuteAll s c len).mdio = s.mdio := (State.unmuteAll_frame s c len).others.keeps .mdio rfl
@[simp] theorem State.unmuteAll_stx (s : State) (c : MuteCause) (len : Nat) :
    (State.unmuteAll s c len).stx = s.stx := (State.unmuteAll_frame s c len).others.keeps .stx rfl
@[simp] theorem State.unmuteAll_srx (s : State) (c : MuteCause) (len : Nat) :
    (State.unmuteAll s c len).srx = s.srx := (State.unmuteAll_frame s c len).others.keeps .srx rfl
@[simp] theorem State.unmuteAll_dpc (s : State) (c : MuteCause) (len : Nat) :
    (State.unmuteAll s c len).dpc = s.dpc := (State.unmuteAll_frame s c len).others.keeps .dpc rfl
@[simp] theorem State.unmuteAll_eng (s : State) (c : MuteCause) (len : Nat) :
    (State.unmuteAll s c len).eng = s.eng := (State.unmuteAll_frame s c len).others.keeps .eng rfl
@[simp] theorem State.unmuteAll_mbox (s : State) (c : MuteCause) (len : Nat) :
    (State.unmuteAll s c len).mbox = s.mbox := (State.unmuteAll_frame s c len).others.keeps .mbox rfl
@[simp] theorem State.unmuteAll_ring (s : State) (c : MuteCause) (len : Nat) :
    (State.unmuteAll s c len).ring = s.ring := (State.unmuteAll_frame s c len).others.keeps .ring rfl
@[simp] theorem State.unmuteAll_sap (s : State) (c : MuteCause) (len : Nat) :
    (State.unmuteAll s c len).sap = s.sap := (State.unmuteAll_frame s c len).others.keeps .sap rfl
@[simp] theorem State.unmuteAll_asrc (s : State) (c : MuteCause) (len : Nat) :
    (State.unmuteAll s c len).asrc = s.asrc := (State.unmuteAll_frame s c len).others.keeps .asrc rfl
@[simp] theorem State.unmuteAll_pwr (s : State) (c : MuteCause) (len : Nat) :
    (State.unmuteAll s c len).pwr = s.pwr := (State.unmuteAll_frame s c len).others.keeps .pwr rfl
@[simp] theorem State.unmuteAll_pair (s : State) (c : MuteCause) (len : Nat) :
    (State.unmuteAll s c len).pair = s.pair := (State.unmuteAll_frame s c len).others.keeps .pair rfl
@[simp] theorem State.unmuteAll_pmu (s : State) (c : MuteCause) (len : Nat) :
    (State.unmuteAll s c len).pmu = s.pmu := (State.unmuteAll_frame s c len).others.keeps .pmu rfl
@[simp] theorem State.unmuteAll_mgt (s : State) (c : MuteCause) (len : Nat) :
    (State.unmuteAll s c len).mgt = s.mgt := (State.unmuteAll_frame s c len).others.keeps .mgt rfl
@[simp] theorem State.unmuteAll_pci (s : State) (c : MuteCause) (len : Nat) :
    (State.unmuteAll s c len).pci = s.pci := (State.unmuteAll_frame s c len).others.keeps .pci rfl
@[simp] theorem State.unmuteAll_sst (s : State) (c : MuteCause) (len : Nat) :
    (State.unmuteAll s c len).sst = s.sst := (State.unmuteAll_frame s c len).others.keeps .sst rfl
@[simp] theorem State.unmuteAll_cmd (s : State) (c : MuteCause) (len : Nat) :
    (State.unmuteAll s c len).cmd = s.cmd := (State.unmuteAll_frame s c len).others.keeps .cmd rfl
@[simp] theorem State.unmuteAll_hrx (s : State) (c : MuteCause) (len : Nat) :
    (State.unmuteAll s c len).hrx = s.hrx := (State.unmuteAll_frame s c len).others.keeps .hrx rfl
@[simp] theorem State.unmuteAll_msixEn (s : State) (c : MuteCause) (len : Nat) :
    (State.unmuteAll s c len).msixEn = s.msixEn := (State.unmuteAll_frame s c len).others.keeps .msixEn rfl
@[simp] theorem State.unmuteAll_intDis (s : State) (c : MuteCause) (len : Nat) :
    (State.unmuteAll s c len).intDis = s.intDis := (State.unmuteAll_frame s c len).others.keeps .intDis rfl
@[simp] theorem State.unmuteAll_hstop (s : State) (c : MuteCause) (len : Nat) :
    (State.unmuteAll s c len).reg.hstop = s.reg.hstop := (State.unmuteAll_frame s c len).others.keeps .hstop rfl

/-! setEng -/

theorem State.setEng_frame (s : State) (e : Nat) (v : Eng) : Follows [.eng] s (State.setEng s e v) :=
  State.setEng_follows s e v (fun _ k => k) (Follows.refl s)

@[simp] theorem State.setEng_storesOk {s : State} (e : Nat) (v : Eng) (h : StoresOk s) :
    StoresOk (State.setEng s e v) := (State.setEng_frame s e v).stores h
@[simp] theorem State.setEng_rcW (s : State) (e : Nat) (v : Eng) (j : Nat) :
    (State.setEng s e v).rcW j = s.rcW j := (State.setEng_frame s e v).others.rcW rfl j
@[simp] theorem State.setEng_event (s : State) (e : Nat) (v : Eng) (j : Nat) :
    (State.setEng s e v).event j = s.event j := (State.setEng_frame s e v).others.event rfl j
@[simp] theorem State.setEng_rwW (s : State) (e : Nat) (v : Eng) (j : Nat) :
    (State.setEng s e v).rwW j = s.rwW j := (State.setEng_frame s e v).others.rwW rfl j
@[simp] theorem State.setEng_stagedW (s : State) (e : Nat) (v : Eng) (j : Nat) :
    (State.setEng s e v).stagedW j = s.stagedW j := (State.setEng_frame s e v).others.stagedW rfl j
@[simp] theorem State.setEng_appliedW (s : State) (e : Nat) (v : Eng) (j : Nat) :
    (State.setEng s e v).appliedW j = s.appliedW j := (State.setEng_frame s e v).others.appliedW rfl j
@[simp] theorem State.setEng_inForceW (s : State) (e : Nat) (v : Eng) (j : Nat) :
    (State.setEng s e v).inForceW j = s.inForceW j := (State.setEng_frame s e v).others.inForceW rfl j
@[simp] theorem State.setEng_counter (s : State) (e : Nat) (v : Eng) (j : Nat) :
    (State.setEng s e v).counter j = s.counter j := (State.setEng_frame s e v).others.counter rfl j
@[simp] theorem State.setEng_mboxOf (s : State) (e : Nat) (v : Eng) (j : Nat) :
    (State.setEng s e v).mboxOf j = s.mboxOf j := (State.setEng_frame s e v).others.mboxOf rfl j
@[simp] theorem State.setEng_ringOf (s : State) (e : Nat) (v : Eng) (j : Nat) :
    (State.setEng s e v).ringOf j = s.ringOf j := (State.setEng_frame s e v).others.ringOf rfl j
@[simp] theorem State.setEng_sapOf (s : State) (e : Nat) (v : Eng) (j : Nat) :
    (State.setEng s e v).sapOf j = s.sapOf j := (State.setEng_frame s e v).others.sapOf rfl j
@[simp] theorem State.setEng_juncOf (s : State) (e : Nat) (v : Eng) (j : Nat) :
    (State.setEng s e v).juncOf j = s.juncOf j := (State.setEng_frame s e v).others.juncOf rfl j
@[simp] theorem State.setEng_muteOf (s : State) (e : Nat) (v : Eng) (j : Nat) :
    (State.setEng s e v).muteOf j = s.muteOf j := (State.setEng_frame s e v).others.muteOf rfl j
@[simp] theorem State.setEng_chOf (s : State) (e : Nat) (v : Eng) (j : Nat) :
    (State.setEng s e v).chOf j = s.chOf j := (State.setEng_frame s e v).others.chOf rfl j
@[simp] theorem State.setEng_trkOf (s : State) (e : Nat) (v : Eng) (j : Nat) :
    (State.setEng s e v).trkOf j = s.trkOf j := (State.setEng_frame s e v).others.trkOf rfl j
@[simp] theorem State.setEng_stxOf (s : State) (e : Nat) (v : Eng) (j : Nat) :
    (State.setEng s e v).stxOf j = s.stxOf j := (State.setEng_frame s e v).others.stxOf rfl j
@[simp] theorem State.setEng_srxOf (s : State) (e : Nat) (v : Eng) (j : Nat) :
    (State.setEng s e v).srxOf j = s.srxOf j := (State.setEng_frame s e v).others.srxOf rfl j
@[simp] theorem State.setEng_grpOf (s : State) (e : Nat) (v : Eng) (j : Nat) :
    (State.setEng s e v).grpOf j = s.grpOf j := (State.setEng_frame s e v).others.grpOf rfl j
@[simp] theorem State.setEng_dpcOf (s : State) (e : Nat) (v : Eng) (j : Nat) :
    (State.setEng s e v).dpcOf j = s.dpcOf j := (State.setEng_frame s e v).others.dpcOf rfl j

/-! modEng -/

theorem State.modEng_frame (s : State) (e : Nat) (f : Eng → Eng) : Follows [.eng] s (State.modEng s e f) :=
  State.modEng_follows s e f (fun _ k => k) (Follows.refl s)

@[simp] theorem State.modEng_member (s : State) (e : Nat) (f : Eng → Eng) :
    (State.modEng s e f).member = s.member := (State.modEng_frame s e f).member
@[simp] theorem State.modEng_storesOk {s : State} (e : Nat) (f : Eng → Eng) (h : StoresOk s) :
    StoresOk (State.modEng s e f) := (State.modEng_frame s e f).stores h
@[simp] theorem State.modEng_rcW (s : State) (e : Nat) (f : Eng → Eng) (j : Nat) :
    (State.modEng s e f).rcW j = s.rcW j := (State.modEng_frame s e f).others.rcW rfl j
@[simp] theorem State.modEng_event (s : State) (e : Nat) (f : Eng → Eng) (j : Nat) :
    (State.modEng s e f).event j = s.event j := (State.modEng_frame s e f).others.event rfl j
@[simp] theorem State.modEng_rwW (s : State) (e : Nat) (f : Eng → Eng) (j : Nat) :
    (State.modEng s e f).rwW j = s.rwW j := (State.modEng_frame s e f).others.rwW rfl j
@[simp] theorem State.modEng_stagedW (s : State) (e : Nat) (f : Eng → Eng) (j : Nat) :
    (State.modEng s e f).stagedW j = s.stagedW j := (State.modEng_frame s e f).others.stagedW rfl j
@[simp] theorem State.modEng_appliedW (s : State) (e : Nat) (f : Eng → Eng) (j : Nat) :
    (State.modEng s e f).appliedW j = s.appliedW j := (State.modEng_frame s e f).others.appliedW rfl j
@[simp] theorem State.modEng_inForceW (s : State) (e : Nat) (f : Eng → Eng) (j : Nat) :
    (State.modEng s e f).inForceW j = s.inForceW j := (State.modEng_frame s e f).others.inForceW rfl j
@[simp] theorem State.modEng_counter (s : State) (e : Nat) (f : Eng → Eng) (j : Nat) :
    (State.modEng s e f).counter j = s.counter j := (State.modEng_frame s e f).others.counter rfl j
@[simp] theorem State.modEng_mboxOf (s : State) (e : Nat) (f : Eng → Eng) (j : Nat) :
    (State.modEng s e f).mboxOf j = s.mboxOf j := (State.modEng_frame s e f).others.mboxOf rfl j
@[simp] theorem State.modEng_ringOf (s : State) (e : Nat) (f : Eng → Eng) (j : Nat) :
    (State.modEng s e f).ringOf j = s.ringOf j := (State.modEng_frame s e f).others.ringOf rfl j
@[simp] theorem State.modEng_sapOf (s : State) (e : Nat) (f : Eng → Eng) (j : Nat) :
    (State.modEng s e f).sapOf j = s.sapOf j := (State.modEng_frame s e f).others.sapOf rfl j
@[simp] theorem State.modEng_juncOf (s : State) (e : Nat) (f : Eng → Eng) (j : Nat) :
    (State.modEng s e f).juncOf j = s.juncOf j := (State.modEng_frame s e f).others.juncOf rfl j
@[simp] theorem State.modEng_muteOf (s : State) (e : Nat) (f : Eng → Eng) (j : Nat) :
    (State.modEng s e f).muteOf j = s.muteOf j := (State.modEng_frame s e f).others.muteOf rfl j
@[simp] theorem State.modEng_chOf (s : State) (e : Nat) (f : Eng → Eng) (j : Nat) :
    (State.modEng s e f).chOf j = s.chOf j := (State.modEng_frame s e f).others.chOf rfl j
@[simp] theorem State.modEng_trkOf (s : State) (e : Nat) (f : Eng → Eng) (j : Nat) :
    (State.modEng s e f).trkOf j = s.trkOf j := (State.modEng_frame s e f).others.trkOf rfl j
@[simp] theorem State.modEng_stxOf (s : State) (e : Nat) (f : Eng → Eng) (j : Nat) :
    (State.modEng s e f).stxOf j = s.stxOf j := (State.modEng_frame s e f).others.stxOf rfl j
@[simp] theorem State.modEng_srxOf (s : State) (e : Nat) (f : Eng → Eng) (j : Nat) :
    (State.modEng s e f).srxOf j = s.srxOf j := (State.modEng_frame s e f).others.srxOf rfl j
@[simp] theorem State.modEng_grpOf (s : State) (e : Nat) (f : Eng → Eng) (j : Nat) :
    (State.modEng s e f).grpOf j = s.grpOf j := (State.modEng_frame s e f).others.grpOf rfl j
@[simp] theorem State.modEng_dpcOf (s : State) (e : Nat) (f : Eng → Eng) (j : Nat) :
    (State.modEng s e f).dpcOf j = s.dpcOf j := (State.modEng_frame s e f).others.dpcOf rfl j
@[simp] theorem State.modEng_tt (s : State) (e : Nat) (f : Eng → Eng) :
    (State.modEng s e f).tt = s.tt := (State.modEng_frame s e f).others.ttKept rfl rfl
@[simp] theorem State.modEng_tim (s : State) (e : Nat) (f : Eng → Eng) :
    (State.modEng s e f).tim = s.tim := (State.modEng_frame s e f).others.keeps .tim rfl
@[simp] theorem State.modEng_mcr (s : State) (e : Nat) (f : Eng → Eng) :
    (State.modEng s e f).mcr = s.mcr := (State.modEng_frame s e f).others.keeps .mcr rfl
@[simp] theorem State.modEng_syn (s : State) (e : Nat) (f : Eng → Eng) :
    (State.modEng s e f).syn = s.syn := (State.modEng_frame s e f).others.keeps .syn rfl
@[simp] theorem State.modEng_mix (s : State) (e : Nat) (f : Eng → Eng) :
    (State.modEng s e f).mix = s.mix := (State.modEng_frame s e f).others.keeps .mix rfl
@[simp] theorem State.modEng_macA (s : State) (e : Nat) (f : Eng → Eng) :
    (State.modEng s e f).macA = s.macA := (State.modEng_frame s e f).others.keeps .macA rfl
@[simp] theorem State.modEng_macB (s : State) (e : Nat) (f : Eng → Eng) :
    (State.modEng s e f).macB = s.macB := (State.modEng_frame s e f).others.keeps .macB rfl
@[simp] theorem State.modEng_mdio (s : State) (e : Nat) (f : Eng → Eng) :
    (State.modEng s e f).mdio = s.mdio := (State.modEng_frame s e f).others.keeps .mdio rfl
@[simp] theorem State.modEng_stx (s : State) (e : Nat) (f : Eng → Eng) :
    (State.modEng s e f).stx = s.stx := (State.modEng_frame s e f).others.keeps .stx rfl
@[simp] theorem State.modEng_srx (s : State) (e : Nat) (f : Eng → Eng) :
    (State.modEng s e f).srx = s.srx := (State.modEng_frame s e f).others.keeps .srx rfl
@[simp] theorem State.modEng_dpc (s : State) (e : Nat) (f : Eng → Eng) :
    (State.modEng s e f).dpc = s.dpc := (State.modEng_frame s e f).others.keeps .dpc rfl
@[simp] theorem State.modEng_mbox (s : State) (e : Nat) (f : Eng → Eng) :
    (State.modEng s e f).mbox = s.mbox := (State.modEng_frame s e f).others.keeps .mbox rfl
@[simp] theorem State.modEng_ring (s : State) (e : Nat) (f : Eng → Eng) :
    (State.modEng s e f).ring = s.ring := (State.modEng_frame s e f).others.keeps .ring rfl
@[simp] theorem State.modEng_sap (s : State) (e : Nat) (f : Eng → Eng) :
    (State.modEng s e f).sap = s.sap := (State.modEng_frame s e f).others.keeps .sap rfl
@[simp] theorem State.modEng_asrc (s : State) (e : Nat) (f : Eng → Eng) :
    (State.modEng s e f).asrc = s.asrc := (State.modEng_frame s e f).others.keeps .asrc rfl
@[simp] theorem State.modEng_pwr (s : State) (e : Nat) (f : Eng → Eng) :
    (State.modEng s e f).pwr = s.pwr := (State.modEng_frame s e f).others.keeps .pwr rfl
@[simp] theorem State.modEng_pair (s : State) (e : Nat) (f : Eng → Eng) :
    (State.modEng s e f).pair = s.pair := (State.modEng_frame s e f).others.keeps .pair rfl
@[simp] theorem State.modEng_pmu (s : State) (e : Nat) (f : Eng → Eng) :
    (State.modEng s e f).pmu = s.pmu := (State.modEng_frame s e f).others.keeps .pmu rfl
@[simp] theorem State.modEng_mgt (s : State) (e : Nat) (f : Eng → Eng) :
    (State.modEng s e f).mgt = s.mgt := (State.modEng_frame s e f).others.keeps .mgt rfl
@[simp] theorem State.modEng_pci (s : State) (e : Nat) (f : Eng → Eng) :
    (State.modEng s e f).pci = s.pci := (State.modEng_frame s e f).others.keeps .pci rfl
@[simp] theorem State.modEng_sst (s : State) (e : Nat) (f : Eng → Eng) :
    (State.modEng s e f).sst = s.sst := (State.modEng_frame s e f).others.keeps .sst rfl
@[simp] theorem State.modEng_cmd (s : State) (e : Nat) (f : Eng → Eng) :
    (State.modEng s e f).cmd = s.cmd := (State.modEng_frame s e f).others.keeps .cmd rfl
@[simp] theorem State.modEng_hrx (s : State) (e : Nat) (f : Eng → Eng) :
    (State.modEng s e f).hrx = s.hrx := (State.modEng_frame s e f).others.keeps .hrx rfl
@[simp] theorem State.modEng_msixEn (s : State) (e : Nat) (f : Eng → Eng) :
    (State.modEng s e f).msixEn = s.msixEn := (State.modEng_frame s e f).others.keeps .msixEn rfl
@[simp] theorem State.modEng_intDis (s : State) (e : Nat) (f : Eng → Eng) :
    (State.modEng s e f).intDis = s.intDis := (State.modEng_frame s e f).others.keeps .intDis rfl
@[simp] theorem State.modEng_hstop (s : State) (e : Nat) (f : Eng → Eng) :
    (State.modEng s e f).reg.hstop = s.reg.hstop := (State.modEng_frame s e f).others.keeps .hstop rfl

/-! enterHstop -/

theorem State.enterHstop_frame (s : State) (bit : Nat) : Follows [.rc, .hstop] s (State.enterHstop s bit) :=
  State.enterHstop_follows s bit (fun _ k => k) (Follows.refl s)

@[simp] theorem State.enterHstop_member (s : State) (bit : Nat) :
    (State.enterHstop s bit).member = s.member := (State.enterHstop_frame s bit).member
@[simp] theorem State.enterHstop_storesOk {s : State} (bit : Nat) (h : StoresOk s) :
    StoresOk (State.enterHstop s bit) := (State.enterHstop_frame s bit).stores h
@[simp] theorem State.enterHstop_rwW (s : State) (bit : Nat) (j : Nat) :
    (State.enterHstop s bit).rwW j = s.rwW j := (State.enterHstop_frame s bit).others.rwW rfl j
@[simp] theorem State.enterHstop_stagedW (s : State) (bit : Nat) (j : Nat) :
    (State.enterHstop s bit).stagedW j = s.stagedW j := (State.enterHstop_frame s bit).others.stagedW rfl j
@[simp] theorem State.enterHstop_appliedW (s : State) (bit : Nat) (j : Nat) :
    (State.enterHstop s bit).appliedW j = s.appliedW j := (State.enterHstop_frame s bit).others.appliedW rfl j
@[simp] theorem State.enterHstop_inForceW (s : State) (bit : Nat) (j : Nat) :
    (State.enterHstop s bit).inForceW j = s.inForceW j := (State.enterHstop_frame s bit).others.inForceW rfl j
@[simp] theorem State.enterHstop_counter (s : State) (bit : Nat) (j : Nat) :
    (State.enterHstop s bit).counter j = s.counter j := (State.enterHstop_frame s bit).others.counter rfl j
@[simp] theorem State.enterHstop_mboxOf (s : State) (bit : Nat) (j : Nat) :
    (State.enterHstop s bit).mboxOf j = s.mboxOf j := (State.enterHstop_frame s bit).others.mboxOf rfl j
@[simp] theorem State.enterHstop_ringOf (s : State) (bit : Nat) (j : Nat) :
    (State.enterHstop s bit).ringOf j = s.ringOf j := (State.enterHstop_frame s bit).others.ringOf rfl j
@[simp] theorem State.enterHstop_sapOf (s : State) (bit : Nat) (j : Nat) :
    (State.enterHstop s bit).sapOf j = s.sapOf j := (State.enterHstop_frame s bit).others.sapOf rfl j
@[simp] theorem State.enterHstop_engOf (s : State) (bit : Nat) (j : Nat) :
    (State.enterHstop s bit).engOf j = s.engOf j := (State.enterHstop_frame s bit).others.engOf rfl j
@[simp] theorem State.enterHstop_juncOf (s : State) (bit : Nat) (j : Nat) :
    (State.enterHstop s bit).juncOf j = s.juncOf j := (State.enterHstop_frame s bit).others.juncOf rfl j
@[simp] theorem State.enterHstop_muteOf (s : State) (bit : Nat) (j : Nat) :
    (State.enterHstop s bit).muteOf j = s.muteOf j := (State.enterHstop_frame s bit).others.muteOf rfl j
@[simp] theorem State.enterHstop_chOf (s : State) (bit : Nat) (j : Nat) :
    (State.enterHstop s bit).chOf j = s.chOf j := (State.enterHstop_frame s bit).others.chOf rfl j
@[simp] theorem State.enterHstop_trkOf (s : State) (bit : Nat) (j : Nat) :
    (State.enterHstop s bit).trkOf j = s.trkOf j := (State.enterHstop_frame s bit).others.trkOf rfl j
@[simp] theorem State.enterHstop_stxOf (s : State) (bit : Nat) (j : Nat) :
    (State.enterHstop s bit).stxOf j = s.stxOf j := (State.enterHstop_frame s bit).others.stxOf rfl j
@[simp] theorem State.enterHstop_srxOf (s : State) (bit : Nat) (j : Nat) :
    (State.enterHstop s bit).srxOf j = s.srxOf j := (State.enterHstop_frame s bit).others.srxOf rfl j
@[simp] theorem State.enterHstop_grpOf (s : State) (bit : Nat) (j : Nat) :
    (State.enterHstop s bit).grpOf j = s.grpOf j := (State.enterHstop_frame s bit).others.grpOf rfl j
@[simp] theorem State.enterHstop_dpcOf (s : State) (bit : Nat) (j : Nat) :
    (State.enterHstop s bit).dpcOf j = s.dpcOf j := (State.enterHstop_frame s bit).others.dpcOf rfl j
@[simp] theorem State.enterHstop_tt (s : State) (bit : Nat) :
    (State.enterHstop s bit).tt = s.tt := (State.enterHstop_frame s bit).others.ttKept rfl rfl
@[simp] theorem State.enterHstop_tim (s : State) (bit : Nat) :
    (State.enterHstop s bit).tim = s.tim := (State.enterHstop_frame s bit).others.keeps .tim rfl
@[simp] theorem State.enterHstop_mcr (s : State) (bit : Nat) :
    (State.enterHstop s bit).mcr = s.mcr := (State.enterHstop_frame s bit).others.keeps .mcr rfl
@[simp] theorem State.enterHstop_syn (s : State) (bit : Nat) :
    (State.enterHstop s bit).syn = s.syn := (State.enterHstop_frame s bit).others.keeps .syn rfl
@[simp] theorem State.enterHstop_mix (s : State) (bit : Nat) :
    (State.enterHstop s bit).mix = s.mix := (State.enterHstop_frame s bit).others.keeps .mix rfl
@[simp] theorem State.enterHstop_macA (s : State) (bit : Nat) :
    (State.enterHstop s bit).macA = s.macA := (State.enterHstop_frame s bit).others.keeps .macA rfl
@[simp] theorem State.enterHstop_macB (s : State) (bit : Nat) :
    (State.enterHstop s bit).macB = s.macB := (State.enterHstop_frame s bit).others.keeps .macB rfl
@[simp] theorem State.enterHstop_mdio (s : State) (bit : Nat) :
    (State.enterHstop s bit).mdio = s.mdio := (State.enterHstop_frame s bit).others.keeps .mdio rfl
@[simp] theorem State.enterHstop_stx (s : State) (bit : Nat) :
    (State.enterHstop s bit).stx = s.stx := (State.enterHstop_frame s bit).others.keeps .stx rfl
@[simp] theorem State.enterHstop_srx (s : State) (bit : Nat) :
    (State.enterHstop s bit).srx = s.srx := (State.enterHstop_frame s bit).others.keeps .srx rfl
@[simp] theorem State.enterHstop_dpc (s : State) (bit : Nat) :
    (State.enterHstop s bit).dpc = s.dpc := (State.enterHstop_frame s bit).others.keeps .dpc rfl
@[simp] theorem State.enterHstop_eng (s : State) (bit : Nat) :
    (State.enterHstop s bit).eng = s.eng := (State.enterHstop_frame s bit).others.keeps .eng rfl
@[simp] theorem State.enterHstop_mbox (s : State) (bit : Nat) :
    (State.enterHstop s bit).mbox = s.mbox := (State.enterHstop_frame s bit).others.keeps .mbox rfl
@[simp] theorem State.enterHstop_ring (s : State) (bit : Nat) :
    (State.enterHstop s bit).ring = s.ring := (State.enterHstop_frame s bit).others.keeps .ring rfl
@[simp] theorem State.enterHstop_sap (s : State) (bit : Nat) :
    (State.enterHstop s bit).sap = s.sap := (State.enterHstop_frame s bit).others.keeps .sap rfl
@[simp] theorem State.enterHstop_asrc (s : State) (bit : Nat) :
    (State.enterHstop s bit).asrc = s.asrc := (State.enterHstop_frame s bit).others.keeps .asrc rfl
@[simp] theorem State.enterHstop_pwr (s : State) (bit : Nat) :
    (State.enterHstop s bit).pwr = s.pwr := (State.enterHstop_frame s bit).others.keeps .pwr rfl
@[simp] theorem State.enterHstop_pair (s : State) (bit : Nat) :
    (State.enterHstop s bit).pair = s.pair := (State.enterHstop_frame s bit).others.keeps .pair rfl
@[simp] theorem State.enterHstop_pmu (s : State) (bit : Nat) :
    (State.enterHstop s bit).pmu = s.pmu := (State.enterHstop_frame s bit).others.keeps .pmu rfl
@[simp] theorem State.enterHstop_mgt (s : State) (bit : Nat) :
    (State.enterHstop s bit).mgt = s.mgt := (State.enterHstop_frame s bit).others.keeps .mgt rfl
@[simp] theorem State.enterHstop_pci (s : State) (bit : Nat) :
    (State.enterHstop s bit).pci = s.pci := (State.enterHstop_frame s bit).others.keeps .pci rfl
@[simp] theorem State.enterHstop_sst (s : State) (bit : Nat) :
    (State.enterHstop s bit).sst = s.sst := (State.enterHstop_frame s bit).others.keeps .sst rfl
@[simp] theorem State.enterHstop_cmd (s : State) (bit : Nat) :
    (State.enterHstop s bit).cmd = s.cmd := (State.enterHstop_frame s bit).others.keeps .cmd rfl
@[simp] theorem State.enterHstop_hrx (s : State) (bit : Nat) :
    (State.enterHstop s bit).hrx = s.hrx := (State.enterHstop_frame s bit).others.keeps .hrx rfl
@[simp] theorem State.enterHstop_msixEn (s : State) (bit : Nat) :
    (State.enterHstop s bit).msixEn = s.msixEn := (State.enterHstop_frame s bit).others.keeps .msixEn rfl
@[simp] theorem State.enterHstop_intDis (s : State) (bit : Nat) :
    (State.enterHstop s bit).intDis = s.intDis := (State.enterHstop_frame s bit).others.keeps .intDis rfl

/-! clearHstop -/

theorem State.clearHstop_frame (s : State) (bit : Nat) : Follows [.hstop] s (State.clearHstop s bit) :=
  State.clearHstop_follows s bit (fun _ k => k) (Follows.refl s)

@[simp] theorem State.clearHstop_storesOk {s : State} (bit : Nat) (h : StoresOk s) :
    StoresOk (State.clearHstop s bit) := (State.clearHstop_frame s bit).stores h
@[simp] theorem State.clearHstop_rcW (s : State) (bit : Nat) (j : Nat) :
    (State.clearHstop s bit).rcW j = s.rcW j := (State.clearHstop_frame s bit).others.rcW rfl j
@[simp] theorem State.clearHstop_event (s : State) (bit : Nat) (j : Nat) :
    (State.clearHstop s bit).event j = s.event j := (State.clearHstop_frame s bit).others.event rfl j
@[simp] theorem State.clearHstop_rwW (s : State) (bit : Nat) (j : Nat) :
    (State.clearHstop s bit).rwW j = s.rwW j := (State.clearHstop_frame s bit).others.rwW rfl j
@[simp] theorem State.clearHstop_stagedW (s : State) (bit : Nat) (j : Nat) :
    (State.clearHstop s bit).stagedW j = s.stagedW j := (State.clearHstop_frame s bit).others.stagedW rfl j
@[simp] theorem State.clearHstop_appliedW (s : State) (bit : Nat) (j : Nat) :
    (State.clearHstop s bit).appliedW j = s.appliedW j := (State.clearHstop_frame s bit).others.appliedW rfl j
@[simp] theorem State.clearHstop_inForceW (s : State) (bit : Nat) (j : Nat) :
    (State.clearHstop s bit).inForceW j = s.inForceW j := (State.clearHstop_frame s bit).others.inForceW rfl j
@[simp] theorem State.clearHstop_counter (s : State) (bit : Nat) (j : Nat) :
    (State.clearHstop s bit).counter j = s.counter j := (State.clearHstop_frame s bit).others.counter rfl j
@[simp] theorem State.clearHstop_mboxOf (s : State) (bit : Nat) (j : Nat) :
    (State.clearHstop s bit).mboxOf j = s.mboxOf j := (State.clearHstop_frame s bit).others.mboxOf rfl j
@[simp] theorem State.clearHstop_ringOf (s : State) (bit : Nat) (j : Nat) :
    (State.clearHstop s bit).ringOf j = s.ringOf j := (State.clearHstop_frame s bit).others.ringOf rfl j
@[simp] theorem State.clearHstop_sapOf (s : State) (bit : Nat) (j : Nat) :
    (State.clearHstop s bit).sapOf j = s.sapOf j := (State.clearHstop_frame s bit).others.sapOf rfl j
@[simp] theorem State.clearHstop_engOf (s : State) (bit : Nat) (j : Nat) :
    (State.clearHstop s bit).engOf j = s.engOf j := (State.clearHstop_frame s bit).others.engOf rfl j
@[simp] theorem State.clearHstop_juncOf (s : State) (bit : Nat) (j : Nat) :
    (State.clearHstop s bit).juncOf j = s.juncOf j := (State.clearHstop_frame s bit).others.juncOf rfl j
@[simp] theorem State.clearHstop_muteOf (s : State) (bit : Nat) (j : Nat) :
    (State.clearHstop s bit).muteOf j = s.muteOf j := (State.clearHstop_frame s bit).others.muteOf rfl j
@[simp] theorem State.clearHstop_chOf (s : State) (bit : Nat) (j : Nat) :
    (State.clearHstop s bit).chOf j = s.chOf j := (State.clearHstop_frame s bit).others.chOf rfl j
@[simp] theorem State.clearHstop_trkOf (s : State) (bit : Nat) (j : Nat) :
    (State.clearHstop s bit).trkOf j = s.trkOf j := (State.clearHstop_frame s bit).others.trkOf rfl j
@[simp] theorem State.clearHstop_stxOf (s : State) (bit : Nat) (j : Nat) :
    (State.clearHstop s bit).stxOf j = s.stxOf j := (State.clearHstop_frame s bit).others.stxOf rfl j
@[simp] theorem State.clearHstop_srxOf (s : State) (bit : Nat) (j : Nat) :
    (State.clearHstop s bit).srxOf j = s.srxOf j := (State.clearHstop_frame s bit).others.srxOf rfl j
@[simp] theorem State.clearHstop_grpOf (s : State) (bit : Nat) (j : Nat) :
    (State.clearHstop s bit).grpOf j = s.grpOf j := (State.clearHstop_frame s bit).others.grpOf rfl j
@[simp] theorem State.clearHstop_dpcOf (s : State) (bit : Nat) (j : Nat) :
    (State.clearHstop s bit).dpcOf j = s.dpcOf j := (State.clearHstop_frame s bit).others.dpcOf rfl j

/-! setJunc -/

theorem State.setJunc_frame (s : State) (j : Nat) (v : Junction) : Follows [.mix] s (State.setJunc s j v) :=
  State.setJunc_follows s j v (fun _ k => k) (Follows.refl s)

@[simp] theorem State.setJunc_storesOk {s : State} (j : Nat) (v : Junction) (h : StoresOk s) :
    StoresOk (State.setJunc s j v) := (State.setJunc_frame s j v).stores h
@[simp] theorem State.setJunc_rcW (s : State) (j : Nat) (v : Junction) (jj : Nat) :
    (State.setJunc s j v).rcW jj = s.rcW jj := (State.setJunc_frame s j v).others.rcW rfl jj
@[simp] theorem State.setJunc_event (s : State) (j : Nat) (v : Junction) (jj : Nat) :
    (State.setJunc s j v).event jj = s.event jj := (State.setJunc_frame s j v).others.event rfl jj
@[simp] theorem State.setJunc_rwW (s : State) (j : Nat) (v : Junction) (jj : Nat) :
    (State.setJunc s j v).rwW jj = s.rwW jj := (State.setJunc_frame s j v).others.rwW rfl jj
@[simp] theorem State.setJunc_stagedW (s : State) (j : Nat) (v : Junction) (jj : Nat) :
    (State.setJunc s j v).stagedW jj = s.stagedW jj := (State.setJunc_frame s j v).others.stagedW rfl jj
@[simp] theorem State.setJunc_appliedW (s : State) (j : Nat) (v : Junction) (jj : Nat) :
    (State.setJunc s j v).appliedW jj = s.appliedW jj := (State.setJunc_frame s j v).others.appliedW rfl jj
@[simp] theorem State.setJunc_inForceW (s : State) (j : Nat) (v : Junction) (jj : Nat) :
    (State.setJunc s j v).inForceW jj = s.inForceW jj := (State.setJunc_frame s j v).others.inForceW rfl jj
@[simp] theorem State.setJunc_counter (s : State) (j : Nat) (v : Junction) (jj : Nat) :
    (State.setJunc s j v).counter jj = s.counter jj := (State.setJunc_frame s j v).others.counter rfl jj
@[simp] theorem State.setJunc_mboxOf (s : State) (j : Nat) (v : Junction) (jj : Nat) :
    (State.setJunc s j v).mboxOf jj = s.mboxOf jj := (State.setJunc_frame s j v).others.mboxOf rfl jj
@[simp] theorem State.setJunc_ringOf (s : State) (j : Nat) (v : Junction) (jj : Nat) :
    (State.setJunc s j v).ringOf jj = s.ringOf jj := (State.setJunc_frame s j v).others.ringOf rfl jj
@[simp] theorem State.setJunc_sapOf (s : State) (j : Nat) (v : Junction) (jj : Nat) :
    (State.setJunc s j v).sapOf jj = s.sapOf jj := (State.setJunc_frame s j v).others.sapOf rfl jj
@[simp] theorem State.setJunc_engOf (s : State) (j : Nat) (v : Junction) (jj : Nat) :
    (State.setJunc s j v).engOf jj = s.engOf jj := (State.setJunc_frame s j v).others.engOf rfl jj
@[simp] theorem State.setJunc_chOf (s : State) (j : Nat) (v : Junction) (jj : Nat) :
    (State.setJunc s j v).chOf jj = s.chOf jj := (State.setJunc_frame s j v).others.chOf rfl jj
@[simp] theorem State.setJunc_trkOf (s : State) (j : Nat) (v : Junction) (jj : Nat) :
    (State.setJunc s j v).trkOf jj = s.trkOf jj := (State.setJunc_frame s j v).others.trkOf rfl jj
@[simp] theorem State.setJunc_stxOf (s : State) (j : Nat) (v : Junction) (jj : Nat) :
    (State.setJunc s j v).stxOf jj = s.stxOf jj := (State.setJunc_frame s j v).others.stxOf rfl jj
@[simp] theorem State.setJunc_srxOf (s : State) (j : Nat) (v : Junction) (jj : Nat) :
    (State.setJunc s j v).srxOf jj = s.srxOf jj := (State.setJunc_frame s j v).others.srxOf rfl jj
@[simp] theorem State.setJunc_grpOf (s : State) (j : Nat) (v : Junction) (jj : Nat) :
    (State.setJunc s j v).grpOf jj = s.grpOf jj := (State.setJunc_frame s j v).others.grpOf rfl jj
@[simp] theorem State.setJunc_dpcOf (s : State) (j : Nat) (v : Junction) (jj : Nat) :
    (State.setJunc s j v).dpcOf jj = s.dpcOf jj := (State.setJunc_frame s j v).others.dpcOf rfl jj

/-! modSyn -/

theorem State.modSyn_frame (s : State) (f : Syn → Syn) : Follows [.syn] s (State.modSyn s f) :=
  State.modSyn_follows s f (fun _ k => k) (Follows.refl s)

@[simp] theorem State.modSyn_storesOk {s : State} (f : Syn → Syn) (h : StoresOk s) :
    StoresOk (State.modSyn s f) := (State.modSyn_frame s f).stores h
@[simp] theorem State.modSyn_rcW (s : State) (f : Syn → Syn) (j : Nat) :
    (State.modSyn s f).rcW j = s.rcW j := (State.modSyn_frame s f).others.rcW rfl j
@[simp] theorem State.modSyn_event (s : State) (f : Syn → Syn) (j : Nat) :
    (State.modSyn s f).event j = s.event j := (State.modSyn_frame s f).others.event rfl j
@[simp] theorem State.modSyn_rwW (s : State) (f : Syn → Syn) (j : Nat) :
    (State.modSyn s f).rwW j = s.rwW j := (State.modSyn_frame s f).others.rwW rfl j
@[simp] theorem State.modSyn_stagedW (s : State) (f : Syn → Syn) (j : Nat) :
    (State.modSyn s f).stagedW j = s.stagedW j := (State.modSyn_frame s f).others.stagedW rfl j
@[simp] theorem State.modSyn_appliedW (s : State) (f : Syn → Syn) (j : Nat) :
    (State.modSyn s f).appliedW j = s.appliedW j := (State.modSyn_frame s f).others.appliedW rfl j
@[simp] theorem State.modSyn_inForceW (s : State) (f : Syn → Syn) (j : Nat) :
    (State.modSyn s f).inForceW j = s.inForceW j := (State.modSyn_frame s f).others.inForceW rfl j
@[simp] theorem State.modSyn_counter (s : State) (f : Syn → Syn) (j : Nat) :
    (State.modSyn s f).counter j = s.counter j := (State.modSyn_frame s f).others.counter rfl j
@[simp] theorem State.modSyn_mboxOf (s : State) (f : Syn → Syn) (j : Nat) :
    (State.modSyn s f).mboxOf j = s.mboxOf j := (State.modSyn_frame s f).others.mboxOf rfl j
@[simp] theorem State.modSyn_ringOf (s : State) (f : Syn → Syn) (j : Nat) :
    (State.modSyn s f).ringOf j = s.ringOf j := (State.modSyn_frame s f).others.ringOf rfl j
@[simp] theorem State.modSyn_sapOf (s : State) (f : Syn → Syn) (j : Nat) :
    (State.modSyn s f).sapOf j = s.sapOf j := (State.modSyn_frame s f).others.sapOf rfl j
@[simp] theorem State.modSyn_engOf (s : State) (f : Syn → Syn) (j : Nat) :
    (State.modSyn s f).engOf j = s.engOf j := (State.modSyn_frame s f).others.engOf rfl j
@[simp] theorem State.modSyn_juncOf (s : State) (f : Syn → Syn) (j : Nat) :
    (State.modSyn s f).juncOf j = s.juncOf j := (State.modSyn_frame s f).others.juncOf rfl j
@[simp] theorem State.modSyn_muteOf (s : State) (f : Syn → Syn) (j : Nat) :
    (State.modSyn s f).muteOf j = s.muteOf j := (State.modSyn_frame s f).others.muteOf rfl j
@[simp] theorem State.modSyn_chOf (s : State) (f : Syn → Syn) (j : Nat) :
    (State.modSyn s f).chOf j = s.chOf j := (State.modSyn_frame s f).others.chOf rfl j
@[simp] theorem State.modSyn_trkOf (s : State) (f : Syn → Syn) (j : Nat) :
    (State.modSyn s f).trkOf j = s.trkOf j := (State.modSyn_frame s f).others.trkOf rfl j
@[simp] theorem State.modSyn_stxOf (s : State) (f : Syn → Syn) (j : Nat) :
    (State.modSyn s f).stxOf j = s.stxOf j := (State.modSyn_frame s f).others.stxOf rfl j
@[simp] theorem State.modSyn_srxOf (s : State) (f : Syn → Syn) (j : Nat) :
    (State.modSyn s f).srxOf j = s.srxOf j := (State.modSyn_frame s f).others.srxOf rfl j
@[simp] theorem State.modSyn_grpOf (s : State) (f : Syn → Syn) (j : Nat) :
    (State.modSyn s f).grpOf j = s.grpOf j := (State.modSyn_frame s f).others.grpOf rfl j
@[simp] theorem State.modSyn_dpcOf (s : State) (f : Syn → Syn) (j : Nat) :
    (State.modSyn s f).dpcOf j = s.dpcOf j := (State.modSyn_frame s f).others.dpcOf rfl j

/-! modMcr -/

theorem State.modMcr_frame (s : State) (f : Mcr → Mcr) : Follows [.mcr] s (State.modMcr s f) :=
  State.modMcr_follows s f (fun _ k => k) (Follows.refl s)

@[simp] theorem State.modMcr_storesOk {s : State} (f : Mcr → Mcr) (h : StoresOk s) :
    StoresOk (State.modMcr s f) := (State.modMcr_frame s f).stores h
@[simp] theorem State.modMcr_rcW (s : State) (f : Mcr → Mcr) (j : Nat) :
    (State.modMcr s f).rcW j = s.rcW j := (State.modMcr_frame s f).others.rcW rfl j
@[simp] theorem State.modMcr_event (s : State) (f : Mcr → Mcr) (j : Nat) :
    (State.modMcr s f).event j = s.event j := (State.modMcr_frame s f).others.event rfl j
@[simp] theorem State.modMcr_rwW (s : State) (f : Mcr → Mcr) (j : Nat) :
    (State.modMcr s f).rwW j = s.rwW j := (State.modMcr_frame s f).others.rwW rfl j
@[simp] theorem State.modMcr_stagedW (s : State) (f : Mcr → Mcr) (j : Nat) :
    (State.modMcr s f).stagedW j = s.stagedW j := (State.modMcr_frame s f).others.stagedW rfl j
@[simp] theorem State.modMcr_appliedW (s : State) (f : Mcr → Mcr) (j : Nat) :
    (State.modMcr s f).appliedW j = s.appliedW j := (State.modMcr_frame s f).others.appliedW rfl j
@[simp] theorem State.modMcr_inForceW (s : State) (f : Mcr → Mcr) (j : Nat) :
    (State.modMcr s f).inForceW j = s.inForceW j := (State.modMcr_frame s f).others.inForceW rfl j
@[simp] theorem State.modMcr_counter (s : State) (f : Mcr → Mcr) (j : Nat) :
    (State.modMcr s f).counter j = s.counter j := (State.modMcr_frame s f).others.counter rfl j
@[simp] theorem State.modMcr_mboxOf (s : State) (f : Mcr → Mcr) (j : Nat) :
    (State.modMcr s f).mboxOf j = s.mboxOf j := (State.modMcr_frame s f).others.mboxOf rfl j
@[simp] theorem State.modMcr_ringOf (s : State) (f : Mcr → Mcr) (j : Nat) :
    (State.modMcr s f).ringOf j = s.ringOf j := (State.modMcr_frame s f).others.ringOf rfl j
@[simp] theorem State.modMcr_sapOf (s : State) (f : Mcr → Mcr) (j : Nat) :
    (State.modMcr s f).sapOf j = s.sapOf j := (State.modMcr_frame s f).others.sapOf rfl j
@[simp] theorem State.modMcr_engOf (s : State) (f : Mcr → Mcr) (j : Nat) :
    (State.modMcr s f).engOf j = s.engOf j := (State.modMcr_frame s f).others.engOf rfl j
@[simp] theorem State.modMcr_juncOf (s : State) (f : Mcr → Mcr) (j : Nat) :
    (State.modMcr s f).juncOf j = s.juncOf j := (State.modMcr_frame s f).others.juncOf rfl j
@[simp] theorem State.modMcr_muteOf (s : State) (f : Mcr → Mcr) (j : Nat) :
    (State.modMcr s f).muteOf j = s.muteOf j := (State.modMcr_frame s f).others.muteOf rfl j
@[simp] theorem State.modMcr_chOf (s : State) (f : Mcr → Mcr) (j : Nat) :
    (State.modMcr s f).chOf j = s.chOf j := (State.modMcr_frame s f).others.chOf rfl j
@[simp] theorem State.modMcr_trkOf (s : State) (f : Mcr → Mcr) (j : Nat) :
    (State.modMcr s f).trkOf j = s.trkOf j := (State.modMcr_frame s f).others.trkOf rfl j
@[simp] theorem State.modMcr_stxOf (s : State) (f : Mcr → Mcr) (j : Nat) :
    (State.modMcr s f).stxOf j = s.stxOf j := (State.modMcr_frame s f).others.stxOf rfl j
@[simp] theorem State.modMcr_srxOf (s : State) (f : Mcr → Mcr) (j : Nat) :
    (State.modMcr s f).srxOf j = s.srxOf j := (State.modMcr_frame s f).others.srxOf rfl j
@[simp] theorem State.modMcr_grpOf (s : State) (f : Mcr → Mcr) (j : Nat) :
    (State.modMcr s f).grpOf j = s.grpOf j := (State.modMcr_frame s f).others.grpOf rfl j
@[simp] theorem State.modMcr_dpcOf (s : State) (f : Mcr → Mcr) (j : Nat) :
    (State.modMcr s f).dpcOf j = s.dpcOf j := (State.modMcr_frame s f).others.dpcOf rfl j

/-! setMac -/

theorem State.setMac_frame (s : State) (p : Nat) (v : Mac) : Follows [.macA, .macB] s (State.setMac s p v) :=
  State.setMac_follows s p v (fun _ k => k) (Follows.refl s)

@[simp] theorem State.setMac_member (s : State) (p : Nat) (v : Mac) :
    (State.setMac s p v).member = s.member := (State.setMac_frame s p v).member
@[simp] theorem State.setMac_storesOk {s : State} (p : Nat) (v : Mac) (h : StoresOk s) :
    StoresOk (State.setMac s p v) := (State.setMac_frame s p v).stores h
@[simp] theorem State.setMac_rcW (s : State) (p : Nat) (v : Mac) (j : Nat) :
    (State.setMac s p v).rcW j = s.rcW j := (State.setMac_frame s p v).others.rcW rfl j
@[simp] theorem State.setMac_event (s : State) (p : Nat) (v : Mac) (j : Nat) :
    (State.setMac s p v).event j = s.event j := (State.setMac_frame s p v).others.event rfl j
@[simp] theorem State.setMac_rwW (s : State) (p : Nat) (v : Mac) (j : Nat) :
    (State.setMac s p v).rwW j = s.rwW j := (State.setMac_frame s p v).others.rwW rfl j
@[simp] theorem State.setMac_stagedW (s : State) (p : Nat) (v : Mac) (j : Nat) :
    (State.setMac s p v).stagedW j = s.stagedW j := (State.setMac_frame s p v).others.stagedW rfl j
@[simp] theorem State.setMac_appliedW (s : State) (p : Nat) (v : Mac) (j : Nat) :
    (State.setMac s p v).appliedW j = s.appliedW j := (State.setMac_frame s p v).others.appliedW rfl j
@[simp] theorem State.setMac_inForceW (s : State) (p : Nat) (v : Mac) (j : Nat) :
    (State.setMac s p v).inForceW j = s.inForceW j := (State.setMac_frame s p v).others.inForceW rfl j
@[simp] theorem State.setMac_counter (s : State) (p : Nat) (v : Mac) (j : Nat) :
    (State.setMac s p v).counter j = s.counter j := (State.setMac_frame s p v).others.counter rfl j
@[simp] theorem State.setMac_mboxOf (s : State) (p : Nat) (v : Mac) (j : Nat) :
    (State.setMac s p v).mboxOf j = s.mboxOf j := (State.setMac_frame s p v).others.mboxOf rfl j
@[simp] theorem State.setMac_ringOf (s : State) (p : Nat) (v : Mac) (j : Nat) :
    (State.setMac s p v).ringOf j = s.ringOf j := (State.setMac_frame s p v).others.ringOf rfl j
@[simp] theorem State.setMac_sapOf (s : State) (p : Nat) (v : Mac) (j : Nat) :
    (State.setMac s p v).sapOf j = s.sapOf j := (State.setMac_frame s p v).others.sapOf rfl j
@[simp] theorem State.setMac_engOf (s : State) (p : Nat) (v : Mac) (j : Nat) :
    (State.setMac s p v).engOf j = s.engOf j := (State.setMac_frame s p v).others.engOf rfl j
@[simp] theorem State.setMac_juncOf (s : State) (p : Nat) (v : Mac) (j : Nat) :
    (State.setMac s p v).juncOf j = s.juncOf j := (State.setMac_frame s p v).others.juncOf rfl j
@[simp] theorem State.setMac_muteOf (s : State) (p : Nat) (v : Mac) (j : Nat) :
    (State.setMac s p v).muteOf j = s.muteOf j := (State.setMac_frame s p v).others.muteOf rfl j
@[simp] theorem State.setMac_chOf (s : State) (p : Nat) (v : Mac) (j : Nat) :
    (State.setMac s p v).chOf j = s.chOf j := (State.setMac_frame s p v).others.chOf rfl j
@[simp] theorem State.setMac_trkOf (s : State) (p : Nat) (v : Mac) (j : Nat) :
    (State.setMac s p v).trkOf j = s.trkOf j := (State.setMac_frame s p v).others.trkOf rfl j
@[simp] theorem State.setMac_stxOf (s : State) (p : Nat) (v : Mac) (j : Nat) :
    (State.setMac s p v).stxOf j = s.stxOf j := (State.setMac_frame s p v).others.stxOf rfl j
@[simp] theorem State.setMac_srxOf (s : State) (p : Nat) (v : Mac) (j : Nat) :
    (State.setMac s p v).srxOf j = s.srxOf j := (State.setMac_frame s p v).others.srxOf rfl j
@[simp] theorem State.setMac_grpOf (s : State) (p : Nat) (v : Mac) (j : Nat) :
    (State.setMac s p v).grpOf j = s.grpOf j := (State.setMac_frame s p v).others.grpOf rfl j
@[simp] theorem State.setMac_dpcOf (s : State) (p : Nat) (v : Mac) (j : Nat) :
    (State.setMac s p v).dpcOf j = s.dpcOf j := (State.setMac_frame s p v).others.dpcOf rfl j
@[simp] theorem State.setMac_tt (s : State) (p : Nat) (v : Mac) :
    (State.setMac s p v).tt = s.tt := (State.setMac_frame s p v).others.ttKept rfl rfl
@[simp] theorem State.setMac_tim (s : State) (p : Nat) (v : Mac) :
    (State.setMac s p v).tim = s.tim := (State.setMac_frame s p v).others.keeps .tim rfl
@[simp] theorem State.setMac_mcr (s : State) (p : Nat) (v : Mac) :
    (State.setMac s p v).mcr = s.mcr := (State.setMac_frame s p v).others.keeps .mcr rfl
@[simp] theorem State.setMac_syn (s : State) (p : Nat) (v : Mac) :
    (State.setMac s p v).syn = s.syn := (State.setMac_frame s p v).others.keeps .syn rfl
@[simp] theorem State.setMac_mix (s : State) (p : Nat) (v : Mac) :
    (State.setMac s p v).mix = s.mix := (State.setMac_frame s p v).others.keeps .mix rfl
@[simp] theorem State.setMac_mdio (s : State) (p : Nat) (v : Mac) :
    (State.setMac s p v).mdio = s.mdio := (State.setMac_frame s p v).others.keeps .mdio rfl
@[simp] theorem State.setMac_stx (s : State) (p : Nat) (v : Mac) :
    (State.setMac s p v).stx = s.stx := (State.setMac_frame s p v).others.keeps .stx rfl
@[simp] theorem State.setMac_srx (s : State) (p : Nat) (v : Mac) :
    (State.setMac s p v).srx = s.srx := (State.setMac_frame s p v).others.keeps .srx rfl
@[simp] theorem State.setMac_dpc (s : State) (p : Nat) (v : Mac) :
    (State.setMac s p v).dpc = s.dpc := (State.setMac_frame s p v).others.keeps .dpc rfl
@[simp] theorem State.setMac_eng (s : State) (p : Nat) (v : Mac) :
    (State.setMac s p v).eng = s.eng := (State.setMac_frame s p v).others.keeps .eng rfl
@[simp] theorem State.setMac_mbox (s : State) (p : Nat) (v : Mac) :
    (State.setMac s p v).mbox = s.mbox := (State.setMac_frame s p v).others.keeps .mbox rfl
@[simp] theorem State.setMac_ring (s : State) (p : Nat) (v : Mac) :
    (State.setMac s p v).ring = s.ring := (State.setMac_frame s p v).others.keeps .ring rfl
@[simp] theorem State.setMac_sap (s : State) (p : Nat) (v : Mac) :
    (State.setMac s p v).sap = s.sap := (State.setMac_frame s p v).others.keeps .sap rfl
@[simp] theorem State.setMac_asrc (s : State) (p : Nat) (v : Mac) :
    (State.setMac s p v).asrc = s.asrc := (State.setMac_frame s p v).others.keeps .asrc rfl
@[simp] theorem State.setMac_pwr (s : State) (p : Nat) (v : Mac) :
    (State.setMac s p v).pwr = s.pwr := (State.setMac_frame s p v).others.keeps .pwr rfl
@[simp] theorem State.setMac_pair (s : State) (p : Nat) (v : Mac) :
    (State.setMac s p v).pair = s.pair := (State.setMac_frame s p v).others.keeps .pair rfl
@[simp] theorem State.setMac_pmu (s : State) (p : Nat) (v : Mac) :
    (State.setMac s p v).pmu = s.pmu := (State.setMac_frame s p v).others.keeps .pmu rfl
@[simp] theorem State.setMac_mgt (s : State) (p : Nat) (v : Mac) :
    (State.setMac s p v).mgt = s.mgt := (State.setMac_frame s p v).others.keeps .mgt rfl
@[simp] theorem State.setMac_pci (s : State) (p : Nat) (v : Mac) :
    (State.setMac s p v).pci = s.pci := (State.setMac_frame s p v).others.keeps .pci rfl
@[simp] theorem State.setMac_sst (s : State) (p : Nat) (v : Mac) :
    (State.setMac s p v).sst = s.sst := (State.setMac_frame s p v).others.keeps .sst rfl
@[simp] theorem State.setMac_cmd (s : State) (p : Nat) (v : Mac) :
    (State.setMac s p v).cmd = s.cmd := (State.setMac_frame s p v).others.keeps .cmd rfl
@[simp] theorem State.setMac_hrx (s : State) (p : Nat) (v : Mac) :
    (State.setMac s p v).hrx = s.hrx := (State.setMac_frame s p v).others.keeps .hrx rfl
@[simp] theorem State.setMac_msixEn (s : State) (p : Nat) (v : Mac) :
    (State.setMac s p v).msixEn = s.msixEn := (State.setMac_frame s p v).others.keeps .msixEn rfl
@[simp] theorem State.setMac_intDis (s : State) (p : Nat) (v : Mac) :
    (State.setMac s p v).intDis = s.intDis := (State.setMac_frame s p v).others.keeps .intDis rfl
@[simp] theorem State.setMac_hstop (s : State) (p : Nat) (v : Mac) :
    (State.setMac s p v).reg.hstop = s.reg.hstop := (State.setMac_frame s p v).others.keeps .hstop rfl

/-! modMac -/

theorem State.modMac_frame (s : State) (p : Nat) (f : Mac → Mac) : Follows [.macA, .macB] s (State.modMac s p f) :=
  State.modMac_follows s p f (fun _ k => k) (Follows.refl s)

@[simp] theorem State.modMac_member (s : State) (p : Nat) (f : Mac → Mac) :
    (State.modMac s p f).member = s.member := (State.modMac_frame s p f).member
@[simp] theorem State.modMac_storesOk {s : State} (p : Nat) (f : Mac → Mac) (h : StoresOk s) :
    StoresOk (State.modMac s p f) := (State.modMac_frame s p f).stores h
@[simp] theorem State.modMac_rcW (s : State) (p : Nat) (f : Mac → Mac) (j : Nat) :
    (State.modMac s p f).rcW j = s.rcW j := (State.modMac_frame s p f).others.rcW rfl j
@[simp] theorem State.modMac_event (s : State) (p : Nat) (f : Mac → Mac) (j : Nat) :
    (State.modMac s p f).event j = s.event j := (State.modMac_frame s p f).others.event rfl j
@[simp] theorem State.modMac_rwW (s : State) (p : Nat) (f : Mac → Mac) (j : Nat) :
    (State.modMac s p f).rwW j = s.rwW j := (State.modMac_frame s p f).others.rwW rfl j
@[simp] theorem State.modMac_stagedW (s : State) (p : Nat) (f : Mac → Mac) (j : Nat) :
    (State.modMac s p f).stagedW j = s.stagedW j := (State.modMac_frame s p f).others.stagedW rfl j
@[simp] theorem State.modMac_appliedW (s : State) (p : Nat) (f : Mac → Mac) (j : Nat) :
    (State.modMac s p f).appliedW j = s.appliedW j := (State.modMac_frame s p f).others.appliedW rfl j
@[simp] theorem State.modMac_inForceW (s : State) (p : Nat) (f : Mac → Mac) (j : Nat) :
    (State.modMac s p f).inForceW j = s.inForceW j := (State.modMac_frame s p f).others.inForceW rfl j
@[simp] theorem State.modMac_counter (s : State) (p : Nat) (f : Mac → Mac) (j : Nat) :
    (State.modMac s p f).counter j = s.counter j := (State.modMac_frame s p f).others.counter rfl j
@[simp] theorem State.modMac_mboxOf (s : State) (p : Nat) (f : Mac → Mac) (j : Nat) :
    (State.modMac s p f).mboxOf j = s.mboxOf j := (State.modMac_frame s p f).others.mboxOf rfl j
@[simp] theorem State.modMac_ringOf (s : State) (p : Nat) (f : Mac → Mac) (j : Nat) :
    (State.modMac s p f).ringOf j = s.ringOf j := (State.modMac_frame s p f).others.ringOf rfl j
@[simp] theorem State.modMac_sapOf (s : State) (p : Nat) (f : Mac → Mac) (j : Nat) :
    (State.modMac s p f).sapOf j = s.sapOf j := (State.modMac_frame s p f).others.sapOf rfl j
@[simp] theorem State.modMac_engOf (s : State) (p : Nat) (f : Mac → Mac) (j : Nat) :
    (State.modMac s p f).engOf j = s.engOf j := (State.modMac_frame s p f).others.engOf rfl j
@[simp] theorem State.modMac_juncOf (s : State) (p : Nat) (f : Mac → Mac) (j : Nat) :
    (State.modMac s p f).juncOf j = s.juncOf j := (State.modMac_frame s p f).others.juncOf rfl j
@[simp] theorem State.modMac_muteOf (s : State) (p : Nat) (f : Mac → Mac) (j : Nat) :
    (State.modMac s p f).muteOf j = s.muteOf j := (State.modMac_frame s p f).others.muteOf rfl j
@[simp] theorem State.modMac_chOf (s : State) (p : Nat) (f : Mac → Mac) (j : Nat) :
    (State.modMac s p f).chOf j = s.chOf j := (State.modMac_frame s p f).others.chOf rfl j
@[simp] theorem State.modMac_trkOf (s : State) (p : Nat) (f : Mac → Mac) (j : Nat) :
    (State.modMac s p f).trkOf j = s.trkOf j := (State.modMac_frame s p f).others.trkOf rfl j
@[simp] theorem State.modMac_stxOf (s : State) (p : Nat) (f : Mac → Mac) (j : Nat) :
    (State.modMac s p f).stxOf j = s.stxOf j := (State.modMac_frame s p f).others.stxOf rfl j
@[simp] theorem State.modMac_srxOf (s : State) (p : Nat) (f : Mac → Mac) (j : Nat) :
    (State.modMac s p f).srxOf j = s.srxOf j := (State.modMac_frame s p f).others.srxOf rfl j
@[simp] theorem State.modMac_grpOf (s : State) (p : Nat) (f : Mac → Mac) (j : Nat) :
    (State.modMac s p f).grpOf j = s.grpOf j := (State.modMac_frame s p f).others.grpOf rfl j
@[simp] theorem State.modMac_dpcOf (s : State) (p : Nat) (f : Mac → Mac) (j : Nat) :
    (State.modMac s p f).dpcOf j = s.dpcOf j := (State.modMac_frame s p f).others.dpcOf rfl j
@[simp] theorem State.modMac_tt (s : State) (p : Nat) (f : Mac → Mac) :
    (State.modMac s p f).tt = s.tt := (State.modMac_frame s p f).others.ttKept rfl rfl
@[simp] theorem State.modMac_tim (s : State) (p : Nat) (f : Mac → Mac) :
    (State.modMac s p f).tim = s.tim := (State.modMac_frame s p f).others.keeps .tim rfl
@[simp] theorem State.modMac_mcr (s : State) (p : Nat) (f : Mac → Mac) :
    (State.modMac s p f).mcr = s.mcr := (State.modMac_frame s p f).others.keeps .mcr rfl
@[simp] theorem State.modMac_syn (s : State) (p : Nat) (f : Mac → Mac) :
    (State.modMac s p f).syn = s.syn := (State.modMac_frame s p f).others.keeps .syn rfl
@[simp] theorem State.modMac_mix (s : State) (p : Nat) (f : Mac → Mac) :
    (State.modMac s p f).mix = s.mix := (State.modMac_frame s p f).others.keeps .mix rfl
@[simp] theorem State.modMac_mdio (s : State) (p : Nat) (f : Mac → Mac) :
    (State.modMac s p f).mdio = s.mdio := (State.modMac_frame s p f).others.keeps .mdio rfl
@[simp] theorem State.modMac_stx (s : State) (p : Nat) (f : Mac → Mac) :
    (State.modMac s p f).stx = s.stx := (State.modMac_frame s p f).others.keeps .stx rfl
@[simp] theorem State.modMac_srx (s : State) (p : Nat) (f : Mac → Mac) :
    (State.modMac s p f).srx = s.srx := (State.modMac_frame s p f).others.keeps .srx rfl
@[simp] theorem State.modMac_dpc (s : State) (p : Nat) (f : Mac → Mac) :
    (State.modMac s p f).dpc = s.dpc := (State.modMac_frame s p f).others.keeps .dpc rfl
@[simp] theorem State.modMac_eng (s : State) (p : Nat) (f : Mac → Mac) :
    (State.modMac s p f).eng = s.eng := (State.modMac_frame s p f).others.keeps .eng rfl
@[simp] theorem State.modMac_mbox (s : State) (p : Nat) (f : Mac → Mac) :
    (State.modMac s p f).mbox = s.mbox := (State.modMac_frame s p f).others.keeps .mbox rfl
@[simp] theorem State.modMac_ring (s : State) (p : Nat) (f : Mac → Mac) :
    (State.modMac s p f).ring = s.ring := (State.modMac_frame s p f).others.keeps .ring rfl
@[simp] theorem State.modMac_sap (s : State) (p : Nat) (f : Mac → Mac) :
    (State.modMac s p f).sap = s.sap := (State.modMac_frame s p f).others.keeps .sap rfl
@[simp] theorem State.modMac_asrc (s : State) (p : Nat) (f : Mac → Mac) :
    (State.modMac s p f).asrc = s.asrc := (State.modMac_frame s p f).others.keeps .asrc rfl
@[simp] theorem State.modMac_pwr (s : State) (p : Nat) (f : Mac → Mac) :
    (State.modMac s p f).pwr = s.pwr := (State.modMac_frame s p f).others.keeps .pwr rfl
@[simp] theorem State.modMac_pair (s : State) (p : Nat) (f : Mac → Mac) :
    (State.modMac s p f).pair = s.pair := (State.modMac_frame s p f).others.keeps .pair rfl
@[simp] theorem State.modMac_pmu (s : State) (p : Nat) (f : Mac → Mac) :
    (State.modMac s p f).pmu = s.pmu := (State.modMac_frame s p f).others.keeps .pmu rfl
@[simp] theorem State.modMac_mgt (s : State) (p : Nat) (f : Mac → Mac) :
    (State.modMac s p f).mgt = s.mgt := (State.modMac_frame s p f).others.keeps .mgt rfl
@[simp] theorem State.modMac_pci (s : State) (p : Nat) (f : Mac → Mac) :
    (State.modMac s p f).pci = s.pci := (State.modMac_frame s p f).others.keeps .pci rfl
@[simp] theorem State.modMac_sst (s : State) (p : Nat) (f : Mac → Mac) :
    (State.modMac s p f).sst = s.sst := (State.modMac_frame s p f).others.keeps .sst rfl
@[simp] theorem State.modMac_cmd (s : State) (p : Nat) (f : Mac → Mac) :
    (State.modMac s p f).cmd = s.cmd := (State.modMac_frame s p f).others.keeps .cmd rfl
@[simp] theorem State.modMac_hrx (s : State) (p : Nat) (f : Mac → Mac) :
    (State.modMac s p f).hrx = s.hrx := (State.modMac_frame s p f).others.keeps .hrx rfl
@[simp] theorem State.modMac_msixEn (s : State) (p : Nat) (f : Mac → Mac) :
    (State.modMac s p f).msixEn = s.msixEn := (State.modMac_frame s p f).others.keeps .msixEn rfl
@[simp] theorem State.modMac_intDis (s : State) (p : Nat) (f : Mac → Mac) :
    (State.modMac s p f).intDis = s.intDis := (State.modMac_frame s p f).others.keeps .intDis rfl
@[simp] theorem State.modMac_hstop (s : State) (p : Nat) (f : Mac → Mac) :
    (State.modMac s p f).reg.hstop = s.reg.hstop := (State.modMac_frame s p f).others.keeps .hstop rfl

/-! setStx -/

theorem State.setStx_frame (s : State) (c : Nat) (v : StxCtx) : Follows [.stx] s (State.setStx s c v) :=
  State.setStx_follows s c v (fun _ k => k) (Follows.refl s)

@[simp] theorem State.setStx_storesOk {s : State} (c : Nat) (v : StxCtx) (h : StoresOk s) :
    StoresOk (State.setStx s c v) := (State.setStx_frame s c v).stores h
@[simp] theorem State.setStx_rcW (s : State) (c : Nat) (v : StxCtx) (j : Nat) :
    (State.setStx s c v).rcW j = s.rcW j := (State.setStx_frame s c v).others.rcW rfl j
@[simp] theorem State.setStx_event (s : State) (c : Nat) (v : StxCtx) (j : Nat) :
    (State.setStx s c v).event j = s.event j := (State.setStx_frame s c v).others.event rfl j
@[simp] theorem State.setStx_rwW (s : State) (c : Nat) (v : StxCtx) (j : Nat) :
    (State.setStx s c v).rwW j = s.rwW j := (State.setStx_frame s c v).others.rwW rfl j
@[simp] theorem State.setStx_stagedW (s : State) (c : Nat) (v : StxCtx) (j : Nat) :
    (State.setStx s c v).stagedW j = s.stagedW j := (State.setStx_frame s c v).others.stagedW rfl j
@[simp] theorem State.setStx_appliedW (s : State) (c : Nat) (v : StxCtx) (j : Nat) :
    (State.setStx s c v).appliedW j = s.appliedW j := (State.setStx_frame s c v).others.appliedW rfl j
@[simp] theorem State.setStx_inForceW (s : State) (c : Nat) (v : StxCtx) (j : Nat) :
    (State.setStx s c v).inForceW j = s.inForceW j := (State.setStx_frame s c v).others.inForceW rfl j
@[simp] theorem State.setStx_counter (s : State) (c : Nat) (v : StxCtx) (j : Nat) :
    (State.setStx s c v).counter j = s.counter j := (State.setStx_frame s c v).others.counter rfl j
@[simp] theorem State.setStx_mboxOf (s : State) (c : Nat) (v : StxCtx) (j : Nat) :
    (State.setStx s c v).mboxOf j = s.mboxOf j := (State.setStx_frame s c v).others.mboxOf rfl j
@[simp] theorem State.setStx_ringOf (s : State) (c : Nat) (v : StxCtx) (j : Nat) :
    (State.setStx s c v).ringOf j = s.ringOf j := (State.setStx_frame s c v).others.ringOf rfl j
@[simp] theorem State.setStx_sapOf (s : State) (c : Nat) (v : StxCtx) (j : Nat) :
    (State.setStx s c v).sapOf j = s.sapOf j := (State.setStx_frame s c v).others.sapOf rfl j
@[simp] theorem State.setStx_engOf (s : State) (c : Nat) (v : StxCtx) (j : Nat) :
    (State.setStx s c v).engOf j = s.engOf j := (State.setStx_frame s c v).others.engOf rfl j
@[simp] theorem State.setStx_juncOf (s : State) (c : Nat) (v : StxCtx) (j : Nat) :
    (State.setStx s c v).juncOf j = s.juncOf j := (State.setStx_frame s c v).others.juncOf rfl j
@[simp] theorem State.setStx_muteOf (s : State) (c : Nat) (v : StxCtx) (j : Nat) :
    (State.setStx s c v).muteOf j = s.muteOf j := (State.setStx_frame s c v).others.muteOf rfl j
@[simp] theorem State.setStx_chOf (s : State) (c : Nat) (v : StxCtx) (j : Nat) :
    (State.setStx s c v).chOf j = s.chOf j := (State.setStx_frame s c v).others.chOf rfl j
@[simp] theorem State.setStx_trkOf (s : State) (c : Nat) (v : StxCtx) (j : Nat) :
    (State.setStx s c v).trkOf j = s.trkOf j := (State.setStx_frame s c v).others.trkOf rfl j
@[simp] theorem State.setStx_srxOf (s : State) (c : Nat) (v : StxCtx) (j : Nat) :
    (State.setStx s c v).srxOf j = s.srxOf j := (State.setStx_frame s c v).others.srxOf rfl j
@[simp] theorem State.setStx_grpOf (s : State) (c : Nat) (v : StxCtx) (j : Nat) :
    (State.setStx s c v).grpOf j = s.grpOf j := (State.setStx_frame s c v).others.grpOf rfl j
@[simp] theorem State.setStx_dpcOf (s : State) (c : Nat) (v : StxCtx) (j : Nat) :
    (State.setStx s c v).dpcOf j = s.dpcOf j := (State.setStx_frame s c v).others.dpcOf rfl j

/-! setSrx -/

theorem State.setSrx_frame (s : State) (c : Nat) (v : SrxCtx) : Follows [.srx] s (State.setSrx s c v) :=
  State.setSrx_follows s c v (fun _ k => k) (Follows.refl s)

@[simp] theorem State.setSrx_storesOk {s : State} (c : Nat) (v : SrxCtx) (h : StoresOk s) :
    StoresOk (State.setSrx s c v) := (State.setSrx_frame s c v).stores h
@[simp] theorem State.setSrx_rcW (s : State) (c : Nat) (v : SrxCtx) (j : Nat) :
    (State.setSrx s c v).rcW j = s.rcW j := (State.setSrx_frame s c v).others.rcW rfl j
@[simp] theorem State.setSrx_event (s : State) (c : Nat) (v : SrxCtx) (j : Nat) :
    (State.setSrx s c v).event j = s.event j := (State.setSrx_frame s c v).others.event rfl j
@[simp] theorem State.setSrx_rwW (s : State) (c : Nat) (v : SrxCtx) (j : Nat) :
    (State.setSrx s c v).rwW j = s.rwW j := (State.setSrx_frame s c v).others.rwW rfl j
@[simp] theorem State.setSrx_stagedW (s : State) (c : Nat) (v : SrxCtx) (j : Nat) :
    (State.setSrx s c v).stagedW j = s.stagedW j := (State.setSrx_frame s c v).others.stagedW rfl j
@[simp] theorem State.setSrx_appliedW (s : State) (c : Nat) (v : SrxCtx) (j : Nat) :
    (State.setSrx s c v).appliedW j = s.appliedW j := (State.setSrx_frame s c v).others.appliedW rfl j
@[simp] theorem State.setSrx_inForceW (s : State) (c : Nat) (v : SrxCtx) (j : Nat) :
    (State.setSrx s c v).inForceW j = s.inForceW j := (State.setSrx_frame s c v).others.inForceW rfl j
@[simp] theorem State.setSrx_counter (s : State) (c : Nat) (v : SrxCtx) (j : Nat) :
    (State.setSrx s c v).counter j = s.counter j := (State.setSrx_frame s c v).others.counter rfl j
@[simp] theorem State.setSrx_mboxOf (s : State) (c : Nat) (v : SrxCtx) (j : Nat) :
    (State.setSrx s c v).mboxOf j = s.mboxOf j := (State.setSrx_frame s c v).others.mboxOf rfl j
@[simp] theorem State.setSrx_ringOf (s : State) (c : Nat) (v : SrxCtx) (j : Nat) :
    (State.setSrx s c v).ringOf j = s.ringOf j := (State.setSrx_frame s c v).others.ringOf rfl j
@[simp] theorem State.setSrx_sapOf (s : State) (c : Nat) (v : SrxCtx) (j : Nat) :
    (State.setSrx s c v).sapOf j = s.sapOf j := (State.setSrx_frame s c v).others.sapOf rfl j
@[simp] theorem State.setSrx_engOf (s : State) (c : Nat) (v : SrxCtx) (j : Nat) :
    (State.setSrx s c v).engOf j = s.engOf j := (State.setSrx_frame s c v).others.engOf rfl j
@[simp] theorem State.setSrx_juncOf (s : State) (c : Nat) (v : SrxCtx) (j : Nat) :
    (State.setSrx s c v).juncOf j = s.juncOf j := (State.setSrx_frame s c v).others.juncOf rfl j
@[simp] theorem State.setSrx_muteOf (s : State) (c : Nat) (v : SrxCtx) (j : Nat) :
    (State.setSrx s c v).muteOf j = s.muteOf j := (State.setSrx_frame s c v).others.muteOf rfl j
@[simp] theorem State.setSrx_chOf (s : State) (c : Nat) (v : SrxCtx) (j : Nat) :
    (State.setSrx s c v).chOf j = s.chOf j := (State.setSrx_frame s c v).others.chOf rfl j
@[simp] theorem State.setSrx_trkOf (s : State) (c : Nat) (v : SrxCtx) (j : Nat) :
    (State.setSrx s c v).trkOf j = s.trkOf j := (State.setSrx_frame s c v).others.trkOf rfl j
@[simp] theorem State.setSrx_stxOf (s : State) (c : Nat) (v : SrxCtx) (j : Nat) :
    (State.setSrx s c v).stxOf j = s.stxOf j := (State.setSrx_frame s c v).others.stxOf rfl j
@[simp] theorem State.setSrx_dpcOf (s : State) (c : Nat) (v : SrxCtx) (j : Nat) :
    (State.setSrx s c v).dpcOf j = s.dpcOf j := (State.setSrx_frame s c v).others.dpcOf rfl j

/-! setGrp -/

theorem State.setGrp_frame (s : State) (g : Nat) (v : SrxGroup) : Follows [.srx] s (State.setGrp s g v) :=
  State.setGrp_follows s g v (fun _ k => k) (Follows.refl s)

@[simp] theorem State.setGrp_storesOk {s : State} (g : Nat) (v : SrxGroup) (h : StoresOk s) :
    StoresOk (State.setGrp s g v) := (State.setGrp_frame s g v).stores h
@[simp] theorem State.setGrp_rcW (s : State) (g : Nat) (v : SrxGroup) (j : Nat) :
    (State.setGrp s g v).rcW j = s.rcW j := (State.setGrp_frame s g v).others.rcW rfl j
@[simp] theorem State.setGrp_event (s : State) (g : Nat) (v : SrxGroup) (j : Nat) :
    (State.setGrp s g v).event j = s.event j := (State.setGrp_frame s g v).others.event rfl j
@[simp] theorem State.setGrp_rwW (s : State) (g : Nat) (v : SrxGroup) (j : Nat) :
    (State.setGrp s g v).rwW j = s.rwW j := (State.setGrp_frame s g v).others.rwW rfl j
@[simp] theorem State.setGrp_stagedW (s : State) (g : Nat) (v : SrxGroup) (j : Nat) :
    (State.setGrp s g v).stagedW j = s.stagedW j := (State.setGrp_frame s g v).others.stagedW rfl j
@[simp] theorem State.setGrp_appliedW (s : State) (g : Nat) (v : SrxGroup) (j : Nat) :
    (State.setGrp s g v).appliedW j = s.appliedW j := (State.setGrp_frame s g v).others.appliedW rfl j
@[simp] theorem State.setGrp_inForceW (s : State) (g : Nat) (v : SrxGroup) (j : Nat) :
    (State.setGrp s g v).inForceW j = s.inForceW j := (State.setGrp_frame s g v).others.inForceW rfl j
@[simp] theorem State.setGrp_counter (s : State) (g : Nat) (v : SrxGroup) (j : Nat) :
    (State.setGrp s g v).counter j = s.counter j := (State.setGrp_frame s g v).others.counter rfl j
@[simp] theorem State.setGrp_mboxOf (s : State) (g : Nat) (v : SrxGroup) (j : Nat) :
    (State.setGrp s g v).mboxOf j = s.mboxOf j := (State.setGrp_frame s g v).others.mboxOf rfl j
@[simp] theorem State.setGrp_ringOf (s : State) (g : Nat) (v : SrxGroup) (j : Nat) :
    (State.setGrp s g v).ringOf j = s.ringOf j := (State.setGrp_frame s g v).others.ringOf rfl j
@[simp] theorem State.setGrp_sapOf (s : State) (g : Nat) (v : SrxGroup) (j : Nat) :
    (State.setGrp s g v).sapOf j = s.sapOf j := (State.setGrp_frame s g v).others.sapOf rfl j
@[simp] theorem State.setGrp_engOf (s : State) (g : Nat) (v : SrxGroup) (j : Nat) :
    (State.setGrp s g v).engOf j = s.engOf j := (State.setGrp_frame s g v).others.engOf rfl j
@[simp] theorem State.setGrp_juncOf (s : State) (g : Nat) (v : SrxGroup) (j : Nat) :
    (State.setGrp s g v).juncOf j = s.juncOf j := (State.setGrp_frame s g v).others.juncOf rfl j
@[simp] theorem State.setGrp_muteOf (s : State) (g : Nat) (v : SrxGroup) (j : Nat) :
    (State.setGrp s g v).muteOf j = s.muteOf j := (State.setGrp_frame s g v).others.muteOf rfl j
@[simp] theorem State.setGrp_chOf (s : State) (g : Nat) (v : SrxGroup) (j : Nat) :
    (State.setGrp s g v).chOf j = s.chOf j := (State.setGrp_frame s g v).others.chOf rfl j
@[simp] theorem State.setGrp_trkOf (s : State) (g : Nat) (v : SrxGroup) (j : Nat) :
    (State.setGrp s g v).trkOf j = s.trkOf j := (State.setGrp_frame s g v).others.trkOf rfl j
@[simp] theorem State.setGrp_stxOf (s : State) (g : Nat) (v : SrxGroup) (j : Nat) :
    (State.setGrp s g v).stxOf j = s.stxOf j := (State.setGrp_frame s g v).others.stxOf rfl j
@[simp] theorem State.setGrp_dpcOf (s : State) (g : Nat) (v : SrxGroup) (j : Nat) :
    (State.setGrp s g v).dpcOf j = s.dpcOf j := (State.setGrp_frame s g v).others.dpcOf rfl j

/-! setDpc -/

theorem State.setDpc_frame (s : State) (c : Nat) (v : DpcCtx) : Follows [.dpc] s (State.setDpc s c v) :=
  State.setDpc_follows s c v (fun _ k => k) (Follows.refl s)

@[simp] theorem State.setDpc_storesOk {s : State} (c : Nat) (v : DpcCtx) (h : StoresOk s) :
    StoresOk (State.setDpc s c v) := (State.setDpc_frame s c v).stores h
@[simp] theorem State.setDpc_rcW (s : State) (c : Nat) (v : DpcCtx) (j : Nat) :
    (State.setDpc s c v).rcW j = s.rcW j := (State.setDpc_frame s c v).others.rcW rfl j
@[simp] theorem State.setDpc_event (s : State) (c : Nat) (v : DpcCtx) (j : Nat) :
    (State.setDpc s c v).event j = s.event j := (State.setDpc_frame s c v).others.event rfl j
@[simp] theorem State.setDpc_rwW (s : State) (c : Nat) (v : DpcCtx) (j : Nat) :
    (State.setDpc s c v).rwW j = s.rwW j := (State.setDpc_frame s c v).others.rwW rfl j
@[simp] theorem State.setDpc_stagedW (s : State) (c : Nat) (v : DpcCtx) (j : Nat) :
    (State.setDpc s c v).stagedW j = s.stagedW j := (State.setDpc_frame s c v).others.stagedW rfl j
@[simp] theorem State.setDpc_appliedW (s : State) (c : Nat) (v : DpcCtx) (j : Nat) :
    (State.setDpc s c v).appliedW j = s.appliedW j := (State.setDpc_frame s c v).others.appliedW rfl j
@[simp] theorem State.setDpc_inForceW (s : State) (c : Nat) (v : DpcCtx) (j : Nat) :
    (State.setDpc s c v).inForceW j = s.inForceW j := (State.setDpc_frame s c v).others.inForceW rfl j
@[simp] theorem State.setDpc_counter (s : State) (c : Nat) (v : DpcCtx) (j : Nat) :
    (State.setDpc s c v).counter j = s.counter j := (State.setDpc_frame s c v).others.counter rfl j
@[simp] theorem State.setDpc_mboxOf (s : State) (c : Nat) (v : DpcCtx) (j : Nat) :
    (State.setDpc s c v).mboxOf j = s.mboxOf j := (State.setDpc_frame s c v).others.mboxOf rfl j
@[simp] theorem State.setDpc_ringOf (s : State) (c : Nat) (v : DpcCtx) (j : Nat) :
    (State.setDpc s c v).ringOf j = s.ringOf j := (State.setDpc_frame s c v).others.ringOf rfl j
@[simp] theorem State.setDpc_sapOf (s : State) (c : Nat) (v : DpcCtx) (j : Nat) :
    (State.setDpc s c v).sapOf j = s.sapOf j := (State.setDpc_frame s c v).others.sapOf rfl j
@[simp] theorem State.setDpc_engOf (s : State) (c : Nat) (v : DpcCtx) (j : Nat) :
    (State.setDpc s c v).engOf j = s.engOf j := (State.setDpc_frame s c v).others.engOf rfl j
@[simp] theorem State.setDpc_juncOf (s : State) (c : Nat) (v : DpcCtx) (j : Nat) :
    (State.setDpc s c v).juncOf j = s.juncOf j := (State.setDpc_frame s c v).others.juncOf rfl j
@[simp] theorem State.setDpc_muteOf (s : State) (c : Nat) (v : DpcCtx) (j : Nat) :
    (State.setDpc s c v).muteOf j = s.muteOf j := (State.setDpc_frame s c v).others.muteOf rfl j
@[simp] theorem State.setDpc_chOf (s : State) (c : Nat) (v : DpcCtx) (j : Nat) :
    (State.setDpc s c v).chOf j = s.chOf j := (State.setDpc_frame s c v).others.chOf rfl j
@[simp] theorem State.setDpc_trkOf (s : State) (c : Nat) (v : DpcCtx) (j : Nat) :
    (State.setDpc s c v).trkOf j = s.trkOf j := (State.setDpc_frame s c v).others.trkOf rfl j
@[simp] theorem State.setDpc_stxOf (s : State) (c : Nat) (v : DpcCtx) (j : Nat) :
    (State.setDpc s c v).stxOf j = s.stxOf j := (State.setDpc_frame s c v).others.stxOf rfl j
@[simp] theorem State.setDpc_srxOf (s : State) (c : Nat) (v : DpcCtx) (j : Nat) :
    (State.setDpc s c v).srxOf j = s.srxOf j := (State.setDpc_frame s c v).others.srxOf rfl j
@[simp] theorem State.setDpc_grpOf (s : State) (c : Nat) (v : DpcCtx) (j : Nat) :
    (State.setDpc s c v).grpOf j = s.grpOf j := (State.setDpc_frame s c v).others.grpOf rfl j

/-! setMbox -/

theorem State.setMbox_frame (s : State) (n : Nat) (v : Mailbox) : Follows [.mbox] s (State.setMbox s n v) :=
  State.setMbox_follows s n v (fun _ k => k) (Follows.refl s)

@[simp] theorem State.setMbox_storesOk {s : State} (n : Nat) (v : Mailbox) (h : StoresOk s) :
    StoresOk (State.setMbox s n v) := (State.setMbox_frame s n v).stores h
@[simp] theorem State.setMbox_rcW (s : State) (n : Nat) (v : Mailbox) (j : Nat) :
    (State.setMbox s n v).rcW j = s.rcW j := (State.setMbox_frame s n v).others.rcW rfl j
@[simp] theorem State.setMbox_event (s : State) (n : Nat) (v : Mailbox) (j : Nat) :
    (State.setMbox s n v).event j = s.event j := (State.setMbox_frame s n v).others.event rfl j
@[simp] theorem State.setMbox_rwW (s : State) (n : Nat) (v : Mailbox) (j : Nat) :
    (State.setMbox s n v).rwW j = s.rwW j := (State.setMbox_frame s n v).others.rwW rfl j
@[simp] theorem State.setMbox_stagedW (s : State) (n : Nat) (v : Mailbox) (j : Nat) :
    (State.setMbox s n v).stagedW j = s.stagedW j := (State.setMbox_frame s n v).others.stagedW rfl j
@[simp] theorem State.setMbox_appliedW (s : State) (n : Nat) (v : Mailbox) (j : Nat) :
    (State.setMbox s n v).appliedW j = s.appliedW j := (State.setMbox_frame s n v).others.appliedW rfl j
@[simp] theorem State.setMbox_inForceW (s : State) (n : Nat) (v : Mailbox) (j : Nat) :
    (State.setMbox s n v).inForceW j = s.inForceW j := (State.setMbox_frame s n v).others.inForceW rfl j
@[simp] theorem State.setMbox_counter (s : State) (n : Nat) (v : Mailbox) (j : Nat) :
    (State.setMbox s n v).counter j = s.counter j := (State.setMbox_frame s n v).others.counter rfl j
@[simp] theorem State.setMbox_ringOf (s : State) (n : Nat) (v : Mailbox) (j : Nat) :
    (State.setMbox s n v).ringOf j = s.ringOf j := (State.setMbox_frame s n v).others.ringOf rfl j
@[simp] theorem State.setMbox_sapOf (s : State) (n : Nat) (v : Mailbox) (j : Nat) :
    (State.setMbox s n v).sapOf j = s.sapOf j := (State.setMbox_frame s n v).others.sapOf rfl j
@[simp] theorem State.setMbox_engOf (s : State) (n : Nat) (v : Mailbox) (j : Nat) :
    (State.setMbox s n v).engOf j = s.engOf j := (State.setMbox_frame s n v).others.engOf rfl j
@[simp] theorem State.setMbox_juncOf (s : State) (n : Nat) (v : Mailbox) (j : Nat) :
    (State.setMbox s n v).juncOf j = s.juncOf j := (State.setMbox_frame s n v).others.juncOf rfl j
@[simp] theorem State.setMbox_muteOf (s : State) (n : Nat) (v : Mailbox) (j : Nat) :
    (State.setMbox s n v).muteOf j = s.muteOf j := (State.setMbox_frame s n v).others.muteOf rfl j
@[simp] theorem State.setMbox_chOf (s : State) (n : Nat) (v : Mailbox) (j : Nat) :
    (State.setMbox s n v).chOf j = s.chOf j := (State.setMbox_frame s n v).others.chOf rfl j
@[simp] theorem State.setMbox_trkOf (s : State) (n : Nat) (v : Mailbox) (j : Nat) :
    (State.setMbox s n v).trkOf j = s.trkOf j := (State.setMbox_frame s n v).others.trkOf rfl j
@[simp] theorem State.setMbox_stxOf (s : State) (n : Nat) (v : Mailbox) (j : Nat) :
    (State.setMbox s n v).stxOf j = s.stxOf j := (State.setMbox_frame s n v).others.stxOf rfl j
@[simp] theorem State.setMbox_srxOf (s : State) (n : Nat) (v : Mailbox) (j : Nat) :
    (State.setMbox s n v).srxOf j = s.srxOf j := (State.setMbox_frame s n v).others.srxOf rfl j
@[simp] theorem State.setMbox_grpOf (s : State) (n : Nat) (v : Mailbox) (j : Nat) :
    (State.setMbox s n v).grpOf j = s.grpOf j := (State.setMbox_frame s n v).others.grpOf rfl j
@[simp] theorem State.setMbox_dpcOf (s : State) (n : Nat) (v : Mailbox) (j : Nat) :
    (State.setMbox s n v).dpcOf j = s.dpcOf j := (State.setMbox_frame s n v).others.dpcOf rfl j

/-! setRing -/

theorem State.setRing_frame (s : State) (p : Nat) (r : Ring) : Follows [.ring] s (State.setRing s p r) :=
  State.setRing_follows s p r (fun _ k => k) (Follows.refl s)

@[simp] theorem State.setRing_storesOk {s : State} (p : Nat) (r : Ring) (h : StoresOk s) :
    StoresOk (State.setRing s p r) := (State.setRing_frame s p r).stores h
@[simp] theorem State.setRing_rcW (s : State) (p : Nat) (r : Ring) (j : Nat) :
    (State.setRing s p r).rcW j = s.rcW j := (State.setRing_frame s p r).others.rcW rfl j
@[simp] theorem State.setRing_event (s : State) (p : Nat) (r : Ring) (j : Nat) :
    (State.setRing s p r).event j = s.event j := (State.setRing_frame s p r).others.event rfl j
@[simp] theorem State.setRing_rwW (s : State) (p : Nat) (r : Ring) (j : Nat) :
    (State.setRing s p r).rwW j = s.rwW j := (State.setRing_frame s p r).others.rwW rfl j
@[simp] theorem State.setRing_stagedW (s : State) (p : Nat) (r : Ring) (j : Nat) :
    (State.setRing s p r).stagedW j = s.stagedW j := (State.setRing_frame s p r).others.stagedW rfl j
@[simp] theorem State.setRing_appliedW (s : State) (p : Nat) (r : Ring) (j : Nat) :
    (State.setRing s p r).appliedW j = s.appliedW j := (State.setRing_frame s p r).others.appliedW rfl j
@[simp] theorem State.setRing_inForceW (s : State) (p : Nat) (r : Ring) (j : Nat) :
    (State.setRing s p r).inForceW j = s.inForceW j := (State.setRing_frame s p r).others.inForceW rfl j
@[simp] theorem State.setRing_counter (s : State) (p : Nat) (r : Ring) (j : Nat) :
    (State.setRing s p r).counter j = s.counter j := (State.setRing_frame s p r).others.counter rfl j
@[simp] theorem State.setRing_mboxOf (s : State) (p : Nat) (r : Ring) (j : Nat) :
    (State.setRing s p r).mboxOf j = s.mboxOf j := (State.setRing_frame s p r).others.mboxOf rfl j
@[simp] theorem State.setRing_sapOf (s : State) (p : Nat) (r : Ring) (j : Nat) :
    (State.setRing s p r).sapOf j = s.sapOf j := (State.setRing_frame s p r).others.sapOf rfl j
@[simp] theorem State.setRing_engOf (s : State) (p : Nat) (r : Ring) (j : Nat) :
    (State.setRing s p r).engOf j = s.engOf j := (State.setRing_frame s p r).others.engOf rfl j
@[simp] theorem State.setRing_juncOf (s : State) (p : Nat) (r : Ring) (j : Nat) :
    (State.setRing s p r).juncOf j = s.juncOf j := (State.setRing_frame s p r).others.juncOf rfl j
@[simp] theorem State.setRing_muteOf (s : State) (p : Nat) (r : Ring) (j : Nat) :
    (State.setRing s p r).muteOf j = s.muteOf j := (State.setRing_frame s p r).others.muteOf rfl j
@[simp] theorem State.setRing_chOf (s : State) (p : Nat) (r : Ring) (j : Nat) :
    (State.setRing s p r).chOf j = s.chOf j := (State.setRing_frame s p r).others.chOf rfl j
@[simp] theorem State.setRing_trkOf (s : State) (p : Nat) (r : Ring) (j : Nat) :
    (State.setRing s p r).trkOf j = s.trkOf j := (State.setRing_frame s p r).others.trkOf rfl j
@[simp] theorem State.setRing_stxOf (s : State) (p : Nat) (r : Ring) (j : Nat) :
    (State.setRing s p r).stxOf j = s.stxOf j := (State.setRing_frame s p r).others.stxOf rfl j
@[simp] theorem State.setRing_srxOf (s : State) (p : Nat) (r : Ring) (j : Nat) :
    (State.setRing s p r).srxOf j = s.srxOf j := (State.setRing_frame s p r).others.srxOf rfl j
@[simp] theorem State.setRing_grpOf (s : State) (p : Nat) (r : Ring) (j : Nat) :
    (State.setRing s p r).grpOf j = s.grpOf j := (State.setRing_frame s p r).others.grpOf rfl j
@[simp] theorem State.setRing_dpcOf (s : State) (p : Nat) (r : Ring) (j : Nat) :
    (State.setRing s p r).dpcOf j = s.dpcOf j := (State.setRing_frame s p r).others.dpcOf rfl j

/-! modRing -/

theorem State.modRing_frame (s : State) (p : Nat) (f : Ring → Ring) : Follows [.ring] s (State.modRing s p f) :=
  State.modRing_follows s p f (fun _ k => k) (Follows.refl s)

@[simp] theorem State.modRing_member (s : State) (p : Nat) (f : Ring → Ring) :
    (State.modRing s p f).member = s.member := (State.modRing_frame s p f).member
@[simp] theorem State.modRing_storesOk {s : State} (p : Nat) (f : Ring → Ring) (h : StoresOk s) :
    StoresOk (State.modRing s p f) := (State.modRing_frame s p f).stores h
@[simp] theorem State.modRing_rcW (s : State) (p : Nat) (f : Ring → Ring) (j : Nat) :
    (State.modRing s p f).rcW j = s.rcW j := (State.modRing_frame s p f).others.rcW rfl j
@[simp] theorem State.modRing_event (s : State) (p : Nat) (f : Ring → Ring) (j : Nat) :
    (State.modRing s p f).event j = s.event j := (State.modRing_frame s p f).others.event rfl j
@[simp] theorem State.modRing_rwW (s : State) (p : Nat) (f : Ring → Ring) (j : Nat) :
    (State.modRing s p f).rwW j = s.rwW j := (State.modRing_frame s p f).others.rwW rfl j
@[simp] theorem State.modRing_stagedW (s : State) (p : Nat) (f : Ring → Ring) (j : Nat) :
    (State.modRing s p f).stagedW j = s.stagedW j := (State.modRing_frame s p f).others.stagedW rfl j
@[simp] theorem State.modRing_appliedW (s : State) (p : Nat) (f : Ring → Ring) (j : Nat) :
    (State.modRing s p f).appliedW j = s.appliedW j := (State.modRing_frame s p f).others.appliedW rfl j
@[simp] theorem State.modRing_inForceW (s : State) (p : Nat) (f : Ring → Ring) (j : Nat) :
    (State.modRing s p f).inForceW j = s.inForceW j := (State.modRing_frame s p f).others.inForceW rfl j
@[simp] theorem State.modRing_counter (s : State) (p : Nat) (f : Ring → Ring) (j : Nat) :
    (State.modRing s p f).counter j = s.counter j := (State.modRing_frame s p f).others.counter rfl j
@[simp] theorem State.modRing_mboxOf (s : State) (p : Nat) (f : Ring → Ring) (j : Nat) :
    (State.modRing s p f).mboxOf j = s.mboxOf j := (State.modRing_frame s p f).others.mboxOf rfl j
@[simp] theorem State.modRing_sapOf (s : State) (p : Nat) (f : Ring → Ring) (j : Nat) :
    (State.modRing s p f).sapOf j = s.sapOf j := (State.modRing_frame s p f).others.sapOf rfl j
@[simp] theorem State.modRing_engOf (s : State) (p : Nat) (f : Ring → Ring) (j : Nat) :
    (State.modRing s p f).engOf j = s.engOf j := (State.modRing_frame s p f).others.engOf rfl j
@[simp] theorem State.modRing_juncOf (s : State) (p : Nat) (f : Ring → Ring) (j : Nat) :
    (State.modRing s p f).juncOf j = s.juncOf j := (State.modRing_frame s p f).others.juncOf rfl j
@[simp] theorem State.modRing_muteOf (s : State) (p : Nat) (f : Ring → Ring) (j : Nat) :
    (State.modRing s p f).muteOf j = s.muteOf j := (State.modRing_frame s p f).others.muteOf rfl j
@[simp] theorem State.modRing_chOf (s : State) (p : Nat) (f : Ring → Ring) (j : Nat) :
    (State.modRing s p f).chOf j = s.chOf j := (State.modRing_frame s p f).others.chOf rfl j
@[simp] theorem State.modRing_trkOf (s : State) (p : Nat) (f : Ring → Ring) (j : Nat) :
    (State.modRing s p f).trkOf j = s.trkOf j := (State.modRing_frame s p f).others.trkOf rfl j
@[simp] theorem State.modRing_stxOf (s : State) (p : Nat) (f : Ring → Ring) (j : Nat) :
    (State.modRing s p f).stxOf j = s.stxOf j := (State.modRing_frame s p f).others.stxOf rfl j
@[simp] theorem State.modRing_srxOf (s : State) (p : Nat) (f : Ring → Ring) (j : Nat) :
    (State.modRing s p f).srxOf j = s.srxOf j := (State.modRing_frame s p f).others.srxOf rfl j
@[simp] theorem State.modRing_grpOf (s : State) (p : Nat) (f : Ring → Ring) (j : Nat) :
    (State.modRing s p f).grpOf j = s.grpOf j := (State.modRing_frame s p f).others.grpOf rfl j
@[simp] theorem State.modRing_dpcOf (s : State) (p : Nat) (f : Ring → Ring) (j : Nat) :
    (State.modRing s p f).dpcOf j = s.dpcOf j := (State.modRing_frame s p f).others.dpcOf rfl j
@[simp] theorem State.modRing_tt (s : State) (p : Nat) (f : Ring → Ring) :
    (State.modRing s p f).tt = s.tt := (State.modRing_frame s p f).others.ttKept rfl rfl
@[simp] theorem State.modRing_tim (s : State) (p : Nat) (f : Ring → Ring) :
    (State.modRing s p f).tim = s.tim := (State.modRing_frame s p f).others.keeps .tim rfl
@[simp] theorem State.modRing_mcr (s : State) (p : Nat) (f : Ring → Ring) :
    (State.modRing s p f).mcr = s.mcr := (State.modRing_frame s p f).others.keeps .mcr rfl
@[simp] theorem State.modRing_syn (s : State) (p : Nat) (f : Ring → Ring) :
    (State.modRing s p f).syn = s.syn := (State.modRing_frame s p f).others.keeps .syn rfl
@[simp] theorem State.modRing_mix (s : State) (p : Nat) (f : Ring → Ring) :
    (State.modRing s p f).mix = s.mix := (State.modRing_frame s p f).others.keeps .mix rfl
@[simp] theorem State.modRing_macA (s : State) (p : Nat) (f : Ring → Ring) :
    (State.modRing s p f).macA = s.macA := (State.modRing_frame s p f).others.keeps .macA rfl
@[simp] theorem State.modRing_macB (s : State) (p : Nat) (f : Ring → Ring) :
    (State.modRing s p f).macB = s.macB := (State.modRing_frame s p f).others.keeps .macB rfl
@[simp] theorem State.modRing_mdio (s : State) (p : Nat) (f : Ring → Ring) :
    (State.modRing s p f).mdio = s.mdio := (State.modRing_frame s p f).others.keeps .mdio rfl
@[simp] theorem State.modRing_stx (s : State) (p : Nat) (f : Ring → Ring) :
    (State.modRing s p f).stx = s.stx := (State.modRing_frame s p f).others.keeps .stx rfl
@[simp] theorem State.modRing_srx (s : State) (p : Nat) (f : Ring → Ring) :
    (State.modRing s p f).srx = s.srx := (State.modRing_frame s p f).others.keeps .srx rfl
@[simp] theorem State.modRing_dpc (s : State) (p : Nat) (f : Ring → Ring) :
    (State.modRing s p f).dpc = s.dpc := (State.modRing_frame s p f).others.keeps .dpc rfl
@[simp] theorem State.modRing_eng (s : State) (p : Nat) (f : Ring → Ring) :
    (State.modRing s p f).eng = s.eng := (State.modRing_frame s p f).others.keeps .eng rfl
@[simp] theorem State.modRing_mbox (s : State) (p : Nat) (f : Ring → Ring) :
    (State.modRing s p f).mbox = s.mbox := (State.modRing_frame s p f).others.keeps .mbox rfl
@[simp] theorem State.modRing_sap (s : State) (p : Nat) (f : Ring → Ring) :
    (State.modRing s p f).sap = s.sap := (State.modRing_frame s p f).others.keeps .sap rfl
@[simp] theorem State.modRing_asrc (s : State) (p : Nat) (f : Ring → Ring) :
    (State.modRing s p f).asrc = s.asrc := (State.modRing_frame s p f).others.keeps .asrc rfl
@[simp] theorem State.modRing_pwr (s : State) (p : Nat) (f : Ring → Ring) :
    (State.modRing s p f).pwr = s.pwr := (State.modRing_frame s p f).others.keeps .pwr rfl
@[simp] theorem State.modRing_pair (s : State) (p : Nat) (f : Ring → Ring) :
    (State.modRing s p f).pair = s.pair := (State.modRing_frame s p f).others.keeps .pair rfl
@[simp] theorem State.modRing_pmu (s : State) (p : Nat) (f : Ring → Ring) :
    (State.modRing s p f).pmu = s.pmu := (State.modRing_frame s p f).others.keeps .pmu rfl
@[simp] theorem State.modRing_mgt (s : State) (p : Nat) (f : Ring → Ring) :
    (State.modRing s p f).mgt = s.mgt := (State.modRing_frame s p f).others.keeps .mgt rfl
@[simp] theorem State.modRing_pci (s : State) (p : Nat) (f : Ring → Ring) :
    (State.modRing s p f).pci = s.pci := (State.modRing_frame s p f).others.keeps .pci rfl
@[simp] theorem State.modRing_sst (s : State) (p : Nat) (f : Ring → Ring) :
    (State.modRing s p f).sst = s.sst := (State.modRing_frame s p f).others.keeps .sst rfl
@[simp] theorem State.modRing_cmd (s : State) (p : Nat) (f : Ring → Ring) :
    (State.modRing s p f).cmd = s.cmd := (State.modRing_frame s p f).others.keeps .cmd rfl
@[simp] theorem State.modRing_hrx (s : State) (p : Nat) (f : Ring → Ring) :
    (State.modRing s p f).hrx = s.hrx := (State.modRing_frame s p f).others.keeps .hrx rfl
@[simp] theorem State.modRing_msixEn (s : State) (p : Nat) (f : Ring → Ring) :
    (State.modRing s p f).msixEn = s.msixEn := (State.modRing_frame s p f).others.keeps .msixEn rfl
@[simp] theorem State.modRing_intDis (s : State) (p : Nat) (f : Ring → Ring) :
    (State.modRing s p f).intDis = s.intDis := (State.modRing_frame s p f).others.keeps .intDis rfl
@[simp] theorem State.modRing_hstop (s : State) (p : Nat) (f : Ring → Ring) :
    (State.modRing s p f).reg.hstop = s.reg.hstop := (State.modRing_frame s p f).others.keeps .hstop rfl

/-! setSap -/

theorem State.setSap_frame (s : State) (p : Nat) (v : Sap) : Follows [.sap] s (State.setSap s p v) :=
  State.setSap_follows s p v (fun _ k => k) (Follows.refl s)

@[simp] theorem State.setSap_storesOk {s : State} (p : Nat) (v : Sap) (h : StoresOk s) :
    StoresOk (State.setSap s p v) := (State.setSap_frame s p v).stores h
@[simp] theorem State.setSap_rcW (s : State) (p : Nat) (v : Sap) (j : Nat) :
    (State.setSap s p v).rcW j = s.rcW j := (State.setSap_frame s p v).others.rcW rfl j
@[simp] theorem State.setSap_event (s : State) (p : Nat) (v : Sap) (j : Nat) :
    (State.setSap s p v).event j = s.event j := (State.setSap_frame s p v).others.event rfl j
@[simp] theorem State.setSap_rwW (s : State) (p : Nat) (v : Sap) (j : Nat) :
    (State.setSap s p v).rwW j = s.rwW j := (State.setSap_frame s p v).others.rwW rfl j
@[simp] theorem State.setSap_stagedW (s : State) (p : Nat) (v : Sap) (j : Nat) :
    (State.setSap s p v).stagedW j = s.stagedW j := (State.setSap_frame s p v).others.stagedW rfl j
@[simp] theorem State.setSap_appliedW (s : State) (p : Nat) (v : Sap) (j : Nat) :
    (State.setSap s p v).appliedW j = s.appliedW j := (State.setSap_frame s p v).others.appliedW rfl j
@[simp] theorem State.setSap_inForceW (s : State) (p : Nat) (v : Sap) (j : Nat) :
    (State.setSap s p v).inForceW j = s.inForceW j := (State.setSap_frame s p v).others.inForceW rfl j
@[simp] theorem State.setSap_counter (s : State) (p : Nat) (v : Sap) (j : Nat) :
    (State.setSap s p v).counter j = s.counter j := (State.setSap_frame s p v).others.counter rfl j
@[simp] theorem State.setSap_mboxOf (s : State) (p : Nat) (v : Sap) (j : Nat) :
    (State.setSap s p v).mboxOf j = s.mboxOf j := (State.setSap_frame s p v).others.mboxOf rfl j
@[simp] theorem State.setSap_ringOf (s : State) (p : Nat) (v : Sap) (j : Nat) :
    (State.setSap s p v).ringOf j = s.ringOf j := (State.setSap_frame s p v).others.ringOf rfl j
@[simp] theorem State.setSap_engOf (s : State) (p : Nat) (v : Sap) (j : Nat) :
    (State.setSap s p v).engOf j = s.engOf j := (State.setSap_frame s p v).others.engOf rfl j
@[simp] theorem State.setSap_juncOf (s : State) (p : Nat) (v : Sap) (j : Nat) :
    (State.setSap s p v).juncOf j = s.juncOf j := (State.setSap_frame s p v).others.juncOf rfl j
@[simp] theorem State.setSap_muteOf (s : State) (p : Nat) (v : Sap) (j : Nat) :
    (State.setSap s p v).muteOf j = s.muteOf j := (State.setSap_frame s p v).others.muteOf rfl j
@[simp] theorem State.setSap_chOf (s : State) (p : Nat) (v : Sap) (j : Nat) :
    (State.setSap s p v).chOf j = s.chOf j := (State.setSap_frame s p v).others.chOf rfl j
@[simp] theorem State.setSap_trkOf (s : State) (p : Nat) (v : Sap) (j : Nat) :
    (State.setSap s p v).trkOf j = s.trkOf j := (State.setSap_frame s p v).others.trkOf rfl j
@[simp] theorem State.setSap_stxOf (s : State) (p : Nat) (v : Sap) (j : Nat) :
    (State.setSap s p v).stxOf j = s.stxOf j := (State.setSap_frame s p v).others.stxOf rfl j
@[simp] theorem State.setSap_srxOf (s : State) (p : Nat) (v : Sap) (j : Nat) :
    (State.setSap s p v).srxOf j = s.srxOf j := (State.setSap_frame s p v).others.srxOf rfl j
@[simp] theorem State.setSap_grpOf (s : State) (p : Nat) (v : Sap) (j : Nat) :
    (State.setSap s p v).grpOf j = s.grpOf j := (State.setSap_frame s p v).others.grpOf rfl j
@[simp] theorem State.setSap_dpcOf (s : State) (p : Nat) (v : Sap) (j : Nat) :
    (State.setSap s p v).dpcOf j = s.dpcOf j := (State.setSap_frame s p v).others.dpcOf rfl j

/-! modSap -/

theorem State.modSap_frame (s : State) (p : Nat) (f : Sap → Sap) : Follows [.sap] s (State.modSap s p f) :=
  State.modSap_follows s p f (fun _ k => k) (Follows.refl s)

@[simp] theorem State.modSap_member (s : State) (p : Nat) (f : Sap → Sap) :
    (State.modSap s p f).member = s.member := (State.modSap_frame s p f).member
@[simp] theorem State.modSap_storesOk {s : State} (p : Nat) (f : Sap → Sap) (h : StoresOk s) :
    StoresOk (State.modSap s p f) := (State.modSap_frame s p f).stores h
@[simp] theorem State.modSap_rcW (s : State) (p : Nat) (f : Sap → Sap) (j : Nat) :
    (State.modSap s p f).rcW j = s.rcW j := (State.modSap_frame s p f).others.rcW rfl j
@[simp] theorem State.modSap_event (s : State) (p : Nat) (f : Sap → Sap) (j : Nat) :
    (State.modSap s p f).event j = s.event j := (State.modSap_frame s p f).others.event rfl j
@[simp] theorem State.modSap_rwW (s : State) (p : Nat) (f : Sap → Sap) (j : Nat) :
    (State.modSap s p f).rwW j = s.rwW j := (State.modSap_frame s p f).others.rwW rfl j
@[simp] theorem State.modSap_stagedW (s : State) (p : Nat) (f : Sap → Sap) (j : Nat) :
    (State.modSap s p f).stagedW j = s.stagedW j := (State.modSap_frame s p f).others.stagedW rfl j
@[simp] theorem State.modSap_appliedW (s : State) (p : Nat) (f : Sap → Sap) (j : Nat) :
    (State.modSap s p f).appliedW j = s.appliedW j := (State.modSap_frame s p f).others.appliedW rfl j
@[simp] theorem State.modSap_inForceW (s : State) (p : Nat) (f : Sap → Sap) (j : Nat) :
    (State.modSap s p f).inForceW j = s.inForceW j := (State.modSap_frame s p f).others.inForceW rfl j
@[simp] theorem State.modSap_counter (s : State) (p : Nat) (f : Sap → Sap) (j : Nat) :
    (State.modSap s p f).counter j = s.counter j := (State.modSap_frame s p f).others.counter rfl j
@[simp] theorem State.modSap_mboxOf (s : State) (p : Nat) (f : Sap → Sap) (j : Nat) :
    (State.modSap s p f).mboxOf j = s.mboxOf j := (State.modSap_frame s p f).others.mboxOf rfl j
@[simp] theorem State.modSap_ringOf (s : State) (p : Nat) (f : Sap → Sap) (j : Nat) :
    (State.modSap s p f).ringOf j = s.ringOf j := (State.modSap_frame s p f).others.ringOf rfl j
@[simp] theorem State.modSap_engOf (s : State) (p : Nat) (f : Sap → Sap) (j : Nat) :
    (State.modSap s p f).engOf j = s.engOf j := (State.modSap_frame s p f).others.engOf rfl j
@[simp] theorem State.modSap_juncOf (s : State) (p : Nat) (f : Sap → Sap) (j : Nat) :
    (State.modSap s p f).juncOf j = s.juncOf j := (State.modSap_frame s p f).others.juncOf rfl j
@[simp] theorem State.modSap_muteOf (s : State) (p : Nat) (f : Sap → Sap) (j : Nat) :
    (State.modSap s p f).muteOf j = s.muteOf j := (State.modSap_frame s p f).others.muteOf rfl j
@[simp] theorem State.modSap_chOf (s : State) (p : Nat) (f : Sap → Sap) (j : Nat) :
    (State.modSap s p f).chOf j = s.chOf j := (State.modSap_frame s p f).others.chOf rfl j
@[simp] theorem State.modSap_trkOf (s : State) (p : Nat) (f : Sap → Sap) (j : Nat) :
    (State.modSap s p f).trkOf j = s.trkOf j := (State.modSap_frame s p f).others.trkOf rfl j
@[simp] theorem State.modSap_stxOf (s : State) (p : Nat) (f : Sap → Sap) (j : Nat) :
    (State.modSap s p f).stxOf j = s.stxOf j := (State.modSap_frame s p f).others.stxOf rfl j
@[simp] theorem State.modSap_srxOf (s : State) (p : Nat) (f : Sap → Sap) (j : Nat) :
    (State.modSap s p f).srxOf j = s.srxOf j := (State.modSap_frame s p f).others.srxOf rfl j
@[simp] theorem State.modSap_grpOf (s : State) (p : Nat) (f : Sap → Sap) (j : Nat) :
    (State.modSap s p f).grpOf j = s.grpOf j := (State.modSap_frame s p f).others.grpOf rfl j
@[simp] theorem State.modSap_dpcOf (s : State) (p : Nat) (f : Sap → Sap) (j : Nat) :
    (State.modSap s p f).dpcOf j = s.dpcOf j := (State.modSap_frame s p f).others.dpcOf rfl j
@[simp] theorem State.modSap_tt (s : State) (p : Nat) (f : Sap → Sap) :
    (State.modSap s p f).tt = s.tt := (State.modSap_frame s p f).others.ttKept rfl rfl
@[simp] theorem State.modSap_tim (s : State) (p : Nat) (f : Sap → Sap) :
    (State.modSap s p f).tim = s.tim := (State.modSap_frame s p f).others.keeps .tim rfl
@[simp] theorem State.modSap_mcr (s : State) (p : Nat) (f : Sap → Sap) :
    (State.modSap s p f).mcr = s.mcr := (State.modSap_frame s p f).others.keeps .mcr rfl
@[simp] theorem State.modSap_syn (s : State) (p : Nat) (f : Sap → Sap) :
    (State.modSap s p f).syn = s.syn := (State.modSap_frame s p f).others.keeps .syn rfl
@[simp] theorem State.modSap_mix (s : State) (p : Nat) (f : Sap → Sap) :
    (State.modSap s p f).mix = s.mix := (State.modSap_frame s p f).others.keeps .mix rfl
@[simp] theorem State.modSap_macA (s : State) (p : Nat) (f : Sap → Sap) :
    (State.modSap s p f).macA = s.macA := (State.modSap_frame s p f).others.keeps .macA rfl
@[simp] theorem State.modSap_macB (s : State) (p : Nat) (f : Sap → Sap) :
    (State.modSap s p f).macB = s.macB := (State.modSap_frame s p f).others.keeps .macB rfl
@[simp] theorem State.modSap_mdio (s : State) (p : Nat) (f : Sap → Sap) :
    (State.modSap s p f).mdio = s.mdio := (State.modSap_frame s p f).others.keeps .mdio rfl
@[simp] theorem State.modSap_stx (s : State) (p : Nat) (f : Sap → Sap) :
    (State.modSap s p f).stx = s.stx := (State.modSap_frame s p f).others.keeps .stx rfl
@[simp] theorem State.modSap_srx (s : State) (p : Nat) (f : Sap → Sap) :
    (State.modSap s p f).srx = s.srx := (State.modSap_frame s p f).others.keeps .srx rfl
@[simp] theorem State.modSap_dpc (s : State) (p : Nat) (f : Sap → Sap) :
    (State.modSap s p f).dpc = s.dpc := (State.modSap_frame s p f).others.keeps .dpc rfl
@[simp] theorem State.modSap_eng (s : State) (p : Nat) (f : Sap → Sap) :
    (State.modSap s p f).eng = s.eng := (State.modSap_frame s p f).others.keeps .eng rfl
@[simp] theorem State.modSap_mbox (s : State) (p : Nat) (f : Sap → Sap) :
    (State.modSap s p f).mbox = s.mbox := (State.modSap_frame s p f).others.keeps .mbox rfl
@[simp] theorem State.modSap_ring (s : State) (p : Nat) (f : Sap → Sap) :
    (State.modSap s p f).ring = s.ring := (State.modSap_frame s p f).others.keeps .ring rfl
@[simp] theorem State.modSap_asrc (s : State) (p : Nat) (f : Sap → Sap) :
    (State.modSap s p f).asrc = s.asrc := (State.modSap_frame s p f).others.keeps .asrc rfl
@[simp] theorem State.modSap_pwr (s : State) (p : Nat) (f : Sap → Sap) :
    (State.modSap s p f).pwr = s.pwr := (State.modSap_frame s p f).others.keeps .pwr rfl
@[simp] theorem State.modSap_pair (s : State) (p : Nat) (f : Sap → Sap) :
    (State.modSap s p f).pair = s.pair := (State.modSap_frame s p f).others.keeps .pair rfl
@[simp] theorem State.modSap_pmu (s : State) (p : Nat) (f : Sap → Sap) :
    (State.modSap s p f).pmu = s.pmu := (State.modSap_frame s p f).others.keeps .pmu rfl
@[simp] theorem State.modSap_mgt (s : State) (p : Nat) (f : Sap → Sap) :
    (State.modSap s p f).mgt = s.mgt := (State.modSap_frame s p f).others.keeps .mgt rfl
@[simp] theorem State.modSap_pci (s : State) (p : Nat) (f : Sap → Sap) :
    (State.modSap s p f).pci = s.pci := (State.modSap_frame s p f).others.keeps .pci rfl
@[simp] theorem State.modSap_sst (s : State) (p : Nat) (f : Sap → Sap) :
    (State.modSap s p f).sst = s.sst := (State.modSap_frame s p f).others.keeps .sst rfl
@[simp] theorem State.modSap_cmd (s : State) (p : Nat) (f : Sap → Sap) :
    (State.modSap s p f).cmd = s.cmd := (State.modSap_frame s p f).others.keeps .cmd rfl
@[simp] theorem State.modSap_hrx (s : State) (p : Nat) (f : Sap → Sap) :
    (State.modSap s p f).hrx = s.hrx := (State.modSap_frame s p f).others.keeps .hrx rfl
@[simp] theorem State.modSap_msixEn (s : State) (p : Nat) (f : Sap → Sap) :
    (State.modSap s p f).msixEn = s.msixEn := (State.modSap_frame s p f).others.keeps .msixEn rfl
@[simp] theorem State.modSap_intDis (s : State) (p : Nat) (f : Sap → Sap) :
    (State.modSap s p f).intDis = s.intDis := (State.modSap_frame s p f).others.keeps .intDis rfl
@[simp] theorem State.modSap_hstop (s : State) (p : Nat) (f : Sap → Sap) :
    (State.modSap s p f).reg.hstop = s.reg.hstop := (State.modSap_frame s p f).others.keeps .hstop rfl

/-! setCh -/

theorem State.setCh_frame (s : State) (n : Nat) (v : AsrcCh) : Follows [.asrc] s (State.setCh s n v) :=
  State.setCh_follows s n v (fun _ k => k) (Follows.refl s)

@[simp] theorem State.setCh_storesOk {s : State} (n : Nat) (v : AsrcCh) (h : StoresOk s) :
    StoresOk (State.setCh s n v) := (State.setCh_frame s n v).stores h
@[simp] theorem State.setCh_rcW (s : State) (n : Nat) (v : AsrcCh) (j : Nat) :
    (State.setCh s n v).rcW j = s.rcW j := (State.setCh_frame s n v).others.rcW rfl j
@[simp] theorem State.setCh_event (s : State) (n : Nat) (v : AsrcCh) (j : Nat) :
    (State.setCh s n v).event j = s.event j := (State.setCh_frame s n v).others.event rfl j
@[simp] theorem State.setCh_rwW (s : State) (n : Nat) (v : AsrcCh) (j : Nat) :
    (State.setCh s n v).rwW j = s.rwW j := (State.setCh_frame s n v).others.rwW rfl j
@[simp] theorem State.setCh_stagedW (s : State) (n : Nat) (v : AsrcCh) (j : Nat) :
    (State.setCh s n v).stagedW j = s.stagedW j := (State.setCh_frame s n v).others.stagedW rfl j
@[simp] theorem State.setCh_appliedW (s : State) (n : Nat) (v : AsrcCh) (j : Nat) :
    (State.setCh s n v).appliedW j = s.appliedW j := (State.setCh_frame s n v).others.appliedW rfl j
@[simp] theorem State.setCh_inForceW (s : State) (n : Nat) (v : AsrcCh) (j : Nat) :
    (State.setCh s n v).inForceW j = s.inForceW j := (State.setCh_frame s n v).others.inForceW rfl j
@[simp] theorem State.setCh_counter (s : State) (n : Nat) (v : AsrcCh) (j : Nat) :
    (State.setCh s n v).counter j = s.counter j := (State.setCh_frame s n v).others.counter rfl j
@[simp] theorem State.setCh_mboxOf (s : State) (n : Nat) (v : AsrcCh) (j : Nat) :
    (State.setCh s n v).mboxOf j = s.mboxOf j := (State.setCh_frame s n v).others.mboxOf rfl j
@[simp] theorem State.setCh_ringOf (s : State) (n : Nat) (v : AsrcCh) (j : Nat) :
    (State.setCh s n v).ringOf j = s.ringOf j := (State.setCh_frame s n v).others.ringOf rfl j
@[simp] theorem State.setCh_sapOf (s : State) (n : Nat) (v : AsrcCh) (j : Nat) :
    (State.setCh s n v).sapOf j = s.sapOf j := (State.setCh_frame s n v).others.sapOf rfl j
@[simp] theorem State.setCh_engOf (s : State) (n : Nat) (v : AsrcCh) (j : Nat) :
    (State.setCh s n v).engOf j = s.engOf j := (State.setCh_frame s n v).others.engOf rfl j
@[simp] theorem State.setCh_juncOf (s : State) (n : Nat) (v : AsrcCh) (j : Nat) :
    (State.setCh s n v).juncOf j = s.juncOf j := (State.setCh_frame s n v).others.juncOf rfl j
@[simp] theorem State.setCh_muteOf (s : State) (n : Nat) (v : AsrcCh) (j : Nat) :
    (State.setCh s n v).muteOf j = s.muteOf j := (State.setCh_frame s n v).others.muteOf rfl j
@[simp] theorem State.setCh_stxOf (s : State) (n : Nat) (v : AsrcCh) (j : Nat) :
    (State.setCh s n v).stxOf j = s.stxOf j := (State.setCh_frame s n v).others.stxOf rfl j
@[simp] theorem State.setCh_srxOf (s : State) (n : Nat) (v : AsrcCh) (j : Nat) :
    (State.setCh s n v).srxOf j = s.srxOf j := (State.setCh_frame s n v).others.srxOf rfl j
@[simp] theorem State.setCh_grpOf (s : State) (n : Nat) (v : AsrcCh) (j : Nat) :
    (State.setCh s n v).grpOf j = s.grpOf j := (State.setCh_frame s n v).others.grpOf rfl j
@[simp] theorem State.setCh_dpcOf (s : State) (n : Nat) (v : AsrcCh) (j : Nat) :
    (State.setCh s n v).dpcOf j = s.dpcOf j := (State.setCh_frame s n v).others.dpcOf rfl j

/-! setTrk -/

theorem State.setTrk_frame (s : State) (p : Nat) (v : Tracker) : Follows [.asrc] s (State.setTrk s p v) :=
  State.setTrk_follows s p v (fun _ k => k) (Follows.refl s)

@[simp] theorem State.setTrk_storesOk {s : State} (p : Nat) (v : Tracker) (h : StoresOk s) :
    StoresOk (State.setTrk s p v) := (State.setTrk_frame s p v).stores h
@[simp] theorem State.setTrk_rcW (s : State) (p : Nat) (v : Tracker) (j : Nat) :
    (State.setTrk s p v).rcW j = s.rcW j := (State.setTrk_frame s p v).others.rcW rfl j
@[simp] theorem State.setTrk_event (s : State) (p : Nat) (v : Tracker) (j : Nat) :
    (State.setTrk s p v).event j = s.event j := (State.setTrk_frame s p v).others.event rfl j
@[simp] theorem State.setTrk_rwW (s : State) (p : Nat) (v : Tracker) (j : Nat) :
    (State.setTrk s p v).rwW j = s.rwW j := (State.setTrk_frame s p v).others.rwW rfl j
@[simp] theorem State.setTrk_stagedW (s : State) (p : Nat) (v : Tracker) (j : Nat) :
    (State.setTrk s p v).stagedW j = s.stagedW j := (State.setTrk_frame s p v).others.stagedW rfl j
@[simp] theorem State.setTrk_appliedW (s : State) (p : Nat) (v : Tracker) (j : Nat) :
    (State.setTrk s p v).appliedW j = s.appliedW j := (State.setTrk_frame s p v).others.appliedW rfl j
@[simp] theorem State.setTrk_inForceW (s : State) (p : Nat) (v : Tracker) (j : Nat) :
    (State.setTrk s p v).inForceW j = s.inForceW j := (State.setTrk_frame s p v).others.inForceW rfl j
@[simp] theorem State.setTrk_counter (s : State) (p : Nat) (v : Tracker) (j : Nat) :
    (State.setTrk s p v).counter j = s.counter j := (State.setTrk_frame s p v).others.counter rfl j
@[simp] theorem State.setTrk_mboxOf (s : State) (p : Nat) (v : Tracker) (j : Nat) :
    (State.setTrk s p v).mboxOf j = s.mboxOf j := (State.setTrk_frame s p v).others.mboxOf rfl j
@[simp] theorem State.setTrk_ringOf (s : State) (p : Nat) (v : Tracker) (j : Nat) :
    (State.setTrk s p v).ringOf j = s.ringOf j := (State.setTrk_frame s p v).others.ringOf rfl j
@[simp] theorem State.setTrk_sapOf (s : State) (p : Nat) (v : Tracker) (j : Nat) :
    (State.setTrk s p v).sapOf j = s.sapOf j := (State.setTrk_frame s p v).others.sapOf rfl j
@[simp] theorem State.setTrk_engOf (s : State) (p : Nat) (v : Tracker) (j : Nat) :
    (State.setTrk s p v).engOf j = s.engOf j := (State.setTrk_frame s p v).others.engOf rfl j
@[simp] theorem State.setTrk_juncOf (s : State) (p : Nat) (v : Tracker) (j : Nat) :
    (State.setTrk s p v).juncOf j = s.juncOf j := (State.setTrk_frame s p v).others.juncOf rfl j
@[simp] theorem State.setTrk_muteOf (s : State) (p : Nat) (v : Tracker) (j : Nat) :
    (State.setTrk s p v).muteOf j = s.muteOf j := (State.setTrk_frame s p v).others.muteOf rfl j
@[simp] theorem State.setTrk_stxOf (s : State) (p : Nat) (v : Tracker) (j : Nat) :
    (State.setTrk s p v).stxOf j = s.stxOf j := (State.setTrk_frame s p v).others.stxOf rfl j
@[simp] theorem State.setTrk_srxOf (s : State) (p : Nat) (v : Tracker) (j : Nat) :
    (State.setTrk s p v).srxOf j = s.srxOf j := (State.setTrk_frame s p v).others.srxOf rfl j
@[simp] theorem State.setTrk_grpOf (s : State) (p : Nat) (v : Tracker) (j : Nat) :
    (State.setTrk s p v).grpOf j = s.grpOf j := (State.setTrk_frame s p v).others.grpOf rfl j
@[simp] theorem State.setTrk_dpcOf (s : State) (p : Nat) (v : Tracker) (j : Nat) :
    (State.setTrk s p v).dpcOf j = s.dpcOf j := (State.setTrk_frame s p v).others.dpcOf rfl j

/-! asrcPort -/

theorem State.asrcPort_frame (s : State) (p : Nat) : Follows [.asrc] s (State.asrcPort s p) :=
  State.asrcPort_follows s p (fun _ k => k) (Follows.refl s)

@[simp] theorem State.asrcPort_member (s : State) (p : Nat) :
    (State.asrcPort s p).member = s.member := (State.asrcPort_frame s p).member
@[simp] theorem State.asrcPort_storesOk {s : State} (p : Nat) (h : StoresOk s) :
    StoresOk (State.asrcPort s p) := (State.asrcPort_frame s p).stores h
@[simp] theorem State.asrcPort_rcW (s : State) (p : Nat) (j : Nat) :
    (State.asrcPort s p).rcW j = s.rcW j := (State.asrcPort_frame s p).others.rcW rfl j
@[simp] theorem State.asrcPort_event (s : State) (p : Nat) (j : Nat) :
    (State.asrcPort s p).event j = s.event j := (State.asrcPort_frame s p).others.event rfl j
@[simp] theorem State.asrcPort_rwW (s : State) (p : Nat) (j : Nat) :
    (State.asrcPort s p).rwW j = s.rwW j := (State.asrcPort_frame s p).others.rwW rfl j
@[simp] theorem State.asrcPort_stagedW (s : State) (p : Nat) (j : Nat) :
    (State.asrcPort s p).stagedW j = s.stagedW j := (State.asrcPort_frame s p).others.stagedW rfl j
@[simp] theorem State.asrcPort_appliedW (s : State) (p : Nat) (j : Nat) :
    (State.asrcPort s p).appliedW j = s.appliedW j := (State.asrcPort_frame s p).others.appliedW rfl j
@[simp] theorem State.asrcPort_inForceW (s : State) (p : Nat) (j : Nat) :
    (State.asrcPort s p).inForceW j = s.inForceW j := (State.asrcPort_frame s p).others.inForceW rfl j
@[simp] theorem State.asrcPort_counter (s : State) (p : Nat) (j : Nat) :
    (State.asrcPort s p).counter j = s.counter j := (State.asrcPort_frame s p).others.counter rfl j
@[simp] theorem State.asrcPort_mboxOf (s : State) (p : Nat) (j : Nat) :
    (State.asrcPort s p).mboxOf j = s.mboxOf j := (State.asrcPort_frame s p).others.mboxOf rfl j
@[simp] theorem State.asrcPort_ringOf (s : State) (p : Nat) (j : Nat) :
    (State.asrcPort s p).ringOf j = s.ringOf j := (State.asrcPort_frame s p).others.ringOf rfl j
@[simp] theorem State.asrcPort_sapOf (s : State) (p : Nat) (j : Nat) :
    (State.asrcPort s p).sapOf j = s.sapOf j := (State.asrcPort_frame s p).others.sapOf rfl j
@[simp] theorem State.asrcPort_engOf (s : State) (p : Nat) (j : Nat) :
    (State.asrcPort s p).engOf j = s.engOf j := (State.asrcPort_frame s p).others.engOf rfl j
@[simp] theorem State.asrcPort_juncOf (s : State) (p : Nat) (j : Nat) :
    (State.asrcPort s p).juncOf j = s.juncOf j := (State.asrcPort_frame s p).others.juncOf rfl j
@[simp] theorem State.asrcPort_muteOf (s : State) (p : Nat) (j : Nat) :
    (State.asrcPort s p).muteOf j = s.muteOf j := (State.asrcPort_frame s p).others.muteOf rfl j
@[simp] theorem State.asrcPort_stxOf (s : State) (p : Nat) (j : Nat) :
    (State.asrcPort s p).stxOf j = s.stxOf j := (State.asrcPort_frame s p).others.stxOf rfl j
@[simp] theorem State.asrcPort_srxOf (s : State) (p : Nat) (j : Nat) :
    (State.asrcPort s p).srxOf j = s.srxOf j := (State.asrcPort_frame s p).others.srxOf rfl j
@[simp] theorem State.asrcPort_grpOf (s : State) (p : Nat) (j : Nat) :
    (State.asrcPort s p).grpOf j = s.grpOf j := (State.asrcPort_frame s p).others.grpOf rfl j
@[simp] theorem State.asrcPort_dpcOf (s : State) (p : Nat) (j : Nat) :
    (State.asrcPort s p).dpcOf j = s.dpcOf j := (State.asrcPort_frame s p).others.dpcOf rfl j
@[simp] theorem State.asrcPort_tt (s : State) (p : Nat) :
    (State.asrcPort s p).tt = s.tt := (State.asrcPort_frame s p).others.ttKept rfl rfl
@[simp] theorem State.asrcPort_tim (s : State) (p : Nat) :
    (State.asrcPort s p).tim = s.tim := (State.asrcPort_frame s p).others.keeps .tim rfl
@[simp] theorem State.asrcPort_mcr (s : State) (p : Nat) :
    (State.asrcPort s p).mcr = s.mcr := (State.asrcPort_frame s p).others.keeps .mcr rfl
@[simp] theorem State.asrcPort_syn (s : State) (p : Nat) :
    (State.asrcPort s p).syn = s.syn := (State.asrcPort_frame s p).others.keeps .syn rfl
@[simp] theorem State.asrcPort_mix (s : State) (p : Nat) :
    (State.asrcPort s p).mix = s.mix := (State.asrcPort_frame s p).others.keeps .mix rfl
@[simp] theorem State.asrcPort_macA (s : State) (p : Nat) :
    (State.asrcPort s p).macA = s.macA := (State.asrcPort_frame s p).others.keeps .macA rfl
@[simp] theorem State.asrcPort_macB (s : State) (p : Nat) :
    (State.asrcPort s p).macB = s.macB := (State.asrcPort_frame s p).others.keeps .macB rfl
@[simp] theorem State.asrcPort_mdio (s : State) (p : Nat) :
    (State.asrcPort s p).mdio = s.mdio := (State.asrcPort_frame s p).others.keeps .mdio rfl
@[simp] theorem State.asrcPort_stx (s : State) (p : Nat) :
    (State.asrcPort s p).stx = s.stx := (State.asrcPort_frame s p).others.keeps .stx rfl
@[simp] theorem State.asrcPort_srx (s : State) (p : Nat) :
    (State.asrcPort s p).srx = s.srx := (State.asrcPort_frame s p).others.keeps .srx rfl
@[simp] theorem State.asrcPort_dpc (s : State) (p : Nat) :
    (State.asrcPort s p).dpc = s.dpc := (State.asrcPort_frame s p).others.keeps .dpc rfl
@[simp] theorem State.asrcPort_eng (s : State) (p : Nat) :
    (State.asrcPort s p).eng = s.eng := (State.asrcPort_frame s p).others.keeps .eng rfl
@[simp] theorem State.asrcPort_mbox (s : State) (p : Nat) :
    (State.asrcPort s p).mbox = s.mbox := (State.asrcPort_frame s p).others.keeps .mbox rfl
@[simp] theorem State.asrcPort_ring (s : State) (p : Nat) :
    (State.asrcPort s p).ring = s.ring := (State.asrcPort_frame s p).others.keeps .ring rfl
@[simp] theorem State.asrcPort_sap (s : State) (p : Nat) :
    (State.asrcPort s p).sap = s.sap := (State.asrcPort_frame s p).others.keeps .sap rfl
@[simp] theorem State.asrcPort_pwr (s : State) (p : Nat) :
    (State.asrcPort s p).pwr = s.pwr := (State.asrcPort_frame s p).others.keeps .pwr rfl
@[simp] theorem State.asrcPort_pair (s : State) (p : Nat) :
    (State.asrcPort s p).pair = s.pair := (State.asrcPort_frame s p).others.keeps .pair rfl
@[simp] theorem State.asrcPort_pmu (s : State) (p : Nat) :
    (State.asrcPort s p).pmu = s.pmu := (State.asrcPort_frame s p).others.keeps .pmu rfl
@[simp] theorem State.asrcPort_mgt (s : State) (p : Nat) :
    (State.asrcPort s p).mgt = s.mgt := (State.asrcPort_frame s p).others.keeps .mgt rfl
@[simp] theorem State.asrcPort_pci (s : State) (p : Nat) :
    (State.asrcPort s p).pci = s.pci := (State.asrcPort_frame s p).others.keeps .pci rfl
@[simp] theorem State.asrcPort_sst (s : State) (p : Nat) :
    (State.asrcPort s p).sst = s.sst := (State.asrcPort_frame s p).others.keeps .sst rfl
@[simp] theorem State.asrcPort_cmd (s : State) (p : Nat) :
    (State.asrcPort s p).cmd = s.cmd := (State.asrcPort_frame s p).others.keeps .cmd rfl
@[simp] theorem State.asrcPort_hrx (s : State) (p : Nat) :
    (State.asrcPort s p).hrx = s.hrx := (State.asrcPort_frame s p).others.keeps .hrx rfl
@[simp] theorem State.asrcPort_msixEn (s : State) (p : Nat) :
    (State.asrcPort s p).msixEn = s.msixEn := (State.asrcPort_frame s p).others.keeps .msixEn rfl
@[simp] theorem State.asrcPort_intDis (s : State) (p : Nat) :
    (State.asrcPort s p).intDis = s.intDis := (State.asrcPort_frame s p).others.keeps .intDis rfl
@[simp] theorem State.asrcPort_hstop (s : State) (p : Nat) :
    (State.asrcPort s p).reg.hstop = s.reg.hstop := (State.asrcPort_frame s p).others.keeps .hstop rfl

/-! asrcAll -/

theorem State.asrcAll_frame (s : State) : Follows [.asrc] s (State.asrcAll s) :=
  State.asrcAll_follows s (fun _ k => k) (Follows.refl s)

@[simp] theorem State.asrcAll_member (s : State) :
    (State.asrcAll s).member = s.member := (State.asrcAll_frame s).member
@[simp] theorem State.asrcAll_storesOk {s : State} (h : StoresOk s) :
    StoresOk (State.asrcAll s) := (State.asrcAll_frame s).stores h
@[simp] theorem State.asrcAll_rcW (s : State) (j : Nat) :
    (State.asrcAll s).rcW j = s.rcW j := (State.asrcAll_frame s).others.rcW rfl j
@[simp] theorem State.asrcAll_event (s : State) (j : Nat) :
    (State.asrcAll s).event j = s.event j := (State.asrcAll_frame s).others.event rfl j
@[simp] theorem State.asrcAll_rwW (s : State) (j : Nat) :
    (State.asrcAll s).rwW j = s.rwW j := (State.asrcAll_frame s).others.rwW rfl j
@[simp] theorem State.asrcAll_stagedW (s : State) (j : Nat) :
    (State.asrcAll s).stagedW j = s.stagedW j := (State.asrcAll_frame s).others.stagedW rfl j
@[simp] theorem State.asrcAll_appliedW (s : State) (j : Nat) :
    (State.asrcAll s).appliedW j = s.appliedW j := (State.asrcAll_frame s).others.appliedW rfl j
@[simp] theorem State.asrcAll_inForceW (s : State) (j : Nat) :
    (State.asrcAll s).inForceW j = s.inForceW j := (State.asrcAll_frame s).others.inForceW rfl j
@[simp] theorem State.asrcAll_counter (s : State) (j : Nat) :
    (State.asrcAll s).counter j = s.counter j := (State.asrcAll_frame s).others.counter rfl j
@[simp] theorem State.asrcAll_mboxOf (s : State) (j : Nat) :
    (State.asrcAll s).mboxOf j = s.mboxOf j := (State.asrcAll_frame s).others.mboxOf rfl j
@[simp] theorem State.asrcAll_ringOf (s : State) (j : Nat) :
    (State.asrcAll s).ringOf j = s.ringOf j := (State.asrcAll_frame s).others.ringOf rfl j
@[simp] theorem State.asrcAll_sapOf (s : State) (j : Nat) :
    (State.asrcAll s).sapOf j = s.sapOf j := (State.asrcAll_frame s).others.sapOf rfl j
@[simp] theorem State.asrcAll_engOf (s : State) (j : Nat) :
    (State.asrcAll s).engOf j = s.engOf j := (State.asrcAll_frame s).others.engOf rfl j
@[simp] theorem State.asrcAll_juncOf (s : State) (j : Nat) :
    (State.asrcAll s).juncOf j = s.juncOf j := (State.asrcAll_frame s).others.juncOf rfl j
@[simp] theorem State.asrcAll_muteOf (s : State) (j : Nat) :
    (State.asrcAll s).muteOf j = s.muteOf j := (State.asrcAll_frame s).others.muteOf rfl j
@[simp] theorem State.asrcAll_stxOf (s : State) (j : Nat) :
    (State.asrcAll s).stxOf j = s.stxOf j := (State.asrcAll_frame s).others.stxOf rfl j
@[simp] theorem State.asrcAll_srxOf (s : State) (j : Nat) :
    (State.asrcAll s).srxOf j = s.srxOf j := (State.asrcAll_frame s).others.srxOf rfl j
@[simp] theorem State.asrcAll_grpOf (s : State) (j : Nat) :
    (State.asrcAll s).grpOf j = s.grpOf j := (State.asrcAll_frame s).others.grpOf rfl j
@[simp] theorem State.asrcAll_dpcOf (s : State) (j : Nat) :
    (State.asrcAll s).dpcOf j = s.dpcOf j := (State.asrcAll_frame s).others.dpcOf rfl j
@[simp] theorem State.asrcAll_tt (s : State) :
    (State.asrcAll s).tt = s.tt := (State.asrcAll_frame s).others.ttKept rfl rfl
@[simp] theorem State.asrcAll_tim (s : State) :
    (State.asrcAll s).tim = s.tim := (State.asrcAll_frame s).others.keeps .tim rfl
@[simp] theorem State.asrcAll_mcr (s : State) :
    (State.asrcAll s).mcr = s.mcr := (State.asrcAll_frame s).others.keeps .mcr rfl
@[simp] theorem State.asrcAll_syn (s : State) :
    (State.asrcAll s).syn = s.syn := (State.asrcAll_frame s).others.keeps .syn rfl
@[simp] theorem State.asrcAll_mix (s : State) :
    (State.asrcAll s).mix = s.mix := (State.asrcAll_frame s).others.keeps .mix rfl
@[simp] theorem State.asrcAll_macA (s : State) :
    (State.asrcAll s).macA = s.macA := (State.asrcAll_frame s).others.keeps .macA rfl
@[simp] theorem State.asrcAll_macB (s : State) :
    (State.asrcAll s).macB = s.macB := (State.asrcAll_frame s).others.keeps .macB rfl
@[simp] theorem State.asrcAll_mdio (s : State) :
    (State.asrcAll s).mdio = s.mdio := (State.asrcAll_frame s).others.keeps .mdio rfl
@[simp] theorem State.asrcAll_stx (s : State) :
    (State.asrcAll s).stx = s.stx := (State.asrcAll_frame s).others.keeps .stx rfl
@[simp] theorem State.asrcAll_srx (s : State) :
    (State.asrcAll s).srx = s.srx := (State.asrcAll_frame s).others.keeps .srx rfl
@[simp] theorem State.asrcAll_dpc (s : State) :
    (State.asrcAll s).dpc = s.dpc := (State.asrcAll_frame s).others.keeps .dpc rfl
@[simp] theorem State.asrcAll_eng (s : State) :
    (State.asrcAll s).eng = s.eng := (State.asrcAll_frame s).others.keeps .eng rfl
@[simp] theorem State.asrcAll_mbox (s : State) :
    (State.asrcAll s).mbox = s.mbox := (State.asrcAll_frame s).others.keeps .mbox rfl
@[simp] theorem State.asrcAll_ring (s : State) :
    (State.asrcAll s).ring = s.ring := (State.asrcAll_frame s).others.keeps .ring rfl
@[simp] theorem State.asrcAll_sap (s : State) :
    (State.asrcAll s).sap = s.sap := (State.asrcAll_frame s).others.keeps .sap rfl
@[simp] theorem State.asrcAll_pwr (s : State) :
    (State.asrcAll s).pwr = s.pwr := (State.asrcAll_frame s).others.keeps .pwr rfl
@[simp] theorem State.asrcAll_pair (s : State) :
    (State.asrcAll s).pair = s.pair := (State.asrcAll_frame s).others.keeps .pair rfl
@[simp] theorem State.asrcAll_pmu (s : State) :
    (State.asrcAll s).pmu = s.pmu := (State.asrcAll_frame s).others.keeps .pmu rfl
@[simp] theorem State.asrcAll_mgt (s : State) :
    (State.asrcAll s).mgt = s.mgt := (State.asrcAll_frame s).others.keeps .mgt rfl
@[simp] theorem State.asrcAll_pci (s : State) :
    (State.asrcAll s).pci = s.pci := (State.asrcAll_frame s).others.keeps .pci rfl
@[simp] theorem State.asrcAll_sst (s : State) :
    (State.asrcAll s).sst = s.sst := (State.asrcAll_frame s).others.keeps .sst rfl
@[simp] theorem State.asrcAll_cmd (s : State) :
    (State.asrcAll s).cmd = s.cmd := (State.asrcAll_frame s).others.keeps .cmd rfl
@[simp] theorem State.asrcAll_hrx (s : State) :
    (State.asrcAll s).hrx = s.hrx := (State.asrcAll_frame s).others.keeps .hrx rfl
@[simp] theorem State.asrcAll_msixEn (s : State) :
    (State.asrcAll s).msixEn = s.msixEn := (State.asrcAll_frame s).others.keeps .msixEn rfl
@[simp] theorem State.asrcAll_intDis (s : State) :
    (State.asrcAll s).intDis = s.intDis := (State.asrcAll_frame s).others.keeps .intDis rfl
@[simp] theorem State.asrcAll_hstop (s : State) :
    (State.asrcAll s).reg.hstop = s.reg.hstop := (State.asrcAll_frame s).others.keeps .hstop rfl

/-! modPair -/

theorem State.modPair_frame (s : State) (f : Pair → Pair) : Follows [.pair] s (State.modPair s f) :=
  State.modPair_follows s f (fun _ k => k) (Follows.refl s)

@[simp] theorem State.modPair_storesOk {s : State} (f : Pair → Pair) (h : StoresOk s) :
    StoresOk (State.modPair s f) := (State.modPair_frame s f).stores h
@[simp] theorem State.modPair_rcW (s : State) (f : Pair → Pair) (j : Nat) :
    (State.modPair s f).rcW j = s.rcW j := (State.modPair_frame s f).others.rcW rfl j
@[simp] theorem State.modPair_event (s : State) (f : Pair → Pair) (j : Nat) :
    (State.modPair s f).event j = s.event j := (State.modPair_frame s f).others.event rfl j
@[simp] theorem State.modPair_rwW (s : State) (f : Pair → Pair) (j : Nat) :
    (State.modPair s f).rwW j = s.rwW j := (State.modPair_frame s f).others.rwW rfl j
@[simp] theorem State.modPair_stagedW (s : State) (f : Pair → Pair) (j : Nat) :
    (State.modPair s f).stagedW j = s.stagedW j := (State.modPair_frame s f).others.stagedW rfl j
@[simp] theorem State.modPair_appliedW (s : State) (f : Pair → Pair) (j : Nat) :
    (State.modPair s f).appliedW j = s.appliedW j := (State.modPair_frame s f).others.appliedW rfl j
@[simp] theorem State.modPair_inForceW (s : State) (f : Pair → Pair) (j : Nat) :
    (State.modPair s f).inForceW j = s.inForceW j := (State.modPair_frame s f).others.inForceW rfl j
@[simp] theorem State.modPair_counter (s : State) (f : Pair → Pair) (j : Nat) :
    (State.modPair s f).counter j = s.counter j := (State.modPair_frame s f).others.counter rfl j
@[simp] theorem State.modPair_mboxOf (s : State) (f : Pair → Pair) (j : Nat) :
    (State.modPair s f).mboxOf j = s.mboxOf j := (State.modPair_frame s f).others.mboxOf rfl j
@[simp] theorem State.modPair_ringOf (s : State) (f : Pair → Pair) (j : Nat) :
    (State.modPair s f).ringOf j = s.ringOf j := (State.modPair_frame s f).others.ringOf rfl j
@[simp] theorem State.modPair_sapOf (s : State) (f : Pair → Pair) (j : Nat) :
    (State.modPair s f).sapOf j = s.sapOf j := (State.modPair_frame s f).others.sapOf rfl j
@[simp] theorem State.modPair_engOf (s : State) (f : Pair → Pair) (j : Nat) :
    (State.modPair s f).engOf j = s.engOf j := (State.modPair_frame s f).others.engOf rfl j
@[simp] theorem State.modPair_juncOf (s : State) (f : Pair → Pair) (j : Nat) :
    (State.modPair s f).juncOf j = s.juncOf j := (State.modPair_frame s f).others.juncOf rfl j
@[simp] theorem State.modPair_muteOf (s : State) (f : Pair → Pair) (j : Nat) :
    (State.modPair s f).muteOf j = s.muteOf j := (State.modPair_frame s f).others.muteOf rfl j
@[simp] theorem State.modPair_chOf (s : State) (f : Pair → Pair) (j : Nat) :
    (State.modPair s f).chOf j = s.chOf j := (State.modPair_frame s f).others.chOf rfl j
@[simp] theorem State.modPair_trkOf (s : State) (f : Pair → Pair) (j : Nat) :
    (State.modPair s f).trkOf j = s.trkOf j := (State.modPair_frame s f).others.trkOf rfl j
@[simp] theorem State.modPair_stxOf (s : State) (f : Pair → Pair) (j : Nat) :
    (State.modPair s f).stxOf j = s.stxOf j := (State.modPair_frame s f).others.stxOf rfl j
@[simp] theorem State.modPair_srxOf (s : State) (f : Pair → Pair) (j : Nat) :
    (State.modPair s f).srxOf j = s.srxOf j := (State.modPair_frame s f).others.srxOf rfl j
@[simp] theorem State.modPair_grpOf (s : State) (f : Pair → Pair) (j : Nat) :
    (State.modPair s f).grpOf j = s.grpOf j := (State.modPair_frame s f).others.grpOf rfl j
@[simp] theorem State.modPair_dpcOf (s : State) (f : Pair → Pair) (j : Nat) :
    (State.modPair s f).dpcOf j = s.dpcOf j := (State.modPair_frame s f).others.dpcOf rfl j

/-! answer -/

theorem State.answer_frame (s : State) (lo hi : Word) : Follows [.reply] s (State.answer s lo hi) :=
  State.answer_follows s lo hi (fun _ k => k) (Follows.refl s)

@[simp] theorem State.answer_storesOk {s : State} (lo hi : Word) (h : StoresOk s) :
    StoresOk (State.answer s lo hi) := (State.answer_frame s lo hi).stores h
@[simp] theorem State.answer_rcW (s : State) (lo hi : Word) (j : Nat) :
    (State.answer s lo hi).rcW j = s.rcW j := (State.answer_frame s lo hi).others.rcW rfl j
@[simp] theorem State.answer_event (s : State) (lo hi : Word) (j : Nat) :
    (State.answer s lo hi).event j = s.event j := (State.answer_frame s lo hi).others.event rfl j
@[simp] theorem State.answer_rwW (s : State) (lo hi : Word) (j : Nat) :
    (State.answer s lo hi).rwW j = s.rwW j := (State.answer_frame s lo hi).others.rwW rfl j
@[simp] theorem State.answer_stagedW (s : State) (lo hi : Word) (j : Nat) :
    (State.answer s lo hi).stagedW j = s.stagedW j := (State.answer_frame s lo hi).others.stagedW rfl j
@[simp] theorem State.answer_appliedW (s : State) (lo hi : Word) (j : Nat) :
    (State.answer s lo hi).appliedW j = s.appliedW j := (State.answer_frame s lo hi).others.appliedW rfl j
@[simp] theorem State.answer_inForceW (s : State) (lo hi : Word) (j : Nat) :
    (State.answer s lo hi).inForceW j = s.inForceW j := (State.answer_frame s lo hi).others.inForceW rfl j
@[simp] theorem State.answer_counter (s : State) (lo hi : Word) (j : Nat) :
    (State.answer s lo hi).counter j = s.counter j := (State.answer_frame s lo hi).others.counter rfl j
@[simp] theorem State.answer_mboxOf (s : State) (lo hi : Word) (j : Nat) :
    (State.answer s lo hi).mboxOf j = s.mboxOf j := (State.answer_frame s lo hi).others.mboxOf rfl j
@[simp] theorem State.answer_ringOf (s : State) (lo hi : Word) (j : Nat) :
    (State.answer s lo hi).ringOf j = s.ringOf j := (State.answer_frame s lo hi).others.ringOf rfl j
@[simp] theorem State.answer_sapOf (s : State) (lo hi : Word) (j : Nat) :
    (State.answer s lo hi).sapOf j = s.sapOf j := (State.answer_frame s lo hi).others.sapOf rfl j
@[simp] theorem State.answer_engOf (s : State) (lo hi : Word) (j : Nat) :
    (State.answer s lo hi).engOf j = s.engOf j := (State.answer_frame s lo hi).others.engOf rfl j
@[simp] theorem State.answer_juncOf (s : State) (lo hi : Word) (j : Nat) :
    (State.answer s lo hi).juncOf j = s.juncOf j := (State.answer_frame s lo hi).others.juncOf rfl j
@[simp] theorem State.answer_muteOf (s : State) (lo hi : Word) (j : Nat) :
    (State.answer s lo hi).muteOf j = s.muteOf j := (State.answer_frame s lo hi).others.muteOf rfl j
@[simp] theorem State.answer_chOf (s : State) (lo hi : Word) (j : Nat) :
    (State.answer s lo hi).chOf j = s.chOf j := (State.answer_frame s lo hi).others.chOf rfl j
@[simp] theorem State.answer_trkOf (s : State) (lo hi : Word) (j : Nat) :
    (State.answer s lo hi).trkOf j = s.trkOf j := (State.answer_frame s lo hi).others.trkOf rfl j
@[simp] theorem State.answer_stxOf (s : State) (lo hi : Word) (j : Nat) :
    (State.answer s lo hi).stxOf j = s.stxOf j := (State.answer_frame s lo hi).others.stxOf rfl j
@[simp] theorem State.answer_srxOf (s : State) (lo hi : Word) (j : Nat) :
    (State.answer s lo hi).srxOf j = s.srxOf j := (State.answer_frame s lo hi).others.srxOf rfl j
@[simp] theorem State.answer_grpOf (s : State) (lo hi : Word) (j : Nat) :
    (State.answer s lo hi).grpOf j = s.grpOf j := (State.answer_frame s lo hi).others.grpOf rfl j
@[simp] theorem State.answer_dpcOf (s : State) (lo hi : Word) (j : Nat) :
    (State.answer s lo hi).dpcOf j = s.dpcOf j := (State.answer_frame s lo hi).others.dpcOf rfl j

/-! arm -/

theorem State.arm_frame (s : State) (d : Nat) : Follows [.rc, .tt] s (State.arm s d) :=
  State.arm_follows s d (fun _ k => k) (Follows.refl s)

@[simp] theorem State.arm_member (s : State) (d : Nat) :
    (State.arm s d).member = s.member := (State.arm_frame s d).member
@[simp] theorem State.arm_storesOk {s : State} (d : Nat) (h : StoresOk s) :
    StoresOk (State.arm s d) := (State.arm_frame s d).stores h
@[simp] theorem State.arm_rwW (s : State) (d : Nat) (j : Nat) :
    (State.arm s d).rwW j = s.rwW j := (State.arm_frame s d).others.rwW rfl j
@[simp] theorem State.arm_stagedW (s : State) (d : Nat) (j : Nat) :
    (State.arm s d).stagedW j = s.stagedW j := (State.arm_frame s d).others.stagedW rfl j
@[simp] theorem State.arm_appliedW (s : State) (d : Nat) (j : Nat) :
    (State.arm s d).appliedW j = s.appliedW j := (State.arm_frame s d).others.appliedW rfl j
@[simp] theorem State.arm_inForceW (s : State) (d : Nat) (j : Nat) :
    (State.arm s d).inForceW j = s.inForceW j := (State.arm_frame s d).others.inForceW rfl j
@[simp] theorem State.arm_counter (s : State) (d : Nat) (j : Nat) :
    (State.arm s d).counter j = s.counter j := (State.arm_frame s d).others.counter rfl j
@[simp] theorem State.arm_mboxOf (s : State) (d : Nat) (j : Nat) :
    (State.arm s d).mboxOf j = s.mboxOf j := (State.arm_frame s d).others.mboxOf rfl j
@[simp] theorem State.arm_ringOf (s : State) (d : Nat) (j : Nat) :
    (State.arm s d).ringOf j = s.ringOf j := (State.arm_frame s d).others.ringOf rfl j
@[simp] theorem State.arm_sapOf (s : State) (d : Nat) (j : Nat) :
    (State.arm s d).sapOf j = s.sapOf j := (State.arm_frame s d).others.sapOf rfl j
@[simp] theorem State.arm_engOf (s : State) (d : Nat) (j : Nat) :
    (State.arm s d).engOf j = s.engOf j := (State.arm_frame s d).others.engOf rfl j
@[simp] theorem State.arm_juncOf (s : State) (d : Nat) (j : Nat) :
    (State.arm s d).juncOf j = s.juncOf j := (State.arm_frame s d).others.juncOf rfl j
@[simp] theorem State.arm_muteOf (s : State) (d : Nat) (j : Nat) :
    (State.arm s d).muteOf j = s.muteOf j := (State.arm_frame s d).others.muteOf rfl j
@[simp] theorem State.arm_chOf (s : State) (d : Nat) (j : Nat) :
    (State.arm s d).chOf j = s.chOf j := (State.arm_frame s d).others.chOf rfl j
@[simp] theorem State.arm_trkOf (s : State) (d : Nat) (j : Nat) :
    (State.arm s d).trkOf j = s.trkOf j := (State.arm_frame s d).others.trkOf rfl j
@[simp] theorem State.arm_stxOf (s : State) (d : Nat) (j : Nat) :
    (State.arm s d).stxOf j = s.stxOf j := (State.arm_frame s d).others.stxOf rfl j
@[simp] theorem State.arm_srxOf (s : State) (d : Nat) (j : Nat) :
    (State.arm s d).srxOf j = s.srxOf j := (State.arm_frame s d).others.srxOf rfl j
@[simp] theorem State.arm_grpOf (s : State) (d : Nat) (j : Nat) :
    (State.arm s d).grpOf j = s.grpOf j := (State.arm_frame s d).others.grpOf rfl j
@[simp] theorem State.arm_dpcOf (s : State) (d : Nat) (j : Nat) :
    (State.arm s d).dpcOf j = s.dpcOf j := (State.arm_frame s d).others.dpcOf rfl j
@[simp] theorem State.arm_tim (s : State) (d : Nat) :
    (State.arm s d).tim = s.tim := (State.arm_frame s d).others.keeps .tim rfl
@[simp] theorem State.arm_mcr (s : State) (d : Nat) :
    (State.arm s d).mcr = s.mcr := (State.arm_frame s d).others.keeps .mcr rfl
@[simp] theorem State.arm_syn (s : State) (d : Nat) :
    (State.arm s d).syn = s.syn := (State.arm_frame s d).others.keeps .syn rfl
@[simp] theorem State.arm_mix (s : State) (d : Nat) :
    (State.arm s d).mix = s.mix := (State.arm_frame s d).others.keeps .mix rfl
@[simp] theorem State.arm_macA (s : State) (d : Nat) :
    (State.arm s d).macA = s.macA := (State.arm_frame s d).others.keeps .macA rfl
@[simp] theorem State.arm_macB (s : State) (d : Nat) :
    (State.arm s d).macB = s.macB := (State.arm_frame s d).others.keeps .macB rfl
@[simp] theorem State.arm_mdio (s : State) (d : Nat) :
    (State.arm s d).mdio = s.mdio := (State.arm_frame s d).others.keeps .mdio rfl
@[simp] theorem State.arm_stx (s : State) (d : Nat) :
    (State.arm s d).stx = s.stx := (State.arm_frame s d).others.keeps .stx rfl
@[simp] theorem State.arm_srx (s : State) (d : Nat) :
    (State.arm s d).srx = s.srx := (State.arm_frame s d).others.keeps .srx rfl
@[simp] theorem State.arm_dpc (s : State) (d : Nat) :
    (State.arm s d).dpc = s.dpc := (State.arm_frame s d).others.keeps .dpc rfl
@[simp] theorem State.arm_eng (s : State) (d : Nat) :
    (State.arm s d).eng = s.eng := (State.arm_frame s d).others.keeps .eng rfl
@[simp] theorem State.arm_mbox (s : State) (d : Nat) :
    (State.arm s d).mbox = s.mbox := (State.arm_frame s d).others.keeps .mbox rfl
@[simp] theorem State.arm_ring (s : State) (d : Nat) :
    (State.arm s d).ring = s.ring := (State.arm_frame s d).others.keeps .ring rfl
@[simp] theorem State.arm_sap (s : State) (d : Nat) :
    (State.arm s d).sap = s.sap := (State.arm_frame s d).others.keeps .sap rfl
@[simp] theorem State.arm_asrc (s : State) (d : Nat) :
    (State.arm s d).asrc = s.asrc := (State.arm_frame s d).others.keeps .asrc rfl
@[simp] theorem State.arm_pwr (s : State) (d : Nat) :
    (State.arm s d).pwr = s.pwr := (State.arm_frame s d).others.keeps .pwr rfl
@[simp] theorem State.arm_pair (s : State) (d : Nat) :
    (State.arm s d).pair = s.pair := (State.arm_frame s d).others.keeps .pair rfl
@[simp] theorem State.arm_pmu (s : State) (d : Nat) :
    (State.arm s d).pmu = s.pmu := (State.arm_frame s d).others.keeps .pmu rfl
@[simp] theorem State.arm_mgt (s : State) (d : Nat) :
    (State.arm s d).mgt = s.mgt := (State.arm_frame s d).others.keeps .mgt rfl
@[simp] theorem State.arm_pci (s : State) (d : Nat) :
    (State.arm s d).pci = s.pci := (State.arm_frame s d).others.keeps .pci rfl
@[simp] theorem State.arm_sst (s : State) (d : Nat) :
    (State.arm s d).sst = s.sst := (State.arm_frame s d).others.keeps .sst rfl
@[simp] theorem State.arm_cmd (s : State) (d : Nat) :
    (State.arm s d).cmd = s.cmd := (State.arm_frame s d).others.keeps .cmd rfl
@[simp] theorem State.arm_hrx (s : State) (d : Nat) :
    (State.arm s d).hrx = s.hrx := (State.arm_frame s d).others.keeps .hrx rfl
@[simp] theorem State.arm_msixEn (s : State) (d : Nat) :
    (State.arm s d).msixEn = s.msixEn := (State.arm_frame s d).others.keeps .msixEn rfl
@[simp] theorem State.arm_intDis (s : State) (d : Nat) :
    (State.arm s d).intDis = s.intDis := (State.arm_frame s d).others.keeps .intDis rfl
@[simp] theorem State.arm_hstop (s : State) (d : Nat) :
    (State.arm s d).reg.hstop = s.reg.hstop := (State.arm_frame s d).others.keeps .hstop rfl

/-! disarm -/

theorem State.disarm_frame (s : State) (d : Nat) : Follows [.tt] s (State.disarm s d) :=
  State.disarm_follows s d (fun _ k => k) (Follows.refl s)

@[simp] theorem State.disarm_member (s : State) (d : Nat) :
    (State.disarm s d).member = s.member := (State.disarm_frame s d).member
@[simp] theorem State.disarm_storesOk {s : State} (d : Nat) (h : StoresOk s) :
    StoresOk (State.disarm s d) := (State.disarm_frame s d).stores h
@[simp] theorem State.disarm_rcW (s : State) (d : Nat) (j : Nat) :
    (State.disarm s d).rcW j = s.rcW j := (State.disarm_frame s d).others.rcW rfl j
@[simp] theorem State.disarm_event (s : State) (d : Nat) (j : Nat) :
    (State.disarm s d).event j = s.event j := (State.disarm_frame s d).others.event rfl j
@[simp] theorem State.disarm_rwW (s : State) (d : Nat) (j : Nat) :
    (State.disarm s d).rwW j = s.rwW j := (State.disarm_frame s d).others.rwW rfl j
@[simp] theorem State.disarm_stagedW (s : State) (d : Nat) (j : Nat) :
    (State.disarm s d).stagedW j = s.stagedW j := (State.disarm_frame s d).others.stagedW rfl j
@[simp] theorem State.disarm_appliedW (s : State) (d : Nat) (j : Nat) :
    (State.disarm s d).appliedW j = s.appliedW j := (State.disarm_frame s d).others.appliedW rfl j
@[simp] theorem State.disarm_inForceW (s : State) (d : Nat) (j : Nat) :
    (State.disarm s d).inForceW j = s.inForceW j := (State.disarm_frame s d).others.inForceW rfl j
@[simp] theorem State.disarm_counter (s : State) (d : Nat) (j : Nat) :
    (State.disarm s d).counter j = s.counter j := (State.disarm_frame s d).others.counter rfl j
@[simp] theorem State.disarm_mboxOf (s : State) (d : Nat) (j : Nat) :
    (State.disarm s d).mboxOf j = s.mboxOf j := (State.disarm_frame s d).others.mboxOf rfl j
@[simp] theorem State.disarm_ringOf (s : State) (d : Nat) (j : Nat) :
    (State.disarm s d).ringOf j = s.ringOf j := (State.disarm_frame s d).others.ringOf rfl j
@[simp] theorem State.disarm_sapOf (s : State) (d : Nat) (j : Nat) :
    (State.disarm s d).sapOf j = s.sapOf j := (State.disarm_frame s d).others.sapOf rfl j
@[simp] theorem State.disarm_engOf (s : State) (d : Nat) (j : Nat) :
    (State.disarm s d).engOf j = s.engOf j := (State.disarm_frame s d).others.engOf rfl j
@[simp] theorem State.disarm_juncOf (s : State) (d : Nat) (j : Nat) :
    (State.disarm s d).juncOf j = s.juncOf j := (State.disarm_frame s d).others.juncOf rfl j
@[simp] theorem State.disarm_muteOf (s : State) (d : Nat) (j : Nat) :
    (State.disarm s d).muteOf j = s.muteOf j := (State.disarm_frame s d).others.muteOf rfl j
@[simp] theorem State.disarm_chOf (s : State) (d : Nat) (j : Nat) :
    (State.disarm s d).chOf j = s.chOf j := (State.disarm_frame s d).others.chOf rfl j
@[simp] theorem State.disarm_trkOf (s : State) (d : Nat) (j : Nat) :
    (State.disarm s d).trkOf j = s.trkOf j := (State.disarm_frame s d).others.trkOf rfl j
@[simp] theorem State.disarm_stxOf (s : State) (d : Nat) (j : Nat) :
    (State.disarm s d).stxOf j = s.stxOf j := (State.disarm_frame s d).others.stxOf rfl j
@[simp] theorem State.disarm_srxOf (s : State) (d : Nat) (j : Nat) :
    (State.disarm s d).srxOf j = s.srxOf j := (State.disarm_frame s d).others.srxOf rfl j
@[simp] theorem State.disarm_grpOf (s : State) (d : Nat) (j : Nat) :
    (State.disarm s d).grpOf j = s.grpOf j := (State.disarm_frame s d).others.grpOf rfl j
@[simp] theorem State.disarm_dpcOf (s : State) (d : Nat) (j : Nat) :
    (State.disarm s d).dpcOf j = s.dpcOf j := (State.disarm_frame s d).others.dpcOf rfl j
@[simp] theorem State.disarm_tim (s : State) (d : Nat) :
    (State.disarm s d).tim = s.tim := (State.disarm_frame s d).others.keeps .tim rfl
@[simp] theorem State.disarm_mcr (s : State) (d : Nat) :
    (State.disarm s d).mcr = s.mcr := (State.disarm_frame s d).others.keeps .mcr rfl
@[simp] theorem State.disarm_syn (s : State) (d : Nat) :
    (State.disarm s d).syn = s.syn := (State.disarm_frame s d).others.keeps .syn rfl
@[simp] theorem State.disarm_mix (s : State) (d : Nat) :
    (State.disarm s d).mix = s.mix := (State.disarm_frame s d).others.keeps .mix rfl
@[simp] theorem State.disarm_macA (s : State) (d : Nat) :
    (State.disarm s d).macA = s.macA := (State.disarm_frame s d).others.keeps .macA rfl
@[simp] theorem State.disarm_macB (s : State) (d : Nat) :
    (State.disarm s d).macB = s.macB := (State.disarm_frame s d).others.keeps .macB rfl
@[simp] theorem State.disarm_mdio (s : State) (d : Nat) :
    (State.disarm s d).mdio = s.mdio := (State.disarm_frame s d).others.keeps .mdio rfl
@[simp] theorem State.disarm_stx (s : State) (d : Nat) :
    (State.disarm s d).stx = s.stx := (State.disarm_frame s d).others.keeps .stx rfl
@[simp] theorem State.disarm_srx (s : State) (d : Nat) :
    (State.disarm s d).srx = s.srx := (State.disarm_frame s d).others.keeps .srx rfl
@[simp] theorem State.disarm_dpc (s : State) (d : Nat) :
    (State.disarm s d).dpc = s.dpc := (State.disarm_frame s d).others.keeps .dpc rfl
@[simp] theorem State.disarm_eng (s : State) (d : Nat) :
    (State.disarm s d).eng = s.eng := (State.disarm_frame s d).others.keeps .eng rfl
@[simp] theorem State.disarm_mbox (s : State) (d : Nat) :
    (State.disarm s d).mbox = s.mbox := (State.disarm_frame s d).others.keeps .mbox rfl
@[simp] theorem State.disarm_ring (s : State) (d : Nat) :
    (State.disarm s d).ring = s.ring := (State.disarm_frame s d).others.keeps .ring rfl
@[simp] theorem State.disarm_sap (s : State) (d : Nat) :
    (State.disarm s d).sap = s.sap := (State.disarm_frame s d).others.keeps .sap rfl
@[simp] theorem State.disarm_asrc (s : State) (d : Nat) :
    (State.disarm s d).asrc = s.asrc := (State.disarm_frame s d).others.keeps .asrc rfl
@[simp] theorem State.disarm_pwr (s : State) (d : Nat) :
    (State.disarm s d).pwr = s.pwr := (State.disarm_frame s d).others.keeps .pwr rfl
@[simp] theorem State.disarm_pair (s : State) (d : Nat) :
    (State.disarm s d).pair = s.pair := (State.disarm_frame s d).others.keeps .pair rfl
@[simp] theorem State.disarm_pmu (s : State) (d : Nat) :
    (State.disarm s d).pmu = s.pmu := (State.disarm_frame s d).others.keeps .pmu rfl
@[simp] theorem State.disarm_mgt (s : State) (d : Nat) :
    (State.disarm s d).mgt = s.mgt := (State.disarm_frame s d).others.keeps .mgt rfl
@[simp] theorem State.disarm_pci (s : State) (d : Nat) :
    (State.disarm s d).pci = s.pci := (State.disarm_frame s d).others.keeps .pci rfl
@[simp] theorem State.disarm_sst (s : State) (d : Nat) :
    (State.disarm s d).sst = s.sst := (State.disarm_frame s d).others.keeps .sst rfl
@[simp] theorem State.disarm_cmd (s : State) (d : Nat) :
    (State.disarm s d).cmd = s.cmd := (State.disarm_frame s d).others.keeps .cmd rfl
@[simp] theorem State.disarm_hrx (s : State) (d : Nat) :
    (State.disarm s d).hrx = s.hrx := (State.disarm_frame s d).others.keeps .hrx rfl
@[simp] theorem State.disarm_msixEn (s : State) (d : Nat) :
    (State.disarm s d).msixEn = s.msixEn := (State.disarm_frame s d).others.keeps .msixEn rfl
@[simp] theorem State.disarm_intDis (s : State) (d : Nat) :
    (State.disarm s d).intDis = s.intDis := (State.disarm_frame s d).others.keeps .intDis rfl
@[simp] theorem State.disarm_hstop (s : State) (d : Nat) :
    (State.disarm s d).reg.hstop = s.reg.hstop := (State.disarm_frame s d).others.keeps .hstop rfl

/-! enqueue -/

theorem State.enqueue_frame (s : State) (p q : Nat) (f : TxFrame) :
    Follows [.rc, .count, .macA, .macB] s (State.enqueue s p q f) :=
  State.enqueue_follows s p q f (fun _ k => k) (Follows.refl s)

@[simp] theorem State.enqueue_member (s : State) (p q : Nat) (f : TxFrame) :
    (State.enqueue s p q f).member = s.member := (State.enqueue_frame s p q f).member
@[simp] theorem State.enqueue_storesOk {s : State} (p q : Nat) (f : TxFrame) (h : StoresOk s) :
    StoresOk (State.enqueue s p q f) := (State.enqueue_frame s p q f).stores h
@[simp] theorem State.enqueue_rwW (s : State) (p q : Nat) (f : TxFrame) (j : Nat) :
    (State.enqueue s p q f).rwW j = s.rwW j := (State.enqueue_frame s p q f).others.rwW rfl j
@[simp] theorem State.enqueue_stagedW (s : State) (p q : Nat) (f : TxFrame) (j : Nat) :
    (State.enqueue s p q f).stagedW j = s.stagedW j := (State.enqueue_frame s p q f).others.stagedW rfl j
@[simp] theorem State.enqueue_appliedW (s : State) (p q : Nat) (f : TxFrame) (j : Nat) :
    (State.enqueue s p q f).appliedW j = s.appliedW j := (State.enqueue_frame s p q f).others.appliedW rfl j
@[simp] theorem State.enqueue_inForceW (s : State) (p q : Nat) (f : TxFrame) (j : Nat) :
    (State.enqueue s p q f).inForceW j = s.inForceW j := (State.enqueue_frame s p q f).others.inForceW rfl j
@[simp] theorem State.enqueue_mboxOf (s : State) (p q : Nat) (f : TxFrame) (j : Nat) :
    (State.enqueue s p q f).mboxOf j = s.mboxOf j := (State.enqueue_frame s p q f).others.mboxOf rfl j
@[simp] theorem State.enqueue_ringOf (s : State) (p q : Nat) (f : TxFrame) (j : Nat) :
    (State.enqueue s p q f).ringOf j = s.ringOf j := (State.enqueue_frame s p q f).others.ringOf rfl j
@[simp] theorem State.enqueue_sapOf (s : State) (p q : Nat) (f : TxFrame) (j : Nat) :
    (State.enqueue s p q f).sapOf j = s.sapOf j := (State.enqueue_frame s p q f).others.sapOf rfl j
@[simp] theorem State.enqueue_engOf (s : State) (p q : Nat) (f : TxFrame) (j : Nat) :
    (State.enqueue s p q f).engOf j = s.engOf j := (State.enqueue_frame s p q f).others.engOf rfl j
@[simp] theorem State.enqueue_juncOf (s : State) (p q : Nat) (f : TxFrame) (j : Nat) :
    (State.enqueue s p q f).juncOf j = s.juncOf j := (State.enqueue_frame s p q f).others.juncOf rfl j
@[simp] theorem State.enqueue_muteOf (s : State) (p q : Nat) (f : TxFrame) (j : Nat) :
    (State.enqueue s p q f).muteOf j = s.muteOf j := (State.enqueue_frame s p q f).others.muteOf rfl j
@[simp] theorem State.enqueue_chOf (s : State) (p q : Nat) (f : TxFrame) (j : Nat) :
    (State.enqueue s p q f).chOf j = s.chOf j := (State.enqueue_frame s p q f).others.chOf rfl j
@[simp] theorem State.enqueue_trkOf (s : State) (p q : Nat) (f : TxFrame) (j : Nat) :
    (State.enqueue s p q f).trkOf j = s.trkOf j := (State.enqueue_frame s p q f).others.trkOf rfl j
@[simp] theorem State.enqueue_stxOf (s : State) (p q : Nat) (f : TxFrame) (j : Nat) :
    (State.enqueue s p q f).stxOf j = s.stxOf j := (State.enqueue_frame s p q f).others.stxOf rfl j
@[simp] theorem State.enqueue_srxOf (s : State) (p q : Nat) (f : TxFrame) (j : Nat) :
    (State.enqueue s p q f).srxOf j = s.srxOf j := (State.enqueue_frame s p q f).others.srxOf rfl j
@[simp] theorem State.enqueue_grpOf (s : State) (p q : Nat) (f : TxFrame) (j : Nat) :
    (State.enqueue s p q f).grpOf j = s.grpOf j := (State.enqueue_frame s p q f).others.grpOf rfl j
@[simp] theorem State.enqueue_dpcOf (s : State) (p q : Nat) (f : TxFrame) (j : Nat) :
    (State.enqueue s p q f).dpcOf j = s.dpcOf j := (State.enqueue_frame s p q f).others.dpcOf rfl j
@[simp] theorem State.enqueue_tt (s : State) (p q : Nat) (f : TxFrame) :
    (State.enqueue s p q f).tt = s.tt := (State.enqueue_frame s p q f).others.ttKept rfl rfl
@[simp] theorem State.enqueue_tim (s : State) (p q : Nat) (f : TxFrame) :
    (State.enqueue s p q f).tim = s.tim := (State.enqueue_frame s p q f).others.keeps .tim rfl
@[simp] theorem State.enqueue_mcr (s : State) (p q : Nat) (f : TxFrame) :
    (State.enqueue s p q f).mcr = s.mcr := (State.enqueue_frame s p q f).others.keeps .mcr rfl
@[simp] theorem State.enqueue_syn (s : State) (p q : Nat) (f : TxFrame) :
    (State.enqueue s p q f).syn = s.syn := (State.enqueue_frame s p q f).others.keeps .syn rfl
@[simp] theorem State.enqueue_mix (s : State) (p q : Nat) (f : TxFrame) :
    (State.enqueue s p q f).mix = s.mix := (State.enqueue_frame s p q f).others.keeps .mix rfl
@[simp] theorem State.enqueue_mdio (s : State) (p q : Nat) (f : TxFrame) :
    (State.enqueue s p q f).mdio = s.mdio := (State.enqueue_frame s p q f).others.keeps .mdio rfl
@[simp] theorem State.enqueue_stx (s : State) (p q : Nat) (f : TxFrame) :
    (State.enqueue s p q f).stx = s.stx := (State.enqueue_frame s p q f).others.keeps .stx rfl
@[simp] theorem State.enqueue_srx (s : State) (p q : Nat) (f : TxFrame) :
    (State.enqueue s p q f).srx = s.srx := (State.enqueue_frame s p q f).others.keeps .srx rfl
@[simp] theorem State.enqueue_dpc (s : State) (p q : Nat) (f : TxFrame) :
    (State.enqueue s p q f).dpc = s.dpc := (State.enqueue_frame s p q f).others.keeps .dpc rfl
@[simp] theorem State.enqueue_eng (s : State) (p q : Nat) (f : TxFrame) :
    (State.enqueue s p q f).eng = s.eng := (State.enqueue_frame s p q f).others.keeps .eng rfl
@[simp] theorem State.enqueue_mbox (s : State) (p q : Nat) (f : TxFrame) :
    (State.enqueue s p q f).mbox = s.mbox := (State.enqueue_frame s p q f).others.keeps .mbox rfl
@[simp] theorem State.enqueue_ring (s : State) (p q : Nat) (f : TxFrame) :
    (State.enqueue s p q f).ring = s.ring := (State.enqueue_frame s p q f).others.keeps .ring rfl
@[simp] theorem State.enqueue_sap (s : State) (p q : Nat) (f : TxFrame) :
    (State.enqueue s p q f).sap = s.sap := (State.enqueue_frame s p q f).others.keeps .sap rfl
@[simp] theorem State.enqueue_asrc (s : State) (p q : Nat) (f : TxFrame) :
    (State.enqueue s p q f).asrc = s.asrc := (State.enqueue_frame s p q f).others.keeps .asrc rfl
@[simp] theorem State.enqueue_pwr (s : State) (p q : Nat) (f : TxFrame) :
    (State.enqueue s p q f).pwr = s.pwr := (State.enqueue_frame s p q f).others.keeps .pwr rfl
@[simp] theorem State.enqueue_pair (s : State) (p q : Nat) (f : TxFrame) :
    (State.enqueue s p q f).pair = s.pair := (State.enqueue_frame s p q f).others.keeps .pair rfl
@[simp] theorem State.enqueue_pmu (s : State) (p q : Nat) (f : TxFrame) :
    (State.enqueue s p q f).pmu = s.pmu := (State.enqueue_frame s p q f).others.keeps .pmu rfl
@[simp] theorem State.enqueue_mgt (s : State) (p q : Nat) (f : TxFrame) :
    (State.enqueue s p q f).mgt = s.mgt := (State.enqueue_frame s p q f).others.keeps .mgt rfl
@[simp] theorem State.enqueue_pci (s : State) (p q : Nat) (f : TxFrame) :
    (State.enqueue s p q f).pci = s.pci := (State.enqueue_frame s p q f).others.keeps .pci rfl
@[simp] theorem State.enqueue_sst (s : State) (p q : Nat) (f : TxFrame) :
    (State.enqueue s p q f).sst = s.sst := (State.enqueue_frame s p q f).others.keeps .sst rfl
@[simp] theorem State.enqueue_cmd (s : State) (p q : Nat) (f : TxFrame) :
    (State.enqueue s p q f).cmd = s.cmd := (State.enqueue_frame s p q f).others.keeps .cmd rfl
@[simp] theorem State.enqueue_hrx (s : State) (p q : Nat) (f : TxFrame) :
    (State.enqueue s p q f).hrx = s.hrx := (State.enqueue_frame s p q f).others.keeps .hrx rfl
@[simp] theorem State.enqueue_msixEn (s : State) (p q : Nat) (f : TxFrame) :
    (State.enqueue s p q f).msixEn = s.msixEn := (State.enqueue_frame s p q f).others.keeps .msixEn rfl
@[simp] theorem State.enqueue_intDis (s : State) (p q : Nat) (f : TxFrame) :
    (State.enqueue s p q f).intDis = s.intDis := (State.enqueue_frame s p q f).others.keeps .intDis rfl
@[simp] theorem State.enqueue_hstop (s : State) (p q : Nat) (f : TxFrame) :
    (State.enqueue s p q f).reg.hstop = s.reg.hstop := (State.enqueue_frame s p q f).others.keeps .hstop rfl

/-- Refilling the channels of a port moves no tracker. -/
@[simp] theorem State.asrcPort_trkOf (s : State) (p j : Nat) : (s.asrcPort p).trkOf j = s.trkOf j := by
  unfold State.asrcPort
  generalize (s.asrcOn.filter fun n => decide (aPort (s.asrcW n) = p)) = l
  induction l generalizing s with
  | nil => rfl
  | cons n l ih =>
    rw [List.foldl_cons, ih]
    unfold State.asrcRefill
    dsimp only
    split <;> rfl

@[simp] theorem State.setCh_trkOf (s : State) (n : Nat) (v : AsrcCh) (j : Nat) : (s.setCh n v).trkOf j = s.trkOf j := rfl
@[simp] theorem State.setTrk_chOf (s : State) (p : Nat) (v : Tracker) (j : Nat) : (s.setTrk p v).chOf j = s.chOf j := rfl

end Sys2Proof.Machine
end

