-- ==== Sys2Proof/Laws/Access.lean ====
section
/-! SUPPORT. What an access comes down to: a word access through the normal view, and what a bus error leaves. -/

namespace Sys2Proof.Machine

theorem viaView_normal (a : Nat) : viaView .normal a = a := by simp [viaView, viewCode]

/-- The capture word of a bus error carries its cause and direction. -/
theorem berrWord_fields (c q v : Nat) (wr ts lo : Bool) (hc : c < 8) (hq : q < 2) (hv : v < 4) :
    let w := toWord (1 + put 1 c + putb 4 wr + put 5 q + put 6 v + putb 8 ts + putb 9 lo)
    bitAt w 0 = true ∧ fld w 1 3 = c ∧ bitAt w 4 = wr := by
  revert wr ts lo; interval_cases c <;> interval_cases q <;> interval_cases v <;> decide

/-- A bus error captures its cause, direction and address, raises BUS_ERR, and for a lock LOCK_ATTEMPT (R382). -/
theorem State.berr_spec {s : State} (h : StoresOk s) (q : Req) (off cause : Nat) (wr : Bool) (ts : Option Nat)
    (hc : cause < 8) :
    let t := s.berr q off cause wr ts
    bitAt (t.rcW 0x100C) 0 = true ∧ fld (t.rcW 0x100C) 1 3 = cause ∧ bitAt (t.rcW 0x100C) 4 = wr
      ∧ t.reg.berrAddr = toWord (ts.getD off) ∧ t.event 92 = true ∧ (cause = 5 → t.event 93 = true)
      ∧ RcOnly [0x100C, evtStat 92] s t ∧ LeavesAllBut [.rc, .rcu] s t
      ∧ t.reg.lock = s.reg.lock ∧ t.reg.brst = s.reg.brst ∧ t.reg.pcie = s.reg.pcie ∧ t.reg.mgt = s.reg.mgt := by
  have e92 : ¬ (0x100C : Nat) = evtStat 92 := by decide
  have e93 : ¬ (0x100C : Nat) = evtStat 93 := by decide
  have e9 : evtStat 93 = evtStat 92 := by decide
  have p (n : Nat) (hn : n = 92 ∨ n = 93) : srcPresent s.member n = true := by rcases hn with rfl | rfl <;> simp [srcPresent]
  intro t
  have ho : LeavesAllBut [.rc, .rcu] s t := (State.berr_follows s q off cause wr ts (fun _ k => k) (Follows.refl s)).others
  revert ho
  unfold t State.berr
  extract_lets lost w t1 src u
  have k := berrWord_fields cause (reqCode q) (off / 0x100000 % 4) wr ts.isSome lost hc (by cases q <;> decide) (by omega)
  have hu : StoresOk u := by
    obtain ⟨⟨h1, h2, h3, h4, h5, h6, h7, h8, h9, h10, h11⟩, hu⟩ := State.setRc_storesOk 0x100C (toWord w) h
    exact ⟨⟨h1, h2, h3, h4, h5, h6, h7, h8, h9, h10, h11⟩, hu⟩
  have hr : ∀ a, u.rcW a = if a = 0x100C then toWord w else s.rcW a := fun a => State.setRc_rcW h 0x100C a (toWord w)
  have ha : u.reg.berrAddr = toWord (ts.getD off) := rfl
  have hm : u.member = s.member := rfl
  have hk : u.reg.lock = s.reg.lock ∧ u.reg.brst = s.reg.brst ∧ u.reg.pcie = s.reg.pcie ∧ u.reg.mgt = s.reg.mgt :=
    ⟨rfl, rfl, rfl, rfl⟩
  clear_value u
  have one (v : State) (n : Nat) (hv : evtStat n = evtStat 92) (hn : n = 92 ∨ n = 93) (hs : StoresOk v)
      (hm : v.member = s.member) (hr : ∀ a, a ≠ evtStat 92 → v.rcW a = u.rcW a) (hb : (v.reg.lock, v.reg.brst, v.reg.pcie, v.reg.mgt, v.reg.berrAddr)
        = (u.reg.lock, u.reg.brst, u.reg.pcie, u.reg.mgt, u.reg.berrAddr)) :
      StoresOk (v.raise n) ∧ (v.raise n).event n = true ∧ (v.raise n).member = s.member ∧
      (∀ a, a ≠ evtStat 92 → (v.raise n).rcW a = u.rcW a) ∧ ((v.raise n).reg.lock, (v.raise n).reg.brst,
        (v.raise n).reg.pcie, (v.raise n).reg.mgt, (v.raise n).reg.berrAddr) = (u.reg.lock, u.reg.brst, u.reg.pcie, u.reg.mgt, u.reg.berrAddr) := by
    obtain ⟨q1, _, _, q4, q5, q6, q7⟩ := (State.raise_others v n).rcuKept rfl
    exact ⟨State.raise_storesOk hs n, State.raise_event hs n (by rw [hm]; exact p n hn), (State.raise_member v n).trans hm,
      fun a ha => (State.raise_rcW_other n a (by rw [hv]; exact ha)).trans (hr a ha), by rw [q1, q4, q5, q6, q7]; exact hb⟩
  obtain ⟨a1, a2, a3, a4, a5⟩ := one u 92 rfl (.inl rfl) hu hm (fun _ _ => rfl) rfl
  obtain ⟨b1, b2, b3, b4, b5⟩ := one _ 93 e9 (.inr rfl) a1 a3 a4 a5
  have fin (v : State) (h92 : v.event 92 = true) (h93 : cause = 5 → v.event 93 = true)
      (h4 : ∀ a, a ≠ evtStat 92 → v.rcW a = u.rcW a) (h5 : (v.reg.lock, v.reg.brst, v.reg.pcie, v.reg.mgt, v.reg.berrAddr)
        = (u.reg.lock, u.reg.brst, u.reg.pcie, u.reg.mgt, u.reg.berrAddr)) (ho : LeavesAllBut [.rc, .rcu] s v) :
      bitAt (v.rcW 0x100C) 0 = true ∧ fld (v.rcW 0x100C) 1 3 = cause ∧ bitAt (v.rcW 0x100C) 4 = wr
        ∧ v.reg.berrAddr = toWord (ts.getD off) ∧ v.event 92 = true ∧ (cause = 5 → v.event 93 = true)
        ∧ RcOnly [0x100C, evtStat 92] s v ∧ LeavesAllBut [.rc, .rcu] s v
        ∧ v.reg.lock = s.reg.lock ∧ v.reg.brst = s.reg.brst ∧ v.reg.pcie = s.reg.pcie ∧ v.reg.mgt = s.reg.mgt := by
    have e : v.rcW 0x100C = toWord w := (h4 _ e92).trans ((hr _).trans (if_pos rfl))
    simp only [Prod.mk.injEq] at h5
    rw [e]
    refine ⟨k.1, k.2.1, k.2.2, h5.2.2.2.2.trans ha, h92, h93, fun a hx => ?_, ho, h5.1.trans hk.1, h5.2.1.trans hk.2.1,
      h5.2.2.1.trans hk.2.2.1, h5.2.2.2.1.trans hk.2.2.2⟩
    simp only [List.mem_cons, List.not_mem_nil, or_false, not_or] at hx
    exact (h4 a hx.2).trans ((hr a).trans (if_neg hx.1))
  split
  · exact fun ho => fin _ (State.raise_event_keep a1 _ _ a2) (fun _ => b2) b4 b5 ho
  · rename_i hn
    exact fun ho => fin _ a2 (fun e => absurd e hn) a4 a5 ho

end Sys2Proof.Machine
end

