-- ==== Sys2Proof/Laws/Merge.lean ====
section
/-! SUPPORT. What a store reads after another is merged over it, or after part of it is replaced. -/

namespace Sys2Proof.Machine
variable {α : Type} [DecidableEq α] {d : Nat → α}

/-- A store with the entries of another written over it: its own value wherever that one lists nothing. -/
theorem sget_smerge {m n : SMap α} (hm : swf d m = true) (hn : swf d n = true) (k : Nat) :
    sget d (smerge d m n) k = if (∃ p ∈ n, p.1 = k) then sget d n k else sget d m k := by
  unfold smerge
  induction n generalizing m with
  | nil => simp
  | cons q t ih =>
    rw [List.foldl_cons, ih (swf_sset hm _ _) (swf_tail hn)]
    by_cases hq : q.1 = k
    · subst hq
      have ht : ¬ ∃ p ∈ t, p.1 = q.1 := fun ⟨p, hp, e⟩ => by have := swf_lt (a := q.1) (v := q.2) hn p hp; omega
      rw [if_neg ht, if_pos ⟨q, List.mem_cons_self, rfl⟩, sget_sset_same hm]
      simp [sget]
    · have e : sget d (q :: t) k = sget d t k := by simp [sget, hq]
      rw [e, sget_sset_other _ _ (Ne.symm hq)]
      have hx : (∃ p ∈ q :: t, p.1 = k) ↔ ∃ p ∈ t, p.1 = k :=
        ⟨fun ⟨p, hp, e⟩ => by
          rcases List.mem_cons.1 hp with r | r
          · exact absurd (r ▸ e) hq
          · exact ⟨p, r, e⟩, fun ⟨p, hp, e⟩ => ⟨p, List.mem_cons_of_mem _ hp, e⟩⟩
      simp only [hx]

omit [DecidableEq α] in
/-- A key the store does not list reads as the default. -/
theorem sget_unlisted {m : SMap α} {k : Nat} (h : ¬ ∃ p ∈ m, p.1 = k) : sget d m k = d k := by
  induction m with
  | nil => rfl
  | cons q t ih =>
    have hq : q.1 ≠ k := fun e => h ⟨q, List.mem_cons_self, e⟩
    simp only [sget, hq, if_false]
    exact ih fun ⟨p, hp, e⟩ => h ⟨p, List.mem_cons_of_mem _ hp, e⟩

omit [DecidableEq α] in
/-- A store cut down to the chosen keys. -/
theorem sget_filter {m : SMap α} (p : Nat → Bool) (k : Nat) :
    sget d (m.filter fun x => p x.1) k = if p k then sget d m k else d k := by
  induction m with
  | nil => simp [sget]
  | cons q t ih =>
    by_cases hq : p q.1 = true
    · rw [List.filter_cons_of_pos (by simpa using hq)]
      by_cases hk : q.1 = k
      · subst hk; simp [sget, hq]
      · simp only [sget, hk, if_false]; exact ih
    · rw [List.filter_cons_of_neg (by simpa using hq), ih]
      by_cases hk : q.1 = k
      · subst hk; simp [hq]
      · simp [sget, hk]

/-- The words of `n` where the key is chosen, those of `m` elsewhere. -/
theorem sget_replaceWhere {m n : SMap Word} (hm : swf resetWord m = true) (hn : swf resetWord n = true) (p : Nat → Bool)
    (k : Nat) : sget resetWord (replaceWhere p m n) k = if p k then sget resetWord n k else sget resetWord m k := by
  unfold replaceWhere
  rw [sget_smerge (swf_filter hm _) (swf_filter hn _), sget_filter (fun x => p x), sget_filter (fun x => !p x)]
  by_cases hk : p k = true
  · by_cases hl : ∃ q ∈ n, q.1 = k
    · obtain ⟨q, hq, e⟩ := hl
      have : ∃ r ∈ n.filter (fun x => p x.1), r.1 = k := ⟨q, List.mem_filter.2 ⟨hq, by rw [e]; exact hk⟩, e⟩
      rw [if_pos this, if_pos hk, if_pos hk]
    · have : ¬ ∃ r ∈ n.filter (fun x => p x.1), r.1 = k := fun ⟨r, hr, e⟩ => hl ⟨r, (List.mem_filter.1 hr).1, e⟩
      rw [if_neg this]
      simp [hk, sget_unlisted hl]
  · have : ¬ ∃ r ∈ n.filter (fun x => p x.1), r.1 = k := fun ⟨r, hr, e⟩ => hk (by rw [← e]; simpa using (List.mem_filter.1 hr).2)
    rw [if_neg this]
    simp [hk]
end Sys2Proof.Machine
end

