-- ==== Sys2Proof/Laws/Regs.lean ====
section
/-! SUPPORT. What a write of a control bit comes down to: the access reaches the register's row in the map and acts on its WO
fields alone. -/

namespace Sys2Proof.Machine

/-- A normal-view write of a register whose only writable fields are WO does what those fields command. -/
theorem State.ctl_wo {s : State} {q : Req} {a : Nat} {d : Word} {r : RegRow} (hp : s.present a = some r)
    (hk : kindFault .normal a r = none) (hport : r.port = false) (hrs : r.rs = 0) (hwo : r.wo ≠ 0) :
    s.write32 q .normal a d = s.woAct a (d &&& toWord r.wo) := by
  unfold State.write32
  rw [hp]
  dsimp only
  rw [hk]
  simp [hport, hrs, State.otherWrite, hwo]

theorem State.present_at {s : State} {a b : Nat} {r : RegRow} (hb : blockAt a = some b) (hm : blockPresent s.member b = true)
    (hi : instPresent s.member b (a - blockBase b) = true) (hr : rowAt a = some r) : s.present a = some r := by
  unfold State.present
  rw [hb]
  simp [hm, hi, hr]

/-! ### The control bits that are commands of their own -/

theorem State.ctl_stx (s : State) (q : Req) :
    s.ctl q 0x30000 1 = { s with stx := { s.stx with stopAll := true } } :=
  State.ctl_wo (r := rowWO 0 1) (State.present_at (b := bSTX) rfl rfl rfl rfl) rfl rfl rfl (by decide)

theorem State.ctl_srx (s : State) (q : Req) :
    s.ctl q 0x34000 1 = { s with srx := { s.srx with stopAll := true } } :=
  State.ctl_wo (r := rowWO 0 1) (State.present_at (b := bSRX) rfl rfl rfl rfl) rfl rfl rfl (by decide)

theorem State.ctl_syn (s : State) (q : Req) : s.ctl q 0x28004 1 = s.modSyn (fun y => { y with req := true }) :=
  State.ctl_wo (r := rowWO 4 1) (State.present_at (b := bSYN) rfl rfl rfl rfl) rfl rfl rfl (by decide)

theorem State.ctl_tt (s : State) (q : Req) : s.ctl q 0x2C004 1 = s.disarmAll :=
  State.ctl_wo (r := rowWO 4 1) (State.present_at (b := bTT) rfl rfl rfl rfl) rfl rfl rfl (by decide)

theorem State.ctl_pmu (s : State) (q : Req) :
    s.ctl q 0x3010 1 = { s with pmu := { s.pmu with sleepReq := true } } :=
  State.ctl_wo (r := rowWO 16 1) (State.present_at (b := bPMU) rfl rfl rfl rfl) rfl rfl rfl (by decide)

theorem State.ctl_tim (s : State) (q : Req) (i : Nat) (hi : i < 2) : s.ctl q 0x20004 (1 + 2 * i) = s.timeSet i := by
  have h := State.ctl_wo (s := s) (q := q) (a := 0x20004) (d := toWord (1 + 2 * i)) (r := rowWO 4 3)
    (State.present_at (b := bTIM) rfl rfl rfl rfl) rfl rfl rfl (by decide)
  obtain rfl | rfl : i = 0 ∨ i = 1 := by omega
  all_goals exact h

theorem State.ctl_mix (s : State) (q : Req) (d : Nat) : s.ctl q 0x50000 d = s.mixCtl (toWord d &&& 0x1F0003) :=
  State.ctl_wo (r := rowWO 0 0x1F0003) (State.present_at (b := bMIX) rfl rfl rfl rfl) rfl rfl rfl (by decide)

theorem State.ctl_pair (s : State) (q : Req) (d : Nat) (h : hasPair s.member = true) :
    s.ctl q 0x88008 d = s.pairCtl (toWord d &&& 0x1F) :=
  State.ctl_wo (r := rowWO 8 0x1F) (State.present_at (b := bPAIR) rfl h rfl rfl) rfl rfl rfl (by decide)

theorem State.ctl_pwr (s : State) (q : Req) (d : Nat) (h : hasPower s.member = true) :
    s.ctl q 0x80000 d = s.pwrCtl (toWord d &&& 0x3F) :=
  State.ctl_wo (r := rowWO 0 0x3F) (State.present_at (b := bPWR) rfl h rfl rfl) rfl rfl rfl (by decide)

theorem State.ctl_dpc (s : State) (q : Req) (d : Nat) (h : hasDpc s.member = true) :
    s.ctl q 0x38004 d = s.dpcCtl (toWord d &&& 0x7) :=
  State.ctl_wo (r := rowWO 4 0x7) (State.present_at (b := bDPC) rfl h rfl rfl) rfl rfl rfl (by decide)

theorem numEng_le (m : Member) : numEng m ≤ 8 := by cases m <;> decide
theorem numSap_le (m : Member) : numSap m ≤ 8 := by cases m <;> decide
theorem numPorts_le (m : Member) : numPorts m ≤ 2 := by cases m <;> decide
theorem numPorts_pos (m : Member) : 1 ≤ numPorts m := by cases m <;> decide

theorem State.ctl_eng (s : State) (q : Req) (e d : Nat) (h : e < numEng s.member) :
    s.ctl q (engBase e + 4) d = s.engCommand e (toWord d &&& 0x1F000F) := by
  have he : e < 8 := Nat.lt_of_lt_of_le h (numEng_le _)
  have hb : blockAt (engBase e + 4) = some (bENG e) := (by decide : ∀ e < 8, blockAt (engBase e + 4) = some (bENG e)) _ he
  have hr : rowAt (engBase e + 4) = some (rowWO 4 0x1F000F) := (by decide : ∀ e < 8, rowAt (engBase e + 4) = some (rowWO 4 0x1F000F)) _ he
  have hm : blockPresent s.member (bENG e) = true := by
    have : ∀ m : Member, ∀ e < 8, e < numEng m → blockPresent m (bENG e) = true := by intro m; cases m <;> decide
    exact this _ _ he h
  have hi : instPresent s.member (bENG e) (engBase e + 4 - blockBase (bENG e)) = true := by
    have : ∀ e < 8, instPresent s.member (bENG e) (engBase e + 4 - blockBase (bENG e)) = true := by
      intro e he; interval_cases e <;> rfl
    exact this _ he
  have k := State.ctl_wo (s := s) (q := q) (d := toWord d) (State.present_at hb hm hi hr) rfl rfl rfl (by decide)
  rw [show s.ctl q (engBase e + 4) d = _ from k]
  interval_cases e <;> rfl

theorem State.ctl_sap (s : State) (q : Req) (p d : Nat) (h : p < numSap s.member) :
    s.ctl q (sapBase p + 4) d = s.sapCtl p (toWord d &&& 0x7) := by
  have he : p < 8 := Nat.lt_of_lt_of_le h (numSap_le _)
  have hb : blockAt (sapBase p + 4) = some (bSAP p) := (by decide : ∀ p < 8, blockAt (sapBase p + 4) = some (bSAP p)) _ he
  have hr : rowAt (sapBase p + 4) = some (rowWO 4 0x7) := (by decide : ∀ p < 8, rowAt (sapBase p + 4) = some (rowWO 4 0x7)) _ he
  have hm : blockPresent s.member (bSAP p) = true := by
    have : ∀ m : Member, ∀ p < 8, p < numSap m → blockPresent m (bSAP p) = true := by intro m; cases m <;> decide
    exact this _ _ he h
  have hi : instPresent s.member (bSAP p) (sapBase p + 4 - blockBase (bSAP p)) = true := by
    have : ∀ p < 8, instPresent s.member (bSAP p) (sapBase p + 4 - blockBase (bSAP p)) = true := by
      intro p he; interval_cases p <;> rfl
    exact this _ he
  have k := State.ctl_wo (s := s) (q := q) (d := toWord d) (State.present_at hb hm hi hr) rfl rfl rfl (by decide)
  rw [show s.ctl q (sapBase p + 4) d = _ from k]
  interval_cases p <;> rfl

theorem State.ctl_mac (s : State) (q : Req) (p d : Nat) (h : portPresent s.member p = true) :
    s.ctl q (macBase p + 4) d = s.macCtl p (toWord d &&& 0x7) := by
  have hp : p < numPorts s.member := by simpa [portPresent] using h
  have he : p < 2 := Nat.lt_of_lt_of_le hp (numPorts_le _)
  have hm : ∀ m : Member, ∀ p < 2, p < numPorts m → blockPresent m (8 + p) = true := by intro m; cases m <;> decide
  have hm := hm _ _ he hp
  obtain rfl | rfl : p = 0 ∨ p = 1 := by omega
  · exact State.ctl_wo (r := rowWO 4 0x7) (State.present_at (b := bMACA) rfl hm rfl rfl) rfl rfl rfl (by decide)
  · exact State.ctl_wo (r := rowWO 4 0x7) (State.present_at (b := bMACB) rfl hm rfl rfl) rfl rfl rfl (by decide)

theorem State.ctl_mbox (s : State) (q : Req) (n : Nat) (hn : n < 32) : s.ctl q (sdgBase n + 4) 1 = s.mboxFlush n := by
  have hr : rowAt (sdgBase n + 4) = some ((rowWO 0x104 0x1).times 32 0x40) := (by decide : ∀ n < 32, rowAt (sdgBase n + 4) = some ((rowWO 0x104 0x1).times 32 0x40)) _ hn
  have hb : blockAt (sdgBase n + 4) = some bSDG := (by decide : ∀ n < 32, blockAt (sdgBase n + 4) = some bSDG) _ hn
  have k := State.ctl_wo (s := s) (q := q) (d := toWord 1) (State.present_at hb rfl rfl hr) rfl rfl rfl (by decide)
  rw [show s.ctl q (sdgBase n + 4) 1 = _ from k]
  interval_cases n <;> rfl

theorem State.ctl_ring (s : State) (q : Req) (p : Nat) (hp : p < 49) : s.ctl q (ringBase p + 0x20) 1 = s.ringRestart p := by
  have hr : rowAt (ringBase p + 0x20) = some ((rowWO 0x120 0x1).times 49 0x40) := (by decide : ∀ p < 49, rowAt (ringBase p + 0x20) = some ((rowWO 0x120 0x1).times 49 0x40)) _ hp
  have hb : blockAt (ringBase p + 0x20) = some bRNG := (by decide : ∀ p < 49, blockAt (ringBase p + 0x20) = some bRNG) _ hp
  have k := State.ctl_wo (s := s) (q := q) (d := toWord 1) (State.present_at hb rfl rfl hr) rfl rfl rfl (by decide)
  rw [show s.ctl q (ringBase p + 0x20) 1 = _ from k]
  interval_cases p <;> rfl

end Sys2Proof.Machine
end

