-- ==== Sys2Proof/WellFormed.lean ====
section
/-! DEFINITION. Commands whose operands name something the part could have: indices within their arrays, one byte enable
per byte.  A command out of range has no effect or answers as the rule of its access says; no meaning relies on this. -/

namespace Sys2Proof

def portOk (p : Nat) : Bool := decide (p < 2)
def instOk (i : Nat) : Bool := decide (i < 2)
def depOk (d : Nat) : Bool := decide (d < 64)
def ctxOk (c : Nat) : Bool := decide (c < 128)
def mboxOk (n : Nat) : Bool := decide (28 ≤ n ∧ n < 32)
def sidingOk (n : Nat) : Bool := decide (n < 32)
def ringOk (p : Nat) : Bool := decide (p < 49)
def engOk (e : Nat) : Bool := decide (e < 8)
def sapOk (p : Nat) : Bool := decide (p < 8)
def chOk (c : Nat) : Bool := decide (c < 2)
def accessOk (x : Access) : Bool := decide (x.enables.length = x.len)

/-- Whether a command's operands are in range. -/
def Instr.wf (i : Instr) : Bool :=
  match i with
  | .registerWrite x => accessOk x
  | .clearOnRead x _ => accessOk x
  | .latchingRead x _ => accessOk x
  | .rcuStrobe _ => true
  | .grpmapWrite n _ => decide (n < 5)
  | .rcuLockWrite _ => true
  | .crcRefWrite _ => true
  | .indDataWrite _ => true
  | .indDataRead _ _ => true
  | .pairRoleWrite _ => true
  | .pciSubidWrite _ => true
  | .rcuBrst _ => true
  | .blockReset => true
  | .crcPassEnd _ => true
  | .tickBoundary _ => true
  | .sapAdopt p => sapOk p
  | .pwrAdopt => true
  | .tickLengthAdopt => true
  | .departureWrite d n _ => depOk d && decide (n < 6)
  | .arm d _ => depOk d
  | .disarm d _ => depOk d
  | .disarmAll _ => true
  | .ptpFrameRx p i _ => portOk p && instOk i
  | .syncTx i p => portOk p && instOk i
  | .announceTx i p => portOk p && instOk i
  | .syncReceiptTimeout i => instOk i
  | .announceReceiptTimeout i _ => instOk i
  | .timeSet i _ => instOk i
  | .ppsInEdge _ => true
  | .ppsOut => true
  | .referenceUpdate _ _ _ => true
  | .mediaPositionSet _ => true
  | .masterModeEntry => true
  | .mcrLock => true
  | .lockLost => true
  | .referenceLoss => true
  | .failover => true
  | .windowMove _ => true
  | .slewComplete => true
  | .stepRampDown => true
  | .mcrStep => true
  | .xoLoss => true
  | .serdesPllLock lane => decide (lane < 4)
  | .serdesUnlock lane => decide (lane < 4)
  | .synUnlock => true
  | .relock _ => true
  | .synRelock => true
  | .relockRampDownEnd => true
  | .mpllLock => true
  | .counterCheckEnd _ => true
  | .relockTimeout => true
  | .fenceSwitchBack => true
  | .relockEnd _ => true
  | .mdioCommand _ => true
  | .mdioDone _ => true
  | .phyPoll p _ => portOk p
  | .retrain p _ => portOk p
  | .reverify p _ => portOk p
  | .holdEnd p _ => portOk p
  | .retrainFail p => portOk p
  | .linkUp p => portOk p
  | .linkDown p => portOk p
  | .verifySend p => portOk p
  | .verifyResponse p => portOk p
  | .frameTxStart p _ _ _ => portOk p
  | .preemption p _ _ => portOk p
  | .frameTxEnd x => portOk x.port
  | .frameRx p _ => portOk p
  | .pauseRx p _ => portOk p
  | .pfcRx p _ _ => portOk p
  | .pauseExpiry p k _ => portOk p && decide (k < 8)
  | .pauseBroken p => portOk p
  | .pauseHoldExpiry p => portOk p
  | .stxStopAll _ => true
  | .groupTimeout g => decide (1 ≤ g ∧ g ≤ 16)
  | .srxStopAll _ => true
  | .srxStopEnd c => ctxOk c
  | .windowReset c => ctxOk c
  | .pathLoss c p => portOk p && ctxOk c
  | .pathHealthy c p => portOk p && ctxOk c
  | .utilisationSecond => true
  | .downshift => true
  | .dsNow p _ => portOk p
  | .clrHold _ => true
  | .reservationUpshift p => portOk p
  | .mailboxAppend n _ => mboxOk n
  | .mailboxAppendEnd n _ => mboxOk n
  | .mailboxTake n _ => mboxOk n
  | .flush n _ => sidingOk n
  | .flushProducer n => sidingOk n
  | .doorbellPi p _ => ringOk p
  | .doorbellCci p _ => ringOk p
  | .ringEnable p _ _ => ringOk p
  | .ringDisable p _ => ringOk p
  | .restart p _ => ringOk p
  | .descriptorFetch p _ => ringOk p
  | .descErr p x => ringOk p && decide (1 ≤ x.cause ∧ x.cause ≤ 4)
  | .dmaErr p _ x => ringOk p && decide (1 ≤ x.cause ∧ x.cause ≤ 4)
  | .completionWrite p _ => ringOk p
  | .ringIrqTimer p => ringOk p
  | .nop => true
  | .cmdStxStart => true
  | .cmdStxStop => true
  | .cmdSrxStart => true
  | .cmdSrxStop => true
  | .audStart => true
  | .audStop => true
  | .strobe => true
  | .ttLoad => true
  | .tblWrite => true
  | .tblRead => true
  | .waitPos => true
  | .selftest => true
  | .badcmd => true
  | .commandAtPos => true
  | .selftestEnd _ _ => true
  | .hostFrameWrite => true
  | .rngRxdrop => true
  | .feedBlockRead p => ringOk p
  | .hostReset _ => true
  | .msixEnable _ => true
  | .interruptDisable _ => true
  | .maskWrite k _ => decide (k < 3)
  | .thermal _ => true
  | .overtemp _ => true
  | .overtempRelease _ _ => true
  | .mgtWatchdog => true
  | .engineWindowEnd e => engOk e
  | .mixCopy _ => true
  | .mixCopyEnd => true
  | .slGo _ _ => true
  | .safeLoadApply => true
  | .deferredCrossfadeStart _ => true
  | .crossfadeEnd _ => true
  | .engClear e _ => engOk e
  | .dclr e _ => engOk e
  | .windowZeroEnd e => engOk e
  | .engSlGo e _ _ => engOk e
  | .engCopy e _ => engOk e
  | .lmDataWrite e _ _ => engOk e
  | .lmDataRead e _ => engOk e
  | .poolDataArrival e => engOk e
  | .sapCtlStart p _ => sapOk p
  | .sapCtlStop p _ => sapOk p
  | .sapCtlRestart p _ => sapOk p
  | .sapRatechg p c => sapOk p && decide (c < 10)
  | .sapRateUpdate p _ => sapOk p
  | .sapClkloss p _ => sapOk p
  | .sapClockReturn p => sapOk p
  | .framingError p => sapOk p
  | .sapResume p => sapOk p
  | .sapStopEnd p => sapOk p
  | .sapRampUpEnd p => sapOk p
  | .trackerLock p _ => sapOk p
  | .asrcUnlock p => sapOk p
  | .asrcRange p => sapOk p
  | .asrcFadeIn n => decide (n < 256)
  | .pwrWctlArm c _ => chOk c
  | .pwrWctlStop c _ => chOk c
  | .retryNow c _ => chOk c
  | .diagEnd c _ _ => chOk c
  | .cmRampEnd c => chOk c
  | .runEntry c => chOk c
  | .audioRampDownEnd c => chOk c
  | .cmRampDownEnd c => chOk c
  | .pwrOc c => chOk c
  | .pwrRetry c => chOk c
  | .retrySuccess c => chOk c
  | .pwrTherm c _ => chOk c
  | .pwrPvdd _ => true
  | .pvddRestore _ => true
  | .battMute c _ => chOk c
  | .battUnmute c _ => chOk c
  | .idleEntry c => chOk c
  | .pwrModel c k => chOk c && decide (k < 4)
  | .linkTransferFail => true
  | .powerDieSelfProtect => true
  | .regpar _ => true
  | .enter _ => true
  | .pairModeEntry => true
  | .release _ => true
  | .report _ => true
  | .refresh _ => true
  | .undark _ => true
  | .mirrorBlockRx _ _ _ => true
  | .statusBlockRx _ _ _ => true
  | .blockRepeat _ => true
  | .mirrorSetApply => true
  | .heartbeatLoss => true
  | .grant _ _ _ => true
  | .grantAdopt => true
  | .driveStart => true
  | .selfFence => true
  | .releaseRx _ _ => true
  | .powerOn _ => true
  | .firmwareReady _ => true
  | .resetN _ _ => true
  | .perstNRelease => true
  | .vioFall b => decide (b < 2)
  | .sleepEnter _ => true
  | .wake _ _ => true
  | .mgtDbell _ => true
  | .getVersion => true
  | .flashRead _ => true
  | .flashWrite _ _ => true
  | .flashErase _ _ => true
  | .role => true
  | .reboot => true
  | .msWrite _ _ _ => true
  | .msRead _ _ => true
  | .scrubError _ _ => true
  | .xoReturn _ => true
  | .engCopyEnd e => engOk e
  | .thermalFoldback c _ => chOk c
  | .batteryLimit c _ => chOk c
  | .ppsOutPulseEnd => true
  | .pathDelayReqTx i p => portOk p && instOk i
  | .vioRecovery b _ => decide (b < 2)
  | .vinInvalid k => decide (k < 3)
  | .resetNRelease _ => true
  | .dataReadReturn p _ _ => ringOk p
  | .pcieLinkUp _ _ => true
  | .ecrcErr => true
  | .pairBlockLockLoss => true

end Sys2Proof
end

