-- ==== Sys2Proof/Tests/Slice0.lean ====
section
/-! SUPPORT. Tests: ill-formed commands are refused by the checks of well-formedness, a few single commands on small states, and
for every statement with hypotheses a state and operands that meet them. -/

open Sys2Proof Sys2Proof.Machine

namespace Sys2Proof.Tests

set_option Elab.async false

/-! ### Every check of `Instr.wf` refuses an ill-formed command -/

def anyWrite : RegWrite := { req := .pcie, view := .normal, data := 0 }
def anyInstant : Instant := { grains := 0, ns0 := 0, ns1 := 0 }
def shortAccess : Access := { req := .pcie, off := 0, len := 4, enables := [true], lo := 0, hi := 0 }

theorem test_wf_write_enables : Instr.wf (.registerWrite shortAccess) = false := by decide
theorem test_wf_read_enables : Instr.wf (.clearOnRead shortAccess anyInstant) = false := by decide
theorem test_wf_latch_enables : Instr.wf (.latchingRead shortAccess anyInstant) = false := by decide
theorem test_wf_grpmap : Instr.wf (.grpmapWrite 5 anyWrite) = false := by decide
theorem test_wf_sap : Instr.wf (.sapAdopt 8) = false := by decide
theorem test_wf_departure : Instr.wf (.arm 64 .pcie) = false := by decide
theorem test_wf_departure_word : Instr.wf (.departureWrite 0 6 anyWrite) = false := by decide
theorem test_wf_ptp_port : Instr.wf (.syncTx 0 2) = false := by decide
theorem test_wf_ptp_instance : Instr.wf (.timeSet 2 .pcie) = false := by decide
theorem test_wf_serdes_lane : Instr.wf (.serdesPllLock 4) = false := by decide
theorem test_wf_port : Instr.wf (.linkUp 2) = false := by decide
theorem test_wf_pause_queue : Instr.wf (.pauseExpiry 0 8 false) = false := by decide
theorem test_wf_group_low : Instr.wf (.groupTimeout 0) = false := by decide
theorem test_wf_group_high : Instr.wf (.groupTimeout 17) = false := by decide
theorem test_wf_context : Instr.wf (.srxStopEnd 128) = false := by decide
theorem test_wf_path : Instr.wf (.pathLoss 0 2) = false := by decide
theorem test_wf_mailbox_low : Instr.wf (.mailboxAppend 27 anyWrite) = false := by decide
theorem test_wf_mailbox_high : Instr.wf (.mailboxTake 32 ⟨.mgt, false, false⟩) = false := by decide
theorem test_wf_siding : Instr.wf (.flush 32 .pcie) = false := by decide
theorem test_wf_ring : Instr.wf (.doorbellPi 49 0) = false := by decide
theorem test_wf_fetch_cause : Instr.wf (.descErr 0 ⟨5, 4⟩) = false := by decide
theorem test_wf_read_cause : Instr.wf (.dmaErr 0 0 ⟨0, 0⟩) = false := by decide
theorem test_wf_event_mask : Instr.wf (.maskWrite 3 anyWrite) = false := by decide
theorem test_wf_engine : Instr.wf (.engClear 8 .pcie) = false := by decide
theorem test_wf_rate_channel : Instr.wf (.asrcFadeIn 256) = false := by decide
theorem test_wf_power_channel : Instr.wf (.pwrOc 2) = false := by decide
theorem test_wf_estimate : Instr.wf (.pwrModel 0 4) = false := by decide
theorem test_wf_vio_bank : Instr.wf (.vioFall 2) = false := by decide
theorem test_wf_supply : Instr.wf (.vinInvalid 3) = false := by decide

theorem test_wf_accepts : Instr.wf (.departureWrite 63 5 anyWrite) = true := by decide

/-! ### Single commands -/

/-- The state right after reset, from which every witness is a small step. -/
def w : State := State.reset

/-- A frame of 64 octets to the broadcast address with two tags (R107). -/
def rxTagged : RxFrame :=
  { bytes := (List.range 64).map (fun k => if k = 12 ∨ k = 16 then 0x81 else if k < 6 then 0xFF else 0), fcsOk := true,
    frags := [], verify := false, early := false, trimmed := none, poison := [], split := none, badTable := [],
    inst := { grains := 0, ns0 := 0, ns1 := 0 }, ns := 0,
    eccRec := false }

/-- The latched words of a context in group 15 (R156). -/
def grpWords : List Word := [0x000F4001]

/-- A part whose port 1 may move a rung down: both ports up, EN and downshifts allowed, hold count not yet reached. -/
def wDs : State :=
  { w with macA := { w.macA with up := true }, macB := { w.macB with up := true } }.setApplied 0x14000 0xDC

/-- A part ready to enter pair mode: role written, rate known, an address for its tablets, the link up (R347). -/
def wEnter : State :=
  { w with pair := { w.pair with reqEnter := true, link := true }, reg := { w.reg with roleDone := true },
           tt := { w.tt with rateOk := true } }.setApplied 0x10104 0x80000000

/-- A GRANT and a dark RELEASE (R360), written out octet by octet. -/
def tabGrant : List Byte :=
  [0x12, 0x01, 0, 0, 0, 0, 1, 0, 0, 0, 0, 0, 0, 0, 0, 0, 0, 0, 0, 0, 0, 0, 1, 0, 0, 0, 0, 1, 0, 0, 0, 0]
def tabDark : List Byte :=
  [0x14, 0x21, 0, 0, 0, 0, 1, 0, 0, 0, 0, 0, 0, 0, 0, 0, 0, 0, 0, 0, 0, 0, 1, 0, 0, 0, 0, 1, 0, 0, 0, 0]

/-- A MIRROR block without payload as block 11, and a STATUS block of zeros (R351). -/
def imlMirror : List Byte :=
  let b : List Byte := [1, 0, 0, 0, 0, 0, 0, 0, 0, 0, 0, 0, 0, 11, 0, 0]
  b ++ fcsBytes b
def imlStatus : List Byte :=
  let b : List Byte := [2, 0, 0, 32, 0, 0, 0, 0, 0, 0, 0, 0, 0, 0, 0, 0] ++ List.replicate 32 0
  b ++ fcsBytes b

/-- TIM_CFG resets to 0x3E8 (register table of the time engine). -/
theorem test_read_reset_word :
    (after (exec (.latchingRead (wordAccess .pcie 0x20000 0) anyInstant) w)).map (fun t => t.reply) = some (.value 0x3E8 0) := by
  decide +kernel

/-- A read that is not aligned answers an abort (R381). -/
theorem test_misaligned_read_aborts :
    (after (exec (.latchingRead (wordAccess .pcie 0x20002 0) anyInstant) w)).map (fun t => t.reply) = some .abort := by
  decide +kernel

/-- The set view of an RW register writes old or data, the clear view old and not data, the toggle view old xor data (R383). -/
theorem test_views_of_gpio_out :
    (after (exec (.registerWrite (wordAccess .pcie 0x103044 0x5)) (w.setRw 0x3044 0x3))).map (fun t => t.rwW 0x3044) = some 0x7 ∧
    (after (exec (.registerWrite (wordAccess .pcie 0x203044 0x5)) (w.setRw 0x3044 0x3))).map (fun t => t.rwW 0x3044) = some 0x2 ∧
    (after (exec (.registerWrite (wordAccess .pcie 0x303044 0x5)) (w.setRw 0x3044 0x3))).map (fun t => t.rwW 0x3044) = some 0x6 := by
  decide +kernel

/-- A counter that is read returns to zero and its high word waits in the shadow (R386, R387). -/
theorem test_counter_read_clears :
    (after (exec (.clearOnRead (wordAccess .mgt 0x10400 0) anyInstant) (w.setCounter 0x10400 0x200000003))).map
      (fun t => (t.reply, t.counter 0x10400, t.reg.mgt.shadow)) = some (.value 3 0, 0, [(0x10404, 2)]) := by
  decide +kernel

/-- PCI_SUBID takes one write; the second is LOCKED, cause 5 (R391). -/
theorem test_subid_takes_one_write :
    (after (exec (.pciSubidWrite { anyWrite with data := 0x1234 }) w)).map (fun t => t.rwW 0x7000) = some 0x1234 ∧
    (after (exec (.pciSubidWrite anyWrite) { w with reg := { w.reg with subidDone := true } })).map
      (fun t => (t.rwW 0x7000, fld (t.rcW 0x100C) 1 3)) = some (0x08801F5C, 5) := by
  decide +kernel

/-- A mailbox keeps items apart: two words and an end make one item of two words (R192). -/
theorem test_mailbox_item :
    (after (exec (.mailboxAppendEnd 28 { anyWrite with data := 7 }) (w.setMbox 28 { mboxReset 28 with writing := [9] }))).map
      (fun t => (t.mboxOf 28).items) = some [[9, 7]] := by
  decide +kernel

/-- The oldest command waiting runs first and the rest waits on. -/
theorem test_step_takes_front :
    (after (step { w with pending := [.sleepEnter .pcie, .mcrLock] })).map (fun t => (t.pmu.sleepReq, t.pending))
      = some (true, [.mcrLock]) := by
  decide +kernel

/-- The table gives its rows no bits. -/
theorem test_no_word_spells_a_command : decodeTableWord 32 0 = none := by decide

/-! ### The hypotheses of every statement can be met -/

theorem witness_StepRunsFront : ∃ (s : State) (c : Instr) (rest : List Instr), s.pending = c :: rest :=
  ⟨{ w with pending := [.mcrLock] }, .mcrLock, [], rfl⟩

theorem witness_StepIdlesWithoutCommand : ∃ s : State, s.pending = [] := ⟨w, rfl⟩

theorem witness_StoresInvariant : ∃ s t : State, StoresOk s ∧ step s = .next t := by
  unfold StoresOk RegsOk
  exact ⟨{ w with pending := [.sleepEnter .pcie] }, _, by decide +kernel, rfl⟩

theorem witness_CommandFrame : ∃ (c : Instr) (s t : State), exec c s = .next t := ⟨.sleepEnter .pcie, w, _, rfl⟩

theorem witness_SapBoundaryRequestsAndAdoption_SapControlBitsHeld :
    (∃ (s : State) (p : Nat), Ready s ∧ p < numSap s.member) := by
  unfold Ready StoresOk RegsOk
  exact ⟨w, 7, by decide +kernel⟩

theorem witness_SapClocksAndRates_SapClockLossMutes :
    (∃ (s : State) (p : Nat) (cause : Nat), Ready s ∧ p < numSap s.member ∧ s.sapMaster p = false ∧ sEn (s.sapCfg p) =
        true ∧ (s.sapOf p).clkOk = true ∧ (s.sapOf p).window = false ∧ (s.sapOf p).st ≠ 7 ∧ (cause = 1 ∨ cause = 2) ∧
        s.counter (sapCtr p 1) + 1 < ctrMax) := by
  unfold Ready StoresOk RegsOk
  exact ⟨(w.setInForce (sapBase 7) 0x20000).setSap 7
      { sapReset 7 with fmt := 0, clkOk := true, st := 3, rclass := 5 }, 7, 2, by decide +kernel⟩

theorem witness_SapClocksAndRates_SapRateAndClockReturn :
    (∃ (s : State) (p : Nat) (cls : Nat), Ready s ∧ p < numSap s.member ∧ sEn (s.sapCfg p) = true ∧ cls ≤ 9 ∧ (s.sapOf
        p).rclass ≠ cls ∧ s.counter 0x74A08 + 1 < ctrMax) ∧
    (∃ (s : State) (p : Nat) (rate : Nat), Ready s ∧ p < numSap s.member ∧ sEn (s.sapCfg p) = true ∧ rate < 2 ^ 25) ∧
    (∃ (s : State) (p : Nat), Ready s ∧ p < numSap s.member ∧ s.sapMaster p = false ∧ (s.sapOf p).clkOk = false ∧
        (s.sapOf p).st = 5 ∧ (s.sapOf p).wasStarted = true ∧ (((s.sapOf p).loss = 3 → (s.sapOf p).rclass = houseClass
        s.syn.rate))) := by
  unfold Ready StoresOk RegsOk
  refine ⟨⟨w.setInForce (sapBase 7) 0x20000, 7, 9, ?_⟩, ⟨w.setInForce (sapBase 0) 0x20000, 0, 1234567, ?_⟩, ⟨w.setSap
      7 { sapReset 7 with fmt := 0, st := 5, wasStarted := true, loss := 3, rclass := 5 }, 7, ?_⟩⟩ <;> decide +kernel

theorem witness_SapSlipAndRecovery :
    (∃ (s : State) (p : Nat), Ready s ∧ p < numSap s.member ∧ (s.sapOf p).st = 3 ∧ (s.sapOf p).window = false ∧ sGroup
        (s.sapCfg p) = 0 ∧ sAuto (s.sapCfg p) = false ∧ s.counter (sapCtr p 0) + 1 < ctrMax) ∧
    (∃ (s : State) (p : Nat), Ready s ∧ p < numSap s.member ∧ (s.sapOf p).st = 6 ∧ (s.sapOf p).resumeDue = true ∧
        sGroup (s.sapCfg p) = 0) ∧
    (∃ (s : State) (p : Nat), Ready s ∧ p < numSap s.member ∧ (s.sapOf p).st = 4 ∧ (s.sapOf p).inRamp.atRest = true ∧
        (s.sapOf p).outDue = none ∧ (s.sapOf p).outDone = true) ∧
    (∃ (s : State) (p : Nat), Ready s ∧ p < numSap s.member ∧ (s.sapOf p).window = true ∧ (s.sapOf p).winRamp = true ∧
        (s.sapOf p).st = 3 ∧ (s.sapOf p).starting = false ∧ (s.sapOf p).inRamp.atRest = true) := by
  unfold Ready StoresOk RegsOk
  refine ⟨⟨(w.setInForce (sapBase 7) 0x20000).setSap 7 { sapReset 7 with st := 3, clkOk := true }, 7, ?_⟩,
      ⟨(w.setInForce (sapBase 7) 0x20000).setSap 7 { sapReset 7 with st := 6, resumeDue := true }, 7, ?_⟩, ⟨w.setSap 7
      { sapReset 7 with st := 4 }, 7, ?_⟩, ⟨w.setSap 7 { sapReset 7 with st := 3, window := true, winRamp := true },
      7, ?_⟩⟩ <;> decide +kernel

theorem witness_SapBoundaryRequestsAndAdoption_SapAdoptsAppliedWords :
    (∃ (s : State) (p : Nat), Ready s ∧ p < numSap s.member) := by
  unfold Ready StoresOk RegsOk
  exact ⟨w.setApplied (sapBase 7) 0x20123, 7, by decide +kernel⟩

theorem witness_RateTrackerStates :
    (∃ (s : State) (p : Nat) (ratio : Nat), Ready s ∧ p < numTracker s.member ∧ ((s.trkOf p).st = 1 ∨ (s.trkOf p).st =
        3) ∧ s.trkValid p ratio = true) ∧
    (∃ (s : State) (p : Nat), Ready s ∧ p < numTracker s.member ∧ 0 < numAsrc s.member ∧ (s.trkOf p).st = 2 ∧
        s.counter 0x74A08 + 1 < ctrMax) ∧
    (∃ (s : State) (p : Nat), Ready s ∧ p < numTracker s.member ∧ 0 < numAsrc s.member ∧ ((s.trkOf p).st = 1 ∨
        (s.trkOf p).st = 2)) ∧
    (∃ (s : State) (n : Nat), Ready s ∧ (s.chOf n).admitted = true ∧ (s.chOf n).st = 1 ∧ (s.trkOf (aPort (s.chOf
        n).cfg)).st = 2 ∧ s.asleep n = false) := by
  unfold Ready StoresOk RegsOk
  refine ⟨⟨((w.setInForce (sapBase 7) 0x20000).setSap 7 { sapReset 7 with clkOk := true, rclass := 3 }).setTrk 7
      { st := 1, ratio := 0 }, 7, 2^30, ?_⟩, ⟨w.setTrk 7 { st := 2, ratio := 5 }, 7, ?_⟩, ⟨w.setTrk 7
      { st := 2, ratio := 5 }, 7, ?_⟩, ⟨(((w.setTrk 0 { st := 2, ratio := 5 }).setCh 255
      { asrcReset 255 with admitted := true, st := 1 }).setApplied (0x74100 + 8 * 255) 3).setSap 0
      { sapReset 0 with fmt := 0, st := 3 }, 255, ?_⟩⟩ <;> decide +kernel

theorem witness_StagedWriteWaits :
    (∃ (s : State) (a : Nat) (b : Nat) (r : RegRow), Ready s ∧ a < 0x100000 ∧ a % 4 = 0 ∧ s.present a = some r ∧
        blockAt a = some b ∧ r.rs ≠ 0 ∧ r.rw = 0 ∧ r.wo = 0 ∧ r.lk = 0 ∧ r.port = false ∧ s.groupLocked b = false) ∧
    (∃ (s : State) (a : Nat) (b : Nat) (r : RegRow), Ready s ∧ a < 0x100000 ∧ a % 4 = 0 ∧ s.present a = some r ∧
        blockAt a = some b ∧ r.rs ≠ 0 ∧ r.rw = 0 ∧ r.wo = 0 ∧ r.lk = 0 ∧ r.port = false ∧ s.groupLocked b = true) := by
  unfold Ready StoresOk RegsOk
  refine ⟨⟨w, 0x20000, bTIM, ((w).present 0x20000).get (by decide +kernel), ?_⟩,
      ⟨{ w with reg := { w.reg with lock := 0x3FFFF } }, 0x20000, bTIM,
      (({ w with reg := { w.reg with lock := 0x3FFFF } }).present 0x20000).get (by decide +kernel), ?_⟩⟩ <;> decide
      +kernel

theorem witness_BusErrorsCaptured :
    (∃ (s : State) (x : Access), Ready s ∧ x.bar = .regs ∧ legalAccess x = false) ∧
    (∃ (s : State) (x : Access), Ready s ∧ x.bar = .regs ∧ legalAccess x = false) ∧
    (∃ (s : State) (q : Req), Ready s ∧ s.tFault (s.requester q).indAddr.toNat = some 6) ∧
    (∃ (s : State) (q : Req) (r : RegRow), Ready s ∧ s.tFault (s.requester q).indAddr.toNat = none ∧ rowT (s.requester
        q).indAddr.toNat = some r ∧ (s.requester q).indAddr.toNat / 0x1000000 < 7 ∧ s.groupLocked (tableBlock
        (s.requester q).indAddr.toNat) = true) ∧
    (∃ s : State, Ready s ∧ s.reg.subidDone = true) := by
  unfold Ready StoresOk RegsOk
  refine ⟨⟨w, { wordAccess .pcie 0x20002 0 with len := 4 }, ?_⟩, ⟨w.setRc 0x100C 1,
      { wordAccess .pcie 0x20002 0 with len := 4 }, ?_⟩, ⟨w, Req.mgt, ?_⟩,
      ⟨{ w with reg := { w.reg with lock := 0x3FFFF, pcie := { w.reg.pcie with indAddr := 0x2000000 } } }, Req.pcie,
      (rowT
      (({ w with reg := { w.reg with lock := 0x3FFFF, pcie := { w.reg.pcie with indAddr := 0x2000000 } } }).requester
      Req.pcie).indAddr.toNat).get (by decide +kernel), ?_⟩, ⟨{ w with reg := { w.reg with subidDone := true } }, ?_⟩⟩
      <;> decide +kernel

theorem witness_ReadsClearAndLatch :
    (∃ (s : State) (a : Nat) (r : RegRow), Ready s ∧ a < 0x100000 ∧ a % 4 = 0 ∧ s.present a = some r ∧ r.port = false
        ∧ isPartner a = false ∧ r.ctr = true) ∧
    (∃ (s : State) (a : Nat) (r : RegRow), Ready s ∧ a < 0x100000 ∧ a % 4 = 0 ∧ s.present a = some r ∧ r.port = false
        ∧ isPartner a = false ∧ r.ctr = false ∧ r.rc ≠ 0 ∧ latched r a = []) ∧
    (∃ (s : State) (a : Nat) (r : RegRow), Ready s ∧ a < 0x100000 ∧ a % 4 = 0 ∧ s.present a = some r ∧ r.port = false
        ∧ isPartner a = false ∧ r.ctr = false ∧ r.rc = 0) := by
  unfold Ready StoresOk RegsOk
  refine ⟨⟨w.setCounter 0x10400 0x200000003, 0x10400, ((w.setCounter 0x10400 0x200000003).present 0x10400).get (by
      decide +kernel), ?_⟩, ⟨w.setRc 0x2000 5, 0x2000, ((w.setRc 0x2000 5).present 0x2000).get (by decide +kernel),
      ?_⟩, ⟨w, 0x20010, ((w).present 0x20010).get (by decide +kernel), ?_⟩⟩ <;> decide +kernel

theorem witness_StrobeTakesSnapshots :
    (∃ (s : State) (v : View), Ready s ∧ (v = .normal ∨ v = .set)) := by
  unfold Ready StoresOk RegsOk
  exact ⟨w, View.normal, by decide +kernel⟩

theorem witness_AliasesRefusedAndImmediateWords_AliasWritesRefused :
    (∃ (s : State) (v : View), Ready s ∧ (v = .clear ∨ v = .toggle)) ∧
    (∃ (s : State) (v : View), Ready s ∧ (v = .clear ∨ v = .toggle)) := by
  unfold Ready StoresOk RegsOk
  refine ⟨⟨w, View.clear, ?_⟩, ⟨w, View.toggle, ?_⟩⟩ <;> decide +kernel

theorem witness_AliasesRefusedAndImmediateWords_RcuWordsAtOnce :
    (∃ (s : State) (n : Nat) (x : RegWrite), let a := 0x1020 + 4 * n
          let w := merge (s.rwW a) (toWord (if n = 4 then 0xFFFFFF else 0xFFFFFFFF) &&& ~~~(s.lacking a)) (viewBits
        x.view (s.rwW a) x.data)
          Ready s ∧ n < 5 ∧ s.wordLocked a w = false) ∧
    (∃ s : State, Ready s ∧ s.reg.lock.getLsbD 17 = false) ∧
    (∃ (s : State) (k : Nat), Ready s ∧ k < 3) := by
  unfold Ready StoresOk RegsOk
  refine ⟨⟨w, 4, ({ req := .pcie, view := .normal, data := 0xFFFFFFFF } : RegWrite), ?_⟩,
      ⟨{ w with reg := { w.reg with crc := { w.reg.crc with held := true } } }, ?_⟩, ⟨w.setRc 0x2008 0xF0, 2, ?_⟩⟩ <;>
      decide +kernel

theorem witness_IndirectAccess :
    (∃ (s : State) (q : Req) (r : RegRow), let a := (s.requester q).indAddr.toNat
          Ready s ∧ s.tFault a = none ∧ rowT a = some r ∧ a / 0x1000000 < 7 ∧ s.groupLocked (tableBlock a) = false ∧
        s.inMode1 a = false ∧ s.inMode2 a = false) ∧
    (∃ (s : State) (q : Req) (r : RegRow), let a := (s.requester q).indAddr.toNat
          Ready s ∧ s.tFault a = none ∧ rowT a = some r ∧ a / 0x1000000 < 7) := by
  unfold Ready StoresOk RegsOk
  refine ⟨⟨{ w with reg := { w.reg with mgt := { w.reg.mgt with indAddr := 0x2000000 } } }, Req.mgt, (rowT
      (({ w with reg := { w.reg with mgt := { w.reg.mgt with indAddr := 0x2000000 } } }).requester
      Req.mgt).indAddr.toNat).get (by decide +kernel), ?_⟩,
      ⟨{ w with reg := { w.reg with mgt := { w.reg.mgt with indAddr := 0x1000000, viewApplied := true } } }, Req.mgt,
      (rowT
      (({ w with reg := { w.reg with mgt := { w.reg.mgt with indAddr := 0x1000000, viewApplied := true } } }).requester
      Req.mgt).indAddr.toNat).get (by decide +kernel), ?_⟩⟩ <;> decide +kernel

theorem witness_WriteOnceAndSetOnly :
    (∃ s : State, Ready s ∧ hasPair s.member = true ∧ s.reg.roleDone = false) ∧
    (∃ s : State, Ready s ∧ hasPair s.member = true ∧ s.reg.roleDone = true) ∧
    (∃ s : State, Ready s ∧ s.reg.subidDone = false) ∧
    (∃ s : State, Ready s ∧ s.reg.subidDone = true) ∧
    (∃ (s : State) (v : View), Ready s ∧ (v = .normal ∨ v = .set)) ∧
    (∃ (s : State) (v : View), Ready s ∧ (v = .clear ∨ v = .toggle)) := by
  unfold Ready StoresOk RegsOk
  refine ⟨⟨w, ?_⟩, ⟨{ w with reg := { w.reg with roleDone := true, subidDone := true } }, ?_⟩, ⟨w, ?_⟩,
      ⟨{ w with reg := { w.reg with roleDone := true, subidDone := true } }, ?_⟩, ⟨w, View.set, ?_⟩, ⟨w, View.clear,
      ?_⟩⟩ <;> decide +kernel

theorem witness_HardStopResetsAndCrcPasses_HardStopUnitResets :
    (∃ (s : State) (v : View) (d : Word), Ready s ∧ (v = .normal ∨ v = .set) ∧ s.reg.hstop.getLsbD (fld d 0 5) = true
        ∧ fld d 0 5 ∉ s.reg.brst) ∧
    (∃ (s : State) (v : View) (d : Word), Ready s ∧ (v = .normal ∨ v = .set) ∧ s.reg.hstop.getLsbD (fld d 0 5) =
        false) ∧
    (∃ s : State, Ready s) := by
  unfold Ready StoresOk RegsOk
  refine ⟨⟨{ w with reg := { w.reg with hstop := 0x800000 } }, View.normal, (23 : Word), ?_⟩,
      ⟨{ w with reg := { w.reg with hstop := 0x800000 } }, View.set, (22 : Word), ?_⟩,
      ⟨{ w with reg := { w.reg with hstop := 0xFFFFFF, brst := [0,1,2,3,4,5,6,8,9,15,16,23] } }, ?_⟩⟩ <;> decide
      +kernel

theorem witness_HardStopResetsAndCrcPasses_CrcPassEnds :
    (∃ s : State, Ready s ∧ s.reg.crc.passOn = true ∧ s.reg.crc.passCounts = false) ∧
    (∃ s : State, Ready s ∧ s.reg.crc.passOn = true ∧ s.reg.crc.passCounts = true ∧ s.reg.crc.fresh = true) := by
  unfold Ready StoresOk RegsOk
  refine ⟨⟨{ w with reg := { w.reg with crc := { crcReset with passOn := true } } }, ?_⟩,
      ⟨{ w with reg := { w.reg with crc := { crcReset with passOn := true, passCounts := true } } }, ?_⟩⟩ <;> decide
      +kernel

theorem witness_TickAdvancesMediaTime :
    (∃ s : State, s.down = false ∧ s.pmu.overheat = false ∧ s.pmu.wakePend = none) ∧
    (∃ s : State, s.down = true) := by
  refine ⟨⟨w, ?_⟩, ⟨{ w with pmu := { w.pmu with asleep := 2 } }, ?_⟩⟩ <;> decide +kernel

theorem witness_AdoptionAndSnapshots_LaggingAdoption :
    (∃ s : State, Ready s ∧ hasPower s.member = true ∧ s.pwr.linkHstop = false) ∧
    (∃ (s : State) (c : Nat), Ready s ∧ s.tt.tickNext = some c ∧ s.tt.now % 32 = 0 ∧ s.tickBusy = false) ∧
    (∃ (s : State) (c : Nat), Ready s ∧ s.tt.tickNext = some c ∧ s.tt.now % 32 = 0 ∧ s.tickBusy = true) ∧
    (∃ (s : State) (c : Nat), Ready s ∧ s.tt.tickNext = some c ∧ s.tt.now % 32 ≠ 0) := by
  unfold Ready StoresOk RegsOk
  refine ⟨⟨w.setApplied 0x7000000 0, ?_⟩, ⟨{ w with tt := { w.tt with now := 32, tickNext := some 2 } }, 2, ?_⟩,
      ⟨{ w with tt := { w.tt with now := 32, tickNext := some 2 } }.setInForce (sapBase 7) 0x20000, 2, ?_⟩,
      ⟨{ w with tt := { w.tt with now := 16, tickNext := some 2 } }, 2, ?_⟩⟩ <;> decide +kernel

theorem witness_DeparturesWrittenAndArmed :
    (∃ (s : State) (d : Nat) (n : Nat) (r : RegRow), Ready s ∧ d < 64 ∧ s.shadowed = false ∧ n < 6 ∧ rowAt (depBase d
        + 4 * n) = some r ∧ s.isArmed d = false) ∧
    (∃ (s : State) (d : Nat) (n : Nat), Ready s ∧ d < 64 ∧ s.shadowed = false ∧ n < 6 ∧ s.isArmed d = true) ∧
    (∃ (s : State) (d : Nat), Ready s ∧ d < 64 ∧ s.shadowed = false ∧ s.isArmed d = false ∧ s.armCause d = 0) ∧
    (∃ (s : State) (d : Nat), Ready s ∧ d < 64 ∧ s.shadowed = false ∧ s.isArmed d = false ∧ s.armCause d ≠ 0) := by
  unfold Ready StoresOk RegsOk
  refine ⟨⟨{ w with tt := { w.tt with rateOk := true } }, 63, 5, (rowAt (depBase 63 + 4 * 5)).get (by decide +kernel),
      ?_⟩, ⟨{ w with tt := { w.tt with armed := 0x8000000000000000 } }, 63, 0, ?_⟩,
      ⟨{ w with tt := { w.tt with rateOk := true } }, 63, ?_⟩,
      ⟨{ w with tt := { w.tt with armed := 0x8000000000000000 } }, 0, ?_⟩⟩ <;> decide +kernel

theorem witness_DueDeparturesTaken :
    (∃ (s : State) (d : Nat), Ready s ∧ d < 64 ∧ s.isArmed d = true ∧ s.depInterval d = 0 ∧ s.depPos d / s.T <
        s.tt.now / s.T) ∧
    (∃ (s : State) (d : Nat), Ready s ∧ d < 64 ∧ s.isArmed d = true ∧ s.depInterval d = 0 ∧ s.depIrq d = true) ∧
    (∃ (s : State) (d : Nat), Ready s ∧ d < 64 ∧ s.isArmed d = true ∧ s.depInterval d ≠ 0 ∧ s.depPos d / s.T ≤
        s.tt.now / s.T ∧ s.depPos d + ((s.tt.now / s.T - s.depPos d / s.T) / s.depInterval d + 1) * s.depInterval d *
        s.T < 2 ^ 64) := by
  unfold Ready StoresOk RegsOk
  refine ⟨⟨({ w with tt := { w.tt with armed := 0x8000000000000000, now := 64 } }).setRw (depBase 63 + 8) 0x100, 63,
      ?_⟩, ⟨({ w with tt := { w.tt with armed := 0x8000000000000000, now := 64 } }).setRw (depBase 63 + 8) 0x100, 63,
      ?_⟩, ⟨({ w with tt := { w.tt with armed := 0x8000000000000000, now := 64 } }).setRw (depBase 63 + 0x14) 3, 63,
      ?_⟩⟩ <;> decide +kernel

theorem witness_AdoptionAndSnapshots_SnapshotWordsApply :
    (∃ (s : State) (x : Snapshot) (b : Nat), Ready s ∧ swf resetWord x.words = true ∧ b ≠ bMACA ∧ b ≠ bMACB ∧ (∀ r ∈
        adoptRows, ∀ a ∈ r.addrs, ofBlock b a = false)) := by
  unfold Ready StoresOk RegsOk
  exact ⟨w, ({ group := 0, blocks := [bTIM], words := [(0x20000, 7)] } : Snapshot), bTT, by decide +kernel⟩

theorem witness_PtpMessages_PtpMessagesSent :
    (∃ (s : State) (i : Nat) (p : Nat), s.down = false ∧ i < 2 ∧ p < numPorts s.member ∧ (s.mac p).up = true ∧
        s.isMaster i p = true) ∧
    (∃ (s : State) (i : Nat) (p : Nat), s.down = false ∧ i < 2 ∧ p < numPorts s.member ∧ (s.mac p).up = true ∧
        s.isMaster i p = true) ∧
    (∃ (s : State) (i : Nat) (p : Nat), s.down = false ∧ i < 2 ∧ p < numPorts s.member ∧ (s.mac p).up = true ∧
        instEnabled (s.icfg i) = true ∧ s.bound i p = true ∧ profileF (s.icfg i) ≠ 1) ∧
    (∃ (s : State) (i : Nat) (p : Nat), s.down = false ∧ i < 2 ∧ p < numPorts s.member ∧ (s.mac p).up = true ∧
        instEnabled (s.icfg i) = true ∧ s.bound i p = true ∧ profileF (s.icfg i) = 1 ∧ s.portState i p = 3) := by
  refine ⟨⟨((({ w with macB := { w.macB with up := true } }).setApplied (icfgAddr 1) 0xD000E1).setInst 1
      { ptpReset with stateB := 2 }), 1, 1, ?_⟩, ⟨((({ w with macB := { w.macB with up := true } }).setApplied
      (icfgAddr 1) 0xD000E1).setInst 1 { ptpReset with stateB := 2 }), 1, 1, ?_⟩,
      ⟨((({ w with macB := { w.macB with up := true } }).setApplied (icfgAddr 1) 0xD000E1).setInst 1
      { ptpReset with stateB := 2 }), 1, 1, ?_⟩, ⟨(({ w with macA := { w.macA with up := true } }).setApplied
      (icfgAddr 0) 0xD00063).setInst 0 { ptpReset with stateA := 3 }, 0, 0, ?_⟩⟩ <;> decide +kernel

theorem witness_PtpMessages_PtpMessagesReceived :
    (∃ (s : State) (p : Nat) (i : Nat) (x : PtpRx) (t1 : Int) (r : Int), Ready s ∧ i < 2 ∧ p < numPorts s.member ∧
        (s.mac p).up = true ∧ (s.mac p).sleep = false ∧ instEnabled (s.icfg i) = true ∧ s.bound i p = true ∧ x.poison
        = 0 ∧ x.transport = transportF (s.icfg i) ∧ x.domain = domainF (s.icfg i) ∧ s.portState i p = 3 ∧ x.msg =
        .sync (some t1) r) ∧
    (∃ (s : State) (p : Nat) (i : Nat) (x : PtpRx) (r : Int), Ready s ∧ i < 2 ∧ p < numPorts s.member ∧ (s.mac p).up =
        true ∧ (s.mac p).sleep = false ∧ instEnabled (s.icfg i) = true ∧ s.bound i p = true ∧ x.poison = 0 ∧
        x.transport = transportF (s.icfg i) ∧ x.domain = domainF (s.icfg i) ∧ s.portState i p = 3 ∧ x.msg = .sync none
        r) ∧
    (∃ (s : State) (p : Nat) (i : Nat) (x : PtpRx) (t1 : Int) (t2 : Int) (r : Int), Ready s ∧ i < 2 ∧ p < numPorts
        s.member ∧ (s.mac p).up = true ∧ (s.mac p).sleep = false ∧ instEnabled (s.icfg i) = true ∧ s.bound i p = true
        ∧ x.poison = 0 ∧ x.transport = transportF (s.icfg i) ∧ x.domain = domainF (s.icfg i) ∧ s.portState i p = 3 ∧
        (s.inst i).syncIn = some t2 ∧ x.msg = .followUp t1 r) ∧
    (∃ (s : State) (p : Nat) (i : Nat) (x : PtpRx) (b : Bmca), Ready s ∧ i < 2 ∧ p < numPorts s.member ∧ (s.mac p).up
        = true ∧ (s.mac p).sleep = false ∧ instEnabled (s.icfg i) = true ∧ s.bound i p = true ∧ x.poison = 0 ∧
        x.transport = transportF (s.icfg i) ∧ x.domain = domainF (s.icfg i) ∧ x.msg = .announce b) ∧
    (∃ (s : State) (p : Nat) (i : Nat) (x : PtpRx), Ready s ∧ i < 2 ∧ p < numPorts s.member ∧ (s.mac p).up = true ∧
        (s.mac p).sleep = false ∧ instEnabled (s.icfg i) = true ∧ s.bound i p = true ∧ x.poison = 0 ∧ x.transport =
        transportF (s.icfg i) ∧ x.domain = domainF (s.icfg i) ∧ profileF (s.icfg i) ≠ 1 ∧ x.msg = .delayReq) := by
  unfold Ready StoresOk RegsOk
  refine ⟨⟨((({ w with macB := { w.macB with up := true } }).setApplied (icfgAddr 1) 0xD000E1).setInst 1
      { ptpReset with stateB := 3, time := 5000000000 }), 1, 1,
      ({ transport := 0, domain := 0, msg := .sync (some 100) 3, inst := { grains := 5, ns0 := 100, ns1 := 70 }, poison := 0 }
      : PtpRx), (100:Int), (3:Int), ?_⟩, ⟨((({ w with macB := { w.macB with up := true } }).setApplied (icfgAddr 1)
      0xD000E1).setInst 1 { ptpReset with stateB := 3, time := 5000000000 }), 1, 1,
      ({ transport := 0, domain := 0, msg := .sync none 3, inst := { grains := 5, ns0 := 100, ns1 := 70 }, poison := 0 }
      : PtpRx), (3:Int), ?_⟩, ⟨((({ w with macB := { w.macB with up := true } }).setApplied (icfgAddr 1)
      0xD000E1).setInst 1 { ptpReset with stateB := 3, time := 5000000000, syncIn := some 20000000100 }), 1, 1,
      ({ transport := 0, domain := 0, msg := .followUp 20000000000 3, inst := { grains := 5, ns0 := 100, ns1 := 70 }, poison := 0 }
      : PtpRx), (20000000000:Int), (20000000100:Int), (3:Int), ?_⟩,
      ⟨((({ w with macB := { w.macB with up := true } }).setApplied (icfgAddr 1) 0xD000E1).setInst 1
      { ptpReset with stateB := 3, time := 5000000000 }), 1, 1,
      ({ transport := 0, domain := 0, msg := .announce ({ stateA := 1, stateB := 2, gmId := 77, gmSelf := true } : Bmca), inst := { grains := 5, ns0 := 100, ns1 := 70 }, poison := 0 }
      : PtpRx), ({ stateA := 1, stateB := 2, gmId := 77, gmSelf := true } : Bmca), ?_⟩,
      ⟨((({ w with macB := { w.macB with up := true } }).setApplied (icfgAddr 1) 0xD000E1).setInst 1
      { ptpReset with stateB := 3, time := 5000000000 }), 1, 1,
      ({ transport := 0, domain := 0, msg := .delayReq, inst := { grains := 5, ns0 := 100, ns1 := 70 }, poison := 0 }
      : PtpRx), ?_⟩⟩ <;> decide +kernel

theorem witness_ReceiptTimeouts :
    (∃ (s : State) (i : Nat), Ready s ∧ i < 2 ∧ (s.inst i).synced = true ∧ (s.mcrMode ≠ 0 ∨ s.mcr.inst ≠ i)) ∧
    (∃ (s : State) (i : Nat), Ready s ∧ i < 2 ∧ (s.inst i).synced = true ∧ s.mcrMode = 0 ∧ s.mcr.inst = i ∧
        s.mcr.state = .locked ∧ s.mcrFailover = false) ∧
    (∃ (s : State) (i : Nat) (b : Bmca), Ready s ∧ i < 2 ∧ (s.inst i).synced = true ∧ (s.mcrMode ≠ 0 ∨ s.mcr.inst ≠
        i)) := by
  unfold Ready StoresOk RegsOk
  refine ⟨⟨w.setInst 1 { ptpReset with synced := true }, 1, ?_⟩,
      ⟨({ w with mcr := { w.mcr with state := .locked } }.setInst 0 { ptpReset with synced := true }).setRw 0x24004
      0x404000, 0, ?_⟩, ⟨w.setInst 1 { ptpReset with synced := true }, 1,
      ({ stateA := 1, stateB := 2, gmId := 77, gmSelf := true } : Bmca), ?_⟩⟩ <;> decide +kernel

theorem witness_TimeSetAndPps :
    (∃ (s : State) (i : Nat), Ready s ∧ i < 2 ∧ ((s.inst i).gmSelf = true ∨ (s.bound i 0 = false ∧ s.bound i 1 =
        false))) ∧
    (∃ (s : State) (i : Nat), Ready s ∧ i < 2 ∧ (s.inst i).gmSelf = false ∧ (s.bound i 0 = true ∨ s.bound i 1 = true)) ∧
    (∃ s : State, Ready s) ∧
    (∃ s : State, let d := s.toSecond (s.appliedW 0x20040) (s.appliedW 0x20044)
          s.down = false ∧ s.tim.ppsOut = none ∧ bitAt (s.appliedW 0x20040) 0 = true ∧ d < s.tickNs) ∧
    (∃ (s : State) (a : Int), s.down = false ∧ s.tim.ppsOut = some a ∧ Int.ofNat (1000 * fld s.tim.ppsCfg 8 20) ≤ a +
        Int.ofNat s.tickNs) := by
  unfold Ready StoresOk RegsOk
  refine ⟨⟨w.setInst 0 { ptpReset with gmSelf := true }, 0, ?_⟩, ⟨w, 0, ?_⟩, ⟨(w.setInst 1
      { ptpReset with gmSelf := true, time := 700000000 }).setApplied (icfgAddr 1 + 4) 0x1000000, ?_⟩, ⟨w.setApplied
      0x20040 0x6401, ?_⟩, ⟨{ w with tim := { w.tim with ppsOut := some 100000000 } }, (100000000:Int), ?_⟩⟩ <;>
      decide +kernel

theorem witness_ServoStaysInItsWindow :
    (∃ (s : State) (need : Int) (u : RefUpd) (us : List RefUpd), s.down = false ∧ s.refUsable s.refContext s.refSlave
        = true ∧ s.mcr.state = .locked ∧ s.mcr.refOk = true ∧ s.mcr.late = false ∧ s.mcr.afterRelock = false ∧
        s.mcr.timeStep = false ∧ (s.mcr.freqTick - s.mcr.centre).natAbs ≤ ppm 500 ∧ s.mcrMode ≠ 5 ∧ s.mcr.updates = u
        :: us ∧ need.natAbs ≤ ppm 1000 ∧ ((s.mcrMode = 0 → (s.inst s.mcr.inst).synced = true))) ∧
    (∃ (s : State) (rate : Nat), s.down = false ∧ s.refUsable s.refContext s.refSlave = true ∧ s.mcr.state = .locked ∧
        s.mcr.refOk = true ∧ s.mcr.late = false ∧ s.mcr.afterRelock = false ∧ s.mcr.timeStep = false ∧ (s.mcr.freqTick
        - s.mcr.centre).natAbs ≤ ppm 500 ∧ (s.mcrMode = 3 ∨ s.mcrMode = 4) ∧ (s.edgeNeed rate).natAbs ≤ ppm 1000) := by
  refine
      ⟨⟨({ w with mcr := { w.mcr with state := .locked, refOk := true, updates := [{ src := 0, phase := 7000000 }] }, tt := { w.tt with rateOk := true } }.setInst
      0 { ptpReset with synced := true }), (0:Int), ({ src := 0, phase := 7000000 } : RefUpd), ([] : List RefUpd),
      ?_⟩,
      ⟨({ w with mcr := { w.mcr with state := .locked, refOk := true, updates := [{ src := 0, phase := 7000000 }] }, tt := { w.tt with rateOk := true } }.setInst
      0 { ptpReset with synced := true }).setApplied 0x24000 0x810003, 96000001, ?_⟩⟩ <;> decide +kernel

theorem witness_MediaPositionSetAndStepped_MediaPositionIsSet :
    (∃ (s : State) (need : Int) (u : RefUpd) (us : List RefUpd), s.down = false ∧ s.mcrMode ≠ 5 ∧ s.refUsable
        s.refContext s.refSlave = true ∧ s.mcr.updates = u :: us ∧ need.natAbs ≤ ppm 1000 ∧ ((s.mcrMode = 0 → (s.inst
        s.mcr.inst).synced = true)) ∧ s.mcr.state = .idle ∧ s.tt.rateOk = false ∧ s.qualN ≤ s.mcr.qual + 1) ∧
    (∃ s : State, s.down = false ∧ s.mcr.setDue = true ∧ s.mcr.state = .acquire) ∧
    (∃ s : State, Ready s ∧ s.mcr.masterDue = true ∧ s.mcr.state ≠ .relock) := by
  unfold Ready StoresOk RegsOk
  refine ⟨⟨({ w with mcr := { w.mcr with qual := 7, updates := [{ src := 0, phase := 7000000 }] } }.setInst 0
      { ptpReset with synced := true }), (0:Int), ({ src := 0, phase := 7000000 } : RefUpd), ([] : List RefUpd), ?_⟩,
      ⟨{ w with mcr := { w.mcr with setDue := true, state := .acquire } }.setInst 0
      { ptpReset with time := 12345678 }, ?_⟩, ⟨{ w with mcr := { w.mcr with masterDue := true } }.setInst 0
      { ptpReset with time := 12345678 }, ?_⟩⟩ <;> decide +kernel

theorem witness_McrStateChanges :
    (∃ s : State, Ready s ∧ s.mcr.state = .acquire ∧ s.mcr.refOk = true ∧ s.mcr.phase.natAbs < s.lockThr) ∧
    (∃ s : State, s.down = false ∧ s.mcr.state = .locked ∧ s.mcrMode ≠ 5 ∧ 4 * s.lockThr < s.mcr.phase.natAbs) ∧
    (∃ s : State, Ready s ∧ s.mcrMode ≠ 5 ∧ (s.mcr.state = .locked ∨ s.mcr.state = .acquire) ∧ ((s.mcrMode = 0 →
        (s.inst s.mcr.inst).synced = false ∧ (s.mcrFailover = false ∨ (s.inst (1 - s.mcr.inst)).synced = false))) ∧
        ((s.mcrMode ≠ 0 → s.mcr.refOk = true ∧ s.lossNs ≤ s.mcr.quiet + s.tickNs))) ∧
    (∃ s : State, s.down = false ∧ s.mcrMode = 0 ∧ (s.inst s.mcr.inst).synced = false ∧ s.mcrFailover = true ∧ (s.inst
        (1 - s.mcr.inst)).synced = true) ∧
    (∃ s : State, s.down = false ∧ s.mcr.failDue = true ∧ s.mcr.state ≠ .step ∧ s.mcr.upLeft = 0) ∧
    (∃ (s : State) (c : Int), s.down = false ∧ s.mcrMode ≠ 5 ∧ c.natAbs ≤ ppm 1000 ∧ ppm 500 < (c -
        s.mcr.centre).natAbs) ∧
    (∃ (s : State) (c : Int), Ready s ∧ s.mcrMode ≠ 5 ∧ s.mcr.state = .locked ∧ ppm 1000 < c.natAbs) ∧
    (∃ s : State, Ready s ∧ s.mcr.state = .slew ∧ s.mcr.resid = 0) := by
  unfold Ready StoresOk RegsOk
  refine ⟨⟨{ w with mcr := { w.mcr with state := .acquire, refOk := true, phase := 255 } }, ?_⟩,
      ⟨{ w with mcr := { w.mcr with state := .locked, phase := -1025 } }, ?_⟩,
      ⟨{ w with mcr := { w.mcr with state := .locked, mean := 9 } }, ?_⟩, ⟨w.setInst 1
      { ptpReset with synced := true }, ?_⟩, ⟨{ w with mcr := { w.mcr with failDue := true } }, ?_⟩, ⟨w, ppm 1000,
      ?_⟩, ⟨{ w with mcr := { w.mcr with state := .locked } }, ppm 1000+1, ?_⟩,
      ⟨{ w with mcr := { w.mcr with state := .slew } }, ?_⟩⟩ <;> decide +kernel

theorem witness_MediaPositionSetAndStepped_StepMovesMediaPosition :
    (∃ s : State, s.down = false ∧ s.mcr.stepDue = true ∧ s.mcr.state = .step) ∧
    (∃ s : State, Ready s ∧ s.mcr.ramping = true ∧ s.mcr.state = .step ∧ s.rampOver .step = true ∧ s.tt.armed = 0 ∧
        s.reg.snaps = [] ∧ s.cmd = none) := by
  unfold Ready StoresOk RegsOk
  refine ⟨⟨{ w with mcr := { w.mcr with stepDue := true, state := .step } }, ?_⟩,
      ⟨{ w with mcr := { w.mcr with ramping := true, state := .step, jump := 65537123456 } }, ?_⟩⟩ <;> decide +kernel

theorem witness_FencedRelockRuns_FencedRelockBegins :
    (∃ s : State, s.down = false) ∧
    (∃ s : State, s.down = false ∧ (if isFamA s.syn.rate then s.syn.mpllA else s.syn.mpllB) = true) ∧
    (∃ s : State, Ready s ∧ (s.syn.req = true ∨ s.syn.unlockReq = true) ∧ s.syn.rstep ≠ 2 ∧ s.syn.rstep ≠ 3) ∧
    (∃ s : State, s.down = false ∧ s.syn.req = true ∧ s.syn.unlockReq = false ∧ s.syn.rstep = 3 ∧ s.syn.rateChg =
        false ∧ s.targetRate = s.syn.rate) := by
  unfold Ready StoresOk RegsOk
  refine ⟨⟨w, ?_⟩, ⟨{ w with syn := { w.syn with mpllA := true, mpllB := true } }, ?_⟩,
      ⟨{ w with syn := { w.syn with unlockReq := true } }, ?_⟩,
      ⟨{ w with syn := { w.syn with req := true, rstep := 3, newCentre := some 77 } }, ?_⟩⟩ <;> decide +kernel

theorem witness_FencedRelockRuns_FencedRelockSteps :
    (∃ s : State, s.down = false ∧ s.syn.rstep = 2 ∧ s.rampOver .relock = true ∧ s.syn.rateChg = false ∧ s.targetRate
        = s.syn.rate) ∧
    (∃ s : State, s.down = false ∧ s.syn.rstep = 2 ∧ s.rampOver .relock = true ∧ s.syn.rateChg = true) ∧
    (∃ s : State, s.down = false) ∧
    (∃ (s : State) (n : Nat), s.down = false ∧ s.syn.rstep = 3 ∧ s.syn.counting = true ∧ countOk (isFamA s.syn.rate)
        s.mcr.freq n = true) ∧
    (∃ s : State, Ready s ∧ s.syn.rstep = 4) ∧
    (∃ s : State, Ready s ∧ s.syn.rstep = 5 ∧ s.rampsUp = true ∧ s.mcrMode ≠ 5 ∧ s.mcr.relJump = none) ∧
    (∃ s : State, Ready s ∧ s.syn.rstep = 5 ∧ s.rampsUp = true ∧ s.mcrMode = 5) := by
  unfold Ready StoresOk RegsOk
  refine ⟨⟨{ w with syn := { w.syn with rstep := 2 } }, ?_⟩,
      ⟨{ w with syn := { w.syn with rstep := 2, rateChg := true } }.setApplied 0x28000 0x10, ?_⟩, ⟨w, ?_⟩,
      ⟨{ w with syn := { w.syn with rstep := 3, counting := true } }, 98309, ?_⟩,
      ⟨{ w with syn := { w.syn with rstep := 4 } }, ?_⟩, ⟨{ w with syn := { w.syn with rstep := 5 } }, ?_⟩,
      ⟨{ w with syn := { w.syn with rstep := 5 } }.setApplied 0x24000 0x810005, ?_⟩⟩ <;> decide +kernel

theorem witness_FencedRelockFails :
    (∃ (s : State) (n : Nat), Ready s ∧ s.syn.rstep = 3 ∧ s.syn.counting = true ∧ countOk (isFamA s.syn.rate)
        s.mcr.freq n = false ∧ s.syn.tries < s.retries) ∧
    (∃ s : State, Ready s ∧ s.syn.rstep = 3 ∧ s.retries ≤ s.syn.tries) := by
  unfold Ready StoresOk RegsOk
  refine ⟨⟨{ w with syn := { w.syn with rstep := 3, counting := true, tries := 2 } }, 98310, ?_⟩,
      ⟨{ w with syn := { w.syn with rstep := 3, tries := 3 } }, ?_⟩⟩ <;> decide +kernel

theorem witness_LocksAndReferenceClock_SerdesLocks :
    (∃ (s : State) (l : Nat), s.held = false ∧ l < 4 ∧ s.serdesUsed l = true) ∧
    (∃ (s : State) (l : Nat), s.held = false ∧ l < 2 ∧ (if l = 0 then s.syn.serA else s.syn.serB) = true) ∧
    (∃ s : State, StoresOk s ∧ s.held = false ∧ s.syn.serA = true ∧ s.macA.up = false) := by
  unfold StoresOk RegsOk
  refine ⟨⟨w.setApplied 0x14000 0x5C, 1, ?_⟩, ⟨{ w with syn := { w.syn with serA := true, serB := true } }, 1, ?_⟩,
      ⟨{ w with syn := { w.syn with serA := true, serB := true } }, ?_⟩⟩ <;> decide +kernel

theorem witness_LocksAndReferenceClock_ReferenceClockLossResets :
    (∃ s : State, s.held = false ∧ s.syn.xoOk = true) ∧
    (∃ s : State, s.pmu.xoLost = true ∧ s.pmu.supply &&& 0x1F = 0x1F ∧ s.pmu.resetLow = false ∧ s.pmu.overheat = false
        ∧ s.pmu.por = false ∧ s.pmu.bistFail = false) := by
  refine ⟨⟨{ w with syn := { w.syn with xoOk := true } }.setRw 0x3014 4, ?_⟩,
      ⟨{ w with pmu := { w.pmu with xoLost := true, supply := 0x1F } }, ?_⟩⟩ <;> decide +kernel

theorem witness_DeviceResetCauses :
    (∃ s : State, s.pmu.supply &&& 0x7 ≠ 0x7) ∧
    (∃ (s : State) (k : Nat), k < 3) ∧
    (∃ (s : State) (us : Nat), s.pmu.resetLow = false ∧ 10 ≤ us) ∧
    (∃ (s : State) (us : Nat), us < 1) ∧
    (∃ s : State, s.pmu.resetLow = true ∧ s.pmu.supply &&& 0x1F = 0x1F ∧ s.pmu.xoLost = false ∧ s.pmu.overheat = false
        ∧ s.pmu.por = false ∧ s.pmu.bistFail = false) := by
  refine ⟨⟨{ w with pmu := { w.pmu with supply := 0x18 } }, ?_⟩, ⟨w, 1, ?_⟩,
      ⟨{ w with pmu := { w.pmu with asleep := 2 } }, 10, ?_⟩, ⟨w, 0, ?_⟩,
      ⟨{ w with pmu := { w.pmu with resetLow := true, supply := 0x1F } }, ?_⟩⟩ <;> decide +kernel

theorem witness_TemperatureLimits :
    (∃ (s : State) (d : Int), StoresOk s ∧ s.held = false ∧ 115 < d ∧ s.pmu.hot = false) ∧
    (∃ (s : State) (d : Int), s.held = false ∧ d < 110) ∧
    (∃ (s : State) (d : Int), s.held = false ∧ 135 < d ∧ s.pmu.overheat = false ∧ s.pmu.up = true ∧ s.pmu.asleep ≠ 2) ∧
    (∃ (s : State) (d : Int), s.pmu.overheat = true ∧ d < 110 ∧ s.pmu.up = true) := by
  unfold StoresOk RegsOk
  refine ⟨⟨w, (116:Int), ?_⟩, ⟨{ w with pmu := { w.pmu with hot := true } }, (109:Int), ?_⟩,
      ⟨{ w with pmu := { w.pmu with up := true, asleep := 1 } }, (136:Int), ?_⟩,
      ⟨{ w with pmu := { w.pmu with up := true, overheat := true } }, (109:Int), ?_⟩⟩ <;> decide +kernel

theorem witness_BanksSleepAndWake :
    (∃ (s : State) (b : Nat), StoresOk s ∧ b < 2 ∧ s.pmu.supply.getLsbD (3 + b) = true) ∧
    (∃ (s : State) (b : Nat), b < 2 ∧ s.pmu.supply.getLsbD (3 + b) = false) ∧
    (∃ s : State, s.down = false) ∧
    (∃ (s : State) (k : Nat), s.held = false ∧ s.pmu.asleep = 2 ∧ k < 16 ∧ bitAt (s.rwW 0x3014) 2 = true ∧ bitAt
        (s.rwW 0x304C) k = true) ∧
    (∃ (s : State) (p : Nat), s.held = false ∧ s.pmu.asleep = 2 ∧ p < 2 ∧ bitAt (s.rwW 0x3014) p = true ∧ bitAt (s.rcW
        (macBase p + 0x48)) 8 = true) := by
  unfold StoresOk RegsOk
  refine ⟨⟨{ w with pmu := { w.pmu with supply := 0x10 } }, 1, ?_⟩, ⟨{ w with pmu := { w.pmu with supply := 0x10 } },
      0, ?_⟩, ⟨w, ?_⟩, ⟨({ w with pmu := { w.pmu with asleep := 2 } }.setRw 0x3014 4).setRw 0x304C 0x8000, 15, ?_⟩,
      ⟨({ w with pmu := { w.pmu with asleep := 2 } }.setRw 0x3014 2).setRc (macBase 1 + 0x48) 0x103, 1, ?_⟩⟩ <;>
      decide +kernel

theorem witness_ManagementCore_ManagementCoreRuns :
    (∃ (s : State) (f : FwImage), s.down = false ∧ s.syn.spll = true ∧ s.pmu.bistFail = false ∧ s.mgt.ready = false ∧
        s.reg.hstop.getLsbD 3 = false ∧ f.valid = true ∧ f.subid = none ∧ s.pmu.boot = 0 ∧ s.mgt.dbell = 0) ∧
    (∃ (s : State) (f : FwImage) (w : Word), Ready s ∧ s.syn.spll = true ∧ s.pmu.bistFail = false ∧ s.mgt.ready =
        false ∧ s.reg.hstop.getLsbD 3 = false ∧ f.valid = true ∧ f.subid = some w ∧ s.reg.subidDone = false ∧
        s.pmu.boot = 0 ∧ s.mgt.dbell = 0) ∧
    (∃ (s : State) (v : View), s.down = false ∧ (v = .normal ∨ v = .set) ∧ (s.mgt.ready = false ∨ (∃ h p, s.item 28 =
        some (h :: p) ∧ 1 ≤ fld h 0 8 ∧ fld h 0 8 ≤ 6))) ∧
    (∃ s : State, Ready s ∧ s.reg.hstop.getLsbD 3 = false) := by
  unfold Ready StoresOk RegsOk
  refine ⟨⟨{ w with syn := { w.syn with spll := true } },
      ({ valid := true, version := 7, crc := 9, subid := none, pid := none } : FwImage), ?_⟩,
      ⟨{ w with syn := { w.syn with spll := true } },
      ({ valid := true, version := 7, crc := 9, subid := some 5, pid := none } : FwImage), (5:Word), ?_⟩, ⟨w,
      View.set, ?_⟩, ⟨w, ?_⟩⟩
  all_goals (repeat' apply And.intro)
  all_goals first | decide +kernel | exact fun _ => rfl | exact Or.inl (by decide +kernel)

theorem witness_ManagementCore_ManagementRequestsAnswered :
    (∃ (s : State) (h : Word) (p : List Word), Ready s ∧ OneRequest s 1 h p 4) ∧
    (∃ (s : State) (h : Word) (o : Word) (n : Word), Ready s ∧ OneRequest s 2 h [o, n] (2 + n.toNat) ∧ n.toNat ≤ 1020
        ∧ o.toNat % 4 = 0) ∧
    (∃ (s : State) (h : Word) (o : Word) (x : Word) (d : List Word), Ready s ∧ OneRequest s 3 h [o] 2 ∧ (s.mboxOf
        30).items = [x :: d] ∧ (s.mboxOf 30).flushing = false ∧ itemLen x = d.length ∧ o.toNat % 4 = 0) ∧
    (∃ (s : State) (h : Word) (o : Word) (n : Word), Ready s ∧ OneRequest s 4 h [o, n] 2) ∧
    (∃ (s : State) (h : Word) (r : Word), Ready s ∧ OneRequest s 5 h [r] 2 ∧ r.toNat ≤ 1) ∧
    (∃ (s : State) (h : Word) (p : List Word), Ready s ∧ OneRequest s 6 h p 2) := by
  unfold Ready StoresOk RegsOk OneRequest
  refine ⟨⟨({ w with mgt := { w.mgt with ready := true, dbell := 3 } }.setMbox 28
      { mboxReset 28 with items := [[1]] }), (1:Word), ([]:List Word), ?_⟩,
      ⟨({ w with mgt := { w.mgt with ready := true, dbell := 3 } }.setMbox 28
      { mboxReset 28 with items := [[0x20002, 0, 1020]] }), (0x20002:Word), (0:Word), (1020:Word), ?_⟩,
      ⟨({ w with mgt := { w.mgt with ready := true, dbell := 3 } }.setMbox 28
      { mboxReset 28 with items := [[0x10003, 8]] }).setMbox 30 { mboxReset 30 with items := [[0x20000, 1, 2]] },
      (0x10003:Word), (8:Word), (0x20000:Word), ([1,2]:List Word), ?_⟩,
      ⟨({ w with mgt := { w.mgt with ready := true, dbell := 3 } }.setMbox 28
      { mboxReset 28 with items := [[0x20004, 0, 1]] }), (0x20004:Word), (0:Word), (1:Word), ?_⟩,
      ⟨({ w with mgt := { w.mgt with ready := true, dbell := 3 } }.setMbox 28
      { mboxReset 28 with items := [[0x10005, 1]] }), (0x10005:Word), (1:Word), ?_⟩,
      ⟨({ w with mgt := { w.mgt with ready := true, dbell := 3 } }.setMbox 28 { mboxReset 28 with items := [[6]] }),
      (6:Word), ([]:List Word), ?_⟩⟩ <;> decide +kernel

theorem witness_SpiSlaveAndScrub :
    (∃ s : State, Ready s ∧ s.pmu.boot = 1 ∧ (s.mboxOf 28).trim = 0 ∧ (s.mboxOf 28).held < mboxWords) ∧
    (∃ (s : State) (w : Word) (v : Word) (rest : List Word) (more : List (List Word)), Ready s ∧ s.pmu.boot = 1 ∧
        (s.mboxOf 29).items = (w :: v :: rest) :: more ∧ (s.mboxOf 29).flushing = false) ∧
    (∃ s : State, Ready s ∧ s.counter 0x3C100 + 1 < ctrMax) ∧
    (∃ s : State, Ready s ∧ s.counter 0x3C108 + 1 < ctrMax) := by
  unfold Ready StoresOk RegsOk
  refine ⟨⟨{ w with pmu := { w.pmu with boot := 1 } }, ?_⟩, ⟨{ w with pmu := { w.pmu with boot := 1 } }.setMbox 29
      { mboxReset 29 with items := [[1, 2]] }, (1:Word), (2:Word), ([]:List Word), ([]:List (List Word)), ?_⟩, ⟨w,
      ?_⟩, ⟨w, ?_⟩⟩ <;> decide +kernel

theorem witness_MailboxWords :
    (∃ (s : State) (n : Nat), Ready s ∧ 28 ≤ n ∧ n < 32 ∧ (s.mboxOf n).trim = 0 ∧ (s.mboxOf n).held < mboxWords) ∧
    (∃ (s : State) (n : Nat), Ready s ∧ 28 ≤ n ∧ n < 32 ∧ (s.mboxOf n).trim = 0 ∧ mboxWords ≤ (s.mboxOf n).held ∧
        s.counter (sdgCtr n 3) + 1 < ctrMax) ∧
    (∃ s : State, ∃ n : Nat, ∃ w, ∃ rest, ∃ more, Ready s ∧ 28 ≤ n ∧ n < 32 ∧ (s.mboxOf n).visible = (w :: rest) ::
        more) ∧
    (∃ s : State, ∃ n : Nat, ∃ w, ∃ rest, ∃ more, ∃ parity, ∃ marks, Ready s ∧ 28 ≤ n ∧ n < 32 ∧ (s.mboxOf n).visible
        = (w :: rest) :: more ∧ (parity || marks) = true ∧ s.counter (sdgCtr n 0) + 1 < ctrMax) ∧
    (∃ (s : State) (n : Nat), Ready s ∧ 28 ≤ n ∧ n < 32 ∧ (s.mboxOf n).visible = []) ∧
    (∃ (s : State) (n : Nat), Ready s ∧ 28 ≤ n ∧ n < 32 ∧ (s.mboxOf n).flushing = true ∧ (s.mboxOf n).begun = false) := by
  unfold Ready StoresOk RegsOk
  refine ⟨⟨w, 31, ?_⟩, ⟨w.setMbox 28
      { mboxReset 28 with items := [List.replicate 1000 0], writing := List.replicate 24 0 }, 28, ?_⟩, ⟨w.setMbox 29
      { mboxReset 29 with items := [[5, 6]] }, 29, (5:Word), ([6]:List Word), ([]:List (List Word)), ?_⟩, ⟨w.setMbox
      29 { mboxReset 29 with items := [[5]] }, 29, (5:Word), ([]:List Word), ([]:List (List Word)), false, true, ?_⟩,
      ⟨w, 31, ?_⟩, ⟨w.setMbox 29 { mboxReset 29 with flushing := true, writing := [1] }, 29, ?_⟩⟩ <;> decide +kernel

theorem witness_DoorbellsAndEnables :
    (∃ (s : State) (p : Nat) (w : Word), Ready s ∧ p < 49 ∧ (s.ringOf p).st ≠ .disabled ∧ fld w 0 16 ≠ (s.ringOf p).pi
        ∧ fld w 0 16 < s.ringN p ∧ ringDist (s.ringN p) (s.ringOf p).pi (fld w 0 16) ≤ s.ringN p - 1 - ringDist
        (s.ringN p) (s.ringOf p).ci (s.ringOf p).pi) ∧
    (∃ (s : State) (p : Nat) (w : Word), Ready s ∧ p < 49 ∧ (s.ringOf p).st ≠ .disabled ∧ fld w 0 16 ≠ (s.ringOf p).pi
        ∧ s.ringN p ≤ fld w 0 16) ∧
    (∃ (s : State) (p : Nat) (w : Word), Ready s ∧ p < 49 ∧ (s.ringOf p).st ≠ .disabled ∧ fld w 0 16 ≠ (s.ringOf
        p).cci ∧ fld w 0 16 < s.ringN p ∧ ringDist (s.ringN p) (s.ringOf p).cci (fld w 0 16) ≤ ringDist (s.ringN p)
        (s.ringOf p).cci (s.ringOf p).cpi) ∧
    (∃ s : State, ∃ p : Nat, ∃ size, Ready s ∧ p < 49 ∧ (s.ringOf p).st = .disabled ∧ bitAt (s.rwW (ringBase p +
        0x10)) 8 = false ∧ 4 ≤ size ∧ size ≤ 16) ∧
    (∃ (s : State) (p : Nat), Ready s ∧ p < 49 ∧ bitAt (s.rwW (ringBase p + 0x10)) 8 = true ∧ (s.ringOf p).st =
        .running ∧ (s.ringOf p).ci = (s.ringOf p).pi ∧ (s.ringOf p).fault = none) ∧
    (∃ (s : State) (p : Nat), Ready s ∧ p < 49 ∧ (s.ringOf p).st = .halted ∧ (s.ringOf p).fault = none ∧ (s.ringOf
        p).abandonTo = none) := by
  unfold Ready StoresOk RegsOk
  refine ⟨⟨w.setRing 48 { ringReset 48 with st := .running }, 48, 15, ?_⟩, ⟨w.setRing 48
      { ringReset 48 with st := .running }, 48, 16, ?_⟩, ⟨w.setRing 48
      { ringReset 48 with st := .running, cpi := 15 }, 48, 15, ?_⟩, ⟨w, 48, 16, ?_⟩, ⟨(w.setRing 48
      { ringReset 48 with st := .running }).setRw (ringBase 48 + 0x10) 0x104, 48, ?_⟩, ⟨w.setRing 0
      { ringReset 0 with st := .halted }, 0, ?_⟩⟩ <;> decide +kernel

theorem witness_RingsMoveData_RingFetchesAndCompletions :
    (∃ s : State, Ready s ∧ (s.ringOf 0).st = .running ∧ (s.ringOf 0).disabling = false ∧ (s.ringOf 0).fetched ≠
        (s.ringOf 0).pi) ∧
    (∃ (s : State) (p : Nat) (cause : Nat) (n : Nat), Ready s ∧ (s.ringOf p).st = .running ∧ (s.ringOf p).disabling =
        false ∧ (s.ringOf p).fetched ≠ (s.ringOf p).pi ∧ s.counter (sdgCtr 7 0) + n < ctrMax ∧ (s.ringOf p).window =
        false) ∧
    (∃ (s : State) (p : Nat) (cause : Nat) (n : Nat), Ready s ∧ (s.ringOf p).st = .running ∧ (s.ringOf p).disabling =
        false ∧ (s.ringOf p).fetched ≠ (s.ringOf p).pi ∧ s.counter (sdgCtr 7 0) + n < ctrMax ∧ (s.ringOf p).window =
        true) ∧
    (∃ (s : State) (p : Nat) (i : Nat) (off : Nat) (cause : Nat), Ready s ∧ (s.ringOf p).st = .running ∧ (s.ringOf
        p).window = false ∧ (∃ x ∈ (s.ringOf p).slots, x.desc.slot = i ∧ x.done = none)) ∧
    (∃ (s : State) (p : Nat) (x : Slot) (c : Cpl), Ready s ∧ (s.ringOf p).st = .running ∧ (s.ringOf p).fault = none ∧
        (s.ringOf p).abandonTo = none ∧ (s.ringOf p).window = false ∧ (s.ringOf p).disabling = false ∧ (s.ringOf
        p).slots.find? (fun y => decide (y.desc.slot = (s.ringOf p).ci)) = some x ∧ x.done = some c ∧ s.cplRoom p =
        true ∧ bitAt (s.rwW (ringBase p + 0x1C)) 7 = false ∧ s.counter (ringCtr p 0) + 1 < ctrMax) ∧
    (∃ (s : State) (p : Nat), Ready s ∧ p < 49 ∧ bitAt (s.rwW (ringBase p + 0x1C)) 7 = true ∧ fld (s.rwW (ringBase p +
        0x1C)) 16 16 ≠ 0 ∧ (s.ringOf p).unsig ≠ 0 ∧ s.msixEn = false) := by
  unfold Ready StoresOk RegsOk
  refine ⟨⟨w.setRing 0 { ringReset 0 with st := .running, pi := 1 }, ?_⟩, ⟨w.setRing 5
      { ringReset 5 with st := .running, pi := 2, fetched := 1, slots := [{ desc := { slot := 0, dw := [1] }, done := none, data := [], reading := false }] },
      5, 2, 3, ?_⟩, ⟨w.setRing 48 { ringReset 48 with st := .running, pi := 1, window := true }, 48, 1, 0, ?_⟩,
      ⟨w.setRing 32
      { ringReset 32 with st := .running, slots := [{ desc := { slot := 0, dw := [] }, done := none, data := [], reading := false }] },
      32, 0, 5, 3, ?_⟩, ⟨w.setRing 48
      { ringReset 48 with st := .running, slots := [{ desc := { slot := 0, dw := [] }, done := some (cplOf 0 0 0 0 0 0), data := [], reading := false }] },
      48, ({ desc := { slot := 0, dw := [] }, done := some (cplOf 0 0 0 0 0 0), data := [], reading := false } :
      Slot), cplOf 0 0 0 0 0 0, ?_⟩, ⟨(w.setRing 48 { ringReset 48 with unsig := 1 }).setRw (ringBase 48 + 0x1C)
      0x10080, 48, ?_⟩⟩ <;> decide +kernel

theorem witness_RingsMoveData_HostFramesAndFeedReads :
    (∃ (s : State) (f : HostFrame) (rest : List HostFrame) (x : Slot), Ready s ∧ s.hrx = f :: rest ∧ (s.ringOf
        (s.frxRing f)).st ≠ .disabled ∧ s.buffers (s.frxRing f) = [x] ∧ 0 < f.body.length ∧ f.poison = [] ∧
        f.body.length ≤ fld (x.desc.word 1) 0 14) ∧
    (∃ (s : State) (f : HostFrame) (rest : List HostFrame), Ready s ∧ s.hrx = f :: rest ∧ (fillBuffers (s.buffers
        (s.frxRing f)) f.body.length).isSome = false ∧ s.counter (ringCtr (s.frxRing f) 1) + 1 < ctrMax) ∧
    (∃ (s : State) (p : Nat) (x : Slot), Ready s ∧ 17 ≤ p ∧ p < 33 ∧ (s.ringOf p).unread = some x ∧ (s.ringOf p).st =
        .running ∧ s.slotLive p x.desc.slot = true ∧ feedPos x.desc ≤ s.tt.now + s.ahead * s.T ∧ s.feedHeld +
        s.feedDue + laneRoom (s.blockBytes p (feedSlice x.desc)) ≤ 262144) ∧
    (∃ (s : State) (p : Nat) (i : Nat) (x : Slot) (bytes : List Byte), Ready s ∧ 17 ≤ p ∧ p < 33 ∧ s.slotLive p i =
        true ∧ (s.ringOf p).slots = [x] ∧ x.desc.slot = i ∧ x.done = none ∧ x.reading = true ∧ (s.ringOf p).feed = []
        ∧ x.data.length + bytes.length ≠ s.blockBytes p (feedSlice x.desc)) := by
  unfold Ready StoresOk RegsOk
  refine
      ⟨⟨({ w with hrx := [{ port := 0, body := [1, 2], poison := [], tagged := false, pcp := 0, vid := 0 }] }).setRing
      9
      { ringReset 9 with st := .running, pi := 1, slots := [{ desc := { slot := 0, dw := [0, 2] }, done := none, data := [], reading := false }] },
      ({ port := 0, body := [1, 2], poison := [], tagged := false, pcp := 0, vid := 0 }:HostFrame), ([]:List
      HostFrame), ({ desc := { slot := 0, dw := [0, 2] }, done := none, data := [], reading := false } : Slot), ?_⟩,
      ⟨{ w with hrx := [{ port := 0, body := [1, 2], poison := [], tagged := false, pcp := 0, vid := 0 }] },
      ({ port := 0, body := [1, 2], poison := [], tagged := false, pcp := 0, vid := 0 }:HostFrame), ([]:List
      HostFrame), ?_⟩, ⟨w.setRing 32
      { ringReset 32 with st := .running, slots := [{ desc := { slot := 0, dw := [] }, done := none, data := [], reading := false }] },
      32, ({ desc := { slot := 0, dw := [] }, done := none, data := [], reading := false } : Slot), ?_⟩, ⟨(w.setRing
      32
      { ringReset 32 with st := .running, slots := [{ desc := { slot := 0, dw := [] }, done := none, data := [], reading := true }] }).setRw
      (ringBase 32 + 0x14) 0x10000, 32, 0,
      ({ desc := { slot := 0, dw := [] }, done := none, data := [], reading := true } : Slot), ([1]:List Byte), ?_⟩⟩
      <;> decide +kernel

theorem witness_CommandsBegin :
    (∃ (s : State) (x : Slot), Ready s ∧ CmdHead s 0x00 x ∧ cmdPos x = 0) ∧
    (∃ (s : State) (x : Slot), Ready s ∧ CmdHead s 0x01 x) ∧
    (∃ (s : State) (x : Slot), Ready s ∧ CmdHead s 0x02 x) ∧
    (∃ (s : State) (x : Slot), Ready s ∧ CmdHead s 0x03 x) ∧
    (∃ (s : State) (x : Slot), Ready s ∧ CmdHead s 0x04 x) ∧
    (∃ (s : State) (x : Slot), Ready s ∧ CmdHead s 0x05 x) ∧
    (∃ (s : State) (x : Slot), Ready s ∧ CmdHead s 0x06 x) ∧
    (∃ (s : State) (x : Slot), Ready s ∧ CmdHead s 0x0B x) ∧
    (∃ (s : State) (x : Slot), Ready s ∧ CmdHead s 0x07 x ∧ cmdPos x = 0) ∧
    (∃ (s : State) (x : Slot), Ready s ∧ CmdHead s 0x08 x ∧ s.shadowed = false ∧ s.isArmed (fld (cmdArg0 x) 0 6) =
        false ∧ bitAt (cmdArg0 x) 8 = false) ∧
    (∃ (s : State) (x : Slot), Ready s ∧ CmdHead s 0x09 x ∧ cmdPos x = 0 ∧ s.tblBlocked x = none) ∧
    (∃ (s : State) (x : Slot), Ready s ∧ CmdHead s 0x0A x ∧ cmdPos x = 0 ∧ fld (cmdArg1 x) 0 17 = 1 ∧ (cmdArg0
        x).toNat / 0x1000000 < 7 ∧ (rowT (cmdArg0 x).toNat).isSome = true) ∧
    (∃ (s : State) (x : Slot), Ready s ∧ CmdHead s 0x0C x ∧ cmdPos x = 0 ∧ fld (cmdArg0 x) 0 8 = 2 ∧ s.testIdle 2 (fld
        (cmdArg0 x) 8 8) = true) ∧
    (∃ (s : State) (x : Slot), Ready s ∧ s.cmd = none ∧ s.cmdSlot = some x ∧ 0x0D ≤ cmdOp x) := by
  unfold Ready StoresOk RegsOk CmdHead
  refine ⟨⟨w.setRing 0
      { ringReset 0 with st := .running, pi := 1, fetched := 1, slots := [{ desc := { slot := 0, dw := [0] }, done := none, data := [], reading := false }] },
      ({ desc := { slot := 0, dw := [0] }, done := none, data := [], reading := false } : Slot), ?_⟩, ⟨w.setRing 0
      { ringReset 0 with st := .running, pi := 1, fetched := 1, slots := [{ desc := { slot := 0, dw := [1, 0] }, done := none, data := [], reading := false }] },
      ({ desc := { slot := 0, dw := [1, 0] }, done := none, data := [], reading := false } : Slot), ?_⟩, ⟨w.setRing 0
      { ringReset 0 with st := .running, pi := 1, fetched := 1, slots := [{ desc := { slot := 0, dw := [2, 0] }, done := none, data := [], reading := false }] },
      ({ desc := { slot := 0, dw := [2, 0] }, done := none, data := [], reading := false } : Slot), ?_⟩, ⟨w.setRing 0
      { ringReset 0 with st := .running, pi := 1, fetched := 1, slots := [{ desc := { slot := 0, dw := [3, 0] }, done := none, data := [], reading := false }] },
      ({ desc := { slot := 0, dw := [3, 0] }, done := none, data := [], reading := false } : Slot), ?_⟩, ⟨w.setRing 0
      { ringReset 0 with st := .running, pi := 1, fetched := 1, slots := [{ desc := { slot := 0, dw := [4, 0] }, done := none, data := [], reading := false }] },
      ({ desc := { slot := 0, dw := [4, 0] }, done := none, data := [], reading := false } : Slot), ?_⟩, ⟨w.setRing 0
      { ringReset 0 with st := .running, pi := 1, fetched := 1, slots := [{ desc := { slot := 0, dw := [5, 48] }, done := none, data := [], reading := false }] },
      ({ desc := { slot := 0, dw := [5, 48] }, done := none, data := [], reading := false } : Slot), ?_⟩, ⟨w.setRing 0
      { ringReset 0 with st := .running, pi := 1, fetched := 1, slots := [{ desc := { slot := 0, dw := [6, 48] }, done := none, data := [], reading := false }] },
      ({ desc := { slot := 0, dw := [6, 48] }, done := none, data := [], reading := false } : Slot), ?_⟩, ⟨w.setRing 0
      { ringReset 0 with st := .running, pi := 1, fetched := 1, slots := [{ desc := { slot := 0, dw := [0x0B] }, done := none, data := [], reading := false }] },
      ({ desc := { slot := 0, dw := [0x0B] }, done := none, data := [], reading := false } : Slot), ?_⟩, ⟨w.setRing 0
      { ringReset 0 with st := .running, pi := 1, fetched := 1, slots := [{ desc := { slot := 0, dw := [7, 0x8000] }, done := none, data := [], reading := false }] },
      ({ desc := { slot := 0, dw := [7, 0x8000] }, done := none, data := [], reading := false } : Slot), ?_⟩,
      ⟨w.setRing 0
      { ringReset 0 with st := .running, pi := 1, fetched := 1, slots := [{ desc := { slot := 0, dw := [8, 63] }, done := none, data := [], reading := false }] },
      ({ desc := { slot := 0, dw := [8, 63] }, done := none, data := [], reading := false } : Slot), ?_⟩, ⟨w.setRing 0
      { ringReset 0 with st := .running, pi := 1, fetched := 1, slots := [{ desc := { slot := 0, dw := [9, 0x2000000, 1] }, done := none, data := [], reading := false }] },
      ({ desc := { slot := 0, dw := [9, 0x2000000, 1] }, done := none, data := [], reading := false } : Slot), ?_⟩,
      ⟨w.setRing 0
      { ringReset 0 with st := .running, pi := 1, fetched := 1, slots := [{ desc := { slot := 0, dw := [0x0A, 0x2000000, 1] }, done := none, data := [], reading := false }] },
      ({ desc := { slot := 0, dw := [0x0A, 0x2000000, 1] }, done := none, data := [], reading := false } : Slot), ?_⟩,
      ⟨w.setRing 0
      { ringReset 0 with st := .running, pi := 1, fetched := 1, slots := [{ desc := { slot := 0, dw := [0x0C, 0x10702] }, done := none, data := [], reading := false }] },
      ({ desc := { slot := 0, dw := [0x0C, 0x10702] }, done := none, data := [], reading := false } : Slot), ?_⟩,
      ⟨w.setRing 0
      { ringReset 0 with st := .running, pi := 1, fetched := 1, slots := [{ desc := { slot := 0, dw := [0xFF] }, done := none, data := [], reading := false }] },
      ({ desc := { slot := 0, dw := [0xFF] }, done := none, data := [], reading := false } : Slot), ?_⟩⟩ <;> decide
      +kernel

theorem witness_CommandsAct :
    (∃ s : State, ∃ x : Slot, ∃ c, ∃ st, ∃ d, ∃ r0, ∃ r1, Ready s ∧ s.cmd = some c ∧ c.acted = some (st, d, r0, r1) ∧
        s.cmdSlot = some x) ∧
    (∃ (s : State) (x : Slot), Ready s ∧ CmdDue s 0x00 x) ∧
    (∃ (s : State) (x : Slot), Ready s ∧ CmdDue s 0x02 x) ∧
    (∃ (s : State) (x : Slot), Ready s ∧ CmdDue s 0x04 x) ∧
    (∃ (s : State) (x : Slot), Ready s ∧ CmdDue s 0x05 x ∧ (s.ringOf (fld (cmdArg0 x) 0 6)).st ≠ .disabled ∧
        s.audCause (fld (cmdArg0 x) 0 6) = 0 ∧ 17 ≤ fld (cmdArg0 x) 0 6) ∧
    (∃ (s : State) (x : Slot), Ready s ∧ CmdDue s 0x07 x) ∧
    (∃ s : State, ∃ x : Slot, ∃ c, Ready s ∧ s.cmd = some c ∧ c.testing = true ∧ c.late = false ∧ s.cmdSlot = some x ∧
        (fld (cmdArg0 x) 0 8 = 1 ∨ fld (cmdArg0 x) 0 8 = 3)) := by
  unfold Ready StoresOk RegsOk CmdDue
  refine
      ⟨⟨{ w with cmd := some { pos := some 0, late := false, acted := some (0, 0, 0, 0), testing := false } }.setRing
      0
      { ringReset 0 with st := .running, pi := 1, fetched := 1, slots := [{ desc := { slot := 0, dw := [0] }, done := none, data := [], reading := false }] },
      ({ desc := { slot := 0, dw := [0] }, done := none, data := [], reading := false } : Slot),
      ({ pos := some 0, late := false, acted := some (0, 0, 0, 0), testing := false } : CmdWait), 0, 0, (0:Word),
      (0:Word), ?_⟩,
      ⟨{ w with cmd := some { pos := some 32, late := false, acted := none, testing := false }, tt := { w.tt with now := 32, rateOk := true } }.setRing
      0
      { ringReset 0 with st := .running, pi := 1, fetched := 1, slots := [{ desc := { slot := 0, dw := [0, 0, 0, 0, 32] }, done := none, data := [], reading := false }] },
      ({ desc := { slot := 0, dw := [0, 0, 0, 0, 32] }, done := none, data := [], reading := false } : Slot), ?_⟩,
      ⟨({ w with cmd := some { pos := some 32, late := false, acted := none, testing := false }, tt := { w.tt with now := 32, rateOk := true } }.setRing
      0
      { ringReset 0 with st := .running, pi := 1, fetched := 1, slots := [{ desc := { slot := 0, dw := [2, 0, 0, 0, 32] }, done := none, data := [], reading := false }] }).setStx
      0 { stxReset 0 with run := true },
      ({ desc := { slot := 0, dw := [2, 0, 0, 0, 32] }, done := none, data := [], reading := false } : Slot), ?_⟩,
      ⟨({ w with cmd := some { pos := some 32, late := false, acted := none, testing := false }, tt := { w.tt with now := 32, rateOk := true } }.setRing
      0
      { ringReset 0 with st := .running, pi := 1, fetched := 1, slots := [{ desc := { slot := 0, dw := [4, 0, 0, 0, 32] }, done := none, data := [], reading := false }] }).setSrx
      0 { srxReset 0 with run := true },
      ({ desc := { slot := 0, dw := [4, 0, 0, 0, 32] }, done := none, data := [], reading := false } : Slot), ?_⟩,
      ⟨((({ w with cmd := some { pos := some 32, late := false, acted := none, testing := false }, tt := { w.tt with now := 32, rateOk := true } }.setRw
      (ringBase 17 + 0x14) 0x10000).setRw (ringBase 17 + 0x18) 1).setRing 17
      { ringReset 17 with st := .running }).setRing 0
      { ringReset 0 with st := .running, pi := 1, fetched := 1, slots := [{ desc := { slot := 0, dw := [5, 17, 0, 0, 32] }, done := none, data := [], reading := false }] },
      ({ desc := { slot := 0, dw := [5, 17, 0, 0, 32] }, done := none, data := [], reading := false } : Slot), ?_⟩,
      ⟨{ w with cmd := some { pos := some 32, late := false, acted := none, testing := false }, tt := { w.tt with now := 32, rateOk := true } }.setRing
      0
      { ringReset 0 with st := .running, pi := 1, fetched := 1, slots := [{ desc := { slot := 0, dw := [7, 1, 0, 0, 32] }, done := none, data := [], reading := false }] },
      ({ desc := { slot := 0, dw := [7, 1, 0, 0, 32] }, done := none, data := [], reading := false } : Slot), ?_⟩,
      ⟨{ w with cmd := some { pos := none, late := false, acted := none, testing := true } }.setRing 0
      { ringReset 0 with st := .running, pi := 1, fetched := 1, slots := [{ desc := { slot := 0, dw := [0x0C, 0x703] }, done := none, data := [], reading := false }] },
      ({ desc := { slot := 0, dw := [0x0C, 0x703] }, done := none, data := [], reading := false } : Slot),
      ({ pos := none, late := false, acted := none, testing := true } : CmdWait), ?_⟩⟩ <;> decide +kernel

theorem witness_HostLinkAndInterrupts :
    (∃ s : State, Ready s) ∧
    (∃ s : State, s.held = false ∧ s.standalone = true) ∧
    (∃ s : State, Ready s) ∧
    (∃ (s : State) (n : Nat), Ready s ∧ s.msixEn = false ∧ n < 96 ∧ s.isPending n = true) ∧
    (∃ s : State, s.held = false) ∧
    (∃ (s : State) (speed : Nat) (width : Nat), Ready s ∧ s.pmu.up = true ∧ s.pmu.perstLow = false ∧ s.pmu.bistFail =
        false ∧ s.standalone = false ∧ speed < 8 ∧ width < 8) := by
  unfold Ready StoresOk RegsOk
  refine ⟨⟨(w.setRw 0x7000 5).setRw 0x8040 3, ?_⟩, ⟨{ w with pmu := { w.pmu with boot := 1 } }, ?_⟩, ⟨w, ?_⟩,
      ⟨(w.setRc (evtStat 95) 0x80000000).setRw (evtMask 95) 0x80000000, 95, ?_⟩, ⟨w, ?_⟩,
      ⟨{ w with pmu := { w.pmu with up := true } }, 7, 7, ?_⟩⟩ <;> decide +kernel

theorem witness_MdioAndPreemption_MdioTransactions :
    (∃ s : State, Ready s ∧ softwareBusy s.mdio = false) ∧
    (∃ s : State, Ready s ∧ softwareBusy s.mdio = true) ∧
    (∃ (s : State) (c : Word) (d : Nat) (rest : List MdioReq), Ready s ∧ s.mdio = .software c d :: rest ∧ bitAt c 10 =
        true) ∧
    (∃ (s : State) (c : Word) (d : Nat) (rest : List MdioReq), Ready s ∧ s.mdio = .software c d :: rest ∧ bitAt c 10 =
        false) ∧
    (∃ (s : State) (p : Nat) (dev : Nat) (reg : Nat) (d : Nat) (rest : List MdioReq), Ready s ∧ s.mdio = .script p dev
        reg d :: rest ∧ p < 2 ∧ scripting p rest = false ∧ (s.mac p).goal ≠ 3) ∧
    (∃ (s : State) (p : Nat) (dev : Nat) (reg : Nat) (d : Nat) (rest : List MdioReq), Ready s ∧ s.mdio = .script p dev
        reg d :: rest ∧ scripting p rest = true) := by
  unfold Ready StoresOk RegsOk
  refine ⟨⟨w, ?_⟩, ⟨{ w with mdio := [.software 0x400 0] }, ?_⟩, ⟨{ w with mdio := [.software 0x400 0] },
      (0x400:Word), 0, ([]:List MdioReq), ?_⟩, ⟨{ w with mdio := [.software 0x21 9] }, (0x21:Word), 9, ([]:List
      MdioReq), ?_⟩, ⟨{ w with mdio := [.script 1 2 3 4], macB := { w.macB with target := some 2 } }, 1, 2, 3, 4,
      ([]:List MdioReq), ?_⟩, ⟨{ w with mdio := [.script 1 2 3 4, .script 1 0 0 0] }, 1, 2, 3, 4, ([.script 1 0 0
      0]:List MdioReq), ?_⟩⟩ <;> decide +kernel

theorem witness_PortsComeUpAndGoDown :
    (∃ s : State, ∃ p : Nat, ∃ ms, Ready s ∧ p < numPorts s.member ∧ mediaPhy (s.macW p 0) = true ∧ bitAt (s.macW p
        0x40) 0 = true ∧ max 1 (fld (s.macW p 0x40) 8 8) ≤ ms ∧ scripting p s.mdio = false) ∧
    (∃ s : State, ∃ p : Nat, ∃ rest, Ready s ∧ p < numPorts s.member ∧ s.mdio = .poll p :: rest ∧ (s.mac p).up = false
        ∧ (s.mac p).lane = false) ∧
    (∃ (s : State) (p : Nat), Ready s ∧ p < numPorts s.member ∧ macEn (s.macW p 0) = true ∧ s.phyOk p = true ∧ (s.mac
        p).up = false ∧ (s.mac p).target = none ∧ s.reg.hstop.getLsbD p = false) ∧
    (∃ (s : State) (p : Nat), Ready s ∧ p < numPorts s.member ∧ (s.mac p).up = true) ∧
    (∃ (s : State) (p : Nat), Ready s ∧ p < numPorts s.member) ∧
    (∃ (s : State) (p : Nat), Ready s ∧ p < numPorts s.member ∧ scripting p s.mdio = true ∧ (s.mac p).dpcOrder = false
        ∧ s.dpc.shifting = false) := by
  unfold Ready StoresOk RegsOk
  refine ⟨⟨(w.setApplied 0x14000 0x50).setApplied 0x14040 1, 1, 1, ?_⟩, ⟨{ w with mdio := [.poll 1] }.setApplied
      0x14040 0x30001, 1, ([]:List MdioReq), ?_⟩, ⟨w.setApplied 0x14000 0x4C, 1, ?_⟩,
      ⟨{ w with macB := { w.macB with up := true, lane := true } }, 1, ?_⟩, ⟨(w.setApplied 0x14000 0x50).setApplied
      0x14080 0x8F000001, 1, ?_⟩,
      ⟨{ w with macB := { w.macB with retrain := true }, mdio := [.script 1 0 0 0, .script 0 0 0 0] }, 1, ?_⟩⟩ <;>
      decide +kernel

theorem witness_MdioAndPreemption_PreemptionVerified :
    (∃ (s : State) (p : Nat), Ready s ∧ p < numPorts s.member ∧ (s.mac p).verify = 1 ∧ (s.mac p).verifyTries < 3) ∧
    (∃ (s : State) (p : Nat), Ready s ∧ p < numPorts s.member ∧ (s.mac p).verify = 1 ∧ 3 ≤ (s.mac p).verifyTries) ∧
    (∃ (s : State) (p : Nat), Ready s ∧ p < numPorts s.member ∧ (s.mac p).verify = 1) ∧
    (∃ (s : State) (p : Nat), Ready s ∧ p < numPorts s.member ∧ (s.mac p).up = true) ∧
    (∃ (s : State) (p : Nat), Ready s ∧ p < numPorts s.member) := by
  unfold Ready StoresOk RegsOk
  refine ⟨⟨{ w with macB := { w.macB with verify := 1, verifyTries := 2 } }, 1, ?_⟩,
      ⟨{ w with macB := { w.macB with verify := 1, verifyTries := 3 } }, 1, ?_⟩,
      ⟨{ w with macB := { w.macB with verify := 1 } }, 1, ?_⟩, ⟨{ w with macB := { w.macB with up := true } }, 1, ?_⟩,
      ⟨{ w with macB := { w.macB with hold := true } }, 1, ?_⟩⟩ <;> decide +kernel

theorem witness_FramesSentAndReceived :
    (∃ (s : State) (p : Nat) (n : Nat) (q : Nat) (f : TxFrame) (l : List TxFrame), Ready s ∧ p < numPorts s.member ∧
        (s.mac p).up = true ∧ (s.mac p).cur = none ∧ (s.mac p).rem = none ∧ (s.mac p).sleep = false ∧ (slopeOf (s.macW
        p 0x30) ≠ 0 ∨ s.queue p 2 = []) ∧ (slopeOf (s.macW p 0x34) ≠ 0 ∨ s.queue p 3 = []) ∧ q < 8 ∧ s.queue p q = f
        :: l ∧ (s.mac p).stopped q = false ∧ ((q = 2 → 0 ≤ s.creditAfter p 0 n)) ∧ ((q = 3 → 0 ≤ s.creditAfter p 1 n))
        ∧ ((∀ k, k < q → s.queue p k = [])) ∧ f.ptp = none) ∧
    (∃ s : State, ∃ p : Nat, ∃ n : Nat, ∃ q : Nat, ∃ i : Instant, ∃ f : TxFrame, ∃ l : List TxFrame, ∃ m, Ready s ∧ p
        < numPorts s.member ∧ (s.mac p).up = true ∧ (s.mac p).cur = none ∧ (s.mac p).rem = none ∧ (s.mac p).sleep =
        false ∧ (slopeOf (s.macW p 0x30) ≠ 0 ∨ s.queue p 2 = []) ∧ (slopeOf (s.macW p 0x34) ≠ 0 ∨ s.queue p 3 = []) ∧
        q < 8 ∧ s.queue p q = f :: l ∧ (s.mac p).stopped q = false ∧ ((q = 2 → 0 ≤ s.creditAfter p 0 n)) ∧ ((q = 3 → 0
        ≤ s.creditAfter p 1 n)) ∧ ((∀ k, k < q → s.queue p k = [])) ∧ f.ptp = some m ∧ m.port = p) ∧
    (∃ (s : State) (p : Nat) (k : Nat) (c : TxCur), Ready s ∧ p < numPorts s.member ∧ (s.mac p).cur = some c ∧ isHostQ
        c.q = true ∧ (s.mac p).verify = 2 ∧ (s.mac p).rem = none ∧ s.queue p 0 ≠ [] ∧ (s.mac p).stopped 0 = false ∧ 60
        ≤ k ∧ c.sent + k + 60 ≤ c.frame.wire.length) ∧
    (∃ (s : State) (p : Nat) (c : TxCur), Ready s ∧ p < numPorts s.member ∧ (s.mac p).cur = some c ∧ isHostQ c.q =
        false ∧ c.frags = 1 ∧ s.counter (macCtr p 0) + 1 < ctrMax ∧ s.counter (macCtr p 1) + c.frame.wire.length <
        ctrMax ∧ s.counter (macCtr p 2) + 1 < ctrMax) ∧
    (∃ (s : State) (p : Nat) (x : RxFrame), Ready s ∧ p < numPorts s.member ∧ (s.mac p).up = true ∧ x.verify = true ∧
        (s.mac p).sleep = false) ∧
    (∃ (s : State) (p : Nat) (x : RxFrame), Ready s ∧ p < numPorts s.member ∧ (s.mac p).up = true ∧ x.verify = false ∧
        x.fcsOk = false ∧ x.trimmed = none ∧ s.counter (macCtr p 7) + 1 < ctrMax ∧ s.counter (sdgCtr p 2) + 1 <
        ctrMax) ∧
    (∃ (s : State) (p : Nat) (x : RxFrame), Ready s ∧ p < numPorts s.member ∧ (s.mac p).up = true ∧ (s.mac p).sleep =
        false ∧ x.verify = false ∧ s.rxFails p x = none ∧ x.poison = [] ∧ x.split = none ∧ (frameHead x.bytes).tags =
        2 ∧ s.addrAccept p x.early x.bytes = true ∧ s.hrx = [] ∧ laneRoom (s.hostCopy p (frameHead x.bytes)
        x).body.length ≤ 196608) := by
  unfold Ready StoresOk RegsOk
  refine
      ⟨⟨{ w with macB := { w.macB with up := true, queues := [(7, [{ body := [1], poison := false, ring := 0, slots := [], ctx := none, ptp := none }])] } },
      1, 9, 7, ({ body := [1], poison := false, ring := 0, slots := [], ctx := none, ptp := none } : TxFrame), ([] :
      List TxFrame), ?_⟩,
      ⟨{ w with macB := { w.macB with up := true, queues := [(0, [{ body := [1], poison := false, ring := 0, slots := [], ctx := none, ptp := some (w.ptpMsg 0 1 .pdelayReq 0) }])] } },
      1, 9, 0, ({ grains := 5, ns0 := 100, ns1 := 70 } : Instant),
      ({ body := [1], poison := false, ring := 0, slots := [], ctx := none, ptp := some (w.ptpMsg 0 1 .pdelayReq 0) }
      : TxFrame), ([] : List TxFrame), w.ptpMsg 0 1 .pdelayReq 0, ?_⟩,
      ⟨{ w with macB := { w.macB with up := true, verify := 2, cur := some { q := 7, frame := { body := List.replicate 200 3, poison := false, ring := 0, slots := [], ctx := none, ptp := none }, frags := 1, sent := 0 }, queues := [(0, [{ body := [1], poison := false, ring := 0, slots := [], ctx := none, ptp := none }])] } },
      1, 64,
      ({ q := 7, frame := { body := List.replicate 200 3, poison := false, ring := 0, slots := [], ctx := none, ptp := none }, frags := 1, sent := 0 }
      : TxCur), ?_⟩,
      ⟨{ w with macB := { w.macB with cur := some { q := 2, frame := { body := [1], poison := false, ring := 0, slots := [], ctx := none, ptp := none }, frags := 1, sent := 0 } } },
      1,
      ({ q := 2, frame := { body := [1], poison := false, ring := 0, slots := [], ctx := none, ptp := none }, frags := 1, sent := 0 }
      : TxCur), ?_⟩, ⟨{ w with macB := { w.macB with up := true } }, 1, { rxTagged with verify := true }, ?_⟩,
      ⟨{ w with macB := { w.macB with up := true } }, 1, { rxTagged with fcsOk := false }, ?_⟩,
      ⟨{ w with macB := { w.macB with up := true } }, 1, rxTagged, ?_⟩⟩ <;> decide +kernel

theorem witness_PauseAndPfc :
    (∃ (s : State) (p : Nat), Ready s ∧ p < numPorts s.member ∧ (s.mac p).up = true ∧ (s.mac p).sleep = false ∧ (s.mac
        p).hold = false ∧ bitAt (s.macW p 0x14) 0 = true ∧ (s.mac p).cur = none ∧ (s.mac p).rem = none ∧ s.counter
        (macCtr p 11) + 1 < ctrMax) ∧
    (∃ s : State, ∃ p : Nat, ∃ enables, ∃ times : List Nat, let on := s.pfcMask p (maskOf ((bitsOf 8 enables).filter
        (fun k => decide (times.getD k 0 ≠ 0))))
          let off := s.pfcMask p (maskOf ((bitsOf 8 enables).filter (fun k => decide (times.getD k 0 = 0))))
          Ready s ∧ p < numPorts s.member ∧ (s.mac p).up = true ∧ (s.mac p).sleep = false ∧ (s.mac p).hold = false ∧
        bitAt (s.macW p 0x14) 1 = true ∧ (s.mac p).cur = none ∧ (s.mac p).rem = none ∧ s.counter (macCtr p 11) + 1 <
        ctrMax ∧ on + off ≠ 0) ∧
    (∃ s : State, ∃ p : Nat, ∃ k, Ready s ∧ p < numPorts s.member ∧ k < 8) ∧
    (∃ (s : State) (p : Nat), Ready s ∧ p < numPorts s.member ∧ (s.mac p).pauseQ ||| (s.mac p).pfcQ ≠ 0 ∧ s.counter
        (macCtr p 14) + 1 < ctrMax) ∧
    (∃ (s : State) (p : Nat), Ready s ∧ p < numPorts s.member) := by
  unfold Ready StoresOk RegsOk
  refine ⟨⟨{ w with macB := { w.macB with up := true } }, 1, ?_⟩, ⟨{ w with macB := { w.macB with up := true } }, 1,
      32, ([0, 0, 0, 0, 0, 1, 0, 0] : List Nat), ?_⟩, ⟨{ w with macB := { w.macB with pauseQ := 0x80 } }, 1, 7, ?_⟩,
      ⟨{ w with macB := { w.macB with pauseQ := 0x80 } }, 1, ?_⟩, ⟨{ w with macB := { w.macB with hold := true } }, 1,
      ?_⟩⟩ <;> decide +kernel

theorem witness_StreamsAndPaths_StreamsStopAndGroupsStart :
    (∃ s : State, Ready s) ∧
    (∃ s : State, ∃ c, Ready s ∧ (s.srxOf c).run = true ∧ (s.srxOf c).stopLeft = some 0 ∧ s.dpc.shifting = false) ∧
    (∃ s : State, ∃ g, ∃ c, Ready s ∧ s.members g = [(c, s.srxOf c)] ∧ (s.srxOf c).gwait = true ∧ (s.grpOf
        g).presenting = false ∧ s.groupWait g ≤ (s.grpOf g).ticks) := by
  unfold Ready StoresOk RegsOk
  refine ⟨⟨w, ?_⟩, ⟨w.setSrx 127 { srxReset 127 with run := true, stopLeft := some 0 }, 127, ?_⟩, ⟨(w.setSrx 127
      { srxReset 127 with run := true, gwait := true, words := grpWords }).setGrp 15
      { presenting := false, ticks := 16 }, 15, 127, ?_⟩⟩ <;> decide +kernel

theorem witness_StreamsAndPaths_PathsChangeState :
    (∃ (s : State) (c : Nat) (p : Nat), Ready s ∧ hasDpc s.member = true ∧ p < 2 ∧ (s.dpcOf c).dual = true ∧ (s.dpcOf
        c).reset = false) ∧
    (∃ (s : State) (c : Nat) (p : Nat), Ready s ∧ hasDpc s.member = true ∧ p < 2 ∧ (s.dpcOf c).dual = true ∧ (s.dpcOf
        c).path p ≠ 3) ∧
    (∃ (s : State) (c : Nat) (p : Nat), Ready s ∧ hasDpc s.member = true ∧ p < 2 ∧ (s.dpcOf c).dual = true ∧ (s.dpcOf
        c).path p = 2 ∧ s.dpc.shifting = false) := by
  unfold Ready StoresOk RegsOk
  refine ⟨⟨w.setDpc 127 { dpcReset 127 with dual := true, reset := false, stB := 2 }, 127, 1, ?_⟩, ⟨w.setDpc 127
      { dpcReset 127 with dual := true, reset := false, stB := 2 }, 127, 1, ?_⟩, ⟨w.setDpc 127
      { dpcReset 127 with dual := true, reset := false, stB := 2 }, 127, 1, ?_⟩⟩ <;> decide +kernel

theorem witness_RungChangesOrdered :
    (∃ s : State, Ready s ∧ hasDpc s.member = true ∧ upthr (s.appliedW 0x38010) = 0) ∧
    (∃ (s : State) (p : Nat), Ready s ∧ hasDpc s.member = true ∧ p < 2 ∧ s.dsClear p = true) ∧
    (∃ (s : State) (p : Nat), Ready s ∧ hasDpc s.member = true ∧ p < 2 ∧ s.dsClear p = false) ∧
    (∃ s : State, ∃ p, Ready s ∧ hasDpc s.member = true ∧ s.dsPort = some p ∧ s.dpc.shifting = false ∧ (s.mac p).rung
        < floorRung s.member (s.macW p 0)) ∧
    (∃ s : State, ∃ p, ∃ r, Ready s ∧ hasDpc s.member = true ∧ p < 2 ∧ p < numPorts s.member ∧ (s.mac p).upshift =
        some r ∧ (s.dpc.shifting = false ∨ s.dpc.shiftPort = p) ∧ (s.mac (1 - p)).retrain = false ∧ r < (s.mac
        p).rung) := by
  unfold Ready StoresOk RegsOk
  refine ⟨⟨w.setApplied 0x38010 0x3C0032, ?_⟩, ⟨wDs, 1, ?_⟩, ⟨w, 1, ?_⟩,
      ⟨{ w with dpc := { w.dpc with b := { w.dpc.b with due := true } } }.setApplied 0x14000 0x1C, 1, ?_⟩,
      ⟨{ w with macB := { w.macB with upshift := some 0, rung := 1 } }, 1, 0, ?_⟩⟩ <;> decide +kernel

theorem witness_BankCopies :
    (∃ s : State, Ready s ∧ s.shadowed = false ∧ s.mix.copying = false) ∧
    (∃ s : State, Ready s ∧ s.shadowed = false ∧ s.mix.copying = true ∧ s.reg.held = []) ∧
    (∃ s : State, ∃ e, Ready s ∧ s.shadowed = false ∧ e < numEng s.member ∧ (s.engOf e).copying = false) ∧
    (∃ s : State, ∃ e, Ready s ∧ s.shadowed = false ∧ e < numEng s.member ∧ (s.engOf e).copying = true ∧ s.reg.held =
        []) := by
  unfold Ready StoresOk RegsOk
  refine ⟨⟨w, ?_⟩, ⟨{ w with mix := { w.mix with copying := true } }.setEng 7 { engReset 7 with copying := true },
      ?_⟩, ⟨w, 7, ?_⟩, ⟨{ w with mix := { w.mix with copying := true } }.setEng 7 { engReset 7 with copying := true },
      7, ?_⟩⟩ <;> decide +kernel

theorem witness_SafeLoads :
    (∃ (s : State) (c : Nat), Ready s ∧ s.shadowed = false ∧ c < 32 ∧ s.mix.slPend = none ∧ 0 < c ∧ c ≤ 16 ∧ (∀ x ∈
        loadPairs s bMIX c, s.slIndexOk bMIX x.1 = true)) ∧
    (∃ (s : State) (c : Nat), Ready s ∧ s.shadowed = false ∧ c < 32 ∧ s.mix.slPend = none ∧ c = 0) ∧
    (∃ (s : State) (c : Nat), Ready s ∧ s.shadowed = false ∧ c < 32 ∧ s.mix.slPend ≠ none) ∧
    (∃ s : State, ∃ c : Nat, ∃ e, Ready s ∧ s.shadowed = false ∧ c < 32 ∧ e < numEng s.member ∧ (s.engOf e).slPend =
        none ∧ 0 < c ∧ c ≤ 16 ∧ (∀ x ∈ loadPairs s (bENG e) c, s.slIndexOk (bENG e) x.1 = true)) ∧
    (∃ s : State, ∃ c : Nat, ∃ i, ∃ w, Ready s ∧ s.shadowed = false ∧ c < 32 ∧ s.mix.slPend = some [(i, w)] ∧ (∀ e,
        (s.engOf e).slPend = none)) := by
  unfold Ready StoresOk RegsOk
  refine ⟨⟨{ w with mix := { w.mix with regionMode := [(0, 2)] } }, 16, ?_⟩, ⟨w, 0, ?_⟩,
      ⟨{ w with mix := { w.mix with slPend := some [(0, 5)] } }, 5, ?_⟩, ⟨w.setEng 7
      { engReset 7 with regionMode := [(0, 2)] }, 1, 7, ?_⟩,
      ⟨{ w with mix := { w.mix with slPend := some [(0, 5)] } }, 0, 0, (5:Word), ?_⟩⟩
  all_goals (repeat' apply And.intro)
  all_goals first | decide +kernel | exact fun _ => rfl | exact Or.inl (by decide +kernel)

theorem witness_CrossfadesBeginAndEnd :
    (∃ s : State, ∃ j : Nat, ∃ p, Ready s ∧ s.mix.deferred.contains j = true ∧ (s.juncOf j).pend = some p ∧ s.xlenOf j
        ≠ 0 ∧ ((isBusSink j = true → s.busFades < xfMax s.member s.syn.rate))) ∧
    (∃ s : State, ∃ j : Nat, ∃ f, Ready s ∧ (s.juncOf j).fade = some f ∧ f.len ≤ f.pos + 1 ∧ (s.juncOf j).pend = none) := by
  unfold Ready StoresOk RegsOk
  refine ⟨⟨({ w with mix := { w.mix with deferred := [0x2000] } }.setJunc 0x2000
      { cur := 0, fade := none, pend := some 1 }).setApplied 0x50040 64, 0x2000, 1, ?_⟩, ⟨w.setJunc 0
      { cur := 0, fade := some { old := 0, new := 1, len := 64, pos := 63 }, pend := none }, 0,
      ({ old := 0, new := 1, len := 64, pos := 63 } : Xfade), ?_⟩⟩ <;> decide +kernel

theorem witness_EngineControls :
    (∃ (s : State) (e : Nat), Ready s ∧ e < numEng s.member ∧ (s.engOf e).zeroing = true ∧ (s.engOf e).zLeft = 0) ∧
    (∃ (s : State) (e : Nat), Ready s ∧ e < numEng s.member ∧ (s.engOf e).st = .running) ∧
    (∃ s : State, ∃ e : Nat, ∃ f, ∃ rest, Ready s ∧ e < numEng s.member ∧ (s.engOf e).flight = f :: rest) ∧
    (∃ (s : State) (e : Nat), Ready s ∧ e < numEng s.member ∧ (s.engOf e).st ≠ .running) := by
  unfold Ready StoresOk RegsOk
  refine ⟨⟨w.setEng 7
      { engReset 7 with zeroing := true, zLeft := 0, st := .running, flight := [{ dest := 0, value := 1, due := 9 }] },
      7, ?_⟩, ⟨w.setEng 7
      { engReset 7 with zeroing := true, zLeft := 0, st := .running, flight := [{ dest := 0, value := 1, due := 9 }] },
      7, ?_⟩, ⟨w.setEng 7
      { engReset 7 with zeroing := true, zLeft := 0, st := .running, flight := [{ dest := 0, value := 1, due := 9 }] },
      7, ({ dest := 0, value := 1, due := 9 } : PoolRead), ([]:List PoolRead), ?_⟩, ⟨w, 7, ?_⟩⟩ <;> decide +kernel

theorem witness_PowerChannelSequence :
    (∃ (s : State) (c : Nat), Ready s ∧ hasPower s.member = true ∧ c < 2) ∧
    (∃ (s : State) (c : Nat), Ready s ∧ hasPower s.member = true ∧ c < 2 ∧ (s.pwrCh c).st = 1) ∧
    (∃ (s : State) (c : Nat), Ready s ∧ hasPower s.member = true ∧ c < 2 ∧ (s.pwrCh c).st = 2) ∧
    (∃ (s : State) (c : Nat), Ready s ∧ hasPower s.member = true ∧ c < 2 ∧ (s.pwrCh c).st = 2 ∧ (s.pwrCh c).cmDone =
        true ∧ s.fenced = false) ∧
    (∃ (s : State) (c : Nat), Ready s ∧ hasPower s.member = true ∧ c < 2 ∧ (s.pwrCh c).st = 4 ∧ (s.pwrCh c).stopCm =
        false ∧ (s.pwrCh c).rampOut = true) ∧
    (∃ (s : State) (c : Nat), Ready s ∧ hasPower s.member = true ∧ c < 2 ∧ (s.pwrCh c).st = 4 ∧ (s.pwrCh c).stopCm =
        true) ∧
    (∃ (s : State) (c : Nat), Ready s ∧ hasPower s.member = true ∧ c < 2 ∧ (s.pwrCh c).st = 5 ∧ (s.pwrCh c).fault = 1
        ∧ (s.pwrCh c).faultAt + s.retrySamples < s.tt.now + s.T ∧ s.counter (pwrCtr (2 + c)) + 1 < ctrMax) ∧
    (∃ (s : State) (c : Nat), Ready s ∧ hasPower s.member = true ∧ c < 2 ∧ (s.pwrCh c).st = 3 ∧ (s.pwrCh c).retrying =
        true) ∧
    (∃ s : State, ∃ c : Nat, ∃ mv, Ready s ∧ hasPower s.member = true ∧ c < 2 ∧ 4500 ≤ mv ∧ mv ≤ 26500 ∧ (s.pwrCh
        c).st = 5 ∧ (s.pwrCh c).fault = 4) ∧
    (∃ (s : State) (c : Nat), Ready s ∧ hasPower s.member = true ∧ c < 2 ∧ idleF (s.chCfg c) = true ∧ (s.pwrCh c).st =
        3) := by
  unfold Ready StoresOk RegsOk
  refine ⟨⟨w, 1, ?_⟩, ⟨w.setPwrCh 1 { pwrChReset with st := 1 }, 1, ?_⟩, ⟨w.setPwrCh 1 { pwrChReset with st := 2 }, 1,
      ?_⟩, ⟨w.setPwrCh 1 { pwrChReset with st := 2, cmDone := true }, 1, ?_⟩, ⟨w.setPwrCh 1
      { pwrChReset with st := 4, rampOut := true }, 1, ?_⟩, ⟨w.setPwrCh 1 { pwrChReset with st := 4, stopCm := true },
      1, ?_⟩,
      ⟨{ (w.setPwrCh 1 { pwrChReset with st := 5, fault := 1, faultAt := 0 }) with tt := { w.tt with now := 1000000 } },
      1, ?_⟩, ⟨w.setPwrCh 1 { pwrChReset with st := 3, retrying := true }, 1, ?_⟩, ⟨w.setPwrCh 1
      { pwrChReset with st := 5, fault := 4 }, 1, 26500, ?_⟩, ⟨(w.setPwrCh 1 { pwrChReset with st := 3 }).setInForce
      (0x7000000 + chOff 1) 0x2CC8, 1, ?_⟩⟩ <;> decide +kernel

theorem witness_PowerFaults :
    (∃ s : State, ∃ c, Ready s ∧ hasPower s.member = true ∧ s.pwr.pbtl = false ∧ c < 2 ∧ (s.pwrCh c).st = 3 ∧ (s.pwrCh
        c).retrying = false ∧ s.counter (pwrCtr c) + 16 < ctrMax) ∧
    (∃ s : State, ∃ c, Ready s ∧ hasPower s.member = true ∧ s.pwr.pbtl = false ∧ c < 2 ∧ (s.pwrCh c).st = 3 ∧ (s.pwrCh
        c).retrying = true ∧ retryMax (s.pdW 0x20) ≠ 0 ∧ retryMax (s.pdW 0x20) ≤ (s.pwrCh c).fails + 1) ∧
    (∃ s : State, ∃ x : Int, ∃ c, Ready s ∧ hasPower s.member = true ∧ s.pwr.pbtl = false ∧ c < 2 ∧ 140 ≤ x ∧
        pwrActive (s.pwrCh c).st = true ∧ (s.pwrCh c).retrying = false) ∧
    (∃ s : State, ∃ mv, Ready s ∧ hasPower s.member = true ∧ s.pwr.pbtl = false ∧ pvddOut mv = true ∧ ((∀ c, c < 2 →
        (s.pwrCh c).retrying = false ∧ (s.pwrCh c).st = 3))) ∧
    (∃ s : State, Ready s ∧ hasPower s.member = true ∧ s.pwr.pbtl = false ∧ s.pwr.linkHstop = false ∧ s.pwr.linkFails
        < 15 ∧ s.counter (pwrCtr 9) + 1 < ctrMax) ∧
    (∃ s : State, Ready s ∧ hasPower s.member = true ∧ s.pwr.pbtl = false ∧ s.pwr.linkHstop = false ∧ s.pwr.linkFails
        = 15) ∧
    (∃ s : State, Ready s ∧ hasPower s.member = true ∧ s.pwr.pbtl = false ∧ s.pwr.linkHstop = false) ∧
    (∃ s : State, ∃ o, Ready s ∧ hasPower s.member = true ∧ s.pwr.pbtl = false ∧ 0x100 ≤ o ∧ o < 0x180 ∧ pwrActive
        (s.pwrCh 0).st = true ∧ (s.pwrCh 0).retrying = false) := by
  unfold Ready StoresOk RegsOk
  refine ⟨⟨{ (w.setPwrCh 1 { pwrChReset with st := 3 }) with tt := { w.tt with now := 640 } }, 1, ?_⟩,
      ⟨{ ((w.setPwrCh 1 { pwrChReset with st := 3, retrying := true }).setInForce 0x7000020 0x100C8) with tt := { w.tt with now := 640 } },
      1, ?_⟩, ⟨{ (w.setPwrCh 1 { pwrChReset with st := 3 }) with tt := { w.tt with now := 640 } }, (140:Int), 1, ?_⟩,
      ⟨{ { ((w.setPwrCh 0 { pwrChReset with st := 3 }).setPwrCh 1 { pwrChReset with st := 3 }) with tt := { w.tt with now := 640 } } with pmu := { w.pmu with supply := 0x3FF } },
      0, ?_⟩, ⟨{ (w) with tt := { w.tt with now := 640 } }, ?_⟩,
      ⟨{ ({ w with pwr := { w.pwr with linkFails := 15 } }) with tt := { w.tt with now := 640 } }, ?_⟩,
      ⟨{ ((w.setPwrCh 0 { pwrChReset with st := 7 }).setPwrCh 1 { pwrChReset with st := 3 }) with tt := { w.tt with now := 640 } },
      ?_⟩, ⟨{ (w.setPwrCh 0 { pwrChReset with st := 6 }) with tt := { w.tt with now := 640 } }, 0x100, ?_⟩⟩ <;> decide
      +kernel

theorem witness_PowerLimits :
    (∃ s : State, ∃ c : Nat, ∃ mv, Ready s ∧ hasPower s.member = true ∧ c < 2 ∧ battF (s.chCfg c) = true ∧ (s.pwrCh
        c).battMute = false ∧ mv < 100 * pvddMin (s.pdW 0x28)) ∧
    (∃ s : State, ∃ c : Nat, ∃ mv, Ready s ∧ hasPower s.member = true ∧ c < 2 ∧ (s.pwrCh c).battMute = true ∧ 100 *
        pvddMin (s.pdW 0x28) + 500 ≤ mv) ∧
    (∃ (s : State) (c : Nat) (x : Int), Ready s ∧ hasPower s.member = true ∧ c < 2 ∧ 0 < thermTarget (s.pdW 0x30) (fld
        (s.pdW (chOff c + 0x44)) 24 8) x (Int.ofNat (10 * fld (s.pdW (chOff c + 0x44)) 24 8)) ∧ bitAt (s.rcW pdFlags)
        12 = false) ∧
    (∃ s : State, ∃ c : Nat, ∃ mv, Ready s ∧ hasPower s.member = true ∧ c < 2 ∧ battF (s.chCfg c) = true ∧ 0 <
        battTarget (s.pdW 0x28) (s.pdW 0x2C) mv) ∧
    (∃ s : State, ∃ c : Nat, ∃ k, Ready s ∧ hasPower s.member = true ∧ c < 2 ∧ k < 4) := by
  unfold Ready StoresOk RegsOk
  refine ⟨⟨w.setInForce (0x7000000 + chOff 1) 0xCC8, 1, 0, ?_⟩, ⟨w.setPwrCh 1 { pwrChReset with battMute := true }, 1,
      26500, ?_⟩, ⟨w, 1, (130:Int), ?_⟩, ⟨w.setInForce (0x7000000 + chOff 1) 0xCC8, 1, 0, ?_⟩, ⟨w, 1, 3, ?_⟩⟩ <;>
      decide +kernel

theorem witness_PairCommands :
    (∃ s : State, Ready s ∧ hasPair s.member = true) ∧
    (∃ s : State, Ready s ∧ hasPair s.member = true ∧ s.shadowed = true) ∧
    (∃ s : State, Ready s ∧ hasPair s.member = true ∧ s.holder = true) ∧
    (∃ s : State, Ready s ∧ hasPair s.member = true ∧ s.pair.st = 5) ∧
    (∃ s : State, Ready s ∧ hasPair s.member = true ∧ s.pair.reqEnter = true ∧ s.enterCause ≠ 0) ∧
    (∃ s : State, Ready s ∧ hasPair s.member = true ∧ s.pair.reqEnter = true ∧ s.enterCause = 0 ∧ s.pair.link = true ∧
        s.pair.cfgDiff = false ∧ s.pair.refreshOut = false) := by
  unfold Ready StoresOk RegsOk
  refine ⟨⟨w, ?_⟩, ⟨{ w with pair := { w.pair with st := 1 } }, ?_⟩, ⟨{ w with pair := { w.pair with st := 4 } }, ?_⟩,
      ⟨{ w with pair := { w.pair with st := 5, lapsed := true } }, ?_⟩,
      ⟨{ w with pair := { w.pair with reqEnter := true } }, ?_⟩, ⟨wEnter, ?_⟩⟩ <;> decide +kernel

theorem witness_TabletsGovernDriving :
    (∃ (s : State) (b : List Byte) (grains : Nat), Ready s ∧ hasPair s.member = true ∧ TabletFor s b 2 ∧ natBE (slice
        b 4 1) = s.pairUnit ∧ s.pair.st = 1 ∧ genNewer (natBE (slice b 24 4)) s.pair.gen = true ∧ natBE (slice b 16 8)
        % s.T = 0 ∧ s.tt.now * 65536 + grains + 3 * s.T * 65536 ≤ natBE (slice b 16 8) * 65536) ∧
    (∃ s : State, Ready s ∧ hasPair s.member = true ∧ s.pair.grant = true ∧ s.pmu.asleep = 0 ∧ s.pair.st = 1 ∧
        s.pair.peerStale = false ∧ s.counter (pairCtr 7) + 1 < ctrMax) ∧
    (∃ s : State, Ready s ∧ hasPair s.member = true ∧ s.pair.st = 3 ∧ s.tt.now ≠ s.pair.adoptAt ∧ s.pair.tookStale =
        false) ∧
    (∃ s : State, Ready s ∧ hasPair s.member = true ∧ s.holder = true ∧ s.pair.lease ≤ s.tt.now + s.T) ∧
    (∃ s : State, ∃ b, Ready s ∧ hasPair s.member = true ∧ TabletFor s b 4 ∧ (natBE (slice b 1 1)).testBit 5 = true ∧
        s.pair.st ≠ 5) := by
  unfold Ready StoresOk RegsOk TabletFor
  refine ⟨⟨{ w with pair := { w.pair with st := 1 } }, tabGrant, 0, ?_⟩,
      ⟨{ w with pair := { w.pair with st := 1, grant := true } }, ?_⟩,
      ⟨{ w with pair := { w.pair with st := 3, adoptAt := 32 } }, ?_⟩,
      ⟨{ w with pair := { w.pair with st := 4, driving := true } }, ?_⟩, ⟨{ w with pair := { w.pair with st := 4 } },
      tabDark, ?_⟩⟩ <;> decide +kernel

theorem witness_ImluindLink :
    (∃ s : State, ∃ bytes, Ready s ∧ hasPair s.member = true ∧ imlParse bytes = none ∧ s.shadowed = false ∧ s.counter
        (pairCtr 2) + 1 < ctrMax ∧ s.counter (sdgCtr 10 2) + 1 < ctrMax) ∧
    (∃ s : State, ∃ bytes, ∃ k, Ready s ∧ hasPair s.member = true ∧ imlParse bytes = some k ∧ k.typ = 1 ∧ k.block ≤ 11
        ∧ s.shadowed = true ∧ s.pair.link = true ∧ s.syn.pairPll = true ∧ k.set = s.pair.rxSet ∧ s.pair.rxDone =
        false) ∧
    (∃ s : State, ∃ bytes, ∃ k, Ready s ∧ hasPair s.member = true ∧ imlParse bytes = some k ∧ k.typ = 2 ∧ k.pay.length
        = 32 ∧ natBE (slice k.pay 0 2) = s.pairPid) ∧
    (∃ s : State, ∃ b, Ready s ∧ hasPair s.member = true ∧ s.holder = true ∧ b < s.pair.blocks.length ∧
        s.pair.acked.getLsbD b = false ∧ s.counter (pairCtr 1) + 1 < ctrMax) ∧
    (∃ s : State, ∃ x, ∃ y, Ready s ∧ hasPair s.member = true ∧ s.shadowed = true ∧ s.pair.rxDone = false ∧ s.pair.rx
        = [(0, x), (1, y)] ∧ s.pair.rxSet + 2 * s.T ≤ s.tt.now) ∧
    (∃ s : State, Ready s ∧ hasPair s.member = true ∧ s.pair.link = true ∧ hblossF s.pairCfg ≤ s.pair.quiet) := by
  unfold Ready StoresOk RegsOk
  refine ⟨⟨w, ([] : List Byte), ?_⟩,
      ⟨{ w with pair := { w.pair with st := 1, link := true, rxDone := false }, syn := { w.syn with pairPll := true } },
      imlMirror, ((imlParse imlMirror).getD { typ := 0, flags := 0, set := 0, block := 0, pay := [] }), ?_⟩, ⟨w,
      imlStatus, ((imlParse imlStatus).getD { typ := 0, flags := 0, set := 0, block := 0, pay := [] }), ?_⟩,
      ⟨{ w with pair := { w.pair with st := 4, blocks := [[], []] } }, 1, ?_⟩,
      ⟨{ w with pair := { w.pair with st := 1, rxDone := false, rx := [(0, [1]), (1, [2])] }, tt := { w.tt with now := 128 } },
      ([1] : List Byte), ([2] : List Byte), ?_⟩, ⟨{ w with pair := { w.pair with link := true, quiet := 3 } }, ?_⟩⟩
      <;> decide +kernel

/-- The end of a CRC pass whose comparison counts (R397). -/
def wCrc : State := { w with reg := { w.reg with crc := { crcReset with passOn := true, passCounts := true } } }

theorem wCrc_ready (x : Word) : Ready (wCrc.setRw 0x1060 x) :=
  ⟨(State.setRw_frame wCrc 0x1060 x).stores (by unfold StoresOk RegsOk; decide +kernel), rfl⟩

theorem crcValue_setRw (s : State) (a : Nat) (x : Word) : (s.setRw a x).crcValue = s.crcValue := by
  have h1 : (s.setRw a x).passWord = s.passWord := rfl
  have h2 : (s.setRw a x).inMode1 = s.inMode1 := rfl
  have h3 : (s.setRw a x).inMode2 = s.inMode2 := rfl
  have h4 : (s.setRw a x).present = s.present := rfl
  have h5 : (s.setRw a x).passTable = s.passTable := by
    funext t
    unfold State.passTable
    rw [h1, h2, h3, State.setRw_member]
  unfold State.crcValue State.passRegs
  rw [h1, h4, h5, State.setRw_member]

theorem wCrc_value (x : Word) : (wCrc.setRw 0x1060 x).crcValue = wCrc.crcValue := crcValue_setRw _ _ _

theorem wCrc_ref (x : Word) : (wCrc.setRw 0x1060 x).rwW 0x1060 = x := sget_sset_same (by decide +kernel) _ _

theorem word_ne_succ (x : Word) : x ≠ x + 1 := by bv_omega

theorem witness_HardStopResetsAndCrcPasses_compared :
    (∃ s : State, Ready s ∧ s.reg.crc.passOn = true ∧ s.reg.crc.passCounts = true ∧ s.crcValue = s.rwW 0x1060) ∧
    (∃ s : State, Ready s ∧ s.reg.crc.passOn = true ∧ s.reg.crc.passCounts = true ∧ s.crcValue ≠ s.rwW 0x1060 ∧
      s.reg.crc.fresh = true) :=
  ⟨⟨wCrc.setRw 0x1060 wCrc.crcValue, wCrc_ready _, rfl, rfl, (wCrc_value _).trans (wCrc_ref _).symm⟩,
    ⟨wCrc.setRw 0x1060 (wCrc.crcValue + 1), wCrc_ready _, rfl, rfl,
      fun h => word_ne_succ _ (((wCrc_value _).symm.trans h).trans (wCrc_ref _)), rfl⟩⟩

/-- A frame of context 7 that carries a poisoned word. -/
def wFrameOf7 : TxFrame := { body := [1], poison := false, ring := 0, slots := [], ctx := some 7, ptp := none }

/-- The MAC of ring B with that frame at the head of class A. -/
def wClassA : State :=
  ({ w with macB := { w.macB with up := true, queues := [(2, [wFrameOf7])] } }).setApplied 0x14030 5

theorem credit_at_rest (s : State) (p : Nat) (h : (s.mac p).creditA = 0) : 0 ≤ s.creditAfter p 0 0 := by
  unfold State.creditAfter clampI
  have z (x : Int) : Int.ofNat 0 * x = 0 := Int.zero_mul x
  simp only [h, if_true, z]
  simp only [Int.ofNat_eq_natCast]
  split <;> (try split) <;> (try split) <;> omega

theorem witness_FramesSentAndReceived_poisoned :
    ∃ (s : State) (p n bad q : Nat) (f : TxFrame) (l : List TxFrame) (k : Nat), Ready s ∧ p < numPorts s.member ∧
      (s.mac p).up = true ∧ (s.mac p).cur = none ∧ (s.mac p).rem = none ∧ (s.mac p).sleep = false ∧
      (slopeOf (s.macW p 0x30) ≠ 0 ∨ s.queue p 2 = []) ∧ (slopeOf (s.macW p 0x34) ≠ 0 ∨ s.queue p 3 = []) ∧ q < 8 ∧
      s.queue p q = f :: l ∧ (s.mac p).stopped q = false ∧ (q = 2 → 0 ≤ s.creditAfter p 0 n) ∧
      (q = 3 → 0 ≤ s.creditAfter p 1 n) ∧ (∀ k, k < q → s.queue p k = []) ∧ f.ptp = none ∧ f.ctx = some k ∧
      f.poison = false ∧ 0 < bad ∧ s.counter (stxCtr k 3) + 1 < ctrMax ∧ s.counter (sdgCtr (2 + p) 0) + bad < ctrMax ∧
      stxCtr k 3 ≠ sdgCtr (2 + p) 0 := by
  unfold Ready StoresOk RegsOk
  refine ⟨wClassA, 1, 0, 3, 2, wFrameOf7, [], 7, by decide +kernel, by decide +kernel, by decide +kernel,
    by decide +kernel, by decide +kernel, by decide +kernel, by decide +kernel, by decide +kernel, by decide +kernel,
    by decide +kernel, by decide +kernel, fun _ => credit_at_rest _ _ (by decide +kernel), fun h => by omega,
    by decide +kernel, by decide +kernel, by decide +kernel, by decide +kernel, by decide +kernel, by decide +kernel,
    by decide +kernel, by decide +kernel⟩

end Sys2Proof.Tests
end

/-! SUPPORT. What every command may touch: the footprint of an access by the address it names, and from it and the footprints
of the part's operations one statement about all commands (R2, R378 to R394). -/

namespace Sys2Proof.Machine

/-! ### What one 32-bit access may touch, by the address it names -/

/-- The parts a write of ones to the WO fields at an address may touch: those of the command of that register. -/
def woTouches (a : Nat) : List Part :=
  if a = 0x1004 then [.snap]
  else if a = 0x10C4 then [.rcu]
  else if a = 0x3010 then [.pmu]
  else if a = 0x3104 then [.rc, .mdio]
  else if a = 0x400C then [.rc, .count, .mbox, .mgt]
  else if 0x8100 ≤ a ∧ a < 0x8D40 then [.ring]
  else if a = 0x10004 then [.rc, .count, .hstop, .tim, .mcr, .macA, .macB, .mdio, .dpc, .ring]
  else if a = 0x14004 then [.rc, .count, .hstop, .tim, .mcr, .macA, .macB, .mdio, .dpc, .ring]
  else if a = 0x20004 then [.rc, .tim]
  else if a = 0x28004 then [.syn]
  else if a = 0x2C004 then [.tt]
  else if a = 0x30000 then [.stx]
  else if a = 0x34000 then [.srx]
  else if a = 0x38004 then [.rc, .dpc]
  else if 0x40100 ≤ a ∧ a < 0x40900 then [.mbox]
  else if a = 0x50000 then [.rc, .mix, .eng, .pair]
  else if 0x60000 ≤ a ∧ a < 0x68000 then [.rc, .mix, .eng, .pair]
  else if 0x70000 ≤ a ∧ a < 0x72000 then [.sap]
  else if a = 0x80000 then [.pwr]
  else if a = 0x88008 then [.rc, .count, .macA, .macB, .pair]
  else []

/-- The parts a write of the RW fields at an address may touch. -/
def rwTouches (a : Nat) : List Part :=
  if a = 0x1018 then [.rcu]
  else if a = 0x1050 then [.rcu]
  else if a = 0x1058 then [.rcu]
  else if a = 0x1060 then [.rw, .crc, .mix]
  else if 0x2010 ≤ a ∧ a < 0x201C then [.rw]
  else if 0x8100 ≤ a ∧ a < 0x8D40 then [.rw, .rc, .macA, .macB, .ring, .cmd]
  else if isDep a then [.rw, .rc, .tt, .pair]
  else if a = 0x24034 then [.rw, .mcr]
  else [.rw]

/-- The parts a write of the LK fields at an address may touch. -/
def lkTouches (a : Nat) : List Part := if a = 0x1040 then [.rcu] else [.rw, .rcu]

/-- The parts a write of a port register may touch (R383). -/
def portWriteTouches (a : Nat) : List Part :=
  if a = 0x1054 then [.staged, .rw, .rc, .bank, .snap, .rcu, .tt, .pair]
  else if isMboxPort a then [.rc, .count, .mbox]
  else [.rw, .rc, .eng]

/-- The parts a read of a port register may touch (R383). -/
def portReadTouches (a : Nat) : List Part :=
  if a = 0x1054 then [.rc, .count, .rcu, .pwr]
  else if isMboxPort a then [.rc, .mbox]
  else [.rw, .rc]

/-- The parts a write of the fields other than the RS fields of a register may touch. -/
def otherTouches (a : Nat) (x : RegRow) : List Part :=
  if x.wo ≠ 0 then woTouches a
  else if x.lk ≠ 0 then lkTouches a
  else if x.rw ≠ 0 then rwTouches a
  else []

/-- The parts a 32-bit write at an address may touch: those of a bus error (R381), and those of the register there. -/
def writeTouches (a : Nat) : List Part :=
  [.rc, .rcu] ++ match rowAt a with
    | none => []
    | some x => if x.port then portWriteTouches a else (if x.rs ≠ 0 then [.staged, .snap] else []) ++ otherTouches a x

/-- The parts a 32-bit read at an address may touch: those of a bus error, and those of the register
there (R386, R387). -/
def readTouches (a : Nat) : List Part :=
  [.rc, .rcu] ++ match rowAt a with
    | none => []
    | some x => if x.port then portReadTouches a else [.rc, .count, .rcu]

section
variable {l : List Part} {r s t : State}

/-- A choice whose branches may touch what a list chosen in the same way says. -/
theorem Follows.branch {c : Prop} [Decidable c] {k m : List Part} (hl : (if c then k else m) ⊆ l)
    (hs : k ⊆ l → Follows l r s) (ht : m ⊆ l → Follows l r t) : Follows l r (if c then s else t) := by
  by_cases hc : c
  · rw [if_pos hc] at hl ⊢
    exact hs hl
  · rw [if_neg hc] at hl ⊢
    exact ht hl

theorem Follows.branch_snd {γ : Type} {c : Prop} [Decidable c] {k m : List Part} {p q : γ × State}
    (hl : (if c then k else m) ⊆ l) (hs : k ⊆ l → Follows l r p.2) (ht : m ⊆ l → Follows l r q.2) :
    Follows l r (if c then p else q).2 := by
  rw [apply_ite Prod.snd]
  exact .branch hl hs ht

/-! ### Updates of one part that the accesses write out in place -/

theorem State.askSleep_follows (s : State) (b : Bool) (hl : [.pmu] ⊆ l) (h : Follows l r s) :
    Follows l r { s with pmu := { s.pmu with sleepReq := b } } :=
  h.mkRegs hl id fun p hp => by
    cases p with
    | pmu => exact absurd (List.mem_singleton_self _) hp
    | _ => rfl

theorem State.askStxStop_follows (s : State) (b : Bool) (hl : [.stx] ⊆ l) (h : Follows l r s) :
    Follows l r { s with stx := { s.stx with stopAll := b } } :=
  h.mkRegs hl id fun p hp => by
    cases p with
    | stx => exact absurd (List.mem_singleton_self _) hp
    | _ => rfl

theorem State.askSrxStop_follows (s : State) (b : Bool) (hl : [.srx] ⊆ l) (h : Follows l r s) :
    Follows l r { s with srx := { s.srx with stopAll := b } } :=
  h.mkRegs hl id fun p hp => by
    cases p with
    | srx => exact absurd (List.mem_singleton_self _) hp
    | _ => rfl

theorem State.reply_follows (s : State) (x : Reply) (hl : [.reply] ⊆ l) (h : Follows l r s) :
    Follows l r { s with reply := x } :=
  h.mkRegs hl id fun p hp => by
    cases p with
    | reply => exact absurd (List.mem_singleton_self _) hp
    | _ => rfl

/-- The lock bits of RCU and the marks of its write-once registers (R391). -/
theorem State.locks_follows (s : State) (k : BitVec 18) (a b : Bool) (hl : [.rcu] ⊆ l) (h : Follows l r s) :
    Follows l r { s with reg := { s.reg with lock := k, roleDone := a, subidDone := b } } :=
  h.mkRegs hl id fun p hp => by
    cases p with
    | rcu => exact absurd (List.mem_singleton_self _) hp
    | _ => rfl

/-! ### What an access of one register may touch -/

theorem State.woAct_follows_at (a : Nat) (d : Word) (hl : woTouches a ⊆ l) (h : Follows l r s) :
    Follows l r (s.woAct a d) := by
  unfold woTouches at hl
  unfold State.woAct
  refine .branch hl (State.strobe_follows _ _ · h) fun hl => ?_
  refine .branch hl (State.brstWrite_follows _ _ · h) fun hl => ?_
  refine .branch hl (fun hl => .ite (State.askSleep_follows _ _ hl h) h) fun hl => ?_
  refine .branch hl (State.mdioCommand_follows _ _ · h) fun hl => ?_
  refine .branch hl (State.mgtBell_follows _ _ · h) fun hl => ?_
  refine .branch hl (fun hl => .ite (State.ringRestart_follows _ _ hl h) h) fun hl => ?_
  refine .branch hl (State.macCtl_follows _ _ _ · h) fun hl => ?_
  refine .branch hl (State.macCtl_follows _ _ _ · h) fun hl => ?_
  refine .branch hl (fun hl => .ite (State.timeSet_follows _ _ hl h) h) fun hl => ?_
  refine .branch hl (fun hl => .ite (State.modSyn_follows _ _ hl h) h) fun hl => ?_
  refine .branch hl (fun hl => .ite (State.disarmAll_follows _ hl h) h) fun hl => ?_
  refine .branch hl (fun hl => .ite (State.askStxStop_follows _ _ hl h) h) fun hl => ?_
  refine .branch hl (fun hl => .ite (State.askSrxStop_follows _ _ hl h) h) fun hl => ?_
  refine .branch hl (State.dpcCtl_follows _ _ · h) fun hl => ?_
  refine .branch hl (fun hl => .ite (State.mboxFlush_follows _ _ hl h) h) fun hl => ?_
  refine .branch hl (State.mixCtl_follows _ _ · h) fun hl => ?_
  refine .branch hl (State.engCommand_follows _ _ _ · h) fun hl => ?_
  refine .branch hl (State.sapCtl_follows _ _ _ · h) fun hl => ?_
  refine .branch hl (State.pwrCtl_follows _ _ · h) fun hl => ?_
  exact .branch hl (State.pairCtl_follows _ _ · h) fun _ => h

theorem State.rwAct_follows_at (q : Req) (a : Nat) (w : Word) (hl : rwTouches a ⊆ l) (h : Follows l r s) :
    Follows l r (s.rwAct q a w) := by
  unfold rwTouches at hl
  unfold State.rwAct
  refine .branch hl (State.setRequester_follows _ _ _ id · h) fun hl => ?_
  refine .branch hl (State.setRequester_follows _ _ _ id · h) fun hl => ?_
  refine .branch hl (State.setRequester_follows _ _ _ id · h) fun hl => ?_
  refine .branch hl (State.crcCommit_follows _ _ · h) fun hl => ?_
  refine .branch hl (State.maskWrite_follows _ _ _ · h) fun hl => ?_
  refine .branch hl (State.ringWrite_follows _ _ _ · h) fun hl => ?_
  refine .branch hl (State.depReg_follows _ _ _ · h) fun hl => ?_
  refine .branch hl (fun hl => ?_) (State.setRw_follows _ _ _ · h)
  have hw : Follows l r (s.setRw a w) := State.setRw_follows _ _ _ (within hl rfl) h
  exact .ite (State.modMcr_follows _ _ (within hl rfl) hw) hw

theorem State.lkAct_follows_at (a : Nat) (w : Word) (hl : lkTouches a ⊆ l) (h : Follows l r s) :
    Follows l r (s.lkAct a w) := by
  unfold lkTouches at hl
  unfold State.lkAct
  refine .branch hl (State.locks_follows _ _ _ _ · h) fun hl => ?_
  have hw : Follows l r (s.setRw a w) := State.setRw_follows _ _ _ (within hl rfl) h
  exact .ite (State.locks_follows _ _ _ _ (within hl rfl) hw) (.ite (State.locks_follows _ _ _ _ (within hl rfl) hw) h)

theorem State.portWrite_follows_at (q : Req) (a : Nat) (d : Word) (hl : portWriteTouches a ⊆ l) (h : Follows l r s) :
    Follows l r (s.portWrite q a d) := by
  unfold portWriteTouches at hl
  unfold State.portWrite
  exact .branch hl (State.indWrite_follows _ _ _ · h) fun hl =>
    .branch hl (State.mboxAppend_follows _ _ _ _ · h) (State.lmWrite_follows _ _ _ _ · h)

theorem State.otherWrite_follows_at (q : Req) (v : View) (a : Nat) (d : Word) (x : RegRow) (he : [.rc, .rcu] ⊆ l)
    (hl : otherTouches a x ⊆ l) (h : Follows l r s) : Follows l r (s.otherWrite q v a d x) := by
  unfold otherTouches at hl
  unfold State.otherWrite
  have hb : Follows l r (s.berr q (viaView v a) ceLocked true none) := State.berr_follows _ _ _ _ _ _ he h
  refine .branch hl (State.woAct_follows_at _ _ · h) fun hl => ?_
  refine .branch hl (fun hl => .ite hb (State.lkAct_follows_at _ _ hl h)) fun hl => ?_
  exact .branch hl (fun hl => .ite hb (State.rwAct_follows_at _ _ _ hl h)) fun _ => h

/-- The register a member has at an address is the one the map lays out there (R398). -/
theorem State.rowAt_of_present {a : Nat} {x : RegRow} (h : s.present a = some x) : rowAt a = some x := by
  unfold State.present at h
  split at h
  · nomatch h
  · split at h
    · exact h
    · nomatch h

/-- A 32-bit write, through any view, touches no part that neither a bus error nor the register there may touch. -/
theorem State.write32_follows_at (q : Req) (v : View) (a : Nat) (d : Word) (hl : writeTouches a ⊆ l)
    (h : Follows l r s) : Follows l r (s.write32 q v a d) := by
  obtain ⟨he, hl⟩ := List.append_subset.mp hl
  have hb (c : Nat) : Follows l r (s.berr q (viaView v a) c true none) := State.berr_follows _ _ _ _ _ _ he h
  unfold State.write32
  cases hp : s.present a with
  | none => exact hb _
  | some x =>
    rw [State.rowAt_of_present hp] at hl
    dsimp only
    cases kindFault v a x with
    | some c => exact hb c
    | none =>
      refine .branch hl (State.portWrite_follows_at _ _ _ · h) fun hl => ?_
      obtain ⟨hs, ho⟩ := List.append_subset.mp hl
      refine State.otherWrite_follows_at _ _ _ _ _ he ho (.ite (hb _) ?_)
      exact .branch hs (State.stageWrite_follows _ _ _ _ _ · h) fun _ => h

theorem State.portRead_follows_at (q : Req) (i : Instant) (a : Nat) (hl : portReadTouches a ⊆ l) (h : Follows l r s) :
    Follows l r (s.portRead q i a).2 := by
  unfold portReadTouches at hl
  unfold State.portRead
  refine .branch_snd hl (State.indRead_follows _ _ _ · h) fun hl => ?_
  refine .branch_snd hl (fun hl => .ite_snd h ?_) (State.lmRead_follows _ _ _ · h)
  exact State.mboxTake_follows _ _ hl h

/-- A 32-bit read, through any view, touches no part that neither a bus error nor the register there may touch. -/
theorem State.read32_follows_at (q : Req) (v : View) (i : Instant) (a : Nat) (hl : readTouches a ⊆ l)
    (h : Follows l r s) : Follows l r (s.read32 q v i a).2 := by
  obtain ⟨he, hl⟩ := List.append_subset.mp hl
  unfold State.read32
  cases hp : s.present a with
  | none =>
    dsimp only
    exact State.berr_follows _ _ _ _ _ _ he h
  | some x =>
    rw [State.rowAt_of_present hp] at hl
    dsimp only
    refine .branch_snd hl (fun hl => .ite_snd (State.portRead_follows_at _ _ _ hl h) h) fun hl => ?_
    refine .ite_snd (.ite_snd h ?_) h
    exact State.clearRead_follows _ _ _ (within hl rfl) (State.latch_follows _ _ _ _ (within hl rfl) h)

theorem State.regRead_follows_at (q : Req) (i : Instant) (a : Nat) (hl : readTouches a ++ [.reply] ⊆ l)
    (h : Follows l r s) : Follows l r (s.regRead q i a) := by
  obtain ⟨hl, hr⟩ := List.append_subset.mp hl
  exact State.reply_follows _ _ hr (State.read32_follows_at q .normal i a hl h)

end

/-! ### What the registers the commands name may touch -/

/-- The seven writable words of a departure (R35). -/
theorem writeTouches_departure :
    ∀ d < 64, ∀ n < 7, writeTouches (depBase d + 4 * n) ⊆ [.rw, .rc, .rcu, .tt, .pair] := by decide +kernel

theorem writeTouches_engCtl :
    ∀ e < 8, writeTouches (engBase e + 4) ⊆ [.rc, .rcu, .mix, .eng, .pair] := by decide +kernel

theorem writeTouches_lmData :
    ∀ e < 8, ∀ hi : Bool, writeTouches (engBase e + if hi then 0x88 else 0x84) ⊆ [.rw, .rc, .rcu, .eng] := by
  decide +kernel

theorem writeTouches_sapCtl : ∀ p < 8, writeTouches (sapBase p + 4) ⊆ [.rc, .rcu, .sap] := by decide +kernel

theorem writeTouches_macCtl : ∀ p < 2, writeTouches (macBase p + 4) ⊆
    [.rc, .count, .rcu, .hstop, .tim, .mcr, .macA, .macB, .mdio, .dpc, .ring] := by decide +kernel

theorem writeTouches_ringCfg :
    ∀ p < 49, writeTouches (ringBase p + 0x10) ⊆ [.rw, .rc, .rcu, .macA, .macB, .ring, .cmd] := by decide +kernel

theorem writeTouches_ringCtl : ∀ p < 49, writeTouches (ringBase p + 0x20) ⊆ [.rc, .rcu, .ring] := by decide +kernel

theorem writeTouches_sdgCtl : ∀ n < 32, writeTouches (sdgBase n + 4) ⊆ [.rc, .rcu, .mbox] := by decide +kernel

/-- Only the mailboxes among the sidings have a port (R383); elsewhere the offsets are reserved. -/
theorem writeTouches_sdgData :
    ∀ n < 32, writeTouches (sdgBase n + 0x30) ⊆ [.rc, .count, .rcu, .mbox] := by decide +kernel

theorem writeTouches_sdgDataEnd :
    ∀ n < 32, writeTouches (sdgBase n + 0x34) ⊆ [.rc, .count, .rcu, .mbox] := by decide +kernel

theorem readTouches_sdgData :
    ∀ n < 32, readTouches (sdgBase n + 0x30) ++ [.reply] ⊆ [.rc, .count, .rcu, .mbox, .reply] := by decide +kernel

theorem readTouches_lmData :
    ∀ e < 8, readTouches (engBase e + 0x88) ++ [.reply] ⊆ [.rw, .rc, .rcu, .reply] := by decide +kernel

theorem writeTouches_grpmap : ∀ n < 5, writeTouches (0x1020 + 4 * n) ⊆ [.rw, .rc, .rcu] := by decide +kernel

theorem writeTouches_evtMask : ∀ k < 3, writeTouches (0x2010 + 4 * k) ⊆ [.rw, .rc, .rcu] := by decide +kernel

/-! ### What every command does -/

/-- An outcome that is a next state: what follows from `s` within the listed parts, with its messages sent. -/
def Completes (l : List Part) (s : State) (o : Host.Outcome State Fault Refusal) : Prop :=
  ∃ t, o = done t ∧ Follows l s t

section
variable {l : List Part} {s t : State}

/-- Sending the messages that fell due leaves none due and nothing else changed that a frame speaks of. -/
theorem Completes.exists_next {o : Host.Outcome State Fault Refusal} (h : Completes l s o) :
    ∃ t, o = .next t ∧ Follows l s t ∧ t.due = [] := by
  obtain ⟨t, rfl, ht⟩ := h
  exact ⟨settle t, rfl, settle_follows t ht, rfl⟩

theorem Completes.ite {c : Prop} [Decidable c] {o p : Host.Outcome State Fault Refusal} (ho : Completes l s o)
    (hp : Completes l s p) : Completes l s (if c then o else p) := by
  split
  · exact ho
  · exact hp

theorem done_completes (h : Follows l s t) : Completes l s (done t) := ⟨t, rfl, h⟩

theorem run_completes (h : Follows l s t) : Completes l s (run s t) := done_completes (.ite (.refl s) h)

theorem runPowered_completes (h : Follows l s t) : Completes l s (runPowered s t) := done_completes (.ite (.refl s) h)

/-- A command about a unit the member may lack, or with an operand out of range (R2). -/
theorem Follows.guarded {c : Prop} [Decidable c] (h : c → Follows l s t) : Follows l s (if c then t else s) := by
  split
  · exact h ‹c›
  · exact .refl s

/-- The same under `run`: the guards `State.onPort`, `State.onSap` and their like unfold to this choice. -/
theorem guarded_completes {c : Prop} [Decidable c] (h : c → Follows l s t) :
    Completes l s (run s (if c then t else s)) := run_completes (.guarded h)

theorem write_completes {q : Req} {v : View} {a : Nat} {d : Word} (hw : writeTouches a ⊆ l) :
    Completes l s (run s (s.write32 q v a d)) :=
  run_completes (State.write32_follows_at _ _ _ _ hw (.refl s))

theorem guardedWrite_completes {c : Prop} [Decidable c] {q : Req} {v : View} {a : Nat} {d : Word}
    (hw : c → writeTouches a ⊆ l) : Completes l s (run s (if c then s.write32 q v a d else s)) :=
  guarded_completes fun hc => State.write32_follows_at _ _ _ _ (hw hc) (.refl s)

end

/-- Every command answers a next state that follows from the state it found, within the parts listed for it. -/
theorem exec_completes (c : Instr) (s : State) : Completes (touches c) s (exec c s) := by
  cases c with
  -- A write of a named register: what the register there may touch.
  | rcuStrobe _ | rcuLockWrite _ | crcRefWrite _ | indDataWrite _ | pairRoleWrite _ | pciSubidWrite _ | rcuBrst _
  | disarmAll _ | relock _ | mdioCommand _ | stxStopAll _ | srxStopAll _ | clrHold _ | mixCopy _ | slGo _ _
  | enter _ | release _ | report _ | refresh _ | undark _ | sleepEnter _ | mgtDbell _ =>
    exact write_completes (of_decide_eq_true rfl)
  | timeSet _ _ | dsNow _ _ | pwrWctlArm _ _ | pwrWctlStop _ _ | retryNow _ _ =>
    exact guardedWrite_completes fun _ => of_decide_eq_true rfl
  | grpmapWrite n _ => exact guardedWrite_completes fun hn => writeTouches_grpmap n hn
  | indDataRead _ _ => exact run_completes (State.regRead_follows_at _ _ _ (of_decide_eq_true rfl) (.refl s))
  | departureWrite d n _ =>
    exact guarded_completes fun hn =>
      .guarded fun hd => State.write32_follows_at _ _ _ _ (writeTouches_departure d hd n (by omega)) (.refl s)
  | arm d _ | disarm d _ => exact guardedWrite_completes fun hd => writeTouches_departure d hd 6 (by decide)
  | retrain p _ | reverify p _ | holdEnd p _ => exact guardedWrite_completes fun hp => writeTouches_macCtl p hp
  | mailboxAppend n _ => exact guardedWrite_completes fun hn => writeTouches_sdgData n hn
  | mailboxAppendEnd n _ => exact guardedWrite_completes fun hn => writeTouches_sdgDataEnd n hn
  | mailboxTake n _ =>
    exact guarded_completes fun hn => State.mboxCheck_follows _ _ _ _ _ (subParts_spec rfl)
      (State.regRead_follows_at _ _ _ (readTouches_sdgData n hn) (.refl s)) (.refl s)
  | flush n _ => exact guardedWrite_completes fun hn => writeTouches_sdgCtl n hn
  | ringEnable p _ _ | ringDisable p _ => exact guardedWrite_completes fun hp => writeTouches_ringCfg p hp
  | restart p _ => exact guardedWrite_completes fun hp => writeTouches_ringCtl p hp
  | maskWrite k _ => exact guardedWrite_completes fun hk => writeTouches_evtMask k hk
  | engClear e _ | dclr e _ | engSlGo e _ _ | engCopy e _ =>
    exact guardedWrite_completes fun he => writeTouches_engCtl e he
  | lmDataWrite e hi _ => exact guardedWrite_completes fun he => writeTouches_lmData e he hi
  | lmDataRead e _ =>
    exact guarded_completes fun he => State.regRead_follows_at _ _ _ (readTouches_lmData e he) (.refl s)
  | sapCtlStart p _ | sapCtlStop p _ | sapCtlRestart p _ =>
    exact guardedWrite_completes fun hp => writeTouches_sapCtl p hp
  | registerWrite _ => exact run_completes (State.accessWrite_follows _ _ (subParts_spec rfl) (.refl s))
  | clearOnRead _ _ | latchingRead _ _ =>
    exact run_completes (State.accessRead_follows _ _ _ (subParts_spec rfl) (.refl s))
  -- Registers, ticks and adoptions.
  | blockReset => exact run_completes (State.blockReset_follows _ (subParts_spec rfl) (.refl s))
  | crcPassEnd _ => exact run_completes (State.passEnd_follows _ _ (subParts_spec rfl) (.refl s))
  | tickBoundary _ => exact run_completes (State.tick_follows _ _ (subParts_spec rfl) (.refl s))
  | sapAdopt _ => exact guarded_completes fun _ => State.sapAdopt_follows _ _ (subParts_spec rfl) (.refl s)
  | pwrAdopt => exact guarded_completes fun _ => State.pwrAdopt_follows _ (subParts_spec rfl) (.refl s)
  | tickLengthAdopt => exact run_completes (State.tickAdopt_follows _ (subParts_spec rfl) (.refl s))
  -- Time synchronisation and media clock recovery.
  | ptpFrameRx _ _ _ =>
    exact guarded_completes fun _ => .guarded fun _ => State.holdChecks_follows _ (subParts_spec rfl)
      (State.ptpArrive_follows _ _ _ _ (subParts_spec rfl) (.refl s))
  | syncTx _ _ =>
    exact guarded_completes fun _ => .guarded fun _ => State.syncTx_follows _ _ _ (subParts_spec rfl) (.refl s)
  | announceTx _ _ =>
    exact guarded_completes fun _ => .guarded fun _ => State.announceTx_follows _ _ _ (subParts_spec rfl) (.refl s)
  | syncReceiptTimeout _ =>
    exact guarded_completes fun _ => State.leaveSynced_follows _ _ (subParts_spec rfl) (.refl s)
  | announceReceiptTimeout _ _ =>
    exact guarded_completes fun _ => State.holdChecks_follows _ (subParts_spec rfl)
      (State.bmcaTake_follows _ _ _ (subParts_spec rfl) (State.leaveSynced_follows _ _ (subParts_spec rfl) (.refl s)))
  | ppsInEdge _ => exact run_completes (State.ppsEdge_follows _ _ _ (subParts_spec rfl) (.refl s))
  | ppsOut => exact run_completes (State.ppsRise_follows _ (subParts_spec rfl) (.refl s))
  | referenceUpdate _ _ _ => exact run_completes (State.refUpdate_follows _ _ _ _ (subParts_spec rfl) (.refl s))
  | mediaPositionSet _ =>
    exact run_completes (State.atBoundary_follows _ _ _ (.refl s)
      (State.positionSet_follows _ (subParts_spec rfl) (.refl s)))
  | masterModeEntry => exact run_completes (State.masterEntry_follows _ (subParts_spec rfl) (.refl s))
  | mcrLock => exact run_completes (State.lockNow_follows _ (subParts_spec rfl) (.refl s))
  | lockLost => exact run_completes (State.lockLost_follows _ (subParts_spec rfl) (.refl s))
  | referenceLoss => exact run_completes (State.refLossDue_follows _ (subParts_spec rfl) (.refl s))
  | failover => exact run_completes (State.failover_follows _ (subParts_spec rfl) (.refl s))
  | windowMove _ => exact run_completes (State.windowMove_follows _ _ (subParts_spec rfl) (.refl s))
  | slewComplete => exact run_completes (State.slewEnd_follows _ (subParts_spec rfl) (.refl s))
  | stepRampDown => exact run_completes (State.stepRamp_follows _ (subParts_spec rfl) (.refl s))
  | mcrStep => exact run_completes (State.stepNow_follows _ (subParts_spec rfl) (.refl s))
  -- Synthesis.
  | xoLoss => exact runPowered_completes (State.xoLoss_follows _ (subParts_spec rfl) (.refl s))
  | serdesPllLock _ =>
    exact runPowered_completes (.guarded fun _ => State.setSerdes_follows _ _ _ (subParts_spec rfl) (.refl s))
  | serdesUnlock _ => exact runPowered_completes (State.serdesLoss_follows _ _ (subParts_spec rfl) (.refl s))
  | synUnlock => exact run_completes (State.mpllLoss_follows _ (subParts_spec rfl) (.refl s))
  | synRelock => exact run_completes (State.relockNow_follows _ (subParts_spec rfl) (.refl s))
  | relockRampDownEnd => exact run_completes (State.rampDownEnd_follows _ (subParts_spec rfl) (.refl s))
  | mpllLock => exact run_completes (State.mpllUp_follows _ (subParts_spec rfl) (.refl s))
  | counterCheckEnd _ => exact run_completes (State.counterEnd_follows _ _ (subParts_spec rfl) (.refl s))
  | relockTimeout => exact run_completes (State.step3Timeout_follows _ (subParts_spec rfl) (.refl s))
  | fenceSwitchBack => exact run_completes (State.fenceBack_follows _ (subParts_spec rfl) (.refl s))
  | relockEnd _ =>
    exact run_completes (State.atBoundary_follows _ _ _ (.refl s)
      (State.relockOver_follows _ (subParts_spec rfl) (.refl s)))
  -- Ethernet ports.
  | mdioDone _ => exact runPowered_completes (State.mdioDone_follows _ _ (subParts_spec rfl) (.refl s))
  | phyPoll _ _ =>
    exact runPowered_completes (.guarded fun _ => State.phyPoll_follows _ _ _ (subParts_spec rfl) (.refl s))
  | retrainFail _ =>
    exact runPowered_completes (.guarded fun _ => State.retrainFail_follows _ _ (subParts_spec rfl) (.refl s))
  | linkUp _ => exact runPowered_completes (.guarded fun _ => State.linkUp_follows _ _ (subParts_spec rfl) (.refl s))
  | linkDown _ =>
    exact runPowered_completes (.guarded fun _ => State.linkDown_follows _ _ (subParts_spec rfl) (.refl s))
  | verifySend _ => exact guarded_completes fun _ => State.verifySend_follows _ _ (subParts_spec rfl) (.refl s)
  | verifyResponse _ =>
    exact guarded_completes fun _ => State.verifyResponse_follows _ _ (subParts_spec rfl) (.refl s)
  | frameTxStart _ _ _ _ =>
    exact guarded_completes fun _ => State.frameStart_follows _ _ _ _ _ (subParts_spec rfl) (.refl s)
  | preemption _ _ _ =>
    exact guarded_completes fun _ => State.preempt_follows _ _ _ (subParts_spec rfl)
      (State.creditRun_follows _ _ _ (subParts_spec rfl) (.refl s))
  | frameTxEnd _ => exact guarded_completes fun _ => State.frameSent_follows _ _ _ (subParts_spec rfl) (.refl s)
  | frameRx _ _ =>
    exact runPowered_completes (.guarded fun _ => State.holdChecks_follows _ (subParts_spec rfl)
      (State.frameRx_follows _ _ _ (subParts_spec rfl) (.refl s)))
  | pauseRx _ _ =>
    exact guarded_completes fun _ => .guarded fun _ => State.pauseRx_follows _ _ _ (subParts_spec rfl) (.refl s)
  | pfcRx _ _ _ =>
    exact guarded_completes fun _ => .guarded fun _ => State.pfcRx_follows _ _ _ _ (subParts_spec rfl) (.refl s)
  | pauseExpiry _ _ _ | pauseHoldExpiry _ =>
    exact guarded_completes fun _ => State.modMac_follows _ _ _ (subParts_spec rfl) (.refl s)
  | pauseBroken _ => exact guarded_completes fun _ => State.pauseBreak_follows _ _ (subParts_spec rfl) (.refl s)
  -- Streams and the dual path.
  | groupTimeout _ => exact run_completes (State.groupTimeout_follows _ _ (subParts_spec rfl) (.refl s))
  | srxStopEnd _ =>
    exact run_completes (State.shiftCheck_follows _ (subParts_spec rfl)
      (State.srxStopEnd_follows _ _ (subParts_spec rfl) (.refl s)))
  | windowReset _ => exact run_completes (State.windowReset_follows _ _ (subParts_spec rfl) (.refl s))
  | pathLoss _ _ =>
    exact guarded_completes fun _ => State.holdChecks_follows _ (subParts_spec rfl)
      (State.pathLoss_follows _ _ _ (subParts_spec rfl) (.refl s))
  | pathHealthy _ _ =>
    exact guarded_completes fun _ => State.shiftCheck_follows _ (subParts_spec rfl)
      (State.pathHealthy_follows _ _ _ (subParts_spec rfl) (.refl s))
  | utilisationSecond => exact run_completes (State.dpcSecond_follows _ (subParts_spec rfl) (.refl s))
  | downshift => exact guarded_completes fun _ => State.downshift_follows _ (subParts_spec rfl) (.refl s)
  | reservationUpshift _ =>
    exact guarded_completes fun _ => State.reservationUp_follows _ _ (subParts_spec rfl) (.refl s)
  -- Mailboxes, rings and the command ring.
  | flushProducer _ => exact run_completes (State.mboxFlushed_follows _ _ (subParts_spec rfl) (.refl s))
  | doorbellPi _ _ => exact run_completes (State.doorbellPi_follows _ _ _ (subParts_spec rfl) (.refl s))
  | doorbellCci _ _ => exact run_completes (State.doorbellCci_follows _ _ _ (subParts_spec rfl) (.refl s))
  | descriptorFetch _ _ => exact run_completes (State.descFetch_follows _ _ _ (subParts_spec rfl) (.refl s))
  | descErr _ _ =>
    exact run_completes (State.sdgPoison_follows _ _ _ _ (subParts_spec rfl)
      (State.descErr_follows _ _ _ (subParts_spec rfl) (.refl s)))
  | dmaErr _ _ _ => exact run_completes (State.dmaErr_follows _ _ _ _ _ (subParts_spec rfl) (.refl s))
  | completionWrite _ _ => exact run_completes (State.completionWrite_follows _ _ _ (subParts_spec rfl) (.refl s))
  | ringIrqTimer _ => exact run_completes (State.ringTimer_follows _ _ (subParts_spec rfl) (.refl s))
  | nop | cmdStxStart | cmdStxStop | cmdSrxStart | cmdSrxStop | audStart | audStop | strobe | ttLoad | tblWrite
  | tblRead | waitPos | selftest | badcmd =>
    exact run_completes (State.cmdBegin_follows _ _ (subParts_spec rfl) (.refl s))
  | commandAtPos => exact run_completes (State.cmdAtPos_follows _ (subParts_spec rfl) (.refl s))
  | selftestEnd _ _ => exact run_completes (State.testEnd_follows _ _ _ (subParts_spec rfl) (.refl s))
  | hostFrameWrite => exact run_completes (State.hostFrameWrite_follows _ (subParts_spec rfl) (.refl s))
  | rngRxdrop => exact run_completes (State.hostFrameDrop_follows _ (subParts_spec rfl) (.refl s))
  | feedBlockRead _ => exact run_completes (State.feedIssue_follows _ _ (subParts_spec rfl) (.refl s))
  -- The host link, and the heat of the die.
  | hostReset _ =>
    exact .ite (runPowered_completes (State.hostReset_follows _ _ (subParts_spec rfl) (.refl s)))
      (run_completes (State.hostReset_follows _ _ (subParts_spec rfl) (.refl s)))
  | msixEnable _ => exact run_completes (State.msixEnable_follows _ _ (subParts_spec rfl) (.refl s))
  | interruptDisable _ => exact run_completes (State.interruptDisable_follows _ _ (subParts_spec rfl) (.refl s))
  | thermal _ => exact runPowered_completes (State.thermal_follows _ _ (subParts_spec rfl) (.refl s))
  | overtemp _ => exact runPowered_completes (State.overtemp_follows _ _ (subParts_spec rfl) (.refl s))
  | overtempRelease _ _ => exact done_completes (State.overtempRelease_follows _ _ _ (subParts_spec rfl) (.refl s))
  | mgtWatchdog => exact run_completes (State.mgtWatchdog_follows _ (subParts_spec rfl) (.refl s))
  -- The mix fabric and the engines.
  | engineWindowEnd _ => exact guarded_completes fun _ => State.engWindowEnd_follows _ _ (subParts_spec rfl) (.refl s)
  | mixCopyEnd => exact run_completes (State.copyEnd_follows _ _ (subParts_spec rfl) (.refl s))
  | safeLoadApply => exact run_completes (State.slApplyAll_follows _ (subParts_spec rfl) (.refl s))
  | deferredCrossfadeStart _ => exact run_completes (State.deferredStart_follows _ _ (subParts_spec rfl) (.refl s))
  | crossfadeEnd _ => exact run_completes (State.fadeEndAt_follows _ _ (subParts_spec rfl) (.refl s))
  | windowZeroEnd _ => exact guarded_completes fun _ => State.zeroEnd_follows _ _ (subParts_spec rfl) (.refl s)
  | poolDataArrival _ => exact guarded_completes fun _ => State.poolArrive_follows _ _ (subParts_spec rfl) (.refl s)
  -- Serial ports and rate converters.
  | sapRatechg _ _ => exact guarded_completes fun _ => State.sapClass_follows _ _ _ (subParts_spec rfl) (.refl s)
  | sapRateUpdate _ _ => exact guarded_completes fun _ => State.sapRateSet_follows _ _ _ (subParts_spec rfl) (.refl s)
  | sapClkloss _ _ => exact guarded_completes fun _ => State.sapClkLoss_follows _ _ _ (subParts_spec rfl) (.refl s)
  | sapClockReturn _ => exact guarded_completes fun _ => State.sapClkBack_follows _ _ (subParts_spec rfl) (.refl s)
  | framingError _ => exact guarded_completes fun _ => State.sapSlip_follows _ _ _ (subParts_spec rfl) (.refl s)
  | sapResume _ => exact guarded_completes fun _ => State.sapResume_follows _ _ (subParts_spec rfl) (.refl s)
  | sapStopEnd _ => exact guarded_completes fun _ => State.sapStopEnd_follows _ _ (subParts_spec rfl) (.refl s)
  | sapRampUpEnd _ => exact guarded_completes fun _ => State.sapRampEnd_follows _ _ (subParts_spec rfl) (.refl s)
  | trackerLock _ _ => exact guarded_completes fun _ => State.trkLock_follows _ _ _ (subParts_spec rfl) (.refl s)
  | asrcUnlock _ => exact guarded_completes fun _ => State.trkUnlock_follows _ _ (subParts_spec rfl) (.refl s)
  | asrcRange _ => exact guarded_completes fun _ => State.trkRange_follows _ _ (subParts_spec rfl) (.refl s)
  | asrcFadeIn _ => exact run_completes (State.asrcFadeIn_follows _ _ (subParts_spec rfl) (.refl s))
  -- The power stage.
  | diagEnd _ _ _ => exact guarded_completes fun _ => State.diagEnd_follows _ _ _ _ (subParts_spec rfl) (.refl s)
  | cmRampEnd _ => exact guarded_completes fun _ => State.cmUpEnd_follows _ _ (subParts_spec rfl) (.refl s)
  | runEntry _ => exact guarded_completes fun _ => State.runEntry_follows _ _ (subParts_spec rfl) (.refl s)
  | audioRampDownEnd _ => exact guarded_completes fun _ => State.audioDown_follows _ _ (subParts_spec rfl) (.refl s)
  | cmRampDownEnd _ => exact guarded_completes fun _ => State.cmDown_follows _ _ (subParts_spec rfl) (.refl s)
  | pwrOc _ => exact guarded_completes fun _ => State.pwrOc_follows _ _ (subParts_spec rfl) (.refl s)
  | pwrRetry _ => exact guarded_completes fun _ => State.pwrRetry_follows _ _ (subParts_spec rfl) (.refl s)
  | retrySuccess _ => exact guarded_completes fun _ => State.retryOk_follows _ _ (subParts_spec rfl) (.refl s)
  | pwrTherm _ _ => exact guarded_completes fun _ => State.pwrTherm_follows _ _ _ (subParts_spec rfl) (.refl s)
  | pwrPvdd _ => exact guarded_completes fun _ => State.pwrPvdd_follows _ _ (subParts_spec rfl) (.refl s)
  | pvddRestore _ => exact guarded_completes fun _ => State.pvddBack_follows _ _ (subParts_spec rfl) (.refl s)
  | battMute _ _ => exact guarded_completes fun _ => State.battMuteOn_follows _ _ _ (subParts_spec rfl) (.refl s)
  | battUnmute _ _ => exact guarded_completes fun _ => State.battMuteOff_follows _ _ _ (subParts_spec rfl) (.refl s)
  | idleEntry _ => exact guarded_completes fun _ => State.idleEntry_follows _ _ (subParts_spec rfl) (.refl s)
  | pwrModel _ _ => exact guarded_completes fun _ => State.pwrModel_follows _ _ _ (subParts_spec rfl) (.refl s)
  | linkTransferFail => exact guarded_completes fun _ => State.linkFail_follows _ (subParts_spec rfl) (.refl s)
  | powerDieSelfProtect => exact guarded_completes fun _ => State.selfProtect_follows _ (subParts_spec rfl) (.refl s)
  | regpar _ => exact guarded_completes fun _ => State.regpar_follows _ _ (subParts_spec rfl) (.refl s)
  -- Paired operation.
  | pairModeEntry => exact guarded_completes fun _ => State.pairEntry_follows _ (subParts_spec rfl) (.refl s)
  | mirrorBlockRx _ _ _ =>
    exact guarded_completes fun _ => State.mirrorRx_follows _ _ _ _ (subParts_spec rfl) (.refl s)
  | statusBlockRx _ _ _ =>
    exact guarded_completes fun _ => State.statusRx_follows _ _ _ _ (subParts_spec rfl) (.refl s)
  | blockRepeat _ => exact guarded_completes fun _ => State.blockRepeat_follows _ _ _ (subParts_spec rfl) (.refl s)
  | mirrorSetApply => exact guarded_completes fun _ => State.mirrorApply_follows _ (subParts_spec rfl) (.refl s)
  | heartbeatLoss => exact guarded_completes fun _ => State.heartbeatLoss_follows _ (subParts_spec rfl) (.refl s)
  | grant _ _ _ =>
    exact guarded_completes fun _ => .ite (.refl s) (State.tabletRx_follows _ _ _ _ (subParts_spec rfl) (.refl s))
  | grantAdopt => exact guarded_completes fun _ => State.grantAdopt_follows _ (subParts_spec rfl) (.refl s)
  | driveStart => exact guarded_completes fun _ => State.driveStart_follows _ (subParts_spec rfl) (.refl s)
  | selfFence => exact guarded_completes fun _ => State.fenceCheck_follows _ (subParts_spec rfl) (.refl s)
  | releaseRx _ _ =>
    exact guarded_completes fun _ => .guarded fun _ => State.tabletRx_follows _ _ _ _ (subParts_spec rfl) (.refl s)
  -- Supplies, resets, sleep and the management core.
  | powerOn _ => exact done_completes (State.powerOn_follows _ _ (subParts_spec rfl) (.refl s))
  | firmwareReady _ => exact run_completes (State.firmwareReady_follows _ _ (subParts_spec rfl) (.refl s))
  | resetN _ _ => exact done_completes (State.resetN_follows _ _ _ (subParts_spec rfl) (.refl s))
  | perstNRelease => exact runPowered_completes (State.perstRelease_follows _ (subParts_spec rfl) (.refl s))
  | vioFall _ => exact done_completes (State.vioFall_follows _ _ (subParts_spec rfl) (.refl s))
  | wake _ _ => exact runPowered_completes (State.wake_follows _ _ _ (subParts_spec rfl) (.refl s))
  | getVersion => exact run_completes (State.getVersion_follows _ (subParts_spec rfl) (.refl s))
  | flashRead _ => exact run_completes (State.flashRead_follows _ _ (subParts_spec rfl) (.refl s))
  | flashWrite _ _ => exact run_completes (State.flashWrite_follows _ _ _ (subParts_spec rfl) (.refl s))
  | flashErase _ _ => exact run_completes (State.flashErase_follows _ _ _ (subParts_spec rfl) (.refl s))
  | role => exact run_completes (State.mgtRole_follows _ (subParts_spec rfl) (.refl s))
  | reboot => exact run_completes (State.mgtReboot_follows _ (subParts_spec rfl) (.refl s))
  | msWrite _ _ _ => exact run_completes (State.msWrite_follows _ _ _ _ (subParts_spec rfl) (.refl s))
  | msRead _ _ => exact run_completes (State.msRead_follows _ _ _ (subParts_spec rfl) (.refl s))
  | scrubError _ _ => exact run_completes (State.scrubError_follows _ _ _ (subParts_spec rfl) (.refl s))
  | xoReturn _ => exact done_completes (State.xoReturn_follows _ _ (subParts_spec rfl) (.refl s))
  | engCopyEnd _ => exact guarded_completes fun _ => State.copyEnd_follows _ _ (subParts_spec rfl) (.refl s)
  | thermalFoldback _ _ => exact guarded_completes fun _ => State.foldback_follows _ _ _ (subParts_spec rfl) (.refl s)
  | batteryLimit _ _ =>
    exact guarded_completes fun _ => State.batteryLimit_follows _ _ _ (subParts_spec rfl) (.refl s)
  | ppsOutPulseEnd => exact run_completes (State.ppsFall_follows _ (subParts_spec rfl) (.refl s))
  | pathDelayReqTx _ _ =>
    exact guarded_completes fun _ => .guarded fun _ => State.delayTx_follows _ _ _ (subParts_spec rfl) (.refl s)
  | vioRecovery _ _ => exact done_completes (State.vioRecover_follows _ _ _ (subParts_spec rfl) (.refl s))
  | vinInvalid _ => exact done_completes (State.vinInvalid_follows _ _ (subParts_spec rfl) (.refl s))
  | resetNRelease _ => exact done_completes (State.resetRelease_follows _ _ (subParts_spec rfl) (.refl s))
  | dataReadReturn _ _ _ => exact run_completes (State.dataReturn_follows _ _ _ _ (subParts_spec rfl) (.refl s))
  | pcieLinkUp _ _ => exact run_completes (State.pcieUp_follows _ _ _ (subParts_spec rfl) (.refl s))
  | ecrcErr => exact run_completes (State.ecrcErr_follows _ (subParts_spec rfl) (.refl s))
  | pairBlockLockLoss => exact guarded_completes fun _ => State.blockLockLoss_follows _ (subParts_spec rfl) (.refl s)

theorem step_of_pending {s : State} {c : Instr} {rest : List Instr} (h : s.pending = c :: rest) :
    step s = exec c { s with pending := rest } := by
  unfold step
  rw [h]

/-! ### The obligations -/

/-- Settles O1: the queue's front is what step matches on. -/
theorem stepRunsFront : Obligations.StepRunsFront := fun _ _ _ h => step_of_pending h

/-- Settles O3: what a command makes follows from its state, and settle then takes up every
message that fell due. -/
theorem everyCommandCompletes : Obligations.EveryCommandCompletes := by
  intro c s
  obtain ⟨t, ht, h, hdue⟩ := (exec_completes c s).exists_next
  exact ⟨t, ht, h.member, h.pending, h.out, h.free, hdue⟩

/-- Settles O6: the next state a command answers is the one that follows within its parts. -/
theorem commandFrame : Obligations.CommandFrame := by
  intro c s t ht
  obtain ⟨u, hu, h, -⟩ := (exec_completes c s).exists_next
  obtain rfl : u = t := Host.Outcome.next.inj (hu.symm.trans ht)
  exact h.others

end Sys2Proof.Machine

/-! SUPPORT. What a write of one register through a view comes down to, by the kind of the register; what a strobe leaves of
the snapshots that wait; and what the power die, the tick length and a block take up at a boundary (R11 to R15, R32, R383). -/

namespace Sys2Proof.Machine

/-! ### What a command makes of a running die -/

/-- A die that is neither held in reset nor asleep sees the command. -/
theorem run_ready {s : State} (h : Ready s) (t : State) : run s t = .next (settle t) := by
  obtain ⟨-, hd⟩ := h
  unfold run done
  simp [hd]

/-! ### Writes through any view, by the kind of the register (R383) -/

section
variable {s : State} {q : Req} {v : View} {a : Nat} {d : Word} {r : RegRow}

theorem State.write32_refused {c : Nat} (hp : s.present a = some r) (hk : kindFault v a r = some c) :
    s.write32 q v a d = s.berr q (viaView v a) c true none := by
  unfold State.write32
  simp [hp, hk]

/-- A register with WO fields alone: what those fields command. -/
theorem State.write32_wo (hp : s.present a = some r) (hk : kindFault v a r = none) (hport : r.port = false)
    (hrs : r.rs = 0) (hwo : r.wo ≠ 0) : s.write32 q v a d = s.woAct a (d &&& toWord r.wo) := by
  unfold State.write32
  simp [hp, hk, hport, hrs, State.otherWrite, hwo]

/-- The word a write through a view asks of the RW fields of a register. -/
def State.askedRw (s : State) (q : Req) (v : View) (a : Nat) (d : Word) (r : RegRow) : Word :=
  merge (s.rwValue q a) (toWord r.rw &&& ~~~(s.lacking a)) (viewBits v (s.rwValue q a) d)

/-- A register with RW fields alone, not locked: it takes the word asked. -/
theorem State.write32_rw (hp : s.present a = some r) (hk : kindFault v a r = none) (hport : r.port = false)
    (hrs : r.rs = 0) (hwo : r.wo = 0) (hlk : r.lk = 0) (hrw : r.rw ≠ 0)
    (hl : s.wordLocked a (s.askedRw q v a d r) = false) : s.write32 q v a d = s.rwAct q a (s.askedRw q v a d r) := by
  unfold State.askedRw at *
  unfold State.write32
  simp [hp, hk, hport, hrs, State.otherWrite, hwo, hlk, hrw, hl]

/-- A write refused for its view: a bus error ALIAS, and no unit reset is asked for (R381, R383). -/
theorem State.write32_alias (h : StoresOk s) (hp : s.present a = some r) (hk : kindFault v a r = some ceAlias) :
    let t := settle (s.write32 q v a d)
    fld (t.rcW 0x100C) 1 3 = 4 ∧ t.event 92 = true ∧ t.reg.brst = s.reg.brst ∧ RcOnly [0x100C, evtStat 92] s t ∧
      LeavesAllBut [.rc, .rcu] s t := by
  intro t
  obtain ⟨-, hcause, -, -, hevent, -, hrc, hparts, -, hbrst, -, -⟩ :=
    State.berr_spec h q (viaView v a) ceAlias true none (by decide)
  simp only [t, State.write32_refused hp hk]
  exact ⟨hcause, hevent, hbrst, hrc, hparts.settled⟩

theorem kindFault_wo_alias (hv : v = .clear ∨ v = .toggle) (o m : Nat) (hm : m ≠ 0) :
    kindFault v a (rowWO o m) = some ceAlias := by
  obtain rfl | rfl := hv <;> simp [kindFault, rowWO, rowBase, hm]

theorem kindFault_wo_taken (hv : v = .normal ∨ v = .set) (o m : Nat) (hm : m ≠ 0) :
    kindFault v a (rowWO o m) = none := by
  obtain rfl | rfl := hv <;> simp [kindFault, rowWO, rowBase, hm]

/-- A register with RW fields alone takes a write through every view. -/
theorem kindFault_rw (hport : r.port = false) (hrc : r.rc = 0) (hrw : r.rw ≠ 0) (hwo : r.wo = 0) (ha : a ≠ 0x1040) :
    kindFault v a r = none := by
  simp [kindFault, hport, hrc, hrw, hwo, ha]

end

/-! ### Where the registers of RCU and EVT stand -/

theorem State.present_strobe (s : State) : s.present 0x1004 = some (rowWO 4 0xFFFF) :=
  State.present_at (b := bRCU) rfl rfl rfl rfl

theorem State.present_brst (s : State) : s.present 0x10C4 = some (rowWO 0xC4 0x1F) :=
  State.present_at (b := bRCU) rfl rfl rfl rfl

theorem State.present_crcRef (s : State) : s.present 0x1060 = some (rowRW 0x60 0xFFFFFFFF) :=
  State.present_at (b := bRCU) rfl rfl rfl rfl

theorem State.present_evtMask (s : State) {k : Nat} (hk : k < 3) :
    s.present (0x2010 + 4 * k) = some ((rowRW 0x10 0xFFFFFFFF).times 3 4) := by
  have hb : ∀ k < 3, blockAt (0x2010 + 4 * k) = some bEVT := by decide
  have hr : ∀ k < 3, rowAt (0x2010 + 4 * k) = some ((rowRW 0x10 0xFFFFFFFF).times 3 4) := by decide
  exact State.present_at (hb k hk) rfl rfl (hr k hk)

/-- The blocks a word of RCU_GRPMAP names (R390): the last one names six. -/
def grpmapMask (n : Nat) : Nat := if n = 4 then 0xFFFFFF else 0xFFFFFFFF

theorem State.present_grpmap (s : State) {n : Nat} (hn : n < 5) :
    ∃ r, s.present (0x1020 + 4 * n) = some r ∧ r.rw = grpmapMask n ∧ r.port = false ∧ r.rs = 0 ∧ r.rc = 0 ∧
      r.wo = 0 ∧ r.lk = 0 := by
  have hb : ∀ n < 5, blockAt (0x1020 + 4 * n) = some bRCU := by decide
  have hr : ∀ n < 5, ∃ x, rowAt (0x1020 + 4 * n) = some x ∧ x.rw = grpmapMask n ∧ x.port = false ∧ x.rs = 0 ∧
      x.rc = 0 ∧ x.wo = 0 ∧ x.lk = 0 := by
    intro n hn
    interval_cases n <;> exact ⟨_, rfl, rfl, rfl, rfl, rfl, rfl, rfl⟩
  obtain ⟨x, hx, hrest⟩ := hr n hn
  exact ⟨x, State.present_at (hb n hn) rfl rfl hx, hrest⟩

/-! ### Snapshots (R13) -/

/-- A key of the register stores that belongs to a present block of a group. -/
def State.inGroup (s : State) (g a : Nat) : Bool :=
  match keyBlock a with
  | some b => (s.groupBlocks g).contains b
  | none => false

/-- The snapshot a strobe takes of a group. -/
def State.snapOf (s : State) (g : Nat) : Snapshot :=
  { group := g, blocks := s.groupBlocks g, words := s.reg.staged.filter fun p => s.inGroup g p.1 }

theorem State.snapOf_word {s : State} {g a b : Nat} (ha : keyBlock a = some b) (hb : b ∈ s.groupBlocks g) :
    (s.snapOf g).word a = s.stagedW a := by
  have hin : s.inGroup g a = true := by simp [State.inGroup, ha, hb]
  unfold Snapshot.word State.snapOf
  rw [sget_filter (fun k => s.inGroup g k), if_pos hin]
  rfl

theorem State.takeSnap_snaps (s : State) (g : Nat) :
    (s.takeSnap g).reg.snaps = s.reg.snaps.filter (fun x => decide (x.group ≠ g)) ++ [s.snapOf g] := rfl

/-- What a group's snapshot holds does not depend on the snapshots taken before it. -/
theorem State.takeSnap_snapOf (s : State) (g k : Nat) : (s.takeSnap g).snapOf k = s.snapOf k := rfl

theorem State.takeSnap_stagedBits (s : State) (g j : Nat) (hj : j < 16) :
    (s.takeSnap g).reg.stagedBits.getLsbD j = (s.reg.stagedBits.getLsbD j && decide (j ≠ g)) := by
  have hbits : (s.takeSnap g).reg.stagedBits = s.reg.stagedBits &&& ~~~(BitVec.ofNat 16 (2 ^ g)) := rfl
  rw [hbits, BitVec.getLsbD_and, BitVec.getLsbD_not, BitVec.getLsbD_ofNat, Nat.testBit_two_pow]
  simp [hj, eq_comm]

theorem State.mem_takeSnap {s : State} {g : Nat} {x : Snapshot} :
    x ∈ (s.takeSnap g).reg.snaps ↔ (x.group ≠ g ∧ x ∈ s.reg.snaps) ∨ x = s.snapOf g := by
  simp [State.takeSnap_snaps, and_comm]

/-- After the snapshots of a list of groups: one of each group listed, and those that waited of every other group. -/
theorem State.mem_takeSnaps {s : State} {gs : List Nat} {x : Snapshot} :
    x ∈ (gs.foldl State.takeSnap s).reg.snaps ↔
      (x.group ∉ gs ∧ x ∈ s.reg.snaps) ∨ (x.group ∈ gs ∧ x = s.snapOf x.group) := by
  induction gs generalizing s with
  | nil => simp
  | cons g gs ih =>
    have hg : x = s.snapOf g ↔ x.group = g ∧ x = s.snapOf x.group :=
      ⟨fun h => by subst h; exact ⟨rfl, rfl⟩, fun ⟨hx, h⟩ => hx ▸ h⟩
    rw [List.foldl_cons, ih, State.mem_takeSnap, State.takeSnap_snapOf, hg, List.mem_cons]
    tauto

theorem State.takeSnaps_stagedBits {s : State} {gs : List Nat} {j : Nat} (hj : j < 16) :
    (gs.foldl State.takeSnap s).reg.stagedBits.getLsbD j = (s.reg.stagedBits.getLsbD j && decide (j ∉ gs)) := by
  induction gs generalizing s with
  | nil => simp
  | cons g gs ih => rw [List.foldl_cons, ih, State.takeSnap_stagedBits s g j hj]; simp [Bool.and_assoc]

/-- The groups a write of RCU_STROBE names. -/
theorem mem_strobeMask {d : Word} {g : Nat} : g ∈ bitsOf 16 (fld (d &&& toWord 0xFFFF) 0 16) ↔ g < 16 ∧ bitAt d g = true := by
  have hones (hg : g < 16) : (toWord 0xFFFF).getLsbD g = true := by
    interval_cases g <;> rfl
  unfold bitsOf fld bitAt
  rw [List.mem_filter, List.mem_range, pow_zero, Nat.div_one, Nat.testBit_mod_two_pow, BitVec.testBit_toNat,
    BitVec.getLsbD_and]
  refine and_congr_right fun hg => ?_
  simp [hg, hones hg]

theorem State.woAct_strobe (s : State) (d : Word) : s.woAct 0x1004 d = s.strobe (fld d 0 16) := if_pos rfl

theorem State.write32_strobe {s : State} {q : Req} {v : View} {d : Word} (hv : v = .normal ∨ v = .set) :
    s.write32 q v 0x1004 d = s.strobe (fld (d &&& toWord 0xFFFF) 0 16) :=
  (State.write32_wo s.present_strobe (kindFault_wo_taken hv 4 0xFFFF (by decide)) rfl rfl (by decide)).trans
    (s.woAct_strobe _)

/-- Settles O15: the snapshots of the groups strobed are those `snapOf` names, and no other part changes. -/
theorem strobeTakesSnapshots : Obligations.StrobeTakesSnapshots := by
  intro s q v d hs hv
  have hparts := (State.strobe_follows s (fld (d &&& toWord 0xFFFF) 0 16) (fun _ k => k) (.refl s)).others.settled
  refine ⟨settle (s.write32 q v 0x1004 d), run_ready hs _, ?_⟩
  rw [State.write32_strobe hv]
  refine ⟨fun g hg hd => ⟨?_, s.snapOf g, ?_, rfl, rfl, fun a b ha hb => State.snapOf_word ha hb⟩,
    fun g hg hd => ⟨?_, fun x hx => ?_⟩, hparts.stagedW rfl, hparts.appliedW rfl, hparts⟩
  · exact (State.takeSnaps_stagedBits hg).trans (by simp [mem_strobeMask, hg, hd])
  · exact State.mem_takeSnaps.mpr (.inr ⟨mem_strobeMask.mpr ⟨hg, hd⟩, rfl⟩)
  · exact (State.takeSnaps_stagedBits hg).trans (by simp [mem_strobeMask, hd])
  · exact State.mem_takeSnaps.trans (by simp [mem_strobeMask, hx, hd])

/-! ### Words RCU and EVT take at once (R11, R397, R405) -/

theorem merge_allOnes (w v : Word) : merge w (toWord 0xFFFFFFFF) v = v := by
  have hones : toWord 0xFFFFFFFF = BitVec.allOnes 32 := rfl
  rw [merge, hones, BitVec.not_allOnes, BitVec.and_zero, BitVec.zero_or, BitVec.and_allOnes]

theorem State.grpmap_rwValue (s : State) (q : Req) {n : Nat} (hn : n < 5) :
    s.rwValue q (0x1020 + 4 * n) = s.rwW (0x1020 + 4 * n) := by
  interval_cases n <;> rfl

theorem State.grpmap_rwAct (s : State) (q : Req) {n : Nat} (hn : n < 5) (w : Word) :
    s.rwAct q (0x1020 + 4 * n) w = s.setRw (0x1020 + 4 * n) w := by
  interval_cases n <;> rfl

theorem State.write32_grpmap {s : State} {q : Req} {v : View} {n : Nat} {d w : Word} (hn : n < 5)
    (hw : w = merge (s.rwW (0x1020 + 4 * n)) (toWord (grpmapMask n) &&& ~~~(s.lacking (0x1020 + 4 * n)))
      (viewBits v (s.rwW (0x1020 + 4 * n)) d))
    (hl : s.wordLocked (0x1020 + 4 * n) w = false) :
    s.write32 q v (0x1020 + 4 * n) d = s.setRw (0x1020 + 4 * n) w := by
  obtain ⟨r, hp, hrw, hport, hrs, hrc, hwo, hlk⟩ := s.present_grpmap hn
  have hne : r.rw ≠ 0 := by rw [hrw]; unfold grpmapMask; split <;> decide
  have hask : s.askedRw q v (0x1020 + 4 * n) d r = w := by rw [hw, State.askedRw, s.grpmap_rwValue q hn, hrw]
  rw [State.write32_rw hp (kindFault_rw hport hrc hne hwo (by omega)) hport hrs hwo hlk hne (by rwa [hask]), hask,
    s.grpmap_rwAct q hn]

/-- Between RCU_GRPMAP and the time engine no register's bit names a unit a member can lack (R402). -/
theorem State.lacking_zero (s : State) {a : Nat} (ha : 0x1034 ≤ a) (hb : a < 0x20100) : s.lacking a = 0#32 := by
  unfold State.lacking
  rw [if_neg (by omega)]
  split
  · exact (if_neg (by omega)).trans (if_neg (by omega))
  · rfl

theorem State.write32_crcRef {s : State} {q : Req} {v : View} {d : Word} (hl : s.reg.lock.getLsbD 17 = false) :
    s.write32 q v 0x1060 d = s.crcCommit (viewBits v (s.rwW 0x1060) d) := by
  have hask : s.askedRw q v 0x1060 d (rowRW 0x60 0xFFFFFFFF) = viewBits v (s.rwW 0x1060) d := by
    rw [State.askedRw, s.lacking_zero (by decide) (by decide), BitVec.not_zero, BitVec.and_allOnes]
    exact merge_allOnes _ _
  rw [State.write32_rw s.present_crcRef (kindFault_rw rfl rfl (by decide) rfl (by decide)) rfl rfl rfl rfl (by decide) hl,
    hask]
  rfl

theorem State.crcCommit_rwW {s : State} (h : StoresOk s) (w : Word) (k : Nat) :
    (s.crcCommit w).rwW k = if k = 0x1060 then w else s.rwW k := by
  rw [← State.setRw_rwW h]
  unfold State.crcCommit
  dsimp only
  split
  · exact State.unmuteAll_rwW _ _ _ k
  · rfl

theorem State.crcCommit_crc (s : State) (w : Word) :
    (s.crcCommit w).reg.crc = { s.reg.crc with commit := true, passCounts := false, fresh := true, held := false } := by
  unfold State.crcCommit
  dsimp only
  split
  · exact (State.unmuteAll_frame _ _ _).others.keeps .crc rfl
  · rfl

theorem State.crcCommit_mix {s : State} (w : Word) (h : s.reg.crc.held = false) : (s.crcCommit w).mix = s.mix := by
  unfold State.crcCommit
  simp [h]

theorem State.evtMask_rwValue (s : State) (q : Req) {k : Nat} (hk : k < 3) :
    s.rwValue q (0x2010 + 4 * k) = s.rwW (0x2010 + 4 * k) := by
  interval_cases k <;> rfl

theorem State.evtMask_rwAct (s : State) (q : Req) {k : Nat} (hk : k < 3) (w : Word) :
    s.rwAct q (0x2010 + 4 * k) w = s.maskWrite (0x2010 + 4 * k) w := by
  interval_cases k <;> rfl

theorem State.evtMask_unlocked (s : State) {k : Nat} (hk : k < 3) (w : Word) : s.wordLocked (0x2010 + 4 * k) w = false := by
  interval_cases k <;> rfl

theorem State.write32_evtMask {s : State} {q : Req} {v : View} {k : Nat} {d : Word} (hk : k < 3) :
    s.write32 q v (0x2010 + 4 * k) d =
      s.maskWrite (0x2010 + 4 * k) (viewBits v (s.rwW (0x2010 + 4 * k)) d) := by
  have hask : s.askedRw q v (0x2010 + 4 * k) d ((rowRW 0x10 0xFFFFFFFF).times 3 4) =
      viewBits v (s.rwW (0x2010 + 4 * k)) d := by
    rw [State.askedRw, s.lacking_zero (by omega) (by omega), BitVec.not_zero, BitVec.and_allOnes, s.evtMask_rwValue q hk]
    exact merge_allOnes _ _
  rw [State.write32_rw (s.present_evtMask hk) (kindFault_rw rfl rfl (by decide) rfl (by omega)) rfl rfl rfl rfl (by decide)
    (s.evtMask_unlocked hk _), hask, s.evtMask_rwAct q hk]

theorem msgsDue_reg (s : State) (ns : List Nat) : (ns.foldl (fun t n => t.msgDue (t.route n)) s).reg = s.reg := by
  induction ns generalizing s with
  | nil => rfl
  | cons n ns ih => rw [List.foldl_cons, ih, State.msgDue_reg]

/-- A mask word and the messages it makes due: of the registers, the word alone changes. -/
theorem State.maskWrite_reg (s : State) (a : Nat) (w : Word) : (s.maskWrite a w).reg = (s.setRw a w).reg :=
  msgsDue_reg _ _

theorem State.maskWrite_rwW {s : State} (h : StoresOk s) (a k : Nat) (w : Word) :
    (s.maskWrite a w).rwW k = if k = a then w else s.rwW k := by
  rw [← State.setRw_rwW h]
  unfold State.rwW
  rw [State.maskWrite_reg]

theorem rcuStrobe_aliasRefused {s : State} (q : Req) {v : View} (d : Word) (hs : Ready s) (hv : v = .clear ∨ v = .toggle) :
    ∃ t, exec (.rcuStrobe ⟨q, v, d⟩) s = .next t ∧ fld (t.rcW 0x100C) 1 3 = 4 ∧ t.event 92 = true ∧
      RcOnly [0x100C, evtStat 92] s t ∧ LeavesAllBut [.rc, .rcu] s t := by
  obtain ⟨hcause, hevent, -, hrc, hparts⟩ := State.write32_alias (q := q) (d := d) hs.1 s.present_strobe
    (kindFault_wo_alias hv 4 0xFFFF (by decide))
  exact ⟨_, run_ready hs _, hcause, hevent, hrc, hparts⟩

theorem rcuBrst_aliasRefused {s : State} (q : Req) {v : View} (d : Word) (hs : Ready s) (hv : v = .clear ∨ v = .toggle) :
    ∃ t, exec (.rcuBrst ⟨q, v, d⟩) s = .next t ∧ fld (t.rcW 0x100C) 1 3 = 4 ∧ t.event 92 = true ∧
      t.reg.brst = s.reg.brst ∧ RcOnly [0x100C, evtStat 92] s t ∧ LeavesAllBut [.rc, .rcu] s t := by
  obtain ⟨hcause, hevent, hbrst, hrc, hparts⟩ := State.write32_alias (q := q) (d := d) hs.1 s.present_brst
    (kindFault_wo_alias hv 0xC4 0x1F (by decide))
  exact ⟨_, run_ready hs _, hcause, hevent, hbrst, hrc, hparts⟩

theorem grpmapWrite_moves {s : State} {n : Nat} (x : RegWrite) {w : Word} (hs : Ready s) (hn : n < 5)
    (hw : w = merge (s.rwW (0x1020 + 4 * n)) (toWord (grpmapMask n) &&& ~~~(s.lacking (0x1020 + 4 * n)))
      (viewBits x.view (s.rwW (0x1020 + 4 * n)) x.data))
    (hl : s.wordLocked (0x1020 + 4 * n) w = false) :
    ∃ t, exec (.grpmapWrite n x) s = .next t ∧ t.rwW (0x1020 + 4 * n) = w ∧
      (∀ k, k ≠ 0x1020 + 4 * n → t.rwW k = s.rwW k) ∧ (∀ k, t.stagedW k = s.stagedW k) ∧ LeavesAllBut [.rw] s t := by
  have hparts := (State.setRw_frame s (0x1020 + 4 * n) w).others.settled
  have hword := State.setRw_rwW hs.1 (0x1020 + 4 * n) (w := w)
  have hexec : exec (.grpmapWrite n x) s = .next (settle (s.setRw (0x1020 + 4 * n) w)) := by
    rw [← State.write32_grpmap (q := x.req) hn hw hl]
    exact (congrArg (run s) (if_pos hn)).trans (run_ready hs _)
  exact ⟨_, hexec, (hword _).trans (if_pos rfl), fun k hk => (hword k).trans (if_neg hk), hparts.stagedW rfl, hparts⟩

theorem crcRefWrite_commits {s : State} (x : RegWrite) (hs : Ready s) (hl : s.reg.lock.getLsbD 17 = false) :
    ∃ t, exec (.crcRefWrite x) s = .next t ∧ t.rwW 0x1060 = viewBits x.view (s.rwW 0x1060) x.data ∧
      t.reg.crc = { s.reg.crc with commit := true, passCounts := false, fresh := true, held := false } ∧
      (∀ k, k ≠ 0x1060 → t.rwW k = s.rwW k) ∧ (s.reg.crc.held = false → t.mix = s.mix) ∧
      LeavesAllBut [.rw, .crc, .mix] s t := by
  have hword := State.crcCommit_rwW hs.1 (viewBits x.view (s.rwW 0x1060) x.data)
  have hparts := (State.crcCommit_follows s (viewBits x.view (s.rwW 0x1060) x.data) (fun _ k => k) (.refl s)).others
  have hexec : exec (.crcRefWrite x) s = .next (settle (s.crcCommit (viewBits x.view (s.rwW 0x1060) x.data))) := by
    rw [← State.write32_crcRef (q := x.req) hl]
    exact run_ready hs _
  exact ⟨_, hexec, (hword _).trans (if_pos rfl), State.crcCommit_crc _ _, fun k hk => (hword k).trans (if_neg hk),
    State.crcCommit_mix _, hparts.settled⟩

theorem maskWrite_takesWord {s : State} {k : Nat} (x : RegWrite) (hs : Ready s) (hk : k < 3) :
    ∃ t, exec (.maskWrite k x) s = .next t ∧
      t.rwW (0x2010 + 4 * k) = viewBits x.view (s.rwW (0x2010 + 4 * k)) x.data ∧
      (∀ j, j ≠ 0x2010 + 4 * k → t.rwW j = s.rwW j) ∧ (∀ n, t.event n = s.event n) ∧ LeavesAllBut [.rw] s t := by
  have hparts := (State.maskWrite_follows s (0x2010 + 4 * k) (viewBits x.view (s.rwW (0x2010 + 4 * k)) x.data)
    (fun _ k => k) (.refl s)).others.settled
  have hword (j : Nat) := State.maskWrite_rwW hs.1 (0x2010 + 4 * k) j (viewBits x.view (s.rwW (0x2010 + 4 * k)) x.data)
  have hexec : exec (.maskWrite k x) s =
      .next (settle (s.maskWrite (0x2010 + 4 * k) (viewBits x.view (s.rwW (0x2010 + 4 * k)) x.data))) := by
    rw [← State.write32_evtMask (q := x.req) hk]
    exact (congrArg (run s) (if_pos hk)).trans (run_ready hs _)
  exact ⟨_, hexec, (hword _).trans (if_pos rfl), fun j hj => (hword j).trans (if_neg hj), hparts.event rfl, hparts⟩

/-- Settles O16: each clause is the lemma of its command. -/
theorem aliasesRefusedAndImmediateWords : Obligations.AliasesRefusedAndImmediateWords :=
  ⟨fun _ q _ d hs hv => ⟨rcuStrobe_aliasRefused q d hs hv, rcuBrst_aliasRefused q d hs hv⟩,
    fun _ _ x hs hn hl => grpmapWrite_moves x hs hn rfl hl, fun _ x hs hl => crcRefWrite_commits x hs hl,
    fun _ _ x hs hk => maskWrite_takesWord x hs hk⟩

/-! ### Adoption by the power die (R15) -/

theorem State.vfsAdopt_reg (s : State) (c : Nat) : (s.vfsAdopt c).reg = s.reg := by
  unfold State.vfsAdopt State.modPwrCh State.setPwrCh
  dsimp only
  split <;> rfl

theorem State.vfsAdopt_badWords (s : State) (c : Nat) : (s.vfsAdopt c).pwr.badWords = s.pwr.badWords := by
  unfold State.vfsAdopt State.modPwrCh State.setPwrCh
  dsimp only
  split <;> rfl

theorem State.pwrAdopt_badWords {s : State} (h : s.pwr.linkHstop = false) : s.pwrAdopt.pwr.badWords = [] := by
  unfold State.pwrAdopt
  simp [h, State.vfsAdopt_badWords]

theorem State.pwrAdopt_inForceW {s : State} (hs : StoresOk s) (h : s.pwr.linkHstop = false) (a : Nat) :
    s.pwrAdopt.inForceW a = if pdKey a then s.appliedW a else s.inForceW a := by
  obtain ⟨⟨-, happlied, hforce, -⟩, -⟩ := hs
  have hreg : s.pwrAdopt.reg.inForce = replaceWhere pdKey s.reg.inForce s.reg.applied := by
    unfold State.pwrAdopt
    simp [h, State.vfsAdopt_reg]
  unfold State.inForceW State.appliedW
  rw [hreg, sget_replaceWhere hforce happlied]

theorem pwrAdopt_adopts {s : State} (hs : Ready s) (hm : hasPower s.member = true) (hl : s.pwr.linkHstop = false) :
    ∃ t, exec .pwrAdopt s = .next t ∧ (∀ a, pdKey a = true → t.inForceW a = s.appliedW a) ∧
      (∀ a, pdKey a = false → t.inForceW a = s.inForceW a) ∧ t.pwr.badWords = [] ∧
      LeavesAllBut [.inForce, .snap, .pwr] s t := by
  have hword := State.pwrAdopt_inForceW hs.1 hl
  have hexec : exec .pwrAdopt s = .next (settle s.pwrAdopt) :=
    (congrArg (run s) (if_pos hm)).trans (run_ready hs _)
  exact ⟨_, hexec, fun a ha => (hword a).trans (if_pos ha), fun a ha => (hword a).trans (by simp [ha]),
    State.pwrAdopt_badWords hl, (State.pwrAdopt_follows s (fun _ k => k) (.refl s)).others.settled⟩

/-! ### Adoption of a tick length (R32) -/

section
variable {s : State} {c : Nat}

/-- No tick length waits any more, nor does the block TT. -/
def State.tickTaken (s : State) : State :=
  { s with tt := { s.tt with tickNext := none },
           reg := { s.reg with waiting := s.reg.waiting.filter (fun p => p.2 ≠ bTT) } }

theorem State.tickAdopt_early (hc : s.tt.tickNext = some c) (hn : s.tt.now % 32 ≠ 0) : s.tickAdopt = s := by
  unfold State.tickAdopt
  simp [hc, hn]

theorem State.tickAdopt_free (hc : s.tt.tickNext = some c) (hn : s.tt.now % 32 = 0) (hb : s.tickBusy = false) :
    s.tickAdopt = { s.tickTaken with tt := { s.tickTaken.tt with tick := c } } := by
  unfold State.tickAdopt State.tickTaken
  simp [hc, hn, hb]

/-- Something runs: TT's applied word is written back, with TICK_REFUSED and the staged bit of a group (R32). -/
theorem State.tickAdopt_busy (hc : s.tt.tickNext = some c) (hn : s.tt.now % 32 = 0) (hb : s.tickBusy = true) :
    ∃ w g, s.tickAdopt = ((s.tickTaken.setApplied 0x2C000 w).flag 0x2C008 0x2).setStagedBit g true := by
  unfold State.tickAdopt State.tickTaken
  simp only [hc, hn, hb]
  exact ⟨_, _, rfl⟩

theorem State.tickAdopt_free_others (hc : s.tt.tickNext = some c) (hn : s.tt.now % 32 = 0) (hb : s.tickBusy = false) :
    LeavesAllBut [.snap, .tt] s s.tickAdopt := by
  rw [State.tickAdopt_free hc hn hb]
  intro p hp
  cases p with
  | snap | tt => simp at hp
  | _ => rfl

theorem tickLengthAdopt_adopts (hs : Ready s) (hc : s.tt.tickNext = some c) (hn : s.tt.now % 32 = 0)
    (hb : s.tickBusy = false) :
    ∃ t, exec .tickLengthAdopt s = .next t ∧ t.tt.tick = c ∧ t.tt.tickNext = none ∧ t.tt.now = s.tt.now ∧
      t.tt.armed = s.tt.armed ∧ LeavesAllBut [.snap, .tt] s t := by
  have htt : s.tickAdopt.tt = { s.tt with tickNext := none, tick := c } := by rw [State.tickAdopt_free hc hn hb]; rfl
  refine ⟨settle s.tickAdopt, run_ready hs _, ?_⟩
  rw [settle_tt, htt]
  exact ⟨rfl, rfl, rfl, rfl, (State.tickAdopt_free_others hc hn hb).settled⟩

theorem tickLengthAdopt_refuses (hs : Ready s) (hc : s.tt.tickNext = some c) (hn : s.tt.now % 32 = 0)
    (hb : s.tickBusy = true) :
    ∃ t, exec .tickLengthAdopt s = .next t ∧ t.tt = { s.tt with tickNext := none } ∧ bitAt (t.rcW 0x2C008) 1 = true ∧
      RcOnly [0x2C008] s t ∧ LeavesAllBut [.applied, .rc, .snap, .tt] s t := by
  have hparts := (State.tickAdopt_follows s (fun _ k => k) (.refl s)).others.settled
  refine ⟨settle s.tickAdopt, run_ready hs _, ?_⟩
  obtain ⟨w, g, h⟩ := State.tickAdopt_busy hc hn hb
  rw [h] at hparts ⊢
  have hrc (a : Nat) : (((s.tickTaken.setApplied 0x2C000 w).flag 0x2C008 0x2).setStagedBit g true).rcW a =
      if a = 0x2C008 then s.rcW 0x2C008 ||| toWord 0x2 else s.rcW a := State.setRc_rcW hs.1 _ _ _
  refine ⟨rfl, ?_, fun a ha => ?_, hparts⟩
  · rw [settle_rcW, hrc, if_pos rfl]
    exact bitAt_or _ 1 2 (by decide) (by decide)
  · rw [settle_rcW, hrc, if_neg (by simpa using ha)]

theorem tickLengthAdopt_waits (hs : Ready s) (hc : s.tt.tickNext = some c) (hn : s.tt.now % 32 ≠ 0) :
    ∃ t, exec .tickLengthAdopt s = .next t ∧ LeavesAllBut [] s t := by
  refine ⟨settle s.tickAdopt, run_ready hs _, ?_⟩
  rw [State.tickAdopt_early hc hn]
  exact (settle_follows s (.refl s)).others

end

/-! ### The words of a snapshot (R14, R262) -/

/-- A block with no register in the table of fields adopted as another value takes every word as it is. -/
theorem State.adoptFields_none {s old : State} {b : Nat} (ha : b ≠ bMACA) (hb : b ≠ bMACB)
    (h : ∀ r ∈ adoptRows, ∀ a ∈ r.addrs, ofBlock b a = false) : s.adoptFields old b = s := by
  unfold State.adoptFields
  rw [if_neg (by tauto)]
  refine List.foldlRecOn (motive := (· = s)) adoptRows _ rfl fun t ht r hr => ?_
  have hnone : r.addrs.filter (ofBlock b) = [] := List.filter_eq_nil_iff.mpr fun a hx => by simp [h r hr a hx]
  rw [hnone]
  exact ht

theorem State.applyWords_appliedW {s : State} {x : Snapshot} {b : Nat} (hs : StoresOk s) (hx : swf resetWord x.words = true)
    (ha : b ≠ bMACA) (hb : b ≠ bMACB) (h : ∀ r ∈ adoptRows, ∀ a ∈ r.addrs, ofBlock b a = false) (a : Nat) :
    (s.applyWords x b).appliedW a = if ofBlock b a && !s.inMode1 a then x.word a else s.appliedW a := by
  obtain ⟨⟨-, happlied, -⟩, -⟩ := hs
  unfold State.applyWords
  rw [State.adoptFields_none ha hb h]
  exact sget_replaceWhere happlied hx (fun k => ofBlock b k && !s.inMode1 k) a

/-- Settles O21: the adoptions are those of the power die and of the tick length, and a block's words are those of
its snapshot where the regions are not in mode 1. -/
theorem adoptionAndSnapshots : Obligations.AdoptionAndSnapshots :=
  ⟨⟨fun _ hs hm hl => pwrAdopt_adopts hs hm hl,
      fun _ _ hs hc => ⟨tickLengthAdopt_adopts hs hc, tickLengthAdopt_refuses hs hc, tickLengthAdopt_waits hs hc⟩⟩,
    fun s x b hs hx ha hb h => ⟨State.applyWords_appliedW hs.1 hx ha hb h,
      (State.applyWords_follows s x b (fun _ k => k) (.refl s)).others⟩⟩

end Sys2Proof.Machine

/-! SUPPORT. What a tick boundary does to media position (R31, R33), and the registers, ARM and DISARM of a
departure (R35, R37). -/

namespace Sys2Proof.Machine

/-! ### An empty queue -/

theorem step_of_empty {s : State} (h : s.pending = []) : step s = .next s := by
  unfold step
  rw [h]

/-- Settles O2: with no command in front, step answers the state itself. -/
theorem stepIdlesWithoutCommand : Obligations.StepIdlesWithoutCommand := fun _ h => step_of_empty h

/-! ### Media position through a tick (R31, R33) -/

section
variable {s : State}

/-- A die held in reset or asleep does not see the command. -/
theorem run_down (h : s.down = true) (t : State) : run s t = .next (settle s) := by
  unfold run done
  rw [if_pos h]

/-- The parts a tick may change, media position and the state of PMU apart. -/
def tickParts : List Part :=
  [.staged, .applied, .rw, .rc, .count, .bank, .snap, .crc, .hstop, .tt, .tim, .mcr, .syn, .mix, .macA, .macB, .mdio,
   .stx, .eng, .pool, .srx, .dpc, .ring, .cmd, .sap, .asrc, .pwr, .pair, .sst]

/-- The block of the tick that ends, before media position moves. -/
def State.tickEnds (s : State) (x : TickIn) : State := ((s.tickCredits x).tickPins x).tickIngress x

theorem State.tickEnds_follows (s : State) (x : TickIn) :
    Follows [.rc, .count, .mix, .macA, .macB, .stx, .srx, .ring, .sap, .asrc, .pwr, .sst] s (s.tickEnds x) :=
  State.tickIngress_follows _ x (subParts_spec rfl) <| State.tickPins_follows _ x (subParts_spec rfl) <|
    State.tickCredits_follows s x (subParts_spec rfl) (.refl s)

/-- What the boundary does for clocks, ports, pair and CRC, before it looks at sleep and over-temperature. -/
def State.tickUpkeep (s : State) (x : TickIn) : State :=
  let a := (((s.mcrTick x.ns).trkTick).serdesTick).scrubTick x.ns x.storeCe
  ((((a.holdChecks).utilUpshifts).shiftCheck).pairTick x.mirBad).passBegin

theorem State.tickUpkeep_follows {r : State} (x : TickIn) (h : Follows tickParts r s) :
    Follows tickParts r (s.tickUpkeep x) :=
  State.passBegin_follows _ (subParts_spec rfl) <| State.pairTick_follows _ _ (subParts_spec rfl) <|
    State.shiftCheck_follows _ (subParts_spec rfl) <| State.utilUpshifts_follows _ (subParts_spec rfl) <|
    State.holdChecks_follows _ (subParts_spec rfl) <| State.scrubTick_follows _ _ _ (subParts_spec rfl) <|
    State.serdesTick_follows _ (subParts_spec rfl) <| State.trkTick_follows _ (subParts_spec rfl) <|
    State.mcrTick_follows _ _ (subParts_spec rfl) h

/-- The work of the new tick, from the actions of its boundary to the upkeep. -/
def State.tickWork (s : State) (x : TickIn) : State :=
  (((s.tickActions x).tickFabric x).tickEgress x).tickUpkeep x

theorem State.tickWork_follows (s : State) (x : TickIn) : Follows tickParts s (s.tickWork x) :=
  State.tickUpkeep_follows x <| State.tickEgress_follows _ x (subParts_spec rfl) <|
    State.tickFabric_follows _ x (subParts_spec rfl) <| State.tickActions_follows s x (subParts_spec rfl) (.refl s)

theorem State.tick_eq (s : State) (x : TickIn) :
    s.tick x = (((s.tickEnds x).tickAdvance x).tickWork x).sleepTick.heatTick := rfl

theorem State.tickAdvance_now (s : State) (x : TickIn) : (s.tickAdvance x).tt.now = s.tt.now + s.T := rfl

theorem State.tickAdvance_pmu (s : State) (x : TickIn) : (s.tickAdvance x).pmu = s.pmu :=
  (State.tickAdvance_follows s x (fun _ k => k) (.refl s)).others.keeps .pmu rfl

/-! ### Sleep entry and over-temperature at the boundary -/

/-- Sleep ends the host interface and the ports; of PMU's state only the record that the part is asleep changes. -/
theorem State.sleepEnd_pmu (s : State) : s.sleepEnd.pmu = { s.pmu with asleep := 2 } := by
  have hhost : (if s.pci.up then s.hostReset .link else s.hostClear).pmu = s.pmu := by
    split
    · exact State.flagRaise_pmu _ _ _ _
    · rfl
  have hports : ∀ (u : State) (ps : List Nat), (ps.foldl State.portSleep u).pmu = u.pmu := fun u ps =>
    (Follows.foldl (fun t p h => State.portSleep_follows t p (fun _ k => k) h) (.refl u) ps).others.keeps .pmu rfl
  have hserdes : ∀ u : State, u.serdesTick.pmu = u.pmu := fun u =>
    (State.serdesTick_follows u (fun _ k => k) (.refl u)).others.keeps .pmu rfl
  unfold State.sleepEnd
  simp only [hserdes, hports, hhost]

theorem State.sleepEnd_now (s : State) : s.sleepEnd.tt.now = s.tt.now :=
  (State.sleepEnd_follows s (fun _ k => k) (.refl s)).others.keeps .now rfl

theorem State.sleepStops_now (s : State) : s.sleepStops.tt.now = s.tt.now :=
  (State.sleepStops_follows s (fun _ k => k) (.refl s)).others.keeps .now rfl

theorem State.sleepStops_pmu (s : State) : s.sleepStops.pmu = s.pmu :=
  (State.sleepStops_follows s (fun _ k => k) (.refl s)).others.keeps .pmu rfl

/-- With no wake pending, no stage of sleep entry resets the part. -/
theorem State.sleepTick_keeps (h : s.pmu.wakePend = none) :
    s.sleepTick.tt.now = s.tt.now ∧ s.sleepTick.pmu.overheat = s.pmu.overheat := by
  unfold State.sleepTick
  split
  · split
    · exact ⟨(State.muteAll_follows _ _ _ (fun _ k => k) (.refl _)).others.keeps .now rfl, by rw [State.muteAll_pmu]⟩
    · exact ⟨rfl, rfl⟩
  · dsimp only
    split
    · split
      · exact ⟨State.sleepStops_now _, by rw [State.sleepStops_pmu]⟩
      · exact ⟨rfl, rfl⟩
    · split
      · rw [State.sleepEnd_pmu]
        simp only [h]
        exact ⟨State.sleepEnd_now _, by rw [State.sleepEnd_pmu]⟩
      · exact ⟨rfl, rfl⟩

theorem State.heatTick_cool (h : s.pmu.overheat = false) : s.heatTick = s := by
  unfold State.heatTick
  simp [h]

/-- A tick of a part that is neither overheated nor about to wake moves media position on by the tick length. -/
theorem State.tick_now (x : TickIn) (hheat : s.pmu.overheat = false) (hwake : s.pmu.wakePend = none) :
    (s.tick x).tt.now = s.tt.now + s.T := by
  have hends := (s.tickEnds_follows x).others
  rw [State.tick_eq]
  generalize s.tickEnds x = a at hends ⊢
  have hwork := ((a.tickAdvance x).tickWork_follows x).others
  generalize (a.tickAdvance x).tickWork x = b at hwork ⊢
  have hpmu : b.pmu = s.pmu := (hwork.keeps .pmu rfl).trans ((a.tickAdvance_pmu x).trans (hends.keeps .pmu rfl))
  obtain ⟨hnow, hcool⟩ := State.sleepTick_keeps (s := b) (by rw [hpmu, hwake])
  have htt : a.tt = s.tt := hends.ttKept rfl rfl
  calc b.sleepTick.heatTick.tt.now = b.sleepTick.tt.now := by rw [State.heatTick_cool (by rw [hcool, hpmu, hheat])]
    _ = b.tt.now := hnow
    _ = (a.tickAdvance x).tt.now := hwork.keeps .now rfl
    _ = a.tt.now + a.T := a.tickAdvance_now x
    _ = s.tt.now + s.T := by unfold State.T; rw [htt]

end

/-- Settles O20: a part that runs advances by the tick; one that is down does not see the boundary. -/
theorem tickAdvancesMediaTime : Obligations.TickAdvancesMediaTime := by
  intro s x
  constructor
  · intro hd hheat hwake
    exact ⟨settle (s.tick x), congrArg done (if_neg (by simp [hd])), State.tick_now x hheat hwake⟩
  · intro hd
    exact ⟨settle s, run_down hd _, (settle_follows s (.refl s)).others⟩

/-! ### The registers of a departure (R35) -/

/-- The bits of the n-th register of a departure, TT_DPOS_LO to TT_DCTL. -/
def depMask (n : Nat) : Nat := if n = 2 then 0x1FF else if n = 5 then 0xFFFF else if n = 6 then 1 else 0xFFFFFFFF

def depRow (n : Nat) : RegRow := (rowRW (0x100 + 4 * n) (depMask n)).times 64 0x20

theorem rowAt_dep : ∀ d < 64, ∀ n < 7, rowAt (depBase d + 4 * n) = some (depRow n) := by decide +kernel

section
variable {s : State} {d n : Nat}

theorem depAddr_bounds (hd : d < 64) (hn : n < 7) : 0x2C100 ≤ depBase d + 4 * n ∧ depBase d + 4 * n < 0x2C900 := by
  unfold depBase
  omega

theorem depAddr_offset (hn : n < 7) : (depBase d + 4 * n) % 0x20 = 4 * n := by
  unfold depBase
  omega

theorem depOf_depAddr (hn : n < 7) : depOf (depBase d + 4 * n) = d := by
  unfold depOf depBase
  omega

theorem isDep_depAddr (hd : d < 64) (hn : n < 7) : isDep (depBase d + 4 * n) = true :=
  decide_eq_true (depAddr_bounds hd hn)

theorem blockAt_dep : ∀ d < 64, ∀ n < 7, blockAt (depBase d + 4 * n) = some bTT := by decide +kernel

theorem State.present_dep (s : State) (hd : d < 64) (hn : n < 7) : s.present (depBase d + 4 * n) = some (depRow n) :=
  State.present_at (blockAt_dep d hd n hn) rfl rfl (rowAt_dep d hd n hn)

theorem State.lacking_dep (s : State) (hd : d < 64) (hn : n < 7) : s.lacking (depBase d + 4 * n) = 0#32 := by
  obtain ⟨hlo, hhi⟩ := depAddr_bounds hd hn
  unfold State.lacking
  rw [if_neg (by omega)]
  split
  · exact (if_neg (by omega)).trans (if_neg (by omega))
  · rfl

theorem State.wordLocked_dep (s : State) (hd : d < 64) (hn : n < 7) (w : Word) :
    s.wordLocked (depBase d + 4 * n) w = false := by
  obtain ⟨hlo, hhi⟩ := depAddr_bounds hd hn
  unfold State.wordLocked
  rw [if_neg (by omega), if_neg (by omega), if_neg (by omega), if_neg (by omega)]

theorem State.rwAct_dep (s : State) (q : Req) (hd : d < 64) (hn : n < 7) (w : Word) :
    s.rwAct q (depBase d + 4 * n) w = s.depReg (depBase d + 4 * n) w := by
  obtain ⟨hlo, hhi⟩ := depAddr_bounds hd hn
  unfold State.rwAct
  rw [if_neg (by omega), if_neg (by omega), if_neg (by omega), if_neg (by omega), if_neg (by omega), if_neg (by omega),
    if_pos (isDep_depAddr hd hn)]

theorem State.rwValue_dep (s : State) (q : Req) (hd : d < 64) (hn : n < 6) :
    s.rwValue q (depBase d + 4 * n) = s.rwW (depBase d + 4 * n) := by
  obtain ⟨hlo, hhi⟩ := depAddr_bounds (d := d) (n := n) hd (by omega)
  have hoff := depAddr_offset (d := d) (n := n) (by omega)
  unfold State.rwValue
  rw [if_neg (by omega), if_neg (by omega), if_neg (by omega), if_neg (by simp; omega)]

theorem depMask_ne_zero (n : Nat) : depMask n ≠ 0 := by
  unfold depMask
  split_ifs <;> decide

/-- A write of a register of a departure, through any view, comes to the timetable. -/
theorem State.write32_dep (q : Req) (v : View) (x : Word) (hd : d < 64) (hn : n < 7) :
    s.write32 q v (depBase d + 4 * n) x =
      s.depReg (depBase d + 4 * n) (s.askedRw q v (depBase d + 4 * n) x (depRow n)) := by
  obtain ⟨hlo, hhi⟩ := depAddr_bounds hd hn
  rw [State.write32_rw (s.present_dep hd hn) (kindFault_rw rfl rfl (depMask_ne_zero n) rfl (by omega)) rfl rfl rfl rfl
    (depMask_ne_zero n) (s.wordLocked_dep hd hn _), s.rwAct_dep q hd hn]

theorem State.askedRw_dep (q : Req) (v : View) (x : Word) (hd : d < 64) (hn : n < 6) :
    s.askedRw q v (depBase d + 4 * n) x (depRow n) =
      merge (s.rwW (depBase d + 4 * n)) (toWord (depRow n).rw) (viewBits v (s.rwW (depBase d + 4 * n)) x) := by
  unfold State.askedRw
  rw [s.rwValue_dep q hd hn, s.lacking_dep hd (by omega), BitVec.not_zero, BitVec.and_allOnes]

/-- The one bit of TT_DCTL is the bit written. -/
theorem State.askedRw_depCtl (q : Req) (x : Word) (hd : d < 64) :
    bitAt (s.askedRw q .normal (depBase d + 0x18) x (depRow 6)) 0 = bitAt x 0 := by
  have hmask : toWord (depRow 6).rw = 1#32 := rfl
  have hlack : s.lacking (depBase d + 0x18) = 0#32 := s.lacking_dep (n := 6) hd (by decide)
  unfold State.askedRw merge viewBits bitAt
  rw [hmask, hlack]
  simp

/-! ### What the timetable makes of a write (R35, R37) -/

theorem State.recordDep_frame (s : State) (d : Nat) : Follows [.pair] s (s.recordDep d) :=
  State.recordDep_follows s d (fun _ k => k) (.refl s)

theorem State.depReg_armed (hsh : s.shadowed = false) (hn : n < 6) (ha : s.isArmed d = true) (w : Word) :
    s.depReg (depBase d + 4 * n) w = s.flag (depBase d + 0x1C) 0x8 := by
  have hoff := depAddr_offset (d := d) (n := n) (by omega)
  have hctl : ¬ 4 * n = 0x18 := by omega
  unfold State.depReg State.depWrite
  simp only [hsh, hoff, hctl, depOf_depAddr (d := d) (n := n) (by omega), ha, if_true, if_false, Bool.false_eq_true]

theorem State.depReg_free (hsh : s.shadowed = false) (hn : n < 6) (ha : s.isArmed d = false) (w : Word) :
    s.depReg (depBase d + 4 * n) w = (s.setRw (depBase d + 4 * n) w).recordDep d := by
  have hoff := depAddr_offset (d := d) (n := n) (by omega)
  have hctl : ¬ 4 * n = 0x18 := by omega
  unfold State.depReg State.depWrite
  simp only [hsh, hoff, hctl, depOf_depAddr (d := d) (n := n) (by omega), ha, if_false, Bool.false_eq_true]

theorem State.depReg_ctl (hsh : s.shadowed = false) (w : Word) :
    s.depReg (depBase d + 0x18) w = (if bitAt w 0 then s.arm d else s.disarm d).recordDep d := by
  have hoff : (depBase d + 0x18) % 0x20 = 0x18 := depAddr_offset (n := 6) (by decide)
  have hdep : depOf (depBase d + 0x18) = d := depOf_depAddr (n := 6) (by decide)
  unfold State.depReg
  simp only [hsh, hoff, hdep, if_true, if_false, Bool.false_eq_true]

/-- A write of TT_DCTL arms or disarms the departure by its one bit. -/
theorem State.ctl_dep (q : Req) (b : Nat) (hsh : s.shadowed = false) (hd : d < 64) :
    s.ctl q (depBase d + 0x18) b = (if bitAt (toWord b) 0 then s.arm d else s.disarm d).recordDep d := by
  have hwrite : s.ctl q (depBase d + 0x18) b = _ := State.write32_dep (n := 6) q .normal (toWord b) hd (by decide)
  rw [hwrite, State.depReg_ctl hsh, State.askedRw_depCtl q _ hd]

theorem State.setArmed_isArmed (s : State) {k : Nat} (hk : k < 64) (b : Bool) :
    (s.setArmed d b).isArmed k = if k = d then b else s.isArmed k := by
  have hbit : (BitVec.ofNat 64 (2 ^ d)).getLsbD k = decide (k = d) := by
    rw [BitVec.getLsbD_ofNat, Nat.testBit_two_pow, decide_eq_true hk, Bool.true_and]
    exact decide_eq_decide.mpr eq_comm
  unfold State.isArmed State.setArmed
  cases b with
  | true =>
    simp only [if_true, BitVec.getLsbD_or, hbit]
    by_cases h : k = d <;> simp [h]
  | false =>
    simp only [if_false, Bool.false_eq_true, BitVec.getLsbD_and, BitVec.getLsbD_not, hbit, hk]
    by_cases h : k = d <;> simp [h]

/-- Armed or disarmed and recorded: no other departure's arming changes, nor the tick length. -/
theorem State.setArmed_recorded (s : State) (d : Nat) (b : Bool) (hd : d < 64) :
    let t := settle ((s.setArmed d b).recordDep d)
    t.isArmed d = b ∧ (∀ k < 64, k ≠ d → t.isArmed k = s.isArmed k) ∧ t.tt.tick = s.tt.tick ∧
      LeavesAllBut [.tt, .pair] s t := by
  intro t
  have htt : t.tt = (s.setArmed d b).tt := ((s.setArmed d b).recordDep_frame d).others.ttKept rfl rfl
  have harmed : ∀ k < 64, t.isArmed k = if k = d then b else s.isArmed k := fun k hk => by
    rw [← s.setArmed_isArmed hk, State.isArmed, htt, State.isArmed]
  have hparts : Follows [.tt, .pair] s ((s.setArmed d b).recordDep d) :=
    State.recordDep_follows _ d (subParts_spec rfl) (State.setArmed_follows s d b (subParts_spec rfl) (.refl s))
  exact ⟨(harmed d hd).trans (if_pos rfl), fun k hk hne => (harmed k hk).trans (if_neg hne), by rw [htt]; rfl,
    hparts.others.settled⟩

theorem State.armCause_lt (s : State) (d : Nat) : s.armCause d < 8 := by
  unfold State.armCause
  dsimp only
  split_ifs <;> decide

theorem fld_eq_extract (w : Word) (lo n : Nat) : fld w lo n = (w.extractLsb' lo n).toNat := by
  rw [fld, BitVec.extractLsb'_toNat, Nat.shiftRight_eq_div_pow]

/-- The cause merged into REFUSE is the one read from it. -/
theorem fld_refuse (w : Word) : ∀ c < 8, fld (merge w 0x70 (toWord (put 4 c))) 4 3 = c := by
  have hout : (~~~(0x70 : Word)).extractLsb' 4 3 = 0#3 := by decide
  have hin : ∀ c < 8, ((toWord (put 4 c) &&& 0x70).extractLsb' 4 3).toNat = c := by decide
  intro c hc
  rw [fld_eq_extract, merge, BitVec.extractLsb'_or, BitVec.extractLsb'_and, hout, BitVec.and_zero,
    BitVec.zero_or, hin c hc]

/-! ### The commands of the timetable -/

theorem departureWrite_taken {r : RegRow} (x : RegWrite) (hs : Ready s) (hd : d < 64) (hsh : s.shadowed = false)
    (hn : n < 6) (hr : rowAt (depBase d + 4 * n) = some r) (ha : s.isArmed d = false) :
    ∃ t, exec (.departureWrite d n x) s = .next t ∧
      t.rwW (depBase d + 4 * n) =
        merge (s.rwW (depBase d + 4 * n)) (toWord r.rw) (viewBits x.view (s.rwW (depBase d + 4 * n)) x.data) ∧
      (∀ k, k ≠ depBase d + 4 * n → t.rwW k = s.rwW k) ∧ LeavesAllBut [.rw, .pair] s t := by
  obtain rfl : depRow n = r := Option.some.inj ((rowAt_dep d hd n (by omega)).symm.trans hr)
  rw [← State.askedRw_dep x.req x.view x.data hd hn]
  generalize hw : s.askedRw x.req x.view (depBase d + 4 * n) x.data (depRow n) = w
  have hexec : exec (.departureWrite d n x) s = .next (settle ((s.setRw (depBase d + 4 * n) w).recordDep d)) := by
    rw [← State.depReg_free hsh hn ha, ← hw, ← State.write32_dep _ _ _ hd (by omega)]
    exact (congrArg (run s) ((if_pos hn).trans (if_pos hd))).trans (run_ready hs _)
  have hword (k : Nat) :
      ((s.setRw (depBase d + 4 * n) w).recordDep d).rwW k = if k = depBase d + 4 * n then w else s.rwW k :=
    ((State.recordDep_frame _ d).others.rwW rfl k).trans (State.setRw_rwW hs.1 _ k w)
  have hparts : Follows [.rw, .pair] s ((s.setRw (depBase d + 4 * n) w).recordDep d) :=
    State.recordDep_follows _ d (subParts_spec rfl)
      (State.setRw_follows s (depBase d + 4 * n) w (subParts_spec rfl) (.refl s))
  exact ⟨_, hexec, (hword _).trans (if_pos rfl), fun k hk => (hword k).trans (if_neg hk), hparts.others.settled⟩

theorem departureWrite_whileArmed (x : RegWrite) (hs : Ready s) (hd : d < 64) (hsh : s.shadowed = false) (hn : n < 6)
    (ha : s.isArmed d = true) :
    ∃ t, exec (.departureWrite d n x) s = .next t ∧ bitAt (t.rcW (depBase d + 0x1C)) 3 = true ∧
      RcOnly [depBase d + 0x1C] s t ∧ LeavesAllBut [.rc] s t := by
  have hexec : exec (.departureWrite d n x) s = .next (settle (s.flag (depBase d + 0x1C) 0x8)) := by
    rw [← State.depReg_armed hsh hn ha, ← State.write32_dep x.req x.view x.data hd (by omega)]
    exact (congrArg (run s) ((if_pos hn).trans (if_pos hd))).trans (run_ready hs _)
  have hword (k : Nat) := State.flag_rcW hs.1 (depBase d + 0x1C) k 0x8
  refine ⟨_, hexec, ?_, fun k hk => (hword k).trans (if_neg (by simpa using hk)), (State.flag_others s _ _).settled⟩
  rw [settle_rcW, hword, if_pos rfl]
  exact bitAt_or _ 3 8 (by decide) (by decide)

theorem arm_writes (q : Req) (hs : Ready s) (hd : d < 64) (hsh : s.shadowed = false) :
    exec (.arm d q) s = .next (settle ((s.arm d).recordDep d)) := by
  have hctl : s.ctl q (depBase d + 0x18) 1 = (s.arm d).recordDep d := State.ctl_dep q 1 hsh hd
  exact (congrArg (run s) ((if_pos hd).trans hctl)).trans (run_ready hs _)

theorem disarm_writes (q : Req) (hs : Ready s) (hd : d < 64) (hsh : s.shadowed = false) :
    exec (.disarm d q) s = .next (settle ((s.setArmed d false).recordDep d)) := by
  have hctl : s.ctl q (depBase d + 0x18) 0 = (s.setArmed d false).recordDep d := State.ctl_dep q 0 hsh hd
  exact (congrArg (run s) ((if_pos hd).trans hctl)).trans (run_ready hs _)

theorem arm_accepted (q : Req) (hs : Ready s) (hd : d < 64) (hsh : s.shadowed = false) (ha : s.isArmed d = false)
    (hc : s.armCause d = 0) :
    ∃ t, exec (.arm d q) s = .next t ∧ t.isArmed d = true ∧ (∀ k < 64, k ≠ d → t.isArmed k = s.isArmed k) ∧
      t.tt.tick = s.tt.tick ∧ LeavesAllBut [.tt, .pair] s t := by
  have harm : s.arm d = s.setArmed d true := by simp [State.arm, ha, hc]
  exact ⟨_, arm_writes q hs hd hsh, by rw [harm]; exact s.setArmed_recorded d true hd⟩

theorem arm_refused (q : Req) (hs : Ready s) (hd : d < 64) (hsh : s.shadowed = false) (ha : s.isArmed d = false)
    (hc : s.armCause d ≠ 0) :
    ∃ t, exec (.arm d q) s = .next t ∧ fld (t.rcW (depBase d + 0x1C)) 4 3 = s.armCause d ∧
      RcOnly [depBase d + 0x1C] s t ∧ LeavesAllBut [.rc, .pair] s t := by
  have harm : s.arm d = s.setRefuse d (s.armCause d) := by simp [State.arm, ha, hc]
  have hword (k : Nat) : (settle ((s.setRefuse d (s.armCause d)).recordDep d)).rcW k = _ :=
    ((State.recordDep_frame _ d).others.rcW rfl k).trans (State.setRc_rcW hs.1 _ k _)
  have hparts : Follows [.rc, .pair] s ((s.setRefuse d (s.armCause d)).recordDep d) :=
    State.recordDep_follows _ d (subParts_spec rfl)
      (State.setRefuse_follows s d (s.armCause d) (subParts_spec rfl) (.refl s))
  refine ⟨_, arm_writes q hs hd hsh, ?_⟩
  rw [harm]
  refine ⟨?_, fun k hk => (hword k).trans (if_neg (by simpa using hk)), hparts.others.settled⟩
  rw [hword, if_pos rfl]
  exact fld_refuse _ _ (s.armCause_lt d)

theorem disarm_disarms (q : Req) (hs : Ready s) (hd : d < 64) (hsh : s.shadowed = false) :
    ∃ t, exec (.disarm d q) s = .next t ∧ t.isArmed d = false ∧ (∀ k < 64, k ≠ d → t.isArmed k = s.isArmed k) ∧
      t.tt.tick = s.tt.tick ∧ LeavesAllBut [.tt, .pair] s t :=
  ⟨_, disarm_writes q hs hd hsh, s.setArmed_recorded d false hd⟩

theorem disarmAll_disarms (q : Req) (hs : Ready s) :
    ∃ t, exec (.disarmAll q) s = .next t ∧ (∀ k, t.isArmed k = false) ∧ t.tt.tick = s.tt.tick ∧
      LeavesAllBut [.tt] s t := by
  have hexec : exec (.disarmAll q) s = .next (settle s.disarmAll) :=
    (congrArg (run s) (s.ctl_tt q)).trans (run_ready hs _)
  exact ⟨_, hexec, fun k => BitVec.getLsbD_zero, rfl,
    (State.disarmAll_follows s (fun _ k => k) (.refl s)).others.settled⟩

end

/-- Settles O22: each clause is the lemma of its command. -/
theorem departuresWrittenAndArmed : Obligations.DeparturesWrittenAndArmed := fun _ _ q hs hd hsh =>
  ⟨fun _ x _ hn hr ha => departureWrite_taken x hs hd hsh hn hr ha,
    fun _ x hn ha => departureWrite_whileArmed x hs hd hsh hn ha,
    arm_accepted q hs hd hsh, arm_refused q hs hd hsh, disarm_disarms q hs hd hsh, disarmAll_disarms q hs⟩

end Sys2Proof.Machine

/-! SUPPORT. What the operations of clock recovery leave of the RC words and the events; the instances, the ports and the
mute stages read after a write; and from them what each command of time synchronisation and media clock recovery does
(R44 to R67, R446). -/

namespace Sys2Proof.Machine

/-! ### What a command makes of a die that runs -/

section
variable {s : State}

theorem run_up (hd : s.down = false) (t : State) : run s t = .next (settle t) := by
  unfold run done
  simp [hd]

theorem runPowered_up (hd : s.down = false) (t : State) : runPowered s t = .next (settle t) := by
  have hheld : s.held = false := (Bool.or_eq_false_iff.mp hd).1
  unfold runPowered done
  simp [hheld]

theorem State.onPort_present {p : Nat} (hp : p < numPorts s.member) (t : State) : s.onPort p t = t :=
  if_pos (decide_eq_true hp)

theorem State.onInst_named {i : Nat} (hi : i < 2) (t : State) : s.onInst i t = t := if_pos hi

end

/-! ### RC words and events through flags and events raised -/

section
variable {l : List Nat} {s t u : State}

theorem RcOnly.refl (l : List Nat) (s : State) : RcOnly l s s := fun _ _ => rfl

theorem RcOnly.trans (h : RcOnly l s t) (k : RcOnly l t u) : RcOnly l s u := fun a ha => (k a ha).trans (h a ha)

theorem RcOnly.widen {m : List Nat} (h : RcOnly l s t) (hm : l ⊆ m) : RcOnly m s t := fun a ha => h a fun hx => ha (hm hx)

/-- An operation outside the RC words leaves every one of them. -/
theorem LeavesAllBut.rcOnly {ps : List Part} (h : LeavesAllBut ps s t) (hrc : ps.elem .rc = false) : RcOnly l s t :=
  fun a _ => h.rcW hrc a

theorem RcOnly.raise (h : RcOnly l s t) {n : Nat} (hn : evtStat n ∈ l) : RcOnly l s (t.raise n) :=
  h.trans fun a ha => State.raise_rcW_other n a fun e => ha (e ▸ hn)

theorem RcOnly.flag (h : RcOnly l s t) {a m : Nat} (ha : a ∈ l) : RcOnly l s (t.flag a m) :=
  h.trans fun b hb => State.flag_rcW_other t a b m fun e => hb (e ▸ ha)

/-- Every bit that stands in an RC word of `s`, a flag or the status of an event, stands in `t`. -/
def KeepsBits (s t : State) : Prop := ∀ a k, bitAt (s.rcW a) k = true → bitAt (t.rcW a) k = true

theorem KeepsBits.refl (s : State) : KeepsBits s s := fun _ _ h => h

theorem KeepsBits.trans (h : KeepsBits s t) (k : KeepsBits t u) : KeepsBits s u := fun a n hn => k a n (h a n hn)

theorem KeepsBits.event (h : KeepsBits s t) {n : Nat} (hn : s.event n = true) : t.event n = true := h _ _ hn

theorem LeavesAllBut.keepsBits {ps : List Part} (h : LeavesAllBut ps s t) (hrc : ps.elem .rc = false) :
    KeepsBits s t := fun a k hk => by rwa [h.rcW hrc a]

theorem bitAt_or_of_left {w v : Word} {k : Nat} (h : bitAt w k = true) : bitAt (w ||| v) k = true := by
  unfold bitAt at h ⊢
  rw [BitVec.getLsbD_or, h, Bool.true_or]

theorem State.raise_keepsBits (hs : StoresOk s) (n : Nat) : KeepsBits s (s.raise n) := by
  intro a k hk
  by_cases hn : srcPresent s.member n = true
  · rw [State.raise_rcW hs n a hn]
    split
    · exact bitAt_or_of_left hk
    · exact hk
  · rw [State.raise, if_neg hn]
    exact hk

/-- A flag only sets bits, in whatever word it stands. -/
theorem State.flag_keepsBits (hs : StoresOk s) (a m : Nat) : KeepsBits s (s.flag a m) := by
  intro b k hk
  rw [State.flag_rcW hs]
  split
  · next e => exact bitAt_or_of_left (e ▸ hk)
  · exact hk

/-- The sources of time synchronisation and clock recovery are there on every member (R403). -/
theorem srcPresent_clock (m : Member) {n : Nat} (hn : 32 ≤ n ∧ n < 40) : srcPresent m n = true := by
  unfold srcPresent
  rw [if_neg (by omega), if_neg (by omega), if_neg (by omega), if_neg (by omega), if_neg (by omega), if_neg (by omega)]
  exact decide_eq_true (by omega)

theorem State.raise_clockEvent (hs : StoresOk s) {n : Nat} (hn : 32 ≤ n ∧ n < 40) : (s.raise n).event n = true :=
  State.raise_event hs n (srcPresent_clock _ hn)

end

/-! ### The instances of the time engine -/

section
variable {s : State}

theorem State.setInst_inst (s : State) {i : Nat} (hi : i < 2) (v : PtpInst) : (s.setInst i v).inst i = v := by
  obtain rfl | rfl : i = 0 ∨ i = 1 := by omega
  · rfl
  · rfl

theorem State.setInst_inst_other (s : State) {i j : Nat} (hi : i < 2) (hj : j < 2) (hne : j ≠ i) (v : PtpInst) :
    (s.setInst i v).inst j = s.inst j := by
  obtain ⟨rfl, rfl⟩ | ⟨rfl, rfl⟩ : (i = 0 ∧ j = 1) ∨ (i = 1 ∧ j = 0) := by omega
  · rfl
  · rfl

theorem State.setInst_setInst (s : State) {i : Nat} (hi : i < 2) (v w : PtpInst) :
    (s.setInst i v).setInst i w = s.setInst i w := by
  obtain rfl | rfl : i = 0 ∨ i = 1 := by omega
  · rfl
  · rfl

theorem State.setInst_frame (s : State) (i : Nat) (v : PtpInst) : Follows [.tim] s (s.setInst i v) :=
  State.setInst_follows s i v (fun _ k => k) (.refl s)

theorem LeavesAllBut.inst {ps : List Part} {t : State} (h : LeavesAllBut ps s t) (hl : ps.elem .tim = false) (i : Nat) :
    t.inst i = s.inst i := by
  unfold State.inst
  rw [h.keeps .tim hl]

@[simp] theorem settle_inst (s : State) (i : Nat) : (settle s).inst i = s.inst i := rfl

@[simp] theorem State.raise_inst (s : State) (n i : Nat) : (s.raise n).inst i = s.inst i :=
  (State.raise_frame s n).others.inst rfl i

@[simp] theorem State.modMcr_inst (s : State) (f : Mcr → Mcr) (i : Nat) : (s.modMcr f).inst i = s.inst i := rfl

/-- An instance that leaves SYNCED: its event, and nothing else of TIM. -/
theorem State.unsync_spec (hs : StoresOk s) {i : Nat} (hi : i < 2) (hy : (s.inst i).synced = true) :
    let t := s.unsync i
    t.inst i = { s.inst i with synced := false, syncIn := none } ∧ (∀ j < 2, j ≠ i → t.inst j = s.inst j) ∧
      t.event 32 = true ∧ RcOnly [evtStat 32] s t ∧ Follows [.rc, .tim] s t := by
  intro t
  have hparts : Follows [.rc, .tim] s t := State.unsync_follows s i (fun _ k => k) (.refl s)
  have ht : t = (s.setInst i { s.inst i with synced := false, syncIn := none }).raise 32 := if_pos hy
  have hset := s.setInst_frame i { s.inst i with synced := false, syncIn := none }
  rw [ht] at hparts ⊢
  refine ⟨?_, fun j hj hne => ?_, State.raise_clockEvent (hset.stores hs) (by decide),
    RcOnly.raise (hset.others.rcOnly rfl) (by simp), hparts⟩
  · rw [State.raise_inst, s.setInst_inst hi]
  · rw [State.raise_inst, s.setInst_inst_other hi hj hne]

end

/-! ### MCR: LOCKED, and the loss of its reference (R56, R59 to R61) -/

section
variable {s : State}

/-- What MCR holds once it is LOCKED. -/
def Mcr.locked (m : Mcr) : Mcr := { m with state := .locked, everLocked := true, resid := 0, corr := 0 }

theorem State.mcrLock_spec (hs : StoresOk s) :
    s.mcrLock.mcr = s.mcr.locked ∧ s.mcrLock.event 36 = true ∧ RcOnly [evtStat 36] s s.mcrLock ∧
      LeavesAllBut [.rc, .mcr] s s.mcrLock := by
  have hparts := (State.mcrLock_follows s (fun _ k => k) (.refl s)).others
  refine ⟨State.raise_mcr _ _, State.raise_clockEvent (State.modMcr_storesOk _ hs) (by decide), ?_, hparts⟩
  exact RcOnly.raise ((State.modMcr_frame s _).others.rcOnly rfl) (by simp)

/-- What MCR holds once it coasts at a frequency. -/
def Mcr.coasting (m : Mcr) (f : Int) : Mcr :=
  { m.lost with
    state := .coast, favg := f, freq := f, coastNs := 0, hist := [], setDue := false, late := false, failDue := false }

theorem State.coastAt_running (h : s.mcr.state = .locked ∨ s.mcr.state = .acquire) (f : Int) :
    s.coastAt f = ((s.modMcr (fun m => m.coasting f)).flag 0x2400C 0x4).raise 37 := by
  unfold State.coastAt
  obtain h | h := h <;> rw [h] <;> rfl

/-- A running loop that loses its reference coasts, with its flag and its event. -/
theorem State.coastAt_spec (hs : StoresOk s) (h : s.mcr.state = .locked ∨ s.mcr.state = .acquire) (f : Int) :
    let t := s.coastAt f
    t.mcr = s.mcr.coasting f ∧ t.event 37 = true ∧ bitAt (t.rcW 0x2400C) 2 = true ∧
      KeepsBits s t ∧ RcOnly [0x2400C, evtStat 37] s t ∧ LeavesAllBut [.rc, .mcr] s t := by
  intro t
  have hparts : LeavesAllBut [.rc, .mcr] s t := (State.coastAt_follows s f (fun _ k => k) (.refl s)).others
  have hmod : StoresOk (s.modMcr (fun m => m.coasting f)) := State.modMcr_storesOk _ hs
  have hflag := State.flag_storesOk hmod 0x2400C 0x4
  have ht : t = _ := State.coastAt_running h f
  rw [ht] at hparts ⊢
  have hkept : KeepsBits s (s.modMcr (fun m => m.coasting f)) := (State.modMcr_frame s _).others.keepsBits rfl
  refine ⟨?_, State.raise_clockEvent hflag (by decide), ?_,
    (hkept.trans (State.flag_keepsBits hmod _ _)).trans (State.raise_keepsBits hflag _), ?_, hparts⟩
  · rw [State.raise_mcr, State.flag_mcr, State.modMcr_mcr]
  · rw [State.raise_rcW_other _ _ (by decide), State.flag_rcW hmod, if_pos rfl]
    exact bitAt_or _ 2 4 (by decide) (by decide)
  · exact (((State.modMcr_frame s _).others.rcOnly rfl).flag (by simp)).raise (by simp)

theorem State.refLoss_coasts (hm : s.mcrMode ≠ 5)
    (hf : s.mcrMode = 0 → s.mcrFailover = false ∨ (s.inst (1 - s.mcr.inst)).synced = false) : s.refLoss = s.mcrCoast := by
  unfold State.refLoss
  rw [if_neg hm, if_neg]
  rintro ⟨h0, hover, hsync⟩
  obtain h | h := hf h0
  · simp [h] at hover
  · simp [h] at hsync

theorem State.refLoss_failsOver (hm : s.mcrMode = 0) (hf : s.mcrFailover = true)
    (ho : (s.inst (1 - s.mcr.inst)).synced = true) :
    s.refLoss = s.modMcr (fun m => { m with failDue := true, updates := [] }) := by
  unfold State.refLoss
  rw [if_neg (by omega), if_pos ⟨hm, hf, ho⟩]

theorem State.refLossDue_of_lost
    (h0 : s.mcrMode = 0 → (s.inst s.mcr.inst).synced = false)
    (h1 : s.mcrMode ≠ 0 → s.mcr.refOk = true ∧ s.lossNs ≤ s.mcr.quiet + s.tickNs) : s.refLossDue = s.refLoss := by
  unfold State.refLossDue
  split
  · next h => rw [if_neg (by simp [h0 h])]
  · next h => rw [if_pos (h1 h)]

/-! ### The commands that move MCR from state to state -/

theorem mcrLock_locks (hs : Ready s) (ha : s.mcr.state = .acquire) (hr : s.mcr.refOk = true)
    (hp : s.mcr.phase.natAbs < s.lockThr) :
    ∃ t, exec .mcrLock s = .next t ∧
      t.mcr = { s.mcr with state := .locked, everLocked := true, resid := 0, corr := 0 } ∧ t.event 36 = true ∧
      RcOnly [evtStat 36] s t ∧ LeavesAllBut [.rc, .mcr] s t := by
  obtain ⟨hmcr, hevent, hrc, hparts⟩ := State.mcrLock_spec hs.1
  have hlock : s.lockNow = s.mcrLock := if_pos ⟨ha, hr, hp⟩
  exact ⟨settle s.mcrLock, by rw [← hlock]; exact run_ready hs _, hmcr, hevent, hrc, hparts.settled⟩

theorem lockLost_acquires (hd : s.down = false) (hl : s.mcr.state = .locked) (hm : s.mcrMode ≠ 5)
    (hp : 4 * s.lockThr < s.mcr.phase.natAbs) :
    ∃ t, exec .lockLost s = .next t ∧ t.mcr = { s.mcr with state := .acquire } ∧ LeavesAllBut [.mcr] s t := by
  have hlost : s.lockLost = s.modMcr (fun m => { m with state := .acquire }) := if_pos ⟨hl, hm, hp⟩
  exact ⟨_, by rw [← hlost]; exact run_up hd _, rfl, (State.modMcr_frame s _).others.settled⟩

theorem referenceLoss_coasts (hs : Ready s) (hm : s.mcrMode ≠ 5) (hst : s.mcr.state = .locked ∨ s.mcr.state = .acquire)
    (h0 : s.mcrMode = 0 → (s.inst s.mcr.inst).synced = false ∧
      (s.mcrFailover = false ∨ (s.inst (1 - s.mcr.inst)).synced = false))
    (h1 : s.mcrMode ≠ 0 → s.mcr.refOk = true ∧ s.lossNs ≤ s.mcr.quiet + s.tickNs) :
    ∃ t, exec .referenceLoss s = .next t ∧ t.mcr.state = .coast ∧ t.mcr.refOk = false ∧ t.mcr.freq = s.mcr.mean ∧
      t.mcr.favg = s.mcr.mean ∧ t.event 37 = true ∧ bitAt (t.rcW 0x2400C) 2 = true ∧ RcOnly [0x2400C, evtStat 37] s t ∧
      LeavesAllBut [.rc, .mcr] s t := by
  obtain ⟨hmcr, hevent, hbit, -, hrc, hparts⟩ := State.coastAt_spec hs.1 hst s.mcr.mean
  have hloss : s.refLossDue = s.mcrCoast :=
    (State.refLossDue_of_lost (fun h => (h0 h).1) h1).trans (State.refLoss_coasts hm fun h => (h0 h).2)
  refine ⟨settle s.mcrCoast, by rw [← hloss]; exact run_ready hs _, ?_⟩
  simp only [settle_mcr, settle_event, settle_rcW, State.mcrCoast, hmcr]
  exact ⟨rfl, rfl, rfl, rfl, hevent, hbit, hrc, hparts.settled⟩

theorem referenceLoss_failsOver (hd : s.down = false) (hm : s.mcrMode = 0) (hn : (s.inst s.mcr.inst).synced = false)
    (hf : s.mcrFailover = true) (ho : (s.inst (1 - s.mcr.inst)).synced = true) :
    ∃ t, exec .referenceLoss s = .next t ∧ t.mcr = { s.mcr with failDue := true, updates := [] } ∧
      LeavesAllBut [.mcr] s t := by
  have hloss : s.refLossDue = s.modMcr (fun m => { m with failDue := true, updates := [] }) :=
    (State.refLossDue_of_lost (fun _ => hn) fun h => absurd hm h).trans (State.refLoss_failsOver hm hf ho)
  exact ⟨_, by rw [← hloss]; exact run_up hd _, rfl, (State.modMcr_frame s _).others.settled⟩

/-- A jump is decided without a look at which instance is followed (R63 to R66). -/
theorem State.decideJump_source (s : State) (d : Int) :
    (s.decideJump d).mcr.inst = s.mcr.inst ∧ (s.decideJump d).mcr.failedOver = s.mcr.failedOver ∧
      (s.decideJump d).mcr.failDue = s.mcr.failDue ∧ (s.decideJump d).mcr.updates = s.mcr.updates := by
  unfold State.decideJump
  split_ifs <;> exact ⟨rfl, rfl, rfl, rfl⟩

theorem failover_switches (hd : s.down = false) (hf : s.mcr.failDue = true) (hst : s.mcr.state ≠ .step)
    (hu : s.mcr.upLeft = 0) :
    ∃ t, exec .failover s = .next t ∧ t.mcr.inst = 1 - s.mcr.inst ∧ t.mcr.failedOver = true ∧ t.mcr.failDue = false ∧
      t.mcr.updates = [] ∧ LeavesAllBut [.mcr] s t := by
  have hparts := (State.failover_follows s (fun _ k => k) (.refl s)).others
  refine ⟨settle s.failover, run_up hd _, ?_⟩
  rw [settle_mcr]
  have hsource : s.failover.mcr.inst = 1 - s.mcr.inst ∧ s.failover.mcr.failedOver = true ∧
      s.failover.mcr.failDue = false ∧ s.failover.mcr.updates = [] := by
    unfold State.failover
    rw [if_pos ⟨hf, hst, hu⟩]
    dsimp only
    split
    · exact State.decideJump_source _ _
    · exact ⟨rfl, rfl, rfl, rfl⟩
  obtain ⟨hinst, hover, hdue, hupd⟩ := hsource
  exact ⟨hinst, hover, hdue, hupd, hparts.settled⟩

theorem windowMove_asks {c : Int} (hd : s.down = false) (hm : s.mcrMode ≠ 5) (hc : c.natAbs ≤ ppm 1000)
    (hw : ppm 500 < (c - s.mcr.centre).natAbs) :
    ∃ t, exec (.windowMove c) s = .next t ∧ t.syn = { s.syn with req := true, newCentre := some c } ∧
      LeavesAllBut [.syn] s t := by
  have hmove : s.windowMove c = s.modSyn (fun y => { y with req := true, newCentre := some c }) := by
    unfold State.windowMove
    rw [if_neg hm, if_neg (not_lt.mpr hc), if_pos hw]
  exact ⟨_, by rw [← hmove]; exact run_up hd _, rfl, (State.modSyn_frame s _).others.settled⟩

theorem windowMove_rejects {c : Int} (hs : Ready s) (hm : s.mcrMode ≠ 5) (hl : s.mcr.state = .locked)
    (hc : ppm 1000 < c.natAbs) :
    ∃ t, exec (.windowMove c) s = .next t ∧ t.mcr.state = .coast ∧ t.event 37 = true ∧ t.event 39 = true ∧
      bitAt (t.rcW 0x2400C) 1 = true ∧ RcOnly [0x2400C, evtStat 39] s t ∧ LeavesAllBut [.rc, .mcr] s t := by
  have hmove : s.windowMove c = s.mcrRange := by
    unfold State.windowMove
    rw [if_neg hm, if_pos hc]
  have hflag := State.flag_storesOk hs.1 0x2400C 0x2
  have hraise := State.raise_storesOk hflag 39
  have hbit : bitAt ((s.flag 0x2400C 0x2).rcW 0x2400C) 1 = true := by
    rw [State.flag_rcW hs.1, if_pos rfl]
    exact bitAt_or _ 1 2 (by decide) (by decide)
  obtain ⟨hmcr, hlost, -, hkept, hrc, hparts⟩ := State.coastAt_spec hraise (.inl (by simpa using hl)) s.mcr.mean
  have hcoast : s.mcrRange = ((s.flag 0x2400C 0x2).raise 39).coastAt s.mcr.mean := by
    simp only [State.mcrRange, State.mcrCoast, State.raise_mcr, State.flag_mcr]
  rw [← hcoast] at hmcr hlost hkept hrc hparts
  refine ⟨settle s.mcrRange, by rw [← hmove]; exact run_ready hs _, ?_⟩
  rw [settle_mcr, hmcr]
  exact ⟨rfl, hlost, hkept.event (State.raise_clockEvent hflag (by decide)),
    hkept _ _ (State.raise_keepsBits hflag 39 _ _ hbit),
    (((RcOnly.refl _ s).flag (by simp)).raise (by simp)).trans hrc,
    (((State.flag_frame s _ _).widen (subParts_spec rfl)).trans
      ((State.raise_frame _ _).widen (subParts_spec rfl))).others.trans hparts.settled⟩

theorem slewComplete_locks (hs : Ready s) (hst : s.mcr.state = .slew) (hr : s.mcr.resid = 0) :
    ∃ t, exec .slewComplete s = .next t ∧ t.mcr.state = .locked ∧ t.mcr.corr = 0 ∧ t.event 36 = true ∧
      RcOnly [evtStat 36] s t ∧ LeavesAllBut [.rc, .mcr] s t := by
  obtain ⟨hmcr, hevent, hrc, hparts⟩ := State.mcrLock_spec hs.1
  have hlock : s.slewEnd = s.mcrLock := if_pos ⟨hst, hr⟩
  refine ⟨settle s.mcrLock, by rw [← hlock]; exact run_ready hs _, ?_⟩
  rw [settle_mcr, hmcr]
  exact ⟨rfl, rfl, hevent, hrc, hparts.settled⟩

end

/-- Settles O29: each clause is the lemma of its command. -/
theorem mcrStateChanges : Obligations.McrStateChanges :=
  ⟨fun _ => mcrLock_locks, fun _ => lockLost_acquires, fun _ => referenceLoss_coasts, fun _ => referenceLoss_failsOver,
    fun _ => failover_switches, fun _ _ => windowMove_asks, fun _ _ => windowMove_rejects, fun _ => slewComplete_locks⟩

/-! ### Receipt timeouts (R60) -/

section
variable {s : State} {i : Nat}

/-- MCR does not follow an instance that leaves SYNCED: nothing but the instance changes. -/
theorem State.leaveSynced_unfollowed (hf : s.mcrMode ≠ 0 ∨ s.mcr.inst ≠ i) : s.leaveSynced i = s.unsync i :=
  if_neg fun ⟨_, hm, he⟩ => hf.elim (· hm) (· he)

theorem State.leaveSynced_followed (hy : (s.inst i).synced = true) (hm : s.mcrMode = 0) (he : s.mcr.inst = i) :
    s.leaveSynced i = (s.unsync i).refLoss := if_pos ⟨hy, hm, he⟩

theorem syncReceiptTimeout_unfollowed (hs : Ready s) (hi : i < 2) (hy : (s.inst i).synced = true)
    (hf : s.mcrMode ≠ 0 ∨ s.mcr.inst ≠ i) :
    ∃ t, exec (.syncReceiptTimeout i) s = .next t ∧ t.inst i = { s.inst i with synced := false, syncIn := none } ∧
      t.inst (1 - i) = s.inst (1 - i) ∧ t.event 32 = true ∧ RcOnly [evtStat 32] s t ∧ LeavesAllBut [.rc, .tim] s t := by
  obtain ⟨hinst, hother, hevent, hrc, hparts⟩ := State.unsync_spec hs.1 hi hy
  refine ⟨settle (s.unsync i), ?_, hinst, hother _ (by omega) (by omega), hevent, hrc, hparts.others.settled⟩
  rw [← State.leaveSynced_unfollowed hf]
  exact (congrArg (run s) (State.onInst_named hi _)).trans (run_ready hs _)

theorem syncReceiptTimeout_coasts (hs : Ready s) (hi : i < 2) (hy : (s.inst i).synced = true) (hm : s.mcrMode = 0)
    (he : s.mcr.inst = i) (hl : s.mcr.state = .locked) (hf : s.mcrFailover = false) :
    ∃ t, exec (.syncReceiptTimeout i) s = .next t ∧ (t.inst i).synced = false ∧ t.mcr.state = .coast ∧
      t.mcr.freq = s.mcr.mean ∧ t.mcr.refOk = false ∧ t.event 32 = true ∧ t.event 37 = true ∧
      RcOnly [0x2400C, evtStat 32, evtStat 37] s t ∧ LeavesAllBut [.rc, .tim, .mcr] s t := by
  obtain ⟨hinst, -, hevent, hrc, hparts⟩ := State.unsync_spec hs.1 hi hy
  have hmcr : (s.unsync i).mcr = s.mcr := hparts.others.keeps .mcr rfl
  have hmode : (s.unsync i).mcrMode = s.mcrMode := by simp only [State.mcrMode, hparts.others.appliedW rfl]
  have hover : (s.unsync i).mcrFailover = s.mcrFailover := by simp only [State.mcrFailover, hparts.others.rwW rfl]
  have hloss : s.leaveSynced i = (s.unsync i).coastAt s.mcr.mean := by
    rw [State.leaveSynced_followed hy hm he, State.refLoss_coasts (by omega) fun _ => .inl (hover.trans hf),
      State.mcrCoast, hmcr]
  obtain ⟨hcoast, hlost, -, hkept, hrc', hparts'⟩ :=
    State.coastAt_spec (hparts.stores hs.1) (.inl (hmcr ▸ hl)) s.mcr.mean
  refine ⟨settle ((s.unsync i).coastAt s.mcr.mean), ?_, ?_⟩
  · rw [← hloss]
    exact (congrArg (run s) (State.onInst_named hi _)).trans (run_ready hs _)
  · rw [settle_inst, settle_mcr, hparts'.inst rfl, hinst, hcoast]
    exact ⟨rfl, rfl, rfl, rfl, hkept.event hevent, hlost, (hrc.widen (by simp)).trans (hrc'.widen (by simp)),
      (hparts.others.widen (subParts_spec rfl)).trans (hparts'.settled.widen (subParts_spec rfl))⟩

/-- The port state and identity the BMCA gives, as GM_CAPABLE and SLAVE_ONLY limit them (R49). -/
def bmcaInst (w : Word) (v : PtpInst) (b : Bmca) : PtpInst :=
  let me := b.gmSelf && gmCapable w
  let st (n : Nat) : Nat := if slaveOnly w ∧ n = 2 then 1 else n
  { v with stateA := st b.stateA, stateB := st b.stateB, synced := v.synced || me,
           gmId := if b.gmSelf && !me then 0 else b.gmId, gmSelf := me }

theorem State.bmcaTake_eq (s : State) (hi : i < 2) (b : Bmca) :
    s.bmcaTake i b =
      if (s.inst i).gmId = (bmcaInst (s.icfg i) (s.inst i) b).gmId then s.setInst i (bmcaInst (s.icfg i) (s.inst i) b)
      else (s.setInst i (bmcaInst (s.icfg i) (s.inst i) b)).raise 33 := by
  unfold State.bmcaTake State.bmca State.setGm
  simp only [State.setInst_inst _ hi, State.setInst_setInst _ hi]
  rfl

/-- What the BMCA decides stands in the instance, and a new grandmaster raises its event. -/
theorem State.bmcaTake_spec (hs : StoresOk s) (hi : i < 2) (b : Bmca) :
    let t := s.bmcaTake i b
    t.inst i = bmcaInst (s.icfg i) (s.inst i) b ∧ (∀ j < 2, j ≠ i → t.inst j = s.inst j) ∧
      ((s.inst i).gmId ≠ (bmcaInst (s.icfg i) (s.inst i) b).gmId → t.event 33 = true) ∧ KeepsBits s t ∧
      RcOnly [evtStat 33] s t ∧ Follows [.rc, .tim] s t := by
  intro t
  have hparts : Follows [.rc, .tim] s t := State.bmcaTake_follows s i b (fun _ k => k) (.refl s)
  have ht : t = _ := s.bmcaTake_eq hi b
  have hset := s.setInst_frame i (bmcaInst (s.icfg i) (s.inst i) b)
  have hinst := s.setInst_inst hi (bmcaInst (s.icfg i) (s.inst i) b)
  have hother : ∀ j < 2, j ≠ i → (s.setInst i (bmcaInst (s.icfg i) (s.inst i) b)).inst j = s.inst j :=
    fun j hj hne => s.setInst_inst_other hi hj hne _
  generalize bmcaInst (s.icfg i) (s.inst i) b = v at *
  rw [ht] at hparts ⊢
  split
  · next e =>
    rw [if_pos e] at hparts
    exact ⟨hinst, hother, fun hne => absurd e hne, hset.others.keepsBits rfl, hset.others.rcOnly rfl, hparts⟩
  · next e =>
    rw [if_neg e] at hparts
    refine ⟨?_, fun j hj hne => ?_, fun _ => State.raise_clockEvent (hset.stores hs) (by decide),
      (hset.others.keepsBits rfl).trans (State.raise_keepsBits (hset.stores hs) 33),
      RcOnly.raise (hset.others.rcOnly rfl) (by simp), hparts⟩
    · rw [State.raise_inst, hinst]
    · rw [State.raise_inst, hother j hj hne]

theorem State.holdChecks_frame (s : State) : Follows [.dpc] s s.holdChecks :=
  State.holdChecks_follows s (fun _ k => k) (.refl s)

theorem announceReceiptTimeout_unfollowed (b : Bmca) (hs : Ready s) (hi : i < 2) (hy : (s.inst i).synced = true)
    (hf : s.mcrMode ≠ 0 ∨ s.mcr.inst ≠ i) :
    ∃ t, exec (.announceReceiptTimeout i b) s = .next t ∧
      t.inst i = bmcaInst (s.icfg i) { s.inst i with synced := false, syncIn := none } b ∧
      t.inst (1 - i) = s.inst (1 - i) ∧ t.event 32 = true ∧ RcOnly [evtStat 32, evtStat 33] s t ∧
      LeavesAllBut [.rc, .tim, .dpc] s t := by
  obtain ⟨hinst, hother, hevent, hrc, hparts⟩ := State.unsync_spec hs.1 hi hy
  obtain ⟨hbmca, hkeep, -, hbits, hrc', hparts'⟩ := State.bmcaTake_spec (hparts.stores hs.1) hi b
  have hhold := ((s.unsync i).bmcaTake i b).holdChecks_frame.others
  have hicfg : (s.unsync i).icfg i = s.icfg i := hparts.others.appliedW rfl _
  have hexec : exec (.announceReceiptTimeout i b) s =
      .next (settle ((s.unsync i).bmcaTake i b).holdChecks) := by
    rw [← State.leaveSynced_unfollowed hf]
    exact (congrArg (run s) (State.onInst_named hi _)).trans (run_ready hs _)
  refine ⟨_, hexec, ?_, ?_, ?_, ?_, ?_⟩
  · rw [settle_inst, hhold.inst rfl, hbmca, hicfg, hinst]
  · rw [settle_inst, hhold.inst rfl, hkeep _ (by omega) (by omega), hother _ (by omega) (by omega)]
  · exact (hhold.keepsBits rfl).event (hbits.event hevent)
  · exact ((hrc.widen (by simp)).trans (hrc'.widen (by simp))).trans (hhold.rcOnly rfl)
  · exact ((hparts.others.widen (subParts_spec rfl)).trans (hparts'.others.widen (subParts_spec rfl))).trans
      (hhold.widen (subParts_spec rfl)).settled

end

/-- Settles O25: each clause is the lemma of its command; an instance that has left SYNCED is SYNCED again
only as grandmaster. -/
theorem receiptTimeouts : Obligations.ReceiptTimeouts := fun _ _ b hs hi hy =>
  ⟨syncReceiptTimeout_unfollowed hs hi hy, syncReceiptTimeout_coasts hs hi hy,
    announceReceiptTimeout_unfollowed b hs hi hy⟩

end Sys2Proof.Machine

/-! SUPPORT. PTP messages sent and received (R45 to R49, R446): what a port that is handed a frame holds, and what a Sync, an
Announce or a path-delay request makes of an instance. -/

namespace Sys2Proof.Machine

/-! ### Ports read after a write, and frames handed to them -/

section
variable {s : State}

theorem State.setMac_mac (s : State) (p : Nat) (v : Mac) : (s.setMac p v).mac p = v := by
  unfold State.setMac State.mac
  split <;> rfl

theorem State.setMac_otherPorts (s : State) {p : Nat} (hp : p < 2) (v : Mac) : OtherPorts p s (s.setMac p v) := by
  intro k hk hne
  obtain ⟨rfl, rfl⟩ | ⟨rfl, rfl⟩ : (p = 0 ∧ k = 1) ∨ (p = 1 ∧ k = 0) := by omega
  · rfl
  · rfl

theorem LeavesAllBut.mac {ps : List Part} {t : State} (h : LeavesAllBut ps s t) (ha : ps.elem .macA = false)
    (hb : ps.elem .macB = false) (p : Nat) : t.mac p = s.mac p := by
  unfold State.mac
  rw [h.keeps .macA ha, h.keeps .macB hb]

theorem LeavesAllBut.otherPorts {ps : List Part} {t : State} (h : LeavesAllBut ps s t) (ha : ps.elem .macA = false)
    (hb : ps.elem .macB = false) (p : Nat) : OtherPorts p s t := fun k _ _ => h.mac ha hb k

theorem OtherPorts.trans {p : Nat} {t u : State} (h : OtherPorts p s t) (k : OtherPorts p t u) : OtherPorts p s u :=
  fun j hj hne => (k j hj hne).trans (h j hj hne)

theorem lt_two_of_port {m : Member} {p : Nat} (hp : p < numPorts m) : p < 2 := hp.trans_le (numPorts_le m)

/-- A frame handed to a port that is up waits there where its lane has room. -/
theorem State.enqueue_up {p : Nat} (hp : p < 2) (hu : (s.mac p).up = true) (q : Nat) (f : TxFrame) :
    s.enqueue p q f = s.setMac p (handed s p q f) := by
  obtain rfl | rfl : p = 0 ∨ p = 1 := by omega
  all_goals
    unfold State.enqueue handed
    rw [if_pos hu]
    split <;> rfl

/-- A PTP message as the frame its port sends. -/
def ptpTxFrame (m : PtpMsg) : TxFrame :=
  { body := Config.ptpFrame m, poison := false, ring := 0, slots := [], ctx := none, ptp := some m }

theorem State.ptpSend_up {m : PtpMsg} (hp : m.port < 2) (hu : (s.mac m.port).up = true) :
    s.ptpSend m = s.setMac m.port (handed s m.port 0 (ptpTxFrame m)) := State.enqueue_up hp hu _ _

end

/-! ### Messages an instance sends (R45, R49) -/

section
variable {s : State} {i p : Nat}

/-- A command that hands one message of an instance to a port that is up. -/
theorem ptpMsg_sent {o : Host.Outcome State Fault Refusal} {t : State} (k : PtpKind) (hd : s.down = false) (hi : i < 2)
    (hp : p < numPorts s.member) (hu : (s.mac p).up = true) (ho : o = run s (s.onInst i (s.onPort p t)))
    (ht : t = s.ptpSend (s.ptpMsg i p k 0)) :
    ∃ t, o = .next t ∧ t.mac p = handed s p 0 (ptpTxFrame (s.ptpMsg i p k 0)) ∧ OtherPorts p s t ∧
      LeavesAllBut [.macA, .macB] s t := by
  have hp2 := lt_two_of_port hp
  have hsend : t = s.setMac p (handed s p 0 (ptpTxFrame (s.ptpMsg i p k 0))) := ht.trans (State.ptpSend_up hp2 hu)
  refine ⟨settle t, ?_, ?_, ?_, ?_⟩
  · rw [ho, State.onInst_named hi, State.onPort_present hp, run_up hd]
  · rw [hsend]; exact s.setMac_mac p _
  · rw [hsend]; exact s.setMac_otherPorts hp2 _
  · rw [hsend]; exact (s.setMac_frame p _).others.settled

theorem State.delayTx_p2p (hu : (s.mac p).up = true) (hen : instEnabled (s.icfg i) = true) (hb : s.bound i p = true)
    (hprof : profileF (s.icfg i) ≠ 1) : s.delayTx i p = s.ptpSend (s.ptpMsg i p .pdelayReq 0) := by
  unfold State.delayTx
  rw [if_pos (by simp [hu, hen, hb]), if_pos hprof]

theorem State.delayTx_e2e (hu : (s.mac p).up = true) (hen : instEnabled (s.icfg i) = true) (hb : s.bound i p = true)
    (hprof : profileF (s.icfg i) = 1) (hst : s.portState i p = 3) :
    s.delayTx i p = s.ptpSend (s.ptpMsg i p .delayReq 0) := by
  unfold State.delayTx
  rw [if_pos (by simp [hu, hen, hb]), if_neg (not_not.mpr hprof), if_pos hst]

end

/-! ### A Sync received (R45 to R49, R446) -/

section
variable {s : State} {i p : Nat} {t1 t2 r : Int} {x : Instant}

/-- The offset from the master a Sync gives, in ns. -/
def State.masterOffset (s : State) (i p : Nat) (t1 t2 : Int) : Int := (t2 - t1) / 4 - Int.ofNat (s.pathDelay i p)

/-- The time of an instance is stepped: counted, with its event, and marked for MCR where it follows the instance. -/
def State.timeStepped (s : State) (i : Nat) (v : PtpInst) : State :=
  let u := ((s.setInst i v).satAdd (icfgAddr i + 0x2C) 16 1).raise 34
  if s.followsStep i then u.modMcr (fun m => { m with timeStep := true }) else u

/-- A Sync before MCR hears of it. -/
def State.syncTaken (s : State) (i p : Nat) (t1 t2 r : Int) : State :=
  if fld (s.appliedW 0x20000) 0 16 < (s.masterOffset i p t1 t2).natAbs then
    s.timeStepped i (syncedInst s i p t1 t2 r)
  else s.setInst i (syncedInst s i p t1 t2 r)

theorem State.syncTimes_eq (hi : i < 2) :
    s.syncTimes i p t1 t2 r x = (s.syncTaken i p t1 t2 r).ptpUpdate i x := by
  have hthr : ∀ v, (s.setInst i v).appliedW 0x20000 = s.appliedW 0x20000 := fun v => (s.setInst_frame i v).others.appliedW rfl _
  have hfollow : ∀ v, (s.setInst i v).followsStep i = s.followsStep i := fun v => by
    simp only [State.followsStep, (s.setInst_frame i v).others.appliedW rfl, (s.setInst_frame i v).others.keeps .mcr rfl]
  unfold State.syncTimes State.syncOffset State.syncTaken State.timeStepped State.masterOffset syncedInst
  simp only [hthr, hfollow, State.setInst_inst _ hi, State.setInst_setInst _ hi]
  split <;> rfl

theorem RcOnly.satAdd {l : List Nat} {t : State} (h : RcOnly l s t) {a n k : Nat} (ha : a ∈ l) :
    RcOnly l s (t.satAdd a n k) :=
  h.trans fun _ hb => sget_sset_other _ _ fun e => hb (e ▸ ha)

/-- What a Sync leaves before MCR hears of it: the instance `v`, and of MCR neither what waits nor whom it follows. -/
structure SyncMade (s t : State) (i : Nat) (v : PtpInst) : Prop where
  inst : t.inst i = v
  others : ∀ j < 2, j ≠ i → t.inst j = s.inst j
  updates : t.mcr.updates = s.mcr.updates
  source : t.mcr.inst = s.mcr.inst
  rc : RcOnly [icfgAddr i + 0x2C, evtStat 34] s t
  parts : Follows [.rc, .tim, .mcr] s t

theorem State.setInst_syncMade (s : State) (hi : i < 2) (v : PtpInst) : SyncMade s (s.setInst i v) i v where
  inst := s.setInst_inst hi v
  others _ hj hne := s.setInst_inst_other hi hj hne v
  updates := by rw [(s.setInst_frame i v).others.keeps .mcr rfl]
  source := by rw [(s.setInst_frame i v).others.keeps .mcr rfl]
  rc := (s.setInst_frame i v).others.rcOnly rfl
  parts := (s.setInst_frame i v).widen (subParts_spec rfl)

/-- Counting a step and raising its event changes RC words alone. -/
theorem SyncMade.counted {t : State} {v : PtpInst} (h : SyncMade s t i v) :
    SyncMade s ((t.satAdd (icfgAddr i + 0x2C) 16 1).raise 34) i v := by
  have hrc : Follows [.rc] t ((t.satAdd (icfgAddr i + 0x2C) 16 1).raise 34) :=
    State.raise_follows _ _ (subParts_spec rfl) (State.satAdd_follows t _ _ _ (subParts_spec rfl) (.refl t))
  have hmcr := hrc.others.keeps .mcr rfl
  exact
    { inst := (hrc.others.inst rfl i).trans h.inst
      others := fun j hj hne => (hrc.others.inst rfl j).trans (h.others j hj hne)
      updates := (congrArg Mcr.updates hmcr).trans h.updates
      source := (congrArg Mcr.inst hmcr).trans h.source
      rc := (h.rc.satAdd (by simp)).raise (by simp)
      parts := h.parts.trans (hrc.widen (subParts_spec rfl)) }

theorem SyncMade.marked {t : State} {v : PtpInst} (h : SyncMade s t i v) :
    SyncMade s (t.modMcr (fun m => { m with timeStep := true })) i v where
  inst := h.inst
  others := h.others
  updates := h.updates
  source := h.source
  rc := h.rc.trans ((t.modMcr_frame _).others.rcOnly rfl)
  parts := h.parts.trans ((t.modMcr_frame _).widen (subParts_spec rfl))

theorem State.timeStepped_spec (hs : StoresOk s) (hi : i < 2) (v : PtpInst) :
    SyncMade s (s.timeStepped i v) i v ∧ (s.timeStepped i v).event 34 = true := by
  have hmade := (s.setInst_syncMade hi v).counted
  have hadd := State.satAdd_follows _ (icfgAddr i + 0x2C) 16 1 (subParts_spec rfl) (s.setInst_syncMade hi v).parts
  have hevent := State.raise_clockEvent (hadd.stores hs) (n := 34) (by decide)
  unfold State.timeStepped
  split
  · exact ⟨hmade.marked, hevent⟩
  · exact ⟨hmade, hevent⟩

theorem State.syncTaken_spec (hs : StoresOk s) (hi : i < 2) :
    SyncMade s (s.syncTaken i p t1 t2 r) i (syncedInst s i p t1 t2 r) ∧
      (fld (s.appliedW 0x20000) 0 16 < (s.masterOffset i p t1 t2).natAbs →
        (s.syncTaken i p t1 t2 r).event 34 = true) := by
  unfold State.syncTaken
  split
  · obtain ⟨hmade, hevent⟩ := State.timeStepped_spec hs hi (syncedInst s i p t1 t2 r)
    exact ⟨hmade, fun _ => hevent⟩
  · next hnot => exact ⟨s.setInst_syncMade hi _, fun h => absurd h hnot⟩

/-- What a Sync leaves once MCR has heard of it: where MCR follows the instance its phase error waits for the servo (R56). -/
theorem State.syncTimes_spec (hs : StoresOk s) (hi : i < 2) :
    let t := s.syncTimes i p t1 t2 r x
    t.inst i = syncedInst s i p t1 t2 r ∧ (∀ j < 2, j ≠ i → t.inst j = s.inst j) ∧
      (fld (s.appliedW 0x20000) 0 16 < (s.masterOffset i p t1 t2).natAbs → t.event 34 = true) ∧
      t.mcr.updates = (if fld (s.appliedW 0x24000) 0 3 = 0 ∧ s.mcr.inst = i then
        s.mcr.updates ++ [{ src := i, phase := phaseOn s t i x }] else s.mcr.updates) ∧
      RcOnly [icfgAddr i + 0x2C, evtStat 34] s t ∧ Follows [.rc, .tim, .mcr] s t := by
  obtain ⟨hmade, hevent⟩ := State.syncTaken_spec (p := p) (t1 := t1) (t2 := t2) (r := r) hs hi
  rw [State.syncTimes_eq hi]
  generalize s.syncTaken i p t1 t2 r = w at hmade hevent
  intro t
  have hupd : Follows [.mcr] w t := State.ptpUpdate_follows w i x (fun _ k => k) (.refl w)
  have hinst : t.inst i = w.inst i := hupd.others.inst rfl i
  have hrate : w.rateHz = s.rateHz := by
    unfold State.rateHz
    rw [hmade.parts.others.keeps .syn rfl]
  have hphase : phaseOn w t i x = phaseOn s t i x := by
    unfold phaseOn
    rw [hrate, hmade.parts.others.ttKept rfl rfl]
  refine ⟨hinst.trans hmade.inst, fun j hj hne => (hupd.others.inst rfl j).trans (hmade.others j hj hne),
    fun h => (hupd.others.keepsBits rfl).event (hevent h), ?_, hmade.rc.trans (hupd.others.rcOnly rfl),
    hmade.parts.trans (hupd.widen (subParts_spec rfl))⟩
  rw [← hphase, ← hmade.updates, ← hmade.source, ← hmade.parts.others.appliedW rfl]
  unfold phaseOn
  rw [hinst]
  unfold t State.ptpUpdate
  split <;> rfl

end

/-! ### The messages a port receives -/

section
variable {s : State} {p i : Nat} {x : PtpRx}

/-- A message for an enabled instance that has the port, of its transport and domain, whole, on a port that is up and
awake (R45, R46, R414). -/
structure PtpMeant (s : State) (p i : Nat) (x : PtpRx) : Prop where
  named : i < 2
  port : p < numPorts s.member
  up : (s.mac p).up = true
  awake : (s.mac p).sleep = false
  enabled : instEnabled (s.icfg i) = true
  bound : s.bound i p = true
  whole : x.poison = 0
  transport : x.transport = transportF (s.icfg i)
  domain : x.domain = domainF (s.icfg i)

theorem State.ptpArrive_meant (h : PtpMeant s p i x) : s.ptpArrive p i x = s.ptpTake i p x := by
  unfold State.ptpArrive State.ptpRx
  rw [if_pos h.whole, if_pos (by simp [h.up, h.awake, h.enabled, h.bound, h.transport, h.domain])]

theorem ptpFrameRx_takes (hs : Ready s) (h : PtpMeant s p i x) :
    exec (.ptpFrameRx p i x) s = .next (settle (s.ptpTake i p x).holdChecks) := by
  rw [← State.ptpArrive_meant h]
  exact (congrArg (run s) ((State.onInst_named h.named _).trans (State.onPort_present h.port _))).trans (run_ready hs _)

theorem ptpFrameRx_sync {t1 t2 r : Int} (hs : Ready s) (h : PtpMeant s p i x)
    (ht : s.ptpTake i p x = s.syncTimes i p t1 t2 r x.inst) :
    ∃ t, exec (.ptpFrameRx p i x) s = .next t ∧ t.inst i = syncedInst s i p t1 t2 r ∧
      t.inst (1 - i) = s.inst (1 - i) ∧
      (fld (s.appliedW 0x20000) 0 16 < ((t2 - t1) / 4 - Int.ofNat (s.pathDelay i p)).natAbs → t.event 34 = true) ∧
      t.mcr.updates = (if fld (s.appliedW 0x24000) 0 3 = 0 ∧ s.mcr.inst = i then
        s.mcr.updates ++ [{ src := i, phase := phaseOn s t i x.inst }] else s.mcr.updates) ∧
      RcOnly [icfgAddr i + 0x2C, evtStat 34] s t ∧ LeavesAllBut [.rc, .tim, .mcr, .dpc] s t := by
  have hi := h.named
  obtain ⟨hinst, hother, hevent, hupd, hrc, hparts⟩ :=
    State.syncTimes_spec (p := p) (t1 := t1) (t2 := t2) (r := r) (x := x.inst) hs.1 hi
  refine ⟨_, ptpFrameRx_takes hs h, ?_⟩
  rw [ht]
  generalize s.syncTimes i p t1 t2 r x.inst = u at *
  have hhold := u.holdChecks_frame.others
  have hu : ∀ j, (settle u.holdChecks).inst j = u.inst j := fun j => hhold.inst rfl j
  have hphase : phaseOn s (settle u.holdChecks) i x.inst = phaseOn s u i x.inst := by
    unfold phaseOn
    rw [hu]
  refine ⟨(hu i).trans hinst, (hu _).trans (hother _ (by omega) (by omega)),
    fun hb => (hhold.keepsBits rfl).event (hevent hb), ?_, hrc.trans (hhold.rcOnly rfl),
    (hparts.others.widen (subParts_spec rfl)).trans (hhold.settled.widen (subParts_spec rfl))⟩
  rw [hphase, settle_mcr, hhold.keeps .mcr rfl, hupd]

theorem ptpFrameRx_twoStep {r : Int} (hs : Ready s) (h : PtpMeant s p i x) (hst : s.portState i p = 3)
    (hx : x.msg = .sync none r) :
    ∃ t, exec (.ptpFrameRx p i x) s = .next t ∧
      t.inst i = { s.inst i with syncIn := some (s.stampAt i p true x.inst) } ∧ t.inst (1 - i) = s.inst (1 - i) ∧
      LeavesAllBut [.tim, .dpc] s t := by
  have hi := h.named
  have ht : s.ptpTake i p x = s.setInst i { s.inst i with syncIn := some (s.stampAt i p true x.inst) } := by
    unfold State.ptpTake
    simp [hx, hst]
  refine ⟨_, ptpFrameRx_takes hs h, ?_⟩
  rw [ht]
  have hset := (s.setInst_frame i { s.inst i with syncIn := some (s.stampAt i p true x.inst) }).others
  have hhold := (s.setInst i { s.inst i with syncIn := some (s.stampAt i p true x.inst) }).holdChecks_frame.others
  refine ⟨(hhold.inst rfl i).trans (s.setInst_inst hi _),
    (hhold.inst rfl _).trans (s.setInst_inst_other hi (by omega) (by omega) _),
    (hset.widen (subParts_spec rfl)).trans (hhold.settled.widen (subParts_spec rfl))⟩

theorem ptpFrameRx_announce {b : Bmca} (hs : Ready s) (h : PtpMeant s p i x) (hx : x.msg = .announce b) :
    ∃ t, exec (.ptpFrameRx p i x) s = .next t ∧ t.inst i = bmcaInst (s.icfg i) (s.inst i) b ∧
      ((s.inst i).gmId ≠ (bmcaInst (s.icfg i) (s.inst i) b).gmId → t.event 33 = true) ∧
      t.inst (1 - i) = s.inst (1 - i) ∧ RcOnly [evtStat 33] s t ∧ LeavesAllBut [.rc, .tim, .dpc] s t := by
  have hi := h.named
  have ht : s.ptpTake i p x = s.bmcaTake i b := by
    unfold State.ptpTake
    rw [hx]
    rfl
  obtain ⟨hinst, hother, hevent, -, hrc, hparts⟩ := State.bmcaTake_spec hs.1 hi b
  have hhold := (s.bmcaTake i b).holdChecks_frame.others
  refine ⟨_, ptpFrameRx_takes hs h, ?_⟩
  rw [ht]
  exact ⟨(hhold.inst rfl i).trans hinst, fun hne => (hhold.keepsBits rfl).event (hevent hne),
    (hhold.inst rfl _).trans (hother _ (by omega) (by omega)), hrc.trans (hhold.rcOnly rfl),
    (hparts.others.widen (subParts_spec rfl)).trans (hhold.settled.widen (subParts_spec rfl))⟩

theorem ptpFrameRx_delayReq (hs : Ready s) (h : PtpMeant s p i x) (hprof : profileF (s.icfg i) ≠ 1)
    (hx : x.msg = .delayReq) :
    let m := s.ptpMsg i p .pdelayResp (s.stampAt i p true x.inst)
    ∃ t, exec (.ptpFrameRx p i x) s = .next t ∧ t.mac p = handed s p 0 (ptpTxFrame m) ∧ OtherPorts p s t ∧
      LeavesAllBut [.macA, .macB, .dpc] s t := by
  intro m
  have hp2 := lt_two_of_port h.port
  have ht : s.ptpTake i p x = s.setMac p (handed s p 0 (ptpTxFrame m)) := by
    refine Eq.trans ?_ (State.ptpSend_up (m := m) hp2 h.up)
    unfold State.ptpTake State.delayAnswer
    simp only [hx, if_pos hprof, m]
  refine ⟨_, ptpFrameRx_takes hs h, ?_⟩
  rw [ht]
  have hset := (s.setMac_frame p (handed s p 0 (ptpTxFrame m))).others
  have hhold := (s.setMac p (handed s p 0 (ptpTxFrame m))).holdChecks_frame.others
  exact ⟨(hhold.mac rfl rfl p).trans (s.setMac_mac p _),
    (s.setMac_otherPorts hp2 _).trans (hhold.settled.otherPorts rfl rfl p),
    (hset.widen (subParts_spec rfl)).trans (hhold.settled.widen (subParts_spec rfl))⟩

theorem State.ptpTake_oneStep {t1 r : Int} (hst : s.portState i p = 3) (hx : x.msg = .sync (some t1) r) :
    s.ptpTake i p x = s.syncTimes i p t1 (s.stampAt i p true x.inst) r x.inst := by
  unfold State.ptpTake
  simp [hx, hst]

theorem State.ptpTake_followUp {t1 t2 r : Int} (hst : s.portState i p = 3) (hin : (s.inst i).syncIn = some t2)
    (hx : x.msg = .followUp t1 r) : s.ptpTake i p x = s.syncTimes i p t1 t2 r x.inst := by
  unfold State.ptpTake
  simp [hx, hst, hin]

end

/-- Settles O24: a message sent is one frame handed to its port; a message received is a Sync complete, the first half
of one, what the BMCA decides, or a request answered. -/
theorem ptpMessages : Obligations.PtpMessages := by
  constructor
  · intro s i p hd hi hp hu
    exact ⟨fun hm => ptpMsg_sent _ hd hi hp hu rfl (if_pos hm), fun hm => ptpMsg_sent _ hd hi hp hu rfl (if_pos hm),
      fun hen hb hprof => ptpMsg_sent _ hd hi hp hu rfl (State.delayTx_p2p hu hen hb hprof),
      fun hen hb hprof hst => ptpMsg_sent _ hd hi hp hu rfl (State.delayTx_e2e hu hen hb hprof hst)⟩
  · intro s p i x hs hi hp hu hw hen hb hx htr hdom
    have h : PtpMeant s p i x := ⟨hi, hp, hu, hw, hen, hb, hx, htr, hdom⟩
    refine ⟨fun t1 r hst hmsg => ptpFrameRx_sync hs h (State.ptpTake_oneStep hst hmsg),
      fun r hst hmsg => ptpFrameRx_twoStep hs h hst hmsg, fun t1 t2 r hst hin hmsg => ?_,
      fun b hmsg => ptpFrameRx_announce hs h hmsg, fun hprof hmsg => ptpFrameRx_delayReq hs h hprof hmsg⟩
    obtain ⟨t, ht, hinst, hother, -, -, hrc, hparts⟩ := ptpFrameRx_sync hs h (State.ptpTake_followUp hst hin hmsg)
    exact ⟨t, ht, hinst, hother, hrc, hparts⟩

end Sys2Proof.Machine

/-! SUPPORT. Setting the time of an instance, the edges of PPS_IN and the pulses of PPS_OUT (R49, R51, R52). -/

namespace Sys2Proof.Machine

/-! ### TIM_CTL.SET (R51) -/

section
variable {s : State} {i : Nat}

theorem timeSet_writes (q : Req) (hs : Ready s) (hi : i < 2) : exec (.timeSet i q) s = .next (settle (s.timeSet i)) := by
  rw [← s.ctl_tim q i hi]
  exact (congrArg (run s) (State.onInst_named hi _)).trans (run_ready hs _)

theorem timeSet_loads (q : Req) (hs : Ready s) (hi : i < 2)
    (hf : (s.inst i).gmSelf = true ∨ (s.bound i 0 = false ∧ s.bound i 1 = false)) :
    ∃ t, exec (.timeSet i q) s = .next t ∧ t.inst i = { s.inst i with
        time := ((s.rwW 0x20024).toNat + (s.rwW 0x20028).toNat * 2 ^ 32) * 1000000000 + (s.rwW 0x20020).toNat } ∧
      t.inst (1 - i) = s.inst (1 - i) ∧ LeavesAllBut [.tim] s t := by
  have hset : s.timeSet i = s.setInst i { s.inst i with
      time := ((s.rwW 0x20024).toNat + (s.rwW 0x20028).toNat * 2 ^ 32) * 1000000000 + (s.rwW 0x20020).toNat } :=
    if_pos (by simpa using hf)
  refine ⟨_, timeSet_writes q hs hi, ?_⟩
  rw [hset]
  exact ⟨s.setInst_inst hi _, s.setInst_inst_other hi (by omega) (by omega) _, (s.setInst_frame i _).others.settled⟩

theorem timeSet_refuses (q : Req) (hs : Ready s) (hi : i < 2) (hg : (s.inst i).gmSelf = false)
    (hb : s.bound i 0 = true ∨ s.bound i 1 = true) :
    ∃ t, exec (.timeSet i q) s = .next t ∧ bitAt (t.rcW 0x20008) 2 = true ∧ RcOnly [0x20008] s t ∧
      LeavesAllBut [.rc] s t := by
  have hset : s.timeSet i = s.flag 0x20008 0x4 := if_neg (by
    obtain hb | hb := hb
    all_goals simp [hg, hb])
  refine ⟨_, timeSet_writes q hs hi, ?_⟩
  rw [hset]
  refine ⟨?_, RcOnly.flag (.refl _ s) (by simp), (State.flag_others s _ _).settled⟩
  rw [settle_rcW, State.flag_rcW hs.1, if_pos rfl]
  exact bitAt_or _ 2 4 (by decide) (by decide)

end

/-! ### PPS_IN (R49, R51) -/

section
variable {s : State} {x : Instant} {ns : Nat}

/-- An instance whose time is brought to the whole second nearest it at an edge `n` ns after the boundary. -/
def PtpInst.atSecond (v : PtpInst) (n : Nat) : PtpInst :=
  { v with time := (v.time + n + 500000000) / 1000000000 * 1000000000 - n }

/-- What an edge makes of an instance: only a grandmaster whose reference it is follows it. -/
def State.steered (s : State) (i : Nat) (x : Instant) : PtpInst :=
  if (s.inst i).gmSelf ∧ s.tsrc i = 1 then (s.inst i).atSecond (nsOf x i) else s.inst i

theorem State.ppsSteer_eq (s : State) {i : Nat} (hi : i < 2) (x : Instant) :
    s.ppsSteer i x = s.setInst i (s.steered i x) := by
  unfold State.ppsSteer State.steered
  split
  · rfl
  · obtain rfl | rfl : i = 0 ∨ i = 1 := by omega
    · rfl
    · rfl

/-- Both instances after an edge that serves as a reference; no other part of TIM. -/
theorem State.ppsSteer_both (s : State) (x : Instant) :
    (s.ppsSteer 0 x).ppsSteer 1 x = { s with tim := { s.tim with inst0 := s.steered 0 x, inst1 := s.steered 1 x } } := by
  rw [State.ppsSteer_eq _ (by decide), State.ppsSteer_eq _ (by decide)]
  rfl

/-- Whether the edge before is far enough past for this one to be a reference. -/
def State.ppsFar (s : State) (ns : Nat) : Bool :=
  match s.tim.ppsAgo with
  | none => true
  | some a => decide (500000000 ≤ a + Int.ofNat ns)

/-- The edge recorded: its time on the followed instance, its place after the boundary, and whether it is a reference. -/
def State.ppsSeen (s : State) (ns : Nat) (x : Instant) : Tim :=
  { s.tim with
    ppsIn := (s.inst s.followed).time + nsOf x s.followed, ppsAgo := some (-(Int.ofNat ns)),
    ppsUsed := s.ppsFar ns }

/-- The edge recorded, with its event. -/
def State.ppsRaised (s : State) (ns : Nat) (x : Instant) : State := { s with tim := s.ppsSeen ns x }.raise 35

theorem State.withTim_frame (s : State) (v : Tim) : Follows [.tim] s { s with tim := v } := by
  refine (Follows.refl s).mkRegs (fp := [.tim]) (subParts_spec rfl) id fun p hp => ?_
  cases p with
  | tim => exact absurd (List.mem_singleton_self _) hp
  | _ => rfl

theorem State.ppsRaised_frame (s : State) (ns : Nat) (x : Instant) : Follows [.rc, .tim] s (s.ppsRaised ns x) :=
  State.raise_follows _ _ (subParts_spec rfl) ((s.withTim_frame _).widen (subParts_spec rfl))

theorem State.ppsRaised_tim (s : State) (ns : Nat) (x : Instant) : (s.ppsRaised ns x).tim = s.ppsSeen ns x :=
  State.raise_tim _ _

theorem State.ppsRaised_steered (s : State) (ns : Nat) (x : Instant) {i : Nat} (hi : i < 2) :
    (s.ppsRaised ns x).steered i x = s.steered i x := by
  have hinst : (s.ppsRaised ns x).inst i = s.inst i := by
    obtain rfl | rfl : i = 0 ∨ i = 1 := by omega
    all_goals exact State.raise_inst _ _ _
  have hsrc : (s.ppsRaised ns x).tsrc i = s.tsrc i := by
    simp only [State.tsrc, (s.ppsRaised_frame ns x).others.appliedW rfl]
  unfold State.steered
  rw [hinst, hsrc]

theorem State.ppsEdge_eq (s : State) (ns : Nat) (x : Instant) :
    s.ppsEdge ns x =
      if (s.ppsSeen ns x).ppsUsed then
        { s.ppsRaised ns x with tim := { s.ppsSeen ns x with inst0 := s.steered 0 x, inst1 := s.steered 1 x } }
      else s.ppsRaised ns x := by
  rw [← s.ppsRaised_steered ns x (i := 0) (by decide), ← s.ppsRaised_steered ns x (i := 1) (by decide),
    ← s.ppsRaised_tim ns x, ← State.ppsSteer_both, State.ppsRaised_tim]
  rfl

theorem State.ppsEdge_reg (s : State) (ns : Nat) (x : Instant) : (s.ppsEdge ns x).reg = (s.ppsRaised ns x).reg := by
  rw [State.ppsEdge_eq]
  split <;> rfl

/-- The record of an edge does not depend on what it makes of the instances. -/
theorem State.ppsEdge_seen (s : State) (ns : Nat) (x : Instant) :
    (s.ppsEdge ns x).tim.ppsIn = (s.ppsSeen ns x).ppsIn ∧ (s.ppsEdge ns x).tim.ppsAgo = (s.ppsSeen ns x).ppsAgo ∧
      (s.ppsEdge ns x).tim.ppsUsed = (s.ppsSeen ns x).ppsUsed := by
  rw [State.ppsEdge_eq]
  split
  · exact ⟨rfl, rfl, rfl⟩
  · rw [State.ppsRaised_tim]
    exact ⟨rfl, rfl, rfl⟩

theorem State.ppsEdge_inst (s : State) (ns : Nat) (x : Instant) {i : Nat} (hi : i < 2) :
    (s.ppsEdge ns x).inst i = if (s.ppsSeen ns x).ppsUsed then s.steered i x else s.inst i := by
  rw [State.ppsEdge_eq]
  split
  · obtain rfl | rfl : i = 0 ∨ i = 1 := by omega
    · rfl
    · rfl
  · unfold State.inst
    rw [State.ppsRaised_tim]
    rfl

theorem ppsInEdge_stamps (hs : Ready s) :
    ∃ t, exec (.ppsInEdge ⟨x, ns⟩) s = .next t ∧ t.tim.ppsIn = (s.inst s.followed).time + nsOf x s.followed ∧
      t.tim.ppsAgo = some (-(Int.ofNat ns)) ∧
      (∀ i < 2, t.inst i = if (s.inst i).gmSelf = true ∧ s.tsrc i = 1 ∧ t.tim.ppsUsed = true then
        (s.inst i).atSecond (nsOf x i) else s.inst i) ∧
      t.tim.ppsUsed = s.ppsFar ns ∧
      t.event 35 = true ∧ RcOnly [evtStat 35] s t ∧ LeavesAllBut [.rc, .tim] s t := by
  have hparts := (State.ppsEdge_follows s ns x (fun _ k => k) (.refl s)).others.settled
  obtain ⟨hin, hago, hused⟩ := s.ppsEdge_seen ns x
  have hrcW : ∀ a, (s.ppsEdge ns x).rcW a = (s.ppsRaised ns x).rcW a := fun a => by
    unfold State.rcW
    rw [State.ppsEdge_reg]
  have hevent : (s.ppsRaised ns x).event 35 = true := State.raise_clockEvent ((s.withTim_frame _).stores hs.1) (by decide)
  have hrc : RcOnly [evtStat 35] s (s.ppsRaised ns x) := fun a ha => State.raise_rcW_other 35 a (by simpa using ha)
  refine ⟨settle (s.ppsEdge ns x), run_ready hs _, hin, hago, fun i hi => ?_, hused, ?_,
    fun a ha => (hrcW a).trans (hrc a ha), hparts⟩
  · rw [settle_inst, settle_tim, hused, s.ppsEdge_inst ns x hi]
    unfold State.steered
    by_cases hfar : (s.ppsSeen ns x).ppsUsed = true
    · simp only [hfar, if_true, and_true]
    · simp [hfar]
  · rw [settle_event]
    unfold State.event at hevent ⊢
    rwa [hrcW]

end

/-! ### PPS_OUT (R52) -/

section
variable {s : State}

theorem ppsOut_rises (hd : s.down = false) (hn : s.tim.ppsOut = none) (hen : bitAt (s.appliedW 0x20040) 0 = true)
    (hlt : s.toSecond (s.appliedW 0x20040) (s.appliedW 0x20044) < s.tickNs) :
    let d := s.toSecond (s.appliedW 0x20040) (s.appliedW 0x20044)
    ∃ t, exec .ppsOut s = .next t ∧
      t.tim = { s.tim with ppsCfg := s.appliedW 0x20040, ppsAdj := s.appliedW 0x20044, ppsOut := some (-(Int.ofNat d)) } ∧
      t.out = s.out ++ [.pps (!bitAt (s.appliedW 0x20040) 2)] ++ sentMsgs s ∧ LeavesAllBut [.tim] s t := by
  intro d
  have hparts := (State.ppsRise_follows s (fun _ k => k) (.refl s)).others.settled
  have hrise : s.ppsRise = { s with tim := { s.tim with
      ppsCfg := s.appliedW 0x20040, ppsAdj := s.appliedW 0x20044, ppsOut := some (-(Int.ofNat d)) } }.emit
        (.pps (!bitAt (s.appliedW 0x20040) 2)) := by
    unfold State.ppsRise
    simp [hn, hen, not_le.mpr hlt, d]
  refine ⟨settle s.ppsRise, run_up hd _, ?_, ?_, hparts⟩
  · rw [hrise]; rfl
  · rw [hrise]; rfl

theorem ppsOut_falls {a : Int} (hd : s.down = false) (ha : s.tim.ppsOut = some a)
    (hw : Int.ofNat (1000 * fld s.tim.ppsCfg 8 20) ≤ a + Int.ofNat s.tickNs) :
    ∃ t, exec .ppsOutPulseEnd s = .next t ∧ t.tim = { s.tim with ppsOut := none } ∧
      t.out = s.out ++ [.pps (bitAt s.tim.ppsCfg 2)] ++ sentMsgs s ∧ LeavesAllBut [.tim] s t := by
  have hparts := (State.ppsFall_follows s (fun _ k => k) (.refl s)).others.settled
  have hfall : s.ppsFall = { s with tim := { s.tim with ppsOut := none } }.emit (.pps (bitAt s.tim.ppsCfg 2)) := by
    unfold State.ppsFall
    rw [ha]
    exact if_pos hw
  refine ⟨settle s.ppsFall, run_up hd _, ?_, ?_, hparts⟩
  · rw [hfall]; rfl
  · rw [hfall]; rfl

end

/-- Settles O26: each clause is the lemma of its command. -/
theorem timeSetAndPps : Obligations.TimeSetAndPps :=
  ⟨fun _ _ q => timeSet_loads q, fun _ _ q => timeSet_refuses q, fun _ _ _ => ppsInEdge_stamps,
    fun _ => ppsOut_rises, fun _ _ => ppsOut_falls⟩

end Sys2Proof.Machine

/-! SUPPORT. The servo, the setting of media position and the declared discontinuity (R57 to R59, R65). -/

namespace Sys2Proof.Machine

/-! ### Reference updates (R56, R59) -/

section
variable {s : State} {need : Int} {u : RefUpd} {us : List RefUpd} {x : Instant} {rate : Nat}

/-- MCR as a valid update finds it: its quiet time over, the mean of its last second taken where the loop runs (R60, R61). -/
def Mcr.heard (m : Mcr) : Mcr :=
  { m with quiet := 0, mean := if loopRuns m.state then meanFreq m.hist m.freq else m.mean }

/-- The updates that wait behind the one taken. -/
def State.leftWith (s : State) (us : List RefUpd) : State := s.modMcr (fun m => { m with updates := us })

/-- The update that waits is used: MCR follows a usable reference, and in PTP mode its instance is SYNCED. -/
theorem refUpdate_waiting (hd : s.down = false) (hm : s.mcrMode ≠ 5)
    (hu : s.refUsable s.refContext s.refSlave = true) (hq : s.mcr.updates = u :: us) (hn : need.natAbs ≤ ppm 1000)
    (hy : s.mcrMode = 0 → (s.inst s.mcr.inst).synced = true) :
    exec (.referenceUpdate none 0 need) s =
      .next (settle ((s.leftWith us).refValid u.phase)) := by
  have hnot : ¬ (s.mcrMode = 0 ∧ (!(s.inst s.mcr.inst).synced) = true) := fun ⟨h0, h⟩ => by simp [hy h0] at h
  have hupd : s.refUpdate (refIn none 0 need) s.refContext s.refSlave =
      (s.leftWith us).refValid u.phase := by
    unfold State.refUpdate
    rw [if_neg hm, if_neg (by simp [hu])]
    simp only [refIn, hq, if_neg (not_lt.mpr hn), if_neg hnot]
    rfl
  rw [← hupd]
  exact run_up hd _

theorem refUpdate_edge (hd : s.down = false) (hm : s.mcrMode = 3 ∨ s.mcrMode = 4)
    (hu : s.refUsable s.refContext s.refSlave = true) (hn : (s.edgeNeed rate).natAbs ≤ ppm 1000) :
    exec (.referenceUpdate (some x) rate 0) s = .next (settle (s.refValid (edgePhase x))) := by
  have hupd : s.refUpdate (refIn (some x) rate 0) s.refContext s.refSlave = s.refValid (edgePhase x) := by
    unfold State.refUpdate
    rw [if_neg (by omega), if_neg (by simp [hu])]
    simp only [refIn, if_neg (not_lt.mpr hn)]
    exact if_neg (by omega)
  rw [← hupd]
  exact run_up hd _

/-- Held to 20 ppm of a frequency within 500 ppm of the centre and then to 500 ppm of the centre, a value stays within both. -/
theorem clampI_within (c t f a b : Int) (ha : 0 ≤ a) (ht : (t - c).natAbs ≤ b) :
    let g := clampI (c - b) (c + b) (clampI (t - a) (t + a) f)
    (g - t).natAbs ≤ a ∧ (g - c).natAbs ≤ b := by
  intro g
  simp only [g, clampI]
  split_ifs <;> omega

/-- What MCR has to be for an update to reach its servo. -/
structure Follower (m : Mcr) : Prop where
  locked : m.state = .locked
  refOk : m.refOk = true
  early : m.late = false
  measured : m.afterRelock = false
  unstepped : m.timeStep = false

theorem State.refValid_servo (h : Follower s.mcr) (d : Int) : s.refValid d = (s.modMcr Mcr.heard).servo d := by
  obtain ⟨hl, hr, he, ha, ht⟩ := h
  unfold State.refValid
  simp only [State.modMcr_mcr, hl, hr, he, ha, ht]
  rfl

theorem State.servo_spec (hw : (s.mcr.freqTick - s.mcr.centre).natAbs ≤ ppm 500) (d : Int) :
    let t := s.servo d
    (t.mcr.freq - s.mcr.freqTick).natAbs ≤ ppm 20 ∧ (t.mcr.freq - s.mcr.centre).natAbs ≤ ppm 500 ∧
      t.mcr = { s.mcr with freq := t.mcr.freq, phase := d } := by
  intro t
  obtain ⟨hstep, hwin⟩ := clampI_within s.mcr.centre s.mcr.freqTick
    (Config.servo s.mcr.freq d (fld (s.appliedW 0x24000) 16 2) (if s.mcr.state = .acquire then 1 else 0)) (ppm 20) (ppm 500)
    (by decide) hw
  exact ⟨hstep, hwin, rfl⟩

/-- A valid update keeps a loop that follows its reference within the servo's bounds, and changes nothing outside MCR. -/
theorem State.refValid_held (h : Follower s.mcr) (hw : (s.mcr.freqTick - s.mcr.centre).natAbs ≤ ppm 500) (d : Int) :
    let t := s.refValid d
    (t.mcr.freq - s.mcr.freqTick).natAbs ≤ ppm 20 ∧ (t.mcr.freq - s.mcr.centre).natAbs ≤ ppm 500 ∧
      t.mcr = { s.mcr.heard with freq := t.mcr.freq, phase := d } ∧ LeavesAllBut [.mcr] s t := by
  intro t
  have hparts : LeavesAllBut [.mcr] s t := (State.refValid_follows s d (fun _ k => k) (.refl s)).others
  have ht : t = (s.modMcr Mcr.heard).servo d := State.refValid_servo h d
  obtain ⟨hstep, hwin, hmcr⟩ := State.servo_spec (s := s.modMcr Mcr.heard) hw d
  rw [← ht] at hstep hwin hmcr
  exact ⟨hstep, hwin, hmcr, hparts⟩

theorem referenceUpdate_waiting_held (hd : s.down = false) (hu : s.refUsable s.refContext s.refSlave = true)
    (h : Follower s.mcr) (hw : (s.mcr.freqTick - s.mcr.centre).natAbs ≤ ppm 500) (hm : s.mcrMode ≠ 5)
    (hq : s.mcr.updates = u :: us) (hn : need.natAbs ≤ ppm 1000)
    (hy : s.mcrMode = 0 → (s.inst s.mcr.inst).synced = true) :
    ∃ t, exec (.referenceUpdate none 0 need) s = .next t ∧ (t.mcr.freq - s.mcr.freqTick).natAbs ≤ ppm 20 ∧
      (t.mcr.freq - s.mcr.centre).natAbs ≤ ppm 500 ∧ t.mcr.phase = u.phase ∧ t.mcr.updates = us ∧ t.mcr.quiet = 0 ∧
      t.mcr.state = .locked ∧ t.mcr.centre = s.mcr.centre ∧ LeavesAllBut [.mcr] s t := by
  have htake : Follower (s.leftWith us).mcr :=
    ⟨h.locked, h.refOk, h.early, h.measured, h.unstepped⟩
  obtain ⟨hstep, hwin, hmcr, hparts⟩ := State.refValid_held htake hw u.phase
  refine ⟨_, refUpdate_waiting hd hm hu hq hn hy, hstep, hwin, ?_⟩
  rw [settle_mcr, hmcr]
  exact ⟨rfl, rfl, rfl, h.locked, rfl, ((s.modMcr_frame _).others.trans hparts).settled⟩

theorem referenceUpdate_edge_held (hd : s.down = false) (hu : s.refUsable s.refContext s.refSlave = true)
    (h : Follower s.mcr) (hw : (s.mcr.freqTick - s.mcr.centre).natAbs ≤ ppm 500) (hm : s.mcrMode = 3 ∨ s.mcrMode = 4)
    (hn : (s.edgeNeed rate).natAbs ≤ ppm 1000) :
    ∃ t, exec (.referenceUpdate (some x) rate 0) s = .next t ∧ (t.mcr.freq - s.mcr.freqTick).natAbs ≤ ppm 20 ∧
      (t.mcr.freq - s.mcr.centre).natAbs ≤ ppm 500 ∧ t.mcr.phase = edgePhase x ∧ t.mcr.quiet = 0 ∧
      t.mcr.state = .locked ∧ t.mcr.centre = s.mcr.centre ∧ LeavesAllBut [.mcr] s t := by
  obtain ⟨hstep, hwin, hmcr, hparts⟩ := State.refValid_held h hw (edgePhase x)
  refine ⟨_, refUpdate_edge hd hm hu hn, hstep, hwin, ?_⟩
  rw [settle_mcr, hmcr]
  exact ⟨rfl, rfl, h.locked, rfl, hparts.settled⟩

end

/-- Settles O27: a follower in LOCKED hands the update to its servo, whose two clamps are the bounds. -/
theorem servoStaysInItsWindow : Obligations.ServoStaysInItsWindow := by
  intro s hd hu hl hr he ha ht hw
  have h : Follower s.mcr := ⟨hl, hr, he, ha, ht⟩
  exact ⟨fun _ _ _ hm hq hn hy => referenceUpdate_waiting_held hd hu h hw hm hq hn hy,
    fun _ _ hm hn => referenceUpdate_edge_held hd hu h hw hm hn⟩

/-! ### Media position set (R57, R58) -/

section
variable {s : State}

/-- The update that qualifies the first reference: media position is to be set. -/
theorem State.countUpdate_first (hr : s.tt.rateOk = false) (hc : s.qualN ≤ s.mcr.qual + 1) (d : Int) :
    (s.countUpdate d).mcr =
      { s.mcr with refOk := true, qual := 0, phase := d, state := .acquire, setDue := true, afterRelock := false } := by
  have hcount : s.countUpdate d = (s.modMcr (fun m => { m with qual := m.qual + 1, phase := d })).qualify d :=
    if_neg (not_lt.mpr hc)
  have hqual : (s.modMcr (fun m => { m with qual := m.qual + 1, phase := d })).qualify d = _ :=
    if_pos (show (!s.tt.rateOk) = true by rw [hr]; rfl)
  rw [hcount, hqual]
  rfl

theorem referenceUpdate_qualifies {need : Int} {u : RefUpd} {us : List RefUpd} (hd : s.down = false) (hm : s.mcrMode ≠ 5)
    (hu : s.refUsable s.refContext s.refSlave = true) (hq : s.mcr.updates = u :: us) (hn : need.natAbs ≤ ppm 1000)
    (hy : s.mcrMode = 0 → (s.inst s.mcr.inst).synced = true) (hi : s.mcr.state = .idle) (hr : s.tt.rateOk = false)
    (hc : s.qualN ≤ s.mcr.qual + 1) :
    ∃ t, exec (.referenceUpdate none 0 need) s = .next t ∧ t.mcr.state = .acquire ∧ t.mcr.refOk = true ∧
      t.mcr.setDue = true ∧ t.mcr.phase = u.phase ∧ LeavesAllBut [.mcr] s t := by
  have hparts := (State.refValid_follows (s.leftWith us) u.phase (fun _ k => k) (s.modMcr_frame _)).others.settled
  have hvalid : (s.leftWith us).refValid u.phase =
      ((s.leftWith us).modMcr Mcr.heard).countUpdate u.phase := by
    unfold State.refValid State.leftWith
    simp only [State.modMcr_mcr, hi]
    rfl
  refine ⟨_, refUpdate_waiting hd hm hu hq hn hy, ?_⟩
  rw [hvalid] at hparts ⊢
  rw [settle_mcr, State.countUpdate_first (s := (s.leftWith us).modMcr Mcr.heard) hr hc]
  exact ⟨rfl, rfl, rfl, rfl, hparts⟩

/-- The multiple of the tick length nearest a target, as the position it names. -/
theorem nearestTick_mod (T : Nat) (v : Int) : (nearestMul (T * 65536) v / 65536).toNat % T = 0 := by
  have hmul : nearestMul (T * 65536) v / 65536 =
      (2 * v + Int.ofNat (T * 65536)) / (2 * Int.ofNat (T * 65536)) * Int.ofNat T := by
    unfold nearestMul
    rw [Int.ofNat_eq_natCast, Nat.cast_mul, ← mul_assoc]
    exact Int.mul_ediv_cancel _ (by decide)
  rw [hmul]
  generalize (2 * v + Int.ofNat (T * 65536)) / (2 * Int.ofNat (T * 65536)) = k
  cases k with
  | ofNat n => exact Nat.mul_mod_left n T
  | negSucc n =>
    have hneg : Int.negSucc n * Int.ofNat T ≤ 0 :=
      Int.mul_nonpos_of_nonpos_of_nonneg (Int.negSucc_lt_zero n).le (Int.natCast_nonneg T)
    rw [Int.toNat_of_nonpos hneg, Nat.zero_mod]

theorem mediaPositionSet_sets (hd : s.down = false) (hdue : s.mcr.setDue = true) (hst : s.mcr.state = .acquire) :
    ∃ t, exec (.mediaPositionSet s.tt.now) s = .next t ∧
      t.tt.now = (nearestMul (s.T * 65536) s.phaseTarget / 65536).toNat ∧
      t.tt.now % s.T = 0 ∧ t.tt.rateOk = true ∧ t.mcr.setDue = false ∧
      t.mcr.resid = (s.phaseTarget - Int.ofNat t.tt.now * 65536) * 10000 ∧ t.tt.armed = s.tt.armed ∧
      LeavesAllBut [.now, .tt, .mcr] s t := by
  have hparts := (State.positionSet_follows s (fun _ k => k) (.refl s)).others.settled
  have hexec : exec (.mediaPositionSet s.tt.now) s = .next (settle s.positionSet) :=
    (congrArg (run s) (if_pos rfl)).trans (run_up hd _)
  refine ⟨_, hexec, ?_⟩
  unfold State.positionSet at hparts ⊢
  rw [if_pos ⟨hdue, hst⟩] at hparts ⊢
  exact ⟨rfl, nearestTick_mod _ _, rfl, rfl, rfl, rfl, hparts⟩

/-! ### Entry into MODE 5 (R58) -/

/-- MCR as its own master, before it is LOCKED: at nominal plus MCR_TRIM, nothing of a jump left. -/
def Mcr.mastered (m : Mcr) (trim : Int) : Mcr :=
  { m.lost with
    masterDue := false, freq := trim, stepDue := false, ramping := false, jump := 0, late := false, lossPend := false,
    failDue := false, setDue := false }

/-- The entry before media position: LOCKED, the sinks a step held released. -/
def State.masterLocked (s : State) : State :=
  ((if s.mcr.ramping then s.unmuteAll .step s.rampLen else s).modMcr (fun m => m.mastered s.trim)).mcrLock

theorem State.masterEntry_eq (hdue : s.mcr.masterDue = true) (hst : s.mcr.state ≠ .relock) :
    s.masterEntry =
      if s.tt.rateOk then s.masterLocked else (s.masterLocked.setPosition (Int.ofNat (s.r27 s.tinst))).1 :=
  if_pos ⟨hdue, hst⟩

theorem State.masterLocked_spec (hs : StoresOk s) :
    s.masterLocked.mcr = (s.mcr.mastered s.trim).locked ∧ s.masterLocked.event 36 = true ∧
      RcOnly [evtStat 36] s s.masterLocked ∧ LeavesAllBut [.rc, .mcr, .mix] s s.masterLocked := by
  have hfree : Follows [.mix] s (if s.mcr.ramping then s.unmuteAll .step s.rampLen else s) :=
    .ite (State.unmuteAll_frame _ _ _) (.refl s)
  unfold State.masterLocked
  generalize (if s.mcr.ramping then s.unmuteAll .step s.rampLen else s) = u at hfree ⊢
  have hmod := u.modMcr_frame (fun m => m.mastered s.trim)
  obtain ⟨hmcr, hevent, hrc, hparts⟩ := State.mcrLock_spec (hmod.stores (hfree.stores hs))
  refine ⟨?_, hevent, ((hfree.others.rcOnly rfl).trans (hmod.others.rcOnly rfl)).trans hrc,
    ((hfree.others.widen (subParts_spec rfl)).trans (hmod.others.widen (subParts_spec rfl))).trans
      (hparts.widen (subParts_spec rfl))⟩
  rw [hmcr, State.modMcr_mcr, hfree.others.keeps .mcr rfl]

theorem masterModeEntry_locks (hs : Ready s) (hdue : s.mcr.masterDue = true) (hst : s.mcr.state ≠ .relock) :
    ∃ t, exec .masterModeEntry s = .next t ∧ t.mcr.state = .locked ∧ t.mcr.freq = s.trim ∧ t.mcr.masterDue = false ∧
      t.event 36 = true ∧ t.tt.rateOk = true ∧ (s.tt.rateOk = true → t.tt.now = s.tt.now) ∧
      (s.tt.rateOk = false → t.tt.now = (nearestMul (s.T * 65536) (Int.ofNat (s.r27 s.tinst)) / 65536).toNat) ∧
      RcOnly [evtStat 36] s t ∧ LeavesAllBut [.rc, .now, .tt, .mcr, .mix] s t := by
  have hall := (State.masterEntry_follows s (fun _ k => k) (.refl s)).others.settled
  obtain ⟨hmcr, hevent, hrc, hparts⟩ := State.masterLocked_spec hs.1
  have htt : s.masterLocked.tt = s.tt := hparts.ttKept rfl rfl
  have hT : s.masterLocked.T = s.T := by
    unfold State.T
    rw [htt]
  refine ⟨settle s.masterEntry, run_ready hs _, ?_⟩
  rw [State.masterEntry_eq hdue hst] at hall ⊢
  cases hr : s.tt.rateOk with
  | true =>
    rw [if_pos (hr ▸ rfl)] at hall ⊢
    rw [settle_mcr, settle_tt, hmcr, htt]
    exact ⟨rfl, rfl, rfl, hevent, hr, fun _ => rfl, (fun h => nomatch h), hrc, hall⟩
  | false =>
    rw [if_neg (by simp [hr])] at hall ⊢
    have hm := hmcr
    rw [← hT, settle_mcr, settle_tt]
    unfold State.setPosition at hall ⊢
    exact ⟨congrArg Mcr.state hm, congrArg Mcr.freq hm, congrArg Mcr.masterDue hm, hevent, rfl, (fun h => nomatch h),
      fun _ => rfl, hrc, hall⟩

/-! ### The ramp down of a declared discontinuity (R65) -/

/-- A value that is not the default of its key is read back from any store it is written to. -/
theorem sget_sset_of_ne {α : Type} [DecidableEq α] {d : Nat → α} (m : SMap α) {k : Nat} {v : α} (hv : v ≠ d k) :
    sget d (sset d m k v) k = v := by
  induction m with
  | nil => simp [sset, hv, sget]
  | cons q m ih =>
    obtain ⟨a, w⟩ := q
    unfold sset
    split
    · simp [sget]
    · split
      · simp [sget]
      · next hne => simpa [sget, Ne.symm hne] using ih

theorem Mute.on_causes (m : Mute) (c : MuteCause) (len : Nat) : c ∈ (m.on c len).causes := by
  unfold Mute.on
  split
  · next h => exact List.contains_iff_mem.mp h
  · split
    · exact List.mem_singleton_self c
    · exact List.mem_append_right _ (List.mem_singleton_self c)

theorem step_notMem_muteReset (k : Nat) : MuteCause.step ∉ (muteReset k).causes := by
  unfold muteReset
  split_ifs <;> simp

theorem State.muteOn_step_same (s : State) (k len : Nat) : MuteCause.step ∈ ((s.muteOn k .step len).muteOf k).causes := by
  have hon := (s.muteOf k).on_causes .step len
  have hread : (s.muteOn k .step len).muteOf k = (s.muteOf k).on .step len :=
    sget_sset_of_ne _ fun h => step_notMem_muteReset k (h ▸ hon)
  rwa [hread]

theorem State.muteOn_muteOf_other (s : State) {k j : Nat} (hne : j ≠ k) (c : MuteCause) (len : Nat) :
    (s.muteOn k c len).muteOf j = s.muteOf j := sget_sset_other _ _ hne

/-- Muting a list of sinks for a step leaves each of them, and each held before, held by it. -/
theorem State.muteOns_step (s : State) (ks : List Nat) (len : Nat) {k : Nat}
    (h : k ∈ ks ∨ MuteCause.step ∈ (s.muteOf k).causes) :
    MuteCause.step ∈ ((ks.foldl (fun t j => t.muteOn j .step len) s).muteOf k).causes := by
  induction ks generalizing s with
  | nil => exact h.resolve_left List.not_mem_nil
  | cons j ks ih =>
    refine ih _ ?_
    by_cases hkj : k = j
    · exact .inr (hkj ▸ s.muteOn_step_same k len)
    · rw [s.muteOn_muteOf_other hkj]
      exact h.imp_left fun hm => (List.mem_cons.mp hm).resolve_left hkj

theorem stepRampDown_mutes (hd : s.down = false) (hdue : s.mcr.stepDue = true) (hst : s.mcr.state = .step) :
    ∃ t, exec .stepRampDown s = .next t ∧ t.mcr = { s.mcr with stepDue := false, ramping := true } ∧
      (∀ k < 12, (t.muteOf k).causes.contains .step = true) ∧ LeavesAllBut [.mcr, .mix] s t := by
  have hparts := (State.stepRamp_follows s (fun _ k => k) (.refl s)).others.settled
  refine ⟨settle s.stepRamp, run_up hd _, ?_⟩
  have hramp : s.stepRamp =
      (s.modMcr (fun m => { m with stepDue := false, ramping := true })).muteAll .step s.rampLen := if_pos ⟨hdue, hst⟩
  rw [hramp] at hparts ⊢
  refine ⟨(settle_mcr _).trans (State.muteAll_mcr _ _ _), fun k hk => ?_, hparts⟩
  unfold State.muteOf
  rw [settle_mix]
  exact List.contains_iff_mem.mpr (State.muteOns_step _ sinkClasses _ (.inl (List.mem_range.mpr hk)))

end

end Sys2Proof.Machine

/-! SUPPORT. The media-position step with what follows it (R65). -/

namespace Sys2Proof.Machine

/-! ### Operations that clear no RC bit -/

section
variable {s t u : State}

/-- From a state whose stores are in order, `t` has them in order and every bit that stood in an RC word. -/
def Raises (s t : State) : Prop := StoresOk s → StoresOk t ∧ KeepsBits s t

theorem Raises.refl (s : State) : Raises s s := fun h => ⟨h, .refl s⟩

theorem Raises.trans (h : Raises s t) (k : Raises t u) : Raises s u := fun hs =>
  have ⟨ht, hb⟩ := h hs
  have ⟨hu, hc⟩ := k ht
  ⟨hu, hb.trans hc⟩

/-- An operation outside the RC words. -/
theorem Follows.raises {l : List Part} (h : Follows l s t) (hl : l.elem .rc = false) : Raises s t := fun hs =>
  ⟨h.stores hs, h.others.keepsBits hl⟩

theorem Raises.ite {c : Prop} [Decidable c] (h : c → Raises s t) (k : ¬ c → Raises s u) :
    Raises s (if c then t else u) := by
  split
  · exact h ‹_›
  · exact k ‹_›

theorem Raises.foldl {β : Type} {f : State → β → State} (hf : ∀ t x, Raises t (f t x)) (s : State) (xs : List β) :
    Raises s (xs.foldl f s) := by
  induction xs generalizing s with
  | nil => exact .refl s
  | cons x xs ih => exact (hf s x).trans (ih _)

theorem State.raise_raises (s : State) (n : Nat) : Raises s (s.raise n) := fun h =>
  ⟨State.raise_storesOk h n, State.raise_keepsBits h n⟩

theorem State.flag_raises (s : State) (a m : Nat) : Raises s (s.flag a m) := fun h =>
  ⟨State.flag_storesOk h a m, State.flag_keepsBits h a m⟩

theorem State.flagRaise_raises (s : State) (a m n : Nat) : Raises s (s.flagRaise a m n) :=
  (s.flag_raises a m).trans (State.raise_raises _ n)

theorem State.bump_raises (s : State) (a : Nat) : Raises s (s.bump a) := by
  unfold State.bump State.countBy
  have hset : ∀ n ≤ ctrMax, Raises s (s.setCounter a n) := fun n hn =>
    (State.setCounter_follows s a n hn (fun _ k => k) (.refl s)).raises rfl
  exact .ite (fun _ => .refl s) fun _ => .ite (fun h => hset _ h.le) fun _ =>
    (hset _ le_rfl).trans (State.raise_raises _ 13)

theorem State.enqueue_raises (s : State) (p q : Nat) (f : TxFrame) : Raises s (s.enqueue p q f) := by
  unfold State.enqueue
  refine .ite (fun _ => .ite (fun _ => ?_) fun _ => .refl s) fun _ => .ite (fun _ => .refl s) fun _ => s.bump_raises _
  exact (State.setQueue_follows s p q _ (fun _ k => k) (.refl s)).raises rfl

/-! ### What the step asks of the stream and pair units -/

theorem State.srxUnder_raises (s : State) (c : Nat) : Raises s (s.srxUnder c) := by
  unfold State.srxUnder
  exact .ite (fun _ => .refl s) fun _ => ((s.setSrx_frame c _).raises rfl).trans (State.flagRaise_raises _ _ _ _)

theorem State.srxFlush_raises (s : State) : Raises s s.srxFlush := by
  unfold State.srxFlush
  refine .foldl (fun t c => ?_) s _
  have hset := fun v => (t.setSrx_frame c.1 v).raises rfl
  exact .ite (fun _ => (hset _).trans (State.srxUnder_raises _ _)) fun _ => hset _

theorem State.sendTab_raises (s : State) (msg lease leaseEnd lag : Nat) : Raises s (s.sendTab msg lease leaseEnd lag) :=
  .foldl (fun t p => t.enqueue_raises p 1 _) s _

theorem State.sendReport_raises (s : State) : Raises s s.sendReport := by
  unfold State.sendReport
  exact .ite (fun _ => (s.sendTab_raises _ _ _ _).trans ((State.modPair_frame _ _).raises rfl)) fun _ => .refl s

theorem State.giveUp_raises (s : State) : Raises s s.giveUp := by
  unfold State.giveUp
  refine .trans (((s.modPair_frame _).raises rfl).trans (.ite (fun _ => ?_) fun _ => .refl _)) (State.sendReport_raises _)
  exact (State.pwrDrive_follows (lp := [.mix, .pwr]) _ false (fun _ k => k)
    (State.fenceOn_follows _ (subParts_spec rfl) (.refl _))).raises rfl

theorem State.fenceCheck_raises (s : State) : Raises s s.fenceCheck := by
  unfold State.fenceCheck
  exact .ite (fun _ => s.giveUp_raises.trans (State.flagRaise_raises _ _ _ _)) fun _ => .refl s

end

/-! ### A boundary with nothing due -/

section
variable {s : State}

/-- No departure armed, no snapshot waiting, no command held. -/
structure NothingDue (s : State) : Prop where
  armed : s.tt.armed = 0
  snaps : s.reg.snaps = []
  cmd : s.cmd = none

theorem State.cmdBoundary_idle (h : s.cmd = none) (fire : Bool) : s.cmdBoundary fire = s := by
  unfold State.cmdBoundary
  rw [h]

theorem State.takeAll_idle (h : s.tt.armed = 0) : s.takeAll [] = (s, []) := by
  have hbad : (List.range 64).filter (depBad []) = [] := by decide
  have hdue : s.dueDeps = [] := by
    unfold State.dueDeps
    rw [h]
    rfl
  unfold State.takeAll
  rw [hbad, List.foldl_nil]
  simp only [hdue]
  rfl

theorem State.adoptBlocks_nil (s : State) : s.adoptBlocks s [] = s := by
  unfold State.adoptBlocks
  simp

/-- The boundary of the step takes nothing where nothing waits for it. -/
theorem State.stepDepartures_idle (h : NothingDue s) : s.stepDepartures = s := by
  have hfire : s.fireDepartures [] = (s, []) := by
    unfold State.fireDepartures
    rw [State.takeAll_idle h.armed]
    dsimp only
    rw [State.cmdBoundary_idle h.cmd]
    have happly : (s.fireAll []).applySnaps = s := if_pos h.snaps
    have hblocks : (s.fireAll []).snapBlocks = [] := by
      unfold State.snapBlocks
      rw [show s.fireAll [] = s from rfl, h.snaps]
      rfl
    rw [happly, hblocks]
    exact congrArg (·, _) s.adoptBlocks_nil
  unfold State.stepDepartures
  rw [hfire]
  exact State.cmdBoundary_idle h.cmd false

/-! ### The step (R65 steps 2 to 4) -/

/-- The whole ticks of the jump, in ten-thousandths of a grain. -/
def State.wholeJump (s : State) : Int := nearestMul (s.T * 655360000) s.mcr.jump

/-- MCR after the step, the rest of the jump left to be slewed. -/
def State.steppedMcr (s : State) : Mcr :=
  { s.mcr with
    ramping := false, jump := 0, corr := 0, resid := s.mcr.jump - s.wholeJump, state := .slew,
    phase := (s.mcr.jump - s.wholeJump) / 10000, upLeft := s.rampLen }

/-- Media position after the step. -/
def State.steppedTt (s : State) : Tt := { s.tt with now := (Int.ofNat s.tt.now + s.wholeJump / 655360000).toNat }

/-- The step up to the lock that a jump of whole ticks brings. -/
def State.stepped (s : State) : State :=
  (((({ s with tt := s.steppedTt }).modMcr (fun _ => s.steppedMcr)).flag 0x2400C 0x1).raise 38).unmuteAll .step s.rampLen

theorem State.mcrStep_eq (hr : s.mcr.ramping = true) (hst : s.mcr.state = .step) :
    s.mcrStep = if s.mcr.jump - s.wholeJump = 0 then s.stepped.mcrLock else s.stepped := if_pos ⟨hr, hst⟩

theorem State.stepped_spec (hs : StoresOk s) :
    StoresOk s.stepped ∧ s.stepped.mcr = s.steppedMcr ∧ s.stepped.tt = s.steppedTt ∧ s.stepped.event 38 = true := by
  have hflag : StoresOk ((({ s with tt := s.steppedTt }).modMcr (fun _ => s.steppedMcr)).flag 0x2400C 0x1) :=
    State.flag_storesOk hs _ _
  have hraise := State.raise_storesOk hflag 38
  have hfree := State.unmuteAll_frame
    (((({ s with tt := s.steppedTt }).modMcr (fun _ => s.steppedMcr)).flag 0x2400C 0x1).raise 38) .step s.rampLen
  refine ⟨hfree.stores hraise, ?_, ?_, ?_⟩
  · exact (hfree.others.keeps .mcr rfl).trans (by rw [State.raise_mcr, State.flag_mcr, State.modMcr_mcr])
  · exact (hfree.others.ttKept rfl rfl).trans (by rw [State.raise_tt, State.flag_tt, State.modMcr_tt])
  · exact (hfree.others.event rfl 38).trans (State.raise_clockEvent hflag (by decide))

theorem State.mcrLock_raises (s : State) : Raises s s.mcrLock :=
  ((s.modMcr_frame _).raises rfl).trans (State.raise_raises _ 36)

theorem State.mcrStep_spec (hs : StoresOk s) (hr : s.mcr.ramping = true) (hst : s.mcr.state = .step) :
    StoresOk s.mcrStep ∧ s.mcrStep.event 38 = true ∧ s.mcrStep.tt = s.steppedTt ∧
      s.mcrStep.mcr = if s.mcr.jump - s.wholeJump = 0 then s.steppedMcr.locked else s.steppedMcr := by
  obtain ⟨hstores, hmcr, htt, hevent⟩ := State.stepped_spec hs
  rw [State.mcrStep_eq hr hst]
  split
  · obtain ⟨hlock, -, -, hparts⟩ := State.mcrLock_spec hstores
    obtain ⟨hlockStores, hbits⟩ := State.mcrLock_raises _ hstores
    exact ⟨hlockStores, hbits.event hevent, (hparts.ttKept rfl rfl).trans htt, hlock.trans (hmcr ▸ rfl)⟩
  · exact ⟨hstores, hevent, htt, hmcr⟩

/-- What the step leaves of the jump; a jump of whole ticks leaves nothing, and MCR is LOCKED at once. -/
theorem State.steppedMcr_left (s : State) :
    let m := if s.mcr.jump - s.wholeJump = 0 then s.steppedMcr.locked else s.steppedMcr
    m.ramping = false ∧ m.corr = 0 ∧ m.jump = 0 ∧ m.state = (if s.mcr.jump = s.wholeJump then .locked else .slew) ∧
      m.resid = s.mcr.jump - s.wholeJump := by
  dsimp only
  split
  · next h => exact ⟨rfl, rfl, rfl, (if_pos (by omega)).symm, h.symm⟩
  · next h => exact ⟨rfl, rfl, rfl, (if_neg (by omega)).symm, rfl⟩

/-- The units that follow a media-position step: streams, rings, ports and channels. -/
def State.stepFollowers (s : State) (old : Nat) : State :=
  (((s.srxFlush.feedStepped old s.tt.now).sapStepped).asrcAll).mrMark

theorem State.stepFollowers_frame (s : State) (old : Nat) :
    Follows [.rc, .srx, .ring, .sap, .asrc, .stx] s (s.stepFollowers old) :=
  State.mrMark_follows _ (subParts_spec rfl) (State.asrcAll_follows _ (subParts_spec rfl)
    (State.sapStepped_follows _ (subParts_spec rfl) (State.feedStepped_follows _ _ _ (subParts_spec rfl)
      (State.srxFlush_follows _ (subParts_spec rfl) (.refl s)))))

theorem State.stepFollowers_raises (s : State) (old : Nat) : Raises s (s.stepFollowers old) := by
  refine s.srxFlush_raises.trans (Follows.raises (l := [.ring, .sap, .asrc, .stx]) ?_ rfl)
  exact State.mrMark_follows _ (subParts_spec rfl) (State.asrcAll_follows _ (subParts_spec rfl)
    (State.sapStepped_follows _ (subParts_spec rfl) (State.feedStepped_follows _ _ _ (subParts_spec rfl) (.refl _))))

/-- With nothing due at the boundary, the step is MCR's with its followers and the fence. -/
theorem State.stepNow_idle (hr : s.mcr.ramping = true) (hst : s.mcr.state = .step) (ho : s.rampOver .step = true)
    (hidle : NothingDue s) : s.stepNow = (s.mcrStep.stepFollowers s.tt.now).fenceCheck := by
  have hstep := (State.mcrStep_follows s (fun _ k => k) (.refl s)).others
  have hparts : LeavesAllBut [.rc, .now, .mcr, .mix, .srx, .ring, .sap, .asrc, .stx] s (s.mcrStep.stepFollowers s.tt.now) :=
    (hstep.widen (subParts_spec rfl)).trans ((State.stepFollowers_frame _ _).others.widen (subParts_spec rfl))
  have harmed : (s.mcrStep.stepFollowers s.tt.now).tt.armed = s.tt.armed := by
    have htt := hparts.keeps .tt rfl
    exact (Prod.mk.inj (Prod.mk.inj htt).2).1
  have hleft : NothingDue (s.mcrStep.stepFollowers s.tt.now) :=
    ⟨harmed.trans hidle.armed, (hparts.snapKept rfl).1.trans hidle.snaps, (hparts.keeps .cmd rfl).trans hidle.cmd⟩
  have hnow : s.stepNow = (s.mcrStep.stepFollowers s.tt.now).stepDepartures.fenceCheck := if_pos ⟨hr, hst, ho⟩
  rw [hnow, State.stepDepartures_idle hleft]

theorem mcrStep_steps (hs : Ready s) (hr : s.mcr.ramping = true) (hst : s.mcr.state = .step)
    (ho : s.rampOver .step = true) (hidle : NothingDue s) :
    ∃ t, exec .mcrStep s = .next t ∧ t.tt.now = (Int.ofNat s.tt.now + s.wholeJump / 655360000).toNat ∧
      t.mcr.ramping = false ∧ t.mcr.corr = 0 ∧ t.mcr.jump = 0 ∧
      t.mcr.state = (if s.mcr.jump = s.wholeJump then .locked else .slew) ∧
      t.mcr.resid = s.mcr.jump - s.wholeJump ∧ t.event 38 = true ∧ LeavesAllBut (touches .mcrStep) s t := by
  have hall : LeavesAllBut (touches .mcrStep) s (settle s.stepNow) :=
    (State.stepNow_follows s (subParts_spec rfl) (.refl s)).others.settled
  obtain ⟨hstores, hevent, htt, hmcr⟩ := State.mcrStep_spec hs.1 hr hst
  obtain ⟨hlate, hbits⟩ := ((State.stepFollowers_raises s.mcrStep s.tt.now).trans (State.fenceCheck_raises _)) hstores
  have hrest : LeavesAllBut [.rc, .count, .mix, .macA, .macB, .pwr, .pair, .srx, .ring, .sap, .asrc, .stx] s.mcrStep
      (s.mcrStep.stepFollowers s.tt.now).fenceCheck :=
    (State.fenceCheck_follows _ (subParts_spec rfl)
      ((State.stepFollowers_frame _ _).widen (subParts_spec rfl))).others
  have hm := (hrest.keeps .mcr rfl).trans hmcr
  have ht := (hrest.ttKept rfl rfl).trans htt
  refine ⟨_, run_ready hs _, ?_⟩
  rw [State.stepNow_idle hr hst ho hidle] at hall ⊢
  rw [settle_mcr, settle_tt, hm, ht]
  obtain ⟨hramp, hcorr, hjump, hstate, hresid⟩ := s.steppedMcr_left
  exact ⟨rfl, hramp, hcorr, hjump, hstate, hresid, hbits.event hevent, hall⟩

end

/-- Settles O28: the first update sets media position at the boundary after, MODE 5 locks at its entry, and the step
takes the whole ticks of a jump once every sink has ramped down. -/
theorem mediaPositionSetAndStepped : Obligations.MediaPositionSetAndStepped :=
  ⟨⟨fun _ _ _ _ hd hm hu hq hn hy hi hr hc => referenceUpdate_qualifies hd hm hu hq hn hy hi hr hc,
      fun _ hd hdue hst => mediaPositionSet_sets hd hdue hst,
      fun _ hs hdue hst => masterModeEntry_locks hs hdue hst⟩,
    fun _ hd hdue hst => stepRampDown_mutes hd hdue hst,
    fun _ hs hr hst ho ha hn hc => mcrStep_steps hs hr hst ho ⟨ha, hn, hc⟩⟩

end Sys2Proof.Machine

/-! SUPPORT. The start of a frame on a port (R92, R94). -/

namespace Sys2Proof.Machine

section
variable {s : State} {p : Nat}

/-- The credit of class A of a port at rest that has nothing to send stays 0. -/
theorem State.creditAfter_atRest (h : (s.mac p).creditA = 0) (hc : (s.mac p).cur = none) (hq : s.queue p 2 = []) :
    s.creditAfter p 0 0 = 0 := by
  have hsame (x : Int) : (0 : Int) + Int.ofNat 0 * x = 0 := by rw [Int.zero_add]; exact Int.zero_mul x
  have hbound (n : Nat) : -(Int.ofNat n) ≤ 0 := Int.neg_nonpos_of_nonneg (Int.natCast_nonneg n)
  unfold State.creditAfter
  simp only [h, hc, hq, if_true, hsame]
  exact (congrArg (min 0) (max_eq_left (hbound _))).trans (min_self 0)

/-- Where neither class has a reservation or a frame, nothing is counted and their queues are written empty. -/
theorem State.dropUnreserved_empty (hA : slopeOf (s.macW p 0x30) = 0)
    (hB : slopeOf ((s.setQueue p 2 []).macW p 0x34) = 0) (h2 : s.queue p 2 = [])
    (h3 : (s.setQueue p 2 []).queue p 3 = []) :
    s.dropUnreserved p = (s.setQueue p 2 []).setQueue p 3 [] := by
  have hcount (t : State) (a : Nat) : t.countBy a 0 = t := if_pos (.inr rfl)
  unfold State.dropUnreserved
  simp only [List.foldl_cons, List.foldl_nil, Nat.sub_self, Nat.mul_zero, Nat.add_zero]
  rw [if_pos hA, h2, List.length_nil, hcount, if_pos hB, h3, List.length_nil, hcount]

/-- Class A is picked where no express frame waits and its own queue holds one, with credit and not stopped. -/
theorem State.pickQueue_classA (h0 : s.queue p 0 = []) (h1 : s.queue p 1 = []) (h2 : s.queue p 2 ≠ [])
    (hgo : (s.mac p).stopped 2 = false) (hc : 0 ≤ (s.mac p).creditA) : s.pickQueue p false = some 2 := by
  have hrange : List.range 8 = [0, 1, 2, 3, 4, 5, 6, 7] := rfl
  unfold State.pickQueue
  simp [hrange, h0, h1, h2, hgo, hc]

/-- The port takes the head of the queue picked. -/
theorem State.txStart_picked {q : Nat} {f : TxFrame} {l : List TxFrame} (hup : ((s.dropUnreserved p).mac p).up = true)
    (hcur : ((s.dropUnreserved p).mac p).cur = none) (hwake : ((s.dropUnreserved p).mac p).sleep = false)
    (hrem : ((s.dropUnreserved p).mac p).rem = none) (hpick : (s.dropUnreserved p).pickQueue p false = some q)
    (hq : (s.dropUnreserved p).queue p q = f :: l) :
    ((s.txStart p).mac p).cur = some { q := q, frame := f, frags := 1, sent := 0 } := by
  unfold State.txStart
  simp only [hup, hcur, hwake, hrem, Option.isSome_none, hpick, hq]
  exact congrArg Mac.cur (State.setMac_mac _ p _)

/-- A frame that is no PTP message starts whole and untouched where no word of it was poisoned. -/
theorem State.frameStart_plain {n : Nat} {i : Instant} {c : TxCur} (hcur : (s.mac p).cur = none)
    (hc : (((s.creditRun p n).txStart p).mac p).cur = some c) (hptp : c.frame.ptp = none) :
    s.frameStart p n 0 i = (s.creditRun p n).txStart p := by
  unfold State.frameStart
  simp only [hcur, hc, hptp, if_true]

end

/-! ### A queue store written twice -/

/-- A frame of one octet, told from another by its poison. -/
def oneOctet (poison : Bool) : TxFrame := { body := [0], poison := poison, ring := 0, slots := [], ctx := none, ptp := none }

/-- A store of queues that holds class A twice, empty and then with a frame, and a host frame behind. -/
def twiceKept : SMap (List TxFrame) := [(2, []), (2, [oneOctet true]), (4, [oneOctet false])]

/-- A reset part with a port up that holds it. `Ready` asks canonical form of the stores of words alone. -/
def strayQueues : State := { State.reset with macA := { State.reset.macA with up := true, queues := twiceKept } }

theorem strayQueues_ready : Ready strayQueues := by
  unfold Ready StoresOk RegsOk
  decide +kernel

/-- The part once the credits of its port are up to date. -/
def strayCredited (b : Int) : State := strayQueues.setCredits 0 0 b

theorem strayQueues_creditRun : ∃ b, strayQueues.creditRun 0 0 = strayCredited b := by
  refine ⟨strayQueues.creditAfter 0 1 0, ?_⟩
  unfold State.creditRun
  rw [State.creditAfter_atRest rfl rfl rfl]
  rfl

/-- Writing class A empty uncovers the frame that stood behind. -/
theorem strayCredited_dropUnreserved (b : Int) :
    (strayCredited b).dropUnreserved 0 = (strayCredited b).setQueue 0 2 [] := by
  rw [State.dropUnreserved_empty (s := strayCredited b)
    (show slopeOf (strayQueues.macW 0 0x30) = 0 by decide +kernel)
    (show slopeOf (strayQueues.macW 0 0x34) = 0 by decide +kernel) rfl rfl]
  rfl

theorem strayQueues_starts (i : Instant) :
    ((strayQueues.frameStart 0 0 0 i).mac 0).cur = some { q := 2, frame := oneOctet true, frags := 1, sent := 0 } := by
  obtain ⟨b, hb⟩ := strayQueues_creditRun
  have hdrop := strayCredited_dropUnreserved b
  have hstart : (((strayQueues.creditRun 0 0).txStart 0).mac 0).cur =
      some { q := 2, frame := oneOctet true, frags := 1, sent := 0 } := by
    rw [hb]
    apply State.txStart_picked (l := []) <;> rw [hdrop]
    case hpick =>
      have hgo : (strayQueues.mac 0).stopped 2 = false := by decide
      exact State.pickQueue_classA rfl rfl (List.cons_ne_nil _ _) hgo le_rfl
    all_goals rfl
  rw [State.frameStart_plain rfl hstart rfl]
  exact hstart

/-- Refutes O46: a port's queues are a store that `Ready` does not ask in canonical form, and the start of a frame writes
the queue of a class without reservation empty. Where the store keeps that class twice, empty and then with a frame,
the write uncovers the frame, and class A goes out before the host frame that stood first in order. -/
theorem not_framesSentAndReceived : ¬ Obligations.FramesSentAndReceived := by
  intro h
  obtain ⟨hsend, -⟩ := h strayQueues 0 strayQueues_ready (by decide +kernel)
  have hlater : ∀ k, k < 4 → strayQueues.queue 0 k = [] := by decide +kernel
  obtain ⟨hplain, -⟩ := hsend 0 0 4 { grains := 0, ns0 := 0, ns1 := 0 } (oneOctet false) [] rfl rfl rfl rfl (.inr rfl)
    (.inr rfl) (by decide) rfl rfl (fun e => nomatch e) (fun e => nomatch e) hlater
  obtain ⟨t, hexec, hcur, -⟩ := hplain rfl
  have hrun : exec (.frameTxStart 0 0 0 { grains := 0, ns0 := 0, ns1 := 0 }) strayQueues =
      .next (settle (strayQueues.frameStart 0 0 0 { grains := 0, ns0 := 0, ns1 := 0 })) :=
    (congrArg (run strayQueues) (State.onPort_present (by decide +kernel) _)).trans (run_ready strayQueues_ready _)
  obtain rfl : settle (strayQueues.frameStart 0 0 0 { grains := 0, ns0 := 0, ns1 := 0 }) = t :=
    Host.Outcome.next.inj (hrun.symm.trans hexec)
  have hq : (2 : Nat) = 4 := congrArg TxCur.q (Option.some.inj ((strayQueues_starts _).symm.trans hcur))
  exact absurd hq (by decide)

end Sys2Proof.Machine

/-! SUPPORT. Clock synthesis: the sinks a mute cause takes and leaves, the lock of the media PLL, and the steps of a fenced
relock from the boundary it begins at to its end (R74, R76, R77, R80, R81). -/

namespace Sys2Proof.Machine

/-! ### Sinks muted and released together (R230) -/

section
variable {s : State}

/-- An operation on the mute stage of each sink of a list acts on each of them once. -/
theorem State.setMutes_muteOf (hs : StoresOk s) (f : Mute → Mute) {ks : List Nat} (hn : ks.Nodup) (j : Nat) :
    (ks.foldl (fun t k => t.setMute k (f (t.muteOf k))) s).muteOf j = if j ∈ ks then f (s.muteOf j) else s.muteOf j := by
  induction ks generalizing s with
  | nil => rfl
  | cons k ks ih =>
    obtain ⟨hk, hn⟩ := List.nodup_cons.mp hn
    rw [List.foldl_cons, ih (State.setMute_storesOk _ _ hs) hn, State.setMute_muteOf hs]
    by_cases hjk : j = k
    · subst hjk
      simp [hk]
    · simp [hjk]

theorem State.muteAll_muteOf (hs : StoresOk s) (c : MuteCause) (len : Nat) {k : Nat} (hk : k < 12) :
    (s.muteAll c len).muteOf k = (s.muteOf k).on c len :=
  (State.setMutes_muteOf hs (·.on c len) List.nodup_range k).trans (if_pos (List.mem_range.mpr hk))

theorem State.unmuteAll_muteOf (hs : StoresOk s) (c : MuteCause) (len : Nat) {k : Nat} (hk : k < 12) :
    (s.unmuteAll c len).muteOf k = (s.muteOf k).off c len :=
  (State.setMutes_muteOf hs (·.off c len) List.nodup_range k).trans (if_pos (List.mem_range.mpr hk))

/-- A cause that ends is no longer held, and every other one is. -/
theorem Mute.off_causes (m : Mute) (c : MuteCause) (len : Nat) : (m.off c len).causes = m.causes.filter (· ≠ c) := by
  unfold Mute.off
  split
  · split
    · next h => exact h.symm
    · rfl
  · next h =>
    have hother : ∀ d ∈ m.causes, d ≠ c := fun d hd e => h (List.contains_iff_mem.mpr (e ▸ hd))
    exact (List.filter_eq_self.mpr fun d hd => by simpa using hother d hd).symm

end

/-! ### The media PLL (R74, R80) -/

section
variable {s : State}

/-- The sources of synthesis are there on every member (R403). -/
theorem srcPresent_synthesis (m : Member) {n : Nat} (hn : 40 ≤ n ∧ n ≤ 42) : srcPresent m n = true := by
  unfold srcPresent
  rw [if_neg (by omega), if_neg (by omega), if_neg (by omega), if_neg (by omega), if_neg (by omega), if_neg (by omega)]
  exact decide_eq_true (by omega)

/-- The lock bit of the running family's PLL takes the value set; no other field of SYN named here changes. -/
theorem State.setMpll_spec (s : State) (b : Bool) :
    let y := (s.setMpll b).syn
    (if isFamA s.syn.rate then y.mpllA else y.mpllB) = b ∧ y.unlockReq = s.syn.unlockReq ∧ y.fence = s.syn.fence ∧
      y.rstep = s.syn.rstep ∧ y.counting = s.syn.counting := by
  unfold State.setMpll
  cases hf : isFamA s.syn.rate <;> simp

theorem synUnlock_asks (hd : s.down = false) (hl : (if isFamA s.syn.rate then s.syn.mpllA else s.syn.mpllB) = true) :
    ∃ t, exec .synUnlock s = .next t ∧ (if isFamA s.syn.rate then t.syn.mpllA else t.syn.mpllB) = false ∧
      t.syn.unlockReq = (s.syn.unlockReq || decide (s.mcr.state ≠ .relock)) ∧ t.syn.fence = s.syn.fence ∧
      LeavesAllBut [.syn] s t := by
  have hparts := (State.mpllLoss_follows s (fun _ k => k) (.refl s)).others.settled
  obtain ⟨hlock, hreq, hfence, -, -⟩ := s.setMpll_spec false
  have hloss : s.mpllLoss = if s.mcr.state = .relock then s.setMpll false
      else (s.setMpll false).modSyn (fun y => { y with unlockReq := true }) := if_neg (by simp [hl])
  refine ⟨settle s.mpllLoss, run_up hd _, ?_⟩
  rw [settle_syn]
  by_cases h : s.mcr.state = .relock
  · rw [hloss, if_pos h] at hparts ⊢
    exact ⟨hlock, by rw [hreq]; simp [h], hfence, hparts⟩
  · rw [hloss, if_neg h] at hparts ⊢
    exact ⟨hlock, by simp [h], hfence, hparts⟩

theorem mpllLock_counts (hd : s.down = false) :
    ∃ t, exec .mpllLock s = .next t ∧ (if isFamA s.syn.rate then t.syn.mpllA else t.syn.mpllB) = true ∧
      t.syn.counting = (s.syn.counting || decide (s.syn.rstep = 3)) ∧ t.syn.rstep = s.syn.rstep ∧
      LeavesAllBut [.syn] s t := by
  have hparts := (State.mpllUp_follows s (fun _ k => k) (.refl s)).others.settled
  obtain ⟨hlock, -, -, hstep, hcount⟩ := s.setMpll_spec true
  have hup : s.mpllUp = if s.syn.rstep = 3 then (s.setMpll true).modSyn (fun y => { y with counting := true })
      else s.setMpll true := rfl
  refine ⟨settle s.mpllUp, run_up hd _, ?_⟩
  rw [settle_syn]
  by_cases h : s.syn.rstep = 3
  · rw [hup, if_pos h] at hparts ⊢
    exact ⟨hlock, by simp [h], hstep, hparts⟩
  · rw [hup, if_neg h] at hparts ⊢
    exact ⟨hlock, by rw [hcount]; simp [h], hstep, hparts⟩

theorem relock_asks (hd : s.down = false) (q : Req) :
    ∃ t, exec (.relock q) s = .next t ∧ t.syn = { s.syn with req := true } ∧ LeavesAllBut [.syn] s t := by
  have hexec : exec (.relock q) s = .next (settle (s.modSyn fun y => { y with req := true })) :=
    (congrArg (run s) (State.ctl_syn s q)).trans (run_up hd _)
  exact ⟨_, hexec, rfl, (s.modSyn_frame _).others.settled⟩

end

/-! ### A fenced relock begins (R76, R80, R81) -/

section
variable {s : State}

/-- SYN once a trigger has taken effect: what asked for it is answered, and step 3 is to restart where it runs. -/
def Syn.triggered (y : Syn) : Syn :=
  { y with req := false, unlockReq := false, tries := 0, counting := false, again := decide (y.rstep = 3) }

/-- SYN in step 2 of a new relock, its fence in holdover and its ramp of the length given. -/
def Syn.fenced (y : Syn) (len : Nat) : Syn := { y.triggered with fence := true, rstep := 2, failed := false, ramp := len }

/-- A new relock before it is counted and reported. -/
def State.relockFenced (s : State) (len : Nat) : State :=
  (((((s.modSyn (·.fenced len)).clearHstop 2).modMcr Mcr.toRelock).muteAll .relock len).unmuteAll .step len)

theorem State.relockFenced_frame (s : State) (len : Nat) : Follows [.hstop, .mcr, .syn, .mix] s (s.relockFenced len) :=
  State.unmuteAll_follows _ _ _ (subParts_spec rfl) (State.muteAll_follows _ _ _ (subParts_spec rfl)
    (State.modMcr_follows _ _ (subParts_spec rfl) (State.clearHstop_follows _ _ (subParts_spec rfl)
      (State.modSyn_follows _ _ (subParts_spec rfl) (.refl s)))))

theorem State.relockFenced_syn (s : State) (len : Nat) : (s.relockFenced len).syn = s.syn.fenced len := by
  unfold State.relockFenced
  simp

theorem State.relockFenced_mcr (s : State) (len : Nat) : (s.relockFenced len).mcr = s.mcr.toRelock := by
  unfold State.relockFenced
  simp

theorem State.relockFenced_hstop (s : State) (len : Nat) : (s.relockFenced len).reg.hstop.getLsbD 2 = false := by
  unfold State.relockFenced
  simp

/-- Every sink is held by the relock; the end of a step releases none from it. -/
theorem State.relockFenced_muted (hs : StoresOk s) (len : Nat) {k : Nat} (hk : k < 12) :
    MuteCause.relock ∈ ((s.relockFenced len).muteOf k).causes := by
  unfold State.relockFenced
  have hmod : StoresOk (((s.modSyn (·.fenced len)).clearHstop 2).modMcr Mcr.toRelock) :=
    State.modMcr_storesOk _ (State.clearHstop_storesOk _ (State.modSyn_storesOk _ hs))
  rw [State.unmuteAll_muteOf (State.muteAll_storesOk _ _ hmod) _ _ hk, State.muteAll_muteOf hmod _ _ hk, Mute.off_causes]
  exact List.mem_filter.mpr ⟨Mute.on_causes _ _ _, rfl⟩

theorem State.unlockMark_frame (s : State) : Follows [.rc] s s.unlockMark :=
  State.unlockMark_follows s (fun _ k => k) (.refl s)

theorem State.unlockMark_rcOnly (s : State) : RcOnly [0x2800C, evtStat 42] s s.unlockMark := by
  unfold State.unlockMark
  split
  · exact ((RcOnly.refl _ s).flag (by simp)).raise (by simp)
  · exact .refl _ s

theorem State.unlockMark_event (hs : StoresOk s) (hu : s.syn.unlockReq = true) : s.unlockMark.event 42 = true := by
  unfold State.unlockMark
  rw [if_pos hu]
  exact State.flagRaise_event hs _ _ _ (srcPresent_synthesis _ (by decide))

theorem State.satAdd_rcW_other (s : State) {a b : Nat} (n k : Nat) (hb : b ≠ a) : (s.satAdd a n k).rcW b = s.rcW b :=
  sget_sset_other _ _ hb

theorem State.satAdd_frame (s : State) (a n k : Nat) : Follows [.rc] s (s.satAdd a n k) :=
  State.satAdd_follows s a n k (fun _ k => k) (.refl s)

/-- A trigger outside steps 2 and 3 begins a relock, counts it and reports it. -/
theorem State.relockBegin_new (h2 : s.syn.rstep ≠ 2) (h3 : s.syn.rstep ≠ 3) :
    s.relockBegin = ((s.unlockMark.relockFenced s.rampLen).satAdd 0x28018 16 1).raise 40 :=
  if_neg (by omega)

/-- What a new relock is: the fence in holdover, MCR in RELOCK, every sink muted, its flag and events. -/
theorem State.relockBegin_spec (hs : StoresOk s) (h2 : s.syn.rstep ≠ 2) (h3 : s.syn.rstep ≠ 3) :
    let t := s.relockBegin
    t.syn = s.syn.fenced s.rampLen ∧ t.mcr = s.mcr.toRelock ∧ t.reg.hstop.getLsbD 2 = false ∧
      (∀ k < 12, MuteCause.relock ∈ (t.muteOf k).causes) ∧ t.event 40 = true ∧
      (s.syn.unlockReq = true → t.event 42 = true) ∧ RcOnly [0x2800C, 0x28018, evtStat 40] s t := by
  intro t
  have hmark := s.unlockMark_frame
  have hfence := s.unlockMark.relockFenced_frame s.rampLen
  have hcount := (s.unlockMark.relockFenced s.rampLen).satAdd_frame 0x28018 16 1
  have hcounted : StoresOk ((s.unlockMark.relockFenced s.rampLen).satAdd 0x28018 16 1) :=
    hcount.stores (hfence.stores (hmark.stores hs))
  have hrest : LeavesAllBut [.rc] (s.unlockMark.relockFenced s.rampLen) t := by
    simp only [t, State.relockBegin_new h2 h3]
    exact hcount.others.trans (State.raise_others _ _)
  have hrc : RcOnly [0x28018] s.unlockMark ((s.unlockMark.relockFenced s.rampLen).satAdd 0x28018 16 1) :=
    (hfence.others.rcOnly rfl).trans fun a ha => State.satAdd_rcW_other _ 16 1 (by simpa using ha)
  refine ⟨?_, ?_, ?_, fun k hk => ?_, ?_, fun hu => ?_, ?_⟩
  · rw [hrest.keeps .syn rfl, State.relockFenced_syn, hmark.others.keeps .syn rfl]
  · rw [hrest.keeps .mcr rfl, State.relockFenced_mcr, hmark.others.keeps .mcr rfl]
  · rw [hrest.keeps .hstop rfl, State.relockFenced_hstop]
  · rw [hrest.muteOf rfl]
    exact State.relockFenced_muted (hmark.stores hs) _ hk
  · simp only [t, State.relockBegin_new h2 h3]
    exact State.raise_event hcounted 40 (srcPresent_synthesis _ (by decide))
  · simp only [t, State.relockBegin_new h2 h3]
    refine State.raise_event_keep hcounted 40 42 ?_
    unfold State.event
    rw [hrc _ (by decide)]
    exact State.unlockMark_event hs hu
  · simp only [t, State.relockBegin_new h2 h3]
    exact ((s.unlockMark_rcOnly.widen (by decide)).trans (hrc.widen (by decide))).raise (by decide)

theorem synRelock_begins (hs : Ready s) (hreq : s.syn.req = true ∨ s.syn.unlockReq = true) (h2 : s.syn.rstep ≠ 2)
    (h3 : s.syn.rstep ≠ 3) :
    ∃ t, exec .synRelock s = .next t ∧ t.syn.fence = true ∧ t.syn.rstep = 2 ∧ t.syn.req = false ∧
      t.syn.unlockReq = false ∧ t.syn.tries = 0 ∧ t.syn.ramp = s.rampLen ∧ t.mcr.state = .relock ∧
      t.mcr.stepDue = false ∧ t.mcr.setDue = false ∧ (∀ k < 12, (t.muteOf k).causes.contains .relock = true) ∧
      t.event 40 = true ∧ (s.syn.unlockReq = true → t.event 42 = true) ∧ t.reg.hstop.getLsbD 2 = false ∧
      RcOnly [0x2800C, 0x28018, evtStat 40] s t ∧ LeavesAllBut [.rc, .hstop, .mcr, .syn, .mix] s t := by
  obtain ⟨hsyn, hmcr, hstop, hmuted, hevent, hunlock, hrc⟩ := State.relockBegin_spec hs.1 h2 h3
  have hparts := (State.relockBegin_follows s (fun _ k => k) (.refl s)).others.settled
  have hagain : s.relockBegin.syn.again = false := by
    rw [hsyn]
    exact decide_eq_false h3
  have hnow : s.relockNow = s.relockBegin := by
    unfold State.relockNow State.step3Again
    rw [if_pos hreq, hagain]
    rfl
  refine ⟨settle s.relockNow, run_ready hs _, ?_⟩
  rw [hnow, settle_syn, settle_mcr, hsyn, hmcr]
  exact ⟨rfl, rfl, rfl, rfl, rfl, rfl, rfl, rfl, rfl, fun k hk => List.contains_iff_mem.mpr (hmuted k hk), hevent,
    hunlock, hstop, hrc, hparts⟩

end

/-! ### Step 3 (R77, R81) -/

section
variable {s : State}

/-- SYN as step 3 begins: the PLL reloaded for a house rate and a REFMODE, its detector discharged. -/
def Syn.reloaded (y : Syn) (r k : Nat) : Syn :=
  { y with rate := r, rstep := 3, counting := false, again := false, mpllA := false, mpllB := false, refmode := k,
           refHz := pllRef r k, fbN := pllN k, icp := pllIcp k, newCentre := none }

/-- REFMODE as the applied SYN_CFG asks for it. -/
def State.targetMode (s : State) : Nat := refmodeField (s.appliedW 0x28000)

/-- MCR once the running relock's centre is taken. -/
def State.recentred (s : State) : Mcr := { s.mcr with centre := s.syn.newCentre.getD s.mcr.centre }

theorem State.relockStep3_syn (s : State) : s.relockStep3.syn = s.syn.reloaded s.targetRate s.targetMode := by
  unfold State.relockStep3
  by_cases h : s.targetRate = s.syn.rate
  · simp only [h]
    rfl
  · simp only [if_neg h]
    rfl

/-- At the rate that runs, step 3 loads the PLL and takes the centre, and nothing else. -/
theorem State.relockStep3_sameRate (h : s.targetRate = s.syn.rate) :
    s.relockStep3 = (s.modSyn (·.reloaded s.syn.rate s.targetMode)).modMcr (fun _ => s.recentred) := by
  unfold State.relockStep3
  simp only [h]
  rfl

theorem State.relockStep3_sameRate_frame (h : s.targetRate = s.syn.rate) : Follows [.mcr, .syn] s s.relockStep3 := by
  rw [State.relockStep3_sameRate h]
  exact State.modMcr_follows _ _ (subParts_spec rfl) (State.modSyn_follows _ _ (subParts_spec rfl) (.refl s))

theorem State.step3Begin_keepsRate (h : s.syn.rateChg = false) : s.step3Begin = s.relockStep3 := by
  unfold State.step3Begin
  rw [h]
  rfl

/-- Everything started stops before the rate changes; SYN and what SYN_CFG asks of it are not touched. -/
theorem State.rateStops_frame (s : State) :
    Follows [.rc, .mix, .stx, .srx, .dpc, .ring, .sap, .asrc] s
      ((((s.stxRateStop).srxRateStop).audRateStop).sapRateStop) :=
  State.sapRateStop_follows _ (subParts_spec rfl) (State.audRateStop_follows _ (subParts_spec rfl)
    (State.srxRateStop_follows _ (subParts_spec rfl) (State.stxRateStop_follows _ (subParts_spec rfl) (.refl s))))

theorem State.step3Begin_syn (s : State) : s.step3Begin.syn = s.syn.reloaded s.targetRate s.targetMode := by
  unfold State.step3Begin
  split
  · have hstops := s.rateStops_frame.others
    generalize (((s.stxRateStop).srxRateStop).audRateStop).sapRateStop = a at hstops ⊢
    have hjudged : Follows [.rc, .eng, .asrc, .sap] a.relockStep3
        ((((a.relockStep3).engCheckAll []).asrcAll).asrcAdmit).sapRejudge :=
      State.sapRejudge_follows _ (subParts_spec rfl) (State.asrcAdmit_follows _ (subParts_spec rfl)
        (State.asrcAll_follows _ (subParts_spec rfl) (State.engCheckAll_follows _ _ (subParts_spec rfl) (.refl _))))
    have hsyn : a.syn = s.syn := hstops.keeps .syn rfl
    rw [hjudged.others.keeps .syn rfl, State.relockStep3_syn]
    unfold State.targetRate State.targetMode
    rw [hsyn, hstops.appliedW rfl]
  · exact s.relockStep3_syn

/-- A trigger merged into step 3 (R81) is the trigger and the step again. -/
theorem State.relockNow_merged (hreq : s.syn.req = true) (hu : s.syn.unlockReq = false) (h3 : s.syn.rstep = 3) :
    s.relockNow = (s.modSyn Syn.triggered).step3Begin := by
  have hbegin : s.relockBegin = s.unlockMark.modSyn Syn.triggered := if_pos (.inr h3)
  have hmark : s.unlockMark = s := if_neg (by simp [hu])
  have hagain : (s.modSyn Syn.triggered).syn.again = true := decide_eq_true h3
  unfold State.relockNow State.step3Again
  rw [if_pos (.inl hreq), hbegin, hmark, if_pos hagain]

theorem synRelock_restartsStep3 (hd : s.down = false) (hreq : s.syn.req = true) (hu : s.syn.unlockReq = false)
    (h3 : s.syn.rstep = 3) (hc : s.syn.rateChg = false) (hr : s.targetRate = s.syn.rate) :
    ∃ t, exec .synRelock s = .next t ∧ t.syn.rstep = 3 ∧ t.syn.req = false ∧ t.syn.tries = 0 ∧ t.syn.counting = false ∧
      t.syn.mpllA = false ∧ t.syn.mpllB = false ∧ t.syn.refmode = refmodeField (s.appliedW 0x28000) ∧
      t.mcr.centre = s.syn.newCentre.getD s.mcr.centre ∧ LeavesAllBut [.mcr, .syn] s t := by
  have hsame : (s.modSyn Syn.triggered).targetRate = (s.modSyn Syn.triggered).syn.rate := hr
  have hparts : LeavesAllBut [.mcr, .syn] s (s.modSyn Syn.triggered).relockStep3 :=
    ((s.modSyn_frame _).others.widen (subParts_spec rfl)).trans (State.relockStep3_sameRate_frame hsame).others
  refine ⟨settle s.relockNow, run_up hd _, ?_⟩
  rw [State.relockNow_merged hreq hu h3, State.step3Begin_keepsRate (s := s.modSyn Syn.triggered) hc]
  rw [State.relockStep3_sameRate hsame] at hparts ⊢
  exact ⟨rfl, rfl, rfl, rfl, rfl, rfl, rfl, rfl, hparts.settled⟩

theorem State.rampDownEnd_over (h2 : s.syn.rstep = 2) (ho : s.rampOver .relock = true) : s.rampDownEnd = s.step3Begin :=
  if_pos ⟨h2, ho⟩

theorem relockRampDownEnd_reloads (hd : s.down = false) (h2 : s.syn.rstep = 2) (ho : s.rampOver .relock = true)
    (hc : s.syn.rateChg = false) (hr : s.targetRate = s.syn.rate) :
    ∃ t, exec .relockRampDownEnd s = .next t ∧ t.syn = s.syn.reloaded s.syn.rate s.targetMode ∧ t.mcr = s.recentred ∧
      LeavesAllBut [.mcr, .syn] s t := by
  have hparts := (State.relockStep3_sameRate_frame hr).others.settled
  refine ⟨settle s.rampDownEnd, run_up hd _, ?_⟩
  rw [State.rampDownEnd_over h2 ho, State.step3Begin_keepsRate hc]
  rw [State.relockStep3_sameRate hr] at hparts ⊢
  exact ⟨rfl, rfl, hparts⟩

theorem relockRampDownEnd_changesRate (hd : s.down = false) (h2 : s.syn.rstep = 2) (ho : s.rampOver .relock = true) :
    ∃ t, exec .relockRampDownEnd s = .next t ∧ t.syn.rstep = 3 ∧ t.syn.rate = s.targetRate ∧ t.syn.mpllA = false ∧
      t.syn.mpllB = false := by
  refine ⟨settle s.rampDownEnd, run_up hd _, ?_⟩
  rw [State.rampDownEnd_over h2 ho, settle_syn, State.step3Begin_syn]
  exact ⟨rfl, rfl, rfl, rfl⟩

theorem counterCheckEnd_passes {n : Nat} (hd : s.down = false) (h3 : s.syn.rstep = 3) (hc : s.syn.counting = true)
    (hok : countOk (isFamA s.syn.rate) s.mcr.freq n = true) :
    ∃ t, exec (.counterCheckEnd n) s = .next t ∧
      t.syn = { s.syn with mcnt := n % 2 ^ 17, counting := false, rstep := 4 } ∧ LeavesAllBut [.syn] s t := by
  have hend : s.counterEnd n = s.modSyn (fun y => { y with mcnt := n % 2 ^ 17, counting := false, rstep := 4 }) := by
    unfold State.counterEnd
    rw [if_pos ⟨h3, hc⟩]
    exact if_pos hok
  refine ⟨settle (s.counterEnd n), run_up hd _, ?_⟩
  rw [hend]
  exact ⟨rfl, (s.modSyn_frame _).others.settled⟩

end

/-! ### Steps 4 and 5 (R77) -/

section
variable {s : State}

theorem fenceSwitchBack_releases (hs : Ready s) (h4 : s.syn.rstep = 4) :
    ∃ t, exec .fenceSwitchBack s = .next t ∧ t.syn = { s.syn with fence := false, rstep := 5 } ∧
      (∀ k < 12, (t.muteOf k).causes.contains .relock = false) ∧ LeavesAllBut [.syn, .mix] s t := by
  have hparts := (State.fenceBack_follows s (fun _ k => k) (.refl s)).others.settled
  have hback : s.fenceBack = (s.modSyn fun y => { y with fence := false, rstep := 5 }).unmuteAll .relock s.syn.ramp :=
    if_pos h4
  refine ⟨settle s.fenceBack, run_ready hs _, ?_⟩
  rw [hback] at hparts ⊢
  refine ⟨(settle_syn _).trans (State.unmuteAll_syn _ _ _), fun k hk => ?_, hparts⟩
  rw [settle_muteOf, State.unmuteAll_muteOf (State.modSyn_storesOk _ hs.1) _ _ hk, Mute.off_causes]
  simp

/-- The relock over, before MCR leaves RELOCK. -/
def State.relockDone (s : State) : State := (s.modSyn (fun y => { y with rstep := 0, rateChg := false })).synAdopted

theorem State.relockDone_frame (s : State) : Follows [.snap, .syn] s s.relockDone :=
  State.synAdopted_follows _ (subParts_spec rfl) (State.modSyn_follows _ _ (subParts_spec rfl) (.refl s))

theorem State.mrMark_frame (s : State) : Follows [.stx] s s.mrMark := State.mrMark_follows s (fun _ k => k) (.refl s)

/-- At the boundary it names, once the ramps up are over, the command ends the relock. -/
theorem relockEnd_over (hs : Ready s) (h5 : s.syn.rstep = 5) (ho : s.rampsUp = true) :
    exec (.relockEnd s.tt.now) s = .next (settle s.relockEnd.mrMark) :=
  ((congrArg (run s) (if_pos rfl)).trans (run_ready hs _)).trans
    (congrArg (fun t => Host.Outcome.next (settle t)) (if_pos ⟨h5, ho⟩))

theorem relockEnd_acquires (hs : Ready s) (h5 : s.syn.rstep = 5) (ho : s.rampsUp = true) (hm : s.mcrMode ≠ 5)
    (hj : s.mcr.relJump = none) :
    ∃ t, exec (.relockEnd s.tt.now) s = .next t ∧ t.syn = { s.syn with rstep := 0, rateChg := false } ∧
      t.mcr.state = .acquire ∧ t.mcr.afterRelock = s.tt.rateOk ∧ LeavesAllBut [.snap, .mcr, .syn, .stx] s t := by
  have hend : s.relockEnd = s.relockDone.modMcr (fun m => { m with
      state := .acquire, refOk := m.refOk && s.tt.rateOk, afterRelock := s.tt.rateOk, qual := 0, hist := [],
      relJump := none }) := by
    unfold State.relockEnd
    rw [if_pos h5]
    dsimp only
    rw [if_neg hm, hj]
    rfl
  have hkept := s.relockEnd.mrMark_frame.others
  have hparts : LeavesAllBut [.snap, .mcr, .syn, .stx] s s.relockEnd := by
    rw [hend]
    exact (s.relockDone_frame.others.widen (subParts_spec rfl)).trans
      ((State.modMcr_frame _ _).others.widen (subParts_spec rfl))
  have hall := hparts.trans (hkept.widen (subParts_spec rfl))
  refine ⟨_, relockEnd_over hs h5 ho, ?_, ?_, ?_, hall.settled⟩
  · rw [settle_syn, hkept.keeps .syn rfl, hend]
    rfl
  · rw [settle_mcr, hkept.keeps .mcr rfl, hend]
    rfl
  · rw [settle_mcr, hkept.keeps .mcr rfl, hend]
    rfl

theorem relockEnd_locksMaster (hs : Ready s) (h5 : s.syn.rstep = 5) (ho : s.rampsUp = true) (hm : s.mcrMode = 5) :
    ∃ t, exec (.relockEnd s.tt.now) s = .next t ∧ t.syn.rstep = 0 ∧ t.mcr.state = .locked ∧ t.mcr.freq = s.trim ∧
      t.event 36 = true ∧ LeavesAllBut [.rc, .snap, .mcr, .syn, .stx] s t := by
  have hparts := (State.mrMark_follows (lp := [.rc, .snap, .mcr, .syn, .stx]) _ (subParts_spec rfl)
    (State.relockEnd_follows s (subParts_spec rfl) (.refl s))).others.settled
  have hkept := s.relockEnd.mrMark_frame.others
  have hmod := s.relockDone.modMcr_frame (fun m => { m.lost with masterDue := !s.tt.rateOk, freq := s.trim })
  obtain ⟨hmcr, hevent, -, hlock⟩ := State.mcrLock_spec (hmod.stores (s.relockDone_frame.stores hs.1))
  have hend : s.relockEnd =
      (s.relockDone.modMcr (fun m => { m.lost with masterDue := !s.tt.rateOk, freq := s.trim })).mcrLock := by
    unfold State.relockEnd
    rw [if_pos h5]
    exact if_pos hm
  refine ⟨_, relockEnd_over hs h5 ho, ?_⟩
  rw [settle_syn, settle_mcr, settle_event, hkept.keeps .syn rfl, hkept.keeps .mcr rfl, hkept.event rfl]
  rw [hend] at hparts ⊢
  refine ⟨?_, ?_, ?_, hevent, hparts⟩
  · rw [hlock.keeps .syn rfl]
    rfl
  · rw [hmcr]
    rfl
  · rw [hmcr]
    rfl

end

/-- Settles O30: RELOCK and a lost PLL ask, the next boundary begins the relock or restarts its step 3, and each step ends
in the next until MCR leaves RELOCK. -/
theorem fencedRelockRuns : Obligations.FencedRelockRuns :=
  ⟨⟨fun _ q hd => relock_asks hd q,
      fun _ hd hl => synUnlock_asks hd hl,
      fun _ hs hreq h2 h3 => synRelock_begins hs hreq h2 h3,
      fun _ hd hreq hu h3 hc hr => synRelock_restartsStep3 hd hreq hu h3 hc hr⟩,
    fun _ hd h2 ho hc hr => relockRampDownEnd_reloads hd h2 ho hc hr,
    fun _ hd h2 ho _ => relockRampDownEnd_changesRate hd h2 ho,
    fun _ hd => mpllLock_counts hd,
    fun _ _ hd h3 hc hok => counterCheckEnd_passes hd h3 hc hok,
    fun _ hs h4 => fenceSwitchBack_releases hs h4,
    fun _ hs h5 ho hm hj => relockEnd_acquires hs h5 ho hm hj,
    fun _ hs h5 ho hm => relockEnd_locksMaster hs h5 ho hm⟩

end Sys2Proof.Machine

/-! SUPPORT. Attempts of step 3 that fail, and what the last of them leaves (R79, R231). -/

namespace Sys2Proof.Machine

section
variable {s : State}

/-- SYN as the next attempt begins. -/
def Syn.retried (y : Syn) : Syn := { y with tries := y.tries + 1, counting := false, mpllA := false, mpllB := false }

/-- SYN once the relock is given up. -/
def Syn.abandoned (y : Syn) : Syn := { y with failed := true, rstep := 0, counting := false }

theorem State.relockRetry_left (h : s.syn.tries < s.retries) : s.relockRetry = s.modSyn Syn.retried := if_pos h

theorem State.relockRetry_last (h : s.retries ≤ s.syn.tries) :
    s.relockRetry = ((s.modSyn Syn.abandoned).flagRaise 0x2800C 0x8 41).enterHstop 2 := if_neg (Nat.not_lt.mpr h)

/-- A unit that enters hard stop shows it. -/
theorem State.enterHstop_hstop (s : State) {n : Nat} (hn : n < 24) : (s.enterHstop n).reg.hstop.getLsbD n = true := by
  unfold State.enterHstop
  split
  · assumption
  · rw [(State.raise_others _ 10).keeps .hstop rfl, BitVec.getLsbD_or, BitVec.getLsbD_ofNat, Nat.testBit_two_pow_self]
    simp [hn]

theorem State.enterHstop_raises (s : State) (n : Nat) : Raises s (s.enterHstop n) := by
  unfold State.enterHstop
  have hset : Raises s { s with reg := { s.reg with hstop := s.reg.hstop ||| BitVec.ofNat 24 (2 ^ n) } } :=
    fun hs => ⟨hs, .refl s⟩
  exact .ite (fun _ => .refl s) fun _ => hset.trans (State.raise_raises _ 10)

/-- The counter check over, its count in SYN_MCNT. -/
def State.counted (s : State) (n : Nat) : State := s.modSyn (fun y => { y with mcnt := n % 2 ^ 17, counting := false })

theorem counterCheckEnd_retries {n : Nat} (hs : Ready s) (h3 : s.syn.rstep = 3) (hc : s.syn.counting = true)
    (hbad : countOk (isFamA s.syn.rate) s.mcr.freq n = false) (hleft : s.syn.tries < s.retries) :
    ∃ t, exec (.counterCheckEnd n) s = .next t ∧
      t.syn = { s.syn with
        mcnt := n % 2 ^ 17, counting := false, tries := s.syn.tries + 1, mpllA := false, mpllB := false } ∧
      bitAt (t.rcW 0x2800C) 2 = true ∧ RcOnly [0x2800C] s t ∧ LeavesAllBut [.rc, .syn] s t := by
  have hend : s.counterEnd n = ((s.counted n).flag 0x2800C 0x4).modSyn Syn.retried := by
    unfold State.counterEnd
    rw [if_pos ⟨h3, hc⟩]
    simp only [hbad]
    exact State.relockRetry_left (s := (s.counted n).flag 0x2800C 0x4) hleft
  have hstores : StoresOk (s.counted n) := State.modSyn_storesOk _ hs.1
  have hparts : Follows [.rc, .syn] s (((s.counted n).flag 0x2800C 0x4).modSyn Syn.retried) :=
    State.modSyn_follows _ _ (subParts_spec rfl) (State.flag_follows _ _ _ (subParts_spec rfl)
      (State.modSyn_follows _ _ (subParts_spec rfl) (.refl s)))
  refine ⟨settle (s.counterEnd n), run_ready hs _, ?_⟩
  rw [hend]
  refine ⟨rfl, ?_, ?_, hparts.others.settled⟩
  · rw [settle_rcW, State.modSyn_rcW, State.flag_rcW hstores, if_pos rfl]
    exact bitAt_or _ 2 4 (by decide) (by decide)
  · exact (((s.modSyn_frame _).others.rcOnly rfl).flag (by simp)).trans
      ((State.modSyn_frame ((s.counted n).flag 0x2800C 0x4) Syn.retried).others.rcOnly rfl)

/-- SYN_MCNT as an attempt that exceeds TIMEOUT leaves it (log 78). -/
def State.cutCount (s : State) : Nat := if s.syn.counting then Config.freeNat s.free % 2 ^ 17 else 0

/-- An attempt cut off, before it is repeated or given up. -/
def State.cutOff (s : State) : State := s.fresh.2.modSyn (fun y => { y with mcnt := s.cutCount })

theorem State.cutOff_frame (s : State) : Follows [.syn] s s.cutOff :=
  State.modSyn_follows _ _ (subParts_spec rfl) (State.fresh_follows s (.refl s))

theorem State.step3Timeout_eq (h3 : s.syn.rstep = 3) : s.step3Timeout = s.cutOff.relockRetry := if_pos h3

theorem relockTimeout_retries (hs : Ready s) (h3 : s.syn.rstep = 3) (hleft : s.syn.tries < s.retries) :
    ∃ t, exec .relockTimeout s = .next t ∧
      t.syn = { s.syn with
        mcnt := s.cutCount, counting := false, tries := s.syn.tries + 1, mpllA := false, mpllB := false } ∧
      LeavesAllBut [.syn] s t := by
  have hend : s.step3Timeout = s.cutOff.modSyn Syn.retried :=
    (State.step3Timeout_eq h3).trans (State.relockRetry_left (s := s.cutOff) hleft)
  refine ⟨settle s.step3Timeout, run_ready hs _, ?_⟩
  rw [hend]
  exact ⟨rfl, (State.modSyn_follows _ _ (fun _ k => k) s.cutOff_frame).others.settled⟩

theorem relockTimeout_givesUp (hs : Ready s) (h3 : s.syn.rstep = 3) (hlast : s.retries ≤ s.syn.tries) :
    ∃ t, exec .relockTimeout s = .next t ∧ t.syn.failed = true ∧ t.syn.rstep = 0 ∧ t.syn.fence = s.syn.fence ∧
      t.reg.hstop.getLsbD 2 = true ∧ bitAt (t.rcW 0x2800C) 3 = true ∧ t.event 41 = true ∧
      LeavesAllBut [.rc, .snap, .hstop, .syn] s t := by
  have hparts := (State.step3Timeout_follows (lp := [.rc, .snap, .hstop, .syn]) s (subParts_spec rfl)
    (.refl s)).others.settled
  have hend : s.step3Timeout = ((s.cutOff.modSyn Syn.abandoned).flagRaise 0x2800C 0x8 41).enterHstop 2 :=
    (State.step3Timeout_eq h3).trans (State.relockRetry_last (s := s.cutOff) hlast)
  have hstores : StoresOk (s.cutOff.modSyn Syn.abandoned) := State.modSyn_storesOk _ (s.cutOff_frame.stores hs.1)
  have hflag : bitAt (((s.cutOff.modSyn Syn.abandoned).flagRaise 0x2800C 0x8 41).rcW 0x2800C) 3 = true := by
    rw [State.flagRaise_rcW hstores _ _ _ _ (by decide), if_pos rfl]
    exact bitAt_or _ 3 8 (by decide) (by decide)
  have hevent := State.flagRaise_event hstores 0x2800C 0x8 41 (srcPresent_synthesis _ (by decide))
  obtain ⟨-, hbits⟩ := State.enterHstop_raises ((s.cutOff.modSyn Syn.abandoned).flagRaise 0x2800C 0x8 41) 2
    ((State.flagRaise_raises _ _ _ _ hstores).1)
  have hsyn : (((s.cutOff.modSyn Syn.abandoned).flagRaise 0x2800C 0x8 41).enterHstop 2).syn = s.cutOff.syn.abandoned := by
    rw [State.enterHstop_syn, (State.flagRaise_others _ _ _ _).keeps .syn rfl, State.modSyn_syn]
  refine ⟨settle s.step3Timeout, run_ready hs _, ?_⟩
  rw [hend] at hparts ⊢
  rw [settle_syn, hsyn]
  exact ⟨rfl, rfl, rfl, State.enterHstop_hstop _ (by decide), hbits _ _ hflag, hbits.event hevent, hparts⟩

end

/-- Settles O31: a failed attempt is repeated while retries are left, and the last leaves SYN in hard stop. -/
theorem fencedRelockFails : Obligations.FencedRelockFails :=
  ⟨fun _ _ hs h3 hc hbad hleft => counterCheckEnd_retries hs h3 hc hbad hleft,
    fun _ hs h3 hleft => relockTimeout_retries hs h3 hleft,
    fun _ hs h3 hlast => relockTimeout_givesUp hs h3 hlast⟩

end Sys2Proof.Machine

/-! SUPPORT. A SerDes PLL that loses lock takes the lane down with its port (R70, R91). -/

namespace Sys2Proof.Machine

/-- Port A's lane goes down with its PLL, whether the port was up or not. -/
theorem State.serdesLoss_lane {s : State} (h : s.syn.serA = true) : (s.serdesLoss 0).macA.lane = false := by
  unfold State.serdesLoss
  simp only [h]
  rfl

/-- A reset part whose port A is enabled, has its PLL locked and its lane up, and waits for the link of its PHY (R88). -/
def laneWithoutLink : State :=
  { State.reset.setApplied 0x10000 0x5C with
    syn := { State.reset.syn with serA := true }, macA := { State.reset.macA with lane := true } }

theorem laneWithoutLink_storesOk : StoresOk laneWithoutLink := by
  unfold StoresOk RegsOk
  decide +kernel

/-- Refutes O32: a port whose lane has locked stays down until its PHY has a link (R88). Where its PLL loses lock then, the
lane goes down, which is MAC A's state; the third clause has no part but the RC words and SYN change wherever the port is
down. -/
theorem not_locksAndReferenceClock : ¬ Obligations.LocksAndReferenceClock := by
  intro h
  obtain ⟨⟨-, -, hquiet⟩, -⟩ := h
  obtain ⟨t, hexec, -, -, -, hparts⟩ := hquiet laneWithoutLink laneWithoutLink_storesOk rfl rfl rfl
  have hrun : exec (.serdesUnlock 0) laneWithoutLink = .next (settle (laneWithoutLink.serdesLoss 0)) :=
    runPowered_up rfl _
  obtain rfl : settle (laneWithoutLink.serdesLoss 0) = t := Host.Outcome.next.inj (hrun.symm.trans hexec)
  have hlane : (laneWithoutLink.serdesLoss 0).macA.lane = true := congrArg Mac.lane (hparts.keeps .macA rfl)
  rw [State.serdesLoss_lane rfl] at hlane
  exact nomatch hlane

end Sys2Proof.Machine

/-! SUPPORT. What a step keeps of the stores (R113). -/

namespace Sys2Proof.Machine

/-- What a command answers keeps the canonical form of the stores. -/
theorem exec_storesOk {c : Instr} {s t : State} (hs : StoresOk s) (h : exec c s = .next t) : StoresOk t := by
  obtain ⟨u, hu, hfollows, -⟩ := (exec_completes c s).exists_next
  obtain rfl : u = t := Host.Outcome.next.inj (hu.symm.trans h)
  exact hfollows.stores hs

/-- Settles O4: an idle step leaves the stores, and the front command keeps their form; taking it off the queue writes none. -/
theorem storesInvariant : Obligations.StoresInvariant := by
  intro s t hs h
  cases hp : s.pending with
  | nil =>
    obtain rfl : s = t := Host.Outcome.next.inj ((step_of_empty hp).symm.trans h)
    exact hs
  | cons c rest =>
    have hrest : StoresOk { s with pending := rest } := hs
    exact exec_storesOk hrest ((step_of_pending hp).symm.trans h)

end Sys2Proof.Machine

/-! SUPPORT. The Ethernet ports: commands about a port the member has, its control bits, its flags and events, and what
PAUSE and PFC make of its stops (R88, R91, R97, R100 to R103). -/

namespace Sys2Proof.Machine

/-! ### What a command about a port makes of a die that runs -/

section
variable {s : State} {p : Nat}

theorem run_port (hs : Ready s) (hp : p < numPorts s.member) (t : State) :
    run s (s.onPort p t) = .next (settle t) := by
  rw [State.onPort_present hp, run_ready hs]

theorem runPowered_ready (hs : Ready s) (t : State) : runPowered s t = .next (settle t) := runPowered_up hs.2 t

theorem runPowered_port (hs : Ready s) (hp : p < numPorts s.member) (t : State) :
    runPowered s (s.onPort p t) = .next (settle t) := by
  rw [State.onPort_present hp, runPowered_ready hs]

/-- A write of the control bits of a port. -/
theorem run_macCtl (hs : Ready s) (hp : p < numPorts s.member) (q : Req) (d : Nat) :
    run s (s.onIndex p 2 (s.ctl q (macBase p + 4) d)) = .next (settle (s.macCtl p (toWord d &&& 0x7))) := by
  rw [State.onIndex, if_pos (lt_two_of_port hp), State.ctl_mac s q p d (decide_eq_true hp), run_ready hs]

theorem State.macCtl_reverify (s : State) (p : Nat) : s.macCtl p (toWord 1 &&& 0x7) = s.reverify p := rfl

theorem State.macCtl_retrain (s : State) (p : Nat) : s.macCtl p (toWord 2 &&& 0x7) = s.retrainPort p := rfl

theorem State.macCtl_holdEnd (s : State) (p : Nat) :
    s.macCtl p (toWord 4 &&& 0x7) = s.setMac p { s.mac p with hold := false } := rfl

/-- A command whose one effect is what a port holds. -/
theorem setMac_completes {o : Host.Outcome State Fault Refusal} (hp : p < numPorts s.member) {v : Mac}
    (ho : o = .next (settle (s.setMac p v))) :
    ∃ t, o = .next t ∧ t.mac p = v ∧ OtherPorts p s t ∧ LeavesAllBut [.macA, .macB] s t :=
  ⟨_, ho, s.setMac_mac p v, s.setMac_otherPorts (lt_two_of_port hp) v, (s.setMac_frame p v).others.settled⟩

/-- The messages sent at a command's end follow what the command put out. -/
theorem settle_out {t : State} {l : List OutItem} (ho : t.out = s.out ++ l) (hd : t.due = s.due) (hc : t.pci = s.pci) :
    (settle t).out = s.out ++ l ++ sentMsgs s := by
  unfold settle sentMsgs
  rw [ho, hd, hc]

theorem State.setMac_out (s : State) (p : Nat) (v : Mac) : (s.setMac p v).out = s.out := by
  unfold State.setMac
  split <;> rfl

theorem State.setMac_due (s : State) (p : Nat) (v : Mac) : (s.setMac p v).due = s.due := by
  unfold State.setMac
  split <;> rfl

end

/-! ### The flags and the events of a port -/

section
variable {s t : State} {p : Nat}

/-- Each source of a port is there with its port (R403). -/
theorem srcPresent_port {m : Member} {p : Nat} (hp : p < numPorts m) {k : Nat}
    (hk : k = 16 ∨ k = 18 ∨ k = 20 ∨ k = 22 ∨ k = 25) : srcPresent m (k + p) = true := by
  have hp2 := lt_two_of_port hp
  obtain rfl | rfl : p = 0 ∨ p = 1 := by omega
  · obtain rfl | rfl | rfl | rfl | rfl := hk <;> rfl
  · obtain rfl | rfl | rfl | rfl | rfl := hk <;> exact decide_eq_true hp

/-- The flags of a port stand apart from every event's status word. -/
theorem macFlags_ne_evtStat (p : Nat) {n : Nat} (hn : n < 96) : macBase p + 0xC ≠ evtStat n := by
  unfold macBase evtStat
  omega

/-- A flag of a port and its event: the flag. -/
theorem State.flagRaise_bit (hs : StoresOk s) {a m n k : Nat} (ha : a ≠ evtStat n) (hk : k < 32)
    (hm : m.testBit k = true) : bitAt ((s.flagRaise a m n).rcW a) k = true := by
  rw [State.flagRaise_rcW hs a m n a ha, if_pos rfl]
  exact bitAt_or _ k m hk hm

theorem RcOnly.flagRaise {l : List Nat} (h : RcOnly l s t) {a m n : Nat} (ha : a ∈ l) (hn : evtStat n ∈ l) :
    RcOnly l s (t.flagRaise a m n) := (h.flag ha).raise hn

theorem State.flagRaise_mac (s : State) (a m n p : Nat) : (s.flagRaise a m n).mac p = s.mac p :=
  (State.flagRaise_others s a m n).mac rfl rfl p

/-- What a port holds changed with a flag of its own. -/
theorem State.setMac_flag_spec (hs : StoresOk s) (hp : p < 2) (v : Mac) {m k : Nat} (hk : k < 32)
    (hm : m.testBit k = true) :
    let t := (s.setMac p v).flag (macBase p + 0xC) m
    t.mac p = v ∧ OtherPorts p s t ∧ bitAt (t.rcW (macBase p + 0xC)) k = true ∧ RcOnly [macBase p + 0xC] s t ∧
      Follows [.rc, .macA, .macB] s t := by
  intro t
  have hset := s.setMac_frame p v
  have hflag := (s.setMac p v).flag_frame (macBase p + 0xC) m
  refine ⟨(hflag.others.mac rfl rfl p).trans (s.setMac_mac p v),
    (s.setMac_otherPorts hp v).trans (hflag.others.otherPorts rfl rfl p), ?_, (hset.others.rcOnly rfl).flag (by simp),
    (hset.widen (by decide)).trans (hflag.widen (by decide))⟩
  rw [State.flag_rcW (hset.stores hs), if_pos rfl]
  exact bitAt_or _ k m hk hm

theorem State.bump_mac (s : State) (a p : Nat) : (s.bump a).mac p = s.mac p := (s.bump_frame a).others.mac rfl rfl p

theorem State.bump_countOnly (hs : StoresOk s) {a : Nat} (ha : s.counter a + 1 < ctrMax) : CountOnly [a] s (s.bump a) :=
  fun b hb => by rw [State.bump_counter hs a b ha, if_neg (by simpa using hb)]

/-- An event counted below the maximum saturates nothing, and raises nothing (R113). -/
theorem State.bump_below {a : Nat} (ha : s.counter a + 1 < ctrMax) : LeavesAllBut [.count] s (s.bump a) := by
  have hset : s.bump a = s.setCounter a (s.counter a + 1) ∨ s.bump a = s := by
    unfold State.bump State.countBy
    rw [if_pos ha]
    split
    · exact .inr rfl
    · exact .inl rfl
  obtain h | h := hset
  · rw [h]; exact (State.setCounter_follows s a _ ha.le (fun _ k => k) (.refl s)).others
  · rw [h]; exact fun q _ => q.same_refl s

end

/-! ### Stops that begin, run out and are broken (R100 to R103) -/

section
variable {s : State} {p : Nat}

/-- With no frame in transmission and no remainder a PAUSE stops and restarts queues at once. -/
theorem Mac.stop_pause {m : Mac} (hc : m.cur = none) (hr : m.rem = none) (on off : Nat) :
    m.stop true on off = { m with pauseQ := (m.pauseQ &&& ~~~(BitVec.ofNat 8 off)) ||| BitVec.ofNat 8 on } := by
  simp [Mac.stop, hc, hr]

theorem Mac.stop_pfc {m : Mac} (hc : m.cur = none) (hr : m.rem = none) (on off : Nat) :
    m.stop false on off = { m with pfcQ := (m.pfcQ &&& ~~~(BitVec.ofNat 8 off)) ||| BitVec.ofNat 8 on } := by
  simp [Mac.stop, hc, hr]

/-- A stop that a port acts on: what it then holds, and the frame counted. -/
theorem stop_completes {o : Host.Outcome State Fault Refusal} (hs : Ready s) (hp : p < numPorts s.member)
    {v : Mac} {a : Nat} (ha : s.counter a + 1 < ctrMax) (ho : o = .next (settle ((s.setMac p v).bump a))) :
    ∃ t, o = .next t ∧ t.mac p = v ∧ t.counter a = s.counter a + 1 ∧ OtherPorts p s t ∧ CountOnly [a] s t ∧
      LeavesAllBut [.count, .macA, .macB] s t := by
  have hset := s.setMac_frame p v
  have hcount (b : Nat) : (s.setMac p v).counter b = s.counter b := hset.others.counter rfl b
  have ha' : (s.setMac p v).counter a + 1 < ctrMax := by rw [hcount]; exact ha
  have hbump := State.bump_below ha'
  refine ⟨_, ho, ?_, ?_, ?_, fun b hb => ?_, ?_⟩
  · exact (State.bump_mac _ _ p).trans (s.setMac_mac p v)
  · rw [settle_counter, State.bump_counter (hset.stores hs.1) a a ha', if_pos rfl, hcount]
  · exact (s.setMac_otherPorts (lt_two_of_port hp) v).trans (hbump.settled.otherPorts rfl rfl p)
  · rw [settle_counter, State.bump_countOnly (hset.stores hs.1) ha' b hb, hcount]
  · exact ((hset.others.widen (by decide)).trans (hbump.widen (by decide))).settled

theorem pauseRx_stops (hs : Ready s) (hp : p < numPorts s.member) {quanta : Nat} (hu : (s.mac p).up = true)
    (hw : (s.mac p).sleep = false) (hh : (s.mac p).hold = false) (hen : bitAt (s.macW p 0x14) 0 = true)
    (hc : (s.mac p).cur = none) (hr : (s.mac p).rem = none) (ha : s.counter (macCtr p 11) + 1 < ctrMax) :
    ∃ t, exec (.pauseRx p quanta) s = .next t ∧
      t.mac p = { s.mac p with pauseQ := if quanta = 0 then (s.mac p).pauseQ &&& ~~~(BitVec.ofNat 8 (s.pauseMask p))
        else (s.mac p).pauseQ ||| BitVec.ofNat 8 (s.pauseMask p) } ∧
      t.counter (macCtr p 11) = s.counter (macCtr p 11) + 1 ∧ OtherPorts p s t ∧ CountOnly [macCtr p 11] s t ∧
      LeavesAllBut [.count, .macA, .macB] s t := by
  have hstop : (if quanta = 0 then (s.mac p).stop true 0 (s.pauseMask p) else (s.mac p).stop true (s.pauseMask p) 0) =
      { s.mac p with pauseQ := if quanta = 0 then (s.mac p).pauseQ &&& ~~~(BitVec.ofNat 8 (s.pauseMask p))
        else (s.mac p).pauseQ ||| BitVec.ofNat 8 (s.pauseMask p) } := by
    split
    · rw [Mac.stop_pause hc hr, BitVec.or_zero]
    · rw [Mac.stop_pause hc hr, BitVec.not_zero, BitVec.and_allOnes]
  refine stop_completes hs hp ha ((run_port hs hp _).trans ?_)
  rw [if_pos hu, ← hstop]
  simp only [State.pauseRx, hw, hen, hh, Bool.not_false, Bool.and_true, if_true, Bool.false_eq_true, if_false]

theorem pfcRx_stops (hs : Ready s) (hp : p < numPorts s.member) {enables : Nat} {times : List Nat}
    (hu : (s.mac p).up = true) (hw : (s.mac p).sleep = false) (hh : (s.mac p).hold = false)
    (hen : bitAt (s.macW p 0x14) 1 = true) (hc : (s.mac p).cur = none) (hr : (s.mac p).rem = none)
    (ha : s.counter (macCtr p 11) + 1 < ctrMax) {on off : Nat}
    (hon : on = s.pfcMask p (maskOf ((bitsOf 8 enables).filter (fun k => decide (times.getD k 0 ≠ 0)))))
    (hoff : off = s.pfcMask p (maskOf ((bitsOf 8 enables).filter (fun k => decide (times.getD k 0 = 0)))))
    (hany : on + off ≠ 0) :
    ∃ t, exec (.pfcRx p enables times) s = .next t ∧
      t.mac p = { s.mac p with pfcQ := ((s.mac p).pfcQ &&& ~~~(BitVec.ofNat 8 off)) ||| BitVec.ofNat 8 on } ∧
      t.counter (macCtr p 11) = s.counter (macCtr p 11) + 1 ∧ OtherPorts p s t ∧ CountOnly [macCtr p 11] s t ∧
      LeavesAllBut [.count, .macA, .macB] s t := by
  refine stop_completes hs hp ha ((run_port hs hp _).trans ?_)
  rw [if_pos hu, ← Mac.stop_pfc hc hr]
  unfold State.pfcRx
  simp only [← hon, ← hoff, hw, hen, hh, hany, Bool.not_false, Bool.and_true, ne_eq, not_false_eq_true, decide_true,
    if_true, Bool.false_eq_true, if_false]

theorem getLsbD_clearBit (b : BitVec 8) (k j : Nat) :
    (b &&& ~~~(BitVec.ofNat 8 (2 ^ k))).getLsbD j = (b.getLsbD j && decide (j ≠ k)) := by
  rw [BitVec.getLsbD_and, BitVec.getLsbD_not, BitVec.getLsbD_ofNat, Nat.testBit_two_pow]
  by_cases hj : j < 8
  · simp [hj, eq_comm]
  · simp [BitVec.getLsbD_of_ge b j (by omega)]

theorem pauseExpiry_restarts (hs : Ready s) (hp : p < numPorts s.member) (k : Nat) :
    ∃ t, exec (.pauseExpiry p k false) s = .next t ∧ (t.mac p).pauseQ.getLsbD k = false ∧
      (∀ j, j ≠ k → (t.mac p).pauseQ.getLsbD j = (s.mac p).pauseQ.getLsbD j) ∧ (t.mac p).pfcQ = (s.mac p).pfcQ ∧
      OtherPorts p s t ∧ LeavesAllBut [.macA, .macB] s t := by
  obtain ⟨t, hexec, hmac, hother, hparts⟩ :=
    setMac_completes hp (o := exec (.pauseExpiry p k false) s) (v := (s.mac p).expire k false) (run_port hs hp _)
  refine ⟨t, hexec, ?_, fun j hj => ?_, by rw [hmac]; rfl, hother, hparts⟩
  · rw [hmac]
    exact (getLsbD_clearBit _ k k).trans (by simp)
  · rw [hmac]
    exact (getLsbD_clearBit _ k j).trans (by simp [hj])

/-- What a port holds once its watchdog has broken its stops. -/
def Mac.broken (m : Mac) : Mac := { m.endStops with hold := true }

theorem State.pauseBreak_stopped (h : (s.mac p).pauseQ ||| (s.mac p).pfcQ ≠ 0) :
    s.pauseBreak p = (((s.setMac p (s.mac p).broken).flag (macBase p + 0xC) 0x2).bump (macCtr p 14)).raise (20 + p) :=
  if_neg h

theorem pauseBroken_breaks (hs : Ready s) (hp : p < numPorts s.member) (hq : (s.mac p).pauseQ ||| (s.mac p).pfcQ ≠ 0)
    (ha : s.counter (macCtr p 14) + 1 < ctrMax) :
    ∃ t, exec (.pauseBroken p) s = .next t ∧ t.mac p = (s.mac p).broken ∧ bitAt (t.rcW (macBase p + 0xC)) 1 = true ∧
      t.event (20 + p) = true ∧ t.counter (macCtr p 14) = s.counter (macCtr p 14) + 1 ∧ OtherPorts p s t ∧
      RcOnly [macBase p + 0xC, evtStat (20 + p)] s t ∧ CountOnly [macCtr p 14] s t ∧
      LeavesAllBut [.rc, .count, .macA, .macB] s t := by
  have hp2 := lt_two_of_port hp
  obtain ⟨hmac, hother, hbit, hrc, hfollows⟩ := State.setMac_flag_spec hs.1 hp2 (s.mac p).broken
    (m := 0x2) (k := 1) (by decide) (by decide)
  have hcount (b : Nat) := hfollows.others.counter rfl b
  have hstores := hfollows.stores hs.1
  refine ⟨settle (s.pauseBreak p), run_port hs hp _, ?_⟩
  rw [State.pauseBreak_stopped hq]
  generalize (s.setMac p (s.mac p).broken).flag (macBase p + 0xC) 0x2 = u at *
  have ha' : u.counter (macCtr p 14) + 1 < ctrMax := by rw [hcount]; exact ha
  have hbump := State.bump_below ha'
  have hraise := (u.bump (macCtr p 14)).raise_frame (20 + p)
  refine ⟨?_, ?_, ?_, ?_, ?_, ?_, fun b hb => ?_, ?_⟩
  · exact (hraise.others.mac rfl rfl p).trans ((hbump.mac rfl rfl p).trans hmac)
  · rw [settle_rcW, State.raise_rcW_other _ _ (macFlags_ne_evtStat p (by omega)), hbump.rcW rfl]
    exact hbit
  · exact State.raise_event (State.bump_storesOk _ hstores) _
      (by rw [State.bump_member, hfollows.member]; exact srcPresent_port hp (by simp))
  · rw [settle_counter, hraise.others.counter rfl, State.bump_counter hstores _ _ ha', if_pos rfl, hcount]
  · exact hother.trans ((hbump.otherPorts rfl rfl p).trans (hraise.others.settled.otherPorts rfl rfl p))
  · exact ((hrc.widen (by simp)).trans (hbump.rcOnly rfl)).raise (by simp)
  · rw [settle_counter, hraise.others.counter rfl, State.bump_countOnly hstores ha' b hb, hcount]
  · exact (((hfollows.others.widen (by decide)).trans (hbump.widen (by decide))).trans
      (hraise.others.widen (by decide))).settled

end

/-- Settles O47: each clause is the lemma of its command. -/
theorem pauseAndPfc : Obligations.PauseAndPfc := by
  intro s p hs hp
  refine ⟨fun quanta hu hw hh hen hc hr ha => ?_, fun enables times hu hw hh hen hc hr ha => ?_,
    fun k _ => pauseExpiry_restarts hs hp k, fun hq ha => ?_, setMac_completes hp (run_port hs hp _)⟩
  · obtain ⟨t, hexec, hmac, hrest⟩ := pauseRx_stops hs hp hu hw hh hen hc hr ha
    exact ⟨t, hexec, by rw [hmac], by rw [hmac], hrest⟩
  · intro on off hany
    obtain ⟨t, hexec, hmac, hrest⟩ := pfcRx_stops hs hp hu hw hh hen hc hr ha rfl rfl hany
    exact ⟨t, hexec, by rw [hmac], by rw [hmac], hrest⟩
  · obtain ⟨t, hexec, hmac, hrest⟩ := pauseBroken_breaks hs hp hq ha
    exact ⟨t, hexec, by rw [hmac]; rfl, by rw [hmac]; rfl, by rw [hmac]; rfl, hrest⟩

end Sys2Proof.Machine

/-! SUPPORT. The MDIO master's transactions, and the verification of preemption (R85, R87, R97). -/

namespace Sys2Proof.Machine

/-! ### Software's transactions (R85) -/

section
variable {s : State}

theorem State.present_mdioCmd (s : State) : s.present 0x3104 = some (rowWO 0x104 0xFFFF07FF) :=
  State.present_at (b := bPMU) rfl rfl rfl rfl

theorem State.woAct_mdioCmd (s : State) (d : Word) : s.woAct 0x3104 d = s.mdioCommand d := rfl

theorem State.write32_mdioCmd (q : Req) (d : Word) :
    s.write32 q .normal 0x3104 d = s.mdioCommand (d &&& 0xFFFF07FF) :=
  (State.write32_wo s.present_mdioCmd (kindFault_wo_taken (.inl rfl) 0x104 0xFFFF07FF (by decide)) rfl rfl
    (by decide)).trans (s.woAct_mdioCmd _)

theorem exec_mdioCommand (hs : Ready s) (q : Req) (d : Word) :
    exec (.mdioCommand ⟨q, .normal, d⟩) s = .next (settle (s.mdioCommand (d &&& 0xFFFF07FF))) := by
  rw [← State.write32_mdioCmd q d]
  exact run_ready hs _

/-- A new queue of the master. -/
theorem mdio_frame (s : State) (l : List MdioReq) : Follows [.mdio] s { s with mdio := l } :=
  (Follows.refl s).updStores rfl rfl rfl rfl id fun q hq => by
    cases q <;> first | rfl | exact absurd (List.elem_iff.mp rfl) hq

theorem mdioCommand_queues (hs : Ready s) (q : Req) (d : Word) (hfree : softwareBusy s.mdio = false) :
    ∃ t, exec (.mdioCommand ⟨q, .normal, d⟩) s = .next t ∧
      t.mdio = s.mdio ++ [.software (d &&& 0xFFFF07FF) (s.rwW 0x3108).toNat] ∧ LeavesAllBut [.mdio] s t := by
  have hqueue (w : Word) : s.mdioCommand w = { s with mdio := s.mdio ++ [.software w (s.rwW 0x3108).toNat] } := by
    unfold State.mdioCommand
    simp [hfree]
  refine ⟨_, exec_mdioCommand hs q d, ?_⟩
  rw [hqueue]
  exact ⟨rfl, (mdio_frame s _).others.settled⟩

theorem mdioCommand_collides (hs : Ready s) (q : Req) (d : Word) (hbusy : softwareBusy s.mdio = true) :
    ∃ t, exec (.mdioCommand ⟨q, .normal, d⟩) s = .next t ∧ bitAt (t.rcW 0x310C) 2 = true ∧ t.mdio = s.mdio ∧
      RcOnly [0x310C] s t ∧ LeavesAllBut [.rc] s t := by
  have hflag (w : Word) : s.mdioCommand w = s.flag 0x310C 0x4 := if_pos hbusy
  refine ⟨_, exec_mdioCommand hs q d, ?_⟩
  rw [hflag]
  refine ⟨?_, State.flag_mdio s 0x310C 0x4, (RcOnly.refl _ s).flag (by simp), (s.flag_others 0x310C 0x4).settled⟩
  rw [settle_rcW, State.flag_rcW hs.1, if_pos rfl]
  exact bitAt_or _ 2 4 (by decide) (by decide)

/-- What a software transaction that ends leaves: DONE and its event beside what it moved. -/
theorem mdioDone_flags {o : Host.Outcome State Fault Refusal} {u : State} {l : List Part} (hu : Follows l s u)
    (hs : Ready s) (hrc : l.elem .rc = false) (ho : o = .next (settle (u.flagRaise 0x310C 0x2 24))) :
    ∃ t, o = .next t ∧ t.mdio = u.mdio ∧ (∀ k, t.rwW k = u.rwW k) ∧ bitAt (t.rcW 0x310C) 1 = true ∧ t.event 24 = true ∧
      (∀ x ∈ u.out, x ∈ t.out) ∧ RcOnly [0x310C, evtStat 24] s t ∧ LeavesAllBut (.rc :: l) s t := by
  have hstores := hu.stores hs.1
  have hflag := State.flagRaise_frame u 0x310C 0x2 24
  refine ⟨_, ho, hflag.others.keeps .mdio rfl, hflag.others.rwW rfl,
    State.flagRaise_bit hstores (by decide) (by decide) (by decide),
    State.flagRaise_event hstores _ _ _ (by rw [hu.member]; rfl), fun x hx => ?_,
    (hu.others.rcOnly hrc).flagRaise (by simp) (by simp), ?_⟩
  · exact List.mem_append_left _ (hflag.out.subset hx)
  · exact ((hu.others.widen (List.subset_cons_self _ _)).trans (hflag.others.widen (by simp))).settled

theorem mdioDone_head (hs : Ready s) (v : Nat) : exec (.mdioDone v) s = .next (settle (s.mdioDone v)) :=
  runPowered_ready hs _

theorem mdioDone_softwareRead (hs : Ready s) (v : Nat) {c : Word} {d : Nat} {rest : List MdioReq}
    (hq : s.mdio = .software c d :: rest) (hread : bitAt c 10 = true) :
    ∃ t, exec (.mdioDone v) s = .next t ∧ t.mdio = rest ∧ t.rwW 0x3108 = toWord (v % 65536) ∧
      bitAt (t.rcW 0x310C) 1 = true ∧ t.event 24 = true ∧
      OutItem.mdioRead (fld c 0 5) (fld c 5 5) (fld c 16 16) ∈ t.out ∧ (∀ k, k ≠ 0x3108 → t.rwW k = s.rwW k) ∧
      RcOnly [0x310C, evtStat 24] s t ∧ LeavesAllBut [.mdio, .rw, .rc] s t := by
  have hstart : Follows [.mdio, .rw] s { s with mdio := rest } :=
    (mdio_frame s rest).widen (by simp)
  have hmoved : Follows [.mdio, .rw] s ((({ s with mdio := rest } : State).setRw 0x3108 (toWord (v % 65536))).emit
      (.mdioRead (fld c 0 5) (fld c 5 5) (fld c 16 16))) :=
    State.emit_follows _ _ (State.setRw_follows _ _ _ (by simp) hstart)
  have hdone : s.mdioDone v = ((({ s with mdio := rest } : State).setRw 0x3108 (toWord (v % 65536))).emit
      (.mdioRead (fld c 0 5) (fld c 5 5) (fld c 16 16))).flagRaise 0x310C 0x2 24 := by
    unfold State.mdioDone
    rw [hq]
    simp only [State.mdioSoftware, hread, if_true]
  have hword (k : Nat) :=
    State.setRw_rwW (s := { s with mdio := rest }) (hstart.stores hs.1) 0x3108 k (toWord (v % 65536))
  obtain ⟨t, hexec, hmdio, hrw, hbit, hevent, hout, hrc, hparts⟩ :=
    mdioDone_flags hmoved hs rfl ((mdioDone_head hs v).trans (by rw [hdone]))
  refine ⟨t, hexec, hmdio, ?_, hbit, hevent, hout _ (List.mem_append_right _ List.mem_cons_self), fun k hk => ?_, hrc,
    hparts.widen (by decide)⟩
  · exact (hrw _).trans ((hword _).trans (if_pos rfl))
  · exact (hrw k).trans ((hword k).trans (if_neg hk))

theorem mdioDone_softwareWrite (hs : Ready s) (v : Nat) {c : Word} {d : Nat} {rest : List MdioReq}
    (hq : s.mdio = .software c d :: rest) (hread : bitAt c 10 = false) :
    ∃ t, exec (.mdioDone v) s = .next t ∧ t.mdio = rest ∧
      OutItem.mdio (fld c 0 5) (fld c 5 5) (fld c 16 16) d ∈ t.out ∧ bitAt (t.rcW 0x310C) 1 = true ∧ t.event 24 = true ∧
      RcOnly [0x310C, evtStat 24] s t ∧ LeavesAllBut [.mdio, .rc] s t := by
  have hmoved : Follows [.mdio] s (({ s with mdio := rest } : State).emit
      (.mdio (fld c 0 5) (fld c 5 5) (fld c 16 16) d)) :=
    State.emit_follows _ _ (mdio_frame s rest)
  have hdone : s.mdioDone v = (({ s with mdio := rest } : State).emit
      (.mdio (fld c 0 5) (fld c 5 5) (fld c 16 16) d)).flagRaise 0x310C 0x2 24 := by
    unfold State.mdioDone
    rw [hq]
    simp only [State.mdioSoftware, hread, Bool.false_eq_true, if_false]
  obtain ⟨t, hexec, hmdio, -, hbit, hevent, hout, hrc, hparts⟩ :=
    mdioDone_flags hmoved hs rfl ((mdioDone_head hs v).trans (by rw [hdone]))
  exact ⟨t, hexec, hmdio, hout _ (List.mem_append_right _ List.mem_cons_self), hbit, hevent, hrc,
    hparts.widen (by decide)⟩

end

/-! ### Script writes that end (R87) -/

section
variable {s : State}

theorem State.mdioDone_script {v p dev reg d : Nat} {rest : List MdioReq} (hq : s.mdio = .script p dev reg d :: rest) :
    s.mdioDone v = ({ s with mdio := rest } : State).mdioScript p dev reg d := by
  unfold State.mdioDone
  rw [hq]

/-- Once the last write is out the lane is set to the port's rung; where that is not 1G nothing is advertised. -/
theorem State.laneSet_fast {p : Nat} (hg : (s.mac p).goal ≠ 3) :
    s.laneSet p = s.setMac p { s.mac p with rung := (s.mac p).goal, target := none } :=
  if_neg fun h => hg h.1

/-- A transaction of a port that ends: what it put out, and what it makes of the port. -/
theorem mdio_setMac_completes {o : Host.Outcome State Fault Refusal} {p : Nat} (hp : p < 2) {rest : List MdioReq}
    {x : OutItem} {v : Mac} (ho : o = .next (settle ((({ s with mdio := rest } : State).emit x).setMac p v))) :
    ∃ t, o = .next t ∧ t.mdio = rest ∧ t.mac p = v ∧ OtherPorts p s t ∧ t.out = s.out ++ [x] ++ sentMsgs s ∧
      LeavesAllBut [.mdio, .macA, .macB] s t := by
  have hput : Follows [.mdio] s (({ s with mdio := rest } : State).emit x) := State.emit_follows _ _ (mdio_frame s rest)
  refine ⟨_, ho, State.setMac_mdio _ _ _, State.setMac_mac _ _ _, State.setMac_otherPorts _ hp _, ?_, ?_⟩
  · exact settle_out (State.setMac_out _ p v) (State.setMac_due _ p v) (State.setMac_pci _ p v)
  · exact ((hput.others.widen (by decide)).trans ((State.setMac_frame _ p v).others.widen (by decide))).settled

theorem mdioDone_lastScript (hs : Ready s) {v p dev reg d : Nat} {rest : List MdioReq}
    (hq : s.mdio = .script p dev reg d :: rest) (hp : p < 2) (hlast : scripting p rest = false)
    (hg : (s.mac p).goal ≠ 3) :
    ∃ t, exec (.mdioDone v) s = .next t ∧ t.mdio = rest ∧
      t.mac p = { s.mac p with rung := (s.mac p).goal, target := none } ∧ OtherPorts p s t ∧
      t.out = s.out ++ [.mdio (fld (s.macW p 0) 8 5) dev reg d] ++ sentMsgs s ∧ LeavesAllBut [.mdio, .macA, .macB] s t := by
  have hdone : s.mdioDone v = (({ s with mdio := rest } : State).emit (.mdio (fld (s.macW p 0) 8 5) dev reg d)).setMac p
      { s.mac p with rung := (s.mac p).goal, target := none } := by
    rw [State.mdioDone_script hq, State.mdioScript]
    simp only [hlast, Bool.false_eq_true, if_false]
    exact State.laneSet_fast hg
  exact mdio_setMac_completes hp ((mdioDone_head hs v).trans (by rw [hdone]))

theorem mdioDone_scriptGoesOn (hs : Ready s) {v p dev reg d : Nat} {rest : List MdioReq}
    (hq : s.mdio = .script p dev reg d :: rest) (hmore : scripting p rest = true) :
    ∃ t, exec (.mdioDone v) s = .next t ∧ t.mdio = rest ∧
      t.out = s.out ++ [.mdio (fld (s.macW p 0) 8 5) dev reg d] ++ sentMsgs s ∧ LeavesAllBut [.mdio] s t := by
  have hdone : s.mdioDone v = ({ s with mdio := rest } : State).emit (.mdio (fld (s.macW p 0) 8 5) dev reg d) := by
    rw [State.mdioDone_script hq, State.mdioScript]
    exact if_pos hmore
  refine ⟨_, mdioDone_head hs v, ?_⟩
  rw [hdone]
  exact ⟨rfl, settle_out rfl rfl rfl, LeavesAllBut.settled (mdio_frame s rest).others⟩

end

/-! ### Verification of preemption (R97) -/

section
variable {s : State} {p : Nat}

theorem verifySend_sends (hs : Ready s) (hp : p < numPorts s.member) (hv : (s.mac p).verify = 1)
    (ht : (s.mac p).verifyTries < 3) :
    ∃ t, exec (.verifySend p) s = .next t ∧ t.mac p = { s.mac p with verifyTries := (s.mac p).verifyTries + 1 } ∧
      t.out = s.out ++ [.verify p] ++ sentMsgs s ∧ OtherPorts p s t ∧ LeavesAllBut [.macA, .macB] s t := by
  have hsend : s.verifySend p =
      (s.setMac p { s.mac p with verifyTries := (s.mac p).verifyTries + 1 }).emit (.verify p) :=
    (if_pos hv).trans (if_pos ht)
  refine ⟨_, run_port hs hp _, ?_⟩
  rw [hsend]
  refine ⟨s.setMac_mac p _, ?_, s.setMac_otherPorts (lt_two_of_port hp) _,
    LeavesAllBut.settled (s.setMac_frame p _).others⟩
  exact settle_out (by rw [State.emit_out, State.setMac_out]) (s.setMac_due p _) (s.setMac_pci p _)

theorem verifySend_fails (hs : Ready s) (hp : p < numPorts s.member) (hv : (s.mac p).verify = 1)
    (ht : 3 ≤ (s.mac p).verifyTries) :
    ∃ t, exec (.verifySend p) s = .next t ∧ t.mac p = { s.mac p with verify := 3 } ∧
      bitAt (t.rcW (macBase p + 0xC)) 2 = true ∧ t.event (18 + p) = true ∧ OtherPorts p s t ∧
      RcOnly [macBase p + 0xC, evtStat (18 + p)] s t ∧ LeavesAllBut [.rc, .macA, .macB] s t := by
  have hp2 := lt_two_of_port hp
  obtain ⟨hmac, hother, hbit, hrc, hfollows⟩ := State.setMac_flag_spec hs.1 hp2 { s.mac p with verify := 3 }
    (m := 0x4) (k := 2) (by decide) (by decide)
  have hfail : s.verifySend p = ((s.setMac p { s.mac p with verify := 3 }).flag (macBase p + 0xC) 0x4).raise (18 + p) :=
    (if_pos hv).trans (if_neg (Nat.not_lt.mpr ht))
  refine ⟨_, run_port hs hp _, ?_⟩
  rw [hfail]
  generalize (s.setMac p { s.mac p with verify := 3 }).flag (macBase p + 0xC) 0x4 = u at *
  have hraise := u.raise_frame (18 + p)
  refine ⟨(hraise.others.mac rfl rfl p).trans hmac, ?_, ?_, hother.trans (hraise.others.settled.otherPorts rfl rfl p),
    (hrc.widen (by simp)).raise (by simp), (hfollows.others.trans (hraise.others.widen (by decide))).settled⟩
  · rw [settle_rcW, State.raise_rcW_other _ _ (macFlags_ne_evtStat p (by omega))]
    exact hbit
  · exact State.raise_event (hfollows.stores hs.1) _ (by rw [hfollows.member]; exact srcPresent_port hp (by simp))

theorem verifyResponse_activates (hs : Ready s) (hp : p < numPorts s.member) (hv : (s.mac p).verify = 1) :
    ∃ t, exec (.verifyResponse p) s = .next t ∧ t.mac p = { s.mac p with verify := 2 } ∧ OtherPorts p s t ∧
      LeavesAllBut [.macA, .macB] s t := by
  have hset : s.verifyResponse p = s.setMac p { s.mac p with verify := 2 } := if_pos hv
  exact setMac_completes hp (hset ▸ run_port hs hp _)

theorem reverify_restarts (hs : Ready s) (hp : p < numPorts s.member) (q : Req) (hu : (s.mac p).up = true) :
    ∃ t, exec (.reverify p q) s = .next t ∧
      t.mac p = { s.mac p with verify := verifyStart (s.macW p 0x20), verifyTries := 0 } ∧ OtherPorts p s t ∧
      LeavesAllBut [.macA, .macB] s t := by
  have hset : s.reverify p = s.setMac p { s.mac p with verify := verifyStart (s.macW p 0x20), verifyTries := 0 } :=
    if_pos hu
  exact setMac_completes hp ((run_macCtl hs hp q 1).trans (by rw [State.macCtl_reverify, hset]))

theorem holdEnd_ends (hs : Ready s) (hp : p < numPorts s.member) (q : Req) :
    ∃ t, exec (.holdEnd p q) s = .next t ∧ t.mac p = { s.mac p with hold := false } ∧ OtherPorts p s t ∧
      LeavesAllBut [.macA, .macB] s t :=
  setMac_completes hp ((run_macCtl hs hp q 4).trans (by rw [State.macCtl_holdEnd]))

end

/-- Settles O44: each clause is the lemma of its command. -/
theorem mdioAndPreemption : Obligations.MdioAndPreemption :=
  ⟨fun _ hs => ⟨fun q d hfree => mdioCommand_queues hs q d hfree, fun q d hbusy => mdioCommand_collides hs q d hbusy,
    fun v _ _ _ hq hread => mdioDone_softwareRead hs v hq hread,
    fun v _ _ _ hq hread => mdioDone_softwareWrite hs v hq hread,
    fun _ _ _ _ _ _ hq hp hlast hg => mdioDone_lastScript hs hq hp hlast hg,
    fun _ _ _ _ _ _ hq hmore => mdioDone_scriptGoesOn hs hq hmore⟩,
    fun _ _ hs hp => ⟨fun hv ht => verifySend_sends hs hp hv ht, fun hv ht => verifySend_fails hs hp hv ht,
      fun hv => verifyResponse_activates hs hp hv, fun q hu => reverify_restarts hs hp q hu,
      fun q => holdEnd_ends hs hp q⟩⟩

end Sys2Proof.Machine

/-! SUPPORT. Ports that come up, go down and retrain: which RC bits the operations on the way keep, what a port holds once it
has gone down or changes its rung, and the commands (R86 to R91, R231). -/

namespace Sys2Proof.Machine

/-! ### Going down clears no RC bit (R60, R91, R174) -/

section
variable {s : State}

theorem State.setPath_raises (s : State) (c p st : Nat) : Raises s (s.setPath c p st) := by
  unfold State.setPath
  exact .ite (fun _ => .refl s) fun _ => ((s.setDpc_frame c _).raises rfl).trans (State.flagRaise_raises _ _ _ _)

theorem State.pathsDown_raises (s : State) (p : Nat) : Raises s (s.pathsDown p) :=
  .foldl (fun t c => t.setPath_raises c p 3) s _

theorem State.unsync_raises (s : State) (i : Nat) : Raises s (s.unsync i) := by
  unfold State.unsync
  exact .ite (fun _ => ((s.setInst_frame i _).raises rfl).trans (State.raise_raises _ _)) fun _ => .refl s

theorem State.coastAt_raises (s : State) (f : Int) : Raises s (s.coastAt f) := by
  have hmod (g : Mcr → Mcr) : Raises s (s.modMcr g) := (s.modMcr_frame g).raises rfl
  unfold State.coastAt
  split
  case h_5 | h_6 | h_7 => exact ((hmod _).trans (State.flag_raises _ _ _)).trans (State.raise_raises _ _)
  all_goals exact hmod _

theorem State.refLoss_raises (s : State) : Raises s s.refLoss := by
  unfold State.refLoss
  exact .ite (fun _ => .refl s) fun _ => .ite (fun _ => (s.modMcr_frame _).raises rfl) fun _ => s.coastAt_raises _

theorem State.ptpPortDown_raises (s : State) (p i : Nat) : Raises s (s.ptpPortDown p i) := by
  unfold State.ptpPortDown
  refine .ite (fun _ => ?_) fun _ => .refl s
  have hset := (s.setInst_frame i (if p = 0 then { s.inst i with stateA := 0, asCapA := false }
    else { s.inst i with stateB := 0, asCapB := false })).raises rfl
  refine .ite (fun _ => ?_) fun _ => hset
  exact .ite (fun _ => (hset.trans (State.unsync_raises _ i)).trans (State.refLoss_raises _)) fun _ =>
    hset.trans (State.unsync_raises _ i)

theorem State.ftxDone_raises (s : State) (f : TxFrame) (status : Nat) : Raises s (s.ftxDone f status) :=
  (State.ftxDone_follows s f status (fun _ k => k) (.refl s)).raises rfl

/-- What follows a port's own part of going down. -/
theorem State.takeDown_raises (s : State) (p : Nat) : Raises (s.portFall p) (s.takeDown p) := by
  have hflag (t : State) : Raises t (if s.bothLost p then t.flag 0x3800C 0x4 else t) :=
    .ite (fun _ => t.flag_raises _ _) fun _ => .refl t
  have hdone (t : State) : Raises t ((s.mac p).hostWaiting.foldl (fun x f => x.ftxDone f 0x07) t) :=
    .foldl (fun x f => x.ftxDone_raises f 0x07) t _
  have hptp (t : State) : Raises t ((t.ptpPortDown p 0).ptpPortDown p 1) :=
    (t.ptpPortDown_raises p 0).trans (State.ptpPortDown_raises _ p 1)
  exact ((((State.pathsDown_raises _ p).trans (hflag _)).trans (hdone _)).trans (hptp _)).trans
    ((State.holdChecks_frame _).raises rfl)

end

/-! ### A port that goes down (R91) -/

section
variable {s : State} {p : Nat}

/-- What a port holds once it has gone down. -/
def Mac.fallen (m : Mac) : Mac :=
  { m.endStops with
    up := false, verify := 0, verifyTries := 0, hold := false, queues := [], cur := none, rem := none, window := true,
    creditA := 0, creditB := 0 }

/-- Apart from what the port holds, going down touches no port. -/
theorem State.takeDown_afterSet (s : State) (p : Nat) :
    Follows [.rc, .count, .tim, .mcr, .dpc, .ring] (s.setMac p (s.mac p).fallen) (s.takeDown p) := by
  have hcount := State.countBy_follows (lp := [.rc, .count, .tim, .mcr, .dpc, .ring]) (s.setMac p (s.mac p).fallen)
    (macCtr p 4) (s.mac p).discards (subParts_spec rfl) (.refl _)
  have hfall : Follows [.rc, .count, .tim, .mcr, .dpc, .ring] (s.setMac p (s.mac p).fallen) (s.portFall p) :=
    .ite (State.linkEvent_follows _ p (subParts_spec rfl) (State.bump_follows _ _ (subParts_spec rfl) hcount)) hcount
  have hpaths := State.pathsDown_follows _ p (subParts_spec rfl) hfall
  have hlost : Follows [.rc, .count, .tim, .mcr, .dpc, .ring] (s.setMac p (s.mac p).fallen)
      (if s.bothLost p then ((s.portFall p).pathsDown p).flag 0x3800C 0x4 else (s.portFall p).pathsDown p) :=
    .ite (State.flag_follows _ _ _ (subParts_spec rfl) hpaths) hpaths
  exact State.holdChecks_follows _ (subParts_spec rfl) <| State.ptpPortDown_follows _ p 1 (subParts_spec rfl) <|
    State.ptpPortDown_follows _ p 0 (subParts_spec rfl) <|
    .foldl (fun t f h => State.ftxDone_follows t f 0x07 (subParts_spec rfl) h) hlost _

theorem State.takeDown_mac (s : State) (p : Nat) : (s.takeDown p).mac p = (s.mac p).fallen :=
  ((s.takeDown_afterSet p).others.mac rfl rfl p).trans (s.setMac_mac p _)

theorem State.takeDown_otherPorts (s : State) (hp : p < 2) : OtherPorts p s (s.takeDown p) :=
  (s.setMac_otherPorts hp _).trans ((s.takeDown_afterSet p).others.otherPorts rfl rfl p)

theorem State.takeDown_mdio (s : State) (p : Nat) : (s.takeDown p).mdio = s.mdio :=
  ((s.takeDown_afterSet p).others.keeps .mdio rfl).trans (s.setMac_mdio p _)

theorem State.takeDown_appliedW (s : State) (p a : Nat) : (s.takeDown p).appliedW a = s.appliedW a :=
  ((s.takeDown_afterSet p).others.appliedW rfl a).trans (s.setMac_appliedW p _ a)

/-- A change of MAC_STAT.LINK shows in its flag and its event (R88). -/
theorem State.linkEvent_shows (hs : StoresOk s) (hp : p < numPorts s.member) :
    bitAt ((s.linkEvent p).rcW (macBase p + 0xC)) 0 = true ∧ (s.linkEvent p).event (16 + p) = true := by
  have hp2 := lt_two_of_port hp
  exact ⟨State.flagRaise_bit hs (macFlags_ne_evtStat p (by omega)) (by decide) (by decide),
    State.flagRaise_event hs _ _ _ (srcPresent_port hp (by simp))⟩

/-- The flag and the event of a port that was up when it went down. -/
theorem State.takeDown_shows (hs : StoresOk s) (hp : p < numPorts s.member) (hu : (s.mac p).up = true) :
    bitAt ((s.takeDown p).rcW (macBase p + 0xC)) 0 = true ∧ (s.takeDown p).event (16 + p) = true := by
  have hcount := State.countBy_follows (lp := [.rc, .count, .macA, .macB]) (s.setMac p (s.mac p).fallen) (macCtr p 4)
    (s.mac p).discards (subParts_spec rfl) (State.setMac_follows s p _ (subParts_spec rfl) (.refl s))
  have hbump := State.bump_follows _ (macCtr p 15) (subParts_spec rfl) hcount
  have hfall : s.portFall p =
      (((s.setMac p (s.mac p).fallen).countBy (macCtr p 4) (s.mac p).discards).bump (macCtr p 15)).linkEvent p := if_pos hu
  have hstores := hbump.stores hs
  obtain ⟨hbit, hevent⟩ := State.linkEvent_shows hstores (hp.trans_eq (congrArg numPorts hbump.member.symm))
  have hrest := s.takeDown_raises p
  rw [hfall] at hrest
  obtain ⟨-, hkept⟩ := hrest (State.flagRaise_raises _ _ _ _ hstores).1
  exact ⟨hkept _ _ hbit, hkept.event hevent⟩

theorem linkDown_falls (hs : Ready s) (hp : p < numPorts s.member) (hu : (s.mac p).up = true) :
    ∃ t, exec (.linkDown p) s = .next t ∧ t.mac p = { (s.mac p).fallen with lane := false } ∧
      bitAt (t.rcW (macBase p + 0xC)) 0 = true ∧ t.event (16 + p) = true ∧ OtherPorts p s t ∧
      LeavesAllBut [.rc, .count, .tim, .mcr, .macA, .macB, .dpc, .ring] s t := by
  have hp2 := lt_two_of_port hp
  obtain ⟨hbit, hevent⟩ := State.takeDown_shows hs.1 hp hu
  have hparts := (State.linkDown_follows s p (fun _ k => k) (.refl s)).others.settled
  have hdown : s.linkDown p = (s.takeDown p).setMac p { (s.mac p).fallen with lane := false } := by
    unfold State.linkDown State.modMac
    rw [if_pos hu, State.takeDown_mac]
  refine ⟨settle (s.linkDown p), runPowered_port hs hp _, ?_⟩
  rw [hdown] at hparts ⊢
  have hset := (s.takeDown p).setMac_frame p { (s.mac p).fallen with lane := false }
  exact ⟨State.setMac_mac _ p _, by rw [settle_rcW, hset.others.rcW rfl]; exact hbit,
    by rw [settle_event, hset.others.event rfl]; exact hevent,
    (s.takeDown_otherPorts hp2).trans ((s.takeDown p).setMac_otherPorts hp2 _), hparts⟩

end

/-! ### A port that comes up (R88) -/

section
variable {s : State} {p : Nat}

/-- What coming up settles of a port; scaling and the end of a change that DPC ordered leave it. -/
def Mac.link (m : Mac) : Bool × Bool × Bool × Bool × Nat × Nat :=
  (m.up, m.lane, m.window, m.retrain, m.verify, m.rung)

theorem State.setMac_link {v : Mac} (hv : v.link = (s.mac p).link) (k : Nat) :
    ((s.setMac p v).mac k).link = (s.mac k).link := by
  unfold State.setMac State.mac at *
  split_ifs at hv ⊢
  · exact hv
  · rfl
  · rfl
  · exact hv

theorem LeavesAllBut.link {ps : List Part} {t : State} (h : LeavesAllBut ps s t) (ha : ps.elem .macA = false)
    (hb : ps.elem .macB = false) (k : Nat) : (t.mac k).link = (s.mac k).link := congrArg Mac.link (h.mac ha hb k)

theorem State.overbook_link (s : State) (p k : Nat) : ((s.overbook p).mac k).link = (s.mac k).link := by
  have hset (b : Bool) (u : Option Nat) :
      ((s.setMac p { s.mac p with overbook := b, upshift := u }).mac k).link = (s.mac k).link :=
    State.setMac_link (by rfl) k
  unfold State.overbook
  dsimp only
  split
  · exact hset _ _
  · split
    · exact hset _ _
    · exact ((State.flagRaise_others _ _ _ _).link rfl rfl k).trans (hset _ _)

theorem State.resvShort_frame (s old : State) : Follows [.rc] s (s.resvShort old) :=
  .foldl (fun _ _ h => .ite (State.raise_follows _ _ (fun _ k => k) (State.flag_follows _ _ _ (fun _ k => k)
    (.foldl (fun _ _ hu => State.flag_follows _ _ _ (fun _ k => k) hu) h _))) h) (.refl s) _

theorem State.overbookPort_link (s : State) (p k : Nat) : ((s.overbookPort p).mac k).link = (s.mac k).link :=
  ((State.resvShort_frame (s.overbook p) s).others.link rfl rfl k).trans (s.overbook_link p k)

/-- A change that DPC ordered is over, before it shows. -/
def State.shiftDone (s : State) : State :=
  (({ s with dpc := { s.dpc with shifting := false, back := false } } : State).modMac s.dpc.shiftPort
    fun m => { m with dpcOrder := false }).clrHold

theorem State.shiftEnd_eq (s : State) : s.shiftEnd = s.shiftDone.flagRaise 0x3800C 0x8 51 := rfl

theorem State.shiftDone_frame (s : State) : Follows [.macA, .macB, .dpc] s s.shiftDone :=
  State.clrHold_follows _ (subParts_spec rfl) <| State.modMac_follows _ _ _ (subParts_spec rfl) <|
    Follows.mkRegs (.refl s) (fp := [.dpc]) (subParts_spec rfl) id fun q hq => by
      cases q <;> first | rfl | exact absurd (List.elem_iff.mp rfl) hq

theorem State.shiftDone_link (s : State) (k : Nat) : (s.shiftDone.mac k).link = (s.mac k).link := by
  have hset := State.setMac_link (s := { s with dpc := { s.dpc with shifting := false, back := false } })
    (p := s.dpc.shiftPort) (v := { s.mac s.dpc.shiftPort with dpcOrder := false }) rfl k
  have hhold := State.clrHold_follows _ (fun _ h => h) (.refl (({ s with
    dpc := { s.dpc with shifting := false, back := false } } : State).modMac s.dpc.shiftPort
      fun m => { m with dpcOrder := false }))
  exact (hhold.others.link rfl rfl k).trans hset

theorem State.shiftCheck_link (s : State) (k : Nat) : (s.shiftCheck.mac k).link = (s.mac k).link := by
  unfold State.shiftCheck
  split
  · rw [State.shiftEnd_eq, State.flagRaise_mac, State.shiftDone_link]
  · rfl

theorem State.overbook_raises (s : State) (p : Nat) : Raises s (s.overbook p) := by
  have hset (v : Mac) : Raises s (s.setMac p v) := (s.setMac_frame p v).raises rfl
  unfold State.overbook
  dsimp only
  split
  · exact hset _
  · exact .ite (fun _ => hset _) fun _ => (hset _).trans (State.flagRaise_raises _ _ _ _)

theorem State.resvShort_raises (s old : State) : Raises s (s.resvShort old) := by
  refine .foldl (fun t k => .ite (fun _ => ?_) fun _ => .refl t) s _
  exact ((Raises.foldl (fun u c => u.flag_raises _ _) t _).trans (State.flag_raises _ _ _)).trans (State.raise_raises _ _)

theorem State.shiftCheck_raises (s : State) : Raises s s.shiftCheck := by
  unfold State.shiftCheck
  refine .ite (fun _ => ?_) fun _ => .refl s
  rw [State.shiftEnd_eq]
  exact (s.shiftDone_frame.raises rfl).trans (State.flagRaise_raises _ _ _ _)

/-- What a port holds as it comes up with its lane. -/
def State.risen (s : State) (p : Nat) : Mac :=
  { s.mac p with
    lane := true, up := true, retrain := false, window := false, verify := verifyStart (s.macW p 0x20), verifyTries := 0 }

/-- A port that came up takes the latency of its rung, and one that was retraining restarts both hold counts (R176, R183). -/
def State.latencyTaken (s : State) (p : Nat) (retrain : Bool) : State :=
  if retrain then (s.latLoad p).clrHold else s.latLoad p

theorem State.latencyTaken_frame (s : State) (p : Nat) (b : Bool) : Follows [.rw, .dpc] s (s.latencyTaken p b) :=
  have hlat := State.latLoad_follows s p (subParts_spec rfl) (.refl s)
  .ite (State.clrHold_follows _ (subParts_spec rfl) hlat) hlat

/-- What follows a port's own part of coming up. -/
def State.comeUp (s : State) (p : Nat) (retrain : Bool) : State :=
  ((s.latencyTaken p retrain).overbookPort p).shiftCheck

theorem State.comeUp_link (s : State) (p : Nat) (b : Bool) : ((s.comeUp p b).mac p).link = (s.mac p).link := by
  unfold State.comeUp
  rw [State.shiftCheck_link, State.overbookPort_link]
  exact (s.latencyTaken_frame p b).others.link rfl rfl p

theorem State.comeUp_raises (s : State) (p : Nat) (b : Bool) : Raises s (s.comeUp p b) :=
  ((((s.latencyTaken_frame p b).raises rfl).trans (State.overbook_raises _ p)).trans (State.resvShort_raises _ _)).trans
    (State.shiftCheck_raises _)

theorem State.setMac_setMac (s : State) (p : Nat) (v w : Mac) : (s.setMac p v).setMac p w = s.setMac p w := by
  unfold State.setMac
  split <;> rfl

/-- The lane of a port has locked. -/
def State.laneUp (s : State) (p : Nat) : State := s.setMac p { s.mac p with lane := true }

theorem State.laneUp_mac (s : State) (p : Nat) : (s.laneUp p).mac p = { s.mac p with lane := true } := s.setMac_mac p _

theorem State.laneUp_macW (s : State) (p o : Nat) : (s.laneUp p).macW p o = s.macW p o := s.setMac_appliedW p _ _

theorem State.laneUp_phyOk (s : State) (p : Nat) : (s.laneUp p).phyOk p = s.phyOk p := by
  unfold State.phyOk
  rw [State.laneUp_macW, State.laneUp_macW, State.laneUp_mac]

theorem State.laneUp_portRise (hu : (s.mac p).up = false) :
    (s.laneUp p).portRise p = (s.setMac p (s.risen p)).linkEvent p := by
  unfold State.portRise
  simp only [State.laneUp_mac, hu, State.laneUp_macW, Bool.false_eq_true, if_false]
  rw [State.laneUp, State.setMac_setMac]
  rfl

theorem State.laneOn_awake (hd : s.down = false) (p : Nat) : s.laneOn p = true := by
  obtain ⟨-, hasleep⟩ := Bool.or_eq_false_iff.mp hd
  unfold State.laneOn
  simp [of_decide_eq_false hasleep]

theorem State.linkUp_rises (hs : Ready s) (hp : p < numPorts s.member) (hen : macEn (s.macW p 0) = true)
    (hphy : s.phyOk p = true) (hu : (s.mac p).up = false) (ht : (s.mac p).target = none)
    (hh : s.reg.hstop.getLsbD p = false) :
    s.linkUp p = ((s.setMac p (s.risen p)).linkEvent p).comeUp p (s.mac p).retrain := by
  have hport : portPresent s.member p = true := decide_eq_true hp
  have hlock : s.linkUp p = (s.laneUp p).portUp p := by
    unfold State.linkUp
    simp only [hen, hh, hport, ht, State.laneOn_awake hs.2 p, Bool.not_false, Option.isNone_none, Bool.and_true, if_true]
    rfl
  have hup : (s.laneUp p).portUp p = ((s.laneUp p).portRise p).comeUp p (s.mac p).retrain := by
    unfold State.portUp
    simp only [State.laneUp_macW, hen, State.laneUp_phyOk, hphy, State.laneUp_mac, hu, Bool.not_false, Bool.and_true,
      if_true]
    rfl
  rw [hlock, hup, State.laneUp_portRise hu]

theorem linkUp_comesUp (hs : Ready s) (hp : p < numPorts s.member) (hen : macEn (s.macW p 0) = true)
    (hphy : s.phyOk p = true) (hu : (s.mac p).up = false) (ht : (s.mac p).target = none)
    (hh : s.reg.hstop.getLsbD p = false) :
    ∃ t, exec (.linkUp p) s = .next t ∧ (t.mac p).link = (s.risen p).link ∧ bitAt (t.rcW (macBase p + 0xC)) 0 = true ∧
      t.event (16 + p) = true ∧ LeavesAllBut [.rw, .rc, .macA, .macB, .dpc] s t := by
  have hset := s.setMac_frame p (s.risen p)
  have hstores := hset.stores hs.1
  obtain ⟨hbit, hevent⟩ := State.linkEvent_shows hstores (hp.trans_eq (congrArg numPorts hset.member.symm))
  have hmac : ((s.setMac p (s.risen p)).linkEvent p).mac p = s.risen p :=
    (State.flagRaise_mac _ _ _ _ p).trans (s.setMac_mac p _)
  have hshown : StoresOk ((s.setMac p (s.risen p)).linkEvent p) := (State.flagRaise_raises _ _ _ _ hstores).1
  have hparts := (State.linkUp_follows s p (fun _ k => k) (.refl s)).others.settled
  refine ⟨settle (s.linkUp p), runPowered_port hs hp _, ?_⟩
  rw [State.linkUp_rises hs hp hen hphy hu ht hh] at hparts ⊢
  generalize (s.setMac p (s.risen p)).linkEvent p = u at *
  obtain ⟨-, hkept⟩ := u.comeUp_raises p (s.mac p).retrain hshown
  rw [settle_mac, settle_rcW, settle_event, u.comeUp_link, hmac]
  exact ⟨rfl, hkept _ _ hbit, hkept.event hevent, hparts⟩

end

/-! ### Changes of the running rung (R87, R90) -/

section
variable {s : State} {p : Nat}

/-- The script writes that a change to a rung queues. -/
def State.rungScript (s : State) (p r : Nat) : List MdioReq :=
  if mediaPhy (s.macW p 0) = true then (s.scriptOf p r).map (fun e => .script p e.1 e.2.1 e.2.2) else []

theorem State.rungScript_congr {t : State} (h : ∀ a, t.appliedW a = s.appliedW a) (p r : Nat) :
    t.rungScript p r = s.rungScript p r := by
  unfold State.rungScript State.scriptOf State.macW
  simp only [h]

theorem State.laneSet_frame (s : State) (p : Nat) : Follows [.macA, .macB] s (s.laneSet p) :=
  State.laneSet_follows s p (fun _ k => k) (.refl s)

theorem State.laneSet_mac (s : State) (p k : Nat) :
    (s.laneSet p).mac k = (s.setMac p { s.mac p with rung := (s.mac p).goal, target := none }).mac k := by
  unfold State.laneSet
  dsimp only
  split <;> rfl

theorem State.runScript_mdio (s : State) (p : Nat) : (s.runScript p).mdio = s.mdio ++ s.rungScript p (s.mac p).goal := by
  unfold State.runScript State.rungScript
  by_cases hm : mediaPhy (s.macW p 0) = true
  · by_cases hl : s.scriptOf p (s.mac p).goal = []
    · simp [hm, hl, (s.laneSet_frame p).others.keeps .mdio rfl]
    · simp [hm, hl]
  · simp [hm, (s.laneSet_frame p).others.keeps .mdio rfl]

/-- A port whose script runs waits with its target; without a script its lane is at the rung at once. -/
theorem State.runScript_mac (s : State) (p : Nat) :
    (s.runScript p).mac p = s.mac p ∨
      (s.runScript p).mac p = { s.mac p with rung := (s.mac p).goal, target := none } := by
  unfold State.runScript
  split
  · exact .inl rfl
  · exact .inr ((s.laneSet_mac p p).trans (s.setMac_mac p _))

theorem State.runScript_otherPorts (s : State) (hp : p < 2) : OtherPorts p s (s.runScript p) := by
  unfold State.runScript
  split
  · exact fun _ _ _ => rfl
  · exact fun k hk hne => (s.laneSet_mac p k).trans (s.setMac_otherPorts hp _ k hk hne)

/-- A port as its change to a rung begins. -/
def Mac.changing (m : Mac) (r : Nat) : Mac := { m with target := some r, retrain := true, lane := false }

/-- A change to a rung begun, its script not yet queued. -/
def State.rungAsked (s : State) (p r : Nat) : State :=
  ({ s.takeDown p with mdio := dropScript p (s.takeDown p).mdio } : State).setMac p (((s.takeDown p).mac p).changing r)

theorem State.rungAsked_mac (s : State) (p r : Nat) : (s.rungAsked p r).mac p = (s.mac p).fallen.changing r := by
  unfold State.rungAsked
  rw [State.setMac_mac, State.takeDown_mac]

theorem State.rungAsked_mdio (s : State) (p r : Nat) : (s.rungAsked p r).mdio = dropScript p s.mdio := by
  unfold State.rungAsked
  rw [State.setMac_mdio, State.takeDown_mdio]

theorem State.rungAsked_appliedW (s : State) (p r a : Nat) : (s.rungAsked p r).appliedW a = s.appliedW a := by
  unfold State.rungAsked
  rw [State.setMac_appliedW]
  exact s.takeDown_appliedW p a

theorem State.rungAsked_otherPorts (s : State) (hp : p < 2) (r : Nat) : OtherPorts p s (s.rungAsked p r) :=
  (s.takeDown_otherPorts hp).trans (State.setMac_otherPorts _ hp _)

/-- With the script queued a change to a rung clears the hard stop of its port and any upshift ordered. -/
theorem State.rungChange_eq (s : State) (p r : Nat) :
    s.rungChange p r = (((s.rungAsked p r).runScript p).clearHstop p).setMac p
      { (((s.rungAsked p r).runScript p).clearHstop p).mac p with upshift := none } := rfl

theorem State.clearHstop_mac (s : State) (n k : Nat) : (s.clearHstop n).mac k = s.mac k := rfl

/-- Once its change to a rung has begun a port is down, without a lane, and on its way to the rung or set to it. -/
theorem State.rungChange_port (s : State) (p r : Nat) :
    ((s.rungChange p r).mac p).up = false ∧ ((s.rungChange p r).mac p).retrain = true ∧
      ((s.rungChange p r).mac p).lane = false ∧ ((s.rungChange p r).mac p).goal = r ∧
      ((s.rungChange p r).mac p).upshift = none := by
  rw [State.rungChange_eq, State.setMac_mac, State.clearHstop_mac]
  obtain h | h := (s.rungAsked p r).runScript_mac p
  · rw [h, State.rungAsked_mac]; exact ⟨rfl, rfl, rfl, rfl, rfl⟩
  · rw [h, State.rungAsked_mac]; exact ⟨rfl, rfl, rfl, rfl, rfl⟩

theorem State.rungChange_mdio (s : State) (p r : Nat) :
    (s.rungChange p r).mdio = dropScript p s.mdio ++ s.rungScript p r := by
  have hgoal : ((s.rungAsked p r).mac p).goal = r := by rw [State.rungAsked_mac]; rfl
  rw [State.rungChange_eq, State.setMac_mdio, State.clearHstop_mdio, State.runScript_mdio, hgoal, State.rungAsked_mdio,
    State.rungScript_congr (s.rungAsked_appliedW p r)]

theorem State.rungChange_otherPorts (s : State) (hp : p < 2) (r : Nat) : OtherPorts p s (s.rungChange p r) := by
  rw [State.rungChange_eq]
  have hscript := (s.rungAsked_otherPorts hp r).trans ((s.rungAsked p r).runScript_otherPorts hp)
  exact hscript.trans (State.setMac_otherPorts (((s.rungAsked p r).runScript p).clearHstop p) hp _)

theorem State.clearHstop_hstop (s : State) (n : Nat) : (s.clearHstop n).reg.hstop.getLsbD n = false := by
  unfold State.clearHstop
  rw [BitVec.getLsbD_and, BitVec.getLsbD_not, BitVec.getLsbD_ofNat, Nat.testBit_two_pow_self]
  by_cases hn : n < 24 <;> simp [hn]

theorem State.rungChange_hstop (s : State) (p r : Nat) : (s.rungChange p r).reg.hstop.getLsbD p = false := by
  unfold State.rungChange
  rw [State.modMac_hstop]
  exact State.clearHstop_hstop _ p

theorem retrain_changes (hs : Ready s) (hp : p < numPorts s.member) (q : Req) :
    ∃ t, exec (.retrain p q) s = .next t ∧ (t.mac p).up = false ∧ (t.mac p).retrain = true ∧ (t.mac p).lane = false ∧
      (t.mac p).goal = (s.mac p).goal ∧ (t.mac p).upshift = none ∧ t.reg.hstop.getLsbD p = false ∧ OtherPorts p s t ∧
      t.mdio = dropScript p s.mdio ++ s.rungScript p (s.mac p).goal ∧
      LeavesAllBut [.rc, .count, .hstop, .tim, .mcr, .macA, .macB, .mdio, .dpc, .ring] s t := by
  have hretrain : s.retrainPort p = s.rungChange p (s.mac p).goal := if_pos (decide_eq_true hp)
  obtain ⟨hup, hmark, hlane, hgoal, hshift⟩ := s.rungChange_port p (s.mac p).goal
  refine ⟨settle (s.rungChange p (s.mac p).goal), ?_, hup, hmark, hlane, hgoal, hshift,
    s.rungChange_hstop p _, s.rungChange_otherPorts (lt_two_of_port hp) _, s.rungChange_mdio p _, ?_⟩
  · exact (run_macCtl hs hp q 2).trans (by rw [State.macCtl_retrain, hretrain])
  · exact (State.rungChange_follows s p _ (fun _ k => k) (.refl s)).others.settled

end

/-! ### Polls of the PHY, and scripts that fail (R86, R87) -/

section
variable {s : State} {p : Nat}

theorem phyPoll_queues (hs : Ready s) (hp : p < numPorts s.member) {ms : Nat} (hm : mediaPhy (s.macW p 0) = true)
    (hen : bitAt (s.macW p 0x40) 0 = true) (hdue : max 1 (fld (s.macW p 0x40) 8 8) ≤ ms)
    (hscript : scripting p s.mdio = false) :
    ∃ t, exec (.phyPoll p ms) s = .next t ∧ t.mdio = s.mdio ++ [.poll p] ∧ LeavesAllBut [.mdio] s t := by
  have hpoll : s.phyPoll p ms = { s with mdio := s.mdio ++ [.poll p] } := by
    unfold State.phyPoll
    simp only [hm, hen, decide_eq_true hdue, hscript, Bool.not_false, Bool.and_true, if_true]
  refine ⟨_, runPowered_port hs hp _, ?_⟩
  rw [hpoll]
  exact ⟨rfl, (mdio_frame s _).others.settled⟩

/-- Without its lane a port comes up no more than it goes down. -/
theorem State.portUp_noLane (h : (s.mac p).lane = false) : s.portUp p = s := by
  unfold State.portUp
  simp [h]

theorem mdioDone_poll (hs : Ready s) (hp : p < numPorts s.member) (v : Nat) {rest : List MdioReq}
    (hq : s.mdio = .poll p :: rest) (hu : (s.mac p).up = false) (hl : (s.mac p).lane = false) :
    ∃ t, exec (.mdioDone v) s = .next t ∧ t.mdio = rest ∧
      t.mac p = { s.mac p with phy := v.testBit (fld (s.macW p 0x40) 16 4) } ∧ OtherPorts p s t ∧
      t.out = s.out ++ [.mdioRead (fld (s.macW p 0) 8 5) (fld (s.macW p 0x40) 1 5) (fld (s.macW p 0x44) 0 16)] ++
        sentMsgs s ∧
      LeavesAllBut [.mdio, .macA, .macB] s t := by
  have hhead : s.mdioDone v = ({ s with mdio := rest } : State).pollDone p v := by
    unfold State.mdioDone
    rw [hq]
  have hup : (({ s with mdio := rest } : State).mac p).up = false := hu
  have hdone : s.mdioDone v = (({ s with mdio := rest } : State).emit
      (.mdioRead (fld (s.macW p 0) 8 5) (fld (s.macW p 0x40) 1 5) (fld (s.macW p 0x44) 0 16))).setMac p
      { s.mac p with phy := v.testBit (fld (s.macW p 0x40) 16 4) } := by
    rw [hhead, State.pollDone]
    simp only [hup, Bool.and_false, Bool.false_and, Bool.false_eq_true, if_false]
    exact State.portUp_noLane (by rw [State.modMac, State.setMac_mac]; exact hl)
  exact mdio_setMac_completes (lt_two_of_port hp) ((mdioDone_head hs v).trans (by rw [hdone]))

theorem State.enterHstop_event (hs : StoresOk s) {n : Nat} (h : s.reg.hstop.getLsbD n = false) :
    (s.enterHstop n).event 10 = true := by
  have hset : StoresOk { s with reg := { s.reg with hstop := s.reg.hstop ||| BitVec.ofNat 24 (2 ^ n) } } := hs
  unfold State.enterHstop
  rw [if_neg (by simp [h])]
  exact State.raise_event hset 10 rfl

theorem State.enterHstop_rcOnly (s : State) (n : Nat) : RcOnly [evtStat 10] s (s.enterHstop n) := by
  unfold State.enterHstop
  split
  · exact .refl _ s
  · exact fun a ha => State.raise_rcW_other 10 a (by simpa using ha)

/-- A script given up: what is left of it withdrawn, MDIO_ERR and RETRAIN_FAIL set with their event. -/
def State.scriptFailed (s : State) (p : Nat) : State :=
  ({ s with mdio := dropScript p s.mdio } : State).flagRaise (macBase p + 0xC) 0xA0 (25 + p)

theorem State.scriptFailed_frame (s : State) (p : Nat) : Follows [.rc, .mdio] s (s.scriptFailed p) :=
  State.flagRaise_follows _ _ _ _ (subParts_spec rfl) ((mdio_frame s _).widen (subParts_spec rfl))

theorem State.scriptFailed_shows (hs : StoresOk s) (hp : p < numPorts s.member) :
    bitAt ((s.scriptFailed p).rcW (macBase p + 0xC)) 5 = true ∧
      bitAt ((s.scriptFailed p).rcW (macBase p + 0xC)) 7 = true ∧
      (s.scriptFailed p).event (25 + p) = true ∧ RcOnly [macBase p + 0xC, evtStat (25 + p)] s (s.scriptFailed p) := by
  have hp2 := lt_two_of_port hp
  have hdrop := mdio_frame s (dropScript p s.mdio)
  have hne := macFlags_ne_evtStat p (n := 25 + p) (by omega)
  exact ⟨State.flagRaise_bit (hdrop.stores hs) hne (by decide) (by decide),
    State.flagRaise_bit (hdrop.stores hs) hne (by decide) (by decide),
    State.flagRaise_event (hdrop.stores hs) _ _ _ (srcPresent_port hp (by simp)),
    (hdrop.others.rcOnly rfl).flagRaise (by simp) (by simp)⟩

theorem retrainFail_stops (hs : Ready s) (hp : p < numPorts s.member) (hscript : scripting p s.mdio = true)
    (hd : (s.mac p).dpcOrder = false) (hsh : s.dpc.shifting = false) :
    ∃ t, exec (.retrainFail p) s = .next t ∧ t.mdio = dropScript p s.mdio ∧ bitAt (t.rcW (macBase p + 0xC)) 5 = true ∧
      bitAt (t.rcW (macBase p + 0xC)) 7 = true ∧ t.event (25 + p) = true ∧ t.reg.hstop.getLsbD p = true ∧
      (s.reg.hstop.getLsbD p = false → t.event 10 = true) ∧
      RcOnly [macBase p + 0xC, evtStat (25 + p), evtStat 10] s t ∧ LeavesAllBut [.rc, .hstop, .mdio] s t := by
  have hp2 := lt_two_of_port hp
  obtain ⟨herr, hfail, hevent, hrc⟩ := State.scriptFailed_shows hs.1 hp
  have hframe := s.scriptFailed_frame p
  have hmdio : (s.scriptFailed p).mdio = dropScript p s.mdio := (State.flagRaise_others _ _ _ _).keeps .mdio rfl
  have hretrain : s.retrainFail p = (s.scriptFailed p).enterHstop p := by
    unfold State.retrainFail
    simp only [hscript, hd, hsh, Bool.false_eq_true, false_and, if_true, if_false]
    rfl
  refine ⟨_, runPowered_port hs hp _, ?_⟩
  rw [hretrain]
  generalize s.scriptFailed p = u at *
  have hstop := u.enterHstop_frame p
  obtain ⟨-, hkept⟩ := u.enterHstop_raises p (hframe.stores hs.1)
  refine ⟨(hstop.others.keeps .mdio rfl).trans hmdio, hkept _ _ herr, hkept _ _ hfail, hkept.event hevent,
    u.enterHstop_hstop (by omega), fun hh => u.enterHstop_event (hframe.stores hs.1) ?_,
    (hrc.widen (by simp)).trans ((u.enterHstop_rcOnly p).widen (by simp)), ?_⟩
  · rw [hframe.others.keeps .hstop rfl]
    exact hh
  · exact ((hframe.others.widen (by decide)).trans (hstop.others.widen (by decide))).settled

end

/-- Settles O45: each clause is the lemma of its command. -/
theorem portsComeUpAndGoDown : Obligations.PortsComeUpAndGoDown := by
  intro s p hs hp
  refine ⟨fun ms hm hen hdue hscript => phyPoll_queues hs hp hm hen hdue hscript,
    fun v rest hq hu hl => mdioDone_poll hs hp v hq hu hl, fun hen hphy hu ht hh => ?_, fun hu => ?_,
    fun q => retrain_changes hs hp q, fun hscript hd hsh => retrainFail_stops hs hp hscript hd hsh⟩
  · obtain ⟨t, hexec, hlink, hrest⟩ := linkUp_comesUp hs hp hen hphy hu ht hh
    simp only [Mac.link, State.risen, Prod.mk.injEq] at hlink
    obtain ⟨hup, hlane, hwindow, hretrain, hverify, hrung⟩ := hlink
    exact ⟨t, hexec, hup, hlane, hwindow, hretrain, hverify, hrung, hrest⟩
  · obtain ⟨t, hexec, hmac, hrest⟩ := linkDown_falls hs hp hu
    refine ⟨t, hexec, ?_⟩
    rw [hmac]
    exact ⟨rfl, rfl, rfl, rfl, rfl, rfl, rfl, rfl, rfl, rfl, hrest⟩

end Sys2Proof.Machine

/-! SUPPORT. The streams and their dual paths: what the end of a stop fade, the start of a group, the reset of a recovery
window and the change of a path's state leave of the context named and of every other (R133, R156, R161, R169, R173). -/

namespace Sys2Proof.Machine

/-! ### The states of the paths of a dual-path context (R173) -/

section
variable {s t u : State} {c p st : Nat}

theorem OtherDpc.trans (h : OtherDpc c s t) (k : OtherDpc c t u) : OtherDpc c s u := fun j hj => (k j hj).trans (h j hj)

theorem State.setDpc_same (hs : StoresOk s) (v : DpcCtx) : (s.setDpc c v).dpcOf c = v :=
  (State.setDpc_dpcOf hs c c v).trans (if_pos rfl)

theorem State.setDpc_otherDpc (s : State) (c : Nat) (v : DpcCtx) : OtherDpc c s (s.setDpc c v) :=
  fun _ hk => sget_sset_other _ v hk

theorem State.setDpc_shifting (s : State) (c : Nat) (v : DpcCtx) : (s.setDpc c v).dpc.shifting = s.dpc.shifting := rfl

theorem DpcCtx.setPath_same {v : DpcCtx} (h : v.path p = st) : v.setPath p st = v := by
  subst h
  unfold DpcCtx.setPath DpcCtx.path
  split <;> rfl

theorem State.setPath_changed (h : (s.dpcOf c).path p ≠ st) :
    s.setPath c p st = (s.setDpc c ((s.dpcOf c).setPath p st)).flagRaise 0x3800C 0x1 49 := if_neg h

theorem State.setPath_dpcOf (hs : StoresOk s) : (s.setPath c p st).dpcOf c = (s.dpcOf c).setPath p st := by
  by_cases h : (s.dpcOf c).path p = st
  · rw [State.setPath, if_pos h, DpcCtx.setPath_same h]
  · rw [State.setPath_changed h, (State.flagRaise_others _ _ _ _).dpcOf rfl, State.setDpc_same hs]

theorem State.setPath_otherDpc (s : State) (c p st : Nat) : OtherDpc c s (s.setPath c p st) := by
  unfold State.setPath
  split
  · exact fun _ _ => rfl
  · exact (s.setDpc_otherDpc c _).trans fun k _ => (State.flagRaise_others _ _ _ _).dpcOf rfl k

theorem State.setPath_shifting (s : State) (c p st : Nat) : (s.setPath c p st).dpc.shifting = s.dpc.shifting := by
  unfold State.setPath
  split
  · rfl
  · rw [(State.flagRaise_others _ _ _ _).keeps .dpc rfl, State.setDpc_shifting]

theorem State.setPath_frame (s : State) (c p st : Nat) : Follows [.rc, .dpc] s (s.setPath c p st) :=
  State.setPath_follows s c p st (fun _ k => k) (.refl s)

theorem srcPresent_combiner {m : Member} (hm : hasDpc m = true) : srcPresent m 49 = true := by
  simpa [srcPresent] using hm

/-- A path that changes state shows in DPC_FLAGS with its event (R173). -/
theorem State.setPath_shows (hs : StoresOk s) (hm : hasDpc s.member = true) (h : (s.dpcOf c).path p ≠ st) :
    bitAt ((s.setPath c p st).rcW 0x3800C) 0 = true ∧ (s.setPath c p st).event 49 = true ∧
      RcOnly [0x3800C, evtStat 49] s (s.setPath c p st) := by
  have hset := s.setDpc_frame c ((s.dpcOf c).setPath p st)
  rw [State.setPath_changed h]
  exact ⟨State.flagRaise_bit (hset.stores hs) (by decide) (by decide) (by decide),
    State.flagRaise_event (hset.stores hs) _ _ _ (srcPresent_combiner hm),
    (hset.others.rcOnly rfl).flagRaise (by simp) (by simp)⟩

/-- Where the combiner stops a context it is no dual-path context any more, and both its paths are IDLE. -/
theorem State.dpcStop_dpcOf (hs : StoresOk s) :
    (s.dpcStop c).dpcOf c = { s.dpcOf c with dual := false, stA := 0, stB := 0 } := by
  have hset := State.setDpc_storesOk c { s.dpcOf c with dual := false } hs
  unfold State.dpcStop
  rw [State.setPath_dpcOf ((State.setPath_frame _ c 0 0).stores hset), State.setPath_dpcOf hset, State.setDpc_same hs]
  rfl

theorem State.dpcStop_otherDpc (s : State) (c : Nat) : OtherDpc c s (s.dpcStop c) :=
  (s.setDpc_otherDpc c _).trans ((State.setPath_otherDpc _ c 0 0).trans (State.setPath_otherDpc _ c 1 0))

theorem State.dpcStop_shifting (s : State) (c : Nat) : (s.dpcStop c).dpc.shifting = s.dpc.shifting := by
  unfold State.dpcStop
  rw [State.setPath_shifting, State.setPath_shifting, State.setDpc_shifting]

theorem State.dpcStop_frame (s : State) (c : Nat) : Follows [.rc, .dpc] s (s.dpcStop c) :=
  State.dpcStop_follows s c (fun _ k => k) (.refl s)

end

/-! ### The checks after a change of state: hold counts and a change in progress (R176, R177) -/

section
variable {s : State}

theorem State.holdCheck_dpcOf (s : State) (p k : Nat) : (s.holdCheck p).dpcOf k = s.dpcOf k := by
  unfold State.holdCheck State.modDpcPort State.setDpcPort
  split
  · split <;> rfl
  · rfl

theorem State.holdChecks_dpcOf (s : State) (k : Nat) : s.holdChecks.dpcOf k = s.dpcOf k :=
  ((s.holdCheck 0).holdCheck_dpcOf 1 k).trans (s.holdCheck_dpcOf 0 k)

theorem State.shiftCheck_idle (h : s.dpc.shifting = false) : s.shiftCheck = s := by
  simp [State.shiftCheck, State.shiftOver, h]

end

/-! ### Receive contexts and their groups -/

section
variable {s t u : State} {c g : Nat}

theorem OtherSrx.trans (h : OtherSrx c s t) (k : OtherSrx c t u) : OtherSrx c s u := fun j hj => (k j hj).trans (h j hj)

theorem State.setSrx_same (hs : StoresOk s) (v : SrxCtx) : (s.setSrx c v).srxOf c = v :=
  (State.setSrx_srxOf hs c c v).trans (if_pos rfl)

theorem State.setSrx_otherSrx (s : State) (c : Nat) (v : SrxCtx) : OtherSrx c s (s.setSrx c v) :=
  fun _ hk => sget_sset_other _ v hk

/-- A context that has stopped keeps the words it started with and nothing else: its sidings are empty (R161). -/
def SrxCtx.stopped (v : SrxCtx) (c : Nat) : SrxCtx := { srxReset c with words := v.words }

/-- Stopping a context empties it, then stops it in the combiner; its group may wait again beside (R157). -/
theorem State.srxHalt_dpc (s : State) (c : Nat) :
    (s.srxHalt c).dpc = ((s.setSrx c ((s.srxOf c).stopped c)).dpcStop c).dpc := by
  unfold State.srxHalt
  dsimp only
  split <;> rfl

theorem State.srxHalt_dpcOf (s : State) (c k : Nat) :
    (s.srxHalt c).dpcOf k = ((s.setSrx c ((s.srxOf c).stopped c)).dpcStop c).dpcOf k := by
  unfold State.dpcOf
  rw [State.srxHalt_dpc]

theorem State.srxHalt_srxOf (s : State) (c k : Nat) :
    (s.srxHalt c).srxOf k = (s.setSrx c ((s.srxOf c).stopped c)).srxOf k := by
  have hstop := (State.dpcStop_frame (s.setSrx c ((s.srxOf c).stopped c)) c).others.srxOf rfl k
  unfold State.srxHalt
  dsimp only
  split <;> exact hstop

theorem State.srxUnder_srxOf (hs : StoresOk s) : (s.srxUnder c).srxOf c = { s.srxOf c with under := true } := by
  unfold State.srxUnder
  split
  · next h => rw [← h]
  · rw [(State.flagRaise_others _ _ _ _).srxOf rfl, State.setSrx_same hs]

theorem State.srxUnder_otherSrx (s : State) (c : Nat) : OtherSrx c s (s.srxUnder c) := by
  unfold State.srxUnder
  split
  · exact fun _ _ => rfl
  · exact (s.setSrx_otherSrx c _).trans fun k _ => (State.flagRaise_others _ _ _ _).srxOf rfl k

theorem State.srxUnder_grpOf (s : State) (c g : Nat) : (s.srxUnder c).grpOf g = s.grpOf g := by
  unfold State.srxUnder
  split
  · rfl
  · exact (State.flagRaise_others _ _ _ _).grpOf rfl g

/-- A waiting context that starts presenting at a position, or later where its start label is later (R156). -/
def SrxCtx.started (v : SrxCtx) (now : Nat) : SrxCtx :=
  { v with presenting := true, gwait := false, start := max v.start now }

/-- A group of one waiting member starts. -/
theorem State.groupGo_single (hm : s.members g = [(c, s.srxOf c)]) (hw : (s.srxOf c).gwait = true) :
    s.groupGo g = (s.setGrp g { presenting := true, ticks := 0 }).setSrx c ((s.srxOf c).started s.tt.now) := by
  unfold State.groupGo
  rw [hm, List.foldl_cons, if_pos hw]
  rfl

/-- A group of one waiting member whose wait has run out: it starts, in underrun where its data are not there (R156). -/
theorem State.groupTimeout_single (hm : s.members g = [(c, s.srxOf c)]) (hw : (s.srxOf c).gwait = true)
    (hp : (s.grpOf g).presenting = false) (ht : s.groupWait g ≤ (s.grpOf g).ticks) :
    s.groupTimeout g = (if s.tickStored (s.srxOf c) then s.groupGo g else (s.groupGo g).srxUnder c).flagRaise
      0x34008 0x40 48 := by
  unfold State.groupTimeout
  rw [if_pos ⟨by simp [hm], by simp [hp], ht⟩]
  dsimp only
  rw [hm]
  by_cases hd : s.tickStored (s.srxOf c) = true <;> simp [hw, hd]

/-- What the start of a group of one leaves: the group presents, and so does its member, underrun or not. -/
theorem State.groupStart_spec (hs : StoresOk s) (hm : s.members g = [(c, s.srxOf c)]) (hw : (s.srxOf c).gwait = true)
    (b : Bool) :
    let t := if b then s.groupGo g else (s.groupGo g).srxUnder c
    StoresOk t ∧ (t.grpOf g).presenting = true ∧
      (∃ d, t.srxOf c = { (s.srxOf c).started s.tt.now with under := d }) ∧ OtherSrx c s t := by
  have hgrp := (s.setGrp_frame g { presenting := true, ticks := 0 }).stores hs
  have hgo : StoresOk (s.groupGo g) := (State.groupGo_follows s g (fun _ k => k) (.refl s)).stores hs
  have hpres : ((s.groupGo g).grpOf g).presenting = true := by
    rw [State.groupGo_single hm hw]
    exact congrArg SrxGroup.presenting ((State.setGrp_grpOf hs g g _).trans (if_pos rfl))
  have hctx : (s.groupGo g).srxOf c = (s.srxOf c).started s.tt.now := by
    rw [State.groupGo_single hm hw, State.setSrx_same hgrp]
  have hother : OtherSrx c s (s.groupGo g) := by
    rw [State.groupGo_single hm hw]
    exact State.setSrx_otherSrx (s.setGrp g { presenting := true, ticks := 0 }) c _
  cases b with
  | true => exact ⟨hgo, hpres, ⟨_, hctx⟩, hother⟩
  | false =>
    exact ⟨(State.srxUnder_raises _ c hgo).1, (congrArg _ (State.srxUnder_grpOf _ c g)).trans hpres,
      ⟨true, by rw [← hctx]; exact State.srxUnder_srxOf hgo⟩, hother.trans (State.srxUnder_otherSrx _ c)⟩

end

/-! ### The commands -/

section
variable {s : State} {c p : Nat}

theorem stxStopAll_waits (hs : Ready s) (q : Req) :
    ∃ t, exec (.stxStopAll q) s = .next t ∧ t.stx = { s.stx with stopAll := true } ∧ LeavesAllBut [.stx] s t :=
  ⟨_, (congrArg (run s) (s.ctl_stx q)).trans (run_ready hs _), rfl,
    (State.askStxStop_follows s true (fun _ k => k) (.refl s)).others.settled⟩

theorem srxStopAll_waits (hs : Ready s) (q : Req) :
    ∃ t, exec (.srxStopAll q) s = .next t ∧ t.srx = { s.srx with stopAll := true } ∧ LeavesAllBut [.srx] s t :=
  ⟨_, (congrArg (run s) (s.ctl_srx q)).trans (run_ready hs _), rfl,
    (State.askSrxStop_follows s true (fun _ k => k) (.refl s)).others.settled⟩

theorem srxStopEnd_stops (hs : Ready s) (hr : (s.srxOf c).run = true) (hl : (s.srxOf c).stopLeft = some 0)
    (hsh : s.dpc.shifting = false) :
    ∃ t, exec (.srxStopEnd c) s = .next t ∧ t.srxOf c = { srxReset c with words := (s.srxOf c).words } ∧ OtherSrx c s t ∧
      (t.dpcOf c).dual = false ∧ (t.dpcOf c).stA = 0 ∧ (t.dpcOf c).stB = 0 ∧ OtherDpc c s t ∧
      LeavesAllBut [.rc, .srx, .dpc] s t := by
  have hempty : StoresOk (s.setSrx c ((s.srxOf c).stopped c)) := State.setSrx_storesOk c _ hs.1
  have hpaths := (s.srxHalt_dpcOf c c).trans (State.dpcStop_dpcOf hempty)
  have hstop : (s.srxStopEnd c).shiftCheck = s.srxHalt c := by
    rw [State.srxStopEnd, if_pos ⟨hr, hl⟩]
    exact State.shiftCheck_idle (by rw [State.srxHalt_dpc, State.dpcStop_shifting]; exact hsh)
  refine ⟨settle (s.srxHalt c), (congrArg (run s) hstop).trans (run_ready hs _),
    (s.srxHalt_srxOf c c).trans (State.setSrx_same hs.1 _),
    fun k hk => (s.srxHalt_srxOf c k).trans (s.setSrx_otherSrx c _ k hk),
    congrArg DpcCtx.dual hpaths, congrArg DpcCtx.stA hpaths, congrArg DpcCtx.stB hpaths,
    fun k hk => (s.srxHalt_dpcOf c k).trans (State.dpcStop_otherDpc _ c k hk), ?_⟩
  exact (State.srxHalt_follows s c (fun _ k => k) (.refl s)).others.settled

theorem groupTimeout_starts (hs : Ready s) {g : Nat} (hm : s.members g = [(c, s.srxOf c)])
    (hw : (s.srxOf c).gwait = true) (hp : (s.grpOf g).presenting = false) (ht : s.groupWait g ≤ (s.grpOf g).ticks) :
    ∃ t, exec (.groupTimeout g) s = .next t ∧ (t.grpOf g).presenting = true ∧ (t.srxOf c).presenting = true ∧
      (t.srxOf c).gwait = false ∧ (t.srxOf c).start = max (s.srxOf c).start s.tt.now ∧ OtherSrx c s t ∧
      bitAt (t.rcW 0x34008) 6 = true ∧ t.event 48 = true ∧ LeavesAllBut [.rc, .srx] s t := by
  have hparts := (State.groupTimeout_follows s g (fun _ k => k) (.refl s)).others.settled
  obtain ⟨hstores, hpres, ⟨d, hctx⟩, hother⟩ := State.groupStart_spec hs.1 hm hw (s.tickStored (s.srxOf c))
  refine ⟨settle (s.groupTimeout g), run_ready hs _, ?_⟩
  rw [State.groupTimeout_single hm hw hp ht] at hparts ⊢
  generalize (if s.tickStored (s.srxOf c) then s.groupGo g else (s.groupGo g).srxUnder c) = u at *
  have hflag := State.flagRaise_others u 0x34008 0x40 48
  rw [settle_grpOf, settle_srxOf, settle_rcW, settle_event, hflag.grpOf rfl, hflag.srxOf rfl, hctx]
  exact ⟨hpres, rfl, rfl, rfl, hother.trans fun k _ => hflag.srxOf rfl k,
    State.flagRaise_bit hstores (by decide) (by decide) (by decide),
    State.flagRaise_event hstores _ _ _ (by simp [srcPresent]), hparts⟩

theorem windowReset_resets (hs : Ready s) (hd : (s.dpcOf c).dual = true) (hr : (s.dpcOf c).reset = false) :
    ∃ t, exec (.windowReset c) s = .next t ∧ t.dpcOf c = { s.dpcOf c with reset := true } ∧
      bitAt (t.rcW (dpcBase c)) 4 = true ∧ OtherDpc c s t ∧ RcOnly [dpcBase c] s t ∧ LeavesAllBut [.rc, .dpc] s t := by
  have hset := s.setDpc_frame c { s.dpcOf c with reset := true }
  have hreset : s.windowReset c = (s.setDpc c { s.dpcOf c with reset := true }).flag (dpcBase c) 0x10 :=
    if_pos (by simp [hd, hr])
  have hflag := State.flag_others (s.setDpc c { s.dpcOf c with reset := true }) (dpcBase c) 0x10
  refine ⟨_, (congrArg (run s) hreset).trans (run_ready hs _), (hflag.dpcOf rfl c).trans (State.setDpc_same hs.1 _), ?_,
    (s.setDpc_otherDpc c _).trans fun k _ => hflag.dpcOf rfl k, (hset.others.rcOnly rfl).flag (by simp),
    ((hset.others.widen (by decide)).trans (hflag.widen (by decide))).settled⟩
  rw [settle_rcW, State.flag_rcW (hset.stores hs.1), if_pos rfl]
  exact bitAt_or _ 4 0x10 (by decide) (by decide)

/-- A command whose effect is the new state of one path, but for the ports' counts. -/
theorem setPath_completes {o : Host.Outcome State Fault Refusal} {st : Nat} {t : State} (hs : Ready s)
    (hm : hasDpc s.member = true) (h : (s.dpcOf c).path p ≠ st) (hf : Follows [.dpc] (s.setPath c p st) t)
    (hk : ∀ k, t.dpcOf k = (s.setPath c p st).dpcOf k) (ho : o = .next (settle t)) :
    ∃ t, o = .next t ∧ t.dpcOf c = (s.dpcOf c).setPath p st ∧ bitAt (t.rcW 0x3800C) 0 = true ∧ t.event 49 = true ∧
      OtherDpc c s t ∧ RcOnly [0x3800C, evtStat 49] s t ∧ LeavesAllBut [.rc, .dpc] s t := by
  obtain ⟨hbit, hevent, hrc⟩ := State.setPath_shows hs.1 hm h
  have hkept := hf.others.keepsBits rfl
  exact ⟨_, ho, (hk c).trans (State.setPath_dpcOf hs.1), hkept _ _ hbit, hkept.event hevent,
    (s.setPath_otherDpc c p st).trans fun k _ => hk k, hrc.trans (hf.others.rcOnly rfl),
    ((s.setPath_frame c p st).others.trans (hf.others.widen (by decide))).settled⟩

theorem pathLoss_goesDown (hs : Ready s) (hm : hasDpc s.member = true) (hp : p < 2) (hd : (s.dpcOf c).dual = true)
    (h : (s.dpcOf c).path p ≠ 3) :
    ∃ t, exec (.pathLoss c p) s = .next t ∧ t.dpcOf c = (s.dpcOf c).setPath p 3 ∧ bitAt (t.rcW 0x3800C) 0 = true ∧
      t.event 49 = true ∧ OtherDpc c s t ∧ RcOnly [0x3800C, evtStat 49] s t ∧ LeavesAllBut [.rc, .dpc] s t := by
  have hloss : s.pathLoss c p = s.setPath c p 3 := if_pos hd
  refine setPath_completes hs hm h (State.holdChecks_frame _) (State.holdChecks_dpcOf _) ?_
  rw [← hloss]
  exact (congrArg (run s) (if_pos hp)).trans (run_ready hs _)

theorem pathHealthy_recovers (hs : Ready s) (hm : hasDpc s.member = true) (hp : p < 2) (hd : (s.dpcOf c).dual = true)
    (h : (s.dpcOf c).path p = 2) (hsh : s.dpc.shifting = false) :
    ∃ t, exec (.pathHealthy c p) s = .next t ∧ t.dpcOf c = (s.dpcOf c).setPath p 1 ∧ bitAt (t.rcW 0x3800C) 0 = true ∧
      t.event 49 = true ∧ OtherDpc c s t ∧ RcOnly [0x3800C, evtStat 49] s t ∧ LeavesAllBut [.rc, .dpc] s t := by
  have hhealthy : (s.pathHealthy c p).shiftCheck = s.setPath c p 1 := by
    rw [State.pathHealthy, if_pos ⟨hd, h⟩]
    exact State.shiftCheck_idle ((s.setPath_shifting c p 1).trans hsh)
  refine setPath_completes hs hm (by omega) (.refl _) (fun _ => rfl) ?_
  rw [← hhealthy]
  exact (congrArg (run s) (if_pos hp)).trans (run_ready hs _)

end

/-- Settles O48: each clause is the lemma of its command. -/
theorem streamsAndPaths : Obligations.StreamsAndPaths := by
  unfold Obligations.StreamsAndPaths
  refine ⟨fun s hs => ⟨stxStopAll_waits hs, srxStopAll_waits hs, fun _ => srxStopEnd_stops hs,
    fun _ _ => groupTimeout_starts hs⟩, fun s c p hs hm hp hd => ⟨windowReset_resets hs hd, ?_, ?_⟩⟩
  · exact pathLoss_goesDown hs hm hp hd
  · exact pathHealthy_recovers hs hm hp hd

end Sys2Proof.Machine

/-! SUPPORT. Changes of rung ordered by the combiner: what it keeps of each port, the orders that stand through a port that goes
down, a second measured, DS_NOW and CLR_HOLD, and the changes themselves (R175 to R179). -/

namespace Sys2Proof.Machine

/-! ### What the combiner keeps of a port -/

section
variable {s : State} {p : Nat}

theorem State.setDpcPort_same (s : State) (p : Nat) (v : DpcPort) : (s.setDpcPort p v).dpcPort p = v := by
  unfold State.setDpcPort State.dpcPort
  split <;> rfl

theorem State.setDpcPort_other (s : State) (hp : p < 2) (v : DpcPort) :
    (s.setDpcPort p v).dpcPort (1 - p) = s.dpcPort (1 - p) := by
  obtain rfl | rfl : p = 0 ∨ p = 1 := by omega
  · rfl
  · rfl

theorem State.setDpcPort_dpcOf (s : State) (p : Nat) (v : DpcPort) (c : Nat) : (s.setDpcPort p v).dpcOf c = s.dpcOf c := by
  unfold State.setDpcPort
  split <;> rfl

theorem State.setDpcPort_setDpcPort (s : State) (p : Nat) (v w : DpcPort) :
    (s.setDpcPort p v).setDpcPort p w = s.setDpcPort p w := by
  unfold State.setDpcPort
  split <;> rfl

theorem State.setDpcPort_frame (s : State) (p : Nat) (v : DpcPort) : Follows [.dpc] s (s.setDpcPort p v) :=
  State.setDpcPort_follows s p v (fun _ k => k) (.refl s)

end

/-! ### A second measured (R175, R176) -/

section
variable {s : State} {p : Nat}

/-- The rates of the second that ends, and its counts started again. -/
def DpcPort.measured (v : DpcPort) : DpcPort :=
  { v with utilTx := mbps v.octTx, utilRx := mbps v.octRx, srate := mbps v.octStr, octTx := 0, octRx := 0, octStr := 0 }

/-- Beside what was measured, a second settles the hold count of its port and whether a downshift is due. -/
theorem State.portSecond_eq (s : State) (p : Nat) : ∃ h d,
    s.portSecond p = s.setDpcPort p { (s.dpcPort p).measured with hold := h, broken := false, due := d } := by
  unfold State.portSecond State.modDpcPort
  simp only [State.setDpcPort_setDpcPort, State.setDpcPort_same]
  exact ⟨_, _, rfl⟩

theorem State.utilUpDue_off (h : upthr (s.appliedW 0x38010) = 0) (p : Nat) : s.utilUpDue p = false := by
  simp [State.utilUpDue, h]

/-- With UPTHR 0 utilisation calls for no upshift (R180). -/
theorem State.utilUpshifts_off (h : upthr (s.appliedW 0x38010) = 0) : s.utilUpshifts = s := by
  have hport (p : Nat) : s.utilUpshift p = s := by simp [State.utilUpshift, State.utilUpDue_off h]
  simp [State.utilUpshifts, hport]

theorem utilisationSecond_measures (hs : Ready s) (hm : hasDpc s.member = true) (h : upthr (s.appliedW 0x38010) = 0) :
    ∃ t, exec .utilisationSecond s = .next t ∧ t.dpc.a.utilTx = mbps s.dpc.a.octTx ∧
      t.dpc.a.utilRx = mbps s.dpc.a.octRx ∧ t.dpc.a.srate = mbps s.dpc.a.octStr ∧
      t.dpc.b.utilTx = mbps s.dpc.b.octTx ∧ t.dpc.b.utilRx = mbps s.dpc.b.octRx ∧
      t.dpc.b.srate = mbps s.dpc.b.octStr ∧ t.dpc.a.octTx = 0 ∧ t.dpc.b.octTx = 0 ∧ (∀ c, t.dpcOf c = s.dpcOf c) ∧
      LeavesAllBut [.dpc] s t := by
  obtain ⟨holdA, dueA, hA⟩ := s.portSecond_eq 0
  obtain ⟨holdB, dueB, hB⟩ := (s.portSecond 0).portSecond_eq 1
  have hframe : Follows [.dpc] s ((s.portSecond 0).portSecond 1) :=
    State.portSecond_follows _ 1 (fun _ k => k) (State.portSecond_follows s 0 (fun _ k => k) (.refl s))
  have hoff : upthr (((s.portSecond 0).portSecond 1).appliedW 0x38010) = 0 := by rw [hframe.others.appliedW rfl, h]
  have hsecond : s.dpcSecond = (s.portSecond 0).portSecond 1 := (if_pos hm).trans (State.utilUpshifts_off hoff)
  refine ⟨_, (congrArg (run s) hsecond).trans (run_ready hs _), ?_⟩
  have hparts := hframe.others.settled
  rw [hB, hA] at hparts ⊢
  exact ⟨rfl, rfl, rfl, rfl, rfl, rfl, rfl, rfl,
    fun c => (State.setDpcPort_dpcOf _ 1 _ c).trans (s.setDpcPort_dpcOf 0 _ c), hparts⟩

end

/-! ### The control bits (R176) -/

section
variable {s : State} {p : Nat}

theorem State.dpcCtl_dsNow (s : State) (hp : p < 2) : s.dpcCtl (toWord (2 ^ p) &&& 0x7) = s.dsNow p := by
  obtain rfl | rfl : p = 0 ∨ p = 1 := by omega
  · rfl
  · rfl

theorem State.dpcCtl_clrHold (s : State) : s.dpcCtl (toWord 4 &&& 0x7) = s.clrHold := rfl

theorem exec_dsNow (hs : Ready s) (hm : hasDpc s.member = true) (hp : p < 2) (q : Req) :
    exec (.dsNow p q) s = .next (settle (s.dsNow p)) := by
  have hctl : s.onIndex p 2 (s.ctl q 0x38004 (2 ^ p)) = s.dsNow p := by
    rw [State.onIndex, if_pos hp, State.ctl_dpc s q _ hm, State.dpcCtl_dsNow s hp]
  exact (congrArg (run s) hctl).trans (run_ready hs _)

theorem dsNow_orders (hs : Ready s) (hm : hasDpc s.member = true) (hp : p < 2) (hc : s.dsClear p = true) (q : Req) :
    ∃ t, exec (.dsNow p q) s = .next t ∧ t.dpcPort p = { s.dpcPort p with due := true } ∧
      t.dpcPort (1 - p) = s.dpcPort (1 - p) ∧ (∀ c, t.dpcOf c = s.dpcOf c) ∧ LeavesAllBut [.dpc] s t := by
  have horder : s.dsNow p = s.setDpcPort p { s.dpcPort p with due := true } := if_pos (by simp [hm, hc])
  refine ⟨_, exec_dsNow hs hm hp q, ?_⟩
  rw [horder]
  exact ⟨s.setDpcPort_same p _, s.setDpcPort_other hp _, s.setDpcPort_dpcOf p _, (s.setDpcPort_frame p _).others.settled⟩

theorem dsNow_refused (hs : Ready s) (hm : hasDpc s.member = true) (hp : p < 2) (hc : s.dsClear p = false) (q : Req) :
    ∃ t, exec (.dsNow p q) s = .next t ∧ bitAt (t.rcW 0x3800C) 4 = true ∧ RcOnly [0x3800C] s t ∧
      LeavesAllBut [.rc] s t := by
  have hrefuse : s.dsNow p = s.flag 0x3800C 0x10 := if_neg (by simp [hc])
  refine ⟨_, exec_dsNow hs hm hp q, ?_⟩
  rw [hrefuse, settle_rcW, State.flag_rcW hs.1, if_pos rfl]
  exact ⟨bitAt_or _ 4 0x10 (by decide) (by decide), (RcOnly.refl _ s).flag (by simp), (s.flag_others _ _).settled⟩

theorem clrHold_restarts (hs : Ready s) (hm : hasDpc s.member = true) (q : Req) :
    ∃ t, exec (.clrHold q) s = .next t ∧ t.dpc.a = { s.dpc.a with hold := 0 } ∧
      t.dpc.b = { s.dpc.b with hold := 0 } ∧ (∀ c, t.dpcOf c = s.dpcOf c) ∧ LeavesAllBut [.dpc] s t :=
  ⟨_, (congrArg (run s) (s.ctl_dpc q 4 hm)).trans (run_ready hs _), rfl, rfl, fun _ => rfl,
    (State.clrHold_follows s (fun _ k => k) (.refl s)).others.settled⟩

end

/-! ### The orders that stand through a port that goes down -/

section
variable {s t : State} {p r : Nat}

/-- What the combiner has ordered: the downshifts due, and the change in progress with its port. -/
def Dpc.orders (d : Dpc) : Bool × Bool × Bool × Nat := (d.a.due, d.b.due, d.shifting, d.shiftPort)

theorem LeavesAllBut.orders {ps : List Part} (h : LeavesAllBut ps s t) (hd : ps.elem .dpc = false) :
    t.dpc.orders = s.dpc.orders := congrArg Dpc.orders (h.keeps .dpc hd)

theorem State.setPath_orders (s : State) (c p st : Nat) : (s.setPath c p st).dpc.orders = s.dpc.orders := by
  unfold State.setPath
  split
  · rfl
  · exact (State.flagRaise_others _ _ _ _).orders rfl

theorem State.pathsDown_orders (s : State) (p : Nat) : (s.pathsDown p).dpc.orders = s.dpc.orders :=
  List.foldlRecOn s.dualCtxs _ (motive := fun t : State => t.dpc.orders = s.dpc.orders) rfl
    fun t ih c _ => (t.setPath_orders c p 3).trans ih

theorem State.holdCheck_orders (s : State) (p : Nat) : (s.holdCheck p).dpc.orders = s.dpc.orders := by
  unfold State.holdCheck State.modDpcPort State.setDpcPort State.dpcPort
  split
  · split <;> rfl
  · rfl

theorem State.holdChecks_orders (s : State) : s.holdChecks.dpc.orders = s.dpc.orders :=
  ((s.holdCheck 0).holdCheck_orders 1).trans (s.holdCheck_orders 0)

/-- Going down restarts hold counts and takes paths down, and no order with them. -/
theorem State.takeDown_orders (s : State) (p : Nat) : (s.takeDown p).dpc.orders = s.dpc.orders := by
  have hfall : (s.portFall p).dpc.orders = s.dpc.orders :=
    (State.portFall_follows s p (fun _ k => k) (.refl s)).others.orders rfl
  have hpaths := ((s.portFall p).pathsDown_orders p).trans hfall
  have hlost : Follows [.rc, .tim, .mcr, .ring] ((s.portFall p).pathsDown p)
      (if s.bothLost p then ((s.portFall p).pathsDown p).flag 0x3800C 0x4 else (s.portFall p).pathsDown p) :=
    .ite (State.flag_follows _ _ _ (subParts_spec rfl) (.refl _)) (.refl _)
  have hptp := State.ptpPortDown_follows _ p 1 (subParts_spec rfl) <|
    State.ptpPortDown_follows _ p 0 (subParts_spec rfl) <|
    .foldl (fun t f h => State.ftxDone_follows t f 0x07 (subParts_spec rfl) h) hlost (s.mac p).hostWaiting
  exact (State.holdChecks_orders _).trans ((hptp.others.orders rfl).trans hpaths)

theorem State.rungChange_orders (s : State) (p r : Nat) : (s.rungChange p r).dpc.orders = s.dpc.orders := by
  have hset : Follows [.hstop, .macA, .macB, .mdio] (s.takeDown p) (s.rungChange p r) :=
    State.modMac_follows _ p _ (subParts_spec rfl) <| State.clearHstop_follows _ p (subParts_spec rfl) <|
    State.setRung_follows _ p r (subParts_spec rfl) (.refl _)
  exact (hset.others.orders rfl).trans (s.takeDown_orders p)

end

/-! ### The changes (R176, R177, R179) -/

section
variable {s : State} {p r : Nat}

theorem State.dpcShift_orders (s : State) (p r : Nat) :
    (s.dpcShift p r).dpc.orders = (s.dpc.a.due, s.dpc.b.due, true, p) := by
  have h : ((s.rungChange p r).modMac p fun m =>
      { m with dpcOrder := true, dpcPrev := (s.mac p).goal }).dpc.orders = s.dpc.orders :=
    ((State.modMac_follows _ p _ (fun _ k => k) (.refl _)).others.orders rfl).trans (s.rungChange_orders p r)
  simp only [Dpc.orders, Prod.mk.injEq] at h
  obtain ⟨hdueA, hdueB, -⟩ := h
  exact congrArg₂ (fun a b => (a, b, true, p)) hdueA hdueB

theorem State.dpcShift_mac (s : State) (p r : Nat) :
    (s.dpcShift p r).mac p = { (s.rungChange p r).mac p with dpcOrder := true, dpcPrev := (s.mac p).goal } :=
  (s.rungChange p r).setMac_mac p _

theorem State.dpcShift_otherPorts (s : State) (hp : p < 2) (r : Nat) : OtherPorts p s (s.dpcShift p r) :=
  (s.rungChange_otherPorts hp r).trans ((s.rungChange p r).setMac_otherPorts hp _)

/-- Once a change ordered by the combiner has begun, its port is down, on its way to the rung ordered, and knows the one it
came from. -/
theorem State.dpcShift_port (s : State) (p r : Nat) :
    ((s.dpcShift p r).mac p).goal = r ∧ ((s.dpcShift p r).mac p).up = false ∧ ((s.dpcShift p r).mac p).retrain = true ∧
      ((s.dpcShift p r).mac p).dpcOrder = true ∧ ((s.dpcShift p r).mac p).dpcPrev = (s.mac p).goal ∧
      ((s.dpcShift p r).mac p).upshift = none := by
  obtain ⟨hup, hretrain, -, hgoal, hupshift⟩ := s.rungChange_port p r
  rw [State.dpcShift_mac]
  exact ⟨hgoal, hup, hretrain, rfl, rfl, hupshift⟩

theorem State.dsPort_lt (h : s.dsPort = some p) : p < 2 := by
  unfold State.dsPort at h
  split at h
  · obtain rfl := Option.some.inj h
    split <;> decide
  · obtain rfl := Option.some.inj h
    decide
  · obtain rfl := Option.some.inj h
    decide
  · cases h

/-- Both ports' orders for a downshift taken (R177). -/
def State.duesTaken (s : State) : State :=
  (s.modDpcPort 0 fun v => { v with due := false }).modDpcPort 1 fun v => { v with due := false }

theorem State.downshift_shifts (hp : s.dsPort = some p) (hsh : s.dpc.shifting = false)
    (hf : (s.mac p).rung < floorRung s.member (s.macW p 0)) :
    s.downshift = (s.duesTaken.dpcShift p ((s.mac p).rung + 1)).holdChecks := by
  unfold State.downshift
  rw [hp]
  exact if_neg (by simp [hsh, hf])

theorem downshift_moves (hs : Ready s) (hm : hasDpc s.member = true) (hp : s.dsPort = some p)
    (hsh : s.dpc.shifting = false) (hf : (s.mac p).rung < floorRung s.member (s.macW p 0)) :
    ∃ t, exec .downshift s = .next t ∧ (t.mac p).goal = (s.mac p).rung + 1 ∧ (t.mac p).up = false ∧
      (t.mac p).retrain = true ∧ (t.mac p).dpcOrder = true ∧ (t.mac p).dpcPrev = (s.mac p).goal ∧
      t.dpc.shifting = true ∧ t.dpc.shiftPort = p ∧ t.dpc.a.due = false ∧ t.dpc.b.due = false ∧ OtherPorts p s t ∧
      LeavesAllBut [.rc, .count, .hstop, .tim, .mcr, .macA, .macB, .mdio, .dpc, .ring] s t := by
  have hp2 := State.dsPort_lt hp
  have hparts := (State.downshift_follows s (fun _ k => k) (.refl s)).others.settled
  have hexec : exec .downshift s = .next (settle s.downshift) := (congrArg (run s) (if_pos hm)).trans (run_ready hs _)
  rw [State.downshift_shifts hp hsh hf] at hparts hexec
  have hhold := (State.holdChecks_frame (s.duesTaken.dpcShift p ((s.mac p).rung + 1))).others
  have horders := (State.holdChecks_orders _).trans (s.duesTaken.dpcShift_orders p ((s.mac p).rung + 1))
  simp only [Dpc.orders, Prod.mk.injEq] at horders
  obtain ⟨hdueA, hdueB, hshifting, hport⟩ := horders
  obtain ⟨hgoal, hup, hretrain, horder, hprev, -⟩ := s.duesTaken.dpcShift_port p ((s.mac p).rung + 1)
  refine ⟨_, hexec, ?_⟩
  rw [settle_mac, hhold.mac rfl rfl p]
  exact ⟨hgoal, hup, hretrain, horder, hprev, hshifting, hport, hdueA, hdueB,
    (s.duesTaken.dpcShift_otherPorts hp2 _).trans (hhold.otherPorts rfl rfl p), hparts⟩

theorem State.reservationUp_shifts (hm : hasDpc s.member = true) (hu : (s.mac p).upshift = some r)
    (hsh : s.dpc.shifting = false ∨ s.dpc.shiftPort = p) (ho : (s.mac (1 - p)).retrain = false)
    (hr : r < (s.mac p).rung) : s.reservationUp p = s.dpcShift p r := by
  have hfree : ¬((s.dpc.shifting = true ∧ s.dpc.shiftPort ≠ p) ∨ (s.mac (1 - p)).retrain = true) := by
    obtain h | h := hsh
    · simp [h, ho]
    · simp [h, ho]
  unfold State.reservationUp
  rw [hu]
  exact (if_neg hfree).trans ((if_pos hr).trans (if_pos hm))

theorem reservationUpshift_moves (hs : Ready s) (hm : hasDpc s.member = true) (hp : p < numPorts s.member)
    (hu : (s.mac p).upshift = some r) (hsh : s.dpc.shifting = false ∨ s.dpc.shiftPort = p)
    (ho : (s.mac (1 - p)).retrain = false) (hr : r < (s.mac p).rung) :
    ∃ t, exec (.reservationUpshift p) s = .next t ∧ (t.mac p).goal = r ∧ (t.mac p).up = false ∧
      (t.mac p).retrain = true ∧ (t.mac p).upshift = none ∧ t.dpc.shifting = true ∧ t.dpc.shiftPort = p ∧
      OtherPorts p s t ∧ LeavesAllBut [.rc, .count, .hstop, .tim, .mcr, .macA, .macB, .mdio, .dpc, .ring] s t := by
  have hexec : exec (.reservationUpshift p) s = .next (settle (s.reservationUp p)) := run_port hs hp _
  rw [State.reservationUp_shifts hm hu hsh ho hr] at hexec
  obtain ⟨hgoal, hup, hretrain, -, -, hupshift⟩ := s.dpcShift_port p r
  exact ⟨_, hexec, hgoal, hup, hretrain, hupshift, rfl, rfl, s.dpcShift_otherPorts (lt_two_of_port hp) r,
    (State.dpcShift_follows s p r (fun _ k => k) (.refl s)).others.settled⟩

end

/-- Settles O49: each clause is the lemma of its command. -/
theorem rungChangesOrdered : Obligations.RungChangesOrdered := by
  intro s hs hm
  exact ⟨utilisationSecond_measures hs hm, fun _ q hp hc => dsNow_orders hs hm hp hc q,
    fun _ q hp hc => dsNow_refused hs hm hp hc q, clrHold_restarts hs hm, fun _ => downshift_moves hs hm,
    fun _ _ _ => reservationUpshift_moves hs hm⟩

end Sys2Proof.Machine

/-! SUPPORT. The mailboxes: the ports of SDG, what a word written or taken makes of a mailbox, a word that fails its checks, and
flushes (R190, R192 to R194). -/

namespace Sys2Proof.Machine

/-! ### The ports of a mailbox (R192, R383) -/

section
variable {s : State} {n : Nat}

/-- SDG_NDATA and SDG_NDATAEND are ports on every member. -/
theorem State.present_mboxPort (s : State) (hlo : 28 ≤ n) (hhi : n < 32) (ends : Bool) :
    ∃ r, s.present (sdgBase n + if ends then 0x34 else 0x30) = some r ∧ r.port = true := by
  have hblock : ∀ n < 32, ∀ ends : Bool, blockAt (sdgBase n + if ends then 0x34 else 0x30) = some bSDG := by decide
  have hrow : ∀ k < 4, ∀ ends : Bool, rowAt (sdgBase (28 + k) + if ends then 0x34 else 0x30) =
      some ((rowPort ((if ends then 0x134 else 0x130) + 28 * 0x40)).times 4 0x40) := by decide
  have hk := hrow (n - 28) (by omega) ends
  rw [show 28 + (n - 28) = n by omega] at hk
  exact ⟨_, State.present_at (hblock n hhi ends) rfl rfl hk, rfl⟩

/-- What the address of a mailbox's port names: a mailbox, its number, and which of its two registers. -/
theorem mboxPort_addr (hhi : n < 32) (ends : Bool) :
    let a := sdgBase n + if ends then 0x34 else 0x30
    a ≠ 0x1054 ∧ isMboxPort a = true ∧ mboxIdx a = n ∧ decide (a % 0x40 = 0x34) = ends := by
  unfold isMboxPort mboxIdx sdgBase
  cases ends
  · refine ⟨?_, decide_eq_true ?_, ?_, decide_eq_false ?_⟩ <;> simp only [Bool.false_eq_true, if_false] <;> omega
  · refine ⟨?_, decide_eq_true ?_, ?_, decide_eq_true ?_⟩ <;> simp only [if_true] <;> omega

theorem State.write32_mboxPort (s : State) (q : Req) (d : Word) (hlo : 28 ≤ n) (hhi : n < 32) (ends : Bool) :
    s.write32 q .normal (sdgBase n + if ends then 0x34 else 0x30) d = s.mboxAppend n d ends := by
  obtain ⟨r, hr, hport⟩ := s.present_mboxPort hlo hhi ends
  obtain ⟨hind, hmbox, hidx, hend⟩ := mboxPort_addr hhi ends
  generalize sdgBase n + (if ends then 0x34 else 0x30) = a at *
  unfold State.write32
  simp [hr, kindFault, hport, State.portWrite, hind, hmbox, hidx, hend]

theorem State.read32_mboxData (q : Req) (i : Instant) (hlo : 28 ≤ n) (hhi : n < 32) :
    s.read32 q .normal i (sdgBase n + 0x30) = (some (s.mboxTake n).1, (s.mboxTake n).2) := by
  obtain ⟨r, hr, hport⟩ := s.present_mboxPort hlo hhi false
  obtain ⟨hind, hmbox, hidx, hend⟩ := mboxPort_addr hhi false
  simp only [Bool.false_eq_true, if_false] at hr hind hmbox hidx hend
  generalize sdgBase n + 0x30 = a at *
  unfold State.read32
  simp [hr, hport, State.portRead, hind, hmbox, hidx, of_decide_eq_false hend]

theorem mailboxAppend_writes (hs : Ready s) (hlo : 28 ≤ n) (hhi : n < 32) (q : Req) (d : Word) :
    exec (.mailboxAppend n ⟨q, .normal, d⟩) s = .next (settle (s.mboxAppend n d false)) := by
  have hwrite := s.write32_mboxPort q d hlo hhi false
  refine (run_ready hs _).trans ?_
  rw [if_pos hhi, ← hwrite]
  rfl

theorem mailboxAppendEnd_writes (hs : Ready s) (hlo : 28 ≤ n) (hhi : n < 32) (q : Req) (d : Word) :
    exec (.mailboxAppendEnd n ⟨q, .normal, d⟩) s = .next (settle (s.mboxAppend n d true)) := by
  have hwrite := s.write32_mboxPort q d hlo hhi true
  refine (run_ready hs _).trans ?_
  rw [if_pos hhi, ← hwrite]
  rfl

/-- A state once a read of SDG_NDATA has answered. -/
def State.mboxRead (s : State) (n : Nat) : State := { (s.mboxTake n).2 with reply := .value (s.mboxTake n).1 0 }

theorem mailboxTake_reads (hs : Ready s) (hlo : 28 ≤ n) (hhi : n < 32) (q : Req) (parity marks : Bool) :
    exec (.mailboxTake n ⟨q, parity, marks⟩) s = .next (settle ((s.mboxRead n).mboxCheck s n parity marks)) := by
  refine (run_ready hs _).trans ?_
  rw [if_pos hhi]
  unfold State.regRead
  rw [State.read32_mboxData q _ hlo hhi]
  rfl

theorem State.withReply_frame (s : State) (x : Reply) : Follows [.reply] s { s with reply := x } :=
  State.reply_follows s x (fun _ k => k) (.refl s)

end

/-! ### One mailbox written -/

section
variable {s t u : State} {n : Nat}

theorem OtherMailboxes.trans (h : OtherMailboxes n s t) (k : OtherMailboxes n t u) : OtherMailboxes n s u :=
  fun j hj => (k j hj).trans (h j hj)

theorem LeavesAllBut.otherMailboxes {ps : List Part} (h : LeavesAllBut ps s t) (hm : ps.elem .mbox = false) :
    OtherMailboxes n s t := fun j _ => h.mboxOf hm j

theorem State.setMbox_same (hs : StoresOk s) (n : Nat) (v : Mailbox) : (s.setMbox n v).mboxOf n = v := by
  rw [State.setMbox_mboxOf hs, if_pos rfl]

theorem State.setMbox_otherMailboxes (hs : StoresOk s) (n : Nat) (v : Mailbox) : OtherMailboxes n s (s.setMbox n v) :=
  fun j hj => by rw [State.setMbox_mboxOf hs, if_neg hj]

/-- A command whose one effect is what a mailbox holds. -/
theorem setMbox_completes {o : Host.Outcome State Fault Refusal} (hs : Ready s) {v : Mailbox}
    (ho : o = .next (settle (s.setMbox n v))) :
    ∃ t, o = .next t ∧ t.mboxOf n = v ∧ OtherMailboxes n s t ∧ LeavesAllBut [.mbox] s t :=
  ⟨_, ho, State.setMbox_same hs.1 n v, State.setMbox_otherMailboxes hs.1 n v, (s.setMbox_frame n v).others.settled⟩

/-- A word counted below the maximum, and a flag set. -/
theorem State.bump_flag_spec (hs : StoresOk s) {a b m k : Nat} (ha : s.counter a + 1 < ctrMax) (hk : k < 32)
    (hm : m.testBit k = true) :
    let t := (s.bump a).flag b m
    t.counter a = s.counter a + 1 ∧ bitAt (t.rcW b) k = true ∧ RcOnly [b] s t ∧ CountOnly [a] s t ∧
      Follows [.rc, .count] s t := by
  intro t
  have hbump := State.bump_below ha
  have hflag := (s.bump a).flag_frame b m
  have hcount (j : Nat) : t.counter j = (s.bump a).counter j := hflag.others.counter rfl j
  refine ⟨?_, ?_, (hbump.rcOnly rfl).flag (by simp), fun j hj => ?_,
    (s.bump_frame a).trans (hflag.widen (by decide))⟩
  · rw [hcount, State.bump_counter hs a a ha, if_pos rfl]
  · rw [State.flag_rcW (State.bump_storesOk _ hs), if_pos rfl]
    exact bitAt_or _ k m hk hm
  · rw [hcount, State.bump_countOnly hs ha j hj]

end

/-! ### Words written (R192, R193) -/

section
variable {s : State} {n : Nat} {d : Word}

theorem State.mboxAppend_open (ht : (s.mboxOf n).trim = 0) (hr : (s.mboxOf n).held < mboxWords) :
    s.mboxAppend n d false = s.setMbox n { s.mboxOf n with writing := (s.mboxOf n).writing ++ [d] } := by
  unfold State.mboxAppend
  rw [if_neg (not_not.mpr ht), if_neg (by omega)]
  rfl

/-- A mailbox whose open item has ended with word `d`: the consumer sees it. -/
def Mailbox.ended (v : Mailbox) (d : Word) : Mailbox := { v with items := v.items ++ [v.writing ++ [d]], writing := [] }

theorem State.mboxAppend_end (ht : (s.mboxOf n).trim = 0) (hr : (s.mboxOf n).held < mboxWords) :
    s.mboxAppend n d true = (s.setMbox n ((s.mboxOf n).ended d)).mailSignal n := by
  unfold State.mboxAppend
  rw [if_neg (not_not.mpr ht), if_neg (by omega)]
  rfl

/-- A mailbox whose open item is withdrawn: the rest of it is discarded as it comes (R193). -/
def Mailbox.withdrawn (v : Mailbox) : Mailbox := { v with writing := [], trim := 1 }

theorem State.mboxAppend_full (ht : (s.mboxOf n).trim = 0) (hr : mboxWords ≤ (s.mboxOf n).held) :
    s.mboxAppend n d false =
      ((s.setMbox n (s.mboxOf n).withdrawn).bump (sdgCtr n 3)).flag (sdgStat n) 0x20 := by
  unfold State.mboxAppend
  rw [if_neg (not_not.mpr ht), if_pos hr]
  rfl

/-- MGT_MSG is a source of every member, and only the mailboxes the host reads raise it (R192, R403). -/
theorem State.mailSignal_spec (hs : StoresOk s) (n : Nat) :
    (n = 29 ∨ n = 31 → (s.mailSignal n).event 11 = true) ∧ RcOnly [evtStat 11] s (s.mailSignal n) ∧
      LeavesAllBut [.rc] s (s.mailSignal n) := by
  unfold State.mailSignal
  split
  · exact ⟨fun _ => State.raise_event hs 11 rfl, (RcOnly.refl _ s).raise (by simp), State.raise_others s 11⟩
  · next h => exact ⟨fun e => absurd e h, .refl _ s, fun p _ => p.same_refl s⟩

theorem mailboxAppendEnd_closes (hs : Ready s) (hlo : 28 ≤ n) (hhi : n < 32) (q : Req) (ht : (s.mboxOf n).trim = 0)
    (hr : (s.mboxOf n).held < mboxWords) :
    ∃ t, exec (.mailboxAppendEnd n ⟨q, .normal, d⟩) s = .next t ∧
      t.mboxOf n = (s.mboxOf n).ended d ∧ OtherMailboxes n s t ∧ (n = 29 ∨ n = 31 → t.event 11 = true) ∧
      RcOnly [evtStat 11] s t ∧ LeavesAllBut [.mbox, .rc] s t := by
  refine ⟨_, mailboxAppendEnd_writes hs hlo hhi q d, ?_⟩
  rw [State.mboxAppend_end ht hr]
  generalize (s.mboxOf n).ended d = v
  have hset := s.setMbox_frame n v
  obtain ⟨hevent, hrc, hparts⟩ := State.mailSignal_spec (hset.stores hs.1) n
  refine ⟨(hparts.mboxOf rfl n).trans (State.setMbox_same hs.1 n v), ?_, hevent, (hset.others.rcOnly rfl).trans hrc, ?_⟩
  · exact (State.setMbox_otherMailboxes hs.1 n v).trans (hparts.settled.otherMailboxes rfl)
  · exact ((hset.others.widen (by decide)).trans (hparts.widen (by decide))).settled

theorem mailboxAppend_overflows (hs : Ready s) (hlo : 28 ≤ n) (hhi : n < 32) (q : Req) (ht : (s.mboxOf n).trim = 0)
    (hr : mboxWords ≤ (s.mboxOf n).held) (hc : s.counter (sdgCtr n 3) + 1 < ctrMax) :
    ∃ t, exec (.mailboxAppend n ⟨q, .normal, d⟩) s = .next t ∧
      t.mboxOf n = (s.mboxOf n).withdrawn ∧ OtherMailboxes n s t ∧ bitAt (t.rcW (sdgStat n)) 5 = true ∧
      t.counter (sdgCtr n 3) = s.counter (sdgCtr n 3) + 1 ∧
      RcOnly [sdgStat n] s t ∧ CountOnly [sdgCtr n 3] s t ∧ LeavesAllBut [.mbox, .rc, .count] s t := by
  refine ⟨_, mailboxAppend_writes hs hlo hhi q d, ?_⟩
  rw [State.mboxAppend_full ht hr]
  generalize (s.mboxOf n).withdrawn = v
  have hset := s.setMbox_frame n v
  have hcount (b : Nat) := hset.others.counter rfl b
  obtain ⟨hcounter, hbit, hrc, honly, hparts⟩ := State.bump_flag_spec (hset.stores hs.1) (a := sdgCtr n 3)
    (b := sdgStat n) (m := 0x20) (k := 5) (by rw [hcount]; exact hc) (by decide) (by decide)
  refine ⟨(hparts.others.mboxOf rfl n).trans (State.setMbox_same hs.1 n v), ?_, hbit, hcounter.trans ?_,
    (hset.others.rcOnly rfl).trans hrc, fun b hb => (honly b hb).trans (hcount b), ?_⟩
  · exact (State.setMbox_otherMailboxes hs.1 n v).trans (hparts.others.settled.otherMailboxes rfl)
  · rw [hcount]
  · exact ((hset.others.widen (by decide)).trans (hparts.others.widen (by decide))).settled

end

/-! ### Words taken (R190, R192) -/

section
variable {s : State} {n : Nat} {w : Word} {rest : List Word} {more : List (List Word)}

/-- A mailbox once the consumer has taken word `w` of the first item, of which `rest` is left. -/
def Mailbox.taken (v : Mailbox) (w : Word) (rest : List Word) : Mailbox :=
  { v with items := if rest = [] then v.items.drop 1 else rest :: v.items.drop 1, begun := decide (rest ≠ []), last := w,
           lastEnd := decide (rest = []) }

/-- The item the consumer sees first is the first one the mailbox holds, in a flush too (R194). -/
theorem Mailbox.items_of_visible {v : Mailbox} {i : List Word} (h : v.visible = i :: more) : ∃ l, v.items = i :: l := by
  unfold Mailbox.visible at h
  split at h
  · split at h
    · cases hi : v.items with
      | nil => simp [hi] at h
      | cons j l =>
        obtain ⟨rfl, -⟩ : j = i ∧ [] = more := by simpa [hi] using h
        exact ⟨l, rfl⟩
    · cases h
  · exact ⟨more, h⟩

/-- A word taken changes its mailbox, whatever the word. -/
theorem Mailbox.taken_ne {v : Mailbox} (h : v.visible = (w :: rest) :: more) : v.taken w rest ≠ v := by
  obtain ⟨l, hl⟩ := Mailbox.items_of_visible h
  intro he
  have hitems : (if rest = [] then l else rest :: l) = (w :: rest) :: l := by
    simpa [Mailbox.taken, hl] using congrArg Mailbox.items he
  split at hitems <;> simp at hitems

theorem State.mboxTake_word (h : (s.mboxOf n).visible = (w :: rest) :: more) :
    s.mboxTake n = (w, s.setMbox n ((s.mboxOf n).taken w rest)) := by
  unfold State.mboxTake
  simp only [h]
  rfl

theorem State.mboxTake_empty (h : (s.mboxOf n).visible = []) :
    s.mboxTake n = ((s.mboxOf n).last, s.flag (sdgStat n) 0x10) := by
  unfold State.mboxTake
  simp only [h]

/-- A read that finds a word answers it and takes it, and touches nothing else. -/
theorem State.mboxRead_word (hs : StoresOk s) (h : (s.mboxOf n).visible = (w :: rest) :: more) :
    (s.mboxRead n).reply = .value w 0 ∧ (s.mboxRead n).mboxOf n = (s.mboxOf n).taken w rest ∧
      OtherMailboxes n s (s.mboxRead n) ∧ Follows [.mbox, .reply] s (s.mboxRead n) := by
  have hset := s.setMbox_frame n ((s.mboxOf n).taken w rest)
  have hreply := (s.setMbox n ((s.mboxOf n).taken w rest)).withReply_frame (.value w 0)
  unfold State.mboxRead
  rw [State.mboxTake_word h]
  exact ⟨rfl, State.setMbox_same hs n _, State.setMbox_otherMailboxes hs n _,
    (hset.widen (by decide)).trans (hreply.widen (by decide))⟩

theorem State.mboxCheck_sound (s t : State) (n : Nat) : t.mboxCheck s n false false = t := if_pos (.inr rfl)

/-- An item cut in two after the word last taken, where that word's end marks disagree (R190). -/
def State.mboxCut (s : State) (n : Nat) (marks : Bool) : State :=
  if marks then s.setMbox n { s.mboxOf n with begun := false, lastEnd := true } else s

theorem State.mboxCut_spec (hs : StoresOk s) (n : Nat) (marks : Bool) :
    ((s.mboxCut n marks).mboxOf n).lastEnd = (marks || (s.mboxOf n).lastEnd) ∧
      ((s.mboxCut n marks).mboxOf n).items = (s.mboxOf n).items ∧ OtherMailboxes n s (s.mboxCut n marks) ∧
      Follows [.mbox] s (s.mboxCut n marks) := by
  cases marks with
  | false => exact ⟨rfl, rfl, fun _ _ => rfl, .refl s⟩
  | true =>
    let v : Mailbox := { s.mboxOf n with begun := false, lastEnd := true }
    have hv : (s.mboxCut n true).mboxOf n = v := State.setMbox_same hs n v
    rw [hv]
    exact ⟨rfl, rfl, State.setMbox_otherMailboxes hs n v, s.setMbox_frame n v⟩

theorem State.mboxCheck_fails {t : State} {parity marks : Bool} (h : t.mboxOf n ≠ s.mboxOf n)
    (hf : (parity || marks) = true) : t.mboxCheck s n parity marks = (t.mboxCut n marks).sdgPoison n 0 1 :=
  if_neg (by simp [h, hf])

/-- One poisoned word of a siding, on its first lane: counted, with the siding's flag and the summary's (R190). -/
theorem State.sdgPoison_one (hs : StoresOk s) (n : Nat) (hc : s.counter (sdgCtr n 0) + 1 < ctrMax) :
    let t := s.sdgPoison n 0 1
    t.counter (sdgCtr n 0) = s.counter (sdgCtr n 0) + 1 ∧ bitAt (t.rcW (sdgStat n)) 1 = true ∧
      RcOnly [sdgStat n, 0x40000] s t ∧ CountOnly [sdgCtr n 0] s t ∧ LeavesAllBut [.rc, .count] s t := by
  obtain ⟨hcounter, hbit, hrc, honly, hparts⟩ := State.bump_flag_spec hs (a := sdgCtr n 0) (b := sdgStat n)
    (m := 0x2 + 2 ^ (8 + 0)) (k := 1) hc (by decide) (by decide)
  have hne : sdgStat n ≠ 0x40000 := by unfold sdgStat sdgBase; omega
  intro t
  have ht : t = ((s.bump (sdgCtr n 0)).flag (sdgStat n) (0x2 + 2 ^ (8 + 0))).flag 0x40000 (2 ^ n) := if_neg one_ne_zero
  rw [ht]
  generalize (s.bump (sdgCtr n 0)).flag (sdgStat n) (0x2 + 2 ^ (8 + 0)) = u at *
  have hflag := State.flag_others u 0x40000 (2 ^ n)
  refine ⟨(hflag.counter rfl _).trans hcounter, ?_, (hrc.widen (by simp)).flag (by simp),
    fun b hb => (hflag.counter rfl b).trans (honly b hb), hparts.others.trans (hflag.widen (by decide))⟩
  rw [State.flag_rcW_other _ _ _ _ hne]
  exact hbit

theorem mailboxTake_takes (hs : Ready s) (hlo : 28 ≤ n) (hhi : n < 32) (q : Req)
    (h : (s.mboxOf n).visible = (w :: rest) :: more) :
    ∃ t, exec (.mailboxTake n ⟨q, false, false⟩) s = .next t ∧ t.reply = .value w 0 ∧
      t.mboxOf n = (s.mboxOf n).taken w rest ∧ OtherMailboxes n s t ∧ LeavesAllBut [.mbox, .reply] s t := by
  obtain ⟨hreply, hmbox, hother, hparts⟩ := State.mboxRead_word hs.1 h
  refine ⟨_, mailboxTake_reads hs hlo hhi q false false, ?_⟩
  rw [State.mboxCheck_sound]
  exact ⟨hreply, hmbox, hother, hparts.others.settled⟩

theorem mailboxTake_failing (hs : Ready s) (hlo : 28 ≤ n) (hhi : n < 32) (q : Req) {parity marks : Bool}
    (h : (s.mboxOf n).visible = (w :: rest) :: more) (hf : (parity || marks) = true)
    (hc : s.counter (sdgCtr n 0) + 1 < ctrMax) :
    ∃ t, exec (.mailboxTake n ⟨q, parity, marks⟩) s = .next t ∧ t.reply = .value w 0 ∧
      (t.mboxOf n).lastEnd = (marks || decide (rest = [])) ∧ (t.mboxOf n).items = ((s.mboxOf n).taken w rest).items ∧
      t.counter (sdgCtr n 0) = s.counter (sdgCtr n 0) + 1 ∧ bitAt (t.rcW (sdgStat n)) 1 = true ∧
      OtherMailboxes n s t ∧ RcOnly [sdgStat n, 0x40000] s t ∧ CountOnly [sdgCtr n 0] s t ∧
      LeavesAllBut [.mbox, .rc, .count, .reply] s t := by
  obtain ⟨hreply, hmbox, hother, hread⟩ := State.mboxRead_word hs.1 h
  refine ⟨_, mailboxTake_reads hs hlo hhi q parity marks, ?_⟩
  rw [State.mboxCheck_fails (by rw [hmbox]; exact Mailbox.taken_ne h) hf]
  obtain ⟨hend, hitems, hcutOther, hcut⟩ := State.mboxCut_spec (hread.stores hs.1) n marks
  rw [hmbox] at hend hitems
  generalize s.mboxRead n = t at *
  have hboth : Follows [.mbox, .reply] s (t.mboxCut n marks) := hread.trans (hcut.widen (by decide))
  have hcount (b : Nat) := hboth.others.counter rfl b
  obtain ⟨hcounter, hbit, hrc, honly, hparts⟩ :=
    State.sdgPoison_one (hboth.stores hs.1) n (by rw [hcount]; exact hc)
  have hm := hparts.mboxOf rfl n
  refine ⟨?_, ?_, ?_, hcounter.trans (by rw [hcount]), hbit, ?_, (hboth.others.rcOnly rfl).trans hrc,
    fun b hb => (honly b hb).trans (hcount b), ?_⟩
  · exact (hparts.keeps .reply rfl).trans ((hcut.others.keeps .reply rfl).trans hreply)
  · exact (congrArg Mailbox.lastEnd hm).trans hend
  · exact (congrArg Mailbox.items hm).trans hitems
  · exact hother.trans (hcutOther.trans (hparts.settled.otherMailboxes rfl))
  · exact ((hboth.others.widen (by decide)).trans (hparts.widen (by decide))).settled

theorem mailboxTake_underruns (hs : Ready s) (hlo : 28 ≤ n) (hhi : n < 32) (q : Req) (h : (s.mboxOf n).visible = []) :
    ∃ t, exec (.mailboxTake n ⟨q, false, false⟩) s = .next t ∧ t.reply = .value (s.mboxOf n).last 0 ∧
      bitAt (t.rcW (sdgStat n)) 4 = true ∧ RcOnly [sdgStat n] s t ∧ LeavesAllBut [.rc, .reply] s t := by
  refine ⟨_, mailboxTake_reads hs hlo hhi q false false, ?_⟩
  rw [State.mboxCheck_sound, State.mboxRead, State.mboxTake_empty h]
  have hflag := State.flag_others s (sdgStat n) 0x10
  have hreply := (s.flag (sdgStat n) 0x10).withReply_frame (.value (s.mboxOf n).last 0)
  refine ⟨rfl, ?_, (RcOnly.refl _ s).flag (by simp), ?_⟩
  · have hrc := State.flag_rcW hs.1 (sdgStat n) (sdgStat n) 0x10
    rw [if_pos rfl] at hrc
    exact (congrArg (bitAt · 4) hrc).trans (bitAt_or _ 4 0x10 (by decide) (by decide))
  · exact ((hflag.widen (by decide)).trans (hreply.others.widen (by decide))).settled

end

/-! ### Flushes (R194) -/

section
variable {s : State} {n : Nat}

theorem flush_hides (hs : Ready s) (hlo : 28 ≤ n) (hhi : n < 32) (q : Req) :
    ∃ t, exec (.flush n q) s = .next t ∧ t.mboxOf n = { s.mboxOf n with flushing := true } ∧ OtherMailboxes n s t ∧
      LeavesAllBut [.mbox] s t := by
  refine setMbox_completes hs ((run_ready hs _).trans ?_)
  rw [if_pos hhi, State.ctl_mbox s q n hhi, State.mboxFlush, if_pos ⟨hlo, hhi⟩]

/-- A mailbox emptied by a flush: what is left of an item that was open, or that was being discarded, is discarded as it
comes. -/
def Mailbox.emptied (v : Mailbox) : Mailbox :=
  { v with items := [], writing := [], flushing := false, trim := if v.trim = 0 ∧ v.writing = [] then 0 else 2 }

/-- With nothing taken of its first item a flush leaves no item where it reaches the producer. -/
theorem State.mboxFlushed_unread (hf : (s.mboxOf n).flushing = true) (hb : (s.mboxOf n).begun = false) :
    s.mboxFlushed n = s.setMbox n (s.mboxOf n).emptied := by
  unfold State.mboxFlushed Mailbox.emptied
  simp only [hf, hb, if_true, Bool.false_eq_true, if_false]

theorem flushProducer_empties (hs : Ready s) (hf : (s.mboxOf n).flushing = true) (hb : (s.mboxOf n).begun = false) :
    ∃ t, exec (.flushProducer n) s = .next t ∧ t.mboxOf n = (s.mboxOf n).emptied ∧ OtherMailboxes n s t ∧
      LeavesAllBut [.mbox] s t :=
  setMbox_completes hs ((run_ready hs _).trans (by rw [State.mboxFlushed_unread hf hb]))

end

/-- Settles O38: each clause is the lemma of its command. -/
theorem mailboxWords : Obligations.MailboxWords := by
  intro s n q d hs hlo hhi
  refine ⟨fun ht hr => ⟨setMbox_completes hs ?_, mailboxAppendEnd_closes hs hlo hhi q ht hr⟩,
    mailboxAppend_overflows hs hlo hhi q, fun w rest more h => ⟨?_, fun parity marks hf hc => ?_⟩,
    mailboxTake_underruns hs hlo hhi q, flush_hides hs hlo hhi q, fun hf hb => ?_⟩
  · exact (mailboxAppend_writes hs hlo hhi q d).trans (by rw [State.mboxAppend_open ht hr])
  · obtain ⟨t, hexec, hreply, hmbox, hrest⟩ := mailboxTake_takes hs hlo hhi q h
    exact ⟨t, hexec, hreply, by rw [hmbox]; rfl, by rw [hmbox]; rfl, by rw [hmbox]; rfl, hrest⟩
  · exact mailboxTake_failing hs hlo hhi q h hf hc
  · obtain ⟨t, hexec, hmbox, hrest⟩ := flushProducer_empties hs hf hb
    exact ⟨t, hexec, by rw [hmbox]; rfl, by rw [hmbox]; rfl, by rw [hmbox]; rfl, by rw [hmbox]; rfl, hrest⟩

end Sys2Proof.Machine

/-! SUPPORT. The host rings: one ring written, descriptors that join their ring, halts and hard stops, completions and
the signal timer (R205, R206, R225, R231, R232). -/

namespace Sys2Proof.Machine

/-! ### One ring written -/

section
variable {s t u : State} {p : Nat}

theorem OtherRings.trans (h : OtherRings p s t) (k : OtherRings p t u) : OtherRings p s u :=
  fun j hj => (k j hj).trans (h j hj)

theorem LeavesAllBut.otherRings {ps : List Part} (h : LeavesAllBut ps s t) (hr : ps.elem .ring = false) :
    OtherRings p s t := fun j _ => h.ringOf hr j

theorem State.setRing_same (hs : StoresOk s) (p : Nat) (v : Ring) : (s.setRing p v).ringOf p = v := by
  rw [State.setRing_ringOf hs, if_pos rfl]

theorem State.setRing_otherRings (hs : StoresOk s) (p : Nat) (v : Ring) : OtherRings p s (s.setRing p v) :=
  fun j hj => by rw [State.setRing_ringOf hs, if_neg hj]

theorem State.modRing_same (hs : StoresOk s) (p : Nat) (f : Ring → Ring) :
    (s.modRing p f).ringOf p = f (s.ringOf p) :=
  State.setRing_same hs p _

theorem State.modRing_otherRings (hs : StoresOk s) (p : Nat) (f : Ring → Ring) : OtherRings p s (s.modRing p f) :=
  State.setRing_otherRings hs p _

/-- A command whose one effect is what a ring holds. -/
theorem setRing_completes {o : Host.Outcome State Fault Refusal} (hs : Ready s) {v : Ring}
    (ho : o = .next (settle (s.setRing p v))) :
    ∃ t, o = .next t ∧ t.ringOf p = v ∧ OtherRings p s t ∧ LeavesAllBut [.ring] s t :=
  ⟨_, ho, State.setRing_same hs.1 p v, State.setRing_otherRings hs.1 p v, (s.setRing_frame p v).others.settled⟩

/-- The command in progress, set or given up. -/
theorem State.withCmd_frame (s : State) (x : Option CmdWait) : Follows [.cmd] s { s with cmd := x } :=
  (Follows.refl s).mkRegs (fun _ k => k) id fun p hp => by
    cases p with
    | cmd => exact absurd (List.mem_singleton_self _) hp
    | _ => rfl

theorem LeavesAllBut.ringN {ps : List Part} (h : LeavesAllBut ps s t) (hrw : ps.elem .rw = false) :
    t.ringN p = s.ringN p := by
  unfold State.ringN
  rw [h.rwW hrw]

/-- An event counted below the maximum changes its counter alone (R113). -/
theorem State.bump_eq_setCounter {a : Nat} (ha : s.counter a + 1 < ctrMax) :
    s.bump a = s.setCounter a (s.counter a + 1) := by
  unfold State.bump State.countBy
  rw [if_neg (by omega), if_pos ha]

end

/-! ### Descriptors that join their ring (R206) -/

section
variable {s : State}

/-- A ring once the next descriptor has returned, with the words read. -/
def Ring.joined (r : Ring) (n : Nat) (dw : List Word) : Ring :=
  { r with
    slots := r.slots ++ [{ desc := { slot := r.fetched, dw := dw }, done := none, data := [], reading := false }],
    fetched := (r.fetched + 1) % n }

theorem descriptorFetch_joins (hs : Ready s) (dw : List Word) (hrun : (s.ringOf 0).st = .running)
    (hd : (s.ringOf 0).disabling = false) (hf : (s.ringOf 0).fetched ≠ (s.ringOf 0).pi) :
    ∃ t, exec (.descriptorFetch 0 dw) s = .next t ∧ t.ringOf 0 = (s.ringOf 0).joined (s.ringN 0) dw ∧
      OtherRings 0 s t ∧ LeavesAllBut [.ring] s t := by
  refine setRing_completes hs ((run_ready hs _).trans ?_)
  rw [State.descFetch, if_pos ⟨hrun, by rw [hd]; rfl, hf⟩]
  rfl

end

/-! ### Failed reads (R231, R232, R237) -/

section
variable {s : State} {p : Nat}

/-- An error completion shows in PCI_FLAGS and raises PCI_ERR; no other RC word changes. -/
theorem State.cplErr_spec (hs : StoresOk s) (cause : Nat) :
    (cause = 1 ∨ cause = 2 → bitAt ((s.cplErr cause).rcW 0x7008) 3 = true ∧ (s.cplErr cause).event 15 = true) ∧
      RcOnly [0x7008, evtStat 15] s (s.cplErr cause) ∧ Follows [.rc] s (s.cplErr cause) := by
  refine ⟨fun h => ?_, ?_, State.cplErr_follows s cause (fun _ k => k) (.refl s)⟩
  · rw [State.cplErr, if_pos h]
    exact ⟨State.flagRaise_bit hs (by decide) (by decide) (by decide), State.flagRaise_event hs _ _ 15 rfl⟩
  · unfold State.cplErr
    split
    · exact (RcOnly.refl _ s).flagRaise (by simp) (by simp)
    · exact .refl _ s

theorem State.ringFault_halts {f : RingFault} (hrun : (s.ringOf p).st = .running) (hw : (s.ringOf p).window = false) :
    s.ringFault p f = s.setRing p ((s.ringOf p).halt (s.ringN p) f) := by
  simp [State.ringFault, hrun, hw]

theorem State.ringFault_inWindow {f : RingFault} (hrun : (s.ringOf p).st = .running) (hw : (s.ringOf p).window = true) :
    s.ringFault p f = s.ringHardstop p f := by
  simp [State.ringFault, hrun, hw]

/-- A failed read of a running ring outside its window: the ring halts, and the error completion shows. -/
theorem State.faultOutside_spec (hs : StoresOk s) (cause : Nat) {f : RingFault} (hrun : (s.ringOf p).st = .running)
    (hw : (s.ringOf p).window = false) :
    let t := (s.cplErr cause).ringFault p f
    t.ringOf p = (s.ringOf p).halt (s.ringN p) f ∧ OtherRings p s t ∧
      (cause = 1 ∨ cause = 2 → bitAt (t.rcW 0x7008) 3 = true ∧ t.event 15 = true) ∧
      RcOnly [0x7008, evtStat 15] s t ∧ Follows [.ring, .rc] s t := by
  obtain ⟨hshows, hrc, herr⟩ := State.cplErr_spec hs cause
  have hring := herr.others.ringOf rfl p
  have hfault := State.ringFault_halts (s := s.cplErr cause) (f := f) (hring ▸ hrun) (hring ▸ hw)
  rw [hring, herr.others.ringN rfl] at hfault
  intro t
  have hset := (s.cplErr cause).setRing_frame p ((s.ringOf p).halt (s.ringN p) f)
  rw [← hfault] at hset
  refine ⟨?_, ?_, fun hc => ?_, hrc.trans (hset.others.rcOnly rfl),
    (herr.widen (by decide)).trans (hset.widen (by decide))⟩
  · exact (congrArg (State.ringOf · p) hfault).trans (State.setRing_same (herr.stores hs) p _)
  · have hother := State.setRing_otherRings (herr.stores hs) p ((s.ringOf p).halt (s.ringN p) f)
    rw [← hfault] at hother
    exact (herr.others.otherRings rfl).trans hother
  · rw [hset.others.rcW rfl, hset.others.event rfl]
    exact hshows hc

/-- A failed read in the window of an earlier one: hard stop, with RING_FAULT beside the error completion. -/
theorem State.faultInside_spec (hs : StoresOk s) (cause : Nat) {f : RingFault} (hrun : (s.ringOf p).st = .running)
    (hw : (s.ringOf p).window = true) :
    let t := (s.cplErr cause).ringFault p f
    (t.ringOf p).st = .hardstop ∧ (t.ringOf p).feed = [] ∧ OtherRings p s t ∧ t.event 9 = true ∧
      (cause = 1 ∨ cause = 2 → bitAt (t.rcW 0x7008) 3 = true ∧ t.event 15 = true) ∧
      RcOnly [0x7008, evtStat 15, evtStat 9] s t ∧ Follows [.ring, .rc, .macA, .macB] s t := by
  obtain ⟨hshows, hrc, herr⟩ := State.cplErr_spec hs cause
  have hring := herr.others.ringOf rfl p
  have hfault := State.ringFault_inWindow (s := s.cplErr cause) (f := f) (hring ▸ hrun) (hring ▸ hw)
  intro t
  have ht : t = _ := hfault
  unfold State.ringHardstop at ht
  extract_lets a at ht
  have hmac : Follows [.macA, .macB] (s.cplErr cause) a :=
    State.modMac_follows _ _ _ (fun _ k => k) (State.modMac_follows _ _ _ (fun _ k => k) (.refl _))
  have ha := hmac.stores (herr.stores hs)
  generalize hstop : (fun r : Ring =>
    { r with st := .hardstop, pfault := toWord (f.slot + put 16 f.status), feed := [] }) = stop at ht
  have hmod := a.modRing_frame p stop
  have hraise := (a.modRing p stop).raise_frame 9
  have hsame := State.modRing_same ha p stop
  rw [ht]
  refine ⟨?_, ?_, ?_, State.raise_event (hmod.stores ha) 9 rfl, fun hc => ?_, ?_, ?_⟩
  · rw [hraise.others.ringOf rfl, hsame, ← hstop]
  · rw [hraise.others.ringOf rfl, hsame, ← hstop]
  · exact (herr.others.otherRings rfl).trans ((hmac.others.otherRings rfl).trans
      ((State.modRing_otherRings ha p stop).trans (hraise.others.otherRings rfl)))
  · have hkeep : KeepsBits (s.cplErr cause) ((a.modRing p stop).raise 9) := (hmac.others.keepsBits rfl).trans
      ((hmod.others.keepsBits rfl).trans (State.raise_keepsBits (hmod.stores ha) 9))
    exact ⟨hkeep _ _ (hshows hc).1, hkeep.event (hshows hc).2⟩
  · exact (hrc.widen (by simp)).trans (((hmac.others.rcOnly rfl).trans (hmod.others.rcOnly rfl)).raise (by simp))
  · exact (herr.widen (by decide)).trans ((hmac.widen (by decide)).trans
      ((hmod.widen (by decide)).trans (hraise.widen (by decide))))

/-- Poisoned words of a siding counted below the maximum: its counter, its flags and the summary's (R190). -/
theorem State.sdgPoison_below (hs : StoresOk s) (n l k : Nat) (hc : s.counter (sdgCtr n 0) + k < ctrMax) :
    let t := s.sdgPoison n l k
    t.counter (sdgCtr n 0) = s.counter (sdgCtr n 0) + k ∧ CountOnly [sdgCtr n 0] s t ∧
      RcOnly [sdgStat n, 0x40000] s t ∧ KeepsBits s t ∧ LeavesAllBut [.rc, .count] s t := by
  unfold State.sdgPoison
  split
  · next h => exact ⟨by rw [h]; rfl, fun _ _ => rfl, .refl _ s, .refl s, fun q _ => q.same_refl s⟩
  · next h =>
    have hcount := State.countBy_counter hs (sdgCtr n 0) k
    have hrc : (s.countBy (sdgCtr n 0) k).reg.rc = s.reg.rc := by
      unfold State.countBy
      rw [if_neg (by omega), if_pos hc]
      rfl
    have hframe := s.countBy_frame (sdgCtr n 0) k
    generalize s.countBy (sdgCtr n 0) k = u at *
    have hword (a : Nat) : u.rcW a = s.rcW a := by rw [State.rcW, hrc, State.rcW]
    have hflag := u.flag_frame (sdgStat n) (0x2 + 2 ^ (8 + l))
    have hflag' := (u.flag (sdgStat n) (0x2 + 2 ^ (8 + l))).flag_frame 0x40000 (2 ^ n)
    have hkeep (b : Nat) : ((u.flag (sdgStat n) (0x2 + 2 ^ (8 + l))).flag 0x40000 (2 ^ n)).counter b = u.counter b :=
      (hflag'.others.counter rfl b).trans (hflag.others.counter rfl b)
    have hu := hframe.stores hs
    refine ⟨?_, fun b hb => ?_, ?_, ?_, ?_⟩
    · rw [hkeep, hcount _ hc, if_pos rfl]
    · rw [hkeep, hcount _ hc, if_neg (by simpa using hb)]
    · exact RcOnly.flag (.flag (fun a _ => hword a) (by simp)) (by simp)
    · refine (KeepsBits.trans (fun a k hk => by rwa [hword]) ?_)
      exact (State.flag_keepsBits hu _ _).trans (State.flag_keepsBits (hflag.stores hu) _ _)
    · exact hframe.others.trans ((hflag.others.trans hflag'.others).widen (by decide))

theorem Ring.failSlots_nil (r : Ring) (f : RingFault) : r.failSlots [] f = r := by
  simp [Ring.failSlots]

/-- The run around a slot of the ring holds that slot. -/
theorem mem_ftxRun {l : List Slot} {i : Nat} (h : ∃ x ∈ l, x.desc.slot = i) :
    i ∈ (ftxRun l i).map (fun x => x.desc.slot) := by
  obtain ⟨x, hx, hi⟩ := h
  have hne : l.dropWhile (fun y => decide (y.desc.slot ≠ i)) ≠ [] := fun he =>
    of_decide_eq_true (List.dropWhile_eq_nil_iff.mp he x hx) hi
  have hhead := List.head_dropWhile_not _ hne
  obtain ⟨y, rest, hy⟩ := List.exists_cons_of_ne_nil hne
  simp only [hy, List.head_cons, decide_eq_false_iff_not, not_not] at hhead
  refine List.mem_map.mpr ⟨y, ?_, hhead⟩
  unfold ftxRun
  rw [hy]
  refine List.mem_append_right _ ?_
  cases (y :: rest).findIdx? (fun x => ftxEof x.desc) <;> simp

/-- The fault a failed descriptor fetch records: the slot that was to be fetched. -/
def State.fetchFault (s : State) (p cause : Nat) : RingFault :=
  { slot := (s.ringOf p).fetched, status := 0x0C, detail := cause, off := 0 }

/-- The slots that complete with a failed fetch: those of the frame being gathered on an FTX ring (R210). -/
def State.openSlots (s : State) (p : Nat) : List Nat :=
  if ringClass p = 1 then (openRun (s.ringOf p).slots).map (fun x => x.desc.slot) else []

theorem descErr_fails (hs : Ready s) (cause n : Nat) (hrun : (s.ringOf p).st = .running)
    (hd : (s.ringOf p).disabling = false) (hf : (s.ringOf p).fetched ≠ (s.ringOf p).pi) :
    exec (.descErr p ⟨cause, n⟩) s = .next (settle
      ((((s.cplErr cause).ringFault p (s.fetchFault p cause)).modRing p
        (fun q => q.failSlots (s.openSlots p) (s.fetchFault p cause))).sdgPoison 7 0 n)) := by
  refine (run_ready hs _).trans ?_
  rw [State.descErr, if_pos ⟨hrun, by rw [hd]; rfl, hf⟩]
  rfl

/-- One ring changed, and poisoned words of RDATA counted below the maximum. -/
theorem State.modRing_poison_spec (hs : StoresOk s) (p : Nat) (g : Ring → Ring) (n : Nat)
    (hc : s.counter (sdgCtr 7 0) + n < ctrMax) :
    let t := (s.modRing p g).sdgPoison 7 0 n
    t.ringOf p = g (s.ringOf p) ∧ OtherRings p s t ∧ t.counter (sdgCtr 7 0) = s.counter (sdgCtr 7 0) + n ∧
      CountOnly [sdgCtr 7 0] s t ∧ RcOnly [sdgStat 7, 0x40000] s t ∧ KeepsBits s t ∧
      LeavesAllBut [.ring, .rc, .count] s t := by
  have hmod := s.modRing_frame p g
  have hcount (a : Nat) := hmod.others.counter rfl a
  obtain ⟨hcounter, honly, hrc, hkeep, hparts⟩ :=
    State.sdgPoison_below (hmod.stores hs) 7 0 n (by rw [hcount]; exact hc)
  exact ⟨(hparts.ringOf rfl p).trans (State.modRing_same hs p g),
    (State.modRing_otherRings hs p g).trans (hparts.otherRings rfl), hcounter.trans (by rw [hcount]),
    fun a ha => (honly a ha).trans (hcount a), (hmod.others.rcOnly rfl).trans hrc,
    (hmod.others.keepsBits rfl).trans hkeep, (hmod.others.widen (by decide)).trans (hparts.widen (by decide))⟩

theorem descErr_halts (hs : Ready s) (cause n : Nat) (hrun : (s.ringOf p).st = .running)
    (hd : (s.ringOf p).disabling = false) (hf : (s.ringOf p).fetched ≠ (s.ringOf p).pi)
    (hc : s.counter (sdgCtr 7 0) + n < ctrMax) (hw : (s.ringOf p).window = false) :
    ∃ t, exec (.descErr p ⟨cause, n⟩) s = .next t ∧
      t.ringOf p = ((s.ringOf p).halt (s.ringN p) (s.fetchFault p cause)).failSlots (s.openSlots p)
        (s.fetchFault p cause) ∧ OtherRings p s t ∧
      (cause = 1 ∨ cause = 2 → bitAt (t.rcW 0x7008) 3 = true ∧ t.event 15 = true) ∧
      t.counter (sdgCtr 7 0) = s.counter (sdgCtr 7 0) + n ∧ RcOnly [0x7008, evtStat 15, sdgStat 7, 0x40000] s t ∧
      CountOnly [sdgCtr 7 0] s t ∧ LeavesAllBut [.ring, .rc, .count] s t := by
  refine ⟨_, descErr_fails hs cause n hrun hd hf, ?_⟩
  obtain ⟨hring, hother, hshows, hrc, hfault⟩ :=
    State.faultOutside_spec hs.1 cause (f := s.fetchFault p cause) hrun hw
  generalize (s.cplErr cause).ringFault p (s.fetchFault p cause) = u at *
  have hcount (a : Nat) := hfault.others.counter rfl a
  obtain ⟨hfailed, hothers, hcounter, honly, hpoison, hkeep, hparts⟩ :=
    State.modRing_poison_spec (hfault.stores hs.1) p
      (fun q => q.failSlots (s.openSlots p) (s.fetchFault p cause)) n (by rw [hcount]; exact hc)
  refine ⟨hfailed.trans (by rw [hring]), hother.trans hothers, fun h => ?_, hcounter.trans (by rw [hcount]), ?_,
    fun a ha => (honly a ha).trans (hcount a), ((hfault.others.widen (by decide)).trans hparts).settled⟩
  · exact ⟨hkeep _ _ (hshows h).1, hkeep.event (hshows h).2⟩
  · exact (hrc.widen (by simp)).trans (hpoison.widen (by simp))

theorem descErr_hardstops (hs : Ready s) (cause n : Nat) (hrun : (s.ringOf p).st = .running)
    (hd : (s.ringOf p).disabling = false) (hf : (s.ringOf p).fetched ≠ (s.ringOf p).pi)
    (hc : s.counter (sdgCtr 7 0) + n < ctrMax) (hw : (s.ringOf p).window = true) :
    ∃ t, exec (.descErr p ⟨cause, n⟩) s = .next t ∧ (t.ringOf p).st = .hardstop ∧ (t.ringOf p).feed = [] ∧
      t.event 9 = true ∧ (cause = 1 ∨ cause = 2 → bitAt (t.rcW 0x7008) 3 = true ∧ t.event 15 = true) ∧
      OtherRings p s t ∧ RcOnly [0x7008, evtStat 15, evtStat 9, sdgStat 7, 0x40000] s t ∧
      LeavesAllBut [.ring, .rc, .count, .macA, .macB] s t := by
  refine ⟨_, descErr_fails hs cause n hrun hd hf, ?_⟩
  obtain ⟨hstop, hfeed, hother, hevent, hshows, hrc, hfault⟩ :=
    State.faultInside_spec hs.1 cause (f := s.fetchFault p cause) hrun hw
  generalize (s.cplErr cause).ringFault p (s.fetchFault p cause) = u at *
  have hcount (a : Nat) := hfault.others.counter rfl a
  obtain ⟨hfailed, hothers, -, -, hpoison, hkeep, hparts⟩ :=
    State.modRing_poison_spec (hfault.stores hs.1) p
      (fun q => q.failSlots (s.openSlots p) (s.fetchFault p cause)) n (by rw [hcount]; exact hc)
  refine ⟨(congrArg Ring.st hfailed).trans hstop, (congrArg Ring.feed hfailed).trans hfeed, hkeep.event hevent,
    fun h => ⟨hkeep _ _ (hshows h).1, hkeep.event (hshows h).2⟩, hother.trans hothers, ?_, ?_⟩
  · exact (hrc.widen (by simp)).trans (hpoison.widen (by simp))
  · exact ((hfault.others.widen (by decide)).trans (hparts.widen (by decide))).settled

/-- The fault a failed data read for slot `i` records, of the part at byte `off`. -/
def readFault (i off cause : Nat) : RingFault := { slot := i, status := 0x0B, detail := cause, off := off }

/-- The slots that complete with a failed data read: those of its frame on an FTX ring (R210). -/
def State.frameSlots (s : State) (p i : Nat) : List Nat :=
  if ringClass p = 1 then (ftxRun (s.ringOf p).slots i).map (fun x => x.desc.slot) else []

/-- A data read that fails for a slot without an outcome gives the fault to its whole frame on an FTX ring. -/
theorem State.dmaErr_outside (hs : StoresOk s) {i off cause : Nat} (hrun : (s.ringOf p).st = .running)
    (hw : (s.ringOf p).window = false) (hx : ∃ x ∈ (s.ringOf p).slots, x.desc.slot = i ∧ x.done = none) :
    s.dmaErr p i off cause = if ringClass p = 1 then
      ((s.cplErr cause).ringFault p (readFault i off cause)).modRing p
        (fun q => q.failSlots (s.frameSlots p i) (readFault i off cause))
      else (s.cplErr cause).ringFault p (readFault i off cause) := by
  obtain ⟨x, hmem, hi, hdone⟩ := hx
  obtain ⟨hring, -⟩ := State.faultOutside_spec hs cause (f := readFault i off cause) hrun hw
  have hfault : (((s.cplErr cause).ringFault p (readFault i off cause)).ringOf p).fault =
      some (readFault i off cause) := congrArg Ring.fault hring
  have hopen : (s.ringOf p).slots.any (fun y => decide (y.desc.slot = i) &&
      (match y.done with | some c => decide (c.status = 0x0B) | none => true)) = true :=
    List.any_eq_true.mpr ⟨x, hmem, by simp [hi, hdone]⟩
  unfold readFault at *
  refine (if_pos ⟨hopen, .inl hrun⟩).trans ?_
  rw [hfault]
  by_cases hclass : ringClass p = 1
  · have hin : ((ftxRun (s.ringOf p).slots i).map (fun y => y.desc.slot)).contains i = true :=
      List.contains_iff_mem.mpr (mem_ftxRun ⟨x, hmem, hi⟩)
    simp only [State.frameSlots, hclass, if_true, hin]
  · simp [hclass]

theorem dmaErr_halts (hs : Ready s) {i off cause : Nat} (hrun : (s.ringOf p).st = .running)
    (hw : (s.ringOf p).window = false) (hx : ∃ x ∈ (s.ringOf p).slots, x.desc.slot = i ∧ x.done = none) :
    ∃ t, exec (.dmaErr p i ⟨off, cause⟩) s = .next t ∧
      t.ringOf p =
        ((s.ringOf p).halt (s.ringN p) (readFault i off cause)).failSlots (s.frameSlots p i) (readFault i off cause) ∧
      (cause = 1 ∨ cause = 2 → bitAt (t.rcW 0x7008) 3 = true ∧ t.event 15 = true) ∧ OtherRings p s t ∧
      RcOnly [0x7008, evtStat 15] s t ∧ LeavesAllBut [.ring, .rc] s t := by
  obtain ⟨hring, hother, hshows, hrc, hfault⟩ :=
    State.faultOutside_spec hs.1 cause (f := readFault i off cause) hrun hw
  refine ⟨_, run_ready hs _, ?_⟩
  rw [State.dmaErr_outside hs.1 hrun hw hx]
  generalize (s.cplErr cause).ringFault p (readFault i off cause) = u at *
  by_cases hclass : ringClass p = 1
  · rw [if_pos hclass]
    generalize hg : (fun q : Ring => q.failSlots (s.frameSlots p i) (readFault i off cause)) = g
    have hu := hfault.stores hs.1
    have hmod := u.modRing_frame p g
    refine ⟨?_, fun h => ?_, hother.trans (State.modRing_otherRings hu p g), hrc.trans (hmod.others.rcOnly rfl),
      (hfault.others.trans (hmod.others.widen (by decide))).settled⟩
    · rw [settle_ringOf, State.modRing_same hu, hring, ← hg]
    · rw [settle_rcW, settle_event, hmod.others.rcW rfl, hmod.others.event rfl]
      exact hshows h
  · have hnone : s.frameSlots p i = [] := if_neg hclass
    rw [if_neg hclass, hnone, Ring.failSlots_nil]
    exact ⟨hring, hshows, hother, hrc, hfault.others.settled⟩

end

/-! ### Completions and signals (R205, R206, R225) -/

section
variable {s : State} {p : Nat}

/-- A ring whose head slot has completed: CI and CPI move on, and the slot is given up. -/
def Ring.completed (r : Ring) (n : Nat) : Ring :=
  { r with
    ci := (r.ci + 1) % n, cpi := (r.cpi + 1) % n, phase := if (r.cpi + 1) % n = 0 then !r.phase else r.phase,
    unsig := r.unsig + 1, slots := r.slots.filter (fun x => decide (x.desc.slot ≠ r.ci)), waiting := false }

/-- Where the next completion entry of a ring lies in host memory (R206). -/
def State.cplAddr (s : State) (p : Nat) : Nat :=
  (s.rwW (ringBase p + 8)).toNat + (s.rwW (ringBase p + 0xC)).toNat * 2 ^ 32 + 16 * (s.ringOf p).cpi

/-- The completion entry of the head slot, as it goes to host memory. -/
def State.cplEntry (s : State) (p : Nat) (c : Cpl) : OutItem :=
  .host (s.cplAddr p) (cplBytes c (((s.ringOf p).ci + 1) % s.ringN p) (s.ringOf p).phase) false

/-- With RNG_PIRQ.EN = 0 an entry is written and counted, and nothing is signalled (R225). -/
theorem State.writeCpl_quiet {c : Cpl} (hq : bitAt (s.rwW (ringBase p + 0x1C)) 7 = false)
    (hc : s.counter (ringCtr p 0) + 1 < ctrMax) :
    s.writeCpl p c false = ((s.emit (s.cplEntry p c)).setRing p ((s.ringOf p).completed (s.ringN p))).setCounter
      (ringCtr p 0) (s.counter (ringCtr p 0) + 1) := by
  have hbump := State.bump_eq_setCounter
    (s := (s.emit (s.cplEntry p c)).setRing p ((s.ringOf p).completed (s.ringN p))) (a := ringCtr p 0) hc
  have hquiet : bitAt ((((s.emit (s.cplEntry p c)).setRing p ((s.ringOf p).completed (s.ringN p))).bump
      (ringCtr p 0)).rwW (ringBase p + 0x1C)) 7 = false := by rw [hbump]; exact hq
  refine (if_neg ?_).trans hbump
  rintro ⟨hbit, -⟩
  exact Bool.false_ne_true (hquiet.symm.trans hbit)

/-- The state once the head slot of a ring has completed: the command ring holds no command any more (R208). -/
def State.cplWritten (s : State) (p : Nat) (c : Cpl) : State :=
  if p = 0 then { s.writeCpl p c false with cmd := none } else s.writeCpl p c false

theorem State.cplWritten_quiet {c : Cpl} (hq : bitAt (s.rwW (ringBase p + 0x1C)) 7 = false)
    (hc : s.counter (ringCtr p 0) + 1 < ctrMax) :
    s.cplWritten p c = { ((s.emit (s.cplEntry p c)).setRing p ((s.ringOf p).completed (s.ringN p))).setCounter
      (ringCtr p 0) (s.counter (ringCtr p 0) + 1) with cmd := if p = 0 then none else s.cmd } := by
  unfold State.cplWritten
  rw [State.writeCpl_quiet hq hc]
  split <;> rfl

theorem State.cplWritten_ringOf (hs : StoresOk s) {c : Cpl} (hq : bitAt (s.rwW (ringBase p + 0x1C)) 7 = false)
    (hc : s.counter (ringCtr p 0) + 1 < ctrMax) (k : Nat) :
    (s.cplWritten p c).ringOf k = if k = p then (s.ringOf p).completed (s.ringN p) else s.ringOf k := by
  rw [State.cplWritten_quiet hq hc]
  exact State.setRing_ringOf ((s.emit_frame (s.cplEntry p c)).stores hs) p k _

theorem State.cplWritten_counter (hs : StoresOk s) {c : Cpl} (hq : bitAt (s.rwW (ringBase p + 0x1C)) 7 = false)
    (hc : s.counter (ringCtr p 0) + 1 < ctrMax) (a : Nat) :
    (s.cplWritten p c).counter a = if a = ringCtr p 0 then s.counter (ringCtr p 0) + 1 else s.counter a := by
  rw [State.cplWritten_quiet hq hc]
  exact State.setCounter_counter hs _ a _

theorem State.cplWritten_others {c : Cpl} (hq : bitAt (s.rwW (ringBase p + 0x1C)) 7 = false)
    (hc : s.counter (ringCtr p 0) + 1 < ctrMax) : LeavesAllBut [.ring, .count, .cmd] s (s.cplWritten p c) := by
  rw [State.cplWritten_quiet hq hc]
  have hemit := s.emit_frame (s.cplEntry p c)
  have hring := (s.emit (s.cplEntry p c)).setRing_frame p ((s.ringOf p).completed (s.ringN p))
  exact ((hemit.others.widen (by simp)).trans (hring.others.widen (by simp))).trans
    ((State.setCounter_follows _ _ _ hc.le (subParts_spec rfl) (.refl _)).others.trans
      ((State.withCmd_frame _ _).others.widen (by simp)))

/-- The head slot of a running ring, outside any fault, completes with the outcome it has. -/
theorem State.completionWrite_head (hs : StoresOk s) {x : Slot} {c : Cpl} (hrun : (s.ringOf p).st = .running)
    (hfault : (s.ringOf p).fault = none) (hab : (s.ringOf p).abandonTo = none) (hwin : (s.ringOf p).window = false)
    (hdis : (s.ringOf p).disabling = false)
    (hx : (s.ringOf p).slots.find? (fun y => decide (y.desc.slot = (s.ringOf p).ci)) = some x) (hdone : x.done = some c)
    (hroom : s.cplRoom p = true) (hq : bitAt (s.rwW (ringBase p + 0x1C)) 7 = false)
    (hc : s.counter (ringCtr p 0) + 1 < ctrMax) : s.completionWrite p false = s.cplWritten p c := by
  have hring := (State.cplWritten_ringOf hs hq hc (c := c) p).trans (if_pos rfl)
  have hidle : (s.cplWritten p c).runEnd p = s.cplWritten p c := by
    have hnone : ((s.cplWritten p c).ringOf p).abandonTo = none := (congrArg Ring.abandonTo hring).trans hab
    simp only [State.runEnd, hnone]
  have hon : ((s.cplWritten p c).ringOf p).disabling = false := (congrArg Ring.disabling hring).trans hdis
  unfold State.completionWrite
  extract_lets r head tag abandoned next
  have hnext : next = some (c, false) := by
    simp only [next, head, r, hrun, hfault, hab, hx, hdone, reduceCtorEq, or_self, if_false, Option.isSome_none,
      Bool.false_eq_true]
  rw [hnext]
  refine (if_neg (by simp [hroom])).trans ?_
  extract_lets t u v w
  have hv : v = s.cplWritten p c := by
    simp only [v, r, hwin, Bool.false_eq_true, and_false, if_false]
    rfl
  have hw : w = s.cplWritten p c := (congrArg (State.runEnd · p) hv).trans hidle
  rw [hw, if_neg (by simp [hon])]

theorem completionWrite_completes (hs : Ready s) {x : Slot} {c : Cpl} (hrun : (s.ringOf p).st = .running)
    (hfault : (s.ringOf p).fault = none) (hab : (s.ringOf p).abandonTo = none) (hwin : (s.ringOf p).window = false)
    (hdis : (s.ringOf p).disabling = false)
    (hx : (s.ringOf p).slots.find? (fun y => decide (y.desc.slot = (s.ringOf p).ci)) = some x) (hdone : x.done = some c)
    (hroom : s.cplRoom p = true) (hq : bitAt (s.rwW (ringBase p + 0x1C)) 7 = false)
    (hc : s.counter (ringCtr p 0) + 1 < ctrMax) :
    ∃ t, exec (.completionWrite p false) s = .next t ∧ t.out = s.out ++ [s.cplEntry p c] ++ sentMsgs s ∧
      t.ringOf p = (s.ringOf p).completed (s.ringN p) ∧ t.counter (ringCtr p 0) = s.counter (ringCtr p 0) + 1 ∧
      t.cmd = (if p = 0 then none else s.cmd) ∧ OtherRings p s t ∧ CountOnly [ringCtr p 0] s t ∧
      LeavesAllBut [.ring, .count, .cmd] s t := by
  have hring := State.cplWritten_ringOf hs.1 (c := c) hq hc
  have hcount := State.cplWritten_counter hs.1 (c := c) hq hc
  refine ⟨_, run_ready hs _, ?_⟩
  rw [State.completionWrite_head hs.1 hrun hfault hab hwin hdis hx hdone hroom hq hc]
  refine ⟨?_, (hring p).trans (if_pos rfl), (hcount _).trans (if_pos rfl), ?_,
    fun k hk => (hring k).trans (if_neg hk), fun a ha => (hcount a).trans (if_neg (by simpa using ha)),
    (State.cplWritten_others hq hc).settled⟩
  · rw [State.cplWritten_quiet hq hc]
    exact settle_out rfl rfl rfl
  · rw [State.cplWritten_quiet hq hc]
    rfl

/-- A ring that has signalled every completion it has written. -/
def Ring.signalled (r : Ring) : Ring := { r with unsig := 0 }

/-- A signal with MSI-X disabled sets the bit of the ring, raises the event of its class and starts the count over. -/
theorem ringIrqTimer_signals (hs : Ready s) (hp : p < 49) (hen : bitAt (s.rwW (ringBase p + 0x1C)) 7 = true)
    (ht : fld (s.rwW (ringBase p + 0x1C)) 16 16 ≠ 0) (hu : (s.ringOf p).unsig ≠ 0) (hm : s.msixEn = false) :
    ∃ t, exec (.ringIrqTimer p) s = .next t ∧ t.ringOf p = (s.ringOf p).signalled ∧
      bitAt (t.rcW (0x8010 + 4 * (p / 32))) (p % 32) = true ∧ t.event (ringClass p) = true ∧ OtherRings p s t ∧
      RcOnly [0x8010 + 4 * (p / 32), evtStat (ringClass p)] s t ∧ LeavesAllBut [.ring, .rc] s t := by
  have hclass : ringClass p < 5 := by
    unfold ringClass
    split_ifs <;> decide
  have hsrc : srcPresent s.member (ringClass p) = true := by
    interval_cases ringClass p <;> rfl
  have hsignal : s.ringTimer p = (s.modRing p Ring.signalled).flagRaise (0x8010 + 4 * (p / 32)) (2 ^ (p % 32))
      (ringClass p) := by
    unfold State.ringTimer
    refine (if_pos ⟨hen, ht, hu⟩).trans ?_
    unfold State.ringSignal
    exact congrArg (State.raise · (ringClass p)) (if_neg (by rw [State.modRing_msixEn, hm]; decide))
  have hmod := s.modRing_frame p Ring.signalled
  have hkept := State.modRing_same hs.1 p Ring.signalled
  have hothers := State.modRing_otherRings hs.1 p Ring.signalled
  refine ⟨_, run_ready hs _, ?_⟩
  rw [hsignal]
  generalize s.modRing p Ring.signalled = u at *
  have hflag := State.flagRaise_others u (0x8010 + 4 * (p / 32)) (2 ^ (p % 32)) (ringClass p)
  have hu := hmod.stores hs.1
  refine ⟨(hflag.ringOf rfl p).trans hkept, State.flagRaise_bit hu ?_ (Nat.mod_lt _ (by decide)) ?_,
    State.flagRaise_event hu _ _ _ (by rw [hmod.member]; exact hsrc), hothers.trans (hflag.settled.otherRings rfl),
    (hmod.others.rcOnly rfl).flagRaise (by simp) (by simp),
    ((hmod.others.widen (by decide)).trans (hflag.widen (by decide))).settled⟩
  · unfold evtStat; omega
  · rw [Nat.testBit_two_pow]; simp

end

end Sys2Proof.Machine

/-! SUPPORT. Frames for the host, and the feed's reads and data (R212, R213, R217). -/

namespace Sys2Proof.Machine

/-! ### Frames for the host (R212, R213) -/

section
variable {s : State} {f : HostFrame} {rest : List HostFrame} {x : Slot}

/-- The frames that wait in HRX, set. -/
theorem State.withHrx_frame (s : State) (l : List HostFrame) : Follows [.hrx] s { s with hrx := l } :=
  (Follows.refl s).mkRegs (fun _ k => k) id fun p hp => by
    cases p with
    | hrx => exact absurd (List.mem_singleton_self _) hp
    | _ => rfl

/-- One buffer takes the whole of a frame it is large enough for. -/
theorem fillBuffers_one {n : Nat} (hn : 0 < n) (hfit : n ≤ fld (x.desc.word 1) 0 14) :
    fillBuffers [x] n = some [(x, n)] := by
  obtain ⟨k, rfl⟩ : ∃ k, n = k + 1 := ⟨n - 1, by omega⟩
  simp [fillBuffers, hfit]

/-- The completion of a buffer that holds a whole frame: its length, its marks and where it came from (R213). -/
def frameCpl (f : HostFrame) (tag : Nat) : Cpl :=
  cplOf tag 0 0
    (toWord (f.body.length + putb 14 true + putb 15 true + put 16 f.port + putb 17 f.tagged + put 18 f.pcp))
    (toWord (f.body.length + put 16 f.vid)) 0

/-- A frame with no poisoned word, written to one buffer. -/
theorem State.writeBuffers_one (p : Nat) (hpoison : f.poison = []) :
    s.writeBuffers p f 0 true [(x, f.body.length)] =
      (s.emit (.host (x.desc.addr 2) (slice f.body 0 f.body.length) false)).modRing p
        (fun r => r.finish x.desc.slot (frameCpl f)) := by
  unfold State.writeBuffers
  simp [State.writeBuffers, hpoison, wordsHit, State.finish, b2n]
  rfl

theorem hostFrameWrite_writes (hs : Ready s) (hhrx : s.hrx = f :: rest)
    (hen : (s.ringOf (s.frxRing f)).st ≠ .disabled) (hbuf : s.buffers (s.frxRing f) = [x])
    (hlen : 0 < f.body.length) (hpoison : f.poison = []) (hfit : f.body.length ≤ fld (x.desc.word 1) 0 14) :
    ∃ t, exec .hostFrameWrite s = .next t ∧ t.hrx = rest ∧
      t.out = s.out ++ [.host (x.desc.addr 2) (slice f.body 0 f.body.length) false] ++ sentMsgs s ∧
      t.ringOf (s.frxRing f) = (s.ringOf (s.frxRing f)).finish x.desc.slot (frameCpl f) ∧
      OtherRings (s.frxRing f) s t ∧ LeavesAllBut [.hrx, .ring] s t := by
  have hwrite : s.hostFrameWrite =
      ({ s with hrx := rest }.emit (.host (x.desc.addr 2) (slice f.body 0 f.body.length) false)).modRing (s.frxRing f)
        (fun r => r.finish x.desc.slot (frameCpl f)) := by
    unfold State.hostFrameWrite
    simp only [hhrx, hbuf, fillBuffers_one hlen hfit]
    refine (if_neg hen).trans ?_
    rw [hpoison, State.writeBuffers_one _ hpoison]
    rfl
  have hout := State.emit_frame { s with hrx := rest } (.host (x.desc.addr 2) (slice f.body 0 f.body.length) false)
  have hhead := (s.withHrx_frame rest).widen (m := [.hrx, .ring]) (by decide)
  have hu := hout.stores (hhead.stores hs.1)
  refine ⟨_, run_ready hs _, ?_⟩
  rw [hwrite]
  exact ⟨rfl, settle_out rfl rfl rfl,
    State.modRing_same hu (s.frxRing f) (fun r => r.finish x.desc.slot (frameCpl f)),
    State.modRing_otherRings hu (s.frxRing f) (fun r => r.finish x.desc.slot (frameCpl f)),
    ((hhead.trans (hout.widen (by simp))).trans ((State.modRing_frame _ _ _).widen (by decide))).others.settled⟩

theorem rngRxdrop_drops (hs : Ready s) (hhrx : s.hrx = f :: rest)
    (hbuf : (fillBuffers (s.buffers (s.frxRing f)) f.body.length).isSome = false)
    (hc : s.counter (ringCtr (s.frxRing f) 1) + 1 < ctrMax) :
    ∃ t, exec .rngRxdrop s = .next t ∧ t.hrx = rest ∧ bitAt (t.rcW (ringStat (s.frxRing f))) 7 = true ∧
      t.event 7 = true ∧ t.counter (ringCtr (s.frxRing f) 1) = s.counter (ringCtr (s.frxRing f) 1) + 1 ∧
      RcOnly [ringStat (s.frxRing f), evtStat 7] s t ∧ CountOnly [ringCtr (s.frxRing f) 1] s t ∧
      LeavesAllBut [.hrx, .rc, .count] s t := by
  have hdrop : s.hostFrameDrop = ((({ s with hrx := rest }).bump (ringCtr (s.frxRing f) 1)).flag
      (ringStat (s.frxRing f)) 0x80).raise 7 := by
    unfold State.hostFrameDrop
    rw [hhrx]
    exact if_neg (by simp [hbuf])
  generalize s.frxRing f = p at *
  have hne : ringStat p ≠ evtStat 7 := by unfold ringStat ringBase evtStat; omega
  have hhead := s.withHrx_frame rest
  obtain ⟨hcounter, hbit, hrc, honly, hcounted⟩ := State.bump_flag_spec (hhead.stores hs.1) (a := ringCtr p 1)
    (b := ringStat p) (m := 0x80) (k := 7) hc (by decide) (by decide)
  refine ⟨_, run_ready hs _, ?_⟩
  rw [hdrop]
  have hleft := hcounted.others.keeps .hrx rfl
  generalize (({ s with hrx := rest } : State).bump (ringCtr p 1)).flag (ringStat p) 0x80 = u at *
  have hraise := u.raise_frame 7
  have hu := hcounted.stores (hhead.stores hs.1)
  have hcount (a : Nat) := hraise.others.counter rfl a
  refine ⟨(hraise.others.keeps .hrx rfl).trans hleft, ?_, State.raise_event hu 7 rfl, (hcount _).trans hcounter,
    (hrc.widen (by simp)).raise (by simp), fun a ha => (hcount a).trans (honly a ha),
    ((hhead.others.widen (by decide)).trans ((hcounted.others.widen (by decide)).trans
      (hraise.others.widen (by decide)))).settled⟩
  rw [settle_rcW, State.raise_rcW_other _ _ hne]
  exact hbit

end

/-! ### The feed (R217) -/

section
variable {s : State} {p : Nat} {x : Slot}

/-- A ring whose read of the data of slot `i` is issued. -/
def Ring.issued (r : Ring) (i : Nat) : Ring :=
  { r with slots := r.slots.map (fun y => if y.desc.slot = i then { y with reading := true } else y) }

theorem ringClass_feed (hlo : 17 ≤ p) (hhi : p < 33) : ringClass p = 3 := by
  unfold ringClass
  rw [if_neg (by omega), if_neg (by omega), if_neg (by omega), if_pos hhi]

theorem feedBlockRead_issues (hs : Ready s) (hlo : 17 ≤ p) (hhi : p < 33) (hx : (s.ringOf p).unread = some x)
    (hrun : (s.ringOf p).st = .running) (hlive : s.slotLive p x.desc.slot = true)
    (hnear : feedPos x.desc ≤ s.tt.now + s.ahead * s.T)
    (hroom : s.feedHeld + s.feedDue + laneRoom (s.blockBytes p (feedSlice x.desc)) ≤ 262144) :
    ∃ t, exec (.feedBlockRead p) s = .next t ∧ t.ringOf p = (s.ringOf p).issued x.desc.slot ∧ OtherRings p s t ∧
      LeavesAllBut [.ring] s t := by
  refine setRing_completes hs ((run_ready hs _).trans ?_)
  unfold State.feedIssue
  rw [hx]
  exact congrArg _ (congrArg settle (if_pos ⟨ringClass_feed hlo hhi, hrun, hlive, hnear, hroom⟩))

/-- Data that does not complete its block joins the slot it was read for. -/
theorem State.feedReturn_joins (hs : StoresOk s) {i : Nat} {bytes : List Byte} (hslots : (s.ringOf p).slots = [x])
    (hi : x.desc.slot = i) (hdone : x.done = none) (hread : x.reading = true) (hfeed : (s.ringOf p).feed = [])
    (hpart : x.data.length + bytes.length ≠ s.blockBytes p (feedSlice x.desc)) :
    s.feedReturn p i bytes = s.setRing p { s.ringOf p with slots := [{ x with data := x.data ++ bytes }] } := by
  have hadd : (s.ringOf p).addData i bytes = { s.ringOf p with slots := [{ x with data := x.data ++ bytes }] } := by
    simp [Ring.addData, hslots, hi, hdone]
  have hring : (s.modRing p (fun r => r.addData i bytes)).ringOf p = _ := (State.modRing_same hs p _).trans hadd
  have hmod : s.modRing p (fun r => r.addData i bytes) = s.setRing p _ := congrArg (s.setRing p) hadd
  unfold State.feedReturn
  simp only [hring, List.find?_cons, hi, decide_true]
  rw [if_neg (by simp [hdone, hread, hfeed]), if_neg]
  · exact hmod
  · rw [List.length_append]
    exact hpart

theorem dataReadReturn_joins (hs : Ready s) {i : Nat} {bytes : List Byte} (hlo : 17 ≤ p) (hhi : p < 33)
    (hlive : s.slotLive p i = true) (hslots : (s.ringOf p).slots = [x]) (hi : x.desc.slot = i)
    (hdone : x.done = none) (hread : x.reading = true) (hfeed : (s.ringOf p).feed = [])
    (hpart : x.data.length + bytes.length ≠ s.blockBytes p (feedSlice x.desc)) :
    ∃ t, exec (.dataReadReturn p i bytes) s = .next t ∧
      t.ringOf p = { s.ringOf p with slots := [{ x with data := x.data ++ bytes }] } ∧
      OtherRings p s t ∧ LeavesAllBut [.ring] s t := by
  refine setRing_completes hs ((run_ready hs _).trans ?_)
  unfold State.dataReturn
  rw [if_neg (by omega), if_neg (by simp [hlive]), if_neg (by rw [ringClass_feed hlo hhi]; decide),
    if_pos (ringClass_feed hlo hhi), State.feedReturn_joins hs.1 hslots hi hdone hread hfeed hpart]

end

/-- Settles O40: each clause is the lemma of its command. -/
theorem ringsMoveData : Obligations.RingsMoveData := by
  refine ⟨⟨fun _ dw hs => descriptorFetch_joins hs dw,
    fun _ _ cause n hs hrun hd hf hc =>
      ⟨descErr_halts hs cause n hrun hd hf hc, descErr_hardstops hs cause n hrun hd hf hc⟩,
    fun _ _ _ _ _ hs => dmaErr_halts hs, ?_, fun _ _ hs => ringIrqTimer_signals hs⟩,
    fun _ _ _ _ hs => hostFrameWrite_writes hs, fun _ _ _ hs => rngRxdrop_drops hs,
    fun _ _ _ hs => feedBlockRead_issues hs, fun _ _ _ _ _ hs => dataReadReturn_joins hs⟩
  intro s p x c hs hrun hfault hab hwin hdis hx hdone hroom hq hc
  obtain ⟨t, hexec, hout, hring, hcounter, hcmd, hother, honly, hparts⟩ :=
    completionWrite_completes hs hrun hfault hab hwin hdis hx hdone hroom hq hc
  exact ⟨t, hexec, hout, by rw [hring]; rfl, by rw [hring]; rfl, by rw [hring]; rfl, by rw [hring]; rfl, hcounter,
    hcmd, hother, honly, hparts⟩

end Sys2Proof.Machine

/-! SUPPORT. The command ring: how a command begins, waits, acts and completes, and what each command does when it acts
(R208, R209, R243). -/

namespace Sys2Proof.Machine

/-! ### Commands that complete (R205, R208) -/

section
variable {l : List Part} {s u : State}

theorem State.cmdFinish_frame (s : State) (i : Nat) (r : CmdRes) : Follows [.ring, .cmd] s (s.cmdFinish i r) :=
  State.cmdFinish_follows s i r (fun _ k => k) (.refl s)

/-- A command that has changed some parts, none of them a ring, completes: its slot gets the outcome, and the command
ring holds no command any more. -/
theorem State.cmdFinish_completes (hs : StoresOk s) (hu : Follows l s u) (hl : l.elem .ring = false) (x : Slot)
    (st d : Nat) (r0 r1 : Word) :
    let t := settle (u.cmdFinish x.desc.slot (st, d, r0, r1))
    CmdCompletes s t x st d r0 r1 ∧ LeavesAllBut (.ring :: .cmd :: l) s t := by
  have hring (k : Nat) := hu.others.ringOf hl k
  have hout (k : Nat) : (settle (u.cmdFinish x.desc.slot (st, d, r0, r1))).ringOf k = if k = 0 then
      (u.ringOf 0).finish x.desc.slot (fun tag => cplOf tag st d r0 r1 0) else u.ringOf k :=
    State.setRing_ringOf (hu.stores hs) 0 k _
  refine ⟨⟨rfl, fun k hk => ?_, ?_⟩, ?_⟩
  · rw [hout, if_neg hk, hring]
  · rw [hout, if_pos rfl, hring]
  · exact ((hu.others.widen (fun _ k => .tail _ (.tail _ k))).trans
      ((u.cmdFinish_frame x.desc.slot (st, d, r0, r1)).others.widen (List.cons_subset_cons _
        (List.cons_subset_cons _ (List.nil_subset l))))).settled

/-- A command that changes nothing of its own completes. -/
theorem State.cmdFinish_alone (hs : StoresOk s) (x : Slot) (st d : Nat) (r0 r1 : Word) :
    let t := settle (s.cmdFinish x.desc.slot (st, d, r0, r1))
    CmdCompletes s t x st d r0 r1 ∧ LeavesAllBut [.ring, .cmd] s t :=
  State.cmdFinish_completes hs (.refl s) (l := []) rfl x st d r0 r1

end

/-! ### How a command begins, and how it acts at its boundary (R208, R209) -/

section
variable {s u : State} {x : Slot} {op : Nat} {is : Nat → Bool}

theorem CmdHead.opcode (h : CmdHead s op x) : cmdOp x = op := h.2.2.1

theorem CmdDue.opcode (h : CmdDue s op x) : cmdOp x = op := h.2.2.1

theorem CmdDue.pos_now (h : CmdDue s op x) : cmdPos x = s.tt.now := h.2.2.2.2

theorem State.cmdHead_of (hc : s.cmd = none) (hx : s.cmdSlot = some x) : s.cmdHead = some x := by
  unfold State.cmdHead
  rw [hc]
  exact hx

/-- A command that acts at a boundary begins by waiting for it. -/
theorem State.cmdBegin_waits (h : CmdHead s op x) (his : is op = true) (hb : boundaryOp op = true) (h8 : op ≠ 8) :
    s.cmdBegin is = { s with cmd := some (begun x) } := by
  obtain ⟨hc, hx, rfl, href⟩ := h
  unfold State.cmdBegin begun
  by_cases hpos : cmdPos x = 0
  · simp [State.cmdHead_of hc hx, his, href, h8, hb, hpos]
  · simp [State.cmdHead_of hc hx, his, href, h8, hpos]

/-- A command with POS 0 that does not act at a boundary acts as it begins. -/
theorem State.cmdBegin_acts (h : CmdHead s op x) (his : is op = true) (hb : boundaryOp op = false) (h8 : op ≠ 8)
    (hpos : cmdPos x = 0) : s.cmdBegin is = s.cmdGo x false := by
  obtain ⟨hc, hx, rfl, href⟩ := h
  unfold State.cmdBegin
  simp [State.cmdHead_of hc hx, his, href, h8, hb, hpos]

/-- TT_LOAD acts as it begins, whatever its POS, which is a position it loads. -/
theorem State.cmdBegin_ttLoad (h : CmdHead s 8 x) (his : is 8 = true) :
    s.cmdBegin is = (s.ttLoad x).1.cmdFinish x.desc.slot (s.ttLoad x).2 := by
  obtain ⟨hc, hx, hop, href⟩ := h
  unfold State.cmdBegin
  simp [State.cmdHead_of hc hx, his, href, hop]

theorem State.cmdBegin_refused {st d : Nat} (hc : s.cmd = none) (hx : s.cmdSlot = some x) (his : is (cmdOp x) = true)
    (href : s.cmdRefusal x = some (st, d)) : s.cmdBegin is = s.cmdFinish x.desc.slot (st, d, 0, 0) := by
  unfold State.cmdBegin
  simp [State.cmdHead_of hc hx, his, href]

theorem State.cmdRefusal_reserved (h : 0x0D ≤ cmdOp x) : s.cmdRefusal x = some (csBadcmd, 0) := if_pos h

theorem State.cmdGo_completes {r : CmdRes} (h : s.cmdAct x = (u, some r)) :
    s.cmdGo x false = u.cmdFinish x.desc.slot r := by
  unfold State.cmdGo
  rw [h]
  rfl

/-- A command that acts with its outcome still to come stays in progress. -/
theorem State.cmdGo_later (h : s.cmdAct x = (u, none)) (hpos : cmdPos x = 0) : s.cmdGo x false =
    { u with cmd := some { pos := none, late := false, acted := none, testing := decide (cmdOp x = 0x0C) } } := by
  unfold State.cmdGo
  rw [h]
  simp [hpos]

theorem State.cmdAtPos_due (h : CmdDue s op x) : s.cmdAtPos = s.cmdGo x false := by
  obtain ⟨hc, hx, -, hread, -⟩ := h
  unfold State.cmdAtPos
  simp [hc, hx, CmdWait.due, hread]

theorem State.cmdAtPos_acted {c : CmdWait} {r : CmdRes} (hc : s.cmd = some c) (ha : c.acted = some r)
    (hx : s.cmdSlot = some x) : s.cmdAtPos = s.cmdFinish x.desc.slot r := by
  unfold State.cmdAtPos
  simp [hc, hx, ha]

end

/-! ### What each command does when it acts (R209) -/

section
variable {s : State} {x : Slot}

/-- A command acts in time: it names no boundary, or one that has not passed. -/
def State.inTime (s : State) (x : Slot) : Prop := ¬(cmdPos x ≠ 0 ∧ cmdPos x < s.tt.now)

theorem State.inTime_now (s : State) (h : cmdPos x = 0) : s.inTime x := fun k => k.1 h

theorem CmdDue.inTime {op : Nat} (h : CmdDue s op x) : s.inTime x := fun k => by
  have := h.pos_now
  omega

/-- The mark of a command that acts late is clear where it acts in time. -/
theorem toWord_putb_false (k : Nat) : toWord (putb k false) = 0#32 := by
  simp [toWord, putb]

theorem State.cmdAct_nop (hop : cmdOp x = 0x00) (ht : s.inTime x) : s.cmdAct x = (s, some (0, 0, 0, 0)) := by
  unfold State.inTime at ht
  unfold State.cmdAct
  simp [hop, ht, toWord_putb_false]

theorem State.cmdAct_stxStop (hop : cmdOp x = 0x02) (ht : s.inTime x) :
    s.cmdAct x = (s.stxStopRange (cmdArg0 x), some (0, 0,
      toWord ((rangeList (cmdArg0 x)).filter (fun c => (s.stxOf c).run ∧ ¬(s.stxOf c).stopping)).length, 0)) := by
  unfold State.inTime at ht
  unfold State.cmdAct
  simp [hop, ht, toWord_putb_false]

theorem State.cmdAct_srxStop (hop : cmdOp x = 0x04) (ht : s.inTime x) :
    s.cmdAct x = (s.srxStopRange (cmdArg0 x), some (0, 0, toWord
      ((rangeList (cmdArg0 x)).filter (fun c => (s.srxOf c).run ∧ (s.srxOf c).stopLeft.isNone)).length, 0)) := by
  unfold State.inTime at ht
  unfold State.cmdAct
  simp [hop, ht, toWord_putb_false]

/-- A start of host audio at the boundary its POS names. -/
theorem State.cmdAct_audStart (hop : cmdOp x = 0x05) (hpos : cmdPos x = s.tt.now)
    (hen : (s.ringOf (fld (cmdArg0 x) 0 6)).st ≠ .disabled) (hc : s.audCause (fld (cmdArg0 x) 0 6) = 0) :
    s.cmdAct x = (s.audStart (fld (cmdArg0 x) 0 6) s.tt.now, some (0, 0, 0, 0)) := by
  unfold State.cmdAct
  simp [hop, hpos, hen, hc, toWord_putb_false]

theorem State.cmdAct_strobe (hop : cmdOp x = 0x07) (ht : s.inTime x) :
    s.cmdAct x = (s.strobe (fld (cmdArg0 x) 0 16), some (0, 0, 0, 0)) := by
  unfold State.inTime at ht
  unfold State.cmdAct
  simp [hop, ht, toWord_putb_false]

theorem State.cmdAct_tblWrite (hop : cmdOp x = 0x09) (hb : s.tblBlocked x = none) :
    s.cmdAct x = (s.cmdRead x.desc.slot, none) := by
  unfold State.cmdAct
  simp [hop, hb]

theorem State.cmdAct_tblRead (hop : cmdOp x = 0x0A) (ht : s.inTime x) :
    s.cmdAct x = ((s.tblRead x).1, some (0, 0, toWord (tblWords x).length, 0)) := by
  unfold State.inTime at ht
  unfold State.cmdAct
  simp [hop, ht, State.tblRead, toWord_putb_false]

theorem State.cmdAct_selftest (hop : cmdOp x = 0x0C)
    (hidle : s.testIdle (fld (cmdArg0 x) 0 8) (fld (cmdArg0 x) 8 8) = true) :
    s.cmdAct x =
      (s.setTesting (fld (cmdArg0 x) 0 8) (fld (cmdArg0 x) 8 8) (fld (cmdArg0 x) 16 8) true, none) := by
  unfold State.cmdAct
  simp [hop, hidle]

end

/-! ### What the actions leave -/

section
variable {s : State} {x : Slot}

/-- The groups named by the low half of a word. -/
theorem mem_bitsOf_low {w : Word} {g : Nat} : g ∈ bitsOf 16 (fld w 0 16) ↔ g < 16 ∧ bitAt w g = true := by
  unfold bitsOf fld bitAt
  rw [List.mem_filter, List.mem_range, pow_zero, Nat.div_one, Nat.testBit_mod_two_pow, BitVec.testBit_toNat]
  exact and_congr_right fun hg => by simp [hg]

theorem State.strobe_frame (s : State) (mask : Nat) : Follows [.snap] s (s.strobe mask) :=
  State.strobe_follows s mask (fun _ k => k) (.refl s)

/-- A strobe takes the snapshot of each group named (R13). -/
theorem State.strobe_snaps {w : Word} {g : Nat} (hg : g < 16) (hw : bitAt w g = true) :
    ∃ y ∈ (s.strobe (fld w 0 16)).reg.snaps, y.group = g ∧ y.blocks = s.groupBlocks g :=
  ⟨s.snapOf g, State.mem_takeSnaps.mpr (.inr ⟨mem_bitsOf_low.mpr ⟨hg, hw⟩, rfl⟩), rfl, rfl⟩

/-- What a table holds at a key after one operation for each key of a list, where the operation changes its own key
alone and does nothing more when it is repeated. -/
theorem foldl_reads {α : Type} {get : State → Nat → α} {act : State → Nat → State} {f : α → α}
    (hf : ∀ v, f (f v) = f v) (hkeep : ∀ t a, StoresOk t → StoresOk (act t a))
    (hact : ∀ t a c, StoresOk t → get (act t a) c = if c = a then f (get t c) else get t c) (hs : StoresOk s)
    (l : List Nat) (c : Nat) : get (l.foldl act s) c = if c ∈ l then f (get s c) else get s c := by
  induction l generalizing s with
  | nil => simp
  | cons a l ih =>
    rw [List.foldl_cons, ih (hkeep s a hs), hact s a c hs]
    by_cases hc : c = a
    · simp [hc, hf]
    · simp [hc]

/-- A transmit context asked to stop (R133). -/
def StxCtx.asked (v : StxCtx) : StxCtx := if v.run = true then { v with stopping := true } else v

theorem StxCtx.asked_asked (v : StxCtx) : v.asked.asked = v.asked := by
  unfold StxCtx.asked
  by_cases h : v.run = true <;> simp [h]

theorem State.stxStop_frame (s : State) (a : Nat) : Follows [.stx] s (s.stxStop a) :=
  State.stxStop_follows s a (fun _ k => k) (.refl s)

theorem State.stxStop_stxOf (hs : StoresOk s) (a c : Nat) :
    (s.stxStop a).stxOf c = if c = a then (s.stxOf c).asked else s.stxOf c := by
  unfold State.stxStop StxCtx.asked
  split
  · next h =>
    rw [State.setStx_stxOf hs]
    by_cases hc : c = a
    · rw [if_pos hc, if_pos hc, hc, if_pos h]
    · rw [if_neg hc, if_neg hc]
  · next h =>
    split
    · next hc => rw [hc, if_neg h]
    · rfl

theorem State.stxStopRange_stxOf (hs : StoresOk s) (w : Word) (c : Nat) :
    (s.stxStopRange w).stxOf c =
      if c ∈ rangeList w ∧ (s.stxOf c).run = true then { s.stxOf c with stopping := true } else s.stxOf c :=
  (foldl_reads StxCtx.asked_asked (fun t a => (t.stxStop_frame a).stores) (fun _ a c ht => State.stxStop_stxOf ht a c)
    hs _ c).trans (ite_and ..).symm

/-- A receive context asked to stop, unless its fade has begun (R161). -/
def SrxCtx.asked (v : SrxCtx) : SrxCtx :=
  if v.run = true ∧ v.stopLeft = none then { v with stopLeft := some 32, gwait := false } else v

theorem SrxCtx.asked_asked (v : SrxCtx) : v.asked.asked = v.asked := by
  unfold SrxCtx.asked
  by_cases h : v.run = true ∧ v.stopLeft = none <;> simp [h]

theorem State.srxStop_frame (s : State) (a : Nat) : Follows [.srx] s (s.srxStop a) :=
  State.srxStop_follows s a (fun _ k => k) (.refl s)

theorem State.srxStop_srxOf (hs : StoresOk s) (a c : Nat) :
    (s.srxStop a).srxOf c = if c = a then (s.srxOf c).asked else s.srxOf c := by
  unfold State.srxStop SrxCtx.asked
  simp only [Option.isNone_iff_eq_none]
  split
  · next h =>
    rw [State.setSrx_srxOf hs]
    by_cases hc : c = a
    · rw [if_pos hc, if_pos hc, hc, if_pos h]
    · rw [if_neg hc, if_neg hc]
  · next h =>
    split
    · next hc => rw [hc, if_neg h]
    · rfl

theorem State.srxStopRange_srxOf (hs : StoresOk s) (w : Word) (c : Nat) :
    (s.srxStopRange w).srxOf c = if c ∈ rangeList w ∧ (s.srxOf c).run = true ∧ (s.srxOf c).stopLeft = none
      then { s.srxOf c with stopLeft := some 32, gwait := false } else s.srxOf c :=
  (foldl_reads SrxCtx.asked_asked (fun t a => (t.srxStop_frame a).stores) (fun _ a c ht => State.srxStop_srxOf ht a c)
    hs _ c).trans (ite_and ..).symm

/-- Words written to a departure that is not armed: each register holds the last one written to it. -/
theorem State.depWrites_spec {d : Nat} (hs : StoresOk s) (ha : s.isArmed d = false) (l : List (Nat × Word)) :
    let t := l.foldl (fun u p => u.depWrite d p.1 p.2) s
    (∀ k, t.rwW k = l.foldl (fun w p => if k = depBase d + p.1 then p.2 else w) (s.rwW k)) ∧ Follows [.rw] s t := by
  induction l generalizing s with
  | nil => exact ⟨fun _ => rfl, .refl s⟩
  | cons p l ih =>
    have hwrite : s.depWrite d p.1 p.2 = s.setRw (depBase d + p.1) p.2 := if_neg (by simp [ha])
    have hset := s.setRw_frame (depBase d + p.1) p.2
    obtain ⟨hword, hrest⟩ := ih (hset.stores hs) ha
    simp only [List.foldl_cons, hwrite]
    refine ⟨fun k => (hword k).trans ?_, hset.trans hrest⟩
    rw [State.setRw_rwW hs]

/-- The words TT_LOAD writes, with the offsets of their registers in the departure (R35, R209). -/
def loadWords (x : Slot) : List (Nat × Word) :=
  [(0, x.desc.word 4), (4, x.desc.word 5), (8, cmdArg1 x &&& 0x1FF), (0xC, cmdArg2 x), (0x10, cmdArg3 x),
   (0x14, cmdArg4 x &&& 0xFFFF)]

/-- TT_LOAD without its arm bit. -/
theorem State.ttLoad_writes (hsh : s.shadowed = false) (ha : s.isArmed (fld (cmdArg0 x) 0 6) = false)
    (harm : bitAt (cmdArg0 x) 8 = false) :
    s.ttLoad x = (((loadWords x).foldl (fun u p => u.depWrite (fld (cmdArg0 x) 0 6) p.1 p.2) s).recordDep
      (fld (cmdArg0 x) 0 6), (0, 0, 0, 0)) := by
  unfold State.ttLoad
  simp only [hsh, ha, harm, Bool.false_eq_true, if_false]
  rfl

/-- TBL_READ of one word of a table that reads change nothing of: neither the power die's nor the registers'. -/
theorem State.tblRead_one (hn : fld (cmdArg1 x) 0 17 = 1) (ht : (cmdArg0 x).toNat / 0x1000000 < 7)
    (hr : (rowT (cmdArg0 x).toNat).isSome = true) :
    (s.tblRead x).1 = s.emit
        (.host (tblHost x) (bytesLE (s.tableWord (bitAt (cmdArg4 x) 0) (cmdArg0 x).toNat)) false) ∧
      (tblWords x).length = 1 := by
  obtain ⟨r, hr⟩ := Option.isSome_iff_exists.mp hr
  have hwords : tblWords x = [(cmdArg0 x).toNat] := by simp [tblWords, hn]
  have h7 : (cmdArg0 x).toNat / 0x1000000 ≠ 7 := by omega
  have h8 : (cmdArg0 x).toNat / 0x1000000 ≠ 8 := by omega
  refine ⟨?_, by rw [hwords]; rfl⟩
  unfold State.tblRead State.tRead
  simp [hwords, hr, h7, h8]

end

/-! ### The commands begin (R208, R209) -/

section
variable {s : State} {x : Slot} {op : Nat} {is : Nat → Bool}

theorem command_waits (hs : Ready s) (h : CmdHead s op x) (his : is op = true) (hb : boundaryOp op = true)
    (h8 : op ≠ 8) :
    ∃ t, run s (s.cmdBegin is) = .next t ∧ t.cmd = some (begun x) ∧ LeavesAllBut [.cmd] s t :=
  ⟨_, by rw [run_ready hs, State.cmdBegin_waits h his hb h8], rfl, (s.withCmd_frame _).others.settled⟩

/-- A command that acts as it begins completes with the result of its act. -/
theorem command_acts (hs : Ready s) (h : CmdHead s op x) (his : is op = true) (hb : boundaryOp op = false)
    (h8 : op ≠ 8) (hpos : cmdPos x = 0) {u : State} {r : CmdRes} (hact : s.cmdAct x = (u, some r)) :
    run s (s.cmdBegin is) = .next (settle (u.cmdFinish x.desc.slot r)) := by
  rw [run_ready hs, State.cmdBegin_acts h his hb h8 hpos, State.cmdGo_completes hact]

/-- A command that acts as it begins, with its outcome still to come, stays in progress. -/
theorem command_stays (hs : Ready s) (h : CmdHead s op x) (his : is op = true) (hb : boundaryOp op = false)
    (h8 : op ≠ 8) (hpos : cmdPos x = 0) {u : State} (hact : s.cmdAct x = (u, none)) :
    run s (s.cmdBegin is) = .next (settle
      { u with cmd := some { pos := none, late := false, acted := none, testing := decide (op = 0x0C) } }) := by
  rw [run_ready hs, State.cmdBegin_acts h his hb h8 hpos, State.cmdGo_later hact hpos, h.opcode]

theorem nop_completes (hs : Ready s) (h : CmdHead s 0x00 x) (hpos : cmdPos x = 0) :
    ∃ t, exec .nop s = .next t ∧ CmdCompletes s t x 0 0 0 0 ∧ LeavesAllBut [.ring, .cmd] s t :=
  ⟨_, command_acts hs h (by decide) (by decide) (by decide) hpos (State.cmdAct_nop h.opcode (s.inTime_now hpos)),
    State.cmdFinish_alone hs.1 x 0 0 0 0⟩

theorem strobe_completes (hs : Ready s) (h : CmdHead s 0x07 x) (hpos : cmdPos x = 0) :
    ∃ t, exec .strobe s = .next t ∧ CmdCompletes s t x 0 0 0 0 ∧ LeavesAllBut [.ring, .cmd, .snap] s t ∧
      ∀ g < 16, bitAt (cmdArg0 x) g = true → ∃ y ∈ t.reg.snaps, y.group = g ∧ y.blocks = s.groupBlocks g := by
  obtain ⟨hcpl, hothers⟩ :=
    State.cmdFinish_completes hs.1 (s.strobe_frame (fld (cmdArg0 x) 0 16)) rfl x 0 0 0 0
  exact ⟨_, command_acts hs h (by decide) (by decide) (by decide) hpos
    (State.cmdAct_strobe h.opcode (s.inTime_now hpos)), hcpl, hothers, fun g hg hw => State.strobe_snaps hg hw⟩

theorem ttLoad_loads (hs : Ready s) (h : CmdHead s 0x08 x) (hsh : s.shadowed = false)
    (ha : s.isArmed (fld (cmdArg0 x) 0 6) = false) (harm : bitAt (cmdArg0 x) 8 = false) :
    let a := depBase (fld (cmdArg0 x) 0 6)
    ∃ t, exec .ttLoad s = .next t ∧ CmdCompletes s t x 0 0 0 0 ∧ t.rwW a = x.desc.word 4 ∧
      t.rwW (a + 4) = x.desc.word 5 ∧ t.rwW (a + 8) = cmdArg1 x &&& 0x1FF ∧ t.rwW (a + 0xC) = cmdArg2 x ∧
      t.rwW (a + 0x10) = cmdArg3 x ∧ t.rwW (a + 0x14) = cmdArg4 x &&& 0xFFFF ∧
      (∀ k, k ∉ [a, a + 4, a + 8, a + 0xC, a + 0x10, a + 0x14] → t.rwW k = s.rwW k) ∧
      LeavesAllBut [.ring, .cmd, .rw, .pair] s t := by
  intro a
  obtain ⟨hword, hwrites⟩ := State.depWrites_spec hs.1 ha (loadWords x)
  refine ⟨_, run_ready hs _, ?_⟩
  rw [State.cmdBegin_ttLoad h (by decide), State.ttLoad_writes hsh ha harm]
  generalize (loadWords x).foldl (fun u p => u.depWrite (fld (cmdArg0 x) 0 6) p.1 p.2) s = u at *
  have hrec := u.recordDep_frame (fld (cmdArg0 x) 0 6)
  have hparts : Follows [.rw, .pair] s (u.recordDep (fld (cmdArg0 x) 0 6)) :=
    (hwrites.widen (by decide)).trans (hrec.widen (by decide))
  obtain ⟨hcpl, hothers⟩ := State.cmdFinish_completes hs.1 hparts rfl x 0 0 0 0
  have hreg (k : Nat) : (settle ((u.recordDep (fld (cmdArg0 x) 0 6)).cmdFinish x.desc.slot (0, 0, 0, 0))).rwW k =
      (loadWords x).foldl (fun w p => if k = a + p.1 then p.2 else w) (s.rwW k) :=
    (hrec.others.rwW rfl k).trans (hword k)
  refine ⟨hcpl, ?_, ?_, ?_, ?_, ?_, ?_, fun k hk => (hreg k).trans ?_, hothers⟩
  case refine_7 =>
    simp only [List.mem_cons, List.not_mem_nil, or_false, not_or] at hk
    simp [loadWords, hk]
  all_goals exact (hreg _).trans (by simp [loadWords])

theorem tblWrite_reads (hs : Ready s) (h : CmdHead s 0x09 x) (hpos : cmdPos x = 0) (hb : s.tblBlocked x = none) :
    ∃ t, exec .tblWrite s = .next t ∧
      t.cmd = some { pos := none, late := false, acted := none, testing := false } ∧
      t.ringOf 0 = (s.ringOf 0).issued x.desc.slot ∧ OtherRings 0 s t ∧ LeavesAllBut [.ring, .cmd] s t := by
  have hmod : Follows [.ring] s (s.cmdRead x.desc.slot) := State.cmdRead_follows s _ (fun _ k => k) (.refl s)
  exact ⟨_, command_stays hs h (by decide) (by decide) (by decide) hpos (State.cmdAct_tblWrite h.opcode hb), rfl,
    State.modRing_same hs.1 0 (Ring.issued · x.desc.slot),
    State.modRing_otherRings hs.1 0 (Ring.issued · x.desc.slot),
    ((hmod.others.widen (by decide)).trans ((State.withCmd_frame _ _).others.widen (by decide))).settled⟩

theorem tblRead_answers (hs : Ready s) (h : CmdHead s 0x0A x) (hpos : cmdPos x = 0) (hn : fld (cmdArg1 x) 0 17 = 1)
    (ht : (cmdArg0 x).toNat / 0x1000000 < 7) (hr : (rowT (cmdArg0 x).toNat).isSome = true) :
    ∃ t, exec .tblRead s = .next t ∧ CmdCompletes s t x 0 0 1 0 ∧ LeavesAllBut [.ring, .cmd] s t ∧
      t.out = s.out ++ [.host (tblHost x) (bytesLE (s.tableWord (bitAt (cmdArg4 x) 0) (cmdArg0 x).toNat)) false]
        ++ sentMsgs s := by
  obtain ⟨hread, hlen⟩ := State.tblRead_one (s := s) hn ht hr
  have hact := State.cmdAct_tblRead h.opcode (s.inTime_now hpos)
  rw [hread, hlen] at hact
  obtain ⟨hcpl, hothers⟩ := State.cmdFinish_completes hs.1 (s.emit_frame _) rfl x 0 0 1 0
  exact ⟨_, command_acts hs h (by decide) (by decide) (by decide) hpos hact, hcpl, hothers, settle_out rfl rfl rfl⟩

theorem selftest_starts (hs : Ready s) (h : CmdHead s 0x0C x) (hpos : cmdPos x = 0) (hcls : fld (cmdArg0 x) 0 8 = 2)
    (hidle : s.testIdle 2 (fld (cmdArg0 x) 8 8) = true) :
    let e := fld (cmdArg0 x) 8 8
    ∃ t, exec .selftest s = .next t ∧
      t.cmd = some { pos := none, late := false, acted := none, testing := true } ∧
      t.engOf e = { s.engOf e with testing := true } ∧ (∀ k, k ≠ e → t.engOf k = s.engOf k) ∧
      LeavesAllBut [.cmd, .eng] s t := by
  intro e
  have hact := State.cmdAct_selftest h.opcode (by rw [hcls]; exact hidle)
  have hset : s.setTesting (fld (cmdArg0 x) 0 8) e (fld (cmdArg0 x) 16 8) true =
      s.setEng e { s.engOf e with testing := true } := by rw [hcls]; rfl
  rw [hset] at hact
  have heng (k : Nat) := State.setEng_engOf hs.1 e k { s.engOf e with testing := true }
  have hparts := s.setEng_frame e { s.engOf e with testing := true }
  exact ⟨_, command_stays hs h (by decide) (by decide) (by decide) hpos hact, rfl, (heng e).trans (if_pos rfl),
    fun k hk => (heng k).trans (if_neg hk),
    ((hparts.others.widen (by decide)).trans ((State.withCmd_frame _ _).others.widen (by decide))).settled⟩

theorem badcmd_completes (hs : Ready s) (hc : s.cmd = none) (hx : s.cmdSlot = some x) (hop : 0x0D ≤ cmdOp x) :
    ∃ t, exec .badcmd s = .next t ∧ CmdCompletes s t x 3 0 0 0 ∧ LeavesAllBut [.ring, .cmd] s t := by
  refine ⟨_, run_ready hs _, ?_⟩
  rw [State.cmdBegin_refused hc hx (decide_eq_true hop) (State.cmdRefusal_reserved hop)]
  exact State.cmdFinish_alone hs.1 x 3 0 0 0

end

/-- Settles O41: each clause is the lemma of its command, and the commands that act at a boundary begin alike. -/
theorem commandsBegin : Obligations.CommandsBegin := by
  intro s x hs
  have hwaits {op : Nat} {is : Nat → Bool} (his : is op = true) (hb : boundaryOp op = true) (h8 : op ≠ 8)
      (h : CmdHead s op x) := command_waits hs h his hb h8
  exact ⟨nop_completes hs, hwaits (by decide) (by decide) (by decide), hwaits (by decide) (by decide) (by decide),
    hwaits (by decide) (by decide) (by decide), hwaits (by decide) (by decide) (by decide),
    hwaits (by decide) (by decide) (by decide), hwaits (by decide) (by decide) (by decide),
    hwaits (by decide) (by decide) (by decide), strobe_completes hs, ttLoad_loads hs, tblWrite_reads hs,
    tblRead_answers hs, selftest_starts hs, badcmd_completes hs⟩

/-! ### The commands act at their boundary (R208, R209, R243) -/

section
variable {s : State} {x : Slot}

theorem commandAtPos_acted (hs : Ready s) {c : CmdWait} {st d : Nat} {r0 r1 : Word} (hc : s.cmd = some c)
    (ha : c.acted = some (st, d, r0, r1)) (hx : s.cmdSlot = some x) :
    ∃ t, exec .commandAtPos s = .next t ∧ CmdCompletes s t x st d r0 r1 ∧ LeavesAllBut [.ring, .cmd] s t := by
  refine ⟨_, run_ready hs _, ?_⟩
  rw [State.cmdAtPos_acted hc ha hx]
  exact State.cmdFinish_alone hs.1 x st d r0 r1

/-- A command due at this boundary acts, and completes with the result of its act. -/
theorem commandAtPos_due (hs : Ready s) {op : Nat} {u : State} {r : CmdRes} (h : CmdDue s op x)
    (hact : s.cmdAct x = (u, some r)) : exec .commandAtPos s = .next (settle (u.cmdFinish x.desc.slot r)) := by
  refine (run_ready hs _).trans ?_
  rw [State.cmdAtPos_due h, State.cmdGo_completes hact]

theorem commandAtPos_nop (hs : Ready s) (h : CmdDue s 0x00 x) :
    ∃ t, exec .commandAtPos s = .next t ∧ CmdCompletes s t x 0 0 0 0 ∧ LeavesAllBut [.ring, .cmd] s t :=
  ⟨_, commandAtPos_due hs h (State.cmdAct_nop h.opcode h.inTime), State.cmdFinish_alone hs.1 x 0 0 0 0⟩

theorem commandAtPos_stxStop (hs : Ready s) (h : CmdDue s 0x02 x) :
    ∃ t, exec .commandAtPos s = .next t ∧ CmdCompletes s t x 0 0
        (toWord ((rangeList (cmdArg0 x)).filter (fun c => (s.stxOf c).run ∧ ¬(s.stxOf c).stopping)).length) 0 ∧
      (∀ c, t.stxOf c = if c ∈ rangeList (cmdArg0 x) ∧ (s.stxOf c).run = true
        then { s.stxOf c with stopping := true } else s.stxOf c) ∧
      LeavesAllBut [.ring, .cmd, .stx] s t := by
  have hparts : Follows [.stx] s (s.stxStopRange (cmdArg0 x)) :=
    State.stxStopRange_follows s _ (fun _ k => k) (.refl s)
  obtain ⟨hcpl, hothers⟩ := State.cmdFinish_completes hs.1 hparts rfl x 0 0 (toWord
    ((rangeList (cmdArg0 x)).filter (fun c => (s.stxOf c).run ∧ ¬(s.stxOf c).stopping)).length) 0
  exact ⟨_, commandAtPos_due hs h (State.cmdAct_stxStop h.opcode h.inTime), hcpl,
    State.stxStopRange_stxOf hs.1 _, hothers⟩

theorem commandAtPos_srxStop (hs : Ready s) (h : CmdDue s 0x04 x) :
    ∃ t, exec .commandAtPos s = .next t ∧ CmdCompletes s t x 0 0
        (toWord ((rangeList (cmdArg0 x)).filter (fun c => (s.srxOf c).run ∧ (s.srxOf c).stopLeft.isNone)).length) 0 ∧
      (∀ c, t.srxOf c = if c ∈ rangeList (cmdArg0 x) ∧ (s.srxOf c).run = true ∧ (s.srxOf c).stopLeft = none
        then { s.srxOf c with stopLeft := some 32, gwait := false } else s.srxOf c) ∧
      LeavesAllBut [.ring, .cmd, .srx] s t := by
  have hparts : Follows [.srx] s (s.srxStopRange (cmdArg0 x)) :=
    State.srxStopRange_follows s _ (fun _ k => k) (.refl s)
  obtain ⟨hcpl, hothers⟩ := State.cmdFinish_completes hs.1 hparts rfl x 0 0 (toWord
    ((rangeList (cmdArg0 x)).filter (fun c => (s.srxOf c).run ∧ (s.srxOf c).stopLeft.isNone)).length) 0
  exact ⟨_, commandAtPos_due hs h (State.cmdAct_srxStop h.opcode h.inTime), hcpl,
    State.srxStopRange_srxOf hs.1 _, hothers⟩

/-- A ring of host audio started at the boundary: a draw ring skips the two blocks already gathered (R216, R220). -/
def Ring.audStarted (r : Ring) (skip : Nat) : Ring :=
  { r with started := true, skip := skip, stopReq := false, slices := [] }

theorem State.audStart_now (s : State) (p : Nat) :
    s.audStart p s.tt.now = s.setRing p ((s.ringOf p).audStarted (if ringClass p = 4 then 2 * s.T else 0)) := by
  unfold State.audStart
  rw [Nat.sub_self]
  rfl

theorem commandAtPos_audStart (hs : Ready s) (h : CmdDue s 0x05 x)
    (hen : (s.ringOf (fld (cmdArg0 x) 0 6)).st ≠ .disabled) (hc : s.audCause (fld (cmdArg0 x) 0 6) = 0)
    (hp : 17 ≤ fld (cmdArg0 x) 0 6) :
    let p := fld (cmdArg0 x) 0 6
    ∃ t, exec .commandAtPos s = .next t ∧ t.cmd = none ∧
      t.ringOf p = (s.ringOf p).audStarted (if ringClass p = 4 then 2 * s.T else 0) ∧
      t.ringOf 0 = (s.ringOf 0).finish x.desc.slot (fun tag => cplOf tag 0 0 0 0 0) ∧
      (∀ k, k ≠ 0 → k ≠ p → t.ringOf k = s.ringOf k) ∧ LeavesAllBut [.ring, .cmd] s t := by
  intro p
  have hp0 : p ≠ 0 := by omega
  have hexec := commandAtPos_due hs h (State.cmdAct_audStart h.opcode h.pos_now hen hc)
  rw [State.audStart_now] at hexec
  refine ⟨_, hexec, ?_⟩
  generalize (s.ringOf p).audStarted (if ringClass p = 4 then 2 * s.T else 0) = v
  have hset := s.setRing_frame p v
  have hring (k : Nat) := State.setRing_ringOf hs.1 p k v
  obtain ⟨⟨hcmd, hrings, hhead⟩, hothers⟩ := State.cmdFinish_alone (hset.stores hs.1) x 0 0 0 0
  refine ⟨hcmd, ?_, ?_, fun k hk hkp => ?_, (hset.others.widen (by decide)).trans hothers⟩
  · rw [hrings p hp0, hring, if_pos rfl]
  · rw [hhead, hring, if_neg hp0.symm]
  · rw [hrings k hk, hring, if_neg hkp]

theorem commandAtPos_strobe (hs : Ready s) (h : CmdDue s 0x07 x) :
    ∃ t, exec .commandAtPos s = .next t ∧ CmdCompletes s t x 0 0 0 0 ∧ LeavesAllBut [.ring, .cmd, .snap] s t ∧
      ∀ g < 16, bitAt (cmdArg0 x) g = true → ∃ y ∈ t.reg.snaps, y.group = g ∧ y.blocks = s.groupBlocks g := by
  obtain ⟨hcpl, hothers⟩ :=
    State.cmdFinish_completes hs.1 (s.strobe_frame (fld (cmdArg0 x) 0 16)) rfl x 0 0 0 0
  exact ⟨_, commandAtPos_due hs h (State.cmdAct_strobe h.opcode h.inTime), hcpl, hothers,
    fun g hg hw => State.strobe_snaps hg hw⟩

/-- The test of a port that ends: a serial port gives up its mark (R243). -/
theorem State.testEnd_port {c : CmdWait} {fail : Bool} {detail : Nat} (hc : s.cmd = some c) (ht : c.testing = true)
    (hl : c.late = false) (hx : s.cmdSlot = some x) (hcls : fld (cmdArg0 x) 0 8 = 1 ∨ fld (cmdArg0 x) 0 8 = 3) :
    s.testEnd fail detail =
      (s.setTesting (fld (cmdArg0 x) 0 8) (fld (cmdArg0 x) 8 8) (fld (cmdArg0 x) 16 8) false).cmdFinish x.desc.slot
        (0, 0, toWord (b2n fail + put 8 (detail % 2 ^ 24)), 0) := by
  unfold State.testEnd
  obtain h | h := hcls <;> simp [hc, hx, ht, hl, h, toWord_putb_false]

theorem selftestEnd_completes (hs : Ready s) {c : CmdWait} (fail : Bool) (detail : Nat) (hc : s.cmd = some c)
    (ht : c.testing = true) (hl : c.late = false) (hx : s.cmdSlot = some x)
    (hcls : fld (cmdArg0 x) 0 8 = 1 ∨ fld (cmdArg0 x) 0 8 = 3) :
    ∃ t, exec (.selftestEnd fail detail) s = .next t ∧
      CmdCompletes s t x 0 0 (toWord (b2n fail + put 8 (detail % 2 ^ 24))) 0 ∧
      (∀ k, k ≠ fld (cmdArg0 x) 8 8 → t.sapOf k = s.sapOf k) ∧
      (fld (cmdArg0 x) 0 8 = 3 →
        t.sapOf (fld (cmdArg0 x) 8 8) = { s.sapOf (fld (cmdArg0 x) 8 8) with testing := false }) ∧
      LeavesAllBut [.ring, .cmd, .sap] s t := by
  refine ⟨_, run_ready hs _, ?_⟩
  rw [State.testEnd_port hc ht hl hx hcls]
  generalize fld (cmdArg0 x) 8 8 = n
  obtain h | h := hcls
  · have hset : s.setTesting (fld (cmdArg0 x) 0 8) n (fld (cmdArg0 x) 16 8) false = s := by rw [h]; rfl
    obtain ⟨hcpl, hothers⟩ := State.cmdFinish_alone hs.1 x 0 0 (toWord (b2n fail + put 8 (detail % 2 ^ 24))) 0
    rw [hset]
    exact ⟨hcpl, fun _ _ => rfl, fun h3 => absurd (h.symm.trans h3) (by decide), hothers.widen (by decide)⟩
  · have hset : s.setTesting (fld (cmdArg0 x) 0 8) n (fld (cmdArg0 x) 16 8) false =
        s.setSap n { s.sapOf n with testing := false } := by rw [h]; rfl
    have hsap (k : Nat) := State.setSap_sapOf hs.1 n k { s.sapOf n with testing := false }
    obtain ⟨hcpl, hothers⟩ := State.cmdFinish_completes hs.1 (s.setSap_frame n { s.sapOf n with testing := false })
      rfl x 0 0 (toWord (b2n fail + put 8 (detail % 2 ^ 24))) 0
    rw [hset]
    exact ⟨hcpl, fun k hk => (hsap k).trans (if_neg hk), fun _ => (hsap n).trans (if_pos rfl), hothers⟩

end

/-- Settles O42: each clause is the lemma of its command. -/
theorem commandsAct : Obligations.CommandsAct := by
  intro s x hs
  exact ⟨fun c st d r0 r1 => commandAtPos_acted hs, commandAtPos_nop hs, commandAtPos_stxStop hs,
    commandAtPos_srxStop hs, commandAtPos_audStart hs, commandAtPos_strobe hs,
    fun c fail detail => selftestEnd_completes hs fail detail⟩

end Sys2Proof.Machine

/-! SUPPORT. Units in hard stop and their resets at a boundary (R240), and the end of a configuration CRC pass (R396, R397). -/

namespace Sys2Proof.Machine

/-! ### RCU_BRST (R240) -/

section
variable {s : State}

/-- A field at the bottom of a word is all that a mask of its width leaves of the word. -/
theorem fld_and_ones (d : Word) {n : Nat} (hn : n ≤ 32) : fld (d &&& toWord (2 ^ n - 1)) 0 n = fld d 0 n := by
  have hones : (toWord (2 ^ n - 1)).toNat = 2 ^ n - 1 := by
    have hle := Nat.pow_le_pow_right (show 0 < 2 by decide) hn
    have hpos := Nat.two_pow_pos n
    exact Nat.mod_eq_of_lt (by omega)
  unfold fld
  rw [BitVec.toNat_and, hones, Nat.and_two_pow_sub_one_eq_mod, pow_zero, Nat.div_one, Nat.div_one, Nat.mod_mod]

theorem State.brstWrite_taken {d : Word} (hh : s.reg.hstop.getLsbD (fld d 0 5) = true) (hn : fld d 0 5 ∉ s.reg.brst) :
    s.brstWrite d = { s with reg := { s.reg with brst := s.reg.brst ++ [fld d 0 5] } } := by
  unfold State.brstWrite
  simp [hh, hn]

theorem State.brstWrite_ignored {d : Word} (hh : s.reg.hstop.getLsbD (fld d 0 5) = false) : s.brstWrite d = s := by
  unfold State.brstWrite
  simp [hh]

theorem State.brstWrite_low5 (s : State) (d : Word) : s.brstWrite (d &&& toWord 0x1F) = s.brstWrite d := by
  unfold State.brstWrite
  rw [show fld (d &&& toWord 0x1F) 0 5 = fld d 0 5 from fld_and_ones d (n := 5) (by decide)]

theorem rcuBrst_writes (hs : Ready s) (q : Req) {v : View} (hv : v = .normal ∨ v = .set) (d : Word) :
    exec (.rcuBrst ⟨q, v, d⟩) s = .next (settle (s.brstWrite d)) := by
  have hwrite : s.write32 q v 0x10C4 d = s.brstWrite d :=
    (State.write32_wo s.present_brst (kindFault_wo_taken hv 0xC4 0x1F (by decide)) rfl rfl (by decide)).trans
      (s.brstWrite_low5 d)
  exact (congrArg (run s) hwrite).trans (run_ready hs _)

theorem rcuBrst_records (hs : Ready s) (q : Req) {v : View} (hv : v = .normal ∨ v = .set) (d : Word)
    (hh : s.reg.hstop.getLsbD (fld d 0 5) = true) (hn : fld d 0 5 ∉ s.reg.brst) :
    ∃ t, exec (.rcuBrst ⟨q, v, d⟩) s = .next t ∧ t.reg.brst = s.reg.brst ++ [fld d 0 5] ∧ t.reg.lock = s.reg.lock ∧
      t.reg.hstop = s.reg.hstop ∧ LeavesAllBut [.rcu] s t := by
  have hparts := (State.brstWrite_follows s d (fun _ k => k) (.refl s)).others.settled
  refine ⟨_, rcuBrst_writes hs q hv d, ?_⟩
  rw [State.brstWrite_taken hh hn] at hparts ⊢
  exact ⟨rfl, rfl, rfl, hparts⟩

theorem rcuBrst_ignores (hs : Ready s) (q : Req) {v : View} (hv : v = .normal ∨ v = .set) (d : Word)
    (hh : s.reg.hstop.getLsbD (fld d 0 5) = false) :
    ∃ t, exec (.rcuBrst ⟨q, v, d⟩) s = .next t ∧ LeavesAllBut [] s t := by
  refine ⟨_, rcuBrst_writes hs q hv d, ?_⟩
  rw [State.brstWrite_ignored hh]
  exact LeavesAllBut.settled fun p _ => p.same_refl s

end

/-! ### The units in hard stop through a unit's reset (R239, R240) -/

/-- Every unit but one is in hard stop in `t` where it is in `s`. -/
def OtherHstops (n : Nat) (s t : State) : Prop := ∀ k, k ≠ n → t.reg.hstop.getLsbD k = s.reg.hstop.getLsbD k

section
variable {s t u : State} {n : Nat}

theorem OtherHstops.trans (h : OtherHstops n s t) (k : OtherHstops n t u) : OtherHstops n s u :=
  fun j hj => (k j hj).trans (h j hj)

theorem LeavesAllBut.otherHstops {ps : List Part} (h : LeavesAllBut ps s t) (hh : ps.elem .hstop = false) :
    OtherHstops n s t := fun _ _ => by rw [h.keeps .hstop hh]

theorem State.clearHstop_otherHstops (s : State) (n : Nat) : OtherHstops n s (s.clearHstop n) := by
  intro k hk
  rw [State.clearHstop_reg_hstop, BitVec.getLsbD_and, BitVec.getLsbD_not, BitVec.getLsbD_ofNat,
    Nat.testBit_two_pow_of_ne hk.symm]
  by_cases h : k < 24
  · simp [h]
  · simp [BitVec.getLsbD_of_ge _ k (Nat.le_of_not_lt h)]

/-- A change of rung clears the hard stop of its own port alone. -/
theorem State.rungChange_otherHstops (s : State) (p r : Nat) : OtherHstops p s (s.rungChange p r) := by
  have hdown := State.takeDown_follows s p (fun _ k => k) (.refl s)
  have hrung := State.setRung_follows (s.takeDown p) p r (fun _ k => k) (.refl _)
  have hclear := State.clearHstop_otherHstops ((s.takeDown p).setRung p r) p
  intro k hk
  unfold State.rungChange
  rw [State.modMac_hstop]
  exact ((hdown.others.otherHstops rfl).trans ((hrung.others.otherHstops rfl).trans hclear)) k hk

theorem State.retrainPort_otherHstops (s : State) (p : Nat) : OtherHstops p s (s.retrainPort p) := by
  unfold State.retrainPort
  split
  · exact s.rungChange_otherHstops p _
  · exact fun _ _ => rfl

/-- A relock that begins clears the hard stop of SYN alone. -/
theorem State.relockBegin_otherHstops (s : State) : OtherHstops 2 s s.relockBegin := by
  by_cases h : s.syn.rstep = 2 ∨ s.syn.rstep = 3
  · have hmod := State.modSyn_frame s.unlockMark fun y => { y with
      req := false, unlockReq := false, tries := 0, counting := false, again := decide (y.rstep = 3) }
    rw [State.relockBegin, if_pos h]
    exact (s.unlockMark_frame.others.otherHstops rfl).trans (hmod.others.otherHstops rfl)
  · rw [State.relockBegin_new (fun e => h (.inl e)) fun e => h (.inr e)]
    have hfence : OtherHstops 2 s.unlockMark (s.unlockMark.relockFenced s.rampLen) := by
      intro k hk
      rw [← s.unlockMark.clearHstop_otherHstops 2 k hk]
      unfold State.relockFenced
      simp
    exact (s.unlockMark_frame.others.otherHstops rfl).trans (hfence.trans
      (((State.satAdd_frame _ 0x28018 16 1).others.otherHstops rfl).trans ((State.raise_others _ 40).otherHstops rfl)))

/-- The reset of a unit takes it out of hard stop. -/
theorem State.unitReset_hstop (s : State) (n : Nat) : (s.unitReset n).reg.hstop.getLsbD n = false :=
  State.clearHstop_hstop _ n

/-- The reset of a unit leaves every other unit in hard stop as it was. -/
theorem State.unitReset_otherHstops (s : State) (n : Nat) : OtherHstops n s (s.unitReset n) := by
  unfold State.unitReset
  refine .trans ?_ (State.clearHstop_otherHstops _ n)
  have hrc (a : Nat) (w : Word) : OtherHstops n s (s.setRc a w) := (s.setRc_frame a w).others.otherHstops rfl
  split_ifs with hmac hsyn hmgt hpwr hlink heng hsap
  · exact ((hrc _ _).trans ((State.setRc_frame _ _ _).others.otherHstops rfl)).trans (State.retrainPort_otherHstops _ n)
  · subst hsyn
    exact (hrc _ _).trans (State.relockBegin_otherHstops _)
  · exact (State.mgtUnitReset_follows s (fun _ k => k) (.refl s)).others.otherHstops rfl
  · exact (hrc _ _).trans ((State.pwrUnitReset_follows _ _ (fun _ k => k) (.refl _)).others.otherHstops rfl)
  · exact (hrc _ _).trans ((State.linkUnitReset_follows _ (fun _ k => k) (.refl _)).others.otherHstops rfl)
  · exact (State.engUnitReset_follows s _ (fun _ k => k) (.refl s)).others.otherHstops rfl
  · exact (State.sapUnitReset_follows s _ (fun _ k => k) (.refl s)).others.otherHstops rfl
  · exact fun _ _ => rfl

theorem State.unitReset_brst (s : State) (n : Nat) : (s.unitReset n).reg.brst = s.reg.brst :=
  have hunit := State.unitReset_follows s n (fun _ k => k) (.refl s)
  (hunit.others.rcuKept rfl).2.2.2.2.2.2

/-- Resets one after another: a unit stays in hard stop where it was and none of them is its own. -/
theorem State.unitResets_hstop (s : State) (ns : List Nat) (k : Nat) :
    (ns.foldl State.unitReset s).reg.hstop.getLsbD k = (s.reg.hstop.getLsbD k && !ns.contains k) := by
  induction ns generalizing s with
  | nil => simp
  | cons n ns ih =>
    rw [List.foldl_cons, ih]
    by_cases hk : k = n
    · subst hk
      rw [State.unitReset_hstop]
      simp
    · rw [s.unitReset_otherHstops n k hk]
      simp [hk]

theorem State.unitResets_brst (s : State) (ns : List Nat) : (ns.foldl State.unitReset s).reg.brst = s.reg.brst := by
  induction ns generalizing s with
  | nil => rfl
  | cons n ns ih => rw [List.foldl_cons, ih, State.unitReset_brst]

theorem blockReset_resets (hs : Ready s) :
    ∃ t, exec .blockReset s = .next t ∧ t.reg.brst = [] ∧
      ∀ n < 24, t.reg.hstop.getLsbD n = (s.reg.hstop.getLsbD n && !s.reg.brst.contains n) :=
  ⟨_, run_ready hs _, State.unitResets_brst _ _, fun n _ => State.unitResets_hstop _ _ n⟩

end

/-! ### The end of a CRC pass (R396, R397) -/

section
variable {s : State}

theorem State.setCrc_frame (s : State) (c : Crc) : Follows [.crc] s (s.setCrc c) :=
  State.setCrc_follows s c (fun _ k => k) (.refl s)

/-- The first mismatch is reported: MATCH falls, CFG_CRC shows in its flag and its event, and no RC bit is cleared. -/
theorem State.crcMismatch_first (hs : StoresOk s) (hf : s.reg.crc.fresh = true) :
    let t := s.crcMismatch
    t.reg.crc = { s.reg.crc with matched := false, fresh := false, held := true } ∧ bitAt (t.rcW 0x1068) 2 = true ∧
      t.event 94 = true ∧ KeepsBits s t ∧ RcOnly [0x1068, evtStat 94] s t := by
  intro t
  have hset := s.setCrc_frame { s.reg.crc with matched := false, fresh := false, held := true }
  have hok := hset.stores hs
  generalize hu : s.setCrc { s.reg.crc with matched := false, fresh := false, held := true } = u at hset hok
  have hcrc : u.reg.crc = { s.reg.crc with matched := false, fresh := false, held := true } := by rw [← hu]; rfl
  have hmute : LeavesAllBut [.mix] (u.flagRaise 0x1068 0x4 94) t := by
    simp only [t, State.crcMismatch, if_pos hf, hu]
    exact (Follows.ite (State.muteAll_frame _ _ _) (.refl _)).others
  refine ⟨?_, ?_, ?_, ?_, ?_⟩
  · rw [hmute.keeps .crc rfl, (State.flagRaise_others u _ _ _).keeps .crc rfl, hcrc]
  · rw [hmute.rcW rfl]
    exact State.flagRaise_bit hok (by decide) (by decide) (by decide)
  · rw [hmute.event rfl]
    exact State.flagRaise_event hok _ _ 94 rfl
  · exact (hset.others.keepsBits rfl).trans (.trans (State.flagRaise_raises u _ _ _ hok).2 (hmute.keepsBits rfl))
  · exact ((hset.others.rcOnly rfl).flagRaise (by simp) (by simp)).trans (hmute.rcOnly rfl)

theorem State.crcMatch_crc (s : State) :
    s.crcMatch.reg.crc = { s.reg.crc with matched := true, fresh := true, held := false } := by
  unfold State.crcMatch
  dsimp only
  split
  · exact ((State.unmuteAll_frame _ _ _).others).keeps .crc rfl
  · rfl

/-- RCU_CRC once a whole pass has ended, before it is compared. -/
def State.passDone (s : State) : Crc :=
  { s.reg.crc with passOn := false, last := s.crcValue, passes := (s.reg.crc.passes + 1) % 65536 }

theorem State.passEnd_uncounted (hon : s.reg.crc.passOn = true) (hc : s.reg.crc.passCounts = false) :
    s.passEnd false = s.setCrc s.passDone := by
  simp [State.passEnd, State.passDone, hon, hc]

theorem State.passEnd_match (hon : s.reg.crc.passOn = true) (hc : s.reg.crc.passCounts = true)
    (hv : s.crcValue = s.rwW 0x1060) : s.passEnd false = (s.setCrc s.passDone).crcMatch := by
  simp [State.passEnd, State.passDone, hon, hc, hv]

theorem State.passEnd_mismatch (hon : s.reg.crc.passOn = true) (hc : s.reg.crc.passCounts = true)
    (hv : s.crcValue ≠ s.rwW 0x1060) : s.passEnd false = (s.setCrc s.passDone).crcMismatch := by
  simp [State.passEnd, State.passDone, hon, hc, hv]

theorem State.passEnd_parity (hon : s.reg.crc.passOn = true) (hc : s.reg.crc.passCounts = true) :
    s.passEnd true = ((s.setCrc { s.reg.crc with passOn := false }).flag 0x1068 0x8).crcMismatch := by
  simp [State.passEnd, hon, hc]

theorem crcPassEnd_uncounted (hs : Ready s) (hon : s.reg.crc.passOn = true) (hc : s.reg.crc.passCounts = false) :
    ∃ t, exec (.crcPassEnd false) s = .next t ∧ t.reg.crc.last = s.crcValue ∧
      t.reg.crc.passes = (s.reg.crc.passes + 1) % 65536 ∧ t.reg.crc.matched = s.reg.crc.matched ∧
      LeavesAllBut [.crc] s t := by
  refine ⟨_, run_ready hs _, ?_⟩
  rw [State.passEnd_uncounted hon hc]
  exact ⟨rfl, rfl, rfl, (s.setCrc_frame _).others.settled⟩

theorem crcPassEnd_matches (hs : Ready s) (hon : s.reg.crc.passOn = true) (hc : s.reg.crc.passCounts = true)
    (hv : s.crcValue = s.rwW 0x1060) :
    ∃ t, exec (.crcPassEnd false) s = .next t ∧ t.reg.crc.last = s.crcValue ∧ t.reg.crc.matched = true ∧
      t.reg.crc.held = false ∧ LeavesAllBut [.crc, .mix] s t := by
  refine ⟨_, run_ready hs _, ?_⟩
  have hparts := State.crcMatch_follows (s.setCrc s.passDone) (fun _ k => k) (.refl _)
  rw [State.passEnd_match hon hc hv, settle_reg, State.crcMatch_crc]
  exact ⟨rfl, rfl, rfl, (((s.setCrc_frame _).others.widen (by decide)).trans hparts.others).settled⟩

theorem crcPassEnd_mismatches (hs : Ready s) (hon : s.reg.crc.passOn = true) (hc : s.reg.crc.passCounts = true)
    (hv : s.crcValue ≠ s.rwW 0x1060) (hf : s.reg.crc.fresh = true) :
    ∃ t, exec (.crcPassEnd false) s = .next t ∧ t.reg.crc.last = s.crcValue ∧ t.reg.crc.matched = false ∧
      t.reg.crc.held = true ∧ bitAt (t.rcW 0x1068) 2 = true ∧ t.event 94 = true ∧ RcOnly [0x1068, evtStat 94] s t ∧
      LeavesAllBut [.rc, .crc, .mix] s t := by
  refine ⟨_, run_ready hs _, ?_⟩
  have hparts := State.passEnd_follows s false (fun _ k => k) (.refl s)
  have hset := s.setCrc_frame s.passDone
  obtain ⟨hcrc, hbit, hevent, -, hrc⟩ := State.crcMismatch_first (s := s.setCrc s.passDone) (hset.stores hs.1) hf
  rw [State.passEnd_mismatch hon hc hv] at hparts ⊢
  rw [settle_reg, hcrc]
  exact ⟨rfl, rfl, rfl, hbit, hevent, (hset.others.rcOnly rfl).trans hrc, hparts.others.settled⟩

theorem crcPassEnd_parity (hs : Ready s) (hon : s.reg.crc.passOn = true) (hc : s.reg.crc.passCounts = true)
    (hf : s.reg.crc.fresh = true) :
    ∃ t, exec (.crcPassEnd true) s = .next t ∧ t.reg.crc.last = s.reg.crc.last ∧ t.reg.crc.passOn = false ∧
      bitAt (t.rcW 0x1068) 3 = true ∧ bitAt (t.rcW 0x1068) 2 = true ∧ t.event 94 = true ∧
      RcOnly [0x1068, evtStat 94] s t ∧ LeavesAllBut [.rc, .crc, .mix] s t := by
  refine ⟨_, run_ready hs _, ?_⟩
  have hparts := State.passEnd_follows s true (fun _ k => k) (.refl s)
  have hset := s.setCrc_frame { s.reg.crc with passOn := false }
  have hok := hset.stores hs.1
  have hbit3 : bitAt (((s.setCrc { s.reg.crc with passOn := false }).flag 0x1068 0x8).rcW 0x1068) 3 = true := by
    rw [State.flag_rcW hok, if_pos rfl]
    exact bitAt_or _ 3 8 (by decide) (by decide)
  obtain ⟨hcrc, hbit, hevent, hkeep, hrc⟩ :=
    State.crcMismatch_first (s := (s.setCrc { s.reg.crc with passOn := false }).flag 0x1068 0x8)
      (State.flag_storesOk hok _ _) hf
  rw [State.passEnd_parity hon hc] at hparts ⊢
  rw [settle_reg, hcrc]
  exact ⟨rfl, rfl, hkeep _ _ hbit3, hbit, hevent, ((hset.others.rcOnly rfl).flag (by simp)).trans hrc,
    hparts.others.settled⟩

end

/-- Settles O19: each clause is the lemma of its command. -/
theorem hardStopResetsAndCrcPasses : Obligations.HardStopResetsAndCrcPasses :=
  ⟨⟨fun _ q _ d hs hv => ⟨rcuBrst_records hs q hv d, rcuBrst_ignores hs q hv d⟩, fun _ hs => blockReset_resets hs⟩,
    fun _ hs hon => ⟨crcPassEnd_uncounted hs hon, crcPassEnd_matches hs hon, crcPassEnd_mismatches hs hon,
      crcPassEnd_parity hs hon⟩⟩

end Sys2Proof.Machine

/-! SUPPORT. What a device reset leaves, and the temperature limits of the part (R231, R419, R423). -/

namespace Sys2Proof.Machine

/-! ### What a device reset leaves (R419, R423) -/

section
variable {s t : State} {cause : Nat}

theorem settle_nothingDue (h : s.due = []) : settle s = s := by
  cases s
  cases h
  simp [settle]

/-- The device reset itself: every store empty but the words of PMU that survive. -/
theorem State.deviceReset_after (s : State) (cause : Nat) : AfterDeviceReset cause s (s.deviceReset cause) := by
  have hrw (a : Nat) : (s.deviceReset cause).rwW a = if a = 0x3014 ∨ a = 0x304C then s.rwW a else resetWord a := by
    have hcfg : swf resetWord (sset resetWord [] 0x3014 (s.rwW 0x3014)) = true := swf_sset rfl _ _
    refine (sget_sset hcfg _ a _).trans ?_
    rw [sget_sset rfl]
    by_cases hwake : a = 0x304C
    · simp [hwake]
    · by_cases hw : a = 0x3014 <;> simp [hwake, hw, sget]
  have hrc (a : Nat) : (s.deviceReset cause).rcW a =
      if a = 0x300C then (if s.syn.spll then 0 else s.rcW a) ||| toWord cause else resetWord a := by
    refine (sget_sset rfl 0x300C a _).trans ?_
    by_cases h : a = 0x300C
    · simp [h]
    · simp [h, sget, State.resetOf, regsReset]
  exact ⟨fun _ => ⟨rfl, rfl, rfl, rfl⟩, hrw, hrc, rfl, rfl, rfl, rfl, rfl, rfl, rfl, rfl, rfl, rfl, rfl, rfl, rfl, rfl, rfl,
    rfl, rfl, rfl, rfl, rfl, rfl, rfl, rfl⟩

/-- What a device reset leaves says nothing of the supplies, the lock bits of the clocks and the power link. -/
theorem AfterDeviceReset.withSupplies (h : AfterDeviceReset cause s t) (m : Pmu) (y : Syn) (p : Pwr) :
    AfterDeviceReset cause s { t with pmu := m, syn := y, pwr := p } := h

/-- The start of the die settles supplies, clocks and the power link, and leaves the temperature as read. -/
theorem State.startUp_eq (s : State) (x : Straps) : ∃ m y p, s.startUp x = { s with pmu := m, syn := y, pwr := p } ∧
    m.overheat = s.pmu.overheat ∧ m.hot = s.pmu.hot ∧ m.temp = s.pmu.temp := by
  unfold State.startUp
  split
  · exact ⟨_, _, _, rfl, rfl, rfl, rfl⟩
  · exact ⟨_, _, _, rfl, rfl, rfl, rfl⟩

end

/-! ### The temperature limits (R231) -/

section
variable {s : State} {d : Int}

theorem runPowered_held (h : s.held = false) (t : State) : runPowered s t = .next (settle t) := by
  unfold runPowered done
  simp [h]

theorem State.withPmu_frame (s : State) (m : Pmu) : Follows [.pmu] s { s with pmu := m } :=
  (Follows.refl s).mkRegs (fun _ k => k) id fun p hp => by
    cases p with
    | pmu => exact absurd (List.mem_singleton_self _) hp
    | _ => rfl

theorem State.thermal_rises (hd : 115 < d) (hh : s.pmu.hot = false) :
    s.thermal d = ({ s with pmu := { s.pmu with temp := d, hot := true } } : State).flagRaise 0x3004 0x1 95 := by
  simp [State.thermal, hd, hh]

theorem State.thermal_cools (hd : d < 110) : s.thermal d = { s with pmu := { s.pmu with temp := d, hot := false } } := by
  unfold State.thermal
  dsimp only
  rw [if_neg (by omega), if_pos hd]

/-- Above the warning limit the part is hot at the reading, whether it was hot before or not. -/
theorem State.thermal_pmu (hd : 115 < d) : (s.thermal d).pmu = { s.pmu with temp := d, hot := true } := by
  cases hh : s.pmu.hot with
  | false =>
    rw [State.thermal_rises hd hh]
    exact (State.flagRaise_others _ _ _ _).keeps .pmu rfl
  | true => simp [State.thermal, hd, hh]

theorem thermal_warns (hs : StoresOk s) (hheld : s.held = false) (hd : 115 < d) (hh : s.pmu.hot = false) :
    ∃ t, exec (.thermal d) s = .next t ∧ t.pmu = { s.pmu with temp := d, hot := true } ∧ bitAt (t.rcW 0x3004) 0 = true ∧
      t.event 95 = true ∧ RcOnly [0x3004, evtStat 95] s t ∧ LeavesAllBut [.rc, .pmu] s t := by
  have hparts := (State.thermal_follows s d (fun _ k => k) (.refl s)).others.settled
  have hset := s.withPmu_frame { s.pmu with temp := d, hot := true }
  have hok := hset.stores hs
  refine ⟨settle (s.thermal d), runPowered_held hheld _, State.thermal_pmu hd, ?_⟩
  rw [State.thermal_rises hd hh] at hparts ⊢
  exact ⟨State.flagRaise_bit hok (by decide) (by decide) (by decide), State.flagRaise_event hok _ _ 95 rfl,
    (hset.others.rcOnly rfl).flagRaise (by simp) (by simp), hparts⟩

theorem thermal_cools (hheld : s.held = false) (hd : d < 110) :
    ∃ t, exec (.thermal d) s = .next t ∧ t.pmu = { s.pmu with temp := d, hot := false } ∧ LeavesAllBut [.pmu] s t := by
  refine ⟨settle (s.thermal d), runPowered_held hheld _, ?_⟩
  rw [State.thermal_cools hd]
  exact ⟨rfl, (s.withPmu_frame _).others.settled⟩

/-- A sink muted for a cause that no stage holds at reset is held by it, whatever form the table of stages has. -/
theorem State.muteOn_held {c : MuteCause} (hc : ∀ k, c ∉ (muteReset k).causes) (s : State) (k len : Nat) :
    c ∈ ((s.muteOn k c len).muteOf k).causes := by
  have hon := (s.muteOf k).on_causes c len
  have hread : (s.muteOn k c len).muteOf k = (s.muteOf k).on c len :=
    sget_sset_of_ne _ fun h => hc k (h ▸ hon)
  rwa [hread]

theorem State.muteOns_held {c : MuteCause} (hc : ∀ k, c ∉ (muteReset k).causes) (s : State) (ks : List Nat)
    (len : Nat) {k : Nat} (h : k ∈ ks ∨ c ∈ (s.muteOf k).causes) :
    c ∈ ((ks.foldl (fun t j => t.muteOn j c len) s).muteOf k).causes := by
  induction ks generalizing s with
  | nil => exact h.resolve_left List.not_mem_nil
  | cons j ks ih =>
    refine ih _ ?_
    by_cases hkj : k = j
    · exact .inr (hkj ▸ State.muteOn_held hc s k len)
    · rw [s.muteOn_muteOf_other hkj]
      exact h.imp_left fun hm => (List.mem_cons.mp hm).resolve_left hkj

theorem State.muteAll_held {c : MuteCause} (hc : ∀ k, c ∉ (muteReset k).causes) (s : State) (len : Nat) {k : Nat}
    (hk : k < 12) : c ∈ ((s.muteAll c len).muteOf k).causes :=
  State.muteOns_held hc s sinkClasses len (.inl (List.mem_range.mpr hk))

theorem overtemp_notMem_muteReset (k : Nat) : MuteCause.overtemp ∉ (muteReset k).causes := by
  unfold muteReset
  split_ifs <;> simp

/-- The part as its sinks begin to ramp to mute. -/
def State.overheated (s : State) (d : Int) : State :=
  { s.thermal d with pmu := { s.pmu with temp := d, hot := true, overheat := true } }

theorem State.overheated_frame (s : State) (d : Int) : Follows [.rc, .pmu] s (s.overheated d) :=
  (State.thermal_follows s d (fun _ k => k) (.refl s)).trans ((State.withPmu_frame _ _).widen (by decide))

theorem State.overtemp_mutes (hd : 135 < d) (ho : s.pmu.overheat = false) (hup : s.pmu.up = true)
    (ha : s.pmu.asleep ≠ 2) : s.overtemp d = (s.overheated d).muteAll .overtemp (s.overheated d).msSamples := by
  unfold State.overtemp State.overheated
  dsimp only
  rw [if_pos ⟨hd, by rw [ho]; rfl⟩, State.thermal_pmu (by omega)]
  exact if_pos ⟨hup, ha⟩

theorem overtemp_mutes (hheld : s.held = false) (hd : 135 < d) (ho : s.pmu.overheat = false) (hup : s.pmu.up = true)
    (ha : s.pmu.asleep ≠ 2) :
    ∃ t, exec (.overtemp d) s = .next t ∧ t.pmu.overheat = true ∧ t.pmu.hot = true ∧ t.pmu.temp = d ∧
      (∀ k < 12, (t.muteOf k).causes.contains .overtemp = true) ∧ LeavesAllBut [.rc, .mix, .pmu] s t := by
  refine ⟨settle (s.overtemp d), runPowered_held hheld _, ?_⟩
  have hmute := (s.overheated d).muteAll_frame .overtemp (s.overheated d).msSamples
  rw [State.overtemp_mutes hd ho hup ha, settle_pmu, hmute.others.keeps .pmu rfl]
  refine ⟨rfl, rfl, rfl, fun k hk => ?_,
    (((s.overheated_frame d).others.widen (by decide)).trans (hmute.others.widen (by decide))).settled⟩
  rw [settle_muteOf]
  exact List.contains_iff_mem.mpr (State.muteAll_held overtemp_notMem_muteReset _ _ hk)

/-- The part cooled after a reset for its temperature, before it starts. -/
def State.cooled (s : State) (d : Int) : State :=
  { s.heatHold with pmu := { s.heatHold.pmu with overheat := false, hot := false, temp := d } }

theorem State.overtempRelease_starts (x : Straps) (ho : s.pmu.overheat = true) (hd : d < 110) (hup : s.pmu.up = true) :
    s.overtempRelease d x = (s.cooled d).startUp x := by
  simp [State.overtempRelease, State.cooled, ho, hd, hup]

theorem overtempRelease_starts (x : Straps) (ho : s.pmu.overheat = true) (hd : d < 110) (hup : s.pmu.up = true) :
    ∃ t, exec (.overtempRelease d x) s = .next t ∧ AfterDeviceReset 0x8 s t ∧ t.pmu.overheat = false ∧
      t.pmu.hot = false ∧ t.pmu.temp = d := by
  obtain ⟨m, y, p, hstart, hover, hhot, htemp⟩ := (s.cooled d).startUp_eq x
  have hreset := s.deviceReset_after 0x8
  refine ⟨settle (s.overtempRelease d x), rfl, ?_⟩
  rw [State.overtempRelease_starts x ho hd hup, hstart, settle_nothingDue rfl]
  exact ⟨hreset.withSupplies m y p, hover, hhot, htemp⟩

end

/-- Settles O34: each clause is the lemma of its command. -/
theorem temperatureLimits : Obligations.TemperatureLimits :=
  ⟨fun _ _ hs hheld hd hh => thermal_warns hs hheld hd hh, fun _ _ hheld hd => thermal_cools hheld hd,
    fun _ _ hheld hd ho hup ha => overtemp_mutes hheld hd ho hup ha,
    fun _ _ x ho hd hup => overtempRelease_starts x ho hd hup⟩

end Sys2Proof.Machine

/-! SUPPORT. The effect engines: CLEAR and DCLR, the ends of zeroing and of a recovery window, pool reads that arrive, and local
memory (R231, R272, R281, R283, R289). -/

namespace Sys2Proof.Machine

/-! ### One engine written -/

section
variable {s t : State} {e : Nat}

theorem lt_eight_of_eng {m : Member} (h : e < numEng m) : e < 8 := h.trans_le (numEng_le m)

theorem run_eng (hs : Ready s) (he : e < numEng s.member) (t : State) : run s (s.onEng e t) = .next (settle t) :=
  (run_ready hs _).trans (by rw [State.onEng, if_pos he])

theorem run_engIndex (hs : Ready s) (he : e < numEng s.member) (t : State) :
    run s (s.onIndex e 8 t) = .next (settle t) :=
  (run_ready hs _).trans (by rw [State.onIndex, if_pos (lt_eight_of_eng he)])

theorem State.setEng_same (hs : StoresOk s) (e : Nat) (v : Eng) : (s.setEng e v).engOf e = v := by
  rw [State.setEng_engOf hs, if_pos rfl]

theorem State.setEng_otherEngines (hs : StoresOk s) (e : Nat) (v : Eng) : OtherEngines e s (s.setEng e v) :=
  fun k hk => by rw [State.setEng_engOf hs, if_neg hk]

theorem LeavesAllBut.otherEngines {ps : List Part} (h : LeavesAllBut ps s t) (he : ps.elem .eng = false) :
    OtherEngines e s t := fun k _ => h.engOf he k

/-- A command whose one effect is what an engine holds. -/
theorem modEng_completes {o : Host.Outcome State Fault Refusal} (hs : Ready s) {f : Eng → Eng}
    (ho : o = .next (settle (s.modEng e f))) :
    ∃ t, o = .next t ∧ t.engOf e = f (s.engOf e) ∧ OtherEngines e s t ∧ LeavesAllBut [.eng] s t :=
  ⟨_, ho, State.setEng_same hs.1 e _, State.setEng_otherEngines hs.1 e _, (s.modEng_frame e f).others.settled⟩

end

/-! ### CLEAR, DCLR, windows and pool reads (R231, R272, R281, R283) -/

section
variable {s : State} {e : Nat}

theorem State.engCommand_clear (s : State) (e : Nat) :
    s.engCommand e (toWord 1 &&& 0x1F000F) = s.modEng e (fun v => { v with clearReq := true }) := rfl

theorem State.engCommand_dclr (s : State) (e : Nat) :
    s.engCommand e (toWord 2 &&& 0x1F000F) = s.modEng e (fun v => { v with dclrReq := true }) := rfl

theorem engClear_asks (hs : Ready s) (he : e < numEng s.member) (q : Req) :
    ∃ t, exec (.engClear e q) s = .next t ∧ t.engOf e = { s.engOf e with clearReq := true } ∧ OtherEngines e s t ∧
      LeavesAllBut [.eng] s t := by
  refine modEng_completes (f := fun v => { v with clearReq := true }) hs ((run_engIndex hs he _).trans ?_)
  rw [State.ctl_eng s q e 1 he, State.engCommand_clear]

theorem dclr_asks (hs : Ready s) (he : e < numEng s.member) (q : Req) :
    ∃ t, exec (.dclr e q) s = .next t ∧ t.engOf e = { s.engOf e with dclrReq := true } ∧ OtherEngines e s t ∧
      LeavesAllBut [.eng] s t := by
  refine modEng_completes (f := fun v => { v with dclrReq := true }) hs ((run_engIndex hs he _).trans ?_)
  rw [State.ctl_eng s q e 2 he, State.engCommand_dclr]

theorem windowZeroEnd_ends (hs : Ready s) (he : e < numEng s.member) (hz : (s.engOf e).zeroing = true)
    (hleft : (s.engOf e).zLeft = 0) :
    ∃ t, exec (.windowZeroEnd e) s = .next t ∧ t.engOf e = { s.engOf e with zeroing := false } ∧
      OtherEngines e s t ∧ LeavesAllBut [.eng] s t := by
  refine modEng_completes (f := fun v => { v with zeroing := false }) hs ((run_eng hs he _).trans ?_)
  rw [State.zeroEnd, if_pos ⟨hz, hleft⟩]

theorem engineWindowEnd_closes (hs : Ready s) (he : e < numEng s.member) (hr : (s.engOf e).st = .running) :
    ∃ t, exec (.engineWindowEnd e) s = .next t ∧ t.engOf e = { s.engOf e with window := false } ∧
      OtherEngines e s t ∧ LeavesAllBut [.eng] s t := by
  refine modEng_completes (f := fun v => { v with window := false }) hs ((run_eng hs he _).trans ?_)
  rw [State.engWindowEnd, if_pos hr]

/-- An engine once the oldest of its pool reads has reached its accumulator. -/
def Eng.arrived (v : Eng) (f : PoolRead) (rest : List PoolRead) : Eng :=
  { v with acc := sset izero v.acc f.dest f.value, flight := rest, cyc := max v.cyc f.due }

theorem State.poolArrive_oldest {f : PoolRead} {rest : List PoolRead} (hf : (s.engOf e).flight = f :: rest) :
    s.poolArrive e = s.modEng e (·.arrived f rest) := by
  unfold State.poolArrive
  rw [hf]
  rfl

theorem poolDataArrival_arrives (hs : Ready s) (he : e < numEng s.member) {f : PoolRead} {rest : List PoolRead}
    (hf : (s.engOf e).flight = f :: rest) :
    ∃ t, exec (.poolDataArrival e) s = .next t ∧ t.engOf e = (s.engOf e).arrived f rest ∧ OtherEngines e s t ∧
      LeavesAllBut [.eng] s t := by
  refine modEng_completes (f := (·.arrived f rest)) hs ((run_eng hs he _).trans ?_)
  rw [State.poolArrive_oldest hf]

end

/-! ### Local memory (R289) -/

section
variable {s : State} {e : Nat}

/-- ENG_LMDATA_LO and ENG_LMDATA_HI are ports of every engine the member has. -/
theorem State.present_lmData (he : e < numEng s.member) (hi : Bool) :
    ∃ r, s.present (engBase e + if hi then 0x88 else 0x84) = some r ∧ r.port = true := by
  have he8 := lt_eight_of_eng he
  have hblock : ∀ e < 8, ∀ hi : Bool, blockAt (engBase e + if hi then 0x88 else 0x84) = some (bENG e) := by decide
  have hrow : ∀ e < 8, ∀ hi : Bool, rowAt (engBase e + if hi then 0x88 else 0x84) =
      some (rowPort (if hi then 0x88 else 0x84)) := by decide
  have hhas : ∀ m : Member, ∀ e < 8, e < numEng m → blockPresent m (bENG e) = true := by
    intro m
    cases m <;> decide
  have hinst : ∀ e < 8, instPresent s.member (bENG e) (engBase e + (if hi then 0x88 else 0x84) - blockBase (bENG e)) =
      true := by
    intro e he
    interval_cases e <;> rfl
  exact ⟨_, State.present_at (hblock e he8 hi) (hhas _ e he8 he) (hinst e he8) (hrow e he8 hi), rfl⟩

/-- What the address of a port of local memory names: an engine, its number, and which half of the word. -/
theorem lmData_addr (he : e < 8) (hi : Bool) :
    let a := engBase e + if hi then 0x88 else 0x84
    a ≠ 0x1054 ∧ isMboxPort a = false ∧ engIdx a = e ∧ decide (a % 0x1000 = 0x88) = hi := by
  unfold isMboxPort engIdx engBase
  cases hi
  · refine ⟨?_, decide_eq_false ?_, ?_, decide_eq_false ?_⟩ <;> simp only [Bool.false_eq_true, if_false] <;> omega
  · refine ⟨?_, decide_eq_false ?_, ?_, decide_eq_true ?_⟩ <;> simp only [if_true] <;> omega

theorem State.write32_lmData (he : e < numEng s.member) (q : Req) (hi : Bool) (d : Word) :
    s.write32 q .normal (engBase e + if hi then 0x88 else 0x84) d = s.lmWrite e hi d := by
  obtain ⟨r, hr, hport⟩ := State.present_lmData he hi
  obtain ⟨hind, hmbox, hidx, hhalf⟩ := lmData_addr (lt_eight_of_eng he) hi
  generalize engBase e + (if hi then 0x88 else 0x84) = a at *
  unfold State.write32
  simp [hr, kindFault, hport, State.portWrite, hind, hmbox, hidx, hhalf]

theorem State.read32_lmDataHi (he : e < numEng s.member) (q : Req) (i : Instant) :
    s.read32 q .normal i (engBase e + 0x88) = (some (s.lmRead e true).1, (s.lmRead e true).2) := by
  obtain ⟨r, hr, hport⟩ := State.present_lmData he true
  obtain ⟨hind, hmbox, hidx, hhalf⟩ := lmData_addr (lt_eight_of_eng he) true
  simp only [if_true] at hr hind hmbox hidx hhalf
  generalize engBase e + 0x88 = a at *
  unfold State.read32
  simp [hr, hport, State.portRead, hind, hmbox, hidx, of_decide_eq_true hhalf]

theorem lmDataWrite_writes (hs : Ready s) (he : e < numEng s.member) (q : Req) (hi : Bool) (d : Word) :
    exec (.lmDataWrite e hi ⟨q, .normal, d⟩) s = .next (settle (s.lmWrite e hi d)) := by
  rw [← State.write32_lmData he q hi d]
  exact run_engIndex hs he _

/-- The word an access of local memory goes on to. -/
def State.lmNext (s : State) (e : Nat) : Word := toWord (((s.rwW (lmAddr e)).toNat + 1) % 16384)

/-- The local memory of an engine with the word completed by a write of the high half. -/
def State.lmStored (s : State) (e : Nat) (d : Word) : SMap Int :=
  sset izero (s.engOf e).lmem (s.rwW (lmAddr e)).toNat (signed 48 (fld d 0 16 * 2 ^ 32 + (s.rwW (lmAddr e + 4)).toNat))

theorem State.lmWrite_hi (hr : (s.engOf e).st ≠ .running) (d : Word) :
    s.lmWrite e true d = (s.setEng e { s.engOf e with lmem := s.lmStored e d }).setRw (lmAddr e) (s.lmNext e) := by
  unfold State.lmWrite
  rw [if_neg hr]
  rfl

theorem State.lmWrite_running (hr : (s.engOf e).st = .running) (hi : Bool) (d : Word) :
    s.lmWrite e hi d = s.flag (engBase e + 0x00C) 0x100 := if_pos hr

theorem State.lmRead_hi (hr : (s.engOf e).st ≠ .running) :
    s.lmRead e true =
      (toWord (lmBits (sget izero (s.engOf e).lmem (s.rwW (lmAddr e)).toNat) / 2 ^ 32),
        s.setRw (lmAddr e) (s.lmNext e)) := by
  unfold State.lmRead
  rw [if_neg hr]
  rfl

theorem lmDataWrite_stores (hs : Ready s) (he : e < numEng s.member) (q : Req) (hr : (s.engOf e).st ≠ .running)
    (d : Word) :
    ∃ t, exec (.lmDataWrite e true ⟨q, .normal, d⟩) s = .next t ∧
      t.engOf e = { s.engOf e with lmem := s.lmStored e d } ∧ t.rwW (lmAddr e) = s.lmNext e ∧
      (∀ k, k ≠ lmAddr e → t.rwW k = s.rwW k) ∧ OtherEngines e s t ∧ LeavesAllBut [.eng, .rw] s t := by
  refine ⟨_, lmDataWrite_writes hs he q true d, ?_⟩
  rw [State.lmWrite_hi hr]
  generalize ({ s.engOf e with lmem := s.lmStored e d } : Eng) = v
  have hset := s.setEng_frame e v
  have hnext := (s.setEng e v).setRw_frame (lmAddr e) (s.lmNext e)
  have hword (k : Nat) := State.setRw_rwW (hset.stores hs.1) (lmAddr e) k (s.lmNext e)
  refine ⟨?_, (hword _).trans (if_pos rfl), fun k hk => ?_, ?_,
    ((hset.others.widen (by decide)).trans (hnext.others.widen (by decide))).settled⟩
  · exact (hnext.others.engOf rfl e).trans (State.setEng_same hs.1 e v)
  · exact ((hword k).trans (if_neg hk)).trans (hset.others.rwW rfl k)
  · exact fun k hk => (hnext.others.engOf rfl k).trans (State.setEng_otherEngines hs.1 e v k hk)

theorem lmDataWrite_refuses (hs : Ready s) (he : e < numEng s.member) (q : Req) (hr : (s.engOf e).st = .running)
    (hi : Bool) (d : Word) :
    ∃ t, exec (.lmDataWrite e hi ⟨q, .normal, d⟩) s = .next t ∧ bitAt (t.rcW (engBase e + 0x00C)) 8 = true ∧
      RcOnly [engBase e + 0x00C] s t ∧ LeavesAllBut [.rc] s t := by
  refine ⟨_, lmDataWrite_writes hs he q hi d, ?_⟩
  rw [State.lmWrite_running hr]
  refine ⟨?_, (RcOnly.refl _ s).flag (by simp), (State.flag_others s _ _).settled⟩
  rw [settle_rcW, State.flag_rcW hs.1, if_pos rfl]
  exact bitAt_or _ 8 0x100 (by decide) (by decide)

theorem lmDataRead_answers (hs : Ready s) (he : e < numEng s.member) (q : Req) (hr : (s.engOf e).st ≠ .running) :
    ∃ t, exec (.lmDataRead e q) s = .next t ∧
      t.reply = .value (toWord (lmBits (sget izero (s.engOf e).lmem (s.rwW (lmAddr e)).toNat) / 2 ^ 32)) 0 ∧
      t.rwW (lmAddr e) = s.lmNext e ∧ (∀ k, k ≠ lmAddr e → t.rwW k = s.rwW k) ∧ LeavesAllBut [.rw, .reply] s t := by
  refine ⟨_, run_engIndex hs he _, ?_⟩
  unfold State.regRead
  rw [State.read32_lmDataHi he q, State.lmRead_hi hr]
  have hnext := s.setRw_frame (lmAddr e) (s.lmNext e)
  have hword (k : Nat) := State.setRw_rwW hs.1 (lmAddr e) k (s.lmNext e)
  have hreply := State.withReply_frame (s.setRw (lmAddr e) (s.lmNext e))
    (.value (toWord (lmBits (sget izero (s.engOf e).lmem (s.rwW (lmAddr e)).toNat) / 2 ^ 32)) 0)
  exact ⟨rfl, (hword _).trans (if_pos rfl), fun k hk => (hword k).trans (if_neg hk),
    ((hnext.others.widen (by decide)).trans (hreply.others.widen (by decide))).settled⟩

end

/-- Settles O53: each clause is the lemma of its command. -/
theorem engineControls : Obligations.EngineControls := by
  intro s e q hs he
  exact ⟨engClear_asks hs he q, dclr_asks hs he q, windowZeroEnd_ends hs he, engineWindowEnd_closes hs he,
    fun f rest => poolDataArrival_arrives hs he, fun d hr => lmDataWrite_stores hs he q hr d,
    fun hi d hr => lmDataWrite_refuses hs he q hr hi d, lmDataRead_answers hs he q⟩

end Sys2Proof.Machine

/-! SUPPORT. The management core: its start and its restarts (R231, R425), and the doorbell (R428). -/

namespace Sys2Proof.Machine

/-! ### Skimming (R428) -/

section
variable {s : State}

/-- A core that is not ready, or has not been told of an item, leaves the mailboxes alone. -/
theorem mgtSkim_untold (n : Nat) (h : (s.mgt.ready && s.mgt.dbell.getLsbD 0) = false) : mgtSkim n s = s := by
  cases n with
  | zero => rfl
  | succ n => rw [mgtSkim, if_neg (by rw [h]; exact Bool.false_ne_true)]

/-- A request whose opcode names one waits for the command that serves it. -/
theorem mgtSkim_request (n : Nat) {h : Word} {p : List Word} (hi : s.item 28 = some (h :: p))
    (hop : 1 ≤ fld h 0 8 ∧ fld h 0 8 ≤ 6) : mgtSkim n s = s := by
  cases n with
  | zero => rfl
  | succ n =>
    rw [mgtSkim]
    split
    · simp [hi, hop]
    · rfl

end

/-! ### The firmware reports (R425) -/

section
variable {s : State} {f : FwImage}

/-- The management core once its firmware has reported. -/
def Mgt.reported (m : Mgt) (f : FwImage) : Mgt :=
  { m with ready := true, fwver := f.version, imageCrc := f.crc, rebooting := false, wdogWin := false }

/-- The part as its firmware reports, before the words that come with the image. -/
def State.reported (s : State) (f : FwImage) : State :=
  { s with mgt := s.mgt.reported f, pmu := { s.pmu with up := true } }

theorem State.reported_frame (s : State) (f : FwImage) : Follows [.pmu, .mgt] s (s.reported f) :=
  (Follows.refl s).mkRegs (fun _ k => k) id fun p hp => by
    cases p with
    | pmu => exact absurd List.mem_cons_self hp
    | mgt => exact absurd (List.mem_cons_of_mem _ (List.mem_singleton_self _)) hp
    | _ => rfl

/-- PCI_SUBID takes its one write. -/
def State.subidTaken (s : State) (w : Word) : State :=
  { s.setRw 0x7000 w with reg := { (s.setRw 0x7000 w).reg with subidDone := true } }

theorem State.subidTaken_frame (s : State) (w : Word) : Follows [.rw, .rcu] s (s.subidTaken w) :=
  State.lkAct_follows s 0x7000 w (fun _ k => k) (.refl s)

/-- The subsystem IDs a valid image names, where none have been written. -/
def State.withSubid (s : State) (f : FwImage) : State :=
  match f.subid with
  | some w => if f.valid && !s.reg.subidDone then s.lkAct 0x7000 w else s
  | none => s

theorem State.withSubid_none (h : f.subid = none) : s.withSubid f = s := by
  unfold State.withSubid
  rw [h]

theorem State.withSubid_some {w : Word} (h : f.subid = some w) (hv : f.valid = true) (hd : s.reg.subidDone = false) :
    s.withSubid f = s.subidTaken w := by
  unfold State.withSubid
  rw [h]
  exact if_pos (by rw [hv, hd]; rfl)

/-- A valid image in a mode with a host: what the core reports, then the IDs the image names, then what waits in MB0. -/
theorem State.firmwareReady_boots (hpll : s.syn.spll = true) (hbist : s.pmu.bistFail = false)
    (hready : s.mgt.ready = false) (hstop : s.reg.hstop.getLsbD 3 = false) (hv : f.valid = true)
    (hboot : s.pmu.boot = 0) : s.firmwareReady f = mgtSkim 1024 ((s.reported f).withSubid f) := by
  unfold State.firmwareReady
  rw [if_neg (by simp only [hpll, hbist, hready, hstop, Bool.not_true, Bool.false_eq_true, or_self, not_false_iff]),
    if_neg (by simp [hv])]
  dsimp only
  rw [if_neg (by rw [hboot]; decide), if_pos hv]
  rfl

/-- A core that reports with no doorbell noted finds nothing to do. -/
theorem mgtSkim_reported {t : State} (ht : t.mgt = s.mgt.reported f) (hbell : s.mgt.dbell = 0) :
    mgtSkim 1024 t = t :=
  mgtSkim_untold 1024 (by rw [ht, Mgt.reported, hbell]; rfl)

theorem firmwareReady_reports (hd : s.down = false) (hpll : s.syn.spll = true) (hbist : s.pmu.bistFail = false)
    (hready : s.mgt.ready = false) (hstop : s.reg.hstop.getLsbD 3 = false) (hv : f.valid = true)
    (hsubid : f.subid = none) (hboot : s.pmu.boot = 0) (hbell : s.mgt.dbell = 0) :
    ∃ t, exec (.firmwareReady f) s = .next t ∧ t.mgt = s.mgt.reported f ∧ t.pmu = { s.pmu with up := true } ∧
      LeavesAllBut [.pmu, .mgt] s t := by
  refine ⟨_, run_up hd _, ?_⟩
  rw [State.firmwareReady_boots hpll hbist hready hstop hv hboot, State.withSubid_none hsubid,
    mgtSkim_reported rfl hbell]
  exact ⟨rfl, rfl, (s.reported_frame f).others.settled⟩

theorem firmwareReady_setsSubid (hs : Ready s) {w : Word} (hpll : s.syn.spll = true) (hbist : s.pmu.bistFail = false)
    (hready : s.mgt.ready = false) (hstop : s.reg.hstop.getLsbD 3 = false) (hv : f.valid = true)
    (hsubid : f.subid = some w) (hdone : s.reg.subidDone = false) (hboot : s.pmu.boot = 0) (hbell : s.mgt.dbell = 0) :
    ∃ t, exec (.firmwareReady f) s = .next t ∧ t.mgt.ready = true ∧ t.rwW 0x7000 = w ∧ t.reg.subidDone = true ∧
      (∀ a, a ≠ 0x7000 → t.rwW a = s.rwW a) ∧ LeavesAllBut [.rw, .rcu, .pmu, .mgt] s t := by
  refine ⟨_, run_ready hs _, ?_⟩
  rw [State.firmwareReady_boots hpll hbist hready hstop hv hboot, State.withSubid_some (s := s.reported f) hsubid hv hdone,
    mgtSkim_reported rfl hbell]
  have hreport := s.reported_frame f
  have htaken := (s.reported f).subidTaken_frame w
  have hword (a : Nat) := State.setRw_rwW (hreport.stores hs.1) 0x7000 a w
  exact ⟨rfl, (hword _).trans (if_pos rfl), rfl, fun a ha => (hword a).trans (if_neg ha),
    ((hreport.others.widen (by decide)).trans (htaken.others.widen (by decide))).settled⟩

end

/-! ### The doorbell (R428) -/

section
variable {s : State}

theorem State.present_mgtBell (s : State) : s.present 0x400C = some (rowWO 0xC 0x3) :=
  State.present_at (b := bMGT) rfl rfl rfl rfl

theorem State.write32_mgtBell (s : State) (q : Req) {v : View} (hv : v = .normal ∨ v = .set) (d : Word) :
    s.write32 q v 0x400C d = s.mgtBell (fld d 0 2) := by
  rw [State.write32_wo s.present_mgtBell (kindFault_wo_taken hv 0xC 0x3 (by decide)) rfl rfl (by decide)]
  exact congrArg s.mgtBell (fld_and_ones d (n := 2) (by decide))

/-- The part with the bits of a doorbell noted. -/
def State.belled (s : State) (m : Nat) : State :=
  { s with mgt := { s.mgt with dbell := s.mgt.dbell ||| BitVec.ofNat 2 m } }

theorem State.withMgt_frame (s : State) {m : Mgt} (hm : m.flash = s.mgt.flash) : Follows [.mgt] s { s with mgt := m } :=
  (Follows.refl s).mkRegs (fun _ k => k) (fun k => by rw [hm]; exact k) fun p hp => by
    cases p with
    | mgt => exact absurd (List.mem_singleton_self _) hp
    | _ => rfl

theorem State.belled_frame (s : State) (m : Nat) : Follows [.mgt] s (s.belled m) :=
  s.withMgt_frame (m := { s.mgt with dbell := s.mgt.dbell ||| BitVec.ofNat 2 m }) rfl

theorem State.mgtBell_noted (m : Nat) (h : s.mgt.ready = false ∨
    ∃ h p, s.item 28 = some (h :: p) ∧ 1 ≤ fld h 0 8 ∧ fld h 0 8 ≤ 6) : s.mgtBell m = s.belled m := by
  obtain hready | ⟨h, p, hi, hop⟩ := h
  · exact mgtSkim_untold (s := s.belled m) 1024 (by simp [State.belled, hready])
  · exact mgtSkim_request (s := s.belled m) 1024 hi hop

theorem mgtDbell_notes (hd : s.down = false) (q : Req) {v : View} (hv : v = .normal ∨ v = .set) (d : Word)
    (h : s.mgt.ready = false ∨ ∃ h p, s.item 28 = some (h :: p) ∧ 1 ≤ fld h 0 8 ∧ fld h 0 8 ≤ 6) :
    ∃ t, exec (.mgtDbell ⟨q, v, d⟩) s = .next t ∧
      t.mgt = { s.mgt with dbell := s.mgt.dbell ||| BitVec.ofNat 2 (fld d 0 2) } ∧ LeavesAllBut [.mgt] s t := by
  have hexec : exec (.mgtDbell ⟨q, v, d⟩) s = .next (settle (s.belled (fld d 0 2))) := by
    rw [← State.mgtBell_noted _ h, ← s.write32_mgtBell q hv d]
    exact run_up hd _
  exact ⟨_, hexec, rfl, (s.belled_frame _).others.settled⟩

end

/-! ### The watchdog (R228, R231) -/

section
variable {s : State}

/-- A mailbox ordered to flush, and flushed, holds no open item. -/
theorem State.mboxFlush_flushed (hs : StoresOk s) {n : Nat} (hlo : 28 ≤ n) (hhi : n < 32) :
    let t := (s.mboxFlush n).mboxFlushed n
    (t.mboxOf n).writing = [] ∧ OtherMailboxes n s t ∧ StoresOk t := by
  intro t
  have hset := s.setMbox_frame n { s.mboxOf n with flushing := true }
  have horder : s.mboxFlush n = s.setMbox n { s.mboxOf n with flushing := true } := if_pos ⟨hlo, hhi⟩
  have hsame := State.setMbox_same hs n { s.mboxOf n with flushing := true }
  have hother := State.setMbox_otherMailboxes hs n { s.mboxOf n with flushing := true }
  simp only [t, horder]
  generalize s.setMbox n { s.mboxOf n with flushing := true } = u at *
  have hok := hset.stores hs
  unfold State.mboxFlushed
  dsimp only
  rw [if_pos (by rw [hsame]), State.setMbox_same hok]
  exact ⟨rfl, hother.trans (State.setMbox_otherMailboxes hok n _), State.setMbox_storesOk n _ hok⟩

/-- Mailboxes flushed one after another: each of them, and each that was so before, holds no open item. -/
theorem State.mboxFlushes_writing (hs : StoresOk s) {ns : List Nat} (hns : ∀ n ∈ ns, 28 ≤ n ∧ n < 32) {k : Nat}
    (h : k ∈ ns ∨ (s.mboxOf k).writing = []) :
    ((ns.foldl (fun t n => (t.mboxFlush n).mboxFlushed n) s).mboxOf k).writing = [] := by
  induction ns generalizing s with
  | nil => exact h.resolve_left List.not_mem_nil
  | cons n ns ih =>
    obtain ⟨hlo, hhi⟩ := hns n List.mem_cons_self
    obtain ⟨hsame, hother, hok⟩ := State.mboxFlush_flushed hs hlo hhi
    refine ih hok (fun j hj => hns j (List.mem_cons_of_mem _ hj)) ?_
    by_cases hk : k = n
    · exact .inr (hk ▸ hsame)
    · rw [hother k hk]
      exact h.imp_left fun hm => (List.mem_cons.mp hm).resolve_left hk

theorem State.mboxFlushAll_writing (hs : StoresOk s) {n : Nat} (hlo : 28 ≤ n) (hhi : n < 32) :
    (s.mboxFlushAll.mboxOf n).writing = [] :=
  State.mboxFlushes_writing hs (by decide) (.inl (by interval_cases n <;> decide))

/-- The core as its watchdog restarts it. -/
def Mgt.watched (m : Mgt) : Mgt :=
  { m with ready := false, rebooting := true, sigbox := false, wdogWin := true, dbell := 0 }

/-- The core restarted by its watchdog, its mailboxes flushed. -/
def State.coreWatched (s : State) : State := { s.mboxFlushAll with mgt := s.mboxFlushAll.mgt.watched }

theorem State.coreWatched_frame (s : State) : Follows [.mbox, .mgt] s s.coreWatched :=
  (State.mboxFlushAll_follows s (subParts_spec rfl) (.refl s)).trans
    ((s.mboxFlushAll.withMgt_frame (m := s.mboxFlushAll.mgt.watched) rfl).widen (by decide))

theorem State.coreWatched_mgt (s : State) : s.coreWatched.mgt = s.mgt.watched :=
  congrArg Mgt.watched ((State.mboxFlushAll_follows s (fun _ k => k) (.refl s)).others.keeps .mgt rfl)

theorem State.coreWatched_mboxOf (s : State) (n : Nat) : s.coreWatched.mboxOf n = s.mboxFlushAll.mboxOf n := by
  unfold State.coreWatched
  generalize s.mboxFlushAll = t
  rfl

/-- The restart shows in its flag and its event, before what a standalone mode loses with the core. -/
def State.watched (s : State) : State := s.coreWatched.flagRaise 0x4004 0x1 12

theorem State.watched_frame (s : State) : Follows [.rc, .mbox, .mgt] s s.watched :=
  State.flagRaise_follows _ _ _ _ (subParts_spec rfl) (s.coreWatched_frame.widen (by decide))

theorem State.watched_spec (hs : StoresOk s) :
    s.watched.mgt = s.mgt.watched ∧ (∀ n, 28 ≤ n → n < 32 → (s.watched.mboxOf n).writing = []) ∧
      bitAt (s.watched.rcW 0x4004) 0 = true ∧ s.watched.event 12 = true := by
  have hok := s.coreWatched_frame.stores hs
  have hflag := s.coreWatched.flagRaise_others 0x4004 0x1 12
  unfold State.watched
  refine ⟨?_, fun n hlo hhi => ?_, State.flagRaise_bit hok (by decide) (by decide) (by decide),
    State.flagRaise_event hok _ _ 12 rfl⟩
  · rw [hflag.keeps .mgt rfl, State.coreWatched_mgt]
  · rw [hflag.mboxOf rfl, State.coreWatched_mboxOf]
    exact State.mboxFlushAll_writing hs hlo hhi

/-- What a standalone mode loses with its core: the rings, and the words of the host interface. -/
def State.hostLost (s : State) (alone : Bool) : State :=
  if alone then { s with ring := [], hrx := [], cmd := none, reg := { s.reg with rw := dropKeys hostKey s.reg.rw } } else s

theorem State.hostLost_frame (s : State) (alone : Bool) : Follows [.rw, .hrx, .ring, .cmd] s (s.hostLost alone) := by
  refine .ite ?_ (.refl s)
  refine (Follows.refl s).mkStores (fp := [.rw, .hrx, .ring, .cmd]) (fun _ k => k)
    (fun ⟨h1, h2, h3, h4, h5⟩ => ⟨h1, h2, h3, swf_filter h4 _, h5⟩) (fun ⟨k1, _, k3⟩ => ⟨k1, rfl, k3⟩) fun p hp => ?_
  cases p with
  | rw | hrx | ring | cmd => exact absurd (by decide) hp
  | _ => rfl

theorem State.mgtWatchdog_restarts (h : s.reg.hstop.getLsbD 3 = false) :
    s.mgtWatchdog = if s.mgt.wdogWin then (s.watched.hostLost s.standalone).enterHstop 3
      else s.watched.hostLost s.standalone := by
  unfold State.mgtWatchdog State.watched State.coreWatched
  rw [if_neg (by rw [h]; exact Bool.false_ne_true)]
  generalize s.mboxFlushAll = t
  rfl

theorem mgtWatchdog_restarts (hs : Ready s) (h : s.reg.hstop.getLsbD 3 = false) :
    ∃ t, exec .mgtWatchdog s = .next t ∧ t.mgt.ready = false ∧ t.mgt.rebooting = true ∧ t.mgt.wdogWin = true ∧
      (∀ n, 28 ≤ n → n < 32 → (t.mboxOf n).writing = []) ∧ bitAt (t.rcW 0x4004) 0 = true ∧ t.event 12 = true ∧
      t.reg.hstop.getLsbD 3 = s.mgt.wdogWin := by
  obtain ⟨hmgt, hwriting, hbit, hevent⟩ := State.watched_spec hs.1
  have hlost := s.watched.hostLost_frame s.standalone
  have hboth := (s.watched_frame.widen (m := [.rw, .rc, .mbox, .hrx, .ring, .cmd, .mgt]) (by decide)).trans
    (hlost.widen (by decide))
  have hstop : (s.watched.hostLost s.standalone).reg.hstop.getLsbD 3 = false := by
    rw [hboth.others.keeps .hstop rfl, h]
  refine ⟨settle s.mgtWatchdog, run_ready hs _, ?_⟩
  rw [State.mgtWatchdog_restarts h]
  have hkept := hlost.others.keepsBits rfl
  have hmbox (n : Nat) := hlost.others.mboxOf rfl n
  replace hmgt := (hlost.others.keeps .mgt rfl).trans hmgt
  generalize s.watched.hostLost s.standalone = u at *
  have hin := State.enterHstop_follows u 3 (fun _ k => k) (.refl u)
  obtain ⟨-, hraised⟩ := u.enterHstop_raises 3 (hboth.stores hs.1)
  cases s.mgt.wdogWin with
  | false =>
    rw [if_neg (by decide), settle_mgt, hmgt]
    exact ⟨rfl, rfl, rfl, fun n hlo hhi => (congrArg Mailbox.writing (hmbox n)).trans (hwriting n hlo hhi),
      hkept _ _ hbit, hkept.event hevent, hstop⟩
  | true =>
    rw [if_pos rfl, settle_mgt, hin.others.keeps .mgt rfl, hmgt]
    exact ⟨rfl, rfl, rfl, fun n hlo hhi => (congrArg Mailbox.writing ((hin.others.mboxOf rfl n).trans (hmbox n))).trans
      (hwriting n hlo hhi), hraised _ _ (hkept _ _ hbit), hraised.event (hkept.event hevent),
      State.enterHstop_hstop u (by decide)⟩

end

end Sys2Proof.Machine

/-! SUPPORT. What the management core answers to the requests of the mailbox, each once (R428). -/

namespace Sys2Proof.Machine

/-! ### Whole items (R192) -/

section
variable {s t u : State} {n : Nat}

/-- A mailbox whose open item has ended with the words `ws`. -/
def Mailbox.withItem (v : Mailbox) (ws : List Word) : Mailbox :=
  { v with items := v.items ++ [v.writing ++ ws], writing := [] }

/-- A word that joins the open item. -/
def Mailbox.extended (v : Mailbox) (w : Word) : Mailbox := { v with writing := v.writing ++ [w] }

theorem Mailbox.held_extended (v : Mailbox) (w : Word) : (v.extended w).held = v.held + 1 := by
  simp [Mailbox.extended, Mailbox.held, Nat.add_assoc]

theorem Mailbox.withItem_extended (v : Mailbox) (w : Word) (ws : List Word) :
    (v.extended w).withItem ws = v.withItem (w :: ws) := by
  simp [Mailbox.extended, Mailbox.withItem]

theorem State.mboxAppend_end_spec (hs : StoresOk s) {w : Word} (ht : (s.mboxOf n).trim = 0)
    (hr : (s.mboxOf n).held < mboxWords) :
    let t := s.mboxAppend n w true
    t.mboxOf n = (s.mboxOf n).withItem [w] ∧ OtherMailboxes n s t ∧ (n = 29 ∨ n = 31 → t.event 11 = true) := by
  intro t
  have hset := s.setMbox_frame n ((s.mboxOf n).ended w)
  obtain ⟨hevent, -, hparts⟩ := State.mailSignal_spec (hset.stores hs) n
  simp only [t, State.mboxAppend_end ht hr]
  exact ⟨(hparts.mboxOf rfl n).trans (State.setMbox_same hs n _),
    (State.setMbox_otherMailboxes hs n _).trans (hparts.otherMailboxes rfl), hevent⟩

/-- A whole item written into a mailbox that takes words and has room for it. -/
theorem State.putItem_spec (hs : StoresOk s) {ws : List Word} (hne : ws ≠ []) (ht : (s.mboxOf n).trim = 0)
    (hr : (s.mboxOf n).held + ws.length ≤ mboxWords) :
    let t := s.putItem n ws
    t.mboxOf n = (s.mboxOf n).withItem ws ∧ OtherMailboxes n s t ∧ (n = 29 ∨ n = 31 → t.event 11 = true) := by
  fun_induction State.putItem s n ws with
  | case1 => exact absurd rfl hne
  | case2 s w => exact State.mboxAppend_end_spec hs ht (by simpa using hr)
  | case3 s w ws hws ih =>
    rw [List.length_cons] at hr
    have hopen : s.mboxAppend n w false = s.setMbox n ((s.mboxOf n).extended w) :=
      State.mboxAppend_open ht (by omega)
    have hsame := State.setMbox_same hs n ((s.mboxOf n).extended w)
    rw [hopen, hsame] at ih
    obtain ⟨hitem, hother, hevent⟩ := ih ((s.setMbox_frame n _).stores hs) hws ht (by rw [Mailbox.held_extended]; omega)
    rw [hopen]
    rw [Mailbox.withItem_extended] at hitem
    exact ⟨hitem, (State.setMbox_otherMailboxes hs n _).trans hother, hevent⟩

/-- Whatever a mailbox does with a word, the others are as they were. -/
theorem State.mboxAppend_otherMailboxes (s : State) (n : Nat) (w : Word) (e : Bool) :
    OtherMailboxes n s (s.mboxAppend n w e) := by
  have hset (v : Mailbox) : OtherMailboxes n s (s.setMbox n v) := fun _ hk => sget_sset_other _ v hk
  have hrest {v : Mailbox} {x : State} (h : LeavesAllBut [.rc, .count] (s.setMbox n v) x) : OtherMailboxes n s x :=
    (hset v).trans (h.otherMailboxes rfl)
  unfold State.mboxAppend
  extract_lets v t
  have ht : Follows [.rc, .count] (s.setMbox n _) t := (State.bump_frame _ _).widen (by decide)
  split
  · split
    · exact hrest (ht.trans ((t.flag_frame _ _).widen (by decide))).others
    · exact hrest ht.others
  · split
    · exact hrest (((State.bump_frame _ _).widen (by decide)).trans ((State.flag_frame _ _ _).widen (by decide))).others
    · split
      · exact hrest (State.mailSignal_follows _ _ (subParts_spec rfl) (.refl _)).others
      · exact hset _

theorem State.putItem_otherMailboxes (s : State) (n : Nat) (ws : List Word) : OtherMailboxes n s (s.putItem n ws) := by
  fun_induction State.putItem s n ws with
  | case1 => exact fun _ _ => rfl
  | case2 s w => exact s.mboxAppend_otherMailboxes n w true
  | case3 s w ws hws ih => exact (s.mboxAppend_otherMailboxes n w false).trans ih

/-- The core takes the one item of a mailbox. -/
theorem State.dropItem_spec (hs : StoresOk s) {x : List Word} {l : List (List Word)} (h : (s.mboxOf n).items = x :: l) :
    ((s.dropItem n).mboxOf n).items = l ∧ OtherMailboxes n s (s.dropItem n) := by
  unfold State.dropItem
  extract_lets v
  simp only [v, h]
  exact ⟨congrArg Mailbox.items (State.setMbox_same hs n _), State.setMbox_otherMailboxes hs n _⟩

theorem State.dropItem_frame (s : State) (n : Nat) : Follows [.mbox] s (s.dropItem n) :=
  State.dropItem_follows s n (fun _ k => k) (.refl s)

theorem State.item_nil (h : (s.mboxOf n).items = []) : s.item n = none := by
  unfold State.item
  rw [h]

theorem State.item_head {h : Word} {p : List Word} {l : List (List Word)} (hi : (s.mboxOf n).items = (h :: p) :: l)
    (hf : (s.mboxOf n).flushing = false) : s.item n = some (h :: p) := by
  unfold State.item
  rw [hi]
  exact if_neg (by rw [hf]; exact Bool.false_ne_true)

end

/-! ### One request, one answer (R428) -/

section
variable {s t u : State} {op n : Nat} {h : Word} {p : List Word}

/-- What an answer owes to the mailboxes: MB0 is empty, and the reply stands in MB1 after what stood there. -/
structure Answered (s u : State) (r : List Word) : Prop where
  reply : (u.mboxOf 29).items = (s.mboxOf 29).items ++ [r]
  emptied : (u.mboxOf 28).items = []

theorem Answered.of_mboxOf {r : List Word} (ha : Answered s t r) (h1 : u.mboxOf 29 = t.mboxOf 29)
    (h0 : u.mboxOf 28 = t.mboxOf 28) : Answered s u r :=
  ⟨(congrArg Mailbox.items h1).trans ha.reply, (congrArg Mailbox.items h0).trans ha.emptied⟩

/-- A request taken from MB0 whose reply is still to be written. -/
structure Unanswered (s t : State) : Prop where
  stores : StoresOk t
  replies : t.mboxOf 29 = s.mboxOf 29
  emptied : (t.mboxOf 28).items = []

/-- What leaves MB0 and MB1 alone leaves a request unanswered. -/
theorem Unanswered.follows {l : List Part} (hu : Unanswered s t) (hl : Follows l t u) (h1 : u.mboxOf 29 = t.mboxOf 29)
    (h0 : u.mboxOf 28 = t.mboxOf 28) : Unanswered s u :=
  ⟨hl.stores hu.stores, h1.trans hu.replies, (congrArg Mailbox.items h0).trans hu.emptied⟩

theorem OneRequest.unanswered (hs : StoresOk s) (hr : OneRequest s op h p n) : Unanswered s (s.dropItem 28) := by
  obtain ⟨-, -, hitems, -⟩ := hr
  obtain ⟨hempty, hother⟩ := State.dropItem_spec hs hitems
  exact ⟨(s.dropItem_frame 28).stores hs, hother 29 (by decide), hempty⟩

theorem State.mgtReply_mgt (t : State) (h : Word) (st : Nat) (ws : List Word) : (t.mgtReply h st ws).mgt = t.mgt :=
  (State.mgtReply_follows t h st ws (fun _ k => k) (.refl t)).others.keeps .mgt rfl

/-- The reply joins MB1, which has room for it, and MGT_MSG is raised (R192). -/
theorem Unanswered.replied (hu : Unanswered s t) (hr : OneRequest s op h p n) {ws : List Word} (st : Nat)
    (hn : 2 + ws.length ≤ n) :
    Answered s (t.mgtReply h st ws) (replyItem h st ws) ∧ (t.mgtReply h st ws).event 11 = true := by
  obtain ⟨-, -, -, -, -, -, -, hwriting, htrim, hroom⟩ := hr
  obtain ⟨hitem, hother, hevent⟩ := State.putItem_spec (n := 29) (ws := replyItem h st ws) hu.stores
    (List.cons_ne_nil _ _) (by rw [hu.replies, htrim])
    (by rw [hu.replies]; simp only [replyItem, List.length_cons]; omega)
  refine ⟨⟨?_, ?_⟩, hevent (.inl rfl)⟩
  · refine (congrArg Mailbox.items hitem).trans ?_
    rw [Mailbox.withItem, hu.replies, hwriting, List.nil_append]
  · exact (congrArg Mailbox.items (hother 28 (by decide))).trans hu.emptied

theorem State.bellIdle_told (h : (s.mboxOf 28).items = []) : s.bellIdle.mgt.dbell.getLsbD 0 = false := by
  unfold State.bellIdle
  rw [State.item_nil h]
  cases (s.item 30).isNone <;> simp

/-- The head of MB0 is served once: what the command does with it, and the doorbell of the mailboxes it left empty. -/
theorem OneRequest.serve (hr : OneRequest s op h p n) (f : State → Word → List Word → State)
    (hf : ((f (s.dropItem 28) h p).mboxOf 28).items = []) : s.serve op f = (f (s.dropItem 28) h p).bellIdle := by
  obtain ⟨hready, htold, hitems, hflush, hop, hlen, hpad, -⟩ := hr
  have hreq : s.request op = some (h, p) := by
    unfold State.request
    rw [hready, htold, State.item_head hitems hflush]
    simp [hop]
  unfold State.serve
  rw [hreq]
  dsimp only
  rw [if_neg (by simp [hlen, hpad])]
  exact mgtSkim_untold 1024 (by rw [State.bellIdle_told hf, Bool.and_false])

/-- What a served request leaves of what its command did: everything but the doorbell. -/
structure Served (u t : State) : Prop where
  mgt : ∃ b, t.mgt = { u.mgt with dbell := b }
  mboxOf (k : Nat) : t.mboxOf k = u.mboxOf k
  event (k : Nat) : t.event k = u.event k

theorem Served.flash (h : Served u t) : t.mgt.flash = u.mgt.flash := by
  obtain ⟨b, hb⟩ := h.mgt
  rw [hb]

theorem Served.answered (h : Served u t) {r : List Word} (ha : Answered s u r) : Answered s t r :=
  ha.of_mboxOf (h.mboxOf 29) (h.mboxOf 28)

/-- A command that serves the request with `f` completes where `f` answers it, and leaves what `f` leaves. -/
theorem OneRequest.completes (hr : OneRequest s op h p n) (hs : Ready s) {c : Instr} {r : List Word}
    {f : State → Word → List Word → State} (hc : exec c s = run s (s.serve op f))
    (htouch : touches c = [.rc, .count, .mbox, .mgt]) (hu : f (s.dropItem 28) h p = u) (ha : Answered s u r) :
    ∃ t, exec c s = .next t ∧ Served u t ∧ Answered s t r ∧ LeavesAllBut [.rc, .count, .mbox, .mgt] s t := by
  rw [hr.serve f (by rw [hu]; exact ha.emptied), hu, run_ready hs] at hc
  have hserved : Served u (settle u.bellIdle) := ⟨⟨_, rfl⟩, fun _ => rfl, fun _ => rfl⟩
  refine ⟨_, hc, hserved, hserved.answered ha, ?_⟩
  rw [← htouch]
  exact commandFrame _ _ _ hc

end

/-! ### The flash (R428) -/

section
variable {s t : State}

/-- Words written to the flash one after another, each at the byte offset `a` gives it. -/
def State.setFlashes {ι : Type} (s : State) (xs : List ι) (a : ι → Nat) (w : ι → Word) : State :=
  xs.foldl (fun v y => v.setFlash (a y) (w y)) s

section
variable {ι : Type} (xs : List ι) (a : ι → Nat) (w : ι → Word)

theorem State.setFlashes_append (s : State) (y : ι) :
    s.setFlashes (xs ++ [y]) a w = (s.setFlashes xs a w).setFlash (a y) (w y) :=
  List.foldl_append

theorem State.setFlashes_frame (s : State) : Follows [.mgt] s (s.setFlashes xs a w) := by
  induction xs using List.reverseRecOn with
  | nil => exact .refl s
  | append_singleton xs y ih =>
    rw [State.setFlashes_append]
    exact State.setFlash_follows _ _ _ (fun _ k => k) ih

theorem State.setFlash_flashWord (hs : StoresOk s) (o j : Nat) (x : Word) :
    (s.setFlash o x).flashWord j = if j / 4 = o / 4 then x else s.flashWord j := by
  obtain ⟨-, -, -, -, -, -, -, -, -, -, -, -, -, -, -, hflash⟩ := hs
  exact sget_sset hflash _ _ _

/-- A word written, and written the same wherever the writes meet, is the word read. -/
theorem State.setFlashes_flashWord (hs : StoresOk s) {x : ι} (hx : x ∈ xs)
    (hw : ∀ y ∈ xs, a x / 4 = a y / 4 → w y = w x) : (s.setFlashes xs a w).flashWord (a x) = w x := by
  induction xs using List.reverseRecOn with
  | nil => exact absurd hx List.not_mem_nil
  | append_singleton xs y ih =>
    rw [State.setFlashes_append, State.setFlash_flashWord ((s.setFlashes_frame xs a w).stores hs)]
    split
    · next hmeet => exact hw y (by simp) hmeet
    · next hmiss =>
      refine ih ((List.mem_append.mp hx).resolve_right fun hm => hmiss ?_)
        fun z hz => hw z (List.mem_append_left _ hz)
      rw [List.mem_singleton.mp hm]

end

/-- The words of an item written from a byte offset on. -/
def State.flashed (s : State) (o : Nat) (d : List Word) : State :=
  s.setFlashes d.zipIdx (fun y => o + 4 * y.2) (fun y => y.1)

theorem State.flashed_frame (s : State) (o : Nat) (d : List Word) : Follows [.mgt] s (s.flashed o d) :=
  State.setFlashes_frame ..

theorem State.flashed_flashWord (hs : StoresOk s) {o : Nat} {d : List Word} {i : Nat} (hi : i < d.length) :
    (s.flashed o d).flashWord (o + 4 * i) = d[i] := by
  refine State.setFlashes_flashWord _ (fun y : Word × Nat => o + 4 * y.2) (fun y => y.1) hs (x := (d[i], i)) ?_ ?_
  · exact List.mem_zipIdx_iff_getElem?.mpr (List.getElem?_eq_getElem hi)
  · rintro ⟨y, j⟩ hy hmeet
    obtain rfl : i = j := by dsimp only at hmeet; omega
    exact (List.getElem_of_getElem? (List.mem_zipIdx_iff_getElem?.mp hy)).2.symm

/-- `n` words of the flash from word `k` on read as ones. -/
def State.erased (s : State) (k n : Nat) : State :=
  s.setFlashes (List.range n) (fun i => 4 * (k + i)) (fun _ => 0xFFFFFFFF)

theorem State.erased_frame (s : State) (k n : Nat) : Follows [.mgt] s (s.erased k n) := State.setFlashes_frame ..

theorem State.erased_flashWord (hs : StoresOk s) {k n i : Nat} (hi : i < n) :
    (s.erased k n).flashWord (4 * (k + i)) = 0xFFFFFFFF :=
  State.setFlashes_flashWord _ (fun i => 4 * (k + i)) (fun _ => 0xFFFFFFFF) hs (List.mem_range.mpr hi) fun _ _ _ => rfl

theorem State.flashWord_congr {o : Nat} (h : t.mgt.flash = s.mgt.flash) : t.flashWord o = s.flashWord o := by
  unfold State.flashWord
  rw [h]

end

/-! ### The requests (R428) -/

section
variable {s : State} {h : Word} {p : List Word}

theorem State.notice_mgt (s : State) (seq code data : Nat) : (s.notice seq code data).mgt = s.mgt :=
  (State.notice_follows s seq code data (fun _ k => k) (.refl s)).others.keeps .mgt rfl

/-- A notice goes to MB3, beside the answer. -/
theorem Answered.noticed {u : State} {r : List Word} (ha : Answered s u r) (seq code data : Nat) :
    Answered s (u.notice seq code data) r :=
  have hother := u.putItem_otherMailboxes 31 [toWord (0xC0 + put 8 seq + put 16 2), toWord code, toWord data]
  ha.of_mboxOf (hother 29 (by decide)) (hother 28 (by decide))

theorem getVersion_answers (hs : Ready s) (hr : OneRequest s 1 h p 4) :
    ∃ t, exec .getVersion s = .next t ∧
      (t.mboxOf 29).items = (s.mboxOf 29).items ++ [replyItem h 0 [s.mgt.fwver, s.mgt.imageCrc]] ∧
      (t.mboxOf 28).items = [] ∧ t.event 11 = true ∧ LeavesAllBut [.rc, .count, .mbox, .mgt] s t := by
  have hmgt : (s.dropItem 28).mgt = s.mgt := (s.dropItem_frame 28).others.keeps .mgt rfl
  obtain ⟨ha, hsignal⟩ := (hr.unanswered hs.1).replied hr (ws := [s.mgt.fwver, s.mgt.imageCrc]) 0 le_rfl
  obtain ⟨t, hexec, hserved, hat, hparts⟩ := hr.completes hs (c := .getVersion) rfl rfl (by rw [hmgt]) ha
  exact ⟨t, hexec, hat.reply, hat.emptied, (hserved.event 11).trans hsignal, hparts⟩

theorem flashRead_answers {o n : Word} (hs : Ready s) (hr : OneRequest s 2 h [o, n] (2 + n.toNat))
    (hn : n.toNat ≤ 1020) (ho : o.toNat % 4 = 0) :
    ∃ t, exec (.flashRead false) s = .next t ∧
      (t.mboxOf 29).items = (s.mboxOf 29).items ++
        [replyItem h 0 ((List.range n.toNat).map (fun i => s.flashWord (o.toNat + 4 * i)))] ∧
      (t.mboxOf 28).items = [] ∧ t.mgt.flash = s.mgt.flash ∧ LeavesAllBut [.rc, .count, .mbox, .mgt] s t := by
  have hflash : (s.dropItem 28).mgt.flash = s.mgt.flash :=
    congrArg Mgt.flash ((s.dropItem_frame 28).others.keeps .mgt rfl)
  obtain ⟨ha, -⟩ := (hr.unanswered hs.1).replied hr
    (ws := (List.range n.toNat).map (fun i => (s.dropItem 28).flashWord (o.toNat + 4 * i))) 0 (by simp)
  obtain ⟨t, hexec, hserved, hat, hparts⟩ := hr.completes hs (c := .flashRead false) rfl rfl
    (by exact (if_neg (by omega)).trans (if_neg Bool.false_ne_true)) ha
  simp only [State.flashWord_congr hflash] at hat
  exact ⟨t, hexec, hat.reply, hat.emptied, by rw [hserved.flash, State.mgtReply_mgt, hflash], hparts⟩

theorem flashWrite_answers {o x : Word} {d : List Word} (hs : Ready s) (hr : OneRequest s 3 h [o] 2)
    (hitem : (s.mboxOf 30).items = [x :: d]) (hflush : (s.mboxOf 30).flushing = false) (hlen : itemLen x = d.length)
    (ho : o.toNat % 4 = 0) :
    ∃ t, exec (.flashWrite false false) s = .next t ∧
      (∀ i (hi : i < d.length), t.flashWord (o.toNat + 4 * i) = d[i]) ∧
      (t.mboxOf 29).items = (s.mboxOf 29).items ++ [replyItem h 0 []] ∧ (t.mboxOf 28).items = [] ∧
      (t.mboxOf 30).items = [] ∧ LeavesAllBut [.rc, .count, .mbox, .mgt] s t := by
  have hun := hr.unanswered hs.1
  have ⟨_, _, hrequest, _⟩ := hr
  have hdata : (s.dropItem 28).mboxOf 30 = s.mboxOf 30 := (State.dropItem_spec hs.1 hrequest).2 30 (by decide)
  obtain ⟨hempty, hother⟩ := State.dropItem_spec hun.stores (hdata ▸ hitem)
  have htaken := hun.follows ((s.dropItem 28).dropItem_frame 30) (hother 29 (by decide)) (hother 28 (by decide))
  have hflash := ((s.dropItem 28).dropItem 30).flashed_frame o.toNat d
  have hwritten := htaken.follows hflash (hflash.others.mboxOf rfl 29) (hflash.others.mboxOf rfl 28)
  obtain ⟨ha, -⟩ := hwritten.replied hr (ws := []) 0 le_rfl
  obtain ⟨t, hexec, hserved, hat, hparts⟩ := hr.completes hs (c := .flashWrite false false) rfl rfl
    (by
      dsimp only
      rw [State.item_head (hdata ▸ hitem) (hdata ▸ hflush)]
      exact (if_neg (by omega)).trans ((if_neg Bool.false_ne_true).trans (if_neg Bool.false_ne_true)))
    (ha.noticed (fld h 8 8) 1 0)
  refine ⟨t, hexec, fun i hi => ?_, hat.reply, hat.emptied, ?_, hparts⟩
  · rw [← State.flashed_flashWord htaken.stores hi]
    exact State.flashWord_congr (by rw [hserved.flash, State.notice_mgt, State.mgtReply_mgt])
  · rw [hserved.mboxOf, State.notice, State.putItem_otherMailboxes _ 31 _ 30 (by decide), State.mgtReply,
      State.putItem_otherMailboxes _ 29 _ 30 (by decide), hflash.others.mboxOf rfl, hempty]

theorem flashErase_answers {o n : Word} (hs : Ready s) (hr : OneRequest s 4 h [o, n] 2) :
    ∃ t, exec (.flashErase false false) s = .next t ∧
      (∀ i < n.toNat * sectorWords, t.flashWord (4 * (o.toNat * sectorWords + i)) = 0xFFFFFFFF) ∧
      (t.mboxOf 29).items = (s.mboxOf 29).items ++ [replyItem h 0 []] ∧ (t.mboxOf 28).items = [] ∧
      LeavesAllBut [.rc, .count, .mbox, .mgt] s t := by
  have hun := hr.unanswered hs.1
  have hflash := (s.dropItem 28).erased_frame (o.toNat * sectorWords) (n.toNat * sectorWords)
  have herased := hun.follows hflash (hflash.others.mboxOf rfl 29) (hflash.others.mboxOf rfl 28)
  obtain ⟨ha, -⟩ := herased.replied hr (ws := []) 0 le_rfl
  obtain ⟨t, hexec, hserved, hat, hparts⟩ := hr.completes hs (c := .flashErase false false) rfl rfl
    (by exact (if_neg Bool.false_ne_true).trans (if_neg Bool.false_ne_true)) ha
  refine ⟨t, hexec, fun i hi => ?_, hat.reply, hat.emptied, hparts⟩
  rw [← State.erased_flashWord hun.stores hi]
  exact State.flashWord_congr (by rw [hserved.flash, State.mgtReply_mgt])

/-- The part with the role of its core set. -/
def State.withRole (s : State) (b : Bool) : State := { s with mgt := { s.mgt with sigbox := b } }

theorem State.withRole_frame (s : State) (b : Bool) : Follows [.mgt] s (s.withRole b) :=
  s.withMgt_frame (m := { s.mgt with sigbox := b }) rfl

/-- The answer to ROLE, noticed in MB3 where the role changed. -/
def State.roleAnswered (s : State) (h : Word) (r : Nat) : State :=
  let u := (s.withRole (decide (r = 1))).mgtReply h 0 []
  if decide (r = 1) = s.mgt.sigbox then u else u.notice (fld h 8 8) 2 r

theorem State.roleAnswered_mgt (s : State) (h : Word) (r : Nat) :
    (s.roleAnswered h r).mgt = { s.mgt with sigbox := decide (r = 1) } := by
  unfold State.roleAnswered
  dsimp only
  split
  · exact State.mgtReply_mgt ..
  · exact (State.notice_mgt ..).trans (State.mgtReply_mgt ..)

theorem role_answers {r : Word} (hs : Ready s) (hr : OneRequest s 5 h [r] 2) (hle : r.toNat ≤ 1) :
    ∃ t, exec .role s = .next t ∧ t.mgt.sigbox = decide (r.toNat = 1) ∧ t.mgt.flash = s.mgt.flash ∧
      (t.mboxOf 29).items = (s.mboxOf 29).items ++ [replyItem h 0 []] ∧ (t.mboxOf 28).items = [] ∧
      LeavesAllBut [.rc, .count, .mbox, .mgt] s t := by
  have hun := hr.unanswered hs.1
  have hmgt : (s.dropItem 28).mgt = s.mgt := (s.dropItem_frame 28).others.keeps .mgt rfl
  have hrole := hun.follows ((s.dropItem 28).withRole_frame (decide (r.toNat = 1))) rfl rfl
  obtain ⟨hreply, -⟩ := hrole.replied hr (ws := []) 0 le_rfl
  have ha : Answered s ((s.dropItem 28).roleAnswered h r.toNat) (replyItem h 0 []) := by
    unfold State.roleAnswered
    dsimp only
    split
    · exact hreply
    · exact hreply.noticed ..
  obtain ⟨t, hexec, hserved, hat, hparts⟩ := hr.completes hs (c := .role) rfl rfl
    (by exact if_neg (by omega)) ha
  obtain ⟨b, hb⟩ := hserved.mgt
  rw [State.roleAnswered_mgt, hmgt] at hb
  exact ⟨t, hexec, by rw [hb], by rw [hb], hat.reply, hat.emptied, hparts⟩

theorem reboot_answers (hs : Ready s) (hr : OneRequest s 6 h p 2) :
    ∃ t, exec .reboot s = .next t ∧ t.mgt.ready = false ∧ t.mgt.rebooting = true ∧ t.mgt.flash = s.mgt.flash ∧
      (t.mboxOf 29).items = (s.mboxOf 29).items ++ [replyItem h 0 []] ∧ (t.mboxOf 28).items = [] ∧
      LeavesAllBut [.rc, .count, .mbox, .mgt] s t := by
  have hmgt : (s.dropItem 28).mgt = s.mgt := (s.dropItem_frame 28).others.keeps .mgt rfl
  obtain ⟨ha, -⟩ := (hr.unanswered hs.1).replied hr (ws := []) 0 le_rfl
  have hreboot : Answered s ((s.dropItem 28).mgtReply h 0 []).coreRestart (replyItem h 0 []) := ha.of_mboxOf rfl rfl
  obtain ⟨t, hexec, hserved, hat, hparts⟩ := hr.completes hs (c := .reboot) rfl rfl rfl hreboot
  obtain ⟨b, hb⟩ := hserved.mgt
  rw [State.coreRestart, State.mgtReply_mgt, hmgt] at hb
  exact ⟨t, hexec, by rw [hb], by rw [hb], by rw [hb], hat.reply, hat.emptied, hparts⟩

end

/-! ### The obligation -/

/-- Settles O36: the core's start, its doorbell and its watchdog each from what its command does to the core; each request
from one rule, that the head of MB0 is served once and its answer joins MB1. -/
theorem managementCore : Obligations.ManagementCore := by
  unfold Obligations.ManagementCore
  refine ⟨⟨?_, ?_, ?_, ?_⟩, ?_, ?_, ?_, ?_, ?_, ?_⟩
  · intro s f hd hpll hbist hready hstop hv hsubid hboot hbell
    exact firmwareReady_reports hd hpll hbist hready hstop hv hsubid hboot hbell
  · intro s f w hs hpll hbist hready hstop hv hsubid hdone hboot hbell
    exact firmwareReady_setsSubid hs hpll hbist hready hstop hv hsubid hdone hboot hbell
  · intro s q v d hd hv h
    exact mgtDbell_notes hd q hv d h
  · intro s hs h
    exact mgtWatchdog_restarts hs h
  · intro s h p hs hr
    exact getVersion_answers hs hr
  · intro s h o n hs hr hn ho
    exact flashRead_answers hs hr hn ho
  · intro s h o x d hs hr hitem hflush hlen ho
    exact flashWrite_answers hs hr hitem hflush hlen ho
  · intro s h o n hs hr
    exact flashErase_answers hs hr
  · intro s h r hs hr hle
    exact role_answers hs hr hle
  · intro s h p hs hr
    exact reboot_answers hs hr

end Sys2Proof.Machine

/-! SUPPORT. The stores and the registers of the part right after a device reset (R113, R411, R419). -/

namespace Sys2Proof.Machine

/-! ### The state right after a device reset (R113, R411, R419) -/

/-- Every store of the reset state is empty, and an empty store is in canonical form. -/
theorem State.reset_storesOk : StoresOk State.reset := by
  refine ⟨⟨rfl, rfl, rfl, rfl, rfl, rfl, rfl, rfl, ?_, rfl, rfl⟩, rfl, ?_⟩
  · exact fun _ hp => nomatch hp
  · exact ⟨rfl, rfl, rfl, rfl, rfl, rfl, rfl, rfl, rfl, rfl, rfl, rfl, rfl, rfl⟩

/-- Settles O5: the stores of the reset state are empty, and so are its queue and the messages due. -/
theorem resetStoresAreCanonical : Obligations.ResetStoresAreCanonical := ⟨State.reset_storesOk, rfl, rfl⟩

/-- Every word of the reset state reads as its reset word, for its stores list none. -/
theorem State.reset_words (a : Nat) :
    State.reset.stagedW a = resetWord a ∧ State.reset.appliedW a = resetWord a ∧ State.reset.rwW a = resetWord a ∧
      State.reset.rcW a = resetWord a ∧ State.reset.counter a = 0 :=
  ⟨rfl, rfl, rfl, rfl, rfl⟩

/-- Settles O7: no store of the reset state lists a word, and the reset words named are those of their rows in the register
tables. -/
theorem resetValues : Obligations.ResetValues := by
  refine ⟨State.reset_words, rfl, rfl, rfl, rfl, rfl, rfl, rfl, rfl, ?_⟩
  decide

end Sys2Proof.Machine

/-! SUPPORT. Register accesses: an aligned word through the normal view, what a bus error captures, words staged, words read
with their counters and partner words, the data register of indirect access, and the write-once and lock registers (R379 to
R394). -/

namespace Sys2Proof.Machine

/-! ### Word accesses (R379, R380) -/

section
variable {s : State} {q : Req} {a : Nat} {d : Word}

theorem wordAccess_off (q : Req) (d : Word) (ha : a < 0x100000) : (wordAccess q a d).off.toNat = a :=
  Nat.mod_eq_of_lt (ha.trans (by decide))

theorem wordAccess_legal (q : Req) (d : Word) (ha : a < 0x100000) (h4 : a % 4 = 0) :
    legalAccess (wordAccess q a d) = true := by
  unfold legalAccess
  rw [wordAccess_off q d ha]
  simp [wordAccess, h4]

/-- A word of the first view is accessed through the normal view. -/
theorem viewOf_normal (ha : a < 0x100000) : viewOf (a / 0x100000) = .normal := by
  rw [Nat.div_eq_of_lt ha]
  rfl

theorem State.accessWrite_word (s : State) (q : Req) (d : Word) (ha : a < 0x100000) (h4 : a % 4 = 0) :
    s.accessWrite (wordAccess q a d) = s.write32 q .normal a d := by
  unfold State.accessWrite
  rw [wordAccess_legal q d ha h4, wordAccess_off q d ha]
  show s.write32 q (viewOf (a / 0x100000)) (a % 0x100000) d = _
  rw [viewOf_normal ha, Nat.mod_eq_of_lt ha]

theorem State.accessRead_word (s : State) (q : Req) (d : Word) (i : Instant) (ha : a < 0x100000) (h4 : a % 4 = 0) :
    s.accessRead (wordAccess q a d) i = s.regRead q i a := by
  unfold State.accessRead
  rw [wordAccess_legal q d ha h4, wordAccess_off q d ha]
  show ({ (s.read32 q (viewOf (a / 0x100000)) i (a % 0x100000)).2 with
    reply := replyOf (s.read32 q (viewOf (a / 0x100000)) i (a % 0x100000)).1 (some 0) } : State) = _
  rw [viewOf_normal ha, Nat.mod_eq_of_lt ha]
  rfl

end

/-! ### What a bus error captures (R382) -/

section
variable {s : State}

/-- The word RCU_BERR takes at a bus error. -/
def State.berrWord (s : State) (q : Req) (off cause : Nat) (wr : Bool) (ts : Option Nat) : Word :=
  toWord (1 + put 1 cause + putb 4 wr + put 5 (reqCode q) + put 6 (off / 0x100000 % 4) + putb 8 ts.isSome +
    putb 9 (bitAt (s.rcW 0x100C) 0))

theorem State.berr_word (hs : StoresOk s) (q : Req) (off cause : Nat) (wr : Bool) (ts : Option Nat) :
    (s.berr q off cause wr ts).rcW 0x100C = s.berrWord q off cause wr ts := by
  have hset : (s.setRc 0x100C (s.berrWord q off cause wr ts)).rcW 0x100C = s.berrWord q off cause wr ts :=
    (State.setRc_rcW hs _ _ _).trans (if_pos rfl)
  unfold State.berr
  dsimp only
  split
  · rw [State.raise_rcW_other _ _ (by decide), State.raise_rcW_other _ _ (by decide)]
    exact hset
  · rw [State.raise_rcW_other _ _ (by decide)]
    exact hset

/-- RCU_BERR.TSPACE and LOST stand above the fields that every bus error fills. -/
theorem berrWord_high (c q v : Nat) (wr ts lost : Bool) (hc : c < 8) (hq : q < 2) (hv : v < 4) :
    let w := toWord (1 + put 1 c + putb 4 wr + put 5 q + put 6 v + putb 8 ts + putb 9 lost)
    bitAt w 8 = ts ∧ bitAt w 9 = lost := by
  revert wr ts lost
  interval_cases c <;> interval_cases q <;> interval_cases v <;> decide

/-- What a command that ends in a bus error leaves: the capture, with TSPACE for a T-space address and LOST where the one
before had not been read, and BUS_ERR, with LOCK_VIOL for a lock. -/
theorem State.berr_captures (hs : StoresOk s) (q : Req) (off : Nat) {cause : Nat} (wr : Bool) (ts : Option Nat)
    (hc : cause < 8) :
    let t := settle (s.berr q off cause wr ts)
    bitAt (t.rcW 0x100C) 0 = true ∧ fld (t.rcW 0x100C) 1 3 = cause ∧ bitAt (t.rcW 0x100C) 4 = wr ∧
      bitAt (t.rcW 0x100C) 8 = ts.isSome ∧ bitAt (t.rcW 0x100C) 9 = bitAt (s.rcW 0x100C) 0 ∧
      t.reg.berrAddr = toWord (ts.getD off) ∧ t.event 92 = true ∧ (cause = 5 → t.event 93 = true) ∧
      RcOnly [0x100C, evtStat 92] s t ∧ LeavesAllBut [.rc, .rcu] s t ∧ t.reg.lock = s.reg.lock := by
  intro t
  obtain ⟨hvalid, hcause, hwr, haddr, herr, hlock, hrc, hparts, hlocks, -⟩ := State.berr_spec hs q off cause wr ts hc
  have hreq : reqCode q < 2 := by cases q <;> decide
  obtain ⟨htspace, hlost⟩ := berrWord_high cause (reqCode q) (off / 0x100000 % 4) wr ts.isSome
    (bitAt (s.rcW 0x100C) 0) hc hreq (Nat.mod_lt _ (by decide))
  have hword : t.rcW 0x100C = s.berrWord q off cause wr ts := s.berr_word hs q off cause wr ts
  exact ⟨hvalid, hcause, hwr, (congrArg (bitAt · 8) hword).trans htspace, (congrArg (bitAt · 9) hword).trans hlost,
    haddr, herr, hlock, hrc, hparts.settled, hlocks⟩

/-- An access that is not a whole aligned word or pair of words (R380). -/
theorem registerWrite_illegal (hs : Ready s) {x : Access} (hx : legalAccess x = false) :
    exec (.registerWrite x) s = .next (settle (s.berr x.req x.off.toNat ceWidth true none)) :=
  (run_ready hs _).trans (by rw [State.accessWrite, if_neg (by simp [hx])])

theorem clearOnRead_illegal (hs : Ready s) {x : Access} (i : Instant) (hx : legalAccess x = false) :
    exec (.clearOnRead x i) s =
      .next (settle { s.berr x.req x.off.toNat ceWidth false none with reply := .abort }) :=
  (run_ready hs _).trans (by rw [State.accessRead, if_neg (by simp [hx])])

end

/-! ### Staged words (R388, R391) -/

section
variable {s : State} {q : Req} {a b : Nat} {d : Word} {r : RegRow}

theorem State.groupOf_lt (s : State) (b : Nat) : s.groupOf b < 16 := by
  unfold State.groupOf fld
  split
  · decide
  · exact Nat.mod_lt _ (by decide)

theorem State.setStagedBit_set (s : State) {g : Nat} (hg : g < 16) :
    (s.setStagedBit g true).reg.stagedBits.getLsbD g = true := by
  show (s.reg.stagedBits ||| BitVec.ofNat 16 (2 ^ g)).getLsbD g = true
  rw [BitVec.getLsbD_or, BitVec.getLsbD_ofNat, Nat.testBit_two_pow]
  simp [hg]

theorem State.setStagedBit_frame (s : State) (g : Nat) (v : Bool) : Follows [.snap] s (s.setStagedBit g v) :=
  State.setStagedBit_follows s g v (fun _ k => k) (.refl s)

/-- A word staged with its group's RCU_STAGED bit: no other staged word and no other part changes. -/
theorem State.staged_spec (hs : StoresOk s) (a : Nat) (w : Word) {g : Nat} (hg : g < 16) :
    let t := (s.setStaged a w).setStagedBit g true
    t.stagedW a = w ∧ (∀ k, k ≠ a → t.stagedW k = s.stagedW k) ∧ t.reg.stagedBits.getLsbD g = true ∧
      Follows [.staged, .snap] s t := by
  intro t
  have hbit := (s.setStaged a w).setStagedBit_frame g true
  have hword (k : Nat) : t.stagedW k = if k = a then w else s.stagedW k :=
    (hbit.others.stagedW rfl k).trans (State.setStaged_stagedW hs a k w)
  exact ⟨(hword a).trans (if_pos rfl), fun k hk => (hword k).trans (if_neg hk), State.setStagedBit_set _ hg,
    ((s.setStaged_frame a w).widen (by decide)).trans (hbit.widen (by decide))⟩

/-- A register whose fields are RS alone takes a write through the normal view. -/
theorem kindFault_rs (hrs : r.rs ≠ 0) (hport : r.port = false) : kindFault .normal a r = none := by
  simp [kindFault, hport, hrs]

theorem State.otherWrite_rs (s : State) (q : Req) (v : View) (a : Nat) (d : Word) (hrw : r.rw = 0) (hwo : r.wo = 0)
    (hlk : r.lk = 0) : s.otherWrite q v a d r = s := by
  simp [State.otherWrite, hrw, hwo, hlk]

theorem State.write32_staged (hp : s.present a = some r) (hb : blockAt a = some b) (hrs : r.rs ≠ 0) (hrw : r.rw = 0)
    (hwo : r.wo = 0) (hlk : r.lk = 0) (hport : r.port = false) (hfree : s.groupLocked b = false) :
    s.write32 q .normal a d =
      (s.setStaged a (merge (s.stagedW a) (toWord r.rs &&& ~~~(s.lacking a)) d)).setStagedBit (s.groupOf b) true := by
  unfold State.write32
  simp [hp, kindFault_rs hrs hport, hport, hb, hfree, hrs, State.otherWrite_rs _ _ _ _ _ hrw hwo hlk, State.stageWrite,
    viewBits]

theorem State.write32_stagedLocked (hp : s.present a = some r) (hb : blockAt a = some b) (hrs : r.rs ≠ 0)
    (hrw : r.rw = 0) (hwo : r.wo = 0) (hlk : r.lk = 0) (hport : r.port = false) (hlock : s.groupLocked b = true) :
    s.write32 q .normal a d = s.berr q a ceLocked true none := by
  unfold State.write32
  simp [hp, kindFault_rs hrs hport, hport, hb, hlock, hrs, State.otherWrite_rs _ _ _ _ _ hrw hwo hlk, viaView_normal]

theorem exec_registerWrite (hs : Ready s) (q : Req) (d : Word) (ha : a < 0x100000) (h4 : a % 4 = 0) :
    exec (.registerWrite (wordAccess q a d)) s = .next (settle (s.write32 q .normal a d)) :=
  (run_ready hs _).trans (by rw [State.accessWrite_word s q d ha h4])

end

/-- Settles O12: an accepted write is the staged word with its group's bit, and a locked one the bus error LOCKED. -/
theorem stagedWriteWaits : Obligations.StagedWriteWaits := by
  intro s q a b d r hs ha h4 hp hb hrs hrw hwo hlk hport
  refine ⟨fun hfree => ⟨_, exec_registerWrite hs q d ha h4, ?_⟩, fun hlock => ⟨_, exec_registerWrite hs q d ha h4, ?_⟩⟩
  · rw [State.write32_staged hp hb hrs hrw hwo hlk hport hfree]
    obtain ⟨hword, hrest, hbit, hframe⟩ := State.staged_spec hs.1 a
      (merge (s.stagedW a) (toWord r.rs &&& ~~~(s.lacking a)) d) (s.groupOf_lt b)
    exact ⟨hword, hrest, hframe.others.appliedW rfl, hbit, hframe.others.settled⟩
  · rw [State.write32_stagedLocked hp hb hrs hrw hwo hlk hport hlock]
    obtain ⟨hvalid, -, -, -, -, haddr, herr, hviol, hrc, hparts, -⟩ :=
      State.berr_captures hs.1 q a (cause := ceLocked) true none (by decide)
    exact ⟨hvalid, haddr, herr, hviol rfl, hparts.stagedW rfl, hrc, hparts⟩

/-! ### Write-once registers and the locks (R391, R392) -/

section
variable {s : State} {q : Req} {v : View} {d : Word}

theorem State.present_role (hm : hasPair s.member = true) : s.present 0x88000 = some (rowLK 0 0xFFFF0001) :=
  State.present_at (b := bPAIR) rfl hm rfl rfl

theorem State.present_subid (s : State) : s.present 0x7000 = some (rowLK 0 0xFFFFFFFF 0x08801F5C) :=
  State.present_at (b := bPCI) rfl rfl rfl rfl

theorem State.present_lock (s : State) : s.present 0x1040 = some (rowLK 0x40 0x3FFFF) :=
  State.present_at (b := bRCU) rfl rfl rfl rfl

/-- The word a write asks of the LK fields of a register. -/
def State.askedLk (s : State) (v : View) (a : Nat) (d : Word) (m : Nat) : Word :=
  merge (s.lkValue a) (toWord m &&& ~~~(s.lacking a)) (viewBits v (s.lkValue a) d)

/-- A register with LK fields alone: it takes the word asked, or the write is a bus error LOCKED. -/
theorem State.write32_lk {a : Nat} {r : RegRow} (hp : s.present a = some r) (hk : kindFault v a r = none)
    (hport : r.port = false) (hrs : r.rs = 0) (hwo : r.wo = 0) (hrw : r.rw = 0) (hlk : r.lk ≠ 0) :
    s.write32 q v a d = if s.wordLocked a (s.askedLk v a d r.lk) then s.berr q (viaView v a) ceLocked true none
      else s.lkAct a (s.askedLk v a d r.lk) := by
  unfold State.write32
  simp [hp, hk, hport, hrs, State.otherWrite, hwo, hrw, hlk, State.askedLk] <;> rfl

theorem kindFault_lk {a o m k : Nat} (hm : m ≠ 0) (h : v = .normal ∨ v = .set ∨ a ≠ 0x1040) :
    kindFault v a (rowLK o m k) = none := by
  obtain rfl | rfl | h := h <;> simp_all [kindFault, rowLK, rowBase]

/-- The word a write-once register takes, with the mark that it has taken it, in a state that differs by these alone. -/
theorem writeOnce_taken {t : State} {o : Host.Outcome State Fault Refusal} (hs : StoresOk s) {a : Nat} {w : Word}
    (ho : o = .next (settle t)) (hreg : t.reg.rw = (s.setRw a w).reg.rw) (hparts : LeavesAllBut [.rw, .rcu] s t) :
    o = .next (settle t) ∧ t.rwW a = w ∧ (∀ k, k ≠ a → t.rwW k = s.rwW k) ∧ LeavesAllBut [.rw, .rcu] s (settle t) := by
  have hword (k : Nat) : t.rwW k = if k = a then w else s.rwW k :=
    (congrArg (sget resetWord · k) hreg).trans (State.setRw_rwW hs a k w)
  exact ⟨ho, (hword a).trans (if_pos rfl), fun k hk => (hword k).trans (if_neg hk), hparts.settled⟩

/-- No bit of the write-once registers or of RCU_LOCK names a unit a member can lack. -/
theorem State.askedLk_eq (s : State) {a : Nat} (v : View) (d : Word) (m : Nat) (h : s.lacking a = 0#32) :
    s.askedLk v a d m = merge (s.lkValue a) (toWord m) (viewBits v (s.lkValue a) d) := by
  rw [State.askedLk, h, BitVec.not_zero, BitVec.and_allOnes]

theorem State.lacking_role (s : State) : s.lacking 0x88000 = 0#32 := by
  unfold State.lacking
  rw [if_neg (by decide)]
  split
  · rfl
  · rfl

theorem State.write32_role (hm : hasPair s.member = true) :
    s.write32 q v 0x88000 d = if s.reg.roleDone then s.berr q (viaView v 0x88000) ceLocked true none
      else s.lkAct 0x88000 (merge (s.rwW 0x88000) 0xFFFF0001 (viewBits v (s.rwW 0x88000) d)) := by
  rw [State.write32_lk (State.present_role hm) (kindFault_lk (by decide) (.inr (.inr (by decide)))) rfl rfl rfl rfl
    (by decide), State.askedLk_eq s v d _ s.lacking_role]
  rfl

theorem State.write32_subid (s : State) (q : Req) (v : View) (d : Word) :
    s.write32 q v 0x7000 d = if s.reg.subidDone then s.berr q (viaView v 0x7000) ceLocked true none
      else s.lkAct 0x7000 (viewBits v (s.rwW 0x7000) d) := by
  rw [State.write32_lk s.present_subid (kindFault_lk (by decide) (.inr (.inr (by decide)))) rfl rfl rfl rfl
    (by decide), State.askedLk_eq s v d _ (s.lacking_zero (by decide) (by decide))]
  have hask : merge (s.lkValue 0x7000) (toWord 0xFFFFFFFF) (viewBits v (s.lkValue 0x7000) d) =
      viewBits v (s.rwW 0x7000) d := merge_allOnes _ _
  rw [show (rowLK 0 0xFFFFFFFF 0x08801F5C).lk = 0xFFFFFFFF from rfl, hask]
  rfl

/-- A write of a write-once register that has taken its write: a bus error LOCKED. -/
theorem writeOnce_refuses {o : Host.Outcome State Fault Refusal} (hs : StoresOk s) {off : Nat}
    (ho : o = .next (settle (s.berr q off ceLocked true none))) :
    ∃ t, o = .next t ∧ fld (t.rcW 0x100C) 1 3 = 5 ∧ t.event 93 = true ∧ (∀ k, t.rwW k = s.rwW k) ∧
      RcOnly [0x100C, evtStat 92] s t ∧ LeavesAllBut [.rc, .rcu] s t := by
  obtain ⟨-, hcause, -, -, -, -, -, hviol, hrc, hparts, -⟩ :=
    State.berr_captures hs q off (cause := ceLocked) true none (by decide)
  exact ⟨_, ho, hcause, hviol rfl, hparts.rwW rfl, hrc, hparts⟩

theorem pairRoleWrite_writes (hs : Ready s) (x : RegWrite) :
    exec (.pairRoleWrite x) s = .next (settle (s.write32 x.req x.view 0x88000 x.data)) := run_ready hs _

theorem pciSubidWrite_writes (hs : Ready s) (x : RegWrite) :
    exec (.pciSubidWrite x) s = .next (settle (s.write32 x.req x.view 0x7000 x.data)) := run_ready hs _

theorem pairRoleWrite_takes (hs : Ready s) (hm : hasPair s.member = true) (x : RegWrite) (hfirst : s.reg.roleDone = false) :
    ∃ t, exec (.pairRoleWrite x) s = .next t ∧
      t.rwW 0x88000 = merge (s.rwW 0x88000) 0xFFFF0001 (viewBits x.view (s.rwW 0x88000) x.data) ∧
      t.reg.roleDone = true ∧ (∀ k, k ≠ 0x88000 → t.rwW k = s.rwW k) ∧ LeavesAllBut [.rw, .rcu] s t := by
  have hexec := pairRoleWrite_writes hs x
  have hparts := (State.lkAct_follows s 0x88000 (merge (s.rwW 0x88000) 0xFFFF0001 (viewBits x.view (s.rwW 0x88000) x.data))
    (fun _ k => k) (.refl s)).others
  rw [State.write32_role hm, hfirst] at hexec
  obtain ⟨ho, hword, hrest, hkept⟩ := writeOnce_taken hs.1 hexec rfl hparts
  exact ⟨_, ho, hword, rfl, hrest, hkept⟩

theorem pciSubidWrite_takes (hs : Ready s) (x : RegWrite) (hfirst : s.reg.subidDone = false) :
    ∃ t, exec (.pciSubidWrite x) s = .next t ∧ t.rwW 0x7000 = viewBits x.view (s.rwW 0x7000) x.data ∧
      t.reg.subidDone = true ∧ (∀ k, k ≠ 0x7000 → t.rwW k = s.rwW k) ∧ LeavesAllBut [.rw, .rcu] s t := by
  have hexec := pciSubidWrite_writes hs x
  have hparts := (State.lkAct_follows s 0x7000 (viewBits x.view (s.rwW 0x7000) x.data) (fun _ k => k) (.refl s)).others
  rw [State.write32_subid, hfirst] at hexec
  obtain ⟨ho, hword, hrest, hkept⟩ := writeOnce_taken hs.1 hexec rfl hparts
  exact ⟨_, ho, hword, rfl, hrest, hkept⟩

theorem pciSubidWrite_locked (hs : Ready s) (x : RegWrite) (hdone : s.reg.subidDone = true) :
    exec (.pciSubidWrite x) s = .next (settle (s.berr x.req (viaView x.view 0x7000) ceLocked true none)) := by
  have hexec := pciSubidWrite_writes hs x
  rwa [State.write32_subid, if_pos hdone] at hexec

theorem pairRoleWrite_locked (hs : Ready s) (hm : hasPair s.member = true) (x : RegWrite) (hdone : s.reg.roleDone = true) :
    exec (.pairRoleWrite x) s = .next (settle (s.berr x.req (viaView x.view 0x88000) ceLocked true none)) := by
  have hexec := pairRoleWrite_writes hs x
  rwa [State.write32_role hm, if_pos hdone] at hexec

/-- The locks RCU_LOCK holds after a write that its view allows: those that stood and those written as 1. -/
theorem lockWord_bit (lock : BitVec 18) (d : Word) (hv : v = .normal ∨ v = .set) {i : Nat} (hi : i < 18) :
    (lock ||| BitVec.ofNat 18 (merge (toWord lock.toNat) (toWord 0x3FFFF) (viewBits v (toWord lock.toNat) d)).toNat).getLsbD
      i = (lock.getLsbD i || d.getLsbD i) := by
  have hones : (toWord 0x3FFFF).getLsbD i = true := by interval_cases i <;> rfl
  have hi32 : i < 32 := by omega
  have hold : (toWord lock.toNat).getLsbD i = lock.getLsbD i := by
    rw [toWord, BitVec.getLsbD_ofNat, BitVec.testBit_toNat]
    simp [hi32]
  have hbits : (viewBits v (toWord lock.toNat) d).getLsbD i = d.getLsbD i ∨
      (viewBits v (toWord lock.toNat) d).getLsbD i = (lock.getLsbD i || d.getLsbD i) := by
    obtain rfl | rfl := hv
    · exact .inl rfl
    · exact .inr ((BitVec.getLsbD_or).trans (by rw [hold]))
  rw [BitVec.getLsbD_or, BitVec.getLsbD_ofNat, BitVec.testBit_toNat, merge, BitVec.getLsbD_or, BitVec.getLsbD_and,
    BitVec.getLsbD_and, BitVec.getLsbD_not, hones]
  simp only [hi, hi32, decide_true, Bool.not_true, Bool.and_false, Bool.false_or, Bool.and_true, Bool.true_and]
  obtain h | h := hbits
  · rw [h]
  · rw [h, ← Bool.or_assoc, Bool.or_self]

theorem State.write32_lock (hv : v = .normal ∨ v = .set) :
    s.write32 q v 0x1040 d = s.lkAct 0x1040 (merge (toWord s.reg.lock.toNat) (toWord 0x3FFFF)
      (viewBits v (toWord s.reg.lock.toNat) d)) := by
  rw [State.write32_lk s.present_lock (kindFault_lk (by decide) (by tauto)) rfl rfl rfl rfl (by decide),
    State.askedLk_eq s v d _ (s.lacking_zero (by decide) (by decide))]
  rfl

theorem State.write32_lockAlias (hv : v = .clear ∨ v = .toggle) :
    s.write32 q v 0x1040 d = s.berr q (viaView v 0x1040) ceAlias true none :=
  State.write32_refused s.present_lock (by obtain rfl | rfl := hv <;> rfl)

theorem rcuLockWrite_adds (hs : Ready s) (q : Req) (d : Word) (hv : v = .normal ∨ v = .set) :
    ∃ t, exec (.rcuLockWrite ⟨q, v, d⟩) s = .next t ∧
      (∀ i < 18, t.reg.lock.getLsbD i = (s.reg.lock.getLsbD i || d.getLsbD i)) ∧
      t.reg.berrAddr = s.reg.berrAddr ∧ t.reg.brst = s.reg.brst ∧ LeavesAllBut [.rcu] s t := by
  refine ⟨settle (s.write32 q v 0x1040 d), run_ready hs _, ?_⟩
  rw [State.write32_lock hv]
  refine ⟨fun i hi => lockWord_bit _ d hv hi, rfl, rfl, fun p hp => ?_⟩
  cases p <;> first | rfl | exact absurd (by decide) hp

theorem rcuLockWrite_refuses (hs : Ready s) (q : Req) (d : Word) (hv : v = .clear ∨ v = .toggle) :
    ∃ t, exec (.rcuLockWrite ⟨q, v, d⟩) s = .next t ∧ fld (t.rcW 0x100C) 1 3 = 4 ∧ t.event 92 = true ∧
      t.reg.lock = s.reg.lock ∧ RcOnly [0x100C, evtStat 92] s t ∧ LeavesAllBut [.rc, .rcu] s t := by
  refine ⟨settle (s.write32 q v 0x1040 d), run_ready hs _, ?_⟩
  rw [State.write32_lockAlias hv]
  obtain ⟨-, hcause, -, -, -, -, herr, -, hrc, hparts, hlocks⟩ :=
    State.berr_captures hs.1 q (viaView v 0x1040) (cause := ceAlias) true none (by decide)
  exact ⟨hcause, herr, hlocks, hrc, hparts⟩

end

/-- Settles O18: the first write of a write-once register is taken and a later one is the bus error LOCKED; a write of
RCU_LOCK adds locks, or is the bus error ALIAS. -/
theorem writeOnceAndSetOnly : Obligations.WriteOnceAndSetOnly :=
  ⟨fun _ x hs hm => ⟨pairRoleWrite_takes hs hm x, fun hdone => writeOnce_refuses hs.1 (pairRoleWrite_locked hs hm x hdone)⟩,
    fun _ x hs => ⟨pciSubidWrite_takes hs x, fun hdone => writeOnce_refuses hs.1 (pciSubidWrite_locked hs x hdone)⟩,
    fun _ q _ d hs => ⟨rcuLockWrite_adds hs q d, rcuLockWrite_refuses hs q d⟩⟩

/-! ### Indirect access (R394) -/

section
variable {s : State} {q : Req} {d : Word} {r : RegRow}

theorem State.present_indData (s : State) : s.present 0x1054 = some (rowPort 0x54) :=
  State.present_at (b := bRCU) rfl rfl rfl rfl

theorem State.write32_indData (s : State) (q : Req) (d : Word) : s.write32 q .normal 0x1054 d = s.indWrite q d := by
  unfold State.write32
  rw [s.present_indData]
  rfl

theorem State.read32_indData (s : State) (q : Req) (i : Instant) : s.read32 q .normal i 0x1054 = s.indRead q i := by
  unfold State.read32
  rw [s.present_indData]
  rfl

theorem indDataWrite_writes (hs : Ready s) (q : Req) (d : Word) :
    exec (.indDataWrite ⟨q, .normal, d⟩) s = .next (settle (s.indWrite q d)) := by
  rw [← State.write32_indData]
  exact run_ready hs _

/-- A data access at an address that no word of T-space answers to. -/
theorem State.indWrite_fault {c : Nat} (h : s.tFault (s.requester q).indAddr.toNat = some c) :
    s.indWrite q d = s.berr q 0x1054 c true (tsAddr c (s.requester q).indAddr.toNat) := by
  simp [State.indWrite, h]

theorem State.indWrite_refused {c : Nat} (h : s.tFault (s.requester q).indAddr.toNat = none)
    (hr : rowT (s.requester q).indAddr.toNat = some r) (hc : s.tWriteFault (s.requester q).indAddr.toNat r = some c) :
    s.indWrite q d = s.berr q 0x1054 c true (tsAddr c (s.requester q).indAddr.toNat) := by
  simp [State.indWrite, h, hr, hc]

theorem State.indWrite_taken (h : s.tFault (s.requester q).indAddr.toNat = none)
    (hr : rowT (s.requester q).indAddr.toNat = some r) (hc : s.tWriteFault (s.requester q).indAddr.toNat r = none) :
    s.indWrite q d = (s.tWrite (s.requester q).indAddr.toNat d r).indNext q := by
  simp [State.indWrite, h, hr, hc]

/-- A word of the tables before the power die's is locked with its block's group, and otherwise takes the write. -/
theorem State.tWriteFault_table {a : Nat} (ha : a / 0x1000000 < 7) :
    s.tWriteFault a r = if s.groupLocked (tableBlock a) then some ceLocked else none := by
  unfold State.tWriteFault
  rw [if_neg (by omega)]
  simp [show a / 0x1000000 < 8 by omega]

theorem State.setRequester_same (s : State) (q : Req) (v : Requester) : (s.setRequester q v).requester q = v := by
  cases q <;> rfl

theorem State.setRequester_other (s : State) {p q : Req} (hp : p ≠ q) (v : Requester) :
    (s.setRequester q v).requester p = s.requester p := by
  cases p <;> cases q <;> first | rfl | exact absurd rfl hp

/-- The address an access of RCU_IND_DATA leaves to its requester. -/
def Requester.next (v : Requester) : Word := if v.indInc then v.indAddr + 4 else v.indAddr

theorem State.indNext_spec (s : State) (q : Req) :
    ((s.indNext q).requester q).indAddr = (s.requester q).next ∧
      (∀ p, p ≠ q → (s.indNext q).requester p = s.requester p) ∧ Follows [.rcu] s (s.indNext q) := by
  refine ⟨?_, fun p hp => ?_, State.indNext_follows s q (fun _ k => k) (.refl s)⟩
  · unfold State.indNext Requester.next
    dsimp only
    split
    · rw [State.setRequester_same]
    · rfl
  · unfold State.indNext
    dsimp only
    split
    · exact State.setRequester_other s hp _
    · rfl

theorem LeavesAllBut.requester {ps : List Part} {t : State} (h : LeavesAllBut ps s t) (hl : ps.elem .rcu = false) (p : Req) :
    t.requester p = s.requester p := by
  obtain ⟨-, -, -, -, hpcie, hmgt, -⟩ := h.rcuKept hl
  cases p
  · exact hpcie
  · exact hmgt

/-- A word of a table outside the regions in mode 1 and 2 is staged. -/
theorem State.tWrite_staged {a : Nat} (ha : a / 0x1000000 < 7) (h1 : s.inMode1 a = false) (h2 : s.inMode2 a = false) :
    s.tWrite a d r =
      (s.setStaged a (merge (s.stagedW a) (toWord r.rs) d)).setStagedBit (s.groupOf (tableBlock a)) true := by
  unfold State.tWrite
  rw [if_neg (by omega)]
  simp [h1, h2]

theorem indDataWrite_stages (hs : Ready s) (hf : s.tFault (s.requester q).indAddr.toNat = none)
    (hr : rowT (s.requester q).indAddr.toNat = some r) (ha : (s.requester q).indAddr.toNat / 0x1000000 < 7)
    (hfree : s.groupLocked (tableBlock (s.requester q).indAddr.toNat) = false)
    (h1 : s.inMode1 (s.requester q).indAddr.toNat = false) (h2 : s.inMode2 (s.requester q).indAddr.toNat = false) :
    let a := (s.requester q).indAddr.toNat
    ∃ t, exec (.indDataWrite ⟨q, .normal, d⟩) s = .next t ∧ t.stagedW a = merge (s.stagedW a) (toWord r.rs) d ∧
      (∀ k, k ≠ a → t.stagedW k = s.stagedW k) ∧ t.reg.stagedBits.getLsbD (s.groupOf (tableBlock a)) = true ∧
      (t.requester q).indAddr = (s.requester q).next ∧ (∀ p, p ≠ q → t.requester p = s.requester p) ∧
      LeavesAllBut [.staged, .snap, .rcu] s t := by
  intro a
  refine ⟨_, indDataWrite_writes hs q d, ?_⟩
  rw [State.indWrite_taken hf hr ((State.tWriteFault_table ha).trans (if_neg (by simp [hfree]))),
    State.tWrite_staged ha h1 h2]
  obtain ⟨hword, hrest, hbit, hframe⟩ :=
    State.staged_spec hs.1 a (merge (s.stagedW a) (toWord r.rs) d) (s.groupOf_lt (tableBlock a))
  obtain ⟨haddr, hother, hnext⟩ := ((s.setStaged a (merge (s.stagedW a) (toWord r.rs) d)).setStagedBit
    (s.groupOf (tableBlock a)) true).indNext_spec q
  have hreq (p : Req) := hframe.others.requester rfl p
  refine ⟨(hnext.others.stagedW rfl a).trans hword, fun k hk => (hnext.others.stagedW rfl k).trans (hrest k hk), ?_,
    haddr.trans (by rw [hreq]), fun p hp => (hother p hp).trans (hreq p),
    ((hframe.others.widen (by decide)).trans (hnext.others.widen (by decide))).settled⟩
  obtain ⟨-, -, hbits⟩ := hnext.others.snapKept rfl
  exact (congrArg (fun b : BitVec 16 => b.getLsbD (s.groupOf (tableBlock a))) hbits).trans hbit

theorem indDataRead_answers (hs : Ready s) (i : Instant) (hf : s.tFault (s.requester q).indAddr.toNat = none)
    (hr : rowT (s.requester q).indAddr.toNat = some r) (ha : (s.requester q).indAddr.toNat / 0x1000000 < 7) :
    ∃ t, exec (.indDataRead q i) s = .next t ∧
      t.reply = .value (s.tableWord (s.requester q).viewApplied (s.requester q).indAddr.toNat) 0 ∧
      (t.requester q).indAddr = (s.requester q).next ∧ (∀ p, p ≠ q → t.requester p = s.requester p) ∧
      LeavesAllBut [.rcu, .reply] s t := by
  have hread : s.indRead q i =
      (some (s.tableWord (s.requester q).viewApplied (s.requester q).indAddr.toNat), s.indNext q) := by
    have h7 : (s.requester q).indAddr.toNat / 0x1000000 ≠ 7 := by omega
    have h8 : (s.requester q).indAddr.toNat / 0x1000000 ≠ 8 := by omega
    simp [State.indRead, State.tRead, hf, hr, h7, h8]
  refine ⟨_, run_ready hs _, ?_⟩
  unfold State.regRead
  rw [State.read32_indData, hread]
  obtain ⟨haddr, hother, hnext⟩ := s.indNext_spec q
  have hreply := (s.indNext q).withReply_frame
    (.value (s.tableWord (s.requester q).viewApplied (s.requester q).indAddr.toNat) 0)
  exact ⟨rfl, haddr, hother, ((hnext.others.widen (by decide)).trans (hreply.others.widen (by decide))).settled⟩

end

theorem toWord_toNat (w : Word) : toWord w.toNat = w := BitVec.eq_of_toNat_eq (Nat.mod_eq_of_lt w.isLt)

/-- Settles O17: the word is staged or answered, and the address of its requester moves on. -/
theorem indirectAccess : Obligations.IndirectAccess :=
  ⟨fun _ _ _ _ hs hf hr ha hfree h1 h2 => indDataWrite_stages hs hf hr ha hfree h1 h2,
    fun _ _ i _ hs hf hr ha => indDataRead_answers hs i hf hr ha⟩

/-- Settles O13: each of the accesses is one bus error, and each clause reads off what that captures. -/
theorem busErrorsCaptured : Obligations.BusErrorsCaptured := by
  refine ⟨fun s x i hs _ hx => ⟨⟨_, registerWrite_illegal hs hx, ?_⟩, _, clearOnRead_illegal hs i hx, rfl, ?_⟩,
    fun s q d hs hf => ⟨_, indDataWrite_writes hs q d, ?_⟩,
    fun s q d r hs hf hr ha hl => ⟨_, indDataWrite_writes hs q d, ?_⟩,
    fun s x hs hdone => ⟨_, pciSubidWrite_locked hs x hdone, ?_⟩⟩
  · obtain ⟨hvalid, hcause, hwr, hts, hlost, haddr, herr, -, hrc, hparts, -⟩ :=
      State.berr_captures hs.1 x.req x.off.toNat (cause := ceWidth) true none (by decide)
    exact ⟨hvalid, hcause, hwr, hts, hlost, haddr, herr, hrc, hparts⟩
  · obtain ⟨hvalid, hcause, hwr, hts, hlost, haddr, herr, -, hrc, hparts, -⟩ :=
      State.berr_captures hs.1 x.req x.off.toNat (cause := ceWidth) false none (by decide)
    exact ⟨hvalid, hcause, hwr, hts, hlost, haddr, herr, hrc, (hparts.widen (by decide)).trans
      ((State.withReply_frame _ _).others.widen (by decide))⟩
  · rw [State.indWrite_fault hf]
    obtain ⟨hvalid, hcause, hwr, hts, hlost, haddr, herr, -, hrc, hparts, -⟩ :=
      State.berr_captures hs.1 q 0x1054 (cause := ceTspace) true (tsAddr ceTspace (s.requester q).indAddr.toNat) (by decide)
    exact ⟨hvalid, hcause, hwr, hts, hlost, haddr.trans (toWord_toNat _), herr, hrc, hparts⟩
  · rw [State.indWrite_refused hf hr ((State.tWriteFault_table ha).trans (if_pos hl))]
    obtain ⟨hvalid, hcause, -, hts, hlost, haddr, herr, hviol, hrc, hparts, -⟩ :=
      State.berr_captures hs.1 q 0x1054 (cause := ceLocked) true (tsAddr ceLocked (s.requester q).indAddr.toNat) (by decide)
    exact ⟨hvalid, hcause, hts, hlost, haddr.trans (toWord_toNat _), herr, hviol rfl, hrc, hparts⟩
  · obtain ⟨hvalid, hcause, -, hts, hlost, haddr, herr, hviol, hrc, hparts, -⟩ :=
      State.berr_captures hs.1 x.req (viaView x.view 0x7000) (cause := ceLocked) true none (by decide)
    exact ⟨hvalid, hcause, hts, hlost, haddr, herr, hviol rfl, hrc, hparts⟩

/-! ### Reads that clear and latch (R386, R387) -/

section
variable {s : State} {q : Req} {i : Instant} {a : Nat} {r : RegRow}

theorem regRead_value (hp : s.present a = some r) (hport : r.port = false) (hpart : isPartner a = false) :
    s.regRead q i a =
      { (s.latch q i (latched r a)).clearRead r a with reply := .value (s.regValue q i a r) 0 } := by
  unfold State.regRead State.read32
  simp [hp, hport, hpart, replyOf]

theorem State.latch_frame (s : State) (q : Req) (i : Instant) (l : List Nat) : Follows [.rcu] s (s.latch q i l) :=
  State.latch_follows s q i l (fun _ k => k) (.refl s)

theorem State.clearRead_plain (hctr : r.ctr = false) (hrc : r.rc = 0) : s.clearRead r a = s := by
  simp [State.clearRead, hctr, hrc]

theorem State.clearRead_rc (hctr : r.ctr = false) (hrc : r.rc ≠ 0) : s.clearRead r a = s.setRc a (resetWord a) := by
  simp [State.clearRead, hctr, hrc]

theorem State.clearRead_counter (hctr : r.ctr = true) : s.clearRead r a = s.setCounter a 0 := if_pos hctr

/-- A store after a list of keys is written, each with the value a function gives it: every key of the list reads so. -/
theorem sget_foldl_sset {α : Type} [DecidableEq α] {dflt : Nat → α} {m : SMap α} (hm : swf dflt m = true) (f : Nat → α)
    (l : List Nat) (k : Nat) :
    sget dflt (l.foldl (fun m a => sset dflt m a (f a)) m) k = if k ∈ l then f k else sget dflt m k := by
  induction l generalizing m with
  | nil => simp
  | cons a l ih =>
    rw [List.foldl_cons, ih (swf_sset hm a (f a)), sget_sset hm]
    by_cases hk : k = a
    · subst hk
      simp
    · simp [hk]

theorem Ready.shadowOk (hs : Ready s) (q : Req) : swf (fun _ => 0) (s.requester q).shadow = true := by
  obtain ⟨⟨⟨-, -, -, -, -, -, -, -, -, hpcie, hmgt⟩, -⟩, -⟩ := hs
  cases q
  · exact hpcie
  · exact hmgt

theorem State.latch_shadow (hs : Ready s) (i : Instant) {l : List Nat} {k : Nat} (hk : k ∈ l) :
    sget (fun _ => 0) ((s.latch q i l).requester q).shadow k = s.roValue i k := by
  unfold State.latch
  dsimp only
  rw [State.setRequester_same]
  exact (sget_foldl_sset (hs.shadowOk q) (s.roValue i) l k).trans (if_pos hk)

theorem exec_clearOnRead (hs : Ready s) (q : Req) (d : Word) (i : Instant) (ha : a < 0x100000) (h4 : a % 4 = 0) :
    exec (.clearOnRead (wordAccess q a d) i) s = .next (settle (s.regRead q i a)) :=
  (run_ready hs _).trans (by rw [State.accessRead_word s q d i ha h4])

theorem exec_latchingRead (hs : Ready s) (q : Req) (d : Word) (i : Instant) (ha : a < 0x100000) (h4 : a % 4 = 0) :
    exec (.latchingRead (wordAccess q a d) i) s = .next (settle (s.regRead q i a)) :=
  (run_ready hs _).trans (by rw [State.accessRead_word s q d i ha h4])

/-- A counter that is read returns to 0, and its HI word waits in the requester's shadow. -/
theorem regRead_counter (hs : Ready s) (hp : s.present a = some r) (hport : r.port = false) (hpart : isPartner a = false)
    (hctr : r.ctr = true) :
    let t := settle (s.regRead q i a)
    t.reply = .value (s.regValue q i a r) 0 ∧ t.counter a = 0 ∧ (∀ k, k ≠ a → t.counter k = s.counter k) ∧
      sget (fun _ => 0) (t.requester q).shadow (a + 4) = s.roValue i (a + 4) ∧
      LeavesAllBut [.count, .rcu, .reply] s t := by
  intro t
  have hlatch := s.latch_frame q i [a + 4]
  have hcount := State.setCounter_follows (s.latch q i [a + 4]) a 0 (Nat.zero_le _) (fun _ k => k) (.refl _)
  have hreply := ((s.latch q i [a + 4]).setCounter a 0).withReply_frame (.value (s.regValue q i a r) 0)
  have ht : t = settle { (s.latch q i [a + 4]).setCounter a 0 with reply := .value (s.regValue q i a r) 0 } := by
    simp only [t]
    rw [regRead_value hp hport hpart, State.clearRead_counter hctr, latched, if_pos hctr]
  have hword (k : Nat) : t.counter k = if k = a then 0 else s.counter k := by
    rw [ht, ← hlatch.others.counter rfl k]
    exact State.setCounter_counter (hlatch.stores hs.1) a k 0
  refine ⟨by rw [ht]; rfl, (hword a).trans (if_pos rfl), fun k hk => (hword k).trans (if_neg hk), ?_, ?_⟩
  · rw [ht]
    exact (congrArg (sget (fun _ => 0) ·.shadow (a + 4)) (hcount.others.requester rfl q)).trans
      (State.latch_shadow hs i (by simp))
  · rw [ht]
    exact ((hlatch.others.widen (by decide)).trans
      ((hcount.others.widen (by decide)).trans (hreply.others.widen (by decide)))).settled

/-- An RC register that is read returns to its reset word. -/
theorem regRead_rc (hs : Ready s) (hp : s.present a = some r) (hport : r.port = false) (hpart : isPartner a = false)
    (hctr : r.ctr = false) (hrc : r.rc ≠ 0) :
    let t := settle (s.regRead q i a)
    t.reply = .value (s.regValue q i a r) 0 ∧ t.rcW a = resetWord a ∧ (∀ k, k ≠ a → t.rcW k = s.rcW k) ∧
      LeavesAllBut [.rc, .rcu, .reply] s t := by
  intro t
  have hlatch := s.latch_frame q i (latched r a)
  have hset := (s.latch q i (latched r a)).setRc_frame a (resetWord a)
  have hreply := ((s.latch q i (latched r a)).setRc a (resetWord a)).withReply_frame (.value (s.regValue q i a r) 0)
  have ht : t = settle { (s.latch q i (latched r a)).setRc a (resetWord a) with
      reply := .value (s.regValue q i a r) 0 } := by
    simp only [t]
    rw [regRead_value hp hport hpart, State.clearRead_rc hctr hrc]
  have hword (k : Nat) : t.rcW k = if k = a then resetWord a else s.rcW k := by
    rw [ht, ← hlatch.others.rcW rfl k]
    exact State.setRc_rcW (hlatch.stores hs.1) a k _
  refine ⟨by rw [ht]; rfl, (hword a).trans (if_pos rfl), fun k hk => (hword k).trans (if_neg hk), ?_⟩
  rw [ht]
  exact ((hlatch.others.widen (by decide)).trans
    ((hset.others.widen (by decide)).trans (hreply.others.widen (by decide)))).settled

/-- A register that clears nothing: its partner words wait in the requester's shadow. -/
theorem regRead_latches (hs : Ready s) (hp : s.present a = some r) (hport : r.port = false) (hpart : isPartner a = false)
    (hctr : r.ctr = false) (hrc : r.rc = 0) :
    let t := settle (s.regRead q i a)
    t.reply = .value (s.regValue q i a r) 0 ∧
      (∀ k ∈ latched r a, sget (fun _ => 0) (t.requester q).shadow k = s.roValue i k) ∧
      LeavesAllBut [.rcu, .reply] s t := by
  intro t
  have hlatch := s.latch_frame q i (latched r a)
  have hreply := (s.latch q i (latched r a)).withReply_frame (.value (s.regValue q i a r) 0)
  have ht : t = settle { s.latch q i (latched r a) with reply := .value (s.regValue q i a r) 0 } := by
    simp only [t]
    rw [regRead_value hp hport hpart, State.clearRead_plain hctr hrc]
  rw [ht]
  exact ⟨rfl, fun k hk => State.latch_shadow hs i hk,
    ((hlatch.others.widen (by decide)).trans (hreply.others.widen (by decide))).settled⟩

end

/-- Settles O14: a read is the register's value with its partner words latched, and what it clears is its counter or its RC
word. -/
theorem readsClearAndLatch : Obligations.ReadsClearAndLatch := fun _ q i _ d _ hs ha h4 hp hport hpart =>
  ⟨fun hctr => ⟨_, exec_clearOnRead hs q d i ha h4, regRead_counter hs hp hport hpart hctr⟩,
    fun hctr hrc _ => ⟨_, exec_clearOnRead hs q d i ha h4, regRead_rc hs hp hport hpart hctr hrc⟩,
    fun hctr hrc => ⟨_, exec_latchingRead hs q d i ha h4, regRead_latches hs hp hport hpart hctr hrc⟩⟩

end Sys2Proof.Machine

/-! SUPPORT. Serial ports, rate trackers and converter channels: what SAP_CTL holds for the boundary, what a port adopts at its
frame sync, how it loses its clock, slips, restarts and stops, and how a tracker locks and unlocks (R290 to R315). -/

namespace Sys2Proof.Machine

/-! ### A flag, a count and an event together -/

section
variable {s : State} {f m c n k : Nat}

/-- A flag set, an occurrence counted below the maximum and the event raised, in that order. -/
theorem State.flag_bump_raise_spec (hs : StoresOk s) (hc : s.counter c + 1 < ctrMax) (hn : srcPresent s.member n = true)
    (hf : f ≠ evtStat n) (hk : k < 32) (hm : m.testBit k = true) :
    let t := ((s.flag f m).bump c).raise n
    bitAt (t.rcW f) k = true ∧ t.event n = true ∧ t.counter c = s.counter c + 1 ∧ RcOnly [f, evtStat n] s t ∧
      CountOnly [c] s t ∧ Follows [.rc, .count] s t := by
  intro t
  have hcf : (s.flag f m).counter c + 1 < ctrMax := by simpa using hc
  have hb := State.bump_follows (s.flag f m) c (fun _ h => h) (State.flag_follows s f m (within (fun _ h => h) rfl) (.refl s))
  have hbs := hb.stores hs
  refine ⟨?_, State.raise_event hbs n (hb.member ▸ hn), ?_, ?_, ?_, State.raise_follows _ n (within (fun _ h => h) rfl) hb⟩
  · rw [State.raise_rcW_other n f hf, State.bump_rcW c f hcf, State.flag_rcW hs, if_pos rfl]
    exact bitAt_or _ k m hk hm
  · simp [t, State.bump_counter (State.flag_storesOk hs f m) c c hcf]
  · exact (((RcOnly.refl _ s).flag (by simp)).trans ((State.bump_below hcf).rcOnly rfl)).raise (by simp)
  · intro b hb'
    simp [t, State.bump_counter (State.flag_storesOk hs f m) c b hcf, show b ≠ c by simpa using hb']

/-- An occurrence counted below the maximum, then a flag set with its event. -/
theorem State.bump_flagRaise_spec (hs : StoresOk s) (hc : s.counter c + 1 < ctrMax) (hn : srcPresent s.member n = true)
    (hf : f ≠ evtStat n) (hk : k < 32) (hm : m.testBit k = true) :
    let t := (s.bump c).flagRaise f m n
    bitAt (t.rcW f) k = true ∧ t.event n = true ∧ t.counter c = s.counter c + 1 ∧ RcOnly [f, evtStat n] s t ∧
      CountOnly [c] s t ∧ Follows [.rc, .count] s t := by
  intro t
  have hb := State.bump_follows s c (fun _ h => h) (.refl s)
  have hbs := hb.stores hs
  refine ⟨State.flagRaise_bit hbs hf hk hm, State.flagRaise_event hbs f m n (hb.member ▸ hn), ?_, ?_, ?_,
    State.flagRaise_follows _ f m n (within (fun _ h => h) rfl) hb⟩
  · simp [t, State.bump_counter hs c c hc]
  · exact ((State.bump_below hc).rcOnly rfl).flagRaise (by simp) (by simp)
  · intro b hb'
    simp [t, State.bump_counter hs c b hc, show b ≠ c by simpa using hb']

end

/-! ### Ports in a command (R2) -/

/-- Every other serial port is as it was. -/
def OtherSaps (p : Nat) (s t : State) : Prop := ∀ k, k ≠ p → t.sapOf k = s.sapOf k

section
variable {s t u : State} {p : Nat}

theorem lt_eight_of_sap {m : Member} (h : p < numSap m) : p < 8 := h.trans_le (numSap_le m)

theorem run_sap (hs : Ready s) (hp : p < numSap s.member) (t : State) : run s (s.onSap p t) = .next (settle t) :=
  (run_ready hs _).trans (by rw [State.onSap, if_pos (show sapPresent s.member p = true from decide_eq_true hp)])

theorem run_sapIndex (hs : Ready s) (hp : p < numSap s.member) (t : State) : run s (s.onIndex p 8 t) = .next (settle t) :=
  (run_ready hs _).trans (by rw [State.onIndex, if_pos (lt_eight_of_sap hp)])

theorem State.setSap_same (hs : StoresOk s) (p : Nat) (v : Sap) : (s.setSap p v).sapOf p = v := by
  rw [State.setSap_sapOf hs, if_pos rfl]

theorem State.setSap_otherSaps (hs : StoresOk s) (p : Nat) (v : Sap) : OtherSaps p s (s.setSap p v) :=
  fun k hk => by rw [State.setSap_sapOf hs, if_neg hk]

theorem OtherSaps.trans (h : OtherSaps p s t) (k : OtherSaps p t u) : OtherSaps p s u :=
  fun j hj => (k j hj).trans (h j hj)

/-- What touches no port leaves the others too. -/
theorem LeavesAllBut.otherSaps {l : List Part} (h : LeavesAllBut l s t) (hl : l.elem .sap = false) : OtherSaps p s t :=
  fun k _ => h.sapOf hl k

/-- The flags of a port are no event's status word. -/
theorem sapFlags_ne_evtStat (p : Nat) {n : Nat} (hn : n < 96) : sapFlags p ≠ evtStat n := by
  unfold sapFlags sapBase evtStat
  omega

theorem srcPresent_sap (m : Member) {n : Nat} (h : n = 64 ∨ n = 65 ∨ n = 66) : srcPresent m n = true := by
  obtain rfl | rfl | rfl := h <;> rfl

/-- A command that sets one port's state and nothing else. -/
theorem setSap_effect (hs : Ready s) (p : Nat) (v : Sap) :
    (settle (s.setSap p v)).sapOf p = v ∧ OtherSaps p s (settle (s.setSap p v)) ∧
      LeavesAllBut [.sap] s (settle (s.setSap p v)) :=
  ⟨State.setSap_same hs.1 p v, State.setSap_otherSaps hs.1 p v, (State.setSap_frame s p v).others.settled⟩

end

/-! ### SAP_CTL and adoption (R296, R300, R306) -/

section
variable {s : State} {p : Nat} (hs : Ready s) (hp : p < numSap s.member)
include hs hp

/-- Each bit of SAP_CTL is held for the port's next boundary. -/
theorem sapCtl_effect (q : Req) (d : Nat) :
    ∃ t, run s (s.onIndex p 8 (s.ctl q (sapBase p + 4) d)) = .next t ∧
      t.sapOf p = { s.sapOf p with
        reqStart := (s.sapOf p).reqStart || bitAt (toWord d &&& 0x7) 0
        reqStop := (s.sapOf p).reqStop || bitAt (toWord d &&& 0x7) 1
        reqRestart := (s.sapOf p).reqRestart || bitAt (toWord d &&& 0x7) 2 } ∧
      OtherSaps p s t ∧ LeavesAllBut [.sap] s t :=
  ⟨_, run_sapIndex hs hp _, by rw [State.ctl_sap s q p d hp]; exact setSap_effect hs p _⟩

theorem sapCtlStart_effect (q : Req) :
    ∃ t, exec (.sapCtlStart p q) s = .next t ∧ t.sapOf p = { s.sapOf p with reqStart := true } ∧
      OtherSaps p s t ∧ LeavesAllBut [.sap] s t := by
  obtain ⟨t, ht, hv, hframe⟩ := sapCtl_effect hs hp q 1
  exact ⟨t, ht, hv.trans (by simp [bitAt, toWord]), hframe⟩

theorem sapCtlStop_effect (q : Req) :
    ∃ t, exec (.sapCtlStop p q) s = .next t ∧ t.sapOf p = { s.sapOf p with reqStop := true } ∧
      OtherSaps p s t ∧ LeavesAllBut [.sap] s t := by
  obtain ⟨t, ht, hv, hframe⟩ := sapCtl_effect hs hp q 2
  exact ⟨t, ht, hv.trans (by simp [bitAt, toWord]), hframe⟩

theorem sapCtlRestart_effect (q : Req) :
    ∃ t, exec (.sapCtlRestart p q) s = .next t ∧ t.sapOf p = { s.sapOf p with reqRestart := true } ∧
      OtherSaps p s t ∧ LeavesAllBut [.sap] s t := by
  obtain ⟨t, ht, hv, hframe⟩ := sapCtl_effect hs hp q 4
  exact ⟨t, ht, hv.trans (by simp [bitAt, toWord]), hframe⟩

end

section
variable {s : State} (hs : StoresOk s) (p : Nat)
include hs

/-- Judging a port's format keeps the format (R297). -/
theorem State.sapJudge_fmt : ((s.sapJudge p).sapOf p).fmt = (s.sapOf p).fmt ∧ OtherSaps p s (s.sapJudge p) := by
  have hset (v : Sap) (hv : v.fmt = (s.sapOf p).fmt) :
      ((s.setSap p v).sapOf p).fmt = (s.sapOf p).fmt ∧ OtherSaps p s (s.setSap p v) :=
    ⟨by rw [State.setSap_same hs, hv], State.setSap_otherSaps hs p v⟩
  unfold State.sapJudge
  dsimp only
  split
  · split
    · exact ⟨rfl, fun _ _ => rfl⟩
    · obtain ⟨hfmt, hothers⟩ := hset { s.sapOf p with badcfg := true } rfl
      have hflag := State.flagRaise_others (s.setSap p { s.sapOf p with badcfg := true }) (sapFlags p) 0x8 67
      exact ⟨by rw [hflag.sapOf rfl, hfmt], hothers.trans (hflag.otherSaps rfl)⟩
  · exact hset _ rfl

/-- A port that is not started latches its applied format (R296). -/
theorem State.sapFormat_fmt :
    ((s.sapFormat p).sapOf p).fmt = s.appliedW (sapBase p) &&& fmtMask ∧ OtherSaps p s (s.sapFormat p) := by
  unfold State.sapFormat
  dsimp only
  obtain ⟨hfmt, hothers⟩ := State.sapJudge_fmt ((State.setSap_frame s p _).stores hs) p
  exact ⟨by rw [hfmt, State.setSap_same hs], (State.setSap_otherSaps hs p _).trans hothers⟩

end

/-- The registers of a port's frame sync: its applied words are in force and none of its changes waits. -/
def State.sapInForce (s : State) (p : Nat) : State :=
  { s with reg := { s.reg with
      inForce := replaceWhere (sapKey p) s.reg.inForce s.reg.applied
      waiting := s.reg.waiting.filter (fun x => x.2 ≠ bSAP p) } }

section
variable {s : State} (hs : StoresOk s) (p : Nat)
include hs

theorem State.sapInForce_follows : Follows [.inForce, .snap] s (s.sapInForce p) := by
  obtain ⟨⟨h1, h2, h3, h4, h5, h6, h7, h8, h9, h10, h11⟩, hpool, hunits⟩ := hs
  exact ⟨rfl, rfl, List.prefix_rfl, le_rfl,
    fun _ => ⟨⟨h1, h2, swf_replaceWhere h3 _ _, h4, h5, h6, h7, h8, h9, h10, h11⟩, hpool, hunits⟩,
    fun q hq => by cases q <;> first | rfl | exact absurd (List.elem_iff.mp rfl) hq⟩

theorem State.sapInForce_inForceW (a : Nat) :
    (s.sapInForce p).inForceW a = if sapKey p a then s.appliedW a else s.inForceW a :=
  sget_replaceWhere hs.1.2.2.1 hs.1.2.1 _ a

end

/-- What the port makes of its new registers: one that is started stops where it is no longer enabled, another takes its format. -/
def State.sapAdoptPort (s : State) (p : Nat) : State :=
  if (s.sapOf p).started then (if sEn (s.sapCfg p) then s else s.sapStop p) else s.sapFormat p

theorem State.sapAdopt_eq (s : State) (p : Nat) :
    s.sapAdopt p = if (s.sapInForce p).mapDup p then ((s.sapInForce p).sapAdoptPort p).flagRaise (sapFlags p) 0x10 67
      else (s.sapInForce p).sapAdoptPort p := rfl

theorem State.sapAdoptPort_follows (s : State) (p : Nat) : Follows [.rc, .mix, .sap] s (s.sapAdoptPort p) :=
  .ite (.ite (.refl s) (State.sapStop_follows s p (within (fun _ h => h) rfl) (.refl s)))
    (State.sapFormat_follows s p (within (fun _ h => h) rfl) (.refl s))

/-- Adoption ends with the port as it made itself of its registers, whatever its slot maps say. -/
theorem State.sapAdopt_others (s : State) (p : Nat) :
    LeavesAllBut [.rc] ((s.sapInForce p).sapAdoptPort p) (s.sapAdopt p) := by
  rw [State.sapAdopt_eq]
  split
  · exact State.flagRaise_others _ _ _ _
  · exact (Follows.refl _).others

section
variable {s : State} {p : Nat} (hs : StoresOk s)
include hs

theorem State.sapAdopt_inForceW (a : Nat) : (s.sapAdopt p).inForceW a = if sapKey p a then s.appliedW a else s.inForceW a := by
  rw [(State.sapAdopt_others s p).inForceW rfl, (State.sapAdoptPort_follows _ p).others.inForceW rfl,
    State.sapInForce_inForceW hs]

theorem State.sapAdopt_fmt (hstop : (s.sapOf p).started = false) :
    ((s.sapAdopt p).sapOf p).fmt = s.appliedW (sapBase p) &&& fmtMask ∧ OtherSaps p s (s.sapAdopt p) := by
  have hreg := State.sapInForce_follows hs p
  have hformat : (s.sapInForce p).sapAdoptPort p = (s.sapInForce p).sapFormat p :=
    if_neg (by rw [hreg.others.sapOf rfl, hstop]; decide)
  have hend := State.sapAdopt_others s p
  rw [hformat] at hend
  obtain ⟨hfmt, hothers⟩ := State.sapFormat_fmt (hreg.stores hs) p
  exact ⟨by rw [hend.sapOf rfl, hfmt, hreg.others.appliedW rfl],
    ((hreg.others.otherSaps rfl).trans hothers).trans (hend.otherSaps rfl)⟩

end

theorem sapAdopt_effect {s : State} {p : Nat} (hs : Ready s) (hp : p < numSap s.member) :
    ∃ t, exec (.sapAdopt p) s = .next t ∧
      ((s.sapOf p).started = false → (t.sapOf p).fmt = s.appliedW (sapBase p) &&& fmtMask ∧ OtherSaps p s t) ∧
      (∀ a, sapKey p a = true → t.inForceW a = s.appliedW a) ∧
      (∀ a, sapKey p a = false → t.inForceW a = s.inForceW a) ∧ LeavesAllBut [.inForce, .rc, .snap, .mix, .sap] s t := by
  refine ⟨_, run_sap hs hp _, State.sapAdopt_fmt hs.1, fun a ha => ?_, fun a ha => ?_,
    (State.sapAdopt_follows s p (fun _ h => h) (.refl s)).others.settled⟩
  · rw [settle_inForceW, State.sapAdopt_inForceW hs.1, if_pos ha]
  · rw [settle_inForceW, State.sapAdopt_inForceW hs.1, if_neg (by simp [ha])]

/-- Settles O8: SAP_CTL sets the bits the port's boundary reads, and the frame sync merges the port's applied words into those
in force before the port judges its format. -/
theorem sapBoundaryRequestsAndAdoption : Obligations.SapBoundaryRequestsAndAdoption :=
  ⟨⟨fun _ _ q hs hp => sapCtlStart_effect hs hp q, fun _ _ q hs hp => sapCtlStop_effect hs hp q,
    fun _ _ q hs hp => sapCtlRestart_effect hs hp q⟩, fun _ _ hs hp => sapAdopt_effect hs hp⟩

/-! ### Clock loss, rates and clock return (R298, R299, R302, R303, R308) -/

/-- The port as the loss of its clock leaves it, before the loss is reported. -/
def State.sapLost (s : State) (p cause : Nat) : Sap :=
  let v := s.sapOf p
  let live := sapBusy v.st
  { v with
    st := 5, clkOk := false, loss := cause, wasStarted := live || v.wasStarted, starting := false, outDue := none
    resumeDue := false, reqRestart := false, teamDue := false, window := v.window || live
    inLast := if s.mlock p || decide (cause = 3) then v.inLast else [], inBlk := [], winRamp := false
    inRamp := v.inRamp.toward (muteCode, true) (s.sapRamp p) }

/-- The loss as it is reported: the port's state, CLKLOSS, its count and SAP_CLKLOSS. -/
def State.sapLossTold (s : State) (p cause : Nat) : State :=
  (((s.setSap p (s.sapLost p cause)).flag (sapFlags p) 0x1).bump (sapCtr p 1)).raise 64

section
variable {s : State} {p : Nat}

/-- A loss outside an open window, of a port not in hard stop, mutes the port and refills its channels (R302). -/
theorem State.sapClkLoss_first {cause : Nat} (hslave : s.sapMaster p = false) (hen : sEn (s.sapCfg p) = true)
    (hclk : (s.sapOf p).clkOk = true) (hwin : (s.sapOf p).window = false) (hst : (s.sapOf p).st ≠ 7) (hcause : cause ≠ 3) :
    s.sapClkLoss p cause = ((s.sapLossTold p cause).muteOn (mkSap p) .port (s.sapRamp p)).asrcPort p := by
  unfold State.sapClkLoss State.sapLossTold State.sapLost
  simp [hslave, hen, hclk, hwin, hst, hcause]

variable (hs : Ready s) (hp : p < numSap s.member)
include hs hp

theorem sapClkloss_effect {cause : Nat} (hslave : s.sapMaster p = false) (hen : sEn (s.sapCfg p) = true)
    (hclk : (s.sapOf p).clkOk = true) (hwin : (s.sapOf p).window = false) (hst : (s.sapOf p).st ≠ 7)
    (hcause : cause = 1 ∨ cause = 2) (hctr : s.counter (sapCtr p 1) + 1 < ctrMax) :
    ∃ t, exec (.sapClkloss p cause) s = .next t ∧ (t.sapOf p).st = 5 ∧ (t.sapOf p).clkOk = false ∧
      (t.sapOf p).loss = cause ∧ (t.sapOf p).window = sapBusy (s.sapOf p).st ∧ bitAt (t.rcW (sapFlags p)) 0 = true ∧
      t.event 64 = true ∧ t.counter (sapCtr p 1) = s.counter (sapCtr p 1) + 1 ∧ OtherSaps p s t ∧
      RcOnly [sapFlags p, evtStat 64] s t ∧ CountOnly [sapCtr p 1] s t ∧ LeavesAllBut [.rc, .count, .mix, .sap, .asrc] s t := by
  have hset := State.setSap_frame s p (s.sapLost p cause)
  obtain ⟨hflag, hevent, hcount, hrc, hcounts, htold⟩ := State.flag_bump_raise_spec (s := s.setSap p (s.sapLost p cause))
    (m := 0x1) (k := 0) (hset.stores hs.1) (c := sapCtr p 1) (by simpa using hctr) (srcPresent_sap _ (n := 64) (.inl rfl))
    (sapFlags_ne_evtStat p (by decide)) (by decide) (by decide)
  have hend : Follows [.mix, .asrc] (s.sapLossTold p cause) (s.sapClkLoss p cause) := by
    rw [State.sapClkLoss_first hslave hen hclk hwin hst (by omega)]
    exact State.asrcPort_follows _ p (within (fun _ h => h) rfl)
      (State.muteOn_follows _ _ _ _ (within (fun _ h => h) rfl) (.refl _))
  have hport : (s.sapClkLoss p cause).sapOf p = s.sapLost p cause := by
    rw [hend.others.sapOf rfl, State.sapLossTold, htold.others.sapOf rfl, State.setSap_same hs.1]
  refine ⟨_, run_sap hs hp _, ?_, ?_, ?_, ?_, ?_, ?_, ?_, ?_, ?_, ?_, ?_⟩
  · rw [settle_sapOf, hport]; rfl
  · rw [settle_sapOf, hport]; rfl
  · rw [settle_sapOf, hport]; rfl
  · rw [settle_sapOf, hport, State.sapLost, hwin]; rfl
  · rw [settle_rcW, hend.others.rcW rfl]; exact hflag
  · rw [settle_event, hend.others.event rfl]; exact hevent
  · rw [settle_counter, hend.others.counter rfl]; exact hcount.trans (by simp)
  · exact ((State.setSap_otherSaps hs.1 p _).trans (htold.others.otherSaps rfl)).trans (hend.others.otherSaps rfl)
  · exact ((hset.others.rcOnly rfl).trans hrc).trans (hend.others.rcOnly rfl)
  · intro a ha
    rw [settle_counter, hend.others.counter rfl]
    exact (hcounts a ha).trans (by simp)
  · exact (((hset.others.widen (by decide)).trans (htold.others.widen (by decide))).trans
      (hend.others.widen (by decide))).settled

end

/-- The port with its new class reported. -/
def State.sapClassTold (s : State) (p c : Nat) : State :=
  (s.setSap p { s.sapOf p with
    rclass := c, clkOk := (s.sapOf p).clkOk || (decide (c ≠ 0) && decide ((s.sapOf p).st ≠ 5)) }).flagRaise (sapFlags p) 0x2 65

/-- The tracker of a port whose class has changed: it falls back from LOCKED and the loss of lock is reported (R313). -/
def State.sapClassTrk (s : State) (p : Nat) : State :=
  ((s.setTrk p { s.trkOf p with st := if (s.trkOf p).st = 2 then 1 else (s.trkOf p).st }).asrcUnlockEvt).asrcPort p

theorem State.asrcUnlockEvt_raises (s : State) : Raises s s.asrcUnlockEvt :=
  (State.bump_raises s _).trans (State.flagRaise_raises _ _ _ _)

theorem State.sapClassTrk_follows (s : State) (p : Nat) : Follows [.rc, .count, .asrc] s (s.sapClassTrk p) :=
  State.asrcPort_follows _ p (within (fun _ h => h) rfl) (State.asrcUnlockEvt_follows _ (within (fun _ h => h) rfl)
    (State.setTrk_follows s p _ (within (fun _ h => h) rfl) (.refl s)))

theorem State.sapClassTrk_raises (s : State) (p : Nat) : Raises s (s.sapClassTrk p) :=
  (((State.setTrk_frame s p _).raises rfl).trans (State.asrcUnlockEvt_raises _)).trans ((State.asrcPort_frame _ p).raises rfl)

theorem State.sapClass_new {s : State} {p cls : Nat} (hen : sEn (s.sapCfg p) = true) (hcls : cls ≤ 9)
    (hnew : (s.sapOf p).rclass ≠ cls) :
    s.sapClass p cls =
      if p < numTracker s.member then (s.sapClassTold p cls).sapClassTrk p else s.sapClassTold p cls := by
  unfold State.sapClass
  simp only [hen, hcls, hnew, ne_eq, not_false_eq_true, and_self, decide_true, Bool.and_self, if_true]
  rfl

section
variable {s : State} {p : Nat} (hs : Ready s) (hp : p < numSap s.member)
include hs hp

theorem sapRatechg_effect {cls : Nat} (hen : sEn (s.sapCfg p) = true) (hcls : cls ≤ 9) (hnew : (s.sapOf p).rclass ≠ cls) :
    ∃ t, exec (.sapRatechg p cls) s = .next t ∧ (t.sapOf p).rclass = cls ∧ bitAt (t.rcW (sapFlags p)) 1 = true ∧
      t.event 65 = true ∧ OtherSaps p s t ∧ LeavesAllBut [.rc, .count, .sap, .asrc] s t := by
  have hset (v : Sap) := State.setSap_frame s p v
  have htold (v : Sap) := State.flagRaise_others (s.setSap p v) (sapFlags p) 0x2 65
  have hport : ((s.sapClassTold p cls).sapOf p).rclass = cls := by
    rw [State.sapClassTold, (htold _).sapOf rfl, State.setSap_same hs.1]
  have hothers : OtherSaps p s (s.sapClassTold p cls) :=
    (State.setSap_otherSaps hs.1 p _).trans ((htold _).otherSaps rfl)
  have hflag : bitAt ((s.sapClassTold p cls).rcW (sapFlags p)) 1 = true :=
    State.flagRaise_bit ((hset _).stores hs.1) (sapFlags_ne_evtStat p (by decide)) (by decide) (by decide)
  have hevent : (s.sapClassTold p cls).event 65 = true :=
    State.flagRaise_event ((hset _).stores hs.1) _ _ 65 (srcPresent_sap _ (.inr (.inl rfl)))
  have hstores : StoresOk (s.sapClassTold p cls) :=
    (State.flagRaise_follows _ _ _ _ (within (fun _ h => h) rfl) ((hset _).widen (by decide) :
      Follows [.rc, .sap] s (s.setSap p _))).stores hs.1
  have hend : Follows [.rc, .count, .asrc] (s.sapClassTold p cls) (s.sapClass p cls) := by
    rw [State.sapClass_new hen hcls hnew]
    exact .ite (State.sapClassTrk_follows _ p) (.refl _)
  have hraises : Raises (s.sapClassTold p cls) (s.sapClass p cls) := by
    rw [State.sapClass_new hen hcls hnew]
    exact .ite (fun _ => State.sapClassTrk_raises _ p) (fun _ => .refl _)
  obtain ⟨-, hkeeps⟩ := hraises hstores
  exact ⟨_, run_sap hs hp _, by rw [settle_sapOf, hend.others.sapOf rfl, hport], hkeeps _ _ hflag, hkeeps.event hevent,
    hothers.trans (hend.others.otherSaps rfl), (State.sapClass_follows s p cls (fun _ h => h) (.refl s)).others.settled⟩

theorem sapRateUpdate_effect {rate : Nat} (hen : sEn (s.sapCfg p) = true) (hrate : rate < 2 ^ 25) :
    ∃ t, exec (.sapRateUpdate p rate) s = .next t ∧ t.sapOf p = { s.sapOf p with rate := rate } ∧ OtherSaps p s t ∧
      LeavesAllBut [.sap] s t := by
  have hset : s.sapRateSet p rate = s.setSap p { s.sapOf p with rate := rate } := by
    unfold State.sapRateSet State.modSap
    rw [if_pos hen, Nat.mod_eq_of_lt hrate]
  exact ⟨_, run_sap hs hp _, by rw [hset]; exact setSap_effect hs p _⟩

/-- A port that was started and whose clock is back on the house class restarts at the next boundary (R303). -/
theorem sapClockReturn_effect (hslave : s.sapMaster p = false) (hclk : (s.sapOf p).clkOk = false) (hst : (s.sapOf p).st = 5)
    (hstarted : (s.sapOf p).wasStarted = true) (hclass : (s.sapOf p).loss = 3 → (s.sapOf p).rclass = houseClass s.syn.rate) :
    ∃ t, exec (.sapClockReturn p) s = .next t ∧ t.sapOf p = { s.sapOf p with clkOk := true, teamDue := true } ∧
      OtherSaps p s t ∧ LeavesAllBut [.sap] s t := by
  have hset : s.sapClkBack p = s.setSap p { s.sapOf p with clkOk := true, teamDue := true } := by
    unfold State.sapClkBack
    rw [if_neg (by rintro (h | h | ⟨h, hne⟩) <;> simp_all), if_pos hst, if_pos hstarted]
  exact ⟨_, run_sap hs hp _, by rw [hset]; exact setSap_effect hs p _⟩

end

/-- Settles O9: a clock loss reports itself on the port's own words before the port is muted and its channels refill; a new class
is reported before the tracker hears of it, and what follows only sets bits. -/
theorem sapClocksAndRates : Obligations.SapClocksAndRates :=
  ⟨fun _ _ _ hs hp hslave hen hclk hwin hst hcause hctr => sapClkloss_effect hs hp hslave hen hclk hwin hst hcause hctr,
    fun _ _ _ hs hp hen hcls hnew _ => sapRatechg_effect hs hp hen hcls hnew,
    fun _ _ _ hs hp hen hrate => sapRateUpdate_effect hs hp hen hrate,
    fun _ _ hs hp hslave hclk hst hstarted hclass => sapClockReturn_effect hs hp hslave hclk hst hstarted hclass⟩

/-! ### Slips, restarts and stops (R300, R304 to R308) -/

section
variable {s : State} {p : Nat} (hs : Ready s) (hp : p < numSap s.member)
include hs hp

/-- A slip of a running port that stands alone and does not restart by itself is reported, and nothing more (R304). -/
theorem framingError_effect (hst : (s.sapOf p).st = 3) (hwin : (s.sapOf p).window = false) (hgroup : sGroup (s.sapCfg p) = 0)
    (hauto : sAuto (s.sapCfg p) = false) (hctr : s.counter (sapCtr p 0) + 1 < ctrMax) :
    ∃ t, exec (.framingError p) s = .next t ∧ (t.sapOf p).st = 3 ∧ (t.sapOf p).aligned = false ∧ (t.sapOf p).slip = 3 ∧
      (t.sapOf p).window = false ∧ bitAt (t.rcW (sapFlags p)) 2 = true ∧ t.event 66 = true ∧
      t.counter (sapCtr p 0) = s.counter (sapCtr p 0) + 1 ∧ OtherSaps p s t ∧ RcOnly [sapFlags p, evtStat 66] s t ∧
      CountOnly [sapCtr p 0] s t ∧ LeavesAllBut [.rc, .count, .sap] s t := by
  have hslip : s.sapSlip p 3 =
      (((s.setSap p { s.sapOf p with aligned := false, slip := 3, drift := 0 }).flag (sapFlags p) 0x4).bump
        (sapCtr p 0)).raise 66 := by
    unfold State.sapSlip
    simp [hst, hwin, hgroup, hauto]
  have hset := State.setSap_frame s p { s.sapOf p with aligned := false, slip := 3, drift := 0 }
  obtain ⟨hflag, hevent, hcount, hrc, hcounts, htold⟩ := State.flag_bump_raise_spec
    (s := s.setSap p { s.sapOf p with aligned := false, slip := 3, drift := 0 })
    (m := 0x4) (k := 2) (hset.stores hs.1) (c := sapCtr p 0) (by simpa using hctr) (srcPresent_sap _ (n := 66) (.inr (.inr rfl)))
    (sapFlags_ne_evtStat p (by decide)) (by decide) (by decide)
  rw [← hslip] at hflag hevent hcount hrc hcounts htold
  have hport : (s.sapSlip p 3).sapOf p = { s.sapOf p with aligned := false, slip := 3, drift := 0 } := by
    rw [htold.others.sapOf rfl, State.setSap_same hs.1]
  refine ⟨_, run_sap hs hp _, ?_, ?_, ?_, ?_, hflag, hevent, hcount.trans (by simp), ?_, (hset.others.rcOnly rfl).trans hrc,
    fun a ha => (hcounts a ha).trans (by simp), ?_⟩
  · rw [settle_sapOf, hport]; exact hst
  · rw [settle_sapOf, hport]
  · rw [settle_sapOf, hport]
  · rw [settle_sapOf, hport]; exact hwin
  · exact (State.setSap_otherSaps hs.1 p _).trans (htold.others.otherSaps rfl)
  · exact ((hset.others.widen (by decide)).trans (htold.others.widen (by decide))).settled

end

/-- A port at rest is not started. -/
theorem sapBusy_sapIdle (s : State) (p : Nat) : sapBusy (s.sapIdle p) = false := by
  unfold State.sapIdle
  split <;> rfl

/-- A port that resumes, its lanes flushed (R306). -/
def State.sapResumed (s : State) (p : Nat) : Sap :=
  let v := s.sapOf p
  let lock := s.mlock p
  { v with
    st := 3, resumeDue := false, aligned := true, drift := 0, startAt := s.tt.now, starting := !lock
    outDue := if lock then some (s.tt.now, true) else none, winRamp := v.window, inLast := [], inBlk := [], outLast := []
    inRamp := if lock then v.inRamp.toward (0, false) (s.sapRamp p) else v.inRamp }

section
variable {s : State} {p : Nat}

theorem State.sapResumeOne_due (hst : (s.sapOf p).st = 6) (hdue : (s.sapOf p).resumeDue = true) :
    s.sapResumeOne p = s.setSap p (s.sapResumed p) :=
  if_pos ⟨hst, hdue⟩

theorem State.sapResumeOne_other (hst : (s.sapOf p).st ≠ 6) : s.sapResumeOne p = s :=
  if_neg fun h => hst h.1

/-- A port outside every group resumes once, though its team names it too (R306, R307). -/
theorem State.sapResume_alone (hs : StoresOk s) (hst : (s.sapOf p).st = 6) (hdue : (s.sapOf p).resumeDue = true)
    (hgroup : sGroup (s.sapCfg p) = 0) : s.sapResume p = s.setSap p (s.sapResumed p) := by
  have hteam : s.sapTeam p = [p] := if_pos hgroup
  unfold State.sapResume
  rw [hteam, List.foldl_cons, List.foldl_cons, List.foldl_nil, State.sapResumeOne_due hst hdue,
    State.sapResumeOne_other (by rw [State.setSap_same hs]; exact (by decide : (3 : Nat) ≠ 6))]

variable (hs : Ready s) (hp : p < numSap s.member)
include hs hp

theorem sapResume_effect (hst : (s.sapOf p).st = 6) (hdue : (s.sapOf p).resumeDue = true) (hgroup : sGroup (s.sapCfg p) = 0) :
    ∃ t, exec (.sapResume p) s = .next t ∧ (t.sapOf p).st = 3 ∧ (t.sapOf p).aligned = true ∧ (t.sapOf p).startAt = s.tt.now ∧
      (t.sapOf p).winRamp = (s.sapOf p).window ∧ OtherSaps p s t ∧ LeavesAllBut [.sap] s t := by
  obtain ⟨hport, hframe⟩ := setSap_effect hs p (s.sapResumed p)
  rw [← State.sapResume_alone hs.1 hst hdue hgroup] at hport hframe
  exact ⟨_, run_sap hs hp _, by rw [hport]; rfl, by rw [hport]; rfl, by rw [hport]; rfl, by rw [hport]; rfl, hframe⟩

/-- A halted port is idle and not started, unless its clock is lost; its sink is muted and its channels refill (R300). -/
theorem sapStopEnd_effect (hst : (s.sapOf p).st = 4) (hin : (s.sapOf p).inRamp.atRest = true) (hdue : (s.sapOf p).outDue = none)
    (hout : (s.sapOf p).outDone = true) :
    ∃ t, exec (.sapStopEnd p) s = .next t ∧ (t.sapOf p).st = s.sapIdle p ∧ (t.sapOf p).started = false ∧ OtherSaps p s t ∧
      LeavesAllBut [.mix, .sap, .asrc] s t := by
  have hhalt : s.sapStopEnd p = s.sapHalt p := if_pos ⟨hst, hin, by rw [hdue]; rfl, hout⟩
  refine ⟨_, run_sap hs hp _, ?_, ?_, ?_, (State.sapStopEnd_follows s p (fun _ h => h) (.refl s)).others.settled⟩
  · rw [hhalt]
    simp [State.sapHalt, State.setSap_same hs.1, hst]
  · rw [hhalt]
    simp [State.sapHalt, State.setSap_same hs.1, hst, Sap.started, sapBusy_sapIdle]
  · intro k hk
    rw [hhalt]
    simp [State.sapHalt, State.setSap_otherSaps hs.1 p _ k hk]

theorem sapRampUpEnd_effect (hwin : (s.sapOf p).window = true) (hramp : (s.sapOf p).winRamp = true) (hst : (s.sapOf p).st = 3)
    (hstarting : (s.sapOf p).starting = false) (hrest : (s.sapOf p).inRamp.atRest = true) :
    ∃ t, exec (.sapRampUpEnd p) s = .next t ∧ t.sapOf p = { s.sapOf p with window := false, winRamp := false } ∧
      OtherSaps p s t ∧ LeavesAllBut [.sap] s t := by
  have hset : s.sapRampEnd p = s.setSap p { s.sapOf p with window := false, winRamp := false } :=
    if_pos ⟨hwin, hramp, hst, by rw [hstarting]; rfl, hrest⟩
  exact ⟨_, run_sap hs hp _, by rw [hset]; exact setSap_effect hs p _⟩

end

/-- Settles O10: each command takes one branch of its operation, and a port that stands alone is its own team. -/
theorem sapSlipAndRecovery : Obligations.SapSlipAndRecovery :=
  ⟨fun _ _ hs hp hst hwin hgroup hauto hctr => framingError_effect hs hp hst hwin hgroup hauto hctr,
    fun _ _ hs hp hst hdue hgroup => sapResume_effect hs hp hst hdue hgroup,
    fun _ _ hs hp hst hin hdue hout => sapStopEnd_effect hs hp hst hin hdue hout,
    fun _ _ hs hp hwin hramp hst hstarting hrest => sapRampUpEnd_effect hs hp hwin hramp hst hstarting hrest⟩

/-! ### Rate trackers and converter channels (R313, R314) -/

/-- Every other rate tracker is as it was. -/
def OtherTrks (p : Nat) (s t : State) : Prop := ∀ k, k ≠ p → t.trkOf k = s.trkOf k

section
variable {s : State} {p : Nat}

theorem run_trk (hs : Ready s) (hp : p < numTracker s.member) (t : State) : run s (s.onTrk p t) = .next (settle t) :=
  (run_ready hs _).trans (by rw [State.onTrk, if_pos hp])

theorem State.setTrk_same (hs : StoresOk s) (p : Nat) (v : Tracker) : (s.setTrk p v).trkOf p = v := by
  rw [State.setTrk_trkOf hs, if_pos rfl]

theorem State.setTrk_otherTrks (hs : StoresOk s) (p : Nat) (v : Tracker) : OtherTrks p s (s.setTrk p v) :=
  fun k hk => by rw [State.setTrk_trkOf hs, if_neg hk]

theorem srcPresent_asrc {m : Member} (h : 0 < numAsrc m) {n : Nat} (hn : n = 69 ∨ n = 70) : srcPresent m n = true := by
  obtain rfl | rfl := hn <;> exact decide_eq_true h

variable (hs : Ready s) (hp : p < numTracker s.member)
include hs hp

theorem trackerLock_effect {ratio : Nat} (hst : (s.trkOf p).st = 1 ∨ (s.trkOf p).st = 3) (hvalid : s.trkValid p ratio = true) :
    ∃ t, exec (.trackerLock p ratio) s = .next t ∧ (t.trkOf p).st = 2 ∧ (t.trkOf p).ratio = ratio ∧ OtherTrks p s t ∧
      LeavesAllBut [.asrc] s t := by
  have hlock : s.trkLock p ratio = (s.setTrk p { st := 2, ratio := ratio }).asrcPort p := if_pos ⟨hst, hvalid⟩
  have hport : (s.trkLock p ratio).trkOf p = { st := 2, ratio := ratio } := by
    rw [hlock, State.asrcPort_trkOf, State.setTrk_same hs.1]
  refine ⟨_, run_trk hs hp _, by rw [settle_trkOf, hport], by rw [settle_trkOf, hport], fun k hk => ?_,
    (State.trkLock_follows s p ratio (fun _ h => h) (.refl s)).others.settled⟩
  rw [settle_trkOf, hlock, State.asrcPort_trkOf, State.setTrk_otherTrks hs.1 p _ k hk]

theorem asrcUnlock_effect (hasrc : 0 < numAsrc s.member) (hst : (s.trkOf p).st = 2) (hctr : s.counter 0x74A08 + 1 < ctrMax) :
    ∃ t, exec (.asrcUnlock p) s = .next t ∧ (t.trkOf p).st = 1 ∧ (t.trkOf p).ratio = (s.trkOf p).ratio ∧
      bitAt (t.rcW 0x74004) 2 = true ∧ t.event 69 = true ∧ t.counter 0x74A08 = s.counter 0x74A08 + 1 ∧ OtherTrks p s t ∧
      RcOnly [0x74004, evtStat 69] s t ∧ CountOnly [0x74A08] s t ∧ LeavesAllBut [.rc, .count, .asrc] s t := by
  have hunlock : s.trkUnlock p = ((s.setTrk p { s.trkOf p with st := 1 }).asrcUnlockEvt).asrcPort p := if_pos hst
  have hset := State.setTrk_frame s p { s.trkOf p with st := 1 }
  have htold := State.bump_flagRaise_spec (s := s.setTrk p { s.trkOf p with st := 1 }) (m := 0x4) (k := 2) (hset.stores hs.1)
    (c := 0x74A08) (f := 0x74004) (n := 69) (by simpa using hctr) (srcPresent_asrc hasrc (.inl rfl)) (by decide) (by decide)
    (by decide)
  obtain ⟨hflag, hevent, hcount, hrc, hcounts, hframe⟩ := htold
  have hend := State.asrcPort_frame ((s.setTrk p { s.trkOf p with st := 1 }).asrcUnlockEvt) p
  have htrk (k : Nat) : ((s.setTrk p { s.trkOf p with st := 1 }).asrcUnlockEvt).trkOf k =
      (s.setTrk p { s.trkOf p with st := 1 }).trkOf k := hframe.others.trkOf rfl k
  have hport : (s.trkUnlock p).trkOf p = { s.trkOf p with st := 1 } := by
    rw [hunlock, State.asrcPort_trkOf, htrk, State.setTrk_same hs.1]
  rw [← hunlock] at hend
  refine ⟨_, run_trk hs hp _, by rw [settle_trkOf, hport], by rw [settle_trkOf, hport], ?_, ?_, ?_, ?_, ?_, ?_,
    (State.trkUnlock_follows s p (fun _ h => h) (.refl s)).others.settled⟩
  · rw [settle_rcW, hend.others.rcW rfl]; exact hflag
  · rw [settle_event, hend.others.event rfl]; exact hevent
  · rw [settle_counter, hend.others.counter rfl]; exact hcount.trans (by simp)
  · intro k hk
    rw [settle_trkOf, hunlock, State.asrcPort_trkOf, htrk, State.setTrk_otherTrks hs.1 p _ k hk]
  · exact ((hset.others.rcOnly rfl).trans hrc).trans (hend.others.rcOnly rfl)
  · intro a ha
    rw [settle_counter, hend.others.counter rfl]
    exact (hcounts a ha).trans (by simp)

theorem asrcRange_effect (hasrc : 0 < numAsrc s.member) (hst : (s.trkOf p).st = 1 ∨ (s.trkOf p).st = 2) :
    ∃ t, exec (.asrcRange p) s = .next t ∧ (t.trkOf p).st = 3 ∧ bitAt (t.rcW 0x74004) 1 = true ∧ t.event 70 = true ∧
      OtherTrks p s t ∧ RcOnly [0x74004, evtStat 70] s t ∧ LeavesAllBut [.rc, .asrc] s t := by
  have hrange : s.trkRange p = ((s.setTrk p { s.trkOf p with st := 3 }).flagRaise 0x74004 0x2 70).asrcPort p := if_pos hst
  have hset := State.setTrk_frame s p { s.trkOf p with st := 3 }
  have htrk (k : Nat) : (s.trkRange p).trkOf k = (s.setTrk p { s.trkOf p with st := 3 }).trkOf k := by
    rw [hrange, State.asrcPort_trkOf, State.flagRaise_trkOf]
  refine ⟨_, run_trk hs hp _, ?_, ?_, ?_, ?_, ?_, (State.trkRange_follows s p (fun _ h => h) (.refl s)).others.settled⟩
  · rw [settle_trkOf, htrk, State.setTrk_same hs.1]
  · rw [settle_rcW, hrange, State.asrcPort_rcW]
    exact State.flagRaise_bit (hset.stores hs.1) (by decide) (by decide) (by decide)
  · rw [settle_event, hrange, State.asrcPort_event]
    exact State.flagRaise_event (hset.stores hs.1) _ _ _ (srcPresent_asrc hasrc (.inr rfl))
  · intro k hk
    rw [settle_trkOf, htrk, State.setTrk_otherTrks hs.1 p _ k hk]
  · rw [hrange]
    exact ((hset.others.rcOnly rfl).flagRaise (by simp) (by simp)).trans ((State.asrcPort_frame _ p).others.rcOnly rfl)

end

theorem asrcFadeIn_effect {s : State} {n : Nat} (hs : Ready s) (hadm : (s.chOf n).admitted = true) (hst : (s.chOf n).st = 1)
    (htrk : (s.trkOf (aPort (s.chOf n).cfg)).st = 2) (hawake : s.asleep n = false) :
    ∃ t, exec (.asrcFadeIn n) s = .next t ∧ t.chOf n = { s.chOf n with st := 2 } ∧ (∀ k, k ≠ n → t.chOf k = s.chOf k) ∧
      (∀ k, t.trkOf k = s.trkOf k) ∧ LeavesAllBut [.asrc] s t := by
  have hset : s.asrcFadeIn n = s.setCh n { s.chOf n with st := 2 } := if_pos ⟨hadm, hst, htrk, by rw [hawake]; rfl⟩
  refine ⟨_, run_ready hs _, ?_, fun k hk => ?_, fun k => ?_,
    (State.asrcFadeIn_follows s n (fun _ h => h) (.refl s)).others.settled⟩
  · rw [settle_chOf, hset, State.setCh_chOf hs.1, if_pos rfl]
  · rw [settle_chOf, hset, State.setCh_chOf hs.1, if_neg hk]
  · rw [settle_trkOf, hset, State.setCh_trkOf]

/-- Settles O11: a tracker's new state is written before its port's channels refill, and refilling touches no tracker. -/
theorem rateTrackerStates : Obligations.RateTrackerStates :=
  ⟨fun _ _ _ hs hp hst hvalid => trackerLock_effect hs hp hst hvalid,
    fun _ _ hs hp hasrc hst hctr => asrcUnlock_effect hs hp hasrc hst hctr,
    fun _ _ hs hp hasrc hst => asrcRange_effect hs hp hasrc hst,
    fun _ _ hs hadm hst htrk hawake => asrcFadeIn_effect hs hadm hst htrk hawake⟩

end Sys2Proof.Machine

/-! SUPPORT. Bank copies of the mix fabric and of the engines, and crossfades that begin late or end (R248, R250, R264, R285). -/

namespace Sys2Proof.Machine

/-! ### Bank copies (R264, R285) -/

section
variable {s : State} {o e : Nat}

/-- A word of an owner in a mode-1 region: what a bank copy concerns. -/
def State.copied (s : State) (o a : Nat) : Bool := decide (ownerOf a = some o) && s.inMode1 a

theorem State.copied_iff {a : Nat} : s.copied o a = true ↔ ownerOf a = some o ∧ s.inMode1 a = true := by
  simp [State.copied]

/-- A whole copy takes each inactive word of the owner's mode-1 regions from the active bank, and no other word. -/
theorem State.copyBanks_bankW (hs : StoresOk s) (o : Nat) (b : Bool) (a : Nat) :
    (s.copyBanks o (fun _ => true)).bankW b a = if s.copied o a then s.bankW (s.activeB a) a else s.bankW b a := by
  obtain ⟨⟨-, -, -, -, -, hA, hB, -⟩, -⟩ := hs
  unfold State.copyBanks State.bankW State.copied
  cases b <;> cases hact : s.activeB a <;>
    simp [sget_replaceWhere hA hB, sget_replaceWhere hB hA, hact]

theorem State.bankCtl_mix (s : State) : (s.bankCtl bMIX).copying = s.mix.copying := rfl

theorem bENG_ne_bMIX (e : Nat) : bENG e ≠ bMIX := by
  unfold bENG bMIX
  omega

theorem State.bankCtl_eng (s : State) (e : Nat) : (s.bankCtl (bENG e)).copying = (s.engOf e).copying := by
  unfold State.bankCtl
  rw [if_neg (bENG_ne_bMIX e), Nat.add_sub_cancel_left]

theorem State.setCopying_mix (s : State) (b : Bool) : s.setCopying bMIX b = { s with mix := { s.mix with copying := b } } := rfl

theorem State.setCopying_eng (s : State) (e : Nat) (b : Bool) :
    s.setCopying (bENG e) b = s.setEng e { s.engOf e with copying := b } := by
  unfold State.setCopying State.setBankCtl State.bankCtl State.modEng
  rw [if_neg (bENG_ne_bMIX e), if_neg (bENG_ne_bMIX e), Nat.add_sub_cancel_left]

/-- With no write held, none is released. -/
theorem State.releaseHeld_none (h : s.reg.held = []) (o : Nat) : s.releaseHeld o = s := by
  unfold State.releaseHeld
  rw [h]
  show { s with reg := { s.reg with held := [] } } = s
  rw [← h]

/-- The end of a copy that held no write. -/
theorem State.copyEnd_unheld (hc : (s.bankCtl o).copying = true) (hh : s.reg.held = []) :
    s.copyEnd o = (s.copyBanks o (fun _ => true)).setCopying o false := by
  have hheld : ((s.copyBanks o (fun _ => true)).setCopying o false).reg.held = [] := by
    unfold State.setCopying State.setBankCtl
    split <;> exact hh
  rw [State.copyEnd, if_pos hc, State.releaseHeld_none hheld]

theorem State.setCopying_bankW (s : State) (o : Nat) (c b : Bool) (a : Nat) : (s.setCopying o c).bankW b a = s.bankW b a := by
  unfold State.setCopying State.setBankCtl
  split <;> rfl

/-- The banks after a copy that held no write. -/
theorem State.copyEnd_bankW (hs : StoresOk s) (hc : (s.bankCtl o).copying = true) (hh : s.reg.held = []) (b : Bool) (a : Nat) :
    (s.copyEnd o).bankW b a = if s.copied o a then s.bankW (s.activeB a) a else s.bankW b a := by
  rw [State.copyEnd_unheld hc hh, State.setCopying_bankW, State.copyBanks_bankW hs]

theorem State.copyEnd_alike (hs : StoresOk s) (hc : (s.bankCtl o).copying = true) (hh : s.reg.held = []) (a : Nat)
    (ha : ownerOf a = some o) (h1 : s.inMode1 a = true) :
    (s.copyEnd o).bankW true a = s.bankW (s.activeB a) a ∧ (s.copyEnd o).bankW false a = s.bankW (s.activeB a) a := by
  have hcopied : s.copied o a = true := State.copied_iff.mpr ⟨ha, h1⟩
  exact ⟨by rw [State.copyEnd_bankW hs hc hh, if_pos hcopied], by rw [State.copyEnd_bankW hs hc hh, if_pos hcopied]⟩

theorem State.copyEnd_otherWords (hs : StoresOk s) (hc : (s.bankCtl o).copying = true) (hh : s.reg.held = []) (b : Bool) (a : Nat)
    (ha : ownerOf a ≠ some o ∨ s.inMode1 a = false) : (s.copyEnd o).bankW b a = s.bankW b a := by
  rw [State.copyEnd_bankW hs hc hh, if_neg]
  rw [State.copied_iff]
  rintro ⟨ho, h1⟩
  obtain ha | ha := ha
  · exact ha ho
  · rw [ha] at h1
    cases h1

/-- COPY on a unit that drives or stands alone: the copy starts and the partner hears of it (R264, R358). -/
theorem State.bankCommand_copy (hsh : s.shadowed = false) (hc : (s.bankCtl o).copying = false) (c : Nat) :
    s.bankCommand o false true c = (s.setCopying o true).recordCopy o := by
  unfold State.bankCommand State.copyGo
  simp [hsh, hc]

theorem State.recordCopy_frame (s : State) (o : Nat) : Follows [.pair] s (s.recordCopy o) :=
  State.recordCopy_follows s o (fun _ h => h) (.refl s)

variable (hs : Ready s)
include hs

theorem mixCopy_starts (q : Req) (hsh : s.shadowed = false) (hc : s.mix.copying = false) :
    ∃ t, exec (.mixCopy q) s = .next t ∧ t.mix = { s.mix with copying := true } ∧ LeavesAllBut [.mix, .pair] s t := by
  have hctl : s.ctl q 0x50000 1 = (s.setCopying bMIX true).recordCopy bMIX := by
    rw [State.ctl_mix]
    exact State.bankCommand_copy hsh (s.bankCtl_mix.trans hc) _
  have hset : Follows [.mix, .pair] s (s.setCopying bMIX true) :=
    ⟨rfl, rfl, List.prefix_rfl, le_rfl, id, fun q hq => by cases q <;> first | rfl | exact absurd (List.elem_iff.mp rfl) hq⟩
  have hrec := (s.setCopying bMIX true).recordCopy_frame bMIX
  rw [← hctl] at hrec
  refine ⟨_, run_ready hs _, ?_, (hset.others.trans (hrec.others.widen (by decide))).settled⟩
  rw [settle_mix, hrec.others.keeps .mix rfl, State.setCopying_mix]

theorem mixCopyEnd_ends (hc : s.mix.copying = true) (hh : s.reg.held = []) :
    ∃ t, exec .mixCopyEnd s = .next t ∧ t.mix = { s.mix with copying := false } ∧
      (∀ a, ownerOf a = some bMIX → s.inMode1 a = true →
        t.bankW true a = s.bankW (s.activeB a) a ∧ t.bankW false a = s.bankW (s.activeB a) a) ∧
      (∀ (b : Bool), ∀ a, ownerOf a ≠ some bMIX ∨ s.inMode1 a = false → t.bankW b a = s.bankW b a) ∧
      LeavesAllBut [.mix, .bank] s t := by
  have hctl : (s.bankCtl bMIX).copying = true := hc
  have hcopy : Follows [.mix, .bank] s (s.copyBanks bMIX (fun _ => true)) :=
    State.copyBanks_follows s _ _ (within (fun _ h => h) rfl) (.refl s)
  have hset : LeavesAllBut [.mix, .bank] (s.copyBanks bMIX (fun _ => true)) (s.copyEnd bMIX) := by
    rw [State.copyEnd_unheld hctl hh, State.setCopying_mix]
    exact fun q hq => by cases q <;> first | rfl | exact absurd (List.elem_iff.mp rfl) hq
  refine ⟨_, run_ready hs _, ?_, State.copyEnd_alike hs.1 hctl hh, State.copyEnd_otherWords hs.1 hctl hh,
    (hcopy.others.trans hset).settled⟩
  rw [settle_mix, State.copyEnd_unheld hctl hh]
  rfl

theorem engCopy_starts (q : Req) (hsh : s.shadowed = false) (he : e < numEng s.member) (hc : (s.engOf e).copying = false) :
    ∃ t, exec (.engCopy e q) s = .next t ∧ t.engOf e = { s.engOf e with copying := true } ∧ OtherEngines e s t ∧
      LeavesAllBut [.eng, .pair] s t := by
  have hctl : s.ctl q (engBase e + 4) 8 = (s.setEng e { s.engOf e with copying := true }).recordCopy (bENG e) := by
    rw [State.ctl_eng s q e 8 he, ← State.setCopying_eng]
    exact State.bankCommand_copy hsh ((s.bankCtl_eng e).trans hc) _
  have hset := State.setEng_frame s e { s.engOf e with copying := true }
  have hrec := (s.setEng e { s.engOf e with copying := true }).recordCopy_frame (bENG e)
  rw [← hctl] at hrec
  refine ⟨_, run_engIndex hs he _, ?_, fun k hk => ?_,
    ((hset.others.widen (by decide)).trans (hrec.others.widen (by decide))).settled⟩
  · rw [settle_engOf, hrec.others.engOf rfl, State.setEng_same hs.1]
  · rw [settle_engOf, hrec.others.engOf rfl, State.setEng_otherEngines hs.1 e _ k hk]

theorem engCopyEnd_ends (he : e < numEng s.member) (hc : (s.engOf e).copying = true) (hh : s.reg.held = []) :
    ∃ t, exec (.engCopyEnd e) s = .next t ∧ t.engOf e = { s.engOf e with copying := false } ∧ OtherEngines e s t ∧
      (∀ a, ownerOf a = some (bENG e) → s.inMode1 a = true →
        t.bankW true a = s.bankW (s.activeB a) a ∧ t.bankW false a = s.bankW (s.activeB a) a) ∧
      (∀ (b : Bool), ∀ a, ownerOf a ≠ some (bENG e) ∨ s.inMode1 a = false → t.bankW b a = s.bankW b a) ∧
      LeavesAllBut [.eng, .bank] s t := by
  have hctl : (s.bankCtl (bENG e)).copying = true := (s.bankCtl_eng e).trans hc
  have hcopy : Follows [.bank] s (s.copyBanks (bENG e) (fun _ => true)) :=
    State.copyBanks_follows s _ _ (fun _ h => h) (.refl s)
  have hend : s.copyEnd (bENG e) = (s.copyBanks (bENG e) (fun _ => true)).setEng e { s.engOf e with copying := false } := by
    rw [State.copyEnd_unheld hctl hh, State.setCopying_eng, hcopy.others.engOf rfl]
  have hset := State.setEng_frame (s.copyBanks (bENG e) (fun _ => true)) e { s.engOf e with copying := false }
  have hstores := hcopy.stores hs.1
  refine ⟨_, run_eng hs he _, ?_, fun k hk => ?_, State.copyEnd_alike hs.1 hctl hh, State.copyEnd_otherWords hs.1 hctl hh, ?_⟩
  · rw [settle_engOf, hend, State.setEng_same hstores]
  · rw [settle_engOf, hend, State.setEng_otherEngines hstores e _ k hk, hcopy.others.engOf rfl]
  · rw [hend]
    exact ((hcopy.others.widen (by decide)).trans (hset.others.widen (by decide))).settled

end

/-- Settles O50: COPY sets the owner's mark, and its end merges each active bank into the other before the mark is taken away. -/
theorem bankCopies : Obligations.BankCopies := fun _ q hs hsh =>
  ⟨mixCopy_starts hs q hsh, mixCopyEnd_ends hs, fun _ he => ⟨engCopy_starts hs q hsh he, engCopyEnd_ends hs he⟩⟩

/-! ### Crossfades (R248, R250) -/

section
variable {s : State} {j : Nat}

theorem State.setJunc_same (hs : StoresOk s) (j : Nat) (v : Junction) : (s.setJunc j v).juncOf j = v := by
  rw [State.setJunc_juncOf hs, if_pos rfl]

theorem State.setJunc_otherJunctions (hs : StoresOk s) (j : Nat) (v : Junction) : OtherJunctions j s (s.setJunc j v) :=
  fun k hk => by rw [State.setJunc_juncOf hs, if_neg hk]

/-- A waiting change begins as a crossfade where a length is in force (R247). -/
theorem Junction.begin_fades {v : Junction} {p len : Nat} (hp : v.pend = some p) (hlen : len ≠ 0) :
    v.begin len = { v with fade := some { old := v.cur, new := p, len := len, pos := 0 }, pend := none } := by
  unfold Junction.begin
  rw [hp]
  exact if_neg hlen

/-- A crossfade that ends with nothing waiting leaves the junction on its new source (R248). -/
theorem Junction.fadeEnd_rests {v : Junction} {f : Xfade} (hf : v.fade = some f) (hp : v.pend = none) (len : Nat) :
    v.fadeEnd len = { cur := f.new, fade := none, pend := none } := by
  unfold Junction.fadeEnd Junction.begin
  rw [hf, hp]

/-- A junction whose crossfade was deferred begins it where a slot is free, and is deferred no more (R250). -/
theorem State.deferredStart_begins (hs : StoresOk s) {p : Nat} (hd : s.mix.deferred.contains j = true)
    (hp : (s.juncOf j).pend = some p) (hlen : s.xlenOf j ≠ 0)
    (hroom : isBusSink j = true → s.busFades < xfMax s.member s.syn.rate) :
    s.deferredStart j =
      let t := s.setJunc j { s.juncOf j with
        fade := some { old := (s.juncOf j).cur, new := p, len := s.xlenOf j, pos := 0 }, pend := none }
      { t with mix := { t.mix with deferred := t.mix.deferred.filter (fun k => k ≠ j) } } := by
  have hfree : ¬ (isBusSink j && decide (xfMax s.member s.syn.rate ≤ s.busFades)) = true := by
    intro h
    obtain ⟨hbus, hfull⟩ := Bool.and_eq_true_iff.mp h
    exact absurd (of_decide_eq_true hfull) (Nat.not_le.mpr (hroom hbus))
  unfold State.deferredStart
  rw [if_pos hd, State.beginOne, if_neg hfree, Junction.begin_fades hp hlen]
  dsimp only
  rw [State.setJunc_same hs]
  rfl

variable (hs : Ready s)
include hs

theorem deferredCrossfadeStart_begins {p : Nat} (hd : s.mix.deferred.contains j = true) (hp : (s.juncOf j).pend = some p)
    (hlen : s.xlenOf j ≠ 0) (hroom : isBusSink j = true → s.busFades < xfMax s.member s.syn.rate) :
    ∃ t, exec (.deferredCrossfadeStart j) s = .next t ∧ t.juncOf j = { s.juncOf j with
        fade := some { old := (s.juncOf j).cur, new := p, len := s.xlenOf j, pos := 0 }, pend := none } ∧
      t.mix.deferred = s.mix.deferred.filter (fun k => k ≠ j) ∧ OtherJunctions j s t ∧ LeavesAllBut [.mix] s t := by
  have hstart := State.deferredStart_begins hs.1 hd hp hlen hroom
  refine ⟨settle (s.deferredStart j), run_ready hs _, ?_, ?_, ?_,
    (State.deferredStart_follows s j (fun _ h => h) (.refl s)).others.settled⟩
  · rw [settle_juncOf, hstart]
    exact State.setJunc_same hs.1 j _
  · rw [settle_mix, hstart]
    rfl
  · intro k hk
    rw [settle_juncOf, hstart]
    exact State.setJunc_otherJunctions hs.1 j _ k hk

theorem crossfadeEnd_rests {f : Xfade} (hf : (s.juncOf j).fade = some f) (hlast : f.len ≤ f.pos + 1)
    (hp : (s.juncOf j).pend = none) :
    ∃ t, exec (.crossfadeEnd j) s = .next t ∧ t.juncOf j = { cur := f.new, fade := none, pend := none } ∧
      OtherJunctions j s t ∧ LeavesAllBut [.mix] s t := by
  have hend : s.fadeEndAt j = s.setJunc j { cur := f.new, fade := none, pend := none } := by
    unfold State.fadeEndAt
    rw [hf, ← Junction.fadeEnd_rests hf hp (s.xlenOf j)]
    exact if_pos hlast
  refine ⟨settle (s.fadeEndAt j), run_ready hs _, ?_⟩
  rw [hend]
  exact ⟨State.setJunc_same hs.1 j _, State.setJunc_otherJunctions hs.1 j _, (State.setJunc_frame s j _).others.settled⟩

end

/-- Settles O52: both commands write one junction: a crossfade from its source to the one that waits, or its new source. -/
theorem crossfadesBeginAndEnd : Obligations.CrossfadesBeginAndEnd := fun _ _ hs =>
  ⟨fun _ hd hp hlen hroom => deferredCrossfadeStart_begins hs hd hp hlen hroom,
    fun _ hf hlast hp => crossfadeEnd_rests hs hf hlast hp⟩

end Sys2Proof.Machine

/-! SUPPORT. The power stage: one channel written, a fault of a channel, the commands of its sequence, what takes a channel to
FAULT or hard stop, and its limits (R326 to R345). -/

namespace Sys2Proof.Machine

/-! ### One power channel written -/

section
variable {s t u : State} {c : Nat}

theorem run_ch (hs : Ready s) (hp : hasPower s.member = true) (hc : c < 2) (t : State) :
    run s (s.onCh c t) = .next (settle t) :=
  (run_ready hs _).trans (by rw [State.onCh, if_pos (by simp [hp, hc])])

theorem run_power (hs : Ready s) (hp : hasPower s.member = true) (t : State) : run s (s.onPower t) = .next (settle t) :=
  (run_ready hs _).trans (by rw [State.onPower, if_pos hp])

@[simp] theorem settle_pwrCh (s : State) (c : Nat) : (settle s).pwrCh c = s.pwrCh c := rfl

theorem LeavesAllBut.pwrCh {l : List Part} (h : LeavesAllBut l s t) (hl : l.elem .pwr = false) (c : Nat) :
    t.pwrCh c = s.pwrCh c := by
  have hpwr : t.pwr = s.pwr := h.keeps .pwr hl
  rw [State.pwrCh, hpwr]
  rfl

theorem LeavesAllBut.otherChannel {l : List Part} (h : LeavesAllBut l s t) (hl : l.elem .pwr = false) : OtherChannel c s t :=
  fun k _ _ => h.pwrCh hl k

theorem OtherChannel.trans (h : OtherChannel c s t) (k : OtherChannel c t u) : OtherChannel c s u :=
  fun j hj hne => (k j hj hne).trans (h j hj hne)

@[simp] theorem State.setPwrCh_same (s : State) (c : Nat) (v : PwrCh) : (s.setPwrCh c v).pwrCh c = v := by
  unfold State.setPwrCh State.pwrCh
  split <;> simp [*]

theorem State.setPwrCh_other (s : State) (hc : c < 2) (v : PwrCh) : OtherChannel c s (s.setPwrCh c v) := by
  intro k hk hne
  unfold State.setPwrCh State.pwrCh
  by_cases h0 : c = 0
  · rw [if_pos h0, if_neg (by omega), if_neg (by omega)]
  · rw [if_neg h0, if_pos (by omega), if_pos (by omega)]

theorem State.setPwrCh_frame (s : State) (c : Nat) (v : PwrCh) : Follows [.pwr] s (s.setPwrCh c v) :=
  State.setPwrCh_follows s c v (fun _ h => h) (.refl s)

/-- What a channel holds, written twice. -/
theorem State.setPwrCh_twice (s : State) (c : Nat) (v w : PwrCh) : (s.setPwrCh c v).setPwrCh c w = s.setPwrCh c w := by
  unfold State.setPwrCh
  split <;> simp [*]

theorem State.setPwrCh_pwr (s : State) (c : Nat) (v : PwrCh) :
    (s.setPwrCh c v).pwr.pvdd = s.pwr.pvdd ∧ (s.setPwrCh c v).pwr.link = s.pwr.link ∧
      (s.setPwrCh c v).pwr.linkHstop = s.pwr.linkHstop ∧ (s.setPwrCh c v).pwr.badWords = s.pwr.badWords ∧
      (s.setPwrCh c v).pwr.pbtl = s.pwr.pbtl := by
  unfold State.setPwrCh
  split <;> exact ⟨rfl, rfl, rfl, rfl, rfl⟩

/-- A command whose one effect is what a channel holds. -/
theorem setPwrCh_completes {o : Host.Outcome State Fault Refusal} (hc : c < 2) {v : PwrCh}
    (ho : o = .next (settle (s.setPwrCh c v))) :
    ∃ t, o = .next t ∧ t.pwrCh c = v ∧ OtherChannel c s t ∧ LeavesAllBut [.pwr] s t :=
  ⟨_, ho, State.setPwrCh_same s c v, State.setPwrCh_other s hc v, (s.setPwrCh_frame c v).others.settled⟩

end

/-! ### PWR_WCTL (R327, R328, R332) -/

/-- Each channel keeps the three bits of PWR_WCTL that are its own. -/
theorem State.pwrCtl_pwrCh (s : State) (w : Word) {k : Nat} (hk : k < 2) :
    (s.pwrCtl w).pwrCh k = { s.pwrCh k with
      reqArm := (s.pwrCh k).reqArm || bitAt w k
      reqStop := (s.pwrCh k).reqStop || bitAt w (2 + k)
      reqRetry := (s.pwrCh k).reqRetry || bitAt w (4 + k) } := by
  obtain rfl | rfl : k = 0 ∨ k = 1 := by omega
  · rfl
  · rfl

theorem bitAt_pwrWctl : ∀ n < 6, ∀ k < 6, bitAt (toWord (2 ^ n) &&& 0x3F) k = decide (k = n) := by decide

/-- A write of one bit of PWR_WCTL. -/
theorem pwrWctl_effect {s : State} {c n : Nat} (hs : Ready s) (hp : hasPower s.member = true) (hc : c < 2) (q : Req) (hn : n < 6) :
    ∃ t, run s (s.onIndex c 2 (s.ctl q 0x80000 (2 ^ n))) = .next t ∧ LeavesAllBut [.pwr] s t ∧
      ∀ k < 2, t.pwrCh k = { s.pwrCh k with
        reqArm := (s.pwrCh k).reqArm || decide (k = n)
        reqStop := (s.pwrCh k).reqStop || decide (2 + k = n)
        reqRetry := (s.pwrCh k).reqRetry || decide (4 + k = n) } := by
  refine ⟨_, (run_ready hs _).trans (by rw [State.onIndex, if_pos hc, State.ctl_pwr s q _ hp]),
    (State.pwrCtl_follows s _ (fun _ h => h) (.refl s)).others.settled, fun k hk => ?_⟩
  rw [settle_pwrCh, State.pwrCtl_pwrCh s _ hk, bitAt_pwrWctl n hn k (by omega), bitAt_pwrWctl n hn (2 + k) (by omega),
    bitAt_pwrWctl n hn (4 + k) (by omega)]

section
variable {s : State} {c : Nat} (hs : Ready s) (hp : hasPower s.member = true) (hc : c < 2)
include hs hp hc

theorem pwrWctlArm_effect (q : Req) :
    ∃ t, exec (.pwrWctlArm c q) s = .next t ∧ t.pwrCh c = { s.pwrCh c with reqArm := true } ∧ OtherChannel c s t ∧
      LeavesAllBut [.pwr] s t := by
  obtain ⟨t, ht, hframe, hch⟩ := pwrWctl_effect hs hp hc q (n := c) (by omega)
  refine ⟨t, ht, ?_, fun k hk hne => ?_, hframe⟩
  · rw [hch c hc]
    simp
  · rw [hch k hk]
    simp [hne, show 2 + k ≠ c by omega, show 4 + k ≠ c by omega]

theorem pwrWctlStop_effect (q : Req) :
    ∃ t, exec (.pwrWctlStop c q) s = .next t ∧ t.pwrCh c = { s.pwrCh c with reqStop := true } ∧ OtherChannel c s t ∧
      LeavesAllBut [.pwr] s t := by
  obtain ⟨t, ht, hframe, hch⟩ := pwrWctl_effect hs hp hc q (n := 2 + c) (by omega)
  refine ⟨t, by rw [← ht, pow_add]; rfl, ?_, fun k hk hne => ?_, hframe⟩
  · rw [hch c hc]
    simp
  · rw [hch k hk]
    simp [hne, show k ≠ 2 + c by omega, show 4 + k ≠ 2 + c by omega]

theorem retryNow_effect (q : Req) :
    ∃ t, exec (.retryNow c q) s = .next t ∧ t.pwrCh c = { s.pwrCh c with reqRetry := true } ∧ OtherChannel c s t ∧
      LeavesAllBut [.pwr] s t := by
  obtain ⟨t, ht, hframe, hch⟩ := pwrWctl_effect hs hp hc q (n := 4 + c) (by omega)
  refine ⟨t, by rw [← ht, pow_add]; rfl, ?_, fun k hk hne => ?_, hframe⟩
  · rw [hch c hc]
    simp
  · rw [hch k hk]
    simp [hne, show k ≠ 4 + c by omega, show 2 + k ≠ 4 + c by omega]

end

/-! ### The sequence of a channel (R327 to R332, R336) -/

section
variable {s : State} {c : Nat} (hs : Ready s) (hp : hasPower s.member = true) (hc : c < 2)
include hs hp hc

theorem diagEnd_passes {r : Nat} (hst : (s.pwrCh c).st = 1) :
    ∃ t, exec (.diagEnd c 1 r) s = .next t ∧
      t.pwrCh c = { s.pwrCh c with st := 2, cmDone := false, diagRes := 1, diagR := r % 65536 } ∧ OtherChannel c s t ∧
      LeavesAllBut [.pwr] s t := by
  refine setPwrCh_completes hc ((run_ch hs hp hc _).trans ?_)
  unfold State.diagEnd State.modPwrCh
  dsimp only
  rw [if_pos hst, if_pos rfl, State.setPwrCh_twice, State.setPwrCh_same]

theorem cmRampEnd_effect (hst : (s.pwrCh c).st = 2) :
    ∃ t, exec (.cmRampEnd c) s = .next t ∧ t.pwrCh c = { s.pwrCh c with cmDone := true } ∧ OtherChannel c s t ∧
      LeavesAllBut [.pwr] s t := by
  refine setPwrCh_completes hc ((run_ch hs hp hc _).trans ?_)
  rw [State.cmUpEnd, if_pos hst, State.modPwrCh]

theorem runEntry_effect (hst : (s.pwrCh c).st = 2) (hcm : (s.pwrCh c).cmDone = true) (hf : s.fenced = false) :
    ∃ t, exec (.runEntry c) s = .next t ∧ t.pwrCh c = { s.pwrCh c with st := 3, cmDone := false } ∧ OtherChannel c s t ∧
      LeavesAllBut [.mix, .pwr] s t := by
  have hrun : s.runEntry c =
      (s.setPwrCh c { s.pwrCh c with st := 3, cmDone := false }).muteOff (mkPwr c) .channel s.arampLen := by
    unfold State.runEntry
    rw [if_pos ⟨hst, hcm⟩, if_neg (by rw [hf]; decide)]
    rfl
  have hmute := State.muteOff_frame (s.setPwrCh c { s.pwrCh c with st := 3, cmDone := false }) (mkPwr c) .channel s.arampLen
  rw [← hrun] at hmute
  exact ⟨_, run_ch hs hp hc _, by rw [settle_pwrCh, hmute.others.pwrCh rfl, State.setPwrCh_same],
    (State.setPwrCh_other s hc _).trans (hmute.others.otherChannel rfl),
    (State.runEntry_follows s c (fun _ h => h) (.refl s)).others.settled⟩

theorem audioRampDownEnd_effect (hst : (s.pwrCh c).st = 4) (hcm : (s.pwrCh c).stopCm = false) (hout : (s.pwrCh c).rampOut = true) :
    ∃ t, exec (.audioRampDownEnd c) s = .next t ∧ t.pwrCh c = { s.pwrCh c with stopCm := true } ∧ OtherChannel c s t ∧
      LeavesAllBut [.pwr] s t := by
  refine setPwrCh_completes hc ((run_ch hs hp hc _).trans ?_)
  rw [State.audioDown, if_pos ⟨hst, by rw [hcm]; rfl, hout⟩, State.modPwrCh]

theorem cmRampDownEnd_effect (hst : (s.pwrCh c).st = 4) (hcm : (s.pwrCh c).stopCm = true) :
    ∃ t, exec (.cmRampDownEnd c) s = .next t ∧ t.pwrCh c = { s.pwrCh c with st := 0, stopCm := false } ∧ OtherChannel c s t ∧
      LeavesAllBut [.pwr] s t := by
  refine setPwrCh_completes hc ((run_ch hs hp hc _).trans ?_)
  rw [State.cmDown, if_pos ⟨hst, hcm⟩, State.modPwrCh]

theorem retrySuccess_effect (hst : (s.pwrCh c).st = 3) (hretry : (s.pwrCh c).retrying = true) :
    ∃ t, exec (.retrySuccess c) s = .next t ∧ t.pwrCh c = { s.pwrCh c with retrying := false, fails := 0 } ∧
      OtherChannel c s t ∧ LeavesAllBut [.pwr] s t := by
  refine setPwrCh_completes hc ((run_ch hs hp hc _).trans ?_)
  rw [State.retryOk, if_pos ⟨hst, hretry⟩, State.modPwrCh]

theorem idleEntry_effect (hidle : idleF (s.chCfg c) = true) (hst : (s.pwrCh c).st = 3) :
    ∃ t, exec (.idleEntry c) s = .next t ∧ t.pwrCh c = { s.pwrCh c with idle := true } ∧ OtherChannel c s t ∧
      LeavesAllBut [.pwr] s t := by
  refine setPwrCh_completes hc ((run_ch hs hp hc _).trans ?_)
  rw [State.idleEntry, if_pos ⟨hidle, hst⟩, State.modPwrCh]

/-- A channel over current retries from its diagnostics once its interval is over (R332). -/
theorem pwrRetry_effect (hst : (s.pwrCh c).st = 5) (hfault : (s.pwrCh c).fault = 1)
    (hdue : (s.pwrCh c).faultAt + s.retrySamples < s.tt.now + s.T) (hctr : s.counter (pwrCtr (2 + c)) + 1 < ctrMax) :
    ∃ t, exec (.pwrRetry c) s = .next t ∧ (t.pwrCh c).st = 1 ∧ (t.pwrCh c).fault = 0 ∧ (t.pwrCh c).retrying = true ∧
      (t.pwrCh c).fails = (s.pwrCh c).fails ∧ (t.pwrCh c).est = (s.pwrCh c).est ∧
      t.counter (pwrCtr (2 + c)) = s.counter (pwrCtr (2 + c)) + 1 ∧ OtherChannel c s t ∧ CountOnly [pwrCtr (2 + c)] s t ∧
      LeavesAllBut [.count, .pwr] s t := by
  have hretry : s.pwrRetry c =
      (s.setPwrCh c { (s.pwrCh c).diag with retrying := true, reqRetry := false }).bump (pwrCtr (2 + c)) := by
    unfold State.pwrRetry State.retryNow PwrCh.retries State.pwrHot State.modPwrCh
    rw [if_pos hdue, if_pos (by simp [hst, hfault])]
  have hset := s.setPwrCh_frame c { (s.pwrCh c).diag with retrying := true, reqRetry := false }
  have hcount (a : Nat) := hset.others.counter rfl a
  have hbelow : (s.setPwrCh c { (s.pwrCh c).diag with retrying := true, reqRetry := false }).counter (pwrCtr (2 + c)) + 1 <
      ctrMax := by rw [hcount]; exact hctr
  have hbump := State.bump_below hbelow
  rw [← hretry] at hbump
  have hch : (s.pwrRetry c).pwrCh c = { (s.pwrCh c).diag with retrying := true, reqRetry := false } := by
    rw [hbump.pwrCh rfl, State.setPwrCh_same]
  refine ⟨_, run_ch hs hp hc _, by rw [settle_pwrCh, hch]; rfl, by rw [settle_pwrCh, hch]; rfl, by rw [settle_pwrCh, hch],
    by rw [settle_pwrCh, hch]; rfl, by rw [settle_pwrCh, hch]; rfl, ?_,
    (State.setPwrCh_other s hc _).trans (hbump.otherChannel rfl), fun a ha => ?_,
    ((hset.others.widen (by decide)).trans (hbump.widen (by decide))).settled⟩
  · rw [settle_counter, hretry, State.bump_counter (hset.stores hs.1) _ _ hbelow, if_pos rfl, hcount]
  · rw [settle_counter, hretry, State.bump_countOnly (hset.stores hs.1) hbelow a ha, hcount]

end

/-- A channel in FAULT for its supply starts again from its diagnostics (R336). -/
def State.pvddRestart (s : State) (c : Nat) : State :=
  if (s.pwrCh c).st = 5 ∧ (s.pwrCh c).fault = 4 then s.setPwrCh c (s.pwrCh c).diag else s

section
variable {s : State} {c : Nat}

theorem State.pvddRestart_follows (s : State) (c : Nat) : Follows [.pwr] s (s.pvddRestart c) :=
  .ite (s.setPwrCh_frame c _) (.refl s)

theorem State.pvddRestart_same (hst : (s.pwrCh c).st = 5) (hfault : (s.pwrCh c).fault = 4) :
    (s.pvddRestart c).pwrCh c = (s.pwrCh c).diag := by
  rw [State.pvddRestart, if_pos ⟨hst, hfault⟩, State.setPwrCh_same]

theorem State.pvddRestart_other (hc : c < 2) : OtherChannel c s (s.pvddRestart c) := by
  unfold State.pvddRestart
  split
  · exact State.setPwrCh_other s hc _
  · exact fun _ _ _ => rfl

theorem State.pvddRestart_pvdd : (s.pvddRestart c).pwr.pvdd = s.pwr.pvdd := by
  unfold State.pvddRestart
  split
  · exact (s.setPwrCh_pwr c _).1
  · rfl

/-- Both channels restart, each by what it holds alone. -/
theorem State.pvddRestart_both (hc : c < 2) (hst : (s.pwrCh c).st = 5) (hfault : (s.pwrCh c).fault = 4) :
    ((s.pvddRestart 0).pvddRestart 1).pwrCh c = (s.pwrCh c).diag := by
  obtain rfl | rfl : c = 0 ∨ c = 1 := by omega
  · rw [State.pvddRestart_other (by decide) 0 (by decide) (by decide), State.pvddRestart_same hst hfault]
  · have h1 : (s.pvddRestart 0).pwrCh 1 = s.pwrCh 1 := State.pvddRestart_other (by decide) 1 (by decide) (by decide)
    rw [State.pvddRestart_same (by rw [h1, hst]) (by rw [h1, hfault]), h1]

theorem pvddRestore_effect {mv : Nat} (hs : Ready s) (hp : hasPower s.member = true) (hc : c < 2) (hlo : 4500 ≤ mv)
    (hhi : mv ≤ 26500) (hst : (s.pwrCh c).st = 5) (hfault : (s.pwrCh c).fault = 4) :
    ∃ t, exec (.pvddRestore mv) s = .next t ∧ (t.pwrCh c).st = 1 ∧ (t.pwrCh c).fault = 0 ∧
      (t.pwrCh c).est = (s.pwrCh c).est ∧ t.pwr.pvdd = mv ∧
      t.pmu = { s.pmu with supply := s.pmu.supply ||| 0x020 } ∧ LeavesAllBut [.pmu, .pwr] s t := by
  have hback : s.pvddBack mv = (({ s.pvddOk true with pwr := { s.pwr with pvdd := mv } }).pvddRestart 0).pvddRestart 1 := by
    unfold State.pvddBack
    dsimp only
    rw [if_pos ⟨hlo, hhi⟩, if_pos ⟨hlo, hhi⟩]
    rfl
  have hch : (s.pvddBack mv).pwrCh c = (s.pwrCh c).diag := by
    rw [hback]
    exact State.pvddRestart_both (s := { s.pvddOk true with pwr := { s.pwr with pvdd := mv } }) hc hst hfault
  have hframe : Follows [.pwr] { s.pvddOk true with pwr := { s.pwr with pvdd := mv } } (s.pvddBack mv) := by
    rw [hback]
    exact (State.pvddRestart_follows _ 0).trans (State.pvddRestart_follows _ 1)
  have hfirst : LeavesAllBut [.pmu, .pwr] s { s.pvddOk true with pwr := { s.pwr with pvdd := mv } } :=
    fun q hq => by cases q <;> first | rfl | exact absurd (List.elem_iff.mp rfl) hq
  refine ⟨_, run_power hs hp _, by rw [settle_pwrCh, hch]; rfl, by rw [settle_pwrCh, hch]; rfl,
    by rw [settle_pwrCh, hch]; rfl, ?_, ?_, (hfirst.trans (hframe.others.widen (by decide))).settled⟩
  · rw [settle_pwr, hback, State.pvddRestart_pvdd, State.pvddRestart_pvdd]
  · rw [settle_pmu, hframe.others.keeps .pmu rfl]
    rfl

end

/-- Settles O54: each command is one branch of its operation, and writes what one channel holds. -/
theorem powerChannelSequence : Obligations.PowerChannelSequence := fun _ _ hs hp hc => by
  refine ⟨pwrWctlArm_effect hs hp hc, pwrWctlStop_effect hs hp hc, retryNow_effect hs hp hc, fun r hst => ?_,
    cmRampEnd_effect hs hp hc, runEntry_effect hs hp hc, audioRampDownEnd_effect hs hp hc, cmRampDownEnd_effect hs hp hc,
    pwrRetry_effect hs hp hc, retrySuccess_effect hs hp hc, fun _ hlo hhi => pvddRestore_effect hs hp hc hlo hhi,
    idleEntry_effect hs hp hc⟩
  obtain ⟨t, ht, hch, hother, hframe⟩ := diagEnd_passes hs hp hc (r := r) hst
  exact ⟨t, ht, hother, hframe, hch⟩

end Sys2Proof.Machine

/-! SUPPORT. What takes a power channel to FAULT or hard stop, and what reduces or mutes it (R331 to R345). -/

namespace Sys2Proof.Machine

/-! ### Counts below the maximum (R113) -/

theorem State.countBy_below {s : State} {a n : Nat} (h : s.counter a + n < ctrMax) : LeavesAllBut [.count] s (s.countBy a n) := by
  unfold State.countBy
  rw [if_pos h]
  split
  · exact (Follows.refl s).others
  · exact (State.setCounter_follows s a _ h.le (fun _ k => k) (.refl s)).others

theorem State.countBy_countOnly {s : State} (hs : StoresOk s) {a n : Nat} (h : s.counter a + n < ctrMax) :
    CountOnly [a] s (s.countBy a n) :=
  fun b hb => by rw [State.countBy_counter hs a n b h, if_neg (by simpa using hb)]

/-! ### A fault of a channel (R332, R333) -/

/-- The stage replaced, whatever by. -/
theorem pwr_frame (s : State) (v : Pwr) : Follows [.pwr] s { s with pwr := v } :=
  ⟨rfl, rfl, List.prefix_rfl, le_rfl, id, fun q hq => by cases q <;> first | rfl | exact absurd (List.elem_iff.mp rfl) hq⟩

/-- The stage but its channels is as it was. -/
def StageKept (s t : State) : Prop := t.pwr = { s.pwr with a := t.pwr.a, b := t.pwr.b }

section
variable {s t u : State} {c cause : Nat}

theorem StageKept.trans (h : StageKept s t) (k : StageKept t u) : StageKept s u := by
  unfold StageKept at h k ⊢
  rw [k, h]

theorem LeavesAllBut.stageKept {l : List Part} (h : LeavesAllBut l s t) (hl : l.elem .pwr = false) : StageKept s t := by
  have hpwr : t.pwr = s.pwr := h.keeps .pwr hl
  rw [StageKept, hpwr]

theorem State.setPwrCh_stageKept (s : State) (c : Nat) (v : PwrCh) : StageKept s (s.setPwrCh c v) := by
  unfold State.setPwrCh
  split <;> rfl

theorem StageKept.pvdd (h : StageKept s t) : t.pwr.pvdd = s.pwr.pvdd := by rw [h]

theorem StageKept.link (h : StageKept s t) : t.pwr.link = s.pwr.link := by rw [h]

theorem StageKept.linkHstop (h : StageKept s t) : t.pwr.linkHstop = s.pwr.linkHstop := by rw [h]

theorem StageKept.badWords (h : StageKept s t) : t.pwr.badWords = s.pwr.badWords := by rw [h]

/-- What a fault leaves of a channel depends on the state by the position alone. -/
theorem faulted_congr (h : t.tt.now = s.tt.now) : faulted t = faulted s := by
  funext v cause
  rw [faulted, h]
  rfl

/-- A fault outside a retry mutes the channel at once, and is no failure of a retry. -/
theorem State.pwrFault_plain (hr : (s.pwrCh c).retrying = false) :
    s.pwrFault c cause = (s.setPwrCh c (faulted s (s.pwrCh c) cause)).muteOn (mkPwr c) .channel 0 := by
  unfold State.pwrFault faulted
  simp [hr]

/-- The effect of a fault outside a retry. -/
theorem State.pwrFault_spec (hc : c < 2) (hr : (s.pwrCh c).retrying = false) (cause : Nat) :
    (s.pwrFault c cause).pwrCh c = faulted s (s.pwrCh c) cause ∧ OtherChannel c s (s.pwrFault c cause) ∧
      StageKept s (s.pwrFault c cause) ∧ Follows [.mix, .pwr] s (s.pwrFault c cause) := by
  have hset := s.setPwrCh_frame c (faulted s (s.pwrCh c) cause)
  have hmute := State.muteOn_frame (s.setPwrCh c (faulted s (s.pwrCh c) cause)) (mkPwr c) .channel 0
  rw [← State.pwrFault_plain hr] at hmute
  exact ⟨by rw [hmute.others.pwrCh rfl, State.setPwrCh_same],
    (State.setPwrCh_other s hc _).trans (hmute.others.otherChannel rfl),
    (s.setPwrCh_stageKept c _).trans (hmute.others.stageKept rfl), (hset.widen (by decide)).trans (hmute.widen (by decide))⟩

end

/-- The channel of a retry that fails (R332). -/
def failedRetry (s : State) (v : PwrCh) (cause : Nat) : PwrCh :=
  { faulted s v cause with fails := v.fails + 1, retrying := false }

/-- A retry that fails is reported (R332). -/
def State.retryFailed (s : State) (c cause : Nat) : State :=
  ((s.setPwrCh c (failedRetry s (s.pwrCh c) cause)).muteOn (mkPwr c) .channel 0).flagRaise pdFlags (0x40 * 2 ^ c) 78

section
variable {s : State} {c cause : Nat}

/-- The failure that reaches MAX is a hard stop (R333). -/
theorem State.pwrFault_last (hr : (s.pwrCh c).retrying = true) (hmax : retryMax (s.pdW 0x20) ≠ 0)
    (hfails : retryMax (s.pdW 0x20) ≤ (s.pwrCh c).fails + 1) :
    s.pwrFault c cause =
      ((s.retryFailed c cause).setPwrCh c { failedRetry s (s.pwrCh c) cause with st := 7 }).enterHstop (4 + c) := by
  have hch : (s.retryFailed c cause).pwrCh c = failedRetry s (s.pwrCh c) cause := by
    rw [State.retryFailed, (State.flagRaise_others _ _ _ _).pwrCh rfl, (State.muteOn_frame _ _ _ _).others.pwrCh rfl,
      State.setPwrCh_same]
  unfold State.pwrFault
  simp only [hr, if_true, true_and]
  rw [if_pos ⟨hmax, hfails⟩, State.modPwrCh]
  exact congrArg (fun v : PwrCh => ((s.retryFailed c cause).setPwrCh c { v with st := 7 }).enterHstop (4 + c)) hch

end

theorem srcPresent_power {m : Member} (h : hasPower m = true) {n : Nat} (hn : 76 ≤ n ∧ n ≤ 85) : srcPresent m n = true := by
  obtain ⟨hlo, hhi⟩ := hn
  interval_cases n <;> exact h

section
variable {s : State} {c cause : Nat}

theorem State.retryFailed_spec (hs : StoresOk s) (hp : hasPower s.member = true) (hc : c < 2) (cause : Nat) :
    bitAt ((s.retryFailed c cause).rcW pdFlags) (6 + c) = true ∧ (s.retryFailed c cause).event 78 = true ∧
      OtherChannel c s (s.retryFailed c cause) ∧ StoresOk (s.retryFailed c cause) := by
  have hset := s.setPwrCh_frame c (failedRetry s (s.pwrCh c) cause)
  have hmute := State.muteOn_frame (s.setPwrCh c (failedRetry s (s.pwrCh c) cause)) (mkPwr c) .channel 0
  have htold := State.flagRaise_frame ((s.setPwrCh c (failedRetry s (s.pwrCh c) cause)).muteOn (mkPwr c) .channel 0)
    pdFlags (0x40 * 2 ^ c) 78
  have hstores := hmute.stores (hset.stores hs)
  refine ⟨State.flagRaise_bit hstores (by decide) (by omega)
      ((by decide : ∀ c < 2, (0x40 * 2 ^ c).testBit (6 + c) = true) c hc),
    State.flagRaise_event hstores _ _ 78 (by rw [hmute.member.trans hset.member]; exact srcPresent_power hp (by decide)),
    ((State.setPwrCh_other s hc _).trans (hmute.others.otherChannel rfl)).trans (htold.others.otherChannel rfl),
    htold.stores hstores⟩

theorem State.pwrFault_last_spec (hs : StoresOk s) (hp : hasPower s.member = true) (hc : c < 2)
    (hr : (s.pwrCh c).retrying = true) (hmax : retryMax (s.pdW 0x20) ≠ 0)
    (hfails : retryMax (s.pdW 0x20) ≤ (s.pwrCh c).fails + 1) :
    let t := s.pwrFault c cause
    (t.pwrCh c).st = 7 ∧ t.reg.hstop.getLsbD (4 + c) = true ∧ bitAt (t.rcW pdFlags) (6 + c) = true ∧ t.event 78 = true ∧
      OtherChannel c s t := by
  intro t
  have hlast : t = _ := State.pwrFault_last (cause := cause) hr hmax hfails
  obtain ⟨hbit, hevent, hother, hstores⟩ := State.retryFailed_spec hs hp hc cause
  have hset := (s.retryFailed c cause).setPwrCh_frame c { failedRetry s (s.pwrCh c) cause with st := 7 }
  have hstop := State.enterHstop_frame
    ((s.retryFailed c cause).setPwrCh c { failedRetry s (s.pwrCh c) cause with st := 7 }) (4 + c)
  rw [← hlast] at hstop
  have hraises : Raises (s.retryFailed c cause) t := by
    rw [hlast]
    exact (hset.raises rfl).trans (State.enterHstop_raises _ _)
  obtain ⟨-, hkeeps⟩ := hraises hstores
  refine ⟨by rw [hstop.others.pwrCh rfl, State.setPwrCh_same], ?_, hkeeps _ _ hbit, hkeeps.event hevent,
    hother.trans ((State.setPwrCh_other _ hc _).trans (hstop.others.otherChannel rfl))⟩
  rw [hlast]
  exact State.enterHstop_hstop _ (by omega)

end

section
variable {s : State}

theorem State.pwrUnit_self (hb : s.pwr.pbtl = false) (c : Nat) : s.pwrUnit c = c := if_neg (by rw [hb]; decide)

/-! ### Over-current, heat and the supply (R331 to R336) -/

/-- The state in which an over-current faults its channel: its cycles counted and reported. -/
def State.ocTold (s : State) (c : Nat) : State := (s.countBy (pwrCtr c) 16).flagRaise pdFlags (2 ^ c) 76

theorem State.ocTold_follows (s : State) (c : Nat) : Follows [.rc, .count] s (s.ocTold c) :=
  State.flagRaise_follows _ _ _ _ (within (fun _ h => h) rfl) (State.countBy_follows s _ _ (fun _ h => h) (.refl s))

theorem State.pwrOc_running (hb : s.pwr.pbtl = false) {c : Nat} (hst : (s.pwrCh c).st = 3) :
    s.pwrOc c = (s.ocTold c).pwrFault c 1 := by
  unfold State.pwrOc
  rw [State.pwrUnit_self hb]
  exact if_pos (.inr (.inl hst))

variable (hs : Ready s) (hp : hasPower s.member = true) (hb : s.pwr.pbtl = false)
include hs hp hb

theorem pwrOc_faults {c : Nat} (hc : c < 2) (hst : (s.pwrCh c).st = 3) (hr : (s.pwrCh c).retrying = false)
    (hctr : s.counter (pwrCtr c) + 16 < ctrMax) :
    ∃ t, exec (.pwrOc c) s = .next t ∧ t.pwrCh c = faulted s (s.pwrCh c) 1 ∧ bitAt (t.rcW pdFlags) c = true ∧
      t.event 76 = true ∧ t.counter (pwrCtr c) = s.counter (pwrCtr c) + 16 ∧ OtherChannel c s t ∧
      RcOnly [pdFlags, evtStat 76] s t ∧ CountOnly [pwrCtr c] s t ∧ LeavesAllBut [.rc, .count, .mix, .pwr] s t := by
  have hcount := State.countBy_below hctr
  have hcounted := (State.countBy_follows s (pwrCtr c) 16 (fun _ h => h) (.refl s))
  have htold := s.ocTold_follows c
  have hch := htold.others.pwrCh rfl c
  obtain ⟨hfault, hother, -, hframe⟩ := State.pwrFault_spec hc (by rw [hch]; exact hr) 1
  rw [← State.pwrOc_running hb hst] at hfault hother hframe
  have hflags := State.flagRaise_others (s.countBy (pwrCtr c) 16) pdFlags (2 ^ c) 76
  refine ⟨_, run_ch hs hp hc _, ?_, ?_, ?_, ?_, (htold.others.otherChannel rfl).trans hother, ?_, fun a ha => ?_,
    ((htold.others.widen (by decide)).trans (hframe.others.widen (by decide))).settled⟩
  · rw [settle_pwrCh, hfault, hch, faulted_congr (htold.others.keeps .now rfl)]
  · rw [settle_rcW, hframe.others.rcW rfl]
    exact State.flagRaise_bit (hcounted.stores hs.1) (by decide) (by omega) (Nat.testBit_two_pow_self)
  · rw [settle_event, hframe.others.event rfl]
    exact State.flagRaise_event (hcounted.stores hs.1) _ _ 76 (by rw [hcounted.member]; exact srcPresent_power hp (by decide))
  · rw [settle_counter, hframe.others.counter rfl, State.ocTold, hflags.counter rfl, State.countBy_counter hs.1 _ _ _ hctr,
      if_pos rfl]
  · exact ((hcount.rcOnly rfl).flagRaise (by simp) (by simp)).trans (hframe.others.rcOnly rfl)
  · rw [settle_counter, hframe.others.counter rfl, State.ocTold, hflags.counter rfl]
    exact State.countBy_countOnly hs.1 hctr a ha

theorem pwrOc_hardStops {c : Nat} (hc : c < 2) (hst : (s.pwrCh c).st = 3) (hr : (s.pwrCh c).retrying = true)
    (hmax : retryMax (s.pdW 0x20) ≠ 0) (hfails : retryMax (s.pdW 0x20) ≤ (s.pwrCh c).fails + 1) :
    ∃ t, exec (.pwrOc c) s = .next t ∧ (t.pwrCh c).st = 7 ∧ t.reg.hstop.getLsbD (4 + c) = true ∧
      bitAt (t.rcW pdFlags) (6 + c) = true ∧ t.event 78 = true ∧ OtherChannel c s t ∧
      LeavesAllBut [.rc, .count, .hstop, .mix, .pwr] s t := by
  have htold := s.ocTold_follows c
  have hch := htold.others.pwrCh rfl c
  have hpd : (s.ocTold c).pdW 0x20 = s.pdW 0x20 := htold.others.inForceW rfl _
  obtain ⟨hseven, hstop, hbit, hevent, hother⟩ := State.pwrFault_last_spec (s := s.ocTold c) (cause := 1) (htold.stores hs.1)
    (by rw [htold.member]; exact hp) hc (by rw [hch]; exact hr) (by rw [hpd]; exact hmax) (by rw [hpd, hch]; exact hfails)
  rw [← State.pwrOc_running hb hst] at hseven hstop hbit hevent hother
  exact ⟨_, run_ch hs hp hc _, hseven, hstop, hbit, hevent, (htold.others.otherChannel rfl).trans hother,
    (State.pwrOc_follows s c (fun _ h => h) (.refl s)).others.settled⟩

/-- The die at its limit is reported, and its channel faults with the temperature known (R334). -/
theorem pwrTherm_faults {c : Nat} {x : Int} (hc : c < 2) (hx : 140 ≤ x) (hact : pwrActive (s.pwrCh c).st = true)
    (hr : (s.pwrCh c).retrying = false) :
    ∃ t, exec (.pwrTherm c x) s = .next t ∧ t.pwrCh c = { faulted s (s.pwrCh c) 2 with dieTemp := x } ∧
      bitAt (t.rcW pdFlags) (2 + c) = true ∧ t.event 79 = true ∧ OtherChannel c s t ∧ RcOnly [pdFlags, evtStat 79] s t ∧
      LeavesAllBut [.rc, .mix, .pwr] s t := by
  have htherm : s.pwrTherm c x =
      ((s.setPwrCh c { s.pwrCh c with dieTemp := x }).flagRaise pdFlags (4 * 2 ^ c) 79).pwrFault c 2 := by
    unfold State.pwrTherm
    rw [State.pwrUnit_self hb]
    exact if_pos ⟨hx, hact⟩
  have hset := s.setPwrCh_frame c { s.pwrCh c with dieTemp := x }
  have htold := State.flagRaise_frame (s.setPwrCh c { s.pwrCh c with dieTemp := x }) pdFlags (4 * 2 ^ c) 79
  have hch : ((s.setPwrCh c { s.pwrCh c with dieTemp := x }).flagRaise pdFlags (4 * 2 ^ c) 79).pwrCh c =
      { s.pwrCh c with dieTemp := x } := by rw [htold.others.pwrCh rfl, State.setPwrCh_same]
  obtain ⟨hfault, hother, -, hframe⟩ := State.pwrFault_spec hc (by rw [hch]; exact hr) 2
  rw [← htherm] at hfault hother hframe
  refine ⟨_, run_ch hs hp hc _, ?_, ?_, ?_, ?_, ?_, ?_⟩
  · rw [settle_pwrCh, hfault, hch, faulted_congr (htold.others.keeps .now rfl), faulted_congr (hset.others.keeps .now rfl)]
    rfl
  · rw [settle_rcW, hframe.others.rcW rfl]
    exact State.flagRaise_bit (hset.stores hs.1) (by decide) (by omega)
      ((by decide : ∀ c < 2, (4 * 2 ^ c).testBit (2 + c) = true) c hc)
  · rw [settle_event, hframe.others.event rfl]
    exact State.flagRaise_event (hset.stores hs.1) _ _ 79 (by rw [hset.member]; exact srcPresent_power hp (by decide))
  · exact ((State.setPwrCh_other s hc _).trans (htold.others.otherChannel rfl)).trans hother
  · exact ((hset.others.rcOnly rfl).flagRaise (by simp) (by simp)).trans (hframe.others.rcOnly rfl)
  · exact (((hset.others.widen (by decide)).trans (htold.others.widen (by decide))).trans
      (hframe.others.widen (by decide))).settled

end

/-! ### Both channels at once (R336, R342) -/

section
variable {s t u : State}

/-- Each channel in turn made what `f` says of it. -/
theorem pwrCh_both {f : PwrCh → PwrCh} (h0 : t.pwrCh 0 = f (s.pwrCh 0)) (o0 : OtherChannel 0 s t)
    (h1 : u.pwrCh 1 = f (t.pwrCh 1)) (o1 : OtherChannel 1 t u) : ∀ c < 2, u.pwrCh c = f (s.pwrCh c) := by
  intro c hc
  obtain rfl | rfl : c = 0 ∨ c = 1 := by omega
  · rw [o1 0 (by decide) (by decide), h0]
  · rw [h1, o0 1 (by decide) (by decide)]

/-- Both channels fault, neither of them in a retry. -/
theorem State.pwrFault_both (hr : ∀ c < 2, (s.pwrCh c).retrying = false) (cause : Nat) :
    let t := (s.pwrFault 0 cause).pwrFault 1 cause
    (∀ c < 2, t.pwrCh c = faulted s (s.pwrCh c) cause) ∧ StageKept s t ∧ Follows [.mix, .pwr] s t := by
  obtain ⟨h0, o0, k0, f0⟩ := State.pwrFault_spec (s := s) (c := 0) (by decide) (hr 0 (by decide)) cause
  have hr1 : ((s.pwrFault 0 cause).pwrCh 1).retrying = false := by
    rw [o0 1 (by decide) (by decide)]
    exact hr 1 (by decide)
  obtain ⟨h1, o1, k1, f1⟩ := State.pwrFault_spec (c := 1) (by decide) hr1 cause
  rw [faulted_congr (f0.others.keeps .now rfl)] at h1
  exact ⟨pwrCh_both (f := (faulted s · cause)) h0 o0 h1 o1, k0.trans k1, f0.trans f1⟩

end

/-- A supply out of its range, as measured (R336). -/
def State.pvddGone (s : State) (mv : Nat) : State :=
  { s.pvddOk false with pwr := { (s.pvddOk false).pwr with pvdd := mv } }

section
variable {s : State}

theorem bitVec_and_not_of_disjoint {n : Nat} {x m : BitVec n} (h : x &&& m = 0) : x &&& ~~~m = x := by
  apply BitVec.eq_of_getLsbD_eq
  intro i hi
  have hbit : (x &&& m).getLsbD i = false := by rw [h]; simp
  rw [BitVec.getLsbD_and] at hbit
  rw [BitVec.getLsbD_and, BitVec.getLsbD_not]
  cases hx : x.getLsbD i <;> simp_all

/-- The fall of PVDD_OK, reported once (R423). -/
theorem State.pvddOk_falls (s : State) :
    (s.pvddOk false).pmu = { s.pmu with supply := s.pmu.supply &&& ~~~0x020 } ∧
      RcOnly [0x3004, evtStat 95] s (s.pvddOk false) := by
  unfold State.pvddOk
  rw [if_neg (by decide)]
  split
  · rename_i h
    rw [bitVec_and_not_of_disjoint h]
    exact ⟨rfl, .refl _ s⟩
  · refine ⟨(State.flagRaise_others _ _ _ _).keeps .pmu rfl, ?_⟩
    exact RcOnly.flagRaise (fun _ _ => rfl) (by simp) (by simp)

theorem State.pvddOk_reports (hs : StoresOk s) (h : s.pmu.supply &&& 0x020 ≠ 0) :
    bitAt ((s.pvddOk false).rcW 0x3004) 1 = true ∧ (s.pvddOk false).event 95 = true := by
  unfold State.pvddOk
  rw [if_neg (by decide), if_neg h]
  have hpmu : StoresOk { s with pmu := { s.pmu with supply := s.pmu.supply &&& ~~~0x020 } } := ⟨hs.1, hs.2.1, hs.2.2⟩
  exact ⟨State.flagRaise_bit hpmu (by decide) (by decide) (by decide), State.flagRaise_event hpmu _ _ 95 rfl⟩

theorem State.pvddGone_follows (s : State) (mv : Nat) : Follows [.rc, .pmu, .pwr] s (s.pvddGone mv) :=
  (State.pvddOk_follows s false (within (fun _ h => h) rfl) (.refl s)).trans ((pwr_frame _ _).widen (by decide))

theorem State.pvddGone_pwrCh (s : State) (mv c : Nat) : (s.pvddGone mv).pwrCh c = s.pwrCh c := by
  have hok := State.pvddOk_follows s false (fun _ h => h) (.refl s)
  rw [← hok.others.pwrCh rfl c]
  rfl

end

/-- A channel as the loss of its supply faults it: diagnostics that run end before their time. -/
def State.pvddFault (s : State) (c : Nat) : State := (if (s.pwrCh c).st = 1 then s.diagAbort c else s).pwrFault c 4

section
variable {s : State} {mv : Nat}

theorem State.pvddFault_running {c : Nat} (hst : (s.pwrCh c).st = 3) : s.pvddFault c = s.pwrFault c 4 := by
  rw [State.pvddFault, if_neg (by rw [hst]; decide)]

/-- The loss of the supply with both channels in RUN. -/
theorem State.pwrPvdd_running (hout : pvddOut mv = true) (hst : ∀ c < 2, (s.pwrCh c).st = 3) :
    s.pwrPvdd mv = (((s.pvddGone mv).flagRaise pdFlags 0x800 81).pvddFault 0).pvddFault 1 := by
  have hhit : [0, 1].filter (fun c => pwrActive (s.pwrCh c).st) = [0, 1] := by
    simp [hst 0 (by decide), hst 1 (by decide), pwrActive]
  unfold State.pwrPvdd
  simp only [hhit, hout, if_true]
  rfl

/-- Both channels fault once the supply is reported gone (R336). -/
theorem State.pwrPvdd_faults (hout : pvddOut mv = true) (h : ∀ c < 2, (s.pwrCh c).retrying = false ∧ (s.pwrCh c).st = 3) :
    let u := (s.pvddGone mv).flagRaise pdFlags 0x800 81
    s.pwrPvdd mv = (u.pwrFault 0 4).pwrFault 1 4 ∧ (∀ c < 2, u.pwrCh c = s.pwrCh c) := by
  intro u
  have hch (c : Nat) (_ : c < 2) : u.pwrCh c = s.pwrCh c := by
    rw [(State.flagRaise_others _ _ _ _).pwrCh rfl, State.pvddGone_pwrCh]
  have hch0 := hch 0 (by decide)
  obtain ⟨hr0, hst0⟩ := h 0 (by decide)
  obtain ⟨-, hst1⟩ := h 1 (by decide)
  obtain ⟨-, hother, -⟩ := State.pwrFault_spec (s := u) (c := 0) (by decide) (by rw [hch0]; exact hr0) 4
  refine ⟨?_, hch⟩
  rw [State.pwrPvdd_running hout (fun c hc => (h c hc).2), State.pvddFault_running (c := 0) (by rw [hch0]; exact hst0),
    State.pvddFault_running (c := 1) (by rw [hother 1 (by decide) (by decide), hch 1 (by decide)]; exact hst1)]

theorem pwrPvdd_effect (hs : Ready s) (hp : hasPower s.member = true) (hout : pvddOut mv = true)
    (h : ∀ c < 2, (s.pwrCh c).retrying = false ∧ (s.pwrCh c).st = 3) :
    ∃ t, exec (.pwrPvdd mv) s = .next t ∧ t.pwr.pvdd = mv ∧ (∀ c, c < 2 → t.pwrCh c = faulted s (s.pwrCh c) 4) ∧
      bitAt (t.rcW pdFlags) 11 = true ∧ t.event 81 = true ∧ t.pmu = { s.pmu with supply := s.pmu.supply &&& ~~~0x020 } ∧
      (s.pmu.supply &&& 0x020 ≠ 0 → bitAt (t.rcW 0x3004) 1 = true ∧ t.event 95 = true) ∧
      RcOnly [pdFlags, evtStat 81, 0x3004, evtStat 95] s t ∧ LeavesAllBut [.rc, .mix, .pwr, .pmu] s t := by
  have hgone := s.pvddGone_follows mv
  have hstores := hgone.stores hs.1
  have htold := State.flagRaise_frame (s.pvddGone mv) pdFlags 0x800 81
  obtain ⟨hpmu, hrc⟩ := s.pvddOk_falls
  obtain ⟨hend, hch⟩ := State.pwrPvdd_faults hout h
  obtain ⟨hboth, hkept, hframe⟩ := State.pwrFault_both (s := (s.pvddGone mv).flagRaise pdFlags 0x800 81)
    (fun c hc => by rw [hch c hc]; exact (h c hc).1) 4
  rw [← hend] at hboth hkept hframe
  obtain ⟨-, hkeeps⟩ := State.flagRaise_raises (s.pvddGone mv) pdFlags 0x800 81 hstores
  have hnow := faulted_congr ((htold.others.keeps .now rfl).trans (hgone.others.keeps .now rfl))
  refine ⟨_, run_power hs hp _, ?_, fun c hc => ?_, ?_, ?_, ?_, fun h95 => ?_, ?_, ?_⟩
  · rw [settle_pwr, hkept.pvdd, State.flagRaise_pwr]
    rfl
  · rw [settle_pwrCh, hboth c hc, hnow, hch c hc]
  · rw [settle_rcW, hframe.others.rcW rfl]
    exact State.flagRaise_bit hstores (by decide) (by decide) (by decide)
  · rw [settle_event, hframe.others.event rfl]
    exact State.flagRaise_event hstores _ _ 81 (by rw [hgone.member]; exact srcPresent_power hp (by decide))
  · rw [settle_pmu, hframe.others.keeps .pmu rfl, htold.others.keeps .pmu rfl]
    exact hpmu
  · obtain ⟨hbit, hevent⟩ := State.pvddOk_reports hs.1 h95
    rw [settle_rcW, settle_event, hframe.others.rcW rfl, hframe.others.event rfl]
    exact ⟨hkeeps _ _ hbit, hkeeps.event hevent⟩
  · have hgoneRc : RcOnly [0x3004, evtStat 95] s (s.pvddGone mv) := hrc
    exact ((hgoneRc.widen (by decide)).flagRaise (by decide) (by decide)).trans (hframe.others.rcOnly rfl)
  · exact (((hgone.others.widen (by decide)).trans (htold.others.widen (by decide))).trans
      (hframe.others.widen (by decide))).settled

end

/-! ### The link (R342, R343) -/

/-- A channel that is not in hard stop loses the link (R342). -/
def State.linkLostOne (s : State) (c : Nat) : State :=
  if (s.pwrCh c).st = 7 then s else (s.setPwrCh c { s.pwrCh c with retrying := false }).pwrFault c 5

/-- A channel after the link is lost, at the state's position. -/
def lostLink (s : State) (v : PwrCh) : PwrCh := if v.st = 7 then v else { faulted s v 5 with retrying := false }

section
variable {s : State}

theorem lostLink_congr {t : State} (h : t.tt.now = s.tt.now) : lostLink t = lostLink s := by
  funext v
  rw [lostLink, faulted_congr h]
  rfl

theorem State.linkLost_eq (hb : s.pwr.pbtl = false) : s.linkLost = (s.linkLostOne 0).linkLostOne 1 := by
  unfold State.linkLost
  rw [if_neg (by rw [hb]; decide)]
  rfl

theorem State.linkLostOne_spec (s : State) {c : Nat} (hc : c < 2) :
    (s.linkLostOne c).pwrCh c = lostLink s (s.pwrCh c) ∧ OtherChannel c s (s.linkLostOne c) ∧ StageKept s (s.linkLostOne c) ∧
      Follows [.mix, .pwr] s (s.linkLostOne c) := by
  unfold State.linkLostOne lostLink
  split
  · exact ⟨rfl, fun _ _ _ => rfl, rfl, .refl s⟩
  · have hset := s.setPwrCh_frame c { s.pwrCh c with retrying := false }
    have hch := s.setPwrCh_same c { s.pwrCh c with retrying := false }
    obtain ⟨hfault, hother, hkept, hframe⟩ := State.pwrFault_spec
      (s := s.setPwrCh c { s.pwrCh c with retrying := false }) hc (by rw [hch]) 5
    refine ⟨?_, (State.setPwrCh_other s hc _).trans hother, (s.setPwrCh_stageKept c _).trans hkept,
      (hset.widen (by decide)).trans hframe⟩
    rw [hfault, hch, faulted_congr (hset.others.keeps .now rfl)]
    rfl

theorem State.linkLost_spec (hb : s.pwr.pbtl = false) :
    (∀ c < 2, s.linkLost.pwrCh c = lostLink s (s.pwrCh c)) ∧ StageKept s s.linkLost ∧ Follows [.mix, .pwr] s s.linkLost := by
  obtain ⟨h0, o0, k0, f0⟩ := s.linkLostOne_spec (c := 0) (by decide)
  obtain ⟨h1, o1, k1, f1⟩ := (s.linkLostOne 0).linkLostOne_spec (c := 1) (by decide)
  rw [lostLink_congr (f0.others.keeps .now rfl)] at h1
  rw [State.linkLost_eq hb]
  exact ⟨pwrCh_both h0 o0 h1 o1, k0.trans k1, f0.trans f1⟩

variable (hs : Ready s) (hp : hasPower s.member = true)
include hs hp

/-- A transfer that fails before the sixteenth in a row is retried and counted (R343). -/
theorem linkTransferFail_retries (hl : s.pwr.linkHstop = false) (hn : s.pwr.linkFails < 15)
    (hctr : s.counter (pwrCtr 9) + 1 < ctrMax) :
    ∃ t, exec .linkTransferFail s = .next t ∧ t.pwr = { s.pwr with linkFails := s.pwr.linkFails + 1, linkWindow := true } ∧
      bitAt (t.rcW 0x80008) 1 = true ∧ t.counter (pwrCtr 9) = s.counter (pwrCtr 9) + 1 ∧ RcOnly [0x80008] s t ∧
      CountOnly [pwrCtr 9] s t ∧ LeavesAllBut [.rc, .count, .pwr] s t := by
  have hfail : s.linkFail =
      ({ s with pwr := { s.pwr with linkFails := s.pwr.linkFails + 1, linkWindow := true } }.bump (pwrCtr 9)).flag 0x80008 0x2 := by
    unfold State.linkFail
    rw [if_neg (by rw [hl]; decide), if_pos (by omega)]
  have hpwr := pwr_frame s { s.pwr with linkFails := s.pwr.linkFails + 1, linkWindow := true }
  obtain ⟨hcount, hbit, hrc, hcounts, hframe⟩ := State.bump_flag_spec (hpwr.stores hs.1) (b := 0x80008) (m := 0x2) (k := 1) hctr (by decide) (by decide)
  rw [← hfail] at hcount hbit hrc hcounts hframe
  exact ⟨_, run_power hs hp _, hframe.others.keeps .pwr rfl, hbit, hcount, hrc, hcounts,
    ((hpwr.others.widen (by decide)).trans (hframe.others.widen (by decide))).settled⟩

end

/-- The link in hard stop, before its channels lose it (R343). -/
def State.linkStopped (s : State) : State :=
  { s with pwr := { s.pwr with
      linkFails := s.pwr.linkFails + 1, linkWindow := true, linkHstop := true, link := false } }.enterHstop 6

theorem State.linkStopped_follows (s : State) : Follows [.rc, .hstop, .pwr] s s.linkStopped :=
  State.enterHstop_follows _ 6 (within (fun _ h => h) rfl) ((pwr_frame s _).widen (by decide))

theorem State.linkStopped_pwr (s : State) :
    s.linkStopped.pwr = { s.pwr with
      linkFails := s.pwr.linkFails + 1, linkWindow := true, linkHstop := true, link := false } := State.enterHstop_pwr _ 6

theorem State.linkStopped_pwrCh (s : State) (c : Nat) : s.linkStopped.pwrCh c = s.pwrCh c := by
  rw [State.pwrCh, State.linkStopped_pwr]
  rfl

section
variable {s : State} (hs : Ready s) (hp : hasPower s.member = true) (hb : s.pwr.pbtl = false)
include hs hp hb

/-- The sixteenth failure in a row hard-stops the link, and every channel that is not in hard stop loses it. -/
theorem linkTransferFail_hardStops (hl : s.pwr.linkHstop = false) (hn : s.pwr.linkFails = 15) :
    ∃ t, exec .linkTransferFail s = .next t ∧ t.pwr.linkHstop = true ∧ t.pwr.link = false ∧ t.reg.hstop.getLsbD 6 = true ∧
      t.event 84 = true ∧ (∀ c, c < 2 → (s.pwrCh c).st ≠ 7 → (t.pwrCh c).st = 5 ∧ (t.pwrCh c).fault = 5) ∧
      LeavesAllBut [.rc, .count, .hstop, .mix, .pwr] s t := by
  have hfail : s.linkFail = s.linkStopped.linkLost.raise 84 := by
    unfold State.linkFail
    rw [if_neg (by rw [hl]; decide), if_neg (by omega)]
    rfl
  have hstop := s.linkStopped_follows
  obtain ⟨hch, hkept, hlost⟩ := State.linkLost_spec (s := s.linkStopped) (by rw [State.linkStopped_pwr]; exact hb)
  have hraise := State.raise_frame s.linkStopped.linkLost 84
  have hmember := hlost.member.trans hstop.member
  refine ⟨_, run_power hs hp _, ?_, ?_, ?_, ?_, fun c hc hne => ?_,
    (State.linkFail_follows s (fun _ h => h) (.refl s)).others.settled⟩
  · rw [settle_pwr, hfail, State.raise_pwr, hkept.linkHstop, State.linkStopped_pwr]
  · rw [settle_pwr, hfail, State.raise_pwr, hkept.link, State.linkStopped_pwr]
  · rw [settle_reg, hfail, hraise.others.keeps .hstop rfl, hlost.others.keeps .hstop rfl]
    exact State.enterHstop_hstop _ (by decide)
  · rw [settle_event, hfail]
    exact State.raise_event (hlost.stores (hstop.stores hs.1)) 84 (by rw [hmember]; exact srcPresent_power hp (by decide))
  · rw [settle_pwrCh, hfail, hraise.others.pwrCh rfl, hch c hc, State.linkStopped_pwrCh, lostLink, if_neg hne]
    exact ⟨rfl, rfl⟩

/-- The power die without frames takes both channels to Hi-Z of itself (R342). -/
theorem powerDieSelfProtect_effect (hl : s.pwr.linkHstop = false) :
    ∃ t, exec .powerDieSelfProtect s = .next t ∧ t.event 84 = true ∧
      (∀ c, c < 2 → (s.pwrCh c).st ≠ 7 → t.pwrCh c = { faulted s (s.pwrCh c) 5 with retrying := false }) ∧
      (∀ c, c < 2 → (s.pwrCh c).st = 7 → t.pwrCh c = s.pwrCh c) ∧ RcOnly [evtStat 84] s t ∧
      LeavesAllBut [.rc, .mix, .pwr] s t := by
  have hprotect : s.selfProtect = s.linkLost.raise 84 := if_neg (by rw [hl]; decide)
  obtain ⟨hch, -, hlost⟩ := State.linkLost_spec hb
  have hraise := State.raise_frame s.linkLost 84
  rw [← hprotect] at hraise
  have hlostCh (c : Nat) (hc : c < 2) : (settle s.selfProtect).pwrCh c = lostLink s (s.pwrCh c) := by
    rw [settle_pwrCh, hraise.others.pwrCh rfl, hch c hc]
  refine ⟨_, run_power hs hp _, ?_, fun c hc hne => ?_, fun c hc he => ?_, ?_,
    ((hlost.others.widen (by decide)).trans (hraise.others.widen (by decide))).settled⟩
  · rw [settle_event, hprotect]
    exact State.raise_event (hlost.stores hs.1) 84 (by rw [hlost.member]; exact srcPresent_power hp (by decide))
  · rw [hlostCh c hc, lostLink, if_neg hne]
  · rw [hlostCh c hc, lostLink, if_pos he]
  · rw [hprotect]
    exact RcOnly.raise (hlost.others.rcOnly rfl) (by simp)

end

/-! ### Parity of the power die's words (R345) -/

/-- The state in which a word that fails parity faults the channels that use it. -/
def State.parityTold (s : State) (o : Nat) : State :=
  { s with pwr := { s.pwr with badWords := s.pwr.badWords.filter (· ≠ o) ++ [o] } }.flagRaise pdFlags 0x40000 84

section
variable {s : State} {o : Nat}

/-- A word of channel A's own takes that channel alone. -/
theorem State.regpar_channelA (hb : s.pwr.pbtl = false) (hlo : 0x100 ≤ o) (hhi : o < 0x180)
    (hact : pwrActive (s.pwrCh 0).st = true) : s.regpar o = (s.parityTold o).pwrFault 0 6 := by
  have husers : wordUsers o = [0] := by
    unfold wordUsers
    rw [if_neg (by omega), if_pos ⟨hlo, hhi⟩]
  have hhit : ((wordUsers o).map s.pwrUnit).dedup.filter (fun c => pwrActive (s.pwrCh c).st) = [0] := by
    rw [husers]
    simp [State.pwrUnit_self hb, hact]
  unfold State.regpar
  simp only [hhit]
  rfl

theorem regpar_effect (hs : Ready s) (hp : hasPower s.member = true) (hb : s.pwr.pbtl = false) (hlo : 0x100 ≤ o)
    (hhi : o < 0x180) (hact : pwrActive (s.pwrCh 0).st = true) (hr : (s.pwrCh 0).retrying = false) :
    ∃ t, exec (.regpar o) s = .next t ∧ t.pwrCh 0 = faulted s (s.pwrCh 0) 6 ∧ t.pwrCh 1 = s.pwrCh 1 ∧
      t.pwr.badWords = s.pwr.badWords.filter (· ≠ o) ++ [o] ∧ bitAt (t.rcW pdFlags) 18 = true ∧ t.event 84 = true ∧
      RcOnly [pdFlags, evtStat 84] s t ∧ LeavesAllBut [.rc, .mix, .pwr] s t := by
  have hpwr := pwr_frame s { s.pwr with badWords := s.pwr.badWords.filter (· ≠ o) ++ [o] }
  have hstores := hpwr.stores hs.1
  have htold := State.flagRaise_frame
    { s with pwr := { s.pwr with badWords := s.pwr.badWords.filter (· ≠ o) ++ [o] } } pdFlags 0x40000 84
  have hch (c : Nat) : (s.parityTold o).pwrCh c = s.pwrCh c := htold.others.pwrCh rfl c
  obtain ⟨hfault, hother, hkept, hframe⟩ := State.pwrFault_spec (s := s.parityTold o) (c := 0) (by decide)
    (by rw [hch]; exact hr) 6
  rw [← State.regpar_channelA hb hlo hhi hact] at hfault hother hkept hframe
  refine ⟨_, run_power hs hp _, ?_, ?_, ?_, ?_, ?_, ?_, ?_⟩
  · rw [settle_pwrCh, hfault, hch, faulted_congr (t := s.parityTold o) (s := s) (htold.others.keeps .now rfl)]
  · rw [settle_pwrCh, hother 1 (by decide) (by decide), hch]
  · rw [settle_pwr, hkept.badWords, State.parityTold, State.flagRaise_pwr]
  · rw [settle_rcW, hframe.others.rcW rfl]
    exact State.flagRaise_bit hstores (by decide) (by decide) (by decide)
  · rw [settle_event, hframe.others.event rfl]
    exact State.flagRaise_event hstores _ _ 84 (srcPresent_power hp (by decide))
  · exact ((hpwr.others.rcOnly rfl).flagRaise (by simp) (by simp)).trans (hframe.others.rcOnly rfl)
  · exact (((hpwr.others.widen (by decide)).trans (htold.others.widen (by decide))).trans
      (hframe.others.widen (by decide))).settled

end

/-- Settles O55: each cause is reported before the channels it names fault, and a fault writes one channel and mutes its sink. -/
theorem powerFaults : Obligations.PowerFaults := fun _ hs hp hb =>
  ⟨fun _ hc hst hr hctr => pwrOc_faults hs hp hb hc hst hr hctr,
    fun _ hc hst hr hmax hfails => pwrOc_hardStops hs hp hb hc hst hr hmax hfails,
    fun _ _ hc hx hact hr => pwrTherm_faults hs hp hb hc hx hact hr,
    fun _ hout h => pwrPvdd_effect hs hp hout h, linkTransferFail_retries hs hp, linkTransferFail_hardStops hs hp hb,
    powerDieSelfProtect_effect hs hp hb, fun _ hlo hhi hact hr => regpar_effect hs hp hb hlo hhi hact hr⟩

/-! ### Battery mute and estimates at a bound (R337, R339) -/

/-- One bit set in a word of four. -/
theorem getLsbD_or_twoPow (x : BitVec 4) {k : Nat} (hk : k < 4) (j : Nat) :
    (x ||| BitVec.ofNat 4 (2 ^ k)).getLsbD j = (x.getLsbD j || decide (k = j)) := by
  rw [BitVec.getLsbD_or, BitVec.getLsbD_ofNat, Nat.testBit_two_pow]
  by_cases h : k = j
  · simp [h, show j < 4 from h ▸ hk]
  · simp [h]

section
variable {s : State} {c : Nat} (hs : Ready s) (hp : hasPower s.member = true) (hc : c < 2)
include hs hp hc

/-- The supply below PVDD_MIN mutes the channel and is reported (R337). -/
theorem battMute_effect {mv : Nat} (hbatt : battF (s.chCfg c) = true) (hoff : (s.pwrCh c).battMute = false)
    (hmv : mv < 100 * pvddMin (s.pdW 0x28)) :
    ∃ t, exec (.battMute c mv) s = .next t ∧ t.pwrCh c = { s.pwrCh c with battMute := true } ∧ t.pwr.pvdd = mv ∧
      bitAt (t.rcW pdFlags) 10 = true ∧ t.event 80 = true ∧ OtherChannel c s t ∧ RcOnly [pdFlags, evtStat 80] s t ∧
      LeavesAllBut [.rc, .mix, .pwr] s t := by
  have hpvdd := pwr_frame s { s.pwr with pvdd := mv }
  have hset := State.setPwrCh_frame { s with pwr := { s.pwr with pvdd := mv } } c { s.pwrCh c with battMute := true }
  have hmute := State.muteOn_frame
    (State.setPwrCh { s with pwr := { s.pwr with pvdd := mv } } c { s.pwrCh c with battMute := true }) (mkPwr c) .battery s.arampLen
  have hon : s.battMuteOn c mv =
      ((State.setPwrCh { s with pwr := { s.pwr with pvdd := mv } } c { s.pwrCh c with battMute := true }).muteOn
        (mkPwr c) .battery s.arampLen).flagRaise pdFlags 0x400 80 := by
    unfold State.battMuteOn
    simp only [hbatt, hoff, hmv, decide_true, Bool.not_false, Bool.and_self, if_true]
    rfl
  have htold := State.flagRaise_frame
    ((State.setPwrCh { s with pwr := { s.pwr with pvdd := mv } } c { s.pwrCh c with battMute := true }).muteOn
      (mkPwr c) .battery s.arampLen) pdFlags 0x400 80
  have hstores := hmute.stores (hset.stores (hpvdd.stores hs.1))
  rw [← hon] at htold
  refine ⟨_, run_ch hs hp hc _, ?_, ?_, ?_, ?_, ?_, ?_,
    (State.battMuteOn_follows s c mv (fun _ h => h) (.refl s)).others.settled⟩
  · rw [settle_pwrCh, htold.others.pwrCh rfl, hmute.others.pwrCh rfl, State.setPwrCh_same]
  · rw [settle_pwr, htold.others.keeps .pwr rfl, hmute.others.keeps .pwr rfl, (State.setPwrCh_stageKept _ _ _).pvdd]
  · rw [settle_rcW, hon]
    exact State.flagRaise_bit hstores (by decide) (by decide) (by decide)
  · rw [settle_event, hon]
    exact State.flagRaise_event hstores _ _ 80
      (by rw [hmute.member, hset.member, hpvdd.member]; exact srcPresent_power hp (by decide))
  · have hother := State.setPwrCh_other { s with pwr := { s.pwr with pvdd := mv } } hc { s.pwrCh c with battMute := true }
    exact (hother.trans (hmute.others.otherChannel rfl)).trans (htold.others.otherChannel rfl)
  · rw [hon]
    exact RcOnly.flagRaise (((hpvdd.others.rcOnly rfl).trans (hset.others.rcOnly rfl)).trans (hmute.others.rcOnly rfl))
      (by simp) (by simp)

theorem battUnmute_effect {mv : Nat} (hon : (s.pwrCh c).battMute = true) (hmv : 100 * pvddMin (s.pdW 0x28) + 500 ≤ mv) :
    ∃ t, exec (.battUnmute c mv) s = .next t ∧ t.pwrCh c = { s.pwrCh c with battMute := false } ∧ t.pwr.pvdd = mv ∧
      OtherChannel c s t ∧ LeavesAllBut [.mix, .pwr] s t := by
  have hoff : s.battMuteOff c mv =
      (State.setPwrCh { s with pwr := { s.pwr with pvdd := mv } } c { s.pwrCh c with battMute := false }).muteOff
        (mkPwr c) .battery s.arampLen := by
    unfold State.battMuteOff
    simp only [hon, hmv, decide_true, Bool.and_self, if_true]
    rfl
  have hmute := State.muteOff_frame
    (State.setPwrCh { s with pwr := { s.pwr with pvdd := mv } } c { s.pwrCh c with battMute := false }) (mkPwr c) .battery s.arampLen
  rw [← hoff] at hmute
  refine ⟨_, run_ch hs hp hc _, ?_, ?_, ?_, (State.battMuteOff_follows s c mv (fun _ h => h) (.refl s)).others.settled⟩
  · rw [settle_pwrCh, hmute.others.pwrCh rfl, State.setPwrCh_same]
  · rw [settle_pwr, hmute.others.keeps .pwr rfl, (State.setPwrCh_stageKept _ _ _).pvdd]
  · have hother := State.setPwrCh_other { s with pwr := { s.pwr with pvdd := mv } } hc { s.pwrCh c with battMute := false }
    exact hother.trans (hmute.others.otherChannel rfl)

/-- An estimate at a bound is marked and reported (R339). -/
theorem pwrModel_effect {k : Nat} (hk : k < 4) :
    ∃ t, exec (.pwrModel c k) s = .next t ∧ (t.pwrCh c).atBound.getLsbD k = true ∧
      (∀ j, j ≠ k → (t.pwrCh c).atBound.getLsbD j = (s.pwrCh c).atBound.getLsbD j) ∧ bitAt (t.rcW pdFlags) 15 = true ∧
      t.event 83 = true ∧ OtherChannel c s t ∧ RcOnly [pdFlags, evtStat 83] s t ∧ LeavesAllBut [.rc, .pwr] s t := by
  have hset := s.setPwrCh_frame c { s.pwrCh c with atBound := (s.pwrCh c).atBound ||| BitVec.ofNat 4 (2 ^ k) }
  have htold := State.flagRaise_frame
    (s.setPwrCh c { s.pwrCh c with atBound := (s.pwrCh c).atBound ||| BitVec.ofNat 4 (2 ^ k) }) pdFlags 0x8000 83
  have hch : (s.pwrModel c k).pwrCh c = { s.pwrCh c with atBound := (s.pwrCh c).atBound ||| BitVec.ofNat 4 (2 ^ k) } :=
    (htold.others.pwrCh rfl c).trans (State.setPwrCh_same s c _)
  refine ⟨_, run_ch hs hp hc _, ?_, fun j hj => ?_, ?_, ?_, ?_, ?_,
    (State.pwrModel_follows s c k (fun _ h => h) (.refl s)).others.settled⟩
  · rw [settle_pwrCh, hch]
    exact (getLsbD_or_twoPow _ hk k).trans (by simp)
  · rw [settle_pwrCh, hch]
    exact (getLsbD_or_twoPow _ hk j).trans (by simp [hj.symm])
  · exact State.flagRaise_bit (hset.stores hs.1) (by decide) (by decide) (by decide)
  · exact State.flagRaise_event (hset.stores hs.1) _ _ 83 (by rw [hset.member]; exact srcPresent_power hp (by decide))
  · exact (State.setPwrCh_other s hc _).trans (htold.others.otherChannel rfl)
  · exact RcOnly.flagRaise (hset.others.rcOnly rfl) (by simp) (by simp)

end

/-! ### Reductions (R334, R337) -/

/-- A reduction on its way is nowhere above both its ends. -/
theorem reduction_le (old target free : Nat) : reduction old target free ≤ max old target := by
  unfold reduction
  split
  · exact Nat.zero_le _
  · exact Nat.le_of_lt_succ (Nat.mod_lt _ (Nat.succ_pos _))

/-- A channel with a reduction drawn for it. -/
def State.drawn (s : State) (c : Nat) (v : PwrCh) : State := s.fresh.2.setPwrCh c v

/-- What FOLD reports of a first thermal reduction. -/
def State.foldTold (s : State) (c g : Nat) : State :=
  (s.drawn c { s.pwrCh c with grTherm := g }).flagRaise pdFlags 0x1000 79

section
variable {s : State} {c : Nat}

theorem State.drawn_follows (s : State) (c : Nat) (v : PwrCh) : Follows [.pwr] s (s.drawn c v) :=
  State.setPwrCh_follows _ c v (fun _ h => h) (State.fresh_follows s (.refl s))

theorem State.drawn_other (s : State) (hc : c < 2) (v : PwrCh) : OtherChannel c s (s.drawn c v) :=
  State.setPwrCh_other s.fresh.2 hc v

/-- A die above FOLD with the flag unread: the reduction is reported, and the coil's with it where there is one. -/
theorem State.thermLimit_folds (hfold : 0 < thermTarget (s.pdW 0x30) (fld (s.pdW (chOff c + 0x44)) 24 8) (s.pwrCh c).dieTemp
      (Int.ofNat (10 * fld (s.pdW (chOff c + 0x44)) 24 8)))
    (hbit : bitAt (s.rcW pdFlags) 12 = false) :
    ∃ g, g ≤ max (s.pwrCh c).grTherm (thermTarget (s.pdW 0x30) (fld (s.pdW (chOff c + 0x44)) 24 8) (s.pwrCh c).dieTemp
        (s.pwrCh c).coilT) ∧
      (s.thermLimit c = s.foldTold c g ∨ s.thermLimit c = (s.foldTold c g).flag pdFlags 0x10000) := by
  refine ⟨_, reduction_le _ _ (Config.freeNat s.fresh.1), ?_⟩
  unfold State.thermLimit
  dsimp only
  rw [if_pos (show _ ∧ _ from ⟨hfold, by rw [hbit]; rfl⟩)]
  split
  · exact .inr rfl
  · exact .inl rfl

/-- A supply below KNEE: the reduction is flagged (R337). -/
theorem State.battLimit_draws {mv : Nat} (hbatt : battF (s.chCfg c) = true)
    (htarget : 0 < battTarget (s.pdW 0x28) (s.pdW 0x2C) mv) :
    ∃ g, g ≤ max (s.pwrCh c).grBatt (battTarget (s.pdW 0x28) (s.pdW 0x2C) mv) ∧
      s.battLimit c mv = (s.drawn c { s.pwrCh c with grBatt := g }).flag pdFlags 0x200 := by
  refine ⟨_, reduction_le _ _ (Config.freeNat s.fresh.1), ?_⟩
  unfold State.battLimit
  dsimp only
  rw [if_pos hbatt, if_pos htarget]
  rfl

theorem State.foldTold_spec (hs : StoresOk s) (hp : hasPower s.member = true) (hc : c < 2) (g : Nat) :
    let t := s.foldTold c g
    t.pwrCh c = { s.pwrCh c with grTherm := g } ∧ bitAt (t.rcW pdFlags) 12 = true ∧ t.event 79 = true ∧ OtherChannel c s t ∧
      RcOnly [pdFlags, evtStat 79] s t ∧ Follows [.rc, .pwr] s t := by
  have hdrawn := s.drawn_follows c { s.pwrCh c with grTherm := g }
  have htold := State.flagRaise_frame (s.drawn c { s.pwrCh c with grTherm := g }) pdFlags 0x1000 79
  exact ⟨(htold.others.pwrCh rfl c).trans (State.setPwrCh_same _ c _),
    State.flagRaise_bit (hdrawn.stores hs) (by decide) (by decide) (by decide),
    State.flagRaise_event (hdrawn.stores hs) _ _ 79 (by rw [hdrawn.member]; exact srcPresent_power hp (by decide)),
    (s.drawn_other hc _).trans (htold.others.otherChannel rfl),
    RcOnly.flagRaise (hdrawn.others.rcOnly rfl) (by simp) (by simp), (hdrawn.widen (by decide)).trans (htold.widen (by decide))⟩

variable (hs : Ready s) (hp : hasPower s.member = true) (hc : c < 2)
include hs hp hc

theorem thermalFoldback_effect {x : Int} (hfold : 0 < thermTarget (s.pdW 0x30) (fld (s.pdW (chOff c + 0x44)) 24 8) x
      (Int.ofNat (10 * fld (s.pdW (chOff c + 0x44)) 24 8)))
    (hbit : bitAt (s.rcW pdFlags) 12 = false) :
    ∃ t, exec (.thermalFoldback c x) s = .next t ∧ (t.pwrCh c).dieTemp = x ∧ bitAt (t.rcW pdFlags) 12 = true ∧
      t.event 79 = true ∧ OtherChannel c s t ∧ RcOnly [pdFlags, evtStat 79] s t ∧ LeavesAllBut [.rc, .pwr] s t ∧
      (t.pwrCh c).grTherm ≤ max (s.pwrCh c).grTherm
        (thermTarget (s.pdW 0x30) (fld (s.pdW (chOff c + 0x44)) 24 8) x (s.pwrCh c).coilT) := by
  have hset := s.setPwrCh_frame c { s.pwrCh c with dieTemp := x }
  have hch := s.setPwrCh_same c { s.pwrCh c with dieTemp := x }
  have hpd (o : Nat) : (s.setPwrCh c { s.pwrCh c with dieTemp := x }).pdW o = s.pdW o := hset.others.inForceW rfl _
  obtain ⟨g, hg, hlimit⟩ := State.thermLimit_folds (s := s.setPwrCh c { s.pwrCh c with dieTemp := x }) (c := c)
    (by rw [hpd, hpd, hch]; exact hfold) (by rw [hset.others.rcW rfl]; exact hbit)
  rw [hpd, hpd, hch] at hg
  obtain ⟨hfolded, h12, h79, hother, hrc, hframe⟩ := State.foldTold_spec (hset.stores hs.1) (hset.member ▸ hp) hc g
  have hcoil := State.flag_frame (State.foldTold (s.setPwrCh c { s.pwrCh c with dieTemp := x }) c g) pdFlags 0x10000
  have hend : RcOnly [pdFlags, evtStat 79] (State.foldTold (s.setPwrCh c { s.pwrCh c with dieTemp := x }) c g) (s.foldback c x) ∧
      KeepsBits (State.foldTold (s.setPwrCh c { s.pwrCh c with dieTemp := x }) c g) (s.foldback c x) ∧
      Follows [.rc] (State.foldTold (s.setPwrCh c { s.pwrCh c with dieTemp := x }) c g) (s.foldback c x) := by
    unfold State.foldback State.modPwrCh
    obtain hlimit | hlimit := hlimit <;> rw [hlimit]
    · exact ⟨.refl _ _, .refl _, .refl _⟩
    · exact ⟨(RcOnly.refl _ _).flag (by simp), State.flag_keepsBits (hframe.stores (hset.stores hs.1)) _ _, hcoil⟩
  obtain ⟨hendRc, hkeeps, hendFrame⟩ := hend
  have hchEnd : (settle (s.foldback c x)).pwrCh c = { s.pwrCh c with dieTemp := x, grTherm := g } := by
    rw [settle_pwrCh, hendFrame.others.pwrCh rfl, hfolded, hch]
  refine ⟨_, run_ch hs hp hc _, by rw [hchEnd], hkeeps _ _ h12, hkeeps.event h79, ?_, ?_, ?_, by rw [hchEnd]; exact hg⟩
  · exact ((State.setPwrCh_other s hc _).trans hother).trans (hendFrame.others.otherChannel rfl)
  · exact ((hset.others.rcOnly rfl).trans hrc).trans hendRc
  · exact (((hset.others.widen (by decide)).trans hframe.others).trans (hendFrame.others.widen (by decide))).settled

theorem batteryLimit_effect {mv : Nat} (hbatt : battF (s.chCfg c) = true) (htarget : 0 < battTarget (s.pdW 0x28) (s.pdW 0x2C) mv) :
    ∃ t, exec (.batteryLimit c mv) s = .next t ∧ t.pwr.pvdd = mv ∧ bitAt (t.rcW pdFlags) 9 = true ∧ OtherChannel c s t ∧
      (t.pwrCh c).grBatt ≤ max (s.pwrCh c).grBatt (battTarget (s.pdW 0x28) (s.pdW 0x2C) mv) ∧ RcOnly [pdFlags] s t ∧
      LeavesAllBut [.rc, .pwr] s t := by
  have hpvdd := pwr_frame s { s.pwr with pvdd := mv }
  obtain ⟨g, hg, hlimit⟩ : ∃ g, g ≤ max (s.pwrCh c).grBatt (battTarget (s.pdW 0x28) (s.pdW 0x2C) mv) ∧
      s.batteryLimit c mv =
        (State.drawn { s with pwr := { s.pwr with pvdd := mv } } c { s.pwrCh c with grBatt := g }).flag pdFlags 0x200 :=
    State.battLimit_draws (s := { s with pwr := { s.pwr with pvdd := mv } }) hbatt htarget
  have hdrawn := State.drawn_follows { s with pwr := { s.pwr with pvdd := mv } } c { s.pwrCh c with grBatt := g }
  have hflag := State.flag_frame (State.drawn { s with pwr := { s.pwr with pvdd := mv } } c { s.pwrCh c with grBatt := g })
    pdFlags 0x200
  have hother := State.drawn_other { s with pwr := { s.pwr with pvdd := mv } } hc { s.pwrCh c with grBatt := g }
  have hch : (settle (s.batteryLimit c mv)).pwrCh c = { s.pwrCh c with grBatt := g } := by
    rw [settle_pwrCh, hlimit, hflag.others.pwrCh rfl]
    exact State.setPwrCh_same _ c _
  refine ⟨_, run_ch hs hp hc _, ?_, ?_, ?_, by rw [hch]; exact hg, ?_,
    (State.batteryLimit_follows s c mv (fun _ h => h) (.refl s)).others.settled⟩
  · rw [settle_pwr, hlimit, hflag.others.keeps .pwr rfl]
    exact (State.setPwrCh_stageKept _ c _).pvdd
  · rw [settle_rcW, hlimit, State.flag_rcW (hdrawn.stores (hpvdd.stores hs.1)), if_pos rfl]
    exact bitAt_or _ 9 _ (by decide) (by decide)
  · rw [hlimit]
    exact OtherChannel.trans hother (hflag.others.otherChannel rfl)
  · rw [hlimit]
    exact ((hpvdd.others.rcOnly rfl).trans (hdrawn.others.rcOnly rfl)).flag (by simp)

end

/-- Settles O56: a mute and a bound write one channel and report it; a reduction is a free value below both its ends. -/
theorem powerLimits : Obligations.PowerLimits := fun _ _ hs hp hc =>
  ⟨fun _ hbatt hoff hmv => battMute_effect hs hp hc hbatt hoff hmv, fun _ hon hmv => battUnmute_effect hs hp hc hon hmv,
    fun _ hfold hbit => thermalFoldback_effect hs hp hc hfold hbit,
    fun _ hbatt htarget => batteryLimit_effect hs hp hc hbatt htarget, fun _ hk => pwrModel_effect hs hp hc hk⟩

end Sys2Proof.Machine

/-! SUPPORT. Paired operation: what a unit sends and how it becomes STANDBY or STALE, what PAIR_CTL commands, and what a tablet
does to the unit it names (R347 to R370). -/

namespace Sys2Proof.Machine

/-! ### Reports and staleness (R359, R360) -/

section
variable {s t : State}

theorem run_pair (hs : Ready s) (hp : hasPair s.member = true) (t : State) : run s (s.onPair t) = .next (settle t) :=
  (run_ready hs _).trans (by rw [State.onPair, if_pos hp])

theorem srcPresent_pair {m : Member} (h : hasPair m = true) {n : Nat} (hn : 86 ≤ n ∧ n ≤ 91) : srcPresent m n = true := by
  obtain ⟨hlo, hhi⟩ := hn
  interval_cases n <;> exact h

/-- A message goes into the ports' queues and changes nothing of the pair. -/
theorem State.sendTab_frame (s : State) (msg lease leaseEnd lag : Nat) :
    Follows [.rc, .count, .macA, .macB] s (s.sendTab msg lease leaseEnd lag) :=
  State.sendTab_follows s msg lease leaseEnd lag (fun _ h => h) (.refl s)

theorem State.sendTab_pair (s : State) (msg lease leaseEnd lag : Nat) : (s.sendTab msg lease leaseEnd lag).pair = s.pair :=
  (s.sendTab_frame msg lease leaseEnd lag).others.keeps .pair rfl

/-- The report of a unit without a tablet starts its count again. -/
theorem State.sendReport_pair (h : s.shadowed = true) :
    s.sendReport.pair = { s.pair with renewIn := renewF s.pairCfg } := by
  have hcfg (msg lease leaseEnd lag : Nat) : (s.sendTab msg lease leaseEnd lag).pairCfg = s.pairCfg :=
    (s.sendTab_frame msg lease leaseEnd lag).others.appliedW rfl _
  unfold State.sendReport
  rw [if_pos h, State.modPair, State.sendTab_pair]

theorem State.sendReport_frame (s : State) : Follows [.rc, .count, .macA, .macB, .pair] s s.sendReport :=
  State.sendReport_follows s (fun _ h => h) (.refl s)

end

/-- A unit without a tablet that is STALE for a cause, or STANDBY for none. -/
def Pair.staled (v : Pair) (w : Nat) : Pair := { v with st := if w = 0 then 1 else 2, why := w }

/-- A unit that becomes STALE is reported and reports itself (R359, R360). -/
def State.staleTold (s : State) : State := ((s.modPair (·.staled s.staleWhy)).flagRaise pairFlags 0x1 86).sendReport

section
variable {s : State}

theorem State.restale_standby (h : s.pair.st = 1) :
    s.restale = if s.staleWhy = 0 then s.modPair (·.staled 0) else s.staleTold := by
  unfold State.restale State.staleTold Pair.staled
  by_cases hw : s.staleWhy = 0 <;> simp [h, hw]

theorem State.shadowed_of_staled {w : Nat} (h : s.pair.st = if w = 0 then 1 else 2) : s.shadowed = true := by
  unfold State.shadowed State.holder
  rw [h]
  split <;> rfl

theorem State.staleTold_pair (s : State) :
    s.staleTold.pair = { s.pair.staled s.staleWhy with renewIn := renewF s.pairCfg } := by
  have htold := (State.flagRaise_others (s.modPair (·.staled s.staleWhy)) pairFlags 0x1 86)
  have hcfg : ((s.modPair (·.staled s.staleWhy)).flagRaise pairFlags 0x1 86).pairCfg = s.pairCfg := htold.appliedW rfl _
  unfold State.staleTold
  rw [State.sendReport_pair (State.shadowed_of_staled (by rw [State.flagRaise_pair]; rfl)), hcfg, State.flagRaise_pair]
  rfl

/-- A unit becomes STANDBY, or at once STALE, and reports itself. -/
theorem State.standBy_eq (s : State) :
    s.standBy = if s.staleWhy = 0 then (s.modPair (·.staled 0)).sendReport else (s.modPair (fun v => { v with st := 1 })).staleTold := by
  have hwhy : (s.modPair (fun v => { v with st := 1 })).staleWhy = s.staleWhy := rfl
  unfold State.standBy
  rw [State.restale_standby rfl, hwhy]
  split
  · exact if_pos rfl
  · rename_i h
    refine if_neg fun k => h ?_
    rw [State.staleTold_pair, hwhy] at k
    by_contra hne
    exact absurd ((if_neg hne).symm.trans k) (by decide)

/-- What a unit that becomes STANDBY or STALE holds. -/
theorem State.standBy_pair (s : State) :
    s.standBy.pair = { s.pair.staled s.staleWhy with renewIn := renewF s.pairCfg } := by
  rw [State.standBy_eq]
  split
  · rename_i h
    rw [State.sendReport_pair (State.shadowed_of_staled (w := 0) rfl), h]
    rfl
  · rw [State.staleTold_pair]
    rfl

theorem State.staleTold_flagged (hs : StoresOk s) (hp : hasPair s.member = true) :
    bitAt (s.staleTold.rcW pairFlags) 0 = true ∧ s.staleTold.event 86 = true := by
  have hset := (s.modPair_frame (·.staled s.staleWhy)).stores hs
  have htold := State.flagRaise_frame (s.modPair (·.staled s.staleWhy)) pairFlags 0x1 86
  obtain ⟨-, hkeeps⟩ := State.sendReport_raises ((s.modPair (·.staled s.staleWhy)).flagRaise pairFlags 0x1 86) (htold.stores hset)
  exact ⟨hkeeps _ _ (State.flagRaise_bit hset (by decide) (by decide) (by decide)),
    hkeeps.event (State.flagRaise_event hset _ _ 86 (srcPresent_pair hp (by decide)))⟩

/-- A unit that becomes STALE is flagged with its event (R359). -/
theorem State.standBy_flagged (hs : StoresOk s) (hp : hasPair s.member = true) (h : s.staleWhy ≠ 0) :
    bitAt (s.standBy.rcW pairFlags) 0 = true ∧ s.standBy.event 86 = true := by
  rw [State.standBy_eq, if_neg h]
  exact State.staleTold_flagged ((s.modPair_frame (fun v => { v with st := 1 })).stores hs) hp

/-- A unit whose state is whole, with the link up, is not stale (R359). -/
theorem State.staleWhy_fresh (hlink : s.pair.link = true) (hmark : s.pair.mpoint = none) (hcfg : s.pair.cfgDiff = false)
    (hrefresh : s.pair.refreshOut = false) : s.staleWhy = 0 := by
  have hlag : s.pairLag = 0 := by
    unfold State.pairLag
    rw [hmark]
  unfold State.staleWhy
  simp [hlink, hcfg, hrefresh, hlag]

end

/-! ### PAIR_CTL and entry into pair mode (R347, R358 to R360, R368, R370) -/

section
variable {s : State} (hs : Ready s) (hp : hasPair s.member = true)
include hs hp

theorem enter_effect (q : Req) :
    ∃ t, exec (.enter q) s = .next t ∧ t.pair = { s.pair with reqEnter := true } ∧ LeavesAllBut [.pair] s t := by
  refine ⟨_, run_ready hs _, ?_⟩
  rw [State.ctl_pair s q 1 hp]
  exact ⟨rfl, (s.modPair_frame _).others.settled⟩

theorem release_effect (q : Req) :
    ∃ t, exec (.release q) s = .next t ∧ t.pair = { s.pair with reqRelease := true } ∧ LeavesAllBut [.pair] s t := by
  refine ⟨_, run_ready hs _, ?_⟩
  rw [State.ctl_pair s q 2 hp]
  exact ⟨rfl, (s.modPair_frame _).others.settled⟩

theorem report_effect (q : Req) (hsh : s.shadowed = true) :
    ∃ t, exec (.report q) s = .next t ∧ t.pair = { s.pair with renewIn := renewF s.pairCfg } ∧
      LeavesAllBut [.rc, .count, .macA, .macB, .pair] s t := by
  have hctl : s.ctl q 0x88008 4 = s.sendReport := State.ctl_pair s q 4 hp
  refine ⟨_, run_ready hs _, ?_⟩
  rw [hctl]
  exact ⟨State.sendReport_pair hsh, s.sendReport_frame.others.settled⟩

theorem refresh_effect (q : Req) (hh : s.holder = true) :
    ∃ t, exec (.refresh q) s = .next t ∧ t.pair = { s.pair with refresh := s.refreshRecs } ∧ LeavesAllBut [.pair] s t := by
  have hctl : s.ctl q 0x88008 8 = s.modPair (fun v => { v with refresh := s.refreshRecs }) :=
    (State.ctl_pair s q 8 hp).trans (if_pos hh)
  refine ⟨_, run_ready hs _, ?_⟩
  rw [hctl]
  exact ⟨rfl, (s.modPair_frame _).others.settled⟩

theorem undark_effect (q : Req) (hst : s.pair.st = 5) :
    ∃ t, exec (.undark q) s = .next t ∧ t.pair.st = (if s.staleWhy = 0 then 1 else 2) ∧ t.pair.why = s.staleWhy ∧
      (s.staleWhy ≠ 0 → bitAt (t.rcW pairFlags) 0 = true ∧ t.event 86 = true) ∧
      LeavesAllBut [.rc, .count, .macA, .macB, .pair] s t := by
  have hctl : s.ctl q 0x88008 16 = s.standBy := (State.ctl_pair s q 16 hp).trans (if_pos hst)
  refine ⟨settle s.standBy, by rw [← hctl]; exact run_ready hs _, ?_, ?_, State.standBy_flagged hs.1 hp,
    (State.standBy_follows s (fun _ h => h) (.refl s)).others.settled⟩
  · rw [settle_pair, State.standBy_pair]
    rfl
  · rw [settle_pair, State.standBy_pair]
    rfl

/-- A refused entry leaves its cause and nothing else (R347). -/
theorem pairModeEntry_refused (hreq : s.pair.reqEnter = true) (hcause : s.enterCause ≠ 0) :
    ∃ t, exec .pairModeEntry s = .next t ∧ t.pair = { s.pair with reqEnter := false, refuse := s.enterCause } ∧
      LeavesAllBut [.pair] s t := by
  have hentry : s.pairEntry = s.modPair (fun v => { v with reqEnter := false, refuse := s.enterCause }) := by
    unfold State.pairEntry
    rw [if_pos hreq]
    exact if_pos hcause
  refine ⟨_, run_pair hs hp _, ?_⟩
  rw [hentry]
  exact ⟨rfl, (s.modPair_frame _).others.settled⟩

end

/-- A unit that enters pair mode, fenced and without a tablet, before it reports itself (R347). -/
def State.entered (s : State) : State :=
  ((s.modPair (fun v => { v with
    reqEnter := false, st := 1, driving := false, renewIn := renewF s.pairCfg, mpoint := none, lapsed := false })).fenceOn).pwrDrive false

section
variable {s : State}

theorem State.entered_pair (s : State) :
    s.entered.pair = { s.pair with
      reqEnter := false, st := 1, driving := false, renewIn := renewF s.pairCfg, mpoint := none, lapsed := false } :=
  (State.pwrDrive_follows (lp := [.mix, .pwr]) _ false (within (fun _ h => h) rfl)
    (State.fenceOn_follows _ (within (fun _ h => h) rfl) (.refl _))).others.keeps .pair rfl

theorem State.pairEntry_enters (hreq : s.pair.reqEnter = true) (hcause : s.enterCause = 0) : s.pairEntry = s.entered.standBy := by
  unfold State.pairEntry
  rw [if_pos hreq]
  exact if_neg fun h => h hcause

theorem pairModeEntry_enters (hs : Ready s) (hp : hasPair s.member = true) (hreq : s.pair.reqEnter = true)
    (hcause : s.enterCause = 0) (hlink : s.pair.link = true) (hcfg : s.pair.cfgDiff = false) (hout : s.pair.refreshOut = false) :
    ∃ t, exec .pairModeEntry s = .next t ∧ t.pair.st = 1 ∧ t.pair.driving = false ∧ t.pair.reqEnter = false ∧
      t.fenced = true ∧ t.pair.mpoint = none ∧ t.pair.link = true ∧
      LeavesAllBut [.rc, .count, .mix, .macA, .macB, .pwr, .pair] s t := by
  have hfresh : s.entered.staleWhy = 0 := by
    apply State.staleWhy_fresh <;> rw [State.entered_pair]
    · exact hlink
    · exact hcfg
    · exact hout
  have hpair : s.pairEntry.pair = { s.entered.pair.staled 0 with renewIn := renewF s.entered.pairCfg } := by
    rw [State.pairEntry_enters hreq hcause, State.standBy_pair, hfresh]
  rw [State.entered_pair] at hpair
  refine ⟨settle s.pairEntry, run_pair hs hp _, ?_, ?_, ?_, ?_, ?_, ?_,
    (State.pairEntry_follows s (fun _ h => h) (.refl s)).others.settled⟩
  · rw [settle_pair, hpair]; rfl
  · rw [settle_pair, hpair]; rfl
  · rw [settle_pair, hpair]; rfl
  · rw [State.fenced, settle_pair, hpair]; rfl
  · rw [settle_pair, hpair]; rfl
  · rw [settle_pair, hpair]; exact hlink

end

/-- Settles O57: each bit of PAIR_CTL is one operation, and a unit that stands by holds the cause its staleness has. -/
theorem pairCommands : Obligations.PairCommands := fun _ q hs hp =>
  ⟨enter_effect hs hp q, release_effect hs hp q, report_effect hs hp q, refresh_effect hs hp q, undark_effect hs hp q,
    pairModeEntry_refused hs hp, pairModeEntry_enters hs hp⟩

/-! ### Tablets (R361 to R364, R370) -/

section
variable {s : State}

/-- A tablet message of a kind but RELEASE goes to the unit as it came. -/
theorem State.tabletRx_taken {b : List Byte} {msg : Nat} (h : TabletFor s b msg) (grains : Nat) :
    s.tabletRx b false grains =
      if msg = 2 then
        (if natBE (slice b 4 1) = s.pairUnit then s.grantOwn (natBE (slice b 24 4)) (natBE (slice b 16 8)) grains
          else s.grantOther (natBE (slice b 24 4)))
      else if msg = 4 ∧ (natBE (slice b 1 1)).testBit 5 then s.goDark else s := by
  obtain ⟨hst, hok, hmsg⟩ := h
  unfold State.tabletRx
  simp only [hst, hok, hmsg, if_false, Bool.not_true, Bool.or_self, Bool.false_eq_true]

variable (hs : Ready s) (hp : hasPair s.member = true)
include hs hp

/-- A grant of the unit's own that is newer and late enough is accepted (R361). -/
theorem grant_accepted {b : List Byte} {grains : Nat} (htab : TabletFor s b 2) (hunit : natBE (slice b 4 1) = s.pairUnit)
    (hst : s.pair.st = 1) (hnew : genNewer (natBE (slice b 24 4)) s.pair.gen = true) (hmul : natBE (slice b 16 8) % s.T = 0)
    (hlate : s.tt.now * 65536 + grains + 3 * s.T * 65536 ≤ natBE (slice b 16 8) * 65536) :
    ∃ t, exec (.grant b false grains) s = .next t ∧
      t.pair = { s.pair with gen := natBE (slice b 24 4), lease := natBE (slice b 16 8), grant := true } ∧
      bitAt (t.rcW pairFlags) 1 = true ∧ t.event 87 = true ∧ RcOnly [pairFlags, evtStat 87] s t ∧
      LeavesAllBut [.rc, .pair] s t := by
  have htwo : tabMsg b = 2 := htab.2.2
  have hown : s.grantOwn (natBE (slice b 24 4)) (natBE (slice b 16 8)) grains =
      (s.modPair (fun v => { v with gen := natBE (slice b 24 4), lease := natBE (slice b 16 8), grant := true })).flagRaise
        pairFlags 0x2 87 := by
    unfold State.grantOwn
    simp [hnew, hmul, hlate, hst, State.modPair]
  have hgrant : (if tabMsg b = 4 then s else s.tabletRx b false grains) =
      (s.modPair (fun v => { v with gen := natBE (slice b 24 4), lease := natBE (slice b 16 8), grant := true })).flagRaise
        pairFlags 0x2 87 := by
    rw [if_neg (by rw [htwo]; decide), State.tabletRx_taken htab, if_pos rfl, if_pos hunit, hown]
  have hset := s.modPair_frame (fun v => { v with gen := natBE (slice b 24 4), lease := natBE (slice b 16 8), grant := true })
  have htold := State.flagRaise_frame
    (s.modPair (fun v => { v with gen := natBE (slice b 24 4), lease := natBE (slice b 16 8), grant := true })) pairFlags 0x2 87
  refine ⟨_, run_pair hs hp _, ?_⟩
  rw [hgrant]
  exact ⟨htold.others.keeps .pair rfl, State.flagRaise_bit (hset.stores hs.1) (by decide) (by decide) (by decide),
    State.flagRaise_event (hset.stores hs.1) _ _ 87 (srcPresent_pair hp (by decide)),
    (hset.others.rcOnly rfl).flagRaise (by simp) (by simp),
    ((hset.others.widen (by decide)).trans (htold.others.widen (by decide))).settled⟩

/-- A RELEASE with DARK makes the unit DARK, to stop at the boundary where it drives (R370). -/
theorem releaseRx_darkens {b : List Byte} (htab : TabletFor s b 4) (hdark : (natBE (slice b 1 1)).testBit 5 = true)
    (hst : s.pair.st ≠ 5) :
    ∃ t, exec (.releaseRx b false) s = .next t ∧ t.pair.st = 5 ∧ t.pair.grant = false ∧ t.pair.stopDue = s.pair.driving ∧
      bitAt (t.rcW pairFlags) 2 = true ∧ t.event 88 = true ∧ LeavesAllBut [.rc, .count, .macA, .macB, .pair] s t := by
  have hfour : tabMsg b = 4 := htab.2.2
  have hdarkEq : s.goDark = ((s.modPair (fun v => { v with st := 5, grant := false, stopDue := v.driving, why := 0 })).flagRaise
      pairFlags 0x4 88).sendReport := if_neg hst
  have hrelease : (if tabMsg b = 4 then s.tabletRx b false 0 else s) = s.goDark := by
    rw [if_pos hfour, State.tabletRx_taken htab, if_neg (by decide), if_pos ⟨rfl, hdark⟩]
  have hset := s.modPair_frame (fun v => { v with st := 5, grant := false, stopDue := v.driving, why := 0 })
  have htold := State.flagRaise_frame
    (s.modPair (fun v => { v with st := 5, grant := false, stopDue := v.driving, why := 0 })) pairFlags 0x4 88
  obtain ⟨-, hkeeps⟩ := State.sendReport_raises ((s.modPair (fun v => { v with
    st := 5, grant := false, stopDue := v.driving, why := 0 })).flagRaise pairFlags 0x4 88) (htold.stores (hset.stores hs.1))
  have hpair : s.goDark.pair = { s.pair with
      st := 5, grant := false, stopDue := s.pair.driving, why := 0, renewIn := s.goDark.pair.renewIn } := by
    rw [hdarkEq, State.sendReport_pair (by unfold State.shadowed State.holder; rw [State.flagRaise_pair]; rfl),
      State.flagRaise_pair]
    rfl
  rw [← hdarkEq] at hkeeps
  refine ⟨settle s.goDark, by rw [← hrelease]; exact run_pair hs hp _, ?_, ?_, ?_,
    hkeeps _ _ (State.flagRaise_bit (hset.stores hs.1) (by decide) (by decide) (by decide)),
    hkeeps.event (State.flagRaise_event (hset.stores hs.1) _ _ 88 (srcPresent_pair hp (by decide))),
    (State.goDark_follows s (fun _ h => h) (.refl s)).others.settled⟩
  · rw [settle_pair, hpair]
  · rw [settle_pair, hpair]
  · rw [settle_pair, hpair]

/-- A unit in TAKEOVER drives one tick after it has adopted its tablet (R349). -/
theorem driveStart_drives (hst : s.pair.st = 3) (hlater : s.tt.now ≠ s.pair.adoptAt) (htook : s.pair.tookStale = false) :
    ∃ t, exec .driveStart s = .next t ∧ t.pair = { s.pair with st := 4, driving := true } ∧ t.fenced = false ∧
      LeavesAllBut [.mix, .pwr, .pair] s t := by
  have hdrive : s.driveStart =
      ((s.modPair (fun v => { v with st := 4, driving := true, tookStale := false })).fenceOff).pwrDrive true := by
    unfold State.driveStart
    rw [if_pos ⟨hst, hlater⟩]
    exact if_neg (by rw [htook]; decide)
  have hunits : Follows [.mix, .pwr] (s.modPair (fun v => { v with st := 4, driving := true, tookStale := false })) s.driveStart := by
    rw [hdrive]
    exact State.pwrDrive_follows _ true (fun _ h => h) (State.fenceOff_follows _ (within (fun _ h => h) rfl) (.refl _))
  have hpair : s.driveStart.pair = { s.pair with st := 4, driving := true } := by
    rw [hunits.others.keeps .pair rfl, ← htook]
    rfl
  refine ⟨_, run_pair hs hp _, hpair, ?_, ?_⟩
  · rw [State.fenced, settle_pair, hpair]
    rfl
  · exact (((s.modPair_frame _).others.widen (by decide)).trans (hunits.others.widen (by decide))).settled

end

/-! ### Counters that other counts leave alone (R113) -/

/-- A count leaves every other counter as it was. -/
theorem State.countBy_otherCounter (s : State) {a b : Nat} (n : Nat) (h : b ≠ a) : (s.countBy a n).counter b = s.counter b := by
  unfold State.countBy
  split
  · rfl
  · split
    · exact sget_sset_other s.reg.count _ h
    · exact ((s.setCounter a ctrMax).raise_others 13).counter rfl b |>.trans (sget_sset_other s.reg.count _ h)

/-- A frame handed to a port counts on that port alone. -/
theorem State.enqueue_otherCounter (s : State) {p q b : Nat} (f : TxFrame) (h : b ≠ macCtr p 4) :
    (s.enqueue p q f).counter b = s.counter b := by
  have hqueue : (s.setQueue p q (s.queue p q ++ [f])).counter b = s.counter b :=
    (State.setQueue_follows s p q _ (fun _ h => h) (.refl s)).others.counter rfl b
  unfold State.enqueue
  split
  · split
    · exact hqueue
    · rfl
  · split
    · rfl
    · exact s.countBy_otherCounter 1 h

/-- A message counts only where a port that is down discards it. -/
theorem State.sendTab_pairCounter (s : State) (msg lease leaseEnd lag c : Nat) :
    (s.sendTab msg lease leaseEnd lag).counter (pairCtr c) = s.counter (pairCtr c) := by
  have hports (ports : List Nat) (f : State → Nat → TxFrame) (hsub : ∀ p ∈ ports, p < 16) (t : State) :
      (ports.foldl (fun t p => t.enqueue p 1 (f t p)) t).counter (pairCtr c) = t.counter (pairCtr c) := by
    induction ports generalizing t with
    | nil => rfl
    | cons p ports ih =>
      have hne : pairCtr c ≠ macCtr p 4 := by
        have := hsub p (by simp)
        unfold pairCtr macCtr macBase
        omega
      exact (ih (fun q hq => hsub q (List.mem_cons_of_mem _ hq)) _).trans (t.enqueue_otherCounter _ hne)
  refine hports s.tabPorts _ (fun p hp => ?_) s
  have := (List.mem_filter.mp hp).1
  fin_cases this <;> decide

/-! ### Adoption and the fence at E - T (R362, R364) -/

/-- The pair of a unit that has adopted its tablet at `now` (R362). -/
def Pair.adopted (v : Pair) (now : Nat) : Pair :=
  { v with
    grant := false, st := 3, adoptAt := now, tookStale := decide (v.st = 2), lapsed := false, why := 0,
    recs := [], refresh := [], sent := [], blocks := [], acked := 0, rxDone := true }

/-- The pair of a unit that has given up its tablet and stands by on its own state (R364). -/
def Pair.lapse (v : Pair) : Pair :=
  { v with
    driving := false, stopDue := false, reqRelease := false, grant := false, tookStale := false, lapsed := true,
    mpoint := none, rxDone := true, why := 0, st := if v.st = 5 then 5 else 1 }

section
variable {s : State}

theorem State.grantAdopt_eq (hgrant : s.pair.grant = true) (hawake : s.pmu.asleep = 0) (hst : s.pair.st = 1)
    (hpeer : s.pair.peerStale = false) :
    s.grantAdopt = ((s.modPair (·.adopted s.tt.now)).bump (pairCtr 7)).sendRenew := by
  unfold State.grantAdopt Pair.adopted
  simp [hgrant, hawake, hst, hpeer]

theorem State.sendRenew_pair (s : State) : s.sendRenew.pair = { s.pair with renewIn := renewF s.pairCfg } := by
  have hcfg (msg lease leaseEnd lag : Nat) : (s.sendTab msg lease leaseEnd lag).pairCfg = s.pairCfg :=
    (s.sendTab_frame msg lease leaseEnd lag).others.appliedW rfl _
  unfold State.sendRenew
  rw [State.modPair, State.sendTab_pair]

theorem State.sendRenew_pairCounter (s : State) (c : Nat) : s.sendRenew.counter (pairCtr c) = s.counter (pairCtr c) :=
  s.sendTab_pairCounter 1 _ 0 0 c

/-- A tablet adopted by a STANDBY unit makes it TAKEOVER, counts and sends the first RENEW (R362). -/
theorem grantAdopt_takesOver (hs : Ready s) (hp : hasPair s.member = true) (hgrant : s.pair.grant = true)
    (hawake : s.pmu.asleep = 0) (hst : s.pair.st = 1) (hpeer : s.pair.peerStale = false)
    (hctr : s.counter (pairCtr 7) + 1 < ctrMax) :
    ∃ t, exec .grantAdopt s = .next t ∧ t.pair.st = 3 ∧ t.pair.grant = false ∧ t.pair.adoptAt = s.tt.now ∧
      t.pair.gen = s.pair.gen ∧ t.pair.lease = s.pair.lease ∧ t.pair.renewIn = renewF s.pairCfg ∧
      t.pair.driving = s.pair.driving ∧ t.counter (pairCtr 7) = s.counter (pairCtr 7) + 1 ∧
      LeavesAllBut [.rc, .count, .macA, .macB, .pair] s t := by
  have heq := State.grantAdopt_eq hgrant hawake hst hpeer
  have hset := s.modPair_frame (·.adopted s.tt.now)
  have hbump := (s.modPair (·.adopted s.tt.now)).countBy_others (pairCtr 7) 1
  have hpair : s.grantAdopt.pair = { s.pair.adopted s.tt.now with renewIn := renewF s.pairCfg } := by
    have hcfg : ((s.modPair (·.adopted s.tt.now)).bump (pairCtr 7)).pairCfg = s.pairCfg := hbump.appliedW rfl _
    rw [heq, State.sendRenew_pair, hcfg, State.bump, hbump.keeps .pair rfl]
    rfl
  have hcount : s.grantAdopt.counter (pairCtr 7) = s.counter (pairCtr 7) + 1 := by
    rw [heq, State.sendRenew_pairCounter, State.bump_counter (hset.stores hs.1) _ _ hctr, if_pos rfl]
    rfl
  have hfield {α : Type} (f : Pair → α) :
      f (settle s.grantAdopt).pair = f { s.pair.adopted s.tt.now with renewIn := renewF s.pairCfg } := by
    rw [settle_pair, hpair]
  exact ⟨settle s.grantAdopt, run_pair hs hp _, hfield (·.st), hfield (·.grant), hfield (·.adoptAt), hfield (·.gen),
    hfield (·.lease), hfield (·.renewIn), hfield (·.driving), hcount,
    (State.grantAdopt_follows s (fun _ h => h) (.refl s)).others.settled⟩

/-- The state of a unit whose outputs are fenced as it gives up its tablet, before its report. -/
def State.yielded (s : State) : State :=
  if s.pair.driving then ((s.modPair Pair.lapse).fenceOn).pwrDrive false else s.modPair Pair.lapse

theorem State.giveUp_eq (s : State) : s.giveUp = s.yielded.sendReport := rfl

theorem State.yielded_pair (s : State) : s.yielded.pair = s.pair.lapse := by
  unfold State.yielded
  split
  · exact (State.pwrDrive_follows (lp := [.mix, .pwr]) _ false (within (fun _ h => h) rfl)
      (State.fenceOn_follows _ (within (fun _ h => h) rfl) (.refl _))).others.keeps .pair rfl
  · rfl

theorem State.yielded_pairCfg (s : State) : s.yielded.pairCfg = s.pairCfg := by
  unfold State.yielded
  split
  · exact (State.pwrDrive_follows (lp := [.mix, .pwr]) _ false (within (fun _ h => h) rfl)
      (State.fenceOn_follows _ (within (fun _ h => h) rfl) (.refl _))).others.appliedW rfl _
  · rfl

/-- A unit that gives up its tablet stands by, or stays DARK, and counts to its next report. -/
theorem State.giveUp_pair (s : State) : s.giveUp.pair = { s.pair.lapse with renewIn := renewF s.pairCfg } := by
  have hshadowed : s.yielded.shadowed = true := by
    unfold State.shadowed State.holder
    rw [State.yielded_pair]
    unfold Pair.lapse
    by_cases h : s.pair.st = 5 <;> simp [h]
  rw [State.giveUp_eq, State.sendReport_pair hshadowed, State.yielded_pair, State.yielded_pairCfg]

/-- At E - T a holder without renewal stops driving and stands by, fenced (R364). -/
theorem selfFence_stops (hs : Ready s) (hp : hasPair s.member = true) (hh : s.holder = true)
    (hlease : s.pair.lease ≤ s.tt.now + s.T) :
    ∃ t, exec .selfFence s = .next t ∧ t.pair.st = 1 ∧ t.pair.driving = false ∧ t.pair.gen = s.pair.gen ∧ t.fenced = true ∧
      bitAt (t.rcW pairFlags) 3 = true ∧ t.event 89 = true ∧ LeavesAllBut [.rc, .count, .mix, .macA, .macB, .pwr, .pair] s t := by
  have hcheck : s.fenceCheck = s.stopDriving := by
    unfold State.fenceCheck
    simp [hh, hlease]
  have hdark : s.pair.st ≠ 5 := fun h => by simp [State.holder, h] at hh
  have hpair : s.stopDriving.pair = { s.pair.lapse with renewIn := renewF s.pairCfg } := by
    rw [State.stopDriving, State.flagRaise_pair, State.giveUp_pair]
  have hst : s.stopDriving.pair.st = 1 := by
    rw [hpair]
    exact if_neg hdark
  obtain ⟨hstores, -⟩ := s.giveUp_raises hs.1
  have hmember : hasPair s.giveUp.member = true := by
    rw [(State.giveUp_follows s (fun _ h => h) (.refl s)).member]
    exact hp
  refine ⟨settle s.stopDriving, by rw [← hcheck]; exact run_pair hs hp _, ?_, ?_, ?_, ?_,
    State.flagRaise_bit hstores (by decide) (by decide) (by decide),
    State.flagRaise_event hstores _ _ 89 (srcPresent_pair hmember (by decide)),
    (State.stopDriving_follows s (fun _ h => h) (.refl s)).others.settled⟩
  · rw [settle_pair, hst]
  · rw [settle_pair, hpair]; rfl
  · rw [settle_pair, hpair]; rfl
  · rw [State.fenced, settle_pair, hst, hpair]; rfl

end

/-- Settles O58: the unit's state moves with the tablet's life — accepted, adopted, driving, lapsed or ended by DARK — and
only the messages it sends and its flags move with it. -/
theorem tabletsGovernDriving : Obligations.TabletsGovernDriving := fun _ hs hp =>
  ⟨fun _ _ => grant_accepted hs hp, grantAdopt_takesOver hs hp, driveStart_drives hs hp, selfFence_stops hs hp,
    fun _ => releaseRx_darkens hs hp⟩

end Sys2Proof.Machine

/-! SUPPORT. The IMLUIND link: blocks good and bad, what is known of the peer, repeats, the set that becomes the mirror point,
and the loss of the link (R352, R353, R356, R357). -/

namespace Sys2Proof.Machine

/-! ### What a change of the unit's own state leaves of the pair (R353, R359) -/

section
variable {s : State}

theorem State.sendReport_pairKept (s : State) : s.sendReport.pair = { s.pair with renewIn := s.sendReport.pair.renewIn } := by
  by_cases h : s.shadowed = true
  · rw [State.sendReport_pair h]
  · unfold State.sendReport
    rw [if_neg h]

/-- A unit that turns STANDBY or STALE keeps everything but its state, the cause and the count to its next report. -/
theorem State.restale_pair (s : State) :
    s.restale.pair =
      { s.pair with st := s.restale.pair.st, why := s.restale.pair.why, renewIn := s.restale.pair.renewIn } := by
  have htold (u : State) (h : u.pair = { s.pair with st := u.pair.st, why := u.pair.why }) :
      u.sendReport.pair =
        { s.pair with st := u.sendReport.pair.st, why := u.sendReport.pair.why, renewIn := u.sendReport.pair.renewIn } := by
    rw [State.sendReport_pairKept, h]
  unfold State.restale
  split
  · dsimp only
    split
    · refine htold _ ?_
      rw [State.flagRaise_pair]
      rfl
    · split
      · exact htold _ rfl
      · rfl
  · rfl

theorem State.beginRefresh_pair (s : State) : s.beginRefresh.pair = { s.pair with refresh := s.beginRefresh.pair.refresh } := by
  unfold State.beginRefresh
  split <;> rfl

end

/-- The link's new value, flagged with its event, before the unit takes it into account. -/
def State.linkTold (s : State) (b : Bool) : State := (s.modPair (fun v => { v with link := b })).flagRaise pairFlags 0x10 90

section
variable {s : State}

theorem State.linkTold_pair (s : State) (b : Bool) : (s.linkTold b).pair = { s.pair with link := b } := State.flagRaise_pair _ _ _ _

theorem State.setLink_changes {b : Bool} (h : s.pair.link ≠ b) :
    s.setLink b = (if b then (s.linkTold b).beginRefresh else s.linkTold b).restale := if_neg h

/-- A change of the link keeps everything of the pair that is not the unit's own state or what waits to be sent. -/
theorem State.setLink_pair (s : State) (b : Bool) :
    (s.setLink b).pair = { s.pair with
      link := b, refresh := (s.setLink b).pair.refresh, st := (s.setLink b).pair.st, why := (s.setLink b).pair.why,
      renewIn := (s.setLink b).pair.renewIn } := by
  by_cases h : s.pair.link = b
  · have hsame : s.setLink b = s := if_pos h
    rw [hsame, ← h]
  · rw [State.setLink_changes h]
    cases b
    · rw [if_neg (by decide), State.restale_pair, State.linkTold_pair]
    · rw [if_pos rfl, State.restale_pair, State.beginRefresh_pair, State.linkTold_pair]

theorem State.restale_raises (s : State) : Raises s s.restale := by
  have hset := (s.modPair_frame (·.staled s.staleWhy)).raises rfl
  unfold State.restale
  refine .ite (fun _ => ?_) fun _ => .refl s
  refine hset.trans (.ite (fun _ => ?_) fun _ => .ite (fun _ => State.sendReport_raises _) fun _ => .refl _)
  exact (State.flagRaise_raises _ _ _ _).trans (State.sendReport_raises _)

/-- A link that falls is flagged with its event (R353). -/
theorem State.setLink_down (hs : StoresOk s) (hp : hasPair s.member = true) (h : s.pair.link = true) :
    (s.setLink false).pair.link = false ∧ bitAt ((s.setLink false).rcW pairFlags) 4 = true ∧
      (s.setLink false).event 90 = true := by
  have hset := s.modPair_frame (fun v => { v with link := false })
  have hdown : s.setLink false = (s.linkTold false).restale := State.setLink_changes (by rw [h]; decide)
  obtain ⟨-, hkeeps⟩ := State.restale_raises _ ((State.flagRaise_frame
    (s.modPair (fun v => { v with link := false })) pairFlags 0x10 90).stores (hset.stores hs))
  refine ⟨by rw [State.setLink_pair], ?_, ?_⟩ <;> rw [hdown]
  · exact hkeeps _ _ (State.flagRaise_bit (hset.stores hs) (by decide) (by decide) (by decide))
  · exact hkeeps.event (State.flagRaise_event (hset.stores hs) _ _ 90 (srcPresent_pair hp (by decide)))

/-! ### The loss of the link (R353) -/

variable (hs : Ready s) (hp : hasPair s.member = true)
include hs hp

theorem heartbeatLoss_effect (hlink : s.pair.link = true) (hquiet : hblossF s.pairCfg ≤ s.pair.quiet) :
    ∃ t, exec .heartbeatLoss s = .next t ∧ t.pair.link = false ∧ bitAt (t.rcW pairFlags) 4 = true ∧ t.event 90 = true ∧
      LeavesAllBut [.rc, .count, .macA, .macB, .pair] s t := by
  have hloss : s.heartbeatLoss = s.setLink false := if_pos hquiet
  obtain ⟨hdown, hflag, hevent⟩ := State.setLink_down hs.1 hp hlink
  exact ⟨settle (s.setLink false), by rw [← hloss]; exact run_pair hs hp _, hdown, hflag, hevent,
    (State.setLink_follows s false (fun _ h => h) (.refl s)).others.settled⟩

theorem pairBlockLockLoss_effect (hlink : s.pair.link = true) :
    ∃ t, exec .pairBlockLockLoss s = .next t ∧ t.pair.link = false ∧ t.pair.blockLock = false ∧
      bitAt (t.rcW pairFlags) 4 = true ∧ t.event 90 = true ∧ LeavesAllBut [.rc, .count, .macA, .macB, .pair] s t := by
  have hset := s.modPair_frame (fun v => { v with blockLock := false })
  obtain ⟨hdown, hflag, hevent⟩ := State.setLink_down (s := s.modPair (fun v => { v with blockLock := false }))
    (hset.stores hs.1) hp hlink
  have hlock : s.blockLockLoss.pair.blockLock = false := by
    unfold State.blockLockLoss
    rw [State.setLink_pair]
    rfl
  exact ⟨settle s.blockLockLoss, run_pair hs hp _, hdown, hlock, hflag, hevent,
    (State.setLink_follows _ false (fun _ h => h) (hset.widen (by decide))).others.settled⟩

end

/-! ### Blocks that arrive (R352, R353) -/

/-- The pair as a good block leaves it while the link stays as it was. -/
def Pair.heard (v : Pair) : Pair := { v with quiet := 0, blockLock := true }

/-- The pair as a good block of the set in hand leaves it, kept by its number. -/
def Pair.blockKept (v : Pair) (k : ImlRx) : Pair :=
  { v with quiet := 0, blockLock := true, rx := sset (fun _ => []) v.rx k.block k.pay }

section
variable {s : State}

theorem State.goodBlock_linked (h : s.pair.link = true) : s.goodBlock = s.modPair Pair.heard := by
  have hup : (s.modPair Pair.heard).setLink true = s.modPair Pair.heard := if_pos h
  have hgood : s.goodBlock = if (s.modPair Pair.heard).linkGood then (s.modPair Pair.heard).setLink true else s.modPair Pair.heard :=
    rfl
  rw [hgood, hup, ite_self]

theorem State.goodBlock_pair (s : State) :
    s.goodBlock.pair = { s.pair.heard with
      link := s.goodBlock.pair.link, refresh := s.goodBlock.pair.refresh, st := s.goodBlock.pair.st,
      why := s.goodBlock.pair.why, renewIn := s.goodBlock.pair.renewIn } := by
  have hgood : s.goodBlock = if (s.modPair Pair.heard).linkGood then (s.modPair Pair.heard).setLink true else s.modPair Pair.heard :=
    rfl
  rw [hgood]
  split
  · rw [State.setLink_pair]
    rfl
  · rfl

theorem imlTake_whole (bytes : List Byte) : imlTake bytes none 0 = imlParse bytes := rfl

/-- A bad block that is neither oversize nor poisoned is counted and rewound. -/
theorem State.badBlock_rewound (s : State) :
    s.badBlock none 0 = ((s.modPair (fun v => { v with blockLock := true })).bump (pairCtr 2)).bump (sdgCtr 10 2) := rfl

theorem State.mirrorRx_bad {bytes : List Byte} (hbad : imlParse bytes = none) (h : s.shadowed = false) :
    s.mirrorRx bytes none 0 = s.badBlock none 0 := by
  have hpair : (s.badBlock none 0).pair = { s.pair with blockLock := true } := by
    rw [State.badBlock_rewound, State.bump, (State.countBy_others _ _ _).keeps .pair rfl, State.bump,
      (State.countBy_others _ _ _).keeps .pair rfl]
    rfl
  have hsh : (s.badBlock none 0).shadowed = false := by
    rw [← h]
    unfold State.shadowed State.holder
    rw [hpair]
  unfold State.mirrorRx
  simp only [imlTake_whole, hbad, Option.isSome_none, Bool.false_eq_true, if_false, hsh]

/-- A good MIRROR block of the set in hand is kept, and the unit answers with its STATUS. -/
theorem State.mirrorRx_good {bytes : List Byte} {k : ImlRx} (hk : imlParse bytes = some k) (htyp : k.typ = 1)
    (hblock : k.block ≤ 11) (hsh : s.shadowed = true) (hlink : s.pair.link = true) (hset : k.set = s.pair.rxSet)
    (hdone : s.pair.rxDone = false) : s.mirrorRx bytes none 0 = (s.modPair (·.blockKept k)).sendStatus := by
  have hrxSet : (s.modPair Pair.heard).pair.rxSet = s.pair.rxSet := rfl
  have hrxDone : (s.modPair Pair.heard).pair.rxDone = s.pair.rxDone := rfl
  unfold State.mirrorRx
  simp only [imlTake_whole, hk, State.goodBlock_linked hlink, htyp, Nat.not_lt.mpr hblock, hsh, hset, hdone, hrxSet, hrxDone,
    ne_eq, not_true_eq_false, decide_false, Bool.false_and, Bool.false_or, Bool.not_true, Bool.false_eq_true, or_self, if_false]
  exact if_pos hsh

/-- The counts of two events on two counters, each below its maximum. -/
theorem State.bump_bump_spec (hs : StoresOk s) {a b : Nat} (hab : a ≠ b) (ha : s.counter a + 1 < ctrMax)
    (hb : s.counter b + 1 < ctrMax) :
    ((s.bump a).bump b).counter a = s.counter a + 1 ∧ ((s.bump a).bump b).counter b = s.counter b + 1 ∧
      CountOnly [a, b] s ((s.bump a).bump b) ∧ LeavesAllBut [.count] s ((s.bump a).bump b) := by
  have hst : StoresOk (s.bump a) := State.countBy_storesOk a 1 hs
  have hkeep : (s.bump a).counter b = s.counter b := by rw [State.bump_counter hs a b ha, if_neg hab.symm]
  have hb' : (s.bump a).counter b + 1 < ctrMax := by rw [hkeep]; exact hb
  refine ⟨?_, ?_, fun c hc => ?_, (State.bump_below ha).trans (State.bump_below hb')⟩
  · rw [State.bump_counter hst b a hb', if_neg hab, State.bump_counter hs a a ha, if_pos rfl]
  · rw [State.bump_counter hst b b hb', if_pos rfl, hkeep]
  · simp only [List.mem_cons, List.not_mem_nil, or_false, not_or] at hc
    obtain ⟨hca, hcb⟩ := hc
    rw [State.bump_counter hst b c hb', if_neg hcb, State.bump_counter hs a c ha, if_neg hca]

variable (hs : Ready s) (hp : hasPair s.member = true)
include hs hp

/-- A block with a bad CRC is counted and rewound (R352). -/
theorem mirrorBlockRx_bad {bytes : List Byte} (hbad : imlParse bytes = none) (hsh : s.shadowed = false)
    (hpair : s.counter (pairCtr 2) + 1 < ctrMax) (hsdg : s.counter (sdgCtr 10 2) + 1 < ctrMax) :
    ∃ t, exec (.mirrorBlockRx bytes none 0) s = .next t ∧ t.pair = { s.pair with blockLock := true } ∧
      t.counter (pairCtr 2) = s.counter (pairCtr 2) + 1 ∧ t.counter (sdgCtr 10 2) = s.counter (sdgCtr 10 2) + 1 ∧
      CountOnly [pairCtr 2, sdgCtr 10 2] s t ∧ LeavesAllBut [.count, .pair] s t := by
  have hset := s.modPair_frame (fun v => { v with blockLock := true })
  obtain ⟨hc2, hc10, honly, hframe⟩ := State.bump_bump_spec (hset.stores hs.1) (by decide) hpair hsdg
  rw [← State.badBlock_rewound] at hc2 hc10 honly hframe
  have hrx := State.mirrorRx_bad hbad hsh
  exact ⟨settle (s.badBlock none 0), by rw [← hrx]; exact run_pair hs hp _, hframe.keeps .pair rfl, hc2, hc10, honly,
    ((hset.others.widen (by decide)).trans (hframe.widen (by decide))).settled⟩

/-- A good MIRROR block of the set in hand is kept by number, and answered by a STATUS (R352). -/
theorem mirrorBlockRx_good {bytes : List Byte} {k : ImlRx} (hk : imlParse bytes = some k) (htyp : k.typ = 1)
    (hblock : k.block ≤ 11) (hsh : s.shadowed = true) (hlink : s.pair.link = true) (hset : k.set = s.pair.rxSet)
    (hdone : s.pair.rxDone = false) :
    ∃ t, exec (.mirrorBlockRx bytes none 0) s = .next t ∧ LeavesAllBut [.pair] s t ∧
      t.pair = { s.pair with quiet := 0, blockLock := true, rx := sset (fun _ => []) s.pair.rx k.block k.pay } ∧
      ∃ b, t.out = s.out ++ [.imluind b] ++ sentMsgs s := by
  have hrx := State.mirrorRx_good hk htyp hblock hsh hlink hset hdone
  refine ⟨_, run_pair hs hp _, ?_⟩
  rw [hrx]
  exact ⟨(s.modPair_frame (·.blockKept k)).others.settled, rfl, _, settle_out rfl rfl rfl⟩

/-- A block not acknowledged is sent again and counted (R356). -/
theorem blockRepeat_effect (b : Nat) (hh : s.holder = true) (hb : b < s.pair.blocks.length)
    (hack : s.pair.acked.getLsbD b = false) (hctr : s.counter (pairCtr 1) + 1 < ctrMax) :
    ∃ t, exec (.blockRepeat ⟨b, 0⟩) s = .next t ∧ t.out = s.out ++ [.imluind (s.mirrorOctets b true false)] ++ sentMsgs s ∧
      t.counter (pairCtr 1) = s.counter (pairCtr 1) + 1 ∧ CountOnly [pairCtr 1] s t ∧ LeavesAllBut [.count] s t := by
  have hrepeat : s.blockRepeat b 0 = (s.emit (.imluind (s.mirrorOctets b true false))).bump (pairCtr 1) := by
    unfold State.blockRepeat
    rw [if_pos (by simp [hh, hb, hack])]
    rfl
  have hemit := State.bump_eq_setCounter (s := s.emit (.imluind (s.mirrorOctets b true false))) hctr
  refine ⟨_, run_pair hs hp _, ?_⟩
  rw [hrepeat]
  refine ⟨?_, ?_, ?_, ?_⟩
  · rw [hemit]
    exact settle_out rfl rfl rfl
  · exact (State.bump_counter (s := s.emit (.imluind (s.mirrorOctets b true false))) hs.1 _ _ hctr).trans (if_pos rfl)
  · exact State.bump_countOnly (s := s.emit (.imluind (s.mirrorOctets b true false))) hs.1 hctr
  · exact (State.bump_below (s := s.emit (.imluind (s.mirrorOctets b true false))) hctr).settled

end

/-! ### STATUS from the peer (R353, R356) -/

/-- What is known of the peer, and the ticks without a good block. -/
structure Pair.SamePeer (v w : Pair) : Prop where
  peerSt : w.peerSt = v.peerSt
  peerCrc : w.peerCrc = v.peerCrc
  peerStale : w.peerStale = v.peerStale
  acked : w.acked = v.acked
  quiet : w.quiet = v.quiet

/-- The pair as a STATUS block tells it of the peer. -/
def Pair.informed (v : Pair) (k : ImlRx) : Pair :=
  { v with
    peerCrc := toWord (natBE (slice k.pay 16 4)), peerSt := natBE (slice k.pay 3 1),
    peerStale := (natBE (slice k.pay 23 1)).testBit 0,
    acked := v.acked ||| BitVec.ofNat 12 (natBE (slice k.pay 20 2)) }

theorem Pair.SamePeer.refl (v : Pair) : v.SamePeer v := ⟨rfl, rfl, rfl, rfl, rfl⟩

section
variable {v w x : Pair}

theorem Pair.SamePeer.trans (h : v.SamePeer w) (k : w.SamePeer x) : v.SamePeer x :=
  ⟨k.peerSt.trans h.peerSt, k.peerCrc.trans h.peerCrc, k.peerStale.trans h.peerStale, k.acked.trans h.acked,
    k.quiet.trans h.quiet⟩

theorem Pair.SamePeer.ite {t u : State} (c : Prop) [Decidable c] (h : v.SamePeer t.pair) (k : v.SamePeer u.pair) :
    v.SamePeer (if c then t else u).pair := by
  split
  · exact h
  · exact k

theorem Pair.SamePeer.informed (h : v.SamePeer w) (k : ImlRx) : (v.informed k).SamePeer (w.informed k) :=
  ⟨rfl, rfl, rfl, congrArg (· ||| BitVec.ofNat 12 (natBE (slice k.pay 20 2))) h.acked, h.quiet⟩

end

section
variable {s : State}

theorem State.goodBlock_samePeer (s : State) : s.pair.heard.SamePeer s.goodBlock.pair := by
  rw [State.goodBlock_pair]
  exact ⟨rfl, rfl, rfl, rfl, rfl⟩

theorem State.restale_samePeer (s : State) : s.pair.SamePeer s.restale.pair := by
  rw [State.restale_pair]
  exact ⟨rfl, rfl, rfl, rfl, rfl⟩

theorem State.beginRefresh_samePeer (s : State) : s.pair.SamePeer s.beginRefresh.pair := by
  rw [State.beginRefresh_pair]
  exact ⟨rfl, rfl, rfl, rfl, rfl⟩

theorem State.crcCompare_samePeer (s : State) (w : Word) : s.pair.SamePeer (s.crcCompare w).pair := by
  unfold State.crcCompare
  split
  · exact .refl _
  · refine .ite _ ?_ ⟨rfl, rfl, rfl, rfl, rfl⟩
    rw [State.flagRaise_pair]
    exact ⟨rfl, rfl, rfl, rfl, rfl⟩

/-- A STATUS block of the unit's own pair leaves the peer known as the block tells it. -/
theorem State.statusRx_samePeer {bytes : List Byte} {k : ImlRx} (hk : imlParse bytes = some k) (htyp : k.typ = 2)
    (hlen : k.pay.length = 32) (hpid : natBE (slice k.pay 0 2) = s.pairPid) :
    (s.pair.heard.informed k).SamePeer (s.statusRx bytes none 0).pair := by
  have hcrc := (s.goodBlock_samePeer.informed k).trans
    (State.crcCompare_samePeer (s.goodBlock.modPair (·.informed k)) (toWord (natBE (slice k.pay 16 4))))
  unfold State.statusRx
  simp only [imlTake_whole, hk, htyp, hlen, hpid, ne_eq, not_true_eq_false, or_self, if_false]
  exact (Pair.SamePeer.ite _ (hcrc.trans (State.beginRefresh_samePeer _)) hcrc).trans (State.restale_samePeer _)

/-- A STATUS block updates what is known of the peer (R353). -/
theorem statusBlockRx_effect (hs : Ready s) (hp : hasPair s.member = true) {bytes : List Byte} {k : ImlRx}
    (hk : imlParse bytes = some k) (htyp : k.typ = 2) (hlen : k.pay.length = 32) (hpid : natBE (slice k.pay 0 2) = s.pairPid) :
    ∃ t, exec (.statusBlockRx bytes none 0) s = .next t ∧ t.pair.peerSt = natBE (slice k.pay 3 1) ∧
      t.pair.peerCrc = toWord (natBE (slice k.pay 16 4)) ∧ t.pair.peerStale = (natBE (slice k.pay 23 1)).testBit 0 ∧
      t.pair.acked = s.pair.acked ||| BitVec.ofNat 12 (natBE (slice k.pay 20 2)) ∧ t.pair.quiet = 0 ∧
      LeavesAllBut [.rc, .count, .macA, .macB, .pair] s t :=
  have h := State.statusRx_samePeer hk htyp hlen hpid
  ⟨settle (s.statusRx bytes none 0), run_pair hs hp _, h.peerSt, h.peerCrc, h.peerStale, h.acked, h.quiet,
    (State.statusRx_follows s bytes none 0 (fun _ h => h) (.refl s)).others.settled⟩

/-! ### The mirror set (R357) -/

/-- The pair as a set without records leaves it, the set its mirror point. -/
def Pair.mirrored (v : Pair) (set : Nat) : Pair :=
  { v with rxDone := true, mpoint := some set, lapsed := false, refreshOut := false }

/-- A set of the fixed blocks alone replaces the standby's counts and becomes its mirror point. -/
theorem State.mirrorApply_fixed {x y : List Byte} (hsh : s.shadowed = true) (hdone : s.pair.rxDone = false)
    (hrx : s.pair.rx = [(0, x), (1, y)]) (hdue : s.pair.rxSet + 2 * s.T ≤ s.tt.now) :
    s.mirrorApply = State.restale (((s.mirrorFixed (x ++ y) (s.pair.rxSet + s.T)).bump (pairCtr 0)).modPair
      (·.mirrored s.pair.rxSet)) := by
  unfold State.mirrorApply
  simp only [hsh, hdone, hrx, hdue]
  rfl

theorem mirrorSetApply_effect (hs : Ready s) (hp : hasPair s.member = true) (x y : List Byte) (hsh : s.shadowed = true)
    (hdone : s.pair.rxDone = false) (hrx : s.pair.rx = [(0, x), (1, y)]) (hdue : s.pair.rxSet + 2 * s.T ≤ s.tt.now) :
    ∃ t, exec .mirrorSetApply s = .next t ∧ t.pair.rxDone = true ∧ t.pair.mpoint = some s.pair.rxSet ∧
      t.pair.lapsed = false ∧ t.pair.refreshOut = false ∧ (∀ a, t.stagedW a = s.stagedW a) ∧ (∀ a, t.appliedW a = s.appliedW a) ∧
      LeavesAllBut [.rc, .count, .mix, .macA, .macB, .stx, .srx, .dpc, .pwr, .pair] s t := by
  have heq := State.mirrorApply_fixed hsh hdone hrx hdue
  have hframe : Follows [.rc, .count, .mix, .macA, .macB, .stx, .srx, .dpc, .pwr, .pair] s s.mirrorApply := by
    rw [heq]
    exact State.restale_follows _ (within (fun _ h => h) rfl) (State.modPair_follows _ _ (within (fun _ h => h) rfl)
      (State.bump_follows _ _ (within (fun _ h => h) rfl) (State.mirrorFixed_follows s _ _ (within (fun _ h => h) rfl) (.refl s))))
  have hkept (f : Pair → Prop) (h : ∀ (v : Pair) (st why renewIn : Nat), f { v.mirrored s.pair.rxSet with st, why, renewIn }) :
      f s.mirrorApply.pair := by
    rw [heq, State.restale_pair]
    exact h _ _ _ _
  exact ⟨settle s.mirrorApply, run_pair hs hp _, hkept (·.rxDone = true) fun _ _ _ _ => rfl,
    hkept (·.mpoint = some s.pair.rxSet) fun _ _ _ _ => rfl, hkept (·.lapsed = false) fun _ _ _ _ => rfl,
    hkept (·.refreshOut = false) fun _ _ _ _ => rfl, hframe.others.stagedW rfl, hframe.others.appliedW rfl,
    hframe.others.settled⟩

end

/-- Settles O59: each block that arrives or is sent again, the set applied and each way the link falls, by what it leaves of
the pair. -/
theorem imluindLink : Obligations.ImluindLink := fun _ hs hp =>
  ⟨fun _ => mirrorBlockRx_bad hs hp, fun _ _ hk htyp hblock hsh hlink _ => mirrorBlockRx_good hs hp hk htyp hblock hsh hlink,
    fun _ _ => statusBlockRx_effect hs hp, blockRepeat_effect hs hp, mirrorSetApply_effect hs hp, heartbeatLoss_effect hs hp,
    pairBlockLockLoss_effect hs hp⟩

end Sys2Proof.Machine

/-! SUPPORT. Frames of the SPI slave that reach a mailbox, and errors of the sample store (R413, R427). -/

namespace Sys2Proof.Machine

section
variable {s : State}

/-! ### Frames of boot mode 001 (R427) -/

theorem State.msWrite_append (hboot : s.pmu.boot = 1) (d : Word) : s.msWrite 0x0000 d [] = s.mboxAppend 28 d false := by
  unfold State.msWrite
  rw [if_pos hboot, if_pos rfl]

theorem State.msWrite_appendEnd (hboot : s.pmu.boot = 1) (d : Word) : s.msWrite 0x0004 d [] = s.mboxAppend 28 d true := by
  unfold State.msWrite
  rw [if_pos hboot, if_neg (by decide), if_pos rfl]

theorem State.msRead_take (hboot : s.pmu.boot = 1) : s.msRead 0x0008 none = s.mboxRead 29 := by
  unfold State.msRead
  rw [if_pos hboot]
  rfl

/-- MB0 is no mailbox the host is told of (R192). -/
theorem State.mailSignal_toCore (s : State) : s.mailSignal 28 = s := if_neg (by decide)

theorem msWrite_appends (hs : Ready s) (hboot : s.pmu.boot = 1) (d : Word) (ht : (s.mboxOf 28).trim = 0)
    (hr : (s.mboxOf 28).held < mboxWords) :
    ∃ t, exec (.msWrite 0x0000 d []) s = .next t ∧
      t.mboxOf 28 = { s.mboxOf 28 with writing := (s.mboxOf 28).writing ++ [d] } ∧ OtherMailboxes 28 s t ∧
      LeavesAllBut [.mbox] s t := by
  refine setMbox_completes hs ((run_ready hs _).trans ?_)
  rw [State.msWrite_append hboot, State.mboxAppend_open ht hr]

theorem msWrite_ends (hs : Ready s) (hboot : s.pmu.boot = 1) (d : Word) (ht : (s.mboxOf 28).trim = 0)
    (hr : (s.mboxOf 28).held < mboxWords) :
    ∃ t, exec (.msWrite 0x0004 d []) s = .next t ∧ t.mboxOf 28 = (s.mboxOf 28).ended d ∧ OtherMailboxes 28 s t ∧
      LeavesAllBut [.mbox] s t := by
  refine setMbox_completes hs ((run_ready hs _).trans ?_)
  rw [State.msWrite_appendEnd hboot, State.mboxAppend_end ht hr, State.mailSignal_toCore]

theorem msRead_takes (hs : Ready s) (hboot : s.pmu.boot = 1) {w v : Word} {rest : List Word} {more : List (List Word)}
    (hitems : (s.mboxOf 29).items = (w :: v :: rest) :: more) (hflush : (s.mboxOf 29).flushing = false) :
    ∃ t, exec (.msRead 0x0008 none) s = .next t ∧ t.reply = .value w 0 ∧ (t.mboxOf 29).items = (v :: rest) :: more ∧
      (t.mboxOf 29).begun = true ∧ OtherMailboxes 29 s t ∧ LeavesAllBut [.mbox, .reply] s t := by
  have hvisible : (s.mboxOf 29).visible = (w :: v :: rest) :: more := by
    unfold Mailbox.visible
    rw [if_neg (by rw [hflush]; decide), hitems]
  obtain ⟨hreply, hmail, hothers, hframe⟩ := State.mboxRead_word hs.1 hvisible
  rw [← State.msRead_take hboot] at hreply hmail hothers hframe
  refine ⟨settle (s.msRead 0x0008 none), run_ready hs _, hreply, ?_, ?_, hothers, hframe.others.settled⟩
  · rw [settle_mboxOf, hmail]
    exact congrArg (fun l => (v :: rest) :: l.drop 1) hitems
  · rw [settle_mboxOf, hmail]
    rfl

/-! ### Errors of the sample store (R413) -/

theorem scrubError_corrected (hs : Ready s) (a : Nat) (hctr : s.counter 0x3C100 + 1 < ctrMax) :
    ∃ t, exec (.scrubError true a) s = .next t ∧ t.counter 0x3C100 = s.counter 0x3C100 + 1 ∧ bitAt (t.rcW 0x3C008) 0 = true ∧
      RcOnly [0x3C008] s t ∧ CountOnly [0x3C100] s t ∧ LeavesAllBut [.rc, .count] s t := by
  obtain ⟨hcount, hbit, hrc, honly, hframe⟩ :=
    State.bump_flag_spec hs.1 (b := 0x3C008) (m := 0x1) (k := 0) hctr (by decide) (by decide)
  exact ⟨_, run_ready hs _, hcount, hbit, hrc, honly, hframe.others.settled⟩

/-- The address of the last word that could not be corrected, before the error is counted. -/
def State.badWordAt (s : State) (a : Nat) : State :=
  { s with sst := { s.sst with ueAddr := toWord (a % 2 ^ 24 / 4 * 4 + 2 ^ 31) } }

theorem State.badWordAt_ueAddr (s : State) (a : Nat) :
    (s.badWordAt a).sst.ueAddr = toWord (a % 2 ^ 24 / 4 * 4 + 2 ^ 31) := rfl

theorem State.badWordAt_frame (s : State) (a : Nat) : Follows [.sst] s (s.badWordAt a) :=
  (Follows.refl s).mkRegs (fun _ k => k) id fun p hp => by
    cases p with
    | sst => exact absurd (List.mem_singleton_self _) hp
    | _ => rfl

theorem scrubError_uncorrected (hs : Ready s) (a : Nat) (hctr : s.counter 0x3C108 + 1 < ctrMax) :
    ∃ t, exec (.scrubError false a) s = .next t ∧ t.counter 0x3C108 = s.counter 0x3C108 + 1 ∧
      t.sst.ueAddr = toWord (a % 2 ^ 24 / 4 * 4 + 2 ^ 31) ∧ bitAt (t.rcW 0x3C008) 1 = true ∧ t.event 61 = true ∧
      RcOnly [0x3C008, evtStat 61] s t ∧ CountOnly [0x3C108] s t ∧ LeavesAllBut [.rc, .count, .sst] s t := by
  have hset := s.badWordAt_frame a
  have hcounter (b : Nat) : (s.badWordAt a).counter b = s.counter b := hset.others.counter rfl b
  obtain ⟨hbit, hevent, hcount, hrc, honly, htold⟩ := State.bump_flagRaise_spec (s := s.badWordAt a) (f := 0x3C008)
    (m := 0x2) (k := 1) (n := 61) (hset.stores hs.1) (by rwa [hcounter]) rfl (by decide) (by decide) (by decide)
  rw [hcounter] at hcount
  refine ⟨_, run_ready hs _, hcount, ?_, hbit, hevent, (hset.others.rcOnly rfl).trans hrc,
    fun b hb => (honly b hb).trans (hcounter b), ((hset.others.widen (by decide)).trans (htold.others.widen (by decide))).settled⟩
  have hsst : (s.scrubError false a).sst = (s.badWordAt a).sst := htold.others.keeps .sst rfl
  rw [settle_sst, hsst, State.badWordAt_ueAddr]

end

/-- Settles O37: each frame is the mailbox operation it names, and each error of the store its count and its flag. -/
theorem spiSlaveAndScrub : Obligations.SpiSlaveAndScrub :=
  ⟨fun _ d hs hboot ht hr => ⟨msWrite_appends hs hboot d ht hr, msWrite_ends hs hboot d ht hr⟩,
    fun _ _ _ _ _ hs hboot => msRead_takes hs hboot, fun _ a hs => scrubError_corrected hs a,
    fun _ a hs => scrubError_uncorrected hs a⟩

end Sys2Proof.Machine

/-! SUPPORT. The causes that reset the die and what lets it start (R418, R419, R423). -/

namespace Sys2Proof.Machine

/-! ### The start of the die (R418) -/

section
variable {s : State}

/-- Every supply is valid, and nothing holds the die. -/
theorem State.canStart_of_released (hsupply : s.pmu.supply &&& 0x1F = 0x1F) (hbist : s.pmu.bistFail = false)
    (hxo : s.pmu.xoLost = false) (hpor : s.pmu.por = false) (hreset : s.pmu.resetLow = false)
    (hheat : s.pmu.overheat = false) : s.canStart = true := by
  have hheld : s.held = false := by
    unfold State.held
    simp [hbist, hxo, hpor, hreset, hheat]
  unfold State.canStart
  rw [hsupply, hheld, hheat]
  rfl

/-- A die that starts has its clocks, its straps and the result of its BIST. -/
theorem State.startUp_started (h : s.canStart = true) (x : Straps) :
    (s.startUp x).syn.xoOk = true ∧ (s.startUp x).syn.spll = true ∧ (s.startUp x).pmu.boot = x.boot % 8 ∧
      (s.startUp x).pmu.bistFail = !x.bist := by
  unfold State.startUp
  rw [if_pos h]
  exact ⟨rfl, rfl, rfl, rfl⟩

/-- The start leaves the supplies, RESET_N and sleep as they were. -/
theorem State.startUp_kept (s : State) (x : Straps) : (s.startUp x).pmu.supply = s.pmu.supply ∧
    (s.startUp x).pmu.resetLow = s.pmu.resetLow ∧ (s.startUp x).pmu.asleep = s.pmu.asleep := by
  unfold State.startUp
  split <;> exact ⟨rfl, rfl, rfl⟩

theorem AfterDeviceReset.startUp {t : State} {cause : Nat} (h : AfterDeviceReset cause s t) (x : Straps) :
    AfterDeviceReset cause s (t.startUp x) := by
  obtain ⟨m, y, p, hstart, -⟩ := t.startUp_eq x
  rw [hstart]
  exact h.withSupplies m y p

theorem State.startUp_due (s : State) (x : Straps) : (s.startUp x).due = s.due := by
  unfold State.startUp
  split <;> rfl

/-! ### Power-on, the supplies and RESET_N (R418, R419, R423) -/

/-- The die in power-on reset, with VIN valid and every supply after it. -/
def State.poweredOn (s : State) (x : Straps) : State :=
  { s.deviceReset 0x1 with
    pmu := { (s.deviceReset 0x1).pmu with
      por := false, supply := ((s.deviceReset 0x1).pmu.supply &&& 0x020) ||| 0x01F ||| levels x } }

theorem bitVec_or_and_same (a b c : BitVec 10) : (a ||| c ||| b) &&& c = c := by
  ext i hi
  simpa using fun h => Or.inl (Or.inr h)

theorem powerOn_resets (x : Straps) (h : s.pmu.supply &&& 0x7 ≠ 0x7) :
    ∃ t, exec (.powerOn x) s = .next t ∧ AfterDeviceReset 0x1 s t ∧ t.pmu.supply &&& 0x1F = 0x1F ∧
      (s.pmu.resetLow = false → s.pmu.xoLost = false → s.pmu.overheat = false →
        t.syn.xoOk = true ∧ t.syn.spll = true ∧ t.pmu.boot = x.boot % 8 ∧ t.pmu.bistFail = !x.bist) := by
  have hon : s.powerOn x = (s.poweredOn x).startUp x := if_neg h
  have hsupply : (s.poweredOn x).pmu.supply &&& 0x1F = 0x1F := bitVec_or_and_same _ _ _
  obtain ⟨hkept, -, -⟩ := (s.poweredOn x).startUp_kept x
  refine ⟨settle ((s.poweredOn x).startUp x), by rw [← hon]; rfl, ?_⟩
  rw [settle_nothingDue ((s.poweredOn x).startUp_due x), hkept]
  have hafter : AfterDeviceReset 0x1 s (s.poweredOn x) := s.deviceReset_after 0x1
  refine ⟨hafter.startUp x, hsupply, fun hreset hxo hheat => State.startUp_started ?_ x⟩
  exact State.canStart_of_released hsupply (Bool.and_false _) hxo rfl hreset hheat

theorem vinInvalid_resets {k : Nat} (hk : k < 3) :
    ∃ t, exec (.vinInvalid k) s = .next t ∧ AfterDeviceReset (if s.pmu.asleep = 2 then 0x11 else 0x1) s t ∧
      t.pmu.por = true ∧ t.pmu.supply.getLsbD k = false ∧ t.syn = synReset := by
  refine ⟨settle (s.vinInvalid k), rfl, ?_⟩
  rw [settle_nothingDue rfl]
  refine ⟨s.deviceReset_after (s.wakeCause 0x1), rfl, ?_, rfl⟩
  interval_cases k <;> simp [State.vinInvalid]

theorem resetN_resets {us : Nat} (seen : Bool) (hlow : s.pmu.resetLow = false) (hus : 10 ≤ us) :
    ∃ t, exec (.resetN us seen) s = .next t ∧ AfterDeviceReset (if s.pmu.asleep = 2 then 0x12 else 0x2) s t ∧
      t.pmu.resetLow = true ∧ t.syn = synReset := by
  have hreset : s.resetN us seen = { s.deviceReset (s.wakeCause 0x2) with
      pmu := { (s.deviceReset (s.wakeCause 0x2)).pmu with resetLow := true } } := by
    unfold State.resetN
    rw [if_neg (by rw [hlow]; decide), if_pos (.inl hus)]
  refine ⟨settle (s.resetN us seen), rfl, ?_⟩
  rw [hreset, settle_nothingDue rfl]
  exact ⟨s.deviceReset_after (s.wakeCause 0x2), rfl, rfl⟩

/-- A pulse under 1 µs is ignored (R419). -/
theorem resetN_ignores {us : Nat} (seen : Bool) (hus : us < 1) :
    ∃ t, exec (.resetN us seen) s = .next t ∧ LeavesAllBut [] s t := by
  have hsame : s.resetN us seen = s := by
    unfold State.resetN
    rw [if_neg (c := 10 ≤ us ∨ _) (by omega), ite_self]
  refine ⟨settle (s.resetN us seen), rfl, ?_⟩
  rw [hsame]
  exact (Follows.refl s).others.settled

theorem resetNRelease_starts (x : Straps) (hlow : s.pmu.resetLow = true) (hsupply : s.pmu.supply &&& 0x1F = 0x1F)
    (hxo : s.pmu.xoLost = false) (hheat : s.pmu.overheat = false) (hpor : s.pmu.por = false) (hbist : s.pmu.bistFail = false) :
    ∃ t, exec (.resetNRelease x) s = .next t ∧ t.pmu.resetLow = false ∧ t.pmu.boot = x.boot % 8 ∧ t.syn.spll = true ∧
      LeavesAllBut [.syn, .pwr, .pmu] s t := by
  have hrelease : s.resetRelease x = State.startUp { s with pmu := { s.pmu with resetLow := false } } x := if_pos hlow
  have hcan : State.canStart { s with pmu := { s.pmu with resetLow := false } } = true :=
    State.canStart_of_released hsupply hbist hxo hpor rfl hheat
  obtain ⟨-, hspll, hboot, -⟩ := State.startUp_started hcan x
  obtain ⟨-, hreset, -⟩ := State.startUp_kept { s with pmu := { s.pmu with resetLow := false } } x
  rw [← hrelease] at hspll hboot hreset
  exact ⟨settle (s.resetRelease x), rfl, hreset, hboot, hspll,
    (State.resetRelease_follows s x (fun _ h => h) (.refl s)).others.settled⟩

end

/-- Settles O33: a cause resets the die, and a start is the one operation whose guard is what still holds it. -/
theorem deviceResetCauses : Obligations.DeviceResetCauses :=
  ⟨fun _ x h => powerOn_resets x h, fun _ _ hk => vinInvalid_resets hk, fun _ _ seen hlow hus => resetN_resets seen hlow hus,
    fun _ _ seen hus => resetN_ignores seen hus,
    fun _ x hlow hsupply hxo hheat hpor hbist => resetNRelease_starts x hlow hsupply hxo hheat hpor hbist⟩

end Sys2Proof.Machine

/-! SUPPORT. The VIO banks, sleep and wake (R423, R430, R431, R435). -/

namespace Sys2Proof.Machine

/-! ### The VIO banks (R423, R435) -/

theorem vioBit_getLsbD {b k : Nat} (hb : b < 2) (hk : k < 10) : (vioBit b).getLsbD k = decide (3 + b = k) := by
  unfold vioBit
  rw [BitVec.getLsbD_ofNat, Nat.testBit_two_pow, Nat.mod_eq_of_lt hb]
  simp [hk]

/-- A bank that shows its bit among the supplies has not fallen. -/
theorem and_vioBit_eq_zero {b : Nat} (hb : b < 2) (x : BitVec 10) : x &&& vioBit b = 0 ↔ x.getLsbD (3 + b) = false := by
  constructor
  · intro h
    have hbit := congrArg (BitVec.getLsbD · (3 + b)) h
    simpa [vioBit_getLsbD hb (show 3 + b < 10 by omega)] using hbit
  · intro h
    refine BitVec.eq_of_getLsbD_eq fun i hi => ?_
    rw [BitVec.getLsbD_and, vioBit_getLsbD hb hi]
    by_cases e : 3 + b = i
    · rw [← e, h]
      simp
    · simp [e]

section
variable {s : State} {b : Nat}

/-- A bank falls and shows it (R423). -/
theorem vioFall_effect (hs : StoresOk s) (hb : b < 2) (hup : s.pmu.supply.getLsbD (3 + b) = true) :
    ∃ t, exec (.vioFall b) s = .next t ∧ t.pmu.supply.getLsbD (3 + b) = false ∧
      (∀ k < 10, k ≠ 3 + b → t.pmu.supply.getLsbD k = s.pmu.supply.getLsbD k) ∧ bitAt (t.rcW 0x3004) 1 = true ∧
      t.event 95 = true ∧ RcOnly [0x3004, evtStat 95] s t ∧ LeavesAllBut [.rc, .pmu] s t := by
  have hfall : s.vioFall b =
      State.flagRaise { s with pmu := { s.pmu with supply := s.pmu.supply &&& ~~~(vioBit b) } } 0x3004 0x2 95 :=
    if_neg fun h => by rw [and_vioBit_eq_zero hb, hup] at h; exact absurd h (by decide)
  have hset := s.withPmu_frame { s.pmu with supply := s.pmu.supply &&& ~~~(vioBit b) }
  have htold := State.flagRaise_others { s with pmu := { s.pmu with supply := s.pmu.supply &&& ~~~(vioBit b) } } 0x3004 0x2 95
  have hok := hset.stores hs
  have hsupply : (settle (s.vioFall b)).pmu.supply = s.pmu.supply &&& ~~~(vioBit b) := by
    rw [settle_pmu, hfall, htold.keeps .pmu rfl]
  refine ⟨settle (s.vioFall b), rfl, ?_, fun k hk hne => ?_, ?_⟩
  · rw [hsupply, BitVec.getLsbD_and, BitVec.getLsbD_not, vioBit_getLsbD hb (by omega)]
    simp
  · rw [hsupply, BitVec.getLsbD_and, BitVec.getLsbD_not, vioBit_getLsbD hb hk]
    simp [hk, hne.symm]
  · rw [hfall]
    exact ⟨State.flagRaise_bit hok (by decide) (by decide) (by decide), State.flagRaise_event hok _ _ 95 rfl,
      (hset.others.rcOnly rfl).flagRaise (by simp) (by simp),
      ((hset.others.widen (by decide)).trans (htold.widen (by decide))).settled⟩

/-- The level of a bank's pins, as sampled. -/
def levelBit (b : Nat) : BitVec 10 := BitVec.ofNat 10 (2 ^ (8 + b % 2))

theorem levelBit_getLsbD {k : Nat} (hb : b < 2) (hk : k < 10) : (levelBit b).getLsbD k = decide (8 + b = k) := by
  unfold levelBit
  rw [BitVec.getLsbD_ofNat, Nat.testBit_two_pow, Nat.mod_eq_of_lt hb]
  simp [hk]

/-- The supplies as a bank that recovers leaves them, its level sampled again (R435). -/
def recoveredSupply (x : BitVec 10) (b : Nat) (v : Bool) : BitVec 10 :=
  if v then x ||| vioBit b ||| levelBit b else (x ||| vioBit b) &&& ~~~(levelBit b)

theorem recoveredSupply_getLsbD {k : Nat} (hb : b < 2) (hk : k < 10) (x : BitVec 10) (v : Bool) :
    (recoveredSupply x b v).getLsbD k =
      if 8 + b = k then v else x.getLsbD k || decide (3 + b = k) := by
  unfold recoveredSupply
  cases v
  · rw [if_neg (by decide), BitVec.getLsbD_and, BitVec.getLsbD_or, BitVec.getLsbD_not, vioBit_getLsbD hb hk,
      levelBit_getLsbD hb hk]
    by_cases h : 8 + b = k <;> simp [h, hk]
  · rw [if_pos rfl, BitVec.getLsbD_or, BitVec.getLsbD_or, vioBit_getLsbD hb hk, levelBit_getLsbD hb hk]
    by_cases h : 8 + b = k <;> simp [h]

theorem vioRecovery_effect (v : Bool) (hb : b < 2) (hdown : s.pmu.supply.getLsbD (3 + b) = false) :
    ∃ t, exec (.vioRecovery b v) s = .next t ∧ t.pmu.supply.getLsbD (3 + b) = true ∧ t.pmu.supply.getLsbD (8 + b) = v ∧
      LeavesAllBut [.pmu] s t := by
  have hrecover : s.vioRecover b v = { s with pmu := { s.pmu with supply := recoveredSupply s.pmu.supply b v } } :=
    if_neg fun h => h ((and_vioBit_eq_zero hb _).mpr hdown)
  refine ⟨settle (s.vioRecover b v), rfl, ?_⟩
  rw [hrecover]
  refine ⟨(recoveredSupply_getLsbD hb (by omega) _ v).trans ?_, (recoveredSupply_getLsbD hb (by omega) _ v).trans (if_pos rfl),
    (s.withPmu_frame _).others.settled⟩
  rw [if_neg (by omega), decide_eq_true rfl, Bool.or_true]

/-! ### Sleep and wake (R430, R431) -/

theorem sleepEnter_asks (q : Req) (hd : s.down = false) :
    ∃ t, exec (.sleepEnter q) s = .next t ∧ t.pmu = { s.pmu with sleepReq := true } ∧ LeavesAllBut [.pmu] s t := by
  refine ⟨_, run_up hd _, ?_⟩
  rw [State.ctl_pmu]
  exact ⟨rfl, (s.withPmu_frame _).others.settled⟩

/-- A sleeping part wakes by a pin chosen for it (R431). -/
theorem wakeGpio_restarts {k : Nat} (x : Straps) (hheld : s.held = false) (hasleep : s.pmu.asleep = 2) (hk : k < 16)
    (hpins : bitAt (s.rwW 0x3014) 2 = true) (hpin : bitAt (s.rwW 0x304C) k = true) :
    ∃ t, exec (.wake (.gpio k) x) s = .next t ∧ AfterDeviceReset 0x10 s t ∧ t.pmu.asleep = 0 := by
  have hwake : s.wake (.gpio k) x = ((s.gpioEdge k).deviceReset 0x10).startUp x := by
    unfold State.wake
    simp only [hpins, hk, hpin, hasleep]
    rfl
  have hafter : AfterDeviceReset 0x10 s ((s.gpioEdge k).deviceReset 0x10) := (s.gpioEdge k).deviceReset_after 0x10
  obtain ⟨-, -, hasleep'⟩ := ((s.gpioEdge k).deviceReset 0x10).startUp_kept x
  refine ⟨settle (s.wake (.gpio k) x), runPowered_held hheld _, ?_⟩
  rw [hwake, settle_nothingDue (State.startUp_due _ x)]
  exact ⟨hafter.startUp x, hasleep'⟩

/-- A part woken by a port, the record of the match kept, before it starts. -/
def State.wokenByPort (s : State) (p : Nat) : State :=
  ((s.deviceReset 0x10).setRc (macBase p + 0x48) (s.rcW (macBase p + 0x48))).setRc (macBase p + 0xC)
    (s.rcW (macBase p + 0xC) &&& 0x40)

/-- The RC words of a woken part: the cause of its reset, the record of the port that matched, and reset words (R431). -/
theorem State.wokenByPort_rcW (s : State) (p a : Nat) : (s.wokenByPort p).rcW a =
    if a = macBase p + 0xC then s.rcW (macBase p + 0xC) &&& 0x40
    else if a = macBase p + 0x48 then s.rcW (macBase p + 0x48) else (s.deviceReset 0x10).rcW a := by
  have hreset : swf resetWord (s.deviceReset 0x10).reg.rc = true := swf_sset rfl _ _
  have hrecord : swf resetWord ((s.deviceReset 0x10).setRc (macBase p + 0x48) (s.rcW (macBase p + 0x48))).reg.rc = true :=
    swf_sset hreset _ _
  refine (sget_sset hrecord _ a _).trans ?_
  congr 1
  exact sget_sset hreset _ a _

theorem State.startUp_reg (s : State) (x : Straps) : (s.startUp x).reg = s.reg := by
  unfold State.startUp
  split <;> rfl

/-- A sleeping part wakes by a port chosen for it whose pattern matched, and the match stays on record (R431). -/
theorem wakePort_restarts {p : Nat} (x : Straps) (hheld : s.held = false) (hasleep : s.pmu.asleep = 2) (hp : p < 2)
    (hport : bitAt (s.rwW 0x3014) p = true) (hmatch : bitAt (s.rcW (macBase p + 0x48)) 8 = true) :
    ∃ t, exec (.wake (.port p) x) s = .next t ∧ t.pmu.asleep = 0 ∧ t.reg.staged = [] ∧ t.reg.applied = [] ∧
      t.rcW 0x300C = (if s.syn.spll then 0 else s.rcW 0x300C) ||| 0x10 ∧ t.rcW (macBase p + 0x48) = s.rcW (macBase p + 0x48) ∧
      t.rcW (macBase p + 0xC) = s.rcW (macBase p + 0xC) &&& 0x40 := by
  have hwake : s.wake (.port p) x = (s.wokenByPort p).startUp x := if_pos ⟨hasleep, hp, hport, hmatch⟩
  obtain ⟨-, -, hasleep'⟩ := (s.wokenByPort p).startUp_kept x
  have hrc (a : Nat) : (settle ((s.wokenByPort p).startUp x)).rcW a = (s.wokenByPort p).rcW a := by
    rw [settle_nothingDue (State.startUp_due _ x), State.rcW, State.startUp_reg, State.rcW]
  obtain ⟨-, -, hcause, -⟩ := s.deviceReset_after 0x10
  refine ⟨settle ((s.wokenByPort p).startUp x), by rw [← hwake]; exact runPowered_held hheld _, ?_, ?_, ?_, ?_, ?_, ?_⟩
  · exact hasleep'
  · rw [settle_nothingDue (State.startUp_due _ x), State.startUp_reg]
    rfl
  · rw [settle_nothingDue (State.startUp_due _ x), State.startUp_reg]
    rfl
  · rw [hrc, State.wokenByPort_rcW, if_neg (by unfold macBase; omega), if_neg (by unfold macBase; omega), hcause, if_pos rfl]
    rfl
  · rw [hrc, State.wokenByPort_rcW, if_neg (by omega), if_pos rfl]
  · rw [hrc, State.wokenByPort_rcW, if_pos rfl]

end

/-- Settles O35: a bank's bit among the supplies falls and comes back, and a wake is a device reset that keeps the record of
what woke the part. -/
theorem banksSleepAndWake : Obligations.BanksSleepAndWake :=
  ⟨fun _ _ hs hb hup => vioFall_effect hs hb hup, fun _ _ v hb hdown => vioRecovery_effect v hb hdown,
    fun _ q hd => sleepEnter_asks q hd,
    fun _ _ x hheld hasleep hk hpins hpin => wakeGpio_restarts x hheld hasleep hk hpins hpin,
    fun _ _ x hheld hasleep hp hport hmatch => wakePort_restarts x hheld hasleep hp hport hmatch⟩

end Sys2Proof.Machine
